-- ==== Sys2Proof/Word.lean ====
section
/-!
DEFINITION. The word types of the Weasadex port complex and their plainest arithmetic. An object value occupies one
8-byte slot (R56), so a `Word` has 64 bits. Frames and stored octets are lists of bytes, first byte first.
-/
namespace Sys2Proof

/-- One octet of a frame, of a protocol data unit or of host memory. -/
abbrev Byte := BitVec 8

/-- One object slot (R56). -/
abbrev Word := BitVec 64

/-- A frame or a part of one, the first byte on the wire first. -/
abbrev Bytes := List Byte

namespace Word

/-- The word that holds the low 64 bits of `n`. -/
def ofNat (n : Nat) : Word := BitVec.ofNat 64 n

/-- The unsigned value of bits `[lo+n-1 : lo]`. -/
def bits (w : Word) (lo n : Nat) : Nat := (w.toNat >>> lo) % 2 ^ n

/-- Bit `i`. -/
def bit (w : Word) (i : Nat) : Bool := w.getLsbD i

/-- The word with one bit set. -/
def one (i : Nat) : Word := BitVec.ofNat 64 (2 ^ i)

/-- The word with bit `i` made `b`. -/
def setBit (w : Word) (i : Nat) (b : Bool) : Word := if b then w ||| one i else w &&& ~~~ (one i)

/-- The word with bits `[lo+n-1 : lo]` replaced by the low bits of `v`. -/
def setBits (w : Word) (lo n v : Nat) : Word :=
  (w &&& ~~~ (BitVec.ofNat 64 ((2 ^ n - 1) <<< lo))) ||| BitVec.ofNat 64 ((v % 2 ^ n) <<< lo)

/-- 1 for true (the encoding of BOOL, R56). -/
def ofBool (b : Bool) : Word := if b then 1 else 0

end Word
end Sys2Proof
end

