-- ==== Sys2Proof/Syntax.lean ====
section
/-! DEFINITION. The commands of the port complex and their operands. -/
namespace Sys2Proof.Machine

/-- The way a request reached the dictionary engine (R61); `hinge` is the mirror stream and the resync (R91). -/
inductive Transport
  | window | can | inband | hinge
  deriving DecidableEq, Repr

/-- A key image as a LOAD leaves it (R211, R212): suite, key bytes and salt. -/
structure KeyImg where
  suite : Nat
  key : Bytes
  salt : Bytes
  deriving DecidableEq, Repr

/-- End status of a frame (R25). -/
inductive End
  | good | stomp | trunc
  deriving DecidableEq, Repr

/-- One 64-byte segment of the switch-core interfaces (R25, R26). -/
structure Segment where
  port : Nat
  data : Bytes
  sof : Bool
  eof : Bool
  fin : End
  reason : Nat
  metaWord : BitVec 192
  deriving DecidableEq, Repr

/-- The memories whose errors a command may bring to light. -/
inductive Memory
  /-- a way of the Doorlist (R259) -/
  | door
  /-- a meter row, a VLAN-map row (R285) -/
  | meter | vlan
  /-- a caliper context, a flow-match rule (R424) -/
  | context | rule
  /-- a key master copy, by 4,096 · cluster + slot (R216) -/
  | key
  deriving DecidableEq, Repr

/-- An error found in a memory row: the row, for the Doorlist the syndrome, for a key copy 0 where it is corrected. -/
structure Upset where
  mem : Memory
  row : Nat
  synd : Nat := 0
  deriving DecidableEq, Repr

/-- What the wire, the pipeline and the memories do to one received frame beside its bytes (assumption 20). -/
structure RxEnv where
  /-- the PCS marked an error character or an error block (R137) -/
  codeErr : Bool := false
  /-- grains from the first bit after the start delimiter to the frame's end (R148) -/
  back : Nat := 0
  /-- how far the frame had come when its end was known: 0 not past MACsec, 1 admitted to the skid, 2 a segment had been
  delivered to the switch core (R136) -/
  reach : Nat := 2
  /-- grains from the SecTAG parse to the frame's end; none: the parse came with the frame's first bytes (R176, R187) -/
  parsed : Option Nat := none
  /-- NEXT_PN at the SecTAG parse, where another frame of the SA has ended since (R188, R189) -/
  parsePn : Option Nat := none
  /-- the key the frame latched at its parse, where the slot has changed since (R202) -/
  latched : Option KeyImg := none
  /-- that change was an erase, which landed when so many bytes from the destination address on had reached MACsec (R198, R202) -/
  erased : Option Nat := none
  /-- bytes the hold buffer held for other frames when this one was held to its end (R205) -/
  holdUse : Nat := 0
  /-- bytes of the frame the meter stage held at its decision (R274) -/
  held : Nat := 64
  /-- errors found in the rows the frame's stages read -/
  upsets : List Upset := []
  /-- FEC codewords corrected and found uncorrectable since the last frame (R127) -/
  fecFixed : Nat := 0
  fecBad : Nat := 0
  deriving DecidableEq, Repr

/-- A frame being received as the link or a reset cuts it: start delimiter and the bytes that have arrived (R137). -/
structure CutFrame where
  sfd : Nat
  bytes : Bytes
  env : RxEnv
  deriving DecidableEq, Repr

/-- A Hinge HELLO (R432). -/
structure Hello where
  versions : Nat
  stepping : Nat
  deviceId : Nat
  role : Nat
  adopted : Bool
  serial : Word
  /-- IDENTITY_PUB -/
  pub : Bytes
  nonce : Bytes
  /-- its send time -/
  sent : Word
  deriving DecidableEq, Repr

/-- What one write or row operation of the mirror stream carries (R93, R437, R438). -/
inductive MirrorOp
  /-- a write; with the change time that a CONFIG_CHANGE or an opening GATE_ENABLE forwards (R350) -/
  | obj (idx sub : Nat) (v : Word) (tc : Option Nat)
  /-- both slots of a TIME84 object as a resync item; `sub` is the second -/
  | time84 (idx sub : Nat) (v : BitVec 84)
  /-- a COMMIT or DATA row -/
  | row (idx row : Nat) (image : List Word)
  /-- a row strobe -/
  | strobe (idx sub row : Nat)
  /-- a key-slot row: SUITE and the image wrapped under the Hinge key, none for an ERASE -/
  | key (idx row suite : Nat) (wrapped : Option Bytes)
  deriving DecidableEq, Repr

/-- The PN part of a record (R445, R446). -/
structure PnInfo where
  valid : Bool := false
  an : Nat := 0
  gen : Nat := 0
  pn : Nat := 0
  deriving DecidableEq, Repr

/-- An EXPRESS_RECORD (R446). -/
structure ExpressRec where
  port : Nat
  cycle : Nat
  sum : Nat
  count : Nat
  pn : PnInfo
  deriving DecidableEq, Repr

/-- A BULK_RECORD (R446). -/
structure BulkRec where
  port : Nat
  interval : Nat
  frames : Nat
  octets : Nat
  pn : PnInfo
  deriving DecidableEq, Repr

/-- What travels in the mirror stream under a stream sequence number (R437, R441, R442, R350). -/
inductive StreamMsg
  | write (op : MirrorOp)
  | latchMark (port tc : Nat)
  /-- a digest mark; `final` ends a resync -/
  | digestMark (digest : Word) (final : Bool)
  | item (op : MirrorOp)
  deriving DecidableEq, Repr

/-- A master's way to the dictionary engine (R61). -/
inductive Master
  | window | can | inband
  deriving DecidableEq, Repr

/-- Where a BDP request comes from: a CAN FD frame by identifier and data (R80), with the error frames sent or received since the
frame before it (R67), or the head of the in-band queue (R88). -/
inductive BdpSrc
  | can (id : Nat) (data : Bytes) (errs : Nat)
  | inband
  deriving DecidableEq, Repr

/-- Which transaction of a ring an error response answers (R494). -/
inductive BusSite
  /-- the fetch of the next descriptor -/
  | fetch
  /-- the STATUS write of the descriptor at an index -/
  | status (index : Nat)
  /-- a data transaction: the descriptor, counted from the first of its frame, the bytes before the failing beat, and
  whether the beat is a write -/
  | data (k off : Nat) (write : Bool)
  deriving DecidableEq, Repr

/-- What a management tick finds: key master copies whose error the sweep reads (R216), whether the CAN FD bus is free for the health
word (R82), the CAN FD error frames since the last tick or request (R67), and whether ref_clk is present (R105). -/
structure TickEnv where
  upsets : List Upset := []
  canFree : Bool := true
  canErrs : Nat := 0
  refPresent : Bool := true
  deriving DecidableEq, Repr

/-- Raw bits of the entropy source that a health test failed on; `apt`: the adaptive proportion test, else repetition count (R228). -/
structure RawTest where
  apt : Bool
  bits : List Bool
  deriving DecidableEq, Repr

/-- The raw bits of a start-up window, and the CLK_ROOT cycles since the command before (R228). -/
structure RawWindow where
  dt : Nat
  bits : List Bool
  deriving DecidableEq, Repr

/-- A memory ring and how many beats of 64 bytes of its descriptor are moved, 0: all (R493). -/
structure RingBeats where
  ring : Nat
  beats : Nat := 0
  deriving DecidableEq, Repr

/-- The end of a frame on a port's wire; `ecc`: the transmit buffer had an uncorrectable error in a segment as the wire read it
(R400). -/
structure WireEnd where
  port : Nat
  ecc : Bool := false
  deriving DecidableEq, Repr

end Sys2Proof.Machine

namespace Sys2Proof
open Machine

/-- The commands: one constructor per row of the table of operations and events. The first operand `dt` of each is the number of
CLK_ROOT cycles since the command before it; `via` is the way a master reached the dictionary engine. Ports are numbered
0–1,023, clusters 0–15, rings 0–255, targets 0–31. -/
inductive Instr
  /-- POWER_ON_RESET (R553). por_n rises and the AO sequencer runs the cold bring-up without any master, through AO, TIME,
  CORE and READY. -/
  | powerOnReset (dt : Nat)
  /-- LANE_LOCK_LOSS (R131). lane_rx_lock goes low on a lane of a port, so LINK_STATE goes to DOWN. -/
  | laneLockLoss (dt lane : Nat) (cut : Option CutFrame)
  /-- LANE_LOCK (R131). lane_rx_lock is high on every lane of a port in DOWN, so LINK_STATE goes to ALIGNING. -/
  | laneLock (dt lane : Nat)
  /-- ALIGNMENT_LOCK (R131). Block lock, alignment markers, deskew and FEC lock complete, so LINK_STATE goes to UP and
  preemption verification may start. -/
  | alignmentLock (dt p : Nat)
  /-- ALIGN_FAIL (R128). A port has spent 2^26 gr of run time in ALIGNING, which sets the ALIGN_FAIL cause. -/
  | alignFail (dt p : Nat)
  /-- ALIGNMENT_LOSS (R131). Alignment loss, hi_ber or local fault on an UP or REMOTE_FAULT port returns it to ALIGNING and
  cuts any frame in progress. -/
  | alignmentLoss (dt p : Nat) (cut : Option CutFrame)
  /-- REMOTE_FAULT (R131). Remote fault ordered sets are received on an UP port, so LINK_STATE goes to REMOTE_FAULT. -/
  | remoteFault (dt p : Nat) (cut : Option CutFrame)
  /-- REMOTE_FAULT_CLEAR (R131). 128 columns arrive without a fault ordered set, so LINK_STATE returns from REMOTE_FAULT to
  UP. -/
  | remoteFaultClear (dt p : Nat)
  /-- FLUSH_ON_DOWN (R260). The Doorlist walk that removes a port's LEARNED entries after its link left UP runs, queued behind
  any flush in progress. -/
  | flushOnDown (dt p : Nat)
  /-- RX_FRAME (R134). A data frame is received on a port and passes the receive stages: size and FCS checks, tags, MACsec,
  calipers, Doorlist, meters and the ingress skid. -/
  | rxFrame (dt p sfd : Nat) (bytes : Bytes) (env : RxEnv)
  /-- INGRESS_SKID_SEND (R27). Held segments leave the ingress skid in order towards the switch core when ing_ready allows. -/
  | ingressSkidSend (dt c n : Nat) (ready : Bool)
  /-- MAC_CONTROL_FRAME (R151). A MAC control frame that is not a valid PAUSE or PFC frame for the port is consumed, counted
  and discarded. -/
  | macControlFrame (dt p : Nat) (bytes : Bytes) (env : RxEnv)
  /-- PAUSE_FRAME (R152). A valid PAUSE frame is received and loads, replaces or ends the port's pause timer. -/
  | pauseFrame (dt p : Nat) (bytes : Bytes) (env : RxEnv)
  /-- PFC_FRAME (R152). A valid PFC frame is received and loads, replaces or ends the timers of the priorities it enables. -/
  | pfcFrame (dt p : Nat) (bytes : Bytes) (env : RxEnv)
  /-- PAUSE_TIMER_EXPIRY (R154). A pause timer runs out and its traffic classes resume. -/
  | pauseTimerExpiry (dt p k : Nat)
  /-- PREEMPT_FRAGMENT_RX (R157). A start or continuation fragment of a preemptable frame is received and reassembled, or ends
  in a reassembly error. -/
  | preemptFragmentRx (dt p sfd : Nat) (bytes : Bytes) (env : RxEnv)
  /-- REASM_TIMEOUT (R158). No continuation arrives within REASM_TIMEOUT of run time, so the held frame ends as a reassembly
  error. -/
  | reasmTimeout (dt p : Nat)
  /-- VERIFY_FRAME_RX (R375). A verify frame with a good mCRC is received and one respond frame is sent at the next boundary. -/
  | verifyFrameRx (dt p : Nat) (body mcrc : Bytes)
  /-- RESPOND_FRAME_RX (R374). A respond frame with a good mCRC is received during VERIFYING, so VERIFY_STATUS goes to
  SUCCEEDED. -/
  | respondFrameRx (dt p : Nat) (body mcrc : Bytes)
  /-- VERIFY_TIMEOUT (R374). VERIFY_TIME passes after a verify frame, so another is sent or, after the third, VERIFY_STATUS
  goes to FAILED. -/
  | verifyTimeout (dt p : Nat)
  /-- INBAND_REQUEST (R85). An in-band BDP frame arrives on INBAND_PORT, is tag- and replay-checked and is queued for the
  dictionary engine. -/
  | inbandRequest (dt p : Nat) (bytes : Bytes) (env : RxEnv)
  /-- BDP_READ (R77). A BDP READ request reads consecutive subindexes and is answered with READ_RSP. -/
  | bdpRead (dt : Nat) (src : BdpSrc)
  /-- BDP_WRITE (R77). A BDP WRITE request writes consecutive subindexes and is answered with WRITE_RSP. -/
  | bdpWrite (dt : Nat) (src : BdpSrc)
  /-- BDP_HELLO (R78). A BDP HELLO negotiates the version and opens a session, answered with HELLO_RSP. -/
  | bdpHello (dt : Nat) (src : BdpSrc)
  /-- BUS_OFF (R83). The CAN FD controller goes bus-off and recovers as ISO 11898-1 prescribes, keeping sessions open. -/
  | busOff (dt : Nat)
  /-- CAN_WAKE_FRAME (R550). A CAN FD request addressed to NODE_ADDR arrives during complex sleep and wakes every domain. -/
  | canWakeFrame (dt id : Nat)
  /-- WINDOW_ACCESS_ERROR (R37). A register-window access that is not an aligned 8-byte access gets an error response and is
  counted. -/
  | windowAccessError (dt : Nat)
  /-- DICT_WRITE (R61). A write to an object without behaviour of its own is accepted or refused by the dictionary engine and,
  if accepted, forwarded to the twin when mirrored. -/
  | dictWrite (dt : Nat) (via : Master) (idx sub : Nat) (v : Word)
  /-- WRITE_LANDING (R557). An accepted write reaches its unit at the end of the following tick, is checked again and lands at
  its data-plane point or is refused. -/
  | writeLanding (dt : Nat) (cuts : List (Nat × CutFrame))
  /-- TIME84_READ_LATCH (R57). A read of slot s of a TIME84 object latches slot s+1 for the following read. -/
  | time84ReadLatch (dt : Nat) (via : Master) (idx sub : Nat)
  /-- TIME_SNAP (R105). A read of TIME_SNAP latches device time within 320 ns. -/
  | timeSnap (dt : Nat)
  /-- ROW_SELECT (R69). A write of ROW loads the selected row's fields into the staging slots and resets the DATA offset. -/
  | rowSelect (dt : Nat) (via : Master) (c t row : Nat)
  /-- COMMIT (R70). A table-window COMMIT copies the staging slots to the selected row as one change, or is refused. -/
  | commit (dt : Nat) (via : Master) (c t : Nat)
  /-- DATA_ROW (R71). A complete row image streamed through DATA commits to ROW, then ROW advances. -/
  | dataRow (dt : Nat) (via : Master) (c t : Nat) (image : List Word)
  /-- DOOR_INSERT (R246). A Doorlist INSERT places or replaces the entry for its key, relocating entries if needed, or fails
  TABLE_FULL. -/
  | doorInsert (dt : Nat) (via : Master) (c : Nat) (mac ctrl : Word)
  /-- DOOR_DELETE (R244). A Doorlist DELETE removes the entry with the key, of any type. -/
  | doorDelete (dt : Nat) (via : Master) (c : Nat) (mac ctrl : Word)
  /-- LEARN_INSERT (R253). The insertion engine takes a queued learn and writes a LEARNED entry, or refuses it. -/
  | learnInsert (dt c : Nat)
  /-- STATION_MOVE (R253). The insertion engine applies a queued move and rewrites the entry's LOCAL_PORT. -/
  | stationMove (dt c : Nat)
  /-- AGE_PASS (R256). A sweeper pass starts every AGE_INTERVAL and ages LEARNED entries bucket by bucket. -/
  | agePass (dt c : Nat) (upsets : List Upset)
  /-- FLUSH (R260). A FLUSH strobe starts a walk that removes every entry matching FLUSH_SEL. -/
  | flush (dt : Nat) (via : Master) (c : Nat)
  /-- FLUSH_DONE (R260). The flush walk has covered every bucket, so FLUSH_BUSY clears and the event is raised. -/
  | flushDone (dt c : Nat)
  /-- PARITY_CAPTURE_READ (R261). A read of PARITY_CAPTURE returns and clears the capture. -/
  | parityCaptureRead (dt : Nat) (via : Master) (c : Nat)
  /-- KEY_LOAD (R214). A key-slot LOAD commit is checked, unwrapped if needed and written to the master copy. -/
  | keyLoad (dt : Nat) (via : Master) (c row suite : Nat) (wrapped : Bool) (data : List Word)
  /-- KEY_BANK_FLIP (R214). A landed LOAD writes the non-current working bank, once no frame uses it, and makes it current. -/
  | keyBankFlip (dt c r : Nat)
  /-- KEY_ERASE (R215). A key-slot ERASE zeroes the master copy and both banks and stomps frames in flight on the slot. -/
  | keyErase (dt : Nat) (via : Master) (c row : Nat)
  /-- CKEY_COMMIT (R219). CKEY_COMMIT commits the staged common slot. -/
  | ckeyCommit (dt : Nat) (via : Master)
  /-- ERASE_ALL (R222). ERASE_ALL erases every cluster and common slot as a tamper erase does. -/
  | eraseAll (dt : Nat) (via : Master)
  /-- TAMPER (R223). A tamper input falls and survives the glitch filter, so keys are erased, the latch is set and the complex
  demotes. -/
  | tamper (dt sensor : Nat)
  /-- TAMPER_CLR (R221). A TAMPER_CLR write clears each latch bit whose filtered input is high. -/
  | tamperClr (dt : Nat) (via : Master) (v : Word)
  /-- KEY_ALARM_CLR (R221). A KEY_ALARM_CLR write clears the chosen bits of KEY_ALARM_CAUSE. -/
  | keyAlarmClr (dt : Nat) (via : Master) (v : Word)
  /-- TRNG_RESTART (R229). TRNG_RESTART in FAILED runs the start-up tests again. -/
  | trngRestart (dt : Nat) (via : Master)
  /-- TRNG_STARTUP_DONE (R229). 1,024 raw bits pass the start-up tests, so TRNG_STATE goes to RUNNING. -/
  | trngStartupDone (window : RawWindow)
  /-- TRNG_TEST_FAIL (R229). A repetition count or adaptive proportion test fails, which leads to RETRY or, at the third
  failure in a second, FAILED. -/
  | trngTestFail (dt : Nat) (test : RawTest)
  /-- ATTEST_NONCE (R231). The fourth 8-byte write to ATTEST_NONCE starts signing an attestation report. -/
  | attestNonce (dt : Nat) (via : Master) (v : Word)
  /-- ATTEST_READY (R231). Signing completes, so ATTEST_STATE goes to READY and the event is raised. -/
  | attestReady (dt : Nat)
  /-- ADOPT (R233). ADOPT compares ADOPT_CHECK with the identity check value and adopts the complex, which then takes its
  role. -/
  | adopt (dt : Nat) (via : Master)
  /-- PN_ALERT_READ (R201). A read of PN_ALERT returns and removes the oldest alert of the FIFO. -/
  | pnAlertRead (dt : Nat) (via : Master) (c : Nat)
  /-- HOLD_PEAK_READ (R205). A read of HOLD_PEAK returns and resets the peak. -/
  | holdPeakRead (dt : Nat) (via : Master) (c : Nat)
  /-- METER_ECC_CAPTURE_READ (R285). A read of METER_ECC_CAPTURE returns and clears the capture. -/
  | meterEccCaptureRead (dt : Nat) (via : Master) (c : Nat)
  /-- SETTLE (R281). SETTLE refills the selected meter row under its current parameters at its landing edge. -/
  | settle (dt : Nat) (via : Master) (c : Nat)
  /-- METER_BACKGROUND_REFILL (R275). An enabled meter row that no frame has refilled for 2^40 gr is refilled. -/
  | meterBackgroundRefill (dt c row : Nat)
  /-- ENQUEUE_NOTICE (R30). A buffer-manager enqueue notice reports a leaf's new head length or that it is empty. -/
  | enqueueNotice (dt c leaf : Nat) (len : Option Nat)
  /-- DEQUEUE_GRANT (R298). In each CLK_DP cycle the scheduler chooses frames and issues up to 16 dequeue grants. -/
  | dequeueGrant (dt c : Nat) (upsets : List (Nat × Nat))
  /-- LATHE_FIRING (R311). A Lathe entry reaches its eligible time and fires; the row is refilled, its group set again and any
  pending shaper change installed. -/
  | latheFiring (dt c k : Nat)
  /-- LATHE_CASCADE (R311). The entries of an outer-ring slot move to the inner wheel, or re-turn. -/
  | latheCascade (dt c slot : Nat)
  /-- SHAPER_BACKGROUND_REFILL (R308). A row with an enabled shaper and no Lathe entry is refilled at least every 2^40 gr. -/
  | shaperBackgroundRefill (dt c k : Nat)
  /-- RETURN (R315). RETURN refills and reschedules the selected scheduler row, installing any pending shaper set. -/
  | returnRow (dt : Nat) (via : Master) (c t : Nat)
  /-- SCHED_ECC_CAPTURE_READ (R318). A read of SCHED_ECC_CAPTURE returns and clears the capture. -/
  | schedEccCaptureRead (dt : Nat) (via : Master) (c : Nat)
  /-- LATHE_MAX_LATE_READ (R318). A read of LATHE_MAX_LATE returns and resets it. -/
  | latheMaxLateRead (dt : Nat) (via : Master) (c : Nat)
  /-- RETURNED_SEGMENT (R360). A returned segment from the buffer manager is matched to its grant by tag, or discarded as an
  orphan. -/
  | returnedSegment (dt tag : Nat) (seg : Segment) (ecc : Bool) (upsets : List Upset)
  /-- TX_FRAME_START (R365). A granted or DIRECT frame meets its sill with the wire free and starts on the lanes, with tag
  insertion, padding, timestamp and FCS. -/
  | txFrameStart (dt p : Nat)
  /-- UNDERRUN (R368). A frame's next byte has not been returned when the wire needs it, so the frame is stomped and the sill
  raised. -/
  | underrun (dt p : Nat)
  /-- TX_FRAME_DONE (R387). A frame's last byte leaves the wire; AHEAD is released and a timestamp record or TS_REQ completion
  follows. -/
  | txFrameDone (dt : Nat) (wire : WireEnd)
  /-- PREEMPTION (R377). A preemptable frame's current fragment ends with an mCRC at the first point allowed after a
  preemption cause. -/
  | preemption (dt p gone : Nat)
  /-- CONTINUATION_RESUME (R377). Once every preemption cause has ended, the held preemptable frame resumes with a
  continuation fragment. -/
  | continuationResume (dt p : Nat)
  /-- FC_XOFF_CHANGE (R380). The combined pause request of a port changes, and a PAUSE or PFC frame is sent. -/
  | fcXoffChange (dt p xoff : Nat)
  /-- PAUSE_REFRESH (R381). The refresh interval passes while a pause request is held, so the PAUSE or PFC frame is sent
  again. -/
  | pauseRefresh (dt p : Nat)
  /-- TX_SILL_SET (R369). A TX_SILL_SET write sets the sill at the next frame start. -/
  | txSillSet (dt : Nat) (via : Master) (p : Nat) (v : Word)
  /-- TX_TS_META_READ (R388). A read of TX_TS_META removes the oldest transmit timestamp record and latches its stamp. -/
  | txTsMetaRead (dt : Nat) (via : Master) (c : Nat)
  /-- RX_CAUSE_CLR (R128). A write to RX_CAUSE_CLR clears the chosen RX_CAUSE bits. -/
  | rxCauseClr (dt : Nat) (via : Master) (p : Nat) (v : Word)
  /-- TX_CAUSE_CLR (R357). A write to TX_CAUSE_CLR clears the chosen TX_CAUSE bits. -/
  | txCauseClr (dt : Nat) (via : Master) (p : Nat) (v : Word)
  /-- SHUTTER_CAUSE_CLR (R329). A write to SHUTTER_CAUSE_CLR clears the chosen SHUTTER_CAUSE bits. -/
  | shutterCauseClr (dt : Nat) (via : Master) (p : Nat) (v : Word)
  /-- PORT_ENABLE (R126). A PORT_ENABLE write lands; 1 checks and opens the port within a tick, 0 starts CLOSING, and a write
  during CLOSING is latched. -/
  | portEnable (dt : Nat) (via : Master) (p : Nat) (v : Word)
  /-- RETURN_LOST_TIMEOUT (R395). Grants are still outstanding 2^26 gr after CLOSING began and are abandoned. -/
  | returnLostTimeout (dt p : Nat)
  /-- PORT_CLOSE_DONE (R395). Both the receive and transmit sides of a CLOSING port are done, so it reaches CLOSED. -/
  | portCloseDone (dt p : Nat)
  /-- GATE_ENABLE (R334). A GATE_ENABLE write lands; 1 starts OPENING with a swap request, 0 closes or starts CLOSING. -/
  | gateEnable (dt : Nat) (via : Master) (p : Nat) (v : Word)
  /-- CONFIG_CHANGE (R336). CONFIG_CHANGE requests a shutter-list swap, and the change time and commit cycle are computed. -/
  | configChange (dt : Nat) (via : Master) (p : Nat)
  /-- SWAP_LATCH (R337). At the commit-cycle start, the admin list is latched into the oper bank, or the swap is refused. -/
  | swapLatch (dt p : Nat) (upset : Option Nat)
  /-- SHUTTER_SWAP (R338). At the change time, the new oper list starts with entry 0. -/
  | shutterSwap (dt p : Nat)
  /-- SHUTTER_ENTRY_CHANGE (R324). Device time reaches an entry boundary or a hold advance, and gate and hold states change. -/
  | shutterEntryChange (dt p : Nat) (upset : Bool)
  /-- SHUTTER_CLOSE_DONE (R334). The current cycle of a CLOSING shutter function ends, so it reaches CLOSED. -/
  | shutterCloseDone (dt p : Nat)
  /-- SHUTTER_ECC_CAPTURE_READ (R352). A read of SHUTTER_ECC_CAPTURE returns and clears the capture. -/
  | shutterEccCaptureRead (dt : Nat) (via : Master) (c : Nat)
  /-- DIGEST_CLOSE (R421). The digest of a cycle closes 2^20 gr after the next boundary and its record goes to the Hinge and
  readout. -/
  | digestClose (dt p : Nat)
  /-- DIGEST_CYCLE_READ (R423). A read of DIGEST_CYCLE latches DIGEST_SUM and DIGEST_COUNT from the same record. -/
  | digestCycleRead (dt : Nat) (via : Master)
  /-- CAL_CAPTURE_READ (R424). A read of CAL_CAPTURE returns and clears the capture. -/
  | calCaptureRead (dt : Nat) (via : Master) (c : Nat)
  /-- CAL_ECC_CAPTURE_READ (R424). A read of CAL_ECC_CAPTURE returns and clears the capture. -/
  | calEccCaptureRead (dt : Nat) (via : Master) (c : Nat)
  /-- SET_TIME (R110). SET_TIME sets device time at one CLK_ROOT edge and is counted as a step. -/
  | setTime (dt : Nat) (via : Master) (low high : Word)
  /-- STEP (R110). STEP adds a signed grain offset to device time, and the shutters stay on grid or realign. -/
  | stepTime (dt : Nat) (via : Master) (v : Word)
  /-- FREQ_WORD_WRITE (R117). A FREQ_WORD write lands at one CLK_ROOT edge and moves TIME_STATE to TRACKING. -/
  | freqWordWrite (dt : Nat) (via : Master) (v : Word)
  /-- HOLDOVER_ENTRY (R106). HOLDOVER_TICKS ticks pass without a servo write, so TRACKING becomes HOLDOVER. -/
  | holdoverEntry (dt : Nat)
  /-- PPS_IN_EDGE (R114). A rising edge of pps_in is timestamped and latched in PPS_IN_TS. -/
  | ppsInEdge (dt : Nat)
  /-- PPS_MISSING (R114). The PPS window ends without an expected pps_in edge. -/
  | ppsMissing (dt : Nat)
  /-- TOD_MESSAGE (R48). A 16-byte time-of-day message is received and checked, or discarded. -/
  | todMessage (dt : Nat) (msg : Bytes)
  /-- TOD_ALIGN (R115). At the first tick after a pps_in edge with TOD_APPLY, device seconds are stepped or set to the
  message's second. -/
  | todAlign (dt : Nat)
  /-- PPS_OUT_EDGE (R113). Device time crosses a whole second and pps_out rises for 2^30 gr. -/
  | ppsOutEdge (dt : Nat)
  /-- SHORT_FORM_WRAP (R120). SECONDS_LO carries to 0, EPOCH increases and event 0x828 is raised. -/
  | shortFormWrap (dt : Nat)
  /-- PLL_LOCK (R98). The PLL locks and the divided clocks start. -/
  | pllLock (dt : Nat)
  /-- PLL_LOSS_OF_LOCK (R99). The PLL loses lock; clocks stop, TIME_STATE goes to UNSET and clocked functions close. -/
  | pllLossOfLock (dt : Nat)
  /-- MANAGEMENT_TICK (R15). A management tick passes, sending the health word and digest mark, reseeding DRBGs and sweeping
  the key store. -/
  | managementTick (dt : Nat) (env : TickEnv)
  /-- COUNTER_HALF_PRESENT (R464). The scanner moves a pending half-range counter into the presentation FIFO when it has room. -/
  | counterHalfPresent (dt idx sub row : Nat)
  /-- HALF_NEXT_READ (R465). A read of HALF_NEXT removes the oldest entry and retires that counter. -/
  | halfNextRead (dt : Nat) (via : Master) (g : Nat)
  /-- SNAP (R469). SNAP freezes all 128 counter slots of SNAP_PORT at one edge. -/
  | snap (dt : Nat) (via : Master)
  /-- SNAP_RELEASE (R469). SNAP_RELEASE returns the held port to live counter reads. -/
  | snapRelease (dt : Nat) (via : Master)
  /-- WDX_ALIVE_TOGGLE (R427). Every 2^19 gr the ACTIVE complex toggles wdx_alive. -/
  | wdxAliveToggle (dt : Nat)
  /-- PEER_ALIVE_TIMEOUT (R44). peer_alive has held one level for 38.15 µs, so a non-selected complex raises wdx_request. -/
  | peerAliveTimeout (dt : Nat)
  /-- PEER_ALIVE_TOGGLE (R44). peer_alive toggles twice while the request is up, so wdx_request is lowered. -/
  | peerAliveToggle (dt : Nat)
  /-- SEL_MINE_RISE (R452). sel_mine rises on a STANDBY or ORPHAN complex, which takes over as ACTIVE. -/
  | selMineRise (dt : Nat)
  /-- SEL_MINE_FALL (R429). sel_mine falls on an ACTIVE complex that did not release, which becomes DEMOTED. -/
  | selMineFall (dt : Nat)
  /-- PCS_OUTPUT_SWITCH (R393). At the first gap after sel_mine rises, a port switches from idle to its own PCS output. -/
  | pcsOutputSwitch (dt p : Nat)
  /-- DEMOTE (R429). A DEMOTE strobe makes a demotion decision now. -/
  | demote (dt : Nat) (via : Master)
  /-- REINSTATE (R429). REINSTATE takes a DEMOTED complex whose health shows no fault to ORPHAN. -/
  | reinstate (dt : Nat) (via : Master)
  /-- HELLO_TX (R431). Every 2^23 gr a HELLO is sent on each path that is not UP and not refused. -/
  | helloTx (dt : Nat) (path : Bool)
  /-- HELLO_RX (R432). A Hinge HELLO is received and answered with HELLO_ACK. -/
  | helloRx (dt : Nat) (path crcOk : Bool) (h : Hello)
  /-- HELLO_ACK_RX (R432). A HELLO_ACK is verified, and the path becomes UP or REFUSED. -/
  | helloAckRx (dt : Nat) (path crcOk : Bool) (echo sig : Bytes) (held : Nat)
  /-- HEARTBEAT_TX (R431). Every 2^21 gr a HEARTBEAT is sent on each UP path. -/
  | heartbeatTx (dt : Nat) (path : Bool)
  /-- HEARTBEAT_RX (R435). A HEARTBEAT is received and updates PEER_TIME_OFFSET. -/
  | heartbeatRx (dt : Nat) (path crcOk : Bool) (sent peerSent arrived : Nat)
  /-- HEARTBEAT_TIMEOUT (R434). A path gets no valid heartbeat for 2^23 gr and goes DOWN, and the peer is lost when both paths
  are DOWN. -/
  | heartbeatTimeout (dt : Nat) (path : Bool)
  /-- HEALTH_RX (R434). A peer HEALTH message is received and stored as PEER_HEALTH, which may start an automatic resync. -/
  | healthRx (dt : Nat) (path crcOk : Bool) (w : Word)
  /-- MIRROR_RX (R437). A MIRROR message is received and its write applied in sequence order. -/
  | mirrorRx (dt : Nat) (path crcOk : Bool) (n : Nat) (op : MirrorOp)
  /-- MIRROR_ACK_RX (R439). A cumulative MIRROR_ACK frees acknowledged writes from the mirror store. -/
  | mirrorAckRx (dt : Nat) (path crcOk : Bool) (seq : Nat)
  /-- LATCH_MARK_RX (R350). A LATCH_MARK reaches the standby, which latches its admin list or reports CHANGE_LATE. -/
  | latchMarkRx (dt : Nat) (path crcOk : Bool) (n p tc : Nat)
  /-- DIGEST_MARK_RX (R441). A DIGEST_MARK is compared with the own configuration digest, setting or clearing DIVERGED. -/
  | digestMarkRx (dt : Nat) (path crcOk : Bool) (n : Nat) (digest : Word) (final : Bool)
  /-- RESYNC (R442). RESYNC on the ACTIVE starts sending every configuration item to the peer. -/
  | resync (dt : Nat) (via : Master)
  /-- RESYNC_COMPLETE (R442). The active ends the resync with a DIGEST_MARK and clears MIRROR_LOST. -/
  | resyncComplete (dt : Nat)
  /-- RESYNC_ITEM_RX (R442). A RESYNC_ITEM is received and applied as a write. -/
  | resyncItemRx (dt : Nat) (path crcOk : Bool) (n : Nat) (op : MirrorOp)
  /-- EXPRESS_RECORD_RX (R443). A peer EXPRESS_RECORD is received, counted late if so, and compared, which may lead to a
  mismatch decision. -/
  | expressRecordRx (dt : Nat) (path crcOk : Bool) (r : ExpressRec)
  /-- BULK_INTERVAL_END (R444). 2^20 gr after a bulk interval ends, each side sends a BULK_RECORD of its running totals. -/
  | bulkIntervalEnd (dt : Nat)
  /-- BULK_RECORD_RX (R444). A peer BULK_RECORD is compared against the baseline and tolerances. -/
  | bulkRecordRx (dt : Nat) (path crcOk : Bool) (r : BulkRec)
  /-- RECORD_EXPIRY (R443). An own digest record is dropped 2^26 gr after its close. -/
  | recordExpiry (dt : Nat)
  /-- DEMOTING_RX (R451). A DEMOTING message arrives, and the receiver raises wdx_request. -/
  | demotingRx (dt : Nat) (path crcOk : Bool)
  /-- MISMATCH_CAPTURE_READ (R436). A read of MISMATCH_CAPTURE returns and clears the capture. -/
  | mismatchCaptureRead (dt : Nat) (via : Master)
  /-- STEST_BANK_TEST (R449). The self-test controller takes the next bank onto the spare, march-tests it and copies it back,
  or keeps the spare on failure. -/
  | stestBankTest (dt unit bank : Nat) (ok last : Bool)
  /-- STEST_CAPTURE_READ (R436). A read of STEST_CAPTURE returns and clears the capture. -/
  | stestCaptureRead (dt : Nat) (via : Master)
  /-- PAIRED_COMPARATOR_FIRE (R449). A paired-logic comparator sees its two copies differ and sets PAIRED_FAULT. -/
  | pairedComparatorFire (dt cluster unit : Nat)
  /-- EVENT_DELIVERY (R516). The controller commits the delivery of the best pending unmasked source and writes its records. -/
  | eventDelivery (dt : Nat)
  /-- RECORD_WRITE_ERROR (R521). A record write receives an error response, so that ring is disabled. -/
  | recordWriteError (dt t b : Nat)
  /-- COAL_TIMEOUT (R523). COAL_TIME passes after the first gathered record, so the band's records are released. -/
  | coalTimeout (dt t b : Nat)
  /-- PENDING_SET (R511). PENDING_SET raises each source written as 1. -/
  | pendingSet (dt : Nat) (via : Master) (b : Nat) (v : Word)
  /-- PENDING_CLR (R510). PENDING_CLR clears pending from each source written as 1. -/
  | pendingClr (dt : Nat) (via : Master) (b : Nat) (v : Word)
  /-- MASK_SET (R511). MASK_SET masks each source written as 1. -/
  | maskSet (dt : Nat) (via : Master) (b : Nat) (v : Word)
  /-- MASK_CLR (R511). MASK_CLR unmasks each source written as 1. -/
  | maskClr (dt : Nat) (via : Master) (b : Nat) (v : Word)
  /-- ENTER (R526). ENTER pushes a band onto the target's stack, or is a stack fault. -/
  | enterBand (dt : Nat) (via : Master) (t : Nat) (v : Word)
  /-- EXIT (R526). EXIT pops the band on top of the stack, or is a stack fault. -/
  | exitBand (dt : Nat) (via : Master) (t : Nat) (v : Word)
  /-- CLAIM (R527). A read of CLAIM claims an active source for the target or returns 0x000 or 0xFFF. -/
  | claim (dt : Nat) (via : Master) (t : Nat)
  /-- DONE (R528). A DONE write by the owner completes the source. -/
  | doneWrite (dt : Nat) (via : Master) (t : Nat) (v : Word)
  /-- REC_HEAD_WRITE (R523). A REC_HEAD write frees read records and ends the release when the ring becomes empty. -/
  | recHeadWrite (dt : Nat) (via : Master) (t b : Nat) (v : Word)
  /-- REC_COAL_WRITE (R524). A REC_COAL write sets coalescing, and FORCE or RELEASED override hardware's values. -/
  | recCoalWrite (dt : Nat) (via : Master) (t b : Nat) (v : Word)
  /-- REC_ENABLE (R515). A REC_ENABLE write opens a band ring with its indices at 0, or stops its records. -/
  | recEnable (dt : Nat) (via : Master) (t b : Nat) (v : Word)
  /-- REC_BUS_CAPTURE_READ (R530). A read of REC_BUS_CAPTURE returns and clears the capture. -/
  | recBusCaptureRead (dt : Nat) (via : Master)
  /-- LATCH_FIRED_CLR (R530). A LATCH_FIRED_CLR write clears the chosen LATCH_FIRED bits. -/
  | latchFiredClr (dt : Nat) (via : Master) (v : Word)
  /-- RING_ENABLE (R483). A RING_ENABLE write lands; 1 checks and opens the ring, 0 starts CLOSING, and a write during CLOSING
  is latched. -/
  | ringEnable (dt : Nat) (via : Master) (r : Nat) (v : Word)
  /-- RING_CLOSE_DONE (R484). No descriptor of a CLOSING ring is in progress, so it reaches CLOSED. -/
  | ringCloseDone (dt r : Nat)
  /-- TAIL_DOORBELL (R488). A TAIL write hands descriptors to the engine and sets the ring's doorbell flag. -/
  | tailDoorbell (dt : Nat) (via : Master) (r : Nat) (v : Word)
  /-- RING_CAUSE_CLR (R482). A write to RING_CAUSE_CLR clears the chosen RING_CAUSE bits. -/
  | ringCauseClr (dt : Nat) (via : Master) (r : Nat) (v : Word)
  /-- DESC_FRAME_CORE (R497). A FRAME descriptor chain on a CORE ring is gathered and offered whole to a cluster's ingress
  interface. -/
  | descFrameCore (dt r : Nat)
  /-- DESC_FRAME_DIRECT (R498). A FRAME descriptor chain on a DIRECT ring places its frame in the port's inject buffer. -/
  | descFrameDirect (dt r : Nat)
  /-- DESC_MOVE (R491). A MOVE descriptor copies LENGTH bytes from AUX to ADDR, in fixed mode or not. -/
  | descMove (dt : Nat) (work : RingBeats)
  /-- DESC_FILL (R491). A FILL descriptor writes a repeated 64-bit constant to ADDR. -/
  | descFill (dt : Nat) (work : RingBeats)
  /-- DESC_COMPARE (R491). A COMPARE descriptor compares memory with a constant or a second buffer and completes OK or
  MISMATCH. -/
  | descCompare (dt : Nat) (work : RingBeats)
  /-- DMA_RX_DELIVERY (R499). A punted frame or peephole copy staged for a receive ring is written into its descriptors and
  they complete. -/
  | dmaRxDelivery (dt r : Nat)
  /-- BUS_ERROR_RESPONSE (R494). The interconnect answers a DMA transaction with an error, so the descriptor completes BAD or
  the ring halts. -/
  | busErrorResponse (dt r : Nat) (site : BusSite)
  /-- BUS_ERR_INFO_READ (R504). A read of BUS_ERR_INFO returns and clears the captured bus error. -/
  | busErrInfoRead (dt : Nat) (via : Master) (q : Nat)
  /-- DOMAIN_REQUEST (R537). A DOMAIN_n write lands at a tick boundary and starts a power change, or is latched while BUSY. -/
  | domainRequest (dt : Nat) (via : Master) (n : Nat) (v : Word)
  /-- POWER_ACK (R539). pwr_ack reaches the requested state, and the domain is restored or initialised and de-isolated. -/
  | powerAck (dt n : Nat)
  /-- POWER_ACK_TIMEOUT (R52). pwr_ack does not match pwr_req within four times its bound, so the domain is held and event
  0x8C0 raised. -/
  | powerAckTimeout (dt n : Nat)
  /-- CLUSTER_ENABLE (R542). A CLUSTER_ENABLE write lands; 1 opens the cluster and its domains and ports, 0 starts CLOSING. -/
  | clusterEnable (dt : Nat) (via : Master) (c : Nat) (v : Word)
  /-- CLUSTER_CLOSE_DONE (R543). Every port and list of a CLOSING cluster is CLOSED and its skid drained, so the domains go to
  CLOSED_POWER. -/
  | clusterCloseDone (dt c : Nat)
  /-- CLUSTER_MODE_LISTEN (R545). A CLUSTER_MODE LISTEN write lands on an OPEN, AWAKE cluster, which enters ENTERING. -/
  | clusterModeListen (dt : Nat) (via : Master) (c : Nat)
  /-- LISTEN_REACHED (R545). No frame of an ENTERING cluster remains, so CIPHER, QUEUE and METER go to RETAIN and NIGHT_STATE
  to LISTEN. -/
  | listenReached (dt c : Nat)
  /-- CLUSTER_MODE_FULL (R546). A CLUSTER_MODE FULL write lands and wakes a cluster in LISTEN. -/
  | clusterModeFull (dt : Nat) (via : Master) (c : Nat)
  /-- SLEEP (R550). SLEEP takes every domain but AO to RETAIN, or is refused. -/
  | sleep (dt : Nat) (via : Master)
  /-- RESET_COLD (R552). RESET with COLD releases the lanes, takes every domain but AO to OFF and reruns bring-up. -/
  | resetCold (dt : Nat) (via : Master) (cuts : List (Nat × CutFrame))
  /-- RESET_WARM (R551). RESET with WARM takes clusters and ports through CLOSED, closes rings and sessions and keeps
  configuration. -/
  | resetWarm (dt : Nat) (via : Master) (cuts : List (Nat × CutFrame))
  /-- RESET_CLUSTER (R551). RESET with CLUSTER takes the target cluster through CLOSED and reopens it. -/
  | resetCluster (dt : Nat) (via : Master) (c : Nat) (cuts : List (Nat × CutFrame))
  /-- RESET_PORT (R551). RESET with PORT takes the target port through CLOSED, stomping its frame and abandoning its grants. -/
  | resetPort (dt : Nat) (via : Master) (p : Nat) (cuts : List (Nat × CutFrame))
  /-- RESET_RESTORE_DEFAULTS (R551). RESET with RESTORE_DEFAULTS returns objects to defaults, empties keys and makes the
  complex UNADOPTED. -/
  | resetRestoreDefaults (dt : Nat) (via : Master) (cuts : List (Nat × CutFrame))
  /-- REFUSED_PATH_HOLDOFF_END (R432). 2^36 gr after a Hinge path was REFUSED, the hold-off ends and the path may send HELLO
  again. -/
  | refusedPathHoldoffEnd (dt : Nat) (path : Bool)
  /-- MIRROR_ACK_TX (R431). The receiver of the mirror stream sends a cumulative MIRROR_ACK at least every 2^14 gr while
  writes are unacknowledged. -/
  | mirrorAckTx (dt : Nat)
  /-- HINGE_ENABLE (R436). A HINGE_ENABLE write lands and opens or closes the Hinge function, moving HINGE_STATE through
  OPENING, OPEN, CLOSING and CLOSED. -/
  | hingeEnable (dt : Nat) (via : Master) (v : Word)
  /-- POR_N_FALL (R551). por_n falls, holding the complex in cold reset and losing all AO state, TAMPER_LAST and RESET_COUNT
  included. -/
  | porNFall (dt : Nat)
  /-- TAMPER_INPUT_HIGH (R221). A filtered tamper input returns high, so its TAMPER_LIVE bit clears and its latch bit becomes
  clearable by TAMPER_CLR. -/
  | tamperInputHigh (dt sensor : Nat)
  /-- PPS_OUT_PULSE_END (R112). The 2^30 gr pulse of pps_out, measured in run time, ends and pps_out falls. -/
  | ppsOutPulseEnd (dt : Nat)
  /-- DOMAIN_STREAM_READ (R73). An 8-byte read of an RO DOMAIN object such as IDENTITY_CERT or ATTEST_REPORT returns the next
  8 bytes of the stream and advances its offset. -/
  | domainStreamRead (dt : Nat) (via : Master) (sub : Nat)
  deriving DecidableEq, Repr

end Sys2Proof
end

