-- ==== Sys2Proof/Config.lean ====
section
/-!
DEFINITION. What an implementation fixes and the free values. Every constant here is opaque: nothing in the model or in a
proof can see its value, so a statement holds for every value (assumptions 2 and 3).
-/
namespace Sys2Proof.Config

/-- Which stepping the part is: 0 B0, 1 C0, 2 C1 (R1). -/
opaque steppingSel : Fin 3

/-- SERIAL (R221). -/
opaque serial : Word

/-- Byte `i` of IDENTITY_PUB (R230). -/
opaque identityPub : Nat → Byte

/-- IDENTITY_CERT_LEN less one, and byte `i` of IDENTITY_CERT (R221). -/
opaque certLen : Fin 1024
opaque certByte : Nat → Byte

/-- FUSE_STATUS bits 0 and 1 (R65). -/
opaque fuseOk : Bool
opaque identityPresent : Bool

/-- WINDOW_BASE, fixed by the chip (R492). -/
opaque windowBase : Word

/-- The ECDSA P-256 signature of the factory identity key over a 32-byte digest, deterministic (R230): r then s. -/
opaque ecdsaSign : Bytes → BitVec 512

/-- Verification of an ECDSA P-256 signature: public key, digest, signature (R234). -/
opaque ecdsaVerify : Bytes → Bytes → Bytes → Bool

/-- Seeds of the conditioned entropy source, one fresh value per use (R227). -/
opaque entropy : Nat → BitVec 384

/-- Fresh bytes and words where the spec leaves a value open. -/
opaque freeByte : Nat → Byte
opaque freeWord : Nat → Word
opaque freeBool : Nat → Bool

end Sys2Proof.Config
end

