-- ==== Sys2Proof/Machine/Bits.lean ====
section
/-!
DEFINITION. Byte order and field helpers. Multi-byte fields on the wire are most significant byte first, fields of
structures in host memory least significant byte first (R4).
-/
namespace Sys2Proof.Machine

/-- The unsigned value of bytes read most significant byte first (R4, wire order). -/
def beNat (bs : Bytes) : Nat := bs.foldl (fun a b => a * 256 + b.toNat) 0

/-- The unsigned value of bytes read least significant byte first (R4, memory order). -/
def leNat : Bytes → Nat
  | [] => 0
  | b :: t => b.toNat + 256 * leNat t

/-- The low `n` bytes of `v`, least significant first. -/
def leBytes : Nat → Nat → Bytes
  | 0, _ => []
  | n + 1, v => BitVec.ofNat 8 v :: leBytes n (v / 256)

/-- The low `n` bytes of `v`, most significant first. -/
def beBytes (n v : Nat) : Bytes := (leBytes n v).reverse

/-- `n` bytes of `bs` from offset `o`; short where the list ends. -/
def slice (bs : Bytes) (o n : Nat) : Bytes := (bs.drop o).take n

/-- The big-endian value of `n` bytes at offset `o`. -/
def beAt (bs : Bytes) (o n : Nat) : Nat := beNat (slice bs o n)

/-- The byte at offset `o`, 0 beyond the end. -/
def byteAt (bs : Bytes) (o : Nat) : Byte := bs.getD o 0

/-- `bs` with the bytes at offset `o` overwritten by `v` (bytes beyond the end are not added). -/
def overwrite (bs : Bytes) (o : Nat) (v : Bytes) : Bytes :=
  (bs.take o ++ v.take (bs.length - o) ++ bs.drop (o + v.length)).take bs.length

/-- `bs` filled with zeros up to `n` bytes. -/
def padTo (n : Nat) (bs : Bytes) : Bytes := bs ++ List.replicate (n - bs.length) 0

/-- Bytewise exclusive or of two strings, as long as the shorter. -/
def xorBytes (a b : Bytes) : Bytes := List.zipWith (· ^^^ ·) a b

/-- `n` rounded up to a multiple of `m` (`m > 0`). -/
def roundUp (n m : Nat) : Nat := (n + m - 1) / m * m

/-- `⌈a / b⌉` (`b > 0`). -/
def ceilDiv (a b : Nat) : Nat := (a + b - 1) / b

/-- A two's complement 64-bit word as a signed number (type I64, R56). -/
def i64 (w : Word) : Int := w.toInt

/-- A signed number in 64-bit two's complement. -/
def ofI64 (i : Int) : Word := BitVec.ofInt 64 i

/-- The value of a RATE word in bit/s: mantissa × 2^exponent (R56). -/
def rateOf (w : Word) : Nat := w.bits 0 26 * 2 ^ w.bits 26 6

/-- The low `n` bits of a signed number in two's complement. -/
def lowBits (i : Int) (n : Nat) : Nat := (i % (2 ^ n : Int)).toNat

/-- The bits of `n` set among positions `lo … hi-1`, rising. -/
def bitList (n lo hi : Nat) : List Nat := ((List.range hi).drop lo).filter fun i => n.testBit i

/-- Reverse the low `n` bits of `v`. -/
def revBits (n v : Nat) : Nat := (List.range n).foldl (fun a i => a * 2 + (v >>> i) % 2) 0

/-- `n` in ones and zeros: 1 for true. -/
def b2n (b : Bool) : Nat := if b then 1 else 0

end Sys2Proof.Machine
end

