-- ==== Sys2Proof/Machine/ObjectMap.lean ====
section
/-!
DEFINITION. The object dictionary's map (R53, R56, R58, R64, R95 and the object maps of every chapter): which index and
subindex exist, and the type, access right, range, default, mirroring and reset class of each object.
-/
namespace Sys2Proof.Machine

/-- The types of R56. `octets n` is a string of `n` bytes, `enum cs` lists the codes, `grains n` the bits in use. -/
inductive ObjType
  | bool | u8 | u16 | u32 | u64 | i64 | time84lo | time84hi | rate | strobe | domain
  | grains (n : Nat) | octets (n : Nat) | enum (top : Nat)
  deriving DecidableEq, Repr

/-- The access rights of R58. -/
inductive Access
  | ro | rw | wo | rwc | rwl
  deriving DecidableEq, Repr

/-- Where an object's value lives: a stored register, a 48-bit counter (R458), a value computed from the unit's state,
or a field of a table row. -/
inductive Home
  | reg | ctr | view | field
  deriving DecidableEq, Repr

/-- What restore-defaults does to a stored value or counter (the object maps; cold reset clears or defaults all). -/
inductive Restore
  | clears | keeps
  deriving DecidableEq, Repr

/-- One line of an object map. -/
structure ObjInfo where
  sub : Nat
  name : String
  ty : ObjType
  acc : Access
  dflt : Nat := 0
  ok : Nat → Bool := fun _ => true
  home : Home := .reg
  restore : Restore := .clears

namespace ObjType
/-- The value fits the bits and range that the type itself fixes (R56). -/
def fits : ObjType → Nat → Bool
  | .bool, v => v < 2
  | .u8, v => v < 2 ^ 8
  | .u16, v => v < 2 ^ 16
  | .u32, v => v < 2 ^ 32
  | .u64, _ => true
  | .i64, _ => true
  | .time84lo, _ => true
  | .time84hi, v => v < 2 ^ 20
  | .rate, v => v < 2 ^ 32 && (v >>> 26) ≤ 22
  | .strobe, v => v < 2
  | .domain, _ => true
  | .grains n, v => v < 2 ^ n
  | .octets n, v => v < 2 ^ (8 * n)
  | .enum top, v => v ≤ top
end ObjType

/-- Which unit an index belongs to (R64). -/
inductive Ix
  | ident | comm | power | time | twin | keys | events
  | ring (r : Nat) | quarter (q : Nat) | calCommon | ctrCommon
  | portMac (p : Nat) | portGate (p : Nat) | portCtr (p : Nat) | portFc (p : Nat)
  | cluster (c k : Nat) | window (c t : Nat)
  | bank (b : Nat) | source (e : Nat) | target (t : Nat) | band (t b : Nat)
  deriving DecidableEq, Repr

/-- The event numbers 0x801–0x900 that are sources (the chapters' event tables, R508). -/
def commonSources : List Nat :=
  [0x810, 0x811, 0x813] ++ (List.range 9).map (0x820 + ·) ++ [0x830, 0x831, 0x832, 0x834, 0x835, 0x836, 0x837]
  ++ (List.range 20).map (0x840 + ·) ++ [0x860, 0x870, 0x871, 0x872, 0x8A0] ++ (List.range 5).map (0x8C0 + ·)

/-- Event number `e` is a source (R508). -/
def isSource (e : Nat) : Bool :=
  (1 ≤ e && e ≤ 0x400) || (0x401 ≤ e && e ≤ 0x700 && (e - 0x401) % 48 ≤ 22) || (0x701 ≤ e && e ≤ 0x800)
  || commonSources.contains e || (0xF00 ≤ e && e ≤ 0xFFE)

/-- Source `e` is LEVEL: the FIFOs of PN alerts, transmit timestamps and half ranges (R508). -/
def isLevel (e : Nat) : Bool :=
  (0x401 ≤ e && e ≤ 0x700 && ((e - 0x401) % 48 == 2 || (e - 0x401) % 48 == 16 || (e - 0x401) % 48 == 21)) || e == 0x860

/-- The unit an existing index belongs to; `none` where FORMAT reads 0x00 (R53, R64). -/
def classify (i : Nat) : Option Ix :=
  if i = 0x0100 then some .ident
  else if i = 0x0200 then some .comm
  else if i = 0x0300 then some .power
  else if i = 0x0400 then some .time
  else if i = 0x0500 then some .twin
  else if i = 0x0600 then some .keys
  else if i = 0x0700 then some .events
  else if 0x0800 ≤ i ∧ i ≤ 0x08FF then some (.ring (i - 0x0800))
  else if 0x0900 ≤ i ∧ i ≤ 0x0903 then some (.quarter (i - 0x0900))
  else if i = 0x0A00 then some .calCommon
  else if i = 0x0B00 then some .ctrCommon
  else if 0x1000 ≤ i ∧ i ≤ 0x13FF then some (.portMac (i - 0x1000))
  else if 0x1400 ≤ i ∧ i ≤ 0x17FF then some (.portGate (i - 0x1400))
  else if 0x1800 ≤ i ∧ i ≤ 0x1BFF then some (.portCtr (i - 0x1800))
  else if 0x1C00 ≤ i ∧ i ≤ 0x1FFF then some (.portFc (i - 0x1C00))
  else if 0x2000 ≤ i ∧ i ≤ 0x20FF then
    if i % 16 ≤ 9 then some (.cluster ((i - 0x2000) / 16) (i % 16)) else none
  else if 0x3000 ≤ i ∧ i ≤ 0x3FFF then
    if i % 256 ≤ 0x0C then some (.window ((i - 0x3000) / 256) (i % 256)) else none
  else if 0x4000 ≤ i ∧ i ≤ 0x403F then some (.bank (i - 0x4000))
  else if 0x5000 ≤ i ∧ i ≤ 0x5FFF then if isSource (i - 0x5000) then some (.source (i - 0x5000)) else none
  else if 0x6000 ≤ i ∧ i ≤ 0x6FFF then
    let o := (i - 0x6000) % 128
    if o = 0 then some (.target ((i - 0x6000) / 128))
    else if 0x10 ≤ o ∧ o ≤ 0x17 then some (.band ((i - 0x6000) / 128) (o - 0x10)) else none
  else none

/-- A run of objects of one kind at consecutive subindexes. -/
def runOf (lo n : Nat) (f : Nat → ObjInfo) : List ObjInfo := (List.range n).map fun j => { f j with sub := lo + j }

/-- A line for a 48-bit counter (R458). -/
def ctrObj (sub : Nat) (name : String) (r : Restore) : ObjInfo :=
  { sub, name, ty := .u64, acc := .ro, home := .ctr, restore := r }

/-- A line for an RO value computed from the unit's state. -/
def viewObj (sub : Nat) (name : String) (ty : ObjType) : ObjInfo := { sub, name, ty, acc := .ro, home := .view }

/-- A line for a write-only object. -/
def woObj (sub : Nat) (name : String) (ty : ObjType) (ok : Nat → Bool := fun _ => true) : ObjInfo :=
  { sub, name, ty, acc := .wo, ok, home := .view }

/-- A line for a stored RW object. -/
def rwObj (sub : Nat) (name : String) (ty : ObjType) (dflt : Nat := 0) (ok : Nat → Bool := fun _ => true) : ObjInfo :=
  { sub, name, ty, acc := .rw, dflt, ok }

/-- A line for a stored RWC object. -/
def rwcObj (sub : Nat) (name : String) (ty : ObjType) (dflt : Nat := 0) (ok : Nat → Bool := fun _ => true) : ObjInfo :=
  { sub, name, ty, acc := .rwc, dflt, ok }

/-- A line for an RWL object whose value the unit keeps. -/
def rwlObj (sub : Nat) (name : String) (ty : ObjType) (ok : Nat → Bool := fun _ => true) : ObjInfo :=
  { sub, name, ty, acc := .rwl, ok, home := .view }

/-- `lo ≤ v ≤ hi`. -/
def inRange (lo hi : Nat) : Nat → Bool := fun v => lo ≤ v && v ≤ hi

/-- No bit outside `m` is set. -/
def within (m : Nat) : Nat → Bool := fun v => v &&& (2 ^ 64 - 1 - m) == 0

/-- A signed value within `±b`. -/
def inSigned (b : Nat) : Nat → Bool := fun v => v ≤ b || 2 ^ 64 - b ≤ v

/-- Index 0x0100 (R65, R66). -/
def identObjs : List ObjInfo := [
  viewObj 1 "PART_ID" .u32, viewObj 2 "STEPPING" .u8,
  rwObj 3 "DEVICE_ID" .u32 0 (inRange 0 0x3FFFF),
  viewObj 4 "HINGE_VERSIONS" .u8, viewObj 5 "FUSE_STATUS" .u8]

/-- Index 0x0200 (R67). -/
def commObjs : List ObjInfo := [
  rwObj 0x01 "NODE_ADDR" .u8 0x40 (inRange 1 0x7E), rwObj 0x02 "CAN_DATA_RATE" (.enum 4) 1, rwObj 0x03 "CAN_ENABLE" .bool 1,
  viewObj 0x04 "BDP_VERSIONS" .u8, rwObj 0x05 "INBAND_PORT" .u16 0xFFFF (fun v => v < 1024 || v == 0xFFFF),
  rwObj 0x06 "INBAND_KEY_SEL" .u8 0 (inRange 0 1), rwObj 0x07 "HEALTH_CAN" .bool 1,
  viewObj 0x08 "INBAND_RX_SEQ" .u64, viewObj 0x09 "INBAND_TX_SEQ" .u64, viewObj 0x0A "SESSIONS" .u32,
  ctrObj 0x0B "INBAND_AUTH_FAIL" .keeps, ctrObj 0x0C "INBAND_REPLAY" .keeps, ctrObj 0x0D "CAN_ERR" .keeps,
  ctrObj 0x0E "DICT_REFUSED" .keeps, ctrObj 0x0F "WINDOW_ACCESS_ERR" .keeps, viewObj 0x10 "LAST_REFUSAL" .u64,
  ctrObj 0x11 "INBAND_QUEUE_DROP" .keeps, rwObj 0x12 "INBAND_TC" .u8 0 (inRange 0 7), ctrObj 0x13 "INBAND_RSP_DROP" .keeps]

/-- Index 0x0300 (R536). DOMAIN_n keeps its request and state in the power unit. -/
def powerObjs : List ObjInfo := [
  viewObj 1 "BOOT_STATE" (.enum 4), rwObj 2 "RESET_KIND" (.enum 4) 1, rwObj 3 "RESET_TARGET" .u16 0 (inRange 0 1023),
  woObj 4 "RESET" .strobe, viewObj 5 "RESET_CAUSE" .u32, ctrObj 6 "RESET_COUNT" .keeps, woObj 7 "SLEEP" .strobe]
  ++ runOf 0x40 80 fun _ => { sub := 0, name := "DOMAIN", ty := .u64, acc := .rw, home := .view,
                              ok := fun v => v % 4 != 2 }

/-- Index 0x0400 (R102, R105). -/
def timeObjs : List ObjInfo := [
  viewObj 0x01 "TIME_NOW" .time84lo, viewObj 0x02 "TIME_NOW+1" .time84hi,
  woObj 0x03 "SET_TIME" .time84lo, woObj 0x04 "SET_TIME+1" .time84hi, woObj 0x05 "STEP" .i64 (inSigned (2 ^ 62)),
  rwObj 0x06 "FREQ_WORD" .u64 92233720369 (inRange 92141486649 92325954089), viewObj 0x07 "FREQ_NOMINAL" .u64,
  viewObj 0x08 "TIME_STATE" (.enum 3), viewObj 0x09 "EPOCH" .u32, viewObj 0x0A "RUN_TIME" .u64, viewObj 0x0B "TICK_COUNT" .u64,
  viewObj 0x0C "PPS_IN_TS" .time84lo, viewObj 0x0D "PPS_IN_TS+1" .time84hi, rwObj 0x0E "PPS_OUT_EN" .bool 1,
  rwObj 0x0F "TOD_APPLY" .bool, rwObj 0x10 "HOLDOVER_TICKS" .u32 1526 (inRange 1 (2 ^ 24)),
  ctrObj 0x11 "STEP_COUNT" .keeps, viewObj 0x12 "LAST_STEP" .i64, viewObj 0x13 "UTC_OFFSET" .i64, viewObj 0x14 "TOD_FLAGS" .u8,
  ctrObj 0x15 "PPS_MISSING" .keeps, viewObj 0x16 "CLOCK_STATUS" .u8, rwObj 0x17 "PPS_WINDOW" (.grains 36) (2 ^ 26),
  rwlObj 0x18 "TIME_SNAP" .time84lo, rwlObj 0x19 "TIME_SNAP+1" .time84hi, ctrObj 0x1E "TOD_ERR" .keeps]

/-- Index 0x0500 (R436). -/
def twinObjs : List ObjInfo := [
  rwcObj 0x01 "TWIN_MODE" (.enum 1) 1, viewObj 0x02 "ROLE" (.enum 255), rwObj 0x03 "HINGE_ENABLE" .bool 1,
  viewObj 0x04 "HINGE_STATE" (.enum 3), viewObj 0x05 "HINGE_VERSION" .u8, viewObj 0x06 "PATH_STATE" .u8,
  viewObj 0x07 "PATH_DELAY_A" (.grains 20), viewObj 0x08 "PATH_DELAY_B" (.grains 20), rwObj 0x09 "PEER_EXPECT" .u64,
  viewObj 0x0A "PEER_HEALTH" .u64, viewObj 0x0B "HEALTH_WORD" .u64, rwObj 0x0C "DEMOTE_ON_FAULT" .u8 0x07,
  rwObj 0x0D "FAULT_WINDOW" (.grains 64) (2 ^ 30) (inRange (2 ^ 24) (2 ^ 36)), woObj 0x0E "DEMOTE" .strobe, woObj 0x0F "REINSTATE" .strobe,
  viewObj 0x10 "MIRROR_SEQ" .u64, viewObj 0x11 "MIRROR_ACKED" .u64, viewObj 0x12 "MIRROR_LOST" .bool,
  rwObj 0x13 "AUTO_RESYNC" .bool 1, woObj 0x14 "RESYNC" .strobe, viewObj 0x15 "RESYNC_STATE" (.enum 2),
  viewObj 0x16 "CONFIG_DIGEST" .u64, viewObj 0x17 "PEER_CONFIG_DIGEST" .u64,
  rwObj 0x18 "DIGEST_WAIT" (.grains 64) (2 ^ 21) (inRange (2 ^ 14) (2 ^ 25)), rwObj 0x19 "SLOW_LIMIT" .u16 8 (inRange 1 1024),
  rwObj 0x1A "BULK_TOL_FRAMES" .u32 2048, rwObj 0x1B "BULK_TOL_OCTETS" .u32 262144,
  rwObj 0x1C "BULK_PERSIST" .u8 3 (inRange 1 255), rwObj 0x1D "PN_SLACK" .u32 4096 (inRange 1 (2 ^ 24)),
  rwObj 0x1E "TIME_ALIGN_LIMIT" (.grains 64) (2 ^ 12) (inRange (2 ^ 6) (2 ^ 24)), viewObj 0x1F "PEER_TIME_OFFSET" .i64,
  viewObj 0x20 "MISMATCH_CAPTURE" .u64]
  ++ (["EXPRESS_MISMATCH", "BULK_MISMATCH", "PN_MISMATCH", "LATE_DIGEST", "UNEXPLAINED", "HEARTBEAT_MISS_A", "HEARTBEAT_MISS_B",
       "HINGE_CRC_ERR", "MIRROR_OVERFLOW", "HINGE_KEY_FAIL", "TAKEOVERS", "DEMOTIONS"].zipIdx.map
       fun e => ctrObj (0x21 + e.2) e.1 .clears)
  ++ [rwObj 0x30 "STEST_ENABLE" .bool 1, ctrObj 0x31 "STEST_ROTATIONS" .clears, viewObj 0x32 "STEST_SPARES" .u32,
      viewObj 0x33 "STEST_CAPTURE" .u32, viewObj 0x34 "PAIRED_CAPTURE" .u32]

/-- Index 0x0600 (R221). -/
def keysObjs : List ObjInfo := [
  viewObj 0x01 "KEY_STORE_STATE" (.enum 2), viewObj 0x02 "TAMPER_LATCH" .u8, woObj 0x03 "TAMPER_CLR" .u8 (within 0xF),
  viewObj 0x04 "TAMPER_LIVE" .u8, viewObj 0x05 "TAMPER_COUNT" .u32, viewObj 0x06 "TAMPER_LAST" .time84lo,
  viewObj 0x07 "TAMPER_LAST+1" .time84hi, woObj 0x08 "ERASE_ALL" .strobe, viewObj 0x09 "KEY_ALARM_CAUSE" .u32,
  woObj 0x0A "KEY_ALARM_CLR" .u32, viewObj 0x0B "KEY_ALARM_SLOT" .u32, ctrObj 0x0C "KEY_ECC_CORRECTED" .keeps,
  ctrObj 0x0D "WRAP_FAIL" .keeps, rwObj 0x0E "SLOT_STATUS_SEL" .u16, viewObj 0x0F "SLOT_STATUS" .u32,
  rwObj 0x10 "CKEY_SEL" .u8 0 (inRange 0 3), woObj 0x11 "CKEY_CTRL" .u64, woObj 0x12 "CKEY_DATA0" .u64, woObj 0x13 "CKEY_DATA1" .u64,
  woObj 0x14 "CKEY_DATA2" .u64, woObj 0x15 "CKEY_DATA3" .u64, woObj 0x16 "CKEY_DATA4" .u64, woObj 0x17 "CKEY_DATA5" .u64,
  woObj 0x18 "CKEY_DATA6" .u64, woObj 0x19 "CKEY_COMMIT" .strobe, viewObj 0x1A "CKEY_STATUS" .u8,
  viewObj 0x20 "TRNG_STATE" (.enum 3), woObj 0x21 "TRNG_RESTART" .strobe, rwObj 0x22 "RCT_CUTOFF" .u16 41 (inRange 21 255),
  rwObj 0x23 "APT_CUTOFF" .u16 800 (inRange 720 1024), ctrObj 0x24 "RCT_FAIL" .keeps, ctrObj 0x25 "APT_FAIL" .keeps,
  viewObj 0x30 "IDENTITY_PUB" .domain, viewObj 0x31 "IDENTITY_CERT_LEN" .u16, viewObj 0x32 "IDENTITY_CERT" .domain,
  viewObj 0x33 "SERIAL" .u64, woObj 0x34 "ATTEST_NONCE" .domain, viewObj 0x35 "ATTEST_STATE" (.enum 2),
  viewObj 0x36 "ATTEST_REPORT" .domain, viewObj 0x37 "ADOPT_STATE" (.enum 1), woObj 0x38 "ADOPT_CHECK" .u64,
  woObj 0x39 "ADOPT" .strobe, viewObj 0x3A "PEER_ID_HASH" .u64]

/-- A LATCH_WATCH value: no reserved bit set and EVENT names a source (R530). -/
def watchOk (v : Nat) : Bool := within 0x8001FFFF00000FFF v && isSource (v % 4096)

/-- Index 0x0700 (R530). -/
def eventsObjs : List ObjInfo := [
  ctrObj 0x01 "REC_BUS_ERR" .clears, viewObj 0x02 "REC_BUS_CAPTURE" .u32, ctrObj 0x03 "DELIVERIES" .clears,
  viewObj 0x04 "PENDING_COUNT" .u32, rwObj 0x10 "LATCH_ENABLE" .bool, viewObj 0x11 "LATCH_FIRED" .u64,
  woObj 0x12 "LATCH_FIRED_CLR" .u64, ctrObj 0x13 "LATCH_WAKES" .clears]
  ++ runOf 0x40 64 fun _ => rwObj 0 "LATCH_WATCH" .u64 0 watchOk

/-- Index 0x0800 + r (R480, R481): local numbers 0–31 of a quarter are transmit rings, 32–63 receive rings. -/
def ringObjs (r : Nat) : List ObjInfo := [
  rwObj 0x01 "RING_ENABLE" .bool, viewObj 0x02 "RING_STATE" (.enum 3), rwcObj 0x03 "RING_BASE" .u64 0 (fun v => v % 64 == 0),
  rwcObj 0x04 "RING_SIZE" .u32 256 (fun v => (List.range 14).any fun k => v == 2 ^ (k + 3)),
  rwcObj 0x05 "RING_TYPE" (.enum 3) (if r % 64 < 32 then 0 else 3) (fun v => if r % 64 < 32 then v ≤ 2 else v == 3),
  rwcObj 0x06 "DESC_FORMAT" (.enum 1) 1, rwcObj 0x07 "SNOOP" .bool, rwObj 0x08 "PRIORITY" .u8 0 (inRange 0 3),
  rwcObj 0x09 "RING_PORT" .u16 0xFFFF (fun v => v < 1024 || v == 0xFFFF), rwcObj 0x0A "RX_FRAME_MAX" .u16 16128 (inRange 64 16128),
  rwcObj 0x0B "DIRECT_RESERVE" .u32 32768 (inRange 1024 262144), rwlObj 0x0C "TAIL" .u16, viewObj 0x0D "HEAD" .u16,
  viewObj 0x0E "RING_CAUSE" .u32, woObj 0x0F "RING_CAUSE_CLR" .u32, rwObj 0x10 "RING_CAUSE_MASK" .u32 0x7F,
  ctrObj 0x11 "COMPLETED" .clears, ctrObj 0x12 "RING_OCTETS" .clears, ctrObj 0x13 "RING_DROP" .clears, ctrObj 0x14 "RING_BAD" .clears,
  ctrObj 0x15 "RING_ERR_DISCARD" .clears, ctrObj 0x16 "CMP_MISMATCH" .clears, ctrObj 0x17 "RING_DISCARD" .clears]

/-- Index 0x0900 + q (R504). -/
def quarterObjs : List ObjInfo := [
  ctrObj 1 "BUS_ERR" .keeps, viewObj 2 "BUS_ERR_ADDR" .u64, viewObj 3 "BUS_ERR_INFO" .u32, ctrObj 4 "RX_STAGE_DROP" .keeps,
  viewObj 5 "STAGE_IN_USE" .u32, ctrObj 6 "READ_OCTETS" .keeps, ctrObj 7 "WRITE_OCTETS" .keeps, viewObj 8 "WINDOW_BASE" .u64,
  ctrObj 9 "CSUM_SKIPPED" .keeps]

/-- Index 0x0A00 (R423). -/
def calCommonObjs : List ObjInfo := [
  ctrObj 0x01 "DIGEST_LATE" .clears, rwObj 0x10 "DIGEST_SEL" .u16 0 (inRange 0 1023), viewObj 0x11 "DIGEST_CYCLE" .u64,
  viewObj 0x12 "DIGEST_SUM" .u64, viewObj 0x13 "DIGEST_COUNT" .u32]

/-- Index 0x0B00 (R469). -/
def ctrCommonObjs : List ObjInfo := [
  rwObj 0x01 "SNAP_PORT" .u16 0 (inRange 0 1023), woObj 0x02 "SNAP" .strobe, viewObj 0x03 "SNAP_STATE" (.enum 1),
  viewObj 0x04 "SNAP_HELD_PORT" .u16, viewObj 0x05 "SNAP_TIME" .time84lo, viewObj 0x06 "SNAP_TIME+1" .time84hi,
  woObj 0x07 "SNAP_RELEASE" .strobe, viewObj 0x08 "HALF_NEXT" .u64, viewObj 0x09 "HALF_PENDING" .u32,
  rwObj 0x10 "PEEP_ENABLE" .bool 1]

/-- A TPID_ALT value (R126's neighbour in the port map): 0, or 0x0600–0xFFFF without the listed EtherTypes. -/
def tpidOk (v : Nat) : Bool :=
  v == 0 || (0x600 ≤ v && !([0x8100, 0x88A8, 0x8808, 0x88B5, 0x88B6, 0x88E5].contains v))

/-- Index 0x1000 + p: receive MAC, transmit MAC, MACsec, Doorlist and meter objects of one port. -/
def portMacObjs (p : Nat) : List ObjInfo := [
  rwObj 0x01 "PORT_ENABLE" .bool, viewObj 0x02 "PORT_STATE" (.enum 3), rwcObj 0x03 "SPEED" (.enum 7),
  rwcObj 0x04 "LANE_BASE" .u8 (p % 64) (inRange 0 63), rwcObj 0x05 "LANE_COUNT" .u8 1 (fun v => [1, 2, 4, 8].contains v),
  rwcObj 0x06 "FEC_MODE" (.enum 2), rwcObj 0x07 "MAX_FRAME" .u16 1522 (inRange 1518 16128), rwObj 0x08 "TPID_ALT" .u16 0 tpidOk,
  rwObj 0x09 "DEFAULT_VID" .u16 1 (inRange 1 4094), rwObj 0x0A "DEFAULT_PCP" .u8 0 (inRange 0 7),
  rwObj 0x0B "STATION_ADDR" (.octets 6), rwObj 0x0C "SYSTAG_RX" (.enum 3), rwObj 0x0D "GROUP_HASH_EN" .bool]
  ++ runOf 0x0E 8 (fun _ => rwObj 0 "GROUP_HASH" .u64 0xFFFFFFFFFFFFFFFF)
  ++ [viewObj 0x16 "LINK_STATE" (.enum 3), viewObj 0x17 "RX_CAUSE" .u32, woObj 0x18 "RX_CAUSE_CLR" .u32,
  rwObj 0x19 "RX_CAUSE_MASK" .u32 0xFF, ctrObj 0x1A "FEC_CORRECTED" .keeps, ctrObj 0x1B "FEC_UNCORRECTED" .keeps,
  rwcObj 0x20 "SYSTAG_TX" (.enum 1), viewObj 0x21 "TX_SILL" .u8, woObj 0x22 "TX_SILL_SET" .u8 (inRange 1 252),
  rwObj 0x23 "TX_SILL_FLOOR" .u8 2 (inRange 1 252), rwObj 0x24 "TX_SILL_DECAY" .u8 0 (fun v => v == 0 || (4 ≤ v && v ≤ 24)),
  viewObj 0x25 "TX_CAUSE" .u32, woObj 0x26 "TX_CAUSE_CLR" .u32, rwObj 0x27 "TX_CAUSE_MASK" .u32 0xFF]
  ++ [rwcObj 0x40 "MACSEC_MODE" (.enum 1), rwObj 0x41 "VALIDATE_FRAMES" (.enum 2) 2, rwObj 0x42 "REPLAY_PROTECT" .bool 1,
  rwObj 0x43 "REPLAY_WINDOW" .u32 0 (inRange 0 (2 ^ 30)), rwObj 0x44 "PROTECT_FRAMES" .bool 1, rwObj 0x45 "INCLUDE_SCI" .bool 1,
  rwObj 0x46 "USE_ES" .bool, rwObj 0x47 "CONF_OFFSET" (.enum 3) 1, rwObj 0x48 "TX_ENCODING_SA" .u8 0 (inRange 0 3),
  rwObj 0x49 "RX_MODE" (.enum 1), rwObj 0x4A "HOLD_LIMIT" .u16 16128 (inRange 64 16128), rwObj 0x4B "RX_IMPLICIT_SCI" (.octets 8),
  rwObj 0x4C "BYPASS_ETYPE" .u32 0x0000888E]
  ++ [rwObj 0x50 "DOOR_MISS" (.enum 3), rwObj 0x51 "DOOR_VIOLATION" (.enum 2),
  rwObj 0x52 "DOOR_PUNT_RING" .u16 0xFFFF (fun v => v ≤ 255 || v == 0xFFFF), rwObj 0x53 "DOOR_VID_MODE" (.enum 1),
  rwObj 0x54 "LEARN_LIMIT" .u16, viewObj 0x55 "LEARNED_COUNT" .u32, rwObj 0x56 "FLUSH_ON_DOWN" .bool 1,
  rwObj 0x58 "METER_SEL" (.enum 4), rwObj 0x59 "METER_BASE" .u16 0 (inRange 0 32767), rwObj 0x5A "COLOUR_SRC" (.enum 3),
  rwObj 0x5B "PCP_COLOUR" .u16, rwObj 0x5C "DSCP_COLOUR_LO" .u64, rwObj 0x5D "DSCP_COLOUR_HI" .u64,
  rwObj 0x5E "NONIP_COLOUR" (.enum 2)]

/-- The subindexes of SHUTTER_CAUSE and its neighbours and the other objects of index 0x1400 + p (R328). -/
def portGateObjs : List ObjInfo := [
  rwObj 0x01 "GATE_ENABLE" .bool, viewObj 0x02 "SHUTTER_STATE" (.enum 3), rwObj 0x03 "ADMIN_GATE_STATES" .u8 0xFF,
  rwObj 0x04 "ADMIN_LIST_LEN" .u16 0 (inRange 0 1024),
  rwObj 0x05 "ADMIN_CYCLE" (.grains 40) 68719476 (inRange (2 ^ 19) (2 ^ 40 - 1)),
  rwObj 0x06 "ADMIN_CYCLE_FRAC" .u32 0x005C007D (fun v => v % 65536 ≥ 1 && v / 65536 < v % 65536),
  rwObj 0x07 "ADMIN_BASE_TIME" .time84lo, rwObj 0x08 "ADMIN_BASE_TIME+1" .time84hi, rwObj 0x09 "ADMIN_CYCLE_EXT" (.grains 40),
  woObj 0x0A "CONFIG_CHANGE" .strobe, viewObj 0x0B "CHANGE_PENDING" .bool, viewObj 0x0C "CHANGE_TIME" .time84lo,
  viewObj 0x0D "CHANGE_TIME+1" .time84hi, viewObj 0x0E "OPER_LIST_LEN" .u16, viewObj 0x0F "OPER_CYCLE" (.grains 40),
  viewObj 0x10 "OPER_CYCLE_FRAC" .u32, viewObj 0x11 "OPER_BASE_TIME" .time84lo, viewObj 0x12 "OPER_BASE_TIME+1" .time84hi,
  viewObj 0x13 "OPER_CYCLE_EXT" (.grains 40), rwObj 0x14 "OPER_ENTRY_SEL" .u16 0 (inRange 0 1023), viewObj 0x15 "OPER_ENTRY" .u64,
  viewObj 0x16 "GATE_STATE" .u16, viewObj 0x17 "CYCLE_NUMBER" .u64, rwObj 0x18 "GUARD" (.grains 64) 0 (inRange 0 (2 ^ 24)),
  rwObj 0x19 "NEVER_FITS_MODE" (.enum 1), rwObj 0x1A "HOLD_ADVANCE" (.grains 64) 0 (inRange 0 (2 ^ 20)),
  rwObj 0x1B "REALIGN_THRESHOLD" (.grains 64) (2 ^ 16) (inRange 0 (2 ^ 40)), viewObj 0x1C "SHUTTER_CAUSE" .u32,
  woObj 0x1D "SHUTTER_CAUSE_CLR" .u32, rwObj 0x1E "SHUTTER_CAUSE_MASK" .u32 0xFF]
  ++ runOf 0x20 8 (fun _ => viewObj 0 "MAX_WINDOW" (.grains 40)) ++ [rwObj 0x28 "DIGEST_CLASSES" .u8]

/-- Index 0x1800 + p (R460). -/
def portCtrObjs : List ObjInfo := runOf 1 128 fun _ => ctrObj 0 "PORT_COUNTER" .clears

/-- Index 0x1C00 + p (R155, R328's sister maps of flow control, preemption and timestamps). -/
def portFcObjs : List ObjInfo := [
  rwObj 0x01 "FC_MODE" (.enum 2), rwObj 0x02 "PFC_PRIO_TC" .u32 0x00FAC688 (inRange 0 0xFFFFFF), viewObj 0x03 "PAUSE_STATE" .u8,
  rwcObj 0x04 "PREEMPT_EN" .bool, rwcObj 0x05 "RX_PREEMPT_MODE" (.enum 1),
  rwObj 0x06 "REASM_TIMEOUT" (.grains 36) (2 ^ 24) (inRange (2 ^ 10) (2 ^ 30)),
  rwObj 0x07 "RX_TS_ADJUST" .i64 0 (inSigned (2 ^ 24)), rwcObj 0x08 "PREEMPT_STATUS" .u8, rwObj 0x09 "VERIFY_DISABLE" .bool,
  rwObj 0x0A "VERIFY_TIME" .u8 10 (inRange 1 128), viewObj 0x0B "VERIFY_STATUS" (.enum 4),
  rwObj 0x0C "TX_PAUSE_QUANTA" .u16 0xFFFF (inRange 1 65535), rwObj 0x0D "TX_PAUSE_REFRESH" .u16 0x8000 (inRange 1 65535),
  rwObj 0x0E "TX_RESUME_EN" .bool 1, rwObj 0x0F "FC_FORCE" .u8, viewObj 0x10 "FC_XOFF" .u8, rwObj 0x11 "TS_MODE" (.enum 2),
  rwObj 0x12 "TS_TRANSPORT" .u8 7 (inRange 0 7), rwObj 0x13 "TX_TS_ADJUST" .i64 0 (inSigned (2 ^ 24)),
  rwObj 0x14 "TS_IPV6_TRAILER" .bool 1]

/-- Index 0x2000 + 16c + k (R541, R168, R205, R264, R286, R318, R352, R399, R424, R478). -/
def clusterObjs (k : Nat) : List ObjInfo := match k with
  | 0 => [rwObj 1 "CLUSTER_ENABLE" .bool, viewObj 2 "CLUSTER_STATE" (.enum 3), rwObj 3 "CLUSTER_MODE" (.enum 1),
      viewObj 4 "NIGHT_STATE" (.enum 3), rwObj 5 "CLOSED_POWER" (.enum 1), ctrObj 6 "WAKE_COUNT" .clears,
      viewObj 7 "WAKE_LATENCY" (.grains 20)]
  | 1 => [ctrObj 1 "INGRESS_BP_DROP" .keeps, ctrObj 2 "KNOCK_COUNT" .keeps, viewObj 3 "KNOCK_LAST" .u32,
      viewObj 4 "REASM_RESERVED" .u32]
  | 2 => [viewObj 1 "PN_ALERT" .u32, viewObj 2 "PN_ALERT_LOST" .bool, viewObj 3 "HOLD_IN_USE" .u32, viewObj 4 "HOLD_PEAK" .u32,
      ctrObj 5 "HOLD_FALLBACK" .keeps, ctrObj 6 "MACSEC_STOMP" .keeps, ctrObj 7 "MASK_RESEED_MISS" .keeps]
  | 3 => [rwcObj 1 "HASH_SALT" .u32, rwObj 2 "AGE_INTERVAL" (.grains 48) 0x64000000000 (fun v => v == 0 || 2 ^ 26 ≤ v),
      viewObj 3 "OCCUPANCY" .u32, rwObj 4 "OCC_ALERT" .u32 58982, ctrObj 5 "INSERT_FAIL" .keeps, ctrObj 6 "LEARN_DROP" .keeps,
      ctrObj 7 "AGED_OUT" .keeps, ctrObj 8 "MOVES" .keeps, ctrObj 9 "RELOCATIONS" .keeps, ctrObj 0xA "PARITY_ERR" .keeps,
      viewObj 0xB "PARITY_CAPTURE" .u32, ctrObj 0xC "PUNT_DROP" .keeps, rwObj 0xD "FLUSH_SEL" .u32 0 (within 0x713F),
      woObj 0xE "FLUSH" .strobe, viewObj 0xF "FLUSH_BUSY" .bool]
  | 4 => [ctrObj 1 "METER_ECC_ERR" .keeps, viewObj 2 "METER_ECC_CAPTURE" .u32]
  | 5 => [ctrObj 1 "ENQ_INVALID" .keeps, viewObj 2 "LATHE_ENTRIES" .u32, ctrObj 3 "LATHE_RETURNS" .keeps,
      ctrObj 4 "LATHE_LATE" .keeps, viewObj 5 "LATHE_MAX_LATE" (.grains 20), ctrObj 6 "SCHED_ECC_ERR" .keeps,
      viewObj 7 "SCHED_ECC_CAPTURE" .u32, ctrObj 8 "GRANTS" .keeps, viewObj 9 "NODES_VALID" .u32]
  | 6 => [ctrObj 1 "SHUTTER_ECC_ERR" .keeps, viewObj 2 "SHUTTER_ECC_CAPTURE" .u32]
  | 7 => [rwlObj 1 "TX_TS_META" .u64, rwlObj 2 "TX_TS_STAMP" .u64, viewObj 3 "TX_TS_DEPTH" .u32, ctrObj 4 "TX_TS_LOST" .keeps,
      ctrObj 5 "TX_BUF_ECC_ERR" .keeps]
  | 8 => [viewObj 1 "CAL_CAPTURE" .u32, viewObj 2 "CAL_HOLD_IN_USE" .u32, ctrObj 3 "CAL_ECC_ERR" .keeps,
      viewObj 4 "CAL_ECC_CAPTURE" .u32]
  | 9 => [viewObj 1 "HALF_NEXT" .u64, viewObj 2 "HALF_PENDING" .u32, viewObj 3 "PEEP_BUF_IN_USE" .u32]
  | _ => []

/-- A field of a table row that a row image carries. -/
def fieldObj (sub : Nat) (name : String) (ty : ObjType) (dflt : Nat := 0) (ok : Nat → Bool := fun _ => true) : ObjInfo :=
  { sub, name, ty, acc := .rw, dflt, ok, home := .field }

/-- A write-only field of a key slot row (R211). -/
def keyField (sub : Nat) (name : String) : ObjInfo := { sub, name, ty := .u64, acc := .wo, home := .field }

/-- An RO field of a table row computed from the unit's state. -/
def rowView (sub : Nat) (name : String) : ObjInfo := viewObj sub name .u64

/-- The fields of a window's table, at w.02–w.0F (R69 and the owning chapters). -/
def tableFields (t : Nat) : List ObjInfo := match t with
  | 0 => [fieldObj 2 "LEAF_CTRL" .u64, fieldObj 3 "LEAF_CIR" .rate, fieldObj 4 "LEAF_CBS" .u32 0 (inRange 0 16777215),
      fieldObj 5 "LEAF_PIR" .rate, fieldObj 6 "LEAF_PBS" .u32 0 (inRange 0 16777215), rowView 7 "LEAF_STATE", rowView 8 "LEAF_TOKENS",
      woObj 9 "RETURN" .strobe, ctrObj 0xA "GRANT_FRAMES" .clears, ctrObj 0xB "GRANT_OCTETS" .clears]
  | 1 => [fieldObj 2 "NODE_CTRL" .u64, fieldObj 3 "NODE_CIR" .rate, fieldObj 4 "NODE_CBS" .u32 0 (inRange 0 16777215),
      fieldObj 5 "NODE_PIR" .rate, fieldObj 6 "NODE_PBS" .u32 0 (inRange 0 16777215), rowView 7 "NODE_STATE", rowView 8 "NODE_TOKENS",
      woObj 9 "RETURN" .strobe, ctrObj 0xA "GRANT_FRAMES" .clears, ctrObj 0xB "GRANT_OCTETS" .clears]
  | 2 => [fieldObj 2 "PORT_SCHED_CTRL" .u64 0x00140000, fieldObj 3 "ETS_WEIGHTS" .u64, fieldObj 4 "PORT_RATE" .rate,
      fieldObj 5 "PORT_BURST" .u32 0 (inRange 0 16777215), rowView 6 "PORT_SCHED_STATE", rowView 7 "PORT_TOKENS",
      woObj 8 "RETURN" .strobe, rowView 9 "AHEAD"]
  | 3 => [fieldObj 2 "METER_CTRL" .u64, fieldObj 3 "RATE1" .rate, fieldObj 4 "BURST1" .u32 0 (inRange 0 16777215),
      fieldObj 5 "RATE2" .rate, fieldObj 6 "BURST2" .u32 0 (inRange 0 16777215), rowView 7 "BUCKETS", woObj 8 "SETTLE" .strobe]
      ++ runOf 9 7 fun _ => ctrObj 0 "METER_COUNTER" .clears
  | 4 => [fieldObj 2 "VMAP" .u64]
  | 5 => [fieldObj 2 "DOOR_MAC" (.octets 6), fieldObj 3 "DOOR_CTRL" .u64, rowView 4 "DOOR_STATE"]
  | 6 => [keyField 2 "KEY_CTRL", keyField 3 "KEY_DATA0", keyField 4 "KEY_DATA1", keyField 5 "KEY_DATA2", keyField 6 "KEY_DATA3",
      keyField 7 "KEY_DATA4", keyField 8 "KEY_DATA5", keyField 9 "KEY_DATA6"]
  | 7 => [fieldObj 2 "SA_CTRL" .u64, fieldObj 3 "SCI" (.octets 8), fieldObj 4 "NEXT_PN" .u64 1, fieldObj 5 "PN_THRESHOLD" .u64]
      ++ runOf 6 10 fun _ => ctrObj 0 "SA_COUNTER" .clears
  | 8 => [fieldObj 2 "CAL_CTRL" .u64, fieldObj 3 "CAL_POLY" .u64, fieldObj 4 "CAL_INIT" .u64, fieldObj 5 "CAL_XOROUT" .u64,
      fieldObj 6 "CAL_SPAN" .u64, fieldObj 7 "CAL_ALIVE" .u64, fieldObj 8 "CAL_FOLD" .u64, fieldObj 9 "CAL_EXPECT" .u64,
      fieldObj 0xA "CAL_RUNNING" .u64, fieldObj 0xB "CAL_STATE" .u64] ++ runOf 0xC 4 fun _ => ctrObj 0 "CAL_COUNTER" .clears
  | 9 => [fieldObj 2 "RULE_CTRL" .u64, fieldObj 3 "RULE_MATCH" .u64, fieldObj 4 "RULE_VALUE" (.octets 8), fieldObj 5 "RULE_MASK" .u64,
      ctrObj 6 "RULE_HITS" .clears]
  | 0xA => [fieldObj 2 "SHUTTER_ENTRY" .u64]
  | 0xB => [fieldObj 2 "KNOCK_CTRL" .u64, fieldObj 3 "KNOCK_SA" (.octets 6), fieldObj 4 "KNOCK_MASK_LO" .u64,
      fieldObj 5 "KNOCK_MASK_HI" .u64, { sub := 6, name := "PATTERN", ty := .domain, acc := .rw, home := .field }]
  | 0xC => [fieldObj 2 "PEEP_CTRL" .u64, fieldObj 3 "PEEP_SAMPLE" .u32 0 (inRange 0 0xFFFF), fieldObj 4 "PEEP_DEST" .u64 0 (within 0x7FFF3FFF),
      ctrObj 5 "PEEP_SEEN" .clears, ctrObj 6 "PEEP_COPIES" .clears, ctrObj 7 "PEEP_DROP" .clears]
  | _ => []

/-- Number of rows of a table (R68). -/
def tableRows (t : Nat) : Nat := match t with
  | 0 => 65536 | 1 => 4096 | 2 => 64 | 3 => 32768 | 4 => 4096 | 5 => 65536 | 6 => 4096 | 7 => 4096 | 8 => 256 | 9 => 256
  | 0xA => 65536 | 0xB => 32 | 0xC => 16 | _ => 0

/-- The number of 8-byte slots of a row image in DATA (ROW_BYTES / 8; R69, R162, R211 …). Slot 6 of a knock row is the
first of the 16 slots of PATTERN. -/
def tableImageSlots (t : Nat) : Nat := match t with
  | 0 => 5 | 1 => 5 | 2 => 4 | 3 => 5 | 4 => 1 | 5 => 2 | 6 => 8 | 7 => 4 | 8 => 8 | 9 => 4 | 0xA => 1 | 0xB => 20 | 0xC => 3 | _ => 0

/-- The objects every table window has (R69). -/
def windowObjs (t : Nat) : List ObjInfo :=
  rwObj 0x01 "ROW" .u32 :: tableFields t ++
  [woObj 0x10 "COMMIT" .strobe, viewObj 0x11 "STATUS" (.enum 0x0A), viewObj 0x12 "ROW_COUNT" .u32, viewObj 0x13 "ROW_BYTES" .u16,
   woObj 0x14 "DATA" .domain]

/-- Index 0x4000 + b (R511). -/
def bankObjs : List ObjInfo := [
  viewObj 1 "PENDING" .u64, woObj 2 "PENDING_SET" .u64, woObj 3 "PENDING_CLR" .u64, viewObj 4 "MASK" .u64, woObj 5 "MASK_SET" .u64,
  woObj 6 "MASK_CLR" .u64, viewObj 7 "ACTIVE" .u64]

/-- Index 0x5000 + e (R512). -/
def sourceObjs (e : Nat) : List ObjInfo := [
  rwObj 1 "SRC_CFG" .u64 (0x0000000100000010 + if isLevel e then 0x20 else 0), viewObj 2 "SRC_STATE" (.enum 3),
  viewObj 3 "SRC_DATA" .u16, viewObj 4 "SRC_OWNER" .u8, ctrObj 5 "SRC_COUNT" .clears]

/-- Index 0x6000 + 0x80t (R514). -/
def targetObjs : List ObjInfo := [
  rwObj 1 "TARGET_ENABLE" .bool, rwObj 2 "PRIO_BAND" .u32 0x00FAC688 (inRange 0 0xFFFFFF), viewObj 3 "RUNNING_PRIO" (.enum 8),
  viewObj 4 "STACK_DEPTH" .u8, rwlObj 5 "ENTER" .u8 (inRange 0 7), rwlObj 6 "EXIT" .u8 (inRange 0 7),
  rwlObj 7 "CLAIM_SEL" .u16, rwlObj 8 "CLAIM" .u16, rwlObj 9 "DONE" .u16, ctrObj 0xA "STACK_FAULTS" .clears,
  ctrObj 0xB "SPURIOUS" .clears, viewObj 0xC "IRQ_STATE" .u16]

/-- Index 0x6010 + 0x80t + b (R515). -/
def bandObjs : List ObjInfo := [
  rwObj 1 "REC_ENABLE" .bool, rwcObj 2 "REC_BASE" .u64 0 (fun v => v % 64 == 0),
  rwcObj 3 "REC_SIZE" .u32 256 (fun v => (List.range 13).any fun k => v == 2 ^ (k + 4)),
  rwcObj 4 "REC_SNOOP" .bool, viewObj 5 "REC_TAIL" .u16, rwlObj 6 "REC_HEAD" .u16,
  rwObj 7 "REC_COAL" .u64 1 (fun v => v % 65536 != 0), ctrObj 8 "REC_WRITTEN" .clears,
  ctrObj 9 "REC_SKIPPED" .clears]

/-- The objects of a unit's index, FORMAT (subindex 0) apart. -/
def objsOf : Ix → List ObjInfo
  | .ident => identObjs | .comm => commObjs | .power => powerObjs | .time => timeObjs | .twin => twinObjs | .keys => keysObjs
  | .events => eventsObjs | .ring r => ringObjs r | .quarter _ => quarterObjs | .calCommon => calCommonObjs
  | .ctrCommon => ctrCommonObjs | .portMac p => portMacObjs p | .portGate _ => portGateObjs | .portCtr _ => portCtrObjs
  | .portFc _ => portFcObjs | .cluster _ k => clusterObjs k | .window _ t => windowObjs t | .bank _ => bankObjs
  | .source e => sourceObjs e | .target _ => targetObjs | .band _ _ => bandObjs

/-- The line of the map for one object, if it exists (R55). -/
def objInfo (idx sub : Nat) : Option ObjInfo :=
  match classify idx with
  | none => none
  | some ix => (objsOf ix).find? fun o => o.sub == sub

/-- The key of an object, or of a row field, in the stores of the state. -/
def slotKey (idx sub row : Nat) : Nat := (idx * 256 + sub) * 65536 + row

/-- The index, subindex and row of a key. -/
def keyIdx (k : Nat) : Nat := k / 65536 / 256
def keySub (k : Nat) : Nat := k / 65536 % 256
def keyRow (k : Nat) : Nat := k % 65536

/-- What an unlisted register or row field reads as: the default of its line (R95, R69). -/
def dfltOf (k : Nat) : Word :=
  match objInfo (keyIdx k) (keySub k) with
  | some o => Word.ofNat o.dflt
  | none => 0

/-- Whether an accepted write to the object is forwarded to the twin as a plain write (R64); table windows are
forwarded as row operations (R93). -/
def mirrored (idx sub : Nat) : Bool :=
  match classify idx with
  | some .ident => sub == 3
  | some .calCommon => true
  | some .ctrCommon => sub == 0x10
  | some (.portMac _) => true
  | some (.portGate _) => true
  | some (.portFc _) => sub != 0x07 && sub != 0x13
  | some (.cluster _ _) => true
  | _ => false

/-- Whether the index exists. -/
def indexExists (idx : Nat) : Bool := (classify idx).isSome

end Sys2Proof.Machine
end

