-- ==== Sys2Proof/Machine/Map.lean ====
section
/-!
DEFINITION. Sparse stores in one canonical form: a list of (key, value) pairs, keys strictly rising, no pair whose
value equals what an unlisted key reads as. Equal stores are equal data.
-/
namespace Sys2Proof.Machine

/-- A sparse store: key and value, keys strictly rising. -/
abbrev SMap (α : Type) := List (Nat × α)

namespace SMap
variable {α : Type}

/-- The value at `k`; an unlisted key reads as `d`. -/
def get (d : α) : SMap α → Nat → α
  | [], _ => d
  | (j, v) :: t, k => if j = k then v else get d t k

/-- The store with `k` removed. -/
def erase : SMap α → Nat → SMap α
  | [], _ => []
  | (j, v) :: t, k => if j = k then erase t k else (j, v) :: erase t k

/-- The store with `v` listed at `k`, whatever `v` is. -/
def put : SMap α → Nat → α → SMap α
  | [], k, v => [(k, v)]
  | (j, w) :: t, k, v => if j = k then (k, v) :: t else if j < k then (j, w) :: put t k v else (k, v) :: (j, w) :: t

/-- The store with `k` made `v`; a value equal to the unlisted value `d` removes the entry. -/
def set [DecidableEq α] (d : α) (m : SMap α) (k : Nat) (v : α) : SMap α :=
  if v = d then erase m k else put m k v

/-- The keys listed whose pair satisfies `p`, rising. -/
def keysWhere (p : Nat → α → Bool) (m : SMap α) : List Nat := (m.filter fun e => p e.1 e.2).map (·.1)

/-- The store with every listed key that satisfies `p` removed. -/
def eraseWhere (p : Nat → Bool) (m : SMap α) : SMap α := m.filter fun e => !p e.1

/-- Every key of the list is above `k`. -/
def above (k : Nat) (m : SMap α) : Bool := m.all fun e => k < e.1

/-- Keys strictly rising. -/
def rising : SMap α → Bool
  | [] => true
  | (k, _) :: t => above k t && rising t

/-- The canonical form: keys strictly rising and no listed value equal to the unlisted value. -/
def wf [DecidableEq α] (d : α) (m : SMap α) : Bool := rising m && m.all fun e => e.2 ≠ d

end SMap
end Sys2Proof.Machine
end

