-- ==== Sys2Proof/Machine/UnitsCore.lean ====
section
/-!
DEFINITION. State of the common units: power domains and reset, the time core, the event controller and the Night
Latch, the counters' half-range machinery, and the dictionary engine.
-/
namespace Sys2Proof.Machine

/-- The states of every function with an enable object (R540). -/
inductive FnState
  | closed | opening | opened | closing
  deriving DecidableEq, Repr

/-- The code of a function state in its state object. -/
def FnState.code : FnState → Nat
  | .closed => 0 | .opening => 1 | .opened => 2 | .closing => 3

/-- pwr_req and pwr_ack values (R50). -/
inductive Pwr
  | off | retain | on
  deriving DecidableEq, Repr

def Pwr.code : Pwr → Nat
  | .off => 0 | .retain => 1 | .on => 3

/-- The power state a two-bit code names; 2 is reserved and never reaches here (R535). -/
def Pwr.ofCode : Nat → Pwr
  | 0 => .off | 1 => .retain | _ => .on

/-- What a power-domain change waits for (R537, R539, R97). -/
inductive DomPhase
  /-- no change in progress: BUSY reads 0 -/
  | idle
  /-- the domain's functions are closing before isolation -/
  | closing
  /-- TIME must first be ON with the PLL locked -/
  | waitTime
  /-- pwr_req differs from pwr_ack -/
  | switching
  /-- pwr_ack shows ON; waiting for the PLL (R98, R539) -/
  | restoring
  deriving DecidableEq, Repr

/-- One power domain (R535, R536, R50–R52). -/
structure Domain where
  /-- REQ: requested state -/
  req : Pwr := .off
  /-- pwr_req pin -/
  pin : Pwr := .off
  /-- STATE: pwr_ack pin -/
  ack : Pwr := .off
  /-- the state the change in progress ends in -/
  goal : Pwr := .off
  phase : DomPhase := .idle
  /-- HELD (R52) -/
  held : Bool := false
  /-- the last request latched while BUSY, and the transport it came by; none for a request of the complex itself (R537) -/
  latched : Option (Pwr × Option Transport) := none
  /-- the change in progress started from OFF (R539) -/
  fromOff : Bool := false
  /-- isolation is applied (R50) -/
  isolated : Bool := true
  /-- AO time at which pwr_req last changed (R52) -/
  began : Nat := 0
  /-- run time at which the domain last left ON (R278) -/
  leftAt : Word := 0
  deriving DecidableEq, Repr

/-- BOOT_STATE (R536). -/
inductive Boot
  | ao | time | core | ready | sleep
  deriving DecidableEq, Repr

def Boot.code : Boot → Nat
  | .ao => 0 | .time => 1 | .core => 2 | .ready => 3 | .sleep => 4

/-- A RESET that has landed and waits for domain changes to complete (R552). -/
structure ResetJob where
  kind : Nat
  target : Nat
  source : Nat
  deriving DecidableEq, Repr

/-- The AO sequencer of a cold reset: at rest, taking the domains to OFF, or bringing the complex up (R552, R553). -/
inductive Sequencer
  | rest | down | up
  deriving DecidableEq, Repr

/-- The power controller's side of the complex (index 0x0300). -/
structure PowerUnit where
  doms : SMap Domain := []
  boot : Boot := .ao
  /-- RESET_CAUSE -/
  cause : Word := 0x80000000
  /-- a RESET waiting for domain changes (R552) -/
  waiting : Option ResetJob := none
  sequencer : Sequencer := .rest
  /-- the cold RESET in progress; none for por_n -/
  cold : Option ResetJob := none
  /-- domains that SLEEP took to RETAIN (R550) -/
  slept : List Nat := []
  /-- por_n pin -/
  porN : Bool := true
  /-- AO time since por_n rose, in CLK_ROOT periods of 312.5 ps (R52) -/
  clock : Nat := 0
  deriving DecidableEq, Repr

/-- NIGHT_STATE (R541). -/
inductive Night
  | awake | entering | listen | waking
  deriving DecidableEq, Repr

def Night.code : Night → Nat
  | .awake => 0 | .entering => 1 | .listen => 2 | .waking => 3

/-- The power side of one cluster (R541–R546). -/
structure ClusterPower where
  st : FnState := .closed
  /-- CLUSTER_ENABLE latched while CLOSING (R540) -/
  enLatched : Option Bool := none
  /-- CLUSTER_ENABLE 0 landed while OPENING (R540) -/
  closeAfterOpen : Bool := false
  night : Night := .awake
  /-- CLUSTER_MODE LISTEN landed while WAKING (R555) -/
  listenLatched : Bool := false
  /-- a wake arrived while ENTERING (R555) -/
  wakeLatched : Bool := false
  /-- run time of the last wake request -/
  wakeAt : Word := 0
  /-- WAKE_LATENCY -/
  wakeLatency : Word := 0
  /-- run time at which ENTERING began (R545) -/
  enteringAt : Word := 0
  deriving DecidableEq, Repr

/-- TIME_STATE (R106). -/
inductive TimeState
  | unset | freerun | tracking | holdover
  deriving DecidableEq, Repr

def TimeState.code : TimeState → Nat
  | .unset => 0 | .freerun => 1 | .tracking => 2 | .holdover => 3

/-- A TOD alignment due at the next management tick (R115). -/
structure TodAlign where
  /-- the message's TAI_SECONDS -/
  secs : Nat
  /-- the device second S at the edge -/
  edgeSec : Nat
  /-- run time of the edge -/
  edgeRun : Word
  deriving DecidableEq, Repr

/-- The time core (R100–R123). -/
structure TimeUnit where
  /-- device time with its 32-bit sub-grain fraction: seconds, 36 grain bits, 32 fraction bits (R100) -/
  acc : BitVec 116 := 0
  /-- run time with a 32-bit fraction (R103) -/
  run : BitVec 96 := 0
  st : TimeState := .unset
  /-- TICK_COUNT (R123) -/
  ticks : Word := 0
  /-- CLK_ROOT cycles, two to a CLK_DP cycle, since the last boundary of the tick grid (R123) -/
  tickAt : Nat := 0
  /-- management ticks since the last servo write (R106) -/
  sinceServo : Nat := 0
  /-- PPS_IN_TS: device time of the last edge -/
  ppsTs : BitVec 84 := 0
  /-- run time from which the next pps_in window is measured; none before the first edge (R114) -/
  ppsRef : Option Word := none
  /-- 0x825 has been raised since the last edge -/
  ppsMissed : Bool := false
  /-- run time at which the last valid time-of-day message completed, with its TAI_SECONDS (R115, R116) -/
  tod : Option (Word × Nat) := none
  align : Option TodAlign := none
  lastStep : Word := 0
  utcOffset : Word := 0
  todFlags : Byte := 0
  pllLocked : Bool := false
  refPresent : Bool := true
  /-- CLOCK_STATUS bit 2 -/
  restored : Bool := false
  /-- CLK_AO cycles counted while TIME is out of ON, in units of 1/16384 (R109) -/
  aoCount : Nat := 0
  /-- pps_out pin and the run time of its rise (R112) -/
  ppsOut : Bool := false
  ppsOutAt : Word := 0
  /-- the device second and EPOCH last seen at a carry or a step (R112, R120) -/
  secSeen : Nat := 0
  epochSeen : Nat := 0
  deriving DecidableEq, Repr

/-- The states of an event source (R510). -/
inductive SrcSt
  | idle | pending | active | activePending
  deriving DecidableEq, Repr

def SrcSt.code : SrcSt → Nat
  | .idle => 0 | .pending => 1 | .active => 2 | .activePending => 3

/-- One event source (R509, R510, R512). SRC_CFG and SRC_COUNT lie in the register and counter stores. -/
structure Source where
  st : SrcSt := .idle
  /-- SRC_DATA: DATA merged since the last delivery -/
  data : Nat := 0
  /-- STAMP of the raise that made the source pending (R519) -/
  stamp : Word := 0
  /-- SRC_OWNER; none reads 0xFF -/
  owner : Option Nat := none
  /-- the pending delivery follows DONE from ACTIVE_PENDING -/
  again : Bool := false
  /-- MASK bit -/
  mask : Bool := true
  /-- targets that received the record of the current delivery (R527) -/
  got : List Nat := []
  /-- the band ring and DATA, STAMP and REPEAT of the current delivery (R521) -/
  sentData : Nat := 0
  sentStamp : Word := 0
  sentAgain : Bool := false
  sentPrio : Nat := 0
  deriving DecidableEq, Repr

/-- One band ring of a target (R515). -/
structure BandRing where
  tail : Nat := 0
  head : Nat := 0
  /-- records written since REC_ENABLE, for SEQ and PHASE (R519) -/
  seq : Nat := 0
  /-- records gathered since the ring was last empty or the gathering restarted (R523) -/
  gathered : Nat := 0
  /-- run time of the first gathered record -/
  gatherAt : Word := 0
  /-- the source of the last record written, for an error response (R521) -/
  lastSrc : Nat := 0
  deriving DecidableEq, Repr

/-- One processor target (R514). -/
structure Target where
  /-- the running-priority stack, top first (R525) -/
  stack : List Nat := []
  claimSel : Nat := 0
  deriving DecidableEq, Repr

/-- The event controller and the Night Latch (index 0x0700). -/
structure EventUnit where
  sources : SMap Source := []
  targets : SMap Target := []
  /-- band rings by 8·target + band -/
  rings : SMap BandRing := []
  /-- REC_BUS_CAPTURE -/
  capture : Word := 0
  /-- LATCH_FIRED -/
  fired : Word := 0
  /-- DATA the latch recorded, per watch entry (R532) -/
  latchData : SMap Nat := []
  /-- a wake was issued while EVT was away (R532) -/
  wokeAway : Bool := false
  deriving DecidableEq, Repr

/-- Half-range queues and the snapshot (R464, R469). -/
structure CounterUnit where
  /-- pending bits: the keys of the counters pending -/
  pending : SMap Bool := []
  /-- the presentation FIFOs, oldest first: 0–15 clusters, 16 common -/
  fifos : SMap (List Nat) := []
  /-- the held block and its frozen values -/
  held : Option Nat := none
  frozen : SMap (BitVec 48) := []
  /-- SNAP_TIME -/
  snapTime : BitVec 84 := 0
  deriving DecidableEq, Repr

/-- The transport code of LAST_REFUSAL (R67). The spec gives the mirror stream no code; see the assumption log. -/
def Transport.code : Transport → Nat
  | .window => 0 | .can => 1 | .inband => 2 | .hinge => 3

/-- What an accepted write does when it lands. -/
inductive Effect
  /-- a write of an object -/
  | obj (idx sub : Nat) (v : Word)
  /-- a TIME84 object, committed by the write of its slot `sub` = s + 1 (R57) -/
  | time84 (idx sub : Nat) (v : BitVec 84)
  /-- a table row image committed to a row (COMMIT or DATA row, R93) -/
  | row (idx row : Nat) (image : List Word) (byData : Bool)
  /-- a row strobe: SETTLE or RETURN at `sub` (R93) -/
  | strobe (idx sub row : Nat)
  /-- CKEY_COMMIT: the common slot and the staged CKEY_CTRL and CKEY_DATA0–6 (R219, R220) -/
  | ckey (sel : Nat) (image : List Word)
  /-- a forwarded key row: SUITE and the image wrapped under the Hinge key, none for an ERASE (R438) -/
  | wrappedKey (idx row suite : Nat) (wrapped : Option Bytes)
  /-- a CONFIG_CHANGE or GATE_ENABLE with a forwarded change time (R350) -/
  | timed (idx sub : Nat) (v : Word) (tc : Nat)
  deriving DecidableEq, Repr

/-- An accepted write on its way to its unit (R15, R557). -/
structure Landing where
  via : Transport
  eff : Effect
  /-- TICK_COUNT at acceptance (R15, R281) -/
  tick : Word
  deriving DecidableEq, Repr

/-- A value that a landed write has replaced: a frame in progress finishes under the values it started with (R129, R163, R176). -/
structure Past where
  /-- run time of the change -/
  at_ : Word
  /-- the slot key of a row field; of an object otherwise -/
  row : Bool
  key : Nat
  /-- the value before it -/
  old : Word
  deriving DecidableEq, Repr

/-- A table window (R69, R556): ROW lies in `row`, STATUS, the staging slots and the partial DATA image beside it. -/
structure Window where
  row : Nat := 0
  status : Nat := 0
  /-- staging slots by subindex -/
  stage : SMap Word := []
  /-- the staged 16 slots of PATTERN (table 0x0B), as a stream -/
  pattern : List Word := []
  /-- stream offset of the staged PATTERN in slots (R73) -/
  patOff : Nat := 0
  /-- slots of a row image received through DATA, oldest first -/
  part : List Word := []
  deriving DecidableEq, Repr

/-- A BDP session and the last response of one source (R78, R79). -/
structure Session where
  /-- negotiated version; 0 while no session is open -/
  version : Nat := 0
  seq : Option Nat := none
  /-- the kept response PDU -/
  resp : Bytes := []
  deriving DecidableEq, Repr

/-- An in-band request queued for the dictionary engine (R88). -/
structure InbandReq where
  src : Bytes
  tag : Option (Nat × Nat)
  pdu : Bytes
  deriving DecidableEq, Repr

/-- The dictionary engine (index 0x0200 and the windows). -/
structure DictUnit where
  /-- accepted writes that have not landed, oldest first -/
  landing : List Landing := []
  windows : SMap Window := []
  /-- CAN FD sessions by source address; key 256 is the in-band session of one source address at a time -/
  sessions : SMap Session := []
  /-- in-band sessions by source MAC address -/
  inSessions : SMap Session := []
  queue : List InbandReq := []
  rxSeq : Word := 0
  txSeq : Word := 0
  lastRefusal : Word := 0
  /-- slots s+1 latched by a read of slot s (R57) -/
  latched : SMap (Option Word) := []
  /-- slots s of TIME84 objects written and not yet committed (R57) -/
  low84 : SMap Word := []
  /-- stream offsets of DOMAIN objects, in bytes (R73) -/
  offsets : SMap Nat := []
  /-- the newest health word that CAN FD has not sent yet, with its SEQ (R21, R82) -/
  health : Option (Word × Nat) := none
  deriving DecidableEq, Repr

end Sys2Proof.Machine
end

