-- ==== Sys2Proof/Machine/UnitsDma.lean ====
section
/-!
DEFINITION. State of the host DMA quarters: rings, receive staging, bus-error captures (R480–R507).
-/
namespace Sys2Proof.Machine

/-- Descriptors of a transmit ring that are read and not completed (R490, R498). -/
structure Chain where
  first : Nat
  count : Nat
  /-- the result and the stamp it completes with, once known -/
  done : Option (Nat × Option Word) := none
  /-- DONE_LEN where it is not the descriptor's LENGTH -/
  len : Option Nat := none
  deriving DecidableEq, Repr

/-- A descriptor as read from memory: ADDR, LENGTH, AUX and the control word (word 1 of either format) (R485, R486). -/
structure Desc where
  v1 : Bool
  addr : Nat
  aux : Word
  ctrl : Word
  status : Word
  deriving DecidableEq, Repr

/-- A MEMORY descriptor in progress: the bytes done, and the PRIORITY it was fetched under (R493). -/
structure Work where
  d : Desc
  off : Nat
  level : Nat
  deriving DecidableEq, Repr

/-- A ring's running state (R481–R490). RING_BASE, RING_SIZE and the like lie in the register store. -/
structure Ring where
  st : FnState := .closed
  /-- RING_ENABLE latched while CLOSING (R484) -/
  enLatched : Option Bool := none
  tail : Nat := 0
  head : Nat := 0
  /-- the next descriptor to fetch -/
  fetch : Nat := 0
  /-- receive: the next fetched descriptor that no frame has reserved -/
  next : Nat := 0
  /-- the doorbell flag (R488) -/
  door : Bool := false
  /-- a fetch returned OWN 0: the ring idles until TAIL is written -/
  idle : Bool := false
  /-- RING_CAUSE -/
  cause : Word := 0
  chains : List Chain := []
  /-- MEMORY: the descriptor whose beats are not all moved -/
  work : Option Work := none
  /-- FRAME: what the transmit staging holds of the frame being gathered (R497) -/
  buf : Bytes := []
  deriving DecidableEq, Repr

/-- A receive frame whole in the staging, with the descriptors reserved for it (R499). -/
structure Staged where
  ring : Nat
  first : Nat
  count : Nat
  /-- the bytes to deliver, without FCS, cut at RX_FRAME_MAX -/
  bytes : Bytes
  /-- of its descriptors those written, and the bytes left for the others -/
  sent : Nat := 0
  rest : Bytes := bytes
  cut : Bool
  stamp : Word
  port : Nat
  vid : Nat
  colour : Nat
  source : Nat
  /-- of a peephole copy: cluster, peephole, copy-buffer bytes -/
  copy : Option (Nat × Nat × Nat) := none
  deriving DecidableEq, Repr

/-- A quarter: BUS_ERR_ADDR, BUS_ERR_INFO, the receive staging, oldest first, and by level the ring that took the last turn, as its
local number (R493). -/
structure Quarter where
  addr : Word := 0
  info : Word := 0
  staged : List Staged := []
  turns : SMap Nat := []
  deriving DecidableEq, Repr

end Sys2Proof.Machine
end

