-- ==== Sys2Proof/Machine/UnitsTwin.lean ====
section
/-!
DEFINITION. State of twin operation: role, swing pins, Hinge paths, mirror stream, records, health, self-test (index 0x0500).
-/
namespace Sys2Proof.Machine

/-- The role codes (R427). -/
inductive Role
  | unadopted | active | standby | orphan | demoted
  deriving DecidableEq, Repr

def Role.code : Role → Nat
  | .unadopted => 0 | .active => 1 | .standby => 2 | .orphan => 3 | .demoted => 4

/-- PATH_STATE of one path (R436). -/
inductive PathSt
  | down | hello | up | refused
  deriving DecidableEq, Repr

def PathSt.code : PathSt → Nat
  | .down => 0 | .hello => 1 | .up => 2 | .refused => 3

/-- The messages of R431. -/
inductive HingeMsg
  | hello (h : Hello)
  /-- the echoed nonce, the signature (r then s) and the time the HELLO was held -/
  | helloAck (echo sig : Bytes) (held : Nat)
  /-- send time, the send time of the last peer heartbeat and its arrival, in device time -/
  | heartbeat (sent peerSent arrived : Nat)
  | health (w : Word)
  | stream (seq : Nat) (m : StreamMsg)
  | mirrorAck (seq : Nat)
  | express (r : ExpressRec)
  | bulk (r : BulkRec)
  | demoting
  deriving DecidableEq, Repr

/-- One Hinge path. -/
structure HingePath where
  st : PathSt := .down
  /-- version negotiated when it came up -/
  version : Nat := 0
  /-- PATH_DELAY -/
  delay : Nat := 0
  /-- own nonce of the last HELLO and its run time; none before the first -/
  nonce : Option Bytes := none
  helloAt : Word := 0
  /-- the last HELLO of the peer -/
  peer : Option Hello := none
  /-- run time of the last valid HEARTBEAT received, or of the path's rise, and misses counted since -/
  beatAt : Word := 0
  missed : Nat := 0
  /-- run time of the last HEARTBEAT sent -/
  sentAt : Word := 0
  /-- send time and arrival of the last peer heartbeat, in device time -/
  peerSent : Nat := 0
  arrived : Nat := 0
  refusedAt : Word := 0
  /-- the sequence number of the next message on the path -/
  txSeq : Nat := 0
  deriving DecidableEq, Repr

/-- RESYNC_STATE. -/
inductive Resync
  | idle | sending | receiving
  deriving DecidableEq, Repr

def Resync.code : Resync → Nat
  | .idle => 0 | .sending => 1 | .receiving => 2

/-- The bulk comparison of one port (R444). -/
structure BulkPort where
  /-- running totals, 48 bits -/
  frames : Nat := 0
  octets : Nat := 0
  fresh : Bool := true
  baseF : Nat := 0
  baseO : Nat := 0
  run : Nat := 0
  /-- the own record of the last interval, and a peer record of an interval not yet ended here -/
  own : Option BulkRec := none
  peer : Option BulkRec := none
  deriving DecidableEq, Repr

/-- An own digest record with the run time of its close (R443). -/
structure OwnRec where
  r : ExpressRec
  at_ : Word
  /-- it has been compared -/
  done : Bool := false
  deriving DecidableEq, Repr

/-- Twin operation (R427–R457). -/
structure TwinUnit where
  role : Role := .unadopted
  hinge : FnState := .closed
  /-- HINGE_ENABLE 1 latched while CLOSING, 0 landed while OPENING (R540) -/
  hingeLatched : Option Bool := none
  pathA : HingePath := {}
  pathB : HingePath := {}
  /-- PEER_HEALTH and the tick of its arrival -/
  peerHealth : Word := 0
  peerHealthTick : Option Word := none
  /-- both paths are DOWN after one has been UP (R434) -/
  peerLost : Bool := false
  /-- HEALTH_WORD of the current tick -/
  health : Word := 0
  /-- MIRROR_SEQ and MIRROR_ACKED -/
  seq : Nat := 0
  acked : Nat := 0
  /-- stream messages sent and not acknowledged, oldest first -/
  store : List (Nat × StreamMsg) := []
  /-- stream messages received before their turn -/
  hold : List (Nat × StreamMsg) := []
  /-- run time of the last MIRROR_ACK sent, and the sequence it carried -/
  ackAt : Word := 0
  ackSent : Nat := 0
  lost : Bool := false
  resync : Resync := .idle
  diverged : Bool := false
  /-- the last digest mark compared equal; false before the first -/
  marked : Bool := false
  peerDigest : Word := 0
  /-- the last 16 offsets measured, newest first, and PEER_TIME_OFFSET -/
  offsets : List Int := []
  offset : Int := 0
  misaligned : Bool := false
  mismatch : Word := 0
  disagreeAt : Option Word := none
  /-- own records of the last 2^26 gr and peer records that wait for the own close -/
  ownRecs : List OwnRec := []
  peerRecs : List ExpressRec := []
  /-- the peer's last reported PN by port (R452) -/
  peerPn : SMap PnInfo := []
  lateRun : Nat := 0
  timelyRun : Nat := 0
  slow : Bool := false
  bulk : SMap BulkPort := []
  /-- the last bulk interval whose records were sent -/
  bulkDone : Option Nat := none
  /-- run time of the last uncorrectable error reported; one reported and not yet acted on (R448, R450) -/
  eccAt : Option Word := none
  eccNew : Bool := false
  /-- the fault bits of R450 as last seen -/
  faultSeen : Nat := 0
  /-- KEY_ALARM_CAUSE bits that have become set and are not yet acted on (R226) -/
  alarmNew : Bool := false
  selftestFault : Bool := false
  pairedFault : Bool := false
  /-- STEST_SPARES, STEST_CAPTURE, PAIRED_CAPTURE -/
  spares : Word := 0x1FFFF
  stestCapture : Word := 0
  pairedCapture : Word := 0
  /-- wdx_alive, wdx_release, wdx_request; sel_mine and peer_alive -/
  alive : Bool := false
  release : Bool := false
  request : Bool := false
  selMine : Bool := false
  peerAlive : Bool := false
  /-- run times of the last toggle of wdx_alive and of the last change of peer_alive -/
  aliveAt : Word := 0
  peerAliveAt : Word := 0
  /-- toggles of peer_alive since wdx_request rose -/
  toggles : Nat := 0
  deriving DecidableEq, Repr

end Sys2Proof.Machine
end

