-- ==== Sys2Proof/Machine/UnitsKeys.lean ====
section
/-!
DEFINITION. State of the key store, the tamper sensors, the entropy source and the identity (index 0x0600).
-/
namespace Sys2Proof.Machine

/-- One cluster key slot: the master copy, the two working banks and the generation (R210). -/
structure KeySlot where
  master : Option KeyImg := none
  /-- the current bank -/
  cur : Option KeyImg := none
  /-- the other bank -/
  prev : Option KeyImg := none
  gen : Nat := 0
  /-- a landed LOAD whose bank write has not been made (R214) -/
  flip : Option KeyImg := none
  deriving DecidableEq, Repr

/-- TRNG_STATE (R229); RETRY leads to STARTUP immediately. -/
inductive TrngState
  | startup | running | retry | failed
  deriving DecidableEq, Repr

def TrngState.code : TrngState → Nat
  | .startup => 0 | .running => 1 | .retry => 2 | .failed => 3

/-- ATTEST_STATE (R231). -/
inductive AttestState
  | idle | busy | ready
  deriving DecidableEq, Repr

def AttestState.code : AttestState → Nat
  | .idle => 0 | .busy => 1 | .ready => 2

/-- The CTR_DRBGs (R204, R222, R227). -/
structure MaskUnit where
  /-- DRBG states: clusters 0–15, key store 16; zero when erased -/
  drbg : SMap (BitVec 384) := []
  /-- erased with the keys, and no tick has come since (R224) -/
  erased : Bool := true
  deriving DecidableEq, Repr

/-- The key store (R210–R235). -/
structure KeyUnit where
  /-- cluster slots by 4096·cluster + slot -/
  slots : SMap KeySlot := []
  /-- erases of every slot at once, which move every generation (R222) -/
  genBase : Nat := 0
  /-- common slots 0–3 -/
  common : SMap (Option KeyImg) := []
  /-- TAMPER_LATCH, TAMPER_LIVE -/
  latch : Nat := 0
  live : Nat := 0
  /-- TAMPER_COUNT -/
  count : Nat := 0
  /-- TAMPER_LAST -/
  last : BitVec 84 := 0
  /-- KEY_ALARM_CAUSE, KEY_ALARM_SLOT -/
  alarm : Word := 0
  alarmSlot : Word := 0
  /-- CKEY_CTRL and CKEY_DATA0–6 as staged, by subindex -/
  stage : SMap Word := []
  trng : TrngState := .startup
  /-- run times of the failures of the last second (R229) -/
  trngFails : List Word := []
  /-- ATTEST_NONCE bytes received, ATTEST_STATE, the nonce being signed and the report -/
  nonce : Bytes := []
  attest : AttestState := .idle
  signing : Bytes := []
  report : Bytes := []
  adopted : Bool := false
  adoptCheck : Word := 0
  /-- PEER_ID_HASH -/
  peerHash : Word := 0
  deriving DecidableEq, Repr

end Sys2Proof.Machine
end

