-- ==== Sys2Proof/Machine/UnitsPort.lean ====
section
/-!
DEFINITION. State of one port's receive side and of the cluster's receive engines: link, pause timers, reassembly,
ingress skid, Doorlist, meters, MACsec alerts.
-/
namespace Sys2Proof.Machine

/-- LINK_STATE (R131). -/
inductive Link
  | down | aligning | up | remoteFault
  deriving DecidableEq, Repr

def Link.code : Link → Nat
  | .down => 0 | .aligning => 1 | .up => 2 | .remoteFault => 3

/-- The code of an end status (R25). -/
def End.code : End → Nat
  | .good => 0 | .stomp => 1 | .trunc => 2

/-- The fields of the metadata word (R26). -/
structure FrameMeta where
  stamp : Word := 0
  port : Nat := 0
  length : Nat := 0
  vid : Nat := 0
  pcp : Nat := 0
  colour : Nat := 0
  door : Nat := 0
  calMark : Bool := false
  secured : Bool := false
  passMode : Bool := false
  srcDevice : Nat := 0
  flowHint : Nat := 0
  sysClass : Nat := 0
  srcPort : Nat := 0
  systag : Bool := false
  keySlot : Nat := 0
  deriving DecidableEq, Repr

/-- What the Doorlist has seen of a frame's source and does once the frame has ended GOOD (R253): nothing, an entry that is hit
and may move, or a station to learn. -/
inductive DoorSeen
  | none | hit | miss
  deriving DecidableEq, Repr

/-- What the Doorlist decides for a frame (R250, R251): the DOOR code, whether it goes to the core, the ring copy with its
SOURCE code, and what its source brings. -/
structure DoorOut where
  door : Nat := 0
  core : Bool := true
  punt : Option (Nat × Nat) := none
  seen : DoorSeen := .none
  deriving DecidableEq, Repr

/-- The parameters of a meter row (R271, R272). -/
structure MeterPar where
  enable : Bool
  alg : Nat
  blind : Bool
  cf : Bool
  lenAdj : Int
  rate1 : Nat
  burst1 : Int
  rate2 : Nat
  burst2 : Int
  deriving DecidableEq, Repr

/-- What a meter decision leaves to the frame's end (R277): its row and the row's parameters, the buckets debited, the charged
length and the colour. -/
structure MeterDue where
  row : Nat
  par : MeterPar
  debited : List Nat
  charged : Int
  colour : Nat
  deriving DecidableEq, Repr

/-- What the meter does with a frame (R279): its colour, whether MARK applies, whether it is dropped, what its end settles. -/
structure MeterOut where
  colour : Nat
  mark : Bool := false
  drop : Bool := false
  due : Option MeterDue := none
  deriving DecidableEq, Repr

/-- What the stages behind the receive MAC have decided for a frame: its metadata, the Doorlist's and the meter's outcome. -/
structure RxVerdict where
  info : FrameMeta
  door : DoorOut
  meter : MeterOut
  deriving DecidableEq, Repr

/-- How far a preemptable frame in CUT mode has come (R160): no stage has decided it, a filter of the receive MAC refused it, a
later stage discarded it, or it goes on with a verdict. -/
inductive RxStage
  | hold
  | filtered
  | gone
  | going (v : RxVerdict)
  deriving DecidableEq, Repr

/-- A preemptable frame under reassembly (R157–R160). -/
structure Reasm where
  /-- frame number 0–3 -/
  num : Nat
  /-- data bytes so far, mCRCs removed -/
  data : Bytes
  /-- the expected frag_count -/
  frag : Nat
  stamp : Word
  /-- run time at which the start fragment's first bit arrived -/
  begun : Word
  /-- run time at which the last fragment ended with its mCRC -/
  lastAt : Word := 0
  /-- the receive MAC has passed part of it on (CUT) -/
  passed : Bool := false
  stage : RxStage := .hold
  /-- bytes of it in the hold buffer of MACsec (R193) -/
  held : Nat := 0
  deriving DecidableEq, Repr

/-- An express frame, FCS included, waiting behind a preemptable frame in CUT mode (R160). -/
structure WaitFrame where
  bytes : Bytes
  stamp : Word
  /-- run time of its first bit -/
  begun : Word
  fin : End
  reason : Nat
  env : RxEnv
  deriving DecidableEq, Repr

/-- The receive side of a port. -/
structure PortRx where
  /-- PORT_STATE and what an enable written meanwhile latches (R540) -/
  st : FnState := .closed
  enLatched : Option Bool := none
  /-- PORT_ENABLE 0 landed while OPENING (R540) -/
  closeAfterOpen : Bool := false
  /-- run time at which CLOSING began (R395) -/
  closingAt : Word := 0
  link : Link := .down
  /-- run time at which ALIGNING began; ALIGN_FAIL already set for this stay (R131) -/
  alignAt : Word := 0
  alignFailed : Bool := false
  /-- RX_CAUSE -/
  cause : Word := 0
  /-- ends of the pause timers in run time: 0–7 priorities, 8 PAUSE (R152) -/
  timers : SMap (Option Word) := []
  reasm : Option Reasm := none
  waiting : List WaitFrame := []
  /-- FC_MODE and PFC_PRIO_TC writes that wait for the next frame start, with the run time at which they came (R129, R155) -/
  fcLate : List (Word × Nat × Word) := []
  deriving DecidableEq, Repr

/-- A frame in the ingress skid (R27, R28): the metadata word, what is left to send and its end. -/
structure SkidFrame where
  port : Nat
  metaWord : BitVec 192
  bytes : Bytes
  /-- bytes already sent to the switch core -/
  sent : Nat := 0
  fin : End
  reason : Nat
  /-- the frame is still arriving: `bytes` will grow, and its end follows (R160) -/
  growing : Bool := false
  /-- skid space reserved until the end segment leaves -/
  reserve : Nat
  /-- copy-buffer bytes released when it leaves (peephole copies, R477) -/
  copyBytes : Nat := 0
  /-- the peephole that made it -/
  copyOf : Option Nat := none
  deriving DecidableEq, Repr

/-- A Doorlist entry (R242, R243). -/
structure DoorEntry where
  mac : Nat
  vid : Nat
  /-- 0 LEARNED, 1 STATIC, 2 PUNT -/
  kind : Nat
  port : Nat
  ring : Nat
  mode : Nat
  hit : Bool
  stale : Bool
  deriving DecidableEq, Repr

/-- One way of a bucket: its entry, the syndrome of words whose parity fails, and PARITY_BAD after an invalidation. -/
structure DoorRow where
  entry : Option DoorEntry := none
  synd : Nat := 0
  shown : Bool := false
  deriving DecidableEq, Repr

/-- A queued learn or move (R253, R254). -/
structure LearnReq where
  mac : Nat
  vid : Nat
  port : Nat
  move : Bool
  deriving DecidableEq, Repr

/-- The Doorlist of a cluster. -/
structure DoorUnit where
  rows : SMap DoorRow := []
  learnq : List LearnReq := []
  /-- FLUSH_SEL of the flush in progress -/
  flush : Option Nat := none
  /-- ports whose FLUSH_ON_DOWN walk waits (R260) -/
  walks : List Nat := []
  /-- the next bucket of a pass that LISTEN has interrupted (R257) -/
  pass : Option Nat := none
  /-- run time of the next sweeper pass; none while ageing is stopped (R256) -/
  nextPass : Option Word := none
  capture : Word := 0
  deriving DecidableEq, Repr

/-- Buckets of a meter row in units of 2^-39 B and its last refill in run time (R275). -/
structure MeterSt where
  t1 : Int := 0
  t2 : Int := 0
  last : Word := 0
  deriving DecidableEq, Repr

/-- The receive engines of one cluster. -/
structure ClusterRx where
  /-- ing_ready -/
  ingReady : Bool := true
  skid : List SkidFrame := []
  /-- KNOCK_LAST -/
  knockLast : Word := 0
  /-- PN alerts, oldest first, and PN_ALERT_LOST (R201) -/
  alerts : List Word := []
  alertLost : Bool := false
  /-- HOLD_PEAK -/
  holdPeak : Nat := 0
  door : DoorUnit := {}
  meters : SMap MeterSt := []
  /-- METER_ECC_CAPTURE -/
  meterCapture : Word := 0
  /-- peephole sample counts and SEQ by row (R473, R474) -/
  peepCount : SMap Nat := []
  peepSeq : SMap Nat := []
  /-- copy-buffer bytes in use (R477) -/
  copyUse : Nat := 0
  deriving DecidableEq, Repr

end Sys2Proof.Machine
end

