-- ==== Sys2Proof/Machine/UnitsTx.lean ====
section
/-!
DEFINITION. State of the scheduler, the Lathe, the shutters and the transmit side of ports and clusters.
-/
namespace Sys2Proof.Machine

/-- A row's shaper values: enables, rates in bit/s, bursts in bytes (R306). A port node uses the committed half. -/
structure ShapSet where
  cirEn : Bool := false
  pirEn : Bool := false
  cir : Nat := 0
  cbs : Nat := 0
  pir : Nat := 0
  pbs : Nat := 0
  deriving DecidableEq, Repr

/-- A Lathe entry: its eligible time, and the outer-ring span it lies in; none on the inner wheel (R310). -/
structure LatheEntry where
  at_ : Word
  span : Option Nat
  deriving DecidableEq, Repr

/-- The running state of one scheduler row: a leaf, a service node, a port node or a traffic class (R287–R314). -/
structure SchRow where
  last : Word := 0
  inst : ShapSet := {}
  /-- the pending set (R313) -/
  pend : Option ShapSet := none
  /-- committed and peak bucket in 2^-39 B -/
  ctok : Int := 0
  ptok : Int := 0
  /-- start tag S and remainder as a child (R304) -/
  tag : Nat := 0
  rem : Nat := 0
  /-- in its parent's active set (R305) -/
  joined : Bool := false
  /-- virtual time V as a parent -/
  v : Nat := 0
  /-- 0 COMMITTED, 1 PEAK, 2 BLOCKED (R307) -/
  grp : Nat := 1
  lathe : Option LatheEntry := none
  backlogged : Bool := false
  grantOut : Bool := false
  headLen : Nat := 0
  deriving DecidableEq, Repr

/-- What MACsec decides for a transmit frame at its grant (R181). -/
inductive SecPlan
  | off | clear | exhausted | notInUse | protect
  deriving DecidableEq, Repr

/-- The SecY and SA values latched at the grant (R176, R181, R202). -/
structure TxSec where
  plan : SecPlan := .off
  row : Nat := 0
  gen : Nat := 0
  img : Option KeyImg := none
  sci : Nat := 0
  ssci : Nat := 0
  an : Nat := 0
  includeSci : Bool := false
  useEs : Bool := false
  confOffset : Nat := 0
  bypass : Nat := 0
  /-- the PN taken when the frame reached MACsec (R183) -/
  pn : Option Nat := none
  deriving DecidableEq, Repr

/-- Why a frame is stomped or discarded (R370, R371). -/
inductive TxBad
  | relayed | returnFcs | bufferEcc | keyErase | oversize | caliper | macsec | neverFits | discarded
  deriving DecidableEq, Repr

/-- Where a DIRECT frame comes from: its ring, none for an in-band response; with TS_REQ the number of its chain (R87, R498). -/
structure DirectRef where
  ring : Option Nat
  chain : Option Nat := none
  deriving DecidableEq, Repr

/-- A granted or DIRECT frame of a port. -/
structure TxFrame where
  /-- gnt_tag; none for a DIRECT frame -/
  tag : Option Nat := none
  /-- where a DIRECT frame comes from -/
  origin : Option DirectRef := none
  tc : Nat := 0
  /-- enq_len -/
  annLen : Nat := 0
  /-- grant-time F and W (R296) -/
  f : Nat := 0
  w : Nat := 0
  /-- cycle number of R349 -/
  cycle : Nat := 0
  /-- express at the grant, as the shutters took it -/
  express : Bool := true
  overrun : Bool := false
  /-- its launch instant, and the end of the window that instant lies in, in device time (R325, R342) -/
  launch : Nat := 0
  closes : Option Nat := none
  sec : TxSec := {}
  /-- DEVICE_ID at the grant when a system tag is to be inserted (R389) -/
  sysDev : Option Nat := none
  metaWord : BitVec 192 := 0
  /-- bytes returned so far, FCS included; a DIRECT frame has none -/
  data : Bytes := []
  /-- the end segment has been returned -/
  ended : Bool := false
  /-- the flow-match rule it selected, and when (R419) -/
  calPick : Option (Nat × Word) := none
  /-- it has passed the calipers -/
  calDone : Bool := false
  /-- the bytes a caliper wrote: offset and value -/
  patches : List (Nat × Bytes) := []
  /-- it has passed MACsec -/
  secDone : Bool := false
  /-- its end has passed the calipers and MACsec -/
  endDone : Bool := false
  bad : Option TxBad := none
  /-- its first byte has left -/
  started : Bool := false
  /-- sent as a preemptable frame (R372, R373) -/
  preemptable : Bool := false
  /-- the stamp fixed at its start (R383) -/
  stamp : Nat := 0
  /-- run times of its start and of the start of its present fragment -/
  at_ : Word := 0
  fragAt : Word := 0
  /-- data bytes gone in earlier fragments -/
  gone : Nat := 0
  /-- its number, and the fragments sent so far (R376) -/
  num : Nat := 0
  frag : Nat := 0
  deriving DecidableEq, Repr

/-- A control frame waiting for the next boundary (R375, R382). -/
inductive CtlFrame
  /-- PAUSE with its time -/
  | pause (quanta : Nat)
  /-- PFC: time per priority with its vector bit -/
  | pfc (times : List (Option Nat))
  | verify
  | respond
  deriving DecidableEq, Repr

/-- VERIFY_STATUS (R374). -/
inductive Verify
  | initial | verifying | succeeded | failed | disabled
  deriving DecidableEq, Repr

def Verify.code : Verify → Nat
  | .initial => 0 | .verifying => 1 | .succeeded => 2 | .failed => 3 | .disabled => 4

/-- A DIRECT frame whole in the inject buffer, or an in-band response in the response buffer (R87, R363, R498). -/
structure InjFrame where
  origin : DirectRef
  tc : Nat
  bytes : Bytes
  deriving DecidableEq, Repr

/-- A grant still outstanding whose frame has left the wire: its announced length and the bytes returned so far (R33, R360). -/
structure TxTail where
  tag : Nat
  annLen : Nat
  got : Nat
  deriving DecidableEq, Repr

/-- What the lanes of a port carry while no frame does (R391, R393). -/
inductive LaneSignal
  | zeros | idle | remoteFault
  deriving DecidableEq, Repr

/-- The transmit side of a port. -/
structure PortTx where
  /-- frames granted and not finished, in grant order -/
  frames : List TxFrame := []
  /-- the frame with a fragment on the wire, and the preempted frame held -/
  wire : Option TxFrame := none
  held : Option TxFrame := none
  /-- grants whose end segment is still to be returned while their frame has already left the wire -/
  tails : List TxTail := []
  ctl : List CtlFrame := []
  inject : List InjFrame := []
  sill : Nat := 2
  /-- TX_SILL_SET waiting for the next frame start -/
  sillSet : Option Nat := none
  /-- TX_SILL_FLOOR as landed at the last frame start -/
  floor : Nat := 2
  /-- frames in a row without underrun -/
  clean : Nat := 0
  /-- TX_CAUSE -/
  cause : Word := 0
  verify : Verify := .initial
  verifySent : Nat := 0
  verifyAt : Word := 0
  /-- next number of a preemptable frame -/
  nextNum : Nat := 0
  /-- fc_xoff pins of the port -/
  xoff : Nat := 0
  /-- the request last seen, the request of the last PAUSE or PFC frame, and that frame's run time -/
  xoffSeen : Nat := 0
  xoffSent : Nat := 0
  pauseAt : Word := 0
  /-- run time of the change that asks for a PFC frame not yet sent, and the priorities requested since the last one (R381) -/
  pfcAt : Option Word := none
  xoffEver : Nat := 0
  /-- VERIFY_DISABLE and VERIFY_TIME writes that wait for the end of a preemptable frame (R373) -/
  late : List (Nat × Word) := []
  /-- the port drives its own PCS output on the lanes (R393) -/
  ownPcs : Bool := false
  /-- what its lanes carry between frames (R391) -/
  signal : LaneSignal := .zeros
  /-- run time at which the last frame ends on the lanes, and the deficit idle count: bytes of gap beyond 12 a frame (R365) -/
  idleAt : Option Word := none
  deficit : Int := 0
  deriving DecidableEq, Repr

/-- The transmit engines of one cluster. -/
structure ClusterTx where
  /-- transmit timestamp records, oldest first: metadata and stamp (R388) -/
  stamps : List (Word × Word) := []
  /-- TX_TS_STAMP -/
  stampLatch : Word := 0
  /-- per SA row and slot generation, at 256·row + generation: the lowest PN that the generation has not given (R183) -/
  pnTop : SMap Nat := []
  /-- scheduler rows: leaf r at r, node r at 65,536 + r, port node l at 131,072 + l, class n of l at 196,608 + 8l + n -/
  sched : SMap SchRow := []
  /-- the local port that received the last grant -/
  lastPort : Nat := 63
  latheMaxLate : Nat := 0
  /-- SCHED_ECC_CAPTURE, SHUTTER_ECC_CAPTURE, CAL_CAPTURE, CAL_ECC_CAPTURE -/
  schedCapture : Word := 0
  shutterCapture : Word := 0
  calCapture : Word := 0
  calEccCapture : Word := 0
  /-- admin shutter rows marked by an uncorrectable error (R352) -/
  badRows : List Nat := []
  deriving DecidableEq, Repr

/-- A shutter list in an oper bank (R331, R332, R337). -/
structure ShutterList where
  entries : List Word := []
  g : Nat := 0
  num : Nat := 0
  den : Nat := 1
  base : Nat := 0
  ext : Nat := 0
  /-- ADMIN_GATE_STATES as captured -/
  gates : Nat := 0xFF
  /-- the first cycle it runs -/
  first : Nat := 0
  /-- the last cycle before an extension to the change time (R338) -/
  lastCycle : Option Nat := none
  /-- hold when the list started -/
  hold0 : Bool := false
  /-- MAX_WINDOW of each class (R341) -/
  maxWin : List Nat := []
  deriving DecidableEq, Repr

/-- A realignment in progress (R347): the entry in force goes on from offset `off` of cycle `cycle` at device time `at_`;
the grid resumes at cycle `resume`. -/
structure Realign where
  at_ : Nat
  off : Nat
  cycle : Nat
  resume : Nat
  deriving DecidableEq, Repr

/-- An open digest of a cycle: its number, the device time at which it closes, SUM and COUNT (R420, R421). -/
structure Digest where
  cycle : Nat
  closeAt : Nat
  sum : Nat := 0
  count : Nat := 0
  deriving DecidableEq, Repr

/-- A pending swap (R336–R339). -/
structure Swap where
  tc : Nat
  start : Nat
  /-- the new list's cycle number at the change time -/
  first : Nat
  latched : Option ShutterList := none
  /-- its change time was forwarded by the active complex: it latches at the mark (R350) -/
  fwd : Bool := false
  /-- a CONFIG_CHANGE landed during the commit cycle -/
  held : Bool := false
  deriving DecidableEq, Repr

/-- The shutter function of a port. -/
structure Shutter where
  st : FnState := .closed
  /-- GATE_ENABLE 1 latched while CLOSING (R335) -/
  reopen : Bool := false
  oper : Option ShutterList := none
  realign : Option Realign := none
  pend : Option Swap := none
  /-- the change time of the last swap made -/
  changeTime : Nat := 0
  /-- a change time that the active forwarded for a swap not yet requested here (R350) -/
  given : Option Nat := none
  /-- device time at which a CLOSING function's cycle ends -/
  closeAt : Nat := 0
  /-- the wire view: gates, hold, cycle number and entry in force -/
  gates : Nat := 0xFF
  hold : Bool := false
  cycle : Nat := 0
  entry : Nat := 0
  /-- GUARD, NEVER_FITS_MODE, HOLD_ADVANCE and DIGEST_CLASSES in force -/
  guard : Nat := 0
  overrunMode : Bool := false
  holdAdv : Nat := 0
  digestClasses : Nat := 0
  cause : Word := 0
  /-- P_x of R342 -/
  px : Nat := 0
  /-- per class, the end of the window in which it was deferred -/
  deferred : SMap Nat := []
  /-- open digests, oldest first (R420, R421) -/
  digests : List Digest := []
  /-- the first cycle that a digest may be kept of, after a stay in RETAIN (R545) -/
  digestFrom : Option Nat := none
  /-- the last closed record: cycle, SUM, COUNT (R423) -/
  record : Nat × Nat × Nat := (0, 0, 0)
  deriving DecidableEq, Repr

end Sys2Proof.Machine
end

