-- ==== Sys2Proof/Machine/State.lean ====
section
/-!
DEFINITION. The state of the complex: every register, table, FIFO, buffer, counter, mode and pin the spec names, and the
queue of commands that are waiting. Plain data throughout.
-/
namespace Sys2Proof.Machine

/-- What a command puts on the interfaces of the complex. -/
inductive Output
  /-- the completion of a read: result code and value -/
  | value (code : Nat) (v : Word)
  /-- the completion of a write: result code -/
  | status (code : Nat)
  /-- the error response to a misaligned window access (R37) -/
  | windowError
  /-- a CAN FD frame: identifier and data (R80) -/
  | can (id : Nat) (data : Bytes)
  /-- a frame or fragment on a port's lanes: preamble, start delimiter and frag_count; then the bytes up to its FCS or mCRC (R365,
  R376) -/
  | lanes (p : Nat) (head bytes : Bytes)
  /-- what a port's lanes carry between frames from now on (R391, R393) -/
  | signal (p : Nat) (sig : LaneSignal)
  /-- a dequeue grant: leaf, port and tag (R298) -/
  | grant (c leaf p tag : Nat)
  /-- segments on a cluster's ingress interface, in order (R27) -/
  | ingress (c : Nat) (segs : List Segment)
  /-- a time-of-day message on tod_txd (R48) -/
  | tod (msg : Bytes)
  /-- a message on a Hinge path: false A, true B; with its bytes where the spec lays out its payload (R431, R446) -/
  | hinge (path : Bool) (m : HingeMsg) (wire : Option Bytes)
  deriving DecidableEq, Repr

/-- Why the model stops. No meaning of this model stops: the spec gives every command of its table an effect. -/
inductive Fault
  /-- raised by nothing in this model; it only inhabits the type (safe) -/
  | none
  deriving DecidableEq, Repr

/-- Why a command is refused by the MODEL (a refusal the spec describes is an effect, not this). -/
inductive Refusal
  /-- raised by the dispatcher alone, for a command that has no meaning yet (safe) -/
  | notModelled (mnemonic : String)
  deriving DecidableEq, Repr

/-- The state of the complex. -/
structure State where
  /-- the commands waiting, first in, first out -/
  pending : List Instr := []
  /-- what the last command put on the interfaces -/
  out : List Output := []
  /-- the model's own counter of free values drawn; no statement rests on its value -/
  free : Nat := 0
  /-- RW, RWC and RWL objects of the dictionary, by slot key -/
  regs : SMap Word := []
  /-- table-row fields, by slot key of window index, subindex and row -/
  rows : SMap Word := []
  /-- values that landed writes have replaced while a frame may have been in progress, oldest first (R129) -/
  past : List Past := []
  /-- 48-bit counters, by slot key (R458) -/
  ctrs : SMap (BitVec 48) := []
  /-- events that are raised at most once per management tick and have been raised in this one -/
  onceTick : List Nat := []
  power : PowerUnit := {}
  clusterPower : SMap ClusterPower := []
  time : TimeUnit := {}
  ev : EventUnit := {}
  cu : CounterUnit := {}
  dict : DictUnit := {}
  keys : KeyUnit := {}
  masks : MaskUnit := {}
  /-- lane_rx_lock pins by lane 0–1,023 -/
  laneLock : SMap Bool := []
  portRx : SMap PortRx := []
  clusterRx : SMap ClusterRx := []
  clusterTx : SMap ClusterTx := []
  portTx : SMap PortTx := []
  shutters : SMap Shutter := []
  rings : SMap Ring := []
  quarters : SMap Quarter := []
  twin : TwinUnit := {}
  /-- host memory, bytes that are not zero, addresses rising -/
  mem : List Host.Cell := []
  deriving DecidableEq, Repr

/-- A domain that is ON (R535). -/
def domainOn : Domain := { req := .on, pin := .on, ack := .on, goal := .on, isolated := false }

/-- The domains that the bring-up sequencer sets ON: TIME, EVT, DICT, KEYS, TRNG (R535, R553). -/
def readyDomains : SMap Domain := [65, 70, 71, 73, 74].map fun n => (n, domainOn)

/-- The machine right after reset: cold bring-up complete, BOOT_STATE READY (R553). The memory lists nothing, no command
waits, and every register holds its default. -/
def State.reset : State :=
  { power := { doms := readyDomains, boot := .ready }
    time := { pllLocked := true }
    twin := { faultSeen := 32 } }

end Sys2Proof.Machine
end

