-- ==== Sys2Proof/Machine/Ops.lean ====
section
/-!
DEFINITION. The named operations over the state: objects, table rows, counters, units, host memory, device time and run
time, free values, power requests and the raising of events.
-/
namespace Sys2Proof.Machine

/-- The index of table window `t` of cluster `c` (R68). -/
def winIdx (c t : Nat) : Nat := 0x3000 + 0x100 * c + t

/-- The index of cluster objects `k` of cluster `c` (R64). -/
def clIdx (c k : Nat) : Nat := 0x2000 + 16 * c + k

/-- Domain numbers (R535): the four domains of cluster `c` and the common domains. -/
def domLane (c : Nat) : Nat := 4 * c
def domCipher (c : Nat) : Nat := 4 * c + 1
def domQueue (c : Nat) : Nat := 4 * c + 2
def domMeter (c : Nat) : Nat := 4 * c + 3
def domAO : Nat := 64
def domTime : Nat := 65
def domDma (q : Nat) : Nat := 66 + q
def domEvt : Nat := 70
def domDict : Nat := 71
def domHinge : Nat := 72
def domKeys : Nat := 73
def domTrng : Nat := 74
def domPeep : Nat := 75
def domStest : Nat := 76
def domCalc : Nat := 77
def domSnap : Nat := 78
def domFabh : Nat := 79

namespace State

/-! ### Objects, rows and counters -/

/-- The stored value of an object. -/
def reg (s : State) (idx sub : Nat) : Word := SMap.get (dfltOf (slotKey idx sub 0)) s.regs (slotKey idx sub 0)

/-- The state with an object's stored value replaced. -/
def setReg (s : State) (idx sub : Nat) (v : Word) : State :=
  { s with regs := SMap.set (dfltOf (slotKey idx sub 0)) s.regs (slotKey idx sub 0) v }

/-- The unsigned value of an object. -/
def regN (s : State) (idx sub : Nat) : Nat := (s.reg idx sub).toNat

/-- A BOOL object. -/
def regB (s : State) (idx sub : Nat) : Bool := (s.reg idx sub).bit 0

/-- A field of a table row; `w` is the window's index. -/
def rowGet (s : State) (w sub row : Nat) : Word := SMap.get (dfltOf (slotKey w sub 0)) s.rows (slotKey w sub row)

/-- The state with a row field replaced. -/
def rowSet (s : State) (w sub row : Nat) (v : Word) : State :=
  { s with rows := SMap.set (dfltOf (slotKey w sub 0)) s.rows (slotKey w sub row) v }

/-- The rows of a window that hold a listed value in field `sub`, rising. -/
def rowsListed (s : State) (w sub : Nat) : List Nat :=
  (s.rows.filter fun e => keyIdx e.1 == w && keySub e.1 == sub).map fun e => keyRow e.1

/-- A 48-bit counter (R458). -/
def ctr (s : State) (idx sub : Nat) (row : Nat := 0) : BitVec 48 := SMap.get 0 s.ctrs (slotKey idx sub row)

/-- A counter adds `n` modulo 2^48; when bit 47 goes from 0 to 1 its half-range pending bit is set (R458, R464). -/
def bumpRow (s : State) (idx sub row n : Nat) : State :=
  let k := slotKey idx sub row
  let old := SMap.get 0 s.ctrs k
  let new := old + BitVec.ofNat 48 n
  let s := { s with ctrs := SMap.set 0 s.ctrs k new }
  if !old.getLsbD 47 && new.getLsbD 47 then { s with cu := { s.cu with pending := SMap.set false s.cu.pending k true } } else s

/-- An object's counter adds `n`. -/
def bump (s : State) (idx sub : Nat) (n : Nat := 1) : State := s.bumpRow idx sub 0 n

/-- A slot of port `p`'s counter block (index 0x1800 + p) adds `n` (R460). -/
def bumpPort (s : State) (p slot : Nat) (n : Nat := 1) : State := s.bumpRow (0x1800 + p) slot 0 n

/-- Every counter whose key satisfies `f` cleared, its pending half range withdrawn (R462, R465). -/
def clearCtrs (s : State) (f : Nat → Bool) : State :=
  { s with ctrs := SMap.eraseWhere f s.ctrs
           cu := { s.cu with pending := SMap.eraseWhere f s.cu.pending
                             fifos := (s.cu.fifos.map fun e => (e.1, e.2.filter fun k => !f k)).filter fun e => e.2 ≠ [] } }

/-- Every field of the rows of window `w` back at its default, counters included. -/
def clearTable (s : State) (w : Nat) : State :=
  ({ s with rows := SMap.eraseWhere (fun k => keyIdx k == w) s.rows }).clearCtrs fun k => keyIdx k == w

/-! ### Units -/

def port (s : State) (p : Nat) : PortRx := SMap.get {} s.portRx p
def setPort (s : State) (p : Nat) (q : PortRx) : State := { s with portRx := SMap.set {} s.portRx p q }
def updPort (s : State) (p : Nat) (f : PortRx → PortRx) : State := s.setPort p (f (s.port p))
def clRx (s : State) (c : Nat) : ClusterRx := SMap.get {} s.clusterRx c
def setClRx (s : State) (c : Nat) (q : ClusterRx) : State := { s with clusterRx := SMap.set {} s.clusterRx c q }
def updClRx (s : State) (c : Nat) (f : ClusterRx → ClusterRx) : State := s.setClRx c (f (s.clRx c))
def clTx (s : State) (c : Nat) : ClusterTx := SMap.get {} s.clusterTx c
def setClTx (s : State) (c : Nat) (q : ClusterTx) : State := { s with clusterTx := SMap.set {} s.clusterTx c q }
def updClTx (s : State) (c : Nat) (f : ClusterTx → ClusterTx) : State := s.setClTx c (f (s.clTx c))
def portTxOf (s : State) (p : Nat) : PortTx := SMap.get {} s.portTx p
def setPortTx (s : State) (p : Nat) (q : PortTx) : State := { s with portTx := SMap.set {} s.portTx p q }
def updPortTx (s : State) (p : Nat) (f : PortTx → PortTx) : State := s.setPortTx p (f (s.portTxOf p))
def shut (s : State) (p : Nat) : Shutter := SMap.get {} s.shutters p
def setShut (s : State) (p : Nat) (q : Shutter) : State := { s with shutters := SMap.set {} s.shutters p q }
def sch (s : State) (c k : Nat) : SchRow := SMap.get {} (s.clTx c).sched k
def setSch (s : State) (c k : Nat) (r : SchRow) : State :=
  s.updClTx c fun q => { q with sched := SMap.set {} q.sched k r }
def clp (s : State) (c : Nat) : ClusterPower := SMap.get {} s.clusterPower c
def setClp (s : State) (c : Nat) (q : ClusterPower) : State := { s with clusterPower := SMap.set {} s.clusterPower c q }
def dom (s : State) (n : Nat) : Domain := SMap.get {} s.power.doms n
def setDom (s : State) (n : Nat) (d : Domain) : State :=
  { s with power := { s.power with doms := SMap.set {} s.power.doms n d } }
def src (s : State) (e : Nat) : Source := SMap.get {} s.ev.sources e
def setSrc (s : State) (e : Nat) (q : Source) : State := { s with ev := { s.ev with sources := SMap.set {} s.ev.sources e q } }
def tgt (s : State) (t : Nat) : Target := SMap.get {} s.ev.targets t
def setTgt (s : State) (t : Nat) (q : Target) : State := { s with ev := { s.ev with targets := SMap.set {} s.ev.targets t q } }
def bandRing (s : State) (t b : Nat) : BandRing := SMap.get {} s.ev.rings (8 * t + b)
def setBandRing (s : State) (t b : Nat) (q : BandRing) : State :=
  { s with ev := { s.ev with rings := SMap.set {} s.ev.rings (8 * t + b) q } }
def slot (s : State) (k : Nat) : KeySlot := SMap.get {} s.keys.slots k
def setSlot (s : State) (k : Nat) (q : KeySlot) : State := { s with keys := { s.keys with slots := SMap.set {} s.keys.slots k q } }
def ring (s : State) (r : Nat) : Ring := SMap.get {} s.rings r
def setRing (s : State) (r : Nat) (q : Ring) : State := { s with rings := SMap.set {} s.rings r q }
def updRing (s : State) (r : Nat) (f : Ring → Ring) : State := s.setRing r (f (s.ring r))
def quarter (s : State) (q : Nat) : Quarter := SMap.get {} s.quarters q
def updTwin (s : State) (f : TwinUnit → TwinUnit) : State := { s with twin := f s.twin }
def setQuarter (s : State) (q : Nat) (v : Quarter) : State := { s with quarters := SMap.set {} s.quarters q v }
def window (s : State) (w : Nat) : Window := SMap.get {} s.dict.windows w
def setWindow (s : State) (w : Nat) (q : Window) : State :=
  { s with dict := { s.dict with windows := SMap.set {} s.dict.windows w q } }

/-- The command puts `o` on an interface. -/
def emit (s : State) (o : Output) : State := { s with out := s.out ++ [o] }

/-! ### Host memory (R34, R35) -/

/-- The byte at an address; a byte nothing has written reads 0 (assumption 6). -/
def memByte (s : State) (a : Nat) : Byte := SMap.get 0 s.mem a

/-- `n` bytes from an address, which wraps modulo 2^64. -/
def memRead (s : State) (a n : Nat) : Bytes := (List.range n).map fun i => s.memByte ((a + i) % 2 ^ 64)

/-- Bytes written from an address, which wraps modulo 2^64. -/
def memWrite (s : State) (a : Nat) : Bytes → State
  | [] => s
  | b :: t => memWrite { s with mem := SMap.set 0 s.mem (a % 2 ^ 64) b } (a + 1) t

/-! ### Time -/

/-- Device time in grains, 84 bits (R100). -/
def devTime (s : State) : Nat := s.time.acc.toNat >>> 32

/-- The short form of device time (R101). -/
def shortTime (s : State) : Word := Word.ofNat s.devTime

/-- Run time in grains, modulo 2^64 (R103). -/
def runTime (s : State) : Word := Word.ofNat (s.time.run.toNat >>> 32)

/-- Run time in grains since instant `t`, modulo 2^64. -/
def since (s : State) (t : Word) : Nat := (s.runTime - t).toNat

/-- A timer that ends at run time `t` still runs. -/
def before (s : State) (t : Word) : Bool := decide (0 < (t - s.runTime).toNat ∧ (t - s.runTime).toNat < 2 ^ 63)

/-- The domain is ON and not isolated (R50). AO is always on. -/
def isOn (s : State) (n : Nat) : Bool := n == domAO || ((s.dom n).ack == .on && !(s.dom n).isolated)

/-- The clocks run: TIME is ON and the PLL has locked (R97, R98). -/
def clocked (s : State) : Bool := (s.dom domTime).ack == .on && s.time.pllLocked

/-- The time core after `dt` CLK_ROOT cycles (312.5 ps each). Device time and run time advance by FREQ_WORD per cycle (R102,
R103), and the tick grid counts (R123); until TIME is ON again with the PLL locked, the AO domain counts CLK_AO cycles of 163.84
CLK_ROOT cycles instead (R109). While only the PLL has lost lock, time stands (R99). -/
def timeAfter (s : State) (dt : Nat) : TimeUnit :=
  let t := s.time
  let inc := dt * (s.reg 0x0400 0x06).toNat
  let d := s.dom domTime
  if s.clocked then { t with acc := t.acc + BitVec.ofNat 116 inc, run := t.run + BitVec.ofNat 96 inc, tickAt := t.tickAt + dt }
  else if d.ack == .on && d.phase != .restoring then t else { t with aoCount := t.aoCount + dt * 100 }

/-- `dt` CLK_ROOT cycles pass. The interfaces of the previous command are cleared. -/
def elapse (s : State) (dt : Nat) : State :=
  { s with time := s.timeAfter dt, power := { s.power with clock := s.power.clock + dt }, out := [] }

/-! ### Values in force when a frame started (R129, R163, R176) -/

/-- A landed write replaces `old`; a frame in progress finishes under it. -/
def notePast (s : State) (row : Bool) (key : Nat) (old new : Word) : State :=
  if old = new then s else { s with past := s.past ++ [{ at_ := s.runTime, row, key, old }] }

/-- An object that frames take at their start gets a new value. -/
def setPortReg (s : State) (idx sub : Nat) (v : Word) : State :=
  (s.notePast false (slotKey idx sub 0) (s.reg idx sub) v).setReg idx sub v

/-- A field of a row that frames latch takes a new value. -/
def setLatchedRow (s : State) (w sub row : Nat) (v : Word) : State :=
  (s.notePast true (slotKey w sub row) (s.rowGet w sub row) v).rowSet w sub row v

/-- An object as it was `age` grains of run time ago. -/
def regThen (s : State) (idx sub age : Nat) : Word :=
  match s.past.find? fun e => !e.row && e.key == slotKey idx sub 0 && s.since e.at_ < age with
  | some e => e.old
  | none => s.reg idx sub

/-- A row field as it was `age` grains of run time ago. -/
def rowThen (s : State) (w sub row age : Nat) : Word :=
  match s.past.find? fun e => e.row && e.key == slotKey w sub row && s.since e.at_ < age with
  | some e => e.old
  | none => s.rowGet w sub row

/-- The rows of a window that hold a listed value in field `sub` now or at a change still remembered. -/
def rowsEver (s : State) (w sub : Nat) : List Nat :=
  s.rowsListed w sub ++ ((s.past.filter fun e => e.row && keyIdx e.key == w && keySub e.key == sub).map fun e => keyRow e.key)

/-- The value stored under a key, and the state with it replaced. -/
def stored (s : State) (row : Bool) (key : Nat) : Word :=
  if row then SMap.get (dfltOf key) s.rows key else SMap.get (dfltOf key) s.regs key
def store (s : State) (row : Bool) (key : Nat) (v : Word) : State :=
  if row then { s with rows := SMap.set (dfltOf key) s.rows key v } else { s with regs := SMap.set (dfltOf key) s.regs key v }

/-- What a received frame of port `p` takes from its start on: the port's objects (R129), the cluster's knock filters (R163) and
peepholes (R470), and PEEP_ENABLE (R469). -/
def ruledByStart (p : Nat) (e : Past) : Bool :=
  if e.row then keyIdx e.key == winIdx (p / 64) 0xB || keyIdx e.key == winIdx (p / 64) 0xC
  else keyIdx e.key == 0x1000 + p || keyIdx e.key == 0x1C00 + p || keyIdx e.key == 0x0B00

/-- What has changed since a frame of port `p` started `age` grains ago. -/
def changedSince (s : State) (p age : Nat) : List Past := s.past.filter fun e => s.since e.at_ < age && ruledByStart p e

/-- `f` acts on a frame of port `p` that started `age` grains ago, under the values in force then (R129, R163). -/
def underStart (s : State) (p age : Nat) (f : State → State) : State :=
  let es := s.changedSince p age
  let t := f (es.foldr (fun e s => s.store e.row e.key e.old) s)
  es.foldl (fun t e => t.store e.row e.key (s.stored e.row e.key)) t

/-! ### Free values -/

/-- A free word, and the state with the counter advanced. -/
def freshWord (s : State) : Word × State := (Config.freeWord s.free, { s with free := s.free + 1 })

/-- `n` free bytes. -/
def freshBytes (s : State) (n : Nat) : Bytes × State :=
  ((List.range n).map fun i => Config.freeByte (s.free + i), { s with free := s.free + n })

/-! ### Power requests that the complex makes itself (R97, R537) -/

/-- The domain's pwr_req changes to `goal`; isolation holds until pwr_ack shows ON (R50). -/
def beginSwitch (s : State) (n : Nat) (goal : Pwr) : State :=
  let d := s.dom n
  let left := if d.ack == .on then s.runTime else d.leftAt
  s.setDom n { d with pin := goal, goal, phase := .switching, fromOff := d.ack == .off, isolated := true, leftAt := left
                      began := s.power.clock }

/-- TIME is ON with the PLL locked and stays so: another domain may start towards ON (R97). -/
def timeReady (s : State) : Bool := s.clocked && (s.dom domTime).phase == .idle

/-- A request that takes domain `n` to ON. A held domain is left alone until firmware writes its object (R52); a change in
progress latches the request (R537); another domain first waits for TIME (R97). -/
def requestOn (s : State) (n : Nat) : State :=
  let d := s.dom n
  if d.held then s
  else if d.phase ≠ .idle then s.setDom n { d with req := .on, latched := some (.on, none) }
  else
    let s := s.setDom n { d with req := .on }
    if d.ack = .on then s
    else if n = domTime ∨ s.timeReady then s.beginSwitch n .on
    else
      let s := s.setDom n { s.dom n with goal := .on, phase := .waitTime, fromOff := d.ack == .off }
      let dt := s.dom domTime
      if dt.phase ≠ .idle then s.setDom domTime { dt with req := .on, latched := if dt.goal = .on then dt.latched else some (.on, none) }
      else if dt.ack = .on ∨ dt.held then s
      else (s.setDom domTime { dt with req := .on }).beginSwitch domTime .on

/-- A wake of cluster `c` (R546, R548, R555): a cluster in LISTEN wakes, one in ENTERING latches the wake, any other is
left alone. -/
def wakeCluster (s : State) (c : Nat) : State :=
  let q := s.clp c
  match q.night with
  | .listen =>
    let s := s.setClp c { q with night := .waking, wakeAt := s.runTime, wakeLatched := false }
    let s := s.setReg (clIdx c 0) 3 0
    ((s.requestOn (domCipher c)).requestOn (domQueue c)).requestOn (domMeter c)
  | .entering => s.setClp c { q with wakeLatched := true }
  | _ => s

/-- The common domains (R535), TIME first. -/
def commonDomains : List Nat := (List.range 15).map (65 + ·)

/-- Complex sleep ends: every domain that SLEEP took to RETAIN returns, TIME first (R548, R550). -/
def endSleep (s : State) : State :=
  if s.power.boot ≠ .sleep then s
  else
    let s := { s with power := { s.power with boot := .core } }
    s.power.slept.foldl (fun s n => s.requestOn n) (s.requestOn domTime)

/-- A bit-16 wake takes every common domain in RETAIN and not held to ON, and ends complex sleep (R548). -/
def wakeCommon (s : State) : State :=
  commonDomains.foldl (fun s n => if (s.dom n).ack = .retain then s.requestOn n else s) s.endSleep

/-- The four domains of a cluster are all ON. -/
def clusterOn (s : State) (c : Nat) : Bool := (List.range 4).all fun k => s.isOn (4 * c + k)

/-! ### Raising events (R509, R510, R531) -/

/-- Whether DATA of the source is a set of bits, merged by OR: port summaries and DMA rings (R509). -/
def dataIsBits (e : Nat) : Bool := (1 ≤ e && e ≤ 0x400) || (0x701 ≤ e && e ≤ 0x800)

/-- A raise reaches the event controller (R509, R510). -/
def raiseSource (s : State) (e data : Nat) : State :=
  if !s.isOn domEvt then s
  else
    let s := s.bump (0x5000 + e) 5
    let q := s.src e
    let merged := if dataIsBits e then q.data ||| data else data
    match q.st with
    | .idle => s.setSrc e { q with st := .pending, data, stamp := s.shortTime, again := false }
    | .pending => s.setSrc e { q with data := merged }
    | .active => s.setSrc e { q with st := .activePending, data, stamp := s.shortTime }
    | .activePending => s.setSrc e { q with data := merged }

/-- The enabled watch entries that name the source (R531). -/
def watchers (s : State) (e : Nat) : List Nat :=
  (List.range 64).filter fun n => let w := s.reg 0x0700 (0x40 + n); w.bit 63 && w.bits 0 12 == e

/-- The raise reaches the Night Latch (R531, R548): LATCH_FIRED bits are set, and a wake is requested of every cluster and
of the common group named and not fully ON. Answers whether a wake was requested and the lowest entry that fired. -/
def latchFire (s : State) (e data : Nat) : State × Bool × Nat :=
  let ws := if s.regB 0x0700 0x10 then s.watchers e else []
  let s := { s with ev := { s.ev with fired := ws.foldl (fun f n => f.setBit n true) s.ev.fired
                                      latchData := ws.foldl (fun m n => SMap.set 0 m n data) s.ev.latchData } }
  let wake := ws.foldl (fun m n => m ||| (s.reg 0x0700 (0x40 + n)).bits 32 17) 0
  let cs := (List.range 16).filter fun c => wake.testBit c && !s.clusterOn c
  let cm := wake.testBit 16 && commonDomains.any fun n => !s.isOn n
  let woke := cm || !cs.isEmpty
  let s := cs.foldl (fun s c => s.wakeCluster c) s
  let s := if cm then s.wakeCommon else s
  let s := if woke then s.bump 0x0700 0x13 else s
  (s, woke, ws.headD 0)

/-- A unit raises source `e` with DATA. A wake that the Night Latch issues raises event 0x872, at once while EVT is ON and
at its return otherwise (R531, R532). -/
def raise (s : State) (e : Nat) (data : Nat := 0) : State :=
  let r := s.latchFire e data
  let s := r.1.raiseSource e data
  if r.2.1 then
    if s.isOn domEvt then (s.latchFire 0x872 r.2.2).1.raiseSource 0x872 r.2.2
    else { s with ev := { s.ev with wokeAway := true } }
  else s

/-- The sources that report an uncorrectable error: 0x407, 0x40C, 0x40D, 0x410, 0x413 and 0x415 + 48c, and 0x831 (R448). -/
def isEccSource (e : Nat) : Bool :=
  e == 0x831 || (0x401 ≤ e && e ≤ 0x700 && [6, 11, 12, 15, 18, 20].contains ((e - 0x401) % 48))

/-- An uncorrectable error is reported: ECC_FAULT holds for FAULT_WINDOW from here (R448). -/
def noteEcc (s : State) (e : Nat) : State :=
  if isEccSource e then { s with twin := { s.twin with eccAt := some s.runTime, eccNew := true } } else s

/-- A raise made at most once per management tick. -/
def raiseOnce (s : State) (e : Nat) (data : Nat := 0) : State :=
  let s := s.noteEcc e
  if s.onceTick.contains e then s else ({ s with onceTick := s.onceTick ++ [e] }).raise e data

/-- A cluster source: event 0x401 + 48c + k (R508). -/
def clEvent (c k : Nat) : Nat := 0x401 + 48 * c + k

/-! ### Refusals of the dictionary engine (R60) -/

/-- A refused request is counted, recorded in LAST_REFUSAL and raises event 0x810 at most once per tick (R60, R67). -/
def refuse (s : State) (tr : Transport) (idx sub code : Nat) : State :=
  let s := s.bump 0x0200 0x0E
  let w := Word.ofNat (idx % 65536 * 2 ^ 48 + sub % 256 * 2 ^ 40 + tr.code * 2 ^ 38 + code % 256 * 2 ^ 30)
  ({ s with dict := { s.dict with lastRefusal := w } }).raiseOnce 0x810

/-! ### Sticky causes of a port (R128) -/

/-- A bit of RX_CAUSE is set; newly set and unmasked, it raises the port summary event with DATA bit 0. -/
def rxCause (s : State) (p bit : Nat) : State :=
  let q := s.port p
  let s := s.setPort p { q with cause := q.cause.setBit bit true }
  if !q.cause.bit bit && (s.reg (0x1000 + p) 0x19).bit bit then s.raise (1 + p) 1 else s

end State

/-- Result codes (R59). -/
def rOK : Nat := 0
def rNO_OBJECT : Nat := 1
def rREAD_ONLY : Nat := 2
def rWRITE_ONLY : Nat := 3
def rNOT_CLOSED : Nat := 4
def rLOCAL_ONLY : Nat := 5
def rRANGE : Nat := 6
def rROW_RANGE : Nat := 7
def rLENGTH : Nat := 8
def rTABLE_FULL : Nat := 9
def rVERSION : Nat := 10

/-- The speed code's MAC rate in bit/s (R124). -/
def macRate (speed : Nat) : Nat := match speed with
  | 0 => 10 | 1 => 25 | 2 => 50 | 3 => 100 | 4 => 200 | 5 => 400 | 6 => 800 | _ => 1600

/-- The MAC rate of port `p` in bit/s. -/
def State.portRate (s : State) (p : Nat) : Nat := macRate (s.regN (0x1000 + p) 3) * 10 ^ 9

/-- The outcome every meaning answers. -/
abbrev Res := Host.Outcome State Fault Refusal

end Sys2Proof.Machine
end

