-- ==== Sys2Proof/Machine/Events.lean ====
section
/-!
DEFINITION. The event controller and the Night Latch (R508–R534): delivery, records, lines and coalescing, the running
priority stack, claiming and completing.
-/
namespace Sys2Proof.Machine
namespace State

/-! ### LEVEL sources (R508, R509) -/

/-- The condition of a LEVEL source: its FIFO holds an entry. -/
def levelHolds (s : State) (e : Nat) : Bool :=
  if e = 0x860 then !(SMap.get [] s.cu.fifos 16).isEmpty
  else if 0x401 ≤ e ∧ e ≤ 0x700 then
    let c := (e - 0x401) / 48
    match (e - 0x401) % 48 with
    | 2 => !(s.clRx c).alerts.isEmpty
    | 16 => !(s.clTx c).stamps.isEmpty
    | 21 => !(SMap.get [] s.cu.fifos c).isEmpty
    | _ => false
  else false

/-- The LEVEL sources. -/
def levelSources : List Nat := ((List.range 16).flatMap fun c => [clEvent c 2, clEvent c 16, clEvent c 21]) ++ [0x860]

/-- A LEVEL source is sampled: with its condition holding it is raised (R509, R510). -/
def sampleLevel (s : State) (e : Nat) : State := if isLevel e && s.levelHolds e then s.raise e else s

/-- A FIFO that held `before` entries has grown: an empty one that now holds an entry raises its source. -/
def fifoGrew (s : State) (e before : Nat) : State := if before = 0 then s.sampleLevel e else s

/-! ### Band rings (R515, R522, R523) -/

/-- The index of target `t`, and of band `b` of target `t`. -/
def tIdx (t : Nat) : Nat := 0x6000 + 0x80 * t
def bIdx (t b : Nat) : Nat := 0x6010 + 0x80 * t + b

/-- REC_SIZE. -/
def recSize (s : State) (t b : Nat) : Nat := s.regN (bIdx t b) 3

/-- The ring has room (R518). -/
def recRoom (s : State) (t b : Nat) : Bool :=
  let r := s.bandRing t b
  (r.tail + 1) % s.recSize t b != r.head

/-- RELEASED is set or cleared. -/
def setReleased (s : State) (t b : Nat) (v : Bool) : State := s.setReg (bIdx t b) 7 ((s.reg (bIdx t b) 7).setBit 62 v)

/-- RUNNING_PRIO: the band on top of the stack, 8 for IDLE (R525). -/
def runningPrio (s : State) (t : Nat) : Nat := (s.tgt t).stack.headD 8

/-- Line b of target t (R522). -/
def evtLine (s : State) (t b : Nat) : Bool :=
  let r := s.bandRing t b
  s.isOn domEvt && s.regB (tIdx t) 1 && s.regB (bIdx t b) 1 && r.tail != r.head && (s.reg (bIdx t b) 7).bit 62
    && (s.runningPrio t == 8 || s.runningPrio t < b)

/-- The records gathered have reached COAL_COUNT: RELEASED becomes 1 (R523). -/
def releaseIfFull (s : State) (t b : Nat) : State :=
  let w := s.reg (bIdx t b) 7
  let r := s.bandRing t b
  if !w.bit 62 && 0 < r.gathered && w.bits 0 16 ≤ r.gathered then s.setReleased t b true else s

/-- A record is written at the ring's tail (R519, R520) and gathered while RELEASED is 0 (R523). -/
def writeRecord (s : State) (t b e prio : Nat) (mgmt again : Bool) (stamp : Word) (data : Nat) : State :=
  let r := s.bandRing t b
  let phase := b2n (r.seq / s.recSize t b % 2 = 0)
  let w1 := phase * 2 ^ 63 + b2n mgmt * 2 ^ 62 + b2n again * 2 ^ 61 + prio * 2 ^ 56 + e * 2 ^ 36 + r.seq % 2 ^ 16 * 2 ^ 16 + data % 2 ^ 16
  let s := (s.memWrite (s.regN (bIdx t b) 2 + 16 * r.tail) (leBytes 8 stamp.toNat ++ leBytes 8 w1)).bump 0x0900 7 16
  let gather := !(s.reg (bIdx t b) 7).bit 62
  let r := { r with tail := (r.tail + 1) % s.recSize t b, seq := r.seq + 1, lastSrc := e,
                    gathered := if gather then r.gathered + 1 else r.gathered,
                    gatherAt := if gather && r.gathered == 0 then s.runTime else r.gatherAt }
  ((s.setBandRing t b r).bump (bIdx t b) 8).releaseIfFull t b

/-! ### Delivery (R516–R518) -/

/-- The band of target `t` for a source priority. -/
def bandOf (s : State) (t prio : Nat) : Nat := (s.reg (tIdx t) 2).bits (3 * prio) 3

/-- The target takes records of the source in its band, room apart (R517). -/
def takes (s : State) (cfg : Word) (t : Nat) : Bool :=
  cfg.bit (32 + t) && s.regB (tIdx t) 1 && s.regB (bIdx t (s.bandOf t (cfg.bits 0 3))) 1

/-- The targets a delivery of the source would choose now (R517, R518). -/
def chosen (s : State) (e : Nat) : List Nat :=
  let cfg := s.reg (0x5000 + e) 1
  let ok := fun t => s.takes cfg t && s.recRoom t (s.bandOf t (cfg.bits 0 3))
  if cfg.bit 4 then (List.range 32).filter ok
  else ((List.range 32).map fun k => (cfg.bits 8 5 + 1 + k) % 32).find? ok |>.toList

/-- The best pending, unmasked source for which a target can be chosen: highest PRIORITY, then lowest number. -/
def bestSource (s : State) : Option Nat :=
  let cands := (s.ev.sources.filter fun e => (e.2.st == .pending) && !e.2.mask && !(s.chosen e.1).isEmpty).map (·.1)
  cands.foldl (fun best e => match best with
    | none => some e
    | some b => if (s.reg (0x5000 + b) 1).bits 0 3 < (s.reg (0x5000 + e) 1).bits 0 3 then some e else some b) none

/-- The delivery of source `e` is committed and its records are written (R516–R520). -/
def deliver (s : State) (e : Nat) : State :=
  let q := s.src e
  let cfg := s.reg (0x5000 + e) 1
  let mgmt := cfg.bit 4
  let prio := cfg.bits 0 3
  let ts := s.chosen e
  let s := if mgmt then ((List.range 32).filter fun t => s.takes cfg t && !ts.contains t).foldl
      (fun s t => s.bump (bIdx t (s.bandOf t prio)) 9) s else s
  let s := s.setSrc e { q with st := .active, data := 0, owner := if mgmt then none else ts.head?, got := ts, again := false,
                               sentData := q.data, sentStamp := q.stamp, sentAgain := q.again, sentPrio := prio }
  let s := if mgmt then s else s.setReg (0x5000 + e) 1 (cfg.setBits 8 5 (ts.headD 0))
  let s := s.bump 0x0700 3
  ts.foldl (fun s t => s.writeRecord t (s.bandOf t prio) e prio mgmt q.again q.stamp q.data) s

/-! ### Landings -/

/-- REC_ENABLE lands (R515). -/
def landRecEnable (s : State) (t b : Nat) (v : Word) : State :=
  let s := s.setReg (bIdx t b) 1 v
  if v.bit 0 then s.setBandRing t b {} else s

/-- REC_BASE and REC_SIZE allow the ring to be enabled (R515). -/
def recOk (s : State) (t b : Nat) : Bool :=
  s.regN (bIdx t b) 2 % 64 == 0 && (List.range 13).any fun k => s.recSize t b == 2 ^ (k + 4)

/-- REC_COAL lands (R523, R524). -/
def landRecCoal (s : State) (t b : Nat) (v : Word) : State :=
  let r := s.bandRing t b
  let held := (r.tail + s.recSize t b - r.head) % s.recSize t b
  let was := (s.reg (bIdx t b) 7).bit 62
  let s := s.setReg (bIdx t b) 7 (v.setBit 63 false)
  let s := if was && !v.bit 62 then s.setBandRing t b { r with gathered := held, gatherAt := s.runTime } else s
  if v.bit 63 && held != 0 then s.setReleased t b true else s.releaseIfFull t b

/-- REC_HEAD lands: read records are freed; an empty ring ends the release (R523). -/
def landRecHead (s : State) (t b v : Nat) : State :=
  let r := s.bandRing t b
  let s := s.setBandRing t b { r with head := v, gathered := if v = r.tail then 0 else r.gathered }
  if v = r.tail then s.setReleased t b false else s

/-- A stack fault of ENTER (`exit` false) or EXIT (R526). -/
def stackFault (s : State) (t b : Nat) (exit : Bool) : State :=
  (s.bump (tIdx t) 0xA).raise 0x870 (t * 256 + b2n exit * 8 + b)

/-- ENTER b (R526). -/
def landEnter (s : State) (t b : Nat) : State :=
  let q := s.tgt t
  if s.runningPrio t = 8 ∨ s.runningPrio t < b then s.setTgt t { q with stack := b :: q.stack } else s.stackFault t b false

/-- EXIT b (R526). -/
def landExit (s : State) (t b : Nat) : State :=
  let q := s.tgt t
  if q.stack.head? = some b then s.setTgt t { q with stack := q.stack.tail } else s.stackFault t b true

/-- CLAIM_SEL lands. -/
def landClaimSel (s : State) (t v : Nat) : State := s.setTgt t { s.tgt t with claimSel := v }

/-- The source is ACTIVE or ACTIVE_PENDING. -/
def srcActive (s : State) (e : Nat) : Bool := (s.src e).st == .active || (s.src e).st == .activePending

/-- A read of CLAIM by target `t`: the value returned and the state after it (R527). -/
def readClaim (s : State) (t : Nat) : Word × State :=
  let sel := (s.tgt t).claimSel
  if sel = 0 then
    let cands := (s.ev.sources.filter fun e => s.srcActive e.1 && e.2.owner.isNone && e.2.got.contains t).map (·.1)
    let best := cands.foldl (fun best e => match best with
      | none => some e
      | some b => if (s.src b).sentPrio < (s.src e).sentPrio then some e else some b) none
    match best with
    | none => (0, s)
    | some e => (Word.ofNat e, s.setSrc e { s.src e with owner := some t })
  else
    let q := s.src sel
    if s.srcActive sel && (q.owner == some t || (q.owner.isNone && q.got.contains t))
    then (Word.ofNat sel, s.setSrc sel { q with owner := some t })
    else (0xFFF, s.bump (tIdx t) 0xB)

/-- DONE of source `e` by target `t` (R528, R510). -/
def landDone (s : State) (t e : Nat) : State :=
  let q := s.src e
  if s.srcActive e && q.owner == some t then
    let q := { q with owner := none, got := [] }
    match q.st with
    | .activePending => s.setSrc e { q with st := .pending, again := true }
    | _ => if isLevel e && s.levelHolds e then s.setSrc e { q with st := .pending, data := 0, stamp := s.shortTime, again := false }
           else s.setSrc e { q with st := .idle, data := 0 }
  else s.bump (tIdx t) 0xB

/-- The sources of bank `b` whose bit is set in `v`. -/
def bankSources (b : Nat) (v : Word) : List Nat := ((bitList v.toNat 0 64).map (64 * b + ·)).filter isSource

/-- PENDING_SET raises each source written as 1 with DATA 0 (R511). -/
def landPendingSet (s : State) (b : Nat) (v : Word) : State := (bankSources b v).foldl (fun s e => s.raise e) s

/-- PENDING_CLR (R510, R529); a LEVEL source whose condition holds is raised again. -/
def landPendingClr (s : State) (b : Nat) (v : Word) : State :=
  (bankSources b v).foldl (fun s e =>
    let q := s.src e
    let s := match q.st with
      | .pending => s.setSrc e { q with st := .idle, data := 0 }
      | .activePending => s.setSrc e { q with st := .active, data := 0 }
      | _ => s
    if q.st == .pending || q.st == .activePending then s.sampleLevel e else s) s

/-- MASK_SET and MASK_CLR (R511). -/
def landMask (s : State) (b : Nat) (v : Word) (m : Bool) : State :=
  (bankSources b v).foldl (fun s e => s.setSrc e { s.src e with mask := m }) s

/-- LATCH_FIRED_CLR (R530). -/
def landFiredClr (s : State) (v : Word) : State := { s with ev := { s.ev with fired := s.ev.fired &&& ~~~v } }

/-- REC_BUS_CAPTURE is read and cleared (R530). -/
def readRecCapture (s : State) : Word × State := (s.ev.capture, { s with ev := { s.ev with capture := 0 } })

/-! ### Reads -/

/-- A word with a bit for each of the 64 sources of bank `b` that satisfies `f`. -/
def bankWord (b : Nat) (f : Nat → Bool) : Word :=
  (List.range 64).foldl (fun w i => if isSource (64 * b + i) && f (64 * b + i) then w.setBit i true else w) 0

def bankPending (s : State) (b : Nat) : Word :=
  bankWord b fun e => (s.src e).st == .pending || (s.src e).st == .activePending

/-- MASK: the bits of numbers that are not sources read 0 (R508, R511). -/
def bankMask (s : State) (b : Nat) : Word := bankWord b fun e => (s.src e).mask

def bankActive (s : State) (b : Nat) : Word := bankWord b fun e => s.srcActive e

def pendingCount (s : State) : Nat := (s.ev.sources.filter fun e => e.2.st == .pending || e.2.st == .activePending).length

/-- IRQ_STATE (R514). -/
def irqState (s : State) (t : Nat) : Word :=
  Word.ofNat ((List.range 8).foldl (fun n b =>
    n + b2n (s.evtLine t b) * 2 ^ b + b2n ((s.bandRing t b).tail != (s.bandRing t b).head) * 2 ^ (8 + b)) 0)

/-! ### Resets and the return of EVT (R532, R533) -/

/-- Every source IDLE, MASK kept. -/
def idleSources (s : State) : State :=
  let sources : SMap Source := s.ev.sources.foldl (fun m e => SMap.set {} m e.1 { mask := e.2.mask }) []
  { s with ev := { s.ev with sources := sources } }

/-- Stacks and record rings as every reset but cluster and port leaves them: REC_ENABLE 0, indices 0. -/
def emptyRings (s : State) : State :=
  let targets : SMap Target := s.ev.targets.foldl (fun m e => SMap.set {} m e.1 { claimSel := e.2.claimSel }) []
  let s := { s with ev := { s.ev with rings := [], targets := targets } }
  { s with regs := SMap.eraseWhere (fun k => 0x6000 ≤ keyIdx k && keyIdx k ≤ 0x6FFF && 0x10 ≤ keyIdx k % 128 && keySub k == 1) s.regs }

/-- The controller as a cold reset leaves it; index 0x0700 and the Night Latch are no part of it (R530, R533). -/
def evtDefaults (s : State) : State :=
  let s := { s with ev := { s.ev with sources := [], targets := [], rings := [] } }
  let mine := fun k => 0x5000 ≤ keyIdx k && keyIdx k ≤ 0x6FFF
  ({ s with regs := SMap.eraseWhere mine s.regs }).clearCtrs mine

/-- EVT is ON again: after OFF the controller starts as after a cold reset; then the Night Latch's raises follow and
every LEVEL source is sampled (R532, R533). -/
def evtReturn (s : State) (fromOff : Bool) : State :=
  let s := if fromOff then s.evtDefaults else s
  let fired := bitList s.ev.fired.toNat 0 64
  let s := if s.ev.wokeAway then s.raiseSource 0x872 (fired.headD 0) else s
  let s := { s with ev := { s.ev with wokeAway := false } }
  let s := fired.foldl (fun s n =>
    let e := (s.reg 0x0700 (0x40 + n)).bits 0 12
    if isSource e then s.raiseSource e (SMap.get 0 s.ev.latchData n) else s) s
  levelSources.foldl (fun s e => s.sampleLevel e) s

end State

/-- One delivery of the best pending unmasked source (R516). EVT delivers only while it is ON. -/
def execEventDelivery (dt : Nat) (s : State) : Res :=
  let s := s.elapse dt
  if !s.isOn domEvt || !s.clocked then .next s
  else match s.bestSource with
    | some e => .next (s.deliver e)
    | none => .next s

/-- The source of a record that was not written: without another record of its delivery it returns to PENDING (R521). -/
def State.unsent (s : State) (t e : Nat) : State :=
  let q := s.src e
  if !q.got.contains t || !s.srcActive e then s
  else
    let got := q.got.filter (· ≠ t)
    if !got.isEmpty then s.setSrc e { q with got }
    else
      let data := if State.dataIsBits e then q.sentData ||| q.data else if q.st == .activePending then q.data else q.sentData
      s.setSrc e { q with st := .pending, data, stamp := q.sentStamp, again := q.sentAgain, owner := none, got := [] }

/-- The last record written to band `b` of target `t` received an error response (R521): the ring is disabled and the record
counts as not written. -/
def execRecordWriteError (dt t b : Nat) (s : State) : Res :=
  let s := s.elapse dt
  let r := s.bandRing t b
  if !s.isOn domEvt || !s.regB (State.bIdx t b) 1 || r.seq = 0 then .next s
  else
    let tail := (r.tail + s.recSize t b - 1) % s.recSize t b
    let s := s.setReg (State.bIdx t b) 1 0
    let s := s.setBandRing t b { r with tail, seq := r.seq - 1, gathered := r.gathered - 1 }
    let s := { s with ctrs := SMap.set 0 s.ctrs (slotKey (State.bIdx t b) 8 0) (s.ctr (State.bIdx t b) 8 - 1) }
    let f := s.freshBytes 16
    let s := f.2.memWrite (s.regN (State.bIdx t b) 2 + 16 * tail) f.1
    let s := s.bump 0x0700 1
    let s := if s.ev.capture.bit 31 then s else { s with ev := { s.ev with capture := Word.ofNat (2 ^ 31 + t * 256 + b) } }
    .next ((s.unsent t r.lastSrc).raise 0x871 (t * 256 + b))

/-- COAL_TIME has passed since the first gathered record: the band is released (R523). -/
def execCoalTimeout (dt t b : Nat) (s : State) : Res :=
  let s := s.elapse dt
  let w := s.reg (State.bIdx t b) 7
  let r := s.bandRing t b
  if s.isOn domEvt && s.regB (State.bIdx t b) 1 && !w.bit 62 && 0 < r.gathered && w.bits 16 36 != 0 && w.bits 16 36 ≤ s.since r.gatherAt
  then .next (s.setReleased t b true) else .next s

end Sys2Proof.Machine
end

