-- ==== Sys2Proof/Machine/Counters.lean ====
section
/-!
DEFINITION. Half ranges and the snapshot (R462–R469).
-/
namespace Sys2Proof.Machine
namespace State

/-- The half-range queue of a counter: 0–15 the clusters, 16 common (R464). -/
def queueOf (key : Nat) : Nat :=
  let i := keyIdx key
  if 0x1800 ≤ i ∧ i ≤ 0x1BFF then (i - 0x1800) / 64
  else if 0x2000 ≤ i ∧ i ≤ 0x20FF then (i - 0x2000) / 16
  else if 0x3000 ≤ i ∧ i ≤ 0x3FFF then (i - 0x3000) / 256
  else 16

/-- The source raised while the queue's FIFO holds an entry (R466). -/
def halfEvent (q : Nat) : Nat := if q = 16 then 0x860 else clEvent q 21

/-- HALF_PENDING of a queue. -/
def halfPending (s : State) (q : Nat) : Nat := (s.cu.pending.filter fun e => queueOf e.1 == q).length

/-- A read of HALF_NEXT: the oldest entry, its counter retired (R465). -/
def halfNext (s : State) (q : Nat) : Word × State :=
  match SMap.get [] s.cu.fifos q with
  | [] => (0, s)
  | k :: rest =>
    let old := SMap.get 0 s.ctrs k
    let wrapped := !old.getLsbD 47
    let ctrs := if wrapped then s.ctrs else SMap.set 0 s.ctrs k (old - BitVec.ofNat 48 (2 ^ 47))
    let rowed := 0x3000 ≤ keyIdx k ∧ keyIdx k ≤ 0x3FFF
    (Word.ofNat (2 ^ 63 + b2n wrapped * 2 ^ 62 + b2n (decide rowed) * 2 ^ 61 + keyIdx k * 2 ^ 32 + keySub k * 2 ^ 24 + keyRow k),
     { s with ctrs, cu := { s.cu with fifos := SMap.set [] s.cu.fifos q rest, pending := SMap.set false s.cu.pending k false } })

/-- SNAP lands: the block of SNAP_PORT is frozen at one edge (R469). SNAP must be ON. Its counters that were presented but not
read wait as pending ones again, so that none is retired before the release (DEDUCED, assumption 106). -/
def snapOk (s : State) : Bool := s.isOn domSnap
def landSnap (s : State) : State :=
  let p := s.regN 0x0B00 1
  let frozen : SMap (BitVec 48) := (List.range 128).foldl (fun m i => SMap.set 0 m (i + 1) (s.ctr (0x1800 + p) (i + 1))) []
  let fifos := (s.cu.fifos.map fun e => (e.1, e.2.filter fun k => keyIdx k != 0x1800 + p)).filter fun e => e.2 ≠ []
  { s with cu := { s.cu with held := some p, frozen, snapTime := BitVec.ofNat 84 s.devTime, fifos } }

/-- The held block is released: SNAP_RELEASE, SNAP leaving ON, and every reset (R469, R535). -/
def snapRelease (s : State) : State := { s with cu := { s.cu with held := none, frozen := [] } }

/-- A slot of a port's counter block as read (R462, R469). -/
def readPortCtr (s : State) (p sub : Nat) : Word :=
  if s.cu.held = some p then (SMap.get 0 s.cu.frozen sub).setWidth 64
  else if (s.dom (domMeter (p / 64))).ack = .off then 0
  else (s.ctr (0x1800 + p) sub).setWidth 64

/-- METER of a cluster leaves ON for OFF: the counters of its ports are lost (R462). -/
def losePortCtrs (s : State) (c : Nat) : State :=
  s.clearCtrs fun k => 0x1800 + 64 * c ≤ keyIdx k && keyIdx k < 0x1800 + 64 * c + 64

end State

/-- The scanner moves a pending counter into the presentation FIFO of its queue; which one it takes is not guaranteed (R464). -/
def execCounterHalfPresent (dt idx sub row : Nat) (s : State) : Res :=
  let s := s.elapse dt
  let k := slotKey idx sub row
  let q := State.queueOf k
  let fifo := SMap.get [] s.cu.fifos q
  let heldOut := match s.cu.held with | some p => idx == 0x1800 + p | none => false
  if !SMap.get false s.cu.pending k || fifo.contains k || 64 ≤ fifo.length || heldOut || !s.clocked then .next s
  else
    let s := { s with cu := { s.cu with fifos := SMap.set [] s.cu.fifos q (fifo ++ [k]) } }
    .next (s.fifoGrew (State.halfEvent q) fifo.length)

end Sys2Proof.Machine
end

