-- ==== Sys2Proof/Machine/Crc.lean ====
section
/-!
DEFINITION. Cyclic redundancy checks: the IEEE 802.3 CRC-32 of the FCS and the group hash (R147), the CRC-32C of the
Doorlist hashes (R238), the CRC-16 of time-of-day messages (R48), and the general register of the calipers (R410).
-/
namespace Sys2Proof.Machine

/-- One bit of a reflected CRC register. -/
def crcStepRef (poly crc : Nat) : Nat := if crc % 2 = 1 then (crc / 2) ^^^ poly else crc / 2

/-- One byte into a reflected CRC register. -/
def crcByteRef (poly crc : Nat) (b : Byte) : Nat := Nat.repeat (crcStepRef poly) 8 (crc ^^^ b.toNat)

/-- A reflected CRC register over bytes. -/
def crcRunRef (poly init : Nat) (bs : Bytes) : Nat := bs.foldl (crcByteRef poly) init

/-- The IEEE 802.3 CRC-32 as a 32-bit integer: reflected, initial value and final XOR all ones (R147). -/
def crc32 (bs : Bytes) : Nat := crcRunRef 0xEDB88320 0xFFFFFFFF bs ^^^ 0xFFFFFFFF

/-- The Castagnoli CRC-32C, reflected, initial value `init`, final XOR all ones. -/
def crc32c (init : Nat) (bs : Bytes) : Nat := crcRunRef 0x82F63B78 init bs ^^^ 0xFFFFFFFF

/-- The four FCS bytes of a frame body, in wire order (IEEE 802.3: the CRC's low byte first). -/
def fcsOf (body : Bytes) : Bytes := leBytes 4 (crc32 body)

/-- The bitwise inverse of the FCS: a stomped end (R138). -/
def stompFcs (body : Bytes) : Bytes := leBytes 4 (crc32 body ^^^ 0xFFFFFFFF)

/-- The mCRC of a fragment: the CRC-32 over the frame's data so far XORed with 0x0000_FFFF (R157). -/
def mcrcOf (body : Bytes) : Bytes := xorBytes (fcsOf body) [0xFF, 0xFF, 0x00, 0x00]

/-- One bit of an unreflected CRC register of `w` bits. -/
def crcStepMsb (w poly crc : Nat) : Nat :=
  if crc.testBit (w - 1) then ((crc * 2) % 2 ^ w) ^^^ poly else (crc * 2) % 2 ^ w

/-- One byte, most significant bit first, into an unreflected register of `w` bits: bit by bit, so any width works. -/
def crcByteMsb (w poly crc : Nat) (b : Nat) : Nat :=
  (List.range 8).foldl (fun c i => crcStepMsb w poly (c ^^^ (((b >>> (7 - i)) % 2) <<< (w - 1)))) crc

/-- An unreflected register over bytes. -/
def crcRunMsb (w poly init : Nat) (bs : Bytes) : Nat := bs.foldl (fun c b => crcByteMsb w poly c b.toNat) init

/-- CRC-16 with polynomial 0x1021 and initial value 0xFFFF (R48). -/
def crc16 (bs : Bytes) : Nat := crcRunMsb 16 0x1021 0xFFFF bs

end Sys2Proof.Machine
end

