-- ==== Sys2Proof/Machine/Operands.lean ====
section
/-!
DEFINITION. The parts of a frame the stages read: VLAN tags (R139), the system tag (R141), the IP and UDP headers, the
anchors and payload ends of the calipers (R407), and PTP event messages (R384). A frame is its bytes from the destination
address on, without the FCS.
-/
namespace Sys2Proof.Machine

/-- What the tags of a frame say (R139): VID, PCP, DEI of the outer tag, the number of tags, and where the EtherType
after the tags lies. -/
structure Tags where
  vid : Nat
  pcp : Nat
  dei : Nat
  count : Nat
  etOff : Nat
  deriving DecidableEq, Repr

/-- Up to two VLAN tags at offset `o`, with the port's TPID_ALT, DEFAULT_VID and DEFAULT_PCP (R139). -/
def parseTags (bs : Bytes) (o alt dvid dpcp : Nat) : Tags :=
  let outer := beAt bs o 2
  if (outer = 0x8100 ∨ outer = 0x88A8 ∨ (alt ≠ 0 ∧ outer = alt)) ∧ o + 4 ≤ bs.length then
    let tci := beAt bs (o + 2) 2
    let vid := if tci % 4096 = 0 then dvid else tci % 4096
    if beAt bs (o + 4) 2 = 0x8100 ∧ o + 8 ≤ bs.length
    then { vid, pcp := tci / 8192, dei := tci / 4096 % 2, count := 2, etOff := o + 8 }
    else { vid, pcp := tci / 8192, dei := tci / 4096 % 2, count := 1, etOff := o + 4 }
  else { vid := dvid, pcp := dpcp, dei := 0, count := 0, etOff := o }

/-- The EtherType after the tags. -/
def Tags.etype (t : Tags) (bs : Bytes) : Nat := beAt bs t.etOff 2

/-- What the IP headers of a frame say. -/
structure L3 where
  v6 : Bool
  off : Nat
  /-- end of the IP payload -/
  stop : Nat
  dscp : Nat
  /-- UDP header offset and end of the UDP payload, for UDP in a first or whole packet -/
  udp : Option (Nat × Nat)
  /-- an IPv4 packet that is a fragment -/
  frag : Bool
  deriving DecidableEq, Repr

/-- The IPv4 or IPv6 header after the EtherType. -/
def parseL3 (bs : Bytes) (t : Tags) : Option L3 :=
  let o := t.etOff + 2
  let et := t.etype bs
  let udpAt := fun u stop => if u + 8 ≤ bs.length then some (u, min stop (u + max 8 (beAt bs (u + 4) 2))) else none
  if et = 0x0800 ∧ o + 20 ≤ bs.length ∧ beAt bs o 1 / 16 = 4 then
    let ihl := beAt bs o 1 % 16 * 4
    let stop := min bs.length (o + beAt bs (o + 2) 2)
    let fo := beAt bs (o + 6) 2 % 16384
    some { v6 := false, off := o, stop, dscp := beAt bs (o + 1) 1 / 4, frag := fo ≠ 0
           udp := if beAt bs (o + 9) 1 = 17 ∧ fo % 8192 = 0 then udpAt (o + ihl) stop else none }
  else if et = 0x86DD ∧ o + 40 ≤ bs.length ∧ beAt bs o 1 / 16 = 6 then
    let stop := min bs.length (o + 40 + beAt bs (o + 4) 2)
    some { v6 := true, off := o, stop, dscp := beAt bs o 2 / 64 % 64, frag := false
           udp := if beAt bs (o + 6) 1 = 17 then udpAt (o + 40) stop else none }
  else none

/-- The byte an anchor names and the end of its payload (R407): 0 FRAME, 1 ETYPE, 2 L3, 3 L4. -/
def anchorOf (bs : Bytes) (t : Tags) (a : Nat) : Option (Nat × Nat) :=
  match a with
  | 0 => some (0, bs.length)
  | 1 => if t.etOff + 2 ≤ bs.length then some (t.etOff + 2, bs.length) else none
  | 2 => (parseL3 bs t).map fun l => (l.off, l.stop)
  | _ => match (parseL3 bs t).bind (·.udp) with
    | some (u, stop) => some (u + 8, stop)
    | none => none

/-- The fields of a system tag (R141). -/
structure SysTag where
  version : Nat
  device : Nat
  port : Nat
  cls : Nat
  hint : Nat
  deriving DecidableEq, Repr

/-- The system tag after the source address, if the frame carries one. -/
def parseSysTag (bs : Bytes) : Option SysTag :=
  if beAt bs 12 2 = 0x88B6 ∧ 24 ≤ bs.length then
    let w := beAt bs 15 4
    some { version := beAt bs 14 1, device := w / 2 ^ 14, port := w / 16 % 1024, cls := w / 2 % 8, hint := beAt bs 19 2 }
  else none

/-- The 12 bytes of a system tag (R141, R389). -/
def sysTagBytes (t : SysTag) : Bytes :=
  beBytes 2 0x88B6 ++ beBytes 1 t.version ++ beBytes 4 (t.device * 2 ^ 14 + t.port * 16 + t.cls * 2) ++ beBytes 2 t.hint
    ++ beBytes 3 0

/-- The destination address as a number; its group bit; broadcast. -/
def daOf (bs : Bytes) : Nat := beAt bs 0 6
def saOf (bs : Bytes) : Nat := beAt bs 6 6
def isGroup (mac : Nat) : Bool := mac.testBit 40
def isBroadcast (mac : Nat) : Bool := mac == 0xFFFFFFFFFFFF

/-- A recognised PTP event message (R384): where it lies, the transport (0 Ethernet, 1 IPv4, 2 IPv6) and the UDP header. -/
structure Ptp where
  off : Nat
  transport : Nat
  udp : Option (Nat × Nat)
  deriving DecidableEq, Repr

/-- Recognition of a PTP event message (R384). -/
def parsePtp (bs : Bytes) (t : Tags) : Option Ptp :=
  let isEvent := fun o => o + 34 ≤ bs.length && beAt bs (o + 1) 1 % 16 == 2 && beAt bs o 1 % 16 ≤ 3
  if t.etype bs = 0x88F7 then
    if isEvent (t.etOff + 2) then some { off := t.etOff + 2, transport := 0, udp := none } else none
  else match parseL3 bs t with
    | some l => match l.udp with
      | some (u, stop) =>
        if !l.frag && beAt bs (u + 2) 2 == 319 && isEvent (u + 8)
        then some { off := u + 8, transport := if l.v6 then 2 else 1, udp := some (u, stop) } else none
      | none => none
    | none => none

/-- The frame with a system tag inserted after the source address. -/
def insertAfterSa (bs tag : Bytes) : Bytes := bs.take 12 ++ tag ++ bs.drop 12

/-- The one's complement sum of 16-bit words, as RFC 1624 updates a checksum: HC' = ~(~HC + ~m + m'). -/
def csumUpdate (hc : Nat) (old new : Nat) : Nat :=
  let fold := fun x => let y := x % 65536 + x / 65536; y % 65536 + y / 65536
  65535 - fold (65535 - hc + (65535 - old) + new)

end Sys2Proof.Machine
end

