-- ==== Sys2Proof/Machine/PortCounters.lean ====
section
/-!
DEFINITION. The slots of a port's counter block, index 0x1800 + p (R460). `rxPfc`, `txPfc`, `rxBin` and `txBin` are the
first of their runs.
-/
namespace Sys2Proof.Machine.Pc

def rxFramesOk : Nat := 0x01
def rxOctetsOk : Nat := 0x02
def rxUcast : Nat := 0x03
def rxMcast : Nat := 0x04
def rxBcast : Nat := 0x05
def rxFcsErr : Nat := 0x06
def rxStompRcvd : Nat := 0x07
def rxCodeErr : Nat := 0x08
def rxRunt : Nat := 0x09
def rxFragment : Nat := 0x0A
def rxOversize : Nat := 0x0B
def rxJabber : Nat := 0x0C
def rxTrunc : Nat := 0x0D
def rxBadSfd : Nat := 0x0E
def rxGroupFiltered : Nat := 0x0F
def rxSystagDrop : Nat := 0x10
def rxSystagLoop : Nat := 0x11
def rxPause : Nat := 0x12
def rxPauseResume : Nat := 0x13
def rxPfc : Nat := 0x14
def rxPfcResume : Nat := 0x1C
def rxMacCtrlDrop : Nat := 0x1D
def rxPreemptFrag : Nat := 0x1E
def rxReasmErr : Nat := 0x1F
def rxExpressWaitDrop : Nat := 0x20
def rxKnock : Nat := 0x21
def rxBin : Nat := 0x22
def rxMacsecBypass : Nat := 0x2C
def rxMacsecBadTag : Nat := 0x2D
def rxMacsecNoTag : Nat := 0x2E
def rxMacsecUntagged : Nat := 0x2F
def rxMacsecNoSaErr : Nat := 0x30
def rxMacsecNoSa : Nat := 0x31
def rxMacsecStomp : Nat := 0x32
def rxHoldFallback : Nat := 0x33
def rxKeyEraseStomp : Nat := 0x34
def rxDoorBadSa : Nat := 0x35
def rxStationViolation : Nat := 0x36
def rxDoorMiss : Nat := 0x37
def rxDoorDrop : Nat := 0x38
def rxDoorPunt : Nat := 0x39
def rxLearnLimit : Nat := 0x3A
def rxMeterDrop : Nat := 0x3B
def rxMeterNone : Nat := 0x3C
def txFramesOk : Nat := 0x40
def txOctetsOk : Nat := 0x41
def txUcast : Nat := 0x42
def txMcast : Nat := 0x43
def txBcast : Nat := 0x44
def txPadded : Nat := 0x45
def txOversize : Nat := 0x46
def txUnderrun : Nat := 0x47
def txStompSent : Nat := 0x48
def txStompRelayed : Nat := 0x49
def txReturnFcsErr : Nat := 0x4A
def txBufEccStomp : Nat := 0x4B
def swingStomp : Nat := 0x4C
def txReturnOrphan : Nat := 0x4D
def txReturnLost : Nat := 0x4E
def headLenMismatch : Nat := 0x4F
def txLinkDiscard : Nat := 0x50
def txCloseDiscard : Nat := 0x51
def txPause : Nat := 0x52
def txPauseResume : Nat := 0x53
def txPfc : Nat := 0x54
def txPfcResume : Nat := 0x5C
def txPreemptFrag : Nat := 0x5D
def txPreemptions : Nat := 0x5E
def txVerify : Nat := 0x5F
def txRespond : Nat := 0x60
def txOnestep : Nat := 0x61
def txOnestepFallback : Nat := 0x62
def txTsRecord : Nat := 0x63
def txBin : Nat := 0x64
def txKeyEraseStomp : Nat := 0x6E
def txMacsecUntagged : Nat := 0x6F
def txMacsecTooLong : Nat := 0x70
def txSaNotInUse : Nat := 0x71
def txOnestepSecured : Nat := 0x72
def windowDefer : Nat := 0x73
def neverFits : Nat := 0x74
def gateOverrun : Nat := 0x75
def preemptAtClose : Nat := 0x76
def shutterSwaps : Nat := 0x77
def shutterRealigns : Nat := 0x78

/-- The size bin of a length (R461). -/
def bin (l : Nat) : Nat :=
  if l ≤ 64 then 0 else if l ≤ 127 then 1 else if l ≤ 255 then 2 else if l ≤ 511 then 3 else if l ≤ 1023 then 4
  else if l ≤ 1518 then 5 else if l ≤ 2047 then 6 else if l ≤ 4095 then 7 else if l ≤ 8191 then 8 else 9

end Sys2Proof.Machine.Pc
end

