-- ==== Sys2Proof/Machine/Door.lean ====
section
/-!
DEFINITION. The Doorlist (R236–R264): buckets, insertion and relocation, the decision for a frame, learning, ageing,
parity and flushes.
-/
namespace Sys2Proof.Machine

/-- The two buckets of a key (R238). -/
def doorBuckets (mac vid salt : Nat) : Nat × Nat :=
  let key := beBytes 2 vid ++ beBytes 6 mac
  let init := 0xFFFFFFFF ^^^ salt
  let b0 := (crcRunRef 0xEDB88320 init key ^^^ 0xFFFFFFFF) % 16384
  let b1 := crc32c init key % 16384
  (b0, if b1 = b0 then b0 ^^^ 0x2000 else b1)

namespace State

/-! ### The table -/

/-- One way of the table. -/
def doorRow (s : State) (c r : Nat) : DoorRow := SMap.get {} (s.clRx c).door.rows r
def setDoorRow (s : State) (c r : Nat) (w : DoorRow) : State :=
  s.updClRx c fun q => { q with door := { q.door with rows := SMap.set {} q.door.rows r w } }
def updDoor (s : State) (c : Nat) (f : DoorUnit → DoorUnit) : State := s.updClRx c fun q => { q with door := f q.door }

/-- The eight ways of a key, b0 first. -/
def doorWays (s : State) (c mac vid : Nat) : List Nat :=
  let b := doorBuckets mac vid (s.regN (clIdx c 3) 1)
  (List.range 4).map (4 * b.1 + ·) ++ (List.range 4).map (4 * b.2 + ·)

/-- The entry of a way with good parity. -/
def doorEntry (s : State) (c r : Nat) : Option DoorEntry := let w := s.doorRow c r; if w.synd = 0 then w.entry else none

/-- The first way with good parity that holds the key with a type in `kinds` (R240). -/
def doorFind (s : State) (c mac vid : Nat) (kinds : List Nat) : Option (Nat × DoorEntry) :=
  (s.doorWays c mac vid).findSome? fun r => match s.doorEntry c r with
    | some e => if e.mac = mac ∧ e.vid = vid ∧ kinds.contains e.kind then some (r, e) else none
    | none => none

/-- A way fails its parity check (R259). -/
def parityErr (s : State) (c r : Nat) : State :=
  let synd := (s.doorRow c r).synd
  let s := s.updDoor c fun d =>
    if d.capture.bit 31 then d else { d with capture := Word.ofNat (2 ^ 31 + synd % 16 * 2 ^ 16 + r) }
  (s.bump (clIdx c 3) 0xA).raiseOnce (clEvent c 6)

/-- A lookup: every way of both buckets with bad parity is reported; the first match returns. -/
def doorLookup (s : State) (c mac vid : Nat) (kinds : List Nat) : Option (Nat × DoorEntry) × State :=
  let bad := (s.doorWays c mac vid).filter fun r => (s.doorRow c r).synd ≠ 0
  (s.doorFind c mac vid kinds, bad.foldl (fun s r => s.parityErr c r) s)

/-- OCCUPANCY, and LEARNED_COUNT of local port `l` (R249, R261). -/
def occupancy (s : State) (c : Nat) : Nat := ((s.clRx c).door.rows.filter fun e => e.2.entry.isSome).length
def learnedCount (s : State) (c l : Nat) : Nat :=
  ((s.clRx c).door.rows.filter fun e => match e.2.entry with | some d => d.kind == 0 && d.port == l | none => false).length

/-- OCCUPANCY has changed from `old`: rising to OCC_ALERT raises the event (R261). -/
def occAlert (s : State) (c old : Nat) : State :=
  let a := s.regN (clIdx c 3) 4
  if a ≠ 0 ∧ old < a ∧ a ≤ s.occupancy c then s.raise (clEvent c 9) else s

/-- A way is written; its parity is good again. -/
def doorWrite (s : State) (c r : Nat) (e : DoorEntry) : State :=
  let old := s.occupancy c
  (s.setDoorRow c r { entry := some e }).occAlert c old

/-- A way is emptied. -/
def doorClear (s : State) (c r : Nat) : State := s.setDoorRow c r { s.doorRow c r with entry := none, synd := 0 }

/-- A free way of bucket `b`: one with bad parity counts as free (R246). -/
def freeWay (s : State) (c b : Nat) : Option Nat :=
  ((List.range 4).map (4 * b + ·)).find? fun r => (s.doorEntry c r).isNone

/-- The other bucket of the entry in way `r`. -/
def otherBucket (s : State) (c r : Nat) : Option Nat :=
  (s.doorEntry c r).map fun e =>
    let b := doorBuckets e.mac e.vid (s.regN (clIdx c 3) 1)
    if r / 4 = b.1 then b.2 else b.1

/-- A relocation move: copy, then remove (R246, R248). -/
def doorMove (s : State) (c from_ to_ : Nat) : State :=
  match s.doorEntry c from_ with
  | none => s
  | some e => ((s.setDoorRow c to_ { entry := some e }).doorClear c from_).bump (clIdx c 3) 9

/-- The first chain of at most two moves that frees one of the ways: source, first target, and the farther move. -/
def doorPath (s : State) (c : Nat) (ways : List Nat) : Option (Nat × Nat × Option (Nat × Nat)) :=
  let one := ways.findSome? fun r => (s.otherBucket c r).bind fun b => (s.freeWay c b).map fun w => (r, w, none)
  match one with
  | some p => some p
  | none => ways.findSome? fun r => (s.otherBucket c r).bind fun b =>
      ((List.range 4).map (4 * b + ·)).findSome? fun r2 => (s.otherBucket c r2).bind fun b2 =>
        if r2 = r then none else (s.freeWay c b2).map fun w => (r, r2, some (r2, w))

/-- The insertion engine places one key (R246, R247). Answers whether it found a way. -/
def doorInsert (s : State) (c : Nat) (e : DoorEntry) : Bool × State :=
  let ways := s.doorWays c e.mac e.vid
  match s.doorFind c e.mac e.vid [0, 1, 2] with
  | some (r, _) => (true, s.doorWrite c r e)
  | none => match ways.find? fun r => (s.doorEntry c r).isNone with
    | some r => (true, s.doorWrite c r e)
    | none => match s.doorPath c ways with
      | some (r, w, far) =>
        let s := match far with | some m => s.doorMove c m.1 m.2 | none => s
        (true, (s.doorMove c r w).doorWrite c r e)
      | none => (false, (s.bump (clIdx c 3) 5).raiseOnce (clEvent c 7))

/-! ### Commits (R242–R245) -/

/-- A row image may be committed to table 0x05 (R244). -/
def doorOk (img : List Word) : Bool :=
  let mac := (img.getD 0 0).toNat
  let w := img.getD 1 0
  let wire := beNat (leBytes 6 mac)
  if 2 ≤ w.bits 62 2 then false
  else if w.bits 62 2 = 0 && !w.bit 61 then true
  else w.bits 8 2 != 3 && w.bits 12 2 != 3 && !(w.bits 8 2 != 2 && (isGroup wire || wire == 0))
    && !(w.bits 40 12 == 0xFFF && w.bits 8 2 != 2) && within 0xE00FFF0000FF333F w.toNat

/-- A COMMIT to table 0x05 lands: its STATUS code (R244, R245). -/
def landDoor (s : State) (c : Nat) (img : List Word) : Nat × State :=
  let w := img.getD 1 0
  let mac := beNat (leBytes 6 (img.getD 0 0).toNat)
  let vid := w.bits 40 12
  if w.bits 62 2 = 1 then
    match s.doorFind c mac vid [0, 1, 2] with
    | some (r, _) => (rOK, s.doorClear c r)
    | none => (rOK, s)
  else if !w.bit 61 then (rOK, s)
  else
    let kind := w.bits 8 2
    let x := s.doorInsert c { mac, vid, kind, port := if kind = 2 then 0 else w.bits 0 6, ring := if kind = 2 then w.bits 16 8 else 0,
                              mode := if kind = 2 then w.bits 12 2 else 0, hit := false, stale := false }
    (if x.1 then rOK else rTABLE_FULL, x.2)

/-- DOOR_MAC, DOOR_CTRL and DOOR_STATE of a row as ROW loads them (R242, R243). -/
def doorImage (s : State) (c r : Nat) : Word × Word × Word :=
  let w := s.doorRow c r
  let bad := b2n w.shown * 2 ^ 60
  match w.entry with
  | none => (0, 0, Word.ofNat bad)
  | some e => (Word.ofNat (leNat (beBytes 6 e.mac)),
      Word.ofNat (2 ^ 61 + e.vid * 2 ^ 40 + e.ring * 2 ^ 16 + e.mode * 2 ^ 12 + e.kind * 2 ^ 8 + e.port),
      Word.ofNat (2 ^ 63 + b2n e.hit * 2 ^ 62 + b2n e.stale * 2 ^ 61 + bad))

/-- HASH_SALT lands: every entry is removed (R261). DESIGN CHOICE (assumption 102): the learns and moves in the queue go with
them. -/
def landSalt (s : State) (c : Nat) (v : Word) : State := (s.setReg (clIdx c 3) 1 v).updDoor c fun d => { d with rows := [], learnq := [] }

/-- PARITY_CAPTURE is read and cleared. -/
def readParityCapture (s : State) (c : Nat) : Word × State := ((s.clRx c).door.capture, s.updDoor c fun d => { d with capture := 0 })

/-! ### The decision (R250–R255) -/

/-- A learn or a move is queued (R254). VID 0xFFF is valid in PUNT entries only (R239): a station is not learned under it. -/
def queueLearn (s : State) (c : Nat) (q : LearnReq) : State :=
  let d := (s.clRx c).door
  if q.vid = 0xFFF then s
  else if d.learnq.any fun x => x.mac == q.mac && x.vid == q.vid && x.port == q.port then s
  else if 64 ≤ d.learnq.length then s.bump (clIdx c 3) 6
  else s.updDoor c fun d => { d with learnq := d.learnq ++ [q] }

/-- LEARN_LIMIT of the port is reached (R255). DESIGN CHOICE (assumption 102): tested as a learn or move is queued, not as the
engine applies it. -/
def learnFull (s : State) (p : Nat) : Bool :=
  let lim := s.regN (0x1000 + p) 0x54
  lim != 0 && lim ≤ s.learnedCount (p / 64) (p % 64)

/-- The destination of an admitted frame (R251). -/
def doorDest (s : State) (p vid da : Nat) (out : DoorOut) : DoorOut × State :=
  let c := p / 64
  let a := s.doorLookup c da vid [2]
  let b := if a.1.isSome then a else a.2.doorLookup c da 0xFFF [2]
  match b.1 with
  | none => (out, b.2)
  | some (_, e) =>
    let s := b.2.bumpPort p Pc.rxDoorPunt
    match e.mode with
    | 0 => ({ out with core := false, punt := some (e.ring, 0) }, s)
    | 1 => ({ door := 2, core := true, punt := some (e.ring, 0) }, s)
    | _ => ({ door := 2, core := true, punt := none }, s)

/-- A miss or violation punt to DOOR_PUNT_RING (R250, R252). -/
def doorPunt (s : State) (p source : Nat) : Option DoorOut × State :=
  let ring := s.regN (0x1000 + p) 0x52
  (some { core := false, punt := some (ring, source) },
   s.bumpPort p (if ring = 0xFFFF then Pc.rxDoorDrop else Pc.rxDoorPunt))

/-- The VID of a frame's key (R239). -/
def keyVid (s : State) (p fvid : Nat) : Nat := if s.regN (0x1000 + p) 0x53 = 1 then 0 else fvid

/-- The Doorlist decides a frame (R250). -/
def doorDecide (s : State) (p sa da fvid : Nat) : Option DoorOut × State :=
  let c := p / 64
  let l := p % 64
  let i := 0x1000 + p
  let vid := s.keyVid p fvid
  let accept := fun (x : DoorOut × State) => (some x.1, x.2)
  if isGroup sa ∨ sa = 0 then (none, s.bumpPort p Pc.rxDoorBadSa)
  else
    let x := s.doorLookup c sa vid [0, 1]
    let s := x.2
    match x.1 with
    | some (_, e) =>
      if e.kind = 1 ∧ e.port ≠ l then
        let s := (s.bumpPort p Pc.rxStationViolation).raiseOnce (clEvent c 8)
        match s.regN i 0x51 with
        | 0 => accept (s.doorDest p vid da { door := 3 })
        | 1 => (none, s)
        | _ => s.doorPunt p 2
      else accept (s.doorDest p vid da { door := 0, seen := .hit })
    | none =>
      let s := s.bumpPort p Pc.rxDoorMiss
      match s.regN i 0x50 with
      | 2 => (none, s.bumpPort p Pc.rxDoorDrop)
      | 3 => s.doorPunt p 1
      | m =>
        let full := m = 0 && s.learnFull p
        let s := if full then s.bumpPort p Pc.rxLearnLimit else s
        accept (s.doorDest p vid da { door := 1, seen := if m = 0 && !full then .miss else .none })

/-- A frame has ended GOOD: its source's entry is hit, and a learn or move is queued (R253, R255). -/
def doorLearn (s : State) (p sa fvid : Nat) (seen : DoorSeen) : State :=
  let c := p / 64
  let l := p % 64
  let vid := s.keyVid p fvid
  match seen with
  | .none => s
  | .miss => s.queueLearn c { mac := sa, vid, port := l, move := false }
  | .hit => match s.doorFind c sa vid [0, 1] with
    | none => s
    | some (r, e) =>
      let s := s.setDoorRow c r { s.doorRow c r with entry := some { e with hit := true } }
      if e.kind = 0 ∧ e.port ≠ l then
        (if s.learnFull p then s.bumpPort p Pc.rxLearnLimit else s.queueLearn c { mac := sa, vid, port := l, move := true })
      else s

/-! ### Flushes (R260) -/

/-- An entry matches a FLUSH_SEL value. -/
def flushHits (sel : Nat) (e : DoorEntry) : Bool :=
  sel.testBit (12 + e.kind) && (e.kind == 2 || sel.testBit 8 || e.port == sel % 64)

/-- Every matching entry is removed. -/
def doorRemove (s : State) (c : Nat) (hit : DoorEntry → Bool) : State :=
  let rows := ((s.clRx c).door.rows.filter fun e => match e.2.entry with | some d => hit d | none => false).map (·.1)
  rows.foldl (fun s r => s.doorClear c r) s

/-- FLUSH lands; FLUSH_BUSY 0 is the condition (R557). -/
def flushBusy (s : State) (c : Nat) : Bool := (s.clRx c).door.flush.isSome
def landFlush (s : State) (c : Nat) : State :=
  let sel := s.regN (clIdx c 3) 0xD
  (s.doorRemove c (flushHits sel)).updDoor c fun d => { d with flush := some sel }

/-- LINK_STATE of a port leaves UP: the port's walk is queued (R260). -/
def flushOnDown (s : State) (p : Nat) : State :=
  if s.regB (0x1000 + p) 0x56 then s.updDoor (p / 64) fun d =>
    if d.walks.contains (p % 64) then d else { d with walks := d.walks ++ [p % 64] }
  else s

/-! ### Resets and ageing -/

/-- The first sweeper pass starts AGE_INTERVAL from now: LANE is ON from OFF, or a cold or restore-defaults reset (R256). -/
def doorSchedule (s : State) (c : Nat) : State :=
  let iv := s.regN (clIdx c 3) 2
  let t := if iv = 0 then none else some (s.runTime + Word.ofNat iv)
  s.updDoor c fun d => { d with nextPass := t }

/-- Cold and restore-defaults: every row cleared, and the schedule starts again (R242, R256). -/
def doorCold (s : State) (c : Nat) : State := (s.updDoor c fun _ => {}).doorSchedule c

/-- LANE reaches ON from OFF: every entry is lost, the objects of the Doorlist are kept (R544), and the schedule starts again
(R256). -/
def doorLost (s : State) (c : Nat) : State :=
  (s.updDoor c fun d => { capture := d.capture, flush := d.flush, walks := d.walks }).doorSchedule c

/-- A cluster reset keeps STATIC and PUNT rows; a warm or port reset keeps every row. A flush goes on. DESIGN CHOICE (assumption
102): the cluster's learn queue is emptied. -/
def doorReset (s : State) (c : Nat) (cluster : Bool) : State :=
  let s := s.updDoor c fun d => { d with learnq := [], capture := 0 }
  if cluster then s.doorRemove c fun e => e.kind == 0 else s

/-- Buckets that a pass begun `t` grains ago has read: one per 64 CLK_DP cycles, that is 40 ns (R256). -/
def bucketsIn (t : Nat) : Nat := t * 25000000 / 2 ^ 36

/-- AGE_INTERVAL lands: at once while ageing is stopped, else the next pass takes it up (R256). -/
def landAgeInterval (s : State) (c : Nat) (v : Word) : State :=
  let s := s.setReg (clIdx c 3) 2 v
  let now_ := s.runTime
  s.updDoor c fun d => if d.nextPass.isNone ∧ v ≠ 0 then { d with nextPass := some (now_ + v) } else d

/-- The sweeper reads one row (R256, R259). -/
def sweepRow (s : State) (c r : Nat) : State :=
  let w := s.doorRow c r
  if w.synd ≠ 0 then (s.parityErr c r).setDoorRow c r { entry := none, synd := 0, shown := true }
  else match w.entry with
    | none => s
    | some e =>
      if e.kind ≠ 0 then s
      else if e.hit then s.setDoorRow c r { w with entry := some { e with hit := false, stale := false } }
      else if !e.stale then s.setDoorRow c r { w with entry := some { e with stale := true } }
      else (s.doorClear c r).bump (clIdx c 3) 7

/-- The sweeper reads the buckets from `from_` up to `to_`. -/
def sweep (s : State) (c from_ to_ : Nat) : State :=
  (((s.clRx c).door.rows.map (·.1)).filter fun r => decide (from_ ≤ r / 4) && decide (r / 4 < to_)).foldl (fun s r => s.sweepRow c r) s

/-- A pass whose time has come is taken off the schedule; the next starts AGE_INTERVAL after it (R256). -/
def nextSweep (s : State) (c : Nat) (t : Word) : State :=
  let iv := s.regN (clIdx c 3) 2
  s.updDoor c fun d => { d with nextPass := if iv = 0 then none else some (t + Word.ofNat iv) }

/-- The cluster leaves for LISTEN: a pass in progress stops at the bucket it has come to (R257). -/
def sweepPause (s : State) (c : Nat) : State :=
  match (s.clRx c).door.nextPass with
  | none => s
  | some t =>
    let n := bucketsIn (s.since t)
    if s.before t ∨ s.regN (clIdx c 3) 2 = 0 then s
    else ((s.nextSweep c t).sweep c 0 n).updDoor c fun d => { d with pass := if n < 16384 then some n else none }

/-- The cluster is awake again: the passes whose start the night covered are left out, later ones keep their times (R257). -/
def sweepResume (s : State) (c : Nat) : State :=
  match (s.clRx c).door.nextPass with
  | none => s
  | some t =>
    let iv := s.regN (clIdx c 3) 2
    if iv = 0 ∨ s.before t then s else s.updDoor c fun d => { d with nextPass := some (t + Word.ofNat ((s.since t / iv + 1) * iv)) }

/-- Errors of the Doorlist's memory come to light at the ways read. -/
def doorUpset (s : State) (c : Nat) (ups : List Upset) : State :=
  ups.foldl (fun s u => if u.mem == .door && u.synd % 16 != 0 then s.setDoorRow c (u.row % 65536) { s.doorRow c (u.row % 65536) with synd := u.synd % 16 } else s) s

/-- The Doorlist of the cluster runs. -/
def laneRuns (s : State) (c : Nat) : Bool := s.isOn (domLane c) && s.clocked

end State

/-- The insertion engine takes a queued learn (R253, R254). A learn for a station seen since on another port is a move. -/
def execLearnInsert (dt c : Nat) (s : State) : Res :=
  let s := s.elapse dt
  match (s.clRx c).door.learnq with
  | [] => .next s
  | q :: rest =>
    if q.move || !s.laneRuns c then .next s
    else
      let s := s.updDoor c fun d => { d with learnq := rest }
      match s.doorFind c q.mac q.vid [0, 1, 2] with
      | none => .next (s.doorInsert c { mac := q.mac, vid := q.vid, kind := 0, port := q.port, ring := 0, mode := 0, hit := true, stale := false }).2
      | some (r, e) =>
        if e.kind = 0 ∧ e.port ≠ q.port then .next ((s.doorWrite c r { e with port := q.port }).bump (clIdx c 3) 8) else .next s

/-- The insertion engine applies a queued move (R253, R254). -/
def execStationMove (dt c : Nat) (s : State) : Res :=
  let s := s.elapse dt
  match (s.clRx c).door.learnq with
  | [] => .next s
  | q :: rest =>
    if !q.move || !s.laneRuns c then .next s
    else
      let s := s.updDoor c fun d => { d with learnq := rest }
      match s.doorFind c q.mac q.vid [0] with
      | some (r, e) => if e.port = q.port then .next s else .next ((s.doorWrite c r { e with port := q.port }).bump (clIdx c 3) 8)
      | none => .next s

/-- A sweeper pass (R256–R259): the one that LISTEN interrupted goes on at its next bucket, or one whose time has come reads
every bucket. `upsets`: parity errors found. The sweeper makes no reads in LISTEN, nor while LANE is away from ON. DESIGN CHOICE
(assumption 102): an AGE_INTERVAL of 0 written between two passes stops the pass at whose start it lands. -/
def agePassRes (dt c : Nat) (upsets : List Upset) (s : State) : Res :=
  let s := s.elapse dt
  let d := (s.clRx c).door
  if !s.laneRuns c || (s.clp c).night == .listen then .next s
  else match d.pass, d.nextPass with
    | some b, _ => .next (((s.doorUpset c upsets).sweep c b 16384).updDoor c fun d => { d with pass := none })
    | none, none => .next s
    | none, some t =>
      if s.before t then .next s
      else if s.regN (clIdx c 3) 2 = 0 then .next (s.nextSweep c t)
      else .next (((s.nextSweep c t).doorUpset c upsets).sweep c 0 16384)

/-- The flush walk has covered every bucket (R260). -/
def execFlushDone (dt c : Nat) (s : State) : Res :=
  let s := s.elapse dt
  if s.flushBusy c && s.laneRuns c then .next ((s.updDoor c fun d => { d with flush := none }).raise (State.clEvent c 10)) else .next s

/-- The queued walk of a port whose link left UP runs (R260). -/
def execFlushOnDown (dt p : Nat) (s : State) : Res :=
  let s := s.elapse dt
  let c := p / 64
  if (s.clRx c).door.walks.contains (p % 64) && !s.flushBusy c && s.laneRuns c then
    .next ((s.doorRemove c fun e => e.kind == 0 && e.port == p % 64).updDoor c fun d => { d with walks := d.walks.filter (· ≠ p % 64) })
  else .next s

end Sys2Proof.Machine
end

