-- ==== Sys2Proof/Machine/Crypto.lean ====
section
/-!
DEFINITION. The published algorithms the spec names: AES (FIPS 197) with GCM (SP 800-38D), CMAC (SP 800-38B) and key
unwrap (SP 800-38F), and SHA-256 (FIPS 180-4). The spec gives their names and not their text: PRESUMED, assumption 12.
-/
namespace Sys2Proof.Machine

/-- Multiplication by x in GF(2^8) (FIPS 197). -/
def aesX (a : Nat) : Nat := (a * 2) ^^^ (a / 128 * 0x11B)

/-- The product of `a` and the lowest bits of `b` in GF(2^8). -/
def aesMulBits : Nat → Nat → Nat → Nat
  | 0, _, _ => 0
  | k + 1, a, b => (b % 2 * a) ^^^ aesMulBits k (aesX a) (b / 2)

/-- Multiplication in GF(2^8). -/
def aesMul (a b : Nat) : Nat := aesMulBits 8 a b

/-- The inverse in GF(2^8), 0 for 0: the 254th power. -/
def aesInv (a : Nat) : Nat :=
  let a2 := aesMul a a
  let a4 := aesMul a2 a2
  let a8 := aesMul a4 a4
  let a16 := aesMul a8 a8
  let a32 := aesMul a16 a16
  let a64 := aesMul a32 a32
  let a128 := aesMul a64 a64
  aesMul a128 (aesMul a64 (aesMul a32 (aesMul a16 (aesMul a8 (aesMul a4 a2)))))

/-- A byte rotated left by `n`. -/
def rotl8 (a n : Nat) : Nat := ((a <<< n) ||| (a >>> (8 - n))) % 256

/-- The S-box at `a`: inverse, then the affine map. -/
def aesSubOf (a : Nat) : Nat :=
  let b := aesInv a
  b ^^^ rotl8 b 1 ^^^ rotl8 b 2 ^^^ rotl8 b 3 ^^^ rotl8 b 4 ^^^ 0x63

/-- The S-box inverse at `a`: the affine map undone, then the inverse. -/
def aesSubInvOf (a : Nat) : Nat := aesInv (rotl8 a 1 ^^^ rotl8 a 3 ^^^ rotl8 a 6 ^^^ 0x05)

/-- The values of `f` at the bytes, value `a` in byte `a` of one number. -/
def byteTable (f : Nat → Nat) : Nat := (List.range 256).foldl (fun n a => n + f a * 256 ^ a) 0

/-- The S-box and its inverse as tables. -/
def aesSbox : Nat := byteTable aesSubOf
def aesSboxInv : Nat := byteTable aesSubInvOf

/-- The S-box, and its inverse. -/
def aesSub (a : Nat) : Nat := aesSbox / 256 ^ a % 256
def aesSubInv (a : Nat) : Nat := aesSboxInv / 256 ^ a % 256

/-- Elementwise exclusive or. -/
def xorN (a b : List Nat) : List Nat := List.zipWith (· ^^^ ·) a b

/-- The round-key words: `fuel` words are still to be made; `acc` holds those made, newest first; `nk` key words. -/
def aesExpand (nk : Nat) : Nat → Nat → Nat → List (List Nat) → List (List Nat)
  | 0, _, _, acc => acc.reverse
  | fuel + 1, i, rcon, acc =>
    let prev := acc.headD [0, 0, 0, 0]
    let back := acc.getD (nk - 1) [0, 0, 0, 0]
    let t := if i % nk = 0 then xorN ((prev.drop 1 ++ prev.take 1).map aesSub) [rcon, 0, 0, 0]
             else if 6 < nk ∧ i % nk = 4 then prev.map aesSub else prev
    aesExpand nk fuel (i + 1) (if i % nk = 0 then aesX rcon else rcon) (xorN back t :: acc)

/-- Consecutive pieces of `n` elements. -/
def chunks {α : Type} (n : Nat) : Nat → List α → List (List α)
  | 0, _ => []
  | fuel + 1, l => if l.isEmpty then [] else l.take n :: chunks n fuel (l.drop n)

/-- The round keys, 16 bytes each: 11 for a 16-byte key, 15 for a 32-byte key. -/
def aesRoundKeys (key : List Nat) : List (List Nat) :=
  let nk := key.length / 4
  let words := aesExpand nk (4 * (nk + 7) - nk) nk 1 (chunks 4 nk key).reverse
  chunks 16 (nk + 7) words.flatten

/-- Rows of the state shifted: byte (row r, column c) comes from column c + k·r. -/
def aesShift (k : Nat) (st : List Nat) : List Nat :=
  (List.range 16).map fun i => st.getD ((i % 4) + 4 * ((i / 4 + k * (i % 4)) % 4)) 0

/-- The columns mixed with the coefficients `m` of the first row. -/
def aesMix (m : List Nat) (st : List Nat) : List Nat :=
  (List.range 16).map fun i =>
    (List.range 4).foldl (fun a j => a ^^^ aesMul (st.getD (4 * (i / 4) + j) 0) (m.getD ((j + 4 - i % 4) % 4) 0)) 0

/-- The cipher: one 16-byte block under a 16- or 32-byte key. -/
def aesEnc (key blk : List Nat) : List Nat :=
  let ks := aesRoundKeys key
  let last := ks.length - 1
  let st := (List.range (last - 1)).foldl
    (fun st r => xorN (aesMix [2, 3, 1, 1] (aesShift 1 (st.map aesSub))) (ks.getD (r + 1) [])) (xorN blk (ks.headD []))
  xorN (aesShift 1 (st.map aesSub)) (ks.getD last [])

/-- The inverse cipher. -/
def aesDec (key blk : List Nat) : List Nat :=
  let ks := aesRoundKeys key
  let last := ks.length - 1
  let st := (List.range (last - 1)).foldl
    (fun st r => aesMix [14, 11, 13, 9] (xorN ((aesShift 3 st).map aesSubInv) (ks.getD (last - 1 - r) [])))
    (xorN blk (ks.getD last []))
  xorN ((aesShift 3 st).map aesSubInv) (ks.headD [])

/-- Bytes as numbers and back. -/
def toNats (bs : Bytes) : List Nat := bs.map (·.toNat)
def ofNats (ns : List Nat) : Bytes := ns.map (BitVec.ofNat 8)

/-- One block of a byte string enciphered. -/
def aesBlock (key blk : Bytes) : Bytes := ofNats (aesEnc (toNats key) (toNats blk))

/-- A 128-bit number as a block and back, first byte most significant. -/
def blk128 (n : Nat) : Bytes := beBytes 16 n

/-- Multiplication in GF(2^128) with GCM's bit order (SP 800-38D, 6.3): bit 0 is the most significant bit. -/
def ghashMul (x y : Nat) : Nat :=
  ((List.range 128).foldl (fun (st : Nat × Nat) i =>
    (if x.testBit (127 - i) then st.1 ^^^ st.2 else st.1,
     if st.2 % 2 = 1 then (st.2 / 2) ^^^ (0xE1 <<< 120) else st.2 / 2)) (0, y)).1

/-- A string cut into 16-byte blocks, the last filled with zeros. -/
def blocks16 (bs : Bytes) : List Bytes := (chunks 16 (bs.length / 16 + 1) bs).map (padTo 16)

/-- GHASH of padded blocks. -/
def ghash (h : Nat) (bl : List Bytes) : Nat := bl.foldl (fun a b => ghashMul (a ^^^ beNat b) h) 0

/-- The counter block after the low 32 bits advance by `n`. -/
def incr32 (cb n : Nat) : Nat := cb / 2 ^ 32 * 2 ^ 32 + (cb % 2 ^ 32 + n) % 2 ^ 32

/-- Counter mode from counter block `cb`. -/
def gctr (key : Bytes) (cb : Nat) (bs : Bytes) : Bytes :=
  ((chunks 16 (bs.length / 16 + 1) bs).zipIdx.map fun e =>
    xorBytes e.1 (aesBlock key (blk128 (incr32 cb e.2)))).flatten

/-- The GCM tag of ciphertext `ct` and additional data `aad` under a 96-bit IV. -/
def gcmTag (key iv aad ct : Bytes) : Bytes :=
  let h := beNat (aesBlock key (blk128 0))
  let j0 := beNat (iv ++ [0, 0, 0, 1])
  let s := ghash h (blocks16 aad ++ blocks16 ct ++ [beBytes 8 (8 * aad.length) ++ beBytes 8 (8 * ct.length)])
  gctr key j0 (blk128 s)

/-- GCM encryption: the ciphertext, without the tag. -/
def gcmCrypt (key iv bs : Bytes) : Bytes := gctr key (incr32 (beNat (iv ++ [0, 0, 0, 1])) 1) bs

/-- Doubling in GF(2^128) for CMAC's subkeys. -/
def cmacDbl (x : Nat) : Nat := if x.testBit 127 then ((x * 2) % 2 ^ 128) ^^^ 0x87 else x * 2

/-- AES-CMAC (SP 800-38B). -/
def cmac (key msg : Bytes) : Bytes :=
  let k1 := cmacDbl (beNat (aesBlock key (blk128 0)))
  let k2 := cmacDbl k1
  let bl := chunks 16 (msg.length / 16 + 1) msg
  let whole := msg.length % 16 = 0 ∧ msg.length ≠ 0
  let lastB := bl.getLastD []
  let last := if whole then beNat lastB ^^^ k1 else beNat (padTo 16 (lastB ++ [0x80])) ^^^ k2
  let lead := if msg.isEmpty then [] else bl.dropLast
  let c := lead.foldl (fun a b => beNat (aesBlock key (blk128 (a ^^^ beNat b)))) 0
  aesBlock key (blk128 (c ^^^ last))

/-- One step of the KW unwrap: register `A` and the semiblocks `r` (1-based position `i`), step number `t`. -/
def kwStep (key : Bytes) (n : Nat) (st : Bytes × List Bytes) (t : Nat) : Bytes × List Bytes :=
  let i := (t - 1) % n
  let a := xorBytes st.1 (beBytes 8 t)
  let b := ofNats (aesDec (toNats key) (toNats (a ++ st.2.getD i [])))
  (b.take 8, st.2.set i (b.drop 8))

/-- KW unwrap (SP 800-38F): the plaintext, if the integrity check holds. -/
def kwUnwrap (key wrapped : Bytes) : Option Bytes :=
  let semi := chunks 8 (wrapped.length / 8) wrapped
  let n := semi.length - 1
  let st := ((List.range (6 * n)).reverse.map (· + 1)).foldl (kwStep key n) (semi.headD [], semi.drop 1)
  if st.1 = List.replicate 8 0xA6 then some st.2.flatten else none

/-- One step of the KW wrap. -/
def kwWrapStep (key : Bytes) (n : Nat) (st : Bytes × List Bytes) (t : Nat) : Bytes × List Bytes :=
  let i := (t - 1) % n
  let b := aesBlock key (st.1 ++ st.2.getD i [])
  (xorBytes (b.take 8) (beBytes 8 t), st.2.set i (b.drop 8))

/-- KW wrap (SP 800-38F). -/
def kwWrap (key plain : Bytes) : Bytes :=
  let semi := chunks 8 (plain.length / 8) plain
  let n := semi.length
  let st := ((List.range (6 * n)).map (· + 1)).foldl (kwWrapStep key n) (List.replicate 8 0xA6, semi)
  st.1 ++ st.2.flatten

/-- The largest `r` below 2^35 with `r ^ k ≤ n`. -/
def rootOf (k n : Nat) : Nat := (List.range 35).foldl (fun r i => if (r + 2 ^ (34 - i)) ^ k ≤ n then r + 2 ^ (34 - i) else r) 0

/-- The first 64 primes. -/
def primes64 : List Nat := (List.range 312).filter fun n => 2 ≤ n && (List.range 18).all fun d => d < 2 || n ≤ d || n % d != 0

/-- SHA-256's round constants and start value (FIPS 180-4): the first 32 fractional bits of the cube roots of 64 primes, of the
square roots of eight. -/
def shaK : List Nat := primes64.map fun p => rootOf 3 (p * 2 ^ 96) % 2 ^ 32
def shaStart : List Nat := (primes64.take 8).map fun p => rootOf 2 (p * 2 ^ 64) % 2 ^ 32

/-- A 32-bit rotation right. -/
def rotr32 (x n : Nat) : Nat := ((x >>> n) ||| (x <<< (32 - n))) % 2 ^ 32

/-- A sum of 32-bit words. -/
def add32 (xs : List Nat) : Nat := xs.sum % 2 ^ 32

/-- The exclusive or of a word's rotations by the amounts named. -/
def turns (x : Nat) (ns : List Nat) : Nat := ns.foldl (fun a n => a ^^^ rotr32 x n) 0

/-- A window of sixteen message words, oldest first, moved on by one. -/
def shaNext (w : List Nat) : List Nat :=
  let early := w.getD 1 0
  let late := w.getD 14 0
  w.drop 1 ++ [add32 [w.headD 0, turns early [7, 18] ^^^ (early >>> 3), w.getD 9 0, turns late [17, 19] ^^^ (late >>> 10)]]

/-- A round with constant `k`: the eight variables and the window. -/
def shaRound (st : List Nat × List Nat) (k : Nat) : List Nat × List Nat :=
  match st.1 with
  | [a, b, c, d, e, f, g, h] =>
    let pick := g ^^^ (e &&& (f ^^^ g))
    let most := (a &&& (b ||| c)) ||| (b &&& c)
    let t := add32 [h, turns e [6, 11, 25], pick, k, st.2.headD 0]
    ([add32 [t, turns a [2, 13, 22], most], a, b, c, add32 [d, t], e, f, g], shaNext st.2)
  | _ => st

/-- One 64-byte block into the hash value. -/
def shaBlock (h : List Nat) (blk : Bytes) : List Nat :=
  List.zipWith (fun x y => add32 [x, y]) h (shaK.foldl shaRound (h, (chunks 4 16 blk).map beNat)).1

/-- SHA-256 of a byte string. -/
def sha256 (msg : Bytes) : Bytes :=
  let fill := (55 + 64 - msg.length % 64) % 64
  let bs := msg ++ 0x80 :: List.replicate fill 0 ++ beBytes 8 (8 * msg.length)
  (((chunks 64 (bs.length / 64) bs).foldl shaBlock shaStart).map (beBytes 4)).flatten

/-! ### CTR_DRBG on AES-256 (R204, R227; NIST SP 800-90A, 10.2.1) -/

/-- The first `n` cipher blocks of counters after V, under K; the state is K then V, 384 bits. -/
def drbgBlocks (st : BitVec 384) (n : Nat) : Bytes :=
  let k := beBytes 32 (st.toNat / 2 ^ 128)
  ((List.range n).map fun i => aesBlock k (blk128 ((st.toNat + i + 1) % 2 ^ 128))).flatten

/-- The update with 384 bits of provided data. -/
def drbgUpdate (st data : BitVec 384) : BitVec 384 := BitVec.ofNat 384 (beNat (drbgBlocks st 3)) ^^^ data

/-- A reseed with 384 bits of entropy; from the erased state it is the instantiation. -/
def drbgReseed (st seed : BitVec 384) : BitVec 384 := drbgUpdate st seed

/-- A request of `n` 128-bit blocks: the blocks, and the state after them. -/
def drbgDraw (st : BitVec 384) (n : Nat) : Bytes × BitVec 384 :=
  (drbgBlocks st n, drbgUpdate (BitVec.ofNat 384 (st.toNat / 2 ^ 128 * 2 ^ 128 + (st.toNat + n) % 2 ^ 128)) 0)

end Sys2Proof.Machine
end

