-- ==== Sys2Proof/Machine/Inband.lean ====
section
/-!
DEFINITION. In-band BDP requests at the Doorlist stage (R84, R85, R88).
-/
namespace Sys2Proof.Machine

/-- The length of a BDP PDU from its header (R76): a WRITE carries COUNT values, a HELLO one, other requests none. -/
def pduLen (bs : Bytes) : Nat :=
  match beAt bs 1 1 with
  | 2 => 8 + 8 * beAt bs 7 1
  | 5 => 16
  | _ => 8

/-- The parts of an in-band frame (R84): its 802.1Q tag's VID and PCP, AUTH_SEQ, PDU and TAG. -/
structure InbandFrame where
  sa : Bytes
  tag : Option (Nat × Nat)
  seq : Nat
  pdu : Bytes
  mac : Bytes

/-- A frame read as an in-band request; `none` where its EtherType is another. -/
def parseInband (body : Bytes) : Option InbandFrame :=
  let tagged := beAt body 12 2 = 0x8100
  let o := if tagged then 16 else 12
  if beAt body o 2 ≠ 0x88B5 ∨ body.length < o + 2 then none
  else
    let rest := body.drop (o + 10)
    let n := pduLen rest
    some { sa := slice body 6 6, tag := if tagged then some (beAt body 14 2 % 4096, beAt body 14 2 / 8192) else none
           seq := beAt body (o + 2) 8, pdu := rest.take n, mac := (rest.drop n).take 8 }

/-- TAG of R84 under a key: over source address, EtherType, AUTH_SEQ and PDU. -/
def inbandTag (key sa : Bytes) (seq : Nat) (pdu : Bytes) : Bytes :=
  (cmac key (sa ++ beBytes 2 0x88B5 ++ beBytes 8 seq ++ pdu)).take 8

namespace State

/-- The key that INBAND_KEY_SEL selects (R85). -/
def inbandKey (s : State) : Option KeyImg := SMap.get none s.keys.common (s.regN 0x0200 6)

/-- The frame is an in-band request of the complex (R85). -/
def isInband (s : State) (p : Nat) (body : Bytes) : Bool := s.regN 0x0200 5 == p && (parseInband body).isSome

/-- An in-band request is checked and queued for the dictionary engine (R85, R88). -/
def inbandRequest (s : State) (body : Bytes) : State :=
  match parseInband body with
  | none => s
  | some f =>
    if !s.isOn domDict then s
    else
      let good := match s.inbandKey with | some k => f.mac == inbandTag k.key f.sa f.seq f.pdu && f.mac.length == 8 | none => false
      if !good then (s.bump 0x0200 0xB).raise 0x811
      else if f.seq ≤ s.dict.rxSeq.toNat then s.bump 0x0200 0xC
      else
        let s := { s with dict := { s.dict with rxSeq := Word.ofNat f.seq } }
        if 16 ≤ s.dict.queue.length then s.bump 0x0200 0x11
        else { s with dict := { s.dict with queue := s.dict.queue ++ [{ src := f.sa, tag := f.tag, pdu := f.pdu }] } }

end State
end Sys2Proof.Machine
end

