-- ==== Sys2Proof/Machine/Sched.lean ====
section
/-!
DEFINITION. The hierarchical scheduler and the Lathe (R287–R323): rows, active sets and virtual time, shapers, notices,
the choice of a class's head frame and the charges of a grant.
-/
namespace Sys2Proof.Machine

/-- Row keys of the scheduler of a cluster. -/
def nodeKey (r : Nat) : Nat := 65536 + r
def portKey (l : Nat) : Nat := 131072 + l
def clsKey (k : Nat) : Nat := 196608 + k

namespace State

/-- LEAF_CTRL, NODE_CTRL and PORT_SCHED_CTRL. -/
def leafCtrl (s : State) (c r : Nat) : Word := s.rowGet (winIdx c 0) 2 r
def nodeCtrl (s : State) (c r : Nat) : Word := s.rowGet (winIdx c 1) 2 r
def portCtrl (s : State) (c l : Nat) : Word := s.rowGet (winIdx c 2) 2 l

/-- The row of a key is VALID; port nodes and classes always are. -/
def schValid (s : State) (c k : Nat) : Bool :=
  if k < 65536 then (s.leafCtrl c k).bit 0 else if k < 131072 then (s.nodeCtrl c (k - 65536)).bit 0 else true

/-- The parent of a leaf or node, as a key (R291, R292). -/
def schParent (s : State) (c k : Nat) : Nat :=
  if k < 65536 then
    let w := s.leafCtrl c k
    if w.bit 4 then clsKey (w.bits 32 9) else nodeKey (w.bits 32 16)
  else if k < 131072 then clsKey ((s.nodeCtrl c (k - 65536)).bits 32 9)
  else portKey ((k - 196608) / 8)

/-- The weight of a leaf, node or ETS class. -/
def schWeight (s : State) (c k : Nat) : Nat :=
  if k < 65536 then (s.leafCtrl c k).bits 16 16
  else if k < 131072 then (s.nodeCtrl c (k - 65536)).bits 16 16
  else (s.rowGet (winIdx c 2) 3 ((k - 196608) / 8)).bits (8 * ((k - 196608) % 8)) 8

/-- The shaper values a row image holds: table `t`, words of slots 2–6. -/
def shapOf (t : Nat) (ctrl cir cbs pir pbs : Word) : ShapSet :=
  if t = 2 then { cirEn := ctrl.bit 8, cir := rateOf pir, cbs := pbs.toNat }
  else { cirEn := ctrl.bit 2, pirEn := ctrl.bit 3, cir := rateOf cir, cbs := cbs.toNat, pir := rateOf pir, pbs := pbs.toNat }

/-- The key of row `r` of table `t`. -/
def schKey (t r : Nat) : Nat := if t = 0 then r else if t = 1 then nodeKey r else portKey r

/-! ### Active sets (R305) -/

/-- Tag `a` precedes `b` modulo 2^48 (R304). -/
def tagBefore (a b : Nat) : Bool := 2 ^ 47 ≤ (a + (2 ^ 48 - b % 2 ^ 48)) % 2 ^ 48

/-- The leaves and nodes in the active set of a parent, rising. -/
def activeChildren (s : State) (c parent : Nat) : List Nat :=
  ((s.clTx c).sched.filter fun e => e.1 < 131072 && e.2.joined && s.schParent c e.1 == parent).map (·.1)

/-- A child is eligible: an active leaf without GRANT_OUT, or an active node with an eligible leaf (R301). -/
def eligible (s : State) (c k : Nat) : Bool :=
  let r := s.sch c k
  if k < 65536 then r.joined && !r.grantOut && r.grp != 2
  else r.joined && r.grp != 2 && (s.activeChildren c k).any fun l => !(s.sch c l).grantOut

/-- A class is paused (R154): its port's PAUSE timer runs, or the timer of a priority mapped to it. -/
def classPaused (s : State) (p n : Nat) : Bool :=
  let runs := fun k => match SMap.get none (s.port p).timers k with | some e => s.before e | none => false
  runs 8 || (List.range 8).any fun i => (s.reg (0x1C00 + p) 2).bits (3 * i) 3 == n && runs i

/-- PAUSE_STATE (R150): bit n while class n is paused. -/
def pauseBits (s : State) (p : Nat) : Nat := (List.range 8).foldl (fun n i => n + b2n (s.classPaused p i) * 2 ^ i) 0

/-- A DIRECT frame of the class waits in the inject buffer. -/
def directWaits (s : State) (p n : Nat) : Bool := (s.portTxOf p).inject.any fun f => f.tc == n

/-- A class has a candidate (R300). -/
def classCandidate (s : State) (c l n : Nat) : Bool :=
  !s.classPaused (64 * c + l) n && (s.directWaits (64 * c + l) n || !(s.activeChildren c (clsKey (8 * l + n))).isEmpty)

/-- An ETS class joins or leaves the active set of its port (R305). -/
def settleClass (s : State) (c l n : Nat) : State :=
  let k := clsKey (8 * l + n)
  let r := s.sch c k
  if s.classCandidate c l n && (s.portCtrl c l).bit n then
    if r.joined then s else s.setSch c k { r with joined := true, tag := (s.sch c (portKey l)).v, rem := 0 }
  else if r.joined then s.setSch c k { r with joined := false } else s

/-- Every class of a port. -/
def settlePort (s : State) (p : Nat) : State := (List.range 8).foldl (fun s n => s.settleClass (p / 64) (p % 64) n) s

/-- A service node joins or leaves its class's active set, and the class its port's (R305). -/
def settleNode (s : State) (c k : Nat) : State :=
  let r := s.sch c k
  let kids := s.activeChildren c k
  let par := s.schParent c k
  let stay := s.schValid c k && r.grp != 2 && !kids.isEmpty
  let s := if !stay then (if r.joined then s.setSch c k { r with joined := false } else s)
    else if !r.joined && kids.any (fun l => !(s.sch c l).grantOut)
    then s.setSch c k { r with joined := true, tag := (s.sch c par).v, rem := 0 } else s
  s.settleClass c ((par - 196608) / 8) ((par - 196608) % 8)

/-- The parent of a leaf or node settles. -/
def settleParent (s : State) (c par : Nat) : State :=
  if par < 131072 then s.settleNode c par else s.settleClass c ((par - 196608) / 8) ((par - 196608) % 8)

/-- A leaf joins or leaves its parent's active set, then the levels above (R305). -/
def settleLeaf (s : State) (c k : Nat) : State :=
  let r := s.sch c k
  let par := s.schParent c k
  let stay := s.schValid c k && r.grp != 2 && (r.backlogged || r.grantOut)
  let s := if !stay then (if r.joined then s.setSch c k { r with joined := false } else s)
    else if !r.joined && r.backlogged && !r.grantOut
    then s.setSch c k { r with joined := true, tag := (s.sch c par).v, rem := 0 } else s
  s.settleParent c par

/-- The row of a key settles after a change of its group. -/
def settleRow (s : State) (c k : Nat) : State :=
  if k < 65536 then s.settleLeaf c k else if k < 131072 then s.settleNode c k else s

/-! ### Shapers and the Lathe (R306–R315) -/

/-- A refill at the present run time, installing any pending set (R306, R313, R314). -/
def refillRow (s : State) (c k : Nat) : State :=
  let r := s.sch c k
  let dt := min (s.since r.last) (2 ^ 51)
  let add := fun (en : Bool) (tok : Int) (rate burst : Nat) =>
    if en then min (tok + (rate * dt : Nat)) ((burst * 2 ^ 39 : Nat) : Int) else tok
  let ct := add r.inst.cirEn r.ctok r.inst.cir r.inst.cbs
  let pt := add r.inst.pirEn r.ptok r.inst.pir r.inst.pbs
  let r := { r with last := s.runTime, ctok := ct, ptok := pt }
  s.setSch c k (match r.pend with
    | none => r
    | some p =>
      let inst := fun (was now_ : Bool) (tok : Int) (burst : Nat) =>
        let full : Int := (burst * 2 ^ 39 : Nat)
        if !now_ then 0 else if was then min tok full else full
      { r with inst := p, pend := none, ctok := inst r.inst.cirEn p.cirEn r.ctok p.cbs, ptok := inst r.inst.pirEn p.pirEn r.ptok p.pbs })

/-- The run time at which a bucket below zero has recovered (R306). -/
def recoverTime (s : State) (tok : Int) (rate : Nat) : Word := s.runTime + Word.ofNat (ceilDiv (-tok).toNat (max rate 1))

/-- The group of a row and the time it brings (R307). -/
def groupOf (s : State) (k : Nat) (r : SchRow) : Nat × Option Word :=
  if 131072 ≤ k then
    if r.inst.cirEn && r.ctok < 0 then (2, some (s.recoverTime r.ctok r.inst.cir)) else (1, none)
  else if r.inst.pirEn && r.ptok < 0 then (2, some (s.recoverTime r.ptok r.inst.pir))
  else if r.inst.cirEn && 0 ≤ r.ctok then (0, none)
  else if r.inst.cirEn then (1, some (s.recoverTime r.ctok r.inst.cir))
  else (1, none)

/-- place() of R310: the entry, and whether the re-turn branch placed it. An entry whose time has passed goes to the inner
wheel, where it fires at once. -/
def lathePlace (s : State) (t : Word) : LatheEntry × Bool :=
  let d := (t - s.runTime).toNat
  if d < 2 ^ 26 ∨ 2 ^ 63 ≤ d then ({ at_ := t, span := none }, false)
  else if d < 2 ^ 38 - 2 ^ 26 then ({ at_ := t, span := some (t.toNat / 2 ^ 26) }, false)
  else ({ at_ := t, span := some ((s.runTime.toNat / 2 ^ 26 + 4095) % 2 ^ 38) }, true)

/-- The row's Lathe entry is placed; the re-turn branch counts (R312). -/
def placeRow (s : State) (c k : Nat) (t : Word) : State :=
  let e := s.lathePlace t
  let s := s.setSch c k { s.sch c k with lathe := some e.1 }
  if e.2 then s.bump (clIdx c 5) 3 else s

/-- After a refill and debit: the row's group and its one Lathe entry (R307), then the active sets. -/
def setGroup (s : State) (c k : Nat) : State :=
  let r := s.sch c k
  let g := s.groupOf k r
  let s := s.setSch c k { r with grp := g.1, lathe := if g.2.isSome then r.lathe else none }
  let s := match g.2 with
    | some t => if (r.lathe.map LatheEntry.at_) = some t then s else s.placeRow c k t
    | none => s
  s.settleRow c k

/-- A refill followed by the group (R306, R307): a firing, a RETURN strobe, the background refill. -/
def refillAndGroup (s : State) (c k : Nat) : State := (s.refillRow c k).setGroup c k

/-- A grant's refill, debit of C bytes from every enabled bucket, and the group (R307). -/
def debitRow (s : State) (c k cLen : Nat) : State :=
  let s := s.refillRow c k
  let r := s.sch c k
  let cost : Int := (cLen * 2 ^ 39 : Nat)
  let s := s.setSch c k { r with ctok := if r.inst.cirEn then r.ctok - cost else r.ctok,
                                 ptok := if r.inst.pirEn then r.ptok - cost else r.ptok }
  s.setGroup c k

/-- The tags of a grant through `child` of `parent` (R304). -/
def chargeTags (s : State) (c parent child cLen : Nat) : State :=
  let ch := s.sch c child
  let w := max (s.schWeight c child) 1
  let q := cLen * 2 ^ 16 + ch.rem
  let s := s.setSch c parent { s.sch c parent with v := ch.tag }
  s.setSch c child { s.sch c child with tag := (ch.tag + q / w) % 2 ^ 48, rem := q % w }

/-! ### Notices (R30, R288, R303) -/

/-- An enqueue notice for a leaf: its new head length, or empty. -/
def notice (s : State) (c leaf : Nat) (len : Option Nat) : State :=
  let r := s.sch c leaf
  if !s.schValid c leaf then
    let s := s.setSch c leaf { r with grantOut := false }
    (s.bump (clIdx c 5) 1).raiseOnce (clEvent c 13)
  else
    let s := s.setSch c leaf { r with grantOut := false, backlogged := len.isSome, headLen := len.getD 0 }
    s.settleLeaf c leaf

/-! ### Commits (R288, R294, R295, R313, R319) -/

/-- CHILD_COUNT of a node: VALID leaves that name it. -/
def childCount (s : State) (c node : Nat) : Nat :=
  ((s.rowsListed (winIdx c 0) 2).filter fun r => let w := s.leafCtrl c r; w.bit 0 && !w.bit 4 && w.bits 32 16 == node).length

/-- A row loses VALID: it leaves its parent's active set and the Lathe; a leaf is taken as empty (R288, R319). -/
def dropRow (s : State) (c k par : Nat) : State :=
  let r := s.sch c k
  let s := s.setSch c k { r with joined := false, lathe := none, backlogged := false, headLen := 0, tag := 0, rem := 0 }
  s.settleParent c par

/-- A class is express by its preemption status (R289, R356). -/
def classExpress (s : State) (p n : Nat) : Bool := !(s.reg (0x1C00 + p) 8).bit n

/-- A row image may be committed to table 0, 1 or 2 (R294). Conditions on other rows and objects count when `live`. -/
def schedOk (s : State) (c t row : Nat) (img : List Word) (live : Bool) : Bool :=
  let w := img.getD 0 0
  let rateOk := fun (en : Bool) (v : Word) => !en || (8000 ≤ rateOf v && rateOf v ≤ 2000000000000)
  if t = 2 then
    let wts := img.getD 1 0
    let ets := (List.range 8).filter fun n => w.bit n
    within 0x3FFF00FF01FF w.toNat && (w.bits 16 8 < 128 || 192 ≤ w.bits 16 8) && (w.bits 32 8 == 0 || 16 ≤ w.bits 32 8)
      && ((List.range 8).all fun n => wts.bits (8 * n) 8 ≤ 100)
      && ((List.range 8).all fun n => w.bit n == (wts.bits (8 * n) 8 != 0))
      && (ets.isEmpty || (ets.map fun n => wts.bits (8 * n) 8).sum == 100) && rateOk (w.bit 8) (img.getD 2 0)
  else
    let cir := img.getD 1 0
    let pir := img.getD 3 0
    let cls := t = 1 || w.bit 4
    within (if t = 0 then 0xFFFFFFFF001D else 0x1FFFFFF000D) w.toNat
      && (if cls then w.bits 32 16 < 512 else w.bits 32 16 < 4096)
      && (!w.bit 0 || w.bits 16 16 != 0) && rateOk (w.bit 2) cir && rateOk (w.bit 3) pir
      && (!(w.bit 2 && w.bit 3) || rateOf cir ≤ rateOf pir)
      && (!live || t = 1 || !w.bit 0 || (if cls then s.classExpress (64 * c + w.bits 35 6) (w.bits 32 3) else (s.nodeCtrl c (w.bits 32 16)).bit 0))
      && (!live || t = 0 || w.bit 0 || !(s.nodeCtrl c row).bit 0 || s.childCount c row == 0)

/-- A COMMIT to table 0, 1 or 2 lands (R295, R313). -/
def landSched (s : State) (c t row : Nat) (img : List Word) : State :=
  let w := winIdx c t
  let k := schKey t row
  let old := (List.range 5).map fun i => s.rowGet w (2 + i) row
  let g := fun (l : List Word) i => l.getD i 0
  let shap := fun (l : List Word) => if t = 2 then shapOf 2 (g l 0) 0 0 (g l 2) (g l 3) else shapOf t (g l 0) (g l 1) (g l 2) (g l 3) (g l 4)
  let par := s.schParent c k
  let was := s.schValid c k
  let s := (List.range img.length).foldl (fun s i => s.rowSet w (2 + i) row (g img i)) s
  let s := if shap old = shap img then s else s.setSch c k { s.sch c k with pend := some (shap img) }
  if t = 2 then s.settlePort (64 * c + row)
  else if was && !(g img 0).bit 0 then s.dropRow c k par
  else
    let moved := par ≠ s.schParent c k
    let s := if moved then (s.setSch c k { s.sch c k with joined := false }).settleParent c par else s
    s.settleRow c k

/-- RETURN of a row (R315). -/
def landReturn (s : State) (c t row : Nat) : State := s.refillAndGroup c (schKey t row)

/-- An uncorrectable error in a scheduler row (R319). -/
def schedEcc (s : State) (c t row : Nat) : State :=
  let w := winIdx c t
  let k := schKey t row
  let par := s.schParent c k
  let s := if t = 2 then
      let s := [2, 3, 4, 5].foldl (fun s i => s.rowSet w i row (dfltOf (slotKey w i 0))) s
      s.setSch c k { s.sch c k with inst := {}, pend := none, grp := 1, lathe := none, ctok := 0 }
    else (s.rowSet w 2 row ((s.rowGet w 2 row).setBit 0 false)).dropRow c k par
  let s := s.bump (clIdx c 5) 6
  let q := s.clTx c
  let s := if q.schedCapture.bit 31 then s else s.setClTx c { q with schedCapture := Word.ofNat (2 ^ 31 + t * 65536 + row) }
  s.raiseOnce (clEvent c 12)

/-! ### The choice of a head frame (R300, R301) -/

/-- The better of two children: smaller start tag; a leaf before a node; then the lower row. -/
def better (s : State) (c a b : Nat) : Bool :=
  let ta := (s.sch c a).tag
  let tb := (s.sch c b).tag
  tagBefore ta tb || (!tagBefore tb ta && a < b)

/-- The child a parent serves next (R301). -/
def chooseChild (s : State) (c parent : Nat) : Option Nat :=
  let ks := (s.activeChildren c parent).filter fun k => s.eligible c k
  let com := ks.filter fun k => (s.sch c k).grp == 0
  let ks := if com.isEmpty then ks else com
  ks.foldl (fun b k => match b with | none => some k | some j => if s.better c k j then some k else some j) none

/-- The leaf a class serves next. -/
def classHead (s : State) (c l n : Nat) : Option Nat :=
  match s.chooseChild c (clsKey (8 * l + n)) with
  | none => none
  | some k => if k < 65536 then some k else s.chooseChild c k

/-- The candidate classes of a port in the order they are tried (R300). -/
def classOrder (s : State) (c l : Nat) : List Nat :=
  let cands := (List.range 8).filter fun n => s.classCandidate c l n
  let strict := (cands.filter fun n => !(s.portCtrl c l).bit n).reverse
  let ets := cands.filter fun n => (s.portCtrl c l).bit n
  let ins := fun (acc : List Nat) n =>
    let before := acc.filter fun m => !s.better c (clsKey (8 * l + n)) (clsKey (8 * l + m))
    before ++ [n] ++ acc.filter fun m => s.better c (clsKey (8 * l + n)) (clsKey (8 * l + m))
  strict ++ ets.foldl ins []

/-- F, W and C of a frame (R296): `t` bytes of system tag and `e` of MACsec expansion. -/
def charged (s : State) (p len t e : Nat) : Nat × Nat × Nat :=
  let w0 := s.portCtrl (p / 64) (p % 64)
  let f := min (max (len + t + e) 64) (s.regN (0x1000 + p) 7)
  let ov : Int := (BitVec.ofNat 8 (w0.bits 16 8)).toInt
  let w := ((f : Int) + ov).toNat
  let cs := w0.bits 32 8
  (f, w, if cs = 0 then w else ceilDiv w cs * (cs + w0.bits 40 6))

/-- The charges of a grant of `leaf` on class `n` of local port `l` (R304, R307): tags at every level, the shapers of the
path, GRANT_OUT and the grant counters. -/
def chargeGrant (s : State) (c l n leaf cLen : Nat) : State :=
  let par := s.schParent c leaf
  let cls := clsKey (8 * l + n)
  let s := s.chargeTags c par leaf cLen
  let s := if par < 131072 then s.chargeTags c cls par cLen else s
  let s := if (s.portCtrl c l).bit n then s.chargeTags c (portKey l) cls cLen else s
  let s := s.setSch c leaf { s.sch c leaf with grantOut := true }
  let s := s.debitRow c leaf cLen
  let s := if par < 131072 then s.debitRow c par cLen else s
  let s := s.debitRow c (portKey l) cLen
  let s := (s.bumpRow (winIdx c 0) 0xA leaf 1).bumpRow (winIdx c 0) 0xB leaf cLen
  let s := if par < 131072 then (s.bumpRow (winIdx c 1) 0xA (par - 65536) 1).bumpRow (winIdx c 1) 0xB (par - 65536) cLen else s
  s.bump (clIdx c 5) 8

/-! ### Views, resets and power (R290–R293, R320, R321) -/

/-- LEAF_STATE and NODE_STATE. -/
def schState (s : State) (c k : Nat) : Word :=
  let r := s.sch c k
  let leaf := k < 65536
  let idle := if leaf then !r.backlogged else !(s.activeChildren c k).any fun l => s.eligible c l
  let low := if leaf then (if r.backlogged then r.headLen % 2 ^ 14 else 0) else s.childCount c (k - 65536)
  Word.ofNat (b2n r.joined * 2 ^ 63 + (if leaf then b2n r.backlogged * 2 ^ 62 + b2n r.grantOut * 2 ^ 61 else 0)
    + b2n r.lathe.isSome * 2 ^ 60 + b2n r.pend.isSome * 2 ^ 59 + (if idle then 3 else r.grp) * 2 ^ 57 + low)

/-- LEAF_TOKENS, NODE_TOKENS and PORT_TOKENS: whole bytes, two's complement. -/
def schTokens (s : State) (c k : Nat) : Word :=
  let r := s.sch c k
  let whole := fun (t : Int) => lowBits (t / 2 ^ 39) 32
  Word.ofNat ((if k < 131072 then whole r.ptok * 2 ^ 32 else 0) + whole r.ctok)

/-- LATHE_ENTRIES. -/
def latheEntries (s : State) (c : Nat) : Nat := ((s.clTx c).sched.filter fun e => e.2.lathe.isSome).length

/-- NODES_VALID. -/
def nodesValid (s : State) (c : Nat) : Nat := ((s.rowsListed (winIdx c 1) 2).filter fun r => (s.nodeCtrl c r).bit 0).length

/-- Bit n: class n has an active child or a DIRECT frame; PORT_SCHED_STATE, its copy of PAUSE_STATE included (R293). -/
def portSchedState (s : State) (c l : Nat) : Word :=
  let r := s.sch c (portKey l)
  let p := 64 * c + l
  let act := (List.range 8).foldl (fun m n =>
    m + b2n (s.directWaits p n || !(s.activeChildren c (clsKey (8 * l + n))).isEmpty) * 2 ^ n) 0
  Word.ofNat (b2n r.lathe.isSome * 2 ^ 60 + b2n r.pend.isSome * 2 ^ 59 + b2n (r.grp == 2) * 2 ^ 58 + s.pauseBits p * 2 ^ 8 + act)

/-- A cold or restore-defaults reset, or QUEUE back from OFF: tables as after a cold reset (R320, R321). -/
def schedCold (s : State) (c : Nat) : State :=
  let s := ((s.clearTable (winIdx c 0)).clearTable (winIdx c 1)).clearTable (winIdx c 2)
  s.updClTx c fun q => { q with sched := [], lastPort := 63, latheMaxLate := 0, schedCapture := 0 }

/-- A row with its buckets full and nothing else running: pending sets installed. -/
def fullRow (r : SchRow) : SchRow :=
  let i := r.pend.getD r.inst
  { inst := i, last := r.last, ctok := if i.cirEn then (i.cbs * 2 ^ 39 : Nat) else 0,
    ptok := if i.pirEn then (i.pbs * 2 ^ 39 : Nat) else 0, grp := if i.cirEn then 0 else 1 }

/-- A warm or cluster reset (R320). -/
def schedWarm (s : State) (c : Nat) : State :=
  let now_ := s.runTime
  s.updClTx c fun q => { q with lastPort := 63, schedCapture := 0, sched := q.sched.foldl (fun m e =>
    if 131072 ≤ e.1 ∧ e.1 < 196608 then SMap.set {} m e.1 { fullRow e.2 with last := now_, grp := 1 }
    else if e.1 < 131072 then SMap.set {} m e.1 { fullRow e.2 with last := now_ } else m) [] }

/-- A port reset: the port-node entry removed, its bucket full (R320). -/
def schedPortReset (s : State) (p : Nat) : State :=
  let c := p / 64
  let k := portKey (p % 64)
  let r := s.sch c k
  (s.setSch c k { r with ctok := if r.inst.cirEn then (r.inst.cbs * 2 ^ 39 : Nat) else 0, lathe := none, grp := 1,
                         last := s.runTime }).settlePort p

/-- QUEUE back to ON from RETAIN after `away` grains (R321): after 2^51 gr or more every enabled bucket is full and every
entry falls due at the return. -/
def schedReturn (s : State) (c away : Nat) : State :=
  if away < 2 ^ 51 then s
  else
    let keys := (s.clTx c).sched.map (·.1)
    keys.foldl (fun s k =>
      let r := s.sch c k
      if 196608 ≤ k then s
      else
        let r := { r with ctok := if r.inst.cirEn then (r.inst.cbs * 2 ^ 39 : Nat) else r.ctok,
                          ptok := if r.inst.pirEn then (r.inst.pbs * 2 ^ 39 : Nat) else r.ptok,
                          lathe := r.lathe.map fun _ => { at_ := s.runTime, span := none } }
        s.setSch c k r) s

/-- The scheduler of the cluster runs: QUEUE is ON and the clocks run. -/
def queueRuns (s : State) (c : Nat) : Bool := s.isOn (domQueue c) && s.clocked

/-- SCHED_ECC_CAPTURE and LATHE_MAX_LATE are read and cleared (R318). -/
def readSchedCapture (s : State) (c : Nat) : Word × State :=
  ((s.clTx c).schedCapture, s.updClTx c fun q => { q with schedCapture := 0 })
def readMaxLate (s : State) (c : Nat) : Word × State :=
  (Word.ofNat ((s.clTx c).latheMaxLate), s.updClTx c fun q => { q with latheMaxLate := 0 })

end State

/-- An enqueue notice of the buffer manager (R30): `len` none is enq_empty. -/
def execEnqueueNotice (dt c leaf : Nat) (len : Option Nat) (s : State) : Res :=
  let s := s.elapse dt
  if !s.queueRuns c then .next s else .next (s.notice c leaf len)

/-- The Lathe entry of row `k` fires (R311): the refill installs any pending set, and the group is set again. -/
def execLatheFiring (dt c k : Nat) (s : State) : Res :=
  let s := s.elapse dt
  match (s.sch c k).lathe with
  | none => .next s
  | some e =>
    let late := s.since e.at_
    if !s.queueRuns c || e.span.isSome || 2 ^ 63 ≤ late then .next s
    else
      let s := s.updClTx c fun q => { q with latheMaxLate := max q.latheMaxLate (min late (2 ^ 20 - 1)) }
      let s := if 2 ^ 11 < late then (s.bump (clIdx c 5) 4).raiseOnce (State.clEvent c 14) else s
      let s := s.setSch c k { s.sch c k with lathe := none }
      .next (s.refillAndGroup c k)

/-- The entries of outer-ring span `j` whose cascade is due move to the inner wheel or are placed again (R311, R312). -/
def execLatheCascade (dt c slot : Nat) (s : State) : Res :=
  let s := s.elapse dt
  if !s.queueRuns c then .next s
  else
    let due := fun (r : SchRow) => match r.lathe with
      | some { at_ := _, span := some j } => j % 4096 == slot && decide ((s.runTime + Word.ofNat (2 ^ 25) - Word.ofNat (j * 2 ^ 26)).toNat < 2 ^ 63)
      | _ => false
    let es := (s.clTx c).sched.filter fun e => due e.2
    .next (es.foldl (fun s e => match e.2.lathe with
      | some l => s.placeRow c e.1 l.at_
      | none => s) s)

/-- The background refill of a row with an enabled shaper and no Lathe entry (R308). -/
def execShaperBackgroundRefill (dt c k : Nat) (s : State) : Res :=
  let s := s.elapse dt
  let r := s.sch c k
  let en := fun (i : ShapSet) => i.cirEn || i.pirEn
  if s.queueRuns c && r.lathe.isNone && (en r.inst || (r.pend.map en).getD false) then .next (s.refillAndGroup c k) else .next s

end Sys2Proof.Machine
end

