-- ==== Sys2Proof/Machine/Stream.lean ====
section
/-!
DEFINITION. Sending on the Hinge (R431, R433, R446) and the sending side of the mirror stream (R437, R439, R454).
-/
namespace Sys2Proof.Machine

/-! ### The wire form of a message -/

/-- TYPE of a message (R431). -/
def hingeType (m : HingeMsg) : Nat :=
  match m with
  | .hello _ => 1
  | .helloAck .. => 2
  | .heartbeat .. => 3
  | .health _ => 4
  | .stream _ (.write _) => 5
  | .mirrorAck _ => 6
  | .stream _ (.latchMark ..) => 7
  | .stream _ (.digestMark ..) => 8
  | .stream _ (.item _) => 9
  | .express _ => 0x0A
  | .bulk _ => 0x0B
  | .demoting => 0x0C

/-- PN_VALID with AN, and KEY_GEN, of a record. -/
def pnBytes (i : PnInfo) : Bytes := beBytes 1 (b2n i.valid + 2 * (i.an % 4)) ++ beBytes 1 i.gen

/-- The payload in network order, where the spec lays it out: the records (R446), the health word (R448), and DEMOTING, which
carries nothing. -/
def hingePayload (m : HingeMsg) : Option Bytes :=
  match m with
  | .health w => some (beBytes 8 w.toNat)
  | .express r => some (beBytes 2 (r.port % 1024) ++ beBytes 6 r.cycle ++ beBytes 8 r.sum ++ beBytes 4 r.count ++ pnBytes r.pn
      ++ beBytes 2 0 ++ beBytes 8 r.pn.pn)
  | .bulk r => some (beBytes 2 (r.port % 1024) ++ beBytes 4 r.interval ++ beBytes 2 0 ++ beBytes 6 r.frames ++ beBytes 2 0
      ++ beBytes 6 r.octets ++ pnBytes r.pn ++ beBytes 8 r.pn.pn)
  | .demoting => some []
  | _ => none

/-- A message on its path: TYPE, LENGTH, the path's sequence number, the payload and the CRC-32, in network order (R4). -/
def hingeWire (seq : Nat) (m : HingeMsg) : Option Bytes :=
  (hingePayload m).map fun pl =>
    let b := beBytes 1 (hingeType m) ++ beBytes 2 pl.length ++ beBytes 4 seq ++ pl
    b ++ fcsOf b

namespace State

/-! ### Paths -/

/-- The Hinge works: OPEN, HINGE ON and the clocks running. -/
def hingeRuns (s : State) : Bool := s.twin.hinge == .opened && s.isOn domHinge && s.clocked

/-- A path by name: false A, true B. -/
def path (s : State) (b : Bool) : HingePath := if b then s.twin.pathB else s.twin.pathA
def setPath (s : State) (b : Bool) (q : HingePath) : State :=
  s.updTwin fun t => if b then { t with pathB := q } else { t with pathA := q }

def pathUp (s : State) (b : Bool) : Bool := (s.path b).st == .up

/-- HINGE_VERSION. -/
def hingeVersion (s : State) : Nat :=
  if s.pathUp false then s.twin.pathA.version else if s.pathUp true then s.twin.pathB.version else 0

/-- The paths a message other than HELLO, HELLO_ACK and HEARTBEAT takes. -/
def sendPaths (s : State) : List Bool :=
  let ups := [false, true].filter s.pathUp
  if s.hingeVersion = 3 then ups else ups.take 1

/-- A message leaves on a path under the path's next sequence number. -/
def pathSend (s : State) (b : Bool) (m : HingeMsg) : State :=
  let q := s.path b
  (s.setPath b { q with txSeq := (q.txSeq + 1) % 2 ^ 32 }).emit (.hinge b m (hingeWire q.txSeq m))

/-- A message leaves on the paths in use. -/
def hingeSend (s : State) (m : HingeMsg) : State :=
  if s.hingeRuns then s.sendPaths.foldl (fun s b => s.pathSend b m) s else s

/-- TWIN_MODE is PAIRED. -/
def paired (s : State) : Bool := s.regN 0x0500 1 == 1

/-! ### The mirror stream -/

/-- The peer's health word shows ADOPTED (R454). -/
def peerAdopted (s : State) : Bool := s.twin.peerHealth.bit 44

/-- The complex keeps the mirror stream, whether a path carries it now or not (R434, R439). -/
def streamRuns (s : State) : Bool :=
  s.twin.role == .active && s.paired && s.peerAdopted && (!s.twin.lost || s.twin.resync == .sending)

/-- The MIRROR writes not acknowledged. -/
def storedWrites (s : State) : Nat := (s.twin.store.filter fun e => match e.2 with | .write _ => true | _ => false).length

/-- The mirror store is full (R439): the stream stops. -/
def mirrorOverflow (s : State) : State :=
  (((s.updTwin fun t => { t with lost := true, resync := .idle }).bump 0x0500 0x29).raiseOnce 0x84E)

/-- A message enters the mirror stream under the next sequence number (R437, R439). -/
def streamSend (s : State) (m : StreamMsg) : State :=
  if !s.streamRuns then s
  else
    let isWrite := match m with | .write _ => true | _ => false
    if isWrite && 65536 ≤ s.storedWrites then s.mirrorOverflow
    else
      let n := s.twin.seq + 1
      (s.updTwin fun t => { t with seq := n, store := t.store ++ [(n, m)] }).hingeSend (.stream n m)

end State
end Sys2Proof.Machine
end

