-- ==== Sys2Proof/Machine/TimeCore.lean ====
section
/-!
DEFINITION. The time core (R97–R123): setting and stepping device time, TIME_STATE, 1PPS, time of day, conversions.
-/
namespace Sys2Proof.Machine

/-- Nanoseconds and the sub-nanosecond part in 2^-16 ns of a GRAINS value (R118). -/
def grainsToNs (g : Nat) : Nat × Nat := let p := g * 1000000000; (p / 2 ^ 36, p % 2 ^ 36 / 2 ^ 20)

/-- Grains of a value in 2^-16 ns, with the carried remainder (R119). -/
def nsToGrains (v carry : Nat) : Nat × Nat := let q := v * 2 ^ 20 + carry; (q / 1000000000, q % 1000000000)

/-- Boundary `n` of a rational series with base `t` and period `g + num/den` (R122). -/
def boundary (t g num den n : Nat) : Nat := t + n * g + n * num / den

namespace State

/-- Device seconds, and the grains within the second (R100). -/
def devSeconds (s : State) : Nat := s.devTime / 2 ^ 36
def devGrains (s : State) : Nat := s.devTime % 2 ^ 36

/-- EPOCH: SECONDS [47:28] (R105). -/
def epoch (s : State) : Nat := s.devTime / 2 ^ 64 % 2 ^ 20

/-- The TIME_STATE changes; pps_out falls in UNSET (R107). -/
def setTimeState (s : State) (st : TimeState) : State :=
  { s with time := { s.time with st, ppsOut := s.time.ppsOut && st != .unset } }

/-- Device time takes the value `new`, 84 bits, at one CLK_ROOT edge with the sub-grain fraction 0 (R110): STEP_COUNT,
LAST_STEP saturated to I64, event 0x821, and event 0x828 when EPOCH changed (R120). A step makes no pps_out edge (R112). -/
def jumpTo (s : State) (new : Nat) : State :=
  let size : Int := (new : Int) - s.devTime
  let sat : Int := max (-(2 ^ 63)) (min (2 ^ 63 - 1) size)
  let old := s.epoch
  let s := { s with time := { s.time with acc := BitVec.ofNat 116 (new * 2 ^ 32), lastStep := ofI64 sat,
                                          secSeen := new / 2 ^ 36, epochSeen := new / 2 ^ 64 } }
  let s := (s.bump 0x0400 0x11).raise 0x821
  if s.epoch ≠ old then s.raise 0x828 else s

/-- The result of a STEP lies in 0 … 2^84 − 1 (R111). -/
def stepFits (s : State) (off : Int) : Bool := 0 ≤ s.devTime + off && s.devTime + off < 2 ^ 84

/-- The servo wrote FREQ_WORD, STEP or SET_TIME (R106). -/
def servoWrote (s : State) : State := { s with time := { s.time with sinceServo := 0 } }

/-- SET_TIME or a TOD alignment leaves UNSET with event 0x820 (R106). -/
def leaveUnset (s : State) : State := if s.time.st = .unset then (s.setTimeState .freerun).raise 0x820 else s

/-- A FREQ_WORD write lands (R117, R106). -/
def landFreqWord (s : State) (v : Word) : State :=
  let s := (s.setReg 0x0400 0x06 v).servoWrote
  match s.time.st with
  | .freerun => s.setTimeState .tracking
  | .holdover => (s.setTimeState .tracking).raise 0x827
  | _ => s

/-- A PPS_OUT_EN write lands; 0 drives pps_out low (R113). -/
def landPpsOutEn (s : State) (v : Word) : State :=
  let s := s.setReg 0x0400 0x0E v
  if v.bit 0 then s else { s with time := { s.time with ppsOut := false } }

/-- CLOCK_STATUS (R105). -/
def clockStatus (s : State) : Word :=
  Word.ofNat (b2n s.time.pllLocked + 2 * b2n s.time.refPresent + 4 * b2n s.time.restored)

/-- A valid time-of-day message completed within the second before now (R116). -/
def todRecent (s : State) : Option Nat :=
  match s.time.tod with
  | some (at_, secs) => if s.since at_ ≤ 2 ^ 36 then some secs else none
  | none => none

end State

/-- TRACKING becomes HOLDOVER after HOLDOVER_TICKS ticks without a servo write (R106). -/
def execHoldoverEntry (dt : Nat) (s : State) : Res :=
  let s := s.elapse dt
  if s.time.st = .tracking ∧ s.regN 0x0400 0x10 ≤ s.time.sinceServo then .next ((s.setTimeState .holdover).raise 0x822)
  else .next s

/-- A rising edge of pps_in is latched; with TOD_APPLY the alignment due at the next tick is fixed (R114–R116). -/
def execPpsInEdge (dt : Nat) (s : State) : Res :=
  let s := s.elapse dt
  if !s.clocked then .next s
  else
    let edgeSec := if s.devGrains ≥ 2 ^ 35 then s.devSeconds + 1 else s.devSeconds
    let recent := s.todRecent
    let align := match recent with
      | some secs =>
        if s.regB 0x0400 0x0F && (s.time.st == .unset || secs != edgeSec)
        then some { secs, edgeSec, edgeRun := s.runTime } else s.time.align
      | none => s.time.align
    let s := { s with time := { s.time with ppsTs := BitVec.ofNat 84 s.devTime, ppsRef := some s.runTime, ppsMissed := false, align } }
    let s := s.raise 0x824
    .next (if recent.isNone then s.raise 0x823 else s)

/-- The window for the next pps_in edge ends without one (R114). -/
def execPpsMissing (dt : Nat) (s : State) : Res :=
  let s := s.elapse dt
  match s.time.ppsRef with
  | none => .next s
  | some r =>
    if s.since r < 2 ^ 36 + s.regN 0x0400 0x17 then .next s
    else
      let first := !s.time.ppsMissed
      let s := { s with time := { s.time with ppsRef := some (r + Word.ofNat (2 ^ 36)), ppsMissed := true } }
      let s := s.bump 0x0400 0x15
      .next (if first then s.raise 0x825 else s)

/-- A 16-byte time-of-day message (R48): a bad CRC or an unknown TYPE is counted in TOD_ERR. -/
def execTodMessage (dt : Nat) (msg : Bytes) (s : State) : Res :=
  let s := s.elapse dt
  if !s.clocked || msg.length ≠ 16 || beAt msg 0 2 ≠ 0x5AA5 then .next s
  else if beAt msg 2 1 ≠ 1 || crc16 (msg.take 14) ≠ beAt msg 14 2 then .next (s.bump 0x0400 0x1E)
  else
    let off : Int := (BitVec.ofNat 16 (beAt msg 10 2)).toInt
    .next { s with time := { s.time with tod := some (s.runTime, beAt msg 4 6), utcOffset := ofI64 off, todFlags := byteAt msg 3 } }

/-- The time-of-day message that names the second `secs` (R48), with the flags and the UTC offset last received. -/
def State.todMessage (s : State) (secs : Nat) : Bytes :=
  let body := beBytes 2 0x5AA5 ++ [1, s.time.todFlags] ++ beBytes 6 secs ++ beBytes 2 s.time.utcOffset.toNat ++ [0, 0]
  body ++ beBytes 2 (crc16 body)

/-- Device time has crossed a whole second: pps_out rises if it is enabled and time is set (R112, R113), and the message that
names the next second leaves on tod_txd (R48, assumption 99). -/
def execPpsOutEdge (dt : Nat) (s : State) : Res :=
  let s := s.elapse dt
  if s.devSeconds = s.time.secSeen then .next s
  else
    let rise := s.time.st != .unset && s.regB 0x0400 0x0E && !s.time.ppsOut
    let at_ := if rise then s.runTime - Word.ofNat s.devGrains else s.time.ppsOutAt
    let s := { s with time := { s.time with secSeen := s.devSeconds, ppsOut := s.time.ppsOut || rise, ppsOutAt := at_ } }
    .next (if rise then s.emit (.tod (s.todMessage (s.devSeconds + 1))) else s)

/-- The pulse of 2^30 gr of run time ends (R112). -/
def execPpsOutPulseEnd (dt : Nat) (s : State) : Res :=
  let s := s.elapse dt
  if s.time.ppsOut ∧ 2 ^ 30 ≤ s.since s.time.ppsOutAt then .next { s with time := { s.time with ppsOut := false } } else .next s

/-- SECONDS_LO carried to 0 and EPOCH increased (R120). -/
def execShortFormWrap (dt : Nat) (s : State) : Res :=
  let s := s.elapse dt
  if s.epoch = s.time.epochSeen then .next s
  else .next (({ s with time := { s.time with epochSeen := s.epoch } }).raise 0x828)

end Sys2Proof.Machine
end

