-- ==== Sys2Proof/Machine/Shutters.lean ====
section
/-!
DEFINITION. The shutters (R324–R354): lists and cycles of device time, swaps, the two views, the fit decision, time steps.
-/
namespace Sys2Proof.Machine

/-! ### Lists (R331–R333) -/

/-- INTERVAL, OP and GATES of an entry (R330). -/
def entInterval (e : Word) : Nat := e.bits 32 32
def entOp (e : Word) : Nat := e.bits 16 2
def entGates (e : Word) : Nat := e.bits 0 8

namespace ShutterList

/-- Boundary `n` of the list's cycles (R122). -/
def bnd (l : ShutterList) (n : Nat) : Nat := boundary l.base l.g l.num l.den n

/-- The period as a numerator over DEN. -/
def per (l : ShutterList) : Nat := max (l.g * l.den + l.num) 1

/-- The cycle in which device time `t` falls: the largest n with boundary(n) ≤ t, 0 before the base time. -/
def cycleAt (l : ShutterList) (t : Nat) : Nat := ((t - l.base + 1) * l.den - 1) / l.per

/-- The first boundary at or after `t`. -/
def firstFrom (l : ShutterList) (t : Nat) : Nat := ceilDiv ((t - l.base) * l.den) l.per

/-- Length of cycle `n`. -/
def clen (l : ShutterList) (n : Nat) : Nat := l.bnd (n + 1) - l.bnd n

/-- The entries that run in a cycle of length `len`, with their offsets. -/
def running (l : ShutterList) (len : Nat) : List (Nat × Word) :=
  (l.entries.foldl (fun (a : Nat × List (Nat × Word)) e => (a.1 + entInterval e, a.2 ++ [(a.1, e)])) (0, [])).2.filter
    fun e => e.1 < len

/-- Cycle, offset and length of the cycle in force at `t` (R331, R338, R347). -/
def pos (l : ShutterList) (ra : Option Realign) (t : Nat) : Nat × Nat × Nat :=
  match ra with
  | some r => if t < l.bnd r.resume then (r.cycle, r.off + (t - r.at_), l.clen r.cycle)
              else let j := l.cycleAt t; (j, t - l.bnd j, l.clen j)
  | none =>
    let j := match l.lastCycle with | some m => min (l.cycleAt t) m | none => l.cycleAt t
    (j, t - l.bnd j, l.clen j)

/-- The entry in force at an offset: the last running entry that has started. -/
def entryAt (l : ShutterList) (len off : Nat) : Option (Nat × Word) := ((l.running len).filter fun e => e.1 ≤ off).getLast?

/-- The last hold operation of a list of entries. -/
def lastHold (es : List (Nat × Word)) : Option Bool :=
  ((es.filter fun e => entOp e.2 = 1 ∨ entOp e.2 = 2).getLast?).map fun e => entOp e.2 = 1

/-- Hold at an offset of cycle `j`, the advance apart (R327). -/
def holdAt (l : ShutterList) (j len off : Nat) : Bool :=
  match lastHold ((l.running len).filter fun e => e.1 ≤ off) with
  | some h => h
  | none => if j = l.first then l.hold0 else (lastHold (l.running len)).getD l.hold0

/-- The entries of cycle `j` and the two after it, with their start times. -/
def entriesFrom (l : ShutterList) (j : Nat) : List (Nat × Word) :=
  (List.range 3).flatMap fun i => (l.running (l.clen (j + i))).map fun e => (l.bnd (j + i) + e.1, e.2)

/-- The entries that start after `t`, in this cycle and the next three. -/
def upcoming (l : ShutterList) (ra : Option Realign) (t : Nat) : List (Nat × Word) :=
  let p := l.pos ra t
  let here := ((l.running p.2.2).filter fun e => p.2.1 < e.1).map fun e => (t + (e.1 - p.2.1), e.2)
  let nc := match ra with
    | some r => if t < l.bnd r.resume then r.resume else p.1 + 1
    | none => p.1 + 1
  let stops := match l.lastCycle with | some m => decide (m < nc) | none => false
  here ++ if stops then [] else l.entriesFrom nc

/-- Gates in force at `t`. -/
def gatesAt (l : ShutterList) (ra : Option Realign) (t : Nat) : Nat :=
  let p := l.pos ra t
  match l.entryAt p.2.2 p.2.1 with | some e => entGates e.2 | none => l.gates

/-- Hold in force at `t`, without the advance. -/
def heldAt (l : ShutterList) (ra : Option Realign) (t : Nat) : Bool :=
  if l.entries.isEmpty then false else let p := l.pos ra t; l.holdAt p.1 p.2.2 p.2.1

/-- The longest window of a class (R341): pieces of one cycle of G grains, open where the gate is open and, for a
preemptable class, hold with its advance is not asserted. -/
def maxWindow (l : ShutterList) (n : Nat) (express : Bool) (adv : Nat) : Nat :=
  if l.entries.isEmpty then (if l.gates.testBit n then 2 ^ 40 - 1 else 0)
  else
    let len := max l.g 1
    let es := l.running len
    let holds := es.filter fun e => entOp e.2 = 1
    let early := fun t => holds.any fun h => (h.1 + len - t) % len != 0 && (h.1 + len - t) % len ≤ adv
    let cuts := (es.map (·.1)) ++ (if express then [] else holds.map fun h => (h.1 + len - adv % len) % len)
    let sorted := cuts.foldl (fun acc c => (acc.filter (· < c)) ++ [c] ++ acc.filter fun x => c < x) []
    let open_ := fun t =>
      (match l.entryAt len t with | some e => (entGates e.2).testBit n | none => false)
        && (express || (!(l.holdAt (l.first + 1) len t) && !early t))
    let pieces := sorted.zip (sorted.drop 1 ++ [len])
    let runs := (pieces ++ pieces).foldl (fun (a : Nat × Nat) p =>
      if open_ p.1 then (a.1 + (p.2 - p.1), max a.2 (a.1 + (p.2 - p.1))) else (0, a.2)) (0, 0)
    if pieces.all fun p => open_ p.1 then 2 ^ 40 - 1 else min runs.2 (2 ^ 40 - 1)

end ShutterList

/-- Cycle numbers are 48 bits wide (R349): `b` is later than `a`. -/
def cycleLater (a b : Nat) : Bool :=
  let d := (b + 2 ^ 48 - a % 2 ^ 48) % 2 ^ 48
  0 < d && d < 2 ^ 47

/-- Digests are kept again only from a cycle later than this one (R545). -/
def Shutter.skipsDigest (q : Shutter) (cycle : Nat) : Bool :=
  match q.digestFrom with | some k => cycleLater cycle k | none => false

/-- CHANGE_TIME: that of the pending swap, or of the last swap made (R328). -/
def Shutter.changeShown (q : Shutter) : Nat := match q.pend with | some w => w.tc | none => q.changeTime

namespace State

/-! ### Views (R324–R327) -/

/-- Preemption is active on the port (R373). -/
def preemptActive (s : State) (p : Nat) : Bool :=
  s.regB (0x1C00 + p) 4 && ((s.portTxOf p).verify == .succeeded || (s.portTxOf p).verify == .disabled)

/-- The shutters take the class as express (R326, R373). -/
def shutExpress (s : State) (p n : Nat) : Bool := s.classExpress p n || !s.preemptActive p

/-- Hold as the running list has it at `t`, its advance apart; released where none runs. -/
def listHold (s : State) (p t : Nat) : Bool := match (s.shut p).oper with | some l => l.heldAt (s.shut p).realign t | none => false

/-- The latched list as it starts at the change time of `w`: hold stays as the old list leaves it (R338), and MAX_WINDOW is measured
then (R341). -/
def entering (s : State) (p : Nat) (w : Swap) : Option ShutterList :=
  w.latched.map fun l =>
    let l := { l with hold0 := !l.entries.isEmpty && s.listHold p (w.tc - 1) }
    { l with maxWin := (List.range 8).map fun n => l.maxWindow n (s.shutExpress p n) (s.regN (0x1400 + p) 0x1A) }

/-- The list in force at device time `t`, with its realignment; none while ADMIN_GATE_STATES governs (R334). -/
def listAt (s : State) (p t : Nat) : Option (ShutterList × Option Realign) :=
  let q := s.shut p
  let next := match q.pend with
    | some w => if w.tc ≤ t then s.entering p w else none
    | none => none
  match q.st with
  | .closed => none
  | .opening => next.map fun l => (l, none)
  | .opened => match next with | some l => some (l, none) | none => q.oper.map fun l => (l, q.realign)
  | .closing => if q.closeAt ≤ t then none else q.oper.map fun l => (l, q.realign)

/-- ADMIN_GATE_STATES. -/
def adminGates (s : State) (p : Nat) : Nat := s.regN (0x1400 + p) 3

/-- Gates and hold at device time `t`; hold acts only with PREEMPT_EN 1 (R326). -/
def gatesAt (s : State) (p t : Nat) : Nat := match s.listAt p t with | some l => l.1.gatesAt l.2 t | none => s.adminGates p
def holdAt (s : State) (p t : Nat) : Bool :=
  s.preemptActive p && match s.listAt p t with | some l => l.1.heldAt l.2 t | none => false

/-- The entries that start after `t`: those of the running list up to its end, then those of the list that follows it. -/
def entriesAhead (s : State) (p t : Nat) : List (Nat × Word) :=
  let q := s.shut p
  let own := match q.oper with | some l => l.upcoming q.realign t | none => []
  match q.st, q.pend with
  | .closing, _ => own.filter fun e => e.1 < q.closeAt
  | _, some w => (match w.latched with
    | some l => (own.filter fun e => e.1 < w.tc) ++ (l.entriesFrom l.first).filter fun e => t < e.1
    | none => own)
  | _, none => own

/-- A SET_AND_HOLD entry starts within HOLD_ADVANCE of `t`: the wire view asserts hold already (R327). -/
def holdAhead (s : State) (p t : Nat) : Bool :=
  (s.entriesAhead p t).any fun e => entOp e.2 == 1 && e.1 ≤ t + (s.shut p).holdAdv

/-- The wire view's gates and hold as last put in force; ADMIN_GATE_STATES while no list runs. -/
def wireGates (s : State) (p : Nat) : Nat :=
  match (s.shut p).st with | .opened => (s.shut p).gates | .closing => (s.shut p).gates | _ => s.adminGates p
def wireHold (s : State) (p : Nat) : Bool :=
  match (s.shut p).st with | .opened => (s.shut p).hold && s.preemptActive p | .closing => (s.shut p).hold && s.preemptActive p | _ => false

/-- A bit of SHUTTER_CAUSE is set (R329). -/
def shutCause (s : State) (p bit : Nat) : State :=
  let q := s.shut p
  let s := s.setShut p { q with cause := q.cause.setBit bit true }
  if !q.cause.bit bit && (s.reg (0x1400 + p) 0x1E).bit bit then s.raise (1 + p) 4 else s

/-! ### Digests kept per cycle (R420, R421) -/

/-- A digest of the cycle exists from the cycle's start, or from its first frame (R420). -/
def openDigest (s : State) (p cycle close : Nat) : State :=
  let q := s.shut p
  if q.digestClasses = 0 ∨ !s.isOn domCalc ∨ q.skipsDigest cycle then s
  else if q.digests.any fun d => d.cycle == cycle then
    s.setShut p { q with digests := q.digests.map fun d => if d.cycle = cycle then { d with closeAt := close } else d }
  else s.setShut p { q with digests := q.digests ++ [{ cycle, closeAt := close }] }

/-- The device time at which cycle `j` of the list in force ends; an extended cycle ends at the change time. -/
def cycleEnd (s : State) (p : Nat) (l : ShutterList) (j : Nat) : Nat :=
  match l.lastCycle, (s.shut p).pend with
  | some m, some w => if j = m then w.tc else l.bnd (j + 1)
  | _, _ => l.bnd (j + 1)

/-- The values that land at a cycle boundary (R328, R422). -/
def shutParams (s : State) (p : Nat) : State :=
  let q := s.shut p
  let i := 0x1400 + p
  s.setShut p { q with guard := s.regN i 0x18, overrunMode := s.regN i 0x19 == 1, holdAdv := s.regN i 0x1A,
                       digestClasses := s.regN i 0x28 }

/-- The engine puts in force the entry, cycle and hold that device time falls in (R324, R346). -/
def shutRefresh (s : State) (p : Nat) : State :=
  let q := s.shut p
  if q.st ≠ .opened ∧ q.st ≠ .closing then s
  else match q.oper with
    | none => s
    | some l =>
      let t := s.devTime
      let pos := l.pos q.realign t
      let ra := match q.realign with | some r => if l.bnd r.resume ≤ t then none else some r | none => none
      let s := if pos.1 ≠ q.cycle then s.shutParams p else s
      let s := s.setShut p { s.shut p with realign := ra, cycle := pos.1 }
      let s := s.setShut p { s.shut p with gates := l.gatesAt ra t, hold := l.heldAt ra t || s.holdAhead p t,
                                           entry := ((l.running pos.2.2).filter fun e => e.1 ≤ pos.2.1).length - 1 }
      s.openDigest p (pos.1 % 2 ^ 48) (s.cycleEnd p l pos.1 + 2 ^ 20)

/-! ### Swaps (R336–R339) -/

/-- A TIME84 object: low slot `sub`, high slot `sub + 1`. -/
def time84 (s : State) (idx sub : Nat) : Nat := s.regN idx sub + s.regN idx (sub + 1) % 2 ^ 20 * 2 ^ 64

/-- The admin values without the entries. -/
def adminList (s : State) (p : Nat) : ShutterList :=
  let i := 0x1400 + p
  { g := s.regN i 5, num := (s.reg i 6).bits 16 16, den := max ((s.reg i 6).bits 0 16) 1, base := s.time84 i 7, ext := s.regN i 9,
    gates := s.adminGates p }

/-- The commit-cycle start for a change time (R336), and the cycle that is extended to it, if any (R338). -/
def commitStart (old : Option ShutterList) (tc : Nat) : Nat × Option Nat :=
  match old with
  | none => (tc - 2 ^ 27, none)
  | some o =>
    let k := o.cycleAt (tc - 1)
    if tc - o.bnd k ≤ o.ext ∧ o.first < k then (o.bnd (k - 1), some (k - 1)) else (o.bnd k, none)

/-- change_time() of R336 in closed form: the first boundary of the admin grid at or after the landing whose commit cycle
starts at or after the landing plus the commit lead. -/
def newSwap (s : State) (p landing : Nat) (old : Option ShutterList) : Swap :=
  let adm := s.adminList p
  let lead := 2 ^ 27
  let least := match old with
    | none => landing + 2 * lead
    | some o =>
      let m := o.firstFrom (landing + lead)
      if o.first < m then min (o.bnd m + o.ext) (o.bnd (m + 1)) + 1 else o.bnd m + 1
  let n := adm.firstFrom (max landing least)
  let tc := adm.bnd n
  { tc, start := (commitStart old tc).1, first := n }

/-- A swap with a change time forwarded by the active complex (R350). -/
def forwardedSwap (s : State) (p tc : Nat) (old : Option ShutterList) : Swap :=
  { tc, start := (commitStart old tc).1, first := (s.adminList p).firstFrom tc, fwd := true }

/-- A swap is requested at device time `landing` (R336, R339). -/
def requestSwap (s : State) (p landing : Nat) (fwd : Option Nat) : State :=
  let q := s.shut p
  let old := if q.st = .opened then q.oper else none
  let w := match fwd with | some tc => s.forwardedSwap p tc old | none => s.newSwap p landing old
  s.setShut p { q with pend := some w, given := none, oper := q.oper.map fun l => { l with lastCycle := none } }

/-- OPENING begins (R334). -/
def openShutter (s : State) (p : Nat) (fwd : Option Nat) : State :=
  let s := s.shutParams p
  (s.setShut p { s.shut p with st := .opening, oper := none, realign := none, reopen := false, cycle := 0, entry := 0 }).requestSwap
    p s.devTime fwd

/-- The swap just requested enters the mirror stream with its change time, as the write of `sub` that asks for it (R350). -/
def tellSwap (s : State) (p sub : Nat) : State :=
  match (s.shut p).pend with
  | some w => s.streamSend (.write (.obj (0x1400 + p) sub 1 (some w.tc)))
  | none => s

/-- The function reaches CLOSED: ADMIN_GATE_STATES, hold released; `cause` unless under a reset (R329, R334). -/
def closeShutter (s : State) (p : Nat) (cause : Bool) : State :=
  let q := s.shut p
  if q.st = .closed then s
  else
    let s := s.setShut p { q with st := .closed, reopen := false, given := none, oper := none, realign := none, pend := none,
                                  hold := false, cycle := 0, entry := 0, deferred := [] }
    let s := s.shutParams p
    if cause then s.shutCause p 7 else s

/-- The rows of a port's admin list. -/
def adminRows (s : State) (p : Nat) : List Nat := (List.range (s.regN (0x1400 + p) 4)).map fun k => p % 64 * 1024 + k

/-- The swap waits for the active's mark: every swap of a standby does, and one whose change time the active forwarded (R350). -/
def waitsMark (s : State) (w : Swap) : Bool := s.twin.role == .standby || (w.fwd && s.twin.role != .active)

/-- At the start of the commit cycle the mark enters the mirror stream, and the admin list is latched into the oper bank or the swap
is refused (R337, R350). A CONFIG_CHANGE that a refused swap held asks again. -/
def latchSwap (s : State) (p : Nat) : State :=
  let q := s.shut p
  let c := p / 64
  match q.pend with
  | none => s
  | some w =>
    if w.latched.isSome then s
    else
      let s := s.streamSend (.latchMark p w.tc)
      let q := s.shut p
      let rows := s.adminRows p
      let entries := rows.map fun r => s.rowGet (winIdx c 0xA) 2 r
      if entries.any (fun e => entInterval e < 1024) || rows.any (fun r => (s.clTx c).badRows.contains r)
      then
        let s := (s.setShut p { q with pend := none }).shutCause p 5
        if w.held then (s.requestSwap p s.devTime q.given).tellSwap p 0x0A else s
      else
        let l := { s.adminList p with entries, first := w.first }
        let old := if q.st = .opened then q.oper else none
        let ext := (commitStart old w.tc).2
        s.setShut p { q with pend := some { w with latched := some l }, oper := q.oper.map fun o => { o with lastCycle := ext } }

/-- The swap is made at its change time (R338, R339). -/
def makeSwap (s : State) (p : Nat) : State :=
  let q := s.shut p
  match q.pend with
  | none => s
  | some w => match s.entering p w with
    | none => s
    | some l =>
      let s := s.setShut p { q with st := if q.st = .opening then .opened else q.st, oper := some l, realign := none, pend := none,
                                    changeTime := w.tc, cycle := l.first, digestFrom := none }
      let s := s.shutParams p
      let s := if w.held then (s.requestSwap p w.tc q.given).tellSwap p 0x0A else s
      ((s.bumpPort p Pc.shutterSwaps).shutCause p 0).shutRefresh p

/-- A swap whose change time has passed is made, latched first if its mark is not awaited (R348, R353): the state, and whether a swap
was made. -/
def passSwap (s : State) (p : Nat) : State × Bool :=
  match (s.shut p).pend with
  | none => (s, false)
  | some w =>
    if s.devTime < w.tc ∨ (w.latched.isNone ∧ s.waitsMark w) then (s, false)
    else
      let s := s.latchSwap p
      match (s.shut p).pend with
      | some v => if v.latched.isSome then (s.makeSwap p, true) else (s, false)
      | none => (s, false)

/-- The end of the current cycle, for CLOSING (R334, R347). -/
def closeTime (s : State) (p : Nat) : Nat :=
  let q := s.shut p
  match q.oper with
  | none => s.devTime
  | some l =>
    let pos := l.pos q.realign s.devTime
    s.devTime + (pos.2.2 - pos.2.1)

/-- GATE_ENABLE lands (R334, R335). While the cluster is not OPEN a 1 leaves the function CLOSED. A change time that the active
forwards replaces the own one, or is kept for the opening to come (R350). -/
def landGateEnable (s : State) (p : Nat) (v : Bool) (fwd : Option Nat) : State :=
  let s := s.setReg (0x1400 + p) 1 (Word.ofBool v)
  let q := s.shut p
  match q.st, v with
  | .closed, true => if (s.clp (p / 64)).st = .opened then s.openShutter p fwd else s.setShut p { q with given := fwd }
  | .closed, false => s.setShut p { q with given := none }
  | .closing, true => s.setShut p { q with reopen := true, given := fwd }
  | .closing, false => s.setShut p { q with reopen := false, given := none }
  | .opening, true => if fwd.isSome && ((q.pend.map fun w => w.latched.isNone).getD true) then s.requestSwap p s.devTime fwd else s
  | .opening, false => s.closeShutter p true
  | .opened, false =>
    let s := s.setShut p { q with oper := q.oper.map fun l => { l with lastCycle := none }, pend := none, given := none }
    s.setShut p { s.shut p with st := .closing, closeAt := s.closeTime p, reopen := false }
  | _, _ => s

/-- CONFIG_CHANGE may land: the function is neither CLOSED nor CLOSING (R335). -/
def configChangeOk (s : State) (p : Nat) : Bool := (s.shut p).st == .opening || (s.shut p).st == .opened

/-- CONFIG_CHANGE lands (R339). The active's stream tells whether it came before the start of the commit cycle (R350). -/
def landConfigChange (s : State) (p : Nat) (fwd : Option Nat) : State :=
  let q := s.shut p
  match q.pend with
  | some w => if w.latched.isNone && (fwd.isSome || s.devTime < w.start) then s.requestSwap p s.devTime fwd
              else s.setShut p { q with pend := some { w with held := true }, given := fwd }
  | none => s.requestSwap p s.devTime fwd

/-- GUARD, NEVER_FITS_MODE, HOLD_ADVANCE and DIGEST_CLASSES land at once while the function is CLOSED (R328, R422). -/
def landShutParam (s : State) (p sub : Nat) (v : Word) : State :=
  let s := s.setReg (0x1400 + p) sub v
  if (s.shut p).st = .closed then s.shutParams p else s

/-- An uncorrectable error of an admin row or an oper entry (R352). -/
def shutterEcc (s : State) (p entry : Nat) (oper : Bool) : State :=
  let c := p / 64
  let row := p % 64 * 1024 + entry
  let q := s.clTx c
  let s := s.setClTx c { q with
    badRows := if oper || q.badRows.contains row then q.badRows else q.badRows ++ [row]
    shutterCapture := if q.shutterCapture.bit 31 then q.shutterCapture else Word.ofNat (2 ^ 31 + b2n oper * 65536 + row) }
  let s := (s.bump (clIdx c 6) 1).raiseOnce (clEvent c 15)
  if oper then (s.shutCause p 6).closeShutter p true else s

/-- SHUTTER_ECC_CAPTURE is read and cleared. -/
def readShutterCapture (s : State) (c : Nat) : Word × State :=
  ((s.clTx c).shutterCapture, s.updClTx c fun q => { q with shutterCapture := 0 })

/-! ### The fit decision (R340–R343) -/

/-- What the shutters answer for a head frame. `start` carries the cycle number and whether the frame may overrun. -/
inductive Fit
  | start (cycle : Nat) (overrun : Bool)
  | drop
  | closed
  deriving DecidableEq, Repr

/-- Wire time of `w` bytes in grains (R340). -/
def wireGrains (s : State) (p w : Nat) : Nat := ceilDiv (w * 2 ^ 39) (s.portRate p)

/-- The end of the class's window that contains `t`; none where it is unbounded (R342). -/
def closeAfter (s : State) (p n t : Nat) : Option Nat :=
  let tcEnd := match (s.shut p).pend with | some w => if t < w.tc then some w.tc else none | none => none
  let own := match s.listAt p t with
    | none => none
    | some l =>
      if l.1.entries.all fun e => (entGates e).testBit n then none
      else ((l.1.upcoming l.2 t).find? fun e => !(entGates e.2).testBit n).map (·.1)
  let q := s.shut p
  let own := if q.st = .closing ∧ t < q.closeAt then (match own with
      | some a => if a < q.closeAt then some a else if (s.adminGates p).testBit n then none else some q.closeAt
      | none => if (s.adminGates p).testBit n then none else some q.closeAt)
    else own
  match own, tcEnd with
  | some a, some b => some (min a b)
  | some a, none => some a
  | none, b => b

/-- MAX_WINDOW of the list in force at `t`; none while no list governs. -/
def maxWindowAt (s : State) (p n t : Nat) : Option Nat := (s.listAt p t).map fun l => l.1.maxWin.getD n 0

/-- A preemptable frame of the port is admitted and not yet ended (R342). -/
def preemptableAhead (s : State) (p : Nat) : Bool :=
  let q := s.portTxOf p
  q.frames.any (fun f => !f.express) || q.held.isSome || (q.wire.map fun f => !f.express).getD false

/-- The cycle number in force at `t` (R349). -/
def cycleNumber (s : State) (p t : Nat) : Nat := match s.listAt p t with | some l => (l.1.pos l.2 t).1 % 2 ^ 48 | none => 0

/-- The class is open in the decision view at `t` (R327). -/
def openAt (s : State) (p n t : Nat) : Bool := (s.gatesAt p t).testBit n && (s.shutExpress p n || !s.holdAt p t)

/-- decide() of R342 and R343 for a frame of class `n` with figure `w`. -/
def fit (s : State) (p n w : Nat) : Fit × State :=
  let q := s.shut p
  let te := s.devTime + 2 ^ 14
  let d := s.wireGrains p w
  let express := s.shutExpress p n
  let open_ := s.openAt p n te
  let cyc := s.cycleNumber p te
  let never := express && match s.maxWindowAt p n te with | some m => decide (m < d + q.guard) | none => false
  if never then
    if !q.overrunMode then (.drop, (s.bumpPort p Pc.neverFits).shutCause p 3)
    else if open_ && q.px ≤ te && !s.preemptableAhead p then
      let s := s.setShut p { q with px := te + d }
      (.start cyc true, (s.bumpPort p Pc.neverFits).shutCause p 3)
    else (.closed, s)
  else if !open_ || te < SMap.get 0 q.deferred n then (.closed, s)
  else if !express then (.start cyc false, s)
  else
    let ts := max te q.px
    let ts := if s.preemptActive p && s.preemptableAhead p then ts + s.wireGrains p 147 else ts
    match s.closeAfter p n te with
    | none => (.start cyc false, s.setShut p { q with px := ts + d })
    | some ca =>
      if ts + d + q.guard ≤ ca then (.start cyc false, s.setShut p { q with px := ts + d })
      else (.closed, (s.setShut p { q with deferred := SMap.set 0 q.deferred n ca }).bumpPort p Pc.windowDefer)

/-! ### Time steps (R346–R348) -/

/-- The list stays on its grid, or realigns (R346, R347). -/
def realignStep (s : State) (p old : Nat) (big : Bool) : State :=
  let q := s.shut p
  let new := s.devTime
  match q.oper with
  | none => s
  | some l =>
    if q.st ≠ .opened ∧ q.st ≠ .closing then s
    else
      let pos := l.pos q.realign old
      let left := pos.2.2 - pos.2.1
      if big then
        let ra : Realign := { at_ := new, off := pos.2.1, cycle := pos.1, resume := l.firstFrom (new + left) }
        let s := s.setShut p { q with realign := some ra, closeAt := if q.st = .closing then new + (q.closeAt - old) else q.closeAt }
        ((s.bumpPort p Pc.shutterRealigns).shutCause p 2).shutRefresh p
      else
        let ra := q.realign.map fun _ => { at_ := new, off := pos.2.1, cycle := pos.1, resume := l.firstFrom (new + left) : Realign }
        let s := s.setShut p { q with realign := ra }
        let s := if q.st = .closing then s.setShut p { s.shut p with closeAt := s.closeTime p } else s
        s.shutRefresh p

/-- The deferred classes after a step (R342): a realigned window ends after the same wire time, or at the change time; on the grid the
window that contains the new t_e counts. -/
def deferredStep (s : State) (p old : Nat) (big : Bool) : SMap Nat :=
  let q := s.shut p
  let te := s.devTime + 2 ^ 14
  q.deferred.filterMap fun e =>
    if big then
      let at_ := if old < e.2 then s.devTime + (e.2 - old) else e.2
      some (e.1, match q.pend with | some w => min at_ w.tc | none => at_)
    else if s.openAt p e.1 te then some (e.1, min e.2 ((s.closeAfter p e.1 te).getD e.2)) else none

/-- What a step of device time from `old` does to the shutters of port `p` (R342, R346–R348). While QUEUE does not run, no gate
changes (R353). -/
def shutStep (s : State) (p old : Nat) : State :=
  let q := s.shut p
  let new := s.devTime
  let kept := fun (t : Nat) => if old < t then new + (t - old) else min t new
  let big := s.regN (0x1400 + p) 0x1B < (s.time.lastStep.toInt).natAbs
  let s := s.setShut p { q with px := kept q.px }
  let carry := fun (f : TxFrame) => { f with launch := kept f.launch, closes := if big then none else f.closes }
  let s := s.updPortTx p fun q => { q with frames := q.frames.map carry, wire := q.wire.map carry, held := q.held.map carry }
  if !s.queueRuns (p / 64) then s
  else
    let x := s.passSwap p
    let s := if x.2 then (if big then (x.1.bumpPort p Pc.shutterRealigns).shutCause p 2 else x.1) else x.1.realignStep p old big
    s.setShut p { s.shut p with deferred := s.deferredStep p old big }

/-- Every port whose shutter state is listed sees the step. -/
def shutStepAll (s : State) (old : Nat) : State := (s.shutters.map (·.1)).foldl (fun s p => s.shutStep p old) s

/-- Device time jumps to `new`, and the shutters stay on grid or realign. -/
def jump (s : State) (new : Nat) : State := (s.jumpTo new).shutStepAll s.devTime

/-- SET_TIME lands (R110). -/
def landSetTime (s : State) (v : Nat) : State := (s.servoWrote.jump (v % 2 ^ 84)).leaveUnset

/-- STEP lands (R110). -/
def landStep (s : State) (off : Int) : State := s.servoWrote.jump (s.devTime + off).toNat

/-! ### Resets and power states (R353) -/

/-- A warm, cluster or port reset: the oper list is discarded; with GATE_ENABLE 1 in an OPEN cluster the list returns. -/
def shutReset (s : State) (p : Nat) : State :=
  let s := s.closeShutter p false
  s.setShut p { s.shut p with cause := 0, px := 0, deferred := [], digests := [] }

/-- The list returns after a reset (R335, R353). -/
def shutRestart (s : State) (p : Nat) : State :=
  if s.regB (0x1400 + p) 1 && (s.clp (p / 64)).st == .opened && (s.shut p).st == .closed then s.openShutter p (s.shut p).given else s

/-- The list returns as its cluster opens, as if GATE_ENABLE 1 had landed at that moment (R335, R350, R542). -/
def shutBegin (s : State) (p : Nat) : State :=
  let t := s.shutRestart p
  if (s.shut p).st = .closed ∧ (t.shut p).st = .opening then t.tellSwap p 1 else t

/-- QUEUE back to ON from RETAIN: the entry of the present device time; a swap whose change time has passed is made.
Digests start again with the next cycle (R353, R545). -/
def shutReturn (s : State) (p : Nat) : State :=
  let s := s.setShut p { s.shut p with realign := none }
  let s := s.setShut p { s.shut p with closeAt := min (s.shut p).closeAt (s.closeTime p) }
  let x := s.passSwap p
  let s := if x.2 then x.1 else x.1.shutRefresh p
  s.setShut p { s.shut p with digests := [], digestFrom := some ((s.shut p).cycle + 1) }

/-- SHUTTER_CAUSE_CLR (R329). -/
def landShutCauseClr (s : State) (p : Nat) (v : Word) : State := s.setShut p { s.shut p with cause := (s.shut p).cause &&& ~~~v }

/-- A COMMIT of table 0x0A may land: no reserved bit, OP below 3, INTERVAL at least 1,024 (R330). -/
def shutterRowOk (e : Word) : Bool := within 0xFFFFFFFF000300FF e.toNat && entOp e != 3 && 1024 ≤ entInterval e

/-- A COMMIT of an admin row lands; its ECC mark ends. -/
def landShutterRow (s : State) (c row : Nat) (e : Word) : State :=
  (s.rowSet (winIdx c 0xA) 2 row e).updClTx c fun q => { q with badRows := q.badRows.filter (· ≠ row) }

end State

/-- The alignment of TOD_APPLY at the first tick after the edge (R115). -/
def execTodAlign (dt : Nat) (s : State) : Res :=
  let s := s.elapse dt
  match s.time.align with
  | none => .next s
  | some a =>
    let s := { s with time := { s.time with align := none } }
    if s.time.st = .unset then
      .next ((s.jump ((a.secs * 2 ^ 36 + s.since a.edgeRun) % 2 ^ 84)).leaveUnset)
    else
      let off : Int := ((a.secs : Int) - a.edgeSec) * 2 ^ 36
      if off = 0 ∨ !s.stepFits off then .next s else .next (s.jump (s.devTime + off).toNat)

/-- Device time reaches the change time: the new list starts (R338). -/
def execShutterSwap (dt p : Nat) (s : State) : Res :=
  let s := s.elapse dt
  match (s.shut p).pend with
  | some w => if s.queueRuns (p / 64) && w.tc ≤ s.devTime then .next (s.makeSwap p) else .next s
  | none => .next s

/-- Device time reaches an entry boundary or a hold advance (R324). `upset`: the oper entry read has an uncorrectable
error (R352). -/
def shutterEntryChangeRes (dt p : Nat) (upset : Bool) (s : State) : Res :=
  let s := s.elapse dt
  if !s.queueRuns (p / 64) then .next s
  else if upset && (s.shut p).oper.isSome then .next (s.shutterEcc p (s.shut p).entry true)
  else .next (s.shutRefresh p)

/-- The current cycle of a CLOSING function ends (R334, R335). -/
def execShutterCloseDone (dt p : Nat) (s : State) : Res :=
  let s := s.elapse dt
  let q := s.shut p
  if q.st = .closing ∧ s.queueRuns (p / 64) ∧ q.closeAt ≤ s.devTime then
    let s := s.closeShutter p true
    .next (if q.reopen then (s.landGateEnable p true q.given).tellSwap p 1 else s)
  else .next s

end Sys2Proof.Machine
end

