-- ==== Sys2Proof/Machine/Calipers.lean ====
section
/-!
DEFINITION. The calipers (R402–R426): flow-match rules, contexts, the check computation, the decision, and the twin digest.
-/
namespace Sys2Proof.Machine

/-- A frame as the calipers see it: bytes without FCS, its tags, whether the end has arrived, port, direction, class; the rule it
selected, where it has, and the grains since it did (R419). -/
structure CalIn where
  body : Bytes
  tags : Tags
  complete : Bool
  localPort : Nat
  tx : Bool
  cls : Nat
  rule : Option Nat := none
  age : Nat := 0

/-- The verdict of a context on a frame (R417). -/
structure CalOut where
  patches : List (Nat × Bytes) := []
  checkErr : Bool := false
  spanErr : Bool := false
  aliveErr : Bool := false
  running : Word
  state : Word
  chainOpen : Bool
  aliveSync : Bool

/-- The bytes of a frame with a caliper's writes applied. -/
def patched (bs : Bytes) (ps : List (Nat × Bytes)) : Bytes := ps.foldl (fun b p => overwrite b p.1 p.2) bs

/-- feed() of R410. -/
def calFeed (width poly : Nat) (refin : Bool) (reg : Nat) (bs : Bytes) : Nat :=
  crcRunMsb width poly reg (if refin then bs.map fun b => BitVec.ofNat 8 (revBits 8 b.toNat) else bs)

/-- finish() of R410. -/
def calFinish (width xorout : Nat) (refout : Bool) (reg : Nat) : Nat := (if refout then revBits width reg else reg) ^^^ xorout

/-- The number of bytes after the start at which every header of R404 has arrived. -/
def headersLen : Nat := 90

/-- A number takes its place in a rising list. -/
def placeRising (n : Nat) : List Nat → List Nat
  | [] => [n]
  | m :: t => if n ≤ m then n :: m :: t else m :: placeRising n t

namespace State

/-- Field `i` of caliper context `k` (table 0x08) and of rule `k` (table 0x09), `age` grains ago. -/
def calW (s : State) (c i k : Nat) (age : Nat := 0) : Word := s.rowThen (winIdx c 8) i k age
def ruleW (s : State) (c i k : Nat) (age : Nat := 0) : Word := s.rowThen (winIdx c 9) i k age

/-- The context's state has been installed or cleared in the last `age` grains. -/
def calInstalled (s : State) (c k age : Nat) : Bool :=
  s.past.any fun e => e.row && e.key == slotKey (winIdx c 8) 0xB k && s.since e.at_ < age

/-- CAL_CTRL of a frame's context: the fields it selected, CHAIN_OPEN and ALIVE_SYNC as its context's frames left them. -/
def calCtl (s : State) (c k age : Nat) : Word :=
  let ctl := s.calW c 2 k age
  let now_ := s.calW c 2 k
  if s.calInstalled c k age then ctl else (ctl.setBit 28 (now_.bit 28)).setBit 27 (now_.bit 27)

/-- Whether a rule can be decided on what has arrived, and whether it matches (R404). -/
def ruleMatches (s : State) (c k : Nat) (f : CalIn) : Option Bool :=
  let ctl := s.ruleW c 2 k f.age
  let m := s.ruleW c 3 k f.age
  let val := s.ruleW c 4 k f.age
  let mask := s.ruleW c 5 k f.age
  if !ctl.bit 0 || ctl.bit 1 != f.tx || !(ctl.bit 2 || ctl.bits 8 6 == f.localPort) then some false
  else if !f.complete && f.body.length < headersLen then none
  else
    let anchor := anchorOf f.body f.tags (m.bits 16 2)
    let used := (List.range 8).filter fun i => mask.bits (8 * i) 8 != 0
    let need := match anchor with | some a => a.1 + m.bits 0 16 + (used.getLastD 0) + 1 | none => 0
    let udp := (parseL3 f.body f.tags).bind (·.udp)
    let heads := (!ctl.bit 3 || ctl.bits 48 12 == f.tags.vid) && (!ctl.bit 4 || m.bits 48 16 == f.tags.etype f.body)
      && (!ctl.bit 5 || (match udp with | some u => beAt f.body (u.1 + 2) 2 == m.bits 32 16 | none => false))
      && (!ctl.bit 6 || !f.tx || ctl.bits 32 3 == f.cls)
    if !heads then some false
    else if used.isEmpty then some true
    else match anchor with
      | none => some false
      | some a =>
        if f.body.length < need then (if f.complete then some false else none)
        else some (used.all fun i =>
          (byteAt f.body (a.1 + m.bits 0 16 + i)).toNat &&& mask.bits (8 * i) 8 == val.bits (8 * i) 8 &&& mask.bits (8 * i) 8)

/-- The lowest-numbered matching rule; `none` while it cannot yet be told. -/
def selectRule (s : State) (c : Nat) (f : CalIn) : Option (Option Nat) :=
  if f.rule.isSome then some f.rule else
  ((s.rowsEver (winIdx c 9) 2).foldr placeRising []).foldl (fun acc k => match acc with
    | some none => match s.ruleMatches c k f with
      | none => none
      | some true => some (some k)
      | some false => some none
    | r => r) (some none)

/-- Where a context's parts lie in a frame, and its decision point: (anchor, stop), covered start and length, check-value
offset, alive offset and bytes, decision point; `none` is a span failure whatever arrives (R407, R415). -/
def calSpan (s : State) (c k : Nat) (f : CalIn) : Option (Nat × Nat × Nat × Nat × Nat) :=
  let ctl := s.calW c 2 k f.age
  let sp := s.calW c 6 k f.age
  match anchorOf f.body f.tags (sp.bits 62 2) with
  | none => none
  | some (a, stop) =>
    let cvLen := ceilDiv (ctl.bits 8 7) 8
    let lastOff := a + sp.bits 44 11
    let carries := !(ctl.bit 4 && !(byteAt f.body lastOff).getLsbD (sp.bits 55 3)) && !ctl.bit 25
    let start := a + sp.bits 32 11
    let len := if sp.bits 16 16 = 0xFFFF then stop - start - (if carries then cvLen else 0) else sp.bits 16 16
    let cv := if sp.bits 0 16 = 0xFFFF then start + len else a + sp.bits 0 16
    let al := s.calW c 7 k f.age
    let alOff := a + al.bits 0 11
    let dp := max (start + len) (max (if carries then cv + cvLen else 0)
      (max (if ctl.bit 24 then alOff + 2 ^ (al.bits 14 2) else 0) (if ctl.bit 4 then lastOff + 1 else 0)))
    let short := sp.bits 16 16 = 0xFFFF ∧ stop < start + (if carries then cvLen else 0)
    if short ∨ 2048 < dp ∨ stop < dp then none else some (start, len, cv, alOff, dp)

/-- A context can decide on what has arrived (R415). -/
def calReady (s : State) (c k : Nat) (f : CalIn) : Bool :=
  f.complete || 2048 < f.body.length
    || (headersLen ≤ f.body.length && (s.calW c 6 k f.age).bits 16 16 != 0xFFFF && (s.calSpan c k f).isSome)

/-- The context computes its check on a frame (R410–R414). -/
def calRun (s : State) (c k : Nat) (f : CalIn) : CalOut :=
  let ctl := s.calCtl c k f.age
  let st := s.calW c 0xB k f.age
  let base : CalOut := { running := s.calW c 0xA k f.age, state := st, chainOpen := ctl.bit 28, aliveSync := ctl.bit 27 }
  match s.calSpan c k f with
  | none => { base with spanErr := true }
  | some (start, len, cv, alOff, _) =>
    let width := ctl.bits 8 7
    let insert := ctl.bits 2 2 = 1
    let chain := ctl.bit 4
    let sp := s.calW c 6 k f.age
    let al := s.calW c 7 k f.age
    let nb := 2 ^ (al.bits 14 2)
    let modulus := if al.bits 32 32 = 0 then 2 ^ (8 * nb) else al.bits 32 32
    let next := (st.bits 0 32 + al.bits 16 16) % modulus
    let seen := beAt f.body alOff nb
    let written := if ctl.bit 27 then next else st.bits 0 32
    let alive := ctl.bit 24
    let aliveErr := alive && !insert && ctl.bit 27 && seen != next
    let patches := if alive && insert then [(alOff, beBytes nb written)] else []
    let st := if alive then st.setBits 0 32 (if insert then written else seen) else st
    let sync := base.aliveSync || alive
    let body := patched f.body patches
    let anchorOff := (anchorOf f.body f.tags (sp.bits 62 2)).elim 0 (·.1)
    let last := !chain || (byteAt body (anchorOff + sp.bits 44 11)).getLsbD (sp.bits 55 3)
    let kind := ctl.bits 18 2
    let fb := ctl.bits 21 3 + 1
    let fold := if kind = 1 then beBytes fb (s.calW c 8 k f.age).toNat else if kind = 2 then beBytes fb (st.bits 32 32) else []
    let append := ctl.bit 20
    let feed := calFeed width (s.calW c 3 k f.age).toNat (ctl.bit 5)
    let reg := if chain && ctl.bit 28 then base.running.toNat
      else feed (s.calW c 4 k f.age).toNat (if append then [] else fold)
    let reg := feed reg (slice body start len)
    if !last then { base with patches, aliveErr, running := Word.ofNat reg, state := st, chainOpen := true, aliveSync := sync }
    else
      let reg := feed reg (if append then fold else [])
      let res := calFinish width (s.calW c 5 k f.age).toNat (ctl.bit 6) reg
      let cvLen := ceilDiv width 8
      let le := ctl.bit 7
      let step := fun (w : Word) => if kind = 2 then w.setBits 32 32 ((w.bits 32 32 + 1) % 2 ^ (8 * min fb 4)) else w
      if insert then
        { base with patches := patches ++ [(cv, if le then leBytes cvLen res else beBytes cvLen res)], aliveErr,
                    state := step st, chainOpen := if chain then false else base.chainOpen, aliveSync := sync }
      else
        let fieldBytes := slice body cv cvLen
        let want := if ctl.bit 25 then (s.calW c 9 k f.age).toNat else (if le then leNat fieldBytes else beNat fieldBytes) % 2 ^ width
        let bad := res ≠ want
        { base with patches, aliveErr, checkErr := bad, state := if bad then st else step st,
                    chainOpen := if chain then false else base.chainOpen, aliveSync := sync }

/-- What the caliper stage does with a frame (R417, R418). -/
inductive CalAct
  /-- it waits for its decision point, or for the bytes that tell its rule -/
  | wait (rule : Option Nat)
  | pass (patches : List (Nat × Bytes)) (mark : Bool)
  | drop

/-- The caliper stage of a cluster on one frame: selection, decision, counters, capture and event. State that was installed while
the frame stood in the stage follows it (R419). -/
def calStage (s : State) (c : Nat) (f : CalIn) : CalAct × State :=
  match s.selectRule c f with
  | none => (.wait none, s)
  | some none => (.pass [] false, s)
  | some (some rule) =>
    let k := (s.ruleW c 2 rule f.age).bits 16 8
    let ctl := s.calW c 2 k f.age
    let acts := ctl.bit 0 && ctl.bit 1 == f.tx
    if acts && !s.calReady c k f then (.wait (some rule), s)
    else
      let s := s.bumpRow (winIdx c 9) 6 rule 1
      if !acts then (.pass [] false, s)
      else
        let o := s.calRun c k f
        let w := winIdx c 8
        let s := if s.calInstalled c k f.age then s else ((s.rowSet w 0xA k o.running).rowSet w 0xB k o.state).rowSet w 2 k
          (((s.calW c 2 k).setBit 28 o.chainOpen).setBit 27 o.aliveSync)
        let s := s.bumpRow w 0xC k 1
        let s := if o.checkErr || o.spanErr then s.bumpRow w 0xD k 1 else s
        let s := if o.aliveErr then s.bumpRow w 0xE k 1 else s
        let fail := o.checkErr || o.spanErr || o.aliveErr
        if !fail then (.pass o.patches false, s)
        else
          let reason := if o.spanErr then 3 else if o.checkErr then 1 else 2
          let q := s.clTx c
          let s := if q.calCapture.bit 31 then s else s.setClTx c { q with
            calCapture := Word.ofNat (2 ^ 31 + reason * 2 ^ 24 + b2n f.tx * 2 ^ 16 + k) }
          let s := s.raiseOnce (clEvent c 19)
          match ctl.bits 16 2 with
          | 2 => (.drop, s.bumpRow w 0xF k 1)
          | 1 => (.pass o.patches true, s)
          | _ => (.pass o.patches false, s)

/-- An uncorrectable error in a context or rule row: ENABLE is cleared (R424). -/
def calEcc (s : State) (c : Nat) (rule : Bool) (k : Nat) : State :=
  let w := if rule then winIdx c 9 else winIdx c 8
  let s := s.rowSet w 2 k ((s.rowGet w 2 k).setBit 0 false)
  let q := s.clTx c
  let s := if q.calEccCapture.bit 31 then s else s.setClTx c { q with
    calEccCapture := Word.ofNat (2 ^ 31 + b2n rule * 2 ^ 16 + k) }
  (s.bump (clIdx c 8) 3).raiseOnce (clEvent c 20)

/-- CAL_CAPTURE and CAL_ECC_CAPTURE are read and cleared (R424). -/
def readCalCapture (s : State) (c : Nat) : Word × State :=
  ((s.clTx c).calCapture, s.updClTx c fun q => { q with calCapture := 0 })
def readCalEccCapture (s : State) (c : Nat) : Word × State :=
  ((s.clTx c).calEccCapture, s.updClTx c fun q => { q with calEccCapture := 0 })

/-- A row image may be committed to table 0x08 (R409). -/
def calOk (img : List Word) : Bool :=
  let g := fun i => img.getD i 0
  let ctl := g 0
  let width := ctl.bits 8 7
  let fits := fun (w : Word) => w.toNat < 2 ^ width
  let sp := g 4
  let al := g 5
  let nb := 2 ^ (al.bits 14 2)
  let modulus := if al.bits 32 32 = 0 then 2 ^ (8 * nb) else al.bits 32 32
  within 0x1FFF7FFF ctl.toNat && ctl.bits 2 2 < 2 && ctl.bits 16 2 < 3 && ctl.bits 18 2 < 3
    && 8 ≤ width && width ≤ 64 && fits (g 1) && fits (g 2) && fits (g 3) && fits (g 7) && fits (g 8) && (g 1).bit 0
    && !(ctl.bits 2 2 == 1 && (!ctl.bit 1 || ctl.bit 25)) && !(ctl.bits 16 2 == 1 && ctl.bit 1)
    && !(ctl.bits 18 2 == 2 && 4 < ctl.bits 21 3 + 1)
    && !(ctl.bits 18 2 == 1 && 2 ^ (8 * (ctl.bits 21 3 + 1)) ≤ (g 6).toNat)
    && within 0xC3FFF7FFFFFFFFFF sp.toNat && (sp.bits 16 16 == 0xFFFF || (1 ≤ sp.bits 16 16 && sp.bits 16 16 ≤ 2047))
    && within 0xFFFFFFFFFFFFC7FF al.toNat && al.bits 14 2 < 3 && modulus ≤ 2 ^ (8 * nb)
    && al.bits 16 16 < modulus && (!ctl.bit 24 || 1 ≤ al.bits 16 16)

/-- A row image may be committed to table 0x09: reserved bits, OFFSET, and the context's DIR (R403, R409). -/
def ruleOk (s : State) (c : Nat) (img : List Word) (live : Bool) : Bool :=
  let ctl := img.getD 0 0
  let m := img.getD 1 0
  within 0x0FFF000700FF3F7F ctl.toNat && within 0xFFFFFFFF0003FFFF m.toNat && m.bits 0 16 ≤ 2040
    && (!live || (s.calW c 2 (ctl.bits 16 8)).bit 1 == ctl.bit 1)

/-- A COMMIT of a context lands (R405, R406, R419). `run` and `st` are the staged CAL_RUNNING and CAL_STATE. -/
def landCal (s : State) (c k : Nat) (img : List Word) (run st : Word) : State :=
  let w := winIdx c 8
  let old := s.rowGet w 2 k
  let new := img.getD 0 0
  let install := new.bit 26
  let enabling := !old.bit 0 && new.bit 0
  let keep := !install && !enabling
  let ctl := ((new.setBit 26 false).setBit 28 (keep && old.bit 28)).setBit 27 (keep && old.bit 27)
  let s := if keep then s else { s with past := s.past ++ [0xA, 0xB].map fun i =>
    { at_ := s.runTime, row := true, key := slotKey w i k, old := s.rowGet w i k } }
  let s := (List.range (img.length - 1)).foldl (fun s i => s.setLatchedRow w (3 + i) k (img.getD (i + 1) 0)) s
  let s := s.setLatchedRow w 2 k ctl
  let s := if install then (s.rowSet w 0xA k run).rowSet w 0xB k st else s
  if enabling then s.clearCtrs fun key => keyIdx key == w && keyRow key == k else s

/-- A COMMIT of a rule lands (R419). -/
def landRule (s : State) (c row : Nat) (img : List Word) : State :=
  (List.range 4).foldl (fun s i => s.setLatchedRow (winIdx c 9) (2 + i) row (img.getD i 0)) s

/-- A cluster reset: CHAIN_OPEN and ALIVE_SYNC are cleared (R425). -/
def calClusterReset (s : State) (c : Nat) : State :=
  let w := winIdx c 8
  (s.rowsListed w 2).foldl (fun s k => s.rowSet w 2 k (((s.rowGet w 2 k).setBit 28 false).setBit 27 false)) s

/-! ### The twin digest (R420–R423) -/

/-- crc64_ecma of R420. -/
def crc64 (bs : Bytes) : Nat := crcRunMsb 64 0x42F0E1EBA9EA3693 0 bs

/-- A transmit frame's end passes the calipers with end GOOD and a good FCS: it is added to its cycle's digest (R420), or is
late (R421). -/
def addDigest (s : State) (p tc cycle : Nat) (body : Bytes) : State :=
  let q := s.shut p
  if !q.digestClasses.testBit tc || !s.isOn domCalc then s
  else if q.skipsDigest cycle then s
  else
    let ahead := cycleLater q.cycle cycle && !(q.digests.any fun d => d.cycle == cycle) && q.record.1 != cycle
    let s := match ahead, q.oper with
      | true, some l => s.openDigest p cycle (s.cycleEnd p l cycle + 2 ^ 20)
      | _, _ => s
    let q := s.shut p
    if q.digests.any fun d => d.cycle == cycle then
      s.setShut p { q with digests := q.digests.map fun d => if d.cycle = cycle
      then { d with sum := (d.sum + crc64 body) % 2 ^ 64, count := (d.count + 1) % 2 ^ 32 } else d }
    else (s.bump 0x0A00 1).raiseOnce 0x8A0

/-- DIGEST_SUM and DIGEST_COUNT are those of the record that DIGEST_CYCLE last showed (R423). -/
def digestRecord (s : State) : Nat × Nat × Nat := (s.shut (s.regN 0x0A00 0x10)).record

end State
end Sys2Proof.Machine
end

