-- ==== Sys2Proof/Machine/DmaCore.lean ====
section
/-!
DEFINITION. What the DMA rings share (R480–R490, R494, R495, R499): causes, descriptors and their completion, the chains of
DIRECT rings, and the admission of a receive frame.
-/
namespace Sys2Proof.Machine

namespace Desc

def own (d : Desc) : Bool := if d.v1 then d.ctrl.bit 63 else d.status.bit 63
def len (d : Desc) : Nat := if d.v1 then d.ctrl.bits 0 16 else d.ctrl.bits 0 24
def irq (d : Desc) : Bool := if d.v1 then d.ctrl.bit 32 else d.ctrl.bit 31
def isFirst (d : Desc) : Bool := if d.v1 then d.ctrl.bit 59 else d.ctrl.bit 32
def isLast (d : Desc) : Bool := if d.v1 then d.ctrl.bit 58 else d.ctrl.bit 33
def ip4 (d : Desc) : Bool := if d.v1 then d.ctrl.bit 33 else d.ctrl.bit 40
def l4 (d : Desc) : Bool := if d.v1 then d.ctrl.bit 34 else d.ctrl.bit 41
def opcode (d : Desc) : Nat := if d.v1 then 0 else d.ctrl.bits 24 4
def tsReq (d : Desc) : Bool := !d.v1 && d.ctrl.bit 34
def cmpBuf (d : Desc) : Bool := !d.v1 && d.ctrl.bit 35
def srcFixed (d : Desc) : Bool := !d.v1 && d.ctrl.bit 28
def dstFixed (d : Desc) : Bool := !d.v1 && d.ctrl.bit 29
def tc (d : Desc) : Nat := if d.v1 then 0 else d.ctrl.bits 48 3

/-- No reserved flag is set. -/
def flagsOk (d : Desc) : Bool :=
  if d.v1 then d.ctrl.bits 48 6 == 0 && d.ctrl.bits 35 3 == 0 else within 0x0007030FFFFFFFFF d.ctrl.toNat

end Desc

/-- RESULT codes (R485). -/
def resOK : Nat := 0
def resBAD : Nat := 1
def resMISMATCH : Nat := 2
def resDISCARDED : Nat := 3
def resTRUNCATED : Nat := 4
def resSTOMPED : Nat := 5

namespace State

/-- The object index of ring `r` and of quarter `q`. -/
def rIdx (r : Nat) : Nat := 0x0800 + r
def qIdx (q : Nat) : Nat := 0x0900 + q

/-- The quarter works: its domain is ON and the clocks run. -/
def quarterRuns (s : State) (q : Nat) : Bool := s.isOn (domDma q) && s.clocked

/-- A bit of RING_CAUSE is set (R482). -/
def ringCause (s : State) (r bit : Nat) : State :=
  let q := s.ring r
  let s := s.setRing r { q with cause := q.cause.setBit bit true }
  if !q.cause.bit bit && (s.reg (rIdx r) 0x10).bit bit then s.raise (0x701 + r) (2 ^ bit) else s

/-- RING_CAUSE_CLR. -/
def landRingCauseClr (s : State) (r : Nat) (v : Word) : State := s.updRing r fun q => { q with cause := q.cause &&& ~~~v }

/-- RING_SIZE, the format's descriptor length, and the address of descriptor `i`. -/
def ringSize (s : State) (r : Nat) : Nat := max (s.regN (rIdx r) 4) 1
def descLen (s : State) (r : Nat) : Nat := if s.regN (rIdx r) 6 = 0 then 16 else 32
def descAddr (s : State) (r i : Nat) : Nat := s.regN (rIdx r) 3 + s.descLen r * i

/-- The descriptor at index `i`, as memory holds it. -/
def readDesc (s : State) (r i : Nat) : Desc :=
  let w := fun k => Word.ofNat (leNat (s.memRead (s.descAddr r i + 8 * k) 8))
  if s.descLen r = 16 then { v1 := true, addr := (w 0).toNat, aux := 0, ctrl := w 1, status := 0 }
  else { v1 := false, addr := (w 0).toNat, aux := w 2, ctrl := w 1, status := w 3 }

/-- Bytes pass over the quarter's interconnect port (R504). -/
def busRead (s : State) (r n : Nat) : State := s.bump (qIdx (r / 64)) 6 n
def busWrite (s : State) (r n : Nat) : State := s.bump (qIdx (r / 64)) 7 n

/-- The fetch of the descriptor at the ring's fetch index: the flag is cleared, and OWN 0 idles the ring (R488). -/
def fetchDesc (s : State) (r : Nat) : Option Desc × State :=
  let q := s.ring r
  if q.idle ∨ q.fetch = q.tail then (none, s)
  else
    let s := s.busRead r (s.descLen r)
    let d := s.readDesc r q.fetch
    if d.own then (some d, s.setRing r { q with door := false })
    else (none, s.setRing r { q with door := false, idle := true })

/-- A descriptor completes (R490, R494, R495): AUX where it is written, then STATUS; HEAD, counters, causes and event.
`extra` holds the receive fields of STATUS. -/
def completeDesc (s : State) (r i : Nat) (d : Desc) (result done : Nat) (aux : Option Word) (extra : Nat) : State :=
  let a := s.descAddr r i
  let s := match aux with
    | some v => if d.v1 then s else (s.memWrite (a + 16) (leBytes 8 v.toNat)).busWrite r 8
    | none => s
  let s := if d.v1 then
      let keep := d.ctrl &&& (if r % 64 < 32 then 0x0C0000070000FFFF else 0x000000070000FFFF)
      (s.memWrite (a + 8) (leBytes 8 (keep.toNat + result * 2 ^ 60 + extra + done % 2 ^ 16 * 2 ^ 16))).busWrite r 8
    else (s.memWrite (a + 24) (leBytes 8 (result * 2 ^ 60 + extra + done % 2 ^ 24))).busWrite r 8
  let s := ((s.updRing r fun q => { q with head := (i + 1) % s.ringSize r }).bump (rIdx r) 0x11).bump (rIdx r) 0x12 done
  let s := if result = resBAD then (s.bump (rIdx r) 0x14).ringCause r 1
    else if result = resMISMATCH then (s.bump (rIdx r) 0x16).ringCause r 2
    else if result = resDISCARDED then (s.bump (rIdx r) 0x17).ringCause r 0 else s
  if d.irq then s.raise (0x701 + r) (2 ^ 15) else s

/-! ### Chains of transmit rings (R490, R498) -/

/-- The descriptors of a chain complete with one result; a stamp goes to the last one's AUX. -/
def completeChain (s : State) (r : Nat) (c : Chain) (result : Nat) (stamp : Option Word) : State :=
  (List.range c.count).foldl (fun s k =>
    let i := (c.first + k) % s.ringSize r
    let d := s.readDesc r i
    s.completeDesc r i d result (c.len.getD d.len) (if k + 1 = c.count then stamp else none) 0) s

/-- Chains at the head of the ring whose result is known complete, in ring order. -/
def settleChains (r : Nat) : Nat → State → State
  | 0, s => s
  | n + 1, s => match (s.ring r).chains with
    | [] => s
    | c :: rest => match c.done with
      | none => s
      | some (res, st) => settleChains r n ((s.updRing r fun q => { q with chains := rest }).completeChain r c res st)

/-- A DIRECT frame has left the wire, or is discarded: a TS_REQ chain gets its result. A DIRECT frame without one has
completed before. -/
def directDone (s : State) (o : Option DirectRef) (result : Nat) (stamp : Option Word) : State :=
  match o with
  | some { ring := some r, chain := some k } =>
    let s := s.updRing r fun q => { q with chains := q.chains.map fun c =>
      if c.first = k ∧ c.done.isNone then { c with done := some (result, stamp) } else c }
    settleChains r (s.ring r).chains.length s
  | _ => s

/-! ### Priority (R493) -/

/-- The ring transmits. -/
def isTxRing (r : Nat) : Bool := r % 64 < 32

/-- The index at which the chain being gathered begins: the first descriptor that no completed or waiting chain holds. -/
def chainStart (s : State) (r : Nat) : Nat :=
  let q := s.ring r
  (q.head + (q.chains.map (·.count)).sum) % s.ringSize r

/-- The descriptors of a transmit ring that are taken and belong to no chain yet. -/
def gathered (s : State) (r : Nat) : List Desc :=
  let start := s.chainStart r
  (List.range (((s.ring r).fetch + s.ringSize r - start) % s.ringSize r)).map fun k => s.readDesc r ((start + k) % s.ringSize r)

/-- The descriptors end a frame. -/
def wholeChain (ds : List Desc) : Bool := ds.getLast?.elim false Desc.isLast

/-- The data an opcode moves: read, written. -/
def opData (op : Nat) : Bool × Bool := (op == 1 || op == 3, op == 1 || op == 2)

/-- The data that the ring has to move now: read, written. Descriptors not handed over, and a frame that waits whole in the staging,
are no work. -/
def ringWork (s : State) (r : Nat) : Bool × Bool :=
  let q := s.ring r
  let d := s.readDesc r q.fetch
  let fresh := q.st == .opened && !q.idle && q.fetch != q.tail && d.own
  if !s.quarterRuns (r / 64) then (false, false)
  else if !isTxRing r then (false, (s.quarter (r / 64)).staged.any fun f => f.ring == r)
  else if s.regN (rIdx r) 5 = 2 then
    match q.work with
    | some w => opData w.d.opcode
    | none => if fresh then opData d.opcode else (false, false)
  else (fresh && !wholeChain (s.gathered r), false)

/-- The level the ring has now: PRIORITY, for a descriptor in progress that of its fetch (R481). -/
def ringLevel (s : State) (r : Nat) : Nat := match (s.ring r).work with | some w => w.level | none => s.regN (rIdx r) 8

/-- The rings of the quarter that want a path that `r` wants too. -/
def rivals (s : State) (r : Nat) : List Nat :=
  let mine := s.ringWork r
  (s.rings.map (·.1)).filter fun o => o != r && o / 64 == r / 64 && ((mine.1 && (s.ringWork o).1) || (mine.2 && (s.ringWork o).2))

/-- Ring `o` goes before ring `r`: by its level; within one level first the descriptor in progress, then the next in turn. -/
def goesBefore (s : State) (o r : Nat) : Bool :=
  let far := fun (x : Nat) => (x % 64 + 63 - SMap.get 63 (s.quarter (r / 64)).turns (s.ringLevel r)) % 64
  s.ringLevel r < s.ringLevel o || (s.ringLevel o == s.ringLevel r &&
    (((s.ring o).work.isSome && (s.ring r).work.isNone)
      || ((s.ring o).work.isSome == (s.ring r).work.isSome && far o < far r)))

/-- The ring has the beat. -/
def mayGo (s : State) (r : Nat) : Bool := (s.rivals r).all fun o => !s.goesBefore o r

/-- Another ring of its level waits for its turn. -/
def shares (s : State) (r : Nat) : Bool := (s.rivals r).any fun o => s.ringLevel o == s.ringLevel r

/-- A ring with work takes the turn of its level. -/
def takeTurn (s : State) (r : Nat) : State :=
  let q := s.quarter (r / 64)
  if s.ringWork r = (false, false) then s
  else s.setQuarter (r / 64) { q with turns := SMap.set 63 q.turns (s.ringLevel r) (r % 64) }

/-! ### Receive frames (R499) -/

/-- The ring is an OPEN receive ring. -/
def rxRingOpen (s : State) (r : Nat) : Bool :=
  r < 256 && 32 ≤ r % 64 && (s.ring r).st == .opened && s.quarterRuns (r / 64)

/-- Owned descriptors from the ring's `next` index on that hold `need` bytes: how many. A descriptor that no frame can use
completes BAD, at once when nothing stands before it (R491). At most 32 descriptors lie ahead of HEAD (R488). -/
def reserveDescs (r need : Nat) : Nat → Nat → Nat → State → Option Nat × State
  | 0, _, _, s => (none, s)
  | fuel + 1, count, room, s =>
    if need ≤ room ∧ 0 < count then (some count, s)
    else
      let q := s.ring r
      let size := s.ringSize r
      let i := (q.next + count) % size
      if 32 ≤ (i + size - q.head) % size then (none, s)
      else
        let f := if i = q.fetch then
            match s.fetchDesc r with
            | (some _, s) => (true, s.updRing r fun q => { q with fetch := (q.fetch + 1) % size })
            | (none, s) => (false, s)
          else (true, s)
        if !f.1 then (none, f.2)
        else
          let s := f.2
          let d := s.readDesc r i
          let ok := d.opcode = 0 ∧ d.flagsOk
          if !ok ∧ count = 0 ∧ i = q.head then
            reserveDescs r need fuel 0 room ((s.updRing r fun q => { q with next := (i + 1) % size }).completeDesc r i d resBAD 0 none 0)
          else reserveDescs r need fuel (count + 1) (room + if ok then d.len else 0) s

/-- How many of `n` descriptors from index `i` a frame of `len` bytes uses: at least one. -/
def usedDescs (s : State) (r : Nat) : Nat → Nat → Nat → Nat
  | 0, _, _ => 0
  | n + 1, i, len =>
    let d := s.readDesc r i
    let cap := if d.opcode = 0 ∧ d.flagsOk then d.len else 0
    if len ≤ cap then 1 else 1 + usedDescs s r n ((i + 1) % s.ringSize r) (len - cap)

/-- Bytes of receive staging in use in a quarter, and of transmit staging. -/
def stageUse (s : State) (q : Nat) : Nat := ((s.quarter q).staged.map fun f => f.bytes.length).sum
def txStageUse (s : State) (q : Nat) : Nat := ((s.rings.filter fun e => e.1 / 64 == q).map fun e => e.2.buf.length).sum

/-- A punted frame or copy reaches an OPEN receive ring: it is refused, discarded for its end, dropped for lack of staging,
or staged with its descriptors (R499). `known`: its length without FCS was known at its first byte. Answers whether it is
staged. -/
def stageRx (s : State) (f : Staged) (good known : Bool) : Bool × State :=
  let r := f.ring
  let most := s.regN (rIdx r) 0x0A
  let need := if known then min most f.bytes.length else most
  let x := reserveDescs r need 64 0 0 s
  match x.1 with
  | none => (false, (x.2.bump (rIdx r) 0x13).ringCause r 3)
  | some n =>
    let s := x.2
    if !good then (false, (s.bump (rIdx r) 0x15).ringCause r 3)
    else if 524288 < s.stageUse (r / 64) + min most f.bytes.length then (false, s.bump (qIdx (r / 64)) 4)
    else
      let bytes := f.bytes.take most
      let first := (s.ring r).next
      let used := s.usedDescs r n first bytes.length
      let s := s.updRing r fun q => { q with next := (first + used) % s.ringSize r }
      let q := s.quarter (r / 64)
      (true, s.setQuarter (r / 64) { q with staged := q.staged ++
        [{ f with first, count := used, bytes, rest := bytes, cut := most < f.bytes.length }] })

end State
end Sys2Proof.Machine
end

