-- ==== Sys2Proof/Machine/Peep.lean ====
section
/-!
DEFINITION. The ingress skid (R26–R28) and the peepholes (R470–R477).
-/
namespace Sys2Proof.Machine

/-- The metadata word as laid out in R26. -/
def FrameMeta.word (m : FrameMeta) : BitVec 192 :=
  BitVec.ofNat 192 (m.stamp.toNat * 2 ^ 128 + m.port % 1024 * 2 ^ 118 + m.length % 2 ^ 14 * 2 ^ 104 + m.vid % 4096 * 2 ^ 92
    + m.pcp % 8 * 2 ^ 89 + m.colour % 4 * 2 ^ 87 + m.door % 4 * 2 ^ 85 + b2n m.calMark * 2 ^ 84 + b2n m.secured * 2 ^ 83
    + b2n m.passMode * 2 ^ 82 + m.srcDevice % 2 ^ 18 * 2 ^ 64 + m.flowHint % 2 ^ 16 * 2 ^ 48 + m.sysClass % 8 * 2 ^ 45
    + m.srcPort % 1024 * 2 ^ 35 + b2n m.systag * 2 ^ 34 + m.keySlot % 4096 * 2 ^ 22)

/-- A frame at a tap point (R472): port, direction, tap, class, bytes with the four FCS bytes, end, stamp. -/
structure TapIn where
  port : Nat
  tx : Bool
  plain : Bool
  cls : Option Nat
  bytes : Bytes
  fin : End
  stamp : Word
  /-- how long ago a transmit frame started; the rows of its start act on it (R470) -/
  age : Nat := 0

namespace State

/-! ### The ingress skid -/

/-- Free space of the cluster's 512 KiB skid: every frame in it holds its reservation (R28). -/
def skidFree (s : State) (c : Nat) : Nat := 524288 - ((s.clRx c).skid.map (·.reserve)).sum

/-- The space a frame of port `p` must find (R28). -/
def skidNeed (s : State) (p : Nat) : Nat := roundUp (s.regN (0x1000 + p) 7) 64

/-- A frame joins the skid. -/
def skidPush (s : State) (c : Nat) (f : SkidFrame) : State := s.updClRx c fun q => { q with skid := q.skid ++ [f] }

/-! ### Peepholes -/

/-- Field `i` of peephole row `k`, `age` grains ago. -/
def peepW (s : State) (c i k : Nat) (age : Nat := 0) : Word := s.rowThen (winIdx c 0xC) i k age

/-- A copy of peephole `k` is not delivered (R476, R477). -/
def peepDrop (s : State) (c k : Nat) : State := (s.bumpRow (winIdx c 0xC) 7 k 1).raiseOnce (clEvent c 22)

/-- A copy has been delivered: it leaves the copy buffer. -/
def peepDelivered (s : State) (c k n : Nat) : State :=
  (s.bumpRow (winIdx c 0xC) 6 k 1).updClRx c fun q => { q with copyUse := q.copyUse - n }

/-- The frame is eligible for peephole `k` (R472). -/
def peepEligible (s : State) (c k : Nat) (t : TapIn) : Bool :=
  let w := s.peepW c 2 k t.age
  let mask := w.bits 24 8
  w.bit 0 && w.bit 1 == t.tx && w.bit 5 == t.plain && (w.bit 2 || w.bits 8 6 == t.port % 64)
    && (mask == 0 || (match t.cls with | some n => mask.testBit n | none => false)) && (!w.bit 6 || t.fin != .good)

/-- The copy's bytes, trailer included, FCS excluded (R474). -/
def peepBytes (s : State) (c k : Nat) (t : TapIn) : Bytes :=
  let body := t.bytes.take (t.bytes.length - 4)
  let keep := min ((s.peepW c 2 k t.age).bits 32 10) body.length
  let info := b2n t.tx * 2 ^ 15 + b2n (keep < body.length) * 2 ^ 14 + t.fin.code * 2 ^ 12 + t.port
  body.take keep ++ beBytes 8 t.stamp.toNat ++ beBytes 2 info ++ beBytes 2 (t.bytes.length % 2 ^ 14)
    ++ beBytes 1 (c * 16 + k) ++ [0] ++ beBytes 2 (SMap.get 0 (s.clRx c).peepSeq k % 65536)

/-- A sampled copy goes to its ring or to the skid (R475–R477). -/
def peepCopy (s : State) (c k : Nat) (t : TapIn) : State :=
  let data := s.peepBytes c k t
  let n := data.length + 4
  let s := s.updClRx c fun q => { q with peepSeq := SMap.set 0 q.peepSeq k ((SMap.get 0 q.peepSeq k + 1) % 65536) }
  let dest := s.peepW c 4 k t.age
  if 65536 < (s.clRx c).copyUse + n then s.peepDrop c k
  else if (s.peepW c 2 k t.age).bit 4 then
    let p := 64 * c + dest.bits 8 6
    if (s.port p).st ≠ .closed ∨ s.skidFree c < s.skidNeed p ∨ !s.isOn (domLane c) then s.peepDrop c k
    else
      let m : FrameMeta := { stamp := t.stamp, port := p, length := n, vid := dest.bits 16 12, pcp := dest.bits 28 3 }
      let s := s.updClRx c fun q => { q with copyUse := q.copyUse + n }
      s.skidPush c { port := p, metaWord := m.word, bytes := data ++ fcsOf data, fin := .good, reason := 0, reserve := s.skidNeed p,
                     copyBytes := n, copyOf := some k }
  else
    let r := dest.bits 0 8
    if !s.rxRingOpen r then s.peepDrop c k
    else
      let x := s.stageRx { ring := r, first := 0, count := 0, bytes := data, cut := false, stamp := t.stamp, port := t.port,
                           vid := 0, colour := 0, source := 3, copy := some (c, k, n) } true true
      if x.1 then x.2.updClRx c fun q => { q with copyUse := q.copyUse + n } else x.2.peepDrop c k

/-- One frame at a tap point of the cluster: every peephole counts, samples and copies on its own (R473). -/
def peepTap (s : State) (t : TapIn) : State :=
  let c := t.port / 64
  (List.range 16).foldl (fun s k =>
    if !s.peepEligible c k t then s
    else
      let s := s.bumpRow (winIdx c 0xC) 5 k 1
      let n := (s.peepW c 3 k t.age).bits 0 16 + 1
      let at_ := SMap.get 0 (s.clRx c).peepCount k
      let s := s.updClRx c fun q => { q with peepCount := SMap.set 0 q.peepCount k ((at_ + 1) % n) }
      if at_ = 0 && s.isOn domPeep && (s.regThen 0x0B00 0x10 t.age).bit 0 then s.peepCopy c k t else s) s

/-- A row image may be committed to table 0x0C (R470, R471). -/
def peepOk (img : List Word) : Bool :=
  let w := img.getD 0 0
  let d := img.getD 2 0
  let tr := w.bits 32 10
  within 0x3FFFF003F77 w.toNat && 64 ≤ tr && tr ≤ 512 && tr % 8 == 0 && !(w.bits 24 8 != 0 && !w.bit 1)
    && !(w.bit 4 && (d.bits 16 12 == 0 || d.bits 16 12 == 0xFFF)) && within 0xFFFF (img.getD 1 0).toNat
    && within 0x7FFF3FFF d.toNat

/-- A COMMIT of a peephole lands (R470). -/
def landPeep (s : State) (c k : Nat) (img : List Word) : State :=
  let w := winIdx c 0xC
  let fresh := !(s.peepW c 2 k).bit 0 && (img.getD 0 0).bit 0
  let s := (List.range img.length).foldl (fun s i => s.setLatchedRow w (2 + i) k (img.getD i 0)) s
  if fresh then
    (s.clearCtrs fun key => keyIdx key == w && keyRow key == k).updClRx c fun q => { q with peepCount := SMap.set 0 q.peepCount k 0 }
  else s

end State
end Sys2Proof.Machine
end

