-- ==== Sys2Proof/Machine/FlowControl.lean ====
section
/-!
DEFINITION. Control frames a port sends (R374, R375, R380–R382), preemption verification, and the causes, boundaries and
start conditions the transmit side shares.
-/
namespace Sys2Proof.Machine

/-- SMD-S, SMD-C and frag_count codes by number (R156). -/
def smdS (n : Nat) : Nat := [0xE6, 0x4C, 0x7F, 0xB3].getD (n % 4) 0
def smdC (n : Nat) : Nat := [0x61, 0x52, 0x9E, 0x2A].getD (n % 4) 0

/-- What goes before the bytes of a frame or fragment on the lanes: six preamble bytes, the start delimiter and frag_count (R365,
R376). -/
def laneHead (sfd : Nat) (frag : Option Nat) : Bytes :=
  List.replicate 6 0x55 ++ (sfd :: frag.toList).map (BitVec.ofNat 8)

/-- pause_grains() of R152. -/
def pauseGrains (q rate : Nat) : Nat := ceilDiv (q * 2 ^ 45) rate

namespace State

/-- A bit of TX_CAUSE is set (R357). -/
def txCause (s : State) (p bit : Nat) : State :=
  let q := s.portTxOf p
  let s := s.setPortTx p { q with cause := q.cause.setBit bit true }
  if !q.cause.bit bit && (s.reg (0x1000 + p) 0x27).bit bit then s.raise (1 + p) 2 else s

/-- TX_CAUSE_CLR. -/
def landTxCauseClr (s : State) (p : Nat) (v : Word) : State := s.updPortTx p fun q => { q with cause := q.cause &&& ~~~v }

/-- The port's transmit side runs: LANE and QUEUE are ON and the clocks run. -/
def txRuns (s : State) (p : Nat) : Bool := s.isOn (domLane (p / 64)) && s.clocked

/-- The port sends frames: OPEN with LINK_STATE UP (R391). -/
def txSends (s : State) (p : Nat) : Bool := s.txRuns p && (s.port p).st == .opened && (s.port p).link == .up

/-- What the port puts on its lanes; a port that presents idle in place of its PCS output puts nothing there (R393). -/
def lanes (s : State) (p sfd : Nat) (frag : Option Nat) (bytes : Bytes) : State :=
  if (s.portTxOf p).ownPcs then s.emit (.lanes p (laneHead sfd frag) bytes) else s

/-- What the lanes of a port carry between frames (R131, R391, R393). -/
def laneSignal (s : State) (p : Nat) : LaneSignal :=
  match (s.port p).st, (s.port p).link with
  | .closed, _ => .zeros
  | .opened, .down => if (s.portTxOf p).ownPcs then .remoteFault else .idle
  | .opened, .aligning => if (s.portTxOf p).ownPcs then .remoteFault else .idle
  | _, _ => .idle

/-- The lanes show a signal. -/
def setSignal (s : State) (p : Nat) (sig : LaneSignal) : State :=
  if (s.portTxOf p).signal = sig then s else (s.updPortTx p fun q => { q with signal := sig }).emit (.signal p sig)

/-- The state of the port or its link has changed: its lanes follow. -/
def settleSignal (s : State) (p : Nat) : State := s.setSignal p (s.laneSignal p)

/-! ### Gaps (R365) -/

/-- Whole bytes that pass on the wire of port `p` in `t` grains. -/
def wireBytes (s : State) (p t : Nat) : Nat := t * s.portRate p / 2 ^ 39

/-- A frame has ended on the lanes. -/
def endOnLanes (s : State) (p : Nat) : State := let now_ := s.runTime; s.updPortTx p fun q => { q with idleAt := some now_ }

/-- A control frame of 64 B takes its 84 B of wire time from where the last frame ended. -/
def ctlOnLanes (s : State) (p : Nat) : State :=
  let start := match (s.portTxOf p).idleAt with | some t => if s.before t then t else s.runTime | none => s.runTime
  let stop := start + Word.ofNat (s.wireGrains p 84)
  s.updPortTx p fun q => { q with idleAt := some stop }

/-- The gap so far, in bytes; more than 15 where no frame has ended yet. -/
def gapNow (s : State) (p : Nat) : Nat :=
  match (s.portTxOf p).idleAt with
  | none => 16
  | some t => if s.before t then 0 else s.wireBytes p (s.since t)

/-- A frame may start: the gap is 9 B or more, and deficit idle count allows it. -/
def gapOk (s : State) (p : Nat) : Bool :=
  let g := s.gapNow p
  decide (15 < g) || (decide (9 ≤ g) && decide (-3 ≤ (s.portTxOf p).deficit + g - 12))

/-- The deficit idle count after a gap of `g` bytes; a longer gap begins a new run. -/
def deficitAfter (d : Int) (g : Nat) : Int := if 15 < g then 0 else min 3 (d + g - 12)

/-- The counters of a frame that leaves whole with a correct FCS (R398, R461). -/
def countSent (s : State) (p : Nat) (body : Bytes) : State :=
  let f := body.length + 4
  let s := (s.bumpPort p Pc.txFramesOk).bumpPort p Pc.txOctetsOk f
  let s := s.bumpPort p (if isBroadcast (daOf body) then Pc.txBcast else if isGroup (daOf body) then Pc.txMcast else Pc.txUcast)
  s.bumpPort p (Pc.txBin + Pc.bin f)

/-- STATION_ADDR in wire order. -/
def stationAddr (s : State) (p : Nat) : Bytes := leBytes 6 (s.regN (0x1000 + p) 0x0B)

/-- The body of a PAUSE or PFC frame, padded to 60 bytes (R382). -/
def ctlBody (s : State) (p : Nat) (rest : Bytes) : Bytes :=
  padTo 60 ([0x01, 0x80, 0xC2, 0x00, 0x00, 0x01] ++ s.stationAddr p ++ beBytes 2 0x8808 ++ rest)

/-- The transmit stamp of a frame that starts now (R383), in grains. -/
def txStamp (s : State) (p : Nat) : Nat := ((s.devTime : Int) + (s.reg (0x1C00 + p) 0x13).toInt).toNat

/-- A frame of the MAC's own leaves whole as `bytes`, start delimiter `sfd`, and passes the wire tap (R472). -/
def sendOwn (s : State) (p sfd : Nat) (bytes : Bytes) : State :=
  (s.lanes p sfd none bytes).peepTap { port := p, tx := true, plain := false, cls := none, bytes, fin := .good,
                                       stamp := Word.ofNat (s.txStamp p) }

/-- A PAUSE or PFC frame leaves and is counted (R398). -/
def sendMacCtl (s : State) (p : Nat) (body : Bytes) : State := (s.countSent p body).sendOwn p 0xD5 (body ++ fcsOf body)

/-- A verify or respond frame leaves (R374). -/
def sendVerify (s : State) (p smd : Nat) : State :=
  s.sendOwn p smd (List.replicate 60 0 ++ mcrcOf (List.replicate 60 0))

/-- An FC_MODE or PFC_PRIO_TC value as last written, whether it waits or not. -/
def fcLateVal (s : State) (p sub : Nat) : Word :=
  match (s.port p).fcLate.reverse.find? fun w => w.2.1 == sub with | some w => w.2.2 | none => s.reg (0x1C00 + p) sub

/-- FC_MODE and PFC_PRIO_TC writes that came at least `back` grains ago land: a frame has started on the port since (R129, R155). -/
def landFcLate (s : State) (p back : Nat) : State :=
  let due := (s.port p).fcLate.filter fun w => back ≤ s.since w.1
  if due = [] then s
  else
    let s := s.updPort p fun q => { q with fcLate := q.fcLate.filter fun w => !(back ≤ s.since w.1) }
    due.foldl (fun s w => ((s.setPortReg (0x1C00 + p) w.2.1 w.2.2).updPort p fun q => { q with timers := [] }).settlePort p) s

/-- One control frame leaves (R374, R375, R381). -/
def sendCtl (s : State) (p : Nat) (k : CtlFrame) : State :=
  let s := (s.ctlOnLanes p).landFcLate p 0
  match k with
  | .verify => (s.bumpPort p Pc.txVerify).sendVerify p 0x07
  | .respond => (s.bumpPort p Pc.txRespond).sendVerify p 0x19
  | .pause q =>
    let body := s.ctlBody p (beBytes 2 1 ++ beBytes 2 q)
    let s := s.bumpPort p (if q = 0 then Pc.txPauseResume else Pc.txPause)
    s.sendMacCtl p body
  | .pfc times =>
    let vec := (List.range 8).foldl (fun v n => v + b2n (times.getD n none).isSome * 2 ^ n) 0
    let body := s.ctlBody p (beBytes 2 0x0101 ++ beBytes 2 vec ++ (List.range 8).flatMap fun n => beBytes 2 ((times.getD n none).getD 0))
    let s := (List.range 8).foldl (fun s n => match times.getD n none with
      | some (_ + 1) => s.bumpPort p (Pc.txPfc + n)
      | _ => s) s
    let s := if times.contains (some 0) then s.bumpPort p Pc.txPfcResume else s
    s.sendMacCtl p body

/-- A control frame is sent at once on a free wire, else at the next boundary (R382). -/
def queueCtl (s : State) (p : Nat) (k : CtlFrame) : State :=
  if (s.portTxOf p).wire.isNone then s.sendCtl p k else s.updPortTx p fun q => { q with ctl := q.ctl ++ [k] }

/-! ### Flow control requests (R380, R381) -/

/-- The combined request of the port: fc_xoff OR FC_FORCE. -/
def xoffNow (s : State) (p : Nat) : Nat := (s.portTxOf p).xoff ||| s.regN (0x1C00 + p) 0x0F

/-- The PFC frame for the present request: TX_PAUSE_QUANTA for each priority requested, 0 for each that has fallen since the
previous frame. -/
def pfcTimes (s : State) (p : Nat) : List (Option Nat) :=
  (List.range 8).map fun n =>
    if (s.xoffNow p).testBit n then some (s.regN (0x1C00 + p) 0x0C)
    else if ((s.portTxOf p).xoffSent ||| (s.portTxOf p).xoffEver).testBit n then some 0 else none

/-- The request of the last frame is the present one. -/
def xoffDone (s : State) (p : Nat) : State :=
  let req := s.xoffNow p
  let now_ := s.runTime
  s.updPortTx p fun q => { q with xoffSeen := req, xoffSent := req, pauseAt := now_, pfcAt := none, xoffEver := 0 }

/-- The PFC frame that present changes ask for. -/
def sendPfc (s : State) (p : Nat) : State := (s.xoffDone p).queueCtl p (.pfc (s.pfcTimes p))

/-- 64 CLK_DP cycles, 40 ns, in grains rounded up. -/
def pfcGrains : Nat := 2749

/-- A PFC frame is due: 64 CLK_DP cycles have passed since the change that asks for it, in which others shared it (R381). -/
def pfcDue (s : State) (p : Nat) : Bool :=
  match (s.portTxOf p).pfcAt with | some t => decide (pfcGrains ≤ s.since t) && s.txSends p && s.regN (0x1C00 + p) 1 == 2 | none => false

/-- A PFC frame that is due goes to the transmit side. -/
def settlePfc (s : State) (p : Nat) : State := if s.pfcDue p then s.sendPfc p else s

/-- The combined request may have changed: a PAUSE frame is sent, or a PFC frame asked for, as FC_MODE says (R380, R381). -/
def fcUpdate (s : State) (p : Nat) : State :=
  let q := s.portTxOf p
  let req := s.xoffNow p
  let resume := s.regB (0x1C00 + p) 0x0E
  if req = q.xoffSeen then s
  else
    let seen := s.setPortTx p { q with xoffSeen := req }
    if !s.txSends p then seen
    else match s.regN (0x1C00 + p) 1 with
      | 1 =>
        if q.xoffSeen = 0 then (s.xoffDone p).queueCtl p (.pause (s.regN (0x1C00 + p) 0x0C))
        else if req = 0 ∧ resume then (s.xoffDone p).queueCtl p (.pause 0)
        else seen
      | 2 =>
        let rises := (List.range 8).any fun n => req.testBit n && !q.xoffSeen.testBit n
        let falls := (List.range 8).any fun n => !req.testBit n && q.xoffSeen.testBit n
        let now_ := s.runTime
        seen.updPortTx p fun q => { q with xoffEver := q.xoffEver ||| req
                                           pfcAt := if q.pfcAt.isNone && (rises || (falls && resume)) then some now_ else q.pfcAt }
      | _ => seen

/-- The port begins to send: a request already held is sent as one that rises. -/
def fcStart (s : State) (p : Nat) : State := (s.updPortTx p fun q => { q with xoffSeen := 0, xoffSent := 0, xoffEver := 0, pfcAt := none }).fcUpdate p

/-! ### Preemption verification (R374, R375) -/

/-- VERIFY_TIME in grains. -/
def verifyGrains (s : State) (p : Nat) : Nat := ceilDiv (s.regN (0x1C00 + p) 0x0A * 2 ^ 36) 1000

/-- VERIFY_STATUS starts from INITIAL: with LINK_STATE UP on an OPEN port with PREEMPT_EN 1 it moves on at once. -/
def verifyStart (s : State) (p : Nat) : State :=
  let s := s.updPortTx p fun q => { q with verify := .initial, verifySent := 0 }
  if !s.txSends p || !s.regB (0x1C00 + p) 4 then s
  else if s.regB (0x1C00 + p) 9 then s.updPortTx p fun q => { q with verify := .disabled }
  else
    let now_ := s.runTime
    (s.updPortTx p fun q => { q with verify := .verifying, verifySent := 1, verifyAt := now_ }).queueCtl p .verify

/-- VERIFY_STATUS returns to INITIAL as the link or the port goes (R374). -/
def verifyStop (s : State) (p : Nat) : State := s.updPortTx p fun q => { q with verify := .initial, verifySent := 0 }

/-- A preemptable frame is in progress. -/
def preemptBusy (s : State) (p : Nat) : Bool :=
  let q := s.portTxOf p
  q.held.isSome || (q.wire.map (·.preemptable)).getD false

/-- A VERIFY_DISABLE or VERIFY_TIME value as last written, whether it waits or not. -/
def verifyVal (s : State) (p sub : Nat) : Word :=
  match (s.portTxOf p).late.reverse.find? fun w => w.1 == sub with | some w => w.2 | none => s.reg (0x1C00 + p) sub

/-- A VERIFY_DISABLE or VERIFY_TIME write lands; one that would end active preemption waits for the frame (R373). The value it
holds changes nothing (R63). -/
def landVerify (s : State) (p sub : Nat) (v : Word) : State :=
  if v = s.verifyVal p sub then s
  else if s.preemptActive p && s.preemptBusy p then s.updPortTx p fun q => { q with late := q.late ++ [(sub, v)] }
  else (s.setReg (0x1C00 + p) sub v).verifyStart p

/-- The control frames that wait leave (R382). -/
def sendWaiting (s : State) (p : Nat) : State :=
  let s := s.settlePfc p
  let q := s.portTxOf p
  if q.wire.isSome || !s.txSends p then s
  else q.ctl.foldl (fun s k => s.sendCtl p k) (s.setPortTx p { q with ctl := [] })

/-- Writes that waited for the end of a preemptable frame land once none is in progress (R373). -/
def landLate (s : State) (p : Nat) : State :=
  if s.preemptBusy p then s
  else
    let late := (s.portTxOf p).late
    let s := s.updPortTx p fun q => { q with late := [] }
    late.foldl (fun s w => (s.setReg (0x1C00 + p) w.1 w.2).verifyStart p) s

/-- A frame or fragment boundary. -/
def boundaryTx (s : State) (p : Nat) : State := (s.sendWaiting p).landLate p

/-- The port sends nothing more: no control frame that waits is sent. -/
def dropCtl (s : State) (p : Nat) : State := s.updPortTx p fun q => { q with ctl := [], pfcAt := none }

end State

/-- The combined pause request of a port changes (R380): the eight fc_xoff bits of the port. -/
def execFcXoffChange (dt p xoff : Nat) (s : State) : Res :=
  let s := (s.elapse dt).settlePfc p
  .next ((s.updPortTx p fun q => { q with xoff := xoff % 256 }).fcUpdate p)

/-- The refresh interval passes while a request is held (R381); a PFC frame that is due leaves too. -/
def execPauseRefresh (dt p : Nat) (s : State) : Res :=
  let s := (s.elapse dt).settlePfc p
  let q := s.portTxOf p
  let due := pauseGrains (s.regN (0x1C00 + p) 0x0D) (s.portRate p) ≤ s.since q.pauseAt
  if !s.txSends p || s.xoffNow p = 0 || !due then .next s
  else match s.regN (0x1C00 + p) 1 with
    | 1 => .next ((s.xoffDone p).queueCtl p (.pause (s.regN (0x1C00 + p) 0x0C)))
    | 2 => .next (s.sendPfc p)
    | _ => .next s

/-- VERIFY_TIME passes after a verify frame (R374). -/
def execVerifyTimeout (dt p : Nat) (s : State) : Res :=
  let s := s.elapse dt
  let q := s.portTxOf p
  if q.verify ≠ .verifying ∨ s.since q.verifyAt < s.verifyGrains p then .next s
  else if q.verifySent < 3 then
    .next ((s.setPortTx p { q with verifySent := q.verifySent + 1, verifyAt := s.runTime }).queueCtl p .verify)
  else .next ((s.setPortTx p { q with verify := .failed }).txCause p 6)

/-- A TX_CAUSE_CLR write is in Writes; here the landing of TX_SILL_SET: it waits for the next frame start (R369). -/
def State.landSillSet (s : State) (p v : Nat) : State := s.updPortTx p fun q => { q with sillSet := some v }

end Sys2Proof.Machine
end

