-- ==== Sys2Proof/Machine/Macsec.lean ====
section
/-!
DEFINITION. MACsec (R171–R209): the SA table, protection of a transmit frame, packet-number limits and alerts. What MACsec
does to a received frame stands in MacsecRx.
-/
namespace Sys2Proof.Machine

/-- Suites of a key image: 1 GCM-AES-128, 2 GCM-AES-256, 3 XPN-128, 4 XPN-256 (R212). -/
def KeyImg.xpn (k : KeyImg) : Bool := k.suite == 3 || k.suite == 4

/-- The bytes of secure data that stay in the clear for a CONF_OFFSET code of 1–3 (R172). -/
def confBytes (code : Nat) : Nat := match code with | 2 => 30 | 3 => 50 | _ => 0

/-- The 96-bit initialisation vector (R179): SCI and PN, or for an XPN suite SSCI and PN exclusive-ored with the salt. -/
def macsecIv (k : KeyImg) (sci ssci pn : Nat) : Bytes :=
  if k.xpn then xorBytes (beBytes 4 ssci ++ beBytes 8 pn) k.salt else beBytes 8 sci ++ beBytes 4 pn

/-- The SecTAG of a transmit frame (R178, R180). -/
def secTag (q : TxSec) (secLen pn : Nat) : Bytes :=
  let e := b2n (q.confOffset ≠ 0)
  let tci := b2n (q.useEs && !q.includeSci) * 64 + b2n q.includeSci * 32 + e * 8 + e * 4 + q.an
  beBytes 2 0x88E5 ++ beBytes 1 tci ++ beBytes 1 (if secLen < 48 then secLen else 0) ++ beBytes 4 pn
    ++ (if q.includeSci then beBytes 8 q.sci else [])

/-- A frame without FCS protected (R178–R180): SecTAG after the addresses, secure data, ICV. `secLen` is the secure data
length of the whole frame; the frame may be a prefix, which then has no ICV. -/
def protect (q : TxSec) (k : KeyImg) (pn secLen : Nat) (body : Bytes) (whole : Bool) : Bytes :=
  let head := body.take 12
  let sec := body.drop 12
  let tag := secTag q secLen pn
  let iv := macsecIv k q.sci q.ssci pn
  let clear := if q.confOffset = 0 then sec.length else min sec.length (confBytes q.confOffset)
  let ct := gcmCrypt k.key iv (sec.drop clear)
  let aad := head ++ tag ++ sec.take clear
  head ++ tag ++ sec.take clear ++ ct ++ if whole then gcmTag k.key iv aad ct else []

namespace State

/-! ### SA rows (R174–R177) -/

/-- Field `i` of SA row `r`. -/
def saW (s : State) (c i r : Nat) : Word := s.rowGet (winIdx c 7) i r

/-- The key image a cluster slot holds in its current bank, and its generation (R210). DESIGN CHOICE (assumption 102): a key that
has been loaded counts as held, for IN_USE and for the conditions of R176, once its bank has flipped. -/
def slotKeyOf (s : State) (c r : Nat) : Option KeyImg := (s.slot (4096 * c + r)).cur
def slotGen (s : State) (c r : Nat) : Nat := ((s.slot (4096 * c + r)).gen + s.keys.genBase) % 256

/-- IN_USE (R175). -/
def saInUse (s : State) (c r : Nat) : Bool :=
  let w := s.saW c 2 r
  w.bit 0 && w.bit 2 && !w.bit 18 && (s.slotKeyOf c r).isSome

/-- SA_CTRL as read: IN_USE is computed. -/
def saCtrl (s : State) (c r : Nat) : Word := (s.saW c 2 r).setBit 16 (s.saInUse c r)

/-- The effective PN_THRESHOLD of a row (R174). -/
def pnThreshold (s : State) (c r : Nat) (xpn : Bool) : Nat :=
  let t := (s.saW c 5 r).toNat
  if t ≠ 0 then t else if xpn then 2 ^ 62 else 0xC0000000

/-- An alert of the cluster: threshold or exhausted (R201). -/
def pnAlert (s : State) (c r : Nat) (exhausted : Bool) : State :=
  let q := s.clRx c
  if 64 ≤ q.alerts.length then s.setClRx c { q with alerts := q.alerts, alertLost := true }
  else
    let s := s.setClRx c { q with alerts := q.alerts ++ [Word.ofNat (2 ^ 31 + b2n exhausted * 2 ^ 16 + r)] }
    if q.alerts.isEmpty then s.raise (clEvent c 2) else s

/-- A read of PN_ALERT (R201, R205). -/
def readPnAlert (s : State) (c : Nat) : Word × State :=
  let q := s.clRx c
  match q.alerts with
  | [] => (0, s)
  | a :: rest => (a, s.setClRx c { q with alerts := rest, alertLost := q.alertLost && !rest.isEmpty })

/-- HOLD_IN_USE: the bytes of frames still under reassembly that MACsec holds (R193, R205). -/
def holdInUse (s : State) (c : Nat) : Nat :=
  ((List.range 64).map fun l => match (s.port (64 * c + l)).reasm with | some r => r.held | none => 0).sum

/-- A read of HOLD_PEAK, which starts the peak again at what is held now (R205). -/
def readHoldPeak (s : State) (c : Nat) : Word × State :=
  let now_ := s.holdInUse c
  (Word.ofNat (s.clRx c).holdPeak, s.updClRx c fun q => { q with holdPeak := now_ })

/-- THRESHOLD_HIT (bit 17) or EXHAUSTED (bit 18) of a row becomes set, with its alert (R199, R200). -/
def saFlag (s : State) (c r bit : Nat) : State :=
  let w := s.saW c 2 r
  if w.bit bit then s else (s.rowSet (winIdx c 7) 2 r (w.setBit bit true)).pnAlert c r (bit == 18)

/-- The last PN of a suite. -/
def lastPn (xpn : Bool) : Nat := if xpn then 2 ^ 64 - 1 else 2 ^ 32 - 1

/-- The PN that the next frame of a transmit SA takes under generation `gen`. -/
def nextPn (s : State) (c r gen : Nat) : Nat := max (s.saW c 4 r).toNat (SMap.get 0 (s.clTx c).pnTop (256 * r + gen))

/-- A transmit SA gives out its NEXT_PN under generation `gen` of its slot (R183, R199, R200). DESIGN CHOICE (assumption 102): where
NEXT_PN was set back under a generation, the frame takes the next PN that the generation has not given, so that none is given twice;
NEXT_PN of an XPN SA reads 0 after 2^64 − 1. -/
def takePn (s : State) (c r gen : Nat) (xpn : Bool) : Nat × State :=
  let key := 256 * r + gen
  let next := (s.saW c 4 r).toNat
  let pn := s.nextPn c r gen
  let s := s.updClTx c fun q => { q with pnTop := SMap.set 0 q.pnTop key (pn + 1) }
  let s := s.rowSet (winIdx c 7) 4 r (Word.ofNat (if gen = s.slotGen c r then pn + 1 else next + 1))
  let s := if s.pnThreshold c r xpn ≤ pn then s.saFlag c r 17 else s
  (pn, if pn = lastPn xpn then s.saFlag c r 18 else s)

/-- SCI octets: the first octet on the wire at [7:0] (R56); as a number most significant first. -/
def sciNat (w : Word) : Nat := beNat (leBytes 8 w.toNat)

/-- The transmit encoding SA's row of a port. -/
def encodingSa (s : State) (p : Nat) : Option Nat :=
  let c := p / 64
  (s.rowsListed (winIdx c 7) 2).find? fun r =>
    let w := s.saW c 2 r
    w.bit 0 && w.bit 1 && w.bits 8 6 == p % 64 && w.bits 4 2 == s.regN (0x1000 + p) 0x48

/-- What MACsec decides at the grant of a frame on port `p`, the bypass test apart (R181). -/
def secPlan (s : State) (p : Nat) : TxSec :=
  let i := 0x1000 + p
  let c := p / 64
  if !s.regB i 0x40 then {}
  else
    let base : TxSec := { plan := .clear, includeSci := s.regB i 0x45, useEs := s.regB i 0x46, confOffset := s.regN i 0x47,
                          an := s.regN i 0x48, bypass := s.regN i 0x4C }
    if !s.regB i 0x44 then base
    else match s.encodingSa p with
      | none => { base with plan := .notInUse }
      | some r =>
        let w := s.saW c 2 r
        let b := { base with row := r, gen := s.slotGen c r, img := s.slotKeyOf c r, sci := sciNat (s.saW c 3 r), ssci := w.bits 32 32 }
        if w.bit 18 then { b with plan := .exhausted }
        else if s.saInUse c r then { b with plan := .protect } else { b with plan := .notInUse }

/-- E of R182. -/
def expansion (q : TxSec) : Nat := if q.plan = .protect then (if q.includeSci then 16 else 8) + 16 else 0

/-- The EtherType equals a BYPASS_ETYPE value; 0 means none (R172). -/
def bypassed (v et : Nat) : Bool := et != 0 && (et == v % 65536 || et == v / 65536)

/-- A COMMIT to the SA table may land (R176). Conditions on other rows and key slots count when `live`. -/
def saOk (s : State) (c r : Nat) (img : List Word) (live : Bool) : Bool :=
  let w := img.getD 0 0
  let sci := img.getD 1 0
  let pn := (img.getD 2 0).toNat
  let old := s.saW c 2 r
  let key := s.slotKeyOf c r
  let xpn := (key.map KeyImg.xpn).getD false
  let clash := w.bit 0 && (s.rowsListed (winIdx c 7) 2).any fun j =>
    let v := s.saW c 2 j
    j != r && v.bit 0 && v.bit 1 == w.bit 1 && v.bits 8 6 == w.bits 8 6 && v.bits 4 2 == w.bits 4 2
      && (w.bit 1 || s.saW c 3 j == sci)
  !(w.bit 3 && pn == 0)
    && (!live || (!clash && !(!old.bit 0 && w.bit 0 && (!w.bit 3 || key.isNone))
      && !(w.bit 3 && !xpn && key.isSome && 2 ^ 32 < pn) && !(w.bit 3 && old.bit 0 && w.bit 0 && pn < (s.saW c 4 r).toNat)))

/-- What a COMMIT leaves of SA_CTRL: reserved fields are ignored and read zero (R5, R175). -/
def saKept (w : Word) : Word := w &&& 0xFFFFFFFF00073F3F

/-- A COMMIT to the SA table lands (R175, R177). A SET_PN of 2^32 under a 32-bit suite leaves no PN: the SA is EXHAUSTED (R200). -/
def landSa (s : State) (c r : Nat) (img : List Word) : State :=
  let wi := winIdx c 7
  let w := saKept (img.getD 0 0)
  let old := s.saW c 2 r
  let fresh := !old.bit 0 && w.bit 0
  let keep := fun b => !fresh && old.bit b
  let s := s.setLatchedRow wi 2 r ((((w.setBit 3 false).setBit 16 false).setBit 17 (keep 17)).setBit 18 (keep 18))
  let s := (s.setLatchedRow wi 3 r (img.getD 1 0)).rowSet wi 5 r (img.getD 3 0)
  let s := if w.bit 3 then s.rowSet wi 4 r (img.getD 2 0) else s
  let s := if fresh then s.clearCtrs fun key => keyIdx key == wi && keyRow key == r else s
  let spent := w.bit 3 && (img.getD 2 0).toNat == 2 ^ 32 && ((s.slotKeyOf c r).map fun k => !k.xpn).getD false
  if spent then s.saFlag c r 18 else s

/-! ### Transmit (R181–R185, R207) -/

/-- `n` blocks drawn from the key-store DRBG. -/
def storeDraw (s : State) (n : Nat) : Bytes × State :=
  let x := drbgDraw (SMap.get 0 s.masks.drbg 16) n
  (x.1, { s with masks := { s.masks with drbg := SMap.set 0 s.masks.drbg 16 x.2 } })

/-- The cluster draws masks from its DRBG for one frame (R203, R204). DESIGN CHOICE (assumption 102): one block for each frame; the
spec does not say how many masks a frame takes. -/
def drawMasks (s : State) (c : Nat) : State :=
  { s with masks := { s.masks with drbg := SMap.set 0 s.masks.drbg c (drbgDraw (SMap.get 0 s.masks.drbg c) 1).2 } }

/-- A transmit frame reaches MACsec with its EtherType known: what becomes of it. -/
def secStage (s : State) (p : Nat) (f : TxFrame) (et : Nat) : TxFrame × State :=
  let c := p / 64
  let f := { f with secDone := true }
  match f.sec.plan with
  | .off => (f, s)
  | plan =>
    if plan = .clear ∨ bypassed f.sec.bypass et then
      ({ f with sec := { f.sec with plan := .clear } }, s.bumpPort p Pc.txMacsecUntagged)
    else if plan = .exhausted ∨ (plan = .protect ∧ ((s.saW c 2 f.sec.row).bit 18
        ∨ lastPn ((f.sec.img.map KeyImg.xpn).getD false) < s.nextPn c f.sec.row f.sec.gen)) then
      ({ f with bad := some .macsec }, s.bumpRow (winIdx c 7) 0xA f.sec.row 1)
    else if plan = .notInUse then ({ f with bad := some .macsec }, s.bumpPort p Pc.txSaNotInUse)
    else
      let t := s.takePn c f.sec.row f.sec.gen ((f.sec.img.map KeyImg.xpn).getD false)
      ({ f with sec := { f.sec with pn := some t.1 } }, t.2.drawMasks c)

/-- The end of a protected frame has reached MACsec: the row counters and TX_MACSEC_TOO_LONG (R184, R207). `len` is the
unprotected length with FCS. -/
def secCount (s : State) (p : Nat) (f : TxFrame) (len : Nat) : State :=
  if f.sec.plan ≠ .protect ∨ f.sec.pn = none then s
  else
    let w := winIdx (p / 64) 7
    let sec := len - 16
    let s := if f.sec.confOffset = 0 then (s.bumpRow w 6 f.sec.row 1).bumpRow w 8 f.sec.row sec
             else (s.bumpRow w 7 f.sec.row 1).bumpRow w 9 f.sec.row sec
    if s.regN (0x1000 + p) 7 < len + expansion f.sec then s.bumpPort p Pc.txMacsecTooLong else s

end State
end Sys2Proof.Machine
end

