-- ==== Sys2Proof/Machine/Transmit.lean ====
section
/-!
DEFINITION. The transmit MAC (R355–R401): grants, returned segments, the stages before the wire, assembling, the sill,
preemption, timestamps, stomps and the close.
-/
namespace Sys2Proof.Machine
namespace State

/-! ### Shares and grants (R298, R358) -/

/-- The AHEAD limit of a port, which is also its share of the transmit buffer (R298, R358). -/
def aheadLimit (s : State) (p : Nat) : Nat := max (2 * s.regN (0x1000 + p) 7) (s.portRate p / 10 ^ 9 * 50)

/-- The frames of a port that are granted and have neither left the wire nor been discarded. -/
def liveFrames (s : State) (p : Nat) : List TxFrame :=
  let q := s.portTxOf p
  q.frames ++ q.wire.toList ++ q.held.toList

/-- AHEAD (R298). -/
def ahead (s : State) (p : Nat) : Nat := ((s.liveFrames p).map (·.w)).sum

/-- The transmit side accepts frames (R358); a cluster that is not AWAKE gets no further grant (R545). -/
def txAccepts (s : State) (p : Nat) : Bool :=
  s.txSends p && (s.clp (p / 64)).night == .awake && ((s.liveFrames p).map (·.f)).sum + s.regN (0x1000 + p) 7 ≤ s.aheadLimit p

/-- The tags of the port's outstanding grants (R360). -/
def outTags (s : State) (p : Nat) : List Nat :=
  ((s.liveFrames p).filterMap fun f => if f.ended then none else f.tag) ++ (s.portTxOf p).tails.map (·.tag)

/-- The lowest tag that names no outstanding grant of the port. -/
def freeTag (s : State) (p : Nat) : Option Nat := (List.range 256).find? fun t => !(s.outTags p).contains t

/-- The DEVICE_ID of an inserted system tag, fixed at the grant (R389). -/
def sysDevice (s : State) (p : Nat) : Option Nat :=
  let d := s.regN 0x0100 3
  if s.regN (0x1000 + p) 0x20 = 1 ∧ d ≠ 0 ∧ d ≠ 0x3FFFF then some d else none

/-- A frame is granted or a DIRECT frame taken: it joins the port's frames in grant order. -/
def addFrame (s : State) (p : Nat) (f : TxFrame) : State := s.updPortTx p fun q => { q with frames := q.frames ++ [f] }

/-! ### The stages between grant and wire (R181, R371, R402, R420) -/

/-- The bytes of a frame without FCS, as far as they have been returned. -/
def TxFrame.plain (f : TxFrame) : Bytes :=
  patched (if f.ended then f.data.take (f.data.length - 4) else f.data.take (f.annLen - 4)) f.patches

/-- The tags of a transmit frame; the port's TPID_ALT and defaults apply. -/
def txTags (s : State) (p : Nat) (body : Bytes) : Tags :=
  parseTags body 12 (s.regN (0x1000 + p) 8) (s.regN (0x1000 + p) 9) (s.regN (0x1000 + p) 0x0A)

/-- A frame that no stage works on any more. -/
def TxFrame.dead (f : TxFrame) : Bool :=
  match f.bad with
  | none => false
  | some .relayed => f.endDone
  | some .returnFcs => f.endDone
  | some .bufferEcc => f.endDone
  | some .oversize => f.endDone
  | some _ => true

/-- A frame that ends GOOD at the calipers joins the bulk totals of its port, unless its class has a digest (R444). -/
def addBulk (s : State) (p tc len : Nat) : State :=
  if (s.shut p).digestClasses.testBit tc then s
  else s.updTwin fun t =>
    let b := SMap.get {} t.bulk p
    { t with bulk := SMap.set {} t.bulk p { b with frames := (b.frames + 1) % 2 ^ 48, octets := (b.octets + len) % 2 ^ 48 } }

/-- One frame moves on through the calipers and MACsec as far as its returned bytes allow. -/
def stageFrame (s : State) (p : Nat) (f : TxFrame) : TxFrame × State :=
  let c := p / 64
  if TxFrame.dead f then (f, s)
  else
    let body := TxFrame.plain f
    let tags := s.txTags p body
    let cal := if f.calDone then (f, s) else
      match s.calStage c { body, tags, complete := f.ended, localPort := p % 64, tx := true, cls := f.tc, rule := f.calPick.map (·.1)
                           age := f.calPick.elim 0 fun e => s.since e.2 } with
      | (.wait rule, s) => ({ f with calPick := f.calPick.or (rule.map fun k => (k, s.runTime)) }, s)
      | (.pass ps _, s) => ({ f with calDone := true, patches := f.patches ++ ps }, s)
      | (.drop, s) => ({ f with calDone := true, secDone := true, bad := some .caliper }, s)
    let f := cal.1
    let s := cal.2
    let sec := if f.calDone && !f.secDone && (f.ended || tags.etOff + 2 ≤ body.length)
      then s.secStage p f (tags.etype body) else (f, s)
    let f := sec.1
    let s := sec.2
    if f.ended && f.secDone && !f.endDone && f.bad ≠ some .caliper then
      let s := if f.bad.isNone || f.bad == some .macsec then (s.addDigest p f.tc f.cycle (TxFrame.plain f)).addBulk p f.tc f.f else s
      ({ f with endDone := true }, s.secCount p f f.data.length)
    else (f, s)

/-- The plain tap on a frame that has left the calipers (R472). -/
def tapPlain (s : State) (p : Nat) (f : TxFrame) (stamp : Word) : State :=
  if !f.calDone then s
  else
    let body := TxFrame.plain f
    let bad := f.bad == some .relayed || f.bad == some .returnFcs || f.bad == some .bufferEcc
    s.peepTap { port := p, tx := true, plain := true, cls := some f.tc, bytes := body ++ fcsOf body
                fin := if bad then .stomp else .good, stamp, age := if f.started then s.since f.at_ else 0 }

/-- A frame is discarded before it starts: its plain tap, with a free stamp since none was taken, the completion of its
descriptors, and the count of an in-band response that MACsec discards (R87, R472, R498). -/
def dropFrame (s : State) (p : Nat) (f : TxFrame) : State :=
  let s := if f.calDone && f.ended && f.bad != some .caliper then let w := s.freshWord; w.2.tapPlain p f w.1 else s
  let s := match f.origin with
    | some { ring := none, chain := _ } => if f.bad == some TxBad.macsec then s.bump 0x0200 0x13 else s
    | _ => s
  s.directDone f.origin resDISCARDED none

/-- Every frame of the port moves on, in grant order; a frame waits while one before it waits. Discarded frames whose end
has been returned leave AHEAD and the share (R299). -/
def stagePort (s : State) (p : Nat) : State :=
  let fs := (s.portTxOf p).frames
  let r := fs.foldl (fun (a : List TxFrame × State × Bool) f =>
    if a.2.2 then (a.1 ++ [f], a.2.1, true)
    else
      let x := a.2.1.stageFrame p f
      (a.1 ++ [x.1], x.2, !x.1.secDone && !TxFrame.dead x.1)) ([], s, false)
  let gone := fun (f : TxFrame) => f.bad.isSome && f.ended
  (r.1.filter gone).foldl (fun s f => s.dropFrame p f) (r.2.1.updPortTx p fun q => { q with frames := r.1.filter fun f => !gone f })

/-- A cause ends a frame that has not been counted under another (R371). -/
def markBad (f : TxFrame) (b : TxBad) : TxFrame := if f.bad.isSome then f else { f with bad := some b }

/-! ### Building what goes on the wire (R364, R366, R386, R389) -/

/-- The system tag of a frame (R389). -/
def txSysTag (f : TxFrame) (p : Nat) (dev : Nat) : Bytes :=
  let m := f.metaWord.toNat
  let g := fun lo n => (m >>> lo) % 2 ^ n
  if f.origin.isSome then sysTagBytes { version := 1, device := dev, port := p, cls := f.tc, hint := 0 }
  else if g 34 1 = 1 then sysTagBytes { version := 1, device := g 64 18, port := g 35 10, cls := g 45 3, hint := g 48 16 }
  else sysTagBytes { version := 1, device := dev, port := g 118 10, cls := f.tc, hint := g 48 16 }

/-- The frame as it goes on the wire without padding, timestamp and FCS: protected and tagged. -/
def TxFrame.tagged (f : TxFrame) (p : Nat) (plain : Bytes) : Bytes :=
  let total := if f.ended then f.data.length else f.annLen
  let prot := match f.sec.plan, f.sec.img, f.sec.pn with
    | .protect, some k, some pn => protect f.sec k pn (total - 16) plain f.ended
    | _, _, _ => plain
  match f.sysDev with
  | some d => insertAfterSa prot (txSysTag f p d)
  | none => prot

/-- The word-wise difference of two equal-length strings folded into a checksum (R386). -/
def csumWords (hc : Nat) (old new : Bytes) : Nat :=
  (List.range (old.length / 2)).foldl (fun h i => csumUpdate h (beAt old (2 * i) 2) (beAt new (2 * i) 2)) hc

/-- The two trailer bytes that keep a UDP checksum correct: the one's complement of an incremental update; a trailer at an
odd offset is swapped (R386). -/
def trailerFix (t : Nat) (odd : Bool) (old new : Bytes) : Nat :=
  let swap := fun x => x % 256 * 256 + x / 256
  let fold := fun x => let y := x % 65536 + x / 65536; y % 65536 + y / 65536
  let t := if odd then swap t else t
  let t := (List.range (old.length / 2)).foldl (fun t i => fold (t + beAt old (2 * i) 2 + (65535 - beAt new (2 * i) 2))) t
  if odd then swap t else t

/-- The one-step insertion at PTP message `m` of plaintext `bs` (R386); `none` where IPv6 gives no room. -/
def oneStep (bs : Bytes) (m : Ptp) (stamp : Nat) (trailer : Bool) : Option Bytes :=
  let ns := grainsToNs (stamp % 2 ^ 36)
  let corr := (beAt bs (m.off + 8) 8 + ns.2) % 2 ^ 64
  let time := beBytes 6 (stamp / 2 ^ 36) ++ beBytes 4 ns.1
  let out := overwrite (overwrite bs (m.off + 8) (beBytes 8 corr)) (m.off + 34) time
  let old := slice bs (m.off + 8) 8 ++ slice bs (m.off + 34) 10
  let new := slice out (m.off + 8) 8 ++ slice out (m.off + 34) 10
  if bs.length < m.off + 44 then none
  else match m.transport, m.udp with
    | 1, some (u, _) =>
      let hc := beAt bs (u + 6) 2
      if hc = 0 then some out
      else
        let r := csumWords hc old new
        some (overwrite out (u + 6) (beBytes 2 (if r = 0 then 0xFFFF else r)))
    | 2, some (u, stop) =>
      if trailer ∧ beAt bs (m.off + 2) 2 + 2 ≤ stop - (u + 8) then
        let t := stop - 2
        some (overwrite out t (beBytes 2 (trailerFix (beAt bs t 2) ((t - u) % 2 = 1) old new)))
      else none
    | _, _ => some out

/-- What TS_MODE asks of a frame (R385): nothing, an insertion, or a record with FALLBACK or not. -/
inductive TsAct
  | nothing
  | insert (body : Bytes)
  | record (m : Ptp) (fallback secured : Bool)

/-- A register of the port as the frame on the wire has it: the value at its start (R129). -/
def atStart (s : State) (f : TxFrame) (idx sub : Nat) : Word := s.regThen idx sub (s.since f.at_)

/-- R385 for a whole frame: `plain` before MACsec. -/
def tsAct (s : State) (p : Nat) (f : TxFrame) (plain : Bytes) : TsAct :=
  let i := 0x1C00 + p
  match parsePtp plain (s.txTags p plain) with
  | none => .nothing
  | some m =>
    let mode := (s.atStart f i 0x11).toNat
    if mode = 0 ∨ !(s.atStart f i 0x12).bit m.transport then .nothing
    else
      let sync := beAt plain m.off 1 % 16 = 0 ∧ !(byteAt plain (m.off + 6)).getLsbD 1
      let secured := f.sec.plan == .protect
      if mode = 2 ∧ sync then
        if secured then .record m true true
        else match oneStep plain m f.stamp ((s.atStart f i 0x14).bit 0) with
          | some b => .insert b
          | none => .record m true false
      else .record m false false

/-- A transmit timestamp record is queued, or lost on a full FIFO (R387, R388). -/
def pushRecord (s : State) (p : Nat) (plain : Bytes) (m : Ptp) (fallback : Bool) (stamp : Nat) : State :=
  let c := p / 64
  let q := s.clTx c
  if 256 ≤ q.stamps.length then (s.bump (clIdx c 7) 4).raiseOnce (clEvent c 17)
  else
    let w := Word.ofNat (2 ^ 63 + b2n fallback * 2 ^ 62 + m.transport * 2 ^ 60 + p * 2 ^ 48 + beAt plain m.off 1 % 16 * 2 ^ 44
      + beAt plain (m.off + 4) 1 * 2 ^ 36 + beAt plain (m.off + 30) 2 * 2 ^ 16 + beAt plain (m.off + 28) 2)
    let s := s.setClTx c { q with stamps := q.stamps ++ [(w, Word.ofNat stamp)] }
    (s.bumpPort p Pc.txTsRecord).fifoGrew (clEvent c 16) q.stamps.length

/-- A read of TX_TS_META (R388). -/
def readTsMeta (s : State) (c : Nat) : Word × State :=
  let q := s.clTx c
  match q.stamps with
  | [] => (0, s)
  | r :: rest => (r.1, s.setClTx c { q with stamps := rest, stampLatch := r.2 })

/-! ### The sill (R367–R369) -/

/-- The ceiling of the sill. -/
def sillCeiling (s : State) (p : Nat) : Nat := ceilDiv (s.regN (0x1000 + p) 7) 64

/-- A frame meets its sill. -/
def meetsSill (s : State) (p : Nat) (f : TxFrame) : Bool := f.ended || (s.portTxOf p).sill * 64 ≤ f.data.length

/-- The sill changes; the run of clean frames counts from 0 again. Where it reaches the ceiling, cause SILL_MAX is set (R357). -/
def setSill (s : State) (p v : Nat) : State :=
  let was := (s.portTxOf p).sill
  let ceil := s.sillCeiling p
  if was = v then s
  else
    let s := s.updPortTx p fun q => { q with sill := v, clean := 0 }
    if was < ceil ∧ ceil ≤ v then s.txCause p 2 else s

/-- TX_SILL_SET, then a new TX_SILL_FLOOR, land at a frame start (R369). -/
def sillAtStart (s : State) (p : Nat) : State :=
  let q := s.portTxOf p
  let s := match q.sillSet with | some v => (s.updPortTx p fun q => { q with sillSet := none }).setSill p (min v (s.sillCeiling p)) | none => s
  let floor := s.regN (0x1000 + p) 0x23
  let s := s.updPortTx p fun q => { q with floor }
  if floor ≠ q.floor ∧ (s.portTxOf p).sill < floor then s.setSill p floor else s

/-- A frame was sent without underrun: decay, under the TX_SILL_DECAY the frame started with (R129, R369). -/
def sillDecay (s : State) (p : Nat) (f : TxFrame) : State :=
  let k := (s.atStart f (0x1000 + p) 0x24).toNat
  let s := s.updPortTx p fun q => { q with clean := q.clean + 1 }
  let q := s.portTxOf p
  if k ≠ 0 ∧ 2 ^ k ≤ q.clean then
    let s := s.updPortTx p fun q => { q with clean := 0 }
    if q.floor < q.sill then s.setSill p (q.sill - 1) else s
  else s

/-! ### Starting, preempting, ending (R362, R365, R376, R377) -/

/-- A preemptable frame of the class may go on the wire: gate open, hold released, class not paused (R362, R378). -/
def preemptableMay (s : State) (p tc : Nat) : Bool := (s.wireGates p).testBit tc && !s.wireHold p && !s.classPaused p tc

/-- The frame is sent as preemptable (R372, R373). -/
def sentPreemptable (s : State) (p : Nat) (f : TxFrame) : Bool := s.preemptActive p && !s.classExpress p f.tc

/-- The frame is passed over (R362). -/
def passedOver (s : State) (p : Nat) (f : TxFrame) : Bool :=
  s.classPaused p f.tc || (s.sentPreemptable p f && (!s.preemptableMay p f.tc || s.preemptBusy p))

/-- The next frame of the port that may start, if it is ready and meets its sill (R362, R365). -/
def nextStart (s : State) (p : Nat) : Option TxFrame :=
  match (s.portTxOf p).frames.find? fun f => f.bad.isNone && !s.passedOver p f with
  | none => none
  | some f => if f.secDone && s.meetsSill p f then some f else none

/-- An express frame of the port meets its sill (R377). -/
def expressReady (s : State) (p : Nat) : Bool :=
  match s.nextStart p with | some f => !s.sentPreemptable p f | none => false

/-- A cause to end the fragment on the wire (R377). -/
def preemptCause (s : State) (p tc : Nat) : Bool :=
  s.expressReady p || !(s.portTxOf p).ctl.isEmpty || s.pfcDue p || !s.preemptableMay p tc

/-- The start delimiter and frag_count of the fragment a frame is in (R376). -/
def fragHead (f : TxFrame) : Nat × Option Nat :=
  if !f.preemptable then (0xD5, none)
  else if f.frag = 0 then (smdS f.num, none) else (smdC f.num, some (smdS ((f.frag - 1) % 4)))

/-- A fragment of a frame leaves: bytes from what has gone, then `tail`. -/
def sendFragment (s : State) (p : Nat) (f : TxFrame) (bytes tail : Bytes) : State :=
  let h := fragHead f
  let s := if f.preemptable then s.bumpPort p Pc.txPreemptFrag else s
  s.lanes p h.1 h.2 (bytes.drop f.gone ++ tail)

/-- What is still to come of a frame's grant (R33, R360). -/
def TxFrame.tail (f : TxFrame) : List TxTail :=
  match f.tag with
  | some tag => if f.ended then [] else [{ tag, annLen := f.annLen, got := f.data.length }]
  | none => []

/-- The frame on the wire has ended; if its grant is still outstanding, its segments are still taken. -/
def wireFree (s : State) (p : Nat) (f : TxFrame) : State :=
  ((s.updPortTx p fun q => { q with wire := none, tails := q.tails ++ TxFrame.tail f }).endOnLanes p).boundaryTx p

/-- An express frame leaves after the gate of the window it was admitted to has closed in the wire view; a frame that leaves
before that window opens does not (R344). -/
def overrunCheck (s : State) (p : Nat) (f : TxFrame) : State :=
  let shut := !(s.wireGates p).testBit f.tc || match f.closes with
    | some t => decide (t ≤ s.devTime) && !(s.gatesAt p t).testBit f.tc
    | none => false
  if f.express && !f.overrun && decide (f.launch ≤ s.devTime) && shut then (s.bumpPort p Pc.gateOverrun).shutCause p 4 else s

/-- A frame has left the wire as `bytes`, FCS included: the overrun check, the taps, and the completion of a TS_REQ chain (R344,
R472, R498). -/
def frameLeft (s : State) (p : Nat) (f : TxFrame) (bytes : Bytes) (fin : End) : State :=
  let st := Word.ofNat f.stamp
  let s := ((s.overrunCheck p f).tapPlain p f st).peepTap
    { port := p, tx := true, plain := false, cls := some f.tc, bytes, fin, stamp := st, age := s.since f.at_ }
  s.directDone f.origin (if fin = .good then resOK else resSTOMPED) (if fin = .good then some st else none)

/-- The inverted FCS ends a frame on the lanes after the bytes `body` (R370). -/
def stompLanes (s : State) (p : Nat) (f : TxFrame) (body : Bytes) : State :=
  ((s.bumpPort p Pc.txStompSent).sendFragment p f body (stompFcs body)).frameLeft p f (body ++ stompFcs body) .stomp

/-- A frame on the wire is stomped after the bytes `body`. -/
def stompWire (s : State) (p : Nat) (f : TxFrame) (body : Bytes) : State := (s.stompLanes p f body).wireFree p f

/-- The bytes of the frame that go on the wire, as far as they have been returned: no more than MAX_FRAME − 4, under the MAX_FRAME
it started with (R129, R366). -/
def wireBody (s : State) (p : Nat) (f : TxFrame) : Bytes :=
  (TxFrame.tagged f p (TxFrame.plain f)).take ((s.atStart f (0x1000 + p) 7).toNat - 4)

/-- The bytes of the frame that have left by now, behind the eight of preamble and delimiter. DESIGN CHOICE (assumption 27): the
spec does not say where in a frame a stomp at once falls; it falls here. -/
def sentSoFar (s : State) (p : Nat) (f : TxFrame) : Bytes := (s.wireBody p f).take (f.gone + (s.wireBytes p (s.since f.fragAt) - 8))

/-- The frame counts under the cause that acts first (R225, R370). -/
def countFirst (s : State) (p : Nat) (f : TxFrame) (slot : Nat) : State := if f.bad.isNone then s.bumpPort p slot else s

/-- The frame on the wire is longer than MAX_FRAME − 4 B (R366). -/
def oversized (s : State) (p : Nat) (f : TxFrame) : Bool :=
  decide ((s.atStart f (0x1000 + p) 7).toNat - 4 < (TxFrame.tagged f p (TxFrame.plain f)).length)

/-- The frame on the wire is cut at MAX_FRAME − 4, unless another cause has acted (R366, R370). -/
def cutOversize (s : State) (p : Nat) (f : TxFrame) : TxFrame × State :=
  if f.bad.isNone ∧ s.oversized p f then ({ f with bad := some .oversize }, (s.bumpPort p Pc.txOversize).txCause p 3) else (f, s)

/-- The timestamping of a frame that has left counts, and its record is made (R386, R387). -/
def tsLeft (s : State) (p : Nat) (f : TxFrame) (plain : Bytes) (act : TsAct) : State :=
  match act with
  | .insert _ => s.bumpPort p Pc.txOnestep
  | .record m fb secured =>
    (if secured then s.bumpPort p Pc.txOnestepSecured else if fb then s.bumpPort p Pc.txOnestepFallback else s).pushRecord p plain m fb f.stamp
  | .nothing => s

/-- The frame as it leaves, in the form that its timestamping gives it and padded (R366). -/
def wholeBody (p : Nat) (f : TxFrame) (plain : Bytes) (act : TsAct) : Bytes :=
  padTo 60 (TxFrame.tagged f p (match act with | .insert b => b | _ => plain))

/-- A frame that nothing spoils is sent to its end (R366). -/
def sendWhole (s : State) (p : Nat) (f : TxFrame) : State :=
  let plain := TxFrame.plain f
  let act := s.tsAct p f plain
  let body := wholeBody p f plain act
  let short := (TxFrame.tagged f p (match act with | .insert b => b | _ => plain)).length < 60
  let s := (if short then s.bumpPort p Pc.txPadded else s).countSent p body
  let s := (s.sendFragment p f body (fcsOf body)).tsLeft p f plain act
  ((s.frameLeft p f (body ++ fcsOf body) .good).sillDecay p f).wireFree p f

/-- The frame on the wire is sent to its end (R366, R370, R386, R387). -/
def finishFrame (s : State) (p : Nat) (f : TxFrame) : State :=
  let cut := s.cutOversize p f
  if cut.1.bad.isSome then cut.2.stompWire p cut.1 (cut.2.wireBody p cut.1) else cut.2.sendWhole p cut.1

/-! ### Losing frames (R392, R394–R396, R202) -/

/-- Every frame granted and not started, and a held frame, is discarded under counter `slot`. A frame whose end segment is still
to come stays in AHEAD and the share until it is discarded too (R299). -/
def discardFrames (s : State) (p slot : Nat) : State :=
  let q := s.portTxOf p
  let all := q.frames ++ q.held.toList
  let marked := all.map fun f => markBad f .discarded
  let s := (s.setPortTx p { q with frames := marked.filter fun f => !f.ended, held := none }).bumpPort p slot (all.filter (·.bad.isNone)).length
  ((marked.filter (·.ended)).foldl (fun s f => s.dropFrame p f) s).landLate p

/-- LINK_STATE leaves UP (R374, R392). No control frame that waits can leave. -/
def txLinkDown (s : State) (p : Nat) : State := ((s.discardFrames p Pc.txLinkDiscard).verifyStop p).dropCtl p

/-- The port enters CLOSING (R394): no control frame follows, and the DIRECT frames waiting have no port to go to. -/
def txClose (s : State) (p : Nat) : State :=
  let s := ((s.dropCtl p).discardFrames p Pc.txCloseDiscard).verifyStop p
  let waiting := (s.portTxOf p).inject
  let s := s.updPortTx p fun q => { q with inject := [] }
  waiting.foldl (fun s f => if f.origin.ring.isNone then s.bump 0x0200 0x13
    else s.directDone (some f.origin) resDISCARDED none) s

/-- Every outstanding grant is abandoned (R395): TX_RETURN_LOST and its cause; W and F of each are released, and its segments are
orphans from now on. A frame on the wire goes on to where its bytes end. -/
def txAbandon (s : State) (p : Nat) : State :=
  let n := (s.outTags p).length
  let s := s.updPortTx p fun q => { q with
    frames := q.frames.filter (·.ended), held := q.held.filter (·.ended), tails := []
    wire := q.wire.map fun f => if f.ended then f else { f with tag := none, f := 0, w := 0 } }
  if n = 0 then s else ((s.bumpPort p Pc.txReturnLost n).txCause p 7).landLate p

/-- A frame on the wire is stomped at once, for a cause that counts under `slot`; with `pad` zero bytes first bring what has gone
up to 60 B (R202, R396, R46). -/
def cutWire (s : State) (p slot : Nat) (f : TxFrame) (pad : Bool) : State :=
  let sent := s.sentSoFar p f
  (s.countFirst p f slot).stompWire p f (if pad then padTo 60 sent else sent)

/-- A reset takes the port through CLOSED: the frame on the wire is stomped, then every grant is abandoned (R396). -/
def txReset (s : State) (p : Nat) : State :=
  let s := s.dropCtl p
  let s := match (s.portTxOf p).wire with
    | some f => s.cutWire p Pc.txCloseDiscard f false
    | none => s
  let s := (s.txClose p).txAbandon p
  s.updPortTx p fun q => { q with frames := [], cause := 0 }

/-- The transmit side is done: no grant outstanding and the lanes idle (R395). -/
def txDone (s : State) (p : Nat) : Bool := (s.outTags p).isEmpty && (s.portTxOf p).wire.isNone && (s.portTxOf p).held.isNone

/-- A held frame whose key is gone ends with a continuation that carries the inverted FCS and no more data. -/
def stompHeld (s : State) (p : Nat) (f : TxFrame) : State :=
  (s.updPortTx p fun q => { q with held := none }).stompWire p f ((s.wireBody p f).take f.gone)

/-- Key slots are erased: every transmit frame in flight that latched one is discarded before its start, or ended (R202, R371). A
held frame ends as soon as the wire is free. -/
def txKeyErase (s : State) (p : Nat) (hit : Nat → Bool) : State :=
  let uses := fun (f : TxFrame) => f.sec.plan == .protect && hit f.sec.row
  let q := s.portTxOf p
  let n := ((q.frames ++ q.held.toList).filter fun f => uses f && f.bad.isNone).length
  let mark := fun (f : TxFrame) => if uses f then markBad f .keyErase else f
  let marked := q.frames.map mark
  let gone := fun (f : TxFrame) => f.bad == some .keyErase && f.ended
  let s := s.setPortTx p { q with frames := marked.filter fun f => !gone f, held := q.held.map mark }
  let s := s.bumpPort p Pc.txKeyEraseStomp n
  let s := (marked.filter gone).foldl (fun s f => s.dropFrame p f) s
  let s := match (s.portTxOf p).wire with
    | some f => if uses f then s.cutWire p Pc.txKeyEraseStomp f true else s
    | none => s
  match (s.portTxOf p).wire, (s.portTxOf p).held with
  | none, some f => if f.bad = some .keyErase then s.stompHeld p f else s
  | _, _ => s

end State

/-! ### Grants -/

/-- A DIRECT frame may be offered: of the in-band responses only the one whose request is oldest, and none while another is on its
way, since they leave in the order of their requests (R87). -/
def State.injectReady (s : State) (p : Nat) (f : InjFrame) : Bool :=
  f.origin.ring.isSome
    || (((s.portTxOf p).inject.find? fun g => g.origin.ring.isNone) == some f
      && (s.liveFrames p).all fun g => match g.origin with | some o => o.ring.isSome | none => true)

/-- One head frame of class `n` is offered to the shutters and, when it may start, granted; `none` where the class gives
nothing now. A DIRECT frame goes first (R300). -/
def State.tryClass (s : State) (c l n : Nat) : Option State × State :=
  let p := 64 * c + l
  let sec := s.secPlan p
  let dev := s.sysDevice p
  let t := if dev.isSome then 12 else 0
  let launch := s.devTime + 2 ^ 14
  let closes := s.closeAfter p n launch
  match (s.portTxOf p).inject.find? fun f => f.tc == n && s.injectReady p f with
  | some d =>
    let x := s.charged p (d.bytes.length + 4) t (expansion sec)
    let r := s.fit p n x.2.1
    let s := r.2
    let f : TxFrame := { tc := n, origin := some d.origin, annLen := d.bytes.length + 4, f := x.1, w := x.2.1, sec, sysDev := dev, launch, closes, ended := true,
                         data := d.bytes ++ fcsOf d.bytes, express := s.shutExpress p n }
    let gone := s.updPortTx p fun q => { q with inject := q.inject.erase d }
    (match r.1 with
    | .closed => (none, s)
    | .drop => (some ((gone.settleClass c l n).directDone (some d.origin) resDISCARDED none), s)
    | .start cyc ov => (some (((gone.settleClass c l n).addFrame p { f with cycle := cyc, overrun := ov }).stagePort p), s))
  | none =>
    match s.classHead c l n, s.freeTag p with
    | some leaf, some tag =>
      let len := (s.sch c leaf).headLen
      let x := s.charged p len t (expansion sec)
      let r := s.fit p n x.2.1
      let s := r.2
      let f : TxFrame := { tag := some tag, tc := n, annLen := len, f := x.1, w := x.2.1, sec, sysDev := dev, launch, closes, express := s.shutExpress p n }
      let granted := fun f => (((s.chargeGrant c l n leaf x.2.2).addFrame p f).emit (.grant c leaf p tag))
      (match r.1 with
      | .closed => (none, s)
      | .drop => (some (granted { f with bad := some .neverFits }), s)
      | .start cyc ov => (some (granted { f with cycle := cyc, overrun := ov }), s))
    | _, _ => (none, s)

/-- One grant slot is offered to a port: its classes in order (R300). -/
def State.tryPort (s : State) (c l : Nat) : Option State × State :=
  let p := 64 * c + l
  if !s.txAccepts p || (s.sch c (portKey l)).grp == 2 || s.aheadLimit p ≤ s.ahead p then (none, s)
  else (s.classOrder c l).foldl (fun a n => match a.1 with
    | some _ => a
    | none => a.2.tryClass c l n) (none, s)

/-- One grant slot, round robin from the port after `lastPort`; `counts` holds the grants of this cycle by local port. -/
def State.grantSlot (s : State) (c : Nat) (counts : List Nat) : Option (Nat × State) × State :=
  let start := (s.clTx c).lastPort
  let r := (List.range 64).foldl (fun (a : Option (Nat × State) × State) i => match a.1 with
    | some _ => a
    | none =>
      let l := (start + 1 + i) % 64
      if 4 ≤ counts.count l then a
      else match a.2.tryPort c l with
        | (some s', _) => (some (l, s'.updClTx c fun q => { q with lastPort := l }), s')
        | (none, s') => (none, s')) (none, s)
  r

/-- One more grant slot, on what the last left; `none` once a slot found no grant. -/
def State.grantNext (c : Nat) (a : Option (List Nat) × State) : Option (List Nat) × State :=
  match a.1 with
  | none => a
  | some counts =>
    let x := a.2.grantSlot c counts
    match x.1 with
    | some y => (some (y.1 :: counts), y.2)
    | none => (none, x.2)

/-- The 16 grant slots of one CLK_DP cycle (R302). -/
def State.grantCycle (s : State) (c : Nat) : State := ((List.range 16).foldl (fun a _ => State.grantNext c a) (some [], s)).2

/-- One CLK_DP cycle of the scheduler of cluster `c` (R298). `upsets`: table and row of uncorrectable errors found in the
rows read (R319). -/
def dequeueGrantRes (dt c : Nat) (upsets : List (Nat × Nat)) (s : State) : Res :=
  let s := s.elapse dt
  if !s.queueRuns c then .next s
  else
    let s := upsets.foldl (fun s u => s.schedEcc c u.1 u.2) s
    let s := (List.range 64).foldl (fun s l => s.settlePort (64 * c + l)) s
    .next (s.grantCycle c)

/-! ### Returned segments -/

/-- A held segment of the frame has an uncorrectable error (R400). -/
def State.bufferEcc (s : State) (p : Nat) (f : TxFrame) : State :=
  ((s.countFirst p f Pc.txBufEccStomp).bump (clIdx (p / 64) 7) 5).raiseOnce (State.clEvent (p / 64) 18)

/-- The end segment of a grant has come: the returned length is held against the announced one (R33). -/
def State.lengthCheck (s : State) (p annLen len : Nat) : State :=
  if len ≠ annLen then (s.bumpPort p Pc.headLenMismatch).txCause p 1 else s

/-- A returned segment is added to the frame of its grant; where the wire had already cut the frame, it counts as oversize; at the
end segment the frame is checked (R33, R361, R400). -/
def State.addSegment (s : State) (p : Nat) (f : TxFrame) (seg : Segment) (ecc : Bool) : TxFrame × State :=
  let cut := if f.started && decide ((s.wireBody p f).length ≤ (s.sentSoFar p f).length) then s.cutOversize p f else (f, s)
  let f := { cut.1 with data := f.data ++ seg.data, ended := seg.eof, metaWord := if seg.sof then seg.metaWord else f.metaWord }
  let s := if ecc then cut.2.bufferEcc p f else cut.2
  let f := if ecc then State.markBad f .bufferEcc else f
  if !seg.eof then (f, s)
  else
    let s := s.lengthCheck p f.annLen f.data.length
    if f.bad.isSome then (f, s)
    else if seg.fin ≠ .good then ({ f with bad := some .relayed }, (s.bumpPort p Pc.txStompRelayed).txCause p 4)
    else if f.data.drop (f.data.length - 4) ≠ fcsOf (f.data.take (f.data.length - 4)) then
      ({ f with bad := some .returnFcs }, (s.bumpPort p Pc.txReturnFcsErr).txCause p 4)
    else (f, s)

/-- Errors found in caliper rows that the transmit stage reads (R424). -/
def State.calUpsets (s : State) (c : Nat) (ups : List Upset) : State :=
  ups.foldl (fun s u => match u.mem with
    | .context => s.calEcc c false (u.row % 256)
    | .rule => s.calEcc c true (u.row % 256)
    | _ => s) s

/-- A returned segment with its tag (R360). `ecc`: it holds an uncorrectable error (R400). `upsets`: errors in the caliper rows
that its frame's stage reads. -/
def returnedSegmentRes (dt tag : Nat) (seg : Segment) (ecc : Bool) (upsets : List Upset) (s : State) : Res :=
  let s := s.elapse dt
  let p := seg.port
  if !s.txRuns p then .next s
  else
    let s := s.calUpsets (p / 64) upsets
    let q := s.portTxOf p
    let mine := fun (f : TxFrame) => f.tag == some tag && !f.ended
    if q.frames.any mine then
      let r := q.frames.foldl (fun (a : List TxFrame × State) f =>
        if mine f then let x := a.2.addSegment p f seg ecc; (a.1 ++ [x.1], x.2) else (a.1 ++ [f], a.2)) ([], s)
      .next ((r.2.updPortTx p fun q => { q with frames := r.1 }).stagePort p)
    else match q.wire, q.held with
      | some f, _ =>
        if mine f then
          let x := s.addSegment p f seg ecc
          let y := x.2.stageFrame p x.1
          .next (y.2.updPortTx p fun q => { q with wire := some y.1 })
        else rest s q
      | none, some f =>
        if mine f then
          let x := s.addSegment p f seg ecc
          let y := x.2.stageFrame p x.1
          .next (y.2.updPortTx p fun q => { q with held := some y.1 })
        else rest s q
      | none, none => rest s q
where
  /-- A segment of a frame that has already left, of a held frame behind another, or an orphan. -/
  rest (s : State) (q : PortTx) : Res :=
    let p := seg.port
    match q.held with
    | some f =>
      if f.tag == some tag && !f.ended then
        let x := s.addSegment p f seg ecc
        let y := x.2.stageFrame p x.1
        .next (y.2.updPortTx p fun q => { q with held := some y.1 })
      else tailOrOrphan s q
    | none => tailOrOrphan s q
  /-- A segment of a frame that has left the wire, or an orphan (R360). -/
  tailOrOrphan (s : State) (q : PortTx) : Res :=
    match q.tails.find? fun t => t.tag == tag with
    | none => .next (s.bumpPort seg.port Pc.txReturnOrphan)
    | some t =>
      let got := t.got + seg.data.length
      let others := q.tails.filter fun u => u.tag != tag
      if seg.eof then .next ((s.updPortTx seg.port fun q => { q with tails := others }).lengthCheck seg.port t.annLen got)
      else .next (s.updPortTx seg.port fun q => { q with tails := { t with got } :: others })

/-! ### On the wire -/

/-- The next frame of the port starts (R365), a control frame that is due ahead of it (R382): the sill writes land, the stamp is
fixed, a preemptable frame takes its number. -/
def execTxFrameStart (dt p : Nat) (s : State) : Res :=
  let s := (s.elapse dt).settlePfc p
  if !s.txSends p || (s.portTxOf p).wire.isSome || !s.gapOk p then .next s
  else match s.nextStart p with
    | none => .next s
    | some f =>
      let pre := s.sentPreemptable p f
      let stamp := s.txStamp p
      let q := s.portTxOf p
      let now_ := s.runTime
      let g := { f with started := true, preemptable := pre, stamp, num := q.nextNum, at_ := now_, fragAt := now_ }
      let s := s.setPortTx p { q with frames := q.frames.erase f, wire := some g, nextNum := if pre then (q.nextNum + 1) % 4 else q.nextNum
                                      deficit := State.deficitAfter q.deficit (s.gapNow p) }
      .next ((s.sillAtStart p).landFcLate p 0)

/-- The next byte of the frame on the wire has not been returned (R368). -/
def execUnderrun (dt p : Nat) (s : State) : Res :=
  let s := s.elapse dt
  match (s.portTxOf p).wire with
  | none => .next s
  | some f =>
    if f.ended || s.oversized p f || !s.txRuns p then .next s
    else
      let s := (s.countFirst p f Pc.txUnderrun).txCause p 0
      let ceil := s.sillCeiling p
      let was := (s.portTxOf p).sill
      let s := s.setSill p (if was < ceil then was + 1 else was)
      let s := s.updPortTx p fun q => { q with clean := 0 }
      .next (s.stompWire p f (s.wireBody p f))

/-- The last byte of the frame on the wire leaves (R366, R387): the frame is whole, or has been cut at MAX_FRAME. `ecc`: a segment of
it had an uncorrectable error as the wire read it (R400). -/
def txFrameDoneRes (dt p : Nat) (ecc : Bool) (s : State) : Res :=
  let s := s.elapse dt
  match (s.portTxOf p).wire with
  | none => .next s
  | some f =>
    if !(f.ended && f.endDone || s.oversized p f) || !s.txRuns p then .next s
    else if ecc then .next ((s.bufferEcc p f).finishFrame p (State.markBad f .bufferEcc))
    else .next (s.finishFrame p f)

/-- The fragment on the wire ends after data byte `gone` with its mCRC, where R376 allows and R377 asks. -/
def execPreemption (dt p gone : Nat) (s : State) : Res :=
  let s := s.elapse dt
  match (s.portTxOf p).wire with
  | none => .next s
  | some f =>
    let body := State.TxFrame.tagged f p (State.TxFrame.plain f)
    let total := if f.ended then body.length else max body.length (f.f - 4)
    if !f.preemptable || !s.preemptCause p f.tc || gone < f.gone + 60 || total < gone + 60 || body.length < gone || !s.txRuns p then .next s
    else
      let byGate := !(s.wireGates p).testBit f.tc || s.wireHold p
      let s := s.bumpPort p Pc.txPreemptions
      let s := if byGate then s.bumpPort p Pc.preemptAtClose else s
      let sent := body.take gone
      let s := s.sendFragment p f sent (mcrcOf sent)
      let s := (s.updPortTx p fun q => { q with wire := none, held := some { f with gone, frag := f.frag + 1 } }).endOnLanes p
      if s.txSends p then .next (s.boundaryTx p)
      else .next (s.discardFrames p (if (s.port p).st = .opened then Pc.txLinkDiscard else Pc.txCloseDiscard))

/-- Every cause has ended: the held frame resumes with a continuation (R377, R378). -/
def execContinuationResume (dt p : Nat) (s : State) : Res :=
  let s := s.elapse dt
  let q := s.portTxOf p
  match q.held with
  | none => .next s
  | some f =>
    if q.wire.isSome || !s.txSends p || !s.gapOk p then .next s
    else if f.bad = some .keyErase then .next (s.stompHeld p f)
    else if s.preemptCause p f.tc then .next s
    else
      let now_ := s.runTime
      .next (s.setPortTx p { q with wire := some { f with fragAt := now_ }, held := none, deficit := State.deficitAfter q.deficit (s.gapNow p) })

/-- Grants are still outstanding 2^26 gr after CLOSING began (R395). -/
def execReturnLostTimeout (dt p : Nat) (s : State) : Res :=
  let s := s.elapse dt
  let n := (s.outTags p).length
  let cl := s.clp (p / 64)
  let due := ((s.port p).st = .closing ∧ 2 ^ 26 ≤ s.since (s.port p).closingAt)
    ∨ (cl.night = .entering ∧ 2 ^ 26 ≤ s.since cl.enteringAt)
  if !due ∨ n = 0 then .next s
  else .next (s.txAbandon p)

end Sys2Proof.Machine
end

