-- ==== Sys2Proof/Machine/Swing.lean ====
section
/-!
DEFINITION. Roles, health and the swing (R427–R430, R448, R450, R451, R46): what a role drives, when a fault or a
disagreement demotes.
-/
namespace Sys2Proof.Machine

/-- The stepping's code (R1, R2). -/
def stepping : Nat := [0x20, 0x30, 0x31].getD Config.steppingSel.val 0

/-- HINGE_VERSIONS and BDP_VERSIONS: bit v − 1 for version v (R1, R65, R67). -/
def hingeVersions : Nat := [0x01, 0x03, 0x07].getD Config.steppingSel.val 0
def bdpVersions : Nat := [0x01, 0x03, 0x03].getD Config.steppingSel.val 0

/-- The highest version in a set (R3); 0 for none. -/
def topVersion (vs : Nat) : Nat := (List.range 8).foldl (fun m v => if vs.testBit v then v + 1 else m) 0

namespace State

/-! ### Health (R448) -/

/-- The faults of R450: 0 KEY_ALARM, 1 PAIRED_FAULT, 2 SELFTEST_FAULT, 3 ECC_FAULT, 4 POWER_FAULT, 5 TIME_UNSET. -/
def faults (s : State) : Nat :=
  let t := s.twin
  let within_ := match t.eccAt with | some a => decide (s.since a ≤ s.regN 0x0500 0x0D) | none => false
  b2n (s.keys.alarm ≠ 0 || s.keys.latch ≠ 0) + 2 * b2n t.pairedFault + 4 * b2n t.selftestFault + 8 * b2n within_
    + 16 * b2n (s.power.doms.any fun e => e.2.held) + 32 * b2n (s.time.st == .unset)

/-- The health word now. -/
def healthNow (s : State) : Word :=
  let t := s.twin
  let f := s.faults
  let disagree := match t.disagreeAt with | some a => decide (s.since a ≤ s.regN 0x0500 0x0D) | none => false
  Word.ofNat (2 ^ 60 + t.role.code * 2 ^ 57 + b2n (f ≠ 0) * 2 ^ 56
    + b2n (f.testBit 0) * 2 ^ 55 + b2n (f.testBit 1) * 2 ^ 54 + b2n (f.testBit 2) * 2 ^ 53 + b2n (f.testBit 3) * 2 ^ 52
    + b2n (f.testBit 4) * 2 ^ 51 + b2n (f.testBit 5) * 2 ^ 50 + b2n (s.keys.latch ≠ 0) * 2 ^ 49
    + b2n (s.keys.trng == .failed) * 2 ^ 48 + b2n (t.spares ≠ 0x1FFFF) * 2 ^ 47 + b2n t.misaligned * 2 ^ 46
    + b2n (s.time.st == .holdover) * 2 ^ 45 + b2n s.keys.adopted * 2 ^ 44 + b2n (s.pathUp false) * 2 ^ 43
    + b2n (s.pathUp true) * 2 ^ 42 + b2n t.slow * 2 ^ 41 + b2n t.diverged * 2 ^ 40 + b2n t.lost * 2 ^ 39
    + b2n disagree * 2 ^ 38 + s.hingeVersion * 2 ^ 24 + stepping * 2 ^ 16 + s.time.ticks.toNat % 2 ^ 16)

/-- The peer's valid health word: received within the last two ticks, the peer not lost (R434). -/
def peerWord (s : State) : Option Word :=
  match s.twin.peerHealthTick with
  | some k => if (s.time.ticks - k).toNat ≤ 2 ∧ !s.twin.peerLost then some s.twin.peerHealth else none
  | none => none

/-- ROLE and FAULT of a health word. -/
def wordRole (w : Word) : Nat := w.bits 57 3
def wordFault (w : Word) : Bool := w.bit 56

/-! ### Roles (R427–R429) -/

/-- The complex takes a role: the swing signals follow it, but a release goes on until sel_mine falls (R46); event 0x840 is raised, and entries to ACTIVE from a shadow role
and to DEMOTED are counted (R427, R429, R436, R452). -/
def setRole (s : State) (r : Role) : State :=
  let old := s.twin.role
  if r = old then s
  else
    let s := s.updTwin fun t => { t with role := r, alive := t.alive && r == .active,
                                         release := r == .demoted || (t.release && t.selMine && r != .active),
                                         request := t.request && (r == .standby || r == .orphan) }
    let s := if r = .active ∧ (old = .standby ∨ old = .orphan) then s.bump 0x0500 0x2B else s
    let s := if r = .demoted then s.bump 0x0500 0x2C else s
    s.raise 0x840

/-- The complex is in step (R428). -/
def inStep (s : State) : Bool :=
  let t := s.twin
  (s.pathUp false || s.pathUp true) && wordRole t.peerHealth == Role.active.code && t.marked && !t.diverged && !t.lost
    && t.resync == .idle

/-- ORPHAN and STANDBY follow whether the complex is in step (R429); a STANDBY that requests the lanes for a lost peer stays one
until it withdraws (R453). -/
def settleStep (s : State) : State :=
  match s.twin.role with
  | .orphan => if s.inStep then s.setRole .standby else s
  | .standby => if s.inStep || (s.twin.request && s.twin.peerLost) then s else s.setRole .orphan
  | _ => s

/-- A port gives its lanes away: it presents idle from here on. -/
def portSilent (s : State) (p : Nat) : State := (s.updPortTx p fun q => { q with ownPcs := false }).settleSignal p

/-- A port releases its lanes: a frame in transmission is stomped and counted in SWING_STOMP unless another cause has acted on it
(R46, R225), and what waits behind it leaves unseen. -/
def releasePort (s : State) (p : Nat) : State :=
  match (s.portTxOf p).wire with
  | some f => (((s.countFirst p f Pc.swingStomp).stompLanes p f (s.sentSoFar p f)).portSilent p).wireFree p f
  | none => s.portSilent p

/-- The lanes are given away (R46). -/
def swingRelease (s : State) : State :=
  let s := (s.portTx.map (·.1)).foldl (fun s p => s.releasePort p) s
  s.updTwin fun t => { t with alive := false, release := true }

/-- A demotion decision (R429, R46, R451): DEMOTING is sent first; an ACTIVE complex releases the lanes. -/
def demote (s : State) : State :=
  match s.twin.role with
  | .active => ((s.hingeSend .demoting).swingRelease).setRole .demoted
  | .standby => (s.hingeSend .demoting).setRole .demoted
  | .orphan => (s.hingeSend .demoting).setRole .demoted
  | _ => s

/-! ### Faults (R226, R450) and disagreement (R451) -/

/-- DEMOTE_ON_FAULT; bit 0 always reads 1. -/
def demoteMask (s : State) : Nat := s.regN 0x0500 0x0C ||| 1

/-- Faults that have arisen since the last look act on the role (R226, R450). -/
def settleFaults (s : State) : State :=
  let t := s.twin
  let now_ := s.faults
  let fresh := ((now_ &&& (now_ ^^^ (now_ &&& t.faultSeen))) ||| (if t.eccNew then 8 else 0) ||| (if t.alarmNew then 1 else 0)) &&& s.demoteMask
  let s := s.updTwin fun t => { t with faultSeen := now_, eccNew := false, alarmNew := false }
  if fresh = 0 then s
  else match t.role with
    | .active =>
      let peerReady := match s.peerWord with | some w => wordRole w == Role.standby.code && !wordFault w | none => false
      if fresh.testBit 0 || peerReady then s.demote else s
    | .standby => s.demote
    | .orphan => s.demote
    | _ => s

/-- MISMATCH_CAPTURE takes a mismatch unless it holds one (R443). -/
def mismatchCapture (s : State) (kind p n : Nat) : State :=
  if s.twin.mismatch.bit 63 then s
  else s.updTwin fun t => { t with mismatch := Word.ofNat (2 ^ 63 + kind * 2 ^ 60 + p % 1024 * 2 ^ 48 + n % 2 ^ 48) }

/-- R451 at a mismatch: own and peer health decide. The table's Own FAULT is the ACTIVE side's, as its worked example
reads it; a faulty shadow is DEMOTED. -/
def disagree (s : State) : State :=
  let now_ := s.runTime
  let s := s.updTwin fun t => { t with disagreeAt := some now_ }
  let own := s.faults ≠ 0
  let peerFine := s.peerWord.map wordFault == some false
  match s.twin.role with
  | .active => if own then (if peerFine then s.demote else s)
               else if peerFine then (s.bump 0x0500 0x25).raiseOnce 0x848 else s
  | .standby => if own then s.demote else if peerFine then s.bump 0x0500 0x25 else s
  | .orphan => if own then s.demote else if peerFine then s.bump 0x0500 0x25 else s
  | _ => s

/-- A mismatch of one kind: counter, capture, event, then R451. Kinds: 1 express, 2 bulk, 3 PN. -/
def mismatch (s : State) (kind p n : Nat) : State :=
  (((s.bump 0x0500 (0x20 + kind)).mismatchCapture kind p n).raiseOnce (0x844 + kind)).disagree

end State

/-- The outcome with arisen faults acted on. -/
def settled (r : Res) : Res :=
  match r with
  | .next s => .next s.settleFaults
  | o => o

end Sys2Proof.Machine
end

