-- ==== Sys2Proof/Machine/Keys.lean ====
section
/-!
DEFINITION. The key store, the tamper sensors and the entropy source (R210–R229). Identity and attestation stand in Attest.
-/
namespace Sys2Proof.Machine

/-- The payload bytes of a key image's KEY_DATA words (R211). -/
def keyPayload (img : List Word) : Bytes := ((img.drop 1).take 7).flatMap fun w => leBytes 8 w.toNat

/-- OP, WRAPPED and SUITE of KEY_CTRL. -/
def keyOp (img : List Word) : Nat := (img.getD 0 0).bits 8 2
def keyWrapped (img : List Word) : Bool := (img.getD 0 0).bit 4
def keySuite (img : List Word) : Nat := (img.getD 0 0).bits 0 2

/-- The 48-byte image of R212 as a key, where every byte that must be zero is zero. A common slot takes SUITE 0 and 1 and
no salt (R219). -/
def imageKey (suite : Nat) (common : Bool) (im : Bytes) : Option KeyImg :=
  let zero := fun o n => (slice im o n).all (· == 0)
  let long := suite % 2 = 1
  if im.length ≠ 48 ∨ !zero 44 4 ∨ (!long ∧ !zero 16 16) ∨ (suite < 2 ∧ !zero 32 12) ∨ (common ∧ 2 ≤ suite) then none
  else some { suite := suite + 1, key := im.take (if long then 32 else 16), salt := slice im 32 12 }

/-- The 48-byte image of a key (R212). -/
def keyImage (k : KeyImg) : Bytes := padTo 32 k.key ++ padTo 12 k.salt ++ [0, 0, 0, 0]

/-- The 48-byte image a LOAD carries, unwrapped under the KEK where WRAPPED is 1; `none`: the unwrap failed (R212). -/
def loadImage (kek : Option KeyImg) (img : List Word) : Option Bytes :=
  let pay := keyPayload img
  if keyWrapped img then kek.bind fun k => kwUnwrap k.key pay
  else if (pay.drop 48).all (· == 0) then some (pay.take 48) else some []

/-- What a commit to a key slot answers (R212, R219, R223): an ERASE, a LOAD with its key, or a refusal with RANGE; the flag
says that an unwrap failed. -/
inductive KeyAct
  | erase
  | load (k : KeyImg)
  | refuse (wrapFail : Bool)

/-- The commit takes effect. -/
def KeyAct.takes : KeyAct → Bool
  | .refuse _ => false
  | _ => true

/-- The checks of a key commit under a TAMPER_LATCH and a KEK, which count when `live`. -/
def keyActWith (latch : Nat) (kek : Option KeyImg) (common : Bool) (img : List Word) (live : Bool) : KeyAct :=
  if !within 0x313 (img.getD 0 0).toNat || 2 ≤ keyOp img then .refuse false
  else if keyOp img = 1 then (if live && common && latch ≠ 0 then .refuse false else .erase)
  else if live && latch ≠ 0 then .refuse false
  else if !live && keyWrapped img then .erase
  else match loadImage kek img with
    | none => .refuse true
    | some im => match imageKey (keySuite img) common im with
      | some k => .load k
      | none => .refuse false

namespace State

/-- The key of common slot `n`. -/
def commonKey (s : State) (n : Nat) : Option KeyImg := SMap.get none s.keys.common n
def updKeys (s : State) (f : KeyUnit → KeyUnit) : State := { s with keys := f s.keys }

/-- The checks of a key commit; those on TAMPER_LATCH and the KEK count when `live`. -/
def keyAct (s : State) (common : Bool) (img : List Word) (live : Bool) : KeyAct :=
  keyActWith s.keys.latch (s.commonKey 2) common img live

/-- A failed unwrap: WRAP_FAIL and event 0x834 (R212). -/
def wrapFailed (s : State) : State := (s.bump 0x0600 0xD).raise 0x834

/-! ### Landings (R214, R215, R219) -/

/-- The generation of a slot moves (R210). -/
def moveGen (q : KeySlot) : KeySlot := { q with gen := (q.gen + 1) % 256 }

/-- The generation that slot `r` now has given no PN (R183). -/
def freshPns (s : State) (c r : Nat) : State :=
  let g := s.slotGen c r
  s.updClTx c fun q => { q with pnTop := SMap.erase q.pnTop (256 * r + g) }

/-- A LOAD lands: the master copy is written, the bank follows (R214). -/
def landKeyLoad (s : State) (c r : Nat) (k : KeyImg) : State :=
  let i := 4096 * c + r
  s.setSlot i { s.slot i with master := some k, flip := some k }

/-- The ports of a cluster with transmit state. -/
def clusterPorts (s : State) (c : Nat) : List Nat := (s.portTx.map (·.1)).filter fun p => p / 64 == c

/-- An ERASE lands: master copy and banks are zeroed and frames in flight stomped (R215, R202). -/
def landKeyErase (s : State) (c r : Nat) : State :=
  let i := 4096 * c + r
  let q := s.slot i
  let s := (s.setSlot i { moveGen q with master := none, cur := none, prev := none, flip := none }).freshPns c r
  (s.clusterPorts c).foldl (fun s p => s.txKeyErase p (· == r)) s

/-- A common slot lands (R219, R220); a rewrite of the selected BDP slot clears the in-band sequences. -/
def landCommon (s : State) (n : Nat) (k : Option KeyImg) : State :=
  let s := s.updKeys fun q => { q with common := SMap.set none q.common n k }
  if n = s.regN 0x0200 6 then { s with dict := { s.dict with rxSeq := 0, txSeq := 0 } } else s

/-- Every cluster and common slot, the pipelines and the DRBG states are zeroed (R222). -/
def eraseKeys (s : State) : State :=
  let slots : SMap KeySlot := s.keys.slots.foldl (fun m e => SMap.set {} m e.1 { gen := e.2.gen }) []
  let s := s.updKeys fun q => { q with slots, genBase := (q.genBase + 1) % 256, common := [] }
  let s := { (List.range 16).foldl (fun s c => s.updClTx c fun q => { q with pnTop := [] }) s with masks := {} }
  (s.portTx.map (·.1)).foldl (fun s p => s.txKeyErase p fun _ => true) s

/-- A bit of KEY_ALARM_CAUSE is set; newly set it is a key alarm (R226). -/
def keyAlarm (s : State) (bit : Nat) : State :=
  let fresh := !s.keys.alarm.bit bit
  let s := s.updKeys fun q => { q with alarm := q.alarm.setBit bit true }
  if fresh then s.updTwin fun t => { t with alarmNew := true } else s

/-- ERASE_ALL lands: the alarm decides the role first (R225, R226). -/
def landEraseAll (s : State) : State := (s.keyAlarm 2).settleFaults.eraseKeys

/-- TAMPER_CLR (R221): a latch bit clears where its filtered input is high. -/
def landTamperClr (s : State) (v : Word) : State :=
  s.updKeys fun q => { q with latch := (List.range 4).foldl (fun n i =>
    if v.bit i && !q.live.testBit i && n.testBit i then n - 2 ^ i else n) q.latch }

/-- KEY_ALARM_CLR. -/
def landKeyAlarmClr (s : State) (v : Word) : State := s.updKeys fun q => { q with alarm := q.alarm &&& ~~~v }

/-- TRNG_RESTART: from FAILED the start-up tests run again (R229). -/
def landTrngRestart (s : State) : State :=
  if s.keys.trng = .failed then s.updKeys fun q => { q with trng := .startup } else s

/-- An error in a master copy (R216): `bad` uncorrectable, else corrected in place. -/
def keyEcc (s : State) (k : Nat) (bad : Bool) : State :=
  if (s.slot k).master.isNone then s
  else if !bad then s.bump 0x0600 0xC
  else
    let s := s.landKeyErase (k / 4096) (k % 4096)
    let s := s.updKeys fun q => { q with alarmSlot := Word.ofNat (2 ^ 31 + k) }
    ((s.keyAlarm 1).noteEcc 0x831).raise 0x831

/-- Errors of key master copies come to light (R216); a syndrome of 0 is a corrected single bit. -/
def keyUpsets (s : State) (ups : List Upset) : State :=
  ups.foldl (fun s u => if u.mem == .key then s.keyEcc (u.row % 65536) (u.synd != 0) else s) s

/-- DRBG `n` is reseeded with 384 bits of the entropy source. -/
def seedDrbg (s : State) (n : Nat) : State :=
  let st := drbgReseed (SMap.get 0 s.masks.drbg n) (Config.entropy s.free)
  { s with free := s.free + 1, masks := { s.masks with drbg := SMap.set 0 s.masks.drbg n st } }

/-- The tick's reseeds: every cluster whose CIPHER is ON, and the key store (R204, R224, R227). -/
def reseed (s : State) : State :=
  let run := s.keys.trng == .running && s.isOn domTrng
  let s := (List.range 16).foldl (fun s c =>
    if !s.isOn (domCipher c) then s
    else if run then s.seedDrbg c
    else (s.bump (clIdx c 2) 7).raiseOnce (clEvent c 4)) { s with masks := { s.masks with erased := false } }
  if run && s.isOn domKeys then s.seedDrbg 16 else s

/-- CIPHER of a cluster is ON again from OFF: every loaded slot's master copy goes into one bank (R217). -/
def reloadKeys (s : State) (c : Nat) : State :=
  let slots : SMap KeySlot := s.keys.slots.foldl (fun m e =>
    SMap.set {} m e.1 (if e.1 / 4096 = c then { e.2 with cur := e.2.master, prev := none } else e.2)) []
  s.updKeys fun q => { q with slots }

/-- CIPHER of a cluster goes OFF: its banks are lost (R544). -/
def loseBanks (s : State) (c : Nat) : State :=
  let slots : SMap KeySlot := s.keys.slots.foldl (fun m e =>
    SMap.set {} m e.1 (if e.1 / 4096 = c then { e.2 with cur := none, prev := none } else e.2)) []
  s.updKeys fun q => { q with slots }

/-! ### Reads -/

/-- Some cluster or common slot holds a key (R218, R221). -/
def anyKey (s : State) : Bool := s.keys.slots.any (fun e => e.2.master.isSome) || s.keys.common.any fun e => e.2.isSome

/-- KEY_STORE_STATE. -/
def keyStoreState (s : State) : Nat := if s.keys.latch ≠ 0 then 2 else if s.anyKey then 1 else 0

/-- SLOT_STATUS of the selected slot. -/
def slotStatus (s : State) : Word :=
  let k := s.regN 0x0600 0xE
  let q := s.slot k
  Word.ofNat (b2n q.master.isSome * 2 ^ 31 + (match q.master with | some m => (m.suite - 1) * 2 ^ 24 | none => 0)
    + (q.gen + s.keys.genBase) % 256 * 2 ^ 16)

/-- CKEY_STATUS. -/
def ckeyStatus (s : State) : Word := Word.ofNat ((List.range 4).foldl (fun n i => n + b2n (s.commonKey i).isSome * 2 ^ i) 0)

/-- A frame still in MACsec latched the non-current bank of a slot (R214). -/
def bankBusy (s : State) (c r : Nat) : Bool :=
  (s.clusterPorts c).any fun p => (s.liveFrames p).any fun f =>
    f.sec.plan == .protect && f.sec.row == r && !f.endDone && f.sec.gen != s.slotGen c r

/-- The bank write of slot `i` that is due, unless a frame still uses the bank or CIPHER is away (R214), or no tick has come since
an erase of every key (R224). -/
def flipBank (s : State) (i : Nat) : State :=
  let q := s.slot i
  match q.flip with
  | none => s
  | some k =>
    if s.masks.erased || s.bankBusy (i / 4096) (i % 4096) || !s.isOn (domCipher (i / 4096)) || !s.clocked then s
    else (s.setSlot i { moveGen q with cur := some k, prev := q.cur, flip := none }).freshPns (i / 4096) (i % 4096)

/-- Every bank write that is due is made: none outlasts a management tick (R214). -/
def flipBanks (s : State) : State := ((s.keys.slots.filter fun e => e.2.flip.isSome).map (·.1)).foldl flipBank s

end State

/-- A landed LOAD writes the non-current bank of its slot and makes it current, once no frame uses that bank (R214). -/
def execKeyBankFlip (dt c r : Nat) (s : State) : Res :=
  .next ((s.elapse dt).flipBank (4096 * (c % 16) + r % 4096))

/-- A tamper input falls and survives the filter (R222, R223, R226): an ACTIVE complex releases the lanes before its keys are gone
(R225). Sensors: 0 volt, 1 clk, 2 temp, 3 light. -/
def execTamper (dt sensor : Nat) (s : State) : Res :=
  let s := s.elapse dt
  let n := sensor % 4
  let q := s.keys
  if q.live.testBit n then .next s
  else
    let first := !q.latch.testBit n
    let s := s.updKeys fun q => { q with live := q.live ||| 2 ^ n, latch := q.latch ||| 2 ^ n, last := BitVec.ofNat 84 s.devTime,
                                         count := if first then min (q.count + 1) 0xFFFFFFFF else q.count }
    settled (.next (((s.keyAlarm 0).raise 0x830).settleFaults.eraseKeys))

/-- A filtered tamper input returns high (R221). -/
def execTamperInputHigh (dt sensor : Nat) (s : State) : Res :=
  let s := s.elapse dt
  .next (s.updKeys fun q => { q with live := if q.live.testBit (sensor % 4) then q.live - 2 ^ (sensor % 4) else q.live })

/-- The repetition count test fails on raw bits: somewhere `cut` identical ones in a row (R228). `run`: how many of the last bit so
far, and that bit. -/
def rctFails (cut : Nat) : Nat × Bool → List Bool → Bool
  | _, [] => false
  | (n, last), b :: bs => let m := if b == last then n + 1 else 1
                          cut ≤ m || rctFails cut (m, b) bs

/-- The adaptive proportion test fails on a window of raw bits: its first bit occurs `cut` times among 1,024 (R228). -/
def aptFails (cut : Nat) (window : List Bool) : Bool :=
  decide (cut ≤ ((window.take 1024).filter (· == window.headD false)).length)

/-- The start-up tests have passed 1,024 raw bits (R228, R229). -/
def execTrngStartupDone (window : RawWindow) (s : State) : Res :=
  let s := s.elapse window.dt
  let bits := window.bits
  let passed := bits.length = 1024 ∧ !rctFails (s.regN 0x0600 0x22) (0, false) bits ∧ !aptFails (s.regN 0x0600 0x23) bits
  if s.keys.trng = .startup ∧ s.isOn domTrng ∧ passed then .next (s.updKeys fun q => { q with trng := .running }) else .next s

/-- A health test of the entropy source fails on the raw bits it has seen (R228, R229). The third failure within 2^36 gr leads to FAILED, another through RETRY to STARTUP. -/
def execTrngTestFail (dt : Nat) (test : RawTest) (s : State) : Res :=
  let s := s.elapse dt
  let fails := if test.apt then aptFails (s.regN 0x0600 0x23) test.bits else rctFails (s.regN 0x0600 0x22) (0, false) test.bits
  if s.keys.trng = .failed ∨ !s.isOn domTrng ∨ !fails then .next s
  else
    let s := s.bump 0x0600 (if test.apt then 0x25 else 0x24)
    let fails := (s.keys.trngFails.filter fun t => s.since t ≤ 2 ^ 36) ++ [s.runTime]
    let s := s.updKeys fun q => { q with trngFails := fails }
    if 3 ≤ fails.length then .next ((s.updKeys fun q => { q with trng := .failed }).raise 0x832)
    else .next (s.updKeys fun q => { q with trng := .startup })

end Sys2Proof.Machine
end

