-- ==== Sys2Proof/Machine/MacsecRx.lean ====
section
/-!
DEFINITION. MACsec on receive (R186–R202): the SecTAG, the row of R188 that applies, verification, replay and NEXT_PN.
-/
namespace Sys2Proof.Machine

/-- A frame on its way from the receive MAC to MACsec: without FCS and without a stripped system tag. -/
structure SecIn where
  port : Nat
  body : Bytes
  fin : End
  reason : Nat
  known : Bool
  env : RxEnv
  /-- grains since the SecTAG parse -/
  age : Nat

/-- What MACsec hands on: `none` of it where the frame is discarded. -/
structure SecOut where
  body : Bytes
  fin : End
  reason : Nat
  known : Bool
  changed : Bool := false
  secured : Bool := false
  passMode : Bool := false
  keySlot : Nat := 0

/-- The fields of a received SecTAG (R178). -/
structure SecTag where
  es : Bool
  sc : Bool
  scb : Bool
  e : Bool
  c : Bool
  v : Bool
  an : Nat
  sl : Nat
  pn : Nat
  /-- bytes of the tag, EtherType included -/
  len : Nat

/-- The SecTAG at byte 12 of a frame. -/
def parseSecTag (bs : Bytes) : SecTag :=
  let t := byteAt bs 14
  let sc := t.getLsbD 5
  { v := t.getLsbD 7, es := t.getLsbD 6, sc, scb := t.getLsbD 4, e := t.getLsbD 3, c := t.getLsbD 2, an := t.toNat % 4
    sl := beAt bs 15 1 % 64, pn := beAt bs 16 4, len := if sc then 16 else 8 }

/-- Secure data length: SL names it, or it runs to the ICV before the FCS (R180). -/
def SecTag.secLen (t : SecTag) (bs : Bytes) : Nat := if t.sl ≠ 0 then t.sl else bs.length - 12 - t.len - 16

/-- The tests of R186 that need no SA; the last one where the frame is `whole`. -/
def SecTag.bad (t : SecTag) (bs : Bytes) (whole : Bool) : Bool :=
  t.v || (t.es && t.sc) || (t.scb && t.sc) || (t.c && !t.e) || 48 ≤ t.sl || (whole && bs.length < 12 + t.len + t.sl + 16)

/-- recover_pn() of R189. -/
def recoverPn (lo next window : Nat) (xpn : Bool) : Nat × Nat :=
  let lowest := max (next - window) 1
  if !xpn then (lo, lowest)
  else
    let hi := lowest / 2 ^ 32
    ((if lo < lowest % 2 ^ 32 then hi + 1 else hi) * 2 ^ 32 + lo, lowest)

/-- A row of R188 that counts: a counter of the port, or a slot of the SA row. -/
inductive SecCount
  | port (slot : Nat)
  | row (r sub : Nat)

/-- What the SecTAG parse decides (R188 rows 1–10, or a row, its key, the SCI and the PN to verify under). -/
inductive SecParse
  | plain (n : SecCount)
  | refuse (n : SecCount)
  | strip (t : SecTag) (key : Option (Nat × KeyImg)) (n : SecCount)
  | verify (t : SecTag) (r : Nat) (ctrl : Word) (k : KeyImg) (sci pn : Nat)

/-- The secure data of a frame that MACsec has not seen whole: all behind the SecTAG, as far as SL goes. -/
def SecTag.secSoFar (t : SecTag) (bs : Bytes) : Bytes := let sec := bs.drop (12 + t.len); if t.sl = 0 then sec else sec.take t.sl

/-- Secure data in plaintext (R179). -/
def plaintext (k : KeyImg) (t : SecTag) (sci ssci pn conf : Nat) (sec : Bytes) : Bytes :=
  let clear := if t.c then min sec.length (confBytes conf) else sec.length
  sec.take clear ++ (if t.c then gcmCrypt k.key (macsecIv k sci ssci pn) (sec.drop clear) else [])

/-- The ICV of a whole frame verifies (R179). -/
def icvGood (k : KeyImg) (t : SecTag) (sci ssci pn conf : Nat) (bs : Bytes) : Bool :=
  let n := t.secLen bs
  let o := 12 + t.len
  let sec := slice bs o n
  let clear := if t.c then min n (confBytes conf) else n
  gcmTag k.key (macsecIv k sci ssci pn) (bs.take o ++ sec.take clear) (sec.drop clear) == slice bs (o + n) 16

namespace State

/-- Field `i` of an SA row as the frame latched it at its SecTAG parse, `age` grains ago (R176, R187). -/
def saThen (s : State) (c i r age : Nat) : Word := s.rowThen (winIdx c 7) i r age

/-- The receive row that matched port, SCI and AN at the parse (R187). -/
def rxSa (s : State) (p sci an age : Nat) : Option Nat :=
  let c := p / 64
  (s.rowsEver (winIdx c 7) 2).find? fun r =>
    let w := s.saThen c 2 r age
    w.bit 0 && !w.bit 1 && w.bits 8 6 == p % 64 && w.bits 4 2 == an && sciNat (s.saThen c 3 r age) == sci

/-- A row counter adds `n`. -/
def saBump (s : State) (c r sub : Nat) (n : Nat := 1) : State := s.bumpRow (winIdx c 7) sub r n

/-- A row of R188 is counted. -/
def secCountRx (s : State) (p : Nat) : SecCount → State
  | .port slot => s.bumpPort p slot
  | .row r sub => s.saBump (p / 64) r sub

/-- A frame accepted under row 15 updates NEXT_PN, with the alerts of R199 and R200 (R189). A row that is no longer VALID keeps it
(R209). -/
def acceptPn (s : State) (c r pn : Nat) (xpn : Bool) : State :=
  let next := (s.saW c 4 r).toNat
  if pn < next ∨ !(s.saW c 2 r).bit 0 then s
  else
    let s := s.rowSet (winIdx c 7) 4 r (Word.ofNat (pn + 1))
    let th := s.pnThreshold c r xpn
    let s := if th < pn + 1 then s.saFlag c r 17 else s
    if pn = lastPn xpn then s.saFlag c r 18 else s

/-- HOLD_PEAK follows the bytes held: `n` for this frame beside `others` (R193, R205). -/
def heldBytes (s : State) (c n others : Nat) : State := s.updClRx c fun q => { q with holdPeak := max q.holdPeak (n + others) }

/-- The bytes the hold buffer keeps of a frame (R193). -/
def keptBytes (t : SecTag) (body : Bytes) : Nat := body.length - t.len

/-- The frame is handled in pass mode, or has fallen back to it (R191–R193). -/
def secPass (s : State) (p kept : Nat) : Bool := s.regN (0x1000 + p) 0x49 == 1 || decide (s.regN (0x1000 + p) 0x4A < kept)

/-- The decision at the SecTAG parse of a frame on a port with MACSEC_MODE ON (R186–R189). `bs`: the frame without FCS as far as it
has come; `whole`: to its end. -/
def secParse (s : State) (p : Nat) (bs : Bytes) (whole : Bool) (env : RxEnv) (age : Nat) : SecParse :=
  let c := p / 64
  let i := 0x1000 + p
  let mode := s.regN i 0x41
  if beAt bs 12 2 ≠ 0x88E5 ∨ bs.length < 14 then
    let tags := parseTags bs 12 (s.regN i 8) (s.regN i 9) (s.regN i 0xA)
    if bypassed (s.regN i 0x4C) (tags.etype bs) then .plain (.port Pc.rxMacsecBypass)
    else if mode = 2 then .refuse (.port Pc.rxMacsecNoTag)
    else .plain (.port Pc.rxMacsecUntagged)
  else
    let t := parseSecTag bs
    let sci := if t.sc then beAt bs 20 8 else if t.es then saOf bs * 65536 + 1 else sciNat (s.reg i 0x4B)
    let row := s.rxSa p sci t.an age
    let key := row.bind fun r => match env.latched with | some k => some k | none => s.slotKeyOf c r
    let xpn := (key.map KeyImg.xpn).getD false
    if t.bad bs whole || (key.isSome && !xpn && t.pn == 0) then .refuse (.port Pc.rxMacsecBadTag)
    else
      let hard := mode = 2 ∨ t.c
      match row with
      | none => if hard then .refuse (.port Pc.rxMacsecNoSaErr) else .strip t none (.port Pc.rxMacsecNoSa)
      | some r =>
        let w := s.saThen c 2 r age
        let pn := recoverPn t.pn (env.parsePn.getD (s.saW c 4 r).toNat) (s.regN i 0x43) xpn
        match w.bit 2 && (env.latched.isSome || !w.bit 18), key with
        | true, some k =>
          if s.regB i 0x42 ∧ pn.1 < pn.2 then .refuse (.row r 0xD)
          else if mode = 0 ∧ !t.c then .strip t (some (r, k)) (.row r 0xB)
          else .verify t r w k sci pn.1
        | _, _ => if hard then .refuse (.row r 9) else .strip t none (.row r 0xA)

/-- The end decision of a frame that reached verification (rows 11–15 of R188), with its mode. -/
def secVerify (s : State) (f : SecIn) (t : SecTag) (r : Nat) (w : Word) (k : KeyImg) (sci pn : Nat) (pass : Bool) : Option SecOut × State :=
  let c := f.port / 64
  let i := 0x1000 + f.port
  let conf := s.regN i 0x47
  let n := t.secLen f.body
  let plain := plaintext k t sci (w.bits 32 32) pn conf (slice f.body (12 + t.len) n)
  let out : SecOut := { body := f.body.take 12 ++ plain, fin := .good, reason := 0, known := !pass, changed := true, secured := true,
                        passMode := pass, keySlot := r }
  let stomp := { out with fin := .stomp, reason := 4 }
  let refuse := fun (s : State) (sub : Nat) =>
    let s := s.saBump c r sub
    if pass then (some stomp, ((s.bumpPort f.port Pc.rxMacsecStomp).bump (clIdx c 2) 6).raiseOnce (clEvent c 3)) else (none, s)
  let s := s.drawMasks c
  let strict := s.regN i 0x41 = 2
  let protect := s.regB i 0x42
  let lowest := max ((s.saW c 4 r).toNat - s.regN i 0x43) 1
  let octets := fun (s : State) => s.saBump c r (if t.c then 0xF else 0xE) n
  if !icvGood k t sci (w.bits 32 32) pn conf f.body then
    if strict ∨ t.c then refuse s 8
    else if pass then refuse s 7
    else (some { out with secured := false, keySlot := 0 }, s.saBump c r 7)
  else if pn < lowest then
    if protect then refuse s 0xD else (some out, octets (s.saBump c r 0xC))
  else (some out, octets ((s.acceptPn c r pn k.xpn).saBump c r 6))

/-- What of a frame MACsec has handed on when a key erase stops it: its data up to byte `n`, ended STOMP with reason 5 (R198,
R202). -/
def secErased (o : SecOut) (head : Nat) (n : Nat) : SecOut := { o with body := o.body.take (n - head), fin := .stomp, reason := 5 }

/-- MACsec on one received frame of a port with MACSEC_MODE ON (R188–R198, R202). The verdict of the receive MAC takes precedence, and
nothing is counted for a frame it ended bad (R198). -/
def secRx (s : State) (f : SecIn) : Option SecOut × State :=
  let c := f.port / 64
  let i := 0x1000 + f.port
  let good := f.fin == .good
  let count := fun (s : State) (n : SecCount) => if good then s.secCountRx f.port n else s
  let as_ : SecOut := { body := f.body, fin := f.fin, reason := f.reason, known := false }
  let erased := fun (s : State) => s.bumpPort f.port Pc.rxKeyEraseStomp
  match s.secParse f.port f.body (f.fin != .trunc) f.env f.age with
  | .plain n => (some as_, count s n)
  | .refuse n => (none, count s n)
  | .strip t key n =>
    let sec := if f.fin == .trunc then t.secSoFar f.body else slice f.body (12 + t.len) (t.secLen f.body)
    let o := { as_ with body := f.body.take 12 ++ sec, changed := true }
    match key, f.env.erased with
    | some _, some b => (some (secErased o t.len b), erased s)
    | _, _ => (some o, count s n)
  | .verify t r w k sci pn =>
    let kept := keptBytes t f.body
    let hold := s.regN i 0x49 = 0
    let pass := s.secPass f.port kept
    let s := if hold then s.heldBytes c (min kept (s.regN i 0x4A)) (s.holdInUse c + f.env.holdUse) else s
    let s := if hold ∧ pass then ((s.bumpPort f.port Pc.rxHoldFallback).bump (clIdx c 2) 5).raiseOnce (clEvent c 5) else s
    let sec := if f.fin == .trunc then t.secSoFar f.body else slice f.body (12 + t.len) (t.secLen f.body)
    let o : SecOut := { as_ with body := f.body.take 12 ++ plaintext k t sci (w.bits 32 32) pn (s.regN i 0x47) sec, changed := true,
                                 secured := true, passMode := true, keySlot := r }
    match f.env.erased with
    | some b => (if pass then some (secErased o t.len b) else none, erased s)
    | none =>
      if !good then (if pass then some o else none, s)
      else s.secVerify f t r w k sci pn pass

/-- MACsec on a received frame; a port with MACSEC_MODE OFF passes it. -/
def secStageRx (s : State) (f : SecIn) : Option SecOut × State :=
  if s.regB (0x1000 + f.port) 0x40 then s.secRx f
  else (some { body := f.body, fin := f.fin, reason := f.reason, known := f.known }, s)

/-- How far MACsec has let a frame on whose end has not come (R191–R193): nothing yet, so many bytes in the hold buffer, or its
plaintext so far. -/
inductive SecSoFar
  | nothing
  | held (n : Nat)
  | passed (o : SecOut)

/-- MACsec on a frame still arriving: the last 16 bytes, which may be the ICV, are withheld (R191, R192). -/
def secSoFar (s : State) (p : Nat) (body : Bytes) (env : RxEnv) (age : Nat) : SecSoFar :=
  let o : SecOut := { body, fin := .good, reason := 0, known := false }
  if !s.regB (0x1000 + p) 0x40 then .passed o
  else
    let less := fun (bs : Bytes) => bs.take (bs.length - 16)
    match s.secParse p body false env age with
    | .plain _ => .passed o
    | .refuse _ => .nothing
    | .strip t _ _ => .passed { o with body := body.take 12 ++ less (t.secSoFar body), changed := true }
    | .verify t r w k sci pn =>
      let kept := keptBytes t body
      if s.secPass p kept then
        .passed { o with body := body.take 12 ++ less (plaintext k t sci (w.bits 32 32) pn (s.regN (0x1000 + p) 0x47) (t.secSoFar body)),
                         changed := true, secured := true, passMode := true, keySlot := r }
      else .held kept

end State
end Sys2Proof.Machine
end

