-- ==== Sys2Proof/Machine/Meters.lean ====
section
/-!
DEFINITION. Ingress meters (R265–R286): selection, refill, decision, true-up, actions, commits and errors.
-/
namespace Sys2Proof.Machine

/-- What the meter stage sees of a frame. -/
structure MeterIn where
  port : Nat
  vid : Nat
  pcp : Nat
  dei : Nat
  dscp : Option Nat
  /-- length towards the core, FCS included, where LENGTH is known at the decision -/
  len : Option Nat
  /-- the length the IP header gives, if its field has arrived (R274) -/
  est : Option Nat

/-- The parameters an image of table 0x03 holds. -/
def meterPar (w r1 b1 r2 b2 : Word) : MeterPar :=
  { enable := w.bit 0, alg := w.bits 1 3, blind := w.bit 4, cf := w.bit 8, lenAdj := (BitVec.ofNat 8 (w.bits 32 8)).toInt,
    rate1 := rateOf r1, burst1 := (b1.toNat * 2 ^ 39 : Nat), rate2 := rateOf r2, burst2 := (b2.toNat * 2 ^ 39 : Nat) }

/-- refill() of R275. A rate of m × 2^e bit/s adds m × 2^e per grain in units of 2^-39 B. -/
def meterRefill (p : MeterPar) (m : MeterSt) (now_ : Word) : MeterSt :=
  let dt := min (now_ - m.last).toNat (2 ^ 51)
  let a1 : Int := (p.rate1 * dt : Nat)
  let a2 : Int := (p.rate2 * dt : Nat)
  let new1 := m.t1 + a1
  let above := min a1 (max (new1 - p.burst1) 0)
  let add2 := if p.alg = 0 then above else if p.alg = 3 ∧ p.cf then a2 + above else a2
  let t1 := min new1 p.burst1
  let t2 := min (m.t2 + add2) p.burst2
  { t1, t2, last := now_ }

/-- decide() of R276: the colour (0 green, 1 yellow, 2 red), the buckets debited, and the row after it. -/
def meterDecide (p : MeterPar) (m : MeterSt) (b : Int) (cin : Nat) : Nat × List Nat × MeterSt :=
  if p.alg = 1 then
    if cin = 2 ∨ m.t2 < b then (2, [], m)
    else if cin = 1 ∨ m.t1 < b then (1, [2], { m with t2 := m.t2 - b })
    else (0, [1, 2], { m with t1 := m.t1 - b, t2 := m.t2 - b })
  else if cin = 0 ∧ b ≤ m.t1 then (0, [1], { m with t1 := m.t1 - b })
  else if cin ≠ 2 ∧ b ≤ m.t2 then (1, [2], { m with t2 := m.t2 - b })
  else (2, [], m)

/-- true_up() of R277. -/
def meterTrueUp (p : MeterPar) (m : MeterSt) (ks : List Nat) (charged final : Int) : MeterSt :=
  let d := (final - charged) * 2 ^ 39
  let m := if ks.contains 1 then { m with t1 := min (m.t1 - d) p.burst1 } else m
  if ks.contains 2 then { m with t2 := min (m.t2 - d) p.burst2 } else m

/-- Both buckets at their burst sizes (R270, R273, R278). -/
def meterFull (p : MeterPar) (m : MeterSt) (now_ : Word) : MeterSt :=
  { m with t1 := p.burst1, t2 := p.burst2, last := now_ }

namespace State

/-- The parameters of a row. -/
def meterRow (s : State) (c r : Nat) : MeterPar :=
  let g := fun i => s.rowGet (winIdx c 3) i r
  meterPar (g 2) (g 3) (g 4) (g 5) (g 6)

/-- The buckets of a row. -/
def meterSt (s : State) (c r : Nat) : MeterSt := SMap.get {} (s.clRx c).meters r
def setMeterSt (s : State) (c r : Nat) (m : MeterSt) : State :=
  s.updClRx c fun q => { q with meters := SMap.set {} q.meters r m }

/-- BUCKETS: the buckets as stored, with no credit since the last refill (R270). -/
def meterBuckets (s : State) (c r : Nat) : Word :=
  let m := s.meterSt c r
  Word.ofNat (lowBits (m.t2 / 2 ^ 39) 32 * 2 ^ 32 + lowBits (m.t1 / 2 ^ 39) 32)

/-- The meter row a frame selects (R266). -/
def meterSelect (s : State) (f : MeterIn) : Option Nat :=
  let i := 0x1000 + f.port
  let base := s.regN i 0x59
  match s.regN i 0x58 with
  | 1 => some base
  | 2 => some (base + f.pcp)
  | 3 => let v := s.rowGet (winIdx (f.port / 64) 4) 2 f.vid
         if v.bit 15 then some (base + v.bits 0 12) else none
  | 4 => f.dscp.map (base + ·)
  | _ => none

/-- The input colour (R269). -/
def inputColour (s : State) (f : MeterIn) : Nat :=
  let i := 0x1000 + f.port
  match s.regN i 0x5A with
  | 1 => f.dei
  | 2 => (s.reg i 0x5B).bits (2 * f.pcp) 2
  | 3 => match f.dscp with
    | some d => if d < 32 then (s.reg i 0x5C).bits (2 * d) 2 else (s.reg i 0x5D).bits (2 * (d - 32)) 2
    | none => s.regN i 0x5E
  | _ => 0

/-- A refill of a row: by SETTLE, whatever its ENABLE, and in the background (R275, R280, R281). -/
def refillMeter (s : State) (c r : Nat) : State := s.setMeterSt c r (meterRefill (s.meterRow c r) (s.meterSt c r) s.runTime)

/-- An uncorrectable error in a meter row or map row (R285). -/
def meterEcc (s : State) (c : Nat) (map : Bool) (r : Nat) : State :=
  let w := winIdx c (if map then 4 else 3)
  let s := s.rowSet w 2 r ((s.rowGet w 2 r).setBit (if map then 15 else 0) false)
  let q := s.clRx c
  let s := if q.meterCapture.bit 31 then s else s.setClRx c { q with meterCapture := Word.ofNat (2 ^ 31 + b2n map * 2 ^ 16 + r) }
  (s.bump (clIdx c 4) 1).raiseOnce (clEvent c 11)

/-- METER_ECC_CAPTURE is read and cleared. -/
def readMeterCapture (s : State) (c : Nat) : Word × State :=
  ((s.clRx c).meterCapture, s.updClRx c fun q => { q with meterCapture := 0 })

/-- The metered length of a frame of `len` bytes towards the core (R274). -/
def meteredLen (p : MeterPar) (len : Nat) : Int := max ((len : Int) + p.lenAdj) 0

/-- The charged length of a frame at its decision (R274). The last case has no floor. -/
def chargedLen (p : MeterPar) (f : MeterIn) : Int :=
  match f.len, f.est with
  | some n, _ => meteredLen p n
  | none, some e => meteredLen p e
  | none, none => 64 + p.lenAdj

/-- The meter stage decides a frame: selection, refill, decision, action and the frame counters (R266, R274–R276, R279, R283). -/
def meterStage (s : State) (f : MeterIn) : MeterOut × State :=
  let c := f.port / 64
  let cin := s.inputColour f
  let pass := ({ colour := cin }, if s.regN (0x1000 + f.port) 0x58 = 0 then s else s.bumpPort f.port Pc.rxMeterNone)
  match s.meterSelect f with
  | none => pass
  | some r =>
    let p := s.meterRow c r
    if !p.enable then pass
    else
      let w := winIdx c 3
      let charged := chargedLen p f
      let x := meterDecide p (meterRefill p (s.meterSt c r) s.runTime) (charged * 2 ^ 39) (if p.blind then 0 else cin)
      let col := x.1
      let due : MeterDue := { row := r, par := p, debited := x.2.1, charged, colour := col }
      let s := (s.setMeterSt c r x.2.2).bumpRow w (9 + 2 * col) r 1
      match (s.rowGet w 2 r).bits (16 + 4 * col) 2 with
      | 2 => ({ colour := col, drop := true, due := some due }, (s.bumpRow w 0xF r 1).bumpPort f.port Pc.rxMeterDrop)
      | 1 => ({ colour := col, mark := true, due := some due }, s)
      | _ => ({ colour := col, due := some due }, s)

/-- The frame has ended with `len` bytes towards the core: the true-up under the row that decided it, and the octets (R277, R280,
R283). -/
def meterEnd (s : State) (c : Nat) (due : Option MeterDue) (len : Nat) : State :=
  match due with
  | none => s
  | some d =>
    let final := meteredLen d.par len
    (s.setMeterSt c d.row (meterTrueUp d.par (s.meterSt c d.row) d.debited d.charged final)).bumpRow (winIdx c 3) (10 + 2 * d.colour)
      d.row final.toNat

/-- A row image may be committed to table 0x03 (R272). -/
def meterOk (img : List Word) : Bool :=
  let w := img.getD 0 0
  let r1 := rateOf (img.getD 1 0)
  let r2 := rateOf (img.getD 3 0)
  let rate := fun r => r == 0 || (8000 ≤ r && r ≤ 2000000000000)
  within 0xFF0333011F w.toNat && w.bits 1 3 < 4 && w.bits 24 2 != 3 && w.bits 20 2 != 3 && w.bits 16 2 != 3
    && !(w.bit 8 && w.bits 1 3 != 3) && !(w.bits 1 3 == 0 && r2 != 0) && !(w.bits 1 3 == 1 && r2 < r1) && rate r1 && rate r2

/-- A COMMIT to table 0x03 lands (R273, R280). -/
def landMeter (s : State) (c r : Nat) (img : List Word) : State :=
  let w := winIdx c 3
  let old := s.meterRow c r
  let s := (List.range img.length).foldl (fun s i => s.rowSet w (2 + i) r (img.getD i 0)) s
  let new := s.meterRow c r
  let fresh := !old.enable && new.enable
  let s := if fresh then s.clearCtrs fun key => keyIdx key == w && keyRow key == r else s
  if fresh then s.setMeterSt c r (meterFull new {} s.runTime)
  else if old.enable && new.enable && old.alg != new.alg then s.setMeterSt c r (meterFull new (s.meterSt c r) s.runTime) else s

/-- A COMMIT to table 0x04 may land (R268). -/
def vmapOk (img : List Word) : Bool := within 0x8FFF (img.getD 0 0).toNat

/-- Every enabled row's buckets full (R270, R278). -/
def metersFull (s : State) (c : Nat) : State :=
  (s.rowsListed (winIdx c 3) 2).foldl (fun s r =>
    let p := s.meterRow c r
    if p.enable then s.setMeterSt c r (meterFull p (s.meterSt c r) s.runTime) else s) s

/-- Every row of tables 0x03 and 0x04 cleared (R268, R270). -/
def metersCold (s : State) (c : Nat) : State :=
  ((s.clearTable (winIdx c 3)).clearTable (winIdx c 4)).updClRx c fun q => { q with meters := [] }

/-- The METER domain of the cluster runs. -/
def meterRuns (s : State) (c : Nat) : Bool := s.isOn (domMeter c) && s.clocked

end State

/-- The background refill of an enabled meter row (R275). -/
def execMeterBackgroundRefill (dt c row : Nat) (s : State) : Res :=
  let s := s.elapse dt
  if s.meterRuns c && (s.meterRow c (row % 32768)).enable then .next (s.refillMeter c (row % 32768)) else .next s

end Sys2Proof.Machine
end

