-- ==== Sys2Proof/Machine/Receive.lean ====
section
/-!
DEFINITION. The receive MAC and the receive stages up to the skid (R124–R170): knocks, filters, sizes, FCS, MAC control
frames, system tags, and the order of the stages of R9.
-/
namespace Sys2Proof.Machine

/-- How a frame's end was known: on the wire, cut short (R137), or by a reassembly error after part had been passed (R158). -/
inductive RxHow
  | whole | cut | reasmErr
  deriving DecidableEq, Repr

/-- A frame that the receive MAC passes on: its bytes with the last four as the FCS field, end, reason, whether its length is
known at its start, stamp, the run time of its first bit, and how far its stages had decided it before its end (R160). -/
structure RxPass where
  bytes : Bytes
  fin : End
  reason : Nat
  known : Bool
  stamp : Word
  begun : Word
  env : RxEnv
  stage : RxStage := .hold

namespace State

/-! ### Knocks (R162–R165) -/

/-- Byte `k` of the pattern of filter `r`: slots of the stream lie at subindexes 0x20 on. -/
def knockByte (s : State) (c r k : Nat) : Nat := (s.rowGet (winIdx c 0xB) (0x20 + k / 8) r).bits (8 * (k % 8)) 8

/-- Filter `r` matches a good frame of local port `l` (R163). -/
def knockMatches (s : State) (c r l : Nat) (bs : Bytes) : Bool :=
  let w := s.rowGet (winIdx c 0xB) 2 r
  let off := w.bits 16 7
  let len := w.bits 24 8
  let lo := s.rowGet (winIdx c 0xB) 4 r
  let hi := s.rowGet (winIdx c 0xB) 5 r
  w.bit 0 && (w.bit 2 || w.bits 8 6 == l) && off + len ≤ bs.length
    && ((List.range len).all fun k => !(if k < 64 then lo.bit k else hi.bit (k - 64)) || (byteAt bs (off + k)).toNat == s.knockByte c r k)
    && (!w.bit 1 || saOf bs == beNat (leBytes 6 (s.rowGet (winIdx c 0xB) 3 r).toNat))

/-- A good frame passes the knock filters (R164). -/
def knock (s : State) (p : Nat) (bs : Bytes) : State :=
  let c := p / 64
  match ((s.rowsListed (winIdx c 0xB) 2).find? fun r => s.knockMatches c r (p % 64) bs) with
  | none => s
  | some r =>
    let s := if (s.clp c).night = .listen then s else s.bumpPort p Pc.rxKnock
    let s := s.bump (clIdx c 1) 2
    (s.updClRx c fun q => { q with knockLast := Word.ofNat (2 ^ 31 + r * 256 + p % 64) }).raise (clEvent c 0)

/-- A row image may be committed to table 0x0B (R162). -/
def knockOk (img : List Word) : Bool :=
  let w := img.getD 0 0
  within 0xFF7F3F07 w.toNat && w.bits 24 8 ≤ 128 && !(w.bit 0 && w.bits 24 8 == 0) && within 0xFFFFFFFFFFFF (img.getD 1 0).toNat

/-- A COMMIT of a filter lands: four fields and the sixteen slots of the pattern. -/
def landKnock (s : State) (c r : Nat) (img : List Word) : State :=
  (List.range img.length).foldl (fun s i => s.setLatchedRow (winIdx c 0xB) (if i < 4 then 2 + i else 0x1C + i) r (img.getD i 0)) s

/-! ### Filters from the first bytes (R142, R143, R147) -/

/-- group_passes() of R147, with the addresses it spares. -/
def groupPasses (s : State) (p : Nat) (bs : Bytes) : Bool :=
  let da := daOf bs
  if !s.regB (0x1000 + p) 0xD || bs.length < 6 || !isGroup da || isBroadcast da || da / 16 == 0x0180C200000 then true
  else
    let i := crc32 (bs.take 6) % 512
    (s.reg (0x1000 + p) (0xE + i / 64)).bit (i % 64)

/-- The frame carries a system tag, or what stands in its place (R145). -/
def taggedIn (bs : Bytes) : Bool := 18 ≤ bs.length && beAt bs 12 2 == 0x88B6

/-- What SYSTAG_RX does with a frame: it goes on, stripped or not, or is discarded, by its own DEVICE_ID or not (R142, R143). -/
inductive TagAct
  | pass | strip | drop | loop
  deriving DecidableEq, Repr

def tagAct (s : State) (p : Nat) (bs : Bytes) : TagAct :=
  let mode := s.regN (0x1000 + p) 0xC
  if bs.length < 18 then .pass
  else if !taggedIn bs then (if mode = 2 then .drop else .pass)
  else if mode = 0 then .pass
  else if mode = 3 then .drop
  else
    let dev := beAt (padTo 24 bs) 15 4 / 2 ^ 14
    if beAt bs 14 1 ≠ 1 ∨ dev = 0 ∨ dev = 0x3FFFF then .drop
    else if dev = s.regN 0x0100 3 then .loop else .strip

/-! ### The stages after the MAC (R9) -/

/-- The ingress stamp (R148). -/
def rxStamp (s : State) (p back : Nat) : Word :=
  Word.ofNat s.devTime - Word.ofNat back - s.regThen (0x1C00 + p) 7 back

/-- The length the IP header gives, where the meter stage holds its length field (R274). -/
def ipLength (s : State) (p : Nat) (body : Bytes) (t : Tags) (held : Nat) : Option Nat :=
  match parseL3 body t with
  | none => none
  | some l =>
    let have_ := l.off + (if l.v6 then 6 else 4) ≤ held
    let e := if l.v6 then l.off + 40 + beAt body (l.off + 4) 2 + 4 else l.off + beAt body (l.off + 2) 2 + 4
    if have_ ∧ 64 ≤ e ∧ e ≤ s.regN (0x1000 + p) 7 then some e else none

/-- DEI of the outer VLAN tag made `b` (R279). -/
def withDei (body : Bytes) (t : Tags) (b : Bool) : Bytes :=
  if t.count = 0 then body
  else overwrite body 14 [BitVec.ofNat 8 (beAt body 14 1 % 16 + b2n b * 16 + beAt body 14 1 / 32 * 32)]

/-- The parsed tags of a received frame. -/
def rxTags (s : State) (p : Nat) (body : Bytes) : Tags :=
  parseTags body 12 (s.regN (0x1000 + p) 8) (s.regN (0x1000 + p) 9) (s.regN (0x1000 + p) 0xA)

/-- The frame as the meter leaves it (R279). -/
def remarked (s : State) (p : Nat) (m : MeterOut) (body : Bytes) : Bytes :=
  if m.mark then withDei body (s.rxTags p body) (m.colour ≠ 0) else body

/-- The copy for a ring reaches the hand-over to host DMA (R252). -/
def handOver (s : State) (p : Nat) (punt : Option (Nat × Nat)) (body : Bytes) (fin : End) (known : Bool) (stamp : Word)
    (vid colour : Nat) : State :=
  match punt with
  | none => s
  | some (r, source) =>
    if !s.rxRingOpen r then s.bump (clIdx (p / 64) 3) 0xC
    else (s.stageRx { ring := r, first := 0, count := 0, bytes := body, cut := false, stamp, port := p, vid, colour, source }
      (fin == .good) known).2

/-- The frame's first segment is due at the skid: it is admitted whole or refused (R28, R168). A frame that ends with reason
1 before any segment has reached the core leaves no trace (R136). -/
def toCore (s : State) (p : Nat) (m : FrameMeta) (bytes : Bytes) (fin : End) (reason reach : Nat) : State :=
  let c := p / 64
  if s.skidFree c < s.skidNeed p then (s.bump (clIdx c 1) 1).raiseOnce (clEvent c 1)
  else if reason = 1 ∧ reach < 2 then s
  else s.skidPush c { port := p, metaWord := m.word, bytes, fin, reason, reserve := s.skidNeed p }

/-- The frame of port `p` that is still arriving in the skid. -/
def growing (p : Nat) (f : SkidFrame) : Bool := f.growing && f.port == p

/-- More of an arriving frame reaches the skid (R160). -/
def coreFeed (s : State) (p : Nat) (bytes : Bytes) : State :=
  s.updClRx (p / 64) fun q => { q with skid := q.skid.map fun f => if growing p f then { f with bytes } else f }

/-- The end of an arriving frame reaches the skid; a frame that ends with reason 1 before a segment of it has reached the core is
discarded whole (R136, R160). -/
def coreEnd (s : State) (p : Nat) (bytes : Bytes) (fin : End) (reason : Nat) : State :=
  s.updClRx (p / 64) fun q =>
    { q with skid := (q.skid.filter fun f => !(growing p f && f.sent == 0 && reason == 1)).map fun f =>
        if growing p f then { f with bytes, fin, reason, growing := false } else f }

/-- Errors of the rows that the frame's stages read come to light (R216, R259, R285, R424). -/
def rxUpsets (s : State) (c : Nat) (ups : List Upset) : State :=
  let s := (s.doorUpset c ups).keyUpsets ups
  ups.foldl (fun s u => match u.mem with
    | .meter => s.meterEcc c false (u.row % 32768)
    | .vlan => s.meterEcc c true (u.row % 4096)
    | .context => s.calEcc c false (u.row % 256)
    | .rule => s.calEcc c true (u.row % 256)
    | _ => s) s

/-- The Doorlist and the meters decide a frame; `none` where the Doorlist discards it. `len`: its length towards the core where
LENGTH is known (R250, R276). -/
def decideRx (s : State) (p : Nat) (o : SecOut) (mark : Bool) (tag : Option SysTag) (stamp : Word) (len : Option Nat) (held : Nat) :
    Option RxVerdict × State :=
  let tags := s.rxTags p o.body
  match s.doorDecide p (saOf o.body) (daOf o.body) tags.vid with
  | (none, s) => (none, s)
  | (some d, s) =>
    let x := s.meterStage { port := p, vid := tags.vid, pcp := tags.pcp, dei := tags.dei, dscp := (parseL3 o.body tags).map (·.dscp),
                            len, est := s.ipLength p o.body tags held }
    let info : FrameMeta := { stamp, port := p, length := len.getD 0, vid := tags.vid, pcp := tags.pcp, colour := x.1.colour,
                              door := d.door, calMark := mark, secured := o.secured, passMode := o.passMode, keySlot := o.keySlot,
                              srcDevice := (tag.map (·.device)).getD 0, flowHint := (tag.map (·.hint)).getD 0,
                              sysClass := (tag.map (·.cls)).getD 0, srcPort := (tag.map (·.port)).getD 0, systag := tag.isSome }
    (some { info, door := d, meter := x.1 }, x.2)

/-- The end of a decided frame: learning, true-up, tap, hand-over and skid (R9, R252, R253, R277). `tail`: the FCS field as received. -/
def finishRx (s : State) (p : Nat) (v : RxVerdict) (o : SecOut) (strip : Bool) (tail : Bytes) (f : RxPass) : State :=
  let s := if o.fin == .good then s.doorLearn p (saOf o.body) v.info.vid v.door.seen else s
  let s := s.meterEnd (p / 64) v.meter.due (o.body.length + 4)
  if v.meter.drop then s
  else
    let out := s.remarked p v.meter o.body
    let fcs := match o.fin with
      | .good => fcsOf out
      | .trunc => tail
      | .stomp => if strip || o.changed || out ≠ o.body then stompFcs out else tail
    let s := s.peepTap { port := p, tx := false, plain := true, cls := none, bytes := out ++ fcs, fin := o.fin, stamp := f.stamp }
    let s := s.handOver p v.door.punt out o.fin o.known f.stamp v.info.vid v.meter.colour
    if !v.door.core then s
    else match f.stage with
      | .going _ => s.coreEnd p (out ++ fcs) o.fin o.reason
      | _ => s.toCore p v.info (out ++ fcs) o.fin o.reason f.env.reach

/-- A frame leaves the receive MAC: tap, system tag, MACsec, calipers, in-band requests, Doorlist, meters, tap, hand-over and
skid (R9, R143, R166). DESIGN CHOICE (assumption 102): an in-band request that ends STOMP or TRUNC is discarded uncounted. -/
def pipeline (s : State) (p : Nat) (strip : Bool) (f : RxPass) : State :=
  let c := p / 64
  let s := s.peepTap { port := p, tx := false, plain := false, cls := none, bytes := f.bytes, fin := f.fin, stamp := f.stamp }
  let tag := if strip then parseSysTag f.bytes else none
  let n := if f.fin == .trunc then f.bytes.length else f.bytes.length - 4
  let body := f.bytes.take n
  let tail := f.bytes.drop n
  let body := if strip then body.take 12 ++ body.drop 24 else body
  let age := f.env.parsed.getD (s.since f.begun)
  match s.secStageRx { port := p, body, fin := f.fin, reason := f.reason, known := f.known, env := f.env, age } with
  | (none, s) => s
  | (some o, s) =>
    match f.stage with
    | .going v => s.finishRx p v o strip tail f
    | .gone => s
    | .filtered => s
    | .hold =>
      if o.reason = 1 ∧ f.env.reach = 0 then s
      else match s.calStage c { body := o.body, tags := s.rxTags p o.body, complete := true, localPort := p % 64, tx := false, cls := 0, age } with
        | (.drop, s) => s
        | (.wait _, s) => s
        | (.pass _ mark, s) =>
          if s.isInband p o.body then (if o.fin = .good then s.inbandRequest o.body else s)
          else match s.decideRx p o mark tag f.stamp (if o.known then some (o.body.length + 4) else none) f.env.held with
            | (none, s) => s
            | (some v, s) => s.finishRx p v o strip tail f

/-! ### MAC control frames (R151–R155) -/

/-- A pause timer of the port: 0–7 the priorities, 8 PAUSE. -/
def setTimer (s : State) (p k : Nat) (v : Option Word) : State := s.updPort p fun q => { q with timers := SMap.set none q.timers k v }

/-- The timer's end for a value of `q` quanta (R152). -/
def timerEnd (s : State) (p q : Nat) : Word := s.runTime + Word.ofNat (pauseGrains q (s.portRate p))

/-- Every pause timer of the port stops (R155, R545). -/
def stopTimers (s : State) (p : Nat) : State := (s.updPort p fun q => { q with timers := [] }).settlePort p

/-- PAUSE_STATE (R150). -/
def pauseState (s : State) (p : Nat) : Word := Word.ofNat (s.pauseBits p)

/-- A MAC control frame of a legal size with a good FCS is acted on, or discarded (R151–R153). -/
def actControl (s : State) (p : Nat) (bs : Bytes) : State :=
  let mode := s.regN (0x1C00 + p) 1
  let op := beAt bs 14 2
  let mine := daOf bs = 0x0180C2000001 ∨ bs.take 6 = s.stationAddr p
  if mine ∧ mode = 1 ∧ op = 1 then
    let q := beAt bs 16 2
    if q = 0 then ((s.setTimer p 8 none).bumpPort p Pc.rxPauseResume).settlePort p
    else ((s.setTimer p 8 (some (s.timerEnd p q))).bumpPort p Pc.rxPause).settlePort p
  else if mine ∧ mode = 2 ∧ op = 0x0101 then
    let vec := beAt bs 17 1
    ((List.range 8).foldl (fun s n =>
      if !vec.testBit n then s
      else
        let q := beAt bs (18 + 2 * n) 2
        if q = 0 then (s.setTimer p n none).bumpPort p Pc.rxPfcResume
        else (s.setTimer p n (some (s.timerEnd p q))).bumpPort p (Pc.rxPfc + n)) s).settlePort p
  else s.bumpPort p Pc.rxMacCtrlDrop

/-! ### The receive MAC (R132–R138) -/

/-- The trailing four bytes of a frame are its correct FCS; their bitwise inverse. -/
def fcsGood (bs : Bytes) : Bool := 4 ≤ bs.length && bs.drop (bs.length - 4) == fcsOf (bs.take (bs.length - 4))
def fcsInverse (bs : Bytes) : Bool := 4 ≤ bs.length && bs.drop (bs.length - 4) == stompFcs (bs.take (bs.length - 4))

/-- The counters of a frame counted in RX_FRAMES_OK (R169, R461). -/
def countOk (s : State) (p : Nat) (bs : Bytes) : State :=
  let s := (s.bumpPort p Pc.rxFramesOk).bumpPort p Pc.rxOctetsOk bs.length
  let s := s.bumpPort p (if isBroadcast (daOf bs) then Pc.rxBcast else if isGroup (daOf bs) then Pc.rxMcast else Pc.rxUcast)
  s.bumpPort p (Pc.rxBin + Pc.bin bs.length)

/-- Sizes and FCS of a frame that no filter has discarded (R134–R138, R151): what is passed on, if anything. -/
def sized (s : State) (p : Nat) (bs : Bytes) (how : RxHow) (known : Bool) (stamp begun : Word) (stage : RxStage) (env : RxEnv) :
    Option RxPass × State :=
  let max_ := s.regN (0x1000 + p) 7
  let ctl := beAt bs 12 2 == 0x8808 && 14 ≤ bs.length
  let l := bs.length
  let f : RxPass := { bytes := bs, fin := .good, reason := 0, known, stamp, begun, env, stage }
  let s := if env.codeErr then s.bumpPort p Pc.rxCodeErr else s
  let good := how == .whole && !env.codeErr && fcsGood bs
  let stomp := how == .whole && !env.codeErr && fcsInverse bs
  if l < 64 then (none, if how = .reasmErr then s else s.bumpPort p (if good then Pc.rxRunt else Pc.rxFragment))
  else if max_ < l then
    let s := s.bumpPort p (if l ≤ 16132 then Pc.rxOversize else Pc.rxJabber)
    if ctl then (none, s)
    else (some { f with bytes := bs.take max_, fin := .trunc, reason := if l ≤ 16132 then 2 else 3 }, s.bumpPort p Pc.rxTrunc)
  else if how = .reasmErr then (if ctl then none else some { f with fin := .stomp, reason := 6, known := false }, s)
  else if good then
    let s := s.countOk p bs
    if ctl then (none, s.actControl p bs) else (some f, s)
  else
    let s := s.bumpPort p (if stomp then Pc.rxStompRcvd else Pc.rxFcsErr)
    (if ctl then none else some { f with fin := .stomp, reason := 1 }, s)

/-- Space left in the port's part of the reassembly store for express frames that wait (R160, R161). -/
def waitRoom (s : State) (p : Nat) : Nat := roundUp (s.regN (0x1000 + p) 7) 64 - (((s.port p).waiting.map fun f => f.bytes.length).sum)

/-- An express frame must wait behind a preemptable frame of which part has been passed (R160). -/
def mustWait (s : State) (p : Nat) : Bool :=
  match (s.port p).reasm with | some r => r.passed | none => false

/-- The receive side of the port takes frames that start now (R130, R131). -/
def rxTakes (s : State) (p back : Nat) : Bool :=
  let q := s.port p
  s.laneRuns (p / 64) && q.link == .up && (q.st == .opened || (q.st == .closing && s.since q.closingAt < back))

/-- The cluster discards a frame that started `back` grains ago after the knock check (R165, R545). -/
def rxNight (s : State) (p back : Nat) : Bool :=
  let q := s.clp (p / 64)
  q.night == .listen || q.night == .waking || (q.night == .entering && back ≤ s.since q.enteringAt)
    || s.since (q.wakeAt + q.wakeLatency) < back

/-- The filters that act on a frame's first 18 bytes refuse it, with their counts (R142, R143, R147). -/
def filterRx (s : State) (p : Nat) (bs : Bytes) : Bool × State :=
  if !s.groupPasses p bs then (true, s.bumpPort p Pc.rxGroupFiltered)
  else match s.tagAct p bs with
    | .drop => (true, s.bumpPort p Pc.rxSystagDrop)
    | .loop => (true, (s.bumpPort p Pc.rxSystagLoop).rxCause p 6)
    | _ => (false, s)

/-- A frame that the receive MAC passes goes on, or waits behind a preemptable frame; one that finds no room is discarded, and its
errors stay counted (R134, R160). `s0`: the state without the counts of a good frame. -/
def passOrWait (s s0 : State) (p : Nat) (express : Bool) (f : RxPass) : State :=
  if express && s.mustWait p then
    if s.waitRoom p < f.bytes.length then (if f.fin = .good then s0 else s).bumpPort p Pc.rxExpressWaitDrop
    else if f.reason = 1 then s.rxUpsets (p / 64) f.env.upsets
    else (s.rxUpsets (p / 64) f.env.upsets).updPort p fun q =>
      { q with waiting := q.waiting ++ [{ bytes := f.bytes, stamp := f.stamp, begun := f.begun, fin := f.fin, reason := f.reason, env := f.env }] }
  else (s.rxUpsets (p / 64) f.env.upsets).pipeline p (s.tagAct p f.bytes == .strip) f

/-- One frame with an accepted start delimiter (R132–R148), whose first bit came at run time `begun`, under the values in force
then (R129, R163). `express`: it may have to wait behind a preemptable frame. `stage`: what was decided before its end. -/
def rxMac (s : State) (p : Nat) (bs : Bytes) (how : RxHow) (express known : Bool) (stamp begun : Word) (stage : RxStage) (env : RxEnv) : State :=
  let settle := fun (t : State) => if s.changedSince p (s.since begun) = [] then t else t.settlePort p
  settle <| s.underStart p (s.since begun) fun s =>
    let s := if how == .whole && !env.codeErr && bs.length ≤ s.regN (0x1000 + p) 7 && fcsGood bs then s.knock p bs else s
    if s.rxNight p (s.since begun) then s
    else
      let x := match stage with | .hold => s.filterRx p bs | .filtered => (true, s) | _ => (false, s)
      if x.1 then x.2
      else match x.2.sized p bs how known stamp begun stage env with
        | (none, s) => s
        | (some f, s) => s.passOrWait x.2 p express f

/-- The express frames that have waited follow the preemptable frame, in order, their lengths known (R160). -/
def releaseWaiting (s : State) (p : Nat) : State :=
  let fs := (s.port p).waiting
  let s := s.updPort p fun q => { q with waiting := [] }
  fs.foldl (fun s f => s.underStart p (s.since f.begun) fun s => s.pipeline p (s.tagAct p f.bytes == .strip)
    { bytes := f.bytes, fin := f.fin, reason := f.reason, known := true, stamp := f.stamp, begun := f.begun, env := f.env }) s

/-! ### Reassembly (R156–R161) -/

/-- A reassembly error of a frame or fragment that began `age` grains ago (R158); in LISTEN no port counter counts it (R165). -/
def reasmErr (s : State) (p age : Nat) : State := (if s.rxNight p age then s else s.bumpPort p Pc.rxReasmErr).rxCause p 5

/-- The held frame ends as an error: STOMP with reason 6 where part of it has been passed on, else discarded (R158). -/
def endReasm (s : State) (p : Nat) : State :=
  match (s.port p).reasm with
  | none => s
  | some r =>
    let s := s.updPort p fun q => { q with reasm := none }
    let s := if r.passed then s.rxMac p r.data .reasmErr false false r.stamp r.begun r.stage { reach := 2 } else s
    s.releaseWaiting p

/-- A reassembled frame is whole (R157, R159, R160). -/
def wholeReasm (s : State) (p : Nat) (r : Reasm) (bs : Bytes) (env : RxEnv) : State :=
  let s := s.updPort p fun q => { q with reasm := none }
  let s := s.rxMac p bs .whole false (s.regThen (0x1C00 + p) 5 (s.since r.begun) == 0) r.stamp r.begun r.stage env
  s.releaseWaiting p

/-- The data of a frame under reassembly without a stripped system tag. -/
def reasmBody (s : State) (p : Nat) (data : Bytes) : Bytes :=
  if s.tagAct p data == .strip then data.take 12 ++ data.drop 24 else data

/-- The stages decide a frame still arriving, where MACsec lets it on and the calipers need no more of it (R160, R191, R192). -/
def decideEarly (s : State) (p : Nat) (r : Reasm) (env : RxEnv) : Reasm × State :=
  let strip := s.tagAct p r.data == .strip
  match s.secSoFar p (s.reasmBody p r.data) env (s.since r.begun) with
  | .nothing => (r, s)
  | .held n => ({ r with held := n }, s)
  | .passed o =>
    if s.isInband p o.body then ({ r with held := 0 }, s)
    else match s.calStage (p / 64) { body := o.body, tags := s.rxTags p o.body, complete := false, localPort := p % 64, tx := false, cls := 0
                                     age := s.since r.begun } with
      | (.wait _, s) => ({ r with held := 0 }, s)
      | (.drop, s) => ({ r with held := 0, stage := .gone }, s)
      | (.pass _ mark, s) =>
        match s.decideRx p o mark (if strip then parseSysTag r.data else none) r.stamp none env.held with
        | (none, s) => ({ r with held := 0, stage := .gone }, s)
        | (some v, s) =>
          if v.meter.drop || !v.door.core then ({ r with held := 0, stage := .going v }, s)
          else if s.skidFree (p / 64) < s.skidNeed p then
            ({ r with held := 0, stage := .going { v with door := { v.door with core := false } } },
             (s.bump (clIdx (p / 64) 1) 1).raiseOnce (clEvent (p / 64) 1))
          else ({ r with held := 0, stage := .going v },
                s.skidPush (p / 64) { port := p, metaWord := v.info.word, bytes := s.remarked p v.meter o.body, fin := .good, reason := 0,
                                      growing := true, reserve := s.skidNeed p })

/-- In CUT mode a preemptable frame of which 64 bytes have come is passed on: filters, stages and skid take what there is (R133,
R160). A MAC control frame is not (R151), nor is one that the cluster discards (R165). -/
def cutOn (s : State) (p : Nat) (r : Reasm) (env : RxEnv) : Reasm × State :=
  if s.regN (0x1C00 + p) 5 ≠ 1 ∨ r.data.length < 64 ∨ beAt r.data 12 2 = 0x8808 ∨ s.rxNight p (s.since r.begun) then (r, s)
  else
    let s := s.rxUpsets (p / 64) env.upsets
    match r.stage with
    | .filtered => (r, s)
    | .gone => (r, s)
    | .going v => match s.secSoFar p (s.reasmBody p r.data) env (s.since r.begun) with
      | .passed o => (r, s.coreFeed p (s.remarked p v.meter o.body))
      | _ => (r, s)
    | .hold =>
      if r.passed then s.decideEarly p r env
      else
        let x := s.filterRx p r.data
        if x.1 then ({ r with stage := .filtered }, x.2) else x.2.decideEarly p { r with passed := true } env

/-- The frame `r` is held, with what has come of it passed on in CUT mode. -/
def holdReasm (s : State) (p : Nat) (r : Reasm) (env : RxEnv) : State :=
  (s.updPort p fun q => { q with reasm := some r }).underStart p (s.since r.begun) fun s =>
    let x := s.cutOn p r env
    x.2.updPort p fun q => { q with reasm := some x.1 }

/-- An error-marked block in a fragment is counted (R137, R169), unless the frame is counted elsewhere only (R134, R165). -/
def fragCodeErr (s : State) (p : Nat) (stage : RxStage) (env : RxEnv) : State :=
  if env.codeErr && stage != .filtered && !s.rxNight p env.back then s.bumpPort p Pc.rxCodeErr else s

/-- A fragment's data joins the frame `r` (empty for a start fragment): by its CRC the frame goes on, is whole, or ends as an
error. A frame that would be held in CLOSING is discarded (R130). -/
def joinFragment (s : State) (p : Nat) (r : Reasm) (bs : Bytes) (cut : Bool) (env : RxEnv) : State :=
  let n := bs.length - 4
  let tail := bs.drop n
  let r := { r with data := r.data ++ bs.take n, lastAt := s.runTime }
  let s := s.fragCodeErr p r.stage env
  let whole := !env.codeErr && !cut
  if whole && tail == mcrcOf r.data then
    let s := s.holdReasm p r env
    if (s.port p).st = .closing then (s.reasmErr p (s.since r.begun)).endReasm p else s
  else if (whole && tail == fcsOf r.data) || s.regN (0x1000 + p) 7 < r.data.length + 4 then
    s.wholeReasm p r (r.data ++ tail) { env with codeErr := false }
  else ((s.reasmErr p env.back).holdReasm p r env).endReasm p

/-- One SMD-S or SMD-C fragment (R156–R158). `num`: its frame number; `frag`: the frag_count of a continuation. -/
def rxFragment (s : State) (p num : Nat) (frag : Option Nat) (bs : Bytes) (cut : Bool) (env : RxEnv) : State :=
  let s := if s.rxNight p env.back then s else s.bumpPort p Pc.rxPreemptFrag
  let bad := fun (s : State) => (s.fragCodeErr p .hold env).reasmErr p env.back
  match frag with
  | none =>
    let s := if (s.port p).reasm.isSome then (s.reasmErr p env.back).endReasm p else s
    if bs.length < 64 then bad s
    else s.joinFragment p { num, data := [], frag := 0, stamp := s.rxStamp p env.back, begun := s.runTime - Word.ofNat env.back } bs cut env
  | some k =>
    match (s.port p).reasm with
    | none => bad s
    | some r =>
      if r.num ≠ num then bad s
      else if k ≠ r.frag ∨ bs.length < 64 then (bad s).endReasm p
      else s.joinFragment p { r with frag := (r.frag + 1) % 4 } bs cut env

/-- The frame number of SMD-S and SMD-C delimiters, and of frag_count codes (R156). -/
def smdSNum (b : Nat) : Option Nat := (List.range 4).find? fun n => smdS n == b
def smdCNum (b : Nat) : Option Nat := (List.range 4).find? fun n => smdC n == b

/-- FEC codewords decoded since the last frame (R127, R128). -/
def fecWords (s : State) (p : Nat) (env : RxEnv) : State :=
  let i := 0x1000 + p
  if s.regN i 6 = 0 then s
  else
    let s := (s.bump i 0x1A env.fecFixed).bump i 0x1B env.fecBad
    if env.fecBad ≠ 0 then s.rxCause p 4 else s

/-- A start delimiter that the port does not accept (R132); in LISTEN no port counter counts it (R165). -/
def badSfd (s : State) (p back : Nat) : State := if s.rxNight p back then s else s.bumpPort p Pc.rxBadSfd

/-- A frame or fragment by its start delimiter: `bs` follows the delimiter. -/
def rxStart (s : State) (p sfd : Nat) (bs : Bytes) (how : RxHow) (env : RxEnv) : State :=
  if !s.rxTakes p env.back then s
  else
    let s := (s.landFcLate p env.back).fecWords p env
    if sfd = 0xD5 then s.rxMac p bs how true false (s.rxStamp p env.back) (s.runTime - Word.ofNat env.back) .hold env
    else if !s.regB (0x1C00 + p) 4 then s.badSfd p env.back
    else match smdSNum sfd, smdCNum sfd with
      | some n, _ => s.rxFragment p n none bs (how == .cut) env
      | none, some n => s.rxFragment p n (smdSNum (byteAt bs 0).toNat <|> some 4) (bs.drop 1) (how == .cut) env
      | none, none => if sfd = 0x07 ∨ sfd = 0x19 then s else s.badSfd p env.back

/-- The frame being received is cut short (R137). -/
def cutRx (s : State) (p : Nat) (cut : Option CutFrame) : State :=
  match cut with
  | none => s
  | some f => s.rxStart p f.sfd f.bytes .cut f.env

/-- The receive side of a port gives up the fragments it holds (R130, R158). -/
def dropFragments (s : State) (p : Nat) : State :=
  match (s.port p).reasm with
  | some r => (s.reasmErr p (s.since r.begun)).endReasm p
  | none => s.releaseWaiting p

end State

/-- A data frame is received on port `p`: the bytes after start delimiter `sfd`, FCS included (R134). -/
def execRxFrame (dt p sfd : Nat) (bytes : Bytes) (env : RxEnv) (s : State) : Res :=
  let s := s.elapse dt
  settled (.next (s.rxStart p sfd bytes .whole env))

/-- A frame on INBAND_PORT: an in-band request reaches the dictionary engine from the Doorlist stage (R85). -/
def execInbandRequest (dt p : Nat) (bytes : Bytes) (env : RxEnv) (s : State) : Res :=
  let s := s.elapse dt
  if s.regN 0x0200 5 = p then settled (.next (s.rxStart p 0xD5 bytes .whole env)) else .next s

/-- A MAC control frame, whatever it asks for (R151). -/
def execMacControlFrame (dt p : Nat) (bytes : Bytes) (env : RxEnv) (s : State) : Res :=
  let s := s.elapse dt
  if beAt bytes 12 2 = 0x8808 then settled (.next (s.rxStart p 0xD5 bytes .whole env)) else .next s

/-- A PAUSE frame (R152, R153). -/
def execPauseFrame (dt p : Nat) (bytes : Bytes) (env : RxEnv) (s : State) : Res :=
  let s := s.elapse dt
  if beAt bytes 12 4 = 0x88080001 then settled (.next (s.rxStart p 0xD5 bytes .whole env)) else .next s

/-- A PFC frame (R152, R153). -/
def execPfcFrame (dt p : Nat) (bytes : Bytes) (env : RxEnv) (s : State) : Res :=
  let s := s.elapse dt
  if beAt bytes 12 4 = 0x88080101 then settled (.next (s.rxStart p 0xD5 bytes .whole env)) else .next s

/-- Pause timer `k` of the port runs out: 0–7 the priorities, 8 PAUSE (R154). -/
def execPauseTimerExpiry (dt p k : Nat) (s : State) : Res :=
  let s := s.elapse dt
  match SMap.get none (s.port p).timers k with
  | none => .next s
  | some t => if s.before t then .next s else .next ((s.setTimer p k none).settlePort p)

/-- A fragment is received: its start delimiter, and `bytes` from the byte after it (R157). -/
def execPreemptFragmentRx (dt p sfd : Nat) (bytes : Bytes) (env : RxEnv) (s : State) : Res :=
  let s := s.elapse dt
  settled (.next (s.rxStart p sfd bytes .whole env))

/-- REASM_TIMEOUT of run time has passed since the last fragment (R158). -/
def execReasmTimeout (dt p : Nat) (s : State) : Res :=
  let s := s.elapse dt
  match (s.port p).reasm with
  | none => .next s
  | some r =>
    if s.since r.lastAt < s.regN (0x1C00 + p) 6 || !s.laneRuns (p / 64) then .next s
    else settled (.next ((s.reasmErr p (s.since r.begun)).endReasm p))

/-- A verify frame is received; with a good mCRC on a port with PREEMPT_EN 1 one respond frame is sent (R132, R165, R375). -/
def execVerifyFrameRx (dt p : Nat) (body mcrc : Bytes) (s : State) : Res :=
  let s := s.elapse dt
  if !s.rxTakes p 0 then .next s
  else if !s.regB (0x1C00 + p) 4 then .next (s.badSfd p 0)
  else if s.txSends p && !s.rxNight p 0 && mcrc == mcrcOf body then .next (s.queueCtl p .respond) else .next s

/-- A respond frame is received; with a good mCRC during VERIFYING it succeeds (R132, R165, R374). -/
def execRespondFrameRx (dt p : Nat) (body mcrc : Bytes) (s : State) : Res :=
  let s := s.elapse dt
  let q := s.portTxOf p
  if !s.rxTakes p 0 then .next s
  else if !s.regB (0x1C00 + p) 4 then .next (s.badSfd p 0)
  else if s.txSends p && !s.rxNight p 0 && q.verify == .verifying && mcrc == mcrcOf body
  then .next ((s.setPortTx p { q with verify := .succeeded }).txCause p 5) else .next s

/-- A segment of the frame can leave the skid: its end is known, or 64 bytes more have come. -/
def State.canSend (f : SkidFrame) : Bool := !f.growing || f.sent + 64 ≤ f.bytes.length

/-- The first segment of the skid that can leave is taken from it. -/
def State.skidPop (s : State) (c : Nat) : Option (Segment × State) :=
  let skid := (s.clRx c).skid
  match skid.find? canSend with
  | none => none
  | some f =>
    let eof := !f.growing && f.bytes.length ≤ f.sent + 64
    let len := min 64 (f.bytes.length - f.sent)
    let seg : Segment := { port := f.port, data := slice f.bytes f.sent len, sof := f.sent == 0, eof, fin := if eof then f.fin else .good,
                           reason := if eof then f.reason else 0, metaWord := if f.sent = 0 then f.metaWord else 0 }
    let s := s.updClRx c fun q => { q with skid := skid.takeWhile (!canSend ·) ++ (if eof then [] else [{ f with sent := f.sent + len }])
                                                     ++ (skid.dropWhile (!canSend ·)).drop 1 }
    some (seg, if eof then (match f.copyOf with | some k => s.peepDelivered c k f.copyBytes | none => s) else s)

/-- Up to `n` segments of the cluster's skid leave towards the switch core, in order (R27). -/
def State.skidSend (c : Nat) : Nat → State → List Segment × State
  | 0, s => ([], s)
  | n + 1, s => match s.skidPop c with
    | none => ([], s)
    | some (seg, s) => let x := State.skidSend c n s
                       (seg :: x.1, x.2)

/-- Held segments leave the skid, at most 16 in a cycle; `ready`: ing_ready in the cycle before (R27). -/
def execIngressSkidSend (dt c n : Nat) (ready : Bool) (s : State) : Res :=
  let s := s.elapse dt
  let s := s.updClRx c fun q => { q with ingReady := ready }
  if !ready || !s.laneRuns c then .next s
  else
    let x := State.skidSend c (min n 16) s
    let s := if x.1.isEmpty then x.2 else x.2.emit (.ingress c x.1)
    let d := s.dom (domLane c)
    .next (if d.phase = .closing ∧ (s.clRx c).skid.isEmpty then s.beginSwitch (domLane c) d.goal else s)

end Sys2Proof.Machine
end

