-- ==== Sys2Proof/Machine/Link.lean ====
section
/-!
DEFINITION. Link state (R131) and the states of a port (R124, R126, R130, R390, R394–R397, R540): opening, closing, reset.
-/
namespace Sys2Proof.Machine
namespace State

/-! ### Link state (R131) -/

/-- The lanes of a port (R126). -/
def portLanes (s : State) (p : Nat) : List Nat :=
  (List.range (s.regN (0x1000 + p) 5)).map fun i => 64 * (p / 64) + s.regN (0x1000 + p) 4 + i

/-- lane_rx_lock is high on every lane of the port. -/
def lanesLocked (s : State) (p : Nat) : Bool := (s.portLanes p).all fun l => SMap.get false s.laneLock l

/-- The port that uses a lane: one of the cluster that is not CLOSED. -/
def portOfLane (s : State) (lane : Nat) : Option Nat :=
  (s.portRx.map (·.1)).find? fun p => p / 64 == lane / 64 && (s.port p).st != .closed && (s.portLanes p).contains lane

/-- LINK_STATE changes, with its causes and what leaving and entering UP brings (R128, R131, R260, R374, R392). -/
def setLink (s : State) (p : Nat) (l : Link) : State :=
  let old := (s.port p).link
  if l = old then s
  else
    let now_ := s.runTime
    let s := s.updPort p fun q => { q with link := l, alignAt := if l = .aligning then now_ else q.alignAt, alignFailed := false }
    let s := (if old = .up then ((s.flushOnDown p).txLinkDown p).landFcLate p 0 else s).settleSignal p
    match l with
    | .up => ((s.rxCause p 0).verifyStart p).fcStart p
    | .remoteFault => s.rxCause p 3
    | _ => if old = .up ∨ old = .remoteFault then s.rxCause p 1 else s

/-- A DOWN port all of whose lanes are locked begins to align. -/
def settleLink (s : State) (p : Nat) : State :=
  let q := s.port p
  if q.st ≠ .closed && q.st ≠ .closing && q.link == .down && s.lanesLocked p && s.laneRuns (p / 64) then s.setLink p .aligning else s

/-! ### Opening (R124, R126, R130, R173, R390) -/

/-- SPEED, LANE_COUNT and FEC_MODE appear in one row of R124. -/
def portMode (speed lanes fec : Nat) : Bool :=
  match speed with
  | 0 => lanes == 1 && fec == 0
  | 1 => lanes == 1 && fec ≤ 1
  | 2 => lanes == 1 && fec == 2
  | 3 => (lanes == 4 && fec ≤ 1) || ((lanes == 2 || lanes == 1) && fec == 2)
  | 4 => (lanes == 4 || lanes == 2 || lanes == 1) && fec == 2
  | 5 => (lanes == 8 || lanes == 4 || lanes == 2) && fec == 2
  | 6 => (lanes == 8 || lanes == 4) && fec == 2
  | 7 => lanes == 8 && fec == 2
  | _ => false

/-- Every check of R126, R173 and R390 passes. -/
def openOk (s : State) (p : Nat) : Bool :=
  let i := 0x1000 + p
  let base := s.regN i 4
  let n := s.regN i 5
  let dev := s.regN 0x0100 3
  portMode (s.regN i 3) n (s.regN i 6) && base % max n 1 == 0 && base + n ≤ 64
    && ((s.portLanes p).all fun l => match s.portOfLane l with | some q => q == p | none => true)
    && !(s.regN i 0xC != 0 && !s.isOn domFabh)
    && !(s.regB i 0x40 && !s.isOn (domCipher (p / 64)))
    && !(s.regN i 0x20 == 1 && (!s.isOn domFabh || dev == 0 || dev == 0x3FFFF))

/-- PORT_ENABLE 1 on a CLOSED port of an OPEN cluster: it opens, or stays CLOSED with OPEN_REFUSED (R126, R130). -/
def openPort (s : State) (p : Nat) : State :=
  if (s.port p).st ≠ .closed ∨ (s.clp (p / 64)).st ≠ .opened then s
  else if s.openOk p then ((s.updPort p fun q => { q with st := .opening, closeAfterOpen := false, enLatched := none }).settleSignal p).settleLink p
  else s.rxCause p 7

/-- The port enters CLOSING (R130, R394). -/
def closePort (s : State) (p : Nat) : State :=
  let now_ := s.runTime
  let s := s.updPort p fun q => { q with st := .closing, closingAt := now_, enLatched := none, closeAfterOpen := false }
  ((s.dropFragments p).txClose p).settleSignal p

/-- The opening ends: OPEN, with TX_SILL at its floor and a fresh bulk comparison (R130, R393, R397, R444). -/
def portOpened (s : State) (p : Nat) : State :=
  let close := (s.port p).closeAfterOpen
  let s := s.updPort p fun q => { q with st := .opened, closeAfterOpen := false }
  let own := s.twin.role == .active
  let s := s.updPortTx p fun q => { q with sill := s.regN (0x1000 + p) 0x23, floor := s.regN (0x1000 + p) 0x23, clean := 0, ownPcs := own }
  let s := s.settleSignal p
  let s := s.updTwin fun t => { t with bulk := SMap.set {} t.bulk p { SMap.get {} t.bulk p with fresh := true, run := 0 } }
  let s := s.settleLink p
  let s := if (s.port p).link = .up then (s.verifyStart p).fcStart p else s
  if close then s.closePort p else s

/-- The port reaches CLOSED (R131, R150). -/
def portClosed (s : State) (p : Nat) : State :=
  let s := s.setLink p .down
  let s := s.updPort p fun q => { q with st := .closed, timers := [], reasm := none, waiting := [] }
  ((s.verifyStop p).settlePort p).settleSignal p

/-- A PORT_ENABLE write lands (R126, R130, R397, R540). -/
def landPortEnable (s : State) (p : Nat) (v : Bool) : State :=
  let s := s.setReg (0x1000 + p) 1 (Word.ofBool v)
  match (s.port p).st, v with
  | .closed, true => s.openPort p
  | .closed, false => s
  | .opening, v => s.updPort p fun q => { q with closeAfterOpen := !v }
  | .opened, true => s
  | .opened, false => s.closePort p
  | .closing, v => s.updPort p fun q => { q with enLatched := some v }

/-- A reset takes the port through CLOSED (R127, R396): the frame being received is cut, the transmit side gives up
everything, LINK_STATE is DOWN and the causes are clear. -/
def portReset (s : State) (p : Nat) (cut : Option CutFrame) : State :=
  let s := s.cutRx p cut
  let s := (s.dropFragments p).txReset p
  let s := (s.setLink p .down).landFcLate p 0
  let s := s.updPort p fun q => { q with st := .closed, link := .down, enLatched := none, closeAfterOpen := false, alignFailed := false,
                                         cause := 0, timers := [], reasm := none, waiting := [] }
  let s := s.updTwin fun t => { t with bulk := SMap.set {} t.bulk p { SMap.get {} t.bulk p with fresh := true, run := 0 } }
  ((s.verifyStop p).settlePort p).settleSignal p

/-- After a reset the port reopens if PORT_ENABLE is 1. -/
def portReopen (s : State) (p : Nat) : State := if s.regB (0x1000 + p) 1 then s.openPort p else s

end State

/-- lane_rx_lock falls on a lane of the chip, 0–1,023; `cut`: the frame its port was receiving (R131, R137). -/
def execLaneLockLoss (dt lane : Nat) (cut : Option CutFrame) (s : State) : Res :=
  let s := s.elapse dt
  let s := { s with laneLock := SMap.set false s.laneLock (lane % 1024) false }
  match s.portOfLane (lane % 1024) with
  | none => .next s
  | some p => if (s.port p).st = .closing then .next s else settled (.next ((s.cutRx p cut).setLink p .down))

/-- lane_rx_lock rises on a lane (R131). -/
def execLaneLock (dt lane : Nat) (s : State) : Res :=
  let s := s.elapse dt
  let s := { s with laneLock := SMap.set false s.laneLock (lane % 1024) true }
  match s.portOfLane (lane % 1024) with
  | none => .next s
  | some p => .next (s.settleLink p)

/-- Block lock, alignment markers, deskew and FEC lock are complete (R131). -/
def execAlignmentLock (dt p : Nat) (s : State) : Res :=
  let s := s.elapse dt
  if (s.port p).link = .aligning ∧ (s.port p).st ≠ .closing ∧ s.laneRuns (p / 64) then .next (s.setLink p .up) else .next s

/-- The port has stayed ALIGNING for 2^26 gr (R128, R131). -/
def execAlignFail (dt p : Nat) (s : State) : Res :=
  let s := s.elapse dt
  let q := s.port p
  if q.link = .aligning ∧ !q.alignFailed ∧ 2 ^ 26 ≤ s.since q.alignAt then
    .next ((s.setPort p { q with alignFailed := true }).rxCause p 2)
  else .next s

/-- Alignment lost, hi_ber or local fault (R131, R137). -/
def execAlignmentLoss (dt p : Nat) (cut : Option CutFrame) (s : State) : Res :=
  let s := s.elapse dt
  let l := (s.port p).link
  if (l = .up ∨ l = .remoteFault) ∧ (s.port p).st ≠ .closing then settled (.next ((s.cutRx p cut).setLink p .aligning)) else .next s

/-- Remote fault ordered sets are received (R131). -/
def execRemoteFault (dt p : Nat) (cut : Option CutFrame) (s : State) : Res :=
  let s := s.elapse dt
  if (s.port p).link = .up ∧ (s.port p).st ≠ .closing then settled (.next ((s.cutRx p cut).setLink p .remoteFault)) else .next s

/-- 128 columns without a fault ordered set (R131). -/
def execRemoteFaultClear (dt p : Nat) (s : State) : Res :=
  let s := s.elapse dt
  if (s.port p).link = .remoteFault ∧ (s.port p).st ≠ .closing then .next (s.setLink p .up) else .next s

/-- Both sides of a CLOSING port are done: it reaches CLOSED, and the last enable latched applies (R395, R397). -/
def execPortCloseDone (dt p : Nat) (s : State) : Res :=
  let s := s.elapse dt
  if (s.port p).st ≠ .closing ∨ !s.txDone p then .next s
  else
    let latched := (s.port p).enLatched
    let s := (s.portClosed p).updPort p fun q => { q with enLatched := none }
    .next (if latched = some true then s.openPort p else s)

end Sys2Proof.Machine
end

