-- ==== Sys2Proof/Machine/Rings.lean ====
section
/-!
DEFINITION. DMA rings (R480–R507): opening and closing, the doorbell, FRAME chains of CORE and DIRECT rings with their
checksum offload, and the delivery of receive frames.
-/
namespace Sys2Proof.Machine

/-! ### Checksums (R501, R502) -/

/-- The one's complement sum of the 16-bit words of a string, an odd last byte padded with zero. -/
def sum16 : Bytes → Nat
  | [] => 0
  | [a] => a.toNat * 256
  | a :: b :: t => (fun x => x % 65536 + x / 65536) (a.toNat * 256 + b.toNat + sum16 t)

/-- The checksum over a string whose own checksum field is zero. -/
def csum16 (bs : Bytes) : Nat := 65535 - sum16 bs

/-- Where the IPv4 header lies, whole: its offset and length. -/
def ip4Header (bs : Bytes) : Option (Nat × Nat) :=
  let t := parseTags bs 12 0 0 0
  let o := t.etOff + 2
  let n := beAt bs o 1 % 16 * 4
  if t.etype bs = 0x0800 ∧ beAt bs o 1 / 16 = 4 ∧ 20 ≤ n ∧ o + n ≤ bs.length then some (o, n) else none

/-- A TCP or UDP segment that qualifies: its pseudo-header, its bytes, the offset of its checksum, UDP, over IPv4. -/
structure L4Seg where
  pseudo : Bytes
  off : Nat
  len : Nat
  csum : Nat
  isUdp : Bool
  v4 : Bool

/-- The segment of an unfragmented IPv4 packet, or of an IPv6 packet whose next header is TCP or UDP, that lies whole in
the frame (R501). -/
def l4Seg (bs : Bytes) : Option L4Seg :=
  let t := parseTags bs 12 0 0 0
  let o := t.etOff + 2
  let make := fun (v4 : Bool) (addrs : Bytes) (proto off n : Nat) =>
    let isUdp := proto == 17
    let n := if isUdp then beAt bs (off + 4) 2 else n
    if (proto = 6 ∨ proto = 17) ∧ (if isUdp then 8 else 20) ≤ n ∧ off + n ≤ bs.length then
      some { pseudo := addrs ++ beBytes 4 proto ++ beBytes 4 n, off, len := n, csum := off + if isUdp then 6 else 16, isUdp, v4 : L4Seg }
    else none
  match ip4Header bs with
  | some (o, n) =>
    if beAt bs (o + 6) 2 % 16384 ≠ 0 ∨ beAt bs (o + 2) 2 < n then none
    else make true (slice bs (o + 12) 8) (beAt bs (o + 9) 1) (o + n) (beAt bs (o + 2) 2 - n)
  | none =>
    if t.etype bs = 0x86DD ∧ beAt bs o 1 / 16 = 6 ∧ o + 40 ≤ bs.length then
      make false (slice bs (o + 8) 32) (beAt bs (o + 6) 1) (o + 40) (beAt bs (o + 4) 2)
    else none

/-- The transmit offload: the frame with the checksums asked for, and whether one did not apply (R501). -/
def csumInsert (ip4 l4 : Bool) (bs : Bytes) : Bytes × Bool :=
  let a := match ip4, ip4Header bs with
    | true, some (o, n) =>
      let z := overwrite bs (o + 10) [0, 0]
      (overwrite z (o + 10) (beBytes 2 (csum16 (slice z o n))), false)
    | c, _ => (bs, c)
  match l4, l4Seg a.1 with
  | true, some g =>
    let z := overwrite a.1 g.csum [0, 0]
    let c := csum16 (g.pseudo ++ slice z g.off g.len)
    (overwrite z g.csum (beBytes 2 (if g.isUdp ∧ c = 0 then 0xFFFF else c)), a.2)
  | c, _ => (a.1, a.2 || c)

/-- IP_CSUM and L4_CSUM of a received frame: 0 not checked, 1 good, 2 bad (R502). -/
def csumCheck (bs : Bytes) : Nat × Nat :=
  ((match ip4Header bs with
    | some (o, n) => if sum16 (slice bs o n) = 65535 then 1 else 2
    | none => 0),
   match l4Seg bs with
    | some g =>
      if g.isUdp && g.v4 && beAt bs g.csum 2 == 0 then 0
      else if sum16 (g.pseudo ++ slice bs g.off g.len) = 65535 then 1 else 2
    | none => 0)

namespace State

/-! ### Opening and closing (R483, R484) -/

/-- DIRECT_RESERVE of every DIRECT ring but `r` that is not CLOSED and targets a port of cluster `c`. -/
def reserveSum (s : State) (r c : Nat) : Nat :=
  ((s.rings.filter fun e => e.1 != r && e.2.st != .closed && isTxRing e.1 && s.regN (rIdx e.1) 5 == 1
    && s.regN (rIdx e.1) 9 / 64 == c).map fun e => s.regN (rIdx e.1) 0xB).sum

/-- Every check of R483 passes. -/
def ringOk (s : State) (r : Nat) : Bool :=
  let base := s.regN (rIdx r) 3
  let size := s.regN (rIdx r) 4
  let type := s.regN (rIdx r) 5
  let port := s.regN (rIdx r) 9
  base % 64 == 0 && base + s.descLen r * size ≤ 2 ^ 64 && ((List.range 14).any fun k => size == 2 ^ (k + 3))
    && !(type == 2 && s.regN (rIdx r) 6 == 0) && !(type ≤ 1 && 1024 ≤ port)
    && !(type == 1 && (s.regN (rIdx r) 0xB < s.regN (0x1000 + port) 7
          || 262144 < s.reserveSum r (port / 64) + s.regN (rIdx r) 0xB))
    && s.isOn (domDma (r / 64))

/-- RING_ENABLE 1 on a CLOSED ring (R483): it opens, or stays CLOSED with cause OPEN_REFUSED. -/
def openRing (s : State) (r : Nat) : State :=
  if s.ringOk r then s.setRing r { st := .opening, cause := (s.ring r).cause } else s.ringCause r 5

/-- The ring enters CLOSING (R484). -/
def closeRing (s : State) (r : Nat) : State := s.updRing r fun q => { q with st := .closing, enLatched := none }

/-- An OPENING ring is OPEN, and closes at once where RING_ENABLE 0 has landed meanwhile (R483, R540). -/
def ringOpened (s : State) (r : Nat) : State :=
  let q := s.ring r
  let s := s.setRing r { q with st := .opened, enLatched := none }
  if q.enLatched = some false then s.closeRing r else s

/-- A RING_ENABLE write lands (R483, R484). -/
def landRingEnable (s : State) (r : Nat) (v : Bool) : State :=
  let s := s.setReg (rIdx r) 1 (Word.ofBool v)
  match (s.ring r).st, v with
  | .closed, true => s.openRing r
  | .opened, false => s.closeRing r
  | .opening, v => s.updRing r fun q => { q with enLatched := some v }
  | .closing, v => s.updRing r fun q => { q with enLatched := some v }
  | _, _ => s

/-- Frames of the ring in the inject buffer or on their way to the wire of its port. -/
def directFrames (s : State) (r : Nat) : List Nat :=
  let q := s.portTxOf (s.regN (rIdx r) 9)
  let mine := fun (o : Option DirectRef) => match o with | some d => d.ring == some r | none => false
  ((q.inject.filter fun f => mine (some f.origin)).map fun f => f.bytes.length)
    ++ ((q.frames ++ q.wire.toList ++ q.held.toList).filter fun f => mine f.origin).map fun f => f.data.length - 4

/-- No descriptor of the ring is in progress (R484). -/
def ringIdle (s : State) (r : Nat) : Bool :=
  (s.ring r).chains.isEmpty && !((s.quarter (r / 64)).staged.any fun f => f.ring == r)
    && !(isTxRing r && ((s.regN (rIdx r) 5 == 1 && !(s.directFrames r).isEmpty) || !(s.gathered r).isEmpty))

/-- A TAIL write (R488, R489): on an OPEN ring it hands descriptors over. -/
def landTail (s : State) (r v : Nat) : State :=
  if (s.ring r).st = .opened then s.updRing r fun q => { q with tail := v, door := true, idle := false } else s

/-! ### Transmit chains (R488, R491, R497, R498) -/

/-- What gathering a FRAME chain ends in. -/
inductive Gathered
  /-- a fetch found nothing more -/
  | wait
  /-- the chain up to its LAST -/
  | chain (ds : List Desc)
  /-- descriptors that another FIRST, or a descriptor the ring may not run, cuts off -/
  | broken (ds : List Desc)
  /-- a descriptor that the ring may not run, with nothing before it -/
  | bad

/-- The fetch index moves past the descriptor just fetched. -/
def takeDesc (s : State) (r : Nat) : State := s.updRing r fun q => { q with fetch := (q.fetch + 1) % s.ringSize r }

/-- A FRAME descriptor is taken, and its buffer read into the transmit staging (R497). -/
def takeBuffer (s : State) (r : Nat) (d : Desc) : State :=
  ((s.takeDesc r).updRing r fun q => { q with buf := q.buf ++ s.memRead d.addr d.len }).busRead r d.len

/-- Up to `fuel` descriptors more of a FRAME chain, behind the descriptors `ds` gathered before (R488, R497). -/
def gatherTx (r : Nat) : Nat → List Desc → State → Gathered × State
  | 0, _, s => (.wait, s)
  | fuel + 1, ds, s =>
    let x := s.fetchDesc r
    match x.1 with
    | none => (.wait, x.2)
    | some d =>
      if d.opcode ≠ 0 ∨ !d.flagsOk then (if ds.isEmpty then (.bad, x.2.takeDesc r) else (.broken ds, s))
      else if d.isFirst && !ds.isEmpty then (.broken ds, s)
      else if d.isLast then (.chain (ds ++ [d]), x.2.takeBuffer r d)
      else gatherTx r fuel (ds ++ [d]) (x.2.takeBuffer r d)

/-- The chain in progress: what has been gathered and what follows it; one descriptor where rings of its level take turns (R493). -/
def nextTx (s : State) (r : Nat) : Gathered × State :=
  let ds := s.gathered r
  if wholeChain ds then (.chain ds, s) else gatherTx r (if s.shares r then 1 else s.ringSize r) ds s

/-- `n` descriptors from the chain's start are known to complete with one result; what can completes (R490). -/
def finishChain (s : State) (r n result : Nat) (len : Option Nat := none) : State :=
  let first := s.chainStart r
  let s := s.updRing r fun q => { q with buf := [], chains := q.chains ++ [{ first, count := n, done := some (result, none), len }] }
  settleChains r (s.ring r).chains.length s

/-- A chain waits for its frame to leave the wire (TS_REQ, R498). -/
def waitChain (s : State) (r n : Nat) : State :=
  let first := s.chainStart r
  s.updRing r fun q => { q with buf := [], chains := q.chains ++ [{ first, count := n }] }

/-- The frame that the staging holds, after the checksum offload that its FIRST descriptor asks for (R501). -/
def chainFrame (s : State) (r : Nat) (ds : List Desc) : Bytes × State :=
  let d := ds.head?
  let y := csumInsert (d.elim false Desc.ip4) (d.elim false Desc.l4) (s.ring r).buf
  (y.1, if y.2 then s.bump (qIdx (r / 64)) 9 else s)

/-- The metadata word of a CORE frame (R497). -/
def coreMeta (s : State) (p : Nat) (bs : Bytes) : FrameMeta :=
  let t := parseTags bs 12 0 0 0
  { stamp := s.shortTime, port := p, length := bs.length + 4, vid := t.vid, pcp := t.pcp }

/-- A whole chain of a CORE ring (R497). Its frame waits in the staging while the skid refuses it. -/
def coreChain (s : State) (r : Nat) (ds : List Desc) : State :=
  let p := s.regN (rIdx r) 9
  let x := s.chainFrame r ds
  let n := x.1.length
  if !(ds.head?.elim false Desc.isFirst) ∨ n < 14 ∨ 16124 < n ∨ (s.port p).st ≠ .closed then x.2.finishChain r ds.length resDISCARDED
  else if x.2.skidFree (p / 64) < roundUp (n + 4) 64 ∨ !s.isOn (domLane (p / 64)) then s
  else
    let s := x.2.skidPush (p / 64) { port := p, metaWord := (x.2.coreMeta p x.1).word, bytes := x.1 ++ fcsOf x.1, fin := .good,
                                     reason := 0, reserve := roundUp (n + 4) 64 }
    s.finishChain r ds.length resOK

/-- A whole chain of a DIRECT ring (R498). Its frame waits in the staging while the reserve is too full. -/
def directChain (s : State) (r : Nat) (ds : List Desc) : State :=
  let p := s.regN (rIdx r) 9
  let x := s.chainFrame r ds
  let n := x.1.length
  let tsReq := ds.getLast?.elim false Desc.tsReq
  if !(ds.head?.elim false Desc.isFirst) ∨ (s.port p).st ≠ .opened then x.2.finishChain r ds.length resDISCARDED
  else if s.regN (rIdx r) 0xB < (s.directFrames r).sum + n then s
  else
    let s := x.2
    let origin : DirectRef := { ring := some r, chain := if tsReq then some (s.chainStart r) else none }
    let s := (s.updPortTx p fun q => { q with inject := q.inject ++ [{ origin, tc := ds.head?.elim 0 Desc.tc, bytes := x.1 }] }).settlePort p
    if tsReq then s.waitChain r ds.length else s.finishChain r ds.length resOK

/-- A FRAME chain of a transmit ring of the given type is gathered and placed, once the ring has the beat (R493). A CLOSING ring
takes no descriptor more; of an unfinished frame those taken are discarded (R484). -/
def runTx (s : State) (r type : Nat) (place : State → Nat → List Desc → State) : State :=
  if !isTxRing r ∨ 256 ≤ r ∨ s.regN (rIdx r) 5 ≠ type ∨ !s.quarterRuns (r / 64) ∨ !s.mayGo r then s
  else match (s.ring r).st with
    | .opened => (match (s.takeTurn r).nextTx r with
      | (.wait, t) => t
      | (.bad, t) => t.finishChain r 1 resBAD (some 0)
      | (.broken ds, t) => t.finishChain r ds.length resDISCARDED
      | (.chain ds, t) => place t r ds)
    | .closing =>
      let ds := s.gathered r
      if ds.isEmpty then s else if wholeChain ds then place s r ds else s.finishChain r ds.length resDISCARDED
    | _ => s

/-! ### Receive delivery (R499, R500) -/

/-- The receive fields of STATUS but FIRST, LAST and DONE_LEN (R485, R486, R502). -/
def rxFields (f : Staged) (v1 : Bool) : Nat :=
  let c := if f.cut then (0, 0) else csumCheck f.bytes
  c.2 * 2 ^ 56 + c.1 * 2 ^ 54 + f.port % 1024 * 2 ^ 38
    + if v1 then 0 else f.source % 16 * 2 ^ 50 + f.colour % 4 * 2 ^ 48 + f.vid % 4096 * 2 ^ 24

/-- One buffer of a staged frame is written and its descriptor completes; `bs` is what is left of the frame, `fail` the
bytes before a failing beat (R494). Answers what is left, none once the frame has ended. -/
def writeBuffer (s : State) (f : Staged) (i : Nat) (d : Desc) (bs : Bytes) (fail : Option Nat) : Option Bytes × State :=
  let r := f.ring
  let part := bs.take d.len
  let fields := b2n (bs.length = f.bytes.length) * 2 ^ 59 + rxFields f d.v1
  let rest := bs.drop part.length
  match fail with
  | some off =>
    let off := min off part.length
    let s := (s.memWrite d.addr (part.take off)).busWrite r off
    (none, s.completeDesc r i d resBAD off (some f.stamp) fields)
  | none =>
    let s := (s.memWrite d.addr part).busWrite r part.length
    (if rest.isEmpty then none else some rest,
     s.completeDesc r i d (if f.cut then resTRUNCATED else resOK) part.length (some f.stamp) (fields + b2n rest.isEmpty * 2 ^ 58))

/-- Descriptors of a staged frame from number `k` on are written and complete in ring order. `fail`: the descriptor, counted from the
frame's first, whose data write meets an error, and the bytes before the failing beat. Answers how many are used, and what is left of
the frame, none once it has ended. -/
def writeRx (f : Staged) (fail : Option (Nat × Nat)) : Nat → Nat → Bytes → State → Nat × Option Bytes × State
  | 0, k, bs, s => (k, some bs, s)
  | n + 1, k, bs, s =>
    let i := (f.first + k) % s.ringSize f.ring
    let d := s.readDesc f.ring i
    if d.opcode ≠ 0 ∨ !d.flagsOk then writeRx f fail n (k + 1) bs (s.completeDesc f.ring i d resBAD 0 none 0)
    else
      let x := s.writeBuffer f i d bs ((fail.filter fun e => e.1 == k).map (·.2))
      match x.1 with
      | none => (k + 1, none, x.2)
      | some rest => writeRx f fail n (k + 1) rest x.2

/-- Frames staged for the ring behind a frame that used fewer descriptors take theirs from index `i` on (R494, R499). -/
def restage (s : State) (r : Nat) : List Staged → Nat → List Staged × Nat
  | [], i => ([], i)
  | f :: rest, i =>
    if f.ring ≠ r then (fun x => (f :: x.1, x.2)) (restage s r rest i)
    else
      let n := s.usedDescs r 64 i f.bytes.length
      (fun x => ({ f with first := i, count := n } :: x.1, x.2)) (restage s r rest ((i + n) % s.ringSize r))

/-- A staged frame has ended after `used` of its descriptors: the others stay with the ring for the next frame (R499). -/
def endRx (s : State) (f : Staged) (used : Nat) : State :=
  let q := s.quarter (f.ring / 64)
  let s := s.setQuarter (f.ring / 64) { q with staged := q.staged.erase f }
  let s := if used = f.count then s
    else
      let q := s.quarter (f.ring / 64)
      let y := s.restage f.ring q.staged ((f.first + used) % s.ringSize f.ring)
      (s.setQuarter (f.ring / 64) { q with staged := y.1 }).updRing f.ring fun g => { g with next := y.2 }
  match f.copy with
  | some (c, k, n) => s.peepDelivered c k n
  | none => s

/-- The oldest frame staged for ring `r` is delivered (R499), one descriptor of it where rings of its level take turns (R493). -/
def deliverRx (s : State) (r : Nat) (fail : Option (Nat × Nat)) : State :=
  match (s.quarter (r / 64)).staged.find? fun f => f.ring == r with
  | none => s
  | some f =>
    let n := match fail with
      | some e => e.1 + 1 - f.sent
      | none => if s.shares r then 1 else f.count - f.sent
    let x := writeRx f fail n f.sent f.rest (s.takeTurn r)
    match x.2.1 with
    | none => x.2.2.endRx f x.1
    | some rest =>
      if f.count ≤ x.1 then x.2.2.endRx f x.1
      else
        let q := x.2.2.quarter (r / 64)
        x.2.2.setQuarter (r / 64) { q with staged := q.staged.map fun g => if g = f then { f with sent := x.1, rest } else g }

/-- A CLOSING ring with no descriptor in progress reaches CLOSED, and the last enable latched applies (R484). -/
def ringClosed (s : State) (r : Nat) : State :=
  let q := s.ring r
  let s := (s.setRing r { cause := q.cause }).ringCause r 6
  if q.enLatched = some true then s.openRing r else s

/-! ### Bus errors (R494, R504) -/

/-- A bus error is counted and captured unless a capture is held; event 0x850 + q at the first of each tick. -/
def busError (s : State) (r addr : Nat) (write descr : Bool) : State :=
  let i := r / 64
  let q := s.quarter i
  let s := if q.info.bit 31 then s
    else s.setQuarter i { q with addr := Word.ofNat addr
                                 info := Word.ofNat (2 ^ 31 + b2n write * 2 ^ 16 + b2n descr * 2 ^ 8 + r % 256) }
  (s.bump (qIdx i) 1).raiseOnce (0x850 + i)

/-- A descriptor fetch or status write of the ring failed (R494): HALTED, and the ring goes to CLOSING. -/
def haltRing (s : State) (r addr : Nat) (write : Bool) : State := ((s.busError r addr write true).ringCause r 4).closeRing r

/-- A read of BUS_ERR_INFO returns and clears the capture (R504). -/
def readBusErr (s : State) (i : Nat) : Word × State :=
  ((s.quarter i).info, s.setQuarter i { s.quarter i with addr := 0, info := 0 })

/-! ### Resets and power (R504, R506) -/

/-- The rings of quarter `i` as a warm reset leaves them: CLOSED at once, HEAD and TAIL 0, nothing staged, no capture. -/
def ringsClosed (s : State) (i : Nat) : State :=
  let s := { s with rings := SMap.eraseWhere (fun r => r / 64 == i) s.rings }
  let s := s.setQuarter i {}
  { s with regs := SMap.eraseWhere (fun k => keyIdx k / 256 == 8 && keyIdx k % 256 / 64 == i && keySub k == 1) s.regs }

/-- Quarter `i` as a cold reset leaves it. -/
def quarterCold (s : State) (i : Nat) : State :=
  let s := s.ringsClosed i
  let mine := fun k => (keyIdx k / 256 == 8 && keyIdx k % 256 / 64 == i) || keyIdx k == qIdx i
  ({ s with regs := SMap.eraseWhere mine s.regs }).clearCtrs mine

end State

/-! ### Meanings -/

/-- A FRAME chain of a CORE ring is gathered and offered (R497). -/
def execDescFrameCore (dt r : Nat) (s : State) : Res := .next ((s.elapse dt).runTx r 0 State.coreChain)

/-- A FRAME chain of a DIRECT ring is gathered and placed in the inject buffer (R498). -/
def execDescFrameDirect (dt r : Nat) (s : State) : Res := .next ((s.elapse dt).runTx r 1 State.directChain)

/-- The oldest frame staged for a receive ring is written into its descriptors (R499). -/
def execDmaRxDelivery (dt r : Nat) (s : State) : Res :=
  let s := s.elapse dt
  if s.quarterRuns (r / 64) && s.mayGo r then .next (s.deliverRx r none) else .next s

end Sys2Proof.Machine
end

