-- ==== Sys2Proof/Machine/Twin.lean ====
section
/-!
DEFINITION. The Hinge between the complexes of a pair (R431–R447), the digest and latch steps, self-test and paired logic (R449), and the swing pins (R44, R427, R429, R452, R453). What the
receiver of the stream does with it needs the dictionary and stands in MirrorRx.
-/
namespace Sys2Proof.Machine

/-- IDENTITY_PUB as bytes, and the identity check value of a public key (R230). -/
def identityPub : Bytes := (List.range 64).map Config.identityPub
def identityCheck (pub : Bytes) : Word := Word.ofNat (beNat ((sha256 pub).take 8))

/-- The digest that a HELLO_ACK signs (R432). -/
def ackDigest (nonce pub : Bytes) (versions : Nat) : Bytes := sha256 (nonce ++ pub ++ beBytes 1 versions)

/-- A signature as the 64 bytes r then s. -/
def sigBytes (digest : Bytes) : Bytes := beBytes 64 (Config.ecdsaSign digest).toNat

/-- A 48-bit difference as a signed number. -/
def signed48 (n : Nat) : Int := if n % 2 ^ 48 < 2 ^ 47 then (n % 2 ^ 48 : Nat) else ((n % 2 ^ 48 : Nat) : Int) - 2 ^ 48

namespace State

/-- Everything not acknowledged is sent again (R433, R439). -/
def streamResend (s : State) : State :=
  if s.twin.role = .active then s.twin.store.foldl (fun s e => s.hingeSend (.stream e.1 e.2)) s else s

/-! ### Paths (R432–R434) -/

/-- A path goes DOWN. With both DOWN the peer is lost (R434, R453); otherwise the stream moves to the other (R433). -/
def pathDown (s : State) (b : Bool) : State :=
  if !s.pathUp b then s
  else
    let inUse := s.sendPaths
    let s := (s.setPath b { s.path b with st := .down, nonce := none }).raise 0x841
    if s.pathUp (!b) then (if s.sendPaths == inUse.filter (· != b) then s else s.streamResend).settleStep
    else
      let s := (s.updTwin fun t => { t with peerLost := true }).raiseOnce 0x843
      let s := if s.twin.role = .standby then s.updTwin fun t => { t with request := true, toggles := 0 } else s
      s.settleStep

/-- A path becomes UP (R432, R434). -/
def pathRise (s : State) (b : Bool) (version delay : Nat) : State :=
  let before := s.sendPaths
  let now_ := s.runTime
  let s := s.setPath b { s.path b with st := .up, version, delay, beatAt := now_, missed := 0, sentAt := now_, peerSent := 0, arrived := 0 }
  let s := (s.updTwin fun t => { t with peerLost := false }).raise 0x842
  (if s.sendPaths == before then s else s.streamResend).settleStep

/-- The path is refused (R432). -/
def pathRefuse (s : State) (b : Bool) : State :=
  (s.setPath b { s.path b with st := .refused, refusedAt := s.runTime, nonce := none }).raiseOnce 0x844

/-- PEER_ID_HASH takes the peer's identity check value (R234). -/
def setPeerHash (s : State) (check : Word) : State := { s with keys := { s.keys with peerHash := check } }

/-- A message arrived with a bad CRC (R431). -/
def hingeCrcErr (s : State) : State := if s.hingeRuns then s.bump 0x0500 0x28 else s

/-- A message other than HELLO and HELLO_ACK is taken: the Hinge runs and its path is UP. -/
def hingeTakes (s : State) (b : Bool) : Bool := s.hingeRuns && s.pathUp b

/-- HINGE_ENABLE asks for the Hinge, the pair for it, and its domain is ON: a CLOSED Hinge opens (R430, R436). -/
def openHinge (s : State) : State :=
  if s.twin.hinge = .closed ∧ s.regB 0x0500 3 ∧ s.paired ∧ s.isOn domHinge
  then s.updTwin fun t => { t with hinge := .opening, hingeLatched := none } else s

/-- The Hinge closes: its paths go DOWN (R436). -/
def closeHinge (s : State) : State :=
  let s := (s.pathDown false).pathDown true
  s.updTwin fun t => { t with hinge := .closing, hingeLatched := none, pathA := {}, pathB := {} }

/-- A HINGE_ENABLE write lands (R436, R540). -/
def landHingeEnable (s : State) (v : Bool) : State :=
  let s := s.setReg 0x0500 3 (Word.ofBool v)
  match s.twin.hinge, v with
  | .closed, true => s.openHinge
  | .opened, false => s.closeHinge
  | .opening, v => s.updTwin fun t => { t with hingeLatched := some v }
  | .closing, v => s.updTwin fun t => { t with hingeLatched := some v }
  | _, _ => s

/-- Within a tick OPENING ends in OPEN and CLOSING in CLOSED; what was latched applies (R540). -/
def hingeTick (s : State) : State :=
  let latched := s.twin.hingeLatched
  match s.twin.hinge with
  | .opening =>
    let s := s.updTwin fun t => { t with hinge := .opened, hingeLatched := none }
    if latched = some false then s.closeHinge else s
  | .closing =>
    let s := s.updTwin fun t => { t with hinge := .closed, hingeLatched := none }
    if latched = some true then s.openHinge else s
  | _ => s

/-! ### Records (R443–R447) -/

/-- The PN part of a port's record (R445). -/
def pnInfo (s : State) (p : Nat) : PnInfo :=
  if !s.regB (0x1000 + p) 0x40 ∨ s.hingeVersion < 2 then {}
  else match s.encodingSa p with
    | none => {}
    | some r =>
      let w := s.saW (p / 64) 2 r
      { valid := true, an := w.bits 4 2, gen := s.slotGen (p / 64) r, pn := (s.saW (p / 64) 4 r).toNat }

/-- The records' PNs are compared (R445). -/
def comparePn (s : State) (p n : Nat) (own peer : PnInfo) : State :=
  if 2 ≤ s.hingeVersion && own.valid && peer.valid && own.an == peer.an && own.gen == peer.gen
      && s.regN 0x0500 0x1D < (own.pn - peer.pn) + (peer.pn - own.pn) then s.mismatch 3 p n else s

/-- Both sides' express records of a port and cycle are compared (R443). -/
def compareExpress (s : State) (own peer : ExpressRec) : State :=
  let s := if own.sum ≠ peer.sum ∨ own.count ≠ peer.count then s.mismatch 1 own.port own.cycle else s
  s.comparePn own.port own.cycle own.pn peer.pn

/-- A peer record counts as late or on time (R447). -/
def countTimely (s : State) (late : Bool) : State :=
  let limit := s.regN 0x0500 0x19
  if s.twin.peerLost then s
  else if late then
    let n := s.twin.lateRun + 1
    let s := (s.bump 0x0500 0x24).updTwin fun t => { t with lateRun := n, timelyRun := 0 }
    if limit ≤ n ∧ !s.twin.slow then (s.updTwin fun t => { t with slow := true }).raiseOnce 0x849 else s
  else
    let n := s.twin.timelyRun + 1
    s.updTwin fun t => { t with lateRun := 0, timelyRun := n, slow := t.slow && decide (n < limit) }

/-- The oldest digest of the port that is due closes: its record goes to the readout and the Hinge (R421, R443). -/
def closeDigest (s : State) (p : Nat) : State :=
  let q := s.shut p
  match q.digests with
  | [] => s
  | d :: rest =>
    if s.devTime < d.closeAt then s
    else
      let s := s.setShut p { q with digests := rest, record := (d.cycle, d.sum, d.count) }
      let r : ExpressRec := { port := p, cycle := d.cycle % 2 ^ 48, sum := d.sum, count := d.count, pn := s.pnInfo p }
      if !s.paired ∨ s.twin.role = .unadopted then s
      else
        let peer := s.twin.peerRecs.find? fun e => e.port == p && e.cycle == r.cycle
        let now_ := s.runTime
        let s := s.updTwin fun t => { t with ownRecs := t.ownRecs ++ [{ r, at_ := now_, done := peer.isSome }],
                                             peerRecs := t.peerRecs.filter fun e => e.port != p || cycleLater r.cycle e.cycle }
        let s := if s.peerAdopted then s.hingeSend (.express r) else s
        match peer with
        | some e => (s.countTimely false).compareExpress r e
        | none => s

/-- A peer's express record arrives (R443, R447). -/
def expressRx (s : State) (e : ExpressRec) : State :=
  let s := if e.pn.valid then s.updTwin fun t => { t with peerPn := SMap.set {} t.peerPn e.port e.pn } else s
  match s.twin.ownRecs.find? fun o => o.r.port == e.port && o.r.cycle == e.cycle with
  | some o =>
    if o.done then s
    else
      let s := s.updTwin fun t => { t with ownRecs := t.ownRecs.map fun x => if x = o then { x with done := true } else x }
      (s.countTimely (decide (s.regN 0x0500 0x18 < s.since o.at_))).compareExpress o.r e
  | none =>
    let q := s.shut e.port
    let open_ := q.digestClasses ≠ 0 ∧ q.st = .opened ∧ (q.cycle % 2 ^ 48 = e.cycle ∨ cycleLater q.cycle e.cycle ∨ q.digests.any fun d => d.cycle == e.cycle)
    if open_ then s.updTwin fun t => { t with peerRecs := (t.peerRecs.filter fun x => x ≠ e) ++ [e] } else s.countTimely true

/-- bulk_check of R444, then the PN comparison (R445). -/
def compareBulk (s : State) (own peer : BulkRec) : State :=
  let p := own.port
  let b := SMap.get {} s.twin.bulk p
  let put := fun (b : BulkPort) (s : State) => s.updTwin fun t => { t with bulk := SMap.set {} t.bulk p b }
  let s := if b.fresh then
      put { b with fresh := false, run := 0, baseF := (own.frames + (2 ^ 48 - peer.frames % 2 ^ 48)) % 2 ^ 48
                   baseO := (own.octets + (2 ^ 48 - peer.octets % 2 ^ 48)) % 2 ^ 48 } s
    else
      let df := signed48 (own.frames + (2 ^ 49 - peer.frames % 2 ^ 48 - b.baseF))
      let dO := signed48 (own.octets + (2 ^ 49 - peer.octets % 2 ^ 48 - b.baseO))
      let run := if s.regN 0x0500 0x1A < df.natAbs ∨ s.regN 0x0500 0x1B < dO.natAbs then b.run + 1 else 0
      if run = s.regN 0x0500 0x1C then (put { b with run := 0 } s).mismatch 2 p own.interval else put { b with run } s
  s.comparePn p own.interval own.pn peer.pn

/-- The own and the peer's record of one interval meet. -/
def bulkMeet (s : State) (p : Nat) : State :=
  let b := SMap.get {} s.twin.bulk p
  match b.own, b.peer with
  | some o, some e =>
    if o.interval = e.interval then
      (s.updTwin fun t => { t with bulk := SMap.set {} t.bulk p { b with own := none, peer := none } }).compareBulk o e
    else s
  | _, _ => s

/-- The records of bulk interval `k` are sent for every OPEN port (R444). -/
def bulkEnd (s : State) (k : Nat) : State :=
  let s := s.updTwin fun t => { t with bulkDone := some k }
  ((s.portRx.filter fun e => e.2.st == .opened).map (·.1)).foldl (fun s p =>
    let b := SMap.get {} s.twin.bulk p
    let r : BulkRec := { port := p, interval := k % 2 ^ 32, frames := b.frames, octets := b.octets, pn := s.pnInfo p }
    let s := s.updTwin fun t => { t with bulk := SMap.set {} t.bulk p { b with own := some r } }
    let s := if s.peerAdopted then s.hingeSend (.bulk r) else s
    s.bulkMeet p) s

/-- A peer's bulk record arrives (R444): it meets the own one, or waits for the own interval to end. -/
def bulkRx (s : State) (e : BulkRec) : State :=
  let s := if e.pn.valid then s.updTwin fun t => { t with peerPn := SMap.set {} t.peerPn e.port e.pn } else s
  let b := SMap.get {} s.twin.bulk e.port
  let ahead := match s.twin.bulkDone with | some k => decide (k % 2 ^ 32 < e.interval) | none => true
  let due := match b.own with | some o => o.interval == e.interval | none => false
  if due || ahead then (s.updTwin fun t => { t with bulk := SMap.set {} t.bulk e.port { b with peer := some e } }).bulkMeet e.port else s

/-! ### Taking the lanes (R452) -/

/-- Step 2 of R452 for one port: NEXT_PN of the encoding SA jumps. -/
def pnJump (s : State) (p : Nat) : State :=
  match s.regB (0x1000 + p) 0x40, s.encodingSa p with
  | true, some r =>
    let c := p / 64
    let w := s.saW c 2 r
    let own := (s.saW c 4 r).toNat
    let peer := SMap.get {} s.twin.peerPn p
    let peerPn := if peer.valid ∧ peer.an = w.bits 4 2 ∧ peer.gen = s.slotGen c r then peer.pn else 0
    let pn := s.regN 0x0500 0x1D + max own peerPn
    let xpn := match s.slotKeyOf c r with | some k => k.xpn | none => false
    let s := s.rowSet (winIdx c 7) 4 r (Word.ofNat (min pn (2 ^ 64 - 1)))
    if s.pnThreshold c r xpn ≤ pn then s.saFlag c r 17 else s
  | _, _ => s

/-- The ports whose MAC objects or state are listed. -/
def knownPorts (s : State) : List Nat :=
  (List.range 1024).filter fun p => (s.port p).st != .closed

/-- A STANDBY or ORPHAN becomes ACTIVE (R452). -/
def takeOver (s : State) : State :=
  let s := s.knownPorts.foldl (fun s p => s.pnJump p) s
  let now_ := s.runTime
  let s := s.updTwin fun t => { t with request := false, aliveAt := now_, hold := [], store := [], resync := .idle }
  s.setRole .active

/-- SOLO has landed as TWIN_MODE: an adopted complex that may still take the lanes is ACTIVE whatever sel_mine shows (R430,
DEDUCED for a mode written after the adoption, log 62). -/
def soloRole (s : State) : State :=
  if !s.paired && (s.twin.role == .standby || s.twin.role == .orphan) then s.takeOver else s

/-! ### Self-test and paired logic (R449) -/

/-- A spare bank of unit `u` (16: common) is free. -/
def spareFree (s : State) (u : Nat) : Bool := s.twin.spares.bit u

/-- A bank of unit `u` fails its march test. -/
def bankFailed (s : State) (u bank : Nat) : State :=
  if s.spareFree u then
    (s.updTwin fun t => { t with spares := t.spares.setBit u false
                                 stestCapture := Word.ofNat (2 ^ 31 + u % 32 * 2 ^ 16 + bank % 2 ^ 16) }).raiseOnce 0x84C
  else (s.updTwin fun t => { t with selftestFault := true }).raiseOnce 0x84C

/-- Captures that a read clears (R436). -/
def readMismatch (s : State) : Word × State := (s.twin.mismatch, s.updTwin fun t => { t with mismatch := 0 })
def readStest (s : State) : Word × State := (s.twin.stestCapture, s.updTwin fun t => { t with stestCapture := 0 })

/-- DEMOTE lands (R429). -/
def landDemote (s : State) : State := s.demote

/-- REINSTATE may land: DEMOTED with FAULT 0 (R429). -/
def reinstateOk (s : State) : Bool := s.twin.role == .demoted && s.faults == 0

/-- REINSTATE lands: ORPHAN, or ACTIVE with TWIN_MODE SOLO, whose role does not follow R429 (R430). -/
def landReinstate (s : State) : State := if s.paired then s.setRole .orphan else s.setRole .active

end State

/-! ### Meanings -/

/-- A HELLO is due on a path that is neither UP nor REFUSED (R431, R432). -/
def execHelloTx (dt : Nat) (path : Bool) (s : State) : Res :=
  let s := s.elapse dt
  let q := s.path path
  let due := q.nonce.isNone || 2 ^ 23 ≤ s.since q.helloAt
  if !s.hingeRuns || !s.paired || q.st == .up || q.st == .refused || !due then .next s
  else
    let n := s.storeDraw 2
    let s := n.2.setPath path { q with st := .hello, nonce := some n.1, helloAt := n.2.runTime }
    .next (s.pathSend path (.hello
      { versions := hingeVersions, stepping, deviceId := s.regN 0x0100 3, role := s.twin.role.code, adopted := s.keys.adopted,
        serial := Config.serial, pub := identityPub, nonce := n.1, sent := s.shortTime }))

/-- A HELLO arrives and is answered at once (R432). -/
def execHelloRx (dt : Nat) (path crcOk : Bool) (h : Hello) (s : State) : Res :=
  let s := s.elapse dt
  if !s.hingeRuns then .next s
  else if !crcOk then .next s.hingeCrcErr
  else
    let s := s.setPath path { s.path path with peer := some h }
    .next (s.pathSend path (.helloAck h.nonce (sigBytes (ackDigest h.nonce identityPub hingeVersions)) 0))

/-- A HELLO_ACK arrives: the path becomes UP or REFUSED (R432, R433, R234). One that does not echo the last nonce, or that
comes before the peer's own HELLO, is not an answer and changes nothing. -/
def execHelloAckRx (dt : Nat) (path crcOk : Bool) (echo sig : Bytes) (held : Nat) (s : State) : Res :=
  let s := s.elapse dt
  let q := s.path path
  if !s.hingeRuns then .next s
  else if !crcOk then .next s.hingeCrcErr
  else match q.peer, q.nonce with
    | some h, some nonce =>
      if q.st ≠ .hello ∨ echo ≠ nonce then .next s
      else
        let version := topVersion (hingeVersions &&& h.versions)
        let delay := (s.since q.helloAt - held) / 2
        let check := identityCheck h.pub
        let expect_ := s.reg 0x0500 9
        let ok := version ≠ 0 ∧ Config.ecdsaVerify h.pub (ackDigest nonce h.pub h.versions) sig = true
          ∧ (expect_ = 0 ∨ expect_ = check) ∧ delay ≤ 2 ^ 16 ∧ (s.pathUp (!path) = true → (s.path (!path)).version = version)
        if !ok then .next (s.pathRefuse path)
        else
          let changed := s.keys.peerHash ≠ 0 ∧ s.keys.peerHash ≠ check
          let s := s.setPeerHash check
          let s := if changed then s.raiseOnce 0x836 else s
          .next (s.pathRise path version delay)
    | _, _ => .next s

/-- The hold-off of a REFUSED path ends (R432). -/
def execRefusedPathHoldoffEnd (dt : Nat) (path : Bool) (s : State) : Res :=
  let s := s.elapse dt
  let q := s.path path
  if q.st = .refused ∧ 2 ^ 36 ≤ s.since q.refusedAt then .next (s.setPath path { q with st := .down }) else .next s

/-- A HEARTBEAT is due on an UP path (R431, R435). -/
def execHeartbeatTx (dt : Nat) (path : Bool) (s : State) : Res :=
  let s := s.elapse dt
  let q := s.path path
  if s.hingeTakes path && 2 ^ 21 ≤ s.since q.sentAt then
    .next ((s.setPath path { q with sentAt := s.runTime }).pathSend path (.heartbeat s.devTime q.peerSent q.arrived))
  else .next s

/-- The offset measured by one HEARTBEAT joins the last 16, whose mean is PEER_TIME_OFFSET (R435). -/
def State.newOffset (s : State) (m : Int) : State :=
  let offsets := (m :: s.twin.offsets).take 16
  let offset := offsets.sum / offsets.length
  let far := decide (s.regN 0x0500 0x1E < offset.natAbs)
  let was := s.twin.misaligned
  let s := s.updTwin fun t => { t with offsets, offset, misaligned := far }
  if far && !was then s.raiseOnce 0x84F else s

/-- The heartbeats that should have arrived since the last one, less those counted, count as missed (R434). -/
def State.countMisses (s : State) (path : Bool) (n : Nat) : State :=
  let q := s.path path
  (s.setPath path { q with missed := max q.missed n }).bump 0x0500 (if path then 0x27 else 0x26) (n - q.missed)

/-- A HEARTBEAT arrives on an UP path (R434, R435). -/
def execHeartbeatRx (dt : Nat) (path crcOk : Bool) (sent peerSent arrived : Nat) (s : State) : Res :=
  let s := s.elapse dt
  if !crcOk then .next s.hingeCrcErr
  else if !s.hingeTakes path then .next s
  else
    let s := s.countMisses path (s.since (s.path path).beatAt / 2 ^ 21 - 1)
    let s := s.setPath path { s.path path with beatAt := s.runTime, missed := 0, peerSent := sent, arrived := s.devTime }
    if peerSent = 0 then .next s
    else .next (s.newOffset ((((arrived : Int) - peerSent) - ((s.devTime : Int) - sent)) / 2))

/-- No valid HEARTBEAT for 2^23 gr: the path goes DOWN (R434). -/
def execHeartbeatTimeout (dt : Nat) (path : Bool) (s : State) : Res :=
  let s := s.elapse dt
  if s.hingeTakes path && 2 ^ 23 ≤ s.since (s.path path).beatAt then .next ((s.countMisses path 4).pathDown path) else .next s

/-- The receiver acknowledges the stream (R431, R437). -/
def execMirrorAckTx (dt : Nat) (s : State) : Res :=
  let s := s.elapse dt
  let t := s.twin
  if t.role = .active ∨ t.role = .unadopted ∨ t.seq = t.ackSent ∨ s.sendPaths.isEmpty ∨ !s.hingeRuns then .next s
  else
    let now_ := s.runTime
    .next ((s.updTwin fun t => { t with ackSent := t.seq, ackAt := now_ }).hingeSend (.mirrorAck t.seq))

/-- A cumulative MIRROR_ACK frees what it acknowledges (R439). -/
def execMirrorAckRx (dt : Nat) (path crcOk : Bool) (seq : Nat) (s : State) : Res :=
  let s := s.elapse dt
  if !crcOk then .next s.hingeCrcErr
  else if !s.hingeTakes path ∨ s.twin.role ≠ .active then .next s
  else .next (s.updTwin fun t => { t with acked := max t.acked (min seq t.seq), store := t.store.filter fun e => seq < e.1 })

/-- At the start of a commit cycle the admin list is latched (R337); a swap that waits for the active's mark is not (R350). `upset`: an admin entry of the list with an uncorrectable error. -/
def execSwapLatch (dt p : Nat) (upset : Option Nat) (s : State) : Res :=
  let s := s.elapse dt
  match (s.shut p).pend with
  | some w =>
    if !s.queueRuns (p / 64) ∨ w.latched.isSome ∨ s.devTime < w.start ∨ s.waitsMark w then .next s
    else
      let s := match upset with | some k => s.shutterEcc p (k % 1024) false | none => s
      settled (.next (s.latchSwap p))
  | none => .next s

/-- A digest closes 2^20 gr after its cycle's end (R421). -/
def execDigestClose (dt p : Nat) (s : State) : Res :=
  let s := s.elapse dt
  if s.isOn domCalc && s.queueRuns (p / 64) then settled (.next (s.closeDigest p)) else .next s

/-- A peer EXPRESS_RECORD arrives (R443). -/
def execExpressRecordRx (dt : Nat) (path crcOk : Bool) (r : ExpressRec) (s : State) : Res :=
  let s := s.elapse dt
  if !crcOk then .next s.hingeCrcErr
  else if s.hingeTakes path && r.port < 1024 then .next (s.expressRx r) else .next s

/-- 2^20 gr after the end of a bulk interval the records are sent (R444). -/
def execBulkIntervalEnd (dt : Nat) (s : State) : Res :=
  let s := s.elapse dt
  let n := (s.devTime - 2 ^ 20) / 2 ^ 24
  if n = 0 ∨ s.twin.bulkDone = some (n - 1) ∨ !s.hingeRuns then .next s else .next (s.bulkEnd (n - 1))

/-- A peer BULK_RECORD arrives (R444). -/
def execBulkRecordRx (dt : Nat) (path crcOk : Bool) (r : BulkRec) (s : State) : Res :=
  let s := s.elapse dt
  if !crcOk then .next s.hingeCrcErr
  else if s.hingeTakes path && r.port < 1024 && (s.port r.port).st == .opened then .next (s.bulkRx r) else .next s

/-- Own records older than 2^26 gr are dropped (R443). -/
def execRecordExpiry (dt : Nat) (s : State) : Res :=
  let s := s.elapse dt
  .next (s.updTwin fun t => { t with ownRecs := t.ownRecs.filter fun e => s.since e.at_ < 2 ^ 26 })

/-- DEMOTING arrives: the receiver raises wdx_request (R451). -/
def execDemotingRx (dt : Nat) (path crcOk : Bool) (s : State) : Res :=
  let s := s.elapse dt
  if !crcOk then .next s.hingeCrcErr
  else if s.hingeTakes path ∧ (s.twin.role = .standby ∨ s.twin.role = .orphan) then
    .next (s.updTwin fun t => { t with request := true, toggles := 0 })
  else .next s

/-- One bank goes through the continuous self-test: `unit` 0–15 a cluster, 16 the common area; `last` ends the rotation
(R449). Testing in a unit whose spare is in use has stopped; a failure found there has no spare. -/
def execStestBankTest (dt unit bank : Nat) (ok last : Bool) (s : State) : Res :=
  let s := s.elapse dt
  if !s.isOn domStest ∨ !s.clocked ∨ !s.regB 0x0500 0x30 ∨ 17 ≤ unit then .next s
  else
    let s := if ok then s else s.bankFailed unit bank
    settled (.next (if last then s.bump 0x0500 0x31 else s))

/-- A comparator of paired logic fires: PAIRED_CAPTURE names the unit, 0–3, of a cluster or, 16, the common area (R449). -/
def execPairedComparatorFire (dt cluster unit : Nat) (s : State) : Res :=
  let s := s.elapse dt
  let s := s.updTwin fun t => { t with pairedFault := true
                                       pairedCapture := Word.ofNat (2 ^ 31 + cluster % 32 * 2 ^ 16 + unit % 16) }
  settled (.next (s.raiseOnce 0x84D))

/-- The ACTIVE complex toggles wdx_alive every 2^19 gr (R427). -/
def execWdxAliveToggle (dt : Nat) (s : State) : Res :=
  let s := s.elapse dt
  if s.twin.role = .active ∧ 2 ^ 19 ≤ s.since s.twin.aliveAt then
    let now_ := s.runTime
    .next (s.updTwin fun t => { t with alive := !t.alive, aliveAt := now_ })
  else .next s

/-- peer_alive has held one level for 5 × 2^19 gr: a complex not selected raises wdx_request (R44). -/
def execPeerAliveTimeout (dt : Nat) (s : State) : Res :=
  let s := s.elapse dt
  let t := s.twin
  if (t.role = .standby ∨ t.role = .orphan) ∧ !t.selMine ∧ !t.request ∧ 5 * 2 ^ 19 ≤ s.since t.peerAliveAt then
    .next (s.updTwin fun t => { t with request := true, toggles := 0 })
  else .next s

/-- peer_alive toggles; the second toggle while the request is up lowers it (R44, R453). -/
def execPeerAliveToggle (dt : Nat) (s : State) : Res :=
  let s := s.elapse dt
  let now_ := s.runTime
  let s := s.updTwin fun t => { t with peerAlive := !t.peerAlive, peerAliveAt := now_, toggles := if t.request then t.toggles + 1 else t.toggles }
  if s.twin.request ∧ 2 ≤ s.twin.toggles then .next ((s.updTwin fun t => { t with request := false, toggles := 0 }).settleStep)
  else .next s

/-- sel_mine rises: wdx_request falls, and a shadow takes over (R44, R429, R452). -/
def execSelMineRise (dt : Nat) (s : State) : Res :=
  let s := s.elapse dt
  let s := s.updTwin fun t => { t with selMine := true, request := false }
  match s.twin.role with
  | .standby => settled (.next s.takeOver)
  | .orphan => settled (.next s.takeOver)
  | _ => .next s

/-- sel_mine falls: an ACTIVE complex of a pair that did not release has lost the lanes (R429, R430); a release that a reset began
is over (R46). -/
def execSelMineFall (dt : Nat) (s : State) : Res :=
  let s := s.elapse dt
  let s := s.updTwin fun t => { t with selMine := false, release := t.role == .demoted }
  if s.twin.role = .active ∧ s.paired then .next (((s.mismatchCapture 4 0 0).swingRelease).setRole .demoted) else .next s

/-- At the first gap after the rise a port switches to its own PCS output (R393). -/
def execPcsOutputSwitch (dt p : Nat) (s : State) : Res :=
  let s := s.elapse dt
  let q := s.portTxOf p
  if s.twin.role = .active ∧ (s.port p).st = .opened ∧ q.wire.isNone ∧ q.held.isNone then
    .next ((s.setPortTx p { q with ownPcs := true }).settleSignal p)
  else .next s

end Sys2Proof.Machine
end

