-- ==== Sys2Proof/Machine/Rows.lean ====
section
/-!
DEFINITION. Table rows as a whole (R69, R73), the configuration digest (R440), and attestation and adoption (R230–R233).
-/
namespace Sys2Proof.Machine
namespace State

/-! ### Row images -/

/-- The subindex at which slot `i` of the image of table `t` lies in the row store: the 16 slots of PATTERN follow 0x20. -/
def imageSub (t i : Nat) : Nat := if t = 0xB ∧ 4 ≤ i then 0x1C + i else 2 + i

/-- The row image that DATA carries, from the row as it stands (R69). A key row has none to show (R210). -/
def rowImage (s : State) (c t r : Nat) : List Word :=
  match t with
  | 5 => let d := s.doorImage c r; [d.1, d.2.1]
  | 6 => List.replicate 8 0
  | 7 => [s.saCtrl c r, s.saW c 3 r, s.saW c 4 r, s.saW c 5 r]
  | _ => (List.range (tableImageSlots t)).map fun i => s.rowGet (winIdx c t) (imageSub t i) r

/-! ### The configuration digest (R440) -/

/-- The bytes of a word, most significant first (R4); a row image streams its slots instead (R73). -/
def wordBytes (w : Word) : Bytes := beBytes 8 w.toNat
def streamBytes (ws : List Word) : Bytes := ws.flatMap fun w => leBytes 8 w.toNat

/-- What a row of a table other than 0x05 and 0x06 feeds: its image, without live PNs, status and running state. -/
def digestImage (s : State) (c t r : Nat) : List Word :=
  let img := s.rowImage c t r
  match t with
  | 7 => [(img.getD 0 0) &&& ~~~(0x70000 : Word), img.getD 1 0, 0, img.getD 3 0]
  | 8 => ((img.getD 0 0) &&& ~~~(0x18000000 : Word)) :: img.drop 1
  | _ => img

/-- The items of one table of one cluster. -/
def tableItems (s : State) (c t : Nat) : List Bytes :=
  let w := winIdx c t
  match t with
  | 5 => (s.clRx c).door.rows.filterMap fun e => match e.2.entry with
      | some d => if d.kind = 0 then none else
          let img := s.doorImage c e.1
          some (beBytes 2 w ++ leBytes 6 img.1.toNat ++ wordBytes (img.2.1.setBits 61 3 0))
      | none => none
  | 6 => (List.range 4096).map fun r =>
      let m := (s.slot (4096 * c + r)).master
      beBytes 2 w ++ beBytes 4 r ++ beBytes 1 (b2n m.isSome) ++ beBytes 1 (match m with | some k => k.suite - 1 | none => 0)
  | _ => (List.range (tableRows t)).map fun r => beBytes 2 w ++ beBytes 4 r ++ streamBytes (s.digestImage c t r)

/-- The item of one object: none for an RO object, a STROBE and the second slot of a TIME84, whose value its first carries. -/
def objItem (s : State) (idx : Nat) (o : ObjInfo) : Option Bytes :=
  if !mirrored idx o.sub ∨ o.acc = .ro ∨ o.ty = .strobe ∨ o.ty = .time84hi then none
  else
    let low := wordBytes (if o.acc = .wo then 0 else s.reg idx o.sub)
    let value := if o.ty = .time84lo then wordBytes (s.reg idx (o.sub + 1)) ++ low else low
    some (beBytes 2 idx ++ beBytes 1 o.sub ++ value)

/-- The items of one index. -/
def indexItems (s : State) (idx : Nat) : List Bytes :=
  match classify idx with
  | some (.window c t) => s.tableItems c t
  | some ix => (objsOf ix).filterMap fun o => s.objItem idx o
  | none => []

/-- The indexes that hold mirrored items, by row of the index map (R64). -/
def mirrorGroups : List (List Nat) :=
  [[0x0100], [0x0A00], [0x0B00], (List.range 1024).map (0x1000 + ·), (List.range 1024).map (0x1400 + ·),
   (List.range 1024).map (0x1C00 + ·), (List.range 256).map (0x2000 + ·), (List.range 4096).map (0x3000 + ·)]

/-- CONFIG_DIGEST: the sum of crc64_ecma over every item (R440). -/
def configDigest (s : State) : Word :=
  mirrorGroups.flatten.foldl (fun d idx => (s.indexItems idx).foldl (fun d b => d + Word.ofNat (crc64 b)) d) 0

/-! ### Attestation and adoption -/

/-- Bytes 0–79 of an attestation report over a nonce (R231). -/
def reportBody (s : State) (nonce : Bytes) : Bytes :=
  beBytes 2 1 ++ beBytes 1 stepping ++ beBytes 1 s.twin.role.code ++ beBytes 3 (s.regN 0x0100 3) ++ beBytes 1 (b2n s.keys.adopted)
    ++ wordBytes Config.serial ++ beBytes 4 s.keys.count ++ beBytes 1 s.keys.latch ++ beBytes 1 s.keys.trng.code ++ [0, 0]
    ++ beBytes 12 s.devTime ++ padTo 32 nonce ++ wordBytes s.configDigest ++ [0, 0, 0, 0]

/-- One 8-byte write of ATTEST_NONCE; the fourth starts signing (R231). -/
def landNonce (s : State) (v : Word) : State :=
  let bytes := s.keys.nonce ++ leBytes 8 v.toNat
  if bytes.length < 32 then s.updKeys fun q => { q with nonce := bytes }
  else
    let body := s.reportBody bytes
    s.updKeys fun q => { q with nonce := [], signing := body, attest := .busy }

/-- ADOPT may land: the check value written last is the own one, or the complex is adopted (R233). -/
def adoptOk (s : State) : Bool := s.keys.adopted || s.keys.adoptCheck == identityCheck identityPub

/-- ADOPT lands (R233, R429, R430). -/
def landAdopt (s : State) : State :=
  if s.keys.adopted then s
  else
    let s := (s.settleFaults.updKeys fun q => { q with adopted := true }).raise 0x837
    if !s.paired || s.twin.selMine then
      let now_ := s.runTime
      (s.updTwin fun t => { t with aliveAt := now_ }).setRole .active
    else s.setRole .orphan

end State

/-- Signing completes (R231). -/
def execAttestReady (dt : Nat) (s : State) : Res :=
  let s := s.elapse dt
  if s.keys.attest ≠ .busy ∨ !s.isOn domKeys then .next s
  else
    let body := s.keys.signing
    .next ((s.updKeys fun q => { q with attest := .ready, report := body ++ sigBytes (sha256 body) }).raise 0x835)

end Sys2Proof.Machine
end

