-- ==== Sys2Proof/Machine/Power.lean ====
section
/-!
DEFINITION. Power domains (R50–R52, R97–R99, R109, R535–R539), clusters and LISTEN (R540–R548), complex sleep (R550),
resets and bring-up (R551–R553), and the PLL.
-/
namespace Sys2Proof.Machine
namespace State

/-! ### Domains: reading and conditions (R535, R536) -/

/-- DOMAIN_n. -/
def domainWord (s : State) (n : Nat) : Word :=
  if n = domAO then 0x303
  else
    let d := s.dom n
    Word.ofNat (b2n d.held * 2 ^ 17 + b2n (d.phase ≠ .idle) * 2 ^ 16 + d.ack.code * 2 ^ 8 + d.req.code)

/-- The ports of a cluster. -/
def portsOf (c : Nat) : List Nat := (List.range 64).map (64 * c + ·)

/-- A change of domain `n` towards ON is in progress (R97). -/
def rising (s : State) (n : Nat) : Bool := (s.dom n).phase != .idle && (s.dom n).goal == .on

/-- Domain `n` may leave ON (R535). -/
def mayLeave (s : State) (n : Nat) : Bool :=
  let closed := fun c => (s.clp c).st == .closed
  let hingeOk := !s.paired || s.twin.role == .unadopted
  if n < 64 then
    closed (n / 4) || (n % 4 == 1 && (portsOf (n / 4)).all fun p => !s.regB (0x1000 + p) 0x40 || (s.port p).st == .closed)
  else if n = domAO ∨ n = domDict then false
  else if n = domTime then (List.range 80).all fun m => m == domAO || m == domTime || ((s.dom m).ack != .on && !s.rising m)
  else if n = domHinge ∨ n = domStest then hingeOk
  else if n = domCalc then hingeOk && (List.range 1024).all fun p => s.reg (0x1400 + p) 0x28 == 0 || (s.port p).st == .closed
  else if n = domKeys then !s.anyKey
  else if n = domFabh then (List.range 1024).all fun p =>
    (s.reg (0x1000 + p) 0xC == 0 && s.reg (0x1000 + p) 0x20 != 1) || (s.port p).st == .closed
  else true

/-- A request for domain `n` meets R535 now: it leads up, changes nothing, or the domain may leave ON. While BUSY it is only
latched, and checked when it applies (R537). -/
def domainOk (s : State) (n : Nat) (goal : Pwr) : Bool :=
  n != domAO && n < 80 && ((s.dom n).phase != .idle || goal == .on || (s.dom n).ack == .off || ((s.dom n).ack == goal && (s.dom n).phase == .idle) || s.mayLeave n)

/-! ### What a domain loses and how it comes back (R539, R544) -/

/-- Domain `n` has reached OFF: what it held reads as after a cold reset (R544, R462, R506, R533). -/
def domainLost (s : State) (n : Nat) : State :=
  let c := n / 4
  if n < 64 then
    match n % 4 with
    | 0 =>
      let s := (((s.doorLost c).clearTable (winIdx c 8)).clearTable (winIdx c 9)).clearTable (winIdx c 0xB)
      s.updClRx c fun q => { q with skid := [], copyUse := q.copyUse - (q.skid.map (·.copyBytes)).sum }
    | 1 => ((s.loseBanks c).clearTable (winIdx c 7)).updClRx c fun q => { q with holdPeak := 0 }
    | 2 =>
      let s := ((s.schedCold c).clearTable (winIdx c 0xA)).updClTx c fun q => { q with badRows := [] }
      (portsOf c).foldl (fun s p => s.closeShutter p true) s
    | _ => (s.metersCold c).losePortCtrs c
  else if domDma 0 ≤ n ∧ n ≤ domDma 3 then s.quarterCold (n - 66)
  else if n = domEvt then s.evtDefaults
  else s

/-- TIME is ON with the PLL locked (R109, R106, R123). -/
def timeReturn (s : State) (fromOff : Bool) : State :=
  let t := s.time
  let adv := t.aoCount / 16384 * 35184372088832 * 2 ^ 32 / 10 ^ 7
  let s := { s with time := { t with acc := t.acc + BitVec.ofNat 116 adv, run := t.run + BitVec.ofNat 96 adv, aoCount := 0,
                                     restored := true, ticks := if fromOff then 0 else t.ticks
                                     tickAt := if fromOff then 0 else t.tickAt } }
  let s := { s with time := { s.time with secSeen := s.devSeconds } }
  if s.time.st = .unset then s else (s.setTimeState .freerun).raise 0x820

/-- Domain `n` is ON: restored or initialised, and its isolation removed (R539). -/
def domainBack (s : State) (n : Nat) : State :=
  let d := s.dom n
  let c := n / 4
  let away := s.since d.leftAt
  let s := s.setDom n { d with isolated := false }
  if n < 64 then
    match n % 4, d.fromOff with
    | 0, true => s.doorSchedule c
    | 0, false => s.sweepResume c
    | 1, true => s.reloadKeys c
    | 2, true => (portsOf c).foldl (fun s p => s.setReg (0x1400 + p) 1 0) s
    | 2, false => (portsOf c).foldl (fun s p => s.shutReturn p) (s.schedReturn c away)
    | 3, false => if 2 ^ 51 ≤ away then s.metersFull c else s
    | _, _ => s
  else if n = domTime then s.timeReturn d.fromOff
  else if n = domEvt then s.evtReturn d.fromOff
  else if n = domHinge then s.openHinge
  else if n = domTrng then s.updKeys fun q => { q with trng := .startup }
  else s

/-! ### Requests (R50, R97, R537) -/

/-- The functions of domain `n` close before it leaves ON, and LANE waits until the skid has drained: whether they are closed,
and the state (R27, R469, R484, R506). -/
def closeFunctions (s : State) (n : Nat) : Bool × State :=
  if domDma 0 ≤ n ∧ n ≤ domDma 3 then
    let mine := (s.rings.map (·.1)).filter fun r => r / 64 == n - 66
    let s := mine.foldl (fun s r =>
      let q := s.ring r
      if q.st = .opening ∨ q.st = .opened then s.closeRing r
      else if q.st = .closing then s.setRing r { q with enLatched := none } else s) s
    (mine.all fun r => (s.ring r).st == .closed, s)
  else if n = domSnap then (true, s.snapRelease)
  else if n = domHinge then
    let s := s.closeHinge
    (true, s.updTwin fun t => { t with hinge := .closed })
  else if n < 64 ∧ n % 4 = 0 then ((s.clRx (n / 4)).skid.isEmpty, s.sweepPause (n / 4))
  else (true, s)

/-- The complex takes domain `n` down to `goal`: functions first, then isolation and pwr_req (R537). -/
def goDown (s : State) (n : Nat) (goal : Pwr) : State :=
  if (s.dom n).ack ≠ .on then s.beginSwitch n goal
  else
    let x := s.closeFunctions n
    if x.1 then x.2.beginSwitch n goal else x.2.setDom n { x.2.dom n with phase := .closing, goal }

/-- A request of the complex itself for domain `n`. -/
def requestDomain (s : State) (n : Nat) (goal : Pwr) : State :=
  let d := s.dom n
  if goal = .on then s.requestOn n
  else if d.held then s
  else if d.phase ≠ .idle then s.setDom n { d with req := goal, latched := some (goal, none) }
  else
    let s := s.setDom n { d with req := goal }
    if d.ack = goal then s else s.goDown n goal

/-- A DOMAIN_n write lands (R536, R537): it clears HELD; while BUSY it is latched. A domain whose pwr_ack still differs from
pwr_req waits for it first (R50). -/
def landDomain (s : State) (n : Nat) (goal : Pwr) (via : Option Transport) : State :=
  let d := s.dom n
  let s := s.setDom n { d with held := false, req := goal }
  if d.phase ≠ .idle then s.setDom n { s.dom n with latched := some (goal, via) }
  else if d.pin ≠ d.ack then
    s.setDom n { s.dom n with phase := .switching, goal := d.pin, latched := if goal = d.pin then none else some (goal, via) }
  else if d.ack = goal then (if goal = .on ∧ d.isolated ∧ s.clocked then s.domainBack n else s)
  else s.requestDomain n goal

/-! ### Clusters (R541–R548) -/

/-- The cluster's objects of power. -/
def clPow (c : Nat) : Nat := clIdx c 0

/-- The port begins to close as if PORT_ENABLE 0 had landed, its object apart (R543). -/
def portDown (s : State) (p : Nat) : State :=
  match (s.port p).st with
  | .opened => s.closePort p
  | .opening => s.updPort p fun q => { q with closeAfterOpen := true }
  | .closing => s.updPort p fun q => { q with enLatched := none }
  | .closed => s

/-- The shutter list closes as if GATE_ENABLE 0 had landed, its object apart; at once while QUEUE is not ON (R543, R555). -/
def shutterDown (s : State) (p : Nat) : State :=
  if (s.shut p).st = .closed then s
  else if !s.isOn (domQueue (p / 64)) then s.closeShutter p true
  else
    let v := s.reg (0x1400 + p) 1
    (s.landGateEnable p false none).setReg (0x1400 + p) 1 v

/-- CLUSTER_ENABLE 0 on an OPEN cluster (R543). -/
def closeCluster (s : State) (c : Nat) : State :=
  let s := s.setClp c { s.clp c with st := .closing, enLatched := none, closeAfterOpen := false, night := .awake, listenLatched := false
                                     wakeLatched := false }
  (portsOf c).foldl (fun s p => (s.portDown p).shutterDown p) s

/-- LISTEN lands on an OPEN and AWAKE cluster: ENTERING (R545). -/
def enterListen (s : State) (c : Nat) : State :=
  let now_ := s.runTime
  let s := s.setClp c { s.clp c with night := .entering, enteringAt := now_, listenLatched := false, wakeLatched := false }
  (portsOf c).foldl (fun s p => if (s.port p).timers.isEmpty then s else s.stopTimers p) s

/-- All four domains of the cluster are ON: an OPENING cluster is OPEN and starts its ports and lists (R542); a WAKING one is
AWAKE (R546). -/
def settleCluster (s : State) (c : Nat) : State :=
  let q := s.clp c
  if !s.clusterOn c then s
  else
    let s := if q.night = .waking then
        let s := (s.sweepResume c).setClp c { q with night := .awake, wakeLatency := Word.ofNat (s.since q.wakeAt % 2 ^ 20) }
        let s := (portsOf c).foldl (fun s p => if (s.port p).st = .closed then s else
          s.updTwin fun t => { t with bulk := SMap.set {} t.bulk p { SMap.get {} t.bulk p with fresh := true, run := 0 } }) s
        (s.bump (clPow c) 6).raise 0x8C2 c
      else s
    let s := match (s.clp c).st with
      | .opening =>
        let s := s.setClp c { s.clp c with st := .opened, closeAfterOpen := false }
        let s := (portsOf c).foldl (fun s p =>
          let s := if s.regB (0x1000 + p) 1 then s.openPort p else s
          s.shutBegin p) s
        if q.closeAfterOpen then s.closeCluster c else s
      | _ => s
    if q.night = .waking && q.listenLatched && (s.clp c).st = .opened
    then (s.setReg (clPow c) 3 1).enterListen c else s

/-- A CLOSED cluster opens (R542). -/
def openCluster (s : State) (c : Nat) : State :=
  let s := s.setClp c { s.clp c with st := .opening, enLatched := none, closeAfterOpen := false, night := .awake }
  ((List.range 4).foldl (fun s k => s.requestOn (4 * c + k)) s).settleCluster c

/-- CLUSTER_ENABLE may land: 1 on a CLOSED cluster needs adoption (R542). -/
def clusterOk (s : State) (c : Nat) (v : Bool) : Bool := !v || (s.clp c).st != .closed || s.keys.adopted

/-- A CLUSTER_ENABLE write lands (R540, R542, R543). -/
def landClusterEnable (s : State) (c : Nat) (v : Bool) : State :=
  let s := s.setReg (clPow c) 1 (Word.ofBool v)
  let q := s.clp c
  match q.st, v with
  | .closed, true => s.openCluster c
  | .closed, false => s
  | .opening, v => s.setClp c { q with closeAfterOpen := !v }
  | .opened, true => s
  | .opened, false => s.closeCluster c
  | .closing, v => s.setClp c { q with enLatched := some v }

/-- CLUSTER_MODE may land: LISTEN only on an OPEN cluster (R545). -/
def modeOk (s : State) (c v : Nat) : Bool := v == 0 || (s.clp c).st == .opened

/-- A CLUSTER_MODE write lands (R545, R546, R555). -/
def landClusterMode (s : State) (c v : Nat) : State :=
  let s := s.setReg (clPow c) 3 (Word.ofNat v)
  let q := s.clp c
  if v = 0 then (match q.night with
    | .waking => s.setClp c { q with listenLatched := false }
    | _ => s.wakeCluster c)
  else match q.night with
    | .awake => s.enterListen c
    | .waking => s.setClp c { q with listenLatched := true }
    | _ => s

/-- No frame of the cluster remains in either direction (R545). -/
def clusterEmpty (s : State) (c : Nat) : Bool :=
  (s.clRx c).skid.isEmpty && (portsOf c).all fun p =>
    let q := s.portTxOf p
    q.frames.isEmpty && q.wire.isNone && q.held.isNone && q.tails.isEmpty && (s.port p).reasm.isNone && (s.port p).waiting.isEmpty

/-- The CLOSING cluster is done: every port and list CLOSED, the skid drained (R543). -/
def clusterDone (s : State) (c : Nat) : Bool :=
  (s.clRx c).skid.isEmpty && (portsOf c).all fun p => (s.port p).st == .closed && (s.shut p).st == .closed

/-! ### Resets (R551, R552 and the reset tables of the chapters) -/

/-- What every reset clears: LAST_REFUSAL, the in-band sequences, MISMATCH_CAPTURE, BUS_ERR captures, the record capture; a
held snapshot is released. -/
def everyReset (s : State) : State :=
  let s := { s with dict := { s.dict with lastRefusal := 0, rxSeq := 0, txSeq := 0 }, ev := { s.ev with capture := 0 } }
  let s := s.updTwin fun t => { t with mismatch := 0 }
  let s := (List.range 4).foldl (fun s i => s.setQuarter i { s.quarter i with addr := 0, info := 0 }) s
  s.snapRelease

/-- The captures of a cluster, which every reset of it clears. -/
def clearCaptures (s : State) (c : Nat) : State :=
  let s := s.updClTx c fun q => { q with schedCapture := 0, shutterCapture := 0, calCapture := 0, calEccCapture := 0 }
  s.updClRx c fun q => { q with meterCapture := 0, door := { q.door with capture := 0 } }

/-- The frame being received on a port, of those a reset cuts. -/
def cutOf (cuts : List (Nat × CutFrame)) (p : Nat) : Option CutFrame := (cuts.find? fun e => e.1 == p).map (·.2)

/-- The windows of a cluster after a reset that acts on them (R556). -/
def clearWindows (s : State) (f : Nat → Bool) : State := { s with dict := { s.dict with windows := SMap.eraseWhere f s.dict.windows } }

/-- A warm or cluster reset takes a cluster through CLOSED and reopens it; LISTEN ends by a wake (R544, R546, R551). With
`warm` PORT_ENABLE is 0 afterwards. -/
def clusterReset (s : State) (c : Nat) (warm : Bool) (cuts : List (Nat × CutFrame)) : State :=
  let s := s.wakeCluster c
  let s := if warm then (portsOf c).foldl (fun s p => s.setReg (0x1000 + p) 1 0) s else s
  let s := (portsOf c).foldl (fun s p =>
    if (s.port p).st = .closed ∧ (s.port p).cause = 0 ∧ (s.portTxOf p).cause = 0 then s else s.portReset p (cutOf cuts p)) s
  let s := (portsOf c).foldl (fun s p => if s.shut p = {} then s else s.shutReset p) s
  let woken := s.clp c |>.night
  let s := (s.schedWarm c).doorReset c (!warm)
  let s := if warm then s else (s.metersFull c).calClusterReset c
  let s := s.updClRx c fun q => { q with alerts := [], alertLost := false }
  let s := s.updClTx c fun q => { q with stamps := [], stampLatch := 0 }
  let s := s.clearCaptures c
  let q := s.clp c
  let s := if warm ∨ woken = .waking ∨ woken = .entering then s.setReg (clPow c) 3 0 else s
  if q.st = .closed then s
  else
    let s := s.setClp c { q with st := .closed, enLatched := none, closeAfterOpen := false, listenLatched := false, wakeLatched := false
                                 night := if q.night = .waking then .waking else .awake }
    if s.regB (clPow c) 1 then (s.setClp c { s.clp c with st := .opening }).settleCluster c else s

/-- A port reset (R127, R320, R353, R396). -/
def onePortReset (s : State) (p : Nat) (cut : Option CutFrame) : State :=
  let s := ((s.portReset p cut).schedPortReset p).shutReset p
  let s := (s.doorReset (p / 64) false).clearCaptures (p / 64)
  (s.shutRestart p).portReopen p

/-- Roles and Hinge at a warm reset (R455): the Hinge closes and, in a pair, reopens by HELLO. -/
def twinWarm (s : State) : State :=
  let s := s.closeHinge
  let s := s.updTwin fun t => { t with hinge := .closed, resync := .idle, hold := [], peerLost := false }
  let s := match s.twin.role with
    | .active => if s.paired then s.setRole .orphan else s.updTwin fun t => { t with release := false }
    | .standby => s.setRole .orphan
    | _ => s
  s.openHinge

/-- A warm reset (R551). -/
def warmReset (s : State) (cuts : List (Nat × CutFrame)) : State :=
  let s := if s.twin.role = .active then s.swingRelease else s
  let s := (List.range 4).foldl (fun s i => s.ringsClosed i) s
  let s := s.idleSources.emptyRings
  let s := (List.range 16).foldl (fun s c => s.clusterReset c true cuts) s
  let s := s.clearWindows fun _ => true
  let s := { s with dict := { s.dict with sessions := [], inSessions := [], queue := [], latched := [], offsets := [] } }
  let s := s.everyReset.twinWarm
  levelSources.foldl (fun s e => s.sampleLevel e) s

/-- What the object maps clear at a restore-defaults reset. -/
def restored (k : Nat) : Bool :=
  match objInfo (keyIdx k) (keySub k) with
  | some o => o.restore == .clears
  | none => true

/-- The role and everything of the Hinge gone: UNADOPTED (R455). Pins, captures of paired logic and faults stay, and a release of the
lanes goes on until sel_mine falls (R46). -/
def twinCold (s : State) : State :=
  s.updTwin fun t => { hinge := .closed, health := t.health, selftestFault := t.selftestFault, pairedFault := t.pairedFault
                       spares := t.spares, stestCapture := t.stestCapture, pairedCapture := t.pairedCapture, selMine := t.selMine
                       release := t.release && t.selMine, peerAlive := t.peerAlive, peerAliveAt := t.peerAliveAt, eccAt := t.eccAt, faultSeen := t.faultSeen
                       diverged := false }

/-- The units of every cluster as a restore-defaults reset leaves them; the pins stay, and the skid keeps its segments until they
are sent (R27). DESIGN CHOICE: KNOCK_LAST, which is no counter, is cleared here (assumption 101). -/
def unitsCold (s : State) : State :=
  let clusterRx : SMap ClusterRx := s.clusterRx.foldl (fun m e =>
    SMap.set {} m e.1 { ingReady := e.2.ingReady, skid := e.2.skid, copyUse := (e.2.skid.map (·.copyBytes)).sum }) []
  let portTx : SMap PortTx := s.portTx.foldl (fun m e => SMap.set {} m e.1 { xoff := e.2.xoff }) []
  { s with rows := [], clusterPower := [], portRx := [], clusterRx, clusterTx := [], portTx, shutters := [], rings := [], quarters := [], past := [] }

/-- A restore-defaults reset (R551): objects at their defaults, keys emptied, UNADOPTED, clusters and ports CLOSED, domain
requests at their defaults; time runs on in FREERUN. -/
def restoreReset (s : State) (cuts : List (Nat × CutFrame)) : State :=
  let s := if s.twin.role = .active then s.swingRelease else s
  let s := (s.portRx.map (·.1)).foldl (fun s p => s.portReset p (cutOf cuts p)) s
  let s := (s.eraseKeys.updKeys fun q => { q with adopted := false, attest := .idle, nonce := [], signing := [], report := []
                                                  stage := [], adoptCheck := 0 })
  let s := s.unitsCold
  let s := { s with regs := [] }
  let s := s.clearCtrs restored
  let s := (List.range 16).foldl (fun s c => s.doorCold c) s
  let s := { s with ev := {}, dict := { landing := s.dict.landing } }
  let s : State := s.everyReset.twinCold
  let st : TimeState := s.time.st
  let s : State := if st = .tracking ∨ st = .holdover then s.setTimeState .freerun else s
  let wanted := fun n => if n = domTime ∨ n = domEvt ∨ n = domDict ∨ n = domKeys ∨ n = domTrng then Pwr.on else .off
  ((List.range 80).filter (· ≠ domAO)).foldl (fun s n =>
    let s := s.requestDomain n (wanted n)
    s.setDom n { s.dom n with req := wanted n }) s

/-- The complex as a cold reset leaves it, its domains and time apart (R551). A cold reset by RESET keeps TAMPER_LAST, RESET_COUNT
and the key generations of the AO domain and erases every slot; one from por_n starts anew. TAMPER_COUNT and TAMPER_LATCH are kept
by both (R221). -/
def coldState (s : State) (por : Bool) : State :=
  let k := s.keys
  let gens : SMap KeySlot := if por then [] else k.slots.foldl (fun m e => SMap.set {} m e.1 { gen := e.2.gen }) []
  let keys : KeyUnit := { slots := gens, genBase := if por then 0 else (k.genBase + 1) % 256, latch := k.latch, live := k.live
                          count := k.count, last := if por then 0 else k.last }
  let clusterRx : SMap ClusterRx := s.clusterRx.foldl (fun m e => SMap.set {} m e.1 { ingReady := e.2.ingReady }) []
  let portTx : SMap PortTx := s.portTx.foldl (fun m e => SMap.set {} m e.1 { xoff := e.2.xoff }) []
  let count := s.ctr 0x0300 6
  { pending := s.pending, out := s.out, free := s.free, mem := s.mem, laneLock := s.laneLock
    ctrs := if por then [] else SMap.set 0 [] (slotKey 0x0300 6 0) count
    power := { boot := .ao, cause := if por then 0x80000000 else s.power.cause, clock := if por then 0 else s.power.clock }
    time := { pllLocked := !por && s.time.pllLocked, refPresent := s.time.refPresent }
    keys, clusterRx, portTx
    twin := { faultSeen := 32 ||| b2n (k.latch ≠ 0), selMine := s.twin.selMine
              peerAlive := s.twin.peerAlive, release := !por && s.twin.release && s.twin.selMine } }

/-- The reset is entered in RESET_CAUSE and RESET_COUNT, and event 0x8C3 is raised, which a cold reset loses (R552). -/
def resetDone (s : State) (j : ResetJob) : State :=
  let w := Word.ofNat (2 ^ 31 + j.kind * 2 ^ 24 + j.source * 2 ^ 16 + if j.kind = 2 ∨ j.kind = 3 then j.target else 0)
  let s := { s with power := { s.power with cause := w } }
  let s := s.bump 0x0300 6
  if j.kind = 0 then s else s.raise 0x8C3

/-- The sequencer takes TIME to ON (R553, step 3). -/
def bootUp (s : State) : State :=
  ({ s with power := { s.power with sequencer := .up } }).requestOn domTime

/-- The sequencer goes on when a domain change is complete: every domain OFF, TIME last; then TIME ON with the time core as after
reset; then DICT, EVT, KEYS and TRNG (R552, R553). The window opens with them, so CORE and READY come in one step. DESIGN CHOICE
(assumption 4): device time starts again from 0. -/
def settleBoot (s : State) : State :=
  let usable := fun n => s.isOn n && (s.dom n).phase == .idle
  let core := [domDict, domEvt, domKeys, domTrng]
  match s.power.sequencer with
  | .rest => s
  | .down =>
    if s.power.doms.any fun e => e.1 != domTime && e.2.ack != .off then s
    else if (s.dom domTime).ack = .off then s.bootUp
    else if (s.dom domTime).phase = .idle then s.beginSwitch domTime .off
    else s
  | .up =>
    if s.power.boot = .ao then
      if !usable domTime then s
      else
        let s := { s with time := { pllLocked := true, refPresent := s.time.refPresent }, power := { s.power with boot := .time } }
        core.foldl (fun s n => s.requestOn n) s
    else if !core.all usable then s
    else
      let s' := { s with power := { s.power with boot := .ready, sequencer := .rest, cold := none } }
      match s.power.cold with
      | some j => s'.resetDone j
      | none => s'

/-- A cold reset started by RESET: every domain except AO goes to OFF, TIME last (R552). -/
def coldReset (s : State) (j : ResetJob) : State :=
  let up : SMap Domain := s.power.doms.filter fun e => e.2.ack != .off
  let s := (if s.twin.role = .active then s.swingRelease else s).coldState false
  let doms : SMap Domain := up.map fun e => (e.1, { pin := e.2.ack, ack := e.2.ack, goal := e.2.ack, isolated := e.2.isolated })
  let s := { s with power := { s.power with doms, sequencer := .down, cold := some j } }
  (((up.map (·.1)).filter (· != domTime)).foldl (fun s n => s.beginSwitch n .off) s).settleBoot

/-- The reset runs (R551, R552). -/
def runReset (s : State) (j : ResetJob) (cuts : List (Nat × CutFrame)) : State :=
  match j.kind with
  | 0 => s.coldReset j
  | 1 => (s.warmReset cuts).resetDone j
  | 2 => ((s.everyReset.clusterReset (j.target % 16) false cuts).clearWindows fun w => (w - 0x3000) / 256 == j.target % 16).resetDone j
  | 3 => (s.everyReset.onePortReset (j.target % 1024) (cutOf cuts (j.target % 1024))).resetDone j
  | _ => (s.restoreReset cuts).resetDone j

/-- RESET may be accepted and land: a CLUSTER target is a cluster, and no reset is in progress (R552). -/
def resetOk (s : State) (kind target : Nat) : Bool := s.power.waiting.isNone && s.power.sequencer == .rest && !(kind == 2 && 15 < target)

/-- RESET lands: it runs, or waits for domain changes in progress (R552). -/
def landReset (s : State) (via : Transport) (cuts : List (Nat × CutFrame)) : State :=
  let j : ResetJob := { kind := s.regN 0x0300 2, target := s.regN 0x0300 3, source := 1 + via.code }
  if s.power.doms.any fun e => e.2.phase != .idle then { s with power := { s.power with waiting := some j } } else s.runReset j cuts

/-! ### Sleep (R550) -/

/-- SLEEP may land (R550). -/
def sleepOk (s : State) : Bool :=
  s.power.boot == .ready && (List.range 16).all (fun c => (s.clp c).st == .closed) && s.rings.all (fun e => e.2.st == .closed)
    && (List.range 256).all (fun i => !s.regB (0x6000 + 0x80 * (i / 8) + 0x10 + i % 8) 1)
    && ((List.range 80).filter fun n => n != domAO && n != domTime && n != domDict).all (fun n => (s.dom n).ack != .on || s.mayLeave n)

/-- Domain `n` is out of ON, and no change of it is in progress. -/
def isDown (s : State) (n : Nat) : Bool := (s.dom n).phase == .idle && (s.dom n).ack != .on

/-- TIME and DICT go down last (R550); TIME only while no other domain is ON or on its way there (R97). -/
def settleSleep (s : State) : State :=
  if s.power.boot = .sleep then
    if !(s.power.slept.all fun n => n == domTime || n == domDict || s.isDown n) then s
    else if !s.isDown domDict then (if (s.dom domDict).phase = .idle then s.requestDomain domDict .retain else s)
    else if !s.isDown domTime ∧ (s.dom domTime).phase = .idle ∧ s.mayLeave domTime then s.requestDomain domTime .retain
    else s
  else if s.power.boot = .core ∧ !s.power.slept.isEmpty ∧ s.power.slept.all s.isOn then
    ({ s with power := { s.power with boot := .ready, slept := [] } }).raise 0x8C4
  else s

/-- SLEEP lands (R550). -/
def landSleep (s : State) : State :=
  let on := (List.range 80).filter fun n => n != domAO && ((s.dom n).ack == .on || s.rising n)
  let s := { s with power := { s.power with boot := .sleep, slept := on } }
  ((on.filter fun n => n != domTime && n != domDict).foldl (fun s n => s.requestDomain n .retain) s).settleSleep

/-! ### The end of a domain change -/

/-- A change of domain `n` is complete: a latched request applies, checked again (R537), and what waits for it goes on. A request
of a master that fails the check is refused under its transport (R60); one of the complex itself is dropped. -/
def domainDone (s : State) (n : Nat) : State :=
  let latched := (s.dom n).latched
  let s := s.setDom n { s.dom n with phase := .idle, latched := none }
  let s := match latched with
    | none => s
    | some (goal, via) =>
      if s.domainOk n goal then s.landDomain n goal via
      else
        let s := s.setDom n { s.dom n with req := (s.dom n).ack }
        match via with
        | some tr => s.refuse tr 0x0300 (0x40 + n) rRANGE
        | none => s
  let s := if n < 64 then s.settleCluster (n / 4) else s
  let s := s.settleSleep.settleBoot
  match s.power.waiting with
  | some j => if s.power.doms.any fun e => e.2.phase != .idle then s
              else ({ s with power := { s.power with waiting := none } }).runReset j []
  | none => s

/-- A domain whose pwr_ack shows ON is usable, where the PLL has locked (R98, R539). -/
def settleRestore (s : State) (n : Nat) : State :=
  if (s.dom n).phase = .restoring ∧ s.clocked then (s.domainBack n).domainDone n else s

/-- The PLL is locked and TIME is ON: TIME is usable, isolation of the domains that came ON meanwhile ends, and the domains
that wait for TIME start (R97, R98, R539). -/
def timeUp (s : State) : State :=
  let s := s.settleRestore domTime
  let s := (s.power.doms.map (·.1)).foldl (fun s n => s.settleRestore n) s
  (s.power.doms.map (·.1)).foldl (fun s n => if (s.dom n).phase = .waitTime ∧ s.timeReady then s.beginSwitch n .on else s) s

/-- A function whose clocks stop goes to CLOSED and stays there (R99). LINK_STATE leaves UP as it does otherwise (R131, R260), and
the in-band responses that wait are dropped and counted (R87). -/
def portStopped (s : State) (p : Nat) : State :=
  if (s.port p).st = .closed then s
  else
    let l := (s.port p).link
    let s := if l = .up then s.flushOnDown p else s
    let s := if l = .up ∨ l = .remoteFault then s.rxCause p 1 else s
    let lost := ((s.portTxOf p).inject.filter fun f => f.origin.ring.isNone).length
    let s := if lost = 0 then s else s.bump 0x0200 0x13 lost
    let s := (s.landFcLate p 0).setSignal p .zeros
    let cause := (s.port p).cause
    let s := s.setPort p { cause }
    let s := s.updPortTx p fun q => { cause := q.cause, xoff := q.xoff, sill := q.sill, floor := q.floor }
    s.settlePort p

/-- Everything that runs on CLK_ROOT stops (R99). -/
def stopFunctions (s : State) : State :=
  let s := (s.portRx.map (·.1)).foldl (fun s p => s.portStopped p) s
  let s := (s.shutters.map (·.1)).foldl (fun s p => s.closeShutter p true) s
  let s := (s.rings.map (·.1)).foldl (fun s r =>
    if (s.ring r).st = .closed then s else (s.setRing r { cause := (s.ring r).cause }).ringCause r 6) s
  let s := (List.range 4).foldl (fun s i => s.setQuarter i { s.quarter i with staged := [] }) s
  let s := { s with ev := { s.ev with rings := [] } }
  let s := { s with regs := SMap.eraseWhere (fun k => 0x6000 ≤ keyIdx k && keyIdx k ≤ 0x6FFF && 0x10 ≤ keyIdx k % 128 && keySub k == 1) s.regs }
  let clusterPower : SMap ClusterPower := s.clusterPower.foldl (fun m e =>
    SMap.set {} m e.1 { wakeLatency := e.2.wakeLatency }) []
  let s := { s with clusterPower }
  let s := s.closeHinge
  s.updTwin fun t => { t with hinge := .closed }

/-- A SET_TIME write that has not landed is lost with the clocks (the time core's collision table). -/
def dropTimeWrites (s : State) : State :=
  { s with dict := { s.dict with landing := s.dict.landing.filter fun l => match l.eff with
      | .time84 idx _ _ => idx != 0x0400
      | _ => true } }

/-- Within a tick OPENING ports and rings are OPEN (R126, R130, R483). -/
def tickFunctions (s : State) : State :=
  let s := ((s.portRx.filter fun e => e.2.st == .opening).map (·.1)).foldl (fun s p => s.portOpened p) s
  let s := ((s.rings.filter fun e => e.2.st == .opening).map (·.1)).foldl (fun s r => s.ringOpened r) s
  s.hingeTick

/-- The unsent health word leaves on CAN FD (R82). Of the HEALTH PDU the spec gives OP, SEQ and the value; the rest of its header
is free. -/
def canHealth (s : State) : State :=
  match s.dict.health with
  | none => s
  | some (w, seq) =>
    let x := { s with dict := { s.dict with health := none } }.freshBytes 5
    let h := x.1
    let id := 1 * 2 ^ 26 + 3 * 2 ^ 22 + s.regN 0x0200 1 * 2 ^ 8
    x.2.emit (.can id ([byteAt h 0, 7] ++ beBytes 2 seq ++ [byteAt h 1, byteAt h 2, byteAt h 3, byteAt h 4] ++ beBytes 8 w.toNat))

/-- The health word of the tick goes to the Hinge, and to CAN FD in place of one that is still unsent (R21, R82, R448); where the
bus is `free` it leaves at once. -/
def sendHealth (s : State) (free : Bool) : State :=
  let w := s.healthNow
  let s := (s.updTwin fun t => { t with health := w }).hingeSend (.health w)
  if s.regB 0x0200 7 && s.regB 0x0200 3 && s.isOn domDict then
    let s := { s with dict := { s.dict with health := some (w, s.time.ticks.toNat % 2 ^ 16) } }
    if free then s.canHealth else s
  else s

end State

/-! ### Meanings -/

/-- A CLOSING ring has no descriptor in progress (R484); a quarter that waits for its rings goes down (R506). -/
def execRingCloseDone (dt r : Nat) (s : State) : Res :=
  let s := s.elapse dt
  if (s.ring r).st ≠ .closing ∨ !s.ringIdle r then .next s
  else
    let s := s.ringClosed r
    let n := domDma (r / 64)
    let d := s.dom n
    if d.phase = .closing ∧ s.rings.all fun e => e.1 / 64 != r / 64 || e.2.st == .closed then .next (s.beginSwitch n d.goal) else .next s

/-- pwr_ack reaches the state requested of domain `n` (R50, R539). A held domain stays as it is (R52). -/
def execPowerAck (dt n : Nat) (s : State) : Res :=
  let s := s.elapse dt
  let d := s.dom n
  if n = domAO ∨ 80 ≤ n ∨ d.pin = d.ack then .next s
  else
    let s := s.setDom n { d with ack := d.pin }
    let s := if n = domTime ∧ d.pin ≠ .on then { s with time := { s.time with pllLocked := false } } else s
    if d.phase ≠ .switching then .next s
    else match d.pin with
      | .off => settled (.next ((s.domainLost n).domainDone n))
      | .retain => settled (.next (s.domainDone n))
      | .on =>
        let s := s.setDom n { s.dom n with phase := .restoring }
        settled (.next (if n = domTime then s.timeUp else s.settleRestore n))

/-- Four times the bound of R51 and R538, in CLK_ROOT periods: 4 µs from RETAIN to ON, 80 µs otherwise. -/
def ackBound (d : Domain) : Nat := if d.pin = .on ∧ !d.fromOff then 12800 else 256000

/-- pwr_ack has not followed pwr_req within four times its bound: the domain is held (R52). -/
def execPowerAckTimeout (dt n : Nat) (s : State) : Res :=
  let s := s.elapse dt
  let d := s.dom n
  if d.phase ≠ .switching ∨ d.pin = d.ack ∨ s.power.clock < d.began + ackBound d then .next s
  else
    let s := s.setDom n { d with held := true, isolated := true, phase := .idle, latched := none }
    let s := s.raise 0x8C0 n
    let s := match s.power.waiting with
      | some j => if s.power.doms.any fun e => e.2.phase != .idle then s
                  else ({ s with power := { s.power with waiting := none } }).runReset j []
      | none => s
    settled (.next s)

/-- The PLL locks (R98). -/
def execPllLock (dt : Nat) (s : State) : Res :=
  let s := s.elapse dt
  if (s.dom domTime).ack ≠ .on ∨ s.time.pllLocked then .next s
  else settled (.next ({ s with time := { s.time with pllLocked := true, refPresent := true } }).timeUp)

/-- The PLL loses lock (R99). What the last tick or lock showed of ref_clk stays (R105). -/
def execPllLossOfLock (dt : Nat) (s : State) : Res :=
  let s := s.elapse dt
  if !s.clocked then .next s
  else
    let s := (s.dropTimeWrites.stopFunctions).setTimeState .unset
    let s := s.raise 0x826
    settled (.next { s with time := { s.time with pllLocked := false } })

/-- A CLOSING cluster is done: its domains go to CLOSED_POWER, or it opens again at once (R543). -/
def execClusterCloseDone (dt c : Nat) (s : State) : Res :=
  let s := s.elapse dt
  let q := s.clp c
  if 16 ≤ c ∨ q.st ≠ .closing ∨ !s.clusterDone c then .next s
  else
    let s := s.setClp c { q with st := .closed, enLatched := none }
    if q.enLatched = some true then .next (s.openCluster c)
    else
      let goal := if s.regN (State.clPow c) 5 = 0 then Pwr.off else .retain
      .next ((List.range 4).foldl (fun s k => s.requestDomain (4 * c + k) goal) s)

/-- No frame of an ENTERING cluster remains (R545). -/
def execListenReached (dt c : Nat) (s : State) : Res :=
  let s := s.elapse dt
  let q := s.clp c
  if 16 ≤ c ∨ q.night ≠ .entering ∨ q.st ≠ .opened ∨ !s.clusterEmpty c then .next s
  else
    let s := (s.setClp c { q with night := .listen, wakeLatched := false }).sweepPause c
    let s := ((s.requestDomain (domCipher c) .retain).requestDomain (domQueue c) .retain).requestDomain (domMeter c) .retain
    let s := s.raise 0x8C1 c
    .next (if q.wakeLatched then s.wakeCluster c else s)

/-- por_n falls: the complex is held in cold reset (R551, R555). -/
def execPorNFall (dt : Nat) (s : State) : Res :=
  let s := (s.elapse dt).coldState true
  .next { s with power := { s.power with porN := false } }

/-- por_n rises: the AO sequencer brings the complex up, as TIME, the PLL and then the core domains answer (R553). -/
def execPowerOnReset (dt : Nat) (s : State) : Res :=
  let s := s.elapse dt
  if s.power.porN then .next s else .next (s.coldState true).bootUp

/-- A CAN FD frame arrives while the complex sleeps: a request to NODE_ADDR wakes every domain that SLEEP took down (R550). -/
def execCanWakeFrame (dt id : Nat) (s : State) : Res :=
  let s := s.elapse dt
  if s.power.boot = .sleep ∧ id / 2 ^ 22 % 16 = 1 ∧ id / 2 ^ 15 % 128 = s.regN 0x0200 1 then .next s.endSleep else .next s

end Sys2Proof.Machine
end

