-- ==== Sys2Proof/Machine/Resync.lean ====
section
/-!
DEFINITION. The sending side of a resync (R438, R442): what one item of the configuration carries, and the start of the
stream of items.
-/
namespace Sys2Proof.Machine
namespace State

/-! ### Key rows (R438) -/

/-- A key image wrapped under the Hinge key; the spec gives no value for an empty common slot 3, and the bytes are then free. -/
def hingeWrap (s : State) (im : Bytes) : Bytes × State :=
  match s.commonKey 3 with
  | some k => (kwWrap k.key im, s)
  | none => s.freshBytes 56

/-- A key row as an operation. -/
def keyItem (s : State) (c r : Nat) : MirrorOp × State :=
  match (s.slot (4096 * c + r)).master with
  | none => (.key (winIdx c 6) r 0 none, s)
  | some k =>
    let w := s.hingeWrap (keyImage k)
    (.key (winIdx c 6) r (k.suite - 1) (some w.1), w.2)

/-! ### Items (R440, R442) -/

/-- The item of an object as a write. RO objects, STROBE objects and objects that hold no value have none. -/
def objSync (s : State) (idx : Nat) (o : ObjInfo) : Option MirrorOp :=
  if !mirrored idx o.sub ∨ o.home ≠ .reg ∨ (o.acc ≠ .rw ∧ o.acc ≠ .rwc) ∨ o.ty = .time84hi then none
  else if o.ty = .time84lo then some (.time84 idx (o.sub + 1) (BitVec.ofNat 84 (s.time84 idx o.sub)))
  else some (.obj idx o.sub (s.reg idx o.sub) none)

/-- The rows of a table as operations; of the Doorlist the STATIC and PUNT entries. -/
def tableSync (s : State) (c t : Nat) : List MirrorOp :=
  let w := winIdx c t
  if t = 5 then (s.clRx c).door.rows.filterMap fun e => match e.2.entry with
    | some d => if d.kind = 0 then none else
        let img := s.doorImage c e.1
        some (.row w e.1 [img.1, img.2.1])
    | none => none
  else (List.range (tableRows t)).map fun r => .row w r (s.rowImage c t r)

/-- The items of one index enter the stream. -/
def syncIndex (s : State) (idx : Nat) : State :=
  match classify idx with
  | some (.window c t) =>
    if t = 6 then (List.range 4096).foldl (fun s r => let x := s.keyItem c r; x.2.streamSend (.item x.1)) s
    else (s.tableSync c t).foldl (fun s op => s.streamSend (.item op)) s
  | some ix => ((objsOf ix).filterMap fun o => s.objSync idx o).foldl (fun s op => s.streamSend (.item op)) s
  | none => s

/-- A resync starts on the ACTIVE (R442). Under version 3 only the groups whose digests differ are sent; which ones differ
depends on the peer, so the choice is free here. -/
def startResync (s : State) : State :=
  if s.twin.role ≠ .active ∨ s.twin.resync = .sending then s
  else
    let all := s.hingeVersion ≠ 3
    let base := s.free
    let s := { s.updTwin fun t => { t with resync := .sending } with free := s.free + mirrorGroups.length }
    mirrorGroups.zipIdx.foldl (fun s g => if all || Config.freeBool (base + g.2) then g.1.foldl (fun s i => s.syncIndex i) s else s) s

end State
end Sys2Proof.Machine
end

