-- ==== Sys2Proof/Machine/Access.lean ====
section
/-!
DEFINITION. Table windows and their rows (R69–R72, R93, R544, R556), the conditions on writes (R58, R63, R557 and the owning
chapters), and the values accepted but not yet landed.
-/
namespace Sys2Proof.Machine

/-- The cluster and the table of a window index. -/
def winCluster (w : Nat) : Nat := (w - 0x3000) / 256 % 16
def winTable (w : Nat) : Nat := w % 256

/-- The domain that holds a table (R544); key rows lie in KEYS (R214), peepholes in DICT. -/
def tableDomain (c t : Nat) : Option Nat :=
  if t ≤ 2 ∨ t = 0xA then some (domQueue c)
  else if t = 3 ∨ t = 4 then some (domMeter c)
  else if t = 5 ∨ t = 8 ∨ t = 9 ∨ t = 0xB then some (domLane c)
  else if t = 7 then some (domCipher c)
  else if t = 6 then some domKeys
  else none

/-- What a write to an object leaves of its value: reserved and read-only fields are ignored (R5), bit 0 of DEMOTE_ON_FAULT
reads 1 (R436). -/
def storedAs (ix : Ix) (sub : Nat) (v : Word) : Word :=
  match ix, sub with
  | .source e, 1 => (v &&& 0xFFFFFFFF00001F17) ||| (if isLevel e then 0x20 else 0)
  | .band _ _, 7 => v &&& 0xC00FFFFFFFFFFFFF
  | .twin, 0x0C => v ||| 1
  | .portMac _, 0x19 => v &&& 0xFF
  | .portMac _, 0x27 => v &&& 0xFF
  | .portGate _, 0x1E => v &&& 0xFF
  | .ring _, 0x10 => v &&& 0x7F
  | _, _ => v

/-- The subindexes of a table's staging slots that hold one word each. -/
def stageSubs (t : Nat) : List Nat := ((tableFields t).filter fun o => o.home == .field && o.ty != .domain).map (·.sub)

/-- Staging slots from an image in the order of DATA, with the two further fields of a caliper context. -/
def stageOf (t : Nat) (img : List Word) : SMap Word :=
  ((stageSubs t).zipIdx).foldl (fun m e => SMap.set 0 m e.1 (img.getD e.2 0)) []

namespace State

/-! ### Accepted values -/

/-- The dictionary engine takes requests: DICT is ON and its clock runs. -/
def dictRuns (s : State) : Bool := s.isOn domDict && s.clocked

/-- The value of an object as it has reached its unit: some wait there for a frame start or a frame's end (R129, R373). -/
def landedVal (s : State) (idx sub : Nat) : Word :=
  if idx = 0x0600 ∧ sub = 0x38 then s.keys.adoptCheck
  else if 0x1C00 ≤ idx ∧ idx < 0x2000 ∧ sub ≤ 2 then s.fcLateVal (idx - 0x1C00) sub
  else if 0x1C00 ≤ idx ∧ idx < 0x2000 ∧ (sub = 9 ∨ sub = 0x0A) then s.verifyVal (idx - 0x1C00) sub
  else s.reg idx sub

/-- The value of an object as the engine last accepted it. -/
def acceptedVal (s : State) (idx sub : Nat) : Word :=
  s.dict.landing.foldl (fun v l => match l.eff with
    | .obj i j w => if i = idx ∧ j = sub then w else v
    | .timed i j w _ => if i = idx ∧ j = sub then w else v
    | .time84 i j w => if i = idx ∧ j = sub then Word.ofNat (w.toNat / 2 ^ 64) else if i = idx ∧ j = sub + 1 then Word.ofNat w.toNat else v
    | _ => v) (s.landedVal idx sub)

/-- No accepted write that has not landed could change a table row, a key slot, TAMPER_LATCH or a class's preemption status:
conditions on them are judged at acceptance already (R557). -/
def rowsSettled (s : State) : Bool :=
  s.dict.landing.all fun l => match l.eff with
    | .obj i j _ => !(i == 0x0600 && (j == 3 || j == 8)) && !(0x1C00 ≤ i && i < 0x2000 && j == 8)
    | .time84 .. => true
    | .timed .. => true
    | .strobe .. => true
    | _ => false

/-! ### Conditions of the owning chapters -/

/-- The function that owns an index's RWC objects is CLOSED (R58, R540). -/
def ownerClosed (s : State) : Ix → Bool
  | .portMac p => (s.port p).st == .closed
  | .portFc p => (s.port p).st == .closed
  | .ring r => (s.ring r).st == .closed
  | .band t b => !s.regB (bIdx t b) 1
  | .twin => s.twin.hinge == .closed
  | .cluster c _ => (s.clp c).st == .closed
  | _ => true

/-- METER_BASE + span − 1 stays within the table (R266, R267). -/
def spanOk (sel base : Nat) : Bool :=
  let span := [0, 1, 8, 4096, 64].getD sel 0
  base + span ≤ 32768

/-- None of the `n` two-bit colour fields holds 3 (R265). -/
def coloursOk (v : Word) (n : Nat) : Bool := (List.range n).all fun i => v.bits (2 * i) 2 != 3

/-- The conditions that the owning chapters state for a write, on the values that `g` gives. FLUSH and CONFIG_CHANGE are judged
at their landing only (R260, R335), METER_SEL and METER_BASE at acceptance only (R267). -/
def objCond (s : State) (g : Nat → Nat → Word) (landing : Bool) (ix : Ix) (idx sub : Nat) (v : Word) : Bool :=
  match ix, sub with
  | .power, 4 => v != 1 || s.resetOk (g idx 2).toNat (g idx 3).toNat
  | .power, 7 => v != 1 || s.sleepOk
  | .power, n => n < 0x40 || s.domainOk (n - 0x40) (Pwr.ofCode (v.bits 0 2))
  | .time, 5 => s.stepFits v.toInt
  | .twin, 0x0F => v != 1 || s.reinstateOk
  | .keys, 0x39 => v != 1 || s.keys.adopted || g idx 0x38 == identityCheck identityPub
  | .ring r, 0x0C => v.toNat < s.ringSize r
  | .ctrCommon, 2 => v != 1 || s.snapOk
  | .portMac _, 0x58 => landing || spanOk v.toNat (g idx 0x59).toNat
  | .portMac _, 0x59 => landing || spanOk (g idx 0x58).toNat v.toNat
  | .portMac _, 0x5B => coloursOk v 8
  | .portMac _, 0x5C => coloursOk v 32
  | .portMac _, 0x5D => coloursOk v 32
  | .portGate p, 0x0A => !landing || v != 1 || s.configChangeOk p
  | .cluster c 0, 1 => s.clusterOk c (v.bit 0)
  | .cluster c 0, 3 => s.modeOk c v.toNat
  | .cluster c 3, 0x0E => !landing || v != 1 || !s.flushBusy c
  | .band t b, 1 => v != 1 || s.recOk t b
  | .band t b, 6 => v.toNat < s.recSize t b
  | _, _ => true

/-! ### Row commits (R70–R72) -/

/-- Every slot of an image fits its field's type and range (R56). -/
def fieldsOk (t : Nat) (img : List Word) : Bool :=
  ((tableFields t).filter fun o => o.home == .field && o.ty != .domain).zipIdx.all fun e =>
    let v := (img.getD e.2 0).toNat
    e.1.ty.fits v && e.1.ok v

/-- The result that the conditions on a COMMIT or DATA row give: ROW_RANGE, RANGE or OK (R70, R72, R544 and the owning
chapters). A failed key unwrap is counted (R212). -/
def rowCheck (s : State) (c t row : Nat) (img : List Word) (live : Bool) : Nat × State :=
  let off : Bool := match tableDomain c t with | some n => (s.dom n).ack == .off | none => false
  if tableRows t ≤ row then (rROW_RANGE, s)
  else if off || !fieldsOk t img then (rRANGE, s)
  else if t = 6 then match s.keyAct false img live with
    | .refuse true => (rRANGE, s.wrapFailed)
    | .refuse false => (rRANGE, s)
    | _ => (rOK, s)
  else
    let ok := match t with
      | 0 => s.schedOk c 0 row img live
      | 1 => s.schedOk c 1 row img live
      | 2 => s.schedOk c 2 row img live
      | 3 => meterOk img
      | 4 => vmapOk img
      | 5 => doorOk img
      | 7 => s.saOk c row img live
      | 8 => calOk img
      | 9 => s.ruleOk c img live
      | 0xA => shutterRowOk (img.getD 0 0)
      | 0xB => knockOk img
      | _ => peepOk img
    (if ok then rOK else rRANGE, s)

/-- A row image of a table other than 0x06 lands on its row, checked again (R557). A caliper image of ten words carries the staged CAL_RUNNING and
CAL_STATE; one of eight leaves them (R405). -/
def landRow (s : State) (c t row : Nat) (img : List Word) : Nat × State :=
  let w := winIdx c t
  let x := s.rowCheck c t row img true
  if x.1 ≠ rOK then x
  else match t with
    | 0 => (rOK, s.landSched c 0 row img)
    | 1 => (rOK, s.landSched c 1 row img)
    | 2 => (rOK, s.landSched c 2 row img)
    | 3 => (rOK, s.landMeter c row img)
    | 4 => (rOK, s.rowSet w 2 row (img.getD 0 0))
    | 5 => s.landDoor c img
    | 7 => (rOK, s.landSa c row img)
    | 8 => (rOK, s.landCal c row (img.take 8) (if img.length = 10 then img.getD 8 0 else s.rowGet w 0xA row)
              (if img.length = 10 then img.getD 9 0 else s.rowGet w 0xB row))
    | 9 => (rOK, s.landRule c row img)
    | 0xA => (rOK, s.landShutterRow c row (img.getD 0 0))
    | 0xB => (rOK, s.landKnock c row img)
    | _ => (rOK, s.landPeep c row img)

/-- A row strobe lands: SETTLE (R281) or RETURN (R315). In OFF the row is as after a cold reset and nothing happens. -/
def landStrobe (s : State) (c t row : Nat) : State :=
  match tableDomain c t with
  | some n => if !s.isOn n then s else if t = 3 then s.refillMeter c row else s.landReturn c t row
  | none => s

/-! ### The window's own state (R69, R556) -/

/-- A write of ROW (R69, R71, R544): the row's current fields are loaded into the staging slots, zeros where its domain is
OFF, and a partial image is discarded. A row that does not exist has no fields, and the slots are then free. -/
def selectRow (s : State) (c t row : Nat) : State :=
  let w := winIdx c t
  let q := s.window w
  let off : Bool := match tableDomain c t with | some n => (s.dom n).ack == .off | none => false
  if off then s.setWindow w { row, status := q.status }
  else if tableRows t ≤ row then
    let stage := stageOf t ((List.range 16).map fun i => Config.freeWord (s.free + i))
    let pattern := if t = 0xB then (List.range 16).map fun i => Config.freeWord (s.free + 16 + i) else []
    { s.setWindow w { row, status := q.status, stage, pattern } with free := s.free + 32 }
  else
    let img := s.rowImage c t row
    let img := if t = 8 then img ++ [s.rowGet w 0xA row, s.rowGet w 0xB row] else img
    s.setWindow w { row, status := q.status, stage := stageOf t img, pattern := if t = 0xB then img.drop 4 else [] }

/-- The staged row in the order of DATA (with CAL_RUNNING and CAL_STATE behind a caliper context). -/
def stagedImage (s : State) (c t : Nat) : List Word :=
  let q := s.window (winIdx c t)
  (stageSubs t).map (fun i => SMap.get 0 q.stage i) ++ (if t = 0xB then (q.pattern ++ List.replicate 16 0).take 16 else [])

/-- STATUS takes the outcome of a COMMIT or DATA row (R70). -/
def setStatus (s : State) (w code : Nat) : State := s.setWindow w { s.window w with status := code }

end State
end Sys2Proof.Machine
end

