-- ==== Sys2Proof/Machine/Landing.lean ====
section
/-!
DEFINITION. Writes of the object dictionary (R57–R63, R91–R93, R557): acceptance, forwarding to the twin, and landing.
-/
namespace Sys2Proof.Machine
namespace State

/-! ### What a landed write does -/

/-- RX_CAUSE_CLR (R128). -/
def landRxCauseClr (s : State) (p : Nat) (v : Word) : State := s.updPort p fun q => { q with cause := q.cause &&& ~~~v }

/-- FC_MODE and PFC_PRIO_TC reach their port: they land at its next frame start, at once where no frame can be in progress (R129,
R155). The value last written changes nothing (R63). -/
def landFcMap (s : State) (p sub : Nat) (v : Word) : State :=
  if v = s.fcLateVal p sub then s
  else
    let s := s.updPort p fun q => { q with fcLate := q.fcLate ++ [(s.runTime, sub, v)] }
    if (s.port p).link = .up then s else s.landFcLate p 0

/-- A write of index 0x0300 lands. -/
def actPower (s : State) (via : Transport) (cuts : List (Nat × CutFrame)) (sub : Nat) (v : Word) : State :=
  match sub with
  | 4 => s.landReset via cuts
  | 7 => s.landSleep
  | 2 => s.setReg 0x0300 2 v
  | 3 => s.setReg 0x0300 3 v
  | n => s.landDomain (n - 0x40) (Pwr.ofCode (v.bits 0 2)) (some via)

/-- A write of index 0x0400 lands. -/
def actTime (s : State) (sub : Nat) (v : Word) : State :=
  match sub with
  | 5 => s.landStep v.toInt
  | 6 => s.landFreqWord v
  | 0x0E => s.landPpsOutEn v
  | _ => s.setReg 0x0400 sub v

/-- A write of index 0x0500 lands. -/
def actTwin (s : State) (sub : Nat) (v : Word) : State :=
  match sub with
  | 1 => (s.setReg 0x0500 1 v).openHinge.soloRole
  | 3 => s.landHingeEnable (v.bit 0)
  | 0x0E => s.landDemote
  | 0x0F => s.landReinstate
  | 0x14 => s.startResync
  | _ => s.setReg 0x0500 sub v

/-- A write of index 0x0600 lands. -/
def actKeys (s : State) (sub : Nat) (v : Word) : State :=
  match sub with
  | 3 => s.landTamperClr v
  | 8 => s.landEraseAll
  | 0x0A => s.landKeyAlarmClr v
  | 0x21 => s.landTrngRestart
  | 0x34 => s.landNonce v
  | 0x38 => s.updKeys fun q => { q with adoptCheck := v }
  | 0x39 => s.landAdopt
  | _ => s.setReg 0x0600 sub v

/-- A write of index 0x1000 + p lands. -/
def actMac (s : State) (p sub : Nat) (v : Word) : State :=
  match sub with
  | 1 => s.landPortEnable p (v.bit 0)
  | 0x18 => s.landRxCauseClr p v
  | 0x22 => s.landSillSet p v.toNat
  | 0x26 => s.landTxCauseClr p v
  | _ => s.setPortReg (0x1000 + p) sub v

/-- A write of index 0x1400 + p lands. -/
def actGate (s : State) (p sub : Nat) (v : Word) (tc : Option Nat) : State :=
  match sub with
  | 1 => s.landGateEnable p (v.bit 0) tc
  | 0x0A => s.landConfigChange p tc
  | 0x1D => s.landShutCauseClr p v
  | 0x18 => s.landShutParam p 0x18 v
  | 0x19 => s.landShutParam p 0x19 v
  | 0x1A => s.landShutParam p 0x1A v
  | 0x28 => s.landShutParam p 0x28 v
  | _ => s.setReg (0x1400 + p) sub v

/-- A write of index 0x1C00 + p lands. -/
def actFc (s : State) (p sub : Nat) (v : Word) : State :=
  match sub with
  | 1 => s.landFcMap p 1 v
  | 2 => s.landFcMap p 2 v
  | 9 => s.landVerify p 9 v
  | 0x0A => s.landVerify p 0x0A v
  | 0x0F => (s.setReg (0x1C00 + p) 0x0F v).fcUpdate p
  | _ => s.setPortReg (0x1C00 + p) sub v

/-- A write of index 0x2000 + 16c + k lands. -/
def actCluster (s : State) (c k sub : Nat) (v : Word) : State :=
  match k, sub with
  | 0, 1 => s.landClusterEnable c (v.bit 0)
  | 0, 3 => s.landClusterMode c v.toNat
  | 3, 1 => if v = s.reg (clIdx c 3) 1 then s else s.landSalt c v
  | 3, 2 => s.landAgeInterval c v
  | 3, 0x0E => s.landFlush c
  | _, _ => s.setReg (clIdx c k) sub v

/-- A write of index 0x6010 + 0x80t + b lands. -/
def actBand (s : State) (t b sub : Nat) (v : Word) : State :=
  match sub with
  | 1 => s.landRecEnable t b v
  | 7 => s.landRecCoal t b v
  | _ => s.setReg (bIdx t b) sub v

/-- A write of an object lands in its unit; a CONFIG_CHANGE or GATE_ENABLE may carry a forwarded change time (R350). -/
def actObj (s : State) (via : Transport) (cuts : List (Nat × CutFrame)) (ix : Ix) (idx sub : Nat) (v : Word) (tc : Option Nat) : State :=
  match ix with
  | .power => s.actPower via cuts sub v
  | .time => s.actTime sub v
  | .twin => s.actTwin sub v
  | .keys => s.actKeys sub v
  | .events => if sub = 0x12 then s.landFiredClr v else s.setReg idx sub v
  | .ring r => if sub = 1 then s.landRingEnable r (v.bit 0) else if sub = 0x0F then s.landRingCauseClr r v else s.setReg idx sub v
  | .ctrCommon => if sub = 2 then s.landSnap else if sub = 7 then s.snapRelease else s.setPortReg idx sub v
  | .portMac p => s.actMac p sub v
  | .portGate p => s.actGate p sub v tc
  | .portFc p => s.actFc p sub v
  | .cluster c k => s.actCluster c k sub v
  | .bank b => (match sub with
    | 2 => s.landPendingSet b v
    | 3 => s.landPendingClr b v
    | 5 => s.landMask b v true
    | _ => s.landMask b v false)
  | .band t b => s.actBand t b sub v
  | _ => s.setReg idx sub v

/-- A TIME84 object commits (R57): SET_TIME, or both slots of a stored one. -/
def actTime84 (s : State) (idx sub : Nat) (v : BitVec 84) : State :=
  if idx = 0x0400 then s.landSetTime v.toNat
  else (s.setReg idx (sub - 1) (Word.ofNat v.toNat)).setReg idx sub (Word.ofNat (v.toNat / 2 ^ 64))

/-- A write of an RWL object acts at once (R16). Where the spec gives a write of one no effect, it has none. -/
def actRwl (s : State) (ix : Ix) (sub : Nat) (v : Word) : State :=
  match ix, sub with
  | .target t, 5 => s.landEnter t v.toNat
  | .target t, 6 => s.landExit t v.toNat
  | .target t, 7 => s.landClaimSel t v.toNat
  | .target t, 9 => s.landDone t v.toNat
  | .ring r, 0x0C => s.landTail r v.toNat
  | .band t b, 6 => s.landRecHead t b v.toNat
  | _, _ => s

/-! ### Forwarding (R91–R93, R350, R438) -/

/-- CONFIG_CHANGE, GATE_ENABLE and FLUSH: they land in the step that accepts them, behind every write accepted before, and are
forwarded there, where the change time and a refusal are known (R92, R260, R350, assumption 5). -/
def landsAtOnce (idx sub : Nat) : Bool :=
  (0x1400 ≤ idx && idx < 0x1800 && (sub == 1 || sub == 0x0A)) || (0x2000 ≤ idx && idx < 0x2100 && idx % 16 == 3 && sub == 0x0E)

/-- An accepted write to a mirrored object enters the mirror stream (R91, R92). -/
def forwardObj (s : State) (via : Transport) (idx sub : Nat) (v : Word) : State :=
  if via = .hinge ∨ !mirrored idx sub ∨ landsAtOnce idx sub then s else s.streamSend (.write (.obj idx sub v none))

/-- The KEK as the writes accepted so far leave it (R219). -/
def acceptedKek (s : State) : Option KeyImg :=
  s.dict.landing.foldl (fun kek l => match l.eff with
    | .ckey 2 img => (match keyActWith s.keys.latch kek true img true with | .erase => none | .load k => some k | .refuse _ => kek)
    | _ => kek) (s.commonKey 2)

/-- An accepted row enters the mirror stream in the layout of DATA; a key row is wrapped under the Hinge key (R93, R438). -/
def forwardRow (s : State) (via : Transport) (c t row : Nat) (img : List Word) : State :=
  if via = .hinge ∨ !s.streamRuns then s
  else if t = 6 then
    if keyOp img = 1 then s.streamSend (.write (.key (winIdx c 6) row 0 none))
    else match loadImage s.acceptedKek img with
      | some im => let x := s.hingeWrap im
                   x.2.streamSend (.write (.key (winIdx c 6) row (keySuite img) (some x.1)))
      | none => s
  else s.streamSend (.write (.row (winIdx c t) row (img.take (tableImageSlots t))))

/-- A landed GATE_ENABLE, CONFIG_CHANGE or FLUSH is forwarded, with the change time computed for the swap it requests (R350); a held
CONFIG_CHANGE is forwarded once its change time is computed. -/
def forwardLanded (s before : State) (via : Transport) (idx sub : Nat) (v : Word) : State :=
  let p := idx - 0x1400
  let q := s.shut p
  let opens := idx < 0x1800 ∧ sub = 1 ∧ (before.shut p).st = .closed ∧ q.st = .opening
  let asks := idx < 0x1800 ∧ sub = 0x0A ∧ v = 1
  if via = .hinge ∨ !landsAtOnce idx sub ∨ (asks ∧ (q.pend.map (·.held)).getD false = true) then s
  else s.streamSend (.write (.obj idx sub v (if opens ∨ asks then q.pend.map (·.tc) else none)))

/-! ### Landing (R15, R17, R557) -/

/-- A boundary of the tick grid on which the effect lands: DOMAIN_n at the first after acceptance (R15, R537); rows and strobes of
tables 0–3 at the first too, so that what one tick accepts lands at one edge (R281, R315); keys at the second (R214, R220).
0: any time. -/
def tickBound (e : Effect) : Nat :=
  let table := fun (w : Nat) => if winTable w ≤ 3 then 1 else if winTable w = 6 then 2 else 0
  match e with
  | .row w _ _ _ => table w
  | .strobe w _ _ => table w
  | .wrappedKey .. => 2
  | .ckey .. => 2
  | .obj idx sub _ => if idx = 0x0300 ∧ 0x40 ≤ sub then 1 else 0
  | _ => 0

/-- Tick boundaries since the write was accepted. -/
def ticksWaited (s : State) (l : Landing) : Nat := (s.time.ticks - l.tick).toNat

/-- The write waits: its tick boundary has not come, or the domain of its table is in RETAIN or on its way to ON (R544). -/
def waits (s : State) (l : Landing) : Bool :=
  let held := fun (n : Nat) => (s.dom n).ack != .off && !s.isOn n
  let tab := fun (w : Nat) => match tableDomain (winCluster w) (winTable w) with | some n => held n | none => false
  decide (s.ticksWaited l < tickBound l.eff) || match l.eff with
  | .row w _ _ _ => tab w
  | .strobe w _ _ => tab w
  | .wrappedKey w _ _ _ => tab w
  | .ckey _ _ => held domKeys
  | _ => false

/-- The write may land now. -/
def mayLand (s : State) (l : Landing) : Bool := !s.waits l

/-- The write lands at this tick boundary at the latest: it is bound to one, or the tick after the one that accepted it ends
(R15). -/
def mustLand (s : State) (l : Landing) : Bool := !s.waits l && (decide (0 < tickBound l.eff) || decide (2 ≤ s.ticksWaited l))

/-- A write of an object lands, checked again: its result code. -/
def landObj (s : State) (via : Transport) (cuts : List (Nat × CutFrame)) (idx sub : Nat) (v : Word) (tc : Option Nat) : Nat × State :=
  match classify idx, objInfo idx sub with
  | some ix, some o =>
    let w := storedAs ix sub v
    if o.acc = .rwc ∧ w ≠ s.reg idx sub ∧ !s.ownerClosed ix then (rNOT_CLOSED, s)
    else if !s.objCond s.landedVal true ix idx sub w then (rRANGE, s)
    else if o.ty = .strobe ∧ v ≠ 1 then (rOK, s.forwardLanded s via idx sub v)
    else (rOK, (s.actObj via cuts ix idx sub w tc).forwardLanded s via idx sub v)
  | _, _ => (rNO_OBJECT, s)

/-- What a key row does, judged at its landing (R212, R223, R438): one of the mirror stream is unwrapped under the own Hinge
key. -/
def keyVerdict (s : State) (e : Effect) : KeyAct :=
  if (s.dom domKeys).ack = .off then .refuse false
  else match e with
    | .row _ _ img _ => s.keyAct false img true
    | .wrappedKey _ _ _ none => .erase
    | .wrappedKey _ _ suite (some bs) =>
      match (s.commonKey 3).bind fun k => kwUnwrap k.key bs with
      | none => .refuse true
      | some im => if s.keys.latch ≠ 0 then .refuse false
                   else match imageKey suite false im with | some k => .load k | none => .refuse false
    | _ => .refuse false

/-- A failed unwrap is counted, of the stream or of the own KEK (R212, R438). -/
def unwrapFailed (s : State) (e : Effect) : State :=
  match e with
  | .wrappedKey .. => (s.bump 0x0500 0x2A).raise 0x834
  | _ => s.wrapFailed

/-- A common slot lands (R219, R220). -/
def landCkey (s : State) (sel : Nat) (img : List Word) : Nat × State :=
  if (s.dom domKeys).ack = .off then (rRANGE, s)
  else match s.keyAct true img true with
    | .erase => (rOK, s.landCommon sel none)
    | .load k => (rOK, s.landCommon sel (some k))
    | .refuse true => (rRANGE, s.wrapFailed)
    | .refuse false => (rRANGE, s)

/-- The outcome of a row's landing: a refusal is counted (R60), and STATUS takes it, which an operation of the mirror stream
leaves alone (R70, R93, R557). -/
def rowLanded (x : Nat × State) (via : Transport) (w : Nat) (byData : Bool) : State :=
  let s := if x.1 = rOK then x.2 else x.2.refuse via w (if byData then 0x14 else 0x10) x.1
  if via = .hinge then s else s.setStatus w x.1

/-- A key row lands; `last`: no later one for its slot takes effect in this tick (R214). -/
def landKeyRow (s : State) (via : Transport) (e : Effect) (last : Bool) : State :=
  let out := fun (w row : Nat) (byData : Bool) =>
    let x : Nat × State := match s.keyVerdict e with
      | .erase => (rOK, if last then s.landKeyErase (winCluster w) row else s)
      | .load k => (rOK, if last then s.landKeyLoad (winCluster w) row k else s)
      | .refuse true => (rRANGE, s.unwrapFailed e)
      | .refuse false => (rRANGE, s)
    rowLanded x via w byData
  match e with
  | .row w row _ byData => out w row byData
  | .wrappedKey w row _ _ => out w row false
  | _ => s

/-- One accepted write lands; a refusal found here is counted (R60, R557). -/
def landOne (s : State) (cuts : List (Nat × CutFrame)) (l : Landing) : State :=
  let done := fun (x : Nat × State) (idx sub : Nat) => if x.1 = rOK then x.2 else x.2.refuse l.via idx sub x.1
  match l.eff with
  | .obj idx sub v => done (s.landObj l.via cuts idx sub v none) idx sub
  | .timed idx sub v tc => done (s.landObj l.via cuts idx sub v (some tc)) idx sub
  | .time84 idx sub v => s.actTime84 idx sub v
  | .row w row img byData =>
    if winTable w = 6 then s.landKeyRow l.via l.eff true
    else rowLanded (s.landRow (winCluster w) (winTable w) row img) l.via w byData
  | .strobe w _ row => s.landStrobe (winCluster w) (winTable w) row
  | .ckey sel img => done (s.landCkey sel img) 0x0600 0x19
  | .wrappedKey .. => s.landKeyRow l.via l.eff true

/-- The window and the row that an effect bound to a tick names. -/
def boundRow (e : Effect) : Option (Nat × Nat) :=
  if tickBound e = 0 then none
  else match e with
    | .row w r _ _ => some (w, r)
    | .strobe w _ r => some (w, r)
    | .wrappedKey w r _ _ => some (w, r)
    | _ => none

/-- Two effects on one row land at one edge: a strobe and a COMMIT accepted in one tick (R281, R315), and every LOAD and ERASE of
one key slot that lands in one tick (R214). -/
def oneEdge (a b : Landing) : Bool :=
  (boundRow a.eff).isSome && boundRow a.eff == boundRow b.eff && (tickBound a.eff == 2 || a.tick == b.tick)

/-- SETTLE goes before the COMMITs of its edge (R281). -/
def isSettle (l : Landing) : Bool := match l.eff with | .strobe w _ _ => winTable w == 3 | _ => false

/-- RETURN goes behind the COMMITs of its edge (R315). -/
def isReturn (l : Landing) : Bool := match l.eff with | .strobe w _ _ => winTable w != 3 | _ => false

/-- The effects of one edge land, in their order. Of the key rows of a slot only the last that takes effect does (R214). -/
def landEdge (s : State) (cuts : List (Nat × CutFrame)) (ls : List Landing) : State :=
  if ls.all fun l => tickBound l.eff == 2 && (boundRow l.eff).isSome then
    let last := (ls.zipIdx.filter fun e => (s.keyVerdict e.1.eff).takes).getLast?.map (·.2)
    ls.zipIdx.foldl (fun s e => s.landKeyRow e.1.via e.1.eff (last == some e.2)) s
  else
    (ls.filter isSettle ++ ls.filter (fun l => !isSettle l && !isReturn l) ++ ls.filter isReturn).foldl (fun s l => s.landOne cuts l) s

/-- The oldest write that satisfies `ok` lands, together with those of its edge. -/
def landNext (s : State) (cuts : List (Nat × CutFrame)) (ok : State → Landing → Bool) : Option State :=
  match s.dict.landing.find? (ok s) with
  | none => none
  | some l =>
    let mine := fun (m : Landing) => m == l || (ok s m && oneEdge l m)
    let s' := { s with dict := { s.dict with landing := s.dict.landing.filter fun m => !mine m } }
    some (if (boundRow l.eff).isSome then s'.landEdge cuts (s.dict.landing.filter mine)
          else ({ s with dict := { s.dict with landing := s.dict.landing.erase l } }).landOne cuts l)

/-- Every accepted write that satisfies `ok` lands, in engine order; `n` bounds their number. -/
def landAll (cuts : List (Nat × CutFrame)) (ok : State → Landing → Bool) : Nat → State → State
  | 0, s => s
  | n + 1, s => match s.landNext cuts ok with
    | some s => landAll cuts ok n s
    | none => s

/-- The writes accepted so far that may land do so, in engine order. -/
def landWrites (s : State) (cuts : List (Nat × CutFrame)) : State := landAll cuts mayLand s.dict.landing.length s

/-- What a tick boundary lands (R15, R214, R220, R281, R315, R537). -/
def landDue (s : State) : State := landAll [] mustLand s.dict.landing.length s

/-! ### Acceptance (R55–R63, R557) -/

/-- An accepted write joins those on their way to the units. -/
def enqueue (s : State) (via : Transport) (e : Effect) : State :=
  { s with dict := { s.dict with landing := s.dict.landing ++ [{ via, eff := e, tick := s.time.ticks }] } }

/-- A BDP transport. -/
def isBdp (via : Transport) : Bool := via == .can || via == .inband

/-- CKEY_DATA is refused through BDP for the KEK, and while the staged CKEY_CTRL has WRAPPED 0 (R213, R220). -/
def ckeyLocal (s : State) (sub : Nat) : Bool :=
  0x12 ≤ sub && sub ≤ 0x18 && (s.acceptedVal 0x0600 0x10 == 2 || !(SMap.get 0 s.keys.stage 0x11).bit 4)

/-- CKEY_COMMIT is accepted or refused: the staged slot is captured with CKEY_SEL as last accepted (R219). -/
def acceptCkey (s : State) (via : Transport) : Nat × State :=
  let img := (List.range 8).map fun i => SMap.get 0 s.keys.stage (0x11 + i)
  match s.keyAct true img s.rowsSettled with
  | .refuse true => (rRANGE, s.wrapFailed)
  | .refuse false => (rRANGE, s)
  | _ => (rOK, s.enqueue via (.ckey (s.acceptedVal 0x0600 0x10).toNat img))

/-- A write of an existing object outside the table windows: the result code of its acceptance. -/
def acceptObj (s : State) (via : Transport) (ix : Ix) (o : ObjInfo) (idx : Nat) (v : Word) (tc : Option Nat) : Nat × State :=
  let w := storedAs ix o.sub v
  let queue := fun (s : State) =>
    let s := s.enqueue via (match tc with | some t => .timed idx o.sub v t | none => .obj idx o.sub v)
    if landsAtOnce idx o.sub then s.landWrites [] else s
  if o.acc = .ro then (rREAD_ONLY, s)
  else if o.acc = .rwl ∧ isBdp via then (rLOCAL_ONLY, s)
  else if (o.acc = .rw ∨ o.acc = .rwc) ∧ o.home = .reg ∧ o.ty ≠ .time84lo ∧ o.ty ≠ .time84hi ∧ v = s.acceptedVal idx o.sub then
    (rOK, (queue s).forwardObj via idx o.sub v)
  else if !(o.ty.fits v.toNat && o.ok v.toNat) then (rRANGE, s)
  else if o.acc = .rwc ∧ w ≠ s.acceptedVal idx o.sub ∧ !s.ownerClosed ix then (rNOT_CLOSED, s)
  else if !s.objCond s.acceptedVal false ix idx o.sub w then (rRANGE, s)
  else if idx = 0x0600 ∧ isBdp via ∧ s.ckeyLocal o.sub then (rLOCAL_ONLY, s)
  else if idx = 0x0600 ∧ 0x11 ≤ o.sub ∧ o.sub ≤ 0x18 then (rOK, s.updKeys fun q => { q with stage := SMap.set 0 q.stage o.sub v })
  else if idx = 0x0600 ∧ o.sub = 0x19 then (if v = 1 then s.acceptCkey via else (rOK, s))
  else if o.acc = .rwl then (rOK, (s.actRwl ix o.sub v).forwardObj via idx o.sub v)
  else if o.ty = .time84lo then
    (rOK, ({ s with dict := { s.dict with low84 := SMap.put s.dict.low84 (slotKey idx o.sub 0) v } }).forwardObj via idx o.sub v)
  else if o.ty = .time84hi then
    let low := SMap.get (s.reg idx (o.sub - 1)) s.dict.low84 (slotKey idx (o.sub - 1) 0)
    (rOK, (s.enqueue via (.time84 idx o.sub (BitVec.ofNat 84 (v.toNat * 2 ^ 64 + low.toNat)))).forwardObj via idx o.sub v)
  else (rOK, (queue s).forwardObj via idx o.sub v)

/-- A row image is accepted for landing, or refused: the result code (R70, R557). -/
def acceptRow (s : State) (via : Transport) (c t row : Nat) (img : List Word) (byData : Bool) : Nat × State :=
  let x := s.rowCheck c t row img s.rowsSettled
  if x.1 ≠ rOK then x
  else (rOK, (x.2.enqueue via (.row (winIdx c t) row img byData)).forwardRow via c t row img)

/-- COMMIT through the window (R69, R72): a partial DATA image is discarded; a refusal sets STATUS at once. -/
def acceptCommit (s : State) (via : Transport) (c t : Nat) : Nat × State :=
  let w := winIdx c t
  let s := s.setWindow w { s.window w with part := [] }
  let x := s.acceptRow via c t (s.window w).row (s.stagedImage c t) false
  if x.1 = rOK then x else (x.1, x.2.setStatus w x.1)

/-- One access to DATA (R69, R71, R73): a complete image commits to ROW, and ROW advances. -/
def acceptData (s : State) (via : Transport) (c t : Nat) (v : Word) : Nat × State :=
  let w := winIdx c t
  let q := s.window w
  let part := q.part ++ [v]
  if part.length < tableImageSlots t then (rOK, s.setWindow w { q with part })
  else
    let x := s.acceptRow via c t q.row part true
    let s := if x.1 = rOK then x.2 else x.2.setStatus w x.1
    (x.1, s.selectRow c t ((q.row + 1) % 2 ^ 32))

/-- A row strobe, SETTLE or RETURN, on the row that ROW selects (R281, R315). -/
def acceptStrobe (s : State) (via : Transport) (c t sub row : Nat) : Nat × State :=
  if tableRows t ≤ row then (rROW_RANGE, s)
  else
    let s := s.enqueue via (.strobe (winIdx c t) sub row)
    (rOK, if via = .hinge then s else s.streamSend (.write (.strobe (winIdx c t) sub row)))

/-- A write of a window's field goes to its staging slot (R69). KEY_DATA is refused through BDP while the staged KEY_CTRL has
WRAPPED 0 (R213). -/
def acceptField (s : State) (via : Transport) (c t : Nat) (o : ObjInfo) (v : Word) : Nat × State :=
  let w := winIdx c t
  let q := s.window w
  if t = 6 ∧ isBdp via ∧ o.sub ≠ 2 ∧ !(SMap.get 0 q.stage 2).bit 4 then (rLOCAL_ONLY, s)
  else if o.ty = .domain then
    let full := (q.pattern ++ List.replicate 16 0).take 16
    (rOK, s.setWindow w { q with pattern := full.set q.patOff v, patOff := (q.patOff + 1) % 16 })
  else (rOK, s.setWindow w { q with stage := SMap.set 0 q.stage o.sub v })

/-- A write of a table window (R69–R72). -/
def acceptWin (s : State) (via : Transport) (c t : Nat) (o : ObjInfo) (v : Word) : Nat × State :=
  let strobe := o.ty = .strobe
  if o.acc = .ro then (rREAD_ONLY, s)
  else if !(o.ty.fits v.toNat && o.ok v.toNat) then (rRANGE, s)
  else if o.sub = 1 then (rOK, s.selectRow c t v.toNat)
  else if o.sub = 0x14 then s.acceptData via c t v
  else if strobe ∧ v ≠ 1 then (rOK, s)
  else if o.sub = 0x10 then s.acceptCommit via c t
  else if strobe then s.acceptStrobe via c t o.sub (s.window (winIdx c t)).row
  else s.acceptField via c t o v

/-- A request to write an object, from a transport: its result code. A refusal is counted, recorded and raised (R60). -/
def write (s : State) (via : Transport) (idx sub : Nat) (v : Word) : Nat × State :=
  let x : Nat × State :=
    match classify idx with
    | none => (rNO_OBJECT, s)
    | some ix =>
      if sub = 0 then (rREAD_ONLY, s)
      else match objInfo idx sub with
        | none => (rNO_OBJECT, s)
        | some o => match ix with
          | .window c t => s.acceptWin via c t o v
          | _ => s.acceptObj via ix o idx v none
  if x.1 = rOK then x else (x.1, x.2.refuse via idx sub x.1)

/-- A write presented to the dictionary engine, with its completion. While the engine does not run, nothing answers. -/
def request (s : State) (via : Transport) (idx sub : Nat) (v : Word) : State :=
  if !s.dictRuns then s
  else
    let x := s.write via idx sub v
    x.2.emit (.status x.1)

/-- A write is accepted, and it lands behind every write accepted before it (R15, R61). -/
def requestLand (s : State) (via : Transport) (cuts : List (Nat × CutFrame)) (idx sub : Nat) (v : Word) : State :=
  let s := s.request via idx sub v
  if s.dictRuns then s.landWrites cuts else s

end State
end Sys2Proof.Machine
end

