-- ==== Sys2Proof/Machine/Reads.lean ====
section
/-!
DEFINITION. Reads of the object dictionary (R53, R55–R58, R69, R73, R544 and the object maps): what every RO, RWL and DOMAIN
object returns, and what reading it does.
-/
namespace Sys2Proof.Machine
namespace State

/-- A BOOL or count as a word. -/
def wordOf (n : Nat) : Word := Word.ofNat n

/-- The high slot of an 84-bit instant. -/
def hi84 (n : Nat) : Word := Word.ofNat (n / 2 ^ 64)

/-! ### Values of the units -/

/-- RO objects of indexes 0x0100 and 0x0200. -/
def viewIdent (sub : Nat) : Word :=
  match sub with
  | 1 => 0x57440204
  | 2 => wordOf stepping
  | 4 => wordOf hingeVersions
  | _ => wordOf (b2n Config.fuseOk + 2 * b2n Config.identityPresent)

/-- SESSIONS: bits 1–31 by CAN FD address, bit 0 in-band (R67). -/
def sessionBits (s : State) : Word :=
  wordOf ((List.range 31).foldl (fun n i => n + b2n ((SMap.get {} s.dict.sessions (i + 1)).version ≠ 0) * 2 ^ (i + 1))
    (b2n (s.dict.inSessions.any fun e => e.2.version ≠ 0)))

def viewComm (s : State) (sub : Nat) : Word :=
  match sub with
  | 4 => wordOf bdpVersions
  | 8 => s.dict.rxSeq
  | 9 => s.dict.txSeq
  | 0x0A => s.sessionBits
  | _ => s.dict.lastRefusal

def viewPower (s : State) (sub : Nat) : Word :=
  match sub with
  | 1 => wordOf s.power.boot.code
  | 5 => s.power.cause
  | n => s.domainWord (n - 0x40)

def viewTime (s : State) (sub : Nat) : Word :=
  match sub with
  | 1 => s.shortTime
  | 2 => hi84 s.devTime
  | 7 => wordOf 92233720369
  | 8 => wordOf s.time.st.code
  | 9 => wordOf s.epoch
  | 0x0A => s.runTime
  | 0x0B => s.time.ticks
  | 0x0C => wordOf s.time.ppsTs.toNat
  | 0x0D => hi84 s.time.ppsTs.toNat
  | 0x12 => s.time.lastStep
  | 0x13 => s.time.utcOffset
  | 0x14 => s.time.todFlags.setWidth 64
  | 0x18 => s.shortTime
  | 0x19 => hi84 s.devTime
  | _ => s.clockStatus

def viewTwin (s : State) (sub : Nat) : Word :=
  let t := s.twin
  match sub with
  | 2 => wordOf t.role.code
  | 4 => wordOf t.hinge.code
  | 5 => wordOf s.hingeVersion
  | 6 => wordOf (t.pathB.st.code * 4 + t.pathA.st.code)
  | 7 => wordOf t.pathA.delay
  | 8 => wordOf t.pathB.delay
  | 0x0A => t.peerHealth
  | 0x0B => t.health
  | 0x10 => wordOf t.seq
  | 0x11 => wordOf t.acked
  | 0x12 => Word.ofBool t.lost
  | 0x15 => wordOf t.resync.code
  | 0x16 => s.configDigest
  | 0x17 => t.peerDigest
  | 0x1F => ofI64 t.offset
  | 0x20 => t.mismatch
  | 0x32 => t.spares
  | 0x33 => t.stestCapture
  | _ => t.pairedCapture

def viewKeys (s : State) (sub : Nat) : Word :=
  let k := s.keys
  match sub with
  | 1 => wordOf s.keyStoreState
  | 2 => wordOf k.latch
  | 4 => wordOf k.live
  | 5 => wordOf k.count
  | 6 => wordOf k.last.toNat
  | 7 => hi84 k.last.toNat
  | 9 => k.alarm
  | 0x0B => k.alarmSlot
  | 0x0F => s.slotStatus
  | 0x1A => s.ckeyStatus
  | 0x20 => wordOf k.trng.code
  | 0x31 => wordOf (Config.certLen.val + 1)
  | 0x33 => Config.serial
  | 0x35 => wordOf k.attest.code
  | 0x37 => Word.ofBool k.adopted
  | _ => k.peerHash

def viewEvents (s : State) (sub : Nat) : Word :=
  match sub with
  | 2 => s.ev.capture
  | 4 => wordOf s.pendingCount
  | _ => s.ev.fired

def viewRing (s : State) (r sub : Nat) : Word :=
  let q := s.ring r
  match sub with
  | 2 => wordOf q.st.code
  | 0x0C => wordOf q.tail
  | 0x0D => wordOf q.head
  | _ => q.cause

def viewQuarter (s : State) (q sub : Nat) : Word :=
  match sub with
  | 2 => (s.quarter q).addr
  | 3 => (s.quarter q).info
  | 5 => wordOf (s.stageUse q + s.txStageUse q)
  | _ => Config.windowBase

/-- SNAP_STATE, SNAP_HELD_PORT and SNAP_TIME (R469). -/
def viewCtrCommon (s : State) (sub : Nat) : Word :=
  match sub with
  | 3 => Word.ofBool s.cu.held.isSome
  | 4 => wordOf (s.cu.held.getD 0xFFFF)
  | 5 => wordOf s.cu.snapTime.toNat
  | 6 => hi84 s.cu.snapTime.toNat
  | _ => wordOf (s.halfPending 16)

def viewMac (s : State) (p sub : Nat) : Word :=
  match sub with
  | 2 => wordOf (s.port p).st.code
  | 0x16 => wordOf (s.port p).link.code
  | 0x17 => (s.port p).cause
  | 0x21 => wordOf (s.portTxOf p).sill
  | 0x25 => (s.portTxOf p).cause
  | _ => wordOf (s.learnedCount (p / 64) (p % 64))

/-- Objects of the shutters; the oper values read 0 while no list is in force (R328). -/
def viewGate (s : State) (p sub : Nat) : Word :=
  let q := s.shut p
  let l := q.oper.getD { den := 0 }
  match sub with
  | 2 => wordOf q.st.code
  | 0x0B => Word.ofBool q.pend.isSome
  | 0x0C => wordOf q.changeShown
  | 0x0D => hi84 q.changeShown
  | 0x0E => wordOf l.entries.length
  | 0x0F => wordOf l.g
  | 0x10 => wordOf (l.num * 65536 + l.den)
  | 0x11 => wordOf l.base
  | 0x12 => hi84 l.base
  | 0x13 => wordOf l.ext
  | 0x15 => l.entries.getD (s.regN (0x1400 + p) 0x14) 0
  | 0x16 => wordOf (b2n (s.wireHold p) * 256 + s.wireGates p)
  | 0x17 => wordOf (q.cycle % 2 ^ 48)
  | 0x1C => q.cause
  | n => wordOf (l.maxWin.getD (n - 0x20) 0)

def viewFc (s : State) (p sub : Nat) : Word :=
  match sub with
  | 3 => s.pauseState p
  | 0x0B => wordOf (s.portTxOf p).verify.code
  | _ => wordOf (s.xoffNow p)

/-- Bytes of the reassembly store reserved (R161). -/
def reasmReserved (s : State) (c : Nat) : Nat :=
  (((portsOf c).filter fun p => s.regB (0x1C00 + p) 4 && (s.port p).st != .closed).map fun p => s.skidNeed p).sum

/-- Bytes in the caliper stores: of each port the transmit frame that stands in the stage (R416). -/
def calHeld (s : State) (c : Nat) : Nat :=
  ((s.clusterPorts c).map fun p => match (s.portTxOf p).frames.find? fun f => !f.calDone && !TxFrame.dead f with
    | some f => f.data.length
    | none => 0).sum

/-- RO objects of a cluster that no read changes. -/
def viewCluster (s : State) (c k sub : Nat) : Word :=
  match k, sub with
  | 0, 2 => wordOf (s.clp c).st.code
  | 0, 4 => wordOf (s.clp c).night.code
  | 0, 7 => (s.clp c).wakeLatency
  | 1, 3 => (s.clRx c).knockLast
  | 1, 4 => wordOf (s.reasmReserved c)
  | 2, 2 => Word.ofBool (s.clRx c).alertLost
  | 2, 3 => wordOf (s.holdInUse c)
  | 3, 3 => wordOf (s.occupancy c)
  | 3, 0x0F => Word.ofBool (s.flushBusy c)
  | 5, 2 => wordOf (s.latheEntries c)
  | 5, 9 => wordOf (s.nodesValid c)
  | 7, 2 => (s.clTx c).stampLatch
  | 7, 3 => wordOf (s.clTx c).stamps.length
  | 8, 2 => wordOf (s.calHeld c)
  | 9, 2 => wordOf (s.halfPending c)
  | 9, 3 => wordOf (s.clRx c).copyUse
  | _, _ => 0

/-- RO fields of a table row, computed from the unit (R291, R292, R293, R271, R243). -/
def viewRow (s : State) (c t sub row : Nat) : Word :=
  match t, sub with
  | 0, 7 => s.schState c row
  | 0, _ => s.schTokens c row
  | 1, 7 => s.schState c (nodeKey row)
  | 1, _ => s.schTokens c (nodeKey row)
  | 2, 6 => s.portSchedState c row
  | 2, 7 => s.schTokens c (portKey row)
  | 2, _ => wordOf (s.ahead (64 * c + row))
  | 3, _ => s.meterBuckets c row
  | _, _ => (s.doorImage c row).2.2

/-! ### Reads that change something -/

/-- A read of an object of a cluster, with what it changes. -/
def readCluster (s : State) (c k sub : Nat) : Word × State :=
  match k, sub with
  | 2, 1 => s.readPnAlert c
  | 2, 4 => s.readHoldPeak c
  | 3, 0x0B => s.readParityCapture c
  | 4, 2 => s.readMeterCapture c
  | 5, 5 => s.readMaxLate c
  | 5, 7 => s.readSchedCapture c
  | 6, 2 => s.readShutterCapture c
  | 7, 1 => s.readTsMeta c
  | 8, 1 => s.readCalCapture c
  | 8, 4 => s.readCalEccCapture c
  | 9, 1 => s.halfNext c
  | _, _ => (s.viewCluster c k sub, s)

/-- DIGEST_CYCLE latches DIGEST_SUM and DIGEST_COUNT from the same record (R423). -/
def readDigest (s : State) (sub : Nat) : Word × State :=
  let r := s.digestRecord
  let keep := fun (i : Nat) (v : Word) => (SMap.get none s.dict.latched (slotKey 0x0A00 i 0)).getD v
  match sub with
  | 0x11 =>
    let latched := SMap.set none (SMap.set none s.dict.latched (slotKey 0x0A00 0x12 0) (some (wordOf r.2.1))) (slotKey 0x0A00 0x13 0)
      (some (wordOf r.2.2))
    (wordOf r.1, { s with dict := { s.dict with latched } })
  | 0x12 => (keep 0x12 (wordOf r.2.1), s)
  | _ => (keep 0x13 (wordOf r.2.2), s)

/-- A read of a target's objects. ENTER, EXIT and DONE have no value the spec states: it is free. -/
def readTarget (s : State) (t sub : Nat) : Word × State :=
  match sub with
  | 3 => (wordOf (s.runningPrio t), s)
  | 4 => (wordOf (s.tgt t).stack.length, s)
  | 7 => (wordOf (s.tgt t).claimSel, s)
  | 8 => s.readClaim t
  | 0x0C => (s.irqState t, s)
  | n => let w := s.freshWord; (w.1 &&& (if n = 9 then 0xFFFF else 0xFF), w.2)

/-- Byte `i` of a read-only stream (R230, R231, R221). -/
def streamByte (s : State) (sub i : Nat) : Byte :=
  match sub with
  | 0x30 => Config.identityPub i
  | 0x32 => Config.certByte i
  | _ => if s.keys.attest = .ready then byteAt s.keys.report i else 0

/-- The stated length of a read-only stream. -/
def streamLen (sub : Nat) : Nat :=
  match sub with
  | 0x30 => 64
  | 0x32 => Config.certLen.val + 1
  | _ => 144

/-- The next 8 bytes of a stream (R73), zeros beyond its end; the offset returns to 0 when the stream reaches its length. -/
def readStream (s : State) (sub : Nat) : Word × State :=
  let k := slotKey 0x0600 sub 0
  let o := SMap.get 0 s.dict.offsets k
  let n := streamLen sub
  let bytes := (List.range 8).map fun i => if o + i < n then s.streamByte sub (o + i) else 0
  (wordOf (leNat bytes), { s with dict := { s.dict with offsets := SMap.set 0 s.dict.offsets k (if n ≤ o + 8 then 0 else o + 8) } })

/-- The value of an object that is no stored register and no counter, and what reading it changes. -/
def readView (s : State) (ix : Ix) (sub : Nat) : Word × State :=
  match ix with
  | .ident => (viewIdent sub, s)
  | .comm => (s.viewComm sub, s)
  | .power => (s.viewPower sub, s)
  | .time => (s.viewTime sub, s)
  | .twin => if sub = 0x20 then s.readMismatch else if sub = 0x33 then s.readStest else (s.viewTwin sub, s)
  | .keys => if sub = 0x30 ∨ sub = 0x32 ∨ sub = 0x36 then s.readStream sub else (s.viewKeys sub, s)
  | .events => if sub = 2 then s.readRecCapture else (s.viewEvents sub, s)
  | .ring r => (s.viewRing r sub, s)
  | .quarter q => if sub = 3 then s.readBusErr q else (s.viewQuarter q sub, s)
  | .calCommon => s.readDigest sub
  | .ctrCommon => if sub = 8 then s.halfNext 16 else (s.viewCtrCommon sub, s)
  | .portMac p => (s.viewMac p sub, s)
  | .portGate p => (s.viewGate p sub, s)
  | .portCtr p => (s.readPortCtr p sub, s)
  | .portFc p => (s.viewFc p sub, s)
  | .cluster c k => s.readCluster c k sub
  | .bank b => (if sub = 1 then s.bankPending b else if sub = 4 then s.bankMask b else s.bankActive b, s)
  | .source e => (if sub = 2 then wordOf (s.src e).st.code else if sub = 3 then wordOf (s.src e).data
                  else wordOf ((s.src e).owner.getD 0xFF), s)
  | .target t => s.readTarget t sub
  | .band t b => (wordOf (if sub = 5 then (s.bandRing t b).tail else (s.bandRing t b).head), s)
  | .window .. => (0, s)

/-- A read of a table window (R69, R544). -/
def readWin (s : State) (c t : Nat) (o : ObjInfo) : Nat × Word × State :=
  let w := winIdx c t
  let q := s.window w
  let off : Bool := match tableDomain c t with | some n => (s.dom n).ack == .off | none => false
  if o.acc = .wo then (rWRITE_ONLY, 0, s)
  else match o.sub with
    | 1 => (rOK, wordOf q.row, s)
    | 0x11 => (rOK, wordOf q.status, s)
    | 0x12 => (rOK, wordOf (tableRows t), s)
    | 0x13 => (rOK, wordOf (8 * tableImageSlots t), s)
    | n =>
      if o.home = .ctr then (rOK, if off ∨ tableRows t ≤ q.row then 0 else (s.ctr w n q.row).setWidth 64, s)
      else if o.home = .view then (rOK, if off ∨ tableRows t ≤ q.row then 0 else s.viewRow c t n q.row, s)
      else if o.ty = .domain then (rOK, q.pattern.getD q.patOff 0, s.setWindow w { q with patOff := (q.patOff + 1) % 16 })
      else (rOK, SMap.get 0 q.stage n, s)

/-- A read of slot s of a TIME84 object latches its slot s + 1 (R57). -/
def latch84 (s : State) (idx sub : Nat) (high : Word) : State :=
  { s with dict := { s.dict with latched := SMap.set none s.dict.latched (slotKey idx (sub + 1) 0) (some high) } }

/-- A read of an object outside the table windows that may be read. -/
def readObj (s : State) (ix : Ix) (o : ObjInfo) (idx : Nat) : Word × State :=
  let x : Word × State := match o.home with
    | .reg => (s.reg idx o.sub, s)
    | .ctr => (match ix with | .portCtr p => s.readPortCtr p o.sub | _ => (s.ctr idx o.sub).setWidth 64, s)
    | _ => s.readView ix o.sub
  if o.ty = .time84lo then
    let high := if o.home = .reg then s.reg idx (o.sub + 1) else (s.readView ix (o.sub + 1)).1
    (x.1, x.2.latch84 idx o.sub high)
  else if o.ty = .time84hi then ((SMap.get none s.dict.latched (slotKey idx o.sub 0)).getD x.1, x.2)
  else x

/-- A request to read an object, from a transport: its result code and value (R53, R55, R58). WRITE_ONLY is no refusal
(R60). -/
def read (s : State) (via : Transport) (idx sub : Nat) : Nat × Word × State :=
  let refused := fun (code : Nat) => (code, (0 : Word), s.refuse via idx sub code)
  match classify idx with
  | none => if sub = 0 then (rOK, 0, s) else refused rNO_OBJECT
  | some ix =>
    if sub = 0 then (rOK, 1, s)
    else match objInfo idx sub with
      | none => refused rNO_OBJECT
      | some o =>
        if o.acc = .rwl ∧ isBdp via then refused rLOCAL_ONLY
        else match ix with
          | .window c t => s.readWin c t o
          | _ => if o.acc = .wo then (rWRITE_ONLY, 0, s)
                 else let x := s.readObj ix o idx; (rOK, x.1, x.2)

/-- A read presented to the dictionary engine, with its completion. -/
def fetch (s : State) (via : Transport) (idx sub : Nat) : State :=
  if !s.dictRuns then s
  else
    let x := s.read via idx sub
    x.2.2.emit (.value x.1 x.2.1)

end State
end Sys2Proof.Machine
end

