-- ==== Sys2Proof/Machine/Bdp.lean ====
section
/-!
DEFINITION. The Benea Dictionary Protocol (R76–R90): sessions, the execution of a request, its response on CAN FD or
in-band, and bus-off.
-/
namespace Sys2Proof.Machine

/-- The header of a PDU (R76). -/
structure BdpHead where
  version : Nat
  op : Nat
  seq : Nat
  idx : Nat
  sub : Nat
  count : Nat

/-- A PDU's header; `none` where it is shorter than a header. -/
def bdpHead (pdu : Bytes) : Option BdpHead :=
  if pdu.length < 8 then none
  else some { version := beAt pdu 0 1, op := beAt pdu 1 1, seq := beAt pdu 2 2, idx := beAt pdu 4 2, sub := beAt pdu 6 1
              count := beAt pdu 7 1 }

/-- A response PDU: the request's SEQ, INDEX and SUBINDEX, RESULT and the values (R76, R77). -/
def bdpResponse (h : BdpHead) (version op result : Nat) (vals : List Word) : Bytes :=
  [BitVec.ofNat 8 version, BitVec.ofNat 8 op] ++ beBytes 2 h.seq ++ beBytes 2 h.idx ++ beBytes 1 h.sub ++ beBytes 1 result
    ++ vals.flatMap fun v => beBytes 8 v.toNat

/-- The shortest CAN FD data length that holds `n` bytes (R81). -/
def canLen (n : Nat) : Nat := if n ≤ 8 then n else ([12, 16, 20, 24, 32, 48, 64].find? fun k => n ≤ k).getD n

namespace State

/-! ### Sources and sessions (R78, R79) -/

/-- A source: a CAN FD address, or the source address of an in-band frame as a number. -/
def sessionOf (s : State) (inband : Bool) (src : Nat) : Session :=
  SMap.get {} (if inband then s.dict.inSessions else s.dict.sessions) src

def setSession (s : State) (inband : Bool) (src : Nat) (q : Session) : State :=
  if inband then { s with dict := { s.dict with inSessions := SMap.set {} s.dict.inSessions src q } }
  else { s with dict := { s.dict with sessions := SMap.set {} s.dict.sessions src q } }

/-! ### Execution (R77) -/

/-- Subindexes read in ascending order from `sub` on, up to the first refusal: RESULT and the values read. -/
def bdpReads (via : Transport) (idx : Nat) : Nat → Nat → Nat → List Word → State → Nat × List Word × State
  | 0, _, res, vals, s => (res, vals, s)
  | n + 1, sub, res, vals, s =>
    if 255 < sub then (rNO_OBJECT, vals, s.refuse via idx sub rNO_OBJECT)
    else
      let x := s.read via idx sub
      if x.1 = rOK then bdpReads via idx n (sub + 1) res (vals ++ [x.2.1]) x.2.2
      else if x.1 = rWRITE_ONLY then bdpReads via idx n (sub + 1) rWRITE_ONLY (vals ++ [0]) x.2.2
      else (x.1, vals, x.2.2)

/-- Values written in ascending order from `sub` on, up to the first refusal: RESULT. All values for a stream go to its
subindex. -/
def bdpWrites (via : Transport) (idx : Nat) : List Word → Nat → State → Nat × State
  | [], _, s => (rOK, s)
  | v :: rest, sub, s =>
    if 255 < sub then (rNO_OBJECT, s.refuse via idx sub rNO_OBJECT)
    else
      let x := s.write via idx sub v
      let stream : Bool := match objInfo idx sub with | some o => o.ty == .domain | none => false
      if x.1 = rOK then bdpWrites via idx rest (if stream then sub else sub + 1) x.2 else x

/-- The values a WRITE or HELLO carries. -/
def bdpValues (pdu : Bytes) (n : Nat) : List Word := (List.range n).map fun i => Word.ofNat (beAt pdu (8 + 8 * i) 8)

/-- The version that a HELLO opens a session with: the highest common one (R3, R78); 0 for none. -/
def helloVersion (pdu : Bytes) : Nat := topVersion (beAt pdu 15 1 &&& bdpVersions)

/-- A request refused as a whole, with its response. -/
def bdpRefuse (s : State) (via : Transport) (h : BdpHead) (version op result : Nat) : Bytes × State :=
  (bdpResponse h version op result [], s.refuse via h.idx h.sub result)

/-- A HELLO is answered (R78). DESIGN CHOICE: the spec says only that a HELLO without a common version opens no session; a session
that its source already has stays open with its version (assumption 100). -/
def bdpHello (s : State) (via : Transport) (inband : Bool) (src : Nat) (h : BdpHead) (pdu : Bytes) (lenOk : Bool) : Bytes × State :=
  if !lenOk then s.bdpRefuse via h 0 6 rLENGTH
  else if helloVersion pdu = 0 then s.bdpRefuse via h 0 6 rVERSION
  else (bdpResponse h (helloVersion pdu) 6 rOK [],
        s.setSession inband src { s.sessionOf inband src with version := helloVersion pdu })

/-- A READ or WRITE is answered. A COUNT that the version does not allow is refused; which code answers it is not stated
and free. -/
def bdpRequest (s : State) (via : Transport) (version : Nat) (h : BdpHead) (pdu : Bytes) (lenOk : Bool) : Bytes × State :=
  let op := h.op + 2
  if version = 0 ∨ h.version ≠ version then s.bdpRefuse via h version op rVERSION
  else if h.count = 0 ∨ (if version = 1 then 1 else 7) < h.count then
    { s with free := s.free + 1 }.bdpRefuse via h version op (1 + (Config.freeWord s.free).toNat % 10)
  else if !lenOk then s.bdpRefuse via h version op rLENGTH
  else if h.op = 1 then
    let x := bdpReads via h.idx h.count h.sub rOK [] s
    (bdpResponse h version op x.1 x.2.1, x.2.2)
  else
    let x := bdpWrites via h.idx (bdpValues pdu h.count) h.sub s
    (bdpResponse h version op x.1 [], x.2)

/-- A request of a source is executed, or the kept response is taken again (R79). `lenOk`: the transport carried exactly the
length that COUNT requires. -/
def bdpServe (s : State) (via : Transport) (src : Nat) (h : BdpHead) (pdu : Bytes) (lenOk : Bool) : Bytes × State :=
  let inband := via == .inband
  let q := s.sessionOf inband src
  if q.seq = some h.seq then (q.resp, s)
  else
    let x := if h.op = 5 then s.bdpHello via inband src h pdu lenOk else s.bdpRequest via q.version h pdu lenOk
    (x.1, x.2.setSession inband src { x.2.sessionOf inband src with seq := some h.seq, resp := x.1 })

/-! ### CAN FD (R80, R81) -/

/-- A CAN FD frame with a request of operation `op`: executed and answered. The bus has been idle, so an unsent health word goes
first (R82). -/
def canRequest (s : State) (op id : Nat) (data : Bytes) : State :=
  let s := s.canHealth
  let src := id / 2 ^ 8 % 128
  let node := s.regN 0x0200 1
  match bdpHead data with
  | none => s
  | some h =>
    if !s.regB 0x0200 3 ∨ id / 2 ^ 22 % 16 ≠ 1 ∨ id / 2 ^ 15 % 128 ≠ node ∨ h.op ≠ op then s
    else
      let n := pduLen data
      let x := s.bdpServe .can src h (data.take n) (data.length == canLen n)
      x.2.emit (.can (2 * 2 ^ 26 + 2 * 2 ^ 22 + src * 2 ^ 15 + node * 2 ^ 8) (padTo (canLen x.1.length) x.1))

/-! ### In-band (R86–R88) -/

/-- The response leaves as a DIRECT frame of class INBAND_TC on INBAND_PORT, or is dropped (R87). -/
def inbandRespond (s : State) (req : InbandReq) (pdu : Bytes) : State :=
  let p := s.regN 0x0200 5
  let station := leBytes 6 (s.regN (0x1000 + p) 0x0B)
  if 1024 ≤ p ∨ (s.port p).st ≠ .opened ∨ s.regN (0x1000 + p) 0x0B = 0 then s.bump 0x0200 0x13
  else
    let seq := s.dict.txSeq + 1
    let t := match s.inbandKey with
      | some k => (inbandTag k.key station seq.toNat pdu, s)
      | none => s.freshBytes 8
    let tag := match req.tag with
      | some v => beBytes 2 0x8100 ++ beBytes 2 (v.2 * 8192 + v.1)
      | none => []
    let bytes := padTo 60 (req.src ++ station ++ tag ++ beBytes 2 0x88B5 ++ beBytes 8 seq.toNat ++ pdu ++ t.1)
    let s := { t.2 with dict := { t.2.dict with txSeq := seq } }
    (s.updPortTx p fun q => { q with inject := q.inject ++ [{ origin := { ring := none }, tc := s.regN 0x0200 0x12, bytes }] }).settlePort p

/-- Bytes that the in-band responses on their way hold in the response buffer of the DICT domain (R87). -/
def responseUse (s : State) : Nat :=
  (s.portTx.map fun e =>
    ((e.2.inject.filter fun f => f.origin.ring.isNone).map fun f => f.bytes.length).sum
      + ((s.liveFrames e.1).map fun f => match f.origin with | some o => if o.ring.isNone then f.data.length else 0 | none => 0).sum).sum

/-- The response buffer has room for another response, whose longest form has 98 bytes (R84, R87). -/
def responseRoom (s : State) : Bool := s.responseUse + 98 ≤ 2048

/-- The oldest request of the in-band queue is executed and answered where its operation is `op`, once the response buffer has
room; one with a reserved operation, or none at all, is dropped. -/
def inbandServe (s : State) (op : Nat) : State :=
  match s.dict.queue with
  | [] => s
  | req :: rest =>
    let gone := { s with dict := { s.dict with queue := rest } }
    match bdpHead req.pdu with
    | none => gone
    | some h =>
      if h.op ≠ 1 ∧ h.op ≠ 2 ∧ h.op ≠ 5 then gone
      else if h.op ≠ op ∨ !s.responseRoom then s
      else
        let x := gone.bdpServe .inband (beNat req.src) h req.pdu (req.pdu.length == pduLen req.pdu)
        x.2.inbandRespond req x.1

/-- A BDP request of one operation, from a source. -/
def bdp (s : State) (op : Nat) (src : BdpSrc) : State :=
  if !s.dictRuns then s
  else match src with
    | .can id data errs => (s.bump 0x0200 0x0D errs).canRequest op id data
    | .inband => s.inbandServe op

/-- Bus-off of the CAN FD controller (R67, R83). -/
def canBusOff (s : State) : State := if s.dictRuns then (s.bump 0x0200 0x0D).raise 0x813 else s

end State

/-- A BDP READ (R77). -/
def execBdpRead (dt : Nat) (src : BdpSrc) (s : State) : Res := settled (.next ((s.elapse dt).bdp 1 src))

/-- A BDP WRITE (R77). -/
def execBdpWrite (dt : Nat) (src : BdpSrc) (s : State) : Res := settled (.next ((s.elapse dt).bdp 2 src))

/-- A BDP HELLO (R78). -/
def execBdpHello (dt : Nat) (src : BdpSrc) (s : State) : Res := settled (.next ((s.elapse dt).bdp 5 src))

/-- Bus-off (R83). -/
def execBusOff (dt : Nat) (s : State) : Res := .next (s.elapse dt).canBusOff

end Sys2Proof.Machine
end

