-- ==== Sys2Proof/Machine/DescMem.lean ====
section
/-!
DEFINITION. Descriptors of MEMORY rings (R491, R492) and error responses of the interconnect (R35, R494).
-/
namespace Sys2Proof.Machine
namespace State

/-! ### One transaction of up to 8 bytes (R492) -/

/-- The address lies in the register window: the offset from its base. -/
def inWindow (a : Nat) : Option Nat :=
  let o := (a + (2 ^ 64 - Config.windowBase.toNat)) % 2 ^ 64
  if o < 2 ^ 27 then some o else none

/-- `n` bytes are read at `a`: from memory, or as a window read of a whole aligned slot. `none`: an error response (R37). -/
def piece (s : State) (r a n : Nat) : Option Bytes × State :=
  match inWindow a with
  | none => (some (s.memRead a n), s.busRead r n)
  | some o =>
    if n ≠ 8 ∨ o % 8 ≠ 0 then (none, s.bump 0x0200 0x0F)
    else
      let x := s.read .window (o / 2048) (o / 8 % 256)
      (some (leBytes 8 x.2.1.toNat), x.2.2)

/-- Bytes are written at `a`: to memory, or as a window write of a whole aligned slot. `false`: an error response. -/
def putPiece (s : State) (r a : Nat) (bs : Bytes) : Bool × State :=
  match inWindow a with
  | none => (true, (s.memWrite a bs).busWrite r bs.length)
  | some o =>
    if bs.length ≠ 8 ∨ o % 8 ≠ 0 then (false, s.bump 0x0200 0x0F)
    else (true, (s.write .window (o / 2048) (o / 8 % 256) (Word.ofNat (leNat bs))).2)

/-- `len` bytes from `base` on in pieces of 8, `fixed` all at one address, `off` of them read already: what was read up to an
error response. -/
def readPieces (r base : Nat) (fixed : Bool) : Nat → Nat → Nat → Bytes → State → Bytes × State
  | 0, _, _, acc, s => (acc, s)
  | k + 1, len, off, acc, s =>
    if len ≤ off then (acc, s)
    else
      let x := s.piece r ((if fixed then base else base + off) % 2 ^ 64) (min 8 (len - off))
      match x.1 with
      | none => (acc, x.2)
      | some bs => readPieces r base fixed k len (off + bs.length) (acc ++ bs) x.2

/-- Bytes written from `base` on in pieces of 8: how many went before an error response. -/
def writePieces (r base : Nat) (fixed : Bool) : Nat → Bytes → Nat → State → Nat × State
  | 0, _, off, s => (off, s)
  | k + 1, bs, off, s =>
    if bs.isEmpty then (off, s)
    else
      let x := s.putPiece r ((if fixed then base else base + off) % 2 ^ 64) (bs.take 8)
      if x.1 then writePieces r base fixed k (bs.drop 8) (off + (bs.take 8).length) x.2 else (off, x.2)

/-- Pieces of which each may have been written and may not (R494). -/
def maybePieces (r base : Nat) (fixed : Bool) : Nat → Bytes → Nat → State → State
  | 0, _, _, s => s
  | k + 1, bs, off, s =>
    if bs.isEmpty then s
    else
      let t := { s with free := s.free + 1 }
      let t := if Config.freeBool s.free then (t.putPiece r ((if fixed then base else base + off) % 2 ^ 64) (bs.take 8)).2 else t
      maybePieces r base fixed k (bs.drop 8) (off + (bs.take 8).length) t

/-! ### Opcodes (R491) -/

/-- `n` bytes of a 64-bit constant repeated in memory order. -/
def fillBytes (v : Word) (n : Nat) : Bytes := (List.range n).map fun i => (leBytes 8 v.toNat).getD (i % 8) 0

/-- The first difference of `a` and `b`, from offset `off` on. -/
def firstDiff : Bytes → Bytes → Nat → Option Nat
  | a :: x, b :: y, off => if a = b then firstDiff x y (off + 1) else some off
  | _, _, _ => none

/-- COMPARE piece by piece up to offset `stop`: RESULT and the offset reached. -/
def comparePieces (r : Nat) (d : Desc) (stop : Nat) : Nat → Nat → State → Nat × Nat × State
  | 0, off, s => (resOK, off, s)
  | k + 1, off, s =>
    if stop ≤ off then (resOK, off, s)
    else
      let n := min 8 (stop - off)
      let x := s.piece r ((if d.srcFixed then d.addr else d.addr + off) % 2 ^ 64) n
      let y := if d.cmpBuf then x.2.piece r ((d.aux.toNat + off) % 2 ^ 64) n else (some (fillBytes d.aux n), x.2)
      match x.1, y.1 with
      | some a, some b => match firstDiff a b off with
        | some at_ => (resMISMATCH, at_, y.2)
        | none => comparePieces r d stop k (off + n) y.2
      | none, _ => (resBAD, off, x.2)
      | _, none => (resBAD, off, y.2)

/-- A fixed address of the descriptor is not a multiple of 8, or its LENGTH is not (R492). -/
def fixedBad (d : Desc) : Bool :=
  (d.dstFixed && d.opcode != 3 && d.addr % 8 != 0) || (d.srcFixed && d.opcode == 1 && d.aux.toNat % 8 != 0)
    || (d.srcFixed && d.opcode == 3 && d.addr % 8 != 0)
    || (((d.dstFixed && d.opcode != 3) || (d.srcFixed && d.opcode != 2)) && d.len % 8 != 0)

/-- The descriptor may reach the register window: it waits while the dictionary engine does not run. -/
def touchesWindow (d : Desc) : Bool :=
  let hits := fun (a n : Nat) => (inWindow a).isSome || (inWindow (a + n)).isSome
  hits d.addr d.len || ((d.opcode == 1 || d.cmpBuf) && hits d.aux.toNat d.len)

/-- Bytes `off` to `stop` of a MOVE, FILL or COMPARE: its RESULT once it has one, and the offset reached. -/
def runOpcode (s : State) (r : Nat) (d : Desc) (off stop : Nat) : Option Nat × Nat × State :=
  let k := (stop - off) / 8 + 1
  let ends := fun (res at_ : Nat) => if res = resOK ∧ at_ < d.len then none else some res
  if fixedBad d then (some resBAD, 0, s)
  else if d.opcode = 3 then
    let x := comparePieces r d stop k off s
    (ends x.1 x.2.1, x.2.1, x.2.2)
  else
    let x := if d.opcode = 1 then readPieces r d.aux.toNat d.srcFixed k stop off [] s else (fillBytes d.aux (stop - off), s)
    let y := writePieces r d.addr d.dstFixed k x.1 off x.2
    (if y.1 = stop then ends resOK y.1 else some resBAD, y.1, y.2)

/-- The ring is a MEMORY ring whose quarter works: OPEN, or CLOSING with a descriptor in progress. -/
def memoryRing (s : State) (r : Nat) : Bool :=
  isTxRing r && r < 256 && s.regN (rIdx r) 5 == 2 && s.quarterRuns (r / 64)
    && ((s.ring r).st == .opened || ((s.ring r).st == .closing && (s.ring r).work.isSome))

/-- The descriptor completes behind the others of its ring. -/
def finishOne (s : State) (r result done : Nat) : State := s.finishChain r 1 result (some done)

/-- Up to `beats` beats of 64 bytes of a descriptor in progress; 0: all that are left. What is done is kept, and the next beat goes on
from there (R493). -/
def runWork (s : State) (r : Nat) (w : Work) (beats : Nat) : State :=
  let stop := if beats = 0 then w.d.len else min w.d.len (w.off + 64 * beats)
  let y := s.runOpcode r w.d w.off stop
  match y.1 with
  | some res => (y.2.2.updRing r fun q => { q with work := none }).finishOne r res y.2.1
  | none => y.2.2.updRing r fun q => { q with work := some { w with off := y.2.1 } }

/-- The descriptor is one that a MEMORY ring may run (R491). -/
def memoryOp (d : Desc) : Bool := d.flagsOk && 0 < d.opcode && d.opcode ≤ 3

/-- Beats of the descriptor in progress of a MEMORY ring, or of its next one, are moved where its opcode is `op` and the ring has the
beat (R493); an opcode or flag that the ring does not allow completes BAD without access (R491). -/
def memDesc (s : State) (r op beats : Nat) : State :=
  let waits := fun (d : Desc) => d.opcode != op || (touchesWindow d && !s.dictRuns)
  if !s.memoryRing r ∨ !s.mayGo r then s
  else match (s.ring r).work with
    | some w => if waits w.d then s else s.runWork r w beats
    | none =>
      let x := (s.takeTurn r).fetchDesc r
      match x.1 with
      | none => x.2
      | some d =>
        if !memoryOp d then (x.2.takeDesc r).finishOne r resBAD 0
        else if waits d then s
        else (x.2.takeDesc r).runWork r { d, off := 0, level := s.regN (rIdx r) 8 } beats

/-! ### Error responses (R494) -/

/-- A data transaction of a MEMORY descriptor fails: the bytes before the failing beat are done, others may be. -/
def memFail (s : State) (r off : Nat) (write : Bool) : State :=
  let x : Option Work × State := match (s.ring r).work with
    | some w => (some w, s)
    | none => (fun (x : Option Desc × State) => (x.1.map fun d => { d, off := 0, level := 0 }, x.2.takeDesc r)) (s.fetchDesc r)
  match x.1 with
  | none => s
  | some w =>
    let d := w.d
    if !memoryOp d ∨ fixedBad d ∨ d.len ≤ off ∨ off < w.off then s
    else
      let t := x.2.updRing r fun q => { q with work := none }
      let k := d.len / 8 + 1
      let y := if d.opcode = 1 then readPieces r d.aux.toNat d.srcFixed k d.len w.off [] t
        else (if d.opcode = 2 then fillBytes d.aux (d.len - w.off) else [], t)
      let data := y.1
      let t := (writePieces r d.addr d.dstFixed k (data.take (off - w.off)) w.off y.2).2
      let t := maybePieces r (if d.dstFixed then d.addr else d.addr + off) d.dstFixed k (data.drop (off - w.off)) 0 t
      let base := if d.opcode = 1 ∧ !write then d.aux.toNat else d.addr
      let fixed := if write then d.dstFixed else d.srcFixed
      (t.busError r ((if fixed then base else base + off) % 2 ^ 64) write false).finishOne r resBAD off

/-- A data read of the `k`-th descriptor of the chain being gathered fails: those before it go with the frame, it completes BAD,
and the engine continues behind it. -/
def chainFail (s : State) (r k off : Nat) : State :=
  let ds := s.gathered r
  let t := (gatherTx r (k - ds.length) ds s).2
  let x := t.fetchDesc r
  match x.1 with
  | none => s
  | some d =>
    if k < ds.length ∨ (t.gathered r).length ≠ k ∨ wholeChain (t.gathered r) ∨ d.opcode ≠ 0 ∨ !d.flagsOk ∨ (d.isFirst ∧ k ≠ 0)
        ∨ d.len ≤ off then s
    else
      let t := ((x.2.takeDesc r).busRead r off).busError r ((d.addr + off) % 2 ^ 64) false false
      let t := if k = 0 then t else t.finishChain r k resDISCARDED
      t.finishOne r resBAD off

/-- A data write of a staged receive frame fails. -/
def rxFail (s : State) (r k off : Nat) : State :=
  match (s.quarter (r / 64)).staged.find? fun f => f.ring == r with
  | none => s
  | some f =>
    let d := s.readDesc r ((f.first + k) % s.ringSize r)
    if f.count ≤ k ∨ k < f.sent ∨ d.len ≤ off ∨ d.opcode ≠ 0 ∨ !d.flagsOk then s
    else (s.busError r ((d.addr + off) % 2 ^ 64) true false).deliverRx r (some (k, off))

/-- The interconnect answers a transaction of an open or closing ring with an error (R494). After a failed STATUS write, what the
descriptor's status word holds is open. -/
def busFail (s : State) (r : Nat) (site : BusSite) : State :=
  if 256 ≤ r ∨ (s.ring r).st = .closed ∨ (s.ring r).st = .opening ∨ !s.quarterRuns (r / 64) then s
  else match site with
    | .fetch =>
      let q := s.ring r
      if q.idle ∨ q.fetch = q.tail ∨ q.st = .closing then s
      else (s.setRing r { q with door := false }).haltRing r (s.descAddr r q.fetch) false
    | .status i =>
      if s.ringSize r ≤ i then s
      else
        let a := s.descAddr r i + if s.descLen r = 16 then 8 else 24
        let x := s.freshBytes 8
        (x.2.memWrite a x.1).haltRing r a true
    | .data k off write =>
      if !isTxRing r then s.rxFail r k off
      else if s.regN (rIdx r) 5 = 2 then (if k = 0 ∧ s.memoryRing r then s.memFail r off write else s)
      else if (s.ring r).st = .opened then s.chainFail r k off else s

end State

/-- A MOVE (R491). -/
def execDescMove (dt : Nat) (work : RingBeats) (s : State) : Res := settled (.next ((s.elapse dt).memDesc work.ring 1 work.beats))

/-- A FILL (R491). -/
def execDescFill (dt : Nat) (work : RingBeats) (s : State) : Res := settled (.next ((s.elapse dt).memDesc work.ring 2 work.beats))

/-- A COMPARE (R491). -/
def execDescCompare (dt : Nat) (work : RingBeats) (s : State) : Res := settled (.next ((s.elapse dt).memDesc work.ring 3 work.beats))

/-- An error response of the interconnect (R494). -/
def execBusErrorResponse (dt r : Nat) (site : BusSite) (s : State) : Res := .next ((s.elapse dt).busFail r site)

end Sys2Proof.Machine
end

