-- ==== Sys2Proof/Machine/Faulting.lean ====
section
/-!
DEFINITION. Meanings of commands that may bring an uncorrectable error to light (R448): the unit's own effect, and then the
fault acts on the role (R450).
-/
namespace Sys2Proof.Machine

/-- A sweeper pass (R256). -/
def execAgePass (dt c : Nat) (upsets : List Upset) (s : State) : Res := settled (agePassRes dt c upsets s)

/-- The grants of one CLK_DP cycle (R298). -/
def execDequeueGrant (dt c : Nat) (upsets : List (Nat × Nat)) (s : State) : Res := settled (dequeueGrantRes dt c upsets s)

/-- A segment from the buffer manager (R360). -/
def execReturnedSegment (dt tag : Nat) (seg : Segment) (ecc : Bool) (upsets : List Upset) (s : State) : Res :=
  settled (returnedSegmentRes dt tag seg ecc upsets s)

/-- The end of the frame on the wire (R366). -/
def execTxFrameDone (dt : Nat) (wire : WireEnd) (s : State) : Res := settled (txFrameDoneRes dt wire.port wire.ecc s)

/-- A shutter entry boundary (R324). -/
def execShutterEntryChange (dt p : Nat) (upset : Bool) (s : State) : Res := settled (shutterEntryChangeRes dt p upset s)

end Sys2Proof.Machine
end

