-- ==== Sys2Proof/Machine/MirrorRx.lean ====
section
/-!
DEFINITION. The mirror stream where it meets the dictionary: the digest a mark carries, the management tick, the end of a
resync, and the receiving side of the stream (R91, R93, R350, R437, R438, R441, R442), with the health word of the peer (R434).
-/
namespace Sys2Proof.Machine
namespace State

/-! ### Digest marks, sending side -/

/-- The write has entered the mirror stream and counts for a digest mark behind it. -/
def inStream (e : Effect) : Bool :=
  match e with
  | .obj i j _ => mirrored i j
  | .time84 i j _ => mirrored i j
  | .row .. => true
  | .wrappedKey .. => true
  | .timed .. => true
  | _ => false

/-- The configuration digest as it stands at this point of the stream (R441): with every write that has entered the stream
landed. -/
def streamDigest (s : State) : Word :=
  let ls := s.dict.landing.filter fun l => inStream l.eff
  (landAll [] (fun _ _ => true) ls.length { s with dict := { s.dict with landing := ls } }).configDigest

/-- The active ends a resync with a digest mark and clears MIRROR_LOST (R442). -/
def endResync (s : State) : State :=
  if s.twin.role ≠ .active ∨ s.twin.resync ≠ .sending then s
  else (s.streamSend (.digestMark s.streamDigest true)).updTwin fun t => { t with lost := false, resync := .idle }

/-! ### Receiving side -/

/-- A key row of the stream meets the checks of the sender's own operation that need no unwrapped image (R93, R70, R223). -/
def acceptWrapped (s : State) (w row suite : Nat) (wrapped : Option Bytes) : Nat × State :=
  if tableRows 6 ≤ row then (rROW_RANGE, s)
  else if (s.dom domKeys).ack = .off ∨ (wrapped.isSome ∧ s.keys.latch ≠ 0) then (rRANGE, s)
  else (rOK, s.enqueue .hinge (.wrappedKey w row suite wrapped))

/-- A write or row operation of the stream is accepted or refused by the own dictionary engine (R93, R437). -/
def acceptOp (s : State) (op : MirrorOp) : State :=
  let done := fun (x : Nat × State) (idx sub : Nat) => if x.1 = rOK then x.2 else x.2.refuse .hinge idx sub x.1
  let isWin := fun (w : Nat) => match classify w with | some (.window _ _) => true | _ => false
  match op with
  | .obj idx sub v tc =>
    match classify idx, objInfo idx sub with
    | some (.window _ _), _ => s.refuse .hinge idx sub rNO_OBJECT
    | some ix, some o => done (s.acceptObj .hinge ix o idx v tc) idx sub
    | _, _ => s.refuse .hinge idx sub rNO_OBJECT
  | .time84 idx sub v =>
    match objInfo idx sub with
    | some o => if o.ty = .time84hi ∧ o.acc = .rw then s.enqueue .hinge (.time84 idx sub v) else s.refuse .hinge idx sub rREAD_ONLY
    | none => s.refuse .hinge idx sub rNO_OBJECT
  | .row w row img => if isWin w then done (s.acceptRow .hinge (winCluster w) (winTable w) row img false) w 0x10 else s.refuse .hinge w 0x10 rNO_OBJECT
  | .strobe w sub row => if isWin w then done (s.acceptStrobe .hinge (winCluster w) (winTable w) sub row) w sub else s.refuse .hinge w sub rNO_OBJECT
  | .key w row suite wrapped =>
    if !isWin w then s.refuse .hinge w 0x10 rNO_OBJECT
    else done (s.acceptWrapped w row suite wrapped) w 0x10

/-- It is applied: it lands behind every write accepted before it. -/
def applyOp (s : State) (op : MirrorOp) : State := (s.acceptOp op).landWrites []

/-- A latch mark: the standby latches its admin list in step, or makes no swap (R350). -/
def takeMark (s : State) (p tc : Nat) : State :=
  let q := s.shut p
  match q.pend with
  | none => s
  | some w =>
    if w.latched.isSome then s
    else if s.devTime + 2 ^ 19 ≤ tc then s.latchSwap p
    else (s.setShut p { q with pend := none }).shutCause p 1

/-- A digest mark is compared with the own digest (R441); the final mark ends a resync (R442). -/
def takeDigest (s : State) (digest : Word) (final : Bool) : State :=
  let same : Bool := s.streamDigest == digest
  let ends : Bool := final && s.twin.resync == .receiving
  let again := s.twin.diverged
  let s := s.updTwin fun t => { t with peerDigest := digest, marked := same, diverged := !same,
                                       resync := if ends then .idle else t.resync }
  let s := if !same && !again then s.raiseOnce 0x84A else s
  let s := if ends && same then s.raiseOnce 0x84B else s
  s.settleStep

/-- One message of the stream is applied in its turn. -/
def takeMsg (s : State) (m : StreamMsg) : State :=
  match m with
  | .write op => s.applyOp op
  | .item op => (s.updTwin fun t => { t with resync := .receiving }).applyOp op
  | .latchMark p tc => s.takeMark p tc
  | .digestMark d final => s.takeDigest d final

/-- Messages that are held and whose turn it is, in sequence order. -/
def drainHold : Nat → State → State
  | 0, s => s
  | n + 1, s =>
    match s.twin.hold.find? fun e => e.1 == s.twin.seq + 1 with
    | none => s
    | some e =>
      let s := s.updTwin fun t => { t with seq := e.1, hold := t.hold.erase e }
      drainHold n (s.takeMsg e.2)

/-- A message of the mirror stream arrives (R437): the first copy of each number is kept and applied in sequence order. A
receiver that has applied nothing takes the first number it sees as the start. -/
def streamRx (s : State) (path crcOk : Bool) (n : Nat) (m : StreamMsg) : State :=
  if !crcOk then s.hingeCrcErr
  else if !s.hingeTakes path ∨ s.twin.role = .active ∨ s.twin.role = .unadopted then s
  else
    let s := if s.twin.seq = 0 ∧ s.twin.hold.isEmpty then s.updTwin fun t => { t with seq := n - 1 } else s
    if n ≤ s.twin.seq ∨ s.twin.hold.any fun e => e.1 == n then s
    else
      let s := s.updTwin fun t => { t with hold := t.hold ++ [(n, m)] }
      if s.dictRuns then drainHold s.twin.hold.length s else s

/-- The peer's health asks for a resync (R442). -/
def resyncWanted (s : State) (w : Word) : Bool :=
  s.regB 0x0500 0x13 && s.twin.role == .active && w.bit 44 && wordRole w != Role.active.code && (w.bit 40 || w.bit 39 || s.twin.lost)

/-- A HEALTH message arrives (R434, R442). -/
def healthRx (s : State) (path crcOk : Bool) (w : Word) : State :=
  if !crcOk then s.hingeCrcErr
  else if !s.hingeTakes path then s
  else
    let now_ := s.time.ticks
    let s := (s.updTwin fun t => { t with peerHealth := w, peerHealthTick := some now_ }).settleStep
    if s.resyncWanted w then s.startResync else s

end State

/-! ### Meanings -/

/-- Every item has entered the stream: the active ends the resync (R442). -/
def execResyncComplete (dt : Nat) (s : State) : Res := .next (s.elapse dt).endResync

/-- A MIRROR message (R437). -/
def execMirrorRx (dt : Nat) (path crcOk : Bool) (n : Nat) (op : MirrorOp) (s : State) : Res :=
  settled (.next ((s.elapse dt).streamRx path crcOk n (.write op)))

/-- A RESYNC_ITEM (R442). -/
def execResyncItemRx (dt : Nat) (path crcOk : Bool) (n : Nat) (op : MirrorOp) (s : State) : Res :=
  settled (.next ((s.elapse dt).streamRx path crcOk n (.item op)))

/-- A LATCH_MARK (R350). -/
def execLatchMarkRx (dt : Nat) (path crcOk : Bool) (n p tc : Nat) (s : State) : Res :=
  settled (.next ((s.elapse dt).streamRx path crcOk n (.latchMark p tc)))

/-- A DIGEST_MARK (R441). -/
def execDigestMarkRx (dt : Nat) (path crcOk : Bool) (n : Nat) (digest : Word) (final : Bool) (s : State) : Res :=
  settled (.next ((s.elapse dt).streamRx path crcOk n (.digestMark digest final)))

/-- A HEALTH message (R434). -/
def execHealthRx (dt : Nat) (path crcOk : Bool) (w : Word) (s : State) : Res :=
  settled (.next ((s.elapse dt).healthRx path crcOk w))

/-- What landed writes replaced is remembered for one second of run time (assumption 103). -/
def State.forgetPast (s : State) : State := { s with past := s.past.filter fun e => s.since e.at_ < 2 ^ 36 }

/-- CLK_ROOT cycles of a management tick: 2^20 CLK_DP cycles of two (R123). -/
def tickCycles : Nat := 2 ^ 21

/-- A management tick passes once its cycles have (R15, R123). -/
def execManagementTick (dt : Nat) (env : TickEnv) (s : State) : Res :=
  let s := s.elapse dt
  if !s.clocked ∨ s.time.tickAt < tickCycles then .next s
  else
    let s := { s with onceTick := [], time := { s.time with ticks := s.time.ticks + 1, tickAt := s.time.tickAt - tickCycles
                                                            sinceServo := s.time.sinceServo + 1, refPresent := env.refPresent } }
    let s := s.tickFunctions.reseed.flipBanks
    let s := if s.dictRuns then (s.bump 0x0200 0x0D env.canErrs).landDue else s
    let s := (if s.isOn domKeys then s.keyUpsets env.upsets else s).settleFaults
    let s := s.forgetPast.settleStep.sendHealth env.canFree
    .next (if s.streamRuns then s.streamSend (.digestMark s.streamDigest false) else s)

end Sys2Proof.Machine
end

