-- ==== Sys2Proof/Machine/Requests.lean ====
section
/-!
DEFINITION. Requests of a master at the dictionary engine: every write, strobe and read that the table lists by name. A
named write is a write of its objects in order, each landing behind every write accepted before it (R15, R61); the general
write only enters the queue of landings.
-/
namespace Sys2Proof.Machine

/-- The transport a master uses. -/
def Master.transport : Master → Transport
  | .window => .window | .can => .can | .inband => .inband

namespace State

/-- Writes of several objects, in order. -/
def requestAll (s : State) (via : Master) (cuts : List (Nat × CutFrame)) (ws : List (Nat × Nat × Word)) : State :=
  ws.foldl (fun s w => s.requestLand via.transport cuts w.1 w.2.1 w.2.2) s

/-- `dt` cycles pass and a master writes. -/
def masterWrite (s : State) (dt : Nat) (via : Master) (idx sub : Nat) (v : Word) : Res :=
  settled (.next ((s.elapse dt).requestLand via.transport [] idx sub v))

/-- `dt` cycles pass and a master reads. -/
def masterRead (s : State) (dt : Nat) (via : Master) (idx sub : Nat) : Res :=
  settled (.next ((s.elapse dt).fetch via.transport idx sub))

/-- A RESET of one kind: RESET_KIND, RESET_TARGET where the kind has one, and the strobe (R536, R551). -/
def masterReset (s : State) (dt : Nat) (via : Master) (cuts : List (Nat × CutFrame)) (kind : Nat) (target : Option Nat) : Res :=
  let ws := match target with | some t => [(0x0300, 3, Word.ofNat t)] | none => []
  settled (.next ((s.elapse dt).requestAll via cuts ([(0x0300, 2, Word.ofNat kind)] ++ ws ++ [(0x0300, 4, 1)])))

/-- The oldest accepted write that can land lands (R557). -/
def landOldest (s : State) (cuts : List (Nat × CutFrame)) : State :=
  if s.dictRuns then (s.landNext cuts mayLand).getD s else s

/-- A misaligned window access: an error response, counted, nothing else (R37). -/
def misaligned (s : State) : State := if s.dictRuns then (s.bump 0x0200 0x0F).emit .windowError else s

end State

/-! ### The engine itself -/

/-- A write enters the engine: accepted, and forwarded where mirrored, or refused (R57–R63, R91). -/
def execDictWrite (dt : Nat) (via : Master) (idx sub : Nat) (v : Word) (s : State) : Res :=
  settled (.next ((s.elapse dt).request via.transport idx sub v))

/-- An accepted write lands or is refused (R557). -/
def execWriteLanding (dt : Nat) (cuts : List (Nat × CutFrame)) (s : State) : Res := settled (.next ((s.elapse dt).landOldest cuts))

/-- A window access that is not an aligned 8-byte access (R37). -/
def execWindowAccessError (dt : Nat) (s : State) : Res := .next (s.elapse dt).misaligned

/-- A read of slot s of a TIME84 object (R57). -/
def execTime84ReadLatch (dt : Nat) (via : Master) (idx sub : Nat) (s : State) : Res := s.masterRead dt via idx sub

/-- A read of TIME_SNAP (R105). -/
def execTimeSnap (dt : Nat) (s : State) : Res := s.masterRead dt .window 0x0400 0x18

/-- The next 8 bytes of an RO stream of index 0x0600 (R73). -/
def execDomainStreamRead (dt : Nat) (via : Master) (sub : Nat) (s : State) : Res := s.masterRead dt via 0x0600 sub

/-! ### Table windows -/

/-- ROW is written (R69). -/
def execRowSelect (dt : Nat) (via : Master) (c t row : Nat) (s : State) : Res := s.masterWrite dt via (winIdx c t) 1 (Word.ofNat row)

/-- COMMIT is written (R70). -/
def execCommit (dt : Nat) (via : Master) (c t : Nat) (s : State) : Res := s.masterWrite dt via (winIdx c t) 0x10 1

/-- Slots of a row image are written to DATA (R71). -/
def execDataRow (dt : Nat) (via : Master) (c t : Nat) (image : List Word) (s : State) : Res :=
  settled (.next ((s.elapse dt).requestAll via [] (image.map fun v => (winIdx c t, 0x14, v))))

/-- The Doorlist row at ROW is staged with an operation and committed (R243, R244, R246). -/
def execDoorInsert (dt : Nat) (via : Master) (c : Nat) (mac ctrl : Word) (s : State) : Res :=
  let w := winIdx c 5
  settled (.next ((s.elapse dt).requestAll via [] [(w, 2, mac), (w, 3, ctrl.setBits 62 2 0), (w, 0x10, 1)]))

/-- A DELETE is staged and committed (R244). -/
def execDoorDelete (dt : Nat) (via : Master) (c : Nat) (mac ctrl : Word) (s : State) : Res :=
  let w := winIdx c 5
  settled (.next ((s.elapse dt).requestAll via [] [(w, 2, mac), (w, 3, ctrl.setBits 62 2 1), (w, 0x10, 1)]))

/-- A key slot is loaded: ROW, KEY_CTRL with LOAD, KEY_DATA0–6 and COMMIT (R211, R212, R214). -/
def execKeyLoad (dt : Nat) (via : Master) (c row suite : Nat) (wrapped : Bool) (data : List Word) (s : State) : Res :=
  let w := winIdx c 6
  settled (.next ((s.elapse dt).requestAll via [] ([(w, 1, Word.ofNat row), (w, 2, Word.ofNat (suite % 4 + 16 * b2n wrapped))]
    ++ ((data.take 7).zipIdx.map fun e => (w, 3 + e.2, e.1)) ++ [(w, 0x10, 1)])))

/-- A key slot is erased (R215). -/
def execKeyErase (dt : Nat) (via : Master) (c row : Nat) (s : State) : Res :=
  let w := winIdx c 6
  settled (.next ((s.elapse dt).requestAll via [] [(w, 1, Word.ofNat row), (w, 2, 0x100), (w, 0x10, 1)]))

/-- SETTLE on the selected meter row (R281). -/
def execSettle (dt : Nat) (via : Master) (c : Nat) (s : State) : Res := s.masterWrite dt via (winIdx c 3) 8 1

/-- RETURN on the selected row of table 0, 1 or 2 (R315). -/
def execReturn (dt : Nat) (via : Master) (c t : Nat) (s : State) : Res :=
  s.masterWrite dt via (winIdx c t) (if t = 2 then 8 else 9) 1

/-! ### Keys and identity -/

/-- CKEY_COMMIT (R219). -/
def execCkeyCommit (dt : Nat) (via : Master) (s : State) : Res := s.masterWrite dt via 0x0600 0x19 1

/-- ERASE_ALL (R222). -/
def execEraseAll (dt : Nat) (via : Master) (s : State) : Res := s.masterWrite dt via 0x0600 8 1

/-- TAMPER_CLR (R221). -/
def execTamperClr (dt : Nat) (via : Master) (v : Word) (s : State) : Res := s.masterWrite dt via 0x0600 3 v

/-- KEY_ALARM_CLR (R221). -/
def execKeyAlarmClr (dt : Nat) (via : Master) (v : Word) (s : State) : Res := s.masterWrite dt via 0x0600 0x0A v

/-- TRNG_RESTART (R229). -/
def execTrngRestart (dt : Nat) (via : Master) (s : State) : Res := s.masterWrite dt via 0x0600 0x21 1

/-- One 8-byte write to ATTEST_NONCE (R231). -/
def execAttestNonce (dt : Nat) (via : Master) (v : Word) (s : State) : Res := s.masterWrite dt via 0x0600 0x34 v

/-- ADOPT (R233). -/
def execAdopt (dt : Nat) (via : Master) (s : State) : Res := s.masterWrite dt via 0x0600 0x39 1

/-! ### Events -/

/-- PENDING_SET of a bank (R511). -/
def execPendingSet (dt : Nat) (via : Master) (b : Nat) (v : Word) (s : State) : Res := s.masterWrite dt via (0x4000 + b) 2 v

/-- PENDING_CLR of a bank (R510). -/
def execPendingClr (dt : Nat) (via : Master) (b : Nat) (v : Word) (s : State) : Res := s.masterWrite dt via (0x4000 + b) 3 v

/-- MASK_SET of a bank (R511). -/
def execMaskSet (dt : Nat) (via : Master) (b : Nat) (v : Word) (s : State) : Res := s.masterWrite dt via (0x4000 + b) 5 v

/-- MASK_CLR of a bank (R511). -/
def execMaskClr (dt : Nat) (via : Master) (b : Nat) (v : Word) (s : State) : Res := s.masterWrite dt via (0x4000 + b) 6 v

/-- ENTER of a target (R526). -/
def execEnter (dt : Nat) (via : Master) (t : Nat) (v : Word) (s : State) : Res := s.masterWrite dt via (0x6000 + 0x80 * t) 5 v

/-- EXIT of a target (R526). -/
def execExit (dt : Nat) (via : Master) (t : Nat) (v : Word) (s : State) : Res := s.masterWrite dt via (0x6000 + 0x80 * t) 6 v

/-- A read of CLAIM (R527). -/
def execClaim (dt : Nat) (via : Master) (t : Nat) (s : State) : Res := s.masterRead dt via (0x6000 + 0x80 * t) 8

/-- DONE of a target (R528). -/
def execDone (dt : Nat) (via : Master) (t : Nat) (v : Word) (s : State) : Res := s.masterWrite dt via (0x6000 + 0x80 * t) 9 v

/-- REC_HEAD of a band ring (R523). -/
def execRecHeadWrite (dt : Nat) (via : Master) (t b : Nat) (v : Word) (s : State) : Res := s.masterWrite dt via (State.bIdx t b) 6 v

/-- REC_COAL of a band ring (R524). -/
def execRecCoalWrite (dt : Nat) (via : Master) (t b : Nat) (v : Word) (s : State) : Res := s.masterWrite dt via (State.bIdx t b) 7 v

/-- REC_ENABLE of a band ring (R515). -/
def execRecEnable (dt : Nat) (via : Master) (t b : Nat) (v : Word) (s : State) : Res := s.masterWrite dt via (State.bIdx t b) 1 v

/-- A read of REC_BUS_CAPTURE (R530). -/
def execRecBusCaptureRead (dt : Nat) (via : Master) (s : State) : Res := s.masterRead dt via 0x0700 2

/-- LATCH_FIRED_CLR (R530). -/
def execLatchFiredClr (dt : Nat) (via : Master) (v : Word) (s : State) : Res := s.masterWrite dt via 0x0700 0x12 v

/-! ### Host DMA -/

/-- RING_ENABLE (R483). -/
def execRingEnable (dt : Nat) (via : Master) (r : Nat) (v : Word) (s : State) : Res := s.masterWrite dt via (0x0800 + r) 1 v

/-- TAIL (R488). -/
def execTailDoorbell (dt : Nat) (via : Master) (r : Nat) (v : Word) (s : State) : Res := s.masterWrite dt via (0x0800 + r) 0x0C v

/-- RING_CAUSE_CLR (R482). -/
def execRingCauseClr (dt : Nat) (via : Master) (r : Nat) (v : Word) (s : State) : Res := s.masterWrite dt via (0x0800 + r) 0x0F v

/-- A read of BUS_ERR_INFO (R504). -/
def execBusErrInfoRead (dt : Nat) (via : Master) (q : Nat) (s : State) : Res := s.masterRead dt via (0x0900 + q) 3

/-! ### Power, clusters and resets -/

/-- DOMAIN_n (R537). -/
def execDomainRequest (dt : Nat) (via : Master) (n : Nat) (v : Word) (s : State) : Res := s.masterWrite dt via 0x0300 (0x40 + n) v

/-- SLEEP (R550). -/
def execSleep (dt : Nat) (via : Master) (s : State) : Res := s.masterWrite dt via 0x0300 7 1

/-- CLUSTER_ENABLE (R542). -/
def execClusterEnable (dt : Nat) (via : Master) (c : Nat) (v : Word) (s : State) : Res := s.masterWrite dt via (clIdx c 0) 1 v

/-- CLUSTER_MODE LISTEN (R545). -/
def execClusterModeListen (dt : Nat) (via : Master) (c : Nat) (s : State) : Res := s.masterWrite dt via (clIdx c 0) 3 1

/-- CLUSTER_MODE FULL (R546). -/
def execClusterModeFull (dt : Nat) (via : Master) (c : Nat) (s : State) : Res := s.masterWrite dt via (clIdx c 0) 3 0

/-- RESET with COLD (R552). -/
def execResetCold (dt : Nat) (via : Master) (cuts : List (Nat × CutFrame)) (s : State) : Res := s.masterReset dt via cuts 0 none

/-- RESET with WARM (R551). -/
def execResetWarm (dt : Nat) (via : Master) (cuts : List (Nat × CutFrame)) (s : State) : Res := s.masterReset dt via cuts 1 none

/-- RESET with CLUSTER (R551). -/
def execResetCluster (dt : Nat) (via : Master) (c : Nat) (cuts : List (Nat × CutFrame)) (s : State) : Res :=
  s.masterReset dt via cuts 2 (some c)

/-- RESET with PORT (R551). -/
def execResetPort (dt : Nat) (via : Master) (p : Nat) (cuts : List (Nat × CutFrame)) (s : State) : Res :=
  s.masterReset dt via cuts 3 (some p)

/-- RESET with RESTORE_DEFAULTS (R551). -/
def execResetRestoreDefaults (dt : Nat) (via : Master) (cuts : List (Nat × CutFrame)) (s : State) : Res :=
  s.masterReset dt via cuts 4 none

/-! ### Time -/

/-- SET_TIME, both slots (R57, R110). -/
def execSetTime (dt : Nat) (via : Master) (low high : Word) (s : State) : Res :=
  settled (.next ((s.elapse dt).requestAll via [] [(0x0400, 3, low), (0x0400, 4, high)]))

/-- STEP (R110). -/
def execStep (dt : Nat) (via : Master) (v : Word) (s : State) : Res := s.masterWrite dt via 0x0400 5 v

/-- FREQ_WORD (R117). -/
def execFreqWordWrite (dt : Nat) (via : Master) (v : Word) (s : State) : Res := s.masterWrite dt via 0x0400 6 v

/-! ### Twin operation -/

/-- DEMOTE (R429). -/
def execDemote (dt : Nat) (via : Master) (s : State) : Res := s.masterWrite dt via 0x0500 0x0E 1

/-- REINSTATE (R429). -/
def execReinstate (dt : Nat) (via : Master) (s : State) : Res := s.masterWrite dt via 0x0500 0x0F 1

/-- RESYNC (R442). -/
def execResync (dt : Nat) (via : Master) (s : State) : Res := s.masterWrite dt via 0x0500 0x14 1

/-- HINGE_ENABLE (R436). -/
def execHingeEnable (dt : Nat) (via : Master) (v : Word) (s : State) : Res := s.masterWrite dt via 0x0500 3 v

/-- A read of MISMATCH_CAPTURE (R436). -/
def execMismatchCaptureRead (dt : Nat) (via : Master) (s : State) : Res := s.masterRead dt via 0x0500 0x20

/-- A read of STEST_CAPTURE (R436). -/
def execStestCaptureRead (dt : Nat) (via : Master) (s : State) : Res := s.masterRead dt via 0x0500 0x33

/-! ### Counters -/

/-- SNAP (R469). -/
def execSnap (dt : Nat) (via : Master) (s : State) : Res := s.masterWrite dt via 0x0B00 2 1

/-- SNAP_RELEASE (R469). -/
def execSnapRelease (dt : Nat) (via : Master) (s : State) : Res := s.masterWrite dt via 0x0B00 7 1

/-- A read of HALF_NEXT of a cluster, or of the common one (16) (R465). -/
def execHalfNextRead (dt : Nat) (via : Master) (g : Nat) (s : State) : Res :=
  if g = 16 then s.masterRead dt via 0x0B00 8 else s.masterRead dt via (clIdx g 9) 1

/-! ### Ports -/

/-- PORT_ENABLE (R126). -/
def execPortEnable (dt : Nat) (via : Master) (p : Nat) (v : Word) (s : State) : Res := s.masterWrite dt via (0x1000 + p) 1 v

/-- RX_CAUSE_CLR (R128). -/
def execRxCauseClr (dt : Nat) (via : Master) (p : Nat) (v : Word) (s : State) : Res := s.masterWrite dt via (0x1000 + p) 0x18 v

/-- TX_SILL_SET (R369). -/
def execTxSillSet (dt : Nat) (via : Master) (p : Nat) (v : Word) (s : State) : Res := s.masterWrite dt via (0x1000 + p) 0x22 v

/-- TX_CAUSE_CLR (R357). -/
def execTxCauseClr (dt : Nat) (via : Master) (p : Nat) (v : Word) (s : State) : Res := s.masterWrite dt via (0x1000 + p) 0x26 v

/-- SHUTTER_CAUSE_CLR (R329). -/
def execShutterCauseClr (dt : Nat) (via : Master) (p : Nat) (v : Word) (s : State) : Res := s.masterWrite dt via (0x1400 + p) 0x1D v

/-- GATE_ENABLE (R334). -/
def execGateEnable (dt : Nat) (via : Master) (p : Nat) (v : Word) (s : State) : Res := s.masterWrite dt via (0x1400 + p) 1 v

/-- CONFIG_CHANGE (R336). -/
def execConfigChange (dt : Nat) (via : Master) (p : Nat) (s : State) : Res := s.masterWrite dt via (0x1400 + p) 0x0A 1

/-! ### Clusters -/

/-- FLUSH (R260). -/
def execFlush (dt : Nat) (via : Master) (c : Nat) (s : State) : Res := s.masterWrite dt via (clIdx c 3) 0x0E 1

/-- A read of PARITY_CAPTURE (R261). -/
def execParityCaptureRead (dt : Nat) (via : Master) (c : Nat) (s : State) : Res := s.masterRead dt via (clIdx c 3) 0x0B

/-- A read of PN_ALERT (R201). -/
def execPnAlertRead (dt : Nat) (via : Master) (c : Nat) (s : State) : Res := s.masterRead dt via (clIdx c 2) 1

/-- A read of HOLD_PEAK (R205). -/
def execHoldPeakRead (dt : Nat) (via : Master) (c : Nat) (s : State) : Res := s.masterRead dt via (clIdx c 2) 4

/-- A read of METER_ECC_CAPTURE (R285). -/
def execMeterEccCaptureRead (dt : Nat) (via : Master) (c : Nat) (s : State) : Res := s.masterRead dt via (clIdx c 4) 2

/-- A read of SCHED_ECC_CAPTURE (R318). -/
def execSchedEccCaptureRead (dt : Nat) (via : Master) (c : Nat) (s : State) : Res := s.masterRead dt via (clIdx c 5) 7

/-- A read of LATHE_MAX_LATE (R318). -/
def execLatheMaxLateRead (dt : Nat) (via : Master) (c : Nat) (s : State) : Res := s.masterRead dt via (clIdx c 5) 5

/-- A read of TX_TS_META (R388). -/
def execTxTsMetaRead (dt : Nat) (via : Master) (c : Nat) (s : State) : Res := s.masterRead dt via (clIdx c 7) 1

/-- A read of SHUTTER_ECC_CAPTURE (R352). -/
def execShutterEccCaptureRead (dt : Nat) (via : Master) (c : Nat) (s : State) : Res := s.masterRead dt via (clIdx c 6) 2

/-- A read of DIGEST_CYCLE (R423). -/
def execDigestCycleRead (dt : Nat) (via : Master) (s : State) : Res := s.masterRead dt via 0x0A00 0x11

/-- A read of CAL_CAPTURE (R424). -/
def execCalCaptureRead (dt : Nat) (via : Master) (c : Nat) (s : State) : Res := s.masterRead dt via (clIdx c 8) 1

/-- A read of CAL_ECC_CAPTURE (R424). -/
def execCalEccCaptureRead (dt : Nat) (via : Master) (c : Nat) (s : State) : Res := s.masterRead dt via (clIdx c 8) 4

end Sys2Proof.Machine
end

