-- ==== Sys2Proof/Machine/Dispatch.lean ====
section
/-!
DEFINITION. The dispatcher: each command's meaning.
-/
namespace Sys2Proof.Machine

/-- The effect of one command on everything but the queue. -/
def exec (i : Instr) (s : State) : Host.Outcome State Fault Refusal :=
  match i with
  | .powerOnReset dt => Sys2Proof.Machine.execPowerOnReset dt s
  | .laneLockLoss dt lane cut => Sys2Proof.Machine.execLaneLockLoss dt lane cut s
  | .laneLock dt lane => Sys2Proof.Machine.execLaneLock dt lane s
  | .alignmentLock dt p => Sys2Proof.Machine.execAlignmentLock dt p s
  | .alignFail dt p => Sys2Proof.Machine.execAlignFail dt p s
  | .alignmentLoss dt p cut => Sys2Proof.Machine.execAlignmentLoss dt p cut s
  | .remoteFault dt p cut => Sys2Proof.Machine.execRemoteFault dt p cut s
  | .remoteFaultClear dt p => Sys2Proof.Machine.execRemoteFaultClear dt p s
  | .flushOnDown dt p => Sys2Proof.Machine.execFlushOnDown dt p s
  | .rxFrame dt p sfd bytes env => Sys2Proof.Machine.execRxFrame dt p sfd bytes env s
  | .ingressSkidSend dt c n ready => Sys2Proof.Machine.execIngressSkidSend dt c n ready s
  | .macControlFrame dt p bytes env => Sys2Proof.Machine.execMacControlFrame dt p bytes env s
  | .pauseFrame dt p bytes env => Sys2Proof.Machine.execPauseFrame dt p bytes env s
  | .pfcFrame dt p bytes env => Sys2Proof.Machine.execPfcFrame dt p bytes env s
  | .pauseTimerExpiry dt p k => Sys2Proof.Machine.execPauseTimerExpiry dt p k s
  | .preemptFragmentRx dt p sfd bytes env => Sys2Proof.Machine.execPreemptFragmentRx dt p sfd bytes env s
  | .reasmTimeout dt p => Sys2Proof.Machine.execReasmTimeout dt p s
  | .verifyFrameRx dt p body mcrc => Sys2Proof.Machine.execVerifyFrameRx dt p body mcrc s
  | .respondFrameRx dt p body mcrc => Sys2Proof.Machine.execRespondFrameRx dt p body mcrc s
  | .verifyTimeout dt p => Sys2Proof.Machine.execVerifyTimeout dt p s
  | .inbandRequest dt p bytes env => Sys2Proof.Machine.execInbandRequest dt p bytes env s
  | .bdpRead dt src => Sys2Proof.Machine.execBdpRead dt src s
  | .bdpWrite dt src => Sys2Proof.Machine.execBdpWrite dt src s
  | .bdpHello dt src => Sys2Proof.Machine.execBdpHello dt src s
  | .busOff dt => Sys2Proof.Machine.execBusOff dt s
  | .canWakeFrame dt id => Sys2Proof.Machine.execCanWakeFrame dt id s
  | .windowAccessError dt => Sys2Proof.Machine.execWindowAccessError dt s
  | .dictWrite dt via idx sub v => Sys2Proof.Machine.execDictWrite dt via idx sub v s
  | .writeLanding dt cuts => Sys2Proof.Machine.execWriteLanding dt cuts s
  | .time84ReadLatch dt via idx sub => Sys2Proof.Machine.execTime84ReadLatch dt via idx sub s
  | .timeSnap dt => Sys2Proof.Machine.execTimeSnap dt s
  | .rowSelect dt via c t row => Sys2Proof.Machine.execRowSelect dt via c t row s
  | .commit dt via c t => Sys2Proof.Machine.execCommit dt via c t s
  | .dataRow dt via c t image => Sys2Proof.Machine.execDataRow dt via c t image s
  | .doorInsert dt via c mac ctrl => Sys2Proof.Machine.execDoorInsert dt via c mac ctrl s
  | .doorDelete dt via c mac ctrl => Sys2Proof.Machine.execDoorDelete dt via c mac ctrl s
  | .learnInsert dt c => Sys2Proof.Machine.execLearnInsert dt c s
  | .stationMove dt c => Sys2Proof.Machine.execStationMove dt c s
  | .agePass dt c upsets => Sys2Proof.Machine.execAgePass dt c upsets s
  | .flush dt via c => Sys2Proof.Machine.execFlush dt via c s
  | .flushDone dt c => Sys2Proof.Machine.execFlushDone dt c s
  | .parityCaptureRead dt via c => Sys2Proof.Machine.execParityCaptureRead dt via c s
  | .keyLoad dt via c row suite wrapped data => Sys2Proof.Machine.execKeyLoad dt via c row suite wrapped data s
  | .keyBankFlip dt c r => Sys2Proof.Machine.execKeyBankFlip dt c r s
  | .keyErase dt via c row => Sys2Proof.Machine.execKeyErase dt via c row s
  | .ckeyCommit dt via => Sys2Proof.Machine.execCkeyCommit dt via s
  | .eraseAll dt via => Sys2Proof.Machine.execEraseAll dt via s
  | .tamper dt sensor => Sys2Proof.Machine.execTamper dt sensor s
  | .tamperClr dt via v => Sys2Proof.Machine.execTamperClr dt via v s
  | .keyAlarmClr dt via v => Sys2Proof.Machine.execKeyAlarmClr dt via v s
  | .trngRestart dt via => Sys2Proof.Machine.execTrngRestart dt via s
  | .trngStartupDone window => Sys2Proof.Machine.execTrngStartupDone window s
  | .trngTestFail dt test => Sys2Proof.Machine.execTrngTestFail dt test s
  | .attestNonce dt via v => Sys2Proof.Machine.execAttestNonce dt via v s
  | .attestReady dt => Sys2Proof.Machine.execAttestReady dt s
  | .adopt dt via => Sys2Proof.Machine.execAdopt dt via s
  | .pnAlertRead dt via c => Sys2Proof.Machine.execPnAlertRead dt via c s
  | .holdPeakRead dt via c => Sys2Proof.Machine.execHoldPeakRead dt via c s
  | .meterEccCaptureRead dt via c => Sys2Proof.Machine.execMeterEccCaptureRead dt via c s
  | .settle dt via c => Sys2Proof.Machine.execSettle dt via c s
  | .meterBackgroundRefill dt c row => Sys2Proof.Machine.execMeterBackgroundRefill dt c row s
  | .enqueueNotice dt c leaf len => Sys2Proof.Machine.execEnqueueNotice dt c leaf len s
  | .dequeueGrant dt c upsets => Sys2Proof.Machine.execDequeueGrant dt c upsets s
  | .latheFiring dt c k => Sys2Proof.Machine.execLatheFiring dt c k s
  | .latheCascade dt c slot => Sys2Proof.Machine.execLatheCascade dt c slot s
  | .shaperBackgroundRefill dt c k => Sys2Proof.Machine.execShaperBackgroundRefill dt c k s
  | .returnRow dt via c t => Sys2Proof.Machine.execReturn dt via c t s
  | .schedEccCaptureRead dt via c => Sys2Proof.Machine.execSchedEccCaptureRead dt via c s
  | .latheMaxLateRead dt via c => Sys2Proof.Machine.execLatheMaxLateRead dt via c s
  | .returnedSegment dt tag seg ecc upsets => Sys2Proof.Machine.execReturnedSegment dt tag seg ecc upsets s
  | .txFrameStart dt p => Sys2Proof.Machine.execTxFrameStart dt p s
  | .underrun dt p => Sys2Proof.Machine.execUnderrun dt p s
  | .txFrameDone dt wire => Sys2Proof.Machine.execTxFrameDone dt wire s
  | .preemption dt p gone => Sys2Proof.Machine.execPreemption dt p gone s
  | .continuationResume dt p => Sys2Proof.Machine.execContinuationResume dt p s
  | .fcXoffChange dt p xoff => Sys2Proof.Machine.execFcXoffChange dt p xoff s
  | .pauseRefresh dt p => Sys2Proof.Machine.execPauseRefresh dt p s
  | .txSillSet dt via p v => Sys2Proof.Machine.execTxSillSet dt via p v s
  | .txTsMetaRead dt via c => Sys2Proof.Machine.execTxTsMetaRead dt via c s
  | .rxCauseClr dt via p v => Sys2Proof.Machine.execRxCauseClr dt via p v s
  | .txCauseClr dt via p v => Sys2Proof.Machine.execTxCauseClr dt via p v s
  | .shutterCauseClr dt via p v => Sys2Proof.Machine.execShutterCauseClr dt via p v s
  | .portEnable dt via p v => Sys2Proof.Machine.execPortEnable dt via p v s
  | .returnLostTimeout dt p => Sys2Proof.Machine.execReturnLostTimeout dt p s
  | .portCloseDone dt p => Sys2Proof.Machine.execPortCloseDone dt p s
  | .gateEnable dt via p v => Sys2Proof.Machine.execGateEnable dt via p v s
  | .configChange dt via p => Sys2Proof.Machine.execConfigChange dt via p s
  | .swapLatch dt p upset => Sys2Proof.Machine.execSwapLatch dt p upset s
  | .shutterSwap dt p => Sys2Proof.Machine.execShutterSwap dt p s
  | .shutterEntryChange dt p upset => Sys2Proof.Machine.execShutterEntryChange dt p upset s
  | .shutterCloseDone dt p => Sys2Proof.Machine.execShutterCloseDone dt p s
  | .shutterEccCaptureRead dt via c => Sys2Proof.Machine.execShutterEccCaptureRead dt via c s
  | .digestClose dt p => Sys2Proof.Machine.execDigestClose dt p s
  | .digestCycleRead dt via => Sys2Proof.Machine.execDigestCycleRead dt via s
  | .calCaptureRead dt via c => Sys2Proof.Machine.execCalCaptureRead dt via c s
  | .calEccCaptureRead dt via c => Sys2Proof.Machine.execCalEccCaptureRead dt via c s
  | .setTime dt via low high => Sys2Proof.Machine.execSetTime dt via low high s
  | .stepTime dt via v => Sys2Proof.Machine.execStep dt via v s
  | .freqWordWrite dt via v => Sys2Proof.Machine.execFreqWordWrite dt via v s
  | .holdoverEntry dt => Sys2Proof.Machine.execHoldoverEntry dt s
  | .ppsInEdge dt => Sys2Proof.Machine.execPpsInEdge dt s
  | .ppsMissing dt => Sys2Proof.Machine.execPpsMissing dt s
  | .todMessage dt msg => Sys2Proof.Machine.execTodMessage dt msg s
  | .todAlign dt => Sys2Proof.Machine.execTodAlign dt s
  | .ppsOutEdge dt => Sys2Proof.Machine.execPpsOutEdge dt s
  | .shortFormWrap dt => Sys2Proof.Machine.execShortFormWrap dt s
  | .pllLock dt => Sys2Proof.Machine.execPllLock dt s
  | .pllLossOfLock dt => Sys2Proof.Machine.execPllLossOfLock dt s
  | .managementTick dt env => Sys2Proof.Machine.execManagementTick dt env s
  | .counterHalfPresent dt idx sub row => Sys2Proof.Machine.execCounterHalfPresent dt idx sub row s
  | .halfNextRead dt via g => Sys2Proof.Machine.execHalfNextRead dt via g s
  | .snap dt via => Sys2Proof.Machine.execSnap dt via s
  | .snapRelease dt via => Sys2Proof.Machine.execSnapRelease dt via s
  | .wdxAliveToggle dt => Sys2Proof.Machine.execWdxAliveToggle dt s
  | .peerAliveTimeout dt => Sys2Proof.Machine.execPeerAliveTimeout dt s
  | .peerAliveToggle dt => Sys2Proof.Machine.execPeerAliveToggle dt s
  | .selMineRise dt => Sys2Proof.Machine.execSelMineRise dt s
  | .selMineFall dt => Sys2Proof.Machine.execSelMineFall dt s
  | .pcsOutputSwitch dt p => Sys2Proof.Machine.execPcsOutputSwitch dt p s
  | .demote dt via => Sys2Proof.Machine.execDemote dt via s
  | .reinstate dt via => Sys2Proof.Machine.execReinstate dt via s
  | .helloTx dt path => Sys2Proof.Machine.execHelloTx dt path s
  | .helloRx dt path crcOk h => Sys2Proof.Machine.execHelloRx dt path crcOk h s
  | .helloAckRx dt path crcOk echo sig held => Sys2Proof.Machine.execHelloAckRx dt path crcOk echo sig held s
  | .heartbeatTx dt path => Sys2Proof.Machine.execHeartbeatTx dt path s
  | .heartbeatRx dt path crcOk sent peerSent arrived => Sys2Proof.Machine.execHeartbeatRx dt path crcOk sent peerSent arrived s
  | .heartbeatTimeout dt path => Sys2Proof.Machine.execHeartbeatTimeout dt path s
  | .healthRx dt path crcOk w => Sys2Proof.Machine.execHealthRx dt path crcOk w s
  | .mirrorRx dt path crcOk n op => Sys2Proof.Machine.execMirrorRx dt path crcOk n op s
  | .mirrorAckRx dt path crcOk seq => Sys2Proof.Machine.execMirrorAckRx dt path crcOk seq s
  | .latchMarkRx dt path crcOk n p tc => Sys2Proof.Machine.execLatchMarkRx dt path crcOk n p tc s
  | .digestMarkRx dt path crcOk n digest final => Sys2Proof.Machine.execDigestMarkRx dt path crcOk n digest final s
  | .resync dt via => Sys2Proof.Machine.execResync dt via s
  | .resyncComplete dt => Sys2Proof.Machine.execResyncComplete dt s
  | .resyncItemRx dt path crcOk n op => Sys2Proof.Machine.execResyncItemRx dt path crcOk n op s
  | .expressRecordRx dt path crcOk r => Sys2Proof.Machine.execExpressRecordRx dt path crcOk r s
  | .bulkIntervalEnd dt => Sys2Proof.Machine.execBulkIntervalEnd dt s
  | .bulkRecordRx dt path crcOk r => Sys2Proof.Machine.execBulkRecordRx dt path crcOk r s
  | .recordExpiry dt => Sys2Proof.Machine.execRecordExpiry dt s
  | .demotingRx dt path crcOk => Sys2Proof.Machine.execDemotingRx dt path crcOk s
  | .mismatchCaptureRead dt via => Sys2Proof.Machine.execMismatchCaptureRead dt via s
  | .stestBankTest dt unit bank ok last => Sys2Proof.Machine.execStestBankTest dt unit bank ok last s
  | .stestCaptureRead dt via => Sys2Proof.Machine.execStestCaptureRead dt via s
  | .pairedComparatorFire dt cluster unit => Sys2Proof.Machine.execPairedComparatorFire dt cluster unit s
  | .eventDelivery dt => Sys2Proof.Machine.execEventDelivery dt s
  | .recordWriteError dt t b => Sys2Proof.Machine.execRecordWriteError dt t b s
  | .coalTimeout dt t b => Sys2Proof.Machine.execCoalTimeout dt t b s
  | .pendingSet dt via b v => Sys2Proof.Machine.execPendingSet dt via b v s
  | .pendingClr dt via b v => Sys2Proof.Machine.execPendingClr dt via b v s
  | .maskSet dt via b v => Sys2Proof.Machine.execMaskSet dt via b v s
  | .maskClr dt via b v => Sys2Proof.Machine.execMaskClr dt via b v s
  | .enterBand dt via t v => Sys2Proof.Machine.execEnter dt via t v s
  | .exitBand dt via t v => Sys2Proof.Machine.execExit dt via t v s
  | .claim dt via t => Sys2Proof.Machine.execClaim dt via t s
  | .doneWrite dt via t v => Sys2Proof.Machine.execDone dt via t v s
  | .recHeadWrite dt via t b v => Sys2Proof.Machine.execRecHeadWrite dt via t b v s
  | .recCoalWrite dt via t b v => Sys2Proof.Machine.execRecCoalWrite dt via t b v s
  | .recEnable dt via t b v => Sys2Proof.Machine.execRecEnable dt via t b v s
  | .recBusCaptureRead dt via => Sys2Proof.Machine.execRecBusCaptureRead dt via s
  | .latchFiredClr dt via v => Sys2Proof.Machine.execLatchFiredClr dt via v s
  | .ringEnable dt via r v => Sys2Proof.Machine.execRingEnable dt via r v s
  | .ringCloseDone dt r => Sys2Proof.Machine.execRingCloseDone dt r s
  | .tailDoorbell dt via r v => Sys2Proof.Machine.execTailDoorbell dt via r v s
  | .ringCauseClr dt via r v => Sys2Proof.Machine.execRingCauseClr dt via r v s
  | .descFrameCore dt r => Sys2Proof.Machine.execDescFrameCore dt r s
  | .descFrameDirect dt r => Sys2Proof.Machine.execDescFrameDirect dt r s
  | .descMove dt work => Sys2Proof.Machine.execDescMove dt work s
  | .descFill dt work => Sys2Proof.Machine.execDescFill dt work s
  | .descCompare dt work => Sys2Proof.Machine.execDescCompare dt work s
  | .dmaRxDelivery dt r => Sys2Proof.Machine.execDmaRxDelivery dt r s
  | .busErrorResponse dt r site => Sys2Proof.Machine.execBusErrorResponse dt r site s
  | .busErrInfoRead dt via q => Sys2Proof.Machine.execBusErrInfoRead dt via q s
  | .domainRequest dt via n v => Sys2Proof.Machine.execDomainRequest dt via n v s
  | .powerAck dt n => Sys2Proof.Machine.execPowerAck dt n s
  | .powerAckTimeout dt n => Sys2Proof.Machine.execPowerAckTimeout dt n s
  | .clusterEnable dt via c v => Sys2Proof.Machine.execClusterEnable dt via c v s
  | .clusterCloseDone dt c => Sys2Proof.Machine.execClusterCloseDone dt c s
  | .clusterModeListen dt via c => Sys2Proof.Machine.execClusterModeListen dt via c s
  | .listenReached dt c => Sys2Proof.Machine.execListenReached dt c s
  | .clusterModeFull dt via c => Sys2Proof.Machine.execClusterModeFull dt via c s
  | .sleep dt via => Sys2Proof.Machine.execSleep dt via s
  | .resetCold dt via cuts => Sys2Proof.Machine.execResetCold dt via cuts s
  | .resetWarm dt via cuts => Sys2Proof.Machine.execResetWarm dt via cuts s
  | .resetCluster dt via c cuts => Sys2Proof.Machine.execResetCluster dt via c cuts s
  | .resetPort dt via p cuts => Sys2Proof.Machine.execResetPort dt via p cuts s
  | .resetRestoreDefaults dt via cuts => Sys2Proof.Machine.execResetRestoreDefaults dt via cuts s
  | .refusedPathHoldoffEnd dt path => Sys2Proof.Machine.execRefusedPathHoldoffEnd dt path s
  | .mirrorAckTx dt => Sys2Proof.Machine.execMirrorAckTx dt s
  | .hingeEnable dt via v => Sys2Proof.Machine.execHingeEnable dt via v s
  | .porNFall dt => Sys2Proof.Machine.execPorNFall dt s
  | .tamperInputHigh dt sensor => Sys2Proof.Machine.execTamperInputHigh dt sensor s
  | .ppsOutPulseEnd dt => Sys2Proof.Machine.execPpsOutPulseEnd dt s
  | .domainStreamRead dt via sub => Sys2Proof.Machine.execDomainStreamRead dt via sub s

end Sys2Proof.Machine
end

