-- ==== Sys2Proof/Safety.lean ====
section
/-!
DEFINITION. What counts as a sound state, the stores in their canonical forms, so that equal contents are equal data; the parts of
the state that statements say a command leaves; and what a statement means by a command that answers.
-/
namespace Sys2Proof.Machine
namespace State

/-- Host memory in its canonical form: addresses strictly rising, no byte listed that reads as an unlisted one. -/
def memWf (s : State) : Bool := SMap.wf 0 s.mem

/-- The registers in theirs: no value listed that is the object's default. -/
def regWf (s : State) : Bool := SMap.rising s.regs && s.regs.all fun e => e.2 != dfltOf e.1

/-- The rows of every table strictly rising by key. -/
def rowWf (s : State) : Bool := SMap.rising s.rows

/-- The counters in their canonical form: no zero listed. -/
def ctrWf (s : State) : Bool := SMap.wf 0 s.ctrs

/-- Every store in its canonical form. -/
abbrev Canonical (s : State) : Prop := s.memWf = true ∧ s.regWf = true ∧ s.rowWf = true ∧ s.ctrWf = true

end State

/-! ### Parts of the state -/

/-- The time core but for its running times and the count of the tick grid, which every cycle moves. -/
def TimeUnit.settings (t : TimeUnit) : TimeUnit := { t with acc := 0, run := 0, aoCount := 0, tickAt := 0 }

/-- The object is CLUSTER_MODE of a cluster, which a wake sets to FULL (R546). -/
def isMode (idx sub : Nat) : Prop := ∃ c, slotKey idx sub 0 = slotKey (clIdx c 0) 3 0

/-- The stored objects agree, CLUSTER_MODE apart. -/
def State.SameObjs (s t : State) : Prop := ∀ i u, ¬ isMode i u → s.reg i u = t.reg i u

/-- The parts of the state that an event, a counter and a power request of a wake do not reach. -/
inductive Part
  | objects | time | rows | past | dict | keys | masks | laneLock | portRx | clusterRx | clusterTx | portTx | shutters | rings | quarters | twin | mem
  deriving DecidableEq, Repr

/-- The part is the same in two states. -/
def Part.Same (s t : State) : Part → Prop
  | .objects => s.SameObjs t
  | .time => s.time.settings = t.time.settings
  | .rows => s.rows = t.rows
  | .past => s.past = t.past
  | .dict => s.dict = t.dict
  | .keys => s.keys = t.keys
  | .masks => s.masks = t.masks
  | .laneLock => s.laneLock = t.laneLock
  | .portRx => s.portRx = t.portRx
  | .clusterRx => s.clusterRx = t.clusterRx
  | .clusterTx => s.clusterTx = t.clusterTx
  | .portTx => s.portTx = t.portTx
  | .shutters => s.shutters = t.shutters
  | .rings => s.rings = t.rings
  | .quarters => s.quarters = t.quarters
  | .twin => s.twin = t.twin
  | .mem => s.mem = t.mem

/-- Every part but the locks of the lanes. -/
def Part.notLanes : List Part :=
  [.mem, .rows, .past, .dict, .keys, .masks, .portRx, .clusterRx, .clusterTx, .portTx, .shutters, .rings, .quarters, .twin, .time,
    .objects]

/-- The parts that the boundary between two frames of a port changes: the frames, what they complete, the messages to the twin, and a
write that waited for the boundary (R46, R129, R373). -/
def Part.swing : List Part :=
  [.mem, .past, .portRx, .clusterRx, .clusterTx, .portTx, .rings, .quarters, .twin, .objects]

/-- The parts that a command may change, by the units its rules name: a write or strobe of a master may land in any unit and is given
up to every part but the locks of the lanes. -/
def reaches : Instr → List Part
  | .bdpRead .. | .bdpWrite .. | .bdpHello .. | .dictWrite .. | .writeLanding .. | .rowSelect .. | .commit .. | .dataRow ..
  | .doorInsert .. | .doorDelete .. | .flush .. | .keyLoad .. | .keyErase .. | .ckeyCommit .. | .eraseAll .. | .tamperClr ..
  | .keyAlarmClr .. | .trngRestart .. | .attestNonce .. | .adopt .. | .settle .. | .returnRow .. | .txSillSet .. | .rxCauseClr ..
  | .txCauseClr .. | .shutterCauseClr .. | .portEnable .. | .gateEnable .. | .configChange .. | .setTime .. | .stepTime ..
  | .freqWordWrite .. | .pllLock .. | .managementTick .. | .snap .. | .snapRelease .. | .demote .. | .reinstate .. | .mirrorRx ..
  | .latchMarkRx .. | .digestMarkRx .. | .resync .. | .resyncComplete .. | .resyncItemRx .. | .pendingSet .. | .pendingClr ..
  | .maskSet .. | .maskClr .. | .enterBand .. | .exitBand .. | .doneWrite .. | .recHeadWrite .. | .recCoalWrite ..
  | .recEnable .. | .latchFiredClr .. | .ringEnable .. | .tailDoorbell .. | .ringCauseClr .. | .descMove .. | .descFill ..
  | .descCompare .. | .busErrorResponse .. | .domainRequest .. | .powerAck .. | .powerAckTimeout .. | .clusterEnable ..
  | .clusterModeListen .. | .clusterModeFull .. | .sleep .. | .resetCold .. | .resetWarm .. | .resetCluster .. | .resetPort ..
  | .resetRestoreDefaults .. | .hingeEnable .. => Part.notLanes
  | .time84ReadLatch .. | .timeSnap .. | .parityCaptureRead .. | .pnAlertRead .. | .holdPeakRead .. | .meterEccCaptureRead ..
  | .schedEccCaptureRead .. | .latheMaxLateRead .. | .txTsMetaRead .. | .shutterEccCaptureRead .. | .digestCycleRead ..
  | .calCaptureRead .. | .calEccCaptureRead .. | .halfNextRead .. | .mismatchCaptureRead .. | .stestCaptureRead .. | .claim ..
  | .recBusCaptureRead .. | .busErrInfoRead .. | .domainStreamRead .. => [.dict, .shutters] ++ Part.swing
  | .agePass .. | .underrun .. | .txFrameDone .. | .continuationResume .. | .swapLatch .. | .shutterEntryChange ..
  | .digestClose .. | .selMineFall .. | .healthRx .. | .expressRecordRx .. | .bulkIntervalEnd .. | .bulkRecordRx ..
  | .stestBankTest .. | .pairedComparatorFire .. => [.shutters] ++ Part.swing
  | .wdxAliveToggle .. | .peerAliveTimeout .. | .peerAliveToggle .. | .helloRx .. | .heartbeatTx .. | .heartbeatRx ..
  | .heartbeatTimeout .. | .mirrorAckRx .. | .recordExpiry .. | .demotingRx .. | .refusedPathHoldoffEnd .. | .mirrorAckTx .. => [.twin]
  | .alignmentLock .. | .remoteFaultClear .. | .verifyFrameRx .. | .verifyTimeout .. | .txFrameStart .. | .preemption ..
  | .fcXoffChange .. | .pauseRefresh .. | .returnLostTimeout .. | .portCloseDone .. => Part.swing
  | .alignmentLoss .. | .remoteFault .. | .rxFrame .. | .macControlFrame .. | .pauseFrame .. | .pfcFrame ..
  | .preemptFragmentRx .. | .reasmTimeout .. | .inbandRequest .. | .clusterCloseDone .. => [.rows, .dict, .keys, .masks, .shutters] ++
    Part.swing
  | .holdoverEntry .. | .ppsInEdge .. | .ppsMissing .. | .todMessage .. | .ppsOutEdge .. | .shortFormWrap .. | .ppsOutPulseEnd .. =>
    [.time]
  | .flushOnDown .. | .ingressSkidSend .. | .stationMove .. | .flushDone .. | .meterBackgroundRefill .. => [.clusterRx]
  | .busOff .. | .canWakeFrame .. | .windowAccessError .. | .counterHalfPresent .. => []
  | .trngStartupDone .. | .trngTestFail .. | .attestReady .. | .tamperInputHigh .. => [.keys]
  | .powerOnReset .. | .porNFall .. => [.rows, .past, .dict, .keys, .masks, .portRx, .clusterRx, .clusterTx, .portTx, .shutters, .rings,
    .quarters, .twin, .time, .objects]
  | .respondFrameRx .. | .pcsOutputSwitch .. => [.portTx]
  | .enqueueNotice .. | .latheFiring .. => [.clusterTx, .twin]
  | .dequeueGrant .. | .returnedSegment .. => [.rows, .masks, .shutters] ++ Part.swing
  | .latheCascade .. | .shaperBackgroundRefill .. => [.clusterTx]
  | .eventDelivery .. | .recordWriteError .. => [.mem, .objects]
  | .descFrameCore .. | .dmaRxDelivery .. => [.mem, .clusterRx, .rings, .quarters]
  | .laneLockLoss .. => [.rows, .dict, .keys, .masks, .laneLock, .shutters] ++ Part.swing
  | .laneLock .. => [.laneLock] ++ Part.swing
  | .alignFail .. => [.portRx]
  | .pauseTimerExpiry .. => [.portRx, .clusterTx]
  | .learnInsert .. => [.clusterRx, .twin]
  | .keyBankFlip .. => [.keys, .clusterTx]
  | .tamper .. => [.keys, .masks, .shutters] ++ Part.swing
  | .shutterSwap .. => [.shutters, .twin]
  | .shutterCloseDone .. => [.shutters, .twin, .objects]
  | .todAlign .. => [.portTx, .shutters, .twin, .time]
  | .pllLossOfLock .. => [.dict, .shutters, .time] ++ Part.swing
  | .selMineRise .. => [.rows, .shutters] ++ Part.swing
  | .helloTx .. => [.masks, .twin]
  | .helloAckRx .. => [.keys, .twin]
  | .coalTimeout .. => [.objects]
  | .ringCloseDone .. => [.rings]
  | .descFrameDirect .. => [.mem, .clusterTx, .portTx, .rings, .quarters]
  | .listenReached .. => [.clusterRx, .rings, .twin]

/-! ### Answers -/

/-- The outcome is a next state of which `p` holds. -/
def Answers (r : Res) (p : State → Prop) : Prop := ∃ t, r = .next t ∧ p t

/-- The outcome is the next state that arisen faults make (R226, R450) of a state of which `p` holds. -/
def AnswersSettled (r : Res) (p : State → Prop) : Prop := ∃ t, r = .next t.settleFaults ∧ p t

/-- The command is a read that is answered OK with the value `v`, and leaves a state of which `p` holds. -/
def Reads (r : Res) (v : Word) (p : State → Prop) : Prop := AnswersSettled r fun t => t.out = [.value rOK v] ∧ p t

/-- Target `t` may claim source `e` (R527): delivered to it, still active, and owned by none. -/
def State.mayClaim (s : State) (t e : Nat) : Bool := s.srcActive e && (s.src e).owner.isNone && (s.src e).got.contains t

/-- The dictionary engine takes requests, no accepted write is still on its way to its unit, and the mirror store is not full
(R439). -/
abbrev State.Ready (s : State) : Prop :=
  s.dictRuns = true ∧ s.dict.landing = [] ∧ (s.streamRuns = true → s.storedWrites < 65536)

/-! ### A port that receives, with nothing configured beside the MAC -/

/-- The port is OPEN with its link UP in an AWAKE cluster, decodes no FEC, takes system tags as they come (R142), filters no
groups, reassembles in STORE mode with no part of a frame passed on, has no FC_MODE or PFC_PRIO_TC write waiting for a frame start,
and no table of the complex lists a row. -/
abbrev State.RxPlain (s : State) (p : Nat) : Prop :=
  p < 1024 ∧ s.laneRuns (p / 64) = true ∧ (s.port p).link = .up ∧ (s.port p).st = .opened ∧ (s.clp (p / 64)).night = .awake ∧
  s.regN (0x1000 + p) 6 = 0 ∧ s.regB (0x1000 + p) 0xD = false ∧ s.regN (0x1000 + p) 0xC = 0 ∧ s.regN (0x1C00 + p) 5 = 0 ∧
  s.mustWait p = false ∧ (s.port p).fcLate = [] ∧ s.rows = []

/-- A frame of a legal size with a correct FCS (R134, R135). -/
abbrev State.GoodFrame (s : State) (p : Nat) (bytes : Bytes) : Prop :=
  64 ≤ bytes.length ∧ bytes.length ≤ s.regN (0x1000 + p) 7 ∧ State.fcsGood bytes = true

/-- A key image whose TAG of R84 the in-band request carries. -/
def inbandGood (k : KeyImg) (f : InbandFrame) : Bool := f.mac == inbandTag k.key f.sa f.seq f.pdu && f.mac.length == 8

end Sys2Proof.Machine
end

