-- ==== Sys2Proof/Certificates/Slice0/Obligations.lean ====
section
/-!
DEFINITION. The statements for the provers.
-/
open Sys2Proof Sys2Proof.Machine

/-! ### The queue and the whole machine -/

/-- A step takes the command at the front of the queue and runs it on the state with the queue's rest. -/
def Obligations.StepRunsFront : Prop :=
  ∀ (s : State) (c : Instr) (rest : List Instr), s.pending = c :: rest → step s = exec c { s with pending := rest }

/-- With no command waiting the block idles (the model's choice, assumption 1). -/
def Obligations.StepIdlesOnEmpty : Prop := ∀ s : State, s.pending = [] → step s = .next s

/-- Every store keeps its canonical form in every step, from every state that has it. -/
def Obligations.StepKeepsCanonical : Prop := ∀ s t : State, s.Canonical → step s = .next t → t.Canonical

/-- State.reset has every store in its canonical form. -/
def Obligations.ResetCanonical : Prop := State.reset.Canonical

/-- A command leaves the queue as it is. -/
def Obligations.ExecKeepsQueue : Prop := ∀ (c : Instr) (s t : State), exec c s = .next t → t.pending = s.pending

/-! ### The link (R128, R131) -/

/-- The changes of LINK_STATE, the causes they set, and what the transmit side shows on the lanes; LINK_STATE of a CLOSING port
stays (R130). -/
def Obligations.LinkStates : Prop :=
  (∀ dt lane cut s p, lane < 1024 → s.portOfLane lane = some p → (s.port p).st ≠ .closing →
    AnswersSettled (exec (.laneLockLoss dt lane cut) s) fun t => (t.port p).link = .down ∧ SMap.get false t.laneLock lane = false) ∧
  (∀ dt lane cut s p, lane < 1024 → s.portOfLane lane = some p → (s.port p).st = .closing →
    Answers (exec (.laneLockLoss dt lane cut) s) fun t => t.portRx = s.portRx ∧ SMap.get false t.laneLock lane = false) ∧
  (∀ dt lane cut s, lane < 1024 → s.portOfLane lane = none →
    Answers (exec (.laneLockLoss dt lane cut) s) fun t => SMap.get false t.laneLock lane = false ∧ t.portRx = s.portRx) ∧
  (∀ dt lane s p, lane < 1024 → s.portOfLane lane = some p → (s.port p).st ≠ .closing → (s.port p).link = .down →
    s.laneRuns (p / 64) = true → (∀ l ∈ s.portLanes p, l ≠ lane → SMap.get false s.laneLock l = true) →
    Answers (exec (.laneLock dt lane) s) fun t => (t.port p).link = .aligning ∧ SMap.get false t.laneLock lane = true) ∧
  (∀ dt p s, (s.port p).link = .aligning → (s.port p).st ≠ .closing → s.laneRuns (p / 64) = true →
    Answers (exec (.alignmentLock dt p) s) fun t => (t.port p).link = .up ∧ (t.port p).cause.bit 0 = true ∧
      ((s.port p).st ≠ .closed → (t.portTxOf p).signal = .idle)) ∧
  (∀ dt p s, (s.port p).link = .aligning → (s.port p).alignFailed = false → 2 ^ 26 ≤ (s.elapse dt).since (s.port p).alignAt →
    Answers (exec (.alignFail dt p) s) fun t => (t.port p).link = .aligning ∧ (t.port p).cause.bit 2 = true) ∧
  (∀ dt p cut s, (s.port p).link = .up ∨ (s.port p).link = .remoteFault → (s.port p).st ≠ .closing →
    AnswersSettled (exec (.alignmentLoss dt p cut) s) fun t => (t.port p).link = .aligning ∧ (t.port p).cause.bit 1 = true ∧
      (cut = none → (s.port p).st = .opened → (s.portTxOf p).ownPcs = true → (t.portTxOf p).signal = .remoteFault)) ∧
  (∀ dt p cut s, (s.port p).link = .up → (s.port p).st ≠ .closing →
    AnswersSettled (exec (.remoteFault dt p cut) s) fun t => (t.port p).link = .remoteFault ∧ (t.port p).cause.bit 3 = true ∧
      (cut = none → (s.port p).st ≠ .closed → (t.portTxOf p).signal = .idle)) ∧
  (∀ dt p s, (s.port p).link = .remoteFault → (s.port p).st ≠ .closing →
    Answers (exec (.remoteFaultClear dt p) s) fun t => (t.port p).link = .up ∧ (t.port p).cause.bit 0 = true) ∧
  (∀ dt p cut s, (s.port p).st = .closing →
    Answers (exec (.alignmentLoss dt p cut) s) (fun t => t.portRx = s.portRx) ∧
    Answers (exec (.remoteFault dt p cut) s) (fun t => t.portRx = s.portRx) ∧
    Answers (exec (.alignmentLock dt p) s) (fun t => t.portRx = s.portRx) ∧
    Answers (exec (.remoteFaultClear dt p) s) (fun t => t.portRx = s.portRx))

/-! ### Receiving (R27, R85, R134–R161) -/

/-- A good data frame reaches the ingress skid whole, and is counted (R28, R134, R168, R169). -/
def Obligations.RxFrameReachesSkid : Prop :=
  ∀ dt p bytes s, s.RxPlain p → s.GoodFrame p bytes → beAt bytes 12 2 ≠ 0x8808 → s.regB (0x1000 + p) 0x40 = false →
    s.regN (0x1000 + p) 0x58 = 0 → s.regN (0x1000 + p) 0x50 ≤ 1 → (s.clRx (p / 64)).door.rows = [] → s.regN 0x0200 5 ≠ p →
    isGroup (saOf bytes) = false → saOf bytes ≠ 0 → s.skidNeed p ≤ s.skidFree (p / 64) →
    AnswersSettled (exec (.rxFrame dt p 0xD5 bytes {}) s) fun t =>
      (∃ f, (t.clRx (p / 64)).skid = (s.clRx (p / 64)).skid ++ [f] ∧ f.bytes = bytes ∧ f.port = p ∧ f.fin = .good ∧ f.reason = 0) ∧
      t.ctr (0x1800 + p) Pc.rxFramesOk = s.ctr (0x1800 + p) Pc.rxFramesOk + 1

/-- MAC control frames: PAUSE and PFC load their timers, a quanta of 0 ends them, others are counted and discarded; none goes
on to the switch core (R151–R154). -/
def Obligations.MacControl : Prop :=
  (∀ dt p bytes s, s.RxPlain p → s.GoodFrame p bytes → beAt bytes 12 2 = 0x8808 → s.regN (0x1C00 + p) 1 = 0 →
    AnswersSettled (exec (.macControlFrame dt p bytes {}) s) fun t =>
      t.ctr (0x1800 + p) Pc.rxMacCtrlDrop = s.ctr (0x1800 + p) Pc.rxMacCtrlDrop + 1 ∧ t.clusterRx = s.clusterRx ∧
      t.portRx = s.portRx) ∧
  (∀ dt p bytes s, s.RxPlain p → s.GoodFrame p bytes → beAt bytes 12 4 = 0x88080001 → s.regN (0x1C00 + p) 1 = 1 →
    daOf bytes = 0x0180C2000001 ∨ bytes.take 6 = s.stationAddr p →
    AnswersSettled (exec (.pauseFrame dt p bytes {}) s) fun t =>
      SMap.get none (t.port p).timers 8 = (if beAt bytes 16 2 = 0 then none else some ((s.elapse dt).timerEnd p (beAt bytes 16 2))) ∧
      t.clusterRx = s.clusterRx) ∧
  (∀ dt p bytes s, s.RxPlain p → s.GoodFrame p bytes → beAt bytes 12 4 = 0x88080101 → s.regN (0x1C00 + p) 1 = 2 →
    daOf bytes = 0x0180C2000001 ∨ bytes.take 6 = s.stationAddr p →
    AnswersSettled (exec (.pfcFrame dt p bytes {}) s) fun t =>
      (∀ n, n < 8 → SMap.get none (t.port p).timers n =
        if (beAt bytes 17 1).testBit n then
          (if beAt bytes (18 + 2 * n) 2 = 0 then none else some ((s.elapse dt).timerEnd p (beAt bytes (18 + 2 * n) 2)))
        else SMap.get none (s.port p).timers n) ∧
      t.clusterRx = s.clusterRx) ∧
  (∀ dt p k e s, SMap.get none (s.port p).timers k = some e → (s.elapse dt).before e = false →
    Answers (exec (.pauseTimerExpiry dt p k) s) fun t => SMap.get none (t.port p).timers k = none)

/-- Fragments: a start fragment whose mCRC is good opens a frame, a continuation of it adds to it, and a frame that waits too
long is given up (R156–R158). -/
def Obligations.Reassembly : Prop :=
  (∀ dt p n data s, s.RxPlain p → n < 4 → s.regB (0x1C00 + p) 4 = true → (s.port p).reasm = none → 60 ≤ data.length →
    AnswersSettled (exec (.preemptFragmentRx dt p (smdS n) (data ++ mcrcOf data) {}) s) fun t =>
      ∃ r, (t.port p).reasm = some r ∧ r.num = n ∧ r.data = data ∧ r.frag = 0) ∧
  (∀ dt p n k data r s, s.RxPlain p → n < 4 → k < 4 → s.regB (0x1C00 + p) 4 = true → (s.port p).reasm = some r → r.num = n →
    r.frag = k → 60 ≤ data.length →
    AnswersSettled (exec (.preemptFragmentRx dt p (smdC n) (BitVec.ofNat 8 (smdS k) :: (data ++ mcrcOf (r.data ++ data))) {}) s) fun t =>
      ∃ r', (t.port p).reasm = some r' ∧ r'.num = n ∧ r'.data = r.data ++ data ∧ r'.frag = (k + 1) % 4) ∧
  (∀ dt p r s, (s.port p).reasm = some r → s.laneRuns (p / 64) = true →
    s.regN (0x1C00 + p) 6 ≤ (s.elapse dt).since r.lastAt →
    AnswersSettled (exec (.reasmTimeout dt p) s) fun t => (t.port p).reasm = none ∧ (t.port p).cause.bit 5 = true)

/-- An in-band request with a good tag and a new number is queued for the dictionary engine and goes no further (R84, R85, R88). -/
def Obligations.InbandQueued : Prop :=
  ∀ dt p bytes f k s, s.RxPlain p → s.GoodFrame p bytes → s.regB (0x1000 + p) 0x40 = false → s.regN 0x0200 5 = p →
    parseInband (bytes.take (bytes.length - 4)) = some f → s.inbandKey = some k → inbandGood k f = true → s.dict.rxSeq.toNat < f.seq →
    f.seq < 2 ^ 64 → s.dict.queue.length < 16 → s.isOn domDict = true → beAt bytes 12 2 ≠ 0x8808 →
    AnswersSettled (exec (.inbandRequest dt p bytes {}) s) fun t =>
      t.dict.queue = s.dict.queue ++ [{ src := f.sa, tag := f.tag, pdu := f.pdu }] ∧ t.dict.rxSeq.toNat = f.seq ∧
      t.clusterRx = s.clusterRx

/-- The skid sends its frames in order, segment by segment, while the core is ready, and nothing while it is not (R27). A frame
that is still arriving waits until 64 bytes more of it have come. -/
def Obligations.SkidSends : Prop :=
  (∀ dt c n f rest s, 0 < n → s.laneRuns c = true → (s.clRx c).skid = f :: rest → f.sent + 64 < f.bytes.length →
    Answers (exec (.ingressSkidSend dt c n true) s) fun t => ∃ more,
      Output.ingress c ({ port := f.port, data := slice f.bytes f.sent 64, sof := f.sent == 0, eof := false, fin := .good, reason := 0,
                          metaWord := if f.sent = 0 then f.metaWord else 0 } :: more) ∈ t.out) ∧
  (∀ dt c f s, s.laneRuns c = true → (s.clRx c).skid = [f] → f.bytes.length ≤ f.sent + 64 → f.growing = false →
    Answers (exec (.ingressSkidSend dt c 1 true) s) fun t => (t.clRx c).skid = [] ∧
      t.out = [.ingress c [{ port := f.port, data := slice f.bytes f.sent (f.bytes.length - f.sent), sof := f.sent == 0, eof := true,
                             fin := f.fin, reason := f.reason, metaWord := if f.sent = 0 then f.metaWord else 0 }]]) ∧
  (∀ dt c n f s, (s.clRx c).skid = [f] → f.bytes.length < f.sent + 64 → f.growing = true →
    Answers (exec (.ingressSkidSend dt c n true) s) fun t => t.out = [] ∧ (t.clRx c).skid = [f]) ∧
  (∀ dt c n ready s, ready = false ∨ s.laneRuns c = false →
    Answers (exec (.ingressSkidSend dt c n ready) s) fun t => t.out = [] ∧ (t.clRx c).skid = (s.clRx c).skid)

/-! ### The Doorlist (R236–R264) -/

/-- The insertion engine takes a learn or a move from its queue, the sweeper ages LEARNED entries, and the walks of a flush and of a
link that left UP end (R246, R253–R258, R260). -/
def Obligations.DoorlistWork : Prop :=
  (∀ dt c q rest r s, (s.clRx c).door.learnq = q :: rest → q.move = false → s.laneRuns c = true →
    s.doorFind c q.mac q.vid [0, 1, 2] = none → (s.doorWays c q.mac q.vid).find? (fun w => (s.doorEntry c w).isNone) = some r →
    Answers (exec (.learnInsert dt c) s) fun t => (t.clRx c).door.learnq = rest ∧
      t.doorEntry c r = some { mac := q.mac, vid := q.vid, kind := 0, port := q.port, ring := 0, mode := 0, hit := true, stale := false }) ∧
  (∀ dt c q rest r e s, (s.clRx c).door.learnq = q :: rest → q.move = true → s.laneRuns c = true →
    s.doorFind c q.mac q.vid [0] = some (r, e) → e.port ≠ q.port →
    Answers (exec (.stationMove dt c) s) fun t => (t.clRx c).door.learnq = rest ∧ t.doorEntry c r = some { e with port := q.port } ∧
      t.ctr (clIdx c 3) 8 = s.ctr (clIdx c 3) 8 + 1) ∧
  (∀ dt c at_ s, (s.clRx c).door.nextPass = some at_ → (s.elapse dt).before at_ = false → s.regN (clIdx c 3) 2 ≠ 0 →
    s.laneRuns c = true → (s.clp c).night ≠ .listen → SMap.rising (s.clRx c).door.rows = true →
    AnswersSettled (exec (.agePass dt c []) s) fun t =>
      (t.clRx c).door.nextPass = some (at_ + Word.ofNat (s.regN (clIdx c 3) 2)) ∧
      ∀ r e, s.doorEntry c r = some e →
        t.doorEntry c r = if e.kind ≠ 0 then some e
          else if e.hit then some { e with hit := false, stale := false }
          else if e.stale then none else some { e with stale := true }) ∧
  (∀ dt p s, p % 64 ∈ (s.clRx (p / 64)).door.walks → s.flushBusy (p / 64) = false → s.laneRuns (p / 64) = true →
    Answers (exec (.flushOnDown dt p) s) fun t => p % 64 ∉ (t.clRx (p / 64)).door.walks ∧
      ∀ r e, (t.doorRow (p / 64) r).entry = some e → (s.doorRow (p / 64) r).entry = some e ∧ ¬(e.kind = 0 ∧ e.port = p % 64)) ∧
  (∀ dt c s, s.flushBusy c = true → s.laneRuns c = true →
    Answers (exec (.flushDone dt c) s) fun t => t.flushBusy c = false)

/-! ### Flow control and preemption verification (R374, R375, R380, R381) -/

/-- Verification frames are answered and judged, and a port that accepts no preemptable frame counts them as bad delimiters (R132);
a PAUSE request is sent when it rises and again when it is due; a PFC request that rises asks for a frame, which goes when 64 CLK_DP
cycles have passed and says what each priority then asks (R381). -/
def Obligations.FlowControlFrames : Prop :=
  (∀ dt p body s, s.rxTakes p 0 = true → s.rxNight p 0 = false → s.txSends p = true → s.regB (0x1C00 + p) 4 = true →
    (s.portTxOf p).wire = none → (s.portTxOf p).ownPcs = true →
    Answers (exec (.verifyFrameRx dt p body (mcrcOf body)) s) fun t =>
      Output.lanes p (List.replicate 6 0x55 ++ [0x19]) (List.replicate 60 0 ++ mcrcOf (List.replicate 60 0)) ∈ t.out ∧
      t.ctr (0x1800 + p) Pc.txRespond = s.ctr (0x1800 + p) Pc.txRespond + 1) ∧
  (∀ dt p body s f, s.rxTakes p 0 = true → s.rxNight p 0 = false → s.txSends p = true → s.regB (0x1C00 + p) 4 = true →
    (s.portTxOf p).wire = some f →
    Answers (exec (.verifyFrameRx dt p body (mcrcOf body)) s) fun t =>
      (t.portTxOf p).ctl = (s.portTxOf p).ctl ++ [.respond] ∧ t.out = []) ∧
  (∀ dt p body mcrc s, s.rxTakes p 0 = true → s.rxNight p 0 = false → s.regB (0x1C00 + p) 4 = false →
    Answers (exec (.verifyFrameRx dt p body mcrc) s) (fun t => t.portTx = s.portTx ∧
      t.ctr (0x1800 + p) Pc.rxBadSfd = s.ctr (0x1800 + p) Pc.rxBadSfd + 1) ∧
    Answers (exec (.respondFrameRx dt p body mcrc) s) (fun t => t.portTx = s.portTx ∧
      t.ctr (0x1800 + p) Pc.rxBadSfd = s.ctr (0x1800 + p) Pc.rxBadSfd + 1)) ∧
  (∀ dt p body s, s.rxTakes p 0 = true → s.rxNight p 0 = false → s.txSends p = true → s.regB (0x1C00 + p) 4 = true →
    (s.portTxOf p).verify = .verifying →
    Answers (exec (.respondFrameRx dt p body (mcrcOf body)) s) fun t =>
      (t.portTxOf p).verify = .succeeded ∧ (t.portTxOf p).cause.bit 5 = true) ∧
  (∀ dt p s, (s.portTxOf p).verify = .verifying → s.verifyGrains p ≤ (s.elapse dt).since (s.portTxOf p).verifyAt →
    (s.portTxOf p).verifySent < 3 → ∀ f, (s.portTxOf p).wire = some f →
    Answers (exec (.verifyTimeout dt p) s) fun t =>
      (t.portTxOf p).verifySent = (s.portTxOf p).verifySent + 1 ∧ (t.portTxOf p).ctl = (s.portTxOf p).ctl ++ [.verify]) ∧
  (∀ dt p s, (s.portTxOf p).verify = .verifying → s.verifyGrains p ≤ (s.elapse dt).since (s.portTxOf p).verifyAt →
    3 ≤ (s.portTxOf p).verifySent →
    Answers (exec (.verifyTimeout dt p) s) fun t => (t.portTxOf p).verify = .failed ∧ (t.portTxOf p).cause.bit 6 = true) ∧
  (∀ dt p xoff f s, s.txSends p = true → s.regN (0x1C00 + p) 1 = 1 → (s.portTxOf p).xoffSeen = 0 → xoff % 256 ≠ 0 →
    (s.portTxOf p).wire = some f →
    Answers (exec (.fcXoffChange dt p xoff) s) fun t =>
      (t.portTxOf p).ctl = (s.portTxOf p).ctl ++ [.pause (s.regN (0x1C00 + p) 0x0C)] ∧
      (t.portTxOf p).xoffSent = xoff % 256 ||| s.regN (0x1C00 + p) 0x0F) ∧
  (∀ dt p f s, s.txSends p = true → s.regN (0x1C00 + p) 1 = 1 → s.xoffNow p ≠ 0 → (s.portTxOf p).wire = some f →
    pauseGrains (s.regN (0x1C00 + p) 0x0D) (s.portRate p) ≤ (s.elapse dt).since (s.portTxOf p).pauseAt →
    Answers (exec (.pauseRefresh dt p) s) fun t =>
      (t.portTxOf p).ctl = (s.portTxOf p).ctl ++ [.pause (s.regN (0x1C00 + p) 0x0C)] ∧ (t.portTxOf p).pauseAt = t.runTime) ∧
  (∀ dt p xoff n s, s.txSends p = true → s.regN (0x1C00 + p) 1 = 2 → (s.portTxOf p).pfcAt = none → n < 8 → xoff.testBit n = true →
    (s.portTxOf p).xoffSeen.testBit n = false →
    Answers (exec (.fcXoffChange dt p xoff) s) fun t => (t.portTxOf p).pfcAt = some t.runTime ∧
      (t.portTxOf p).ctl = (s.portTxOf p).ctl ∧ t.out = []) ∧
  (∀ dt p at_ f s, s.txSends p = true → s.regN (0x1C00 + p) 1 = 2 → (s.portTxOf p).pfcAt = some at_ →
    State.pfcGrains ≤ (s.elapse dt).since at_ → (s.portTxOf p).xoff < 256 → (s.portTxOf p).wire = some f →
    Answers (exec (.fcXoffChange dt p (s.portTxOf p).xoff) s) fun t => (t.portTxOf p).pfcAt = none ∧
      ∃ times, (t.portTxOf p).ctl = (s.portTxOf p).ctl ++ [.pfc times] ∧ ∀ n, n < 8 → times.getD n none =
        if (s.xoffNow p).testBit n then some (s.regN (0x1C00 + p) 0x0C)
        else if ((s.portTxOf p).xoffSent ||| (s.portTxOf p).xoffEver).testBit n then some 0 else none)

/-! ### Reads that change something (R57, R73, R105, R201, R205, R261, R285, R318, R352, R388, R423, R424, R436, R465, R504, R527, R530) -/

/-- A read of a capture or of a peak returns it and clears it. -/
def Obligations.CaptureReads : Prop :=
  ∀ dt via s, s.dictRuns = true →
    (∀ c, c < 16 →
      Reads (exec (.parityCaptureRead dt via c) s) (s.clRx c).door.capture (fun t => (t.clRx c).door.capture = 0) ∧
      Reads (exec (.holdPeakRead dt via c) s) (Word.ofNat (s.clRx c).holdPeak) (fun t => (t.clRx c).holdPeak = 0) ∧
      Reads (exec (.meterEccCaptureRead dt via c) s) (s.clRx c).meterCapture (fun t => (t.clRx c).meterCapture = 0) ∧
      Reads (exec (.schedEccCaptureRead dt via c) s) (s.clTx c).schedCapture (fun t => (t.clTx c).schedCapture = 0) ∧
      Reads (exec (.latheMaxLateRead dt via c) s) (Word.ofNat (s.clTx c).latheMaxLate) (fun t => (t.clTx c).latheMaxLate = 0) ∧
      Reads (exec (.shutterEccCaptureRead dt via c) s) (s.clTx c).shutterCapture (fun t => (t.clTx c).shutterCapture = 0) ∧
      Reads (exec (.calCaptureRead dt via c) s) (s.clTx c).calCapture (fun t => (t.clTx c).calCapture = 0) ∧
      Reads (exec (.calEccCaptureRead dt via c) s) (s.clTx c).calEccCapture (fun t => (t.clTx c).calEccCapture = 0)) ∧
    Reads (exec (.mismatchCaptureRead dt via) s) s.twin.mismatch (fun t => t.twin.mismatch = 0) ∧
    Reads (exec (.stestCaptureRead dt via) s) s.twin.stestCapture (fun t => t.twin.stestCapture = 0) ∧
    Reads (exec (.recBusCaptureRead dt via) s) s.ev.capture (fun t => t.ev.capture = 0) ∧
    (∀ q, q < 4 → Reads (exec (.busErrInfoRead dt via q) s) (s.quarter q).info
      (fun t => (t.quarter q).info = 0 ∧ (t.quarter q).addr = 0))

/-- A read of a FIFO takes its head; CLAIM takes the best source delivered to the target, or the one that CLAIM_SEL names. -/
def Obligations.QueueReads : Prop :=
  ∀ dt s, s.dictRuns = true →
    (∀ via c a rest, c < 16 → (s.clRx c).alerts = a :: rest →
      Reads (exec (.pnAlertRead dt via c) s) a (fun t => (t.clRx c).alerts = rest ∧ (rest = [] → (t.clRx c).alertLost = false))) ∧
    (∀ via c, c < 16 → (s.clRx c).alerts = [] → Reads (exec (.pnAlertRead dt via c) s) 0 (fun t => t.clusterRx = s.clusterRx)) ∧
    (∀ c r rest, c < 16 → (s.clTx c).stamps = r :: rest →
      Reads (exec (.txTsMetaRead dt .window c) s) r.1 (fun t => (t.clTx c).stamps = rest ∧ (t.clTx c).stampLatch = r.2)) ∧
    (∀ via g k rest, g ≤ 16 → SMap.get [] s.cu.fifos g = k :: rest →
      Reads (exec (.halfNextRead dt via g) s)
        (Word.ofNat (2 ^ 63 + b2n (!(SMap.get 0 s.ctrs k).getLsbD 47) * 2 ^ 62 + b2n (0x3000 ≤ keyIdx k ∧ keyIdx k ≤ 0x3FFF) * 2 ^ 61
          + keyIdx k * 2 ^ 32 + keySub k * 2 ^ 24 + keyRow k))
        (fun t => SMap.get [] t.cu.fifos g = rest ∧ SMap.get false t.cu.pending k = false ∧
          SMap.get 0 t.ctrs k = if (SMap.get 0 s.ctrs k).getLsbD 47 then SMap.get 0 s.ctrs k - BitVec.ofNat 48 (2 ^ 47) else SMap.get 0 s.ctrs k)) ∧
    (∀ t e, t < 32 → (s.tgt t).claimSel = 0 → s.mayClaim t e = true → SMap.rising s.ev.sources = true →
      ∃ b, s.mayClaim t b = true ∧
        ((s.src e).sentPrio < (s.src b).sentPrio ∨ (s.src e).sentPrio = (s.src b).sentPrio ∧ b ≤ e) ∧
        Reads (exec (.claim dt .window t) s) (Word.ofNat b) (fun u => (u.src b).owner = some t)) ∧
    (∀ t e, t < 32 → (s.tgt t).claimSel = e → e ≠ 0 → s.mayClaim t e = true →
      Reads (exec (.claim dt .window t) s) (Word.ofNat e) (fun u => (u.src e).owner = some t)) ∧
    (∀ t e, t < 32 → (s.tgt t).claimSel = e → e ≠ 0 → s.mayClaim t e = false → (s.src e).owner ≠ some t →
      Reads (exec (.claim dt .window t) s) 0xFFF (fun u => u.ev = s.ev ∧ u.ctr (0x6000 + 0x80 * t) 0xB = s.ctr (0x6000 + 0x80 * t) 0xB + 1))

/-- A read of the first slot of an instant latches the second; DIGEST_CYCLE latches the record it belongs to; a stream hands out its
next 8 bytes, zeros beyond its end, and starts again after its last. -/
def Obligations.LatchingReads : Prop :=
  ∀ dt via s, s.dictRuns = true →
    Reads (exec (.time84ReadLatch dt via 0x0400 1) s) (s.elapse dt).shortTime
      (fun t => SMap.get none t.dict.latched (slotKey 0x0400 2 0) = some (Word.ofNat ((s.elapse dt).devTime / 2 ^ 64))) ∧
    (∀ h, SMap.get none s.dict.latched (slotKey 0x0400 2 0) = some h →
      Reads (exec (.time84ReadLatch dt via 0x0400 2) s) h (fun t => t.dict = s.dict)) ∧
    (∀ p, p < 1024 → Reads (exec (.time84ReadLatch dt via (0x1400 + p) 7) s) (s.reg (0x1400 + p) 7)
      (fun t => SMap.get none t.dict.latched (slotKey (0x1400 + p) 8 0) = some (s.reg (0x1400 + p) 8))) ∧
    Reads (exec (.timeSnap dt) s) (s.elapse dt).shortTime
      (fun t => SMap.get none t.dict.latched (slotKey 0x0400 0x19 0) = some (Word.ofNat ((s.elapse dt).devTime / 2 ^ 64))) ∧
    Reads (exec (.digestCycleRead dt via) s) (Word.ofNat (s.shut (s.regN 0x0A00 0x10)).record.1)
      (fun t => SMap.get none t.dict.latched (slotKey 0x0A00 0x12 0) = some (Word.ofNat (s.shut (s.regN 0x0A00 0x10)).record.2.1) ∧
        SMap.get none t.dict.latched (slotKey 0x0A00 0x13 0) = some (Word.ofNat (s.shut (s.regN 0x0A00 0x10)).record.2.2)) ∧
    (∀ sub, sub = 0x30 ∨ sub = 0x32 ∨ sub = 0x36 → ∀ o, o = SMap.get 0 s.dict.offsets (slotKey 0x0600 sub 0) →
      Reads (exec (.domainStreamRead dt via sub) s)
        (Word.ofNat (leNat ((List.range 8).map fun i => if o + i < State.streamLen sub then s.streamByte sub (o + i) else 0)))
        (fun t => SMap.get 0 t.dict.offsets (slotKey 0x0600 sub 0) = if State.streamLen sub ≤ o + 8 then 0 else o + 8))

/-! ### The scheduler and the meters (R275, R288, R296–R303, R306–R313) -/

/-- Notices, the Lathe and the refills. -/
def Obligations.SchedulerRows : Prop :=
  (∀ dt c leaf len s, s.queueRuns c = true → leaf < 65536 → s.schValid c leaf = true →
    Answers (exec (.enqueueNotice dt c leaf len) s) fun t => (t.sch c leaf).grantOut = false ∧
      (t.sch c leaf).backlogged = len.isSome ∧ (t.sch c leaf).headLen = len.getD 0) ∧
  (∀ dt c leaf len s, s.queueRuns c = true → s.schValid c leaf = false →
    Answers (exec (.enqueueNotice dt c leaf len) s) fun t => (t.sch c leaf).grantOut = false ∧
      t.ctr (clIdx c 5) 1 = s.ctr (clIdx c 5) 1 + 1) ∧
  (∀ dt c k e s, s.queueRuns c = true → (s.sch c k).lathe = some e → e.span = none → (s.elapse dt).since e.at_ < 2 ^ 63 →
    Answers (exec (.latheFiring dt c k) s) fun t => (t.sch c k).last = t.runTime ∧ (t.sch c k).pend = none ∧
      (∀ i, (s.sch c k).pend = some i → (t.sch c k).inst = i)) ∧
  (∀ dt c k j a s, s.queueRuns c = true → (s.sch c k).lathe = some { at_ := a, span := some j } →
    ((s.elapse dt).runTime + Word.ofNat (2 ^ 25) - Word.ofNat (j * 2 ^ 26)).toNat < 2 ^ 63 → SMap.rising (s.clTx c).sched = true →
    Answers (exec (.latheCascade dt c (j % 4096)) s) fun t => (t.sch c k).lathe = some ((s.elapse dt).lathePlace a).1) ∧
  (∀ dt c k s, s.queueRuns c = true → (s.sch c k).lathe = none →
    ((s.sch c k).inst.cirEn || (s.sch c k).inst.pirEn || ((s.sch c k).pend.map fun i => i.cirEn || i.pirEn).getD false) = true →
    Answers (exec (.shaperBackgroundRefill dt c k) s) fun t => (t.sch c k).last = t.runTime ∧ (t.sch c k).pend = none) ∧
  (∀ dt c r s, s.meterRuns c = true → r < 32768 → (s.meterRow c r).enable = true →
    Answers (exec (.meterBackgroundRefill dt c r) s) fun t =>
      t.meterSt c r = meterRefill (s.meterRow c r) (s.meterSt c r) (s.elapse dt).runTime)

/-- One cycle of grants gives at most 16, at most four to a port (R302); the port next in turn gets one when its first class has a
head frame that may start (R300, R301). -/
def Obligations.Grants : Prop :=
  (∀ dt c ups s, AnswersSettled (exec (.dequeueGrant dt c ups) s) fun t =>
    t.out.length ≤ 16 ∧ (∀ o ∈ t.out, ∃ leaf l tag, l < 64 ∧ o = .grant c leaf (64 * c + l) tag) ∧
    ∀ p, (t.out.filter fun o => match o with | .grant _ _ q _ => q == p | _ => false).length ≤ 4) ∧
  (∀ dt c l n rest leaf tag s u, u = (List.range 64).foldl (fun s l => s.settlePort (64 * c + l)) (s.elapse dt) →
    s.queueRuns c = true → l < 64 → (u.clTx c).lastPort = (l + 63) % 64 → u.txAccepts (64 * c + l) = true →
    (u.sch c (portKey l)).grp ≠ 2 → u.ahead (64 * c + l) < u.aheadLimit (64 * c + l) → u.classOrder c l = n :: rest →
    (u.portTxOf (64 * c + l)).inject = [] → u.classHead c l n = some leaf → u.freeTag (64 * c + l) = some tag →
    (u.fit (64 * c + l) n (u.charged (64 * c + l) (u.sch c leaf).headLen (if (u.sysDevice (64 * c + l)).isSome then 12 else 0)
      (State.expansion (u.secPlan (64 * c + l)))).2.1).1 ≠ .closed →
    AnswersSettled (exec (.dequeueGrant dt c []) s) fun t => Output.grant c leaf (64 * c + l) tag ∈ t.out)

/-! ### The transmit MAC (R360, R361, R365–R368, R370, R376–R378, R395) -/

/-- A frame starts on a free wire after its gap, and not within it; it ends whole, padded and with its FCS, in the form that its
timestamping gives it, or is cut at MAX_FRAME − 4 or stomped; it underruns. -/
def Obligations.FramesOnTheWire : Prop :=
  (∀ dt p f s, s.txSends p = true → (s.portTxOf p).wire = none → (s.elapse dt).pfcDue p = false → (s.elapse dt).gapOk p = true →
    (s.elapse dt).nextStart p = some f →
    Answers (exec (.txFrameStart dt p) s) fun t => (t.portTxOf p).frames = (s.portTxOf p).frames.erase f ∧
      (t.portTxOf p).wire = some { f with started := true, preemptable := (s.elapse dt).sentPreemptable p f,
                                          stamp := (s.elapse dt).txStamp p, num := (s.portTxOf p).nextNum, at_ := t.runTime,
                                            fragAt := t.runTime }) ∧
  (∀ dt p s, (s.elapse dt).pfcDue p = false → (s.elapse dt).gapNow p < 9 →
    Answers (exec (.txFrameStart dt p) s) fun t => t = s.elapse dt) ∧
  (∀ dt p f s, (s.portTxOf p).wire = some f → f.ended = true → f.endDone = true → f.bad = none → s.txRuns p = true →
    (s.portTxOf p).ownPcs = true → (s.elapse dt).oversized p f = false →
    ∀ plain body, plain = State.TxFrame.plain f →
    body = padTo 60 (State.TxFrame.tagged f p (match (s.elapse dt).tsAct p f plain with | .insert b => b | _ => plain)) →
    AnswersSettled (exec (.txFrameDone dt { port := p }) s) fun t => (t.portTxOf p).wire = none ∧
      Output.lanes p (laneHead (State.fragHead f).1 (State.fragHead f).2) (body.drop f.gone ++ fcsOf body) ∈ t.out) ∧
  (∀ dt p f ecc s, (s.portTxOf p).wire = some f → s.txRuns p = true → (s.portTxOf p).ownPcs = true →
    f.ended = true ∧ f.endDone = true ∧ (f.bad ≠ none ∨ ecc = true) ∨ (s.elapse dt).oversized p f = true →
    ∀ body, body = (State.TxFrame.tagged f p (State.TxFrame.plain f)).take (((s.elapse dt).atStart f (0x1000 + p) 7).toNat - 4) →
    AnswersSettled (exec (.txFrameDone dt { port := p, ecc }) s) fun t => (t.portTxOf p).wire = none ∧
      Output.lanes p (laneHead (State.fragHead f).1 (State.fragHead f).2) (body.drop f.gone ++ stompFcs body) ∈ t.out) ∧
  (∀ dt p f s, (s.portTxOf p).wire = some f → f.ended = false → (s.elapse dt).oversized p f = false → s.txRuns p = true →
    (s.portTxOf p).ownPcs = true → ∀ body, body = State.TxFrame.tagged f p (State.TxFrame.plain f) →
    Answers (exec (.underrun dt p) s) fun t => (t.portTxOf p).wire = none ∧ (t.portTxOf p).cause.bit 0 = true ∧
      Output.lanes p (laneHead (State.fragHead f).1 (State.fragHead f).2) (body.drop f.gone ++ stompFcs body) ∈ t.out)

/-- A preemptable frame gives way at a legal point, is held, and goes on when nothing stands in its way; on a port that sends no
more it is not held but discarded, and one whose key is gone ends at once. -/
def Obligations.PreemptionOfFrames : Prop :=
  (∀ dt p gone f body s, (s.portTxOf p).wire = some f → f.preemptable = true → (s.elapse dt).preemptCause p f.tc = true →
    s.txRuns p = true → (s.portTxOf p).ownPcs = true → body = State.TxFrame.tagged f p (State.TxFrame.plain f) →
    f.gone + 60 ≤ gone → gone ≤ body.length → gone + 60 ≤ (if f.ended then body.length else max body.length (f.f - 4)) →
    Answers (exec (.preemption dt p gone) s) fun t => (t.portTxOf p).wire = none ∧
      (t.portTxOf p).held = (if s.txSends p then some { f with gone, frag := f.frag + 1 } else none) ∧
      Output.lanes p (laneHead (State.fragHead f).1 (State.fragHead f).2) ((body.take gone).drop f.gone ++
        mcrcOf (body.take gone)) ∈ t.out) ∧
  (∀ dt p f s, (s.portTxOf p).held = some f → (s.portTxOf p).wire = none → s.txSends p = true → (s.elapse dt).gapOk p = true →
    f.bad ≠ some .keyErase → (s.elapse dt).preemptCause p f.tc = false →
    Answers (exec (.continuationResume dt p) s) fun t => (t.portTxOf p).wire = some { f with fragAt := t.runTime } ∧
      (t.portTxOf p).held = none) ∧
  (∀ dt p f s, (s.portTxOf p).held = some f → (s.portTxOf p).wire = none → s.txSends p = true → (s.elapse dt).gapOk p = true →
    f.bad = some .keyErase →
    Answers (exec (.continuationResume dt p) s) fun t => (t.portTxOf p).wire = none ∧ (t.portTxOf p).held = none)

/-- Returned segments add to their frame, add to or end the tail of a frame that has left, or are orphans; an end segment is held
against the announced length; grants that never come back are given up, and counted once. -/
def Obligations.ReturnedGrants : Prop :=
  (∀ dt tag seg f s, s.txRuns seg.port = true → f ∈ (s.portTxOf seg.port).frames → f.tag = some tag → f.ended = false →
    seg.eof = false →
    AnswersSettled (exec (.returnedSegment dt tag seg false []) s) fun t =>
      ∃ g ∈ (t.portTxOf seg.port).frames, g.tag = some tag ∧ g.data = f.data ++ seg.data ∧ g.ended = false) ∧
  (∀ dt tag seg f s, s.txRuns seg.port = true → (s.portTxOf seg.port).frames = [f] → f.tag = some tag → f.ended = false →
    seg.eof = true → f.data.length + seg.data.length ≠ f.annLen →
    AnswersSettled (exec (.returnedSegment dt tag seg false []) s) fun t =>
      t.ctr (0x1800 + seg.port) Pc.headLenMismatch = s.ctr (0x1800 + seg.port) Pc.headLenMismatch + 1 ∧
      (t.portTxOf seg.port).cause.bit 1 = true) ∧
  (∀ dt tag seg tail s, s.txRuns seg.port = true → (∀ f ∈ s.liveFrames seg.port, f.tag = some tag → f.ended = true) →
    (s.portTxOf seg.port).tails.find? (fun t => t.tag == tag) = some tail →
    AnswersSettled (exec (.returnedSegment dt tag seg false []) s) fun t =>
      (t.portTxOf seg.port).tails = (if seg.eof then [] else [{ tail with got := tail.got + seg.data.length }])
        ++ (s.portTxOf seg.port).tails.filter (fun t => t.tag != tag) ∧
      (seg.eof = true → tail.got + seg.data.length ≠ tail.annLen →
        t.ctr (0x1800 + seg.port) Pc.headLenMismatch = s.ctr (0x1800 + seg.port) Pc.headLenMismatch + 1 ∧
        (t.portTxOf seg.port).cause.bit 1 = true)) ∧
  (∀ dt tag seg s, s.txRuns seg.port = true → tag ∉ s.outTags seg.port →
    AnswersSettled (exec (.returnedSegment dt tag seg false []) s) fun t =>
      t.ctr (0x1800 + seg.port) Pc.txReturnOrphan = s.ctr (0x1800 + seg.port) Pc.txReturnOrphan + 1 ∧ t.portTx = s.portTx) ∧
  (∀ dt p s, (s.port p).st = .closing ∧ 2 ^ 26 ≤ (s.elapse dt).since (s.port p).closingAt ∨
      (s.clp (p / 64)).night = .entering ∧ 2 ^ 26 ≤ (s.elapse dt).since (s.clp (p / 64)).enteringAt → s.outTags p ≠ [] →
    Answers (exec (.returnLostTimeout dt p) s) fun t => t.outTags p = [] ∧ (t.portTxOf p).cause.bit 7 = true ∧
      t.ctr (0x1800 + p) Pc.txReturnLost = s.ctr (0x1800 + p) Pc.txReturnLost + BitVec.ofNat 48 (s.outTags p).length)

/-! ### Ports (R126, R128, R130, R329, R357, R369, R393, R395, R397) -/

/-- A write of 1s to a cause's clear object clears those bits and no other, of that port and no other; TX_SILL_SET waits for the
next frame start. -/
def Obligations.PortClears : Prop :=
  ∀ dt via p v s, s.Ready → p < 1024 →
    (v.toNat < 2 ^ 32 →
      AnswersSettled (exec (.rxCauseClr dt via p v) s) (fun t =>
        t.port p = { s.port p with cause := (s.port p).cause &&& ~~~v } ∧ ∀ q, q ≠ p → t.port q = s.port q) ∧
      AnswersSettled (exec (.txCauseClr dt via p v) s) (fun t =>
        t.portTxOf p = { s.portTxOf p with cause := (s.portTxOf p).cause &&& ~~~v } ∧ ∀ q, q ≠ p → t.portTxOf q = s.portTxOf q) ∧
      AnswersSettled (exec (.shutterCauseClr dt via p v) s) (fun t =>
        t.shut p = { s.shut p with cause := (s.shut p).cause &&& ~~~v } ∧ ∀ q, q ≠ p → t.shut q = s.shut q)) ∧
    (1 ≤ v.toNat → v.toNat ≤ 252 → AnswersSettled (exec (.txSillSet dt via p v) s) fun t =>
      t.portTxOf p = { s.portTxOf p with sillSet := some v.toNat })

/-- PORT_ENABLE opens a CLOSED port whose checks pass, refuses one whose checks fail, and closes an OPEN one; CLOSING ends in
CLOSED, or in a new opening where the checks pass then; an OPEN port of an ACTIVE complex takes its own PCS output in a gap, with no
part of a frame held. -/
def Obligations.PortOpensAndCloses : Prop :=
  (∀ dt via p s, s.Ready → p < 1024 → (s.port p).st = .closed → (s.clp (p / 64)).st = .opened →
    AnswersSettled (exec (.portEnable dt via p 1) s) fun t => t.regB (0x1000 + p) 1 = true ∧
      if s.openOk p then (t.port p).st = .opening else (t.port p).st = .closed ∧ (t.port p).cause.bit 7 = true) ∧
  (∀ dt via p s, s.Ready → p < 1024 → (s.port p).st = .opened →
    AnswersSettled (exec (.portEnable dt via p 0) s) fun t => t.regB (0x1000 + p) 1 = false ∧ (t.port p).st = .closing) ∧
  (∀ dt p s, (s.port p).st = .closing → (s.elapse dt).txDone p = true → (s.port p).enLatched ≠ some true →
    Answers (exec (.portCloseDone dt p) s) fun t => (t.port p).st = .closed ∧ (t.port p).link = .down ∧ (t.port p).timers = [] ∧
      (t.port p).reasm = none) ∧
  (∀ dt p s, (s.port p).st = .closing → (s.elapse dt).txDone p = true → (s.port p).enLatched = some true →
    (s.clp (p / 64)).st = .opened →
    Answers (exec (.portCloseDone dt p) s) fun t =>
      if (s.updPort p fun q => { q with st := .closed }).openOk p then (t.port p).st = .opening
      else (t.port p).st = .closed ∧ (t.port p).cause.bit 7 = true) ∧
  (∀ dt p s, s.twin.role = .active → (s.port p).st = .opened → (s.portTxOf p).wire = none → (s.portTxOf p).held = none →
    Answers (exec (.pcsOutputSwitch dt p) s) fun t => t.portTxOf p = { s.portTxOf p with ownPcs := true, signal :=
      if (s.port p).link = .down ∨ (s.port p).link = .aligning then .remoteFault else .idle })

/-! ### Shutters (R324, R329, R334–R339, R420, R421) -/

/-- GATE_ENABLE, CONFIG_CHANGE and the swap they lead to: its change time, the latch at the start of its commit cycle, which a
standby leaves to the mark of the active, and the list that then runs. A CONFIG_CHANGE from the start of the commit cycle on is held
until the swap, or until its refusal. -/
def Obligations.ShutterSwaps : Prop :=
  (∀ dt via p s, s.Ready → p < 1024 → (s.shut p).st = .closed → (s.clp (p / 64)).st = .opened →
    AnswersSettled (exec (.gateEnable dt via p 1) s) fun t => (t.shut p).st = .opening ∧
      (t.shut p).pend = some ((s.elapse dt).newSwap p (s.elapse dt).devTime none)) ∧
  (∀ dt via p s, s.Ready → p < 1024 → (s.shut p).st = .opening →
    AnswersSettled (exec (.gateEnable dt via p 0) s) fun t => (t.shut p).st = .closed ∧ (t.shut p).cause.bit 7 = true) ∧
  (∀ dt via p l s, s.Ready → p < 1024 → (s.shut p).st = .opened → (s.shut p).oper = some l →
    AnswersSettled (exec (.gateEnable dt via p 0) s) fun t => (t.shut p).st = .closing ∧ (t.shut p).pend = none ∧
      (t.shut p).closeAt = (s.elapse dt).devTime +
        ((({ l with lastCycle := none }).pos (s.shut p).realign (s.elapse dt).devTime).2.2 -
          (({ l with lastCycle := none }).pos (s.shut p).realign (s.elapse dt).devTime).2.1)) ∧
  (∀ dt via p s, s.Ready → p < 1024 → (s.shut p).st = .opened → (s.shut p).pend = none →
    AnswersSettled (exec (.configChange dt via p) s) fun t =>
      (t.shut p).pend = some ((s.elapse dt).newSwap p (s.elapse dt).devTime (s.shut p).oper) ∧
      (t.shut p).changeShown = ((s.elapse dt).newSwap p (s.elapse dt).devTime (s.shut p).oper).tc) ∧
  (∀ dt via p w s, s.Ready → p < 1024 → (s.shut p).st = .opening ∨ (s.shut p).st = .opened → (s.shut p).pend = some w →
    w.latched.isSome = true ∨ w.start ≤ (s.elapse dt).devTime →
    AnswersSettled (exec (.configChange dt via p) s) fun t => (t.shut p).pend = some { w with held := true }) ∧
  (∀ dt via p w s, s.Ready → p < 1024 → (s.shut p).st = .opening ∨ (s.shut p).st = .opened → (s.shut p).pend = some w →
    w.latched = none → (s.elapse dt).devTime < w.start →
    AnswersSettled (exec (.configChange dt via p) s) fun t => (t.shut p).pend = some ((s.elapse dt).newSwap p (s.elapse dt).devTime
      (if (s.shut p).st = .opened then (s.shut p).oper else none))) ∧
  (∀ dt via p s, s.Ready → p < 1024 → (s.shut p).st = .closed ∨ (s.shut p).st = .closing →
    AnswersSettled (exec (.configChange dt via p) s) fun t => t.shutters = s.shutters ∧ t.ctr 0x0200 0x0E = s.ctr 0x0200 0x0E + 1) ∧
  (∀ dt p w upset s, (s.shut p).pend = some w → s.twin.role = .standby →
    Answers (exec (.swapLatch dt p upset) s) fun t => t = s.elapse dt) ∧
  (∀ dt p w s, (s.shut p).pend = some w → w.latched = none → s.waitsMark w = false → s.queueRuns (p / 64) = true →
    w.start ≤ (s.elapse dt).devTime →
    (∀ r ∈ s.adminRows p, 1024 ≤ entInterval (s.rowGet (winIdx (p / 64) 0xA) 2 r) ∧ r ∉ (s.clTx (p / 64)).badRows) →
    AnswersSettled (exec (.swapLatch dt p none) s) fun t => ∃ l, (t.shut p).pend = some { w with latched := some l } ∧
      l.entries = (s.adminRows p).map (s.rowGet (winIdx (p / 64) 0xA) 2) ∧ l.first = w.first ∧ l.g = s.regN (0x1400 + p) 5 ∧
      l.base = s.time84 (0x1400 + p) 7) ∧
  (∀ dt p w r s, (s.shut p).pend = some w → w.latched = none → s.waitsMark w = false → s.queueRuns (p / 64) = true →
    w.start ≤ (s.elapse dt).devTime → r ∈ s.adminRows p →
    entInterval (s.rowGet (winIdx (p / 64) 0xA) 2 r) < 1024 ∨ r ∈ (s.clTx (p / 64)).badRows →
    AnswersSettled (exec (.swapLatch dt p none) s) fun t => (t.shut p).cause.bit 5 = true ∧
      (w.held = false → (t.shut p).pend = none) ∧
      (w.held = true → (s.shut p).given = none → (t.shut p).pend = some ((s.elapse dt).newSwap p (s.elapse dt).devTime
        (if (s.shut p).st = .opened then (s.shut p).oper else none)))) ∧
  (∀ dt p w l s, (s.shut p).pend = some w → w.latched = some l → s.queueRuns (p / 64) = true → w.tc ≤ (s.elapse dt).devTime →
    Answers (exec (.shutterSwap dt p) s) fun t =>
      (∃ o, (t.shut p).oper = some o ∧ o.entries = l.entries ∧ o.g = l.g ∧ o.num = l.num ∧ o.den = l.den ∧ o.base = l.base ∧
        o.first = l.first ∧ o.hold0 = (!l.entries.isEmpty && (s.elapse dt).listHold p (w.tc - 1)) ∧
        o.maxWin = (List.range 8).map (fun n => { l with hold0 := o.hold0 }.maxWindow n (s.shutExpress p n) (s.regN (0x1400 + p) 0x1A)) ∧
        (w.held = true → (s.shut p).given = none → (s.shut p).st = .opening ∨ (s.shut p).st = .opened →
          (t.shut p).pend = some ((s.elapse dt).newSwap p w.tc (some o)))) ∧
      (w.held = false → (t.shut p).pend = none) ∧ (t.shut p).changeTime = w.tc ∧ (t.shut p).cause.bit 0 = true ∧
      ((s.shut p).st = .opening → (t.shut p).st = .opened) ∧
      t.ctr (0x1800 + p) Pc.shutterSwaps = s.ctr (0x1800 + p) Pc.shutterSwaps + 1)

/-- The engine puts in force what device time says, an unreadable entry closes the function, a cycle's end closes a CLOSING one, and
a digest that is due goes to the readout. -/
def Obligations.ShutterCycles : Prop :=
  (∀ dt p l s, s.queueRuns (p / 64) = true → (s.shut p).st = .opened → (s.shut p).oper = some l → (s.shut p).realign = none →
    AnswersSettled (exec (.shutterEntryChange dt p false) s) fun t =>
      (t.shut p).gates = l.gatesAt none (s.elapse dt).devTime ∧ (t.shut p).cycle = (l.pos none (s.elapse dt).devTime).1 ∧
      (t.shut p).oper = some l ∧ (t.shut p).st = .opened) ∧
  (∀ dt p l s, s.queueRuns (p / 64) = true → (s.shut p).st = .opened → (s.shut p).oper = some l →
    AnswersSettled (exec (.shutterEntryChange dt p true) s) fun t =>
      (t.shut p).st = .closed ∧ (t.shut p).oper = none ∧ (t.shut p).cause.bit 6 = true ∧
      t.ctr (clIdx (p / 64) 6) 1 = s.ctr (clIdx (p / 64) 6) 1 + 1) ∧
  (∀ dt p s, (s.shut p).st = .closing → s.queueRuns (p / 64) = true → (s.shut p).closeAt ≤ (s.elapse dt).devTime →
    (s.shut p).reopen = false →
    Answers (exec (.shutterCloseDone dt p) s) fun t => (t.shut p).st = .closed ∧ (t.shut p).oper = none ∧
      (t.shut p).cause.bit 7 = true) ∧
  (∀ dt p s, (s.shut p).st = .closing → s.queueRuns (p / 64) = true → (s.shut p).closeAt ≤ (s.elapse dt).devTime →
    (s.shut p).reopen = true → (s.clp (p / 64)).st = .opened →
    Answers (exec (.shutterCloseDone dt p) s) fun t => (t.shut p).st = .opening) ∧
  (∀ dt p d rest s, s.isOn domCalc = true → s.queueRuns (p / 64) = true → (s.shut p).digests = d :: rest →
    d.closeAt ≤ (s.elapse dt).devTime → (∀ e ∈ s.twin.peerRecs, e.port ≠ p) →
    AnswersSettled (exec (.digestClose dt p) s) fun t =>
      t.shut p = { s.shut p with digests := rest, record := (d.cycle, d.sum, d.count) })

/-! ### Time (R48, R98, R99, R102, R106, R110–R117, R120, R123, R469) -/

/-- Writes of the time core's objects and of the snapshot's strobes. -/
def Obligations.TimeWrites : Prop :=
  (∀ dt via low high s, s.Ready → high.toNat < 2 ^ 20 →
    AnswersSettled (exec (.setTime dt via low high) s) fun t => t.devTime = high.toNat * 2 ^ 64 + low.toNat ∧
      t.time.st = (if s.time.st = .unset then .freerun else s.time.st) ∧ t.time.sinceServo = 0 ∧
      t.ctr 0x0400 0x11 = s.ctr 0x0400 0x11 + 1 ∧ t.runTime = (s.elapse dt).runTime) ∧
  (∀ dt via v s, s.Ready → -(2 ^ 62) ≤ v.toInt → v.toInt ≤ 2 ^ 62 → (s.elapse dt).stepFits v.toInt = true →
    AnswersSettled (exec (.stepTime dt via v) s) fun t => (t.devTime : Int) = (s.elapse dt).devTime + v.toInt ∧
      t.time.lastStep = v ∧ t.time.st = s.time.st ∧ t.time.sinceServo = 0 ∧ t.ctr 0x0400 0x11 = s.ctr 0x0400 0x11 + 1 ∧
      t.runTime = (s.elapse dt).runTime) ∧
  (∀ dt via v s, s.Ready → 92141486649 ≤ v.toNat → v.toNat ≤ 92325954089 →
    AnswersSettled (exec (.freqWordWrite dt via v) s) fun t => t.reg 0x0400 6 = v ∧ t.time.sinceServo = 0 ∧
      t.time.st = (if s.time.st = .unset then .unset else .tracking) ∧ t.devTime = (s.elapse dt).devTime) ∧
  (∀ dt via s, s.Ready → s.isOn domSnap = true →
    AnswersSettled (exec (.snap dt via) s) fun t => t.cu.held = some (s.regN 0x0B00 1) ∧ t.cu.snapTime.toNat = (s.elapse dt).devTime ∧
      ∀ k, 1 ≤ k → k ≤ 128 → SMap.get 0 t.cu.frozen k = s.ctr (0x1800 + s.regN 0x0B00 1) k) ∧
  (∀ dt via s, s.Ready → AnswersSettled (exec (.snapRelease dt via) s) fun t => t.cu.held = none ∧ t.cu.frozen = [])

/-- HOLDOVER, the edges of pps_in and pps_out, time-of-day messages received, their alignment, and the one sent with an edge of
pps_out (the model's choice of its moment, assumption 99), and the carry into EPOCH. -/
def Obligations.TimeEvents : Prop :=
  (∀ dt s, s.time.st = .tracking → s.regN 0x0400 0x10 ≤ s.time.sinceServo →
    Answers (exec (.holdoverEntry dt) s) fun t => t.time.st = .holdover) ∧
  (∀ dt s, s.clocked = true →
    Answers (exec (.ppsInEdge dt) s) fun t => t.time.ppsTs.toNat = (s.elapse dt).devTime ∧
      t.time.ppsRef = some (s.elapse dt).runTime ∧ t.time.ppsMissed = false ∧
      ∀ secs, (s.elapse dt).todRecent = some secs → s.regB 0x0400 0x0F = true → s.time.st = .unset →
        ∃ a, t.time.align = some a ∧ a.secs = secs ∧ a.edgeRun = (s.elapse dt).runTime) ∧
  (∀ dt r s, s.time.ppsRef = some r → 2 ^ 36 + s.regN 0x0400 0x17 ≤ (s.elapse dt).since r →
    Answers (exec (.ppsMissing dt) s) fun t => t.time.ppsRef = some (r + Word.ofNat (2 ^ 36)) ∧ t.time.ppsMissed = true ∧
      t.ctr 0x0400 0x15 = s.ctr 0x0400 0x15 + 1) ∧
  (∀ dt msg s, s.clocked = true → msg.length = 16 → beAt msg 0 2 = 0x5AA5 → beAt msg 2 1 = 1 →
    crc16 (msg.take 14) = beAt msg 14 2 →
    Answers (exec (.todMessage dt msg) s) fun t => t.time.tod = some ((s.elapse dt).runTime, beAt msg 4 6) ∧
      t.time.todFlags = byteAt msg 3 ∧ t.ctr 0x0400 0x1E = s.ctr 0x0400 0x1E) ∧
  (∀ dt msg s, s.clocked = true → msg.length = 16 → beAt msg 0 2 = 0x5AA5 → crc16 (msg.take 14) ≠ beAt msg 14 2 →
    Answers (exec (.todMessage dt msg) s) fun t => t.time.tod = s.time.tod ∧ t.ctr 0x0400 0x1E = s.ctr 0x0400 0x1E + 1) ∧
  (∀ dt a s, s.time.align = some a → s.time.st = .unset →
    Answers (exec (.todAlign dt) s) fun t => t.devTime = (a.secs * 2 ^ 36 + (s.elapse dt).since a.edgeRun) % 2 ^ 84 ∧
      t.time.st = .freerun ∧ t.time.align = none) ∧
  (∀ dt a s, s.time.align = some a → s.time.st ≠ .unset → a.secs ≠ a.edgeSec →
    (s.elapse dt).stepFits (((a.secs : Int) - a.edgeSec) * 2 ^ 36) = true →
    Answers (exec (.todAlign dt) s) fun t =>
      (t.devTime : Int) = (s.elapse dt).devTime + ((a.secs : Int) - a.edgeSec) * 2 ^ 36 ∧ t.time.align = none) ∧
  (∀ dt s, (s.elapse dt).devSeconds ≠ s.time.secSeen → s.time.st ≠ .unset → s.regB 0x0400 0x0E = true → s.time.ppsOut = false →
    Answers (exec (.ppsOutEdge dt) s) fun t => t.time.ppsOut = true ∧ t.time.secSeen = (s.elapse dt).devSeconds ∧
      t.time.ppsOutAt = (s.elapse dt).runTime - Word.ofNat (s.elapse dt).devGrains ∧
      ∃ m, t.out = [.tod m] ∧ m.length = 16 ∧ beAt m 0 2 = 0x5AA5 ∧ beAt m 2 1 = 1 ∧ beAt m 4 6 = ((s.elapse dt).devSeconds + 1) % 2 ^ 48 ∧
        beAt m 14 2 = crc16 (m.take 14)) ∧
  (∀ dt s, s.time.ppsOut = true → 2 ^ 30 ≤ (s.elapse dt).since s.time.ppsOutAt →
    Answers (exec (.ppsOutPulseEnd dt) s) fun t => t.time.ppsOut = false) ∧
  (∀ dt s, (s.elapse dt).epoch ≠ s.time.epochSeen → s.isOn domEvt = true →
    Answers (exec (.shortFormWrap dt) s) fun t => t.time.epochSeen = (s.elapse dt).epoch ∧
      t.ctr (0x5000 + 0x828) 5 = s.ctr (0x5000 + 0x828) 5 + 1)

/-- The PLL and what its lock and its loss bring, the management tick, which comes every 2^21 CLK_ROOT cycles and not before, and the
scanner of half ranges. -/
def Obligations.ClocksAndTicks : Prop :=
  (∀ dt s, (s.dom domTime).ack = .on → s.time.pllLocked = false → (∀ n, (s.dom n).phase ≠ .restoring ∧ (s.dom n).phase ≠ .waitTime) →
    AnswersSettled (exec (.pllLock dt) s) fun t => t.clocked = true ∧ t.time.refPresent = true) ∧
  (∀ dt s, (s.dom domTime).ack = .on → s.time.pllLocked = false → (s.dom domTime).phase = .restoring → (s.dom domTime).latched = none →
    (∀ n, n ≠ domTime → (s.dom n).phase ≠ .restoring ∧ (s.dom n).phase ≠ .waitTime) → s.power.waiting = none → s.power.sequencer = .rest →
    s.power.boot ≠ .sleep → s.power.slept = [] → s.regB 0x0700 0x10 = false →
    AnswersSettled (exec (.pllLock dt) s) fun t => t.clocked = true ∧ t.isOn domTime = true ∧ (t.dom domTime).phase = .idle) ∧
  (∀ dt s, s.clocked = true →
    AnswersSettled (exec (.pllLossOfLock dt) s) fun t => t.clocked = false ∧ t.time.st = .unset ∧
      t.time.ppsOut = false ∧
      (∀ p, (t.port p).st = .closed) ∧ (∀ r, (t.ring r).st = .closed) ∧ ∀ c, (t.clp c).st = .closed) ∧
  (∀ dt env s, s.clocked = true → 2 ^ 21 ≤ (s.elapse dt).time.tickAt → s.dict.landing = [] →
    Answers (exec (.managementTick dt env) s) fun t => t.time.ticks = s.time.ticks + 1 ∧ t.time.refPresent = env.refPresent ∧
      t.time.tickAt = (s.elapse dt).time.tickAt - 2 ^ 21 ∧
      ∀ p, (s.port p).st = .opening → (s.port p).closeAfterOpen = false → (t.port p).st = .opened) ∧
  (∀ dt env s, s.clocked = false ∨ (s.elapse dt).time.tickAt < 2 ^ 21 →
    Answers (exec (.managementTick dt env) s) fun t => t = s.elapse dt) ∧
  (∀ dt idx sub row s, s.clocked = true → sub < 256 → row < 65536 → SMap.get false s.cu.pending (slotKey idx sub row) = true →
    slotKey idx sub row ∉ SMap.get [] s.cu.fifos (State.queueOf (slotKey idx sub row)) →
    (SMap.get [] s.cu.fifos (State.queueOf (slotKey idx sub row))).length < 64 → s.cu.held = none →
    Answers (exec (.counterHalfPresent dt idx sub row) s) fun t =>
      SMap.get [] t.cu.fifos (State.queueOf (slotKey idx sub row))
        = SMap.get [] s.cu.fifos (State.queueOf (slotKey idx sub row)) ++ [slotKey idx sub row])

/-! ### The dictionary engine (R37, R55–R63, R67, R77–R83, R91, R557) -/

/-- Writes of DEVICE_ID and of what lies beside it: accepted and on their way, refused with the code of the first check that
fails, and landing. -/
def Obligations.DictionaryWrites : Prop :=
  (∀ dt via v s, s.Ready → v.toNat ≤ 0x3FFFF →
    AnswersSettled (exec (.dictWrite dt via 0x0100 3 v) s) fun t => Output.status rOK ∈ t.out ∧
      (∃ l, t.dict.landing = [l] ∧ l.eff = .obj 0x0100 3 v ∧ l.tick = s.time.ticks) ∧ t.reg 0x0100 3 = s.reg 0x0100 3) ∧
  (∀ dt via idx sub v s, s.Ready → sub < 256 → idx < 65536 → ∀ code,
    (classify idx = none ∧ code = rNO_OBJECT) ∨ (idx = 0x0100 ∧ sub ≤ 2 ∧ code = rREAD_ONLY) ∨
      (idx = 0x0100 ∧ sub = 3 ∧ 0x3FFFF < v.toNat ∧ code = rRANGE) ∨ (idx = 0x0100 ∧ 5 < sub ∧ code = rNO_OBJECT) →
    AnswersSettled (exec (.dictWrite dt via idx sub v) s) fun t => t.out = [.status code] ∧ t.dict.landing = [] ∧
      t.ctr 0x0200 0x0E = s.ctr 0x0200 0x0E + 1 ∧
      t.dict.lastRefusal = Word.ofNat (idx * 2 ^ 48 + sub * 2 ^ 40 + via.transport.code * 2 ^ 38 + code * 2 ^ 30)) ∧
  (∀ dt l v s, s.dictRuns = true → s.dict.landing = [l] → l.eff = .obj 0x0100 3 v →
    AnswersSettled (exec (.writeLanding dt []) s) fun t => t.reg 0x0100 3 = v ∧ t.dict.landing = [])

/-- A CAN FD request to NODE_ADDR is executed and answered with its SEQ, INDEX and SUBINDEX, behind a health word that waits; a
HELLO opens a session; error frames are counted. -/
def Obligations.BdpRequests : Prop :=
  (∀ dt id data errs h v u s s' src, s' = ((s.elapse dt).bump 0x0200 0x0D errs).canHealth → s.dictRuns = true → s.regB 0x0200 3 = true →
    id / 2 ^ 22 % 16 = 1 →
    id / 2 ^ 15 % 128 = s.regN 0x0200 1 → src = id / 2 ^ 8 % 128 → bdpHead data = some h → data.length = 8 → h.op = 1 → h.count = 1 →
    h.version ≠ 0 → (SMap.get {} s.dict.sessions src).version = h.version → (SMap.get {} s.dict.sessions src).seq ≠ some h.seq →
    s'.read .can h.idx h.sub = (rOK, v, u) →
    AnswersSettled (exec (.bdpRead dt (.can id data errs)) s) fun t =>
      t.out = u.out ++ [.can (2 * 2 ^ 26 + 2 * 2 ^ 22 + src * 2 ^ 15 + s.regN 0x0200 1 * 2 ^ 8)
        ([BitVec.ofNat 8 h.version, 3] ++ beBytes 2 h.seq ++ beBytes 2 h.idx ++ beBytes 1 h.sub ++ [0] ++ beBytes 8 v.toNat)] ∧
      (SMap.get {} t.dict.sessions src).seq = some h.seq) ∧
  (∀ dt id data errs h u s s' src, s' = ((s.elapse dt).bump 0x0200 0x0D errs).canHealth → s.dictRuns = true → s.regB 0x0200 3 = true →
    id / 2 ^ 22 % 16 = 1 →
    id / 2 ^ 15 % 128 = s.regN 0x0200 1 → src = id / 2 ^ 8 % 128 → bdpHead data = some h → data.length = 16 → h.op = 2 → h.count = 1 →
    h.version ≠ 0 → (SMap.get {} s.dict.sessions src).version = h.version → (SMap.get {} s.dict.sessions src).seq ≠ some h.seq →
    s'.write .can h.idx h.sub (Word.ofNat (beAt data 8 8)) = (rOK, u) →
    AnswersSettled (exec (.bdpWrite dt (.can id data errs)) s) fun t =>
      t.out = u.out ++ [.can (2 * 2 ^ 26 + 2 * 2 ^ 22 + src * 2 ^ 15 + s.regN 0x0200 1 * 2 ^ 8)
        ([BitVec.ofNat 8 h.version, 4] ++ beBytes 2 h.seq ++ beBytes 2 h.idx ++ beBytes 1 h.sub ++ [0])] ∧
      t.dict.landing = u.dict.landing ∧ (SMap.get {} t.dict.sessions src).seq = some h.seq) ∧
  (∀ dt id data errs h s s' src, s' = ((s.elapse dt).bump 0x0200 0x0D errs).canHealth → s.dictRuns = true → s.regB 0x0200 3 = true →
    id / 2 ^ 22 % 16 = 1 →
    id / 2 ^ 15 % 128 = s.regN 0x0200 1 → src = id / 2 ^ 8 % 128 → bdpHead data = some h → data.length = 16 → h.op = 5 →
    (SMap.get {} s.dict.sessions src).seq ≠ some h.seq → State.helloVersion data ≠ 0 →
    AnswersSettled (exec (.bdpHello dt (.can id data errs)) s) fun t =>
      t.out = s'.out ++ [.can (2 * 2 ^ 26 + 2 * 2 ^ 22 + src * 2 ^ 15 + s.regN 0x0200 1 * 2 ^ 8)
        ([BitVec.ofNat 8 (State.helloVersion data), 6] ++ beBytes 2 h.seq ++ beBytes 2 h.idx ++ beBytes 1 h.sub ++ [0])] ∧
      (SMap.get {} t.dict.sessions src).version = State.helloVersion data) ∧
  (∀ dt s, s.dictRuns = true → Answers (exec (.busOff dt) s) fun t => t.ctr 0x0200 0x0D = s.ctr 0x0200 0x0D + 1)

/-! ### Table windows (R69–R72, R242–R246, R260, R268, R281, R315, R330) -/

/-- ROW loads the row and drops a partial image; COMMIT takes the staged row and DATA the streamed one, or refuses it with the code of
its check. A row of table 0x04 or 0x0A lands in the step that takes it. One of table 0x03, SETTLE and RETURN wait for the next tick
boundary (the model's choice within R15, assumption 5); they land there, and a COMMIT and a SETTLE of one row and one tick at one edge,
SETTLE first (R281). -/
def Obligations.TableWindows : Prop :=
  (∀ dt via c t row s, s.Ready → c < 16 → t ≤ 0xC → row < 2 ^ 32 →
    AnswersSettled (exec (.rowSelect dt via c t row) s) fun u => (u.window (winIdx c t)).row = row ∧
      (u.window (winIdx c t)).part = [] ∧ (u.window (winIdx c t)).status = (s.window (winIdx c t)).status) ∧
  (∀ dt via c row s, s.Ready → c < 16 → row < 4096 → (s.dom (domMeter c)).ack ≠ .off →
    AnswersSettled (exec (.rowSelect dt via c 4 row) s) fun u =>
      SMap.get 0 (u.window (winIdx c 4)).stage 2 = s.rowGet (winIdx c 4) 2 row) ∧
  (∀ dt via c s v, s.Ready → c < 16 → s.isOn (domMeter c) = true → (s.window (winIdx c 4)).row < 4096 →
    v = SMap.get 0 (s.window (winIdx c 4)).stage 2 → State.vmapOk [v] = true →
    AnswersSettled (exec (.commit dt via c 4) s) fun u => u.rowGet (winIdx c 4) 2 (s.window (winIdx c 4)).row = v ∧
      (u.window (winIdx c 4)).status = rOK ∧ Output.status rOK ∈ u.out) ∧
  (∀ dt via c s v, s.Ready → c < 16 → s.isOn (domMeter c) = true → (s.window (winIdx c 4)).row < 4096 →
    v = SMap.get 0 (s.window (winIdx c 4)).stage 2 → State.vmapOk [v] = false →
    AnswersSettled (exec (.commit dt via c 4) s) fun u => u.rows = s.rows ∧
      (u.window (winIdx c 4)).status = rRANGE ∧ Output.status rRANGE ∈ u.out) ∧
  (∀ dt via c t img code s, s.Ready → c < 16 → t ≤ 0xC → t ≠ 6 → img = s.stagedImage c t →
    ((s.elapse dt).rowCheck c t (s.window (winIdx c t)).row img true).1 = code → code ≠ rOK →
    AnswersSettled (exec (.commit dt via c t) s) fun u => u.rows = s.rows ∧ u.dict.landing = [] ∧
      (u.window (winIdx c t)).status = code ∧ Output.status code ∈ u.out) ∧
  (∀ dt via c img s, s.Ready → c < 16 → (s.dom (domMeter c)).ack ≠ .off → (s.window (winIdx c 3)).row < 32768 →
    img = s.stagedImage c 3 → State.fieldsOk 3 img = true → State.meterOk img = true →
    AnswersSettled (exec (.commit dt via c 3) s) fun u => u.rows = s.rows ∧ Output.status rOK ∈ u.out ∧ u.dict.landing =
      [{ via := via.transport, eff := .row (winIdx c 3) (s.window (winIdx c 3)).row img false, tick := s.time.ticks }]) ∧
  (∀ dt l c row img byData s, s.dictRuns = true → s.dict.landing = [l] → l.eff = .row (winIdx c 3) row img byData → 1 ≤ s.ticksWaited l →
    c < 16 → s.isOn (domMeter c) = true → row < 32768 → img.length = 5 → State.fieldsOk 3 img = true → State.meterOk img = true →
    AnswersSettled (exec (.writeLanding dt []) s) fun u => u.dict.landing = [] ∧
      (∀ i, i < 5 → u.rowGet (winIdx c 3) (2 + i) row = img.getD i 0) ∧ (l.via ≠ .hinge → (u.window (winIdx c 3)).status = rOK)) ∧
  (∀ dt via c s e, s.Ready → c < 16 → s.isOn (domQueue c) = true → (s.window (winIdx c 0xA)).row < 65536 →
    (s.window (winIdx c 0xA)).part = [] → State.shutterRowOk e = true →
    AnswersSettled (exec (.dataRow dt via c 0xA [e]) s) fun u =>
      u.rowGet (winIdx c 0xA) 2 (s.window (winIdx c 0xA)).row = e ∧
      (u.window (winIdx c 0xA)).row = (s.window (winIdx c 0xA)).row + 1 ∧ (u.window (winIdx c 0xA)).status = rOK) ∧
  (∀ dt via c s, s.Ready → c < 16 → (s.window (winIdx c 3)).row < 32768 →
    AnswersSettled (exec (.settle dt via c) s) fun u => u.clusterRx = s.clusterRx ∧ Output.status rOK ∈ u.out ∧ u.dict.landing =
      [{ via := via.transport, eff := .strobe (winIdx c 3) 8 (s.window (winIdx c 3)).row, tick := s.time.ticks }]) ∧
  (∀ dt l c sub row s, s.dictRuns = true → s.dict.landing = [l] → l.eff = .strobe (winIdx c 3) sub row → 1 ≤ s.ticksWaited l →
    c < 16 → s.isOn (domMeter c) = true →
    AnswersSettled (exec (.writeLanding dt []) s) fun u => u.dict.landing = [] ∧
      u.meterSt c row = meterRefill (s.meterRow c row) (s.meterSt c row) (s.elapse dt).runTime) ∧
  (∀ dt l m c sub row img s, s.dictRuns = true → s.dict.landing = [l, m] → l.eff = .row (winIdx c 3) row img false →
    m.eff = .strobe (winIdx c 3) sub row → m.tick = l.tick → 1 ≤ s.ticksWaited l → c < 16 → s.isOn (domMeter c) = true → row < 32768 →
    img.length = 5 → State.fieldsOk 3 img = true → State.meterOk img = true → (s.meterRow c row).enable = true →
      (img.getD 0 0).bit 0 = true →
    (img.getD 0 0).bits 1 3 = (s.meterRow c row).alg →
    AnswersSettled (exec (.writeLanding dt []) s) fun u => u.dict.landing = [] ∧
      u.meterSt c row = meterRefill (s.meterRow c row) (s.meterSt c row) (s.elapse dt).runTime ∧
      ∀ i, i < 5 → u.rowGet (winIdx c 3) (2 + i) row = img.getD i 0) ∧
  (∀ dt via c t s, s.Ready → c < 16 → t ≤ 2 → (s.window (winIdx c t)).row < tableRows t →
    AnswersSettled (exec (.returnRow dt via c t) s) fun u => u.clusterTx = s.clusterTx ∧ Output.status rOK ∈ u.out ∧
      ∃ l, u.dict.landing = [l] ∧ l.eff = .strobe (winIdx c t) (if t = 2 then 8 else 9) (s.window (winIdx c t)).row ∧
        l.tick = s.time.ticks) ∧
  (∀ dt l c t sub row k s, s.dictRuns = true → s.dict.landing = [l] → l.eff = .strobe (winIdx c t) sub row → 1 ≤ s.ticksWaited l →
    c < 16 → t ≤ 2 → s.isOn (domQueue c) = true → k = State.schKey t row →
    AnswersSettled (exec (.writeLanding dt []) s) fun u => u.dict.landing = [] ∧ (u.sch c k).last = u.runTime ∧
      (u.sch c k).pend = none ∧ ∀ i, (s.sch c k).pend = some i → (u.sch c k).inst = i) ∧
  (∀ dt l c sub row env s, s.dictRuns = true → 2 ^ 21 ≤ (s.elapse dt).time.tickAt → s.dict.landing = [l] →
    l.eff = .strobe (winIdx c 3) sub row → l.tick = s.time.ticks → c < 16 → s.isOn (domMeter c) = true →
    Answers (exec (.managementTick dt env) s) fun u => u.dict.landing = [])

/-- INSERT places the entry for its key, DELETE removes it, and FLUSH removes what FLUSH_SEL matches. -/
def Obligations.DoorlistCommits : Prop :=
  (∀ dt via c mac ctrl m vid r s, s.Ready → c < 16 → mac.toNat < 2 ^ 48 → s.isOn (domLane c) = true →
    (s.window (winIdx c 5)).row < 65536 → State.doorOk [mac, ctrl.setBits 62 2 0] = true → ctrl.bit 61 = true → ctrl.bits 8 2 = 1 →
    m = beNat (leBytes 6 mac.toNat) → vid = ctrl.bits 40 12 → s.doorFind c m vid [0, 1, 2] = none →
    (s.doorWays c m vid).find? (fun w => (s.doorEntry c w).isNone) = some r →
    AnswersSettled (exec (.doorInsert dt via c mac ctrl) s) fun t =>
      t.doorEntry c r = some { mac := m, vid, kind := 1, port := ctrl.bits 0 6, ring := 0, mode := 0, hit := false, stale := false } ∧
      (t.window (winIdx c 5)).status = rOK) ∧
  (∀ dt via c mac ctrl m vid r e s, s.Ready → c < 16 → mac.toNat < 2 ^ 48 → s.isOn (domLane c) = true →
    (s.window (winIdx c 5)).row < 65536 → State.doorOk [mac, ctrl.setBits 62 2 1] = true →
    m = beNat (leBytes 6 mac.toNat) → vid = ctrl.bits 40 12 → s.doorFind c m vid [0, 1, 2] = some (r, e) →
    AnswersSettled (exec (.doorDelete dt via c mac ctrl) s) fun t => t.doorEntry c r = none ∧
      (t.window (winIdx c 5)).status = rOK ∧ ∀ w, w ≠ r → t.doorEntry c w = s.doorEntry c w) ∧
  (∀ dt via c s, s.Ready → c < 16 → s.flushBusy c = false →
    AnswersSettled (exec (.flush dt via c) s) fun t => t.flushBusy c = true ∧
      ∀ r e, t.doorEntry c r = some e → s.doorEntry c r = some e ∧ State.flushHits (s.regN (clIdx c 3) 0xD) e = false)

/-! ### Keys, tamper, entropy, attestation and adoption (R210–R223, R226, R228–R231, R233) -/

/-- LOAD and ERASE of a key slot and of a common slot: taken, or refused to a BDP master that sends a key in the clear, they land at the
second tick boundary (the model's choice of the moment within R214 and R220, assumption 5); then the flip of the banks, which moves the
generation by one; and ERASE_ALL. -/
def Obligations.KeySlots : Prop :=
  (∀ dt c row suite data k s, s.Ready → c < 16 → row < 4096 → suite < 4 → data.length = 7 → s.isOn domKeys = true → s.keys.latch = 0 →
    ((data.flatMap fun w : Word => leBytes 8 w.toNat).drop 48).all (· == 0) = true →
    imageKey suite false ((data.flatMap fun w : Word => leBytes 8 w.toNat).take 48) = some k →
    AnswersSettled (exec (.keyLoad dt .window c row suite false data) s) fun t => t.keys.slots = s.keys.slots ∧
      t.dict.landing = [{ via := .window, eff := .row (winIdx c 6) row (Word.ofNat suite :: data) false, tick := s.time.ticks }]) ∧
  (∀ dt via c row suite data kek im k s, s.Ready → c < 16 → row < 4096 → suite < 4 → data.length = 7 → s.isOn domKeys = true →
    s.keys.latch = 0 → s.commonKey 2 = some kek → kwUnwrap kek.key (data.flatMap fun w : Word => leBytes 8 w.toNat) = some im →
    imageKey suite false im = some k →
    AnswersSettled (exec (.keyLoad dt via c row suite true data) s) fun t => t.keys.slots = s.keys.slots ∧
      t.dict.landing = [
        { via := via.transport, eff := .row (winIdx c 6) row (Word.ofNat (suite + 16) :: data) false, tick := s.time.ticks }]) ∧
  (∀ dt via c row suite data s, s.Ready → via ≠ .window → c < 16 → row < 4096 → suite < 4 → data ≠ [] →
    AnswersSettled (exec (.keyLoad dt via c row suite false data) s) fun t => Output.status rLOCAL_ONLY ∈ t.out ∧
      t.keys.slots = s.keys.slots) ∧
  (∀ dt l c row img byData k s, s.dictRuns = true → s.dict.landing = [l] → l.eff = .row (winIdx c 6) row img byData →
    2 ≤ s.ticksWaited l → c < 16 → row < 4096 → s.isOn domKeys = true → s.keyAct false img true = .load k →
    AnswersSettled (exec (.writeLanding dt []) s) fun t =>
      (t.slot (4096 * c + row)).master = some k ∧ (t.slot (4096 * c + row)).flip = some k ∧
      (t.slot (4096 * c + row)).cur = (s.slot (4096 * c + row)).cur ∧ (t.slot (4096 * c + row)).gen = (s.slot (4096 * c + row)).gen) ∧
  (∀ dt c r k s, c < 16 → r < 4096 → (s.slot (4096 * c + r)).flip = some k → s.bankBusy c r = false → s.isOn (domCipher c) = true →
    s.clocked = true → s.masks.erased = false →
    Answers (exec (.keyBankFlip dt c r) s) fun t => (t.slot (4096 * c + r)).cur = some k ∧
      (t.slot (4096 * c + r)).prev = (s.slot (4096 * c + r)).cur ∧ (t.slot (4096 * c + r)).flip = none ∧
      (t.slot (4096 * c + r)).gen = ((s.slot (4096 * c + r)).gen + 1) % 256) ∧
  (∀ dt c r s, s.bankBusy (c % 16) (r % 4096) = true ∨ s.masks.erased = true →
    Answers (exec (.keyBankFlip dt c r) s) fun t => t = s.elapse dt) ∧
  (∀ dt via c row s, s.Ready → c < 16 → row < 4096 → s.isOn domKeys = true →
    AnswersSettled (exec (.keyErase dt via c row) s) fun t => t.keys.slots = s.keys.slots ∧ Output.status rOK ∈ t.out ∧
      ∃ l img, t.dict.landing = [l] ∧ l.eff = .row (winIdx c 6) row img false ∧ l.tick = s.time.ticks ∧ keyOp img = 1) ∧
  (∀ dt l c row s, s.dictRuns = true → s.dict.landing = [l] →
    (∃ img byData, l.eff = .row (winIdx c 6) row img byData ∧ s.keyAct false img true = .erase) ∨
      (∃ suite, l.eff = .wrappedKey (winIdx c 6) row suite none) →
    2 ≤ s.ticksWaited l → c < 16 → row < 4096 → s.isOn domKeys = true →
    AnswersSettled (exec (.writeLanding dt []) s) fun t => (t.slot (4096 * c + row)).master = none ∧
      (t.slot (4096 * c + row)).cur = none ∧ (t.slot (4096 * c + row)).prev = none ∧ (t.slot (4096 * c + row)).flip = none ∧
      (t.slot (4096 * c + row)).gen = ((s.slot (4096 * c + row)).gen + 1) % 256) ∧
  (∀ dt via img k s, s.Ready → img = ((List.range 8).map fun i => SMap.get 0 s.keys.stage (0x11 + i)) → s.keyAct true img true = .load k →
    AnswersSettled (exec (.ckeyCommit dt via) s) fun t => t.keys.common = s.keys.common ∧ Output.status rOK ∈ t.out ∧
      t.dict.landing = [{ via := via.transport, eff := .ckey (s.regN 0x0600 0x10) img, tick := s.time.ticks }]) ∧
  (∀ dt l sel img k s, s.dictRuns = true → s.dict.landing = [l] → l.eff = .ckey sel img → 2 ≤ s.ticksWaited l → s.isOn domKeys = true →
    s.keyAct true img true = .load k →
    AnswersSettled (exec (.writeLanding dt []) s) fun t => t.commonKey sel = some k ∧
      (sel = s.regN 0x0200 6 → t.dict.rxSeq = 0 ∧ t.dict.txSeq = 0)) ∧
  (∀ dt via s, s.Ready → AnswersSettled (exec (.eraseAll dt via) s) fun t => t.anyKey = false ∧ t.keys.alarm.bit 2 = true ∧
    t.masks = {})

/-- A tamper input that falls erases every key and latches; TAMPER_CLR clears the latch bits whose input is high. -/
def Obligations.TamperInputs : Prop :=
  (∀ dt n s, n < 4 → s.keys.live.testBit n = false →
    AnswersSettled (exec (.tamper dt n) s) fun t => t.anyKey = false ∧ t.keys.latch.testBit n = true ∧ t.keys.live.testBit n = true ∧
      t.keys.alarm.bit 0 = true ∧ t.keys.last.toNat = (s.elapse dt).devTime) ∧
  (∀ dt n s, n < 4 → Answers (exec (.tamperInputHigh dt n) s) fun t => t.keys.live.testBit n = false ∧ t.keys.latch = s.keys.latch) ∧
  (∀ dt via v s, s.Ready → v.toNat < 16 →
    AnswersSettled (exec (.tamperClr dt via v) s) fun t => ∀ i, i < 4 →
      t.keys.latch.testBit i = (s.keys.latch.testBit i && !(v.bit i && !s.keys.live.testBit i))) ∧
  (∀ dt via v s, s.Ready → v.toNat < 2 ^ 32 →
    AnswersSettled (exec (.keyAlarmClr dt via v) s) fun t => t.keys.alarm = s.keys.alarm &&& ~~~v)

/-- The entropy source's tests, attestation and adoption. -/
def Obligations.IdentityAndEntropy : Prop :=
  (∀ dt via s, s.Ready →
    AnswersSettled (exec (.trngRestart dt via) s) fun t =>
      t.keys.trng = if s.keys.trng = .failed then .startup else s.keys.trng) ∧
  (∀ dt bits s, s.keys.trng = .startup → s.isOn domTrng = true → bits.length = 1024 →
    rctFails (s.regN 0x0600 0x22) (0, false) bits = false → aptFails (s.regN 0x0600 0x23) bits = false →
    Answers (exec (.trngStartupDone { dt, bits }) s) fun t => t.keys.trng = .running) ∧
  (∀ dt apt bits s, s.keys.trng ≠ .failed → s.isOn domTrng = true →
    (if apt then aptFails (s.regN 0x0600 0x23) bits else rctFails (s.regN 0x0600 0x22) (0, false) bits) = true →
    Answers (exec (.trngTestFail dt { apt, bits }) s) fun t =>
      t.keys.trng = (if 2 ≤ (s.keys.trngFails.filter fun a => (s.elapse dt).since a ≤ 2 ^ 36).length then .failed else .startup) ∧
      t.ctr 0x0600 (if apt then 0x25 else 0x24) = s.ctr 0x0600 (if apt then 0x25 else 0x24) + 1) ∧
  (∀ dt via v s, s.Ready →
    AnswersSettled (exec (.attestNonce dt via v) s) fun t =>
      if s.keys.nonce.length < 24 then t.keys.nonce = s.keys.nonce ++ leBytes 8 v.toNat ∧ t.keys.attest = s.keys.attest
      else t.keys.nonce = [] ∧ t.keys.attest = .busy) ∧
  (∀ dt s, s.keys.attest = .busy → s.isOn domKeys = true →
    Answers (exec (.attestReady dt) s) fun t => t.keys.attest = .ready ∧
      t.keys.report = s.keys.signing ++ sigBytes (sha256 s.keys.signing)) ∧
  (∀ dt via s, s.Ready → s.keys.adopted = false → s.keys.adoptCheck = identityCheck identityPub →
    AnswersSettled (exec (.adopt dt via) s) fun t => t.keys.adopted = true ∧
      t.twin.role = if !s.paired || s.twin.selMine then .active else .orphan)

/-! ### Events (R509–R511, R515–R530) -/

/-- A bank's strobes act on the sources whose bits are 1 and leave the others. -/
def Obligations.EventBanks : Prop :=
  ∀ dt via b v s, s.Ready → b < 64 → s.regB 0x0700 0x10 = false → s.isOn domEvt = true →
    AnswersSettled (exec (.pendingSet dt via b v) s) (fun t => ∀ i, i < 64 →
      (v.bit i = true → isSource (64 * b + i) = true → (s.src (64 * b + i)).st = .idle →
        (t.src (64 * b + i)).st = .pending ∧ (t.src (64 * b + i)).data = 0) ∧
      (v.bit i = false → t.src (64 * b + i) = s.src (64 * b + i))) ∧
    AnswersSettled (exec (.pendingClr dt via b v) s) (fun t => ∀ i, i < 64 →
      (v.bit i = true → isSource (64 * b + i) = true → isLevel (64 * b + i) = false →
        (t.src (64 * b + i)).st ≠ .pending ∧ (t.src (64 * b + i)).st ≠ .activePending ∧
        ((s.src (64 * b + i)).st = .activePending → (t.src (64 * b + i)).st = .active)) ∧
      (v.bit i = false → t.src (64 * b + i) = s.src (64 * b + i))) ∧
    AnswersSettled (exec (.maskSet dt via b v) s) (fun t => ∀ i, i < 64 → isSource (64 * b + i) = true →
      t.src (64 * b + i) = { s.src (64 * b + i) with mask := v.bit i || (s.src (64 * b + i)).mask }) ∧
    AnswersSettled (exec (.maskClr dt via b v) s) (fun t => ∀ i, i < 64 → isSource (64 * b + i) = true →
      t.src (64 * b + i) = { s.src (64 * b + i) with mask := !v.bit i && (s.src (64 * b + i)).mask }) ∧
    AnswersSettled (exec (.latchFiredClr dt via v) s) (fun t => t.ev.fired = s.ev.fired &&& ~~~v)

/-- ENTER and EXIT move the running-priority stack or count a fault; DONE ends a claimed delivery or counts a spurious one. -/
def Obligations.TargetStrobes : Prop :=
  ∀ dt t v s, s.Ready → t < 32 →
    (v.toNat ≤ 7 → AnswersSettled (exec (.enterBand dt .window t v) s) fun u =>
      if s.runningPrio t = 8 ∨ s.runningPrio t < v.toNat then (u.tgt t).stack = v.toNat :: (s.tgt t).stack
      else (u.tgt t).stack = (s.tgt t).stack ∧ u.ctr (0x6000 + 0x80 * t) 0xA = s.ctr (0x6000 + 0x80 * t) 0xA + 1) ∧
    (v.toNat ≤ 7 → AnswersSettled (exec (.exitBand dt .window t v) s) fun u =>
      if (s.tgt t).stack.head? = some v.toNat then (u.tgt t).stack = (s.tgt t).stack.tail
      else (u.tgt t).stack = (s.tgt t).stack ∧ u.ctr (0x6000 + 0x80 * t) 0xA = s.ctr (0x6000 + 0x80 * t) 0xA + 1) ∧
    (v.toNat < 65536 → isLevel v.toNat = false → AnswersSettled (exec (.doneWrite dt .window t v) s) fun u =>
      if s.srcActive v.toNat = true ∧ (s.src v.toNat).owner = some t then
        (u.src v.toNat).owner = none ∧
        (u.src v.toNat).st = if (s.src v.toNat).st = .activePending then .pending else .idle
      else u.ev = s.ev ∧ u.ctr (0x6000 + 0x80 * t) 0xB = s.ctr (0x6000 + 0x80 * t) 0xB + 1)

/-- Band rings: enabling empties one, REC_HEAD frees what was read, REC_COAL releases, COAL_TIME releases, and an error response
disables. -/
def Obligations.BandRings : Prop :=
  (∀ dt via t b s, s.Ready → t < 32 → b < 8 → s.recOk t b = true →
    AnswersSettled (exec (.recEnable dt via t b 1) s) fun u => u.bandRing t b = {} ∧ u.regB (State.bIdx t b) 1 = true) ∧
  (∀ dt via t b s, s.Ready → t < 32 → b < 8 →
    AnswersSettled (exec (.recEnable dt via t b 0) s) fun u => u.bandRing t b = s.bandRing t b ∧ u.regB (State.bIdx t b) 1 = false) ∧
  (∀ dt t b v s, s.Ready → t < 32 → b < 8 → v.toNat < 65536 → v.toNat < s.recSize t b →
    AnswersSettled (exec (.recHeadWrite dt .window t b v) s) fun u => (u.bandRing t b).head = v.toNat ∧
      (u.bandRing t b).tail = (s.bandRing t b).tail ∧
      (v.toNat = (s.bandRing t b).tail → (u.bandRing t b).gathered = 0 ∧ (u.reg (State.bIdx t b) 7).bit 62 = false)) ∧
  (∀ dt via t b v s, s.Ready → t < 32 → b < 8 → v.toNat % 65536 ≠ 0 → v &&& 0xBFF0000000000000 = 0 →
    (s.bandRing t b).tail = (s.bandRing t b).head → (s.bandRing t b).gathered = 0 →
    AnswersSettled (exec (.recCoalWrite dt via t b v) s) fun u => u.reg (State.bIdx t b) 7 = v) ∧
  (∀ dt via t b v s, s.Ready → t < 32 → b < 8 → v.toNat % 65536 ≠ 0 → v.bit 63 = true →
    (s.bandRing t b).tail < s.recSize t b → (s.bandRing t b).head < s.recSize t b → (s.bandRing t b).tail ≠ (s.bandRing t b).head →
    AnswersSettled (exec (.recCoalWrite dt via t b v) s) fun u => (u.reg (State.bIdx t b) 7).bit 62 = true) ∧
  (∀ dt t b s, s.isOn domEvt = true → s.regB (State.bIdx t b) 1 = true → (s.reg (State.bIdx t b) 7).bit 62 = false →
    0 < (s.bandRing t b).gathered → (s.reg (State.bIdx t b) 7).bits 16 36 ≠ 0 →
    (s.reg (State.bIdx t b) 7).bits 16 36 ≤ (s.elapse dt).since (s.bandRing t b).gatherAt →
    Answers (exec (.coalTimeout dt t b) s) fun u => (u.reg (State.bIdx t b) 7).bit 62 = true) ∧
  (∀ dt t b e s, t < 32 → b < 8 → s.isOn domEvt = true → s.regB (State.bIdx t b) 1 = true → (s.bandRing t b).seq ≠ 0 →
    (s.bandRing t b).lastSrc = e → (s.src e).got = [t] → s.srcActive e = true →
    Answers (exec (.recordWriteError dt t b) s) fun u => u.regB (State.bIdx t b) 1 = false ∧ (u.src e).st = .pending ∧
      (u.bandRing t b).tail = ((s.bandRing t b).tail + s.recSize t b - 1) % s.recSize t b ∧
      u.ctr 0x0700 1 = s.ctr 0x0700 1 + 1)

/-- A delivery takes the best pending unmasked source that a target can take: the highest PRIORITY, then the lowest number. It
becomes ACTIVE, and each target chosen has one more record. -/
def Obligations.EventDelivery : Prop :=
  ∀ dt e s, s.isOn domEvt = true → s.clocked = true → SMap.rising s.ev.sources = true → (s.src e).st = .pending →
    (s.src e).mask = false → s.chosen e ≠ [] →
    Answers (exec (.eventDelivery dt) s) fun t => ∃ b, (s.src b).st = .pending ∧ (s.src b).mask = false ∧ s.chosen b ≠ [] ∧
      ((s.reg (0x5000 + e) 1).bits 0 3 < (s.reg (0x5000 + b) 1).bits 0 3 ∨
        (s.reg (0x5000 + e) 1).bits 0 3 = (s.reg (0x5000 + b) 1).bits 0 3 ∧ b ≤ e) ∧
      (t.src b).st = .active ∧ (t.src b).data = 0 ∧ (t.src b).got = s.chosen b ∧ t.ctr 0x0700 3 = s.ctr 0x0700 3 + 1 ∧
      ∀ g ∈ s.chosen b, (t.bandRing g (s.bandOf g ((s.reg (0x5000 + b) 1).bits 0 3))).seq
        = (s.bandRing g (s.bandOf g ((s.reg (0x5000 + b) 1).bits 0 3))).seq + 1

/-! ### Roles and the swing (R44, R46, R427, R429, R430, R451, R452) -/

/-- DEMOTE, REINSTATE and the level of sel_mine move the role; an ACTIVE complex that is demoted gives every port's lanes away, and
wdx_release stays asserted until sel_mine falls (R46). -/
def Obligations.Roles : Prop :=
  (∀ dt via s, s.Ready → s.twin.role = .active ∨ s.twin.role = .standby ∨ s.twin.role = .orphan →
    AnswersSettled (exec (.demote dt via) s) fun t => t.twin.role = .demoted ∧ t.twin.release = true ∧
      (s.twin.role = .active → ∀ p, (t.portTxOf p).ownPcs = false) ∧ t.ctr 0x0500 0x2C = s.ctr 0x0500 0x2C + 1) ∧
  (∀ dt via s, s.Ready → s.twin.role = .demoted → (s.elapse dt).faults = 0 →
    AnswersSettled (exec (.reinstate dt via) s) fun t => t.twin.role = (if s.paired then .orphan else .active) ∧
      t.twin.release = (s.paired && s.twin.release && s.twin.selMine)) ∧
  (∀ dt s, s.twin.role = .standby ∨ s.twin.role = .orphan →
    AnswersSettled (exec (.selMineRise dt) s) fun t => t.twin.role = .active ∧ t.twin.selMine = true ∧ t.twin.request = false ∧
      t.ctr 0x0500 0x2B = s.ctr 0x0500 0x2B + 1) ∧
  (∀ dt s, s.twin.role = .active → s.paired = true →
    Answers (exec (.selMineFall dt) s) fun t => t.twin.role = .demoted ∧ t.twin.selMine = false ∧ t.twin.release = true ∧
      ∀ p, (t.portTxOf p).ownPcs = false)

/-- What wdx_alive and wdx_request follow. -/
def Obligations.SwingPins : Prop :=
  (∀ dt s, s.twin.role = .active → 2 ^ 19 ≤ (s.elapse dt).since s.twin.aliveAt →
    Answers (exec (.wdxAliveToggle dt) s) fun t => t.twin.alive = !s.twin.alive ∧ t.twin.aliveAt = (s.elapse dt).runTime) ∧
  (∀ dt s, s.twin.role ≠ .active → Answers (exec (.wdxAliveToggle dt) s) fun t => t.twin.alive = s.twin.alive) ∧
  (∀ dt s, s.twin.role = .standby ∨ s.twin.role = .orphan → s.twin.selMine = false → s.twin.request = false →
    5 * 2 ^ 19 ≤ (s.elapse dt).since s.twin.peerAliveAt →
    Answers (exec (.peerAliveTimeout dt) s) fun t => t.twin.request = true ∧ t.twin.toggles = 0 ∧ t.twin.role = s.twin.role) ∧
  (∀ dt s, s.twin.request = false →
    Answers (exec (.peerAliveToggle dt) s) fun t => t.twin.peerAlive = !s.twin.peerAlive ∧
      t.twin.peerAliveAt = (s.elapse dt).runTime ∧ t.twin.request = false ∧ t.twin.role = s.twin.role) ∧
  (∀ dt s, s.twin.request = true → s.twin.toggles = 0 →
    Answers (exec (.peerAliveToggle dt) s) fun t => t.twin.request = true ∧ t.twin.toggles = 1) ∧
  (∀ dt s, s.twin.request = true → s.twin.toggles = 1 →
    Answers (exec (.peerAliveToggle dt) s) fun t => t.twin.request = false ∧ t.twin.peerAlive = !s.twin.peerAlive) ∧
  (∀ dt path s, s.hingeTakes path = true → s.twin.role = .standby ∨ s.twin.role = .orphan →
    Answers (exec (.demotingRx dt path true) s) fun t => t.twin.request = true ∧ t.twin.role = s.twin.role)

/-! ### The Hinge (R431–R436) -/

/-- HELLO and HELLO_ACK bring a path up or leave it refused; a refused path is tried again after its hold-off; HINGE_ENABLE opens
and closes the Hinge. -/
def Obligations.HingePaths : Prop :=
  (∀ dt path s, s.hingeRuns = true → s.paired = true → (s.path path).st = .down ∨ (s.path path).st = .hello →
    (s.path path).nonce = none →
    Answers (exec (.helloTx dt path) s) fun t => ∃ h : Hello, t.out = [.hinge path (.hello h) none] ∧ (t.path path).st = .hello ∧
      (t.path path).nonce = some h.nonce ∧ h.nonce.length = 32 ∧ h.versions = hingeVersions ∧ h.pub = identityPub ∧
      h.deviceId = s.regN 0x0100 3 ∧ h.role = s.twin.role.code ∧ t.path (!path) = s.path (!path)) ∧
  (∀ dt path h s, s.hingeRuns = true →
    Answers (exec (.helloRx dt path true h) s) fun t => (t.path path).peer = some h ∧ (t.path path).st = (s.path path).st ∧
      t.out = [.hinge path (.helloAck h.nonce (sigBytes (ackDigest h.nonce identityPub hingeVersions)) 0) none] ∧
      (t.path path).txSeq = ((s.path path).txSeq + 1) % 2 ^ 32) ∧
  (∀ dt path h s, s.hingeRuns = true →
    Answers (exec (.helloRx dt path false h) s) fun t => t.twin = s.twin ∧ t.out = [] ∧
      t.ctr 0x0500 0x28 = s.ctr 0x0500 0x28 + 1) ∧
  (∀ dt path n sig held h version s, s.hingeRuns = true → (s.path path).peer = some h → (s.path path).nonce = some n →
    (s.path path).st = .hello → version = topVersion (hingeVersions &&& h.versions) →
    Answers (exec (.helloAckRx dt path true n sig held) s) fun t =>
      if version ≠ 0 ∧ Config.ecdsaVerify h.pub (ackDigest n h.pub h.versions) sig = true ∧
          (s.reg 0x0500 9 = 0 ∨ s.reg 0x0500 9 = identityCheck h.pub) ∧
          ((s.elapse dt).since (s.path path).helloAt - held) / 2 ≤ 2 ^ 16 ∧
          (s.pathUp (!path) = true → (s.path (!path)).version = version) then
        (t.path path).st = .up ∧ (t.path path).version = version ∧ t.keys.peerHash = identityCheck h.pub ∧
          (t.path path).delay = ((s.elapse dt).since (s.path path).helloAt - held) / 2
      else (t.path path).st = .refused ∧ (t.path path).refusedAt = (s.elapse dt).runTime ∧ t.keys.peerHash = s.keys.peerHash) ∧
  (∀ dt path s, (s.path path).st = .refused → 2 ^ 36 ≤ (s.elapse dt).since (s.path path).refusedAt →
    Answers (exec (.refusedPathHoldoffEnd dt path) s) fun t => (t.path path).st = .down) ∧
  (∀ dt via s, s.Ready → s.twin.hinge = .closed → s.paired = true → s.isOn domHinge = true →
    AnswersSettled (exec (.hingeEnable dt via 1) s) fun t => t.twin.hinge = .opening ∧ t.regB 0x0500 3 = true) ∧
  (∀ dt via s, s.Ready → s.twin.hinge = .opened →
    AnswersSettled (exec (.hingeEnable dt via 0) s) fun t => t.twin.hinge = .closing ∧ t.twin.pathA = {} ∧ t.twin.pathB = {} ∧
      t.regB 0x0500 3 = false)

/-- Heartbeats and the peer's health word. -/
def Obligations.Heartbeats : Prop :=
  (∀ dt path s, s.hingeTakes path = true → 2 ^ 21 ≤ (s.elapse dt).since (s.path path).sentAt →
    Answers (exec (.heartbeatTx dt path) s) fun t =>
      t.out = [.hinge path (.heartbeat (s.elapse dt).devTime (s.path path).peerSent (s.path path).arrived) none] ∧
      t.path path = { s.path path with sentAt := (s.elapse dt).runTime, txSeq := ((s.path path).txSeq + 1) % 2 ^ 32 }) ∧
  (∀ dt path sent peerSent arrived s, s.hingeTakes path = true →
    Answers (exec (.heartbeatRx dt path true sent peerSent arrived) s) fun t =>
      (t.path path).beatAt = (s.elapse dt).runTime ∧ (t.path path).missed = 0 ∧ (t.path path).peerSent = sent ∧
      (t.path path).arrived = (s.elapse dt).devTime ∧ (t.path path).st = .up ∧
      (peerSent ≠ 0 → t.twin.offsets = ((((arrived : Int) - peerSent) - (((s.elapse dt).devTime : Int) - sent)) / 2 ::
        s.twin.offsets).take 16) ∧
      (peerSent = 0 → t.twin.offsets = s.twin.offsets)) ∧
  (∀ dt path s, s.hingeTakes path = true → 2 ^ 23 ≤ (s.elapse dt).since (s.path path).beatAt →
    Answers (exec (.heartbeatTimeout dt path) s) fun t => (t.path path).st = .down ∧ (t.path path).nonce = none ∧
      (s.pathUp (!path) = true → t.twin.peerLost = s.twin.peerLost ∧ t.path (!path) = s.path (!path)) ∧
      (s.pathUp (!path) = false → t.twin.peerLost = true ∧ (s.twin.role = .standby → t.twin.request = true))) ∧
  (∀ dt path w s, s.hingeTakes path = true →
    AnswersSettled (exec (.healthRx dt path true w) s) fun t => t.twin.peerHealth = w ∧ t.twin.peerHealthTick = some s.time.ticks)

/-! ### The mirror stream (R350, R437–R442) -/

/-- Acknowledgements free the store; writes, items and marks are taken in their turn; a resync starts and ends. -/
def Obligations.MirrorStream : Prop :=
  (∀ dt s, s.hingeRuns = true → s.twin.role ≠ .active → s.twin.role ≠ .unadopted → s.twin.seq ≠ s.twin.ackSent →
    s.sendPaths ≠ [] →
    Answers (exec (.mirrorAckTx dt) s) fun t => t.twin.ackSent = s.twin.seq ∧
      t.out = s.sendPaths.map fun b => .hinge b (.mirrorAck s.twin.seq) none) ∧
  (∀ dt path n s, s.hingeTakes path = true → s.twin.role = .active → n ≤ s.twin.seq → s.twin.acked ≤ n →
    Answers (exec (.mirrorAckRx dt path true n) s) fun t => t.twin.acked = n ∧
      ∀ e, e ∈ t.twin.store ↔ e ∈ s.twin.store ∧ n < e.1) ∧
  (∀ dt path p v n s, s.hingeTakes path = true → s.twin.role = .standby ∨ s.twin.role = .orphan ∨ s.twin.role = .demoted →
    s.dictRuns = true → s.dict.landing = [] → s.twin.hold = [] → n = s.twin.seq + 1 → p < 1024 → v.toNat < 2 ^ 48 →
    AnswersSettled (exec (.mirrorRx dt path true n (.obj (0x1000 + p) 0x0B v none)) s) (fun t => t.twin.seq = n ∧
      t.reg (0x1000 + p) 0x0B = v ∧ t.twin.hold = []) ∧
    AnswersSettled (exec (.resyncItemRx dt path true n (.obj (0x1000 + p) 0x0B v none)) s) (fun t => t.twin.seq = n ∧
      t.reg (0x1000 + p) 0x0B = v ∧ t.twin.resync = .receiving)) ∧
  (∀ dt path p tc n w s, s.hingeTakes path = true → s.twin.role = .standby ∨ s.twin.role = .orphan ∨ s.twin.role = .demoted →
    s.dictRuns = true → s.twin.hold = [] → n = s.twin.seq + 1 → (s.shut p).pend = some w → w.latched = none →
    AnswersSettled (exec (.latchMarkRx dt path true n p tc) s) fun t => t.twin.seq = n ∧
      ((s.elapse dt).devTime + 2 ^ 19 ≤ tc →
        (∀ r ∈ s.adminRows p, 1024 ≤ entInterval (s.rowGet (winIdx (p / 64) 0xA) 2 r) ∧ r ∉ (s.clTx (p / 64)).badRows) →
        ∃ l, (t.shut p).pend = some { w with latched := some l } ∧
          l.entries = (s.adminRows p).map (s.rowGet (winIdx (p / 64) 0xA) 2)) ∧
      (tc < (s.elapse dt).devTime + 2 ^ 19 → (t.shut p).pend = none ∧ (t.shut p).cause.bit 1 = true)) ∧
  (∀ dt path n d final s, s.hingeTakes path = true → s.twin.role = .standby ∨ s.twin.role = .orphan ∨ s.twin.role = .demoted →
    s.dictRuns = true → s.dict.landing = [] → s.twin.hold = [] → n = s.twin.seq + 1 →
    AnswersSettled (exec (.digestMarkRx dt path true n d final) s) fun t => t.twin.seq = n ∧ t.twin.peerDigest = d ∧
      t.twin.diverged = (s.configDigest != d) ∧ t.twin.marked = (s.configDigest == d)) ∧
  (∀ dt via s, s.Ready → s.twin.role = .active →
    AnswersSettled (exec (.resync dt via) s) fun t => t.twin.resync = .sending) ∧
  (∀ dt s, s.twin.role = .active → s.twin.resync = .sending →
    Answers (exec (.resyncComplete dt) s) fun t => t.twin.resync = .idle ∧ t.twin.lost = false)

/-! ### Comparisons and self-test (R443, R444, R449, R451) -/

/-- An express mismatch is counted and decides the roles; bulk records set their base, then count a lasting difference; records
expire. -/
def Obligations.Comparisons : Prop :=
  (∀ dt path r o s, s.hingeTakes path = true → r.port < 1024 → s.regB 0x0700 0x10 = false →
    s.twin.ownRecs.find? (fun o => o.r.port == r.port && o.r.cycle == r.cycle) = some o → o.done = false →
    o.r.sum ≠ r.sum ∨ o.r.count ≠ r.count → r.pn.valid = false →
    Answers (exec (.expressRecordRx dt path true r) s) fun t => t.ctr 0x0500 0x21 = s.ctr 0x0500 0x21 + 1 ∧
      (s.twin.mismatch = 0 → t.twin.mismatch = Word.ofNat (2 ^ 63 + 2 ^ 60 + o.r.port % 1024 * 2 ^ 48 + o.r.cycle % 2 ^ 48)) ∧
      ((s.elapse dt).faults ≠ 0 → s.twin.role = .standby ∨ s.twin.role = .orphan → t.twin.role = .demoted) ∧
      ((s.elapse dt).faults ≠ 0 → s.twin.role = .active →
        t.twin.role = if (s.elapse dt).peerWord.map State.wordFault = some false then .demoted else .active) ∧
      ((s.elapse dt).faults = 0 → t.twin.role = s.twin.role) ∧
      ((s.elapse dt).faults = 0 → (s.elapse dt).peerWord.map State.wordFault = some false →
        s.twin.role = .active ∨ s.twin.role = .standby ∨ s.twin.role = .orphan →
        t.ctr 0x0500 0x25 = s.ctr 0x0500 0x25 + 1)) ∧
  (∀ dt n s, s.hingeRuns = true → ((s.elapse dt).devTime - 2 ^ 20) / 2 ^ 24 = n + 1 → s.twin.bulkDone ≠ some n →
    (∀ p, (SMap.get {} s.twin.bulk p).peer = none) →
    Answers (exec (.bulkIntervalEnd dt) s) fun t => t.twin.bulkDone = some n ∧
      ∀ p, (s.port p).st = .opened → ∃ r, (SMap.get {} t.twin.bulk p).own = some r ∧ r.port = p ∧ r.interval = n % 2 ^ 32 ∧
        r.frames = (SMap.get {} s.twin.bulk p).frames ∧ r.octets = (SMap.get {} s.twin.bulk p).octets) ∧
  (∀ dt path r o s, s.hingeTakes path = true → r.port < 1024 → (s.port r.port).st = .opened →
    (SMap.get {} s.twin.bulk r.port).own = some o → o.interval = r.interval → o.port = r.port → r.frames < 2 ^ 48 → r.octets < 2 ^ 48 →
    (SMap.get {} s.twin.bulk r.port).fresh = true →
    Answers (exec (.bulkRecordRx dt path true r) s) fun t => (SMap.get {} t.twin.bulk r.port).fresh = false ∧
      (SMap.get {} t.twin.bulk r.port).own = none ∧
      ((SMap.get {} t.twin.bulk r.port).baseF + r.frames) % 2 ^ 48 = o.frames % 2 ^ 48 ∧
      ((SMap.get {} t.twin.bulk r.port).baseO + r.octets) % 2 ^ 48 = o.octets % 2 ^ 48) ∧
  (∀ dt path r o b s, s.hingeTakes path = true → r.port < 1024 → (s.port r.port).st = .opened →
    b = SMap.get {} s.twin.bulk r.port → b.own = some o → o.interval = r.interval → o.port = r.port →
    b.fresh = false → b.run + 1 = s.regN 0x0500 0x1C →
    s.regN 0x0500 0x1A < (signed48 (o.frames + (2 ^ 49 - r.frames % 2 ^ 48 - b.baseF))).natAbs →
    Answers (exec (.bulkRecordRx dt path true r) s) fun t => (SMap.get {} t.twin.bulk r.port).run = 0 ∧
      t.ctr 0x0500 0x22 = s.ctr 0x0500 0x22 + 1) ∧
  (∀ dt s, Answers (exec (.recordExpiry dt) s) fun t =>
    ∀ e, e ∈ t.twin.ownRecs ↔ e ∈ s.twin.ownRecs ∧ (s.elapse dt).since e.at_ < 2 ^ 26)

/-- The march tests take the spare at the first failure and set SELFTEST_FAULT at a later one; a comparator of paired logic sets
PAIRED_FAULT. -/
def Obligations.SelfTest : Prop :=
  (∀ dt unit bank last s, s.isOn domStest = true → s.clocked = true → s.regB 0x0500 0x30 = true → unit < 17 → bank < 65536 →
    AnswersSettled (exec (.stestBankTest dt unit bank false last) s) fun t =>
      if s.twin.spares.bit unit then
        t.twin.spares = s.twin.spares.setBit unit false ∧ t.twin.selftestFault = s.twin.selftestFault ∧
          t.twin.stestCapture = Word.ofNat (2 ^ 31 + unit * 2 ^ 16 + bank)
      else t.twin.selftestFault = true ∧ t.twin.spares = s.twin.spares) ∧
  (∀ dt unit bank s, s.isOn domStest = true → s.clocked = true → s.regB 0x0500 0x30 = true → unit < 17 →
    AnswersSettled (exec (.stestBankTest dt unit bank true true) s) fun t => t.twin.spares = s.twin.spares ∧
      t.twin.selftestFault = s.twin.selftestFault ∧ t.ctr 0x0500 0x31 = s.ctr 0x0500 0x31 + 1) ∧
  (∀ dt c u s, c < 17 → u < 4 →
    AnswersSettled (exec (.pairedComparatorFire dt c u) s) fun t => t.twin.pairedFault = true ∧
      t.twin.pairedCapture = Word.ofNat (2 ^ 31 + c * 2 ^ 16 + u))

/-! ### DMA rings (R480–R504) -/

/-- RING_ENABLE opens a CLOSED ring that passes its checks, refuses one that does not, and closes an OPEN one; CLOSING ends; a
doorbell hands descriptors over; RING_CAUSE_CLR clears what is written as 1. -/
def Obligations.RingControl : Prop :=
  (∀ dt via r s, s.Ready → r < 256 → (s.ring r).st = .closed →
    AnswersSettled (exec (.ringEnable dt via r 1) s) fun t => t.regB (0x0800 + r) 1 = true ∧
      if s.ringOk r then t.ring r = { st := .opening, cause := (s.ring r).cause }
      else t.ring r = { s.ring r with cause := (s.ring r).cause.setBit 5 true }) ∧
  (∀ dt via r s, s.Ready → r < 256 → (s.ring r).st = .opened →
    AnswersSettled (exec (.ringEnable dt via r 0) s) fun t => t.regB (0x0800 + r) 1 = false ∧
      t.ring r = { s.ring r with st := .closing, enLatched := none }) ∧
  (∀ dt r s, (s.ring r).st = .closing → s.ringIdle r = true → (s.ring r).enLatched ≠ some true →
    Answers (exec (.ringCloseDone dt r) s) fun t => t.ring r = { cause := (s.ring r).cause.setBit 6 true }) ∧
  (∀ dt r s, (s.ring r).st = .closing → s.ringIdle r = true → (s.ring r).enLatched = some true → s.ringOk r = true →
    Answers (exec (.ringCloseDone dt r) s) fun t => t.ring r = { st := .opening, cause := (s.ring r).cause.setBit 6 true }) ∧
  (∀ dt r v s, s.Ready → r < 256 → (s.ring r).st = .opened → v.toNat < s.ringSize r → v.toNat < 65536 →
    AnswersSettled (exec (.tailDoorbell dt .window r v) s) fun t =>
      t.ring r = { s.ring r with tail := v.toNat, door := true, idle := false }) ∧
  (∀ dt via r v s, s.Ready → r < 256 → v.toNat < 2 ^ 32 →
    AnswersSettled (exec (.ringCauseClr dt via r v) s) fun t =>
      t.ring r = { s.ring r with cause := (s.ring r).cause &&& ~~~v } ∧ ∀ q, q ≠ r → t.ring q = s.ring q)

/-- A whole chain of a CORE ring joins the skid of its port's cluster with its FCS; one of a DIRECT ring joins the inject buffer of its
port; either waits in the transmit staging while there is no room (R34, R497, R498). -/
def Obligations.DescriptorFrames : Prop :=
  (∀ dt r ds u d rest x p s, State.isTxRing r = true → r < 256 → s.regN (0x0800 + r) 5 = 0 → (s.ring r).st = .opened →
    s.quarterRuns (r / 64) = true → (s.elapse dt).mayGo r = true → ((s.elapse dt).takeTurn r).nextTx r = (.chain ds, u) →
    ds = d :: rest → d.isFirst = true → x = (u.chainFrame r ds).1 → 14 ≤ x.length → x.length ≤ 16124 → p = s.regN (0x0800 + r) 9 →
      (s.port p).st = .closed →
    s.isOn (domLane (p / 64)) = true →
    Answers (exec (.descFrameCore dt r) s) fun t =>
      if roundUp (x.length + 4) 64 ≤ s.skidFree (p / 64) then
        ∃ f : SkidFrame, (t.clRx (p / 64)).skid = (s.clRx (p / 64)).skid ++ [f] ∧ f.bytes = x ++ fcsOf x ∧ f.port = p ∧ f.fin = .good
      else t = u) ∧
  (∀ dt r ds u d rest x p s, State.isTxRing r = true → r < 256 → s.regN (0x0800 + r) 5 = 1 → (s.ring r).st = .opened →
    s.quarterRuns (r / 64) = true → (s.elapse dt).mayGo r = true → ((s.elapse dt).takeTurn r).nextTx r = (.chain ds, u) →
    ds = d :: rest → d.isFirst = true → (ds.getLast?.map Desc.tsReq) = some false → x = (u.chainFrame r ds).1 → p = s.regN (0x0800 + r) 9 →
      (s.port p).st = .opened →
    Answers (exec (.descFrameDirect dt r) s) fun t =>
      if (s.directFrames r).sum + x.length ≤ s.regN (0x0800 + r) 0xB then
        ∃ f : InjFrame, (t.portTxOf p).inject = (s.portTxOf p).inject ++ [f] ∧ f.bytes = x ∧
          f.origin = { ring := some r, chain := none } ∧ f.tc = d.tc
      else t = u)

/-- FILL, MOVE and COMPARE of a MEMORY ring, run to their end in one command: the bytes written, STATUS, HEAD and the counters; and a
FILL of which only some beats of 64 bytes are moved keeps what is done. -/
def Obligations.MemoryDescriptors : Prop :=
  ∀ dt r d k s, s.memoryRing r = true → s.dictRuns = true → (s.ring r).work = none → (s.elapse dt).mayGo r = true →
    ((s.elapse dt).fetchDesc r).1 = some d → d.flagsOk = true →
    State.fixedBad d = false → d.srcFixed = false → d.dstFixed = false → (∀ i, i ≤ d.len → State.inWindow (d.addr + i) = none) →
    (s.ring r).chains = [] → (s.ring r).head = (s.ring r).fetch → (s.ring r).fetch < s.ringSize r →
    k = s.descAddr r (s.ring r).fetch →
    (d.opcode = 2 → AnswersSettled (exec (.descFill dt { ring := r }) s) fun t =>
      (t.ring r).head = ((s.ring r).fetch + 1) % s.ringSize r ∧ t.memRead (k + 24) 8 = leBytes 8 d.len ∧
      t.ctr (0x0800 + r) 0x11 = s.ctr (0x0800 + r) 0x11 + 1 ∧
      ∀ a, a < 2 ^ 64 → (∀ i, i < 8 → a ≠ (k + 24 + i) % 2 ^ 64) →
        (∀ i, i < d.len → a = (d.addr + i) % 2 ^ 64 → t.memByte a = (leBytes 8 d.aux.toNat).getD (i % 8) 0) ∧
        ((∀ i, i < d.len → a ≠ (d.addr + i) % 2 ^ 64) → t.memByte a = s.memByte a)) ∧
    (d.opcode = 1 → (∀ i, i ≤ d.len → State.inWindow (d.aux.toNat + i) = none) → AnswersSettled (exec (.descMove dt { ring := r }) s) fun t =>
      (t.ring r).head = ((s.ring r).fetch + 1) % s.ringSize r ∧ t.memRead (k + 24) 8 = leBytes 8 d.len ∧
      t.ctr (0x0800 + r) 0x11 = s.ctr (0x0800 + r) 0x11 + 1 ∧
      ∀ a, a < 2 ^ 64 → (∀ i, i < 8 → a ≠ (k + 24 + i) % 2 ^ 64) →
        (∀ i, i < d.len → a = (d.addr + i) % 2 ^ 64 → t.memByte a = s.memByte ((d.aux.toNat + i) % 2 ^ 64)) ∧
        ((∀ i, i < d.len → a ≠ (d.addr + i) % 2 ^ 64) → t.memByte a = s.memByte a)) ∧
    (d.opcode = 3 → d.cmpBuf = false → AnswersSettled (exec (.descCompare dt { ring := r }) s) fun t =>
      (t.ring r).head = ((s.ring r).fetch + 1) % s.ringSize r ∧ t.ctr (0x0800 + r) 0x11 = s.ctr (0x0800 + r) 0x11 + 1 ∧
      t.ctr (0x0800 + r) 0x16 = s.ctr (0x0800 + r) 0x16 + (if s.memRead d.addr d.len = State.fillBytes d.aux d.len then 0 else 1) ∧
      ∀ a, a < 2 ^ 64 → (∀ i, i < 8 → a ≠ (k + 24 + i) % 2 ^ 64) → t.memByte a = s.memByte a) ∧
    (∀ beats, d.opcode = 2 → 0 < beats → 64 * beats < d.len → AnswersSettled (exec (.descFill dt { ring := r, beats }) s) fun t =>
      (t.ring r).head = (s.ring r).head ∧ (t.ring r).work = some { d, off := 64 * beats, level := s.regN (0x0800 + r) 8 } ∧
      ∀ a, a < 2 ^ 64 → (∀ i, i < 64 * beats → a ≠ (d.addr + i) % 2 ^ 64) → t.memByte a = s.memByte a)

/-- A staged frame that fits one descriptor is written to its buffer and completes it; a failing fetch halts its ring; a ring with data
to move has no beat while a ring of a higher level has data for the same direction (R493). -/
def Obligations.DmaReceive : Prop :=
  (∀ dt r f d i s, s.quarterRuns (r / 64) = true → (s.quarter (r / 64)).staged.find? (fun f => f.ring == r) = some f →
    f.count = 1 → f.sent = 0 → f.rest = f.bytes → f.copy = none → (s.elapse dt).mayGo r = true → i = f.first % s.ringSize r →
      d = s.readDesc r i → d.opcode = 0 → d.flagsOk = true →
    f.bytes.length ≤ d.len →
    Answers (exec (.dmaRxDelivery dt r) s) fun t => (t.quarter (r / 64)).staged = (s.quarter (r / 64)).staged.erase f ∧
      (t.ring r).head = (i + 1) % s.ringSize r ∧ t.ctr (0x0800 + r) 0x11 = s.ctr (0x0800 + r) 0x11 + 1 ∧
      ∀ a, a < 2 ^ 64 → (∀ j, j < 32 → a ≠ (s.descAddr r i + j) % 2 ^ 64) →
        (∀ j, j < f.bytes.length → a = (d.addr + j) % 2 ^ 64 → t.memByte a = byteAt f.bytes j) ∧
        ((∀ j, j < f.bytes.length → a ≠ (d.addr + j) % 2 ^ 64) → t.memByte a = s.memByte a)) ∧
  (∀ dt r s, r < 256 → (s.ring r).st = .opened → s.quarterRuns (r / 64) = true → (s.ring r).idle = false →
    (s.ring r).fetch ≠ (s.ring r).tail →
    Answers (exec (.busErrorResponse dt r .fetch) s) fun t => (t.ring r).st = .closing ∧ (t.ring r).cause.bit 4 = true ∧
      t.ctr (0x0900 + r / 64) 1 = s.ctr (0x0900 + r / 64) 1 + 1 ∧ t.mem = s.mem) ∧
  (∀ dt r o beats s, o ∈ (s.elapse dt).rivals r → (s.elapse dt).ringLevel r < (s.elapse dt).ringLevel o →
    Answers (exec (.dmaRxDelivery dt r) s) (fun t => t = s.elapse dt) ∧
    Answers (exec (.descFrameCore dt r) s) (fun t => t = s.elapse dt) ∧
    Answers (exec (.descFrameDirect dt r) s) (fun t => t = s.elapse dt) ∧
    AnswersSettled (exec (.descMove dt { ring := r, beats }) s) (fun t => t = s.elapse dt) ∧
    AnswersSettled (exec (.descFill dt { ring := r, beats }) s) (fun t => t = s.elapse dt) ∧
    AnswersSettled (exec (.descCompare dt { ring := r, beats }) s) (fun t => t = s.elapse dt))

/-! ### Power, clusters and LISTEN (R50, R52, R535–R550) -/

/-- DOMAIN_n is taken, or refused; it lands at the next tick boundary (R537) and takes a domain up or down, LANE once its skid has
drained; pwr_ack ends the change where the PLL is locked, and its absence for four times its bound holds the domain (R52). -/
def Obligations.PowerDomains : Prop :=
  (∀ dt via n v s, s.Ready → n < 80 → n ≠ domAO → v = 0 ∨ v = 1 ∨ v = 3 → s.domainOk n (Pwr.ofCode v.toNat) = true →
    AnswersSettled (exec (.domainRequest dt via n v) s) fun t => t.dom n = s.dom n ∧ Output.status rOK ∈ t.out ∧
      t.dict.landing = [{ via := via.transport, eff := .obj 0x0300 (0x40 + n) v, tick := s.time.ticks }]) ∧
  (∀ dt l n env s, s.dictRuns = true → s.dict.landing = [l] → l.eff = .obj 0x0300 (0x40 + n) 3 → l.tick = s.time.ticks →
    2 ^ 21 ≤ (s.elapse dt).time.tickAt → s.regB 0x0700 0x10 = false → n < 80 → n ≠ domAO → (s.dom n).ack ≠ .on →
    (s.dom n).phase = .idle → (s.dom n).pin = (s.dom n).ack → (s.dom domTime).phase = .idle →
    Answers (exec (.managementTick dt env) s) fun t => t.dict.landing = [] ∧ (t.dom n).pin = .on ∧
      (t.dom n).phase = .switching ∧ (t.dom n).req = .on ∧ (t.dom n).held = false) ∧
  (∀ dt l n v goal s, s.dictRuns = true → s.dict.landing = [l] → l.eff = .obj 0x0300 (0x40 + n) v → 1 ≤ s.ticksWaited l →
    n < 64 → s.mayLeave n = true → (s.dom n).ack = .on → (s.dom n).pin = .on → (s.dom n).phase = .idle →
    (v = 0 ∧ goal = Pwr.off) ∨ (v = 1 ∧ goal = Pwr.retain) →
    AnswersSettled (exec (.writeLanding dt []) s) fun t => (t.dom n).req = goal ∧
      if n % 4 = 0 ∧ (s.clRx (n / 4)).skid ≠ [] then (t.dom n).pin = .on ∧ (t.dom n).phase = .closing
      else (t.dom n).pin = goal ∧ (t.dom n).phase = .switching ∧ (t.dom n).isolated = true) ∧
  (∀ dt via n v s, s.Ready → n < 80 → n ≠ domAO → s.mayLeave n = false → (s.dom n).ack = .on → (s.dom n).phase = .idle →
    v = 0 ∨ v = 1 →
    AnswersSettled (exec (.domainRequest dt via n v) s) fun t => t.out = [.status rRANGE] ∧ (t.dom n).pin = (s.dom n).pin ∧
      (t.dom n).ack = .on) ∧
  (∀ dt n s, n < 64 → (s.dom n).phase = .switching → (s.dom n).latched = none → (s.dom n).pin ≠ (s.dom n).ack →
    s.clocked = true → s.power.boot = .ready → s.power.sequencer = .rest → s.power.waiting = none → s.regB 0x0700 0x10 = false →
    AnswersSettled (exec (.powerAck dt n) s) fun t => (t.dom n).ack = (s.dom n).pin ∧ (t.dom n).phase = .idle ∧
      (t.isOn n = true ↔ (s.dom n).pin = .on)) ∧
  (∀ dt n s, n < 80 → n ≠ domAO → n ≠ domTime → (s.dom n).phase = .switching → (s.dom n).pin = .on → (s.dom n).ack ≠ .on →
    (s.dom n).isolated = true → s.clocked = false →
    AnswersSettled (exec (.powerAck dt n) s) fun t => (t.dom n).ack = .on ∧ (t.dom n).phase = .restoring ∧ t.isOn n = false) ∧
  (∀ dt n s, n ≠ domAO → (s.dom n).phase = .switching → (s.dom n).pin ≠ (s.dom n).ack → s.power.waiting = none →
    s.regB 0x0700 0x10 = false →
    (s.dom n).began + (if (s.dom n).pin = .on ∧ (s.dom n).fromOff = false then 12800 else 256000) ≤ s.power.clock + dt →
    AnswersSettled (exec (.powerAckTimeout dt n) s) fun t => (t.dom n).held = true ∧ (t.dom n).isolated = true ∧
      (t.dom n).phase = .idle ∧ (t.dom n).ack = (s.dom n).ack) ∧
  (∀ dt n s, s.power.clock + dt < (s.dom n).began + (if (s.dom n).pin = .on ∧ (s.dom n).fromOff = false then 12800 else 256000) →
    Answers (exec (.powerAckTimeout dt n) s) fun t => t = s.elapse dt)

/-- CLUSTER_ENABLE opens a CLOSED cluster of an adopted complex and closes an OPEN one with its ports; CLOSING ends in CLOSED_POWER or
a new opening. -/
def Obligations.ClusterOpenClose : Prop :=
  (∀ dt via c s, s.Ready → c < 16 → (s.clp c).st = .closed → s.keys.adopted = true →
    AnswersSettled (exec (.clusterEnable dt via c 1) s) fun t => t.regB (0x2000 + 16 * c) 1 = true ∧
      (t.clp c).st = if s.clusterOn c then .opened else .opening) ∧
  (∀ dt via c s, s.Ready → c < 16 → (s.clp c).st = .closed → s.keys.adopted = false →
    AnswersSettled (exec (.clusterEnable dt via c 1) s) fun t => t.out = [.status rRANGE] ∧ (t.clp c).st = .closed) ∧
  (∀ dt via c s, s.Ready → c < 16 → (s.clp c).st = .opened →
    AnswersSettled (exec (.clusterEnable dt via c 0) s) fun t => t.regB (0x2000 + 16 * c) 1 = false ∧ (t.clp c).st = .closing ∧
      ∀ k, k < 64 → (s.port (64 * c + k)).st = .opened → (t.port (64 * c + k)).st = .closing) ∧
  (∀ dt c s, c < 16 → (s.clp c).st = .closing → s.clusterDone c = true → (s.clp c).enLatched ≠ some true →
    Answers (exec (.clusterCloseDone dt c) s) fun t => (t.clp c).st = .closed ∧
      ∀ k, k < 4 → (s.dom (4 * c + k)).ack = .on → (s.dom (4 * c + k)).phase = .idle → (s.dom (4 * c + k)).held = false →
        (t.dom (4 * c + k)).pin = if s.regN (0x2000 + 16 * c) 5 = 0 then .off else .retain) ∧
  (∀ dt c s, c < 16 → (s.clp c).st = .closing → s.clusterDone c = true → (s.clp c).enLatched = some true →
    Answers (exec (.clusterCloseDone dt c) s) fun t => (t.clp c).st = if s.clusterOn c then .opened else .opening)

/-- CLUSTER_MODE LISTEN takes an AWAKE cluster to ENTERING, the last frame takes it to LISTEN with three domains in RETAIN, and FULL
wakes it; SLEEP takes every domain that is ON to RETAIN, LANE once its skid has drained, TIME and DICT last, and a CAN FD request to
NODE_ADDR takes TIME up again. -/
def Obligations.ListenAndSleep : Prop :=
  (∀ dt via c s, s.Ready → c < 16 → (s.clp c).st = .opened → (s.clp c).night = .awake →
    AnswersSettled (exec (.clusterModeListen dt via c) s) fun t => (t.clp c).night = .entering ∧ t.regN (0x2000 + 16 * c) 3 = 1 ∧
      ∀ k, k < 64 → (t.port (64 * c + k)).timers = []) ∧
  (∀ dt via c s, s.Ready → c < 16 → (s.clp c).st ≠ .opened → s.regB 0x0700 0x10 = false →
    AnswersSettled (exec (.clusterModeListen dt via c) s) fun t => t.out = [.status rRANGE] ∧ (t.clp c).night = (s.clp c).night) ∧
  (∀ dt c s, c < 16 → (s.clp c).night = .entering → (s.clp c).st = .opened → s.clusterEmpty c = true → (s.clp c).wakeLatched = false →
    s.regB 0x0700 0x10 = false →
    Answers (exec (.listenReached dt c) s) fun t => (t.clp c).night = .listen ∧
      ∀ n, n = domCipher c ∨ n = domQueue c ∨ n = domMeter c → (s.dom n).ack = .on → (s.dom n).phase = .idle →
        (s.dom n).held = false → (t.dom n).pin = .retain) ∧
  (∀ dt via c s, s.Ready → c < 16 → (s.clp c).night = .listen →
    AnswersSettled (exec (.clusterModeFull dt via c) s) fun t => (t.clp c).night = .waking ∧ t.regN (0x2000 + 16 * c) 3 = 0) ∧
  (∀ dt via s, s.Ready → s.sleepOk = true → s.regB 0x0700 0x10 = false →
    AnswersSettled (exec (.sleep dt via) s) fun t => t.power.boot = .sleep ∧
      ∀ n, n < 80 → n ≠ domAO → n ≠ domTime → n ≠ domDict → (s.dom n).ack = .on → (s.dom n).phase = .idle → (s.dom n).held = false →
        (n < 64 → n % 4 = 0 → (s.clRx (n / 4)).skid = []) → (t.dom n).pin = .retain) ∧
  (∀ dt id s, s.power.boot = .sleep → id / 2 ^ 22 % 16 = 1 → id / 2 ^ 15 % 128 = s.regN 0x0200 1 → (s.dom domTime).ack ≠ .on →
    (s.dom domTime).phase = .idle → (s.dom domTime).held = false →
    Answers (exec (.canWakeFrame dt id) s) fun t => t.power.boot = .core ∧ (t.dom domTime).pin = .on) ∧
  (∀ dt id s, s.power.boot = .sleep → id / 2 ^ 15 % 128 ≠ s.regN 0x0200 1 →
    Answers (exec (.canWakeFrame dt id) s) fun t => t.power = (s.elapse dt).power)

/-! ### Resets and bring-up (R551–R553) -/

/-- What a reset of each kind leaves; RESET_CAUSE and RESET_COUNT. A cold reset clears the units and takes the domains down, TIME
last; the bring-up behind it ends in PowerOnReset's last clause. -/
def Obligations.Resets : Prop :=
  ∀ dt via s, s.Ready → s.power.waiting = none → s.power.sequencer = .rest →
    (s.power.doms.any fun e => e.2.phase != .idle) = false →
    AnswersSettled (exec (.resetCold dt via []) s) (fun t =>
      t.power.boot = .ao ∧ t.power.sequencer = .down ∧
      t.power.cold = some { kind := 0, target := s.regN 0x0300 3, source := 1 + via.transport.code } ∧
      t.power.cause = s.power.cause ∧ t.ctr 0x0300 6 = s.ctr 0x0300 6 ∧
      t.regs = [] ∧ t.rows = [] ∧ t.anyKey = false ∧ t.keys.adopted = false ∧ t.twin.role = .unadopted ∧ t.keys.latch = s.keys.latch ∧
      (t.dom domTime).pin = (s.dom domTime).ack ∧
      ∀ n, n ≠ domTime → (s.dom n).ack ≠ .off → (t.dom n).pin = .off ∧ (t.dom n).phase = .switching) ∧
    AnswersSettled (exec (.resetWarm dt via []) s) (fun t =>
      t.power.cause = Word.ofNat (2 ^ 31 + 2 ^ 24 + (1 + via.transport.code) * 2 ^ 16) ∧ t.ctr 0x0300 6 = s.ctr 0x0300 6 + 1 ∧
      t.dict.sessions = [] ∧ t.keys.adopted = s.keys.adopted) ∧
    (∀ c, c < 16 → AnswersSettled (exec (.resetCluster dt via c []) s) fun t =>
      t.power.cause = Word.ofNat (2 ^ 31 + 2 * 2 ^ 24 + (1 + via.transport.code) * 2 ^ 16 + c) ∧
      t.ctr 0x0300 6 = s.ctr 0x0300 6 + 1 ∧ (t.clRx c).alerts = []) ∧
    (∀ p, p < 1024 → AnswersSettled (exec (.resetPort dt via p []) s) fun t =>
      t.power.cause = Word.ofNat (2 ^ 31 + 3 * 2 ^ 24 + (1 + via.transport.code) * 2 ^ 16 + p) ∧
      t.ctr 0x0300 6 = s.ctr 0x0300 6 + 1 ∧ (t.port p).link ≠ .up) ∧
    AnswersSettled (exec (.resetRestoreDefaults dt via []) s) (fun t =>
      t.power.cause = Word.ofNat (2 ^ 31 + 4 * 2 ^ 24 + (1 + via.transport.code) * 2 ^ 16) ∧ t.ctr 0x0300 6 = s.ctr 0x0300 6 + 1 ∧
      t.keys.adopted = false ∧ t.twin.role = .unadopted ∧ t.anyKey = false ∧ t.regs = [])

/-- por_n: its fall takes every domain and key away; its rise starts the bring-up: TIME, with the PLL's lock DICT, EVT, KEYS and TRNG,
and with the last of them READY. A cold reset takes TIME OFF after every other domain and then comes up in the same way; RESET_CAUSE and
RESET_COUNT show it at the end. Device time starts from 0 each time (the model's choice, assumption 4). -/
def Obligations.PowerOnReset : Prop :=
  (∀ dt s, Answers (exec (.porNFall dt) s) fun t => t.power.doms = [] ∧ t.power.boot = .ao ∧ t.power.porN = false ∧ t.clocked = false ∧
    t.regs = [] ∧ t.rows = [] ∧ t.anyKey = false ∧ t.keys.adopted = false ∧ t.keys.latch = s.keys.latch) ∧
  (∀ dt s, s.power.porN = false → Answers (exec (.powerOnReset dt) s) fun t => t.power.boot = .ao ∧ t.power.sequencer = .up ∧
    t.power.porN = true ∧ (t.dom domTime).pin = .on ∧ (t.dom domTime).phase = .switching ∧ t.dictRuns = false ∧
    t.power.cause = 0x80000000 ∧ t.regs = [] ∧ t.rows = [] ∧ t.ctrs = [] ∧ t.anyKey = false ∧ t.keys.adopted = false ∧
    t.keys.latch = s.keys.latch ∧ t.time.st = .unset) ∧
  (∀ dt s, s.power.sequencer = .up → s.power.boot = .ao → s.power.waiting = none → (s.dom domTime).ack = .on →
    (s.dom domTime).phase = .restoring → (s.dom domTime).latched = none → s.time.pllLocked = false →
    (∀ n, n ≠ domTime → (s.dom n).phase = .idle ∧ (s.dom n).held = false ∧ (s.dom n).ack ≠ .on) →
    AnswersSettled (exec (.pllLock dt) s) fun t => t.power.boot = .time ∧ t.isOn domTime = true ∧ t.devTime = 0 ∧
      ∀ n, n = domDict ∨ n = domEvt ∨ n = domKeys ∨ n = domTrng → (t.dom n).pin = .on ∧ (t.dom n).phase = .switching) ∧
  (∀ dt n s, n = domDict ∨ n = domEvt ∨ n = domKeys ∨ n = domTrng → s.power.sequencer = .up → s.power.boot = .time →
    s.power.waiting = none → s.clocked = true → s.regB 0x0700 0x10 = false → (s.dom n).phase = .switching → (s.dom n).pin = .on →
    (s.dom n).ack ≠ .on → (s.dom n).latched = none →
    (∀ m, m = domDict ∨ m = domEvt ∨ m = domKeys ∨ m = domTrng → m ≠ n → s.isOn m = true ∧ (s.dom m).phase = .idle) →
    AnswersSettled (exec (.powerAck dt n) s) fun t => t.power.boot = .ready ∧ t.power.sequencer = .rest ∧
      (s.power.cold = none → t.power.cause = s.power.cause ∧ t.ctr 0x0300 6 = s.ctr 0x0300 6) ∧
      ∀ j, s.power.cold = some j → j.kind = 0 → t.power.cause = Word.ofNat (2 ^ 31 + j.source * 2 ^ 16) ∧
        t.ctr 0x0300 6 = s.ctr 0x0300 6 + 1) ∧
  (∀ dt n s, n < 80 → n ≠ domAO → n ≠ domTime → s.power.sequencer = .down → s.power.boot = .ao → s.power.waiting = none →
    SMap.rising s.power.doms = true → (s.dom n).phase = .switching → (s.dom n).pin = .off → (s.dom n).ack ≠ .off →
    (s.dom n).latched = none → (∀ m, m ≠ n → m ≠ domTime → (s.dom m).ack = .off) → (s.dom domTime).ack = .on →
    (s.dom domTime).phase = .idle →
    AnswersSettled (exec (.powerAck dt n) s) fun t => (t.dom n).ack = .off ∧ (t.dom domTime).pin = .off ∧
      (t.dom domTime).phase = .switching) ∧
  (∀ dt s, s.power.sequencer = .down → s.power.boot = .ao → s.power.waiting = none → SMap.rising s.power.doms = true →
    (s.dom domTime).phase = .switching → (s.dom domTime).pin = .off → (s.dom domTime).ack ≠ .off → (s.dom domTime).latched = none →
    (s.dom domTime).held = false → (∀ m, m ≠ domTime → (s.dom m).ack = .off) →
    AnswersSettled (exec (.powerAck dt domTime) s) fun t => t.power.sequencer = .up ∧ (t.dom domTime).pin = .on ∧
      (t.dom domTime).phase = .switching ∧ t.clocked = false)

/-- What State.reset holds: READY, with the five domains of bring-up ON and every other OFF, every object at its default, every
counter 0, no key, UNADOPTED, device time UNSET, and nothing open. -/
def Obligations.ResetValues : Prop :=
  State.reset.power.boot = .ready ∧ State.reset.dictRuns = true ∧ State.reset.clocked = true ∧
  (∀ n, n ≠ domAO → ((State.reset.dom n).ack = .on ↔ n = domTime ∨ n = domEvt ∨ n = domDict ∨ n = domKeys ∨ n = domTrng)) ∧
  (∀ i u, State.reset.reg i u = dfltOf (slotKey i u 0)) ∧ (∀ i u r, State.reset.ctr i u r = 0) ∧
  State.reset.anyKey = false ∧ State.reset.keys.adopted = false ∧ State.reset.twin.role = .unadopted ∧
  State.reset.time.st = .unset ∧ (∀ p, (State.reset.port p).st = .closed) ∧ (∀ c, (State.reset.clp c).st = .closed) ∧
  (∀ r, (State.reset.ring r).st = .closed) ∧ State.reset.pending = []

/-! ### Refused accesses (R37, R111) -/

/-- A window access that is not an aligned 8-byte one is answered with an error response and counted; nothing else changes. -/
def Obligations.WindowAccess : Prop :=
  ∀ dt s, s.dictRuns = true → Answers (exec (.windowAccessError dt) s) fun t => t.out = [.windowError] ∧
    t.ctr 0x0200 0x0F = s.ctr 0x0200 0x0F + 1 ∧ (∀ i u r, slotKey i u r ≠ slotKey 0x0200 0x0F 0 → t.ctr i u r = s.ctr i u r) ∧
    (∀ x : Part, x.Same s t) ∧ t.regs = s.regs ∧ t.ev = s.ev ∧ t.power = (s.elapse dt).power ∧ t.clusterPower = s.clusterPower

/-- A STEP out of range is refused with RANGE: device time stays, and with it every part but the refusal's own record. -/
def Obligations.StepOutOfRange : Prop :=
  ∀ dt via v s, s.Ready → -(2 ^ 62) ≤ v.toInt → v.toInt ≤ 2 ^ 62 → (s.elapse dt).stepFits v.toInt = false →
    AnswersSettled (exec (.stepTime dt via v) s) fun t => t.out = [.status rRANGE] ∧ t.time = (s.elapse dt).time ∧
      ∀ x : Part, x ≠ .dict → x.Same s t

/-! ### Frames -/

/-- Every command leaves every part of the state that its rules do not reach as it was. -/
def Obligations.FramesByPart : Prop :=
  ∀ c s t, s.Canonical → exec c s = .next t → ∀ x, x ∉ reaches c → x.Same s t

/-- A strobe or clear of one unit changes that unit and the request's own record, and no other part. -/
def Obligations.WriteFrames : Prop :=
  ∀ dt via p r n b v s, s.Ready → p < 1024 → r < 256 → n < 32 → b < 64 → v.toNat < 2 ^ 32 →
    ∀ e ∈ [(Instr.rxCauseClr dt via p v, Part.portRx), (.txCauseClr dt via p v, .portTx), (.shutterCauseClr dt via p v, .shutters),
        (.ringCauseClr dt via r v, .rings), (.keyAlarmClr dt via v, .keys), (.enterBand dt via n v, .dict), (.exitBand dt via n v, .dict),
        (.pendingSet dt via b v, .dict), (.pendingClr dt via b v, .dict), (.maskSet dt via b v, .dict), (.maskClr dt via b v, .dict),
        (.latchFiredClr dt via v, .dict), (.snapRelease dt via, .dict)],
      AnswersSettled (exec e.1 s) fun t => ∀ x : Part, x ∉ [e.2, .dict, .twin] → x.Same s t
end

