-- ==== Sys2Proof/Laws/Alike.lean ====
section
/-!
SUPPORT. What a message to the twin, an event and a counter leave as it was.
-/
set_option linter.unusedTactic false
set_option linter.unreachableTactic false
set_option linter.unusedVariables false
set_option linter.tactic.unusedName false
namespace Sys2Proof.Machine

/-- What a message to the twin, an event and a counter leave as it was. -/
structure State.Alike (s s₀ : State) : Prop where
  pending : s.pending = s₀.pending
  free : s.free = s₀.free
  rows : s.rows = s₀.rows
  past : s.past = s₀.past
  time : s.time = s₀.time
  dict : s.dict = s₀.dict
  keys : s.keys = s₀.keys
  masks : s.masks = s₀.masks
  laneLock : s.laneLock = s₀.laneLock
  portRx : s.portRx = s₀.portRx
  clusterRx : s.clusterRx = s₀.clusterRx
  clusterTx : s.clusterTx = s₀.clusterTx
  portTx : s.portTx = s₀.portTx
  shutters : s.shutters = s₀.shutters
  rings : s.rings = s₀.rings
  quarters : s.quarters = s₀.quarters
  mem : s.mem = s₀.mem

theorem State.Alike.refl (s : State) : s.Alike s := ⟨rfl, rfl, rfl, rfl, rfl, rfl, rfl, rfl, rfl, rfl, rfl, rfl, rfl, rfl, rfl, rfl, rfl⟩

theorem State.Alike.cut {s s₀ : State} {p : Prop} (h : s.Alike s₀) (k : s.Alike s₀ → p) : p := k h

theorem alike_mk {s s₀ : State} (h : s.Alike s₀) {out regs ctrs onceTick power clusterPower ev cu twin} :
    (State.mk s.pending out s.free regs s.rows s.past ctrs onceTick power clusterPower s.time ev cu s.dict s.keys s.masks s.laneLock s.portRx s.clusterRx s.clusterTx s.portTx s.shutters s.rings s.quarters twin s.mem).Alike s₀ :=
  ⟨h.pending, h.free, h.rows, h.past, h.time, h.dict, h.keys, h.masks, h.laneLock, h.portRx, h.clusterRx, h.clusterTx, h.portTx, h.shutters, h.rings, h.quarters, h.mem⟩

theorem foldl_alike {α : Type} {f : State → α → State} {l : List α} {s s₀ : State} (h : s.Alike s₀)
    (hf : ∀ s a, s.Alike s₀ → (f s a).Alike s₀) : (l.foldl f s).Alike s₀ := by
  induction l generalizing s with
  | nil => exact h
  | cons a t ih => exact ih (hf _ _ h)

theorem foldl_alike_snd {α β : Type} {f : β × State → α → β × State} {l : List α} {x : β × State} {s₀ : State} (h : x.2.Alike s₀)
    (hf : ∀ x a, x.2.Alike s₀ → (f x a).2.Alike s₀) : (l.foldl f x).2.Alike s₀ := by
  induction l generalizing x with
  | nil => exact h
  | cons a t ih => exact ih (hf _ _ h)

theorem foldl_alike_mid {α β γ : Type} {f : β × State × γ → α → β × State × γ} {l : List α} {x : β × State × γ} {s₀ : State} (h : x.2.1.Alike s₀)
    (hf : ∀ x a, x.2.1.Alike s₀ → (f x a).2.1.Alike s₀) : (l.foldl f x).2.1.Alike s₀ := by
  induction l generalizing x with
  | nil => exact h
  | cons a t ih => exact ih (hf _ _ h)

variable {s₀ : State}

theorem State.setReg_alike {s : State} {i u : Nat} {v : Word} (h : s.Alike s₀) : (s.setReg i u v).Alike s₀ := alike_mk h

theorem State.bumpRow_alike {s : State} {i u r n : Nat} (h : s.Alike s₀) : (s.bumpRow i u r n).Alike s₀ := by
  unfold State.bumpRow
  dsimp only
  split
  · exact alike_mk (alike_mk h)
  · exact alike_mk h

theorem State.setDom_alike {s : State} {n : Nat} {d : Domain} (hk : s.Alike s₀) : (State.setDom s n d).Alike s₀ := by
  unfold State.setDom
  repeat' with_reducible first
      | assumption
      | (extract_lets +onlyGivenNames x; first | (refine State.Alike.cut (s₀ := s₀) (s := x) ?_ fun hx => ?_; (on_goal 2 => clear_value x); (on_goal 1 => unfold x; clear x)) | clear_value x)
      | (fail_if_no_progress (apply alike_mk))

theorem State.beginSwitch_alike {s : State} {n : Nat} {goal : Pwr} (hk : s.Alike s₀) : (State.beginSwitch s n goal).Alike s₀ := by
  unfold State.beginSwitch
  repeat' with_reducible first
      | assumption | apply State.setDom_alike
      | (extract_lets +onlyGivenNames x; first | (refine State.Alike.cut (s₀ := s₀) (s := x) ?_ fun hx => ?_; (on_goal 2 => clear_value x); (on_goal 1 => unfold x; clear x)) | clear_value x)
      | split | (fail_if_no_progress (apply alike_mk))

theorem State.bump_alike {s : State} {idx sub n : Nat} (hk : s.Alike s₀) : (State.bump s idx sub n).Alike s₀ := by
  unfold State.bump
  repeat' with_reducible first
      | assumption | apply State.bumpRow_alike

theorem State.emit_alike {s : State} {o : Output} (hk : s.Alike s₀) : (State.emit s o).Alike s₀ := by
  unfold State.emit
  repeat' with_reducible first
      | assumption
      | (extract_lets +onlyGivenNames x; first | (refine State.Alike.cut (s₀ := s₀) (s := x) ?_ fun hx => ?_; (on_goal 2 => clear_value x); (on_goal 1 => unfold x; clear x)) | clear_value x)
      | (fail_if_no_progress (apply alike_mk))

theorem State.requestOn_alike {s : State} {n : Nat} (hk : s.Alike s₀) : (State.requestOn s n).Alike s₀ := by
  unfold State.requestOn
  repeat' with_reducible first
      | assumption | apply State.setDom_alike | apply State.beginSwitch_alike
      | (extract_lets +onlyGivenNames x; first | (refine State.Alike.cut (s₀ := s₀) (s := x) ?_ fun hx => ?_; (on_goal 2 => clear_value x); (on_goal 1 => unfold x; clear x)) | clear_value x)
      | split | (fail_if_no_progress (apply alike_mk))

theorem State.endSleep_alike {s : State} (hk : s.Alike s₀) : (State.endSleep s).Alike s₀ := by
  unfold State.endSleep
  repeat' with_reducible first
      | assumption | apply State.requestOn_alike | apply foldl_alike | intro _
      | (extract_lets +onlyGivenNames x; first | (refine State.Alike.cut (s₀ := s₀) (s := x) ?_ fun hx => ?_; (on_goal 2 => clear_value x); (on_goal 1 => unfold x; clear x)) | clear_value x)
      | split | (fail_if_no_progress (apply alike_mk))

theorem State.setClp_alike {s : State} {c : Nat} {q : ClusterPower} (hk : s.Alike s₀) : (State.setClp s c q).Alike s₀ := by
  unfold State.setClp
  repeat' with_reducible first
      | assumption
      | (extract_lets +onlyGivenNames x; first | (refine State.Alike.cut (s₀ := s₀) (s := x) ?_ fun hx => ?_; (on_goal 2 => clear_value x); (on_goal 1 => unfold x; clear x)) | clear_value x)
      | (fail_if_no_progress (apply alike_mk))

theorem State.wakeCluster_alike {s : State} {c : Nat} (hk : s.Alike s₀) : (State.wakeCluster s c).Alike s₀ := by
  unfold State.wakeCluster
  dsimp only
  split
  · exact State.requestOn_alike (State.requestOn_alike (State.requestOn_alike (State.setReg_alike (State.setClp_alike hk))))
  · exact State.setClp_alike hk
  · exact hk

theorem State.wakeCommon_alike {s : State} (hk : s.Alike s₀) : (State.wakeCommon s).Alike s₀ := by
  unfold State.wakeCommon
  repeat' with_reducible first
      | assumption | apply State.requestOn_alike | apply State.endSleep_alike | apply foldl_alike | intro _ | split

theorem State.latchFire_alike {s : State} {e data : Nat} (hk : s.Alike s₀) : (State.latchFire s e data).1.Alike s₀ := by
  unfold State.latchFire
  repeat' with_reducible first
      | assumption | apply State.wakeCluster_alike | apply State.wakeCommon_alike | apply State.bump_alike | apply foldl_alike | intro _
      | (extract_lets +onlyGivenNames x; first | (refine State.Alike.cut (s₀ := s₀) (s := x) ?_ fun hx => ?_; (on_goal 2 => clear_value x); (on_goal 1 => unfold x; clear x)) | clear_value x)
      | split | (fail_if_no_progress (apply alike_mk))

theorem State.noteEcc_alike {s : State} {e : Nat} (hk : s.Alike s₀) :
    (State.noteEcc s e).Alike s₀ := by
  unfold State.noteEcc
  repeat' with_reducible first
      | assumption
      | (extract_lets +onlyGivenNames x; first | (refine State.Alike.cut (s₀ := s₀) (s := x) ?_ fun hx => ?_; (on_goal 2 => clear_value x); (on_goal 1 => unfold x; clear x)) | clear_value x)
      | split | (fail_if_no_progress (apply alike_mk))

theorem State.setSrc_alike {s : State} {e : Nat} {q : Source} (hk : s.Alike s₀) : (State.setSrc s e q).Alike s₀ := by
  unfold State.setSrc
  repeat' with_reducible first
      | assumption
      | (extract_lets +onlyGivenNames x; first | (refine State.Alike.cut (s₀ := s₀) (s := x) ?_ fun hx => ?_; (on_goal 2 => clear_value x); (on_goal 1 => unfold x; clear x)) | clear_value x)
      | (fail_if_no_progress (apply alike_mk))

theorem State.raiseSource_alike {s : State} {e data : Nat} (hk : s.Alike s₀) : (State.raiseSource s e data).Alike s₀ := by
  unfold State.raiseSource
  repeat' with_reducible first
      | assumption | apply State.bump_alike | apply State.setSrc_alike
      | (extract_lets +onlyGivenNames x; first | (refine State.Alike.cut (s₀ := s₀) (s := x) ?_ fun hx => ?_; (on_goal 2 => clear_value x); (on_goal 1 => unfold x; clear x)) | clear_value x)
      | split | (fail_if_no_progress (apply alike_mk))

theorem State.raise_alike {s : State} {e : Nat} {data : optParam Nat 0} (hk : s.Alike s₀) : (State.raise s e data).Alike s₀ := by
  unfold State.raise
  repeat' with_reducible first
      | assumption | (rename_i e; have e2 := congrArg Prod.snd e; dsimp only at e2; subst e2) | apply State.latchFire_alike
      | apply State.raiseSource_alike | apply foldl_alike | apply foldl_alike_snd | apply foldl_alike_mid | apply foldl_resKept
      | apply foldl_alikePair | apply foldl_alikeSlot | intro _ | apply alikePair_none | apply alikePair_some | apply foldl_alikePair
      | exact AlikePair.state (by assumption) | exact optKept_none | apply optKept_some
      | (extract_lets +onlyGivenNames x; first | (refine State.Alike.cut (s₀ := s₀) (s := x) ?_ fun hx => ?_; (on_goal 2 => clear_value x); (on_goal 1 => unfold x; clear x)) | (refine State.Alike.cut (s₀ := s₀) (s := x.2) ?_ fun hx => ?_; (on_goal 2 => clear_value x); (on_goal 1 => unfold x; clear x)) | (refine State.Alike.cut (s₀ := s₀) (s := x.2.2) ?_ fun hx => ?_; (on_goal 2 => clear_value x); (on_goal 1 => unfold x; clear x)) | (refine State.Alike.cut (s₀ := s₀) (s := x.1) ?_ fun hx => ?_; (on_goal 2 => clear_value x); (on_goal 1 => unfold x; clear x)) | (have _f : _ → _ := x; clear _f) | clear_value x | skip)
      | split | (fail_if_no_progress (apply alike_mk)) | (fail_if_no_progress (apply alike_eraseRegs))
      | (fail_if_no_progress (apply alike_eraseRings)) | (fail_if_no_progress (apply alike_setCtr)) | (dsimp -zeta +zetaDelta only)

theorem State.raiseOnce_alike {s : State} {e : Nat} {data : optParam Nat 0} (hk : s.Alike s₀) :
    (State.raiseOnce s e data).Alike s₀ := by
  unfold State.raiseOnce
  repeat' with_reducible first
      | assumption | apply State.noteEcc_alike | apply State.raise_alike
      | (extract_lets +onlyGivenNames x; first | (refine State.Alike.cut (s₀ := s₀) (s := x) ?_ fun hx => ?_; (on_goal 2 => clear_value x); (on_goal 1 => unfold x; clear x)) | clear_value x)
      | split | (fail_if_no_progress (apply alike_mk))

theorem State.updTwin_alike {s : State} {f : TwinUnit → TwinUnit} (hk : s.Alike s₀) :
    (State.updTwin s f).Alike s₀ := by
  unfold State.updTwin
  repeat' with_reducible first
      | assumption
      | (extract_lets +onlyGivenNames x; first | (refine State.Alike.cut (s₀ := s₀) (s := x) ?_ fun hx => ?_; (on_goal 2 => clear_value x); (on_goal 1 => unfold x; clear x)) | clear_value x)
      | (fail_if_no_progress (apply alike_mk))

theorem State.setPath_alike {s : State} {b : Bool} {q : HingePath} (hk : s.Alike s₀) :
    (State.setPath s b q).Alike s₀ := by
  unfold State.setPath
  repeat' with_reducible first
      | assumption | apply State.updTwin_alike | split | (fail_if_no_progress (apply alike_mk))

theorem State.pathSend_alike {s : State} {b : Bool} {m : HingeMsg} (hk : s.Alike s₀) :
    (State.pathSend s b m).Alike s₀ := by
  unfold State.pathSend
  repeat' with_reducible first
      | assumption | apply State.emit_alike | apply State.setPath_alike
      | (extract_lets +onlyGivenNames x; first | (refine State.Alike.cut (s₀ := s₀) (s := x) ?_ fun hx => ?_; (on_goal 2 => clear_value x); (on_goal 1 => unfold x; clear x)) | clear_value x)
      | (fail_if_no_progress (apply alike_mk))

theorem State.hingeSend_alike {s : State} {m : HingeMsg} (hk : s.Alike s₀) :
    (State.hingeSend s m).Alike s₀ := by
  unfold State.hingeSend
  repeat' with_reducible first
      | assumption | apply State.pathSend_alike | apply foldl_alike | intro _ | split

theorem State.mirrorOverflow_alike {s : State} (hk : s.Alike s₀) :
    (State.mirrorOverflow s).Alike s₀ := by
  unfold State.mirrorOverflow
  repeat' with_reducible first
      | assumption | apply State.raiseOnce_alike | apply State.bump_alike | apply State.updTwin_alike | (fail_if_no_progress (apply alike_mk))

theorem State.streamSend_alike {s : State} {m : StreamMsg} (hk : s.Alike s₀) :
    (State.streamSend s m).Alike s₀ := by
  unfold State.streamSend
  repeat' with_reducible first
      | assumption | apply State.mirrorOverflow_alike | apply State.hingeSend_alike | apply State.updTwin_alike
      | (extract_lets +onlyGivenNames x; first | (refine State.Alike.cut (s₀ := s₀) (s := x) ?_ fun hx => ?_; (on_goal 2 => clear_value x); (on_goal 1 => unfold x; clear x)) | clear_value x)
      | split | (fail_if_no_progress (apply alike_mk))

theorem State.forwardObj_alike {s : State} {via : Transport} {idx sub : Nat} {v : Word} (hk : s.Alike s₀) :
    (State.forwardObj s via idx sub v).Alike s₀ := by
  unfold State.forwardObj
  repeat' with_reducible first
      | assumption | apply State.streamSend_alike | intro _
      | (extract_lets +onlyGivenNames x; first | (refine State.Alike.cut (s₀ := s₀) (s := x) ?_ fun hx => ?_; (on_goal 2 => clear_value x); (on_goal 1 => unfold x; clear x)) | (refine State.Alike.cut (s₀ := s₀) (s := x.2) ?_ fun hx => ?_; (on_goal 2 => clear_value x); (on_goal 1 => unfold x; clear x)) | (have _f : _ → _ := x; clear _f) | clear_value x | skip)
      | split | (fail_if_no_progress (apply alike_mk)) | (dsimp -zeta +zetaDelta only)

end Sys2Proof.Machine
end

