-- ==== Sys2Proof/Laws/Apart.lean ====
section
/-!
SUPPORT. What the transmit side of a port, giving the lanes away, the arrival of a fault and a message to the twin leave as it was.
-/
set_option linter.unusedTactic false
set_option linter.unreachableTactic false
set_option linter.unusedVariables false
set_option linter.tactic.unusedName false
namespace Sys2Proof.Machine

/-- What the transmit side of a port, giving the lanes away, the arrival of a fault and a message to the twin leave as it was. -/
structure State.Apart (s s₀ : State) : Prop where
  pending : s.pending = s₀.pending
  rows : s.rows = s₀.rows
  time : s.time = s₀.time
  dict : s.dict = s₀.dict
  keys : s.keys = s₀.keys
  masks : s.masks = s₀.masks
  laneLock : s.laneLock = s₀.laneLock

theorem State.Apart.refl (s : State) : s.Apart s := ⟨rfl, rfl, rfl, rfl, rfl, rfl, rfl⟩

theorem State.Apart.cut {s s₀ : State} {p : Prop} (h : s.Apart s₀) (k : s.Apart s₀ → p) : p := k h

theorem apart_mk {s s₀ : State} (h : s.Apart s₀) {out free regs past ctrs onceTick power clusterPower ev cu portRx clusterRx clusterTx portTx shutters rings quarters twin mem} :
    (State.mk s.pending out free regs s.rows past ctrs onceTick power clusterPower s.time ev cu s.dict s.keys s.masks s.laneLock portRx clusterRx clusterTx portTx shutters rings quarters twin mem).Apart s₀ :=
  ⟨h.pending, h.rows, h.time, h.dict, h.keys, h.masks, h.laneLock⟩

theorem foldl_apart {α : Type} {f : State → α → State} {l : List α} {s s₀ : State} (h : s.Apart s₀)
    (hf : ∀ s a, s.Apart s₀ → (f s a).Apart s₀) : (l.foldl f s).Apart s₀ := by
  induction l generalizing s with
  | nil => exact h
  | cons a t ih => exact ih (hf _ _ h)

theorem foldl_apart_snd {α β : Type} {f : β × State → α → β × State} {l : List α} {x : β × State} {s₀ : State} (h : x.2.Apart s₀)
    (hf : ∀ x a, x.2.Apart s₀ → (f x a).2.Apart s₀) : (l.foldl f x).2.Apart s₀ := by
  induction l generalizing x with
  | nil => exact h
  | cons a t ih => exact ih (hf _ _ h)

theorem foldl_apart_mid {α β γ : Type} {f : β × State × γ → α → β × State × γ} {l : List α} {x : β × State × γ} {s₀ : State} (h : x.2.1.Apart s₀)
    (hf : ∀ x a, x.2.1.Apart s₀ → (f x a).2.1.Apart s₀) : (l.foldl f x).2.1.Apart s₀ := by
  induction l generalizing x with
  | nil => exact h
  | cons a t ih => exact ih (hf _ _ h)

variable {s₀ : State}

theorem State.bumpRow_apart {s : State} {i u r n : Nat} (h : s.Apart s₀) : (s.bumpRow i u r n).Apart s₀ := by
  unfold State.bumpRow
  dsimp only
  split
  · exact apart_mk (apart_mk h)
  · exact apart_mk h

theorem State.memWrite_apart {s : State} {a : Nat} {bs : Bytes} (h : s.Apart s₀) : (s.memWrite a bs).Apart s₀ := by
  induction bs generalizing s a with
  | nil => exact h
  | cons b t ih => exact ih (apart_mk h)

theorem State.setReg_apart {s : State} {i u : Nat} {v : Word} (h : s.Apart s₀) : (s.setReg i u v).Apart s₀ := apart_mk h

theorem State.setDom_apart {s : State} {n : Nat} {d : Domain} (hk : s.Apart s₀) : (State.setDom s n d).Apart s₀ := by
  unfold State.setDom
  repeat' with_reducible first
      | assumption
      | (extract_lets +onlyGivenNames x; first | (refine State.Apart.cut (s₀ := s₀) (s := x) ?_ fun hx => ?_; (on_goal 2 => clear_value x); (on_goal 1 => unfold x; clear x)) | clear_value x)
      | (fail_if_no_progress (apply apart_mk))

theorem State.beginSwitch_apart {s : State} {n : Nat} {goal : Pwr} (hk : s.Apart s₀) : (State.beginSwitch s n goal).Apart s₀ := by
  unfold State.beginSwitch
  repeat' with_reducible first
      | assumption | apply State.setDom_apart
      | (extract_lets +onlyGivenNames x; first | (refine State.Apart.cut (s₀ := s₀) (s := x) ?_ fun hx => ?_; (on_goal 2 => clear_value x); (on_goal 1 => unfold x; clear x)) | clear_value x)
      | split | (fail_if_no_progress (apply apart_mk))

theorem State.bump_apart {s : State} {idx sub n : Nat} (hk : s.Apart s₀) : (State.bump s idx sub n).Apart s₀ := by
  unfold State.bump
  repeat' with_reducible first
      | assumption | apply State.bumpRow_apart

theorem State.bumpPort_apart {s : State} {p slot n : Nat} (hk : s.Apart s₀) : (State.bumpPort s p slot n).Apart s₀ := by
  unfold State.bumpPort
  repeat' with_reducible first
      | assumption | apply State.bumpRow_apart

theorem State.emit_apart {s : State} {o : Output} (hk : s.Apart s₀) : (State.emit s o).Apart s₀ := by
  unfold State.emit
  repeat' with_reducible first
      | assumption
      | (extract_lets +onlyGivenNames x; first | (refine State.Apart.cut (s₀ := s₀) (s := x) ?_ fun hx => ?_; (on_goal 2 => clear_value x); (on_goal 1 => unfold x; clear x)) | clear_value x)
      | (fail_if_no_progress (apply apart_mk))

theorem State.requestOn_apart {s : State} {n : Nat} (hk : s.Apart s₀) : (State.requestOn s n).Apart s₀ := by
  unfold State.requestOn
  repeat' with_reducible first
      | assumption | apply State.setDom_apart | apply State.beginSwitch_apart
      | (extract_lets +onlyGivenNames x; first | (refine State.Apart.cut (s₀ := s₀) (s := x) ?_ fun hx => ?_; (on_goal 2 => clear_value x); (on_goal 1 => unfold x; clear x)) | clear_value x)
      | split | (fail_if_no_progress (apply apart_mk))

theorem State.endSleep_apart {s : State} (hk : s.Apart s₀) : (State.endSleep s).Apart s₀ := by
  unfold State.endSleep
  repeat' with_reducible first
      | assumption | apply State.requestOn_apart | apply foldl_apart | intro _
      | (extract_lets +onlyGivenNames x; first | (refine State.Apart.cut (s₀ := s₀) (s := x) ?_ fun hx => ?_; (on_goal 2 => clear_value x); (on_goal 1 => unfold x; clear x)) | clear_value x)
      | split | (fail_if_no_progress (apply apart_mk))

theorem State.freshWord_apart {s : State} (hk : s.Apart s₀) : (State.freshWord s).2.Apart s₀ := by
  unfold State.freshWord
  repeat' with_reducible first
      | assumption
      | (extract_lets +onlyGivenNames x; first | (refine State.Apart.cut (s₀ := s₀) (s := x) ?_ fun hx => ?_; (on_goal 2 => clear_value x); (on_goal 1 => unfold x; clear x)) | clear_value x)
      | (fail_if_no_progress (apply apart_mk))

theorem State.setClp_apart {s : State} {c : Nat} {q : ClusterPower} (hk : s.Apart s₀) : (State.setClp s c q).Apart s₀ := by
  unfold State.setClp
  repeat' with_reducible first
      | assumption
      | (extract_lets +onlyGivenNames x; first | (refine State.Apart.cut (s₀ := s₀) (s := x) ?_ fun hx => ?_; (on_goal 2 => clear_value x); (on_goal 1 => unfold x; clear x)) | clear_value x)
      | (fail_if_no_progress (apply apart_mk))

theorem State.wakeCluster_apart {s : State} {c : Nat} (hk : s.Apart s₀) : (State.wakeCluster s c).Apart s₀ := by
  unfold State.wakeCluster
  dsimp only
  split
  · exact State.requestOn_apart (State.requestOn_apart (State.requestOn_apart (State.setReg_apart (State.setClp_apart hk))))
  · exact State.setClp_apart hk
  · exact hk

theorem State.wakeCommon_apart {s : State} (hk : s.Apart s₀) : (State.wakeCommon s).Apart s₀ := by
  unfold State.wakeCommon
  repeat' with_reducible first
      | assumption | apply State.requestOn_apart | apply State.endSleep_apart | apply foldl_apart | intro _ | split

theorem State.latchFire_apart {s : State} {e data : Nat} (hk : s.Apart s₀) : (State.latchFire s e data).1.Apart s₀ := by
  unfold State.latchFire
  repeat' with_reducible first
      | assumption | apply State.wakeCluster_apart | apply State.wakeCommon_apart | apply State.bump_apart | apply foldl_apart | intro _
      | (extract_lets +onlyGivenNames x; first | (refine State.Apart.cut (s₀ := s₀) (s := x) ?_ fun hx => ?_; (on_goal 2 => clear_value x); (on_goal 1 => unfold x; clear x)) | clear_value x)
      | split | (fail_if_no_progress (apply apart_mk))

theorem State.noteEcc_apart {s : State} {e : Nat} (hk : s.Apart s₀) :
    (State.noteEcc s e).Apart s₀ := by
  unfold State.noteEcc
  repeat' with_reducible first
      | assumption
      | (extract_lets +onlyGivenNames x; first | (refine State.Apart.cut (s₀ := s₀) (s := x) ?_ fun hx => ?_; (on_goal 2 => clear_value x); (on_goal 1 => unfold x; clear x)) | clear_value x)
      | split | (fail_if_no_progress (apply apart_mk))

theorem State.notePast_apart {s : State} {row : Bool} {key : Nat} {old new : Word} (hk : s.Apart s₀) :
    (State.notePast s row key old new).Apart s₀ := by
  unfold State.notePast
  repeat' with_reducible first
      | assumption
      | (extract_lets +onlyGivenNames x; first | (refine State.Apart.cut (s₀ := s₀) (s := x) ?_ fun hx => ?_; (on_goal 2 => clear_value x); (on_goal 1 => unfold x; clear x)) | clear_value x)
      | split | (fail_if_no_progress (apply apart_mk))

theorem State.setSrc_apart {s : State} {e : Nat} {q : Source} (hk : s.Apart s₀) : (State.setSrc s e q).Apart s₀ := by
  unfold State.setSrc
  repeat' with_reducible first
      | assumption
      | (extract_lets +onlyGivenNames x; first | (refine State.Apart.cut (s₀ := s₀) (s := x) ?_ fun hx => ?_; (on_goal 2 => clear_value x); (on_goal 1 => unfold x; clear x)) | clear_value x)
      | (fail_if_no_progress (apply apart_mk))

theorem State.raiseSource_apart {s : State} {e data : Nat} (hk : s.Apart s₀) : (State.raiseSource s e data).Apart s₀ := by
  unfold State.raiseSource
  repeat' with_reducible first
      | assumption | apply State.bump_apart | apply State.setSrc_apart
      | (extract_lets +onlyGivenNames x; first | (refine State.Apart.cut (s₀ := s₀) (s := x) ?_ fun hx => ?_; (on_goal 2 => clear_value x); (on_goal 1 => unfold x; clear x)) | clear_value x)
      | split | (fail_if_no_progress (apply apart_mk))

theorem State.raise_apart {s : State} {e : Nat} {data : optParam Nat 0} (hk : s.Apart s₀) : (State.raise s e data).Apart s₀ := by
  unfold State.raise
  repeat' with_reducible first
      | assumption | (rename_i e; have e2 := congrArg Prod.snd e; dsimp only at e2; subst e2) | apply State.latchFire_apart
      | apply State.raiseSource_apart | apply foldl_apart | apply foldl_apart_snd | apply foldl_apart_mid | apply foldl_resKept
      | apply foldl_apartPair | apply foldl_apartSlot | intro _ | apply apartPair_none | apply apartPair_some | apply foldl_apartPair
      | exact ApartPair.state (by assumption) | exact optKept_none | apply optKept_some
      | (extract_lets +onlyGivenNames x; first | (refine State.Apart.cut (s₀ := s₀) (s := x) ?_ fun hx => ?_; (on_goal 2 => clear_value x); (on_goal 1 => unfold x; clear x)) | (refine State.Apart.cut (s₀ := s₀) (s := x.2) ?_ fun hx => ?_; (on_goal 2 => clear_value x); (on_goal 1 => unfold x; clear x)) | (refine State.Apart.cut (s₀ := s₀) (s := x.2.2) ?_ fun hx => ?_; (on_goal 2 => clear_value x); (on_goal 1 => unfold x; clear x)) | (refine State.Apart.cut (s₀ := s₀) (s := x.1) ?_ fun hx => ?_; (on_goal 2 => clear_value x); (on_goal 1 => unfold x; clear x)) | (have _f : _ → _ := x; clear _f) | clear_value x | skip)
      | split | (fail_if_no_progress (apply apart_mk)) | (fail_if_no_progress (apply apart_eraseRegs))
      | (fail_if_no_progress (apply apart_eraseRings)) | (fail_if_no_progress (apply apart_setCtr)) | (dsimp -zeta +zetaDelta only)

theorem State.raiseOnce_apart {s : State} {e : Nat} {data : optParam Nat 0} (hk : s.Apart s₀) :
    (State.raiseOnce s e data).Apart s₀ := by
  unfold State.raiseOnce
  repeat' with_reducible first
      | assumption | apply State.noteEcc_apart | apply State.raise_apart
      | (extract_lets +onlyGivenNames x; first | (refine State.Apart.cut (s₀ := s₀) (s := x) ?_ fun hx => ?_; (on_goal 2 => clear_value x); (on_goal 1 => unfold x; clear x)) | clear_value x)
      | split | (fail_if_no_progress (apply apart_mk))

theorem State.setPort_apart {s : State} {p : Nat} {q : PortRx} (hk : s.Apart s₀) :
    (State.setPort s p q).Apart s₀ := by
  unfold State.setPort
  repeat' with_reducible first
      | assumption
      | (extract_lets +onlyGivenNames x; first | (refine State.Apart.cut (s₀ := s₀) (s := x) ?_ fun hx => ?_; (on_goal 2 => clear_value x); (on_goal 1 => unfold x; clear x)) | clear_value x)
      | (fail_if_no_progress (apply apart_mk))

theorem State.setClRx_apart {s : State} {c : Nat} {q : ClusterRx} (hk : s.Apart s₀) :
    (State.setClRx s c q).Apart s₀ := by
  unfold State.setClRx
  repeat' with_reducible first
      | assumption
      | (extract_lets +onlyGivenNames x; first | (refine State.Apart.cut (s₀ := s₀) (s := x) ?_ fun hx => ?_; (on_goal 2 => clear_value x); (on_goal 1 => unfold x; clear x)) | clear_value x)
      | (fail_if_no_progress (apply apart_mk))

theorem State.setClTx_apart {s : State} {c : Nat} {q : ClusterTx} (hk : s.Apart s₀) :
    (State.setClTx s c q).Apart s₀ := by
  unfold State.setClTx
  repeat' with_reducible first
      | assumption
      | (extract_lets +onlyGivenNames x; first | (refine State.Apart.cut (s₀ := s₀) (s := x) ?_ fun hx => ?_; (on_goal 2 => clear_value x); (on_goal 1 => unfold x; clear x)) | clear_value x)
      | (fail_if_no_progress (apply apart_mk))

theorem State.setPortReg_apart {s : State} {idx sub : Nat} {v : Word} (hk : s.Apart s₀) :
    (State.setPortReg s idx sub v).Apart s₀ := by
  unfold State.setPortReg
  repeat' with_reducible first
      | assumption | apply State.setReg_apart | apply State.notePast_apart

theorem State.setPortTx_apart {s : State} {p : Nat} {q : PortTx} (hk : s.Apart s₀) :
    (State.setPortTx s p q).Apart s₀ := by
  unfold State.setPortTx
  repeat' with_reducible first
      | assumption
      | (extract_lets +onlyGivenNames x; first | (refine State.Apart.cut (s₀ := s₀) (s := x) ?_ fun hx => ?_; (on_goal 2 => clear_value x); (on_goal 1 => unfold x; clear x)) | clear_value x)
      | (fail_if_no_progress (apply apart_mk))

theorem State.setQuarter_apart {s : State} {q : Nat} {v : Quarter} (hk : s.Apart s₀) :
    (State.setQuarter s q v).Apart s₀ := by
  unfold State.setQuarter
  repeat' with_reducible first
      | assumption
      | (extract_lets +onlyGivenNames x; first | (refine State.Apart.cut (s₀ := s₀) (s := x) ?_ fun hx => ?_; (on_goal 2 => clear_value x); (on_goal 1 => unfold x; clear x)) | clear_value x)
      | (fail_if_no_progress (apply apart_mk))

theorem State.setRing_apart {s : State} {r : Nat} {q : Ring} (hk : s.Apart s₀) :
    (State.setRing s r q).Apart s₀ := by
  unfold State.setRing
  repeat' with_reducible first
      | assumption
      | (extract_lets +onlyGivenNames x; first | (refine State.Apart.cut (s₀ := s₀) (s := x) ?_ fun hx => ?_; (on_goal 2 => clear_value x); (on_goal 1 => unfold x; clear x)) | clear_value x)
      | (fail_if_no_progress (apply apart_mk))

theorem State.updClTx_apart {s : State} {c : Nat} {f : ClusterTx → ClusterTx} (hk : s.Apart s₀) :
    (State.updClTx s c f).Apart s₀ := by
  unfold State.updClTx
  repeat' with_reducible first
      | assumption | apply State.setClTx_apart

theorem State.setSch_apart {s : State} {c k : Nat} {r : SchRow} (hk : s.Apart s₀) :
    (State.setSch s c k r).Apart s₀ := by
  unfold State.setSch
  repeat' with_reducible first
      | assumption | apply State.updClTx_apart | (fail_if_no_progress (apply apart_mk))

theorem State.setShut_apart {s : State} {p : Nat} {q : Shutter} (hk : s.Apart s₀) :
    (State.setShut s p q).Apart s₀ := by
  unfold State.setShut
  repeat' with_reducible first
      | assumption
      | (extract_lets +onlyGivenNames x; first | (refine State.Apart.cut (s₀ := s₀) (s := x) ?_ fun hx => ?_; (on_goal 2 => clear_value x); (on_goal 1 => unfold x; clear x)) | clear_value x)
      | (fail_if_no_progress (apply apart_mk))

theorem State.updClRx_apart {s : State} {c : Nat} {f : ClusterRx → ClusterRx} (hk : s.Apart s₀) :
    (State.updClRx s c f).Apart s₀ := by
  unfold State.updClRx
  repeat' with_reducible first
      | assumption | apply State.setClRx_apart

theorem State.updPort_apart {s : State} {p : Nat} {f : PortRx → PortRx} (hk : s.Apart s₀) :
    (State.updPort s p f).Apart s₀ := by
  unfold State.updPort
  repeat' with_reducible first
      | assumption | apply State.setPort_apart

theorem State.updPortTx_apart {s : State} {p : Nat} {f : PortTx → PortTx} (hk : s.Apart s₀) :
    (State.updPortTx s p f).Apart s₀ := by
  unfold State.updPortTx
  repeat' with_reducible first
      | assumption | apply State.setPortTx_apart

theorem State.updRing_apart {s : State} {r : Nat} {f : Ring → Ring} (hk : s.Apart s₀) :
    (State.updRing s r f).Apart s₀ := by
  unfold State.updRing
  repeat' with_reducible first
      | assumption | apply State.setRing_apart

theorem State.updTwin_apart {s : State} {f : TwinUnit → TwinUnit} (hk : s.Apart s₀) :
    (State.updTwin s f).Apart s₀ := by
  unfold State.updTwin
  repeat' with_reducible first
      | assumption
      | (extract_lets +onlyGivenNames x; first | (refine State.Apart.cut (s₀ := s₀) (s := x) ?_ fun hx => ?_; (on_goal 2 => clear_value x); (on_goal 1 => unfold x; clear x)) | clear_value x)
      | (fail_if_no_progress (apply apart_mk))

theorem State.updDoor_apart {s : State} {c : Nat} {f : DoorUnit → DoorUnit} (hk : s.Apart s₀) :
    (State.updDoor s c f).Apart s₀ := by
  unfold State.updDoor
  repeat' with_reducible first
      | assumption | apply State.updClRx_apart | (fail_if_no_progress (apply apart_mk))

theorem State.flushOnDown_apart {s : State} {p : Nat} (hk : s.Apart s₀) :
    (State.flushOnDown s p).Apart s₀ := by
  unfold State.flushOnDown
  repeat' with_reducible first
      | assumption | apply State.updDoor_apart | split | (fail_if_no_progress (apply apart_mk))

theorem State.settleClass_apart {s : State} {c l n : Nat} (hk : s.Apart s₀) :
    (State.settleClass s c l n).Apart s₀ := by
  unfold State.settleClass
  repeat' with_reducible first
      | assumption | apply State.setSch_apart
      | (extract_lets +onlyGivenNames x; first | (refine State.Apart.cut (s₀ := s₀) (s := x) ?_ fun hx => ?_; (on_goal 2 => clear_value x); (on_goal 1 => unfold x; clear x)) | clear_value x)
      | split | (fail_if_no_progress (apply apart_mk))

theorem State.settlePort_apart {s : State} {p : Nat} (hk : s.Apart s₀) :
    (State.settlePort s p).Apart s₀ := by
  unfold State.settlePort
  repeat' with_reducible first
      | assumption | apply State.settleClass_apart | apply foldl_apart | intro _

theorem State.setPath_apart {s : State} {b : Bool} {q : HingePath} (hk : s.Apart s₀) :
    (State.setPath s b q).Apart s₀ := by
  unfold State.setPath
  repeat' with_reducible first
      | assumption | apply State.updTwin_apart | split | (fail_if_no_progress (apply apart_mk))

theorem State.pathSend_apart {s : State} {b : Bool} {m : HingeMsg} (hk : s.Apart s₀) :
    (State.pathSend s b m).Apart s₀ := by
  unfold State.pathSend
  repeat' with_reducible first
      | assumption | apply State.emit_apart | apply State.setPath_apart
      | (extract_lets +onlyGivenNames x; first | (refine State.Apart.cut (s₀ := s₀) (s := x) ?_ fun hx => ?_; (on_goal 2 => clear_value x); (on_goal 1 => unfold x; clear x)) | clear_value x)
      | (fail_if_no_progress (apply apart_mk))

theorem State.hingeSend_apart {s : State} {m : HingeMsg} (hk : s.Apart s₀) :
    (State.hingeSend s m).Apart s₀ := by
  unfold State.hingeSend
  repeat' with_reducible first
      | assumption | apply State.pathSend_apart | apply foldl_apart | intro _ | split

theorem State.shutCause_apart {s : State} {p bit : Nat} (hk : s.Apart s₀) :
    (State.shutCause s p bit).Apart s₀ := by
  unfold State.shutCause
  repeat' with_reducible first
      | assumption | apply State.setShut_apart | apply State.raise_apart
      | (extract_lets +onlyGivenNames x; first | (refine State.Apart.cut (s₀ := s₀) (s := x) ?_ fun hx => ?_; (on_goal 2 => clear_value x); (on_goal 1 => unfold x; clear x)) | clear_value x)
      | split | (fail_if_no_progress (apply apart_mk))

theorem State.busRead_apart {s : State} {r n : Nat} (hk : s.Apart s₀) : (State.busRead s r n).Apart s₀ := by
  unfold State.busRead
  repeat' with_reducible first
      | assumption | apply State.bump_apart

theorem State.busWrite_apart {s : State} {r n : Nat} (hk : s.Apart s₀) : (State.busWrite s r n).Apart s₀ := by
  unfold State.busWrite
  repeat' with_reducible first
      | assumption | apply State.bump_apart

theorem State.ringCause_apart {s : State} {r bit : Nat} (hk : s.Apart s₀) :
    (State.ringCause s r bit).Apart s₀ := by
  unfold State.ringCause
  repeat' with_reducible first
      | assumption | apply State.setRing_apart | apply State.raise_apart
      | (extract_lets +onlyGivenNames x; first | (refine State.Apart.cut (s₀ := s₀) (s := x) ?_ fun hx => ?_; (on_goal 2 => clear_value x); (on_goal 1 => unfold x; clear x)) | clear_value x)
      | split | (fail_if_no_progress (apply apart_mk))

theorem State.completeDesc_apart {s : State} {r i : Nat} {d : Desc} {result done : Nat} {aux : Option Word} {extra : Nat} (hk : s.Apart s₀) :
    (State.completeDesc s r i d result done aux extra).Apart s₀ := by
  unfold State.completeDesc
  repeat' with_reducible first
      | assumption | apply State.busWrite_apart | apply State.memWrite_apart | apply State.bump_apart | apply State.updRing_apart
      | apply State.ringCause_apart | apply State.raise_apart
      | (extract_lets +onlyGivenNames x; first | (refine State.Apart.cut (s₀ := s₀) (s := x) ?_ fun hx => ?_; (on_goal 2 => clear_value x); (on_goal 1 => unfold x; clear x)) | clear_value x)
      | split | (fail_if_no_progress (apply apart_mk))

theorem State.completeChain_apart {s : State} {r : Nat} {c : Chain} {result : Nat} {stamp : Option Word} (hk : s.Apart s₀) :
    (State.completeChain s r c result stamp).Apart s₀ := by
  unfold State.completeChain
  repeat' with_reducible first
      | assumption | apply State.completeDesc_apart | apply foldl_apart | intro _
      | (extract_lets +onlyGivenNames x; first | (refine State.Apart.cut (s₀ := s₀) (s := x) ?_ fun hx => ?_; (on_goal 2 => clear_value x); (on_goal 1 => unfold x; clear x)) | clear_value x)
      | split

theorem State.settleChains_apart {r a0 : Nat} {a1 : State} (hk : a1.Apart s₀) :
    (State.settleChains r a0 a1).Apart s₀ := by
  induction a0 generalizing a1 with
  | zero => exact hk
  | succ n ih =>
    unfold State.settleChains
    repeat' with_reducible first
      | assumption | apply ih | apply State.updRing_apart | apply State.completeChain_apart | split | (fail_if_no_progress (apply apart_mk))

theorem State.directDone_apart {s : State} {o : Option DirectRef} {result : Nat} {stamp : Option Word} (hk : s.Apart s₀) :
    (State.directDone s o result stamp).Apart s₀ := by
  unfold State.directDone
  repeat' with_reducible first
      | assumption | apply State.updRing_apart | apply State.settleChains_apart
      | (extract_lets +onlyGivenNames x; first | (refine State.Apart.cut (s₀ := s₀) (s := x) ?_ fun hx => ?_; (on_goal 2 => clear_value x); (on_goal 1 => unfold x; clear x)) | clear_value x)
      | split | (fail_if_no_progress (apply apart_mk))

theorem State.fetchDesc_apart {s : State} {r : Nat} (hk : s.Apart s₀) :
    (State.fetchDesc s r).2.Apart s₀ := by
  unfold State.fetchDesc
  repeat' with_reducible first
      | assumption | apply State.busRead_apart | apply State.setRing_apart
      | (extract_lets +onlyGivenNames x; first | (refine State.Apart.cut (s₀ := s₀) (s := x) ?_ fun hx => ?_; (on_goal 2 => clear_value x); (on_goal 1 => unfold x; clear x)) | clear_value x)
      | split | (fail_if_no_progress (apply apart_mk))

theorem State.reserveDescs_apart {r need a0 a1 a2 : Nat} {a3 : State} (hk : a3.Apart s₀) :
    (State.reserveDescs r need a0 a1 a2 a3).2.Apart s₀ := by
  induction a0 generalizing a1 a2 a3 with
  | zero => exact hk
  | succ n ih =>
    unfold State.reserveDescs
    repeat' with_reducible first
      | assumption | (rename_i e; have e2 := congrArg Prod.snd e; dsimp only at e2; subst e2) | apply ih | apply State.completeDesc_apart
      | apply State.updRing_apart | apply State.fetchDesc_apart | intro _
      | (extract_lets +onlyGivenNames x; first | (refine State.Apart.cut (s₀ := s₀) (s := x) ?_ fun hx => ?_; (on_goal 2 => clear_value x); (on_goal 1 => unfold x; clear x)) | (refine State.Apart.cut (s₀ := s₀) (s := x.2) ?_ fun hx => ?_; (on_goal 2 => clear_value x); (on_goal 1 => unfold x; clear x)) | (have _f : _ → _ := x; clear _f) | clear_value x | skip)
      | split | (fail_if_no_progress (apply apart_mk)) | (dsimp -zeta +zetaDelta only)

theorem State.stageRx_apart {s : State} {f : Staged} {good known : Bool} (hk : s.Apart s₀) :
    (State.stageRx s f good known).2.Apart s₀ := by
  unfold State.stageRx
  repeat' with_reducible first
      | assumption | apply State.reserveDescs_apart | apply State.ringCause_apart | apply State.bump_apart | apply State.updRing_apart
      | apply State.setQuarter_apart
      | (extract_lets +onlyGivenNames x; first | (refine State.Apart.cut (s₀ := s₀) (s := x) ?_ fun hx => ?_; (on_goal 2 => clear_value x); (on_goal 1 => unfold x; clear x)) | (refine State.Apart.cut (s₀ := s₀) (s := x.2) ?_ fun hx => ?_; (on_goal 2 => clear_value x); (on_goal 1 => unfold x; clear x)) | clear_value x)
      | split | (fail_if_no_progress (apply apart_mk))

theorem State.peepDrop_apart {s : State} {c k : Nat} (hk : s.Apart s₀) :
    (State.peepDrop s c k).Apart s₀ := by
  unfold State.peepDrop
  repeat' with_reducible first
      | assumption | apply State.raiseOnce_apart | apply State.bumpRow_apart

theorem State.skidPush_apart {s : State} {c : Nat} {f : SkidFrame} (hk : s.Apart s₀) :
    (State.skidPush s c f).Apart s₀ := by
  unfold State.skidPush
  repeat' with_reducible first
      | assumption | apply State.updClRx_apart | (fail_if_no_progress (apply apart_mk))

theorem State.peepCopy_apart {s : State} {c k : Nat} {t : TapIn} (hk : s.Apart s₀) :
    (State.peepCopy s c k t).Apart s₀ := by
  unfold State.peepCopy
  repeat' with_reducible first
      | assumption | apply State.updClRx_apart | apply State.peepDrop_apart | apply State.skidPush_apart | apply State.stageRx_apart
      | (extract_lets +onlyGivenNames x; first | (refine State.Apart.cut (s₀ := s₀) (s := x) ?_ fun hx => ?_; (on_goal 2 => clear_value x); (on_goal 1 => unfold x; clear x)) | (refine State.Apart.cut (s₀ := s₀) (s := x.2) ?_ fun hx => ?_; (on_goal 2 => clear_value x); (on_goal 1 => unfold x; clear x)) | clear_value x)
      | split | (fail_if_no_progress (apply apart_mk))

theorem State.peepTap_apart {s : State} {t : TapIn} (hk : s.Apart s₀) :
    (State.peepTap s t).Apart s₀ := by
  unfold State.peepTap
  repeat' with_reducible first
      | assumption | apply State.bumpRow_apart | apply State.updClRx_apart | apply State.peepCopy_apart | apply foldl_apart | intro _
      | (extract_lets +onlyGivenNames x; first | (refine State.Apart.cut (s₀ := s₀) (s := x) ?_ fun hx => ?_; (on_goal 2 => clear_value x); (on_goal 1 => unfold x; clear x)) | clear_value x)
      | split | (fail_if_no_progress (apply apart_mk))

theorem State.landFcLate_apart {s : State} {p back : Nat} (hk : s.Apart s₀) :
    (State.landFcLate s p back).Apart s₀ := by
  unfold State.landFcLate
  repeat' with_reducible first
      | assumption | apply State.updPort_apart | apply State.settlePort_apart | apply State.setPortReg_apart | apply foldl_apart | intro _
      | (extract_lets +onlyGivenNames x; first | (refine State.Apart.cut (s₀ := s₀) (s := x) ?_ fun hx => ?_; (on_goal 2 => clear_value x); (on_goal 1 => unfold x; clear x)) | (refine State.Apart.cut (s₀ := s₀) (s := x.2) ?_ fun hx => ?_; (on_goal 2 => clear_value x); (on_goal 1 => unfold x; clear x)) | clear_value x)
      | split | (fail_if_no_progress (apply apart_mk))

theorem State.ctlOnLanes_apart {s : State} {p : Nat} (hk : s.Apart s₀) :
    (State.ctlOnLanes s p).Apart s₀ := by
  unfold State.ctlOnLanes
  repeat' with_reducible first
      | assumption | apply State.updPortTx_apart
      | (extract_lets +onlyGivenNames x; first | (refine State.Apart.cut (s₀ := s₀) (s := x) ?_ fun hx => ?_; (on_goal 2 => clear_value x); (on_goal 1 => unfold x; clear x)) | clear_value x)
      | split | (fail_if_no_progress (apply apart_mk))

theorem State.lanes_apart {s : State} {p sfd : Nat} {frag : Option Nat} {bytes : Bytes} (hk : s.Apart s₀) :
    (State.lanes s p sfd frag bytes).Apart s₀ := by
  unfold State.lanes
  repeat' with_reducible first
      | assumption | apply State.emit_apart | split

theorem State.sendOwn_apart {s : State} {p sfd : Nat} {bytes : Bytes} (hk : s.Apart s₀) :
    (State.sendOwn s p sfd bytes).Apart s₀ := by
  unfold State.sendOwn
  repeat' with_reducible first
      | assumption | apply State.peepTap_apart | apply State.lanes_apart | (fail_if_no_progress (apply apart_mk))

theorem State.sendVerify_apart {s : State} {p smd : Nat} (hk : s.Apart s₀) :
    (State.sendVerify s p smd).Apart s₀ := by
  unfold State.sendVerify
  repeat' with_reducible first
      | assumption | apply State.sendOwn_apart

theorem State.countSent_apart {s : State} {p : Nat} {body : Bytes} (hk : s.Apart s₀) : (State.countSent s p body).Apart s₀ := by
  unfold State.countSent
  repeat' with_reducible first
      | assumption | apply State.bumpPort_apart
      | (extract_lets +onlyGivenNames x; first | (refine State.Apart.cut (s₀ := s₀) (s := x) ?_ fun hx => ?_; (on_goal 2 => clear_value x); (on_goal 1 => unfold x; clear x)) | clear_value x)
      | split

theorem State.sendMacCtl_apart {s : State} {p : Nat} {body : Bytes} (hk : s.Apart s₀) :
    (State.sendMacCtl s p body).Apart s₀ := by
  unfold State.sendMacCtl
  repeat' with_reducible first
      | assumption | apply State.sendOwn_apart | apply State.countSent_apart

theorem State.sendCtl_apart {s : State} {p : Nat} {k : CtlFrame} (hk : s.Apart s₀) :
    (State.sendCtl s p k).Apart s₀ := by
  unfold State.sendCtl
  repeat' with_reducible first
      | assumption | apply State.landFcLate_apart | apply State.ctlOnLanes_apart | apply State.sendVerify_apart | apply State.bumpPort_apart
      | apply State.sendMacCtl_apart | apply foldl_apart | intro _
      | (extract_lets +onlyGivenNames x; first | (refine State.Apart.cut (s₀ := s₀) (s := x) ?_ fun hx => ?_; (on_goal 2 => clear_value x); (on_goal 1 => unfold x; clear x)) | clear_value x)
      | split

theorem State.queueCtl_apart {s : State} {p : Nat} {k : CtlFrame} (hk : s.Apart s₀) :
    (State.queueCtl s p k).Apart s₀ := by
  unfold State.queueCtl
  repeat' with_reducible first
      | assumption | apply State.sendCtl_apart | apply State.updPortTx_apart | split | (fail_if_no_progress (apply apart_mk))

theorem State.verifyStart_apart {s : State} {p : Nat} (hk : s.Apart s₀) :
    (State.verifyStart s p).Apart s₀ := by
  unfold State.verifyStart
  repeat' with_reducible first
      | assumption | apply State.updPortTx_apart | apply State.queueCtl_apart
      | (extract_lets +onlyGivenNames x; first | (refine State.Apart.cut (s₀ := s₀) (s := x) ?_ fun hx => ?_; (on_goal 2 => clear_value x); (on_goal 1 => unfold x; clear x)) | clear_value x)
      | split | (fail_if_no_progress (apply apart_mk))

theorem State.landLate_apart {s : State} {p : Nat} (hk : s.Apart s₀) :
    (State.landLate s p).Apart s₀ := by
  unfold State.landLate
  repeat' with_reducible first
      | assumption | apply State.updPortTx_apart | apply State.verifyStart_apart | apply State.setReg_apart | apply foldl_apart | intro _
      | (extract_lets +onlyGivenNames x; first | (refine State.Apart.cut (s₀ := s₀) (s := x) ?_ fun hx => ?_; (on_goal 2 => clear_value x); (on_goal 1 => unfold x; clear x)) | (refine State.Apart.cut (s₀ := s₀) (s := x.2) ?_ fun hx => ?_; (on_goal 2 => clear_value x); (on_goal 1 => unfold x; clear x)) | clear_value x)
      | split | (fail_if_no_progress (apply apart_mk))

theorem State.xoffDone_apart {s : State} {p : Nat} (hk : s.Apart s₀) :
    (State.xoffDone s p).Apart s₀ := by
  unfold State.xoffDone
  repeat' with_reducible first
      | assumption | apply State.updPortTx_apart
      | (extract_lets +onlyGivenNames x; first | (refine State.Apart.cut (s₀ := s₀) (s := x) ?_ fun hx => ?_; (on_goal 2 => clear_value x); (on_goal 1 => unfold x; clear x)) | clear_value x)
      | (fail_if_no_progress (apply apart_mk))

theorem State.sendPfc_apart {s : State} {p : Nat} (hk : s.Apart s₀) :
    (State.sendPfc s p).Apart s₀ := by
  unfold State.sendPfc
  repeat' with_reducible first
      | assumption | apply State.queueCtl_apart | apply State.xoffDone_apart

theorem State.settlePfc_apart {s : State} {p : Nat} (hk : s.Apart s₀) :
    (State.settlePfc s p).Apart s₀ := by
  unfold State.settlePfc
  repeat' with_reducible first
      | assumption | apply State.sendPfc_apart | split

theorem State.sendWaiting_apart {s : State} {p : Nat} (hk : s.Apart s₀) :
    (State.sendWaiting s p).Apart s₀ := by
  unfold State.sendWaiting
  repeat' with_reducible first
      | assumption | apply State.settlePfc_apart | apply State.sendCtl_apart | apply State.setPortTx_apart | apply foldl_apart | intro _
      | (extract_lets +onlyGivenNames x; first | (refine State.Apart.cut (s₀ := s₀) (s := x) ?_ fun hx => ?_; (on_goal 2 => clear_value x); (on_goal 1 => unfold x; clear x)) | clear_value x)
      | split | (fail_if_no_progress (apply apart_mk))

theorem State.boundaryTx_apart {s : State} {p : Nat} (hk : s.Apart s₀) :
    (State.boundaryTx s p).Apart s₀ := by
  unfold State.boundaryTx
  repeat' with_reducible first
      | assumption | apply State.landLate_apart | apply State.sendWaiting_apart

theorem State.dropCtl_apart {s : State} {p : Nat} (hk : s.Apart s₀) :
    (State.dropCtl s p).Apart s₀ := by
  unfold State.dropCtl
  repeat' with_reducible first
      | assumption | apply State.updPortTx_apart | (fail_if_no_progress (apply apart_mk))

theorem State.endOnLanes_apart {s : State} {p : Nat} (hk : s.Apart s₀) :
    (State.endOnLanes s p).Apart s₀ := by
  unfold State.endOnLanes
  repeat' with_reducible first
      | assumption | apply State.updPortTx_apart
      | (extract_lets +onlyGivenNames x; first | (refine State.Apart.cut (s₀ := s₀) (s := x) ?_ fun hx => ?_; (on_goal 2 => clear_value x); (on_goal 1 => unfold x; clear x)) | clear_value x)
      | (fail_if_no_progress (apply apart_mk))

theorem State.fcUpdate_apart {s : State} {p : Nat} (hk : s.Apart s₀) :
    (State.fcUpdate s p).Apart s₀ := by
  unfold State.fcUpdate
  repeat' with_reducible first
      | assumption | (rename_i e; have e2 := congrArg Prod.snd e; dsimp only at e2; subst e2) | apply State.setPortTx_apart
      | apply State.queueCtl_apart | apply State.xoffDone_apart | apply State.updPortTx_apart
      | (extract_lets +onlyGivenNames x; first | (refine State.Apart.cut (s₀ := s₀) (s := x) ?_ fun hx => ?_; (on_goal 2 => clear_value x); (on_goal 1 => unfold x; clear x)) | clear_value x)
      | split | (fail_if_no_progress (apply apart_mk))

theorem State.fcStart_apart {s : State} {p : Nat} (hk : s.Apart s₀) :
    (State.fcStart s p).Apart s₀ := by
  unfold State.fcStart
  repeat' with_reducible first
      | assumption | apply State.fcUpdate_apart | apply State.updPortTx_apart | (fail_if_no_progress (apply apart_mk))

theorem State.setSignal_apart {s : State} {p : Nat} {sig : LaneSignal} (hk : s.Apart s₀) :
    (State.setSignal s p sig).Apart s₀ := by
  unfold State.setSignal
  repeat' with_reducible first
      | assumption | apply State.emit_apart | apply State.updPortTx_apart | split | (fail_if_no_progress (apply apart_mk))

theorem State.settleSignal_apart {s : State} {p : Nat} (hk : s.Apart s₀) :
    (State.settleSignal s p).Apart s₀ := by
  unfold State.settleSignal
  repeat' with_reducible first
      | assumption | apply State.setSignal_apart

theorem State.verifyStop_apart {s : State} {p : Nat} (hk : s.Apart s₀) :
    (State.verifyStop s p).Apart s₀ := by
  unfold State.verifyStop
  repeat' with_reducible first
      | assumption | apply State.updPortTx_apart | (fail_if_no_progress (apply apart_mk))

theorem State.countFirst_apart {s : State} {p : Nat} {f : TxFrame} {slot : Nat} (hk : s.Apart s₀) :
    (State.countFirst s p f slot).Apart s₀ := by
  unfold State.countFirst
  repeat' with_reducible first
      | assumption | apply State.bumpPort_apart | split

theorem State.wireFree_apart {s : State} {p : Nat} {f : TxFrame} (hk : s.Apart s₀) :
    (State.wireFree s p f).Apart s₀ := by
  unfold State.wireFree
  repeat' with_reducible first
      | assumption | apply State.boundaryTx_apart | apply State.endOnLanes_apart | apply State.updPortTx_apart
      | (fail_if_no_progress (apply apart_mk))

theorem State.tapPlain_apart {s : State} {p : Nat} {f : TxFrame} {stamp : Word} (hk : s.Apart s₀) :
    (State.tapPlain s p f stamp).Apart s₀ := by
  unfold State.tapPlain
  repeat' with_reducible first
      | assumption | apply State.peepTap_apart
      | (extract_lets +onlyGivenNames x; first | (refine State.Apart.cut (s₀ := s₀) (s := x) ?_ fun hx => ?_; (on_goal 2 => clear_value x); (on_goal 1 => unfold x; clear x)) | clear_value x)
      | split | (fail_if_no_progress (apply apart_mk))

theorem State.overrunCheck_apart {s : State} {p : Nat} {f : TxFrame} (hk : s.Apart s₀) :
    (State.overrunCheck s p f).Apart s₀ := by
  unfold State.overrunCheck
  repeat' with_reducible first
      | assumption | apply State.shutCause_apart | apply State.bumpPort_apart
      | (extract_lets +onlyGivenNames x; first | (refine State.Apart.cut (s₀ := s₀) (s := x) ?_ fun hx => ?_; (on_goal 2 => clear_value x); (on_goal 1 => unfold x; clear x)) | clear_value x)
      | split

theorem State.frameLeft_apart {s : State} {p : Nat} {f : TxFrame} {bytes : Bytes} {fin : End} (hk : s.Apart s₀) :
    (State.frameLeft s p f bytes fin).Apart s₀ := by
  unfold State.frameLeft
  repeat' with_reducible first
      | assumption | apply State.peepTap_apart | apply State.tapPlain_apart | apply State.overrunCheck_apart | apply State.directDone_apart
      | (extract_lets +onlyGivenNames x; first | (refine State.Apart.cut (s₀ := s₀) (s := x) ?_ fun hx => ?_; (on_goal 2 => clear_value x); (on_goal 1 => unfold x; clear x)) | clear_value x)
      | split | (fail_if_no_progress (apply apart_mk))

theorem State.sendFragment_apart {s : State} {p : Nat} {f : TxFrame} {bytes tail : Bytes} (hk : s.Apart s₀) :
    (State.sendFragment s p f bytes tail).Apart s₀ := by
  unfold State.sendFragment
  repeat' with_reducible first
      | assumption | apply State.bumpPort_apart | apply State.lanes_apart
      | (extract_lets +onlyGivenNames x; first | (refine State.Apart.cut (s₀ := s₀) (s := x) ?_ fun hx => ?_; (on_goal 2 => clear_value x); (on_goal 1 => unfold x; clear x)) | (refine State.Apart.cut (s₀ := s₀) (s := x.2) ?_ fun hx => ?_; (on_goal 2 => clear_value x); (on_goal 1 => unfold x; clear x)) | clear_value x)
      | split

theorem State.stompLanes_apart {s : State} {p : Nat} {f : TxFrame} {body : Bytes} (hk : s.Apart s₀) :
    (State.stompLanes s p f body).Apart s₀ := by
  unfold State.stompLanes
  repeat' with_reducible first
      | assumption | apply State.frameLeft_apart | apply State.sendFragment_apart | apply State.bumpPort_apart

theorem State.dropFrame_apart {s : State} {p : Nat} {f : TxFrame} (hk : s.Apart s₀) :
    (State.dropFrame s p f).Apart s₀ := by
  unfold State.dropFrame
  repeat' with_reducible first
      | assumption | apply State.freshWord_apart | apply State.tapPlain_apart | apply State.bump_apart | apply State.directDone_apart
      | (extract_lets +onlyGivenNames x; first | (refine State.Apart.cut (s₀ := s₀) (s := x) ?_ fun hx => ?_; (on_goal 2 => clear_value x); (on_goal 1 => unfold x; clear x)) | (refine State.Apart.cut (s₀ := s₀) (s := x.2) ?_ fun hx => ?_; (on_goal 2 => clear_value x); (on_goal 1 => unfold x; clear x)) | clear_value x)
      | split | (fail_if_no_progress (apply apart_mk))

theorem State.discardFrames_apart {s : State} {p slot : Nat} (hk : s.Apart s₀) :
    (State.discardFrames s p slot).Apart s₀ := by
  unfold State.discardFrames
  repeat' with_reducible first
      | assumption | apply State.bumpPort_apart | apply State.setPortTx_apart | apply State.landLate_apart | apply State.dropFrame_apart
      | apply foldl_apart | intro _
      | (extract_lets +onlyGivenNames x; first | (refine State.Apart.cut (s₀ := s₀) (s := x) ?_ fun hx => ?_; (on_goal 2 => clear_value x); (on_goal 1 => unfold x; clear x)) | clear_value x)
      | (fail_if_no_progress (apply apart_mk))

theorem State.txClose_apart {s : State} {p : Nat} (hk : s.Apart s₀) :
    (State.txClose s p).Apart s₀ := by
  unfold State.txClose
  repeat' with_reducible first
      | assumption | apply State.verifyStop_apart | apply State.discardFrames_apart | apply State.dropCtl_apart | apply State.updPortTx_apart
      | apply State.bump_apart | apply State.directDone_apart | apply foldl_apart | intro _
      | (extract_lets +onlyGivenNames x; first | (refine State.Apart.cut (s₀ := s₀) (s := x) ?_ fun hx => ?_; (on_goal 2 => clear_value x); (on_goal 1 => unfold x; clear x)) | clear_value x)
      | split | (fail_if_no_progress (apply apart_mk))

theorem State.txLinkDown_apart {s : State} {p : Nat} (hk : s.Apart s₀) :
    (State.txLinkDown s p).Apart s₀ := by
  unfold State.txLinkDown
  repeat' with_reducible first
      | assumption | apply State.dropCtl_apart | apply State.verifyStop_apart | apply State.discardFrames_apart

theorem State.setRole_apart {s : State} {r : Role} (hk : s.Apart s₀) :
    (State.setRole s r).Apart s₀ := by
  unfold State.setRole
  repeat' with_reducible first
      | assumption | apply State.updTwin_apart | apply State.bump_apart | apply State.raise_apart
      | (extract_lets +onlyGivenNames x; first | (refine State.Apart.cut (s₀ := s₀) (s := x) ?_ fun hx => ?_; (on_goal 2 => clear_value x); (on_goal 1 => unfold x; clear x)) | clear_value x)
      | split | (fail_if_no_progress (apply apart_mk))

theorem State.portSilent_apart {s : State} {p : Nat} (hk : s.Apart s₀) :
    (State.portSilent s p).Apart s₀ := by
  unfold State.portSilent
  repeat' with_reducible first
      | assumption | apply State.settleSignal_apart | apply State.updPortTx_apart | (fail_if_no_progress (apply apart_mk))

theorem State.releasePort_apart {s : State} {p : Nat} (hk : s.Apart s₀) :
    (State.releasePort s p).Apart s₀ := by
  unfold State.releasePort
  repeat' with_reducible first
      | assumption | apply State.wireFree_apart | apply State.portSilent_apart | apply State.stompLanes_apart | apply State.countFirst_apart
      | split

theorem State.swingRelease_apart {s : State} (hk : s.Apart s₀) :
    (State.swingRelease s).Apart s₀ := by
  unfold State.swingRelease
  repeat' with_reducible first
      | assumption | apply State.releasePort_apart | apply State.updTwin_apart | apply foldl_apart | intro _
      | (extract_lets +onlyGivenNames x; first | (refine State.Apart.cut (s₀ := s₀) (s := x) ?_ fun hx => ?_; (on_goal 2 => clear_value x); (on_goal 1 => unfold x; clear x)) | (refine State.Apart.cut (s₀ := s₀) (s := x.2) ?_ fun hx => ?_; (on_goal 2 => clear_value x); (on_goal 1 => unfold x; clear x)) | clear_value x)
      | (fail_if_no_progress (apply apart_mk))

theorem State.demote_apart {s : State} (hk : s.Apart s₀) :
    (State.demote s).Apart s₀ := by
  unfold State.demote
  repeat' with_reducible first
      | assumption | apply State.setRole_apart | apply State.swingRelease_apart | apply State.hingeSend_apart | split

theorem State.settleFaults_apart {s : State} (hk : s.Apart s₀) :
    (State.settleFaults s).Apart s₀ := by
  unfold State.settleFaults
  repeat' with_reducible first
      | assumption | (rename_i e; have e2 := congrArg Prod.snd e; dsimp only at e2; subst e2) | apply State.updTwin_apart
      | apply State.demote_apart
      | (extract_lets +onlyGivenNames x; first | (refine State.Apart.cut (s₀ := s₀) (s := x) ?_ fun hx => ?_; (on_goal 2 => clear_value x); (on_goal 1 => unfold x; clear x)) | clear_value x)
      | split | (fail_if_no_progress (apply apart_mk))

end Sys2Proof.Machine
end

