-- ==== Sys2Proof/Laws/Beside.lean ====
section
/-!
SUPPORT. What an event and a counter leave as it was.
-/
set_option linter.unusedTactic false
set_option linter.unreachableTactic false
set_option linter.unusedVariables false
set_option linter.tactic.unusedName false
namespace Sys2Proof.Machine

/-- What an event and a counter leave as it was. -/
structure State.Beside (s s₀ : State) : Prop where
  pending : s.pending = s₀.pending
  out : s.out = s₀.out
  free : s.free = s₀.free
  rows : s.rows = s₀.rows
  past : s.past = s₀.past
  time : s.time = s₀.time
  dict : s.dict = s₀.dict
  keys : s.keys = s₀.keys
  masks : s.masks = s₀.masks
  laneLock : s.laneLock = s₀.laneLock
  portRx : s.portRx = s₀.portRx
  clusterRx : s.clusterRx = s₀.clusterRx
  clusterTx : s.clusterTx = s₀.clusterTx
  portTx : s.portTx = s₀.portTx
  shutters : s.shutters = s₀.shutters
  rings : s.rings = s₀.rings
  quarters : s.quarters = s₀.quarters
  twin : s.twin = s₀.twin
  mem : s.mem = s₀.mem

theorem State.Beside.refl (s : State) : s.Beside s := ⟨rfl, rfl, rfl, rfl, rfl, rfl, rfl, rfl, rfl, rfl, rfl, rfl, rfl, rfl, rfl, rfl, rfl, rfl, rfl⟩

theorem State.Beside.cut {s s₀ : State} {p : Prop} (h : s.Beside s₀) (k : s.Beside s₀ → p) : p := k h

theorem beside_mk {s s₀ : State} (h : s.Beside s₀) {regs ctrs onceTick power clusterPower ev cu} :
    (State.mk s.pending s.out s.free regs s.rows s.past ctrs onceTick power clusterPower s.time ev cu s.dict s.keys s.masks s.laneLock s.portRx s.clusterRx s.clusterTx s.portTx s.shutters s.rings s.quarters s.twin s.mem).Beside s₀ :=
  ⟨h.pending, h.out, h.free, h.rows, h.past, h.time, h.dict, h.keys, h.masks, h.laneLock, h.portRx, h.clusterRx, h.clusterTx, h.portTx, h.shutters, h.rings, h.quarters, h.twin, h.mem⟩

theorem foldl_beside {α : Type} {f : State → α → State} {l : List α} {s s₀ : State} (h : s.Beside s₀)
    (hf : ∀ s a, s.Beside s₀ → (f s a).Beside s₀) : (l.foldl f s).Beside s₀ := by
  induction l generalizing s with
  | nil => exact h
  | cons a t ih => exact ih (hf _ _ h)

theorem foldl_beside_snd {α β : Type} {f : β × State → α → β × State} {l : List α} {x : β × State} {s₀ : State} (h : x.2.Beside s₀)
    (hf : ∀ x a, x.2.Beside s₀ → (f x a).2.Beside s₀) : (l.foldl f x).2.Beside s₀ := by
  induction l generalizing x with
  | nil => exact h
  | cons a t ih => exact ih (hf _ _ h)

theorem foldl_beside_mid {α β γ : Type} {f : β × State × γ → α → β × State × γ} {l : List α} {x : β × State × γ} {s₀ : State} (h : x.2.1.Beside s₀)
    (hf : ∀ x a, x.2.1.Beside s₀ → (f x a).2.1.Beside s₀) : (l.foldl f x).2.1.Beside s₀ := by
  induction l generalizing x with
  | nil => exact h
  | cons a t ih => exact ih (hf _ _ h)

variable {s₀ : State}

theorem State.setReg_beside {s : State} {i u : Nat} {v : Word} (h : s.Beside s₀) : (s.setReg i u v).Beside s₀ := beside_mk h

theorem State.bumpRow_beside {s : State} {i u r n : Nat} (h : s.Beside s₀) : (s.bumpRow i u r n).Beside s₀ := by
  unfold State.bumpRow
  dsimp only
  split
  · exact beside_mk (beside_mk h)
  · exact beside_mk h

theorem State.setDom_beside {s : State} {n : Nat} {d : Domain} (hk : s.Beside s₀) : (State.setDom s n d).Beside s₀ := by
  unfold State.setDom
  repeat' with_reducible first
      | assumption
      | (extract_lets +onlyGivenNames x; first | (refine State.Beside.cut (s₀ := s₀) (s := x) ?_ fun hx => ?_; (on_goal 2 => clear_value x); (on_goal 1 => unfold x; clear x)) | clear_value x)
      | (fail_if_no_progress (apply beside_mk))

theorem State.beginSwitch_beside {s : State} {n : Nat} {goal : Pwr} (hk : s.Beside s₀) : (State.beginSwitch s n goal).Beside s₀ := by
  unfold State.beginSwitch
  repeat' with_reducible first
      | assumption | apply State.setDom_beside
      | (extract_lets +onlyGivenNames x; first | (refine State.Beside.cut (s₀ := s₀) (s := x) ?_ fun hx => ?_; (on_goal 2 => clear_value x); (on_goal 1 => unfold x; clear x)) | clear_value x)
      | split | (fail_if_no_progress (apply beside_mk))

theorem State.bump_beside {s : State} {idx sub n : Nat} (hk : s.Beside s₀) : (State.bump s idx sub n).Beside s₀ := by
  unfold State.bump
  repeat' with_reducible first
      | assumption | apply State.bumpRow_beside

theorem State.requestOn_beside {s : State} {n : Nat} (hk : s.Beside s₀) : (State.requestOn s n).Beside s₀ := by
  unfold State.requestOn
  repeat' with_reducible first
      | assumption | apply State.setDom_beside | apply State.beginSwitch_beside
      | (extract_lets +onlyGivenNames x; first | (refine State.Beside.cut (s₀ := s₀) (s := x) ?_ fun hx => ?_; (on_goal 2 => clear_value x); (on_goal 1 => unfold x; clear x)) | clear_value x)
      | split | (fail_if_no_progress (apply beside_mk))

theorem State.endSleep_beside {s : State} (hk : s.Beside s₀) : (State.endSleep s).Beside s₀ := by
  unfold State.endSleep
  repeat' with_reducible first
      | assumption | apply State.requestOn_beside | apply foldl_beside | intro _
      | (extract_lets +onlyGivenNames x; first | (refine State.Beside.cut (s₀ := s₀) (s := x) ?_ fun hx => ?_; (on_goal 2 => clear_value x); (on_goal 1 => unfold x; clear x)) | clear_value x)
      | split | (fail_if_no_progress (apply beside_mk))

theorem State.setClp_beside {s : State} {c : Nat} {q : ClusterPower} (hk : s.Beside s₀) : (State.setClp s c q).Beside s₀ := by
  unfold State.setClp
  repeat' with_reducible first
      | assumption
      | (extract_lets +onlyGivenNames x; first | (refine State.Beside.cut (s₀ := s₀) (s := x) ?_ fun hx => ?_; (on_goal 2 => clear_value x); (on_goal 1 => unfold x; clear x)) | clear_value x)
      | (fail_if_no_progress (apply beside_mk))

theorem State.wakeCluster_beside {s : State} {c : Nat} (hk : s.Beside s₀) : (State.wakeCluster s c).Beside s₀ := by
  unfold State.wakeCluster
  dsimp only
  split
  · exact State.requestOn_beside (State.requestOn_beside (State.requestOn_beside (State.setReg_beside (State.setClp_beside hk))))
  · exact State.setClp_beside hk
  · exact hk

theorem State.wakeCommon_beside {s : State} (hk : s.Beside s₀) : (State.wakeCommon s).Beside s₀ := by
  unfold State.wakeCommon
  repeat' with_reducible first
      | assumption | apply State.requestOn_beside | apply State.endSleep_beside | apply foldl_beside | intro _ | split

theorem State.latchFire_beside {s : State} {e data : Nat} (hk : s.Beside s₀) : (State.latchFire s e data).1.Beside s₀ := by
  unfold State.latchFire
  repeat' with_reducible first
      | assumption | apply State.wakeCluster_beside | apply State.wakeCommon_beside | apply State.bump_beside | apply foldl_beside | intro _
      | (extract_lets +onlyGivenNames x; first | (refine State.Beside.cut (s₀ := s₀) (s := x) ?_ fun hx => ?_; (on_goal 2 => clear_value x); (on_goal 1 => unfold x; clear x)) | clear_value x)
      | split | (fail_if_no_progress (apply beside_mk))

theorem State.setSrc_beside {s : State} {e : Nat} {q : Source} (hk : s.Beside s₀) : (State.setSrc s e q).Beside s₀ := by
  unfold State.setSrc
  repeat' with_reducible first
      | assumption
      | (extract_lets +onlyGivenNames x; first | (refine State.Beside.cut (s₀ := s₀) (s := x) ?_ fun hx => ?_; (on_goal 2 => clear_value x); (on_goal 1 => unfold x; clear x)) | clear_value x)
      | (fail_if_no_progress (apply beside_mk))

theorem State.raiseSource_beside {s : State} {e data : Nat} (hk : s.Beside s₀) : (State.raiseSource s e data).Beside s₀ := by
  unfold State.raiseSource
  repeat' with_reducible first
      | assumption | apply State.bump_beside | apply State.setSrc_beside
      | (extract_lets +onlyGivenNames x; first | (refine State.Beside.cut (s₀ := s₀) (s := x) ?_ fun hx => ?_; (on_goal 2 => clear_value x); (on_goal 1 => unfold x; clear x)) | clear_value x)
      | split | (fail_if_no_progress (apply beside_mk))

theorem State.raise_beside {s : State} {e : Nat} {data : optParam Nat 0} (hk : s.Beside s₀) : (State.raise s e data).Beside s₀ := by
  unfold State.raise
  repeat' with_reducible first
      | assumption | (rename_i e; have e2 := congrArg Prod.snd e; dsimp only at e2; subst e2) | apply State.latchFire_beside
      | apply State.raiseSource_beside | apply foldl_beside | apply foldl_beside_snd | apply foldl_beside_mid | apply foldl_resKept
      | apply foldl_besidePair | apply foldl_besideSlot | intro _ | apply besidePair_none | apply besidePair_some | apply foldl_besidePair
      | exact BesidePair.state (by assumption) | exact optKept_none | apply optKept_some
      | (extract_lets +onlyGivenNames x; first | (refine State.Beside.cut (s₀ := s₀) (s := x) ?_ fun hx => ?_; (on_goal 2 => clear_value x); (on_goal 1 => unfold x; clear x)) | (refine State.Beside.cut (s₀ := s₀) (s := x.2) ?_ fun hx => ?_; (on_goal 2 => clear_value x); (on_goal 1 => unfold x; clear x)) | (refine State.Beside.cut (s₀ := s₀) (s := x.2.2) ?_ fun hx => ?_; (on_goal 2 => clear_value x); (on_goal 1 => unfold x; clear x)) | (refine State.Beside.cut (s₀ := s₀) (s := x.1) ?_ fun hx => ?_; (on_goal 2 => clear_value x); (on_goal 1 => unfold x; clear x)) | (have _f : _ → _ := x; clear _f) | clear_value x | skip)
      | split | (fail_if_no_progress (apply beside_mk)) | (fail_if_no_progress (apply beside_eraseRegs))
      | (fail_if_no_progress (apply beside_eraseRings)) | (fail_if_no_progress (apply beside_setCtr)) | (dsimp -zeta +zetaDelta only)

end Sys2Proof.Machine
end

