-- ==== Sys2Proof/Laws/Map.lean ====
section
/-!
SUPPORT. Laws of the sparse stores: what a read after a write gives, and that every operation keeps the canonical form.
-/
namespace Sys2Proof.Machine.SMap
variable {α : Type}

/-- Keys rising and no listed value equal to what its key reads as unlisted. -/
def Canon (d : Nat → α) (m : SMap α) : Prop := rising m = true ∧ ∀ e ∈ m, e.2 ≠ d e.1

theorem canon_iff_wf [DecidableEq α] (d : α) (m : SMap α) : Canon (fun _ => d) m ↔ wf d m = true := by
  simp [Canon, wf]

theorem above_iff (k : Nat) (m : SMap α) : above k m = true ↔ ∀ e ∈ m, k < e.1 := by simp [above]

theorem rising_cons (k : Nat) (v : α) (t : SMap α) : rising ((k, v) :: t) = true ↔ (∀ e ∈ t, k < e.1) ∧ rising t = true := by
  simp [rising, above_iff]

theorem mem_put {m : SMap α} {k : Nat} {v : α} {e : Nat × α} (h : e ∈ put m k v) : e = (k, v) ∨ e ∈ m := by
  induction m with
  | nil => simpa [put] using h
  | cons a t ih =>
    obtain ⟨j, w⟩ := a
    simp only [put] at h
    split at h
    · rcases List.mem_cons.mp h with h | h
      · exact .inl h
      · exact .inr (List.mem_cons_of_mem _ h)
    · split at h
      · rcases List.mem_cons.mp h with h | h
        · exact .inr (h ▸ List.mem_cons_self)
        · exact (ih h).imp id (List.mem_cons_of_mem _)
      · rcases List.mem_cons.mp h with h | h
        · exact .inl h
        · exact .inr h

theorem mem_erase {m : SMap α} {k : Nat} {e : Nat × α} (h : e ∈ erase m k) : e ∈ m := by
  induction m with
  | nil => simp [erase] at h
  | cons a t ih =>
    obtain ⟨j, w⟩ := a
    simp only [erase] at h
    split at h
    · exact List.mem_cons_of_mem _ (ih h)
    · rcases List.mem_cons.mp h with h | h
      · exact h ▸ List.mem_cons_self
      · exact List.mem_cons_of_mem _ (ih h)

theorem rising_put {m : SMap α} (k : Nat) (v : α) (h : rising m = true) : rising (put m k v) = true := by
  induction m with
  | nil => rfl
  | cons a t ih =>
    obtain ⟨j, w⟩ := a
    rw [rising_cons] at h
    simp only [put]
    split
    · subst_vars; rw [rising_cons]; exact h
    · split
      · rw [rising_cons]
        refine ⟨fun e he => ?_, ih h.2⟩
        rcases mem_put he with rfl | he
        · assumption
        · exact h.1 e he
      · rw [rising_cons, rising_cons]
        refine ⟨fun e he => ?_, h⟩
        rcases List.mem_cons.mp he with rfl | he
        · simp only; omega
        · have := h.1 e he; omega

theorem rising_erase {m : SMap α} (k : Nat) (h : rising m = true) : rising (erase m k) = true := by
  induction m with
  | nil => rfl
  | cons a t ih =>
    obtain ⟨j, w⟩ := a
    rw [rising_cons] at h
    simp only [erase]
    split
    · exact ih h.2
    · rw [rising_cons]
      exact ⟨fun e he => h.1 e (mem_erase he), ih h.2⟩

/-- A write keeps the canonical form; writing what an unlisted key reads as removes the entry. -/
theorem canon_set [DecidableEq α] {d : Nat → α} {m : SMap α} {k : Nat} (v : α) (h : Canon d m) (hd : d k = x) :
    Canon d (set x m k v) := by
  unfold set
  split
  · exact ⟨rising_erase k h.1, fun e he => h.2 e (mem_erase he)⟩
  · refine ⟨rising_put k v h.1, fun e he => ?_⟩
    rcases mem_put he with rfl | he
    · simpa [hd]
    · exact h.2 e he

theorem rising_set [DecidableEq α] {m : SMap α} (d : α) (k : Nat) (v : α) (h : rising m = true) : rising (set d m k v) = true := by
  unfold set; split
  · exact rising_erase k h
  · exact rising_put k v h

theorem rising_filter {m : SMap α} (p : Nat × α → Bool) (h : rising m = true) : rising (m.filter p) = true := by
  induction m with
  | nil => rfl
  | cons a t ih =>
    obtain ⟨j, w⟩ := a
    rw [rising_cons] at h
    simp only [List.filter_cons]
    split
    · rw [rising_cons]
      exact ⟨fun e he => h.1 e (List.mem_filter.mp he).1, ih h.2⟩
    · exact ih h.2

theorem canon_filter {d : Nat → α} {m : SMap α} (p : Nat × α → Bool) (h : Canon d m) : Canon d (m.filter p) :=
  ⟨rising_filter p h.1, fun e he => h.2 e (List.mem_filter.mp he).1⟩

theorem canon_eraseWhere {d : Nat → α} {m : SMap α} (p : Nat → Bool) (h : Canon d m) : Canon d (eraseWhere p m) :=
  canon_filter _ h

theorem canon_nil (d : Nat → α) : Canon d ([] : SMap α) := ⟨rfl, by simp⟩

/-! ### Reads after writes -/

@[simp] theorem get_nil (d : α) (k : Nat) : get d [] k = d := rfl

theorem get_put {d : α} (m : SMap α) (k i : Nat) (v : α) : get d (put m k v) i = if i = k then v else get d m i := by
  induction m with
  | nil => simp [put, get, eq_comm]
  | cons a t ih =>
    obtain ⟨j, w⟩ := a
    simp only [put]
    split
    · subst_vars
      by_cases hi : i = j
      · simp [get, hi]
      · simp [get, hi, Ne.symm hi]
    · split
      · simp only [get, ih]
        by_cases hj : j = i
        · have : i ≠ k := by omega
          simp [hj, this]
        · simp [hj]
      · by_cases hi : i = k
        · simp [get, hi]
        · have : k ≠ i := fun hk => hi hk.symm
          simp [get, hi, this]

theorem get_erase {d : α} (m : SMap α) (k i : Nat) : get d (erase m k) i = if i = k then d else get d m i := by
  induction m with
  | nil => simp [erase, get]
  | cons a t ih =>
    obtain ⟨j, w⟩ := a
    simp only [erase]
    split
    · subst_vars
      rw [ih]
      by_cases hi : i = j
      · simp [hi]
      · simp [get, hi, Ne.symm hi]
    · simp only [get, ih]
      by_cases hj : j = i
      · subst hj; simp [*]
      · simp [hj]

/-- A read after a write: the value written at its key. -/
theorem get_set [DecidableEq α] {d : α} (m : SMap α) (k i : Nat) (v : α) :
    get d (set d m k v) i = if i = k then v else get d m i := by
  unfold set
  split
  · subst_vars; exact get_erase m k i
  · exact get_put m k i v

@[simp] theorem get_set_self [DecidableEq α] {d : α} (m : SMap α) (k : Nat) (v : α) : get d (set d m k v) k = v := by
  simp [get_set]

/-- A read after a write at another key: as before. -/
theorem get_set_ne [DecidableEq α] {d d' : α} {m : SMap α} {k i : Nat} (v : α) (hne : i ≠ k) :
    get d (set d' m k v) i = get d m i := by
  unfold set
  split
  · exact (get_erase m k i).trans (if_neg hne)
  · exact (get_put m k i v).trans (if_neg hne)

end Sys2Proof.Machine.SMap
end

