-- ==== Sys2Proof/Laws/Linked.lean ====
section
/-!
SUPPORT. What the transmit side and the Doorlist do when a link changes leaves of the ports: their links, states and causes.
-/
set_option linter.unusedTactic false
set_option linter.unreachableTactic false
set_option linter.unusedVariables false
set_option linter.tactic.unusedName false
namespace Sys2Proof.Machine

/-- What a port's link takes no part in: LINK_STATE, the port's state and its causes are the same of every port. -/
structure State.Linked (s s₀ : State) : Prop where
  port : ∀ p, (s.port p).link = (s₀.port p).link ∧ (s.port p).st = (s₀.port p).st ∧ (s.port p).cause = (s₀.port p).cause

theorem State.Linked.refl (s : State) : s.Linked s := ⟨fun _ => ⟨rfl, rfl, rfl⟩⟩

theorem State.Linked.cut {s s₀ : State} {p : Prop} (h : s.Linked s₀) (k : s.Linked s₀ → p) : p := k h

theorem linked_mk {s s₀ : State} (h : s.Linked s₀) {pending out free regs rows past ctrs onceTick power clusterPower time ev cu dict keys masks laneLock clusterRx clusterTx portTx shutters rings quarters twin mem} :
    (State.mk pending out free regs rows past ctrs onceTick power clusterPower time ev cu dict keys masks laneLock s.portRx clusterRx clusterTx portTx shutters rings quarters twin mem).Linked s₀ :=
  ⟨h.port⟩

theorem foldl_linked {α : Type} {f : State → α → State} {l : List α} {s s₀ : State} (h : s.Linked s₀)
    (hf : ∀ s a, s.Linked s₀ → (f s a).Linked s₀) : (l.foldl f s).Linked s₀ := by
  induction l generalizing s with
  | nil => exact h
  | cons a t ih => exact ih (hf _ _ h)

theorem foldl_linked_snd {α β : Type} {f : β × State → α → β × State} {l : List α} {x : β × State} {s₀ : State} (h : x.2.Linked s₀)
    (hf : ∀ x a, x.2.Linked s₀ → (f x a).2.Linked s₀) : (l.foldl f x).2.Linked s₀ := by
  induction l generalizing x with
  | nil => exact h
  | cons a t ih => exact ih (hf _ _ h)

theorem foldl_linked_mid {α β γ : Type} {f : β × State × γ → α → β × State × γ} {l : List α} {x : β × State × γ} {s₀ : State} (h : x.2.1.Linked s₀)
    (hf : ∀ x a, x.2.1.Linked s₀ → (f x a).2.1.Linked s₀) : (l.foldl f x).2.1.Linked s₀ := by
  induction l generalizing x with
  | nil => exact h
  | cons a t ih => exact ih (hf _ _ h)

variable {s₀ : State}

theorem State.bumpRow_linked {s : State} {i u r n : Nat} (h : s.Linked s₀) : (s.bumpRow i u r n).Linked s₀ := by
  unfold State.bumpRow
  dsimp only
  split
  · exact linked_mk (linked_mk h)
  · exact linked_mk h

theorem State.setReg_linked {s : State} {i u : Nat} {v : Word} (h : s.Linked s₀) : (s.setReg i u v).Linked s₀ := linked_mk h

theorem State.memWrite_linked {s : State} {a : Nat} {bs : Bytes} (h : s.Linked s₀) : (s.memWrite a bs).Linked s₀ := by
  induction bs generalizing s a with
  | nil => exact h
  | cons b t ih => exact ih (linked_mk h)

theorem State.setDom_linked {s : State} {n : Nat} {d : Domain} (hk : s.Linked s₀) : (State.setDom s n d).Linked s₀ := by
  unfold State.setDom
  repeat' with_reducible first
      | assumption
      | (extract_lets +onlyGivenNames x; first | (refine State.Linked.cut (s₀ := s₀) (s := x) ?_ fun hx => ?_; (on_goal 2 => clear_value x); (on_goal 1 => unfold x; clear x)) | clear_value x)
      | (fail_if_no_progress (apply linked_mk))

theorem State.beginSwitch_linked {s : State} {n : Nat} {goal : Pwr} (hk : s.Linked s₀) : (State.beginSwitch s n goal).Linked s₀ := by
  unfold State.beginSwitch
  repeat' with_reducible first
      | assumption | apply State.setDom_linked
      | (extract_lets +onlyGivenNames x; first | (refine State.Linked.cut (s₀ := s₀) (s := x) ?_ fun hx => ?_; (on_goal 2 => clear_value x); (on_goal 1 => unfold x; clear x)) | clear_value x)
      | split | (fail_if_no_progress (apply linked_mk))

theorem State.bump_linked {s : State} {idx sub n : Nat} (hk : s.Linked s₀) : (State.bump s idx sub n).Linked s₀ := by
  unfold State.bump
  repeat' with_reducible first
      | assumption | apply State.bumpRow_linked

theorem State.bumpPort_linked {s : State} {p slot n : Nat} (hk : s.Linked s₀) : (State.bumpPort s p slot n).Linked s₀ := by
  unfold State.bumpPort
  repeat' with_reducible first
      | assumption | apply State.bumpRow_linked

theorem State.emit_linked {s : State} {o : Output} (hk : s.Linked s₀) : (State.emit s o).Linked s₀ := by
  unfold State.emit
  repeat' with_reducible first
      | assumption
      | (extract_lets +onlyGivenNames x; first | (refine State.Linked.cut (s₀ := s₀) (s := x) ?_ fun hx => ?_; (on_goal 2 => clear_value x); (on_goal 1 => unfold x; clear x)) | clear_value x)
      | (fail_if_no_progress (apply linked_mk))

theorem State.requestOn_linked {s : State} {n : Nat} (hk : s.Linked s₀) : (State.requestOn s n).Linked s₀ := by
  unfold State.requestOn
  repeat' with_reducible first
      | assumption | apply State.setDom_linked | apply State.beginSwitch_linked
      | (extract_lets +onlyGivenNames x; first | (refine State.Linked.cut (s₀ := s₀) (s := x) ?_ fun hx => ?_; (on_goal 2 => clear_value x); (on_goal 1 => unfold x; clear x)) | clear_value x)
      | split | (fail_if_no_progress (apply linked_mk))

theorem State.endSleep_linked {s : State} (hk : s.Linked s₀) : (State.endSleep s).Linked s₀ := by
  unfold State.endSleep
  repeat' with_reducible first
      | assumption | apply State.requestOn_linked | apply foldl_linked | intro _
      | (extract_lets +onlyGivenNames x; first | (refine State.Linked.cut (s₀ := s₀) (s := x) ?_ fun hx => ?_; (on_goal 2 => clear_value x); (on_goal 1 => unfold x; clear x)) | clear_value x)
      | split | (fail_if_no_progress (apply linked_mk))

theorem State.freshWord_linked {s : State} (hk : s.Linked s₀) : (State.freshWord s).2.Linked s₀ := by
  unfold State.freshWord
  repeat' with_reducible first
      | assumption
      | (extract_lets +onlyGivenNames x; first | (refine State.Linked.cut (s₀ := s₀) (s := x) ?_ fun hx => ?_; (on_goal 2 => clear_value x); (on_goal 1 => unfold x; clear x)) | clear_value x)
      | (fail_if_no_progress (apply linked_mk))

theorem State.setClp_linked {s : State} {c : Nat} {q : ClusterPower} (hk : s.Linked s₀) : (State.setClp s c q).Linked s₀ := by
  unfold State.setClp
  repeat' with_reducible first
      | assumption
      | (extract_lets +onlyGivenNames x; first | (refine State.Linked.cut (s₀ := s₀) (s := x) ?_ fun hx => ?_; (on_goal 2 => clear_value x); (on_goal 1 => unfold x; clear x)) | clear_value x)
      | (fail_if_no_progress (apply linked_mk))

theorem State.wakeCluster_linked {s : State} {c : Nat} (hk : s.Linked s₀) : (State.wakeCluster s c).Linked s₀ := by
  unfold State.wakeCluster
  dsimp only
  split
  · exact State.requestOn_linked (State.requestOn_linked (State.requestOn_linked (State.setReg_linked (State.setClp_linked hk))))
  · exact State.setClp_linked hk
  · exact hk

theorem State.wakeCommon_linked {s : State} (hk : s.Linked s₀) : (State.wakeCommon s).Linked s₀ := by
  unfold State.wakeCommon
  repeat' with_reducible first
      | assumption | apply State.requestOn_linked | apply State.endSleep_linked | apply foldl_linked | intro _ | split

theorem State.latchFire_linked {s : State} {e data : Nat} (hk : s.Linked s₀) : (State.latchFire s e data).1.Linked s₀ := by
  unfold State.latchFire
  repeat' with_reducible first
      | assumption | apply State.wakeCluster_linked | apply State.wakeCommon_linked | apply State.bump_linked | apply foldl_linked | intro _
      | (extract_lets +onlyGivenNames x; first | (refine State.Linked.cut (s₀ := s₀) (s := x) ?_ fun hx => ?_; (on_goal 2 => clear_value x); (on_goal 1 => unfold x; clear x)) | clear_value x)
      | split | (fail_if_no_progress (apply linked_mk))

theorem State.noteEcc_linked {s : State} {e : Nat} (hk : s.Linked s₀) :
    (State.noteEcc s e).Linked s₀ := by
  unfold State.noteEcc
  repeat' with_reducible first
      | assumption
      | (extract_lets +onlyGivenNames x; first | (refine State.Linked.cut (s₀ := s₀) (s := x) ?_ fun hx => ?_; (on_goal 2 => clear_value x); (on_goal 1 => unfold x; clear x)) | clear_value x)
      | split | (fail_if_no_progress (apply linked_mk))

theorem State.notePast_linked {s : State} {row : Bool} {key : Nat} {old new : Word} (hk : s.Linked s₀) :
    (State.notePast s row key old new).Linked s₀ := by
  unfold State.notePast
  repeat' with_reducible first
      | assumption
      | (extract_lets +onlyGivenNames x; first | (refine State.Linked.cut (s₀ := s₀) (s := x) ?_ fun hx => ?_; (on_goal 2 => clear_value x); (on_goal 1 => unfold x; clear x)) | clear_value x)
      | split | (fail_if_no_progress (apply linked_mk))

theorem State.setSrc_linked {s : State} {e : Nat} {q : Source} (hk : s.Linked s₀) : (State.setSrc s e q).Linked s₀ := by
  unfold State.setSrc
  repeat' with_reducible first
      | assumption
      | (extract_lets +onlyGivenNames x; first | (refine State.Linked.cut (s₀ := s₀) (s := x) ?_ fun hx => ?_; (on_goal 2 => clear_value x); (on_goal 1 => unfold x; clear x)) | clear_value x)
      | (fail_if_no_progress (apply linked_mk))

theorem State.raiseSource_linked {s : State} {e data : Nat} (hk : s.Linked s₀) : (State.raiseSource s e data).Linked s₀ := by
  unfold State.raiseSource
  repeat' with_reducible first
      | assumption | apply State.bump_linked | apply State.setSrc_linked
      | (extract_lets +onlyGivenNames x; first | (refine State.Linked.cut (s₀ := s₀) (s := x) ?_ fun hx => ?_; (on_goal 2 => clear_value x); (on_goal 1 => unfold x; clear x)) | clear_value x)
      | split | (fail_if_no_progress (apply linked_mk))

theorem State.raise_linked {s : State} {e : Nat} {data : optParam Nat 0} (hk : s.Linked s₀) : (State.raise s e data).Linked s₀ := by
  unfold State.raise
  repeat' with_reducible first
      | assumption | (rename_i e; have e2 := congrArg Prod.snd e; dsimp only at e2; subst e2) | apply State.latchFire_linked
      | apply State.raiseSource_linked | apply foldl_linked | apply foldl_linked_snd | apply foldl_linked_mid | apply foldl_resKept
      | apply foldl_linkedPair | apply foldl_linkedSlot | intro _ | apply linkedPair_none | apply linkedPair_some | apply foldl_linkedPair
      | exact LinkedPair.state (by assumption) | exact optKept_none | apply optKept_some
      | (extract_lets +onlyGivenNames x; first | (refine State.Linked.cut (s₀ := s₀) (s := x) ?_ fun hx => ?_; (on_goal 2 => clear_value x); (on_goal 1 => unfold x; clear x)) | (refine State.Linked.cut (s₀ := s₀) (s := x.2) ?_ fun hx => ?_; (on_goal 2 => clear_value x); (on_goal 1 => unfold x; clear x)) | (refine State.Linked.cut (s₀ := s₀) (s := x.2.2) ?_ fun hx => ?_; (on_goal 2 => clear_value x); (on_goal 1 => unfold x; clear x)) | (refine State.Linked.cut (s₀ := s₀) (s := x.1) ?_ fun hx => ?_; (on_goal 2 => clear_value x); (on_goal 1 => unfold x; clear x)) | (have _f : _ → _ := x; clear _f) | clear_value x | skip)
      | split | (fail_if_no_progress (apply linked_mk)) | (fail_if_no_progress (apply linked_eraseRegs))
      | (fail_if_no_progress (apply linked_eraseRings)) | (fail_if_no_progress (apply linked_setCtr)) | (dsimp -zeta +zetaDelta only)

theorem State.raiseOnce_linked {s : State} {e : Nat} {data : optParam Nat 0} (hk : s.Linked s₀) :
    (State.raiseOnce s e data).Linked s₀ := by
  unfold State.raiseOnce
  repeat' with_reducible first
      | assumption | apply State.noteEcc_linked | apply State.raise_linked
      | (extract_lets +onlyGivenNames x; first | (refine State.Linked.cut (s₀ := s₀) (s := x) ?_ fun hx => ?_; (on_goal 2 => clear_value x); (on_goal 1 => unfold x; clear x)) | clear_value x)
      | split | (fail_if_no_progress (apply linked_mk))



theorem State.setClRx_linked {s : State} {c : Nat} {q : ClusterRx} (hk : s.Linked s₀) :
    (State.setClRx s c q).Linked s₀ := by
  unfold State.setClRx
  repeat' with_reducible first
      | assumption
      | (extract_lets +onlyGivenNames x; first | (refine State.Linked.cut (s₀ := s₀) (s := x) ?_ fun hx => ?_; (on_goal 2 => clear_value x); (on_goal 1 => unfold x; clear x)) | clear_value x)
      | (fail_if_no_progress (apply linked_mk))

theorem State.setClTx_linked {s : State} {c : Nat} {q : ClusterTx} (hk : s.Linked s₀) :
    (State.setClTx s c q).Linked s₀ := by
  unfold State.setClTx
  repeat' with_reducible first
      | assumption
      | (extract_lets +onlyGivenNames x; first | (refine State.Linked.cut (s₀ := s₀) (s := x) ?_ fun hx => ?_; (on_goal 2 => clear_value x); (on_goal 1 => unfold x; clear x)) | clear_value x)
      | (fail_if_no_progress (apply linked_mk))

theorem State.setPortReg_linked {s : State} {idx sub : Nat} {v : Word} (hk : s.Linked s₀) :
    (State.setPortReg s idx sub v).Linked s₀ := by
  unfold State.setPortReg
  repeat' with_reducible first
      | assumption | apply State.setReg_linked | apply State.notePast_linked

theorem State.setPortTx_linked {s : State} {p : Nat} {q : PortTx} (hk : s.Linked s₀) :
    (State.setPortTx s p q).Linked s₀ := by
  unfold State.setPortTx
  repeat' with_reducible first
      | assumption
      | (extract_lets +onlyGivenNames x; first | (refine State.Linked.cut (s₀ := s₀) (s := x) ?_ fun hx => ?_; (on_goal 2 => clear_value x); (on_goal 1 => unfold x; clear x)) | clear_value x)
      | (fail_if_no_progress (apply linked_mk))

theorem State.setQuarter_linked {s : State} {q : Nat} {v : Quarter} (hk : s.Linked s₀) :
    (State.setQuarter s q v).Linked s₀ := by
  unfold State.setQuarter
  repeat' with_reducible first
      | assumption
      | (extract_lets +onlyGivenNames x; first | (refine State.Linked.cut (s₀ := s₀) (s := x) ?_ fun hx => ?_; (on_goal 2 => clear_value x); (on_goal 1 => unfold x; clear x)) | clear_value x)
      | (fail_if_no_progress (apply linked_mk))

theorem State.setRing_linked {s : State} {r : Nat} {q : Ring} (hk : s.Linked s₀) :
    (State.setRing s r q).Linked s₀ := by
  unfold State.setRing
  repeat' with_reducible first
      | assumption
      | (extract_lets +onlyGivenNames x; first | (refine State.Linked.cut (s₀ := s₀) (s := x) ?_ fun hx => ?_; (on_goal 2 => clear_value x); (on_goal 1 => unfold x; clear x)) | clear_value x)
      | (fail_if_no_progress (apply linked_mk))

theorem State.updClTx_linked {s : State} {c : Nat} {f : ClusterTx → ClusterTx} (hk : s.Linked s₀) :
    (State.updClTx s c f).Linked s₀ := by
  unfold State.updClTx
  repeat' with_reducible first
      | assumption | apply State.setClTx_linked

theorem State.setSch_linked {s : State} {c k : Nat} {r : SchRow} (hk : s.Linked s₀) :
    (State.setSch s c k r).Linked s₀ := by
  unfold State.setSch
  repeat' with_reducible first
      | assumption | apply State.updClTx_linked | (fail_if_no_progress (apply linked_mk))

theorem State.updClRx_linked {s : State} {c : Nat} {f : ClusterRx → ClusterRx} (hk : s.Linked s₀) :
    (State.updClRx s c f).Linked s₀ := by
  unfold State.updClRx
  repeat' with_reducible first
      | assumption | apply State.setClRx_linked



theorem State.updPortTx_linked {s : State} {p : Nat} {f : PortTx → PortTx} (hk : s.Linked s₀) :
    (State.updPortTx s p f).Linked s₀ := by
  unfold State.updPortTx
  repeat' with_reducible first
      | assumption | apply State.setPortTx_linked

theorem State.updRing_linked {s : State} {r : Nat} {f : Ring → Ring} (hk : s.Linked s₀) :
    (State.updRing s r f).Linked s₀ := by
  unfold State.updRing
  repeat' with_reducible first
      | assumption | apply State.setRing_linked

theorem State.updDoor_linked {s : State} {c : Nat} {f : DoorUnit → DoorUnit} (hk : s.Linked s₀) :
    (State.updDoor s c f).Linked s₀ := by
  unfold State.updDoor
  repeat' with_reducible first
      | assumption | apply State.updClRx_linked | (fail_if_no_progress (apply linked_mk))

theorem State.flushOnDown_linked {s : State} {p : Nat} (hk : s.Linked s₀) :
    (State.flushOnDown s p).Linked s₀ := by
  unfold State.flushOnDown
  repeat' with_reducible first
      | assumption | apply State.updDoor_linked | split | (fail_if_no_progress (apply linked_mk))

theorem State.settleClass_linked {s : State} {c l n : Nat} (hk : s.Linked s₀) :
    (State.settleClass s c l n).Linked s₀ := by
  unfold State.settleClass
  repeat' with_reducible first
      | assumption | apply State.setSch_linked
      | (extract_lets +onlyGivenNames x; first | (refine State.Linked.cut (s₀ := s₀) (s := x) ?_ fun hx => ?_; (on_goal 2 => clear_value x); (on_goal 1 => unfold x; clear x)) | clear_value x)
      | split | (fail_if_no_progress (apply linked_mk))

theorem State.settlePort_linked {s : State} {p : Nat} (hk : s.Linked s₀) :
    (State.settlePort s p).Linked s₀ := by
  unfold State.settlePort
  repeat' with_reducible first
      | assumption | apply State.settleClass_linked | apply foldl_linked | intro _

theorem State.busRead_linked {s : State} {r n : Nat} (hk : s.Linked s₀) : (State.busRead s r n).Linked s₀ := by
  unfold State.busRead
  repeat' with_reducible first
      | assumption | apply State.bump_linked

theorem State.busWrite_linked {s : State} {r n : Nat} (hk : s.Linked s₀) : (State.busWrite s r n).Linked s₀ := by
  unfold State.busWrite
  repeat' with_reducible first
      | assumption | apply State.bump_linked

theorem State.ringCause_linked {s : State} {r bit : Nat} (hk : s.Linked s₀) :
    (State.ringCause s r bit).Linked s₀ := by
  unfold State.ringCause
  repeat' with_reducible first
      | assumption | apply State.setRing_linked | apply State.raise_linked
      | (extract_lets +onlyGivenNames x; first | (refine State.Linked.cut (s₀ := s₀) (s := x) ?_ fun hx => ?_; (on_goal 2 => clear_value x); (on_goal 1 => unfold x; clear x)) | clear_value x)
      | split | (fail_if_no_progress (apply linked_mk))

theorem State.completeDesc_linked {s : State} {r i : Nat} {d : Desc} {result done : Nat} {aux : Option Word} {extra : Nat} (hk : s.Linked s₀) :
    (State.completeDesc s r i d result done aux extra).Linked s₀ := by
  unfold State.completeDesc
  repeat' with_reducible first
      | assumption | apply State.busWrite_linked | apply State.memWrite_linked | apply State.bump_linked | apply State.updRing_linked
      | apply State.ringCause_linked | apply State.raise_linked
      | (extract_lets +onlyGivenNames x; first | (refine State.Linked.cut (s₀ := s₀) (s := x) ?_ fun hx => ?_; (on_goal 2 => clear_value x); (on_goal 1 => unfold x; clear x)) | clear_value x)
      | split | (fail_if_no_progress (apply linked_mk))

theorem State.completeChain_linked {s : State} {r : Nat} {c : Chain} {result : Nat} {stamp : Option Word} (hk : s.Linked s₀) :
    (State.completeChain s r c result stamp).Linked s₀ := by
  unfold State.completeChain
  repeat' with_reducible first
      | assumption | apply State.completeDesc_linked | apply foldl_linked | intro _
      | (extract_lets +onlyGivenNames x; first | (refine State.Linked.cut (s₀ := s₀) (s := x) ?_ fun hx => ?_; (on_goal 2 => clear_value x); (on_goal 1 => unfold x; clear x)) | clear_value x)
      | split

theorem State.settleChains_linked {r a0 : Nat} {a1 : State} (hk : a1.Linked s₀) :
    (State.settleChains r a0 a1).Linked s₀ := by
  induction a0 generalizing a1 with
  | zero => exact hk
  | succ n ih =>
    unfold State.settleChains
    repeat' with_reducible first
      | assumption | apply ih | apply State.updRing_linked | apply State.completeChain_linked | split | (fail_if_no_progress (apply linked_mk))

theorem State.directDone_linked {s : State} {o : Option DirectRef} {result : Nat} {stamp : Option Word} (hk : s.Linked s₀) :
    (State.directDone s o result stamp).Linked s₀ := by
  unfold State.directDone
  repeat' with_reducible first
      | assumption | apply State.updRing_linked | apply State.settleChains_linked
      | (extract_lets +onlyGivenNames x; first | (refine State.Linked.cut (s₀ := s₀) (s := x) ?_ fun hx => ?_; (on_goal 2 => clear_value x); (on_goal 1 => unfold x; clear x)) | clear_value x)
      | split | (fail_if_no_progress (apply linked_mk))

theorem State.fetchDesc_linked {s : State} {r : Nat} (hk : s.Linked s₀) :
    (State.fetchDesc s r).2.Linked s₀ := by
  unfold State.fetchDesc
  repeat' with_reducible first
      | assumption | apply State.busRead_linked | apply State.setRing_linked
      | (extract_lets +onlyGivenNames x; first | (refine State.Linked.cut (s₀ := s₀) (s := x) ?_ fun hx => ?_; (on_goal 2 => clear_value x); (on_goal 1 => unfold x; clear x)) | clear_value x)
      | split | (fail_if_no_progress (apply linked_mk))

theorem State.reserveDescs_linked {r need a0 a1 a2 : Nat} {a3 : State} (hk : a3.Linked s₀) :
    (State.reserveDescs r need a0 a1 a2 a3).2.Linked s₀ := by
  induction a0 generalizing a1 a2 a3 with
  | zero => exact hk
  | succ n ih =>
    unfold State.reserveDescs
    repeat' with_reducible first
      | assumption | (rename_i e; have e2 := congrArg Prod.snd e; dsimp only at e2; subst e2) | apply ih | apply State.completeDesc_linked
      | apply State.updRing_linked | apply State.fetchDesc_linked | intro _
      | (extract_lets +onlyGivenNames x; first | (refine State.Linked.cut (s₀ := s₀) (s := x) ?_ fun hx => ?_; (on_goal 2 => clear_value x); (on_goal 1 => unfold x; clear x)) | (refine State.Linked.cut (s₀ := s₀) (s := x.2) ?_ fun hx => ?_; (on_goal 2 => clear_value x); (on_goal 1 => unfold x; clear x)) | (have _f : _ → _ := x; clear _f) | clear_value x | skip)
      | split | (fail_if_no_progress (apply linked_mk)) | (dsimp -zeta +zetaDelta only)

theorem State.stageRx_linked {s : State} {f : Staged} {good known : Bool} (hk : s.Linked s₀) :
    (State.stageRx s f good known).2.Linked s₀ := by
  unfold State.stageRx
  repeat' with_reducible first
      | assumption | apply State.reserveDescs_linked | apply State.ringCause_linked | apply State.bump_linked | apply State.updRing_linked
      | apply State.setQuarter_linked
      | (extract_lets +onlyGivenNames x; first | (refine State.Linked.cut (s₀ := s₀) (s := x) ?_ fun hx => ?_; (on_goal 2 => clear_value x); (on_goal 1 => unfold x; clear x)) | (refine State.Linked.cut (s₀ := s₀) (s := x.2) ?_ fun hx => ?_; (on_goal 2 => clear_value x); (on_goal 1 => unfold x; clear x)) | clear_value x)
      | split | (fail_if_no_progress (apply linked_mk))

theorem State.peepDrop_linked {s : State} {c k : Nat} (hk : s.Linked s₀) :
    (State.peepDrop s c k).Linked s₀ := by
  unfold State.peepDrop
  repeat' with_reducible first
      | assumption | apply State.raiseOnce_linked | apply State.bumpRow_linked

theorem State.skidPush_linked {s : State} {c : Nat} {f : SkidFrame} (hk : s.Linked s₀) :
    (State.skidPush s c f).Linked s₀ := by
  unfold State.skidPush
  repeat' with_reducible first
      | assumption | apply State.updClRx_linked | (fail_if_no_progress (apply linked_mk))

theorem State.peepCopy_linked {s : State} {c k : Nat} {t : TapIn} (hk : s.Linked s₀) :
    (State.peepCopy s c k t).Linked s₀ := by
  unfold State.peepCopy
  repeat' with_reducible first
      | assumption | apply State.updClRx_linked | apply State.peepDrop_linked | apply State.skidPush_linked | apply State.stageRx_linked
      | (extract_lets +onlyGivenNames x; first | (refine State.Linked.cut (s₀ := s₀) (s := x) ?_ fun hx => ?_; (on_goal 2 => clear_value x); (on_goal 1 => unfold x; clear x)) | (refine State.Linked.cut (s₀ := s₀) (s := x.2) ?_ fun hx => ?_; (on_goal 2 => clear_value x); (on_goal 1 => unfold x; clear x)) | clear_value x)
      | split | (fail_if_no_progress (apply linked_mk))

theorem State.peepTap_linked {s : State} {t : TapIn} (hk : s.Linked s₀) :
    (State.peepTap s t).Linked s₀ := by
  unfold State.peepTap
  repeat' with_reducible first
      | assumption | apply State.bumpRow_linked | apply State.updClRx_linked | apply State.peepCopy_linked | apply foldl_linked | intro _
      | (extract_lets +onlyGivenNames x; first | (refine State.Linked.cut (s₀ := s₀) (s := x) ?_ fun hx => ?_; (on_goal 2 => clear_value x); (on_goal 1 => unfold x; clear x)) | clear_value x)
      | split | (fail_if_no_progress (apply linked_mk))

/-- A port's receive side but for its timers and the writes that wait for a frame start. -/
theorem State.updPort_linked {s : State} {p : Nat} {f : PortRx → PortRx} (hk : s.Linked s₀)
    (hf : ∀ q, (f q).link = q.link ∧ (f q).st = q.st ∧ (f q).cause = q.cause) : (s.updPort p f).Linked s₀ := by
  refine ⟨fun k => ?_⟩
  have h : ((s.updPort p f).port k).link = (s.port k).link ∧ ((s.updPort p f).port k).st = (s.port k).st ∧
      ((s.updPort p f).port k).cause = (s.port k).cause := by
    by_cases e : k = p
    · subst e
      simp only [State.updPort, State.setPort, State.port, SMap.get_set]
      exact hf _
    · simp only [State.updPort, State.setPort, State.port, SMap.get_set_ne _ e, and_self]
  rw [h.1, h.2.1, h.2.2]
  exact hk.port k

theorem State.landFcLate_linked {s : State} {p back : Nat} (hk : s.Linked s₀) : (State.landFcLate s p back).Linked s₀ := by
  unfold State.landFcLate
  extract_lets due s1
  split
  · exact hk
  · have h1 : s1.Linked s₀ := State.updPort_linked hk fun q => ⟨rfl, rfl, rfl⟩
    clear_value s1
    exact foldl_linked h1 fun t w ht =>
      State.settlePort_linked (State.updPort_linked (State.setPortReg_linked ht) fun q => ⟨rfl, rfl, rfl⟩)

theorem State.ctlOnLanes_linked {s : State} {p : Nat} (hk : s.Linked s₀) :
    (State.ctlOnLanes s p).Linked s₀ := by
  unfold State.ctlOnLanes
  repeat' with_reducible first
      | assumption | apply State.updPortTx_linked
      | (extract_lets +onlyGivenNames x; first | (refine State.Linked.cut (s₀ := s₀) (s := x) ?_ fun hx => ?_; (on_goal 2 => clear_value x); (on_goal 1 => unfold x; clear x)) | clear_value x)
      | split | (fail_if_no_progress (apply linked_mk))

theorem State.lanes_linked {s : State} {p sfd : Nat} {frag : Option Nat} {bytes : Bytes} (hk : s.Linked s₀) :
    (State.lanes s p sfd frag bytes).Linked s₀ := by
  unfold State.lanes
  repeat' with_reducible first
      | assumption | apply State.emit_linked | split

theorem State.sendOwn_linked {s : State} {p sfd : Nat} {bytes : Bytes} (hk : s.Linked s₀) :
    (State.sendOwn s p sfd bytes).Linked s₀ := by
  unfold State.sendOwn
  repeat' with_reducible first
      | assumption | apply State.peepTap_linked | apply State.lanes_linked | (fail_if_no_progress (apply linked_mk))

theorem State.sendVerify_linked {s : State} {p smd : Nat} (hk : s.Linked s₀) :
    (State.sendVerify s p smd).Linked s₀ := by
  unfold State.sendVerify
  repeat' with_reducible first
      | assumption | apply State.sendOwn_linked

theorem State.countSent_linked {s : State} {p : Nat} {body : Bytes} (hk : s.Linked s₀) : (State.countSent s p body).Linked s₀ := by
  unfold State.countSent
  repeat' with_reducible first
      | assumption | apply State.bumpPort_linked
      | (extract_lets +onlyGivenNames x; first | (refine State.Linked.cut (s₀ := s₀) (s := x) ?_ fun hx => ?_; (on_goal 2 => clear_value x); (on_goal 1 => unfold x; clear x)) | clear_value x)
      | split

theorem State.sendMacCtl_linked {s : State} {p : Nat} {body : Bytes} (hk : s.Linked s₀) :
    (State.sendMacCtl s p body).Linked s₀ := by
  unfold State.sendMacCtl
  repeat' with_reducible first
      | assumption | apply State.sendOwn_linked | apply State.countSent_linked

theorem State.sendCtl_linked {s : State} {p : Nat} {k : CtlFrame} (hk : s.Linked s₀) :
    (State.sendCtl s p k).Linked s₀ := by
  unfold State.sendCtl
  repeat' with_reducible first
      | assumption | apply State.landFcLate_linked | apply State.ctlOnLanes_linked | apply State.sendVerify_linked | apply State.bumpPort_linked
      | apply State.sendMacCtl_linked | apply foldl_linked | intro _
      | (extract_lets +onlyGivenNames x; first | (refine State.Linked.cut (s₀ := s₀) (s := x) ?_ fun hx => ?_; (on_goal 2 => clear_value x); (on_goal 1 => unfold x; clear x)) | clear_value x)
      | split

theorem State.queueCtl_linked {s : State} {p : Nat} {k : CtlFrame} (hk : s.Linked s₀) :
    (State.queueCtl s p k).Linked s₀ := by
  unfold State.queueCtl
  repeat' with_reducible first
      | assumption | apply State.sendCtl_linked | apply State.updPortTx_linked | split | (fail_if_no_progress (apply linked_mk))

theorem State.verifyStart_linked {s : State} {p : Nat} (hk : s.Linked s₀) :
    (State.verifyStart s p).Linked s₀ := by
  unfold State.verifyStart
  repeat' with_reducible first
      | assumption | apply State.updPortTx_linked | apply State.queueCtl_linked
      | (extract_lets +onlyGivenNames x; first | (refine State.Linked.cut (s₀ := s₀) (s := x) ?_ fun hx => ?_; (on_goal 2 => clear_value x); (on_goal 1 => unfold x; clear x)) | clear_value x)
      | split | (fail_if_no_progress (apply linked_mk))

theorem State.landLate_linked {s : State} {p : Nat} (hk : s.Linked s₀) :
    (State.landLate s p).Linked s₀ := by
  unfold State.landLate
  repeat' with_reducible first
      | assumption | apply State.updPortTx_linked | apply State.verifyStart_linked | apply State.setReg_linked | apply foldl_linked | intro _
      | (extract_lets +onlyGivenNames x; first | (refine State.Linked.cut (s₀ := s₀) (s := x) ?_ fun hx => ?_; (on_goal 2 => clear_value x); (on_goal 1 => unfold x; clear x)) | (refine State.Linked.cut (s₀ := s₀) (s := x.2) ?_ fun hx => ?_; (on_goal 2 => clear_value x); (on_goal 1 => unfold x; clear x)) | clear_value x)
      | split | (fail_if_no_progress (apply linked_mk))

theorem State.xoffDone_linked {s : State} {p : Nat} (hk : s.Linked s₀) :
    (State.xoffDone s p).Linked s₀ := by
  unfold State.xoffDone
  repeat' with_reducible first
      | assumption | apply State.updPortTx_linked
      | (extract_lets +onlyGivenNames x; first | (refine State.Linked.cut (s₀ := s₀) (s := x) ?_ fun hx => ?_; (on_goal 2 => clear_value x); (on_goal 1 => unfold x; clear x)) | clear_value x)
      | (fail_if_no_progress (apply linked_mk))

theorem State.dropCtl_linked {s : State} {p : Nat} (hk : s.Linked s₀) :
    (State.dropCtl s p).Linked s₀ := by
  unfold State.dropCtl
  repeat' with_reducible first
      | assumption | apply State.updPortTx_linked | (fail_if_no_progress (apply linked_mk))

theorem State.fcUpdate_linked {s : State} {p : Nat} (hk : s.Linked s₀) :
    (State.fcUpdate s p).Linked s₀ := by
  unfold State.fcUpdate
  repeat' with_reducible first
      | assumption | (rename_i e; have e2 := congrArg Prod.snd e; dsimp only at e2; subst e2) | apply State.setPortTx_linked
      | apply State.queueCtl_linked | apply State.xoffDone_linked | apply State.updPortTx_linked
      | (extract_lets +onlyGivenNames x; first | (refine State.Linked.cut (s₀ := s₀) (s := x) ?_ fun hx => ?_; (on_goal 2 => clear_value x); (on_goal 1 => unfold x; clear x)) | clear_value x)
      | split | (fail_if_no_progress (apply linked_mk))

theorem State.fcStart_linked {s : State} {p : Nat} (hk : s.Linked s₀) :
    (State.fcStart s p).Linked s₀ := by
  unfold State.fcStart
  repeat' with_reducible first
      | assumption | apply State.fcUpdate_linked | apply State.updPortTx_linked | (fail_if_no_progress (apply linked_mk))

theorem State.setSignal_linked {s : State} {p : Nat} {sig : LaneSignal} (hk : s.Linked s₀) :
    (State.setSignal s p sig).Linked s₀ := by
  unfold State.setSignal
  repeat' with_reducible first
      | assumption | apply State.emit_linked | apply State.updPortTx_linked | split | (fail_if_no_progress (apply linked_mk))

theorem State.settleSignal_linked {s : State} {p : Nat} (hk : s.Linked s₀) :
    (State.settleSignal s p).Linked s₀ := by
  unfold State.settleSignal
  repeat' with_reducible first
      | assumption | apply State.setSignal_linked

theorem State.verifyStop_linked {s : State} {p : Nat} (hk : s.Linked s₀) :
    (State.verifyStop s p).Linked s₀ := by
  unfold State.verifyStop
  repeat' with_reducible first
      | assumption | apply State.updPortTx_linked | (fail_if_no_progress (apply linked_mk))

theorem State.tapPlain_linked {s : State} {p : Nat} {f : TxFrame} {stamp : Word} (hk : s.Linked s₀) :
    (State.tapPlain s p f stamp).Linked s₀ := by
  unfold State.tapPlain
  repeat' with_reducible first
      | assumption | apply State.peepTap_linked
      | (extract_lets +onlyGivenNames x; first | (refine State.Linked.cut (s₀ := s₀) (s := x) ?_ fun hx => ?_; (on_goal 2 => clear_value x); (on_goal 1 => unfold x; clear x)) | clear_value x)
      | split | (fail_if_no_progress (apply linked_mk))

theorem State.dropFrame_linked {s : State} {p : Nat} {f : TxFrame} (hk : s.Linked s₀) :
    (State.dropFrame s p f).Linked s₀ := by
  unfold State.dropFrame
  repeat' with_reducible first
      | assumption | apply State.freshWord_linked | apply State.tapPlain_linked | apply State.bump_linked | apply State.directDone_linked
      | (extract_lets +onlyGivenNames x; first | (refine State.Linked.cut (s₀ := s₀) (s := x) ?_ fun hx => ?_; (on_goal 2 => clear_value x); (on_goal 1 => unfold x; clear x)) | (refine State.Linked.cut (s₀ := s₀) (s := x.2) ?_ fun hx => ?_; (on_goal 2 => clear_value x); (on_goal 1 => unfold x; clear x)) | clear_value x)
      | split | (fail_if_no_progress (apply linked_mk))

theorem State.discardFrames_linked {s : State} {p slot : Nat} (hk : s.Linked s₀) :
    (State.discardFrames s p slot).Linked s₀ := by
  unfold State.discardFrames
  repeat' with_reducible first
      | assumption | apply State.bumpPort_linked | apply State.setPortTx_linked | apply State.landLate_linked | apply State.dropFrame_linked
      | apply foldl_linked | intro _
      | (extract_lets +onlyGivenNames x; first | (refine State.Linked.cut (s₀ := s₀) (s := x) ?_ fun hx => ?_; (on_goal 2 => clear_value x); (on_goal 1 => unfold x; clear x)) | clear_value x)
      | (fail_if_no_progress (apply linked_mk))

theorem State.txLinkDown_linked {s : State} {p : Nat} (hk : s.Linked s₀) :
    (State.txLinkDown s p).Linked s₀ := by
  unfold State.txLinkDown
  repeat' with_reducible first
      | assumption | apply State.dropCtl_linked | apply State.verifyStop_linked | apply State.discardFrames_linked

end Sys2Proof.Machine
end

