-- ==== Sys2Proof/Laws/State.lean ====
section
/-!
SUPPORT. The fields that each update of the state leaves, one lemma per field and update.
-/
namespace Sys2Proof.Machine.State
variable (s : State)

@[simp] theorem setReg_pending (i u : Nat) (v : Word) : (s.setReg i u v).pending = s.pending := rfl
@[simp] theorem setReg_out (i u : Nat) (v : Word) : (s.setReg i u v).out = s.out := rfl
@[simp] theorem setReg_free (i u : Nat) (v : Word) : (s.setReg i u v).free = s.free := rfl
@[simp] theorem setReg_rows (i u : Nat) (v : Word) : (s.setReg i u v).rows = s.rows := rfl
@[simp] theorem setReg_past (i u : Nat) (v : Word) : (s.setReg i u v).past = s.past := rfl
@[simp] theorem setReg_ctrs (i u : Nat) (v : Word) : (s.setReg i u v).ctrs = s.ctrs := rfl
@[simp] theorem setReg_onceTick (i u : Nat) (v : Word) : (s.setReg i u v).onceTick = s.onceTick := rfl
@[simp] theorem setReg_power (i u : Nat) (v : Word) : (s.setReg i u v).power = s.power := rfl
@[simp] theorem setReg_clusterPower (i u : Nat) (v : Word) : (s.setReg i u v).clusterPower = s.clusterPower := rfl
@[simp] theorem setReg_time (i u : Nat) (v : Word) : (s.setReg i u v).time = s.time := rfl
@[simp] theorem setReg_ev (i u : Nat) (v : Word) : (s.setReg i u v).ev = s.ev := rfl
@[simp] theorem setReg_cu (i u : Nat) (v : Word) : (s.setReg i u v).cu = s.cu := rfl
@[simp] theorem setReg_dict (i u : Nat) (v : Word) : (s.setReg i u v).dict = s.dict := rfl
@[simp] theorem setReg_keys (i u : Nat) (v : Word) : (s.setReg i u v).keys = s.keys := rfl
@[simp] theorem setReg_masks (i u : Nat) (v : Word) : (s.setReg i u v).masks = s.masks := rfl
@[simp] theorem setReg_laneLock (i u : Nat) (v : Word) : (s.setReg i u v).laneLock = s.laneLock := rfl
@[simp] theorem setReg_portRx (i u : Nat) (v : Word) : (s.setReg i u v).portRx = s.portRx := rfl
@[simp] theorem setReg_clusterRx (i u : Nat) (v : Word) : (s.setReg i u v).clusterRx = s.clusterRx := rfl
@[simp] theorem setReg_clusterTx (i u : Nat) (v : Word) : (s.setReg i u v).clusterTx = s.clusterTx := rfl
@[simp] theorem setReg_portTx (i u : Nat) (v : Word) : (s.setReg i u v).portTx = s.portTx := rfl
@[simp] theorem setReg_shutters (i u : Nat) (v : Word) : (s.setReg i u v).shutters = s.shutters := rfl
@[simp] theorem setReg_rings (i u : Nat) (v : Word) : (s.setReg i u v).rings = s.rings := rfl
@[simp] theorem setReg_quarters (i u : Nat) (v : Word) : (s.setReg i u v).quarters = s.quarters := rfl
@[simp] theorem setReg_twin (i u : Nat) (v : Word) : (s.setReg i u v).twin = s.twin := rfl
@[simp] theorem setReg_mem (i u : Nat) (v : Word) : (s.setReg i u v).mem = s.mem := rfl

@[simp] theorem rowSet_pending (w u r : Nat) (v : Word) : (s.rowSet w u r v).pending = s.pending := rfl
@[simp] theorem rowSet_out (w u r : Nat) (v : Word) : (s.rowSet w u r v).out = s.out := rfl
@[simp] theorem rowSet_free (w u r : Nat) (v : Word) : (s.rowSet w u r v).free = s.free := rfl
@[simp] theorem rowSet_regs (w u r : Nat) (v : Word) : (s.rowSet w u r v).regs = s.regs := rfl
@[simp] theorem rowSet_past (w u r : Nat) (v : Word) : (s.rowSet w u r v).past = s.past := rfl
@[simp] theorem rowSet_ctrs (w u r : Nat) (v : Word) : (s.rowSet w u r v).ctrs = s.ctrs := rfl
@[simp] theorem rowSet_onceTick (w u r : Nat) (v : Word) : (s.rowSet w u r v).onceTick = s.onceTick := rfl
@[simp] theorem rowSet_power (w u r : Nat) (v : Word) : (s.rowSet w u r v).power = s.power := rfl
@[simp] theorem rowSet_clusterPower (w u r : Nat) (v : Word) : (s.rowSet w u r v).clusterPower = s.clusterPower := rfl
@[simp] theorem rowSet_time (w u r : Nat) (v : Word) : (s.rowSet w u r v).time = s.time := rfl
@[simp] theorem rowSet_ev (w u r : Nat) (v : Word) : (s.rowSet w u r v).ev = s.ev := rfl
@[simp] theorem rowSet_cu (w u r : Nat) (v : Word) : (s.rowSet w u r v).cu = s.cu := rfl
@[simp] theorem rowSet_dict (w u r : Nat) (v : Word) : (s.rowSet w u r v).dict = s.dict := rfl
@[simp] theorem rowSet_keys (w u r : Nat) (v : Word) : (s.rowSet w u r v).keys = s.keys := rfl
@[simp] theorem rowSet_masks (w u r : Nat) (v : Word) : (s.rowSet w u r v).masks = s.masks := rfl
@[simp] theorem rowSet_laneLock (w u r : Nat) (v : Word) : (s.rowSet w u r v).laneLock = s.laneLock := rfl
@[simp] theorem rowSet_portRx (w u r : Nat) (v : Word) : (s.rowSet w u r v).portRx = s.portRx := rfl
@[simp] theorem rowSet_clusterRx (w u r : Nat) (v : Word) : (s.rowSet w u r v).clusterRx = s.clusterRx := rfl
@[simp] theorem rowSet_clusterTx (w u r : Nat) (v : Word) : (s.rowSet w u r v).clusterTx = s.clusterTx := rfl
@[simp] theorem rowSet_portTx (w u r : Nat) (v : Word) : (s.rowSet w u r v).portTx = s.portTx := rfl
@[simp] theorem rowSet_shutters (w u r : Nat) (v : Word) : (s.rowSet w u r v).shutters = s.shutters := rfl
@[simp] theorem rowSet_rings (w u r : Nat) (v : Word) : (s.rowSet w u r v).rings = s.rings := rfl
@[simp] theorem rowSet_quarters (w u r : Nat) (v : Word) : (s.rowSet w u r v).quarters = s.quarters := rfl
@[simp] theorem rowSet_twin (w u r : Nat) (v : Word) : (s.rowSet w u r v).twin = s.twin := rfl
@[simp] theorem rowSet_mem (w u r : Nat) (v : Word) : (s.rowSet w u r v).mem = s.mem := rfl

@[simp] theorem setPort_pending (p : Nat) (q : PortRx) : (s.setPort p q).pending = s.pending := rfl
@[simp] theorem setPort_out (p : Nat) (q : PortRx) : (s.setPort p q).out = s.out := rfl
@[simp] theorem setPort_free (p : Nat) (q : PortRx) : (s.setPort p q).free = s.free := rfl
@[simp] theorem setPort_regs (p : Nat) (q : PortRx) : (s.setPort p q).regs = s.regs := rfl
@[simp] theorem setPort_rows (p : Nat) (q : PortRx) : (s.setPort p q).rows = s.rows := rfl
@[simp] theorem setPort_past (p : Nat) (q : PortRx) : (s.setPort p q).past = s.past := rfl
@[simp] theorem setPort_ctrs (p : Nat) (q : PortRx) : (s.setPort p q).ctrs = s.ctrs := rfl
@[simp] theorem setPort_onceTick (p : Nat) (q : PortRx) : (s.setPort p q).onceTick = s.onceTick := rfl
@[simp] theorem setPort_power (p : Nat) (q : PortRx) : (s.setPort p q).power = s.power := rfl
@[simp] theorem setPort_clusterPower (p : Nat) (q : PortRx) : (s.setPort p q).clusterPower = s.clusterPower := rfl
@[simp] theorem setPort_time (p : Nat) (q : PortRx) : (s.setPort p q).time = s.time := rfl
@[simp] theorem setPort_ev (p : Nat) (q : PortRx) : (s.setPort p q).ev = s.ev := rfl
@[simp] theorem setPort_cu (p : Nat) (q : PortRx) : (s.setPort p q).cu = s.cu := rfl
@[simp] theorem setPort_dict (p : Nat) (q : PortRx) : (s.setPort p q).dict = s.dict := rfl
@[simp] theorem setPort_keys (p : Nat) (q : PortRx) : (s.setPort p q).keys = s.keys := rfl
@[simp] theorem setPort_masks (p : Nat) (q : PortRx) : (s.setPort p q).masks = s.masks := rfl
@[simp] theorem setPort_laneLock (p : Nat) (q : PortRx) : (s.setPort p q).laneLock = s.laneLock := rfl
@[simp] theorem setPort_clusterRx (p : Nat) (q : PortRx) : (s.setPort p q).clusterRx = s.clusterRx := rfl
@[simp] theorem setPort_clusterTx (p : Nat) (q : PortRx) : (s.setPort p q).clusterTx = s.clusterTx := rfl
@[simp] theorem setPort_portTx (p : Nat) (q : PortRx) : (s.setPort p q).portTx = s.portTx := rfl
@[simp] theorem setPort_shutters (p : Nat) (q : PortRx) : (s.setPort p q).shutters = s.shutters := rfl
@[simp] theorem setPort_rings (p : Nat) (q : PortRx) : (s.setPort p q).rings = s.rings := rfl
@[simp] theorem setPort_quarters (p : Nat) (q : PortRx) : (s.setPort p q).quarters = s.quarters := rfl
@[simp] theorem setPort_twin (p : Nat) (q : PortRx) : (s.setPort p q).twin = s.twin := rfl
@[simp] theorem setPort_mem (p : Nat) (q : PortRx) : (s.setPort p q).mem = s.mem := rfl

@[simp] theorem updPort_pending (p : Nat) (f : PortRx → PortRx) : (s.updPort p f).pending = s.pending := rfl
@[simp] theorem updPort_out (p : Nat) (f : PortRx → PortRx) : (s.updPort p f).out = s.out := rfl
@[simp] theorem updPort_free (p : Nat) (f : PortRx → PortRx) : (s.updPort p f).free = s.free := rfl
@[simp] theorem updPort_regs (p : Nat) (f : PortRx → PortRx) : (s.updPort p f).regs = s.regs := rfl
@[simp] theorem updPort_rows (p : Nat) (f : PortRx → PortRx) : (s.updPort p f).rows = s.rows := rfl
@[simp] theorem updPort_past (p : Nat) (f : PortRx → PortRx) : (s.updPort p f).past = s.past := rfl
@[simp] theorem updPort_ctrs (p : Nat) (f : PortRx → PortRx) : (s.updPort p f).ctrs = s.ctrs := rfl
@[simp] theorem updPort_onceTick (p : Nat) (f : PortRx → PortRx) : (s.updPort p f).onceTick = s.onceTick := rfl
@[simp] theorem updPort_power (p : Nat) (f : PortRx → PortRx) : (s.updPort p f).power = s.power := rfl
@[simp] theorem updPort_clusterPower (p : Nat) (f : PortRx → PortRx) : (s.updPort p f).clusterPower = s.clusterPower := rfl
@[simp] theorem updPort_time (p : Nat) (f : PortRx → PortRx) : (s.updPort p f).time = s.time := rfl
@[simp] theorem updPort_ev (p : Nat) (f : PortRx → PortRx) : (s.updPort p f).ev = s.ev := rfl
@[simp] theorem updPort_cu (p : Nat) (f : PortRx → PortRx) : (s.updPort p f).cu = s.cu := rfl
@[simp] theorem updPort_dict (p : Nat) (f : PortRx → PortRx) : (s.updPort p f).dict = s.dict := rfl
@[simp] theorem updPort_keys (p : Nat) (f : PortRx → PortRx) : (s.updPort p f).keys = s.keys := rfl
@[simp] theorem updPort_masks (p : Nat) (f : PortRx → PortRx) : (s.updPort p f).masks = s.masks := rfl
@[simp] theorem updPort_laneLock (p : Nat) (f : PortRx → PortRx) : (s.updPort p f).laneLock = s.laneLock := rfl
@[simp] theorem updPort_clusterRx (p : Nat) (f : PortRx → PortRx) : (s.updPort p f).clusterRx = s.clusterRx := rfl
@[simp] theorem updPort_clusterTx (p : Nat) (f : PortRx → PortRx) : (s.updPort p f).clusterTx = s.clusterTx := rfl
@[simp] theorem updPort_portTx (p : Nat) (f : PortRx → PortRx) : (s.updPort p f).portTx = s.portTx := rfl
@[simp] theorem updPort_shutters (p : Nat) (f : PortRx → PortRx) : (s.updPort p f).shutters = s.shutters := rfl
@[simp] theorem updPort_rings (p : Nat) (f : PortRx → PortRx) : (s.updPort p f).rings = s.rings := rfl
@[simp] theorem updPort_quarters (p : Nat) (f : PortRx → PortRx) : (s.updPort p f).quarters = s.quarters := rfl
@[simp] theorem updPort_twin (p : Nat) (f : PortRx → PortRx) : (s.updPort p f).twin = s.twin := rfl
@[simp] theorem updPort_mem (p : Nat) (f : PortRx → PortRx) : (s.updPort p f).mem = s.mem := rfl

@[simp] theorem setClRx_pending (c : Nat) (q : ClusterRx) : (s.setClRx c q).pending = s.pending := rfl
@[simp] theorem setClRx_out (c : Nat) (q : ClusterRx) : (s.setClRx c q).out = s.out := rfl
@[simp] theorem setClRx_free (c : Nat) (q : ClusterRx) : (s.setClRx c q).free = s.free := rfl
@[simp] theorem setClRx_regs (c : Nat) (q : ClusterRx) : (s.setClRx c q).regs = s.regs := rfl
@[simp] theorem setClRx_rows (c : Nat) (q : ClusterRx) : (s.setClRx c q).rows = s.rows := rfl
@[simp] theorem setClRx_past (c : Nat) (q : ClusterRx) : (s.setClRx c q).past = s.past := rfl
@[simp] theorem setClRx_ctrs (c : Nat) (q : ClusterRx) : (s.setClRx c q).ctrs = s.ctrs := rfl
@[simp] theorem setClRx_onceTick (c : Nat) (q : ClusterRx) : (s.setClRx c q).onceTick = s.onceTick := rfl
@[simp] theorem setClRx_power (c : Nat) (q : ClusterRx) : (s.setClRx c q).power = s.power := rfl
@[simp] theorem setClRx_clusterPower (c : Nat) (q : ClusterRx) : (s.setClRx c q).clusterPower = s.clusterPower := rfl
@[simp] theorem setClRx_time (c : Nat) (q : ClusterRx) : (s.setClRx c q).time = s.time := rfl
@[simp] theorem setClRx_ev (c : Nat) (q : ClusterRx) : (s.setClRx c q).ev = s.ev := rfl
@[simp] theorem setClRx_cu (c : Nat) (q : ClusterRx) : (s.setClRx c q).cu = s.cu := rfl
@[simp] theorem setClRx_dict (c : Nat) (q : ClusterRx) : (s.setClRx c q).dict = s.dict := rfl
@[simp] theorem setClRx_keys (c : Nat) (q : ClusterRx) : (s.setClRx c q).keys = s.keys := rfl
@[simp] theorem setClRx_masks (c : Nat) (q : ClusterRx) : (s.setClRx c q).masks = s.masks := rfl
@[simp] theorem setClRx_laneLock (c : Nat) (q : ClusterRx) : (s.setClRx c q).laneLock = s.laneLock := rfl
@[simp] theorem setClRx_portRx (c : Nat) (q : ClusterRx) : (s.setClRx c q).portRx = s.portRx := rfl
@[simp] theorem setClRx_clusterTx (c : Nat) (q : ClusterRx) : (s.setClRx c q).clusterTx = s.clusterTx := rfl
@[simp] theorem setClRx_portTx (c : Nat) (q : ClusterRx) : (s.setClRx c q).portTx = s.portTx := rfl
@[simp] theorem setClRx_shutters (c : Nat) (q : ClusterRx) : (s.setClRx c q).shutters = s.shutters := rfl
@[simp] theorem setClRx_rings (c : Nat) (q : ClusterRx) : (s.setClRx c q).rings = s.rings := rfl
@[simp] theorem setClRx_quarters (c : Nat) (q : ClusterRx) : (s.setClRx c q).quarters = s.quarters := rfl
@[simp] theorem setClRx_twin (c : Nat) (q : ClusterRx) : (s.setClRx c q).twin = s.twin := rfl
@[simp] theorem setClRx_mem (c : Nat) (q : ClusterRx) : (s.setClRx c q).mem = s.mem := rfl

@[simp] theorem updClRx_pending (c : Nat) (f : ClusterRx → ClusterRx) : (s.updClRx c f).pending = s.pending := rfl
@[simp] theorem updClRx_out (c : Nat) (f : ClusterRx → ClusterRx) : (s.updClRx c f).out = s.out := rfl
@[simp] theorem updClRx_free (c : Nat) (f : ClusterRx → ClusterRx) : (s.updClRx c f).free = s.free := rfl
@[simp] theorem updClRx_regs (c : Nat) (f : ClusterRx → ClusterRx) : (s.updClRx c f).regs = s.regs := rfl
@[simp] theorem updClRx_rows (c : Nat) (f : ClusterRx → ClusterRx) : (s.updClRx c f).rows = s.rows := rfl
@[simp] theorem updClRx_past (c : Nat) (f : ClusterRx → ClusterRx) : (s.updClRx c f).past = s.past := rfl
@[simp] theorem updClRx_ctrs (c : Nat) (f : ClusterRx → ClusterRx) : (s.updClRx c f).ctrs = s.ctrs := rfl
@[simp] theorem updClRx_onceTick (c : Nat) (f : ClusterRx → ClusterRx) : (s.updClRx c f).onceTick = s.onceTick := rfl
@[simp] theorem updClRx_power (c : Nat) (f : ClusterRx → ClusterRx) : (s.updClRx c f).power = s.power := rfl
@[simp] theorem updClRx_clusterPower (c : Nat) (f : ClusterRx → ClusterRx) : (s.updClRx c f).clusterPower = s.clusterPower := rfl
@[simp] theorem updClRx_time (c : Nat) (f : ClusterRx → ClusterRx) : (s.updClRx c f).time = s.time := rfl
@[simp] theorem updClRx_ev (c : Nat) (f : ClusterRx → ClusterRx) : (s.updClRx c f).ev = s.ev := rfl
@[simp] theorem updClRx_cu (c : Nat) (f : ClusterRx → ClusterRx) : (s.updClRx c f).cu = s.cu := rfl
@[simp] theorem updClRx_dict (c : Nat) (f : ClusterRx → ClusterRx) : (s.updClRx c f).dict = s.dict := rfl
@[simp] theorem updClRx_keys (c : Nat) (f : ClusterRx → ClusterRx) : (s.updClRx c f).keys = s.keys := rfl
@[simp] theorem updClRx_masks (c : Nat) (f : ClusterRx → ClusterRx) : (s.updClRx c f).masks = s.masks := rfl
@[simp] theorem updClRx_laneLock (c : Nat) (f : ClusterRx → ClusterRx) : (s.updClRx c f).laneLock = s.laneLock := rfl
@[simp] theorem updClRx_portRx (c : Nat) (f : ClusterRx → ClusterRx) : (s.updClRx c f).portRx = s.portRx := rfl
@[simp] theorem updClRx_clusterTx (c : Nat) (f : ClusterRx → ClusterRx) : (s.updClRx c f).clusterTx = s.clusterTx := rfl
@[simp] theorem updClRx_portTx (c : Nat) (f : ClusterRx → ClusterRx) : (s.updClRx c f).portTx = s.portTx := rfl
@[simp] theorem updClRx_shutters (c : Nat) (f : ClusterRx → ClusterRx) : (s.updClRx c f).shutters = s.shutters := rfl
@[simp] theorem updClRx_rings (c : Nat) (f : ClusterRx → ClusterRx) : (s.updClRx c f).rings = s.rings := rfl
@[simp] theorem updClRx_quarters (c : Nat) (f : ClusterRx → ClusterRx) : (s.updClRx c f).quarters = s.quarters := rfl
@[simp] theorem updClRx_twin (c : Nat) (f : ClusterRx → ClusterRx) : (s.updClRx c f).twin = s.twin := rfl
@[simp] theorem updClRx_mem (c : Nat) (f : ClusterRx → ClusterRx) : (s.updClRx c f).mem = s.mem := rfl

@[simp] theorem setClTx_pending (c : Nat) (q : ClusterTx) : (s.setClTx c q).pending = s.pending := rfl
@[simp] theorem setClTx_out (c : Nat) (q : ClusterTx) : (s.setClTx c q).out = s.out := rfl
@[simp] theorem setClTx_free (c : Nat) (q : ClusterTx) : (s.setClTx c q).free = s.free := rfl
@[simp] theorem setClTx_regs (c : Nat) (q : ClusterTx) : (s.setClTx c q).regs = s.regs := rfl
@[simp] theorem setClTx_rows (c : Nat) (q : ClusterTx) : (s.setClTx c q).rows = s.rows := rfl
@[simp] theorem setClTx_past (c : Nat) (q : ClusterTx) : (s.setClTx c q).past = s.past := rfl
@[simp] theorem setClTx_ctrs (c : Nat) (q : ClusterTx) : (s.setClTx c q).ctrs = s.ctrs := rfl
@[simp] theorem setClTx_onceTick (c : Nat) (q : ClusterTx) : (s.setClTx c q).onceTick = s.onceTick := rfl
@[simp] theorem setClTx_power (c : Nat) (q : ClusterTx) : (s.setClTx c q).power = s.power := rfl
@[simp] theorem setClTx_clusterPower (c : Nat) (q : ClusterTx) : (s.setClTx c q).clusterPower = s.clusterPower := rfl
@[simp] theorem setClTx_time (c : Nat) (q : ClusterTx) : (s.setClTx c q).time = s.time := rfl
@[simp] theorem setClTx_ev (c : Nat) (q : ClusterTx) : (s.setClTx c q).ev = s.ev := rfl
@[simp] theorem setClTx_cu (c : Nat) (q : ClusterTx) : (s.setClTx c q).cu = s.cu := rfl
@[simp] theorem setClTx_dict (c : Nat) (q : ClusterTx) : (s.setClTx c q).dict = s.dict := rfl
@[simp] theorem setClTx_keys (c : Nat) (q : ClusterTx) : (s.setClTx c q).keys = s.keys := rfl
@[simp] theorem setClTx_masks (c : Nat) (q : ClusterTx) : (s.setClTx c q).masks = s.masks := rfl
@[simp] theorem setClTx_laneLock (c : Nat) (q : ClusterTx) : (s.setClTx c q).laneLock = s.laneLock := rfl
@[simp] theorem setClTx_portRx (c : Nat) (q : ClusterTx) : (s.setClTx c q).portRx = s.portRx := rfl
@[simp] theorem setClTx_clusterRx (c : Nat) (q : ClusterTx) : (s.setClTx c q).clusterRx = s.clusterRx := rfl
@[simp] theorem setClTx_portTx (c : Nat) (q : ClusterTx) : (s.setClTx c q).portTx = s.portTx := rfl
@[simp] theorem setClTx_shutters (c : Nat) (q : ClusterTx) : (s.setClTx c q).shutters = s.shutters := rfl
@[simp] theorem setClTx_rings (c : Nat) (q : ClusterTx) : (s.setClTx c q).rings = s.rings := rfl
@[simp] theorem setClTx_quarters (c : Nat) (q : ClusterTx) : (s.setClTx c q).quarters = s.quarters := rfl
@[simp] theorem setClTx_twin (c : Nat) (q : ClusterTx) : (s.setClTx c q).twin = s.twin := rfl
@[simp] theorem setClTx_mem (c : Nat) (q : ClusterTx) : (s.setClTx c q).mem = s.mem := rfl

@[simp] theorem updClTx_pending (c : Nat) (f : ClusterTx → ClusterTx) : (s.updClTx c f).pending = s.pending := rfl
@[simp] theorem updClTx_out (c : Nat) (f : ClusterTx → ClusterTx) : (s.updClTx c f).out = s.out := rfl
@[simp] theorem updClTx_free (c : Nat) (f : ClusterTx → ClusterTx) : (s.updClTx c f).free = s.free := rfl
@[simp] theorem updClTx_regs (c : Nat) (f : ClusterTx → ClusterTx) : (s.updClTx c f).regs = s.regs := rfl
@[simp] theorem updClTx_rows (c : Nat) (f : ClusterTx → ClusterTx) : (s.updClTx c f).rows = s.rows := rfl
@[simp] theorem updClTx_past (c : Nat) (f : ClusterTx → ClusterTx) : (s.updClTx c f).past = s.past := rfl
@[simp] theorem updClTx_ctrs (c : Nat) (f : ClusterTx → ClusterTx) : (s.updClTx c f).ctrs = s.ctrs := rfl
@[simp] theorem updClTx_onceTick (c : Nat) (f : ClusterTx → ClusterTx) : (s.updClTx c f).onceTick = s.onceTick := rfl
@[simp] theorem updClTx_power (c : Nat) (f : ClusterTx → ClusterTx) : (s.updClTx c f).power = s.power := rfl
@[simp] theorem updClTx_clusterPower (c : Nat) (f : ClusterTx → ClusterTx) : (s.updClTx c f).clusterPower = s.clusterPower := rfl
@[simp] theorem updClTx_time (c : Nat) (f : ClusterTx → ClusterTx) : (s.updClTx c f).time = s.time := rfl
@[simp] theorem updClTx_ev (c : Nat) (f : ClusterTx → ClusterTx) : (s.updClTx c f).ev = s.ev := rfl
@[simp] theorem updClTx_cu (c : Nat) (f : ClusterTx → ClusterTx) : (s.updClTx c f).cu = s.cu := rfl
@[simp] theorem updClTx_dict (c : Nat) (f : ClusterTx → ClusterTx) : (s.updClTx c f).dict = s.dict := rfl
@[simp] theorem updClTx_keys (c : Nat) (f : ClusterTx → ClusterTx) : (s.updClTx c f).keys = s.keys := rfl
@[simp] theorem updClTx_masks (c : Nat) (f : ClusterTx → ClusterTx) : (s.updClTx c f).masks = s.masks := rfl
@[simp] theorem updClTx_laneLock (c : Nat) (f : ClusterTx → ClusterTx) : (s.updClTx c f).laneLock = s.laneLock := rfl
@[simp] theorem updClTx_portRx (c : Nat) (f : ClusterTx → ClusterTx) : (s.updClTx c f).portRx = s.portRx := rfl
@[simp] theorem updClTx_clusterRx (c : Nat) (f : ClusterTx → ClusterTx) : (s.updClTx c f).clusterRx = s.clusterRx := rfl
@[simp] theorem updClTx_portTx (c : Nat) (f : ClusterTx → ClusterTx) : (s.updClTx c f).portTx = s.portTx := rfl
@[simp] theorem updClTx_shutters (c : Nat) (f : ClusterTx → ClusterTx) : (s.updClTx c f).shutters = s.shutters := rfl
@[simp] theorem updClTx_rings (c : Nat) (f : ClusterTx → ClusterTx) : (s.updClTx c f).rings = s.rings := rfl
@[simp] theorem updClTx_quarters (c : Nat) (f : ClusterTx → ClusterTx) : (s.updClTx c f).quarters = s.quarters := rfl
@[simp] theorem updClTx_twin (c : Nat) (f : ClusterTx → ClusterTx) : (s.updClTx c f).twin = s.twin := rfl
@[simp] theorem updClTx_mem (c : Nat) (f : ClusterTx → ClusterTx) : (s.updClTx c f).mem = s.mem := rfl

@[simp] theorem setPortTx_pending (p : Nat) (q : PortTx) : (s.setPortTx p q).pending = s.pending := rfl
@[simp] theorem setPortTx_out (p : Nat) (q : PortTx) : (s.setPortTx p q).out = s.out := rfl
@[simp] theorem setPortTx_free (p : Nat) (q : PortTx) : (s.setPortTx p q).free = s.free := rfl
@[simp] theorem setPortTx_regs (p : Nat) (q : PortTx) : (s.setPortTx p q).regs = s.regs := rfl
@[simp] theorem setPortTx_rows (p : Nat) (q : PortTx) : (s.setPortTx p q).rows = s.rows := rfl
@[simp] theorem setPortTx_past (p : Nat) (q : PortTx) : (s.setPortTx p q).past = s.past := rfl
@[simp] theorem setPortTx_ctrs (p : Nat) (q : PortTx) : (s.setPortTx p q).ctrs = s.ctrs := rfl
@[simp] theorem setPortTx_onceTick (p : Nat) (q : PortTx) : (s.setPortTx p q).onceTick = s.onceTick := rfl
@[simp] theorem setPortTx_power (p : Nat) (q : PortTx) : (s.setPortTx p q).power = s.power := rfl
@[simp] theorem setPortTx_clusterPower (p : Nat) (q : PortTx) : (s.setPortTx p q).clusterPower = s.clusterPower := rfl
@[simp] theorem setPortTx_time (p : Nat) (q : PortTx) : (s.setPortTx p q).time = s.time := rfl
@[simp] theorem setPortTx_ev (p : Nat) (q : PortTx) : (s.setPortTx p q).ev = s.ev := rfl
@[simp] theorem setPortTx_cu (p : Nat) (q : PortTx) : (s.setPortTx p q).cu = s.cu := rfl
@[simp] theorem setPortTx_dict (p : Nat) (q : PortTx) : (s.setPortTx p q).dict = s.dict := rfl
@[simp] theorem setPortTx_keys (p : Nat) (q : PortTx) : (s.setPortTx p q).keys = s.keys := rfl
@[simp] theorem setPortTx_masks (p : Nat) (q : PortTx) : (s.setPortTx p q).masks = s.masks := rfl
@[simp] theorem setPortTx_laneLock (p : Nat) (q : PortTx) : (s.setPortTx p q).laneLock = s.laneLock := rfl
@[simp] theorem setPortTx_portRx (p : Nat) (q : PortTx) : (s.setPortTx p q).portRx = s.portRx := rfl
@[simp] theorem setPortTx_clusterRx (p : Nat) (q : PortTx) : (s.setPortTx p q).clusterRx = s.clusterRx := rfl
@[simp] theorem setPortTx_clusterTx (p : Nat) (q : PortTx) : (s.setPortTx p q).clusterTx = s.clusterTx := rfl
@[simp] theorem setPortTx_shutters (p : Nat) (q : PortTx) : (s.setPortTx p q).shutters = s.shutters := rfl
@[simp] theorem setPortTx_rings (p : Nat) (q : PortTx) : (s.setPortTx p q).rings = s.rings := rfl
@[simp] theorem setPortTx_quarters (p : Nat) (q : PortTx) : (s.setPortTx p q).quarters = s.quarters := rfl
@[simp] theorem setPortTx_twin (p : Nat) (q : PortTx) : (s.setPortTx p q).twin = s.twin := rfl
@[simp] theorem setPortTx_mem (p : Nat) (q : PortTx) : (s.setPortTx p q).mem = s.mem := rfl

@[simp] theorem updPortTx_pending (p : Nat) (f : PortTx → PortTx) : (s.updPortTx p f).pending = s.pending := rfl
@[simp] theorem updPortTx_out (p : Nat) (f : PortTx → PortTx) : (s.updPortTx p f).out = s.out := rfl
@[simp] theorem updPortTx_free (p : Nat) (f : PortTx → PortTx) : (s.updPortTx p f).free = s.free := rfl
@[simp] theorem updPortTx_regs (p : Nat) (f : PortTx → PortTx) : (s.updPortTx p f).regs = s.regs := rfl
@[simp] theorem updPortTx_rows (p : Nat) (f : PortTx → PortTx) : (s.updPortTx p f).rows = s.rows := rfl
@[simp] theorem updPortTx_past (p : Nat) (f : PortTx → PortTx) : (s.updPortTx p f).past = s.past := rfl
@[simp] theorem updPortTx_ctrs (p : Nat) (f : PortTx → PortTx) : (s.updPortTx p f).ctrs = s.ctrs := rfl
@[simp] theorem updPortTx_onceTick (p : Nat) (f : PortTx → PortTx) : (s.updPortTx p f).onceTick = s.onceTick := rfl
@[simp] theorem updPortTx_power (p : Nat) (f : PortTx → PortTx) : (s.updPortTx p f).power = s.power := rfl
@[simp] theorem updPortTx_clusterPower (p : Nat) (f : PortTx → PortTx) : (s.updPortTx p f).clusterPower = s.clusterPower := rfl
@[simp] theorem updPortTx_time (p : Nat) (f : PortTx → PortTx) : (s.updPortTx p f).time = s.time := rfl
@[simp] theorem updPortTx_ev (p : Nat) (f : PortTx → PortTx) : (s.updPortTx p f).ev = s.ev := rfl
@[simp] theorem updPortTx_cu (p : Nat) (f : PortTx → PortTx) : (s.updPortTx p f).cu = s.cu := rfl
@[simp] theorem updPortTx_dict (p : Nat) (f : PortTx → PortTx) : (s.updPortTx p f).dict = s.dict := rfl
@[simp] theorem updPortTx_keys (p : Nat) (f : PortTx → PortTx) : (s.updPortTx p f).keys = s.keys := rfl
@[simp] theorem updPortTx_masks (p : Nat) (f : PortTx → PortTx) : (s.updPortTx p f).masks = s.masks := rfl
@[simp] theorem updPortTx_laneLock (p : Nat) (f : PortTx → PortTx) : (s.updPortTx p f).laneLock = s.laneLock := rfl
@[simp] theorem updPortTx_portRx (p : Nat) (f : PortTx → PortTx) : (s.updPortTx p f).portRx = s.portRx := rfl
@[simp] theorem updPortTx_clusterRx (p : Nat) (f : PortTx → PortTx) : (s.updPortTx p f).clusterRx = s.clusterRx := rfl
@[simp] theorem updPortTx_clusterTx (p : Nat) (f : PortTx → PortTx) : (s.updPortTx p f).clusterTx = s.clusterTx := rfl
@[simp] theorem updPortTx_shutters (p : Nat) (f : PortTx → PortTx) : (s.updPortTx p f).shutters = s.shutters := rfl
@[simp] theorem updPortTx_rings (p : Nat) (f : PortTx → PortTx) : (s.updPortTx p f).rings = s.rings := rfl
@[simp] theorem updPortTx_quarters (p : Nat) (f : PortTx → PortTx) : (s.updPortTx p f).quarters = s.quarters := rfl
@[simp] theorem updPortTx_twin (p : Nat) (f : PortTx → PortTx) : (s.updPortTx p f).twin = s.twin := rfl
@[simp] theorem updPortTx_mem (p : Nat) (f : PortTx → PortTx) : (s.updPortTx p f).mem = s.mem := rfl

@[simp] theorem setShut_pending (p : Nat) (q : Shutter) : (s.setShut p q).pending = s.pending := rfl
@[simp] theorem setShut_out (p : Nat) (q : Shutter) : (s.setShut p q).out = s.out := rfl
@[simp] theorem setShut_free (p : Nat) (q : Shutter) : (s.setShut p q).free = s.free := rfl
@[simp] theorem setShut_regs (p : Nat) (q : Shutter) : (s.setShut p q).regs = s.regs := rfl
@[simp] theorem setShut_rows (p : Nat) (q : Shutter) : (s.setShut p q).rows = s.rows := rfl
@[simp] theorem setShut_past (p : Nat) (q : Shutter) : (s.setShut p q).past = s.past := rfl
@[simp] theorem setShut_ctrs (p : Nat) (q : Shutter) : (s.setShut p q).ctrs = s.ctrs := rfl
@[simp] theorem setShut_onceTick (p : Nat) (q : Shutter) : (s.setShut p q).onceTick = s.onceTick := rfl
@[simp] theorem setShut_power (p : Nat) (q : Shutter) : (s.setShut p q).power = s.power := rfl
@[simp] theorem setShut_clusterPower (p : Nat) (q : Shutter) : (s.setShut p q).clusterPower = s.clusterPower := rfl
@[simp] theorem setShut_time (p : Nat) (q : Shutter) : (s.setShut p q).time = s.time := rfl
@[simp] theorem setShut_ev (p : Nat) (q : Shutter) : (s.setShut p q).ev = s.ev := rfl
@[simp] theorem setShut_cu (p : Nat) (q : Shutter) : (s.setShut p q).cu = s.cu := rfl
@[simp] theorem setShut_dict (p : Nat) (q : Shutter) : (s.setShut p q).dict = s.dict := rfl
@[simp] theorem setShut_keys (p : Nat) (q : Shutter) : (s.setShut p q).keys = s.keys := rfl
@[simp] theorem setShut_masks (p : Nat) (q : Shutter) : (s.setShut p q).masks = s.masks := rfl
@[simp] theorem setShut_laneLock (p : Nat) (q : Shutter) : (s.setShut p q).laneLock = s.laneLock := rfl
@[simp] theorem setShut_portRx (p : Nat) (q : Shutter) : (s.setShut p q).portRx = s.portRx := rfl
@[simp] theorem setShut_clusterRx (p : Nat) (q : Shutter) : (s.setShut p q).clusterRx = s.clusterRx := rfl
@[simp] theorem setShut_clusterTx (p : Nat) (q : Shutter) : (s.setShut p q).clusterTx = s.clusterTx := rfl
@[simp] theorem setShut_portTx (p : Nat) (q : Shutter) : (s.setShut p q).portTx = s.portTx := rfl
@[simp] theorem setShut_rings (p : Nat) (q : Shutter) : (s.setShut p q).rings = s.rings := rfl
@[simp] theorem setShut_quarters (p : Nat) (q : Shutter) : (s.setShut p q).quarters = s.quarters := rfl
@[simp] theorem setShut_twin (p : Nat) (q : Shutter) : (s.setShut p q).twin = s.twin := rfl
@[simp] theorem setShut_mem (p : Nat) (q : Shutter) : (s.setShut p q).mem = s.mem := rfl

@[simp] theorem setSch_pending (c k : Nat) (r : SchRow) : (s.setSch c k r).pending = s.pending := rfl
@[simp] theorem setSch_out (c k : Nat) (r : SchRow) : (s.setSch c k r).out = s.out := rfl
@[simp] theorem setSch_free (c k : Nat) (r : SchRow) : (s.setSch c k r).free = s.free := rfl
@[simp] theorem setSch_regs (c k : Nat) (r : SchRow) : (s.setSch c k r).regs = s.regs := rfl
@[simp] theorem setSch_rows (c k : Nat) (r : SchRow) : (s.setSch c k r).rows = s.rows := rfl
@[simp] theorem setSch_past (c k : Nat) (r : SchRow) : (s.setSch c k r).past = s.past := rfl
@[simp] theorem setSch_ctrs (c k : Nat) (r : SchRow) : (s.setSch c k r).ctrs = s.ctrs := rfl
@[simp] theorem setSch_onceTick (c k : Nat) (r : SchRow) : (s.setSch c k r).onceTick = s.onceTick := rfl
@[simp] theorem setSch_power (c k : Nat) (r : SchRow) : (s.setSch c k r).power = s.power := rfl
@[simp] theorem setSch_clusterPower (c k : Nat) (r : SchRow) : (s.setSch c k r).clusterPower = s.clusterPower := rfl
@[simp] theorem setSch_time (c k : Nat) (r : SchRow) : (s.setSch c k r).time = s.time := rfl
@[simp] theorem setSch_ev (c k : Nat) (r : SchRow) : (s.setSch c k r).ev = s.ev := rfl
@[simp] theorem setSch_cu (c k : Nat) (r : SchRow) : (s.setSch c k r).cu = s.cu := rfl
@[simp] theorem setSch_dict (c k : Nat) (r : SchRow) : (s.setSch c k r).dict = s.dict := rfl
@[simp] theorem setSch_keys (c k : Nat) (r : SchRow) : (s.setSch c k r).keys = s.keys := rfl
@[simp] theorem setSch_masks (c k : Nat) (r : SchRow) : (s.setSch c k r).masks = s.masks := rfl
@[simp] theorem setSch_laneLock (c k : Nat) (r : SchRow) : (s.setSch c k r).laneLock = s.laneLock := rfl
@[simp] theorem setSch_portRx (c k : Nat) (r : SchRow) : (s.setSch c k r).portRx = s.portRx := rfl
@[simp] theorem setSch_clusterRx (c k : Nat) (r : SchRow) : (s.setSch c k r).clusterRx = s.clusterRx := rfl
@[simp] theorem setSch_portTx (c k : Nat) (r : SchRow) : (s.setSch c k r).portTx = s.portTx := rfl
@[simp] theorem setSch_shutters (c k : Nat) (r : SchRow) : (s.setSch c k r).shutters = s.shutters := rfl
@[simp] theorem setSch_rings (c k : Nat) (r : SchRow) : (s.setSch c k r).rings = s.rings := rfl
@[simp] theorem setSch_quarters (c k : Nat) (r : SchRow) : (s.setSch c k r).quarters = s.quarters := rfl
@[simp] theorem setSch_twin (c k : Nat) (r : SchRow) : (s.setSch c k r).twin = s.twin := rfl
@[simp] theorem setSch_mem (c k : Nat) (r : SchRow) : (s.setSch c k r).mem = s.mem := rfl

@[simp] theorem setClp_pending (c : Nat) (q : ClusterPower) : (s.setClp c q).pending = s.pending := rfl
@[simp] theorem setClp_out (c : Nat) (q : ClusterPower) : (s.setClp c q).out = s.out := rfl
@[simp] theorem setClp_free (c : Nat) (q : ClusterPower) : (s.setClp c q).free = s.free := rfl
@[simp] theorem setClp_regs (c : Nat) (q : ClusterPower) : (s.setClp c q).regs = s.regs := rfl
@[simp] theorem setClp_rows (c : Nat) (q : ClusterPower) : (s.setClp c q).rows = s.rows := rfl
@[simp] theorem setClp_past (c : Nat) (q : ClusterPower) : (s.setClp c q).past = s.past := rfl
@[simp] theorem setClp_ctrs (c : Nat) (q : ClusterPower) : (s.setClp c q).ctrs = s.ctrs := rfl
@[simp] theorem setClp_onceTick (c : Nat) (q : ClusterPower) : (s.setClp c q).onceTick = s.onceTick := rfl
@[simp] theorem setClp_power (c : Nat) (q : ClusterPower) : (s.setClp c q).power = s.power := rfl
@[simp] theorem setClp_time (c : Nat) (q : ClusterPower) : (s.setClp c q).time = s.time := rfl
@[simp] theorem setClp_ev (c : Nat) (q : ClusterPower) : (s.setClp c q).ev = s.ev := rfl
@[simp] theorem setClp_cu (c : Nat) (q : ClusterPower) : (s.setClp c q).cu = s.cu := rfl
@[simp] theorem setClp_dict (c : Nat) (q : ClusterPower) : (s.setClp c q).dict = s.dict := rfl
@[simp] theorem setClp_keys (c : Nat) (q : ClusterPower) : (s.setClp c q).keys = s.keys := rfl
@[simp] theorem setClp_masks (c : Nat) (q : ClusterPower) : (s.setClp c q).masks = s.masks := rfl
@[simp] theorem setClp_laneLock (c : Nat) (q : ClusterPower) : (s.setClp c q).laneLock = s.laneLock := rfl
@[simp] theorem setClp_portRx (c : Nat) (q : ClusterPower) : (s.setClp c q).portRx = s.portRx := rfl
@[simp] theorem setClp_clusterRx (c : Nat) (q : ClusterPower) : (s.setClp c q).clusterRx = s.clusterRx := rfl
@[simp] theorem setClp_clusterTx (c : Nat) (q : ClusterPower) : (s.setClp c q).clusterTx = s.clusterTx := rfl
@[simp] theorem setClp_portTx (c : Nat) (q : ClusterPower) : (s.setClp c q).portTx = s.portTx := rfl
@[simp] theorem setClp_shutters (c : Nat) (q : ClusterPower) : (s.setClp c q).shutters = s.shutters := rfl
@[simp] theorem setClp_rings (c : Nat) (q : ClusterPower) : (s.setClp c q).rings = s.rings := rfl
@[simp] theorem setClp_quarters (c : Nat) (q : ClusterPower) : (s.setClp c q).quarters = s.quarters := rfl
@[simp] theorem setClp_twin (c : Nat) (q : ClusterPower) : (s.setClp c q).twin = s.twin := rfl
@[simp] theorem setClp_mem (c : Nat) (q : ClusterPower) : (s.setClp c q).mem = s.mem := rfl

@[simp] theorem setDom_pending (n : Nat) (d : Domain) : (s.setDom n d).pending = s.pending := rfl
@[simp] theorem setDom_out (n : Nat) (d : Domain) : (s.setDom n d).out = s.out := rfl
@[simp] theorem setDom_free (n : Nat) (d : Domain) : (s.setDom n d).free = s.free := rfl
@[simp] theorem setDom_regs (n : Nat) (d : Domain) : (s.setDom n d).regs = s.regs := rfl
@[simp] theorem setDom_rows (n : Nat) (d : Domain) : (s.setDom n d).rows = s.rows := rfl
@[simp] theorem setDom_past (n : Nat) (d : Domain) : (s.setDom n d).past = s.past := rfl
@[simp] theorem setDom_ctrs (n : Nat) (d : Domain) : (s.setDom n d).ctrs = s.ctrs := rfl
@[simp] theorem setDom_onceTick (n : Nat) (d : Domain) : (s.setDom n d).onceTick = s.onceTick := rfl
@[simp] theorem setDom_clusterPower (n : Nat) (d : Domain) : (s.setDom n d).clusterPower = s.clusterPower := rfl
@[simp] theorem setDom_time (n : Nat) (d : Domain) : (s.setDom n d).time = s.time := rfl
@[simp] theorem setDom_ev (n : Nat) (d : Domain) : (s.setDom n d).ev = s.ev := rfl
@[simp] theorem setDom_cu (n : Nat) (d : Domain) : (s.setDom n d).cu = s.cu := rfl
@[simp] theorem setDom_dict (n : Nat) (d : Domain) : (s.setDom n d).dict = s.dict := rfl
@[simp] theorem setDom_keys (n : Nat) (d : Domain) : (s.setDom n d).keys = s.keys := rfl
@[simp] theorem setDom_masks (n : Nat) (d : Domain) : (s.setDom n d).masks = s.masks := rfl
@[simp] theorem setDom_laneLock (n : Nat) (d : Domain) : (s.setDom n d).laneLock = s.laneLock := rfl
@[simp] theorem setDom_portRx (n : Nat) (d : Domain) : (s.setDom n d).portRx = s.portRx := rfl
@[simp] theorem setDom_clusterRx (n : Nat) (d : Domain) : (s.setDom n d).clusterRx = s.clusterRx := rfl
@[simp] theorem setDom_clusterTx (n : Nat) (d : Domain) : (s.setDom n d).clusterTx = s.clusterTx := rfl
@[simp] theorem setDom_portTx (n : Nat) (d : Domain) : (s.setDom n d).portTx = s.portTx := rfl
@[simp] theorem setDom_shutters (n : Nat) (d : Domain) : (s.setDom n d).shutters = s.shutters := rfl
@[simp] theorem setDom_rings (n : Nat) (d : Domain) : (s.setDom n d).rings = s.rings := rfl
@[simp] theorem setDom_quarters (n : Nat) (d : Domain) : (s.setDom n d).quarters = s.quarters := rfl
@[simp] theorem setDom_twin (n : Nat) (d : Domain) : (s.setDom n d).twin = s.twin := rfl
@[simp] theorem setDom_mem (n : Nat) (d : Domain) : (s.setDom n d).mem = s.mem := rfl

@[simp] theorem setSrc_pending (e : Nat) (q : Source) : (s.setSrc e q).pending = s.pending := rfl
@[simp] theorem setSrc_out (e : Nat) (q : Source) : (s.setSrc e q).out = s.out := rfl
@[simp] theorem setSrc_free (e : Nat) (q : Source) : (s.setSrc e q).free = s.free := rfl
@[simp] theorem setSrc_regs (e : Nat) (q : Source) : (s.setSrc e q).regs = s.regs := rfl
@[simp] theorem setSrc_rows (e : Nat) (q : Source) : (s.setSrc e q).rows = s.rows := rfl
@[simp] theorem setSrc_past (e : Nat) (q : Source) : (s.setSrc e q).past = s.past := rfl
@[simp] theorem setSrc_ctrs (e : Nat) (q : Source) : (s.setSrc e q).ctrs = s.ctrs := rfl
@[simp] theorem setSrc_onceTick (e : Nat) (q : Source) : (s.setSrc e q).onceTick = s.onceTick := rfl
@[simp] theorem setSrc_power (e : Nat) (q : Source) : (s.setSrc e q).power = s.power := rfl
@[simp] theorem setSrc_clusterPower (e : Nat) (q : Source) : (s.setSrc e q).clusterPower = s.clusterPower := rfl
@[simp] theorem setSrc_time (e : Nat) (q : Source) : (s.setSrc e q).time = s.time := rfl
@[simp] theorem setSrc_cu (e : Nat) (q : Source) : (s.setSrc e q).cu = s.cu := rfl
@[simp] theorem setSrc_dict (e : Nat) (q : Source) : (s.setSrc e q).dict = s.dict := rfl
@[simp] theorem setSrc_keys (e : Nat) (q : Source) : (s.setSrc e q).keys = s.keys := rfl
@[simp] theorem setSrc_masks (e : Nat) (q : Source) : (s.setSrc e q).masks = s.masks := rfl
@[simp] theorem setSrc_laneLock (e : Nat) (q : Source) : (s.setSrc e q).laneLock = s.laneLock := rfl
@[simp] theorem setSrc_portRx (e : Nat) (q : Source) : (s.setSrc e q).portRx = s.portRx := rfl
@[simp] theorem setSrc_clusterRx (e : Nat) (q : Source) : (s.setSrc e q).clusterRx = s.clusterRx := rfl
@[simp] theorem setSrc_clusterTx (e : Nat) (q : Source) : (s.setSrc e q).clusterTx = s.clusterTx := rfl
@[simp] theorem setSrc_portTx (e : Nat) (q : Source) : (s.setSrc e q).portTx = s.portTx := rfl
@[simp] theorem setSrc_shutters (e : Nat) (q : Source) : (s.setSrc e q).shutters = s.shutters := rfl
@[simp] theorem setSrc_rings (e : Nat) (q : Source) : (s.setSrc e q).rings = s.rings := rfl
@[simp] theorem setSrc_quarters (e : Nat) (q : Source) : (s.setSrc e q).quarters = s.quarters := rfl
@[simp] theorem setSrc_twin (e : Nat) (q : Source) : (s.setSrc e q).twin = s.twin := rfl
@[simp] theorem setSrc_mem (e : Nat) (q : Source) : (s.setSrc e q).mem = s.mem := rfl

@[simp] theorem setTgt_pending (t : Nat) (q : Target) : (s.setTgt t q).pending = s.pending := rfl
@[simp] theorem setTgt_out (t : Nat) (q : Target) : (s.setTgt t q).out = s.out := rfl
@[simp] theorem setTgt_free (t : Nat) (q : Target) : (s.setTgt t q).free = s.free := rfl
@[simp] theorem setTgt_regs (t : Nat) (q : Target) : (s.setTgt t q).regs = s.regs := rfl
@[simp] theorem setTgt_rows (t : Nat) (q : Target) : (s.setTgt t q).rows = s.rows := rfl
@[simp] theorem setTgt_past (t : Nat) (q : Target) : (s.setTgt t q).past = s.past := rfl
@[simp] theorem setTgt_ctrs (t : Nat) (q : Target) : (s.setTgt t q).ctrs = s.ctrs := rfl
@[simp] theorem setTgt_onceTick (t : Nat) (q : Target) : (s.setTgt t q).onceTick = s.onceTick := rfl
@[simp] theorem setTgt_power (t : Nat) (q : Target) : (s.setTgt t q).power = s.power := rfl
@[simp] theorem setTgt_clusterPower (t : Nat) (q : Target) : (s.setTgt t q).clusterPower = s.clusterPower := rfl
@[simp] theorem setTgt_time (t : Nat) (q : Target) : (s.setTgt t q).time = s.time := rfl
@[simp] theorem setTgt_cu (t : Nat) (q : Target) : (s.setTgt t q).cu = s.cu := rfl
@[simp] theorem setTgt_dict (t : Nat) (q : Target) : (s.setTgt t q).dict = s.dict := rfl
@[simp] theorem setTgt_keys (t : Nat) (q : Target) : (s.setTgt t q).keys = s.keys := rfl
@[simp] theorem setTgt_masks (t : Nat) (q : Target) : (s.setTgt t q).masks = s.masks := rfl
@[simp] theorem setTgt_laneLock (t : Nat) (q : Target) : (s.setTgt t q).laneLock = s.laneLock := rfl
@[simp] theorem setTgt_portRx (t : Nat) (q : Target) : (s.setTgt t q).portRx = s.portRx := rfl
@[simp] theorem setTgt_clusterRx (t : Nat) (q : Target) : (s.setTgt t q).clusterRx = s.clusterRx := rfl
@[simp] theorem setTgt_clusterTx (t : Nat) (q : Target) : (s.setTgt t q).clusterTx = s.clusterTx := rfl
@[simp] theorem setTgt_portTx (t : Nat) (q : Target) : (s.setTgt t q).portTx = s.portTx := rfl
@[simp] theorem setTgt_shutters (t : Nat) (q : Target) : (s.setTgt t q).shutters = s.shutters := rfl
@[simp] theorem setTgt_rings (t : Nat) (q : Target) : (s.setTgt t q).rings = s.rings := rfl
@[simp] theorem setTgt_quarters (t : Nat) (q : Target) : (s.setTgt t q).quarters = s.quarters := rfl
@[simp] theorem setTgt_twin (t : Nat) (q : Target) : (s.setTgt t q).twin = s.twin := rfl
@[simp] theorem setTgt_mem (t : Nat) (q : Target) : (s.setTgt t q).mem = s.mem := rfl

@[simp] theorem setBandRing_pending (t b : Nat) (q : BandRing) : (s.setBandRing t b q).pending = s.pending := rfl
@[simp] theorem setBandRing_out (t b : Nat) (q : BandRing) : (s.setBandRing t b q).out = s.out := rfl
@[simp] theorem setBandRing_free (t b : Nat) (q : BandRing) : (s.setBandRing t b q).free = s.free := rfl
@[simp] theorem setBandRing_regs (t b : Nat) (q : BandRing) : (s.setBandRing t b q).regs = s.regs := rfl
@[simp] theorem setBandRing_rows (t b : Nat) (q : BandRing) : (s.setBandRing t b q).rows = s.rows := rfl
@[simp] theorem setBandRing_past (t b : Nat) (q : BandRing) : (s.setBandRing t b q).past = s.past := rfl
@[simp] theorem setBandRing_ctrs (t b : Nat) (q : BandRing) : (s.setBandRing t b q).ctrs = s.ctrs := rfl
@[simp] theorem setBandRing_onceTick (t b : Nat) (q : BandRing) : (s.setBandRing t b q).onceTick = s.onceTick := rfl
@[simp] theorem setBandRing_power (t b : Nat) (q : BandRing) : (s.setBandRing t b q).power = s.power := rfl
@[simp] theorem setBandRing_clusterPower (t b : Nat) (q : BandRing) : (s.setBandRing t b q).clusterPower = s.clusterPower := rfl
@[simp] theorem setBandRing_time (t b : Nat) (q : BandRing) : (s.setBandRing t b q).time = s.time := rfl
@[simp] theorem setBandRing_cu (t b : Nat) (q : BandRing) : (s.setBandRing t b q).cu = s.cu := rfl
@[simp] theorem setBandRing_dict (t b : Nat) (q : BandRing) : (s.setBandRing t b q).dict = s.dict := rfl
@[simp] theorem setBandRing_keys (t b : Nat) (q : BandRing) : (s.setBandRing t b q).keys = s.keys := rfl
@[simp] theorem setBandRing_masks (t b : Nat) (q : BandRing) : (s.setBandRing t b q).masks = s.masks := rfl
@[simp] theorem setBandRing_laneLock (t b : Nat) (q : BandRing) : (s.setBandRing t b q).laneLock = s.laneLock := rfl
@[simp] theorem setBandRing_portRx (t b : Nat) (q : BandRing) : (s.setBandRing t b q).portRx = s.portRx := rfl
@[simp] theorem setBandRing_clusterRx (t b : Nat) (q : BandRing) : (s.setBandRing t b q).clusterRx = s.clusterRx := rfl
@[simp] theorem setBandRing_clusterTx (t b : Nat) (q : BandRing) : (s.setBandRing t b q).clusterTx = s.clusterTx := rfl
@[simp] theorem setBandRing_portTx (t b : Nat) (q : BandRing) : (s.setBandRing t b q).portTx = s.portTx := rfl
@[simp] theorem setBandRing_shutters (t b : Nat) (q : BandRing) : (s.setBandRing t b q).shutters = s.shutters := rfl
@[simp] theorem setBandRing_rings (t b : Nat) (q : BandRing) : (s.setBandRing t b q).rings = s.rings := rfl
@[simp] theorem setBandRing_quarters (t b : Nat) (q : BandRing) : (s.setBandRing t b q).quarters = s.quarters := rfl
@[simp] theorem setBandRing_twin (t b : Nat) (q : BandRing) : (s.setBandRing t b q).twin = s.twin := rfl
@[simp] theorem setBandRing_mem (t b : Nat) (q : BandRing) : (s.setBandRing t b q).mem = s.mem := rfl

@[simp] theorem setSlot_pending (k : Nat) (q : KeySlot) : (s.setSlot k q).pending = s.pending := rfl
@[simp] theorem setSlot_out (k : Nat) (q : KeySlot) : (s.setSlot k q).out = s.out := rfl
@[simp] theorem setSlot_free (k : Nat) (q : KeySlot) : (s.setSlot k q).free = s.free := rfl
@[simp] theorem setSlot_regs (k : Nat) (q : KeySlot) : (s.setSlot k q).regs = s.regs := rfl
@[simp] theorem setSlot_rows (k : Nat) (q : KeySlot) : (s.setSlot k q).rows = s.rows := rfl
@[simp] theorem setSlot_past (k : Nat) (q : KeySlot) : (s.setSlot k q).past = s.past := rfl
@[simp] theorem setSlot_ctrs (k : Nat) (q : KeySlot) : (s.setSlot k q).ctrs = s.ctrs := rfl
@[simp] theorem setSlot_onceTick (k : Nat) (q : KeySlot) : (s.setSlot k q).onceTick = s.onceTick := rfl
@[simp] theorem setSlot_power (k : Nat) (q : KeySlot) : (s.setSlot k q).power = s.power := rfl
@[simp] theorem setSlot_clusterPower (k : Nat) (q : KeySlot) : (s.setSlot k q).clusterPower = s.clusterPower := rfl
@[simp] theorem setSlot_time (k : Nat) (q : KeySlot) : (s.setSlot k q).time = s.time := rfl
@[simp] theorem setSlot_ev (k : Nat) (q : KeySlot) : (s.setSlot k q).ev = s.ev := rfl
@[simp] theorem setSlot_cu (k : Nat) (q : KeySlot) : (s.setSlot k q).cu = s.cu := rfl
@[simp] theorem setSlot_dict (k : Nat) (q : KeySlot) : (s.setSlot k q).dict = s.dict := rfl
@[simp] theorem setSlot_masks (k : Nat) (q : KeySlot) : (s.setSlot k q).masks = s.masks := rfl
@[simp] theorem setSlot_laneLock (k : Nat) (q : KeySlot) : (s.setSlot k q).laneLock = s.laneLock := rfl
@[simp] theorem setSlot_portRx (k : Nat) (q : KeySlot) : (s.setSlot k q).portRx = s.portRx := rfl
@[simp] theorem setSlot_clusterRx (k : Nat) (q : KeySlot) : (s.setSlot k q).clusterRx = s.clusterRx := rfl
@[simp] theorem setSlot_clusterTx (k : Nat) (q : KeySlot) : (s.setSlot k q).clusterTx = s.clusterTx := rfl
@[simp] theorem setSlot_portTx (k : Nat) (q : KeySlot) : (s.setSlot k q).portTx = s.portTx := rfl
@[simp] theorem setSlot_shutters (k : Nat) (q : KeySlot) : (s.setSlot k q).shutters = s.shutters := rfl
@[simp] theorem setSlot_rings (k : Nat) (q : KeySlot) : (s.setSlot k q).rings = s.rings := rfl
@[simp] theorem setSlot_quarters (k : Nat) (q : KeySlot) : (s.setSlot k q).quarters = s.quarters := rfl
@[simp] theorem setSlot_twin (k : Nat) (q : KeySlot) : (s.setSlot k q).twin = s.twin := rfl
@[simp] theorem setSlot_mem (k : Nat) (q : KeySlot) : (s.setSlot k q).mem = s.mem := rfl

@[simp] theorem setRing_pending (r : Nat) (q : Ring) : (s.setRing r q).pending = s.pending := rfl
@[simp] theorem setRing_out (r : Nat) (q : Ring) : (s.setRing r q).out = s.out := rfl
@[simp] theorem setRing_free (r : Nat) (q : Ring) : (s.setRing r q).free = s.free := rfl
@[simp] theorem setRing_regs (r : Nat) (q : Ring) : (s.setRing r q).regs = s.regs := rfl
@[simp] theorem setRing_rows (r : Nat) (q : Ring) : (s.setRing r q).rows = s.rows := rfl
@[simp] theorem setRing_past (r : Nat) (q : Ring) : (s.setRing r q).past = s.past := rfl
@[simp] theorem setRing_ctrs (r : Nat) (q : Ring) : (s.setRing r q).ctrs = s.ctrs := rfl
@[simp] theorem setRing_onceTick (r : Nat) (q : Ring) : (s.setRing r q).onceTick = s.onceTick := rfl
@[simp] theorem setRing_power (r : Nat) (q : Ring) : (s.setRing r q).power = s.power := rfl
@[simp] theorem setRing_clusterPower (r : Nat) (q : Ring) : (s.setRing r q).clusterPower = s.clusterPower := rfl
@[simp] theorem setRing_time (r : Nat) (q : Ring) : (s.setRing r q).time = s.time := rfl
@[simp] theorem setRing_ev (r : Nat) (q : Ring) : (s.setRing r q).ev = s.ev := rfl
@[simp] theorem setRing_cu (r : Nat) (q : Ring) : (s.setRing r q).cu = s.cu := rfl
@[simp] theorem setRing_dict (r : Nat) (q : Ring) : (s.setRing r q).dict = s.dict := rfl
@[simp] theorem setRing_keys (r : Nat) (q : Ring) : (s.setRing r q).keys = s.keys := rfl
@[simp] theorem setRing_masks (r : Nat) (q : Ring) : (s.setRing r q).masks = s.masks := rfl
@[simp] theorem setRing_laneLock (r : Nat) (q : Ring) : (s.setRing r q).laneLock = s.laneLock := rfl
@[simp] theorem setRing_portRx (r : Nat) (q : Ring) : (s.setRing r q).portRx = s.portRx := rfl
@[simp] theorem setRing_clusterRx (r : Nat) (q : Ring) : (s.setRing r q).clusterRx = s.clusterRx := rfl
@[simp] theorem setRing_clusterTx (r : Nat) (q : Ring) : (s.setRing r q).clusterTx = s.clusterTx := rfl
@[simp] theorem setRing_portTx (r : Nat) (q : Ring) : (s.setRing r q).portTx = s.portTx := rfl
@[simp] theorem setRing_shutters (r : Nat) (q : Ring) : (s.setRing r q).shutters = s.shutters := rfl
@[simp] theorem setRing_quarters (r : Nat) (q : Ring) : (s.setRing r q).quarters = s.quarters := rfl
@[simp] theorem setRing_twin (r : Nat) (q : Ring) : (s.setRing r q).twin = s.twin := rfl
@[simp] theorem setRing_mem (r : Nat) (q : Ring) : (s.setRing r q).mem = s.mem := rfl

@[simp] theorem updRing_pending (r : Nat) (f : Ring → Ring) : (s.updRing r f).pending = s.pending := rfl
@[simp] theorem updRing_out (r : Nat) (f : Ring → Ring) : (s.updRing r f).out = s.out := rfl
@[simp] theorem updRing_free (r : Nat) (f : Ring → Ring) : (s.updRing r f).free = s.free := rfl
@[simp] theorem updRing_regs (r : Nat) (f : Ring → Ring) : (s.updRing r f).regs = s.regs := rfl
@[simp] theorem updRing_rows (r : Nat) (f : Ring → Ring) : (s.updRing r f).rows = s.rows := rfl
@[simp] theorem updRing_past (r : Nat) (f : Ring → Ring) : (s.updRing r f).past = s.past := rfl
@[simp] theorem updRing_ctrs (r : Nat) (f : Ring → Ring) : (s.updRing r f).ctrs = s.ctrs := rfl
@[simp] theorem updRing_onceTick (r : Nat) (f : Ring → Ring) : (s.updRing r f).onceTick = s.onceTick := rfl
@[simp] theorem updRing_power (r : Nat) (f : Ring → Ring) : (s.updRing r f).power = s.power := rfl
@[simp] theorem updRing_clusterPower (r : Nat) (f : Ring → Ring) : (s.updRing r f).clusterPower = s.clusterPower := rfl
@[simp] theorem updRing_time (r : Nat) (f : Ring → Ring) : (s.updRing r f).time = s.time := rfl
@[simp] theorem updRing_ev (r : Nat) (f : Ring → Ring) : (s.updRing r f).ev = s.ev := rfl
@[simp] theorem updRing_cu (r : Nat) (f : Ring → Ring) : (s.updRing r f).cu = s.cu := rfl
@[simp] theorem updRing_dict (r : Nat) (f : Ring → Ring) : (s.updRing r f).dict = s.dict := rfl
@[simp] theorem updRing_keys (r : Nat) (f : Ring → Ring) : (s.updRing r f).keys = s.keys := rfl
@[simp] theorem updRing_masks (r : Nat) (f : Ring → Ring) : (s.updRing r f).masks = s.masks := rfl
@[simp] theorem updRing_laneLock (r : Nat) (f : Ring → Ring) : (s.updRing r f).laneLock = s.laneLock := rfl
@[simp] theorem updRing_portRx (r : Nat) (f : Ring → Ring) : (s.updRing r f).portRx = s.portRx := rfl
@[simp] theorem updRing_clusterRx (r : Nat) (f : Ring → Ring) : (s.updRing r f).clusterRx = s.clusterRx := rfl
@[simp] theorem updRing_clusterTx (r : Nat) (f : Ring → Ring) : (s.updRing r f).clusterTx = s.clusterTx := rfl
@[simp] theorem updRing_portTx (r : Nat) (f : Ring → Ring) : (s.updRing r f).portTx = s.portTx := rfl
@[simp] theorem updRing_shutters (r : Nat) (f : Ring → Ring) : (s.updRing r f).shutters = s.shutters := rfl
@[simp] theorem updRing_quarters (r : Nat) (f : Ring → Ring) : (s.updRing r f).quarters = s.quarters := rfl
@[simp] theorem updRing_twin (r : Nat) (f : Ring → Ring) : (s.updRing r f).twin = s.twin := rfl
@[simp] theorem updRing_mem (r : Nat) (f : Ring → Ring) : (s.updRing r f).mem = s.mem := rfl

@[simp] theorem updTwin_pending (f : TwinUnit → TwinUnit) : (s.updTwin f).pending = s.pending := rfl
@[simp] theorem updTwin_out (f : TwinUnit → TwinUnit) : (s.updTwin f).out = s.out := rfl
@[simp] theorem updTwin_free (f : TwinUnit → TwinUnit) : (s.updTwin f).free = s.free := rfl
@[simp] theorem updTwin_regs (f : TwinUnit → TwinUnit) : (s.updTwin f).regs = s.regs := rfl
@[simp] theorem updTwin_rows (f : TwinUnit → TwinUnit) : (s.updTwin f).rows = s.rows := rfl
@[simp] theorem updTwin_past (f : TwinUnit → TwinUnit) : (s.updTwin f).past = s.past := rfl
@[simp] theorem updTwin_ctrs (f : TwinUnit → TwinUnit) : (s.updTwin f).ctrs = s.ctrs := rfl
@[simp] theorem updTwin_onceTick (f : TwinUnit → TwinUnit) : (s.updTwin f).onceTick = s.onceTick := rfl
@[simp] theorem updTwin_power (f : TwinUnit → TwinUnit) : (s.updTwin f).power = s.power := rfl
@[simp] theorem updTwin_clusterPower (f : TwinUnit → TwinUnit) : (s.updTwin f).clusterPower = s.clusterPower := rfl
@[simp] theorem updTwin_time (f : TwinUnit → TwinUnit) : (s.updTwin f).time = s.time := rfl
@[simp] theorem updTwin_ev (f : TwinUnit → TwinUnit) : (s.updTwin f).ev = s.ev := rfl
@[simp] theorem updTwin_cu (f : TwinUnit → TwinUnit) : (s.updTwin f).cu = s.cu := rfl
@[simp] theorem updTwin_dict (f : TwinUnit → TwinUnit) : (s.updTwin f).dict = s.dict := rfl
@[simp] theorem updTwin_keys (f : TwinUnit → TwinUnit) : (s.updTwin f).keys = s.keys := rfl
@[simp] theorem updTwin_masks (f : TwinUnit → TwinUnit) : (s.updTwin f).masks = s.masks := rfl
@[simp] theorem updTwin_laneLock (f : TwinUnit → TwinUnit) : (s.updTwin f).laneLock = s.laneLock := rfl
@[simp] theorem updTwin_portRx (f : TwinUnit → TwinUnit) : (s.updTwin f).portRx = s.portRx := rfl
@[simp] theorem updTwin_clusterRx (f : TwinUnit → TwinUnit) : (s.updTwin f).clusterRx = s.clusterRx := rfl
@[simp] theorem updTwin_clusterTx (f : TwinUnit → TwinUnit) : (s.updTwin f).clusterTx = s.clusterTx := rfl
@[simp] theorem updTwin_portTx (f : TwinUnit → TwinUnit) : (s.updTwin f).portTx = s.portTx := rfl
@[simp] theorem updTwin_shutters (f : TwinUnit → TwinUnit) : (s.updTwin f).shutters = s.shutters := rfl
@[simp] theorem updTwin_rings (f : TwinUnit → TwinUnit) : (s.updTwin f).rings = s.rings := rfl
@[simp] theorem updTwin_quarters (f : TwinUnit → TwinUnit) : (s.updTwin f).quarters = s.quarters := rfl
@[simp] theorem updTwin_mem (f : TwinUnit → TwinUnit) : (s.updTwin f).mem = s.mem := rfl

@[simp] theorem setQuarter_pending (q : Nat) (v : Quarter) : (s.setQuarter q v).pending = s.pending := rfl
@[simp] theorem setQuarter_out (q : Nat) (v : Quarter) : (s.setQuarter q v).out = s.out := rfl
@[simp] theorem setQuarter_free (q : Nat) (v : Quarter) : (s.setQuarter q v).free = s.free := rfl
@[simp] theorem setQuarter_regs (q : Nat) (v : Quarter) : (s.setQuarter q v).regs = s.regs := rfl
@[simp] theorem setQuarter_rows (q : Nat) (v : Quarter) : (s.setQuarter q v).rows = s.rows := rfl
@[simp] theorem setQuarter_past (q : Nat) (v : Quarter) : (s.setQuarter q v).past = s.past := rfl
@[simp] theorem setQuarter_ctrs (q : Nat) (v : Quarter) : (s.setQuarter q v).ctrs = s.ctrs := rfl
@[simp] theorem setQuarter_onceTick (q : Nat) (v : Quarter) : (s.setQuarter q v).onceTick = s.onceTick := rfl
@[simp] theorem setQuarter_power (q : Nat) (v : Quarter) : (s.setQuarter q v).power = s.power := rfl
@[simp] theorem setQuarter_clusterPower (q : Nat) (v : Quarter) : (s.setQuarter q v).clusterPower = s.clusterPower := rfl
@[simp] theorem setQuarter_time (q : Nat) (v : Quarter) : (s.setQuarter q v).time = s.time := rfl
@[simp] theorem setQuarter_ev (q : Nat) (v : Quarter) : (s.setQuarter q v).ev = s.ev := rfl
@[simp] theorem setQuarter_cu (q : Nat) (v : Quarter) : (s.setQuarter q v).cu = s.cu := rfl
@[simp] theorem setQuarter_dict (q : Nat) (v : Quarter) : (s.setQuarter q v).dict = s.dict := rfl
@[simp] theorem setQuarter_keys (q : Nat) (v : Quarter) : (s.setQuarter q v).keys = s.keys := rfl
@[simp] theorem setQuarter_masks (q : Nat) (v : Quarter) : (s.setQuarter q v).masks = s.masks := rfl
@[simp] theorem setQuarter_laneLock (q : Nat) (v : Quarter) : (s.setQuarter q v).laneLock = s.laneLock := rfl
@[simp] theorem setQuarter_portRx (q : Nat) (v : Quarter) : (s.setQuarter q v).portRx = s.portRx := rfl
@[simp] theorem setQuarter_clusterRx (q : Nat) (v : Quarter) : (s.setQuarter q v).clusterRx = s.clusterRx := rfl
@[simp] theorem setQuarter_clusterTx (q : Nat) (v : Quarter) : (s.setQuarter q v).clusterTx = s.clusterTx := rfl
@[simp] theorem setQuarter_portTx (q : Nat) (v : Quarter) : (s.setQuarter q v).portTx = s.portTx := rfl
@[simp] theorem setQuarter_shutters (q : Nat) (v : Quarter) : (s.setQuarter q v).shutters = s.shutters := rfl
@[simp] theorem setQuarter_rings (q : Nat) (v : Quarter) : (s.setQuarter q v).rings = s.rings := rfl
@[simp] theorem setQuarter_twin (q : Nat) (v : Quarter) : (s.setQuarter q v).twin = s.twin := rfl
@[simp] theorem setQuarter_mem (q : Nat) (v : Quarter) : (s.setQuarter q v).mem = s.mem := rfl

@[simp] theorem setWindow_pending (w : Nat) (q : Window) : (s.setWindow w q).pending = s.pending := rfl
@[simp] theorem setWindow_out (w : Nat) (q : Window) : (s.setWindow w q).out = s.out := rfl
@[simp] theorem setWindow_free (w : Nat) (q : Window) : (s.setWindow w q).free = s.free := rfl
@[simp] theorem setWindow_regs (w : Nat) (q : Window) : (s.setWindow w q).regs = s.regs := rfl
@[simp] theorem setWindow_rows (w : Nat) (q : Window) : (s.setWindow w q).rows = s.rows := rfl
@[simp] theorem setWindow_past (w : Nat) (q : Window) : (s.setWindow w q).past = s.past := rfl
@[simp] theorem setWindow_ctrs (w : Nat) (q : Window) : (s.setWindow w q).ctrs = s.ctrs := rfl
@[simp] theorem setWindow_onceTick (w : Nat) (q : Window) : (s.setWindow w q).onceTick = s.onceTick := rfl
@[simp] theorem setWindow_power (w : Nat) (q : Window) : (s.setWindow w q).power = s.power := rfl
@[simp] theorem setWindow_clusterPower (w : Nat) (q : Window) : (s.setWindow w q).clusterPower = s.clusterPower := rfl
@[simp] theorem setWindow_time (w : Nat) (q : Window) : (s.setWindow w q).time = s.time := rfl
@[simp] theorem setWindow_ev (w : Nat) (q : Window) : (s.setWindow w q).ev = s.ev := rfl
@[simp] theorem setWindow_cu (w : Nat) (q : Window) : (s.setWindow w q).cu = s.cu := rfl
@[simp] theorem setWindow_keys (w : Nat) (q : Window) : (s.setWindow w q).keys = s.keys := rfl
@[simp] theorem setWindow_masks (w : Nat) (q : Window) : (s.setWindow w q).masks = s.masks := rfl
@[simp] theorem setWindow_laneLock (w : Nat) (q : Window) : (s.setWindow w q).laneLock = s.laneLock := rfl
@[simp] theorem setWindow_portRx (w : Nat) (q : Window) : (s.setWindow w q).portRx = s.portRx := rfl
@[simp] theorem setWindow_clusterRx (w : Nat) (q : Window) : (s.setWindow w q).clusterRx = s.clusterRx := rfl
@[simp] theorem setWindow_clusterTx (w : Nat) (q : Window) : (s.setWindow w q).clusterTx = s.clusterTx := rfl
@[simp] theorem setWindow_portTx (w : Nat) (q : Window) : (s.setWindow w q).portTx = s.portTx := rfl
@[simp] theorem setWindow_shutters (w : Nat) (q : Window) : (s.setWindow w q).shutters = s.shutters := rfl
@[simp] theorem setWindow_rings (w : Nat) (q : Window) : (s.setWindow w q).rings = s.rings := rfl
@[simp] theorem setWindow_quarters (w : Nat) (q : Window) : (s.setWindow w q).quarters = s.quarters := rfl
@[simp] theorem setWindow_twin (w : Nat) (q : Window) : (s.setWindow w q).twin = s.twin := rfl
@[simp] theorem setWindow_mem (w : Nat) (q : Window) : (s.setWindow w q).mem = s.mem := rfl

@[simp] theorem updKeys_pending (f : KeyUnit → KeyUnit) : (s.updKeys f).pending = s.pending := rfl
@[simp] theorem updKeys_out (f : KeyUnit → KeyUnit) : (s.updKeys f).out = s.out := rfl
@[simp] theorem updKeys_free (f : KeyUnit → KeyUnit) : (s.updKeys f).free = s.free := rfl
@[simp] theorem updKeys_regs (f : KeyUnit → KeyUnit) : (s.updKeys f).regs = s.regs := rfl
@[simp] theorem updKeys_rows (f : KeyUnit → KeyUnit) : (s.updKeys f).rows = s.rows := rfl
@[simp] theorem updKeys_past (f : KeyUnit → KeyUnit) : (s.updKeys f).past = s.past := rfl
@[simp] theorem updKeys_ctrs (f : KeyUnit → KeyUnit) : (s.updKeys f).ctrs = s.ctrs := rfl
@[simp] theorem updKeys_onceTick (f : KeyUnit → KeyUnit) : (s.updKeys f).onceTick = s.onceTick := rfl
@[simp] theorem updKeys_power (f : KeyUnit → KeyUnit) : (s.updKeys f).power = s.power := rfl
@[simp] theorem updKeys_clusterPower (f : KeyUnit → KeyUnit) : (s.updKeys f).clusterPower = s.clusterPower := rfl
@[simp] theorem updKeys_time (f : KeyUnit → KeyUnit) : (s.updKeys f).time = s.time := rfl
@[simp] theorem updKeys_ev (f : KeyUnit → KeyUnit) : (s.updKeys f).ev = s.ev := rfl
@[simp] theorem updKeys_cu (f : KeyUnit → KeyUnit) : (s.updKeys f).cu = s.cu := rfl
@[simp] theorem updKeys_dict (f : KeyUnit → KeyUnit) : (s.updKeys f).dict = s.dict := rfl
@[simp] theorem updKeys_masks (f : KeyUnit → KeyUnit) : (s.updKeys f).masks = s.masks := rfl
@[simp] theorem updKeys_laneLock (f : KeyUnit → KeyUnit) : (s.updKeys f).laneLock = s.laneLock := rfl
@[simp] theorem updKeys_portRx (f : KeyUnit → KeyUnit) : (s.updKeys f).portRx = s.portRx := rfl
@[simp] theorem updKeys_clusterRx (f : KeyUnit → KeyUnit) : (s.updKeys f).clusterRx = s.clusterRx := rfl
@[simp] theorem updKeys_clusterTx (f : KeyUnit → KeyUnit) : (s.updKeys f).clusterTx = s.clusterTx := rfl
@[simp] theorem updKeys_portTx (f : KeyUnit → KeyUnit) : (s.updKeys f).portTx = s.portTx := rfl
@[simp] theorem updKeys_shutters (f : KeyUnit → KeyUnit) : (s.updKeys f).shutters = s.shutters := rfl
@[simp] theorem updKeys_rings (f : KeyUnit → KeyUnit) : (s.updKeys f).rings = s.rings := rfl
@[simp] theorem updKeys_quarters (f : KeyUnit → KeyUnit) : (s.updKeys f).quarters = s.quarters := rfl
@[simp] theorem updKeys_twin (f : KeyUnit → KeyUnit) : (s.updKeys f).twin = s.twin := rfl
@[simp] theorem updKeys_mem (f : KeyUnit → KeyUnit) : (s.updKeys f).mem = s.mem := rfl

@[simp] theorem emit_pending (o : Output) : (s.emit o).pending = s.pending := rfl
@[simp] theorem emit_free (o : Output) : (s.emit o).free = s.free := rfl
@[simp] theorem emit_regs (o : Output) : (s.emit o).regs = s.regs := rfl
@[simp] theorem emit_rows (o : Output) : (s.emit o).rows = s.rows := rfl
@[simp] theorem emit_past (o : Output) : (s.emit o).past = s.past := rfl
@[simp] theorem emit_ctrs (o : Output) : (s.emit o).ctrs = s.ctrs := rfl
@[simp] theorem emit_onceTick (o : Output) : (s.emit o).onceTick = s.onceTick := rfl
@[simp] theorem emit_power (o : Output) : (s.emit o).power = s.power := rfl
@[simp] theorem emit_clusterPower (o : Output) : (s.emit o).clusterPower = s.clusterPower := rfl
@[simp] theorem emit_time (o : Output) : (s.emit o).time = s.time := rfl
@[simp] theorem emit_ev (o : Output) : (s.emit o).ev = s.ev := rfl
@[simp] theorem emit_cu (o : Output) : (s.emit o).cu = s.cu := rfl
@[simp] theorem emit_dict (o : Output) : (s.emit o).dict = s.dict := rfl
@[simp] theorem emit_keys (o : Output) : (s.emit o).keys = s.keys := rfl
@[simp] theorem emit_masks (o : Output) : (s.emit o).masks = s.masks := rfl
@[simp] theorem emit_laneLock (o : Output) : (s.emit o).laneLock = s.laneLock := rfl
@[simp] theorem emit_portRx (o : Output) : (s.emit o).portRx = s.portRx := rfl
@[simp] theorem emit_clusterRx (o : Output) : (s.emit o).clusterRx = s.clusterRx := rfl
@[simp] theorem emit_clusterTx (o : Output) : (s.emit o).clusterTx = s.clusterTx := rfl
@[simp] theorem emit_portTx (o : Output) : (s.emit o).portTx = s.portTx := rfl
@[simp] theorem emit_shutters (o : Output) : (s.emit o).shutters = s.shutters := rfl
@[simp] theorem emit_rings (o : Output) : (s.emit o).rings = s.rings := rfl
@[simp] theorem emit_quarters (o : Output) : (s.emit o).quarters = s.quarters := rfl
@[simp] theorem emit_twin (o : Output) : (s.emit o).twin = s.twin := rfl
@[simp] theorem emit_mem (o : Output) : (s.emit o).mem = s.mem := rfl

@[simp] theorem elapse_pending (dt : Nat) : (s.elapse dt).pending = s.pending := rfl
@[simp] theorem elapse_free (dt : Nat) : (s.elapse dt).free = s.free := rfl
@[simp] theorem elapse_regs (dt : Nat) : (s.elapse dt).regs = s.regs := rfl
@[simp] theorem elapse_rows (dt : Nat) : (s.elapse dt).rows = s.rows := rfl
@[simp] theorem elapse_past (dt : Nat) : (s.elapse dt).past = s.past := rfl
@[simp] theorem elapse_ctrs (dt : Nat) : (s.elapse dt).ctrs = s.ctrs := rfl
@[simp] theorem elapse_onceTick (dt : Nat) : (s.elapse dt).onceTick = s.onceTick := rfl
@[simp] theorem elapse_clusterPower (dt : Nat) : (s.elapse dt).clusterPower = s.clusterPower := rfl
@[simp] theorem elapse_ev (dt : Nat) : (s.elapse dt).ev = s.ev := rfl
@[simp] theorem elapse_cu (dt : Nat) : (s.elapse dt).cu = s.cu := rfl
@[simp] theorem elapse_dict (dt : Nat) : (s.elapse dt).dict = s.dict := rfl
@[simp] theorem elapse_keys (dt : Nat) : (s.elapse dt).keys = s.keys := rfl
@[simp] theorem elapse_masks (dt : Nat) : (s.elapse dt).masks = s.masks := rfl
@[simp] theorem elapse_laneLock (dt : Nat) : (s.elapse dt).laneLock = s.laneLock := rfl
@[simp] theorem elapse_portRx (dt : Nat) : (s.elapse dt).portRx = s.portRx := rfl
@[simp] theorem elapse_clusterRx (dt : Nat) : (s.elapse dt).clusterRx = s.clusterRx := rfl
@[simp] theorem elapse_clusterTx (dt : Nat) : (s.elapse dt).clusterTx = s.clusterTx := rfl
@[simp] theorem elapse_portTx (dt : Nat) : (s.elapse dt).portTx = s.portTx := rfl
@[simp] theorem elapse_shutters (dt : Nat) : (s.elapse dt).shutters = s.shutters := rfl
@[simp] theorem elapse_rings (dt : Nat) : (s.elapse dt).rings = s.rings := rfl
@[simp] theorem elapse_quarters (dt : Nat) : (s.elapse dt).quarters = s.quarters := rfl
@[simp] theorem elapse_twin (dt : Nat) : (s.elapse dt).twin = s.twin := rfl
@[simp] theorem elapse_mem (dt : Nat) : (s.elapse dt).mem = s.mem := rfl

/-! ### What an update writes -/

@[simp] theorem bumpRow_pending (i u r n : Nat) : (s.bumpRow i u r n).pending = s.pending := (bumpRow_beside (.refl s)).pending
@[simp] theorem bumpRow_out (i u r n : Nat) : (s.bumpRow i u r n).out = s.out := (bumpRow_beside (.refl s)).out
@[simp] theorem bumpRow_free (i u r n : Nat) : (s.bumpRow i u r n).free = s.free := (bumpRow_beside (.refl s)).free
@[simp] theorem bumpRow_rows (i u r n : Nat) : (s.bumpRow i u r n).rows = s.rows := (bumpRow_beside (.refl s)).rows
@[simp] theorem bumpRow_past (i u r n : Nat) : (s.bumpRow i u r n).past = s.past := (bumpRow_beside (.refl s)).past
@[simp] theorem bumpRow_time (i u r n : Nat) : (s.bumpRow i u r n).time = s.time := (bumpRow_beside (.refl s)).time
@[simp] theorem bumpRow_dict (i u r n : Nat) : (s.bumpRow i u r n).dict = s.dict := (bumpRow_beside (.refl s)).dict
@[simp] theorem bumpRow_keys (i u r n : Nat) : (s.bumpRow i u r n).keys = s.keys := (bumpRow_beside (.refl s)).keys
@[simp] theorem bumpRow_masks (i u r n : Nat) : (s.bumpRow i u r n).masks = s.masks := (bumpRow_beside (.refl s)).masks
@[simp] theorem bumpRow_laneLock (i u r n : Nat) : (s.bumpRow i u r n).laneLock = s.laneLock := (bumpRow_beside (.refl s)).laneLock
@[simp] theorem bumpRow_portRx (i u r n : Nat) : (s.bumpRow i u r n).portRx = s.portRx := (bumpRow_beside (.refl s)).portRx
@[simp] theorem bumpRow_clusterRx (i u r n : Nat) : (s.bumpRow i u r n).clusterRx = s.clusterRx := (bumpRow_beside (.refl s)).clusterRx
@[simp] theorem bumpRow_clusterTx (i u r n : Nat) : (s.bumpRow i u r n).clusterTx = s.clusterTx := (bumpRow_beside (.refl s)).clusterTx
@[simp] theorem bumpRow_portTx (i u r n : Nat) : (s.bumpRow i u r n).portTx = s.portTx := (bumpRow_beside (.refl s)).portTx
@[simp] theorem bumpRow_shutters (i u r n : Nat) : (s.bumpRow i u r n).shutters = s.shutters := (bumpRow_beside (.refl s)).shutters
@[simp] theorem bumpRow_rings (i u r n : Nat) : (s.bumpRow i u r n).rings = s.rings := (bumpRow_beside (.refl s)).rings
@[simp] theorem bumpRow_quarters (i u r n : Nat) : (s.bumpRow i u r n).quarters = s.quarters := (bumpRow_beside (.refl s)).quarters
@[simp] theorem bumpRow_twin (i u r n : Nat) : (s.bumpRow i u r n).twin = s.twin := (bumpRow_beside (.refl s)).twin
@[simp] theorem bumpRow_mem (i u r n : Nat) : (s.bumpRow i u r n).mem = s.mem := (bumpRow_beside (.refl s)).mem

@[simp] theorem bump_pending (i u n : Nat) : (s.bump i u n).pending = s.pending := (bump_beside (.refl s)).pending
@[simp] theorem bump_out (i u n : Nat) : (s.bump i u n).out = s.out := (bump_beside (.refl s)).out
@[simp] theorem bump_free (i u n : Nat) : (s.bump i u n).free = s.free := (bump_beside (.refl s)).free
@[simp] theorem bump_rows (i u n : Nat) : (s.bump i u n).rows = s.rows := (bump_beside (.refl s)).rows
@[simp] theorem bump_past (i u n : Nat) : (s.bump i u n).past = s.past := (bump_beside (.refl s)).past
@[simp] theorem bump_time (i u n : Nat) : (s.bump i u n).time = s.time := (bump_beside (.refl s)).time
@[simp] theorem bump_dict (i u n : Nat) : (s.bump i u n).dict = s.dict := (bump_beside (.refl s)).dict
@[simp] theorem bump_keys (i u n : Nat) : (s.bump i u n).keys = s.keys := (bump_beside (.refl s)).keys
@[simp] theorem bump_masks (i u n : Nat) : (s.bump i u n).masks = s.masks := (bump_beside (.refl s)).masks
@[simp] theorem bump_laneLock (i u n : Nat) : (s.bump i u n).laneLock = s.laneLock := (bump_beside (.refl s)).laneLock
@[simp] theorem bump_portRx (i u n : Nat) : (s.bump i u n).portRx = s.portRx := (bump_beside (.refl s)).portRx
@[simp] theorem bump_clusterRx (i u n : Nat) : (s.bump i u n).clusterRx = s.clusterRx := (bump_beside (.refl s)).clusterRx
@[simp] theorem bump_clusterTx (i u n : Nat) : (s.bump i u n).clusterTx = s.clusterTx := (bump_beside (.refl s)).clusterTx
@[simp] theorem bump_portTx (i u n : Nat) : (s.bump i u n).portTx = s.portTx := (bump_beside (.refl s)).portTx
@[simp] theorem bump_shutters (i u n : Nat) : (s.bump i u n).shutters = s.shutters := (bump_beside (.refl s)).shutters
@[simp] theorem bump_rings (i u n : Nat) : (s.bump i u n).rings = s.rings := (bump_beside (.refl s)).rings
@[simp] theorem bump_quarters (i u n : Nat) : (s.bump i u n).quarters = s.quarters := (bump_beside (.refl s)).quarters
@[simp] theorem bump_twin (i u n : Nat) : (s.bump i u n).twin = s.twin := (bump_beside (.refl s)).twin
@[simp] theorem bump_mem (i u n : Nat) : (s.bump i u n).mem = s.mem := (bump_beside (.refl s)).mem

@[simp] theorem raise_pending (e d : Nat) : (s.raise e d).pending = s.pending := (raise_beside (.refl s)).pending
@[simp] theorem raise_out (e d : Nat) : (s.raise e d).out = s.out := (raise_beside (.refl s)).out
@[simp] theorem raise_free (e d : Nat) : (s.raise e d).free = s.free := (raise_beside (.refl s)).free
@[simp] theorem raise_rows (e d : Nat) : (s.raise e d).rows = s.rows := (raise_beside (.refl s)).rows
@[simp] theorem raise_past (e d : Nat) : (s.raise e d).past = s.past := (raise_beside (.refl s)).past
@[simp] theorem raise_time (e d : Nat) : (s.raise e d).time = s.time := (raise_beside (.refl s)).time
@[simp] theorem raise_dict (e d : Nat) : (s.raise e d).dict = s.dict := (raise_beside (.refl s)).dict
@[simp] theorem raise_keys (e d : Nat) : (s.raise e d).keys = s.keys := (raise_beside (.refl s)).keys
@[simp] theorem raise_masks (e d : Nat) : (s.raise e d).masks = s.masks := (raise_beside (.refl s)).masks
@[simp] theorem raise_laneLock (e d : Nat) : (s.raise e d).laneLock = s.laneLock := (raise_beside (.refl s)).laneLock
@[simp] theorem raise_portRx (e d : Nat) : (s.raise e d).portRx = s.portRx := (raise_beside (.refl s)).portRx
@[simp] theorem raise_clusterRx (e d : Nat) : (s.raise e d).clusterRx = s.clusterRx := (raise_beside (.refl s)).clusterRx
@[simp] theorem raise_clusterTx (e d : Nat) : (s.raise e d).clusterTx = s.clusterTx := (raise_beside (.refl s)).clusterTx
@[simp] theorem raise_portTx (e d : Nat) : (s.raise e d).portTx = s.portTx := (raise_beside (.refl s)).portTx
@[simp] theorem raise_shutters (e d : Nat) : (s.raise e d).shutters = s.shutters := (raise_beside (.refl s)).shutters
@[simp] theorem raise_rings (e d : Nat) : (s.raise e d).rings = s.rings := (raise_beside (.refl s)).rings
@[simp] theorem raise_quarters (e d : Nat) : (s.raise e d).quarters = s.quarters := (raise_beside (.refl s)).quarters
@[simp] theorem raise_twin (e d : Nat) : (s.raise e d).twin = s.twin := (raise_beside (.refl s)).twin
@[simp] theorem raise_mem (e d : Nat) : (s.raise e d).mem = s.mem := (raise_beside (.refl s)).mem

@[simp] theorem raiseSource_pending (e d : Nat) : (s.raiseSource e d).pending = s.pending := (raiseSource_beside (.refl s)).pending
@[simp] theorem raiseSource_out (e d : Nat) : (s.raiseSource e d).out = s.out := (raiseSource_beside (.refl s)).out
@[simp] theorem raiseSource_free (e d : Nat) : (s.raiseSource e d).free = s.free := (raiseSource_beside (.refl s)).free
@[simp] theorem raiseSource_rows (e d : Nat) : (s.raiseSource e d).rows = s.rows := (raiseSource_beside (.refl s)).rows
@[simp] theorem raiseSource_past (e d : Nat) : (s.raiseSource e d).past = s.past := (raiseSource_beside (.refl s)).past
@[simp] theorem raiseSource_time (e d : Nat) : (s.raiseSource e d).time = s.time := (raiseSource_beside (.refl s)).time
@[simp] theorem raiseSource_dict (e d : Nat) : (s.raiseSource e d).dict = s.dict := (raiseSource_beside (.refl s)).dict
@[simp] theorem raiseSource_keys (e d : Nat) : (s.raiseSource e d).keys = s.keys := (raiseSource_beside (.refl s)).keys
@[simp] theorem raiseSource_masks (e d : Nat) : (s.raiseSource e d).masks = s.masks := (raiseSource_beside (.refl s)).masks
@[simp] theorem raiseSource_laneLock (e d : Nat) : (s.raiseSource e d).laneLock = s.laneLock := (raiseSource_beside (.refl s)).laneLock
@[simp] theorem raiseSource_portRx (e d : Nat) : (s.raiseSource e d).portRx = s.portRx := (raiseSource_beside (.refl s)).portRx
@[simp] theorem raiseSource_clusterRx (e d : Nat) : (s.raiseSource e d).clusterRx = s.clusterRx := (raiseSource_beside (.refl s)).clusterRx
@[simp] theorem raiseSource_clusterTx (e d : Nat) : (s.raiseSource e d).clusterTx = s.clusterTx := (raiseSource_beside (.refl s)).clusterTx
@[simp] theorem raiseSource_portTx (e d : Nat) : (s.raiseSource e d).portTx = s.portTx := (raiseSource_beside (.refl s)).portTx
@[simp] theorem raiseSource_shutters (e d : Nat) : (s.raiseSource e d).shutters = s.shutters := (raiseSource_beside (.refl s)).shutters
@[simp] theorem raiseSource_rings (e d : Nat) : (s.raiseSource e d).rings = s.rings := (raiseSource_beside (.refl s)).rings
@[simp] theorem raiseSource_quarters (e d : Nat) : (s.raiseSource e d).quarters = s.quarters := (raiseSource_beside (.refl s)).quarters
@[simp] theorem raiseSource_twin (e d : Nat) : (s.raiseSource e d).twin = s.twin := (raiseSource_beside (.refl s)).twin
@[simp] theorem raiseSource_mem (e d : Nat) : (s.raiseSource e d).mem = s.mem := (raiseSource_beside (.refl s)).mem

end Sys2Proof.Machine.State
end

