-- ==== Sys2Proof/Laws/Effects.lean ====
section
/-!
SUPPORT. What the shared operations leave of the units they act on: the unit's new value, and the parts beside it.
-/
namespace Sys2Proof.Machine

theorem answers_next {t : State} {p : State → Prop} (h : p t) : Answers (.next t) p := ⟨t, rfl, h⟩
theorem answers_settled {t : State} {p : State → Prop} (h : p t.settleFaults) : Answers (settled (.next t)) p := ⟨_, rfl, h⟩
theorem answersSettled {t : State} {p : State → Prop} (h : p t) : AnswersSettled (settled (.next t)) p := ⟨t, rfl, h⟩

theorem answers_pos {c : Prop} [Decidable c] {a b : Res} {p : State → Prop} (h : c) (ha : Answers a p) : Answers (if c then a else b) p := by
  rwa [if_pos h]
theorem answers_neg {c : Prop} [Decidable c] {a b : Res} {p : State → Prop} (h : ¬c) (hb : Answers b p) : Answers (if c then a else b) p := by
  rwa [if_neg h]
theorem answersSettled_pos {c : Prop} [Decidable c] {a b : Res} {p : State → Prop} (h : c) (ha : AnswersSettled a p) :
    AnswersSettled (if c then a else b) p := by rwa [if_pos h]
theorem answersSettled_neg {c : Prop} [Decidable c] {a b : Res} {p : State → Prop} (h : ¬c) (hb : AnswersSettled b p) :
    AnswersSettled (if c then a else b) p := by rwa [if_neg h]

theorem bit_setBit_self (w : Word) (i : Nat) (h : i < 64) : (w.setBit i true).bit i = true := by
  have : (BitVec.ofNat 64 (2 ^ i)).getLsbD i = true := by
    rw [BitVec.getLsbD_ofNat]; simp [h]
  simp only [Word.setBit, Word.bit, Word.one, if_true, BitVec.getLsbD_or, this, Bool.or_true]

namespace State
variable (s : State)

/-! ### A unit read after it is written -/

@[simp] theorem port_setPort (p : Nat) (q : PortRx) : (s.setPort p q).port p = q := SMap.get_set_self ..
@[simp] theorem port_updPort (p : Nat) (f : PortRx → PortRx) : (s.updPort p f).port p = f (s.port p) := port_setPort ..
@[simp] theorem clRx_setClRx (c : Nat) (q : ClusterRx) : (s.setClRx c q).clRx c = q := SMap.get_set_self ..
@[simp] theorem clRx_updClRx (c : Nat) (f : ClusterRx → ClusterRx) : (s.updClRx c f).clRx c = f (s.clRx c) := clRx_setClRx ..
@[simp] theorem clTx_setClTx (c : Nat) (q : ClusterTx) : (s.setClTx c q).clTx c = q := SMap.get_set_self ..
@[simp] theorem clTx_updClTx (c : Nat) (f : ClusterTx → ClusterTx) : (s.updClTx c f).clTx c = f (s.clTx c) := clTx_setClTx ..
@[simp] theorem portTxOf_setPortTx (p : Nat) (q : PortTx) : (s.setPortTx p q).portTxOf p = q := SMap.get_set_self ..
@[simp] theorem portTxOf_updPortTx (p : Nat) (f : PortTx → PortTx) : (s.updPortTx p f).portTxOf p = f (s.portTxOf p) :=
  portTxOf_setPortTx ..
@[simp] theorem shut_setShut (p : Nat) (q : Shutter) : (s.setShut p q).shut p = q := SMap.get_set_self ..
@[simp] theorem clp_setClp (c : Nat) (q : ClusterPower) : (s.setClp c q).clp c = q := SMap.get_set_self ..
@[simp] theorem dom_setDom (n : Nat) (d : Domain) : (s.setDom n d).dom n = d := SMap.get_set_self ..
@[simp] theorem src_setSrc (e : Nat) (q : Source) : (s.setSrc e q).src e = q := SMap.get_set_self ..
@[simp] theorem tgt_setTgt (t : Nat) (q : Target) : (s.setTgt t q).tgt t = q := SMap.get_set_self ..
@[simp] theorem bandRing_setBandRing (t b : Nat) (q : BandRing) : (s.setBandRing t b q).bandRing t b = q := SMap.get_set_self ..
@[simp] theorem slot_setSlot (k : Nat) (q : KeySlot) : (s.setSlot k q).slot k = q := SMap.get_set_self ..
@[simp] theorem ring_setRing (r : Nat) (q : Ring) : (s.setRing r q).ring r = q := SMap.get_set_self ..
@[simp] theorem ring_updRing (r : Nat) (f : Ring → Ring) : (s.updRing r f).ring r = f (s.ring r) := ring_setRing ..
@[simp] theorem quarter_setQuarter (r : Nat) (q : Quarter) : (s.setQuarter r q).quarter r = q := SMap.get_set_self ..
@[simp] theorem window_setWindow (w : Nat) (q : Window) : (s.setWindow w q).window w = q := SMap.get_set_self ..

theorem src_setSrc_ne {e f : Nat} (q : Source) (h : f ≠ e) : (s.setSrc e q).src f = s.src f := SMap.get_set_ne _ h

@[simp] theorem reg_setReg (i u : Nat) (v : Word) : (s.setReg i u v).reg i u = v := SMap.get_set_self ..

/-! ### What a passage of time leaves -/

section
variable (dt : Nat)
@[simp] theorem elapse_out : (s.elapse dt).out = [] := rfl
@[simp] theorem elapse_port (p : Nat) : (s.elapse dt).port p = s.port p := rfl
@[simp] theorem elapse_clRx (c : Nat) : (s.elapse dt).clRx c = s.clRx c := rfl
@[simp] theorem elapse_clTx (c : Nat) : (s.elapse dt).clTx c = s.clTx c := rfl
@[simp] theorem elapse_portTxOf (p : Nat) : (s.elapse dt).portTxOf p = s.portTxOf p := rfl
@[simp] theorem elapse_shut (p : Nat) : (s.elapse dt).shut p = s.shut p := rfl
@[simp] theorem elapse_clp (c : Nat) : (s.elapse dt).clp c = s.clp c := rfl
@[simp] theorem elapse_dom (n : Nat) : (s.elapse dt).dom n = s.dom n := rfl
@[simp] theorem elapse_src (e : Nat) : (s.elapse dt).src e = s.src e := rfl
@[simp] theorem elapse_tgt (t : Nat) : (s.elapse dt).tgt t = s.tgt t := rfl
@[simp] theorem elapse_bandRing (t b : Nat) : (s.elapse dt).bandRing t b = s.bandRing t b := rfl
@[simp] theorem elapse_slot (k : Nat) : (s.elapse dt).slot k = s.slot k := rfl
@[simp] theorem elapse_ring (r : Nat) : (s.elapse dt).ring r = s.ring r := rfl
@[simp] theorem elapse_quarter (q : Nat) : (s.elapse dt).quarter q = s.quarter q := rfl
@[simp] theorem elapse_window (w : Nat) : (s.elapse dt).window w = s.window w := rfl
@[simp] theorem elapse_reg (i u : Nat) : (s.elapse dt).reg i u = s.reg i u := rfl
@[simp] theorem elapse_regN (i u : Nat) : (s.elapse dt).regN i u = s.regN i u := rfl
@[simp] theorem elapse_regB (i u : Nat) : (s.elapse dt).regB i u = s.regB i u := rfl
@[simp] theorem elapse_ctr (i u : Nat) : (s.elapse dt).ctr i u = s.ctr i u := rfl
@[simp] theorem elapse_isOn (n : Nat) : (s.elapse dt).isOn n = s.isOn n := rfl
@[simp] theorem elapse_clocked : (s.elapse dt).clocked = s.clocked := by
  have : (s.elapse dt).time.pllLocked = s.time.pllLocked := by
    unfold elapse timeAfter; dsimp only; repeat' split
    all_goals rfl
  unfold clocked; rw [this]; rfl
@[simp] theorem elapse_laneRuns (c : Nat) : (s.elapse dt).laneRuns c = s.laneRuns c := by simp [laneRuns]
@[simp] theorem elapse_txRuns (p : Nat) : (s.elapse dt).txRuns p = s.txRuns p := by simp [txRuns]
@[simp] theorem elapse_txSends (p : Nat) : (s.elapse dt).txSends p = s.txSends p := by simp [txSends]
@[simp] theorem elapse_dictRuns : (s.elapse dt).dictRuns = s.dictRuns := by simp [dictRuns]
@[simp] theorem elapse_hingeRuns : (s.elapse dt).hingeRuns = s.hingeRuns := by simp [hingeRuns]
@[simp] theorem elapse_streamRuns : (s.elapse dt).streamRuns = s.streamRuns := rfl
theorem elapse_ready (h : s.Ready) : (s.elapse dt).Ready := ⟨by simpa using h.1, h.2.1, h.2.2⟩
end

/-! ### What an output leaves -/

section
variable (o : Output)
@[simp] theorem emit_port (p : Nat) : (s.emit o).port p = s.port p := rfl
@[simp] theorem emit_clRx (c : Nat) : (s.emit o).clRx c = s.clRx c := rfl
@[simp] theorem emit_clTx (c : Nat) : (s.emit o).clTx c = s.clTx c := rfl
@[simp] theorem emit_portTxOf (p : Nat) : (s.emit o).portTxOf p = s.portTxOf p := rfl
@[simp] theorem emit_shut (p : Nat) : (s.emit o).shut p = s.shut p := rfl
@[simp] theorem emit_clp (c : Nat) : (s.emit o).clp c = s.clp c := rfl
@[simp] theorem emit_dom (n : Nat) : (s.emit o).dom n = s.dom n := rfl
@[simp] theorem emit_src (e : Nat) : (s.emit o).src e = s.src e := rfl
@[simp] theorem emit_tgt (t : Nat) : (s.emit o).tgt t = s.tgt t := rfl
@[simp] theorem emit_bandRing (t b : Nat) : (s.emit o).bandRing t b = s.bandRing t b := rfl
@[simp] theorem emit_slot (k : Nat) : (s.emit o).slot k = s.slot k := rfl
@[simp] theorem emit_ring (r : Nat) : (s.emit o).ring r = s.ring r := rfl
@[simp] theorem emit_quarter (q : Nat) : (s.emit o).quarter q = s.quarter q := rfl
@[simp] theorem emit_window (w : Nat) : (s.emit o).window w = s.window w := rfl
@[simp] theorem emit_reg (i u : Nat) : (s.emit o).reg i u = s.reg i u := rfl
@[simp] theorem emit_regN (i u : Nat) : (s.emit o).regN i u = s.regN i u := rfl
@[simp] theorem emit_regB (i u : Nat) : (s.emit o).regB i u = s.regB i u := rfl
@[simp] theorem emit_ctr (i u : Nat) : (s.emit o).ctr i u = s.ctr i u := rfl
@[simp] theorem emit_outs : (s.emit o).out = s.out ++ [o] := rfl
end

/-! ### Units that an event and a counter leave -/

theorem Beside.port {s s₀ : State} (h : s.Beside s₀) (p : Nat) : s.port p = s₀.port p := by rw [State.port, State.port, h.portRx]
theorem Beside.clRx {s s₀ : State} (h : s.Beside s₀) (p : Nat) : s.clRx p = s₀.clRx p := by rw [State.clRx, State.clRx, h.clusterRx]
theorem Beside.clTx {s s₀ : State} (h : s.Beside s₀) (p : Nat) : s.clTx p = s₀.clTx p := by rw [State.clTx, State.clTx, h.clusterTx]
theorem Beside.portTxOf {s s₀ : State} (h : s.Beside s₀) (p : Nat) : s.portTxOf p = s₀.portTxOf p := by
  rw [State.portTxOf, State.portTxOf, h.portTx]

theorem raise_out_beside (s : State) (e data : Nat) : (s.raise e data).Beside s := raise_beside (.refl s)

/-! ### Causes of a port -/

theorem rxCause_port (p bit : Nat) : (s.rxCause p bit).port p = { s.port p with cause := (s.port p).cause.setBit bit true } := by
  unfold rxCause
  dsimp only
  split
  · rw [(raise_out_beside _ _ _).port, port_setPort]
  · exact port_setPort ..

theorem txCause_portTx (p bit : Nat) :
    (s.txCause p bit).portTxOf p = { s.portTxOf p with cause := (s.portTxOf p).cause.setBit bit true } := by
  unfold txCause
  dsimp only
  split
  · rw [(raise_out_beside _ _ _).portTxOf, portTxOf_setPortTx]
  · exact portTxOf_setPortTx ..

theorem rxCause_laneLock (p bit : Nat) : (s.rxCause p bit).laneLock = s.laneLock := by
  unfold rxCause
  dsimp only
  split
  · rw [(raise_out_beside _ _ _).laneLock]; rfl
  · rfl

/-! ### The link (R131) -/

/-- What a change of LINK_STATE leaves of the port's receive side: the new state, and the cause the change has. -/
theorem setLink_port (p : Nat) (l : Link) (h : l ≠ (s.port p).link) :
    ((s.setLink p l).port p).link = l ∧ ((s.setLink p l).port p).st = (s.port p).st ∧
    (match l with
      | .up => ((s.setLink p l).port p).cause.bit 0 = true
      | .remoteFault => ((s.setLink p l).port p).cause.bit 3 = true
      | _ => (s.port p).link = .up ∨ (s.port p).link = .remoteFault → ((s.setLink p l).port p).cause.bit 1 = true) := by
  unfold setLink
  dsimp only
  rw [if_neg h]
  generalize hu : s.updPort p _ = u
  have up : u.port p = { s.port p with link := l, alignAt := if l = .aligning then s.runTime else (s.port p).alignAt, alignFailed := false } := by
    rw [← hu]; exact port_updPort ..
  generalize hw : (if (s.port p).link = Link.up then ((u.flushOnDown p).txLinkDown p).landFcLate p 0 else u).settleSignal p = w
  have wl : w.Linked u := by
    rw [← hw]; apply settleSignal_linked; split
    · exact landFcLate_linked (txLinkDown_linked (flushOnDown_linked (.refl u)))
    · exact .refl u
  obtain ⟨w1, w2, -⟩ := wl.port p
  rw [up] at w1 w2
  have fc : ∀ x : State, ((x.verifyStart p).fcStart p).Linked x := fun x => fcStart_linked (verifyStart_linked (.refl x))
  cases l
  · dsimp only
    split
    · simp [rxCause_port, w1, w2, bit_setBit_self]
    · rename_i hn; exact ⟨w1, w2, fun e => absurd e hn⟩
  · dsimp only
    split
    · simp [rxCause_port, w1, w2, bit_setBit_self]
    · rename_i hn; exact ⟨w1, w2, fun e => absurd e hn⟩
  · dsimp only
    obtain ⟨f1, f2, f3⟩ := (fc (w.rxCause p 0)).port p
    rw [f1, f2, f3]
    simp [rxCause_port, w1, w2, bit_setBit_self]
  · simp [rxCause_port, w1, w2, bit_setBit_self]

theorem setLink_link (p : Nat) (l : Link) : ((s.setLink p l).port p).link = l := by
  by_cases h : l = (s.port p).link
  · unfold setLink; simp [h]
  · exact (setLink_port s p l h).1

end State
end Sys2Proof.Machine
end

