-- ==== Sys2Proof/Laws/Rx.lean ====
section
/-!
SUPPORT. The receive path of a port with nothing configured beside the MAC.
-/
namespace Sys2Proof.Machine

/-! ### Classes of indexes -/

theorem classify_mac {p : Nat} (h : p < 1024) : classify (0x1000 + p) = some (.portMac p) := by
  unfold classify
  repeat rw [if_neg (by omega)]
  rw [if_pos (by omega)]; simp

theorem classify_gate {p : Nat} (h : p < 1024) : classify (0x1400 + p) = some (.portGate p) := by
  unfold classify
  repeat rw [if_neg (by omega)]
  rw [if_pos (by omega)]; simp

theorem classify_fc {p : Nat} (h : p < 1024) : classify (0x1C00 + p) = some (.portFc p) := by
  unfold classify
  repeat rw [if_neg (by omega)]
  rw [if_pos (by omega)]; simp

theorem classify_cluster {c k : Nat} (h : c < 16) (hk : k ≤ 9) : classify (clIdx c k) = some (.cluster c k) := by
  unfold classify clIdx
  repeat rw [if_neg (by omega)]
  rw [if_pos (by omega), if_pos (by omega)]
  congr 2 <;> omega

theorem classify_window {c t : Nat} (h : c < 16) (ht : t ≤ 0x0C) : classify (winIdx c t) = some (.window c t) := by
  unfold classify winIdx
  repeat rw [if_neg (by omega)]
  rw [if_pos (by omega), if_pos (by omega)]
  congr 2 <;> omega

theorem classify_bank {b : Nat} (h : b < 64) : classify (0x4000 + b) = some (.bank b) := by
  unfold classify
  repeat rw [if_neg (by omega)]
  rw [if_pos (by omega)]; simp

theorem classify_target_at {i : Nat} (h : 0x6000 ≤ i) (h' : i ≤ 0x6FFF) (ho : (i - 0x6000) % 128 = 0) :
    classify i = some (.target ((i - 0x6000) / 128)) := by
  unfold classify
  repeat rw [if_neg (by omega)]
  rw [if_pos ⟨h, h'⟩]
  simp only [ho, if_true]

theorem classify_band_at {i : Nat} (h : 0x6000 ≤ i) (h' : i ≤ 0x6FFF) {b : Nat} (hb : b < 8) (ho : (i - 0x6000) % 128 = 0x10 + b) :
    classify i = some (.band ((i - 0x6000) / 128) b) := by
  unfold classify
  repeat rw [if_neg (by omega)]
  rw [if_pos ⟨h, h'⟩]
  dsimp only
  rw [ho, if_neg (by omega), if_pos (by omega)]
  have : 0x10 + b - 0x10 = b := by omega
  rw [this]

theorem classify_target {t : Nat} (h : t < 32) : classify (0x6000 + 0x80 * t) = some (.target t) := by
  rw [classify_target_at (by omega) (by omega) (by omega)]
  congr 2; omega

theorem classify_band {t b : Nat} (h : t < 32) (hb : b < 8) : classify (State.bIdx t b) = some (.band t b) := by
  unfold State.bIdx
  rw [classify_band_at (b := b) (by omega) (by omega) hb (by omega)]
  congr 2; omega

theorem classify_ring {r : Nat} (h : r < 256) : classify (0x0800 + r) = some (.ring r) := by
  unfold classify
  repeat rw [if_neg (by omega)]
  rw [if_pos (by omega)]; simp

theorem classify_quarter {q : Nat} (h : q < 4) : classify (0x0900 + q) = some (.quarter q) := by
  unfold classify
  repeat rw [if_neg (by omega)]
  rw [if_pos (by omega)]; simp

theorem objInfo_of {idx sub : Nat} {ix : Ix} (h : classify idx = some ix) :
    objInfo idx sub = (objsOf ix).find? fun o => o.sub == sub := by
  simp only [objInfo, h]

theorem slotKey_keys (i u r : Nat) (hu : u < 256) (hr : r < 65536) :
    keyIdx (slotKey i u r) = i ∧ keySub (slotKey i u r) = u ∧ keyRow (slotKey i u r) = r := by
  unfold keyIdx keySub keyRow slotKey; omega

theorem slotKey_inj {i u r i' u' r' : Nat} (hu : u < 256) (hr : r < 65536) (hu' : u' < 256) (hr' : r' < 65536)
    (h : slotKey i u r = slotKey i' u' r') : i = i' ∧ u = u' ∧ r = r' := by
  unfold slotKey at h; omega

namespace State
variable (s : State)

/-! ### Counters -/

@[simp] theorem bumpRow_regs (i u r n : Nat) : (s.bumpRow i u r n).regs = s.regs := by unfold bumpRow; dsimp only; split <;> rfl
@[simp] theorem bumpPort_regs (p k n : Nat) : (s.bumpPort p k n).regs = s.regs := bumpRow_regs ..
@[simp] theorem bump_regs (i u n : Nat) : (s.bump i u n).regs = s.regs := bumpRow_regs ..
@[simp] theorem bumpRow_power (i u r n : Nat) : (s.bumpRow i u r n).power = s.power := by unfold bumpRow; dsimp only; split <;> rfl
@[simp] theorem bumpPort_power (p k n : Nat) : (s.bumpPort p k n).power = s.power := bumpRow_power ..
@[simp] theorem bump_power (i u n : Nat) : (s.bump i u n).power = s.power := bumpRow_power ..
@[simp] theorem bumpRow_clusterPower (i u r n : Nat) : (s.bumpRow i u r n).clusterPower = s.clusterPower := by unfold bumpRow; dsimp only; split <;> rfl
@[simp] theorem bumpPort_clusterPower (p k n : Nat) : (s.bumpPort p k n).clusterPower = s.clusterPower := bumpRow_clusterPower ..
@[simp] theorem bump_clusterPower (i u n : Nat) : (s.bump i u n).clusterPower = s.clusterPower := bumpRow_clusterPower ..
@[simp] theorem bumpRow_ev (i u r n : Nat) : (s.bumpRow i u r n).ev = s.ev := by unfold bumpRow; dsimp only; split <;> rfl
@[simp] theorem bumpPort_ev (p k n : Nat) : (s.bumpPort p k n).ev = s.ev := bumpRow_ev ..
@[simp] theorem bump_ev (i u n : Nat) : (s.bump i u n).ev = s.ev := bumpRow_ev ..
@[simp] theorem bumpRow_onceTick (i u r n : Nat) : (s.bumpRow i u r n).onceTick = s.onceTick := by unfold bumpRow; dsimp only; split <;> rfl
@[simp] theorem bumpPort_onceTick (p k n : Nat) : (s.bumpPort p k n).onceTick = s.onceTick := bumpRow_onceTick ..
@[simp] theorem bump_onceTick (i u n : Nat) : (s.bump i u n).onceTick = s.onceTick := bumpRow_onceTick ..
@[simp] theorem bumpPort_rows (p k n : Nat) : (s.bumpPort p k n).rows = s.rows := bumpRow_rows ..
@[simp] theorem bumpPort_time (p k n : Nat) : (s.bumpPort p k n).time = s.time := bumpRow_time ..
@[simp] theorem bumpPort_dict (p k n : Nat) : (s.bumpPort p k n).dict = s.dict := bumpRow_dict ..
@[simp] theorem bumpPort_portRx (p k n : Nat) : (s.bumpPort p k n).portRx = s.portRx := bumpRow_portRx ..
@[simp] theorem bumpPort_clusterRx (p k n : Nat) : (s.bumpPort p k n).clusterRx = s.clusterRx := bumpRow_clusterRx ..
@[simp] theorem bumpPort_clusterTx (p k n : Nat) : (s.bumpPort p k n).clusterTx = s.clusterTx := bumpRow_clusterTx ..
@[simp] theorem bumpPort_portTx (p k n : Nat) : (s.bumpPort p k n).portTx = s.portTx := bumpRow_portTx ..
@[simp] theorem bumpPort_twin (p k n : Nat) : (s.bumpPort p k n).twin = s.twin := bumpRow_twin ..
@[simp] theorem bumpPort_keys (p k n : Nat) : (s.bumpPort p k n).keys = s.keys := bumpRow_keys ..

theorem ctr_bumpRow (i u r n : Nat) : (s.bumpRow i u r n).ctr i u r = s.ctr i u r + BitVec.ofNat 48 n := by
  unfold bumpRow ctr
  dsimp only
  split <;> exact SMap.get_set_self ..

theorem ctr_bumpRow_ne (i u r n i' u' r' : Nat) (h : slotKey i' u' r' ≠ slotKey i u r) :
    (s.bumpRow i u r n).ctr i' u' r' = s.ctr i' u' r' := by
  unfold bumpRow ctr
  dsimp only
  split <;> exact SMap.get_set_ne _ h

theorem ctr_bumpPort (p k n : Nat) : (s.bumpPort p k n).ctr (0x1800 + p) k = s.ctr (0x1800 + p) k + BitVec.ofNat 48 n :=
  ctr_bumpRow ..
theorem ctr_bumpPort_ne (p k n k' : Nat) (h : k' ≠ k) : (s.bumpPort p k n).ctr (0x1800 + p) k' = s.ctr (0x1800 + p) k' :=
  ctr_bumpRow_ne _ _ _ _ _ _ _ _ (by unfold slotKey; omega)

/-! ### The stages before the switch core, with nothing configured -/

variable {s : State} {p : Nat} {bs : Bytes}

theorem rowsListed_nil (h : s.rows = []) (w u : Nat) : s.rowsListed w u = [] := by simp [rowsListed, h]

theorem since_now (s : State) : s.since s.runTime = 0 := by simp [since]

/-- A frame that starts now is ruled by the values in force. -/
theorem underStart_now (s : State) (p : Nat) (f : State → State) : s.underStart p 0 f = f s := by
  simp [underStart, changedSince]

theorem rowThen_now (s : State) (w u r : Nat) : s.rowThen w u r 0 = s.rowGet w u r := by
  unfold rowThen; rw [List.find?_eq_none.mpr (by simp)]

/-- What the receive MAC does with a good frame that starts now on a port with nothing configured: its sizes decide, and it goes on. -/
theorem rxMac_plain (h : s.RxPlain p) (g : s.GoodFrame p bs) (ex known : Bool) (st : Word) :
    s.rxMac p bs .whole ex known st s.runTime .hold {} = match s.sized p bs .whole known st s.runTime .hold {} with
      | (none, s) => s
      | (some f, t) => t.passOrWait s p ex f := by
  obtain ⟨-, -, -, -, hn, -, hg, ht, -, hm, -, hr⟩ := h
  have hk : s.knock p bs = s := by unfold knock; simp [rowsListed_nil hr]
  have hnight : s.rxNight p 0 = false := by simp [rxNight, hn]
  have hgrp : s.groupPasses p bs = true := by simp [groupPasses, hg]
  have htag : s.tagAct p bs = .pass := by
    unfold tagAct
    simp only [ht]
    have := g.1
    rw [if_neg (by omega)]
    split <;> rfl
  have hf : s.filterRx p bs = (false, s) := by simp [filterRx, hgrp, htag]
  have hc : s.changedSince p 0 = [] := by simp [changedSince]
  unfold rxMac
  simp only [since_now, hc, underStart_now, hk, ite_self, hnight, hf, if_true, Bool.false_eq_true, if_false]
  all_goals rfl

theorem regN_bumpPort (k n i u : Nat) : (s.bumpPort p k n).regN i u = s.regN i u := by
  simp [bumpPort, regN, reg]

theorem countOk_regN (i u : Nat) : (s.countOk p bs).regN i u = s.regN i u := by
  simp only [countOk, regN_bumpPort]

theorem rxStart_plain (h : s.RxPlain p) (bs : Bytes) :
    s.rxStart p 0xD5 bs .whole {} = s.rxMac p bs .whole true false (s.rxStamp p 0) s.runTime .hold {} := by
  obtain ⟨-, hl, hu, ho, -, hf, -, -, -, -, hw, -⟩ := h
  have ht : s.rxTakes p 0 = true := by simp [rxTakes, hl, hu, ho]
  have hfec : s.fecWords p {} = s := by simp [fecWords, hf]
  have hlate : s.landFcLate p 0 = s := by simp [landFcLate, hw]
  have hb : s.runTime - Word.ofNat 0 = s.runTime := by simp [Word.ofNat]
  unfold rxStart
  simp [ht, hlate, hfec, hb]

/-- A good MAC control frame: counted, acted on, consumed (R151). -/
theorem rx_control (h : s.RxPlain p) (g : s.GoodFrame p bs) (hc : beAt bs 12 2 = 0x8808) :
    s.rxStart p 0xD5 bs .whole {} = (s.countOk p bs).actControl p bs := by
  rw [rxStart_plain h, rxMac_plain h g]
  obtain ⟨g1, g2, g3⟩ := g
  have hlen : ¬ bs.length < 64 := by omega
  have hmax : ¬ s.regN (0x1000 + p) 7 < bs.length := by omega
  have h14 : 14 ≤ bs.length := by omega
  unfold sized
  simp [hc, h14, hlen, hmax, g3]

/-- A good data frame: counted and passed on (R134). -/
theorem rx_data (h : s.RxPlain p) (g : s.GoodFrame p bs) (hc : beAt bs 12 2 ≠ 0x8808) :
    s.rxStart p 0xD5 bs .whole {} = (s.countOk p bs).passOrWait s p true
      { bytes := bs, fin := .good, reason := 0, known := false, stamp := s.rxStamp p 0, begun := s.runTime, env := {}, stage := .hold } := by
  rw [rxStart_plain h, rxMac_plain h g]
  obtain ⟨g1, g2, g3⟩ := g
  have hlen : ¬ bs.length < 64 := by omega
  have hmax : ¬ s.regN (0x1000 + p) 7 < bs.length := by omega
  unfold sized
  simp [hc, hlen, hmax, g3]

/-! ### Small facts of the receive path -/

theorem elapse_rxPlain {s : State} {p} (dt) (h : s.RxPlain p) : (s.elapse dt).RxPlain p := by
  obtain ⟨a, b, c⟩ := h
  exact ⟨a, by simpa using b, c⟩

theorem beNat_two (a b : Byte) : beNat [a, b] = a.toNat * 256 + b.toNat := by simp [beNat]

theorem beNat_four (a b c d : Byte) : beNat [a, b, c, d] = beNat [a, b] * 65536 + beNat [c, d] := by
  simp [beNat]; omega

theorem slice_two (bs : Bytes) (o : Nat) (h : o + 2 ≤ bs.length) : ∃ a b, slice bs o 2 = [a, b] := by
  refine ⟨bs[o], bs[o+1], ?_⟩
  unfold slice
  rw [List.drop_eq_getElem_cons (by omega), List.drop_eq_getElem_cons (by omega)]
  rfl

theorem slice_four (bs : Bytes) (o : Nat) : slice bs o 4 = slice bs o 2 ++ slice bs (o + 2) 2 := by
  unfold slice
  rw [show (4 : Nat) = 2 + 2 from rfl, List.take_add, List.drop_drop]

theorem beAt_four (bs : Bytes) (v : Nat) (h : beAt bs 12 4 = 0x88080000 + v) (hv : v < 65536) (hl : 64 ≤ bs.length) :
    beAt bs 12 2 = 0x8808 ∧ beAt bs 14 2 = v := by
  unfold beAt at *
  rw [slice_four] at h
  obtain ⟨a, b, e⟩ := slice_two bs 12 (by omega)
  obtain ⟨c, d, e'⟩ := slice_two bs 14 (by omega)
  rw [e, e'] at h
  rw [e, e']
  rw [List.cons_append, List.cons_append, List.nil_append, beNat_four] at h
  rw [beNat_two, beNat_two] at *
  have := a.isLt; have := b.isLt; have := c.isLt; have := d.isLt
  omega

theorem countOk_eqs (s : State) (p bs) : (s.countOk p bs).clusterRx = s.clusterRx ∧ (s.countOk p bs).portRx = s.portRx ∧ (s.countOk p bs).time = s.time ∧ (s.countOk p bs).regs = s.regs := by
  simp [countOk]

theorem settlePort_clusterRx {s : State} (p) : (s.settlePort p).clusterRx = s.clusterRx := by
  have : ∀ (l : List Nat) (s : State) c x, (l.foldl (fun s n => s.settleClass c x n) s).clusterRx = s.clusterRx := by
    intro l
    induction l with
    | nil => intros; rfl
    | cons n t ih => 
      intro s c x
      rw [List.foldl_cons, ih]
      unfold settleClass
      dsimp only
      repeat' split
      all_goals rfl
  unfold settlePort
  exact this _ _ _ _

theorem smdSNum_smdS (n : Nat) (h : n < 4) : smdSNum (smdS n) = some n := by interval_cases n <;> decide

theorem smdCNum_smdC (n : Nat) (h : n < 4) : smdCNum (smdC n) = some n ∧ smdSNum (smdC n) = none := by interval_cases n <;> decide

theorem fcsOf_len (b : Bytes) : (fcsOf b).length = 4 := by simp [fcsOf, leBytes]

theorem mcrc_len (b : Bytes) : (mcrcOf b).length = 4 := by
  unfold mcrcOf xorBytes; simp [fcsOf_len]

theorem mcrc_ne (b : Bytes) : mcrcOf b ≠ fcsOf b := by
  intro h
  unfold mcrcOf at h
  have hl := fcsOf_len b
  match hf : fcsOf b, hl with
  | [a, b', c, d], _ =>
    rw [hf] at h
    simp [xorBytes] at h

theorem takeMcrc (data : Bytes) (t : Bytes) (ht : t.length = 4) : (data ++ t).take ((data ++ t).length - 4) = data ∧ (data ++ t).drop ((data ++ t).length - 4) = t := by
  simp [ht]

theorem dfltOf_slot (i u : Nat) (hu : u < 256) : dfltOf (slotKey i u 0) = match objInfo i u with | some o => Word.ofNat o.dflt | none => 0 := by
  obtain ⟨a, b, -⟩ := slotKey_keys i u 0 hu (by omega)
  unfold dfltOf
  rw [a, b]
  all_goals (cases objInfo i u <;> rfl)

theorem peepTap_nil {s : State} (t : TapIn) (h : s.rows = []) (ha : t.age = 0) (hp : t.port < 1024) : s.peepTap t = s := by
  have hw : ∀ k, s.peepW (t.port / 64) 2 k t.age = 0 := by
    intro k
    unfold peepW
    rw [ha, rowThen_now, rowGet, h, SMap.get_nil, dfltOf_slot _ _ (by omega), objInfo_of (classify_window (by omega) (by omega))]
    rfl
  have he : ∀ k, s.peepEligible (t.port / 64) k t = false := by
    intro k; unfold peepEligible; simp only [hw]; simp [Word.bit]
  unfold peepTap
  dsimp only
  generalize List.range 16 = l
  induction l with
  | nil => rfl
  | cons k l ih => rw [List.foldl_cons]; simp only [he]; simpa using ih

theorem calStage_nil {s : State} (c : Nat) (f : CalIn) (hc : c < 16) (h : s.rows = []) (ha : f.age = 0) (hr : f.rule = none) :
    s.calStage c f = (.pass [] false, s) := by
  have hw : ∀ k, s.ruleW c 2 k f.age = 0 := by
    intro k
    rw [ruleW, ha, rowThen_now, rowGet, h, SMap.get_nil, dfltOf_slot _ _ (by omega), objInfo_of (classify_window hc (by omega))]
    rfl
  have hm : ∀ k, s.ruleMatches c k f = some false := by
    intro k; unfold ruleMatches; simp [hw, Word.bit]
  have hs : s.selectRule c f = some none := by
    unfold selectRule
    rw [hr]
    simp only [Option.isSome_none, Bool.false_eq_true, if_false, hm]
    generalize List.foldr placeRising [] _ = l
    induction l with
    | nil => rfl
    | cons k l ih => simpa using ih
  unfold calStage
  rw [hs]

theorem secStageRx_off {s : State} (f : SecIn) (h : s.regB (0x1000 + f.port) 0x40 = false) :
    s.secStageRx f = (some { body := f.body, fin := f.fin, reason := f.reason, known := f.known }, s) := by
  unfold secStageRx; rw [if_neg (by simp [h])]

theorem doorFind_nil {s : State} (c mac vid : Nat) (kinds : List Nat) (h : (s.clRx c).door.rows = []) : s.doorFind c mac vid kinds = none := by
  unfold doorFind
  rw [List.findSome?_eq_none_iff]
  intro r _
  simp [doorEntry, doorRow, h]

theorem doorLookup_nil {s : State} (c mac vid : Nat) (kinds : List Nat) (h : (s.clRx c).door.rows = []) :
    s.doorLookup c mac vid kinds = (none, s) := by
  unfold doorLookup
  rw [doorFind_nil _ _ _ _ h]
  have : (s.doorWays c mac vid).filter (fun r => (s.doorRow c r).synd ≠ 0) = [] := by
    simp [doorRow, h]
  dsimp only
  rw [this]; rfl

theorem doorDest_nil {s : State} (p vid da : Nat) (o : DoorOut) (h : (s.clRx (p / 64)).door.rows = []) :
    s.doorDest p vid da o = (o, s) := by
  unfold doorDest
  simp [doorLookup_nil _ _ _ _ h]

theorem bytes_rejoin (bs : Bytes) (h : fcsGood bs = true) : bs.take (bs.length - 4) ++ fcsOf (bs.take (bs.length - 4)) = bs := by
  simp [fcsGood] at h
  rw [← h.2, List.take_append_drop]

end State
end Sys2Proof.Machine
end

