-- ==== Sys2Proof/Laws/Doorlist.lean ====
section
/-!
SUPPORT. The Doorlist's rows after a write, a removal and a sweeper pass, and the counters an event leaves.
-/
namespace Sys2Proof.Machine.State

theorem bumpPort_out (s : State) (p k n : Nat) : (s.bumpPort p k n).out = s.out := bumpRow_out ..

theorem requestOn_ctrs (s : State) (n : Nat) : (s.requestOn n).ctrs = s.ctrs := by
  unfold requestOn; dsimp only; repeat' split
  all_goals rfl
theorem foldl_ctrs {α : Type} (f : State → α → State) (h : ∀ s a, (f s a).ctrs = s.ctrs) (l : List α) (s : State) :
    (l.foldl f s).ctrs = s.ctrs := by
  induction l generalizing s with
  | nil => rfl
  | cons a t ih => simp only [List.foldl_cons]; rw [ih, h]
theorem wakeCluster_ctrs (s : State) (c : Nat) : (s.wakeCluster c).ctrs = s.ctrs := by
  unfold wakeCluster; dsimp only; split
  · simp only [requestOn_ctrs]; rfl
  · rfl
  · rfl
theorem wakeCommon_ctrs (s : State) : s.wakeCommon.ctrs = s.ctrs := by
  unfold wakeCommon
  rw [foldl_ctrs _ (fun s a => by split; exact requestOn_ctrs ..; rfl)]
  unfold endSleep; split
  · rfl
  · dsimp only; rw [foldl_ctrs _ (fun s a => requestOn_ctrs ..), requestOn_ctrs]

/-- An event counts only in its source and in the wakes of the Night Latch. -/
theorem raise_ctr (s : State) (e d i u r : Nat) (hu : u < 256) (hr : r < 65536) (h5 : u ≠ 5) (h13 : u ≠ 0x13) :
    (s.raise e d).ctr i u r = s.ctr i u r := by
  have bump_ne : ∀ (x : State) (j k : Nat), k < 256 → k ≠ u → (x.bump j k).ctr i u r = x.ctr i u r := fun x j k hk hne =>
    ctr_bumpRow_ne _ _ _ _ _ _ _ _ (by unfold slotKey; omega)
  have of : ∀ x y : State, x.ctrs = y.ctrs → x.ctr i u r = y.ctr i u r := fun x y h => by unfold ctr; rw [h]
  have hsrc : ∀ (x : State) (e d : Nat), (x.raiseSource e d).ctr i u r = x.ctr i u r := by
    intro x e d; unfold raiseSource; split
    · rfl
    · dsimp only; split <;> exact bump_ne x _ 5 (by omega) (by omega)
  have ite_ctr : ∀ (b : Bool) (X Y Z : State), X.ctr i u r = Z.ctr i u r → Y.ctr i u r = Z.ctr i u r →
      (if b then X else Y).ctr i u r = Z.ctr i u r := fun b X Y Z hx hy => by cases b <;> simpa
  have hfire : ∀ (x : State) (e d : Nat), (x.latchFire e d).1.ctr i u r = x.ctr i u r := by
    intro x e d
    have inner : ∀ (b : Bool) (l : List Nat) (y : State), y.ctrs = x.ctrs →
        (if b then (l.foldl (fun s c => s.wakeCluster c) y).wakeCommon else l.foldl (fun s c => s.wakeCluster c) y).ctr i u r = x.ctr i u r := by
      intro b l y hy
      apply of
      cases b
      · simp only [Bool.false_eq_true, if_false]; rw [foldl_ctrs _ (fun s a => wakeCluster_ctrs ..), hy]
      · simp only [if_true]; rw [wakeCommon_ctrs, foldl_ctrs _ (fun s a => wakeCluster_ctrs ..), hy]
    unfold latchFire
    refine ite_ctr _ _ _ _ ?_ (inner _ _ _ rfl)
    rw [bump_ne _ _ _ (by omega) (by omega)]
    exact inner _ _ _ rfl
  unfold raise; dsimp only
  split
  · split
    · rw [hsrc, hfire, hsrc, hfire]
    · exact (hsrc _ _ _).trans (hfire _ _ _)
  · rw [hsrc, hfire]

theorem raiseOnce_ctr (s : State) (e d i u r : Nat) (hu : u < 256) (hr : r < 65536) (h5 : u ≠ 5) (h13 : u ≠ 0x13) :
    (s.raiseOnce e d).ctr i u r = s.ctr i u r := by
  have hn : (s.noteEcc e).ctr i u r = s.ctr i u r := by unfold noteEcc; split <;> rfl
  unfold raiseOnce; dsimp only
  split
  · exact hn
  · rw [raise_ctr _ _ _ _ _ _ hu hr h5 h13]; exact hn

theorem updDoor_eq (s : State) (c : Nat) (f : DoorUnit → DoorUnit) : ((s.updDoor c f).clRx c).door = f (s.clRx c).door := by
  simp [updDoor]

theorem doorRow_set (s : State) (c r : Nat) (w : DoorRow) : (s.setDoorRow c r w).doorRow c r = w := by
  unfold doorRow setDoorRow; simp only [clRx_updClRx]; exact SMap.get_set_self ..

theorem doorRow_set_ne (s : State) (c : Nat) {r r' : Nat} (w : DoorRow) (h : r' ≠ r) :
    (s.setDoorRow c r w).doorRow c r' = s.doorRow c r' := by
  unfold doorRow setDoorRow; simp only [clRx_updClRx]; exact SMap.get_set_ne _ h

theorem occAlert_beside (s : State) (c old : Nat) : (s.occAlert c old).Beside s := by
  unfold occAlert; dsimp only; split
  · exact raise_out_beside ..
  · exact .refl s

theorem doorRow_doorWrite (s : State) (c r : Nat) (e : DoorEntry) : (s.doorWrite c r e).doorRow c r = { entry := some e } := by
  unfold doorWrite; dsimp only
  rw [doorRow, (occAlert_beside _ _ _).clRx]; exact doorRow_set ..

theorem learnq_doorWrite (s : State) (c r : Nat) (e : DoorEntry) : ((s.doorWrite c r e).clRx c).door.learnq = (s.clRx c).door.learnq := by
  unfold doorWrite; dsimp only
  rw [(occAlert_beside _ _ _).clRx]; simp [setDoorRow]

theorem raiseOnce_clRx (s : State) (e d c : Nat) : (s.raiseOnce e d).clRx c = s.clRx c := by
  have := (raiseOnce_alike (e := e) (data := d) (.refl s)).clusterRx
  rw [clRx, clRx, this]

theorem parityErr_rows (s : State) (c r : Nat) : ((s.parityErr c r).clRx c).door.rows = (s.clRx c).door.rows := by
  unfold parityErr; dsimp only
  rw [raiseOnce_clRx]
  have : ∀ x : State, ∀ i u, (x.bump i u).clRx c = x.clRx c := fun x i u => (bump_beside (.refl x)).clRx c
  rw [this, updDoor_eq]; split <;> rfl

theorem doorRow_doorClear (s : State) (c r : Nat) : (s.doorClear c r).doorRow c r = { s.doorRow c r with entry := none, synd := 0 } := doorRow_set ..
theorem doorRow_doorClear_ne (s : State) (c : Nat) {r r' : Nat} (h : r' ≠ r) : (s.doorClear c r).doorRow c r' = s.doorRow c r' :=
  doorRow_set_ne _ _ _ h

/-- A removal leaves exactly the entries that do not match. -/
theorem doorRow_clears (c : Nat) (l : List Nat) (s : State) (r : Nat) :
    (r ∈ l → ((l.foldl (fun s r => s.doorClear c r) s).doorRow c r).entry = none) ∧
    (r ∉ l → (l.foldl (fun s r => s.doorClear c r) s).doorRow c r = s.doorRow c r) := by
  induction l generalizing s with
  | nil => simp
  | cons a t ih =>
    simp only [List.foldl_cons, List.mem_cons]
    obtain ⟨i1, i2⟩ := ih (s.doorClear c a)
    refine ⟨fun h => ?_, fun h => ?_⟩
    · by_cases ht : r ∈ t
      · exact i1 ht
      · rcases h with rfl | h
        · rw [i2 ht, doorRow_doorClear]
        · exact absurd h ht
    · rw [i2 (fun x => h (.inr x)), doorRow_doorClear_ne _ _ (fun e => h (.inl e))]

theorem get_mem {α : Type} {d : α} {m : SMap α} {k : Nat} (h : SMap.get d m k ≠ d) : (k, SMap.get d m k) ∈ m := by
  induction m with
  | nil => simp [SMap.get] at h
  | cons a t ih =>
    obtain ⟨j, w⟩ := a
    simp only [SMap.get] at h ⊢
    split
    · subst_vars; simp
    · rename_i hn; rw [if_neg hn] at h; exact List.mem_cons_of_mem _ (ih h)

theorem clears_entry {c : Nat} {L : List Nat} {s : State} {r : Nat} {e : DoorEntry}
    (h : ((L.foldl (fun s r => s.doorClear c r) s).doorRow c r).entry = some e) : r ∉ L ∧ (s.doorRow c r).entry = some e := by
  obtain ⟨h1, h2⟩ := doorRow_clears c L s r
  by_cases hm : r ∈ L
  · rw [h1 hm] at h; simp at h
  · rw [h2 hm] at h; exact ⟨hm, h⟩

theorem doorRemove_entry (s : State) (c : Nat) (hit : DoorEntry → Bool) (r : Nat) (e : DoorEntry)
    (h : ((s.doorRemove c hit).doorRow c r).entry = some e) : (s.doorRow c r).entry = some e ∧ hit e = false := by
  unfold doorRemove at h
  obtain ⟨hm, h⟩ := clears_entry h
  refine ⟨h, ?_⟩
  by_contra hh
  have : (r, s.doorRow c r) ∈ (s.clRx c).door.rows := get_mem (d := ({} : DoorRow)) (by
    intro he; rw [doorRow, he] at h; simp at h)
  refine hm (List.mem_map.mpr ⟨_, List.mem_filter.mpr ⟨this, ?_⟩, rfl⟩)
  simp only [h]; simpa using hh

theorem doorRow_updDoor (s : State) (c r : Nat) (f : DoorUnit → DoorUnit) (h : ∀ d, (f d).rows = d.rows) :
    (s.updDoor c f).doorRow c r = s.doorRow c r := by
  unfold doorRow; rw [updDoor_eq, h]

theorem sweepRow_ne (s : State) (c : Nat) {r r' : Nat} (h : r' ≠ r) : (s.sweepRow c r).doorRow c r' = s.doorRow c r' := by
  have hb : ∀ x : State, ∀ i u, (x.bump i u).clRx c = x.clRx c := fun x i u => (bump_beside (.refl x)).clRx c
  unfold sweepRow; dsimp only
  repeat' split
  · rw [doorRow_set_ne _ _ _ h, doorRow, parityErr_rows]; rfl
  · rfl
  · rfl
  · exact doorRow_set_ne _ _ _ h
  · exact doorRow_set_ne _ _ _ h
  · rw [doorRow, hb]; exact doorRow_doorClear_ne _ _ h

theorem sweepRow_self (s : State) (c r : Nat) (e : DoorEntry) (h : s.doorEntry c r = some e) :
    (s.sweepRow c r).doorEntry c r = if e.kind ≠ 0 then some e
          else if e.hit then some { e with hit := false, stale := false }
          else if e.stale then none else some { e with stale := true } := by
  have hb : ∀ x : State, ∀ i u, (x.bump i u).clRx c = x.clRx c := fun x i u => (bump_beside (.refl x)).clRx c
  have hs : (s.doorRow c r).synd = 0 ∧ (s.doorRow c r).entry = some e := by
    unfold doorEntry at h; dsimp only at h; split at h
    · exact ⟨‹_›, h⟩
    · simp at h
  unfold sweepRow
  simp only [hs.1, hs.2, ne_eq, not_true, if_false]
  by_cases hk : e.kind = 0
  · simp only [hk, not_true, if_false]
    by_cases hh : e.hit = true
    · simp only [hh, if_true]; simp [doorEntry, doorRow_set]
    · simp only [hh]
      by_cases hst : e.stale = true
      · simp only [hst]
        rw [doorEntry, doorRow]; simp only [Bool.not_true]
        have : ∀ x : State, SMap.get ({} : DoorRow) (((x.bump (clIdx c 3) 7).clRx c).door.rows) r = x.doorRow c r := fun x => by rw [hb]; rfl
        simp [this, doorRow_doorClear]
      · simp [hst, doorEntry, doorRow_set]
  · simp [hk, h]

theorem sweep_all (c : Nat) (l : List Nat) (hn : l.Nodup) (s : State) (r : Nat) :
    (r ∉ l → (l.foldl (fun s r => s.sweepRow c r) s).doorRow c r = s.doorRow c r) ∧
    (r ∈ l → (l.foldl (fun s r => s.sweepRow c r) s).doorRow c r = (s.sweepRow c r).doorRow c r ∨
       ∃ u : State, u.doorRow c r = s.doorRow c r ∧ (l.foldl (fun s r => s.sweepRow c r) s).doorRow c r = (u.sweepRow c r).doorRow c r) := by
  induction l generalizing s with
  | nil => simp
  | cons a t ih =>
    simp only [List.foldl_cons, List.mem_cons]
    have hn' := List.nodup_cons.mp hn
    obtain ⟨i1, i2⟩ := ih hn'.2 (s.sweepRow c a)
    refine ⟨fun h => ?_, fun h => ?_⟩
    · rw [i1 (fun x => h (.inr x)), sweepRow_ne _ _ (fun e => h (.inl e))]
    · by_cases hra : r = a
      · subst hra; left; rw [i1 hn'.1]
      · have hm : r ∈ t := by rcases h with h | h; exact absurd h hra; exact h
        right
        rcases i2 hm with h' | ⟨u, hu, h'⟩
        · exact ⟨_, sweepRow_ne _ _ hra, h'⟩
        · exact ⟨u, by rw [hu, sweepRow_ne _ _ hra], h'⟩

theorem sweepRow_nextPass (s : State) (c r : Nat) : ((s.sweepRow c r).clRx c).door.nextPass = (s.clRx c).door.nextPass := by
  have hb : ∀ x : State, ∀ i u, (x.bump i u).clRx c = x.clRx c := fun x i u => (bump_beside (.refl x)).clRx c
  unfold sweepRow; dsimp only
  have hp : ((s.parityErr c r).clRx c).door.nextPass = (s.clRx c).door.nextPass := by
    unfold parityErr; dsimp only
    rw [raiseOnce_clRx, hb, updDoor_eq]; split <;> rfl
  repeat' split
  · simp only [setDoorRow, clRx_updClRx]; exact hp
  · rfl
  · rfl
  · simp [setDoorRow]
  · simp [setDoorRow]
  · rw [hb]; simp [doorClear, setDoorRow]

theorem nodup_keys {α : Type} {m : SMap α} (h : SMap.rising m = true) : (m.map (·.1)).Nodup := by
  induction m with
  | nil => simp
  | cons a t ih =>
    rw [SMap.rising_cons] at h
    simp only [List.map_cons, List.nodup_cons, List.mem_map, not_exists, not_and]
    exact ⟨fun x hx e => by have := h.1 x hx; omega, ih h.2⟩
theorem sweeps_nextPass (c : Nat) (l : List Nat) (s : State) :
    ((l.foldl (fun s r => s.sweepRow c r) s).clRx c).door.nextPass = (s.clRx c).door.nextPass := by
  induction l generalizing s with
  | nil => rfl
  | cons a t ih => simp only [List.foldl_cons]; rw [ih, sweepRow_nextPass]

theorem sweeps_entry (c : Nat) (s : State) (h : SMap.rising (s.clRx c).door.rows = true) (r : Nat) (e : DoorEntry)
    (he : s.doorEntry c r = some e) :
    (((s.clRx c).door.rows.map (·.1)).foldl (fun s r => s.sweepRow c r) s).doorEntry c r = if e.kind ≠ 0 then some e
          else if e.hit then some { e with hit := false, stale := false }
          else if e.stale then none else some { e with stale := true } := by
  have hm : r ∈ (s.clRx c).door.rows.map (·.1) := by
    have : (r, s.doorRow c r) ∈ (s.clRx c).door.rows := get_mem (d := ({} : DoorRow)) (by
      intro hx; rw [doorEntry, doorRow, hx] at he; simp at he)
    exact List.mem_map.mpr ⟨_, this, rfl⟩
  have ent : ∀ u v : State, u.doorRow c r = v.doorRow c r → u.doorEntry c r = v.doorEntry c r := fun u v x => by
    unfold doorEntry; rw [x]
  rcases (sweep_all c _ (nodup_keys h) s r).2 hm with h' | ⟨u, hu, h'⟩
  · rw [ent _ _ h', sweepRow_self _ _ _ _ he]
  · rw [ent _ _ h', sweepRow_self _ _ _ e (by rw [ent _ _ hu, he])]

end Sys2Proof.Machine.State
end

