-- ==== Sys2Proof/Laws/Kept.lean ====
section
/-!
SUPPORT. What every operation of the machine keeps: the canonical form of the stores, the queue of waiting commands, and every part of
the state that the operation does not reach.
-/
set_option linter.unusedTactic false
set_option linter.unreachableTactic false
set_option linter.unusedVariables false
set_option linter.tactic.unusedName false
namespace Sys2Proof.Machine

/-- The parts of the state that are to stay as they are: each with the value it is to keep, or `none` where it may change. -/
structure Marks where
  mem : Option (SMap Byte)
  rows : Option (SMap Word)
  past : Option (List Past)
  dict : Option (DictUnit)
  keys : Option (KeyUnit)
  masks : Option (MaskUnit)
  laneLock : Option (SMap Bool)
  portRx : Option (SMap PortRx)
  clusterRx : Option (SMap ClusterRx)
  clusterTx : Option (SMap ClusterTx)
  portTx : Option (SMap PortTx)
  shutters : Option (SMap Shutter)
  rings : Option (SMap Ring)
  quarters : Option (SMap Quarter)
  twin : Option (TwinUnit)
  time : Option (TimeUnit)
  objs : Option State

/-- A marked part has the value it is to keep. -/
def Marks.At {α : Type} (m : Option α) (x : α) : Prop := ∀ y, m = some y → x = y

theorem Marks.At.none {α : Type} {m : Option α} {x : α} (h : m = none) : Marks.At m x := fun y e => by
  rw [h] at e
  exact absurd e.symm (Option.some_ne_none y)

theorem Marks.At.eq {α : Type} {x y : α} (h : Marks.At (some x) y) : y = x := h x rfl

/-- The stores are canonical, the waiting commands are `q`, and every marked part has its value. -/
structure State.Kept (m : Marks) (q : List Instr) (s : State) : Prop where
  canonMem : SMap.Canon (fun _ => 0) s.mem
  canonRegs : SMap.Canon dfltOf s.regs
  canonRows : SMap.rising s.rows = true
  canonCtrs : SMap.Canon (fun _ => 0) s.ctrs
  queue : s.pending = q
  past : Marks.At m.past s.past
  masks : Marks.At m.masks s.masks
  mem : Marks.At m.mem s.mem
  rows : Marks.At m.rows s.rows
  dict : Marks.At m.dict s.dict
  keys : Marks.At m.keys s.keys
  laneLock : Marks.At m.laneLock s.laneLock
  portRx : Marks.At m.portRx s.portRx
  clusterRx : Marks.At m.clusterRx s.clusterRx
  clusterTx : Marks.At m.clusterTx s.clusterTx
  portTx : Marks.At m.portTx s.portTx
  shutters : Marks.At m.shutters s.shutters
  rings : Marks.At m.rings s.rings
  quarters : Marks.At m.quarters s.quarters
  twin : Marks.At m.twin s.twin
  time : Marks.At m.time s.time.settings
  objs : ∀ t, m.objs = some t → s.SameObjs t

/-- The state of an outcome, where there is one. -/
def ResKept (m : Marks) (q : List Instr) : Res → Prop
  | .next s => s.Kept m q
  | _ => True

/-- The state a search may answer and the one it leaves. -/
def PairKept (m : Marks) (q : List Instr) (x : Option State × State) : Prop := x.2.Kept m q ∧ ∀ t, x.1 = some t → t.Kept m q

/-- The same with a slot. -/
def SlotKept (m : Marks) (q : List Instr) (x : Option (Nat × State) × State) : Prop := x.2.Kept m q ∧ ∀ t, x.1 = some t → t.2.Kept m q

/-- A state that may be answered. -/
def OptKept (m : Marks) (q : List Instr) (x : Option State) : Prop := ∀ t, x = some t → t.Kept m q

theorem State.canonical_iff (s : State) : s.Canonical ↔
    SMap.Canon (fun _ => 0) s.mem ∧ SMap.Canon dfltOf s.regs ∧ SMap.rising s.rows = true ∧ SMap.Canon (fun _ => 0) s.ctrs := by
  simp [Canonical, memWf, regWf, rowWf, ctrWf, SMap.wf, SMap.Canon]

/-- Every part marked with its value in a state. -/
def State.marks (s : State) : Marks :=
  { mem := some s.mem, rows := some s.rows, past := some s.past, dict := some s.dict, keys := some s.keys, masks := some s.masks, laneLock := some s.laneLock, portRx := some s.portRx, clusterRx := some s.clusterRx, clusterTx := some s.clusterTx, portTx := some s.portTx, shutters := some s.shutters, rings := some s.rings, quarters := some s.quarters, twin := some s.twin, time := some s.time.settings, objs := some s }

/-- No part marked. -/
def Marks.free : Marks := { mem := none, rows := none, past := none, dict := none, keys := none, masks := none, laneLock := none, portRx := none, clusterRx := none, clusterTx := none, portTx := none, shutters := none, rings := none, quarters := none, twin := none, time := none, objs := none }

theorem State.canonical_marked {s : State} (h : s.Canonical) : s.Kept s.marks s.pending :=
  let c := (State.canonical_iff s).1 h
  ⟨c.1, c.2.1, c.2.2.1, c.2.2.2, rfl, fun _ e => Option.some.inj e, fun _ e => Option.some.inj e, fun _ e => Option.some.inj e, fun _ e => Option.some.inj e, fun _ e => Option.some.inj e, fun _ e => Option.some.inj e, fun _ e => Option.some.inj e, fun _ e => Option.some.inj e, fun _ e => Option.some.inj e, fun _ e => Option.some.inj e, fun _ e => Option.some.inj e, fun _ e => Option.some.inj e, fun _ e => Option.some.inj e, fun _ e => Option.some.inj e, fun _ e => Option.some.inj e, fun _ e => Option.some.inj e, fun t e i u _ => by cases Option.some.inj e; rfl⟩

section
variable {m : Marks} {q : List Instr}

theorem State.Kept.canonical {s : State} (h : s.Kept m q) : s.Canonical :=
  (State.canonical_iff s).2 ⟨h.canonMem, h.canonRegs, h.canonRows, h.canonCtrs⟩

/-- A state kept, to be used under its own name. -/
theorem State.Kept.cut {s : State} {p : Prop} (h : s.Kept m q) (k : s.Kept m q → p) : p := k h

theorem kept_mk {s : State} (h : s.Kept m q) {out free onceTick power clusterPower ev cu} :
    State.Kept m q (State.mk s.pending out free s.regs s.rows s.past s.ctrs onceTick power clusterPower s.time ev cu s.dict s.keys s.masks s.laneLock s.portRx s.clusterRx s.clusterTx s.portTx s.shutters s.rings s.quarters s.twin s.mem) :=
  ⟨h.canonMem, h.canonRegs, h.canonRows, h.canonCtrs, h.queue, h.past, h.masks, h.mem, h.rows, h.dict, h.keys, h.laneLock, h.portRx, h.clusterRx, h.clusterTx, h.portTx, h.shutters, h.rings, h.quarters, h.twin, h.time, h.objs⟩

theorem kept_dict {s : State} (h : s.Kept m q) (t : m.dict = none := by assumption) {out free onceTick power clusterPower ev cu dict} :
    State.Kept m q (State.mk s.pending out free s.regs s.rows s.past s.ctrs onceTick power clusterPower s.time ev cu dict s.keys s.masks s.laneLock s.portRx s.clusterRx s.clusterTx s.portTx s.shutters s.rings s.quarters s.twin s.mem) :=
  ⟨h.canonMem, h.canonRegs, h.canonRows, h.canonCtrs, h.queue, h.past, h.masks, h.mem, h.rows, .none t, h.keys, h.laneLock, h.portRx, h.clusterRx, h.clusterTx, h.portTx, h.shutters, h.rings, h.quarters, h.twin, h.time, h.objs⟩

theorem kept_keys {s : State} (h : s.Kept m q) (t : m.keys = none := by assumption) {out free onceTick power clusterPower ev cu keys} :
    State.Kept m q (State.mk s.pending out free s.regs s.rows s.past s.ctrs onceTick power clusterPower s.time ev cu s.dict keys s.masks s.laneLock s.portRx s.clusterRx s.clusterTx s.portTx s.shutters s.rings s.quarters s.twin s.mem) :=
  ⟨h.canonMem, h.canonRegs, h.canonRows, h.canonCtrs, h.queue, h.past, h.masks, h.mem, h.rows, h.dict, .none t, h.laneLock, h.portRx, h.clusterRx, h.clusterTx, h.portTx, h.shutters, h.rings, h.quarters, h.twin, h.time, h.objs⟩

theorem kept_past {s : State} (h : s.Kept m q) (t : m.past = none := by assumption) {out free onceTick power clusterPower ev cu past} :
    State.Kept m q (State.mk s.pending out free s.regs s.rows past s.ctrs onceTick power clusterPower s.time ev cu s.dict s.keys s.masks s.laneLock s.portRx s.clusterRx s.clusterTx s.portTx s.shutters s.rings s.quarters s.twin s.mem) :=
  ⟨h.canonMem, h.canonRegs, h.canonRows, h.canonCtrs, h.queue, .none t, h.masks, h.mem, h.rows, h.dict, h.keys, h.laneLock, h.portRx, h.clusterRx, h.clusterTx, h.portTx, h.shutters, h.rings, h.quarters, h.twin, h.time, h.objs⟩

theorem kept_masks {s : State} (h : s.Kept m q) (t : m.masks = none := by assumption) {out free onceTick power clusterPower ev cu masks} :
    State.Kept m q (State.mk s.pending out free s.regs s.rows s.past s.ctrs onceTick power clusterPower s.time ev cu s.dict s.keys masks s.laneLock s.portRx s.clusterRx s.clusterTx s.portTx s.shutters s.rings s.quarters s.twin s.mem) :=
  ⟨h.canonMem, h.canonRegs, h.canonRows, h.canonCtrs, h.queue, h.past, .none t, h.mem, h.rows, h.dict, h.keys, h.laneLock, h.portRx, h.clusterRx, h.clusterTx, h.portTx, h.shutters, h.rings, h.quarters, h.twin, h.time, h.objs⟩

theorem kept_laneLock {s : State} (h : s.Kept m q) (t : m.laneLock = none := by assumption) {out free onceTick power clusterPower ev cu laneLock} :
    State.Kept m q (State.mk s.pending out free s.regs s.rows s.past s.ctrs onceTick power clusterPower s.time ev cu s.dict s.keys s.masks laneLock s.portRx s.clusterRx s.clusterTx s.portTx s.shutters s.rings s.quarters s.twin s.mem) :=
  ⟨h.canonMem, h.canonRegs, h.canonRows, h.canonCtrs, h.queue, h.past, h.masks, h.mem, h.rows, h.dict, h.keys, .none t, h.portRx, h.clusterRx, h.clusterTx, h.portTx, h.shutters, h.rings, h.quarters, h.twin, h.time, h.objs⟩

theorem kept_portRx {s : State} (h : s.Kept m q) (t : m.portRx = none := by assumption) {out free onceTick power clusterPower ev cu portRx} :
    State.Kept m q (State.mk s.pending out free s.regs s.rows s.past s.ctrs onceTick power clusterPower s.time ev cu s.dict s.keys s.masks s.laneLock portRx s.clusterRx s.clusterTx s.portTx s.shutters s.rings s.quarters s.twin s.mem) :=
  ⟨h.canonMem, h.canonRegs, h.canonRows, h.canonCtrs, h.queue, h.past, h.masks, h.mem, h.rows, h.dict, h.keys, h.laneLock, .none t, h.clusterRx, h.clusterTx, h.portTx, h.shutters, h.rings, h.quarters, h.twin, h.time, h.objs⟩

theorem kept_clusterRx {s : State} (h : s.Kept m q) (t : m.clusterRx = none := by assumption) {out free onceTick power clusterPower ev cu clusterRx} :
    State.Kept m q (State.mk s.pending out free s.regs s.rows s.past s.ctrs onceTick power clusterPower s.time ev cu s.dict s.keys s.masks s.laneLock s.portRx clusterRx s.clusterTx s.portTx s.shutters s.rings s.quarters s.twin s.mem) :=
  ⟨h.canonMem, h.canonRegs, h.canonRows, h.canonCtrs, h.queue, h.past, h.masks, h.mem, h.rows, h.dict, h.keys, h.laneLock, h.portRx, .none t, h.clusterTx, h.portTx, h.shutters, h.rings, h.quarters, h.twin, h.time, h.objs⟩

theorem kept_clusterTx {s : State} (h : s.Kept m q) (t : m.clusterTx = none := by assumption) {out free onceTick power clusterPower ev cu clusterTx} :
    State.Kept m q (State.mk s.pending out free s.regs s.rows s.past s.ctrs onceTick power clusterPower s.time ev cu s.dict s.keys s.masks s.laneLock s.portRx s.clusterRx clusterTx s.portTx s.shutters s.rings s.quarters s.twin s.mem) :=
  ⟨h.canonMem, h.canonRegs, h.canonRows, h.canonCtrs, h.queue, h.past, h.masks, h.mem, h.rows, h.dict, h.keys, h.laneLock, h.portRx, h.clusterRx, .none t, h.portTx, h.shutters, h.rings, h.quarters, h.twin, h.time, h.objs⟩

theorem kept_portTx {s : State} (h : s.Kept m q) (t : m.portTx = none := by assumption) {out free onceTick power clusterPower ev cu portTx} :
    State.Kept m q (State.mk s.pending out free s.regs s.rows s.past s.ctrs onceTick power clusterPower s.time ev cu s.dict s.keys s.masks s.laneLock s.portRx s.clusterRx s.clusterTx portTx s.shutters s.rings s.quarters s.twin s.mem) :=
  ⟨h.canonMem, h.canonRegs, h.canonRows, h.canonCtrs, h.queue, h.past, h.masks, h.mem, h.rows, h.dict, h.keys, h.laneLock, h.portRx, h.clusterRx, h.clusterTx, .none t, h.shutters, h.rings, h.quarters, h.twin, h.time, h.objs⟩

theorem kept_shutters {s : State} (h : s.Kept m q) (t : m.shutters = none := by assumption) {out free onceTick power clusterPower ev cu shutters} :
    State.Kept m q (State.mk s.pending out free s.regs s.rows s.past s.ctrs onceTick power clusterPower s.time ev cu s.dict s.keys s.masks s.laneLock s.portRx s.clusterRx s.clusterTx s.portTx shutters s.rings s.quarters s.twin s.mem) :=
  ⟨h.canonMem, h.canonRegs, h.canonRows, h.canonCtrs, h.queue, h.past, h.masks, h.mem, h.rows, h.dict, h.keys, h.laneLock, h.portRx, h.clusterRx, h.clusterTx, h.portTx, .none t, h.rings, h.quarters, h.twin, h.time, h.objs⟩

theorem kept_rings {s : State} (h : s.Kept m q) (t : m.rings = none := by assumption) {out free onceTick power clusterPower ev cu rings} :
    State.Kept m q (State.mk s.pending out free s.regs s.rows s.past s.ctrs onceTick power clusterPower s.time ev cu s.dict s.keys s.masks s.laneLock s.portRx s.clusterRx s.clusterTx s.portTx s.shutters rings s.quarters s.twin s.mem) :=
  ⟨h.canonMem, h.canonRegs, h.canonRows, h.canonCtrs, h.queue, h.past, h.masks, h.mem, h.rows, h.dict, h.keys, h.laneLock, h.portRx, h.clusterRx, h.clusterTx, h.portTx, h.shutters, .none t, h.quarters, h.twin, h.time, h.objs⟩

theorem kept_quarters {s : State} (h : s.Kept m q) (t : m.quarters = none := by assumption) {out free onceTick power clusterPower ev cu quarters} :
    State.Kept m q (State.mk s.pending out free s.regs s.rows s.past s.ctrs onceTick power clusterPower s.time ev cu s.dict s.keys s.masks s.laneLock s.portRx s.clusterRx s.clusterTx s.portTx s.shutters s.rings quarters s.twin s.mem) :=
  ⟨h.canonMem, h.canonRegs, h.canonRows, h.canonCtrs, h.queue, h.past, h.masks, h.mem, h.rows, h.dict, h.keys, h.laneLock, h.portRx, h.clusterRx, h.clusterTx, h.portTx, h.shutters, h.rings, .none t, h.twin, h.time, h.objs⟩

theorem kept_twin {s : State} (h : s.Kept m q) (t : m.twin = none := by assumption) {out free onceTick power clusterPower ev cu twin} :
    State.Kept m q (State.mk s.pending out free s.regs s.rows s.past s.ctrs onceTick power clusterPower s.time ev cu s.dict s.keys s.masks s.laneLock s.portRx s.clusterRx s.clusterTx s.portTx s.shutters s.rings s.quarters twin s.mem) :=
  ⟨h.canonMem, h.canonRegs, h.canonRows, h.canonCtrs, h.queue, h.past, h.masks, h.mem, h.rows, h.dict, h.keys, h.laneLock, h.portRx, h.clusterRx, h.clusterTx, h.portTx, h.shutters, h.rings, h.quarters, .none t, h.time, h.objs⟩

theorem kept_time {s : State} (h : s.Kept m q) (t : m.time = none := by assumption) {out free onceTick power clusterPower time ev cu} :
    State.Kept m q (State.mk s.pending out free s.regs s.rows s.past s.ctrs onceTick power clusterPower time ev cu s.dict s.keys s.masks s.laneLock s.portRx s.clusterRx s.clusterTx s.portTx s.shutters s.rings s.quarters s.twin s.mem) :=
  ⟨h.canonMem, h.canonRegs, h.canonRows, h.canonCtrs, h.queue, h.past, h.masks, h.mem, h.rows, h.dict, h.keys, h.laneLock, h.portRx, h.clusterRx, h.clusterTx, h.portTx, h.shutters, h.rings, h.quarters, h.twin, .none t, h.objs⟩

theorem kept_setCtr {s : State} (h : s.Kept m q) {k v out free onceTick power clusterPower ev cu} :
    State.Kept m q (State.mk s.pending out free s.regs s.rows s.past (SMap.set 0 s.ctrs k v) onceTick power clusterPower s.time ev cu s.dict s.keys s.masks s.laneLock s.portRx s.clusterRx s.clusterTx s.portTx s.shutters s.rings s.quarters s.twin s.mem) :=
  ⟨h.canonMem, h.canonRegs, h.canonRows, SMap.canon_set _ h.canonCtrs rfl, h.queue, h.past, h.masks, h.mem, h.rows, h.dict, h.keys, h.laneLock, h.portRx, h.clusterRx, h.clusterTx, h.portTx, h.shutters, h.rings, h.quarters, h.twin, h.time, h.objs⟩

theorem kept_eraseRegs {s : State} (h : s.Kept m q) (t : m.objs = none := by assumption) {f : Nat → Bool} {out free onceTick power clusterPower ev cu} :
    State.Kept m q (State.mk s.pending out free (SMap.eraseWhere f s.regs) s.rows s.past s.ctrs onceTick power clusterPower s.time ev cu s.dict s.keys s.masks s.laneLock s.portRx s.clusterRx s.clusterTx s.portTx s.shutters s.rings s.quarters s.twin s.mem) :=
  ⟨h.canonMem, SMap.canon_eraseWhere _ h.canonRegs, h.canonRows, h.canonCtrs, h.queue, h.past, h.masks, h.mem, h.rows, h.dict, h.keys, h.laneLock, h.portRx, h.clusterRx, h.clusterTx, h.portTx, h.shutters, h.rings, h.quarters, h.twin, h.time, fun y e => absurd (t.symm.trans e).symm (Option.some_ne_none y)⟩

theorem kept_eraseRings {s : State} (h : s.Kept m q) (t : m.objs = none := by assumption) (t' : m.rings = none := by assumption) {f : Nat → Bool} {out free onceTick power clusterPower ev cu rings} :
    State.Kept m q (State.mk s.pending out free (SMap.eraseWhere f s.regs) s.rows s.past s.ctrs onceTick power clusterPower s.time ev cu s.dict s.keys s.masks s.laneLock s.portRx s.clusterRx s.clusterTx s.portTx s.shutters rings s.quarters s.twin s.mem) :=
  ⟨h.canonMem, SMap.canon_eraseWhere _ h.canonRegs, h.canonRows, h.canonCtrs, h.queue, h.past, h.masks, h.mem, h.rows, h.dict, h.keys, h.laneLock, h.portRx, h.clusterRx, h.clusterTx, h.portTx, h.shutters, .none t', h.quarters, h.twin, h.time, fun y e => absurd (t.symm.trans e).symm (Option.some_ne_none y)⟩

theorem resKept_next {s : State} (h : s.Kept m q) : ResKept m q (.next s) := h
theorem resKept_fault {f : Fault} : ResKept m q (.fault f) := trivial
theorem resKept_refused {f : Refusal} : ResKept m q (.refused f) := trivial

theorem foldl_kept {α : Type} {f : State → α → State} {l : List α} {s : State} (h : s.Kept m q)
    (hf : ∀ s a, s.Kept m q → (f s a).Kept m q) : (l.foldl f s).Kept m q := by
  induction l generalizing s with
  | nil => exact h
  | cons a t ih => exact ih (hf _ _ h)

/-- A fold over a pair whose second component is the state. -/
theorem foldl_kept_snd {α β : Type} {f : β × State → α → β × State} {l : List α} {x : β × State} (h : x.2.Kept m q)
    (hf : ∀ x a, x.2.Kept m q → (f x a).2.Kept m q) : (l.foldl f x).2.Kept m q := by
  induction l generalizing x with
  | nil => exact h
  | cons a t ih => exact ih (hf _ _ h)

theorem foldl_resKept {α : Type} {f : Res → α → Res} {l : List α} {x : Res} (h : ResKept m q x)
    (hf : ∀ x a, ResKept m q x → ResKept m q (f x a)) : ResKept m q (l.foldl f x) := by
  induction l generalizing x with
  | nil => exact h
  | cons a t ih => exact ih (hf _ _ h)

theorem foldl_kept_mid {α β γ : Type} {f : β × State × γ → α → β × State × γ} {l : List α} {x : β × State × γ} (h : x.2.1.Kept m q)
    (hf : ∀ x a, x.2.1.Kept m q → (f x a).2.1.Kept m q) : (l.foldl f x).2.1.Kept m q := by
  induction l generalizing x with
  | nil => exact h
  | cons a t ih => exact ih (hf _ _ h)

theorem foldl_pairKept {α : Type} {f : Option State × State → α → Option State × State} {l : List α} {x : Option State × State}
    (h : PairKept m q x) (hf : ∀ x a, PairKept m q x → PairKept m q (f x a)) : PairKept m q (l.foldl f x) := by
  induction l generalizing x with
  | nil => exact h
  | cons a t ih => exact ih (hf _ _ h)

theorem foldl_slotKept {α : Type} {f : Option (Nat × State) × State → α → Option (Nat × State) × State} {l : List α}
    {x : Option (Nat × State) × State} (h : SlotKept m q x) (hf : ∀ x a, SlotKept m q x → SlotKept m q (f x a)) :
    SlotKept m q (l.foldl f x) := by
  induction l generalizing x with
  | nil => exact h
  | cons a t ih => exact ih (hf _ _ h)

theorem ite_kept_snd {α : Type} {c : Prop} [Decidable c] {a b : α × State} (ha : a.2.Kept m q) (hb : b.2.Kept m q) :
    (if c then a else b).2.Kept m q := by
  split
  · exact ha
  · exact hb

theorem pairKept_none {s : State} (h : s.Kept m q) : PairKept m q (none, s) := ⟨h, fun t e => (Option.some_ne_none t e.symm).elim⟩
theorem pairKept_some {t s : State} (ht : t.Kept m q) (h : s.Kept m q) : PairKept m q (some t, s) :=
  ⟨h, fun _ e => by injection e with e; subst e; exact ht⟩
theorem PairKept.state {x : Option State × State} (h : PairKept m q x) : x.2.Kept m q := h.1
theorem PairKept.found {x : Option State × State} {t u : State} (h : PairKept m q x) (e : x = (some t, u)) : t.Kept m q := by
  subst e; exact h.2 t rfl
theorem slotKept_none {s : State} (h : s.Kept m q) : SlotKept m q (none, s) := ⟨h, fun t e => (Option.some_ne_none t e.symm).elim⟩
theorem slotKept_some {l : Nat} {t s : State} (ht : t.Kept m q) (h : s.Kept m q) : SlotKept m q (some (l, t), s) :=
  ⟨h, fun _ e => by injection e with e; subst e; exact ht⟩
theorem SlotKept.state {x : Option (Nat × State) × State} (h : SlotKept m q x) : x.2.Kept m q := h.1
theorem SlotKept.found {x : Option (Nat × State) × State} {l : Nat} {t u : State} (h : SlotKept m q x) (e : x = (some (l, t), u)) :
    t.Kept m q := by
  subst e; exact h.2 (l, t) rfl
theorem optKept_none : OptKept m q none := fun t e => (Option.some_ne_none t e.symm).elim
theorem optKept_some {s : State} (h : s.Kept m q) : OptKept m q (some s) := fun _ e => by injection e with e; subst e; exact h
theorem OptKept.found {x : Option State} {t : State} (h : OptKept m q x) (e : x = some t) : t.Kept m q := h t e

namespace State
variable {s : State}

theorem setReg_kept {i u : Nat} {v : Word} (h : s.Kept m q) (t : m.objs = none := by assumption) : (s.setReg i u v).Kept m q :=
  ⟨h.canonMem, SMap.canon_set v h.canonRegs rfl, h.canonRows, h.canonCtrs, h.queue, h.past, h.masks, h.mem, h.rows, h.dict, h.keys, h.laneLock, h.portRx, h.clusterRx, h.clusterTx, h.portTx, h.shutters, h.rings, h.quarters, h.twin, h.time, fun y e => absurd (t.symm.trans e).symm (Option.some_ne_none y)⟩

/-- A write of CLUSTER_MODE leaves every other object. -/
theorem setMode_kept {c : Nat} {v : Word} (h : s.Kept m q) : (s.setReg (clIdx c 0) 3 v).Kept m q :=
  ⟨h.canonMem, SMap.canon_set v h.canonRegs rfl, h.canonRows, h.canonCtrs, h.queue, h.past, h.masks, h.mem, h.rows, h.dict, h.keys, h.laneLock, h.portRx,
    h.clusterRx, h.clusterTx, h.portTx, h.shutters, h.rings, h.quarters, h.twin, h.time, fun t e i u hm => by
      have hne : slotKey i u 0 ≠ slotKey (clIdx c 0) 3 0 := fun hk => hm ⟨c, hk⟩
      rw [← h.objs t e i u hm]
      simp only [State.reg, State.setReg]
      exact SMap.get_set_ne _ hne⟩

theorem rowSet_kept {w u r : Nat} {v : Word} (h : s.Kept m q) (t : m.rows = none := by assumption) : (s.rowSet w u r v).Kept m q :=
  ⟨h.canonMem, h.canonRegs, SMap.rising_set _ _ _ h.canonRows, h.canonCtrs, h.queue, h.past, h.masks, h.mem, .none t, h.dict, h.keys, h.laneLock, h.portRx, h.clusterRx, h.clusterTx, h.portTx, h.shutters, h.rings, h.quarters, h.twin, h.time, h.objs⟩

theorem bumpRow_kept {i u r n : Nat} (h : s.Kept m q) : (s.bumpRow i u r n).Kept m q := by
  unfold bumpRow
  dsimp only
  split
  · exact kept_setCtr h
  · exact kept_setCtr h

theorem clearCtrs_kept {f : Nat → Bool} (h : s.Kept m q) : (s.clearCtrs f).Kept m q :=
  ⟨h.canonMem, h.canonRegs, h.canonRows, SMap.canon_eraseWhere _ h.canonCtrs, h.queue, h.past, h.masks, h.mem, h.rows, h.dict, h.keys, h.laneLock, h.portRx, h.clusterRx, h.clusterTx, h.portTx, h.shutters, h.rings, h.quarters, h.twin, h.time, h.objs⟩

theorem clearTable_kept {w : Nat} (h : s.Kept m q) (t : m.rows = none := by assumption) : (s.clearTable w).Kept m q :=
  clearCtrs_kept ⟨h.canonMem, h.canonRegs, SMap.rising_filter _ h.canonRows, h.canonCtrs, h.queue, h.past, h.masks, h.mem, .none t, h.dict, h.keys, h.laneLock, h.portRx, h.clusterRx, h.clusterTx, h.portTx, h.shutters, h.rings, h.quarters, h.twin, h.time, h.objs⟩

theorem memWrite_kept {a : Nat} {bs : Bytes} (h : s.Kept m q) (t : m.mem = none := by assumption) : (s.memWrite a bs).Kept m q := by
  induction bs generalizing s a with
  | nil => exact h
  | cons b l ih => exact ih ⟨SMap.canon_set _ h.canonMem rfl, h.canonRegs, h.canonRows, h.canonCtrs, h.queue, h.past, h.masks, .none t, h.rows, h.dict, h.keys, h.laneLock, h.portRx, h.clusterRx, h.clusterTx, h.portTx, h.shutters, h.rings, h.quarters, h.twin, h.time, h.objs⟩

end State
end
end Sys2Proof.Machine
end

