-- ==== Sys2Proof/Laws/KeptOps.lean ====
section
/-!
SUPPORT. What the operations of Machine/Ops.lean keep.
-/
set_option linter.unusedTactic false
set_option linter.unreachableTactic false
set_option linter.unusedVariables false
set_option linter.tactic.unusedName false
namespace Sys2Proof.Machine
variable {μ : Marks} {κ : List Instr}

theorem State.setDom_kept {s : State} {n : Nat} {d : Domain} (hk : s.Kept μ κ) : (State.setDom s n d).Kept μ κ := by
  unfold State.setDom
  repeat' with_reducible first
      | assumption
      | (extract_lets +onlyGivenNames x; first | (refine State.Kept.cut (m := μ) (q := κ) (s := x) ?_ fun hx => ?_; (on_goal 2 => clear_value x); (on_goal 1 => unfold x; clear x)) | clear_value x)
      | (fail_if_no_progress (apply kept_mk))

theorem State.beginSwitch_kept {s : State} {n : Nat} {goal : Pwr} (hk : s.Kept μ κ) : (State.beginSwitch s n goal).Kept μ κ := by
  unfold State.beginSwitch
  repeat' with_reducible first
      | assumption | apply State.setDom_kept
      | (extract_lets +onlyGivenNames x; first | (refine State.Kept.cut (m := μ) (q := κ) (s := x) ?_ fun hx => ?_; (on_goal 2 => clear_value x); (on_goal 1 => unfold x; clear x)) | clear_value x)
      | split | (fail_if_no_progress (apply kept_mk))

theorem State.bump_kept {s : State} {idx sub n : Nat} (hk : s.Kept μ κ) : (State.bump s idx sub n).Kept μ κ := by
  unfold State.bump
  repeat' with_reducible first
      | assumption | apply State.bumpRow_kept

theorem State.bumpPort_kept {s : State} {p slot n : Nat} (hk : s.Kept μ κ) : (State.bumpPort s p slot n).Kept μ κ := by
  unfold State.bumpPort
  repeat' with_reducible first
      | assumption | apply State.bumpRow_kept

theorem State.elapse_kept {s : State} {dt : Nat} (hk : s.Kept μ κ) : (State.elapse s dt).Kept μ κ := by
  unfold State.elapse
  dsimp only
  refine { canonMem := hk.canonMem, canonRegs := hk.canonRegs, canonRows := hk.canonRows, canonCtrs := hk.canonCtrs, queue := hk.queue,
           mem := hk.mem, rows := hk.rows, past := hk.past, masks := hk.masks, dict := hk.dict, keys := hk.keys, laneLock := hk.laneLock, portRx := hk.portRx,
           clusterRx := hk.clusterRx, clusterTx := hk.clusterTx, portTx := hk.portTx, shutters := hk.shutters, rings := hk.rings,
           quarters := hk.quarters, twin := hk.twin, objs := hk.objs, time := fun y e => ?_ }
  rw [← hk.time y e]
  dsimp only [TimeUnit.settings, State.timeAfter]
  split
  · rfl
  · split <;> rfl

theorem State.emit_kept {s : State} {o : Output} (hk : s.Kept μ κ) : (State.emit s o).Kept μ κ := by
  unfold State.emit
  repeat' with_reducible first
      | assumption
      | (extract_lets +onlyGivenNames x; first | (refine State.Kept.cut (m := μ) (q := κ) (s := x) ?_ fun hx => ?_; (on_goal 2 => clear_value x); (on_goal 1 => unfold x; clear x)) | clear_value x)
      | (fail_if_no_progress (apply kept_mk))

theorem State.requestOn_kept {s : State} {n : Nat} (hk : s.Kept μ κ) : (State.requestOn s n).Kept μ κ := by
  unfold State.requestOn
  repeat' with_reducible first
      | assumption | apply State.setDom_kept | apply State.beginSwitch_kept
      | (extract_lets +onlyGivenNames x; first | (refine State.Kept.cut (m := μ) (q := κ) (s := x) ?_ fun hx => ?_; (on_goal 2 => clear_value x); (on_goal 1 => unfold x; clear x)) | clear_value x)
      | split | (fail_if_no_progress (apply kept_mk))

theorem State.endSleep_kept {s : State} (hk : s.Kept μ κ) : (State.endSleep s).Kept μ κ := by
  unfold State.endSleep
  repeat' with_reducible first
      | assumption | apply State.requestOn_kept | apply foldl_kept | intro _
      | (extract_lets +onlyGivenNames x; first | (refine State.Kept.cut (m := μ) (q := κ) (s := x) ?_ fun hx => ?_; (on_goal 2 => clear_value x); (on_goal 1 => unfold x; clear x)) | clear_value x)
      | split | (fail_if_no_progress (apply kept_mk))

theorem State.freshBytes_kept {s : State} {n : Nat} (hk : s.Kept μ κ) : (State.freshBytes s n).2.Kept μ κ := by
  unfold State.freshBytes
  repeat' with_reducible first
      | assumption
      | (extract_lets +onlyGivenNames x; first | (refine State.Kept.cut (m := μ) (q := κ) (s := x) ?_ fun hx => ?_; (on_goal 2 => clear_value x); (on_goal 1 => unfold x; clear x)) | clear_value x)
      | (fail_if_no_progress (apply kept_mk))

theorem State.freshWord_kept {s : State} (hk : s.Kept μ κ) : (State.freshWord s).2.Kept μ κ := by
  unfold State.freshWord
  repeat' with_reducible first
      | assumption
      | (extract_lets +onlyGivenNames x; first | (refine State.Kept.cut (m := μ) (q := κ) (s := x) ?_ fun hx => ?_; (on_goal 2 => clear_value x); (on_goal 1 => unfold x; clear x)) | clear_value x)
      | (fail_if_no_progress (apply kept_mk))

theorem State.setClp_kept {s : State} {c : Nat} {q : ClusterPower} (hk : s.Kept μ κ) : (State.setClp s c q).Kept μ κ := by
  unfold State.setClp
  repeat' with_reducible first
      | assumption
      | (extract_lets +onlyGivenNames x; first | (refine State.Kept.cut (m := μ) (q := κ) (s := x) ?_ fun hx => ?_; (on_goal 2 => clear_value x); (on_goal 1 => unfold x; clear x)) | clear_value x)
      | (fail_if_no_progress (apply kept_mk))

theorem State.wakeCluster_kept {s : State} {c : Nat} (hk : s.Kept μ κ) : (State.wakeCluster s c).Kept μ κ := by
  unfold State.wakeCluster
  dsimp only
  split
  · exact State.requestOn_kept (State.requestOn_kept (State.requestOn_kept (State.setMode_kept (State.setClp_kept hk))))
  · exact State.setClp_kept hk
  · exact hk

theorem State.wakeCommon_kept {s : State} (hk : s.Kept μ κ) : (State.wakeCommon s).Kept μ κ := by
  unfold State.wakeCommon
  repeat' with_reducible first
      | assumption | apply State.requestOn_kept | apply State.endSleep_kept | apply foldl_kept | intro _ | split

theorem State.latchFire_kept {s : State} {e data : Nat} (hk : s.Kept μ κ) : (State.latchFire s e data).1.Kept μ κ := by
  unfold State.latchFire
  repeat' with_reducible first
      | assumption | apply State.wakeCluster_kept | apply State.wakeCommon_kept | apply State.bump_kept | apply foldl_kept | intro _
      | (extract_lets +onlyGivenNames x; first | (refine State.Kept.cut (m := μ) (q := κ) (s := x) ?_ fun hx => ?_; (on_goal 2 => clear_value x); (on_goal 1 => unfold x; clear x)) | clear_value x)
      | split | (fail_if_no_progress (apply kept_mk))

theorem State.noteEcc_kept {s : State} {e : Nat} (hk : s.Kept μ κ) (t_twin : μ.twin = none := by assumption) :
    (State.noteEcc s e).Kept μ κ := by
  unfold State.noteEcc
  repeat' with_reducible first
      | assumption
      | (extract_lets +onlyGivenNames x; first | (refine State.Kept.cut (m := μ) (q := κ) (s := x) ?_ fun hx => ?_; (on_goal 2 => clear_value x); (on_goal 1 => unfold x; clear x)) | clear_value x)
      | split | apply kept_twin | (fail_if_no_progress (apply kept_mk))

theorem State.notePast_kept {s : State} {row : Bool} {key : Nat} {old new : Word} (hk : s.Kept μ κ) (t_past : μ.past = none := by assumption) :
    (State.notePast s row key old new).Kept μ κ := by
  unfold State.notePast
  repeat' with_reducible first
      | assumption
      | (extract_lets +onlyGivenNames x; first | (refine State.Kept.cut (m := μ) (q := κ) (s := x) ?_ fun hx => ?_; (on_goal 2 => clear_value x); (on_goal 1 => unfold x; clear x)) | clear_value x)
      | split | apply kept_past | (fail_if_no_progress (apply kept_mk))

theorem State.setSrc_kept {s : State} {e : Nat} {q : Source} (hk : s.Kept μ κ) : (State.setSrc s e q).Kept μ κ := by
  unfold State.setSrc
  repeat' with_reducible first
      | assumption
      | (extract_lets +onlyGivenNames x; first | (refine State.Kept.cut (m := μ) (q := κ) (s := x) ?_ fun hx => ?_; (on_goal 2 => clear_value x); (on_goal 1 => unfold x; clear x)) | clear_value x)
      | (fail_if_no_progress (apply kept_mk))

theorem State.raiseSource_kept {s : State} {e data : Nat} (hk : s.Kept μ κ) : (State.raiseSource s e data).Kept μ κ := by
  unfold State.raiseSource
  repeat' with_reducible first
      | assumption | apply State.bump_kept | apply State.setSrc_kept
      | (extract_lets +onlyGivenNames x; first | (refine State.Kept.cut (m := μ) (q := κ) (s := x) ?_ fun hx => ?_; (on_goal 2 => clear_value x); (on_goal 1 => unfold x; clear x)) | clear_value x)
      | split | (fail_if_no_progress (apply kept_mk))

theorem State.raise_kept {s : State} {e : Nat} {data : optParam Nat 0} (hk : s.Kept μ κ) : (State.raise s e data).Kept μ κ := by
  unfold State.raise
  repeat' with_reducible first
      | assumption | (rename_i e; have e2 := congrArg Prod.snd e; dsimp only at e2; subst e2) | apply State.latchFire_kept
      | apply State.raiseSource_kept | apply foldl_kept | apply foldl_kept_snd | apply foldl_kept_mid | apply foldl_resKept
      | apply foldl_pairKept | apply foldl_slotKept | intro _ | apply pairKept_none | apply pairKept_some | apply foldl_pairKept
      | exact PairKept.state (by assumption) | exact optKept_none | apply optKept_some
      | (extract_lets +onlyGivenNames x; first | (refine State.Kept.cut (m := μ) (q := κ) (s := x) ?_ fun hx => ?_; (on_goal 2 => clear_value x); (on_goal 1 => unfold x; clear x)) | (refine State.Kept.cut (m := μ) (q := κ) (s := x.2) ?_ fun hx => ?_; (on_goal 2 => clear_value x); (on_goal 1 => unfold x; clear x)) | (refine State.Kept.cut (m := μ) (q := κ) (s := x.2.2) ?_ fun hx => ?_; (on_goal 2 => clear_value x); (on_goal 1 => unfold x; clear x)) | (refine State.Kept.cut (m := μ) (q := κ) (s := x.1) ?_ fun hx => ?_; (on_goal 2 => clear_value x); (on_goal 1 => unfold x; clear x)) | (have _f : _ → _ := x; clear _f) | clear_value x | skip)
      | split | (fail_if_no_progress (apply kept_mk)) | (fail_if_no_progress (apply kept_eraseRegs))
      | (fail_if_no_progress (apply kept_eraseRings)) | (fail_if_no_progress (apply kept_setCtr)) | (dsimp -zeta +zetaDelta only)

theorem State.raiseOnce_kept {s : State} {e : Nat} {data : optParam Nat 0} (hk : s.Kept μ κ) (t_twin : μ.twin = none := by assumption) :
    (State.raiseOnce s e data).Kept μ κ := by
  unfold State.raiseOnce
  repeat' with_reducible first
      | assumption | apply State.noteEcc_kept | apply State.raise_kept
      | (extract_lets +onlyGivenNames x; first | (refine State.Kept.cut (m := μ) (q := κ) (s := x) ?_ fun hx => ?_; (on_goal 2 => clear_value x); (on_goal 1 => unfold x; clear x)) | clear_value x)
      | split | (fail_if_no_progress (apply kept_mk))

theorem State.refuse_kept {s : State} {tr : Transport} {idx sub code : Nat} (hk : s.Kept μ κ) (t_dict : μ.dict = none := by assumption) (t_twin : μ.twin = none := by assumption) :
    (State.refuse s tr idx sub code).Kept μ κ := by
  unfold State.refuse
  repeat' with_reducible first
      | assumption | apply State.bump_kept | apply State.raiseOnce_kept
      | (extract_lets +onlyGivenNames x; first | (refine State.Kept.cut (m := μ) (q := κ) (s := x) ?_ fun hx => ?_; (on_goal 2 => clear_value x); (on_goal 1 => unfold x; clear x)) | clear_value x)
      | apply kept_dict | (fail_if_no_progress (apply kept_mk))

theorem State.setPort_kept {s : State} {p : Nat} {q : PortRx} (hk : s.Kept μ κ) (t_portRx : μ.portRx = none := by assumption) :
    (State.setPort s p q).Kept μ κ := by
  unfold State.setPort
  repeat' with_reducible first
      | assumption
      | (extract_lets +onlyGivenNames x; first | (refine State.Kept.cut (m := μ) (q := κ) (s := x) ?_ fun hx => ?_; (on_goal 2 => clear_value x); (on_goal 1 => unfold x; clear x)) | clear_value x)
      | apply kept_portRx | (fail_if_no_progress (apply kept_mk))

theorem State.rxCause_kept {s : State} {p bit : Nat} (hk : s.Kept μ κ) (t_portRx : μ.portRx = none := by assumption) :
    (State.rxCause s p bit).Kept μ κ := by
  unfold State.rxCause
  repeat' with_reducible first
      | assumption | apply State.setPort_kept | apply State.raise_kept
      | (extract_lets +onlyGivenNames x; first | (refine State.Kept.cut (m := μ) (q := κ) (s := x) ?_ fun hx => ?_; (on_goal 2 => clear_value x); (on_goal 1 => unfold x; clear x)) | clear_value x)
      | split | (fail_if_no_progress (apply kept_mk))

theorem State.setBandRing_kept {s : State} {t b : Nat} {q : BandRing} (hk : s.Kept μ κ) : (State.setBandRing s t b q).Kept μ κ := by
  unfold State.setBandRing
  repeat' with_reducible first
      | assumption
      | (extract_lets +onlyGivenNames x; first | (refine State.Kept.cut (m := μ) (q := κ) (s := x) ?_ fun hx => ?_; (on_goal 2 => clear_value x); (on_goal 1 => unfold x; clear x)) | clear_value x)
      | (fail_if_no_progress (apply kept_mk))

theorem State.setClRx_kept {s : State} {c : Nat} {q : ClusterRx} (hk : s.Kept μ κ) (t_clusterRx : μ.clusterRx = none := by assumption) :
    (State.setClRx s c q).Kept μ κ := by
  unfold State.setClRx
  repeat' with_reducible first
      | assumption
      | (extract_lets +onlyGivenNames x; first | (refine State.Kept.cut (m := μ) (q := κ) (s := x) ?_ fun hx => ?_; (on_goal 2 => clear_value x); (on_goal 1 => unfold x; clear x)) | clear_value x)
      | apply kept_clusterRx | (fail_if_no_progress (apply kept_mk))

theorem State.setClTx_kept {s : State} {c : Nat} {q : ClusterTx} (hk : s.Kept μ κ) (t_clusterTx : μ.clusterTx = none := by assumption) :
    (State.setClTx s c q).Kept μ κ := by
  unfold State.setClTx
  repeat' with_reducible first
      | assumption
      | (extract_lets +onlyGivenNames x; first | (refine State.Kept.cut (m := μ) (q := κ) (s := x) ?_ fun hx => ?_; (on_goal 2 => clear_value x); (on_goal 1 => unfold x; clear x)) | clear_value x)
      | apply kept_clusterTx | (fail_if_no_progress (apply kept_mk))

theorem State.setLatchedRow_kept {s : State} {w sub row : Nat} {v : Word} (hk : s.Kept μ κ) (t_rows : μ.rows = none := by assumption) (t_past : μ.past = none := by assumption) :
    (State.setLatchedRow s w sub row v).Kept μ κ := by
  unfold State.setLatchedRow
  repeat' with_reducible first
      | assumption | apply State.rowSet_kept | apply State.notePast_kept

theorem State.setPortReg_kept {s : State} {idx sub : Nat} {v : Word} (hk : s.Kept μ κ) (t_past : μ.past = none := by assumption) (t_objs : μ.objs = none := by assumption) :
    (State.setPortReg s idx sub v).Kept μ κ := by
  unfold State.setPortReg
  repeat' with_reducible first
      | assumption | apply State.setReg_kept | apply State.notePast_kept

theorem State.setPortTx_kept {s : State} {p : Nat} {q : PortTx} (hk : s.Kept μ κ) (t_portTx : μ.portTx = none := by assumption) :
    (State.setPortTx s p q).Kept μ κ := by
  unfold State.setPortTx
  repeat' with_reducible first
      | assumption
      | (extract_lets +onlyGivenNames x; first | (refine State.Kept.cut (m := μ) (q := κ) (s := x) ?_ fun hx => ?_; (on_goal 2 => clear_value x); (on_goal 1 => unfold x; clear x)) | clear_value x)
      | apply kept_portTx | (fail_if_no_progress (apply kept_mk))

theorem State.setQuarter_kept {s : State} {q : Nat} {v : Quarter} (hk : s.Kept μ κ) (t_quarters : μ.quarters = none := by assumption) :
    (State.setQuarter s q v).Kept μ κ := by
  unfold State.setQuarter
  repeat' with_reducible first
      | assumption
      | (extract_lets +onlyGivenNames x; first | (refine State.Kept.cut (m := μ) (q := κ) (s := x) ?_ fun hx => ?_; (on_goal 2 => clear_value x); (on_goal 1 => unfold x; clear x)) | clear_value x)
      | apply kept_quarters | (fail_if_no_progress (apply kept_mk))

theorem State.setRing_kept {s : State} {r : Nat} {q : Ring} (hk : s.Kept μ κ) (t_rings : μ.rings = none := by assumption) :
    (State.setRing s r q).Kept μ κ := by
  unfold State.setRing
  repeat' with_reducible first
      | assumption
      | (extract_lets +onlyGivenNames x; first | (refine State.Kept.cut (m := μ) (q := κ) (s := x) ?_ fun hx => ?_; (on_goal 2 => clear_value x); (on_goal 1 => unfold x; clear x)) | clear_value x)
      | apply kept_rings | (fail_if_no_progress (apply kept_mk))

theorem State.updClTx_kept {s : State} {c : Nat} {f : ClusterTx → ClusterTx} (hk : s.Kept μ κ) (t_clusterTx : μ.clusterTx = none := by assumption) :
    (State.updClTx s c f).Kept μ κ := by
  unfold State.updClTx
  repeat' with_reducible first
      | assumption | apply State.setClTx_kept

theorem State.setSch_kept {s : State} {c k : Nat} {r : SchRow} (hk : s.Kept μ κ) (t_clusterTx : μ.clusterTx = none := by assumption) :
    (State.setSch s c k r).Kept μ κ := by
  unfold State.setSch
  repeat' with_reducible first
      | assumption | apply State.updClTx_kept | (fail_if_no_progress (apply kept_mk))

theorem State.setShut_kept {s : State} {p : Nat} {q : Shutter} (hk : s.Kept μ κ) (t_shutters : μ.shutters = none := by assumption) :
    (State.setShut s p q).Kept μ κ := by
  unfold State.setShut
  repeat' with_reducible first
      | assumption
      | (extract_lets +onlyGivenNames x; first | (refine State.Kept.cut (m := μ) (q := κ) (s := x) ?_ fun hx => ?_; (on_goal 2 => clear_value x); (on_goal 1 => unfold x; clear x)) | clear_value x)
      | apply kept_shutters | (fail_if_no_progress (apply kept_mk))

theorem State.setSlot_kept {s : State} {k : Nat} {q : KeySlot} (hk : s.Kept μ κ) (t_keys : μ.keys = none := by assumption) :
    (State.setSlot s k q).Kept μ κ := by
  unfold State.setSlot
  repeat' with_reducible first
      | assumption
      | (extract_lets +onlyGivenNames x; first | (refine State.Kept.cut (m := μ) (q := κ) (s := x) ?_ fun hx => ?_; (on_goal 2 => clear_value x); (on_goal 1 => unfold x; clear x)) | clear_value x)
      | apply kept_keys | (fail_if_no_progress (apply kept_mk))

theorem State.setTgt_kept {s : State} {t : Nat} {q : Target} (hk : s.Kept μ κ) : (State.setTgt s t q).Kept μ κ := by
  unfold State.setTgt
  repeat' with_reducible first
      | assumption
      | (extract_lets +onlyGivenNames x; first | (refine State.Kept.cut (m := μ) (q := κ) (s := x) ?_ fun hx => ?_; (on_goal 2 => clear_value x); (on_goal 1 => unfold x; clear x)) | clear_value x)
      | (fail_if_no_progress (apply kept_mk))

theorem State.setWindow_kept {s : State} {w : Nat} {q : Window} (hk : s.Kept μ κ) (t_dict : μ.dict = none := by assumption) :
    (State.setWindow s w q).Kept μ κ := by
  unfold State.setWindow
  repeat' with_reducible first
      | assumption
      | (extract_lets +onlyGivenNames x; first | (refine State.Kept.cut (m := μ) (q := κ) (s := x) ?_ fun hx => ?_; (on_goal 2 => clear_value x); (on_goal 1 => unfold x; clear x)) | clear_value x)
      | apply kept_dict | (fail_if_no_progress (apply kept_mk))

theorem State.store_kept {s : State} {row : Bool} {key : Nat} {v : Word} (hk : s.Kept μ κ) (t_rows : μ.rows = none := by assumption) (t_objs : μ.objs = none := by assumption) :
    (State.store s row key v).Kept μ κ := by
  unfold State.store
  split
  · exact { hk with canonRows := SMap.rising_set _ _ _ hk.canonRows, rows := .none t_rows }
  · exact { hk with canonRegs := SMap.canon_set v hk.canonRegs rfl, objs := fun y e => absurd (t_objs.symm.trans e).symm (Option.some_ne_none y) }

theorem State.underStart_kept {μ : Marks} {κ : List Instr} {s : State} {p age : Nat} {f : State → State} (hk : s.Kept μ κ) (t_rows : μ.rows = none := by assumption) (t_objs : μ.objs = none := by assumption)
    (hf : ∀ t, t.Kept μ κ → (f t).Kept μ κ) : (State.underStart s p age f).Kept μ κ := by
  unfold State.underStart
  have h1 : ∀ l : List Past, (l.foldr (fun e s => s.store e.row e.key e.old) s).Kept μ κ := by
    intro l
    induction l with
    | nil => exact hk
    | cons e l ih => exact State.store_kept ih
  exact foldl_kept (hf _ (h1 _)) fun _ _ h => State.store_kept h

theorem State.updClRx_kept {s : State} {c : Nat} {f : ClusterRx → ClusterRx} (hk : s.Kept μ κ) (t_clusterRx : μ.clusterRx = none := by assumption) :
    (State.updClRx s c f).Kept μ κ := by
  unfold State.updClRx
  repeat' with_reducible first
      | assumption | apply State.setClRx_kept

theorem State.updPort_kept {s : State} {p : Nat} {f : PortRx → PortRx} (hk : s.Kept μ κ) (t_portRx : μ.portRx = none := by assumption) :
    (State.updPort s p f).Kept μ κ := by
  unfold State.updPort
  repeat' with_reducible first
      | assumption | apply State.setPort_kept

theorem State.updPortTx_kept {s : State} {p : Nat} {f : PortTx → PortTx} (hk : s.Kept μ κ) (t_portTx : μ.portTx = none := by assumption) :
    (State.updPortTx s p f).Kept μ κ := by
  unfold State.updPortTx
  repeat' with_reducible first
      | assumption | apply State.setPortTx_kept

theorem State.updRing_kept {s : State} {r : Nat} {f : Ring → Ring} (hk : s.Kept μ κ) (t_rings : μ.rings = none := by assumption) :
    (State.updRing s r f).Kept μ κ := by
  unfold State.updRing
  repeat' with_reducible first
      | assumption | apply State.setRing_kept

theorem State.updTwin_kept {s : State} {f : TwinUnit → TwinUnit} (hk : s.Kept μ κ) (t_twin : μ.twin = none := by assumption) :
    (State.updTwin s f).Kept μ κ := by
  unfold State.updTwin
  repeat' with_reducible first
      | assumption
      | (extract_lets +onlyGivenNames x; first | (refine State.Kept.cut (m := μ) (q := κ) (s := x) ?_ fun hx => ?_; (on_goal 2 => clear_value x); (on_goal 1 => unfold x; clear x)) | clear_value x)
      | apply kept_twin | (fail_if_no_progress (apply kept_mk))

end Sys2Proof.Machine
end

