-- ==== Sys2Proof/Laws/KeptEvents.lean ====
section
/-!
SUPPORT. What the operations of Machine/Events.lean keep.
-/
set_option linter.unusedTactic false
set_option linter.unreachableTactic false
set_option linter.unusedVariables false
set_option linter.tactic.unusedName false
namespace Sys2Proof.Machine
variable {μ : Marks} {κ : List Instr}

theorem State.setReleased_kept {s : State} {t b : Nat} {v : Bool} (hk : s.Kept μ κ) (t_objs : μ.objs = none := by assumption) :
    (State.setReleased s t b v).Kept μ κ := by
  unfold State.setReleased
  repeat' with_reducible first
      | assumption | apply State.setReg_kept

theorem State.releaseIfFull_kept {s : State} {t b : Nat} (hk : s.Kept μ κ) (t_objs : μ.objs = none := by assumption) :
    (State.releaseIfFull s t b).Kept μ κ := by
  unfold State.releaseIfFull
  repeat' with_reducible first
      | assumption | apply State.setReleased_kept
      | (extract_lets +onlyGivenNames x; first | (refine State.Kept.cut (m := μ) (q := κ) (s := x) ?_ fun hx => ?_; (on_goal 2 => clear_value x); (on_goal 1 => unfold x; clear x)) | clear_value x)
      | split

theorem State.writeRecord_kept {s : State} {t b e prio : Nat} {mgmt again : Bool} {stamp : Word} {data : Nat} (hk : s.Kept μ κ) (t_mem : μ.mem = none := by assumption) (t_objs : μ.objs = none := by assumption) :
    (State.writeRecord s t b e prio mgmt again stamp data).Kept μ κ := by
  unfold State.writeRecord
  repeat' with_reducible first
      | assumption | apply State.bump_kept | apply State.memWrite_kept | apply State.releaseIfFull_kept | apply State.setBandRing_kept
      | (extract_lets +onlyGivenNames x; first | (refine State.Kept.cut (m := μ) (q := κ) (s := x) ?_ fun hx => ?_; (on_goal 2 => clear_value x); (on_goal 1 => unfold x; clear x)) | clear_value x)
      | split | (fail_if_no_progress (apply kept_mk))

theorem State.deliver_kept {s : State} {e : Nat} (hk : s.Kept μ κ) (t_mem : μ.mem = none := by assumption) (t_objs : μ.objs = none := by assumption) :
    (State.deliver s e).Kept μ κ := by
  unfold State.deliver
  repeat' with_reducible first
      | assumption | apply State.bump_kept | apply State.setSrc_kept | apply State.setReg_kept | apply State.writeRecord_kept
      | apply foldl_kept | intro _
      | (extract_lets +onlyGivenNames x; first | (refine State.Kept.cut (m := μ) (q := κ) (s := x) ?_ fun hx => ?_; (on_goal 2 => clear_value x); (on_goal 1 => unfold x; clear x)) | clear_value x)
      | split | (fail_if_no_progress (apply kept_mk))

theorem State.emptyRings_kept {s : State} (hk : s.Kept μ κ) (t_objs : μ.objs = none := by assumption) : (State.emptyRings s).Kept μ κ := by
  unfold State.emptyRings
  repeat' with_reducible first
      | assumption | (rename_i e; have e2 := congrArg Prod.snd e; dsimp only at e2; subst e2) | apply foldl_kept | apply foldl_kept_snd
      | apply foldl_kept_mid | apply foldl_resKept | apply foldl_pairKept | apply foldl_slotKept | intro _ | apply pairKept_none
      | apply pairKept_some | apply foldl_pairKept | exact PairKept.state (by assumption) | exact optKept_none | apply optKept_some
      | (extract_lets +onlyGivenNames x; first | (refine State.Kept.cut (m := μ) (q := κ) (s := x) ?_ fun hx => ?_; (on_goal 2 => clear_value x); (on_goal 1 => unfold x; clear x)) | (refine State.Kept.cut (m := μ) (q := κ) (s := x.2) ?_ fun hx => ?_; (on_goal 2 => clear_value x); (on_goal 1 => unfold x; clear x)) | (refine State.Kept.cut (m := μ) (q := κ) (s := x.2.2) ?_ fun hx => ?_; (on_goal 2 => clear_value x); (on_goal 1 => unfold x; clear x)) | (refine State.Kept.cut (m := μ) (q := κ) (s := x.1) ?_ fun hx => ?_; (on_goal 2 => clear_value x); (on_goal 1 => unfold x; clear x)) | (have _f : _ → _ := x; clear _f) | clear_value x | skip)
      | split | (fail_if_no_progress (apply kept_mk)) | (fail_if_no_progress (apply kept_eraseRegs))
      | (fail_if_no_progress (apply kept_eraseRings)) | (fail_if_no_progress (apply kept_setCtr)) | (dsimp -zeta +zetaDelta only)

theorem State.evtDefaults_kept {s : State} (hk : s.Kept μ κ) (t_objs : μ.objs = none := by assumption) :
    (State.evtDefaults s).Kept μ κ := by
  unfold State.evtDefaults
  repeat' with_reducible first
      | assumption | (rename_i e; have e2 := congrArg Prod.snd e; dsimp only at e2; subst e2) | apply State.clearCtrs_kept
      | apply foldl_kept | apply foldl_kept_snd | apply foldl_kept_mid | apply foldl_resKept | apply foldl_pairKept | apply foldl_slotKept
      | intro _ | apply pairKept_none | apply pairKept_some | apply foldl_pairKept | exact PairKept.state (by assumption)
      | exact optKept_none | apply optKept_some
      | (extract_lets +onlyGivenNames x; first | (refine State.Kept.cut (m := μ) (q := κ) (s := x) ?_ fun hx => ?_; (on_goal 2 => clear_value x); (on_goal 1 => unfold x; clear x)) | (refine State.Kept.cut (m := μ) (q := κ) (s := x.2) ?_ fun hx => ?_; (on_goal 2 => clear_value x); (on_goal 1 => unfold x; clear x)) | (refine State.Kept.cut (m := μ) (q := κ) (s := x.2.2) ?_ fun hx => ?_; (on_goal 2 => clear_value x); (on_goal 1 => unfold x; clear x)) | (refine State.Kept.cut (m := μ) (q := κ) (s := x.1) ?_ fun hx => ?_; (on_goal 2 => clear_value x); (on_goal 1 => unfold x; clear x)) | (have _f : _ → _ := x; clear _f) | clear_value x | skip)
      | split | (fail_if_no_progress (apply kept_mk)) | (fail_if_no_progress (apply kept_eraseRegs))
      | (fail_if_no_progress (apply kept_eraseRings)) | (fail_if_no_progress (apply kept_setCtr)) | (dsimp -zeta +zetaDelta only)

theorem State.sampleLevel_kept {s : State} {e : Nat} (hk : s.Kept μ κ) : (State.sampleLevel s e).Kept μ κ := by
  unfold State.sampleLevel
  repeat' with_reducible first
      | assumption | apply State.raise_kept | split

theorem State.evtReturn_kept {s : State} {fromOff : Bool} (hk : s.Kept μ κ) (t_objs : μ.objs = none := by assumption) :
    (State.evtReturn s fromOff).Kept μ κ := by
  unfold State.evtReturn
  repeat' with_reducible first
      | assumption | apply State.evtDefaults_kept | apply State.raiseSource_kept | apply State.sampleLevel_kept | apply foldl_kept | intro _
      | (extract_lets +onlyGivenNames x; first | (refine State.Kept.cut (m := μ) (q := κ) (s := x) ?_ fun hx => ?_; (on_goal 2 => clear_value x); (on_goal 1 => unfold x; clear x)) | clear_value x)
      | split | (fail_if_no_progress (apply kept_mk))

theorem State.fifoGrew_kept {s : State} {e before : Nat} (hk : s.Kept μ κ) : (State.fifoGrew s e before).Kept μ κ := by
  unfold State.fifoGrew
  repeat' with_reducible first
      | assumption | apply State.sampleLevel_kept | split

theorem State.idleSources_kept {s : State} (hk : s.Kept μ κ) : (State.idleSources s).Kept μ κ := by
  unfold State.idleSources
  repeat' with_reducible first
      | assumption | apply foldl_kept | intro _
      | (extract_lets +onlyGivenNames x; first | (refine State.Kept.cut (m := μ) (q := κ) (s := x) ?_ fun hx => ?_; (on_goal 2 => clear_value x); (on_goal 1 => unfold x; clear x)) | (refine State.Kept.cut (m := μ) (q := κ) (s := x.2) ?_ fun hx => ?_; (on_goal 2 => clear_value x); (on_goal 1 => unfold x; clear x)) | clear_value x)
      | (fail_if_no_progress (apply kept_mk))

theorem State.landClaimSel_kept {s : State} {t v : Nat} (hk : s.Kept μ κ) : (State.landClaimSel s t v).Kept μ κ := by
  unfold State.landClaimSel
  repeat' with_reducible first
      | assumption | apply State.setTgt_kept
      | (extract_lets +onlyGivenNames x; first | (refine State.Kept.cut (m := μ) (q := κ) (s := x) ?_ fun hx => ?_; (on_goal 2 => clear_value x); (on_goal 1 => unfold x; clear x)) | clear_value x)
      | (fail_if_no_progress (apply kept_mk))

theorem State.landDone_kept {s : State} {t e : Nat} (hk : s.Kept μ κ) : (State.landDone s t e).Kept μ κ := by
  unfold State.landDone
  repeat' with_reducible first
      | assumption | apply State.setSrc_kept | apply State.bump_kept
      | (extract_lets +onlyGivenNames x; first | (refine State.Kept.cut (m := μ) (q := κ) (s := x) ?_ fun hx => ?_; (on_goal 2 => clear_value x); (on_goal 1 => unfold x; clear x)) | clear_value x)
      | split | (fail_if_no_progress (apply kept_mk))

theorem State.stackFault_kept {s : State} {t b : Nat} {exit : Bool} (hk : s.Kept μ κ) : (State.stackFault s t b exit).Kept μ κ := by
  unfold State.stackFault
  repeat' with_reducible first
      | assumption | apply State.raise_kept | apply State.bump_kept

theorem State.landEnter_kept {s : State} {t b : Nat} (hk : s.Kept μ κ) : (State.landEnter s t b).Kept μ κ := by
  unfold State.landEnter
  repeat' with_reducible first
      | assumption | apply State.setTgt_kept | apply State.stackFault_kept
      | (extract_lets +onlyGivenNames x; first | (refine State.Kept.cut (m := μ) (q := κ) (s := x) ?_ fun hx => ?_; (on_goal 2 => clear_value x); (on_goal 1 => unfold x; clear x)) | clear_value x)
      | split | (fail_if_no_progress (apply kept_mk))

theorem State.landExit_kept {s : State} {t b : Nat} (hk : s.Kept μ κ) : (State.landExit s t b).Kept μ κ := by
  unfold State.landExit
  repeat' with_reducible first
      | assumption | apply State.setTgt_kept | apply State.stackFault_kept
      | (extract_lets +onlyGivenNames x; first | (refine State.Kept.cut (m := μ) (q := κ) (s := x) ?_ fun hx => ?_; (on_goal 2 => clear_value x); (on_goal 1 => unfold x; clear x)) | clear_value x)
      | split | (fail_if_no_progress (apply kept_mk))

theorem State.landFiredClr_kept {s : State} {v : Word} (hk : s.Kept μ κ) : (State.landFiredClr s v).Kept μ κ := by
  unfold State.landFiredClr
  repeat' with_reducible first
      | assumption
      | (extract_lets +onlyGivenNames x; first | (refine State.Kept.cut (m := μ) (q := κ) (s := x) ?_ fun hx => ?_; (on_goal 2 => clear_value x); (on_goal 1 => unfold x; clear x)) | clear_value x)
      | (fail_if_no_progress (apply kept_mk))

theorem State.landMask_kept {s : State} {b : Nat} {v : Word} {m : Bool} (hk : s.Kept μ κ) : (State.landMask s b v m).Kept μ κ := by
  unfold State.landMask
  repeat' with_reducible first
      | assumption | apply State.setSrc_kept | apply foldl_kept | intro _
      | (extract_lets +onlyGivenNames x; first | (refine State.Kept.cut (m := μ) (q := κ) (s := x) ?_ fun hx => ?_; (on_goal 2 => clear_value x); (on_goal 1 => unfold x; clear x)) | clear_value x)
      | (fail_if_no_progress (apply kept_mk))

theorem State.landPendingClr_kept {s : State} {b : Nat} {v : Word} (hk : s.Kept μ κ) : (State.landPendingClr s b v).Kept μ κ := by
  unfold State.landPendingClr
  repeat' with_reducible first
      | assumption | apply State.setSrc_kept | apply State.sampleLevel_kept | apply foldl_kept | intro _
      | (extract_lets +onlyGivenNames x; first | (refine State.Kept.cut (m := μ) (q := κ) (s := x) ?_ fun hx => ?_; (on_goal 2 => clear_value x); (on_goal 1 => unfold x; clear x)) | clear_value x)
      | split | (fail_if_no_progress (apply kept_mk))

theorem State.landPendingSet_kept {s : State} {b : Nat} {v : Word} (hk : s.Kept μ κ) : (State.landPendingSet s b v).Kept μ κ := by
  unfold State.landPendingSet
  repeat' with_reducible first
      | assumption | apply State.raise_kept | apply foldl_kept | intro _

theorem State.landRecCoal_kept {s : State} {t b : Nat} {v : Word} (hk : s.Kept μ κ) (t_objs : μ.objs = none := by assumption) :
    (State.landRecCoal s t b v).Kept μ κ := by
  unfold State.landRecCoal
  repeat' with_reducible first
      | assumption | apply State.setReg_kept | apply State.setBandRing_kept | apply State.setReleased_kept | apply State.releaseIfFull_kept
      | (extract_lets +onlyGivenNames x; first | (refine State.Kept.cut (m := μ) (q := κ) (s := x) ?_ fun hx => ?_; (on_goal 2 => clear_value x); (on_goal 1 => unfold x; clear x)) | clear_value x)
      | split | (fail_if_no_progress (apply kept_mk))

theorem State.landRecEnable_kept {s : State} {t b : Nat} {v : Word} (hk : s.Kept μ κ) (t_objs : μ.objs = none := by assumption) :
    (State.landRecEnable s t b v).Kept μ κ := by
  unfold State.landRecEnable
  repeat' with_reducible first
      | assumption | apply State.setReg_kept | apply State.setBandRing_kept
      | (extract_lets +onlyGivenNames x; first | (refine State.Kept.cut (m := μ) (q := κ) (s := x) ?_ fun hx => ?_; (on_goal 2 => clear_value x); (on_goal 1 => unfold x; clear x)) | clear_value x)
      | split | (fail_if_no_progress (apply kept_mk))

theorem State.landRecHead_kept {s : State} {t b v : Nat} (hk : s.Kept μ κ) (t_objs : μ.objs = none := by assumption) :
    (State.landRecHead s t b v).Kept μ κ := by
  unfold State.landRecHead
  repeat' with_reducible first
      | assumption | apply State.setBandRing_kept | apply State.setReleased_kept
      | (extract_lets +onlyGivenNames x; first | (refine State.Kept.cut (m := μ) (q := κ) (s := x) ?_ fun hx => ?_; (on_goal 2 => clear_value x); (on_goal 1 => unfold x; clear x)) | clear_value x)
      | split | (fail_if_no_progress (apply kept_mk))

theorem State.readClaim_kept {s : State} {t : Nat} (hk : s.Kept μ κ) : (State.readClaim s t).2.Kept μ κ := by
  unfold State.readClaim
  repeat' with_reducible first
      | assumption | (rename_i e; have e2 := congrArg Prod.snd e; dsimp only at e2; subst e2) | apply State.setSrc_kept
      | apply State.bump_kept | apply foldl_kept | intro _
      | (extract_lets +onlyGivenNames x; first | (refine State.Kept.cut (m := μ) (q := κ) (s := x) ?_ fun hx => ?_; (on_goal 2 => clear_value x); (on_goal 1 => unfold x; clear x)) | (refine State.Kept.cut (m := μ) (q := κ) (s := x.2) ?_ fun hx => ?_; (on_goal 2 => clear_value x); (on_goal 1 => unfold x; clear x)) | clear_value x)
      | split | (fail_if_no_progress (apply kept_mk))

theorem State.readRecCapture_kept {s : State} (hk : s.Kept μ κ) : (State.readRecCapture s).2.Kept μ κ := by
  unfold State.readRecCapture
  repeat' with_reducible first
      | assumption
      | (extract_lets +onlyGivenNames x; first | (refine State.Kept.cut (m := μ) (q := κ) (s := x) ?_ fun hx => ?_; (on_goal 2 => clear_value x); (on_goal 1 => unfold x; clear x)) | clear_value x)
      | (fail_if_no_progress (apply kept_mk))

theorem State.unsent_kept {s : State} {t e : Nat} (hk : s.Kept μ κ) : (State.unsent s t e).Kept μ κ := by
  unfold State.unsent
  repeat' with_reducible first
      | assumption | apply State.setSrc_kept
      | (extract_lets +onlyGivenNames x; first | (refine State.Kept.cut (m := μ) (q := κ) (s := x) ?_ fun hx => ?_; (on_goal 2 => clear_value x); (on_goal 1 => unfold x; clear x)) | clear_value x)
      | split | (fail_if_no_progress (apply kept_mk))

theorem execCoalTimeout_kept {dt t b : Nat} {s : State} (hk : s.Kept μ κ) (t_objs : μ.objs = none := by assumption) :
    ResKept μ κ (execCoalTimeout dt t b s) := by
  unfold execCoalTimeout
  repeat' with_reducible first
      | assumption | apply resKept_next | apply State.elapse_kept | apply State.setReleased_kept
      | (extract_lets +onlyGivenNames x; first | (refine State.Kept.cut (m := μ) (q := κ) (s := x) ?_ fun hx => ?_; (on_goal 2 => clear_value x); (on_goal 1 => unfold x; clear x)) | clear_value x)
      | split

theorem execEventDelivery_kept {dt : Nat} {s : State} (hk : s.Kept μ κ) (t_mem : μ.mem = none := by assumption) (t_objs : μ.objs = none := by assumption) :
    ResKept μ κ (execEventDelivery dt s) := by
  unfold execEventDelivery
  repeat' with_reducible first
      | assumption | apply resKept_next | apply State.elapse_kept | apply State.deliver_kept
      | (extract_lets +onlyGivenNames x; first | (refine State.Kept.cut (m := μ) (q := κ) (s := x) ?_ fun hx => ?_; (on_goal 2 => clear_value x); (on_goal 1 => unfold x; clear x)) | clear_value x)
      | split

theorem execRecordWriteError_kept {dt t b : Nat} {s : State} (hk : s.Kept μ κ) (t_mem : μ.mem = none := by assumption) (t_objs : μ.objs = none := by assumption) :
    ResKept μ κ (execRecordWriteError dt t b s) := by
  unfold execRecordWriteError
  repeat' with_reducible first
      | assumption | (rename_i e; have e2 := congrArg Prod.snd e; dsimp only at e2; subst e2) | apply resKept_next | exact resKept_refused
      | exact resKept_fault | apply State.elapse_kept | apply State.setReg_kept | apply State.setBandRing_kept | apply State.freshBytes_kept
      | apply State.memWrite_kept | apply State.bump_kept | apply State.raise_kept | apply State.unsent_kept | apply foldl_kept
      | apply foldl_kept_snd | apply foldl_kept_mid | apply foldl_resKept | apply foldl_pairKept | apply foldl_slotKept | intro _
      | apply pairKept_none | apply pairKept_some | apply foldl_pairKept | exact PairKept.state (by assumption) | exact optKept_none
      | apply optKept_some
      | (extract_lets +onlyGivenNames x; first | (refine State.Kept.cut (m := μ) (q := κ) (s := x) ?_ fun hx => ?_; (on_goal 2 => clear_value x); (on_goal 1 => unfold x; clear x)) | (refine State.Kept.cut (m := μ) (q := κ) (s := x.2) ?_ fun hx => ?_; (on_goal 2 => clear_value x); (on_goal 1 => unfold x; clear x)) | (refine State.Kept.cut (m := μ) (q := κ) (s := x.2.2) ?_ fun hx => ?_; (on_goal 2 => clear_value x); (on_goal 1 => unfold x; clear x)) | (refine State.Kept.cut (m := μ) (q := κ) (s := x.1) ?_ fun hx => ?_; (on_goal 2 => clear_value x); (on_goal 1 => unfold x; clear x)) | (have _f : _ → _ := x; clear _f) | clear_value x | skip)
      | split | (fail_if_no_progress (apply kept_mk)) | (fail_if_no_progress (apply kept_eraseRegs))
      | (fail_if_no_progress (apply kept_eraseRings)) | (fail_if_no_progress (apply kept_setCtr)) | (dsimp -zeta +zetaDelta only)

end Sys2Proof.Machine
end

