-- ==== Sys2Proof/Laws/KeptCounters.lean ====
section
/-!
SUPPORT. What the operations of Machine/Counters.lean keep.
-/
set_option linter.unusedTactic false
set_option linter.unreachableTactic false
set_option linter.unusedVariables false
set_option linter.tactic.unusedName false
namespace Sys2Proof.Machine
variable {μ : Marks} {κ : List Instr}

theorem State.halfNext_kept {s : State} {q : Nat} (hk : s.Kept μ κ) : (State.halfNext s q).2.Kept μ κ := by
  unfold State.halfNext
  split
  · assumption
  · extract_lets old wrapped ctrs rowed cu
    have hc : SMap.Canon (fun _ => 0) ctrs := by
      unfold ctrs
      split
      · exact hk.canonCtrs
      · exact SMap.canon_set _ hk.canonCtrs rfl
    exact { hk with canonCtrs := hc }

theorem State.landSnap_kept {s : State} (hk : s.Kept μ κ) : (State.landSnap s).Kept μ κ := by
  unfold State.landSnap
  repeat' with_reducible first
      | assumption | apply foldl_kept | intro _
      | (extract_lets +onlyGivenNames x; first | (refine State.Kept.cut (m := μ) (q := κ) (s := x) ?_ fun hx => ?_; (on_goal 2 => clear_value x); (on_goal 1 => unfold x; clear x)) | (refine State.Kept.cut (m := μ) (q := κ) (s := x.2) ?_ fun hx => ?_; (on_goal 2 => clear_value x); (on_goal 1 => unfold x; clear x)) | clear_value x)
      | (fail_if_no_progress (apply kept_mk))

theorem State.losePortCtrs_kept {s : State} {c : Nat} (hk : s.Kept μ κ) : (State.losePortCtrs s c).Kept μ κ := by
  unfold State.losePortCtrs
  repeat' with_reducible first
      | assumption | apply State.clearCtrs_kept

theorem State.snapRelease_kept {s : State} (hk : s.Kept μ κ) : (State.snapRelease s).Kept μ κ := by
  unfold State.snapRelease
  repeat' with_reducible first
      | assumption
      | (extract_lets +onlyGivenNames x; first | (refine State.Kept.cut (m := μ) (q := κ) (s := x) ?_ fun hx => ?_; (on_goal 2 => clear_value x); (on_goal 1 => unfold x; clear x)) | clear_value x)
      | (fail_if_no_progress (apply kept_mk))

theorem execCounterHalfPresent_kept {dt idx sub row : Nat} {s : State} (hk : s.Kept μ κ) :
    ResKept μ κ (execCounterHalfPresent dt idx sub row s) := by
  unfold execCounterHalfPresent
  repeat' with_reducible first
      | assumption | apply resKept_next | apply State.elapse_kept | apply State.fifoGrew_kept
      | (extract_lets +onlyGivenNames x; first | (refine State.Kept.cut (m := μ) (q := κ) (s := x) ?_ fun hx => ?_; (on_goal 2 => clear_value x); (on_goal 1 => unfold x; clear x)) | clear_value x)
      | split | (fail_if_no_progress (apply kept_mk))

end Sys2Proof.Machine
end

