-- ==== Sys2Proof/Laws/KeptDoor.lean ====
section
/-!
SUPPORT. What the operations of Machine/Door.lean keep.
-/
set_option linter.unusedTactic false
set_option linter.unreachableTactic false
set_option linter.unusedVariables false
set_option linter.tactic.unusedName false
namespace Sys2Proof.Machine
variable {μ : Marks} {κ : List Instr}

theorem State.setDoorRow_kept {s : State} {c r : Nat} {w : DoorRow} (hk : s.Kept μ κ) (t_clusterRx : μ.clusterRx = none := by assumption) :
    (State.setDoorRow s c r w).Kept μ κ := by
  unfold State.setDoorRow
  repeat' with_reducible first
      | assumption | apply State.updClRx_kept | (fail_if_no_progress (apply kept_mk))

theorem State.doorClear_kept {s : State} {c r : Nat} (hk : s.Kept μ κ) (t_clusterRx : μ.clusterRx = none := by assumption) :
    (State.doorClear s c r).Kept μ κ := by
  unfold State.doorClear
  repeat' with_reducible first
      | assumption | apply State.setDoorRow_kept
      | (extract_lets +onlyGivenNames x; first | (refine State.Kept.cut (m := μ) (q := κ) (s := x) ?_ fun hx => ?_; (on_goal 2 => clear_value x); (on_goal 1 => unfold x; clear x)) | clear_value x)
      | (fail_if_no_progress (apply kept_mk))

theorem State.updDoor_kept {s : State} {c : Nat} {f : DoorUnit → DoorUnit} (hk : s.Kept μ κ) (t_clusterRx : μ.clusterRx = none := by assumption) :
    (State.updDoor s c f).Kept μ κ := by
  unfold State.updDoor
  repeat' with_reducible first
      | assumption | apply State.updClRx_kept | (fail_if_no_progress (apply kept_mk))

theorem State.doorSchedule_kept {s : State} {c : Nat} (hk : s.Kept μ κ) (t_clusterRx : μ.clusterRx = none := by assumption) :
    (State.doorSchedule s c).Kept μ κ := by
  unfold State.doorSchedule
  repeat' with_reducible first
      | assumption | apply State.updDoor_kept
      | (extract_lets +onlyGivenNames x; first | (refine State.Kept.cut (m := μ) (q := κ) (s := x) ?_ fun hx => ?_; (on_goal 2 => clear_value x); (on_goal 1 => unfold x; clear x)) | clear_value x)
      | split | (fail_if_no_progress (apply kept_mk))

theorem State.doorCold_kept {s : State} {c : Nat} (hk : s.Kept μ κ) (t_clusterRx : μ.clusterRx = none := by assumption) :
    (State.doorCold s c).Kept μ κ := by
  unfold State.doorCold
  repeat' with_reducible first
      | assumption | apply State.doorSchedule_kept | apply State.updDoor_kept | (fail_if_no_progress (apply kept_mk))

theorem State.parityErr_kept {s : State} {c r : Nat} (hk : s.Kept μ κ) (t_clusterRx : μ.clusterRx = none := by assumption) (t_twin : μ.twin = none := by assumption) :
    (State.parityErr s c r).Kept μ κ := by
  unfold State.parityErr
  repeat' with_reducible first
      | assumption | apply State.updDoor_kept | apply State.raiseOnce_kept | apply State.bump_kept
      | (extract_lets +onlyGivenNames x; first | (refine State.Kept.cut (m := μ) (q := κ) (s := x) ?_ fun hx => ?_; (on_goal 2 => clear_value x); (on_goal 1 => unfold x; clear x)) | clear_value x)
      | split | (fail_if_no_progress (apply kept_mk))

theorem State.doorLookup_kept {s : State} {c mac vid : Nat} {kinds : List Nat} (hk : s.Kept μ κ) (t_clusterRx : μ.clusterRx = none := by assumption) (t_twin : μ.twin = none := by assumption) :
    (State.doorLookup s c mac vid kinds).2.Kept μ κ := by
  unfold State.doorLookup
  repeat' with_reducible first
      | assumption | apply State.parityErr_kept | apply foldl_kept | intro _
      | (extract_lets +onlyGivenNames x; first | (refine State.Kept.cut (m := μ) (q := κ) (s := x) ?_ fun hx => ?_; (on_goal 2 => clear_value x); (on_goal 1 => unfold x; clear x)) | clear_value x)

theorem State.doorDest_kept {s : State} {p vid da : Nat} {out : DoorOut} (hk : s.Kept μ κ) (t_clusterRx : μ.clusterRx = none := by assumption) (t_twin : μ.twin = none := by assumption) :
    (State.doorDest s p vid da out).2.Kept μ κ := by
  unfold State.doorDest
  repeat' with_reducible first
      | assumption | apply State.doorLookup_kept | apply State.bumpPort_kept
      | (extract_lets +onlyGivenNames x; first | (refine State.Kept.cut (m := μ) (q := κ) (s := x) ?_ fun hx => ?_; (on_goal 2 => clear_value x); (on_goal 1 => unfold x; clear x)) | (refine State.Kept.cut (m := μ) (q := κ) (s := x.2) ?_ fun hx => ?_; (on_goal 2 => clear_value x); (on_goal 1 => unfold x; clear x)) | clear_value x)
      | split | (fail_if_no_progress (apply kept_mk))

theorem State.doorPunt_kept {s : State} {p source : Nat} (hk : s.Kept μ κ) : (State.doorPunt s p source).2.Kept μ κ := by
  unfold State.doorPunt
  repeat' with_reducible first
      | assumption | apply State.bumpPort_kept
      | (extract_lets +onlyGivenNames x; first | (refine State.Kept.cut (m := μ) (q := κ) (s := x) ?_ fun hx => ?_; (on_goal 2 => clear_value x); (on_goal 1 => unfold x; clear x)) | clear_value x)
      | split | (fail_if_no_progress (apply kept_mk))

theorem State.doorDecide_kept {s : State} {p sa da fvid : Nat} (hk : s.Kept μ κ) (t_clusterRx : μ.clusterRx = none := by assumption) (t_twin : μ.twin = none := by assumption) :
    (State.doorDecide s p sa da fvid).2.Kept μ κ := by
  unfold State.doorDecide
  repeat' with_reducible first
      | assumption | apply State.bumpPort_kept | apply State.doorLookup_kept | apply State.raiseOnce_kept | apply State.doorDest_kept
      | apply State.doorPunt_kept | intro _
      | (extract_lets +onlyGivenNames x; first | (refine State.Kept.cut (m := μ) (q := κ) (s := x) ?_ fun hx => ?_; (on_goal 2 => clear_value x); (on_goal 1 => unfold x; clear x)) | (refine State.Kept.cut (m := μ) (q := κ) (s := x.2) ?_ fun hx => ?_; (on_goal 2 => clear_value x); (on_goal 1 => unfold x; clear x)) | (have _f : _ → _ := x; clear _f) | clear_value x | skip)
      | split | (fail_if_no_progress (apply kept_mk)) | (dsimp -zeta +zetaDelta only)

theorem State.occAlert_kept {s : State} {c old : Nat} (hk : s.Kept μ κ) : (State.occAlert s c old).Kept μ κ := by
  unfold State.occAlert
  repeat' with_reducible first
      | assumption | apply State.raise_kept
      | (extract_lets +onlyGivenNames x; first | (refine State.Kept.cut (m := μ) (q := κ) (s := x) ?_ fun hx => ?_; (on_goal 2 => clear_value x); (on_goal 1 => unfold x; clear x)) | clear_value x)
      | split

theorem State.doorWrite_kept {s : State} {c r : Nat} {e : DoorEntry} (hk : s.Kept μ κ) (t_clusterRx : μ.clusterRx = none := by assumption) :
    (State.doorWrite s c r e).Kept μ κ := by
  unfold State.doorWrite
  repeat' with_reducible first
      | assumption | apply State.occAlert_kept | apply State.setDoorRow_kept
      | (extract_lets +onlyGivenNames x; first | (refine State.Kept.cut (m := μ) (q := κ) (s := x) ?_ fun hx => ?_; (on_goal 2 => clear_value x); (on_goal 1 => unfold x; clear x)) | clear_value x)
      | (fail_if_no_progress (apply kept_mk))

theorem State.doorMove_kept {s : State} {c from_ to_ : Nat} (hk : s.Kept μ κ) (t_clusterRx : μ.clusterRx = none := by assumption) :
    (State.doorMove s c from_ to_).Kept μ κ := by
  unfold State.doorMove
  repeat' with_reducible first
      | assumption | apply State.bump_kept | apply State.doorClear_kept | apply State.setDoorRow_kept | split
      | (fail_if_no_progress (apply kept_mk))

theorem State.doorInsert_kept {s : State} {c : Nat} {e : DoorEntry} (hk : s.Kept μ κ) (t_clusterRx : μ.clusterRx = none := by assumption) (t_twin : μ.twin = none := by assumption) :
    (State.doorInsert s c e).2.Kept μ κ := by
  unfold State.doorInsert
  repeat' with_reducible first
      | assumption | apply State.doorWrite_kept | apply State.doorMove_kept | apply State.raiseOnce_kept | apply State.bump_kept
      | (extract_lets +onlyGivenNames x; first | (refine State.Kept.cut (m := μ) (q := κ) (s := x) ?_ fun hx => ?_; (on_goal 2 => clear_value x); (on_goal 1 => unfold x; clear x)) | (refine State.Kept.cut (m := μ) (q := κ) (s := x.2) ?_ fun hx => ?_; (on_goal 2 => clear_value x); (on_goal 1 => unfold x; clear x)) | clear_value x)
      | split

theorem State.queueLearn_kept {s : State} {c : Nat} {q : LearnReq} (hk : s.Kept μ κ) (t_clusterRx : μ.clusterRx = none := by assumption) :
    (State.queueLearn s c q).Kept μ κ := by
  unfold State.queueLearn
  repeat' with_reducible first
      | assumption | apply State.bump_kept | apply State.updDoor_kept
      | (extract_lets +onlyGivenNames x; first | (refine State.Kept.cut (m := μ) (q := κ) (s := x) ?_ fun hx => ?_; (on_goal 2 => clear_value x); (on_goal 1 => unfold x; clear x)) | clear_value x)
      | split | (fail_if_no_progress (apply kept_mk))

theorem State.doorLearn_kept {s : State} {p sa fvid : Nat} {seen : DoorSeen} (hk : s.Kept μ κ) (t_clusterRx : μ.clusterRx = none := by assumption) :
    (State.doorLearn s p sa fvid seen).Kept μ κ := by
  unfold State.doorLearn
  repeat' with_reducible first
      | assumption | apply State.queueLearn_kept | apply State.setDoorRow_kept | apply State.bumpPort_kept
      | (extract_lets +onlyGivenNames x; first | (refine State.Kept.cut (m := μ) (q := κ) (s := x) ?_ fun hx => ?_; (on_goal 2 => clear_value x); (on_goal 1 => unfold x; clear x)) | clear_value x)
      | split | (fail_if_no_progress (apply kept_mk))

theorem State.doorLost_kept {s : State} {c : Nat} (hk : s.Kept μ κ) (t_clusterRx : μ.clusterRx = none := by assumption) :
    (State.doorLost s c).Kept μ κ := by
  unfold State.doorLost
  repeat' with_reducible first
      | assumption | apply State.doorSchedule_kept | apply State.updDoor_kept | (fail_if_no_progress (apply kept_mk))

theorem State.doorRemove_kept {s : State} {c : Nat} {hit : DoorEntry → Bool} (hk : s.Kept μ κ) (t_clusterRx : μ.clusterRx = none := by assumption) :
    (State.doorRemove s c hit).Kept μ κ := by
  unfold State.doorRemove
  repeat' with_reducible first
      | assumption | apply State.doorClear_kept | apply foldl_kept | intro _
      | (extract_lets +onlyGivenNames x; first | (refine State.Kept.cut (m := μ) (q := κ) (s := x) ?_ fun hx => ?_; (on_goal 2 => clear_value x); (on_goal 1 => unfold x; clear x)) | (refine State.Kept.cut (m := μ) (q := κ) (s := x.2) ?_ fun hx => ?_; (on_goal 2 => clear_value x); (on_goal 1 => unfold x; clear x)) | clear_value x)
      | split

theorem State.doorReset_kept {s : State} {c : Nat} {cluster : Bool} (hk : s.Kept μ κ) (t_clusterRx : μ.clusterRx = none := by assumption) :
    (State.doorReset s c cluster).Kept μ κ := by
  unfold State.doorReset
  repeat' with_reducible first
      | assumption | apply State.updDoor_kept | apply State.doorRemove_kept
      | (extract_lets +onlyGivenNames x; first | (refine State.Kept.cut (m := μ) (q := κ) (s := x) ?_ fun hx => ?_; (on_goal 2 => clear_value x); (on_goal 1 => unfold x; clear x)) | clear_value x)
      | split | (fail_if_no_progress (apply kept_mk))

theorem State.doorUpset_kept {s : State} {c : Nat} {ups : List Upset} (hk : s.Kept μ κ) (t_clusterRx : μ.clusterRx = none := by assumption) :
    (State.doorUpset s c ups).Kept μ κ := by
  unfold State.doorUpset
  repeat' with_reducible first
      | assumption | apply State.setDoorRow_kept | apply foldl_kept | intro _
      | (extract_lets +onlyGivenNames x; first | (refine State.Kept.cut (m := μ) (q := κ) (s := x) ?_ fun hx => ?_; (on_goal 2 => clear_value x); (on_goal 1 => unfold x; clear x)) | clear_value x)
      | split | (fail_if_no_progress (apply kept_mk))

theorem State.flushOnDown_kept {s : State} {p : Nat} (hk : s.Kept μ κ) (t_clusterRx : μ.clusterRx = none := by assumption) :
    (State.flushOnDown s p).Kept μ κ := by
  unfold State.flushOnDown
  repeat' with_reducible first
      | assumption | apply State.updDoor_kept | split | (fail_if_no_progress (apply kept_mk))

theorem State.landAgeInterval_kept {s : State} {c : Nat} {v : Word} (hk : s.Kept μ κ) (t_clusterRx : μ.clusterRx = none := by assumption) (t_objs : μ.objs = none := by assumption) :
    (State.landAgeInterval s c v).Kept μ κ := by
  unfold State.landAgeInterval
  repeat' with_reducible first
      | assumption | apply State.setReg_kept | apply State.updDoor_kept
      | (extract_lets +onlyGivenNames x; first | (refine State.Kept.cut (m := μ) (q := κ) (s := x) ?_ fun hx => ?_; (on_goal 2 => clear_value x); (on_goal 1 => unfold x; clear x)) | clear_value x)
      | split | (fail_if_no_progress (apply kept_mk))

theorem State.landDoor_kept {s : State} {c : Nat} {img : List Word} (hk : s.Kept μ κ) (t_clusterRx : μ.clusterRx = none := by assumption) (t_twin : μ.twin = none := by assumption) :
    (State.landDoor s c img).2.Kept μ κ := by
  unfold State.landDoor
  repeat' with_reducible first
      | assumption | apply State.doorClear_kept | apply State.doorInsert_kept
      | (extract_lets +onlyGivenNames x; first | (refine State.Kept.cut (m := μ) (q := κ) (s := x) ?_ fun hx => ?_; (on_goal 2 => clear_value x); (on_goal 1 => unfold x; clear x)) | (refine State.Kept.cut (m := μ) (q := κ) (s := x.2) ?_ fun hx => ?_; (on_goal 2 => clear_value x); (on_goal 1 => unfold x; clear x)) | clear_value x)
      | split | (fail_if_no_progress (apply kept_mk))

theorem State.landFlush_kept {s : State} {c : Nat} (hk : s.Kept μ κ) (t_clusterRx : μ.clusterRx = none := by assumption) :
    (State.landFlush s c).Kept μ κ := by
  unfold State.landFlush
  repeat' with_reducible first
      | assumption | apply State.updDoor_kept | apply State.doorRemove_kept
      | (extract_lets +onlyGivenNames x; first | (refine State.Kept.cut (m := μ) (q := κ) (s := x) ?_ fun hx => ?_; (on_goal 2 => clear_value x); (on_goal 1 => unfold x; clear x)) | clear_value x)
      | (fail_if_no_progress (apply kept_mk))

theorem State.landSalt_kept {s : State} {c : Nat} {v : Word} (hk : s.Kept μ κ) (t_clusterRx : μ.clusterRx = none := by assumption) (t_objs : μ.objs = none := by assumption) :
    (State.landSalt s c v).Kept μ κ := by
  unfold State.landSalt
  repeat' with_reducible first
      | assumption | apply State.updDoor_kept | apply State.setReg_kept | (fail_if_no_progress (apply kept_mk))

theorem State.nextSweep_kept {s : State} {c : Nat} {t : Word} (hk : s.Kept μ κ) (t_clusterRx : μ.clusterRx = none := by assumption) :
    (State.nextSweep s c t).Kept μ κ := by
  unfold State.nextSweep
  repeat' with_reducible first
      | assumption | apply State.updDoor_kept
      | (extract_lets +onlyGivenNames x; first | (refine State.Kept.cut (m := μ) (q := κ) (s := x) ?_ fun hx => ?_; (on_goal 2 => clear_value x); (on_goal 1 => unfold x; clear x)) | clear_value x)
      | split | (fail_if_no_progress (apply kept_mk))

theorem State.readParityCapture_kept {s : State} {c : Nat} (hk : s.Kept μ κ) (t_clusterRx : μ.clusterRx = none := by assumption) :
    (State.readParityCapture s c).2.Kept μ κ := by
  unfold State.readParityCapture
  repeat' with_reducible first
      | assumption | apply State.updDoor_kept | (fail_if_no_progress (apply kept_mk))

theorem State.sweepRow_kept {s : State} {c r : Nat} (hk : s.Kept μ κ) (t_clusterRx : μ.clusterRx = none := by assumption) (t_twin : μ.twin = none := by assumption) :
    (State.sweepRow s c r).Kept μ κ := by
  unfold State.sweepRow
  repeat' with_reducible first
      | assumption | apply State.setDoorRow_kept | apply State.parityErr_kept | apply State.bump_kept | apply State.doorClear_kept
      | (extract_lets +onlyGivenNames x; first | (refine State.Kept.cut (m := μ) (q := κ) (s := x) ?_ fun hx => ?_; (on_goal 2 => clear_value x); (on_goal 1 => unfold x; clear x)) | clear_value x)
      | split | (fail_if_no_progress (apply kept_mk))

theorem State.sweep_kept {s : State} {c from_ to_ : Nat} (hk : s.Kept μ κ) (t_clusterRx : μ.clusterRx = none := by assumption) (t_twin : μ.twin = none := by assumption) :
    (State.sweep s c from_ to_).Kept μ κ := by
  unfold State.sweep
  repeat' with_reducible first
      | assumption | apply State.sweepRow_kept | apply foldl_kept | intro _

theorem State.sweepPause_kept {s : State} {c : Nat} (hk : s.Kept μ κ) (t_clusterRx : μ.clusterRx = none := by assumption) (t_twin : μ.twin = none := by assumption) :
    (State.sweepPause s c).Kept μ κ := by
  unfold State.sweepPause
  repeat' with_reducible first
      | assumption | apply State.updDoor_kept | apply State.sweep_kept | apply State.nextSweep_kept
      | (extract_lets +onlyGivenNames x; first | (refine State.Kept.cut (m := μ) (q := κ) (s := x) ?_ fun hx => ?_; (on_goal 2 => clear_value x); (on_goal 1 => unfold x; clear x)) | clear_value x)
      | split | (fail_if_no_progress (apply kept_mk))

theorem State.sweepResume_kept {s : State} {c : Nat} (hk : s.Kept μ κ) (t_clusterRx : μ.clusterRx = none := by assumption) :
    (State.sweepResume s c).Kept μ κ := by
  unfold State.sweepResume
  repeat' with_reducible first
      | assumption | apply State.updDoor_kept
      | (extract_lets +onlyGivenNames x; first | (refine State.Kept.cut (m := μ) (q := κ) (s := x) ?_ fun hx => ?_; (on_goal 2 => clear_value x); (on_goal 1 => unfold x; clear x)) | clear_value x)
      | split | (fail_if_no_progress (apply kept_mk))

theorem agePassRes_kept {dt c : Nat} {upsets : List Upset} {s : State} (hk : s.Kept μ κ) (t_clusterRx : μ.clusterRx = none := by assumption) (t_twin : μ.twin = none := by assumption) :
    ResKept μ κ (agePassRes dt c upsets s) := by
  unfold agePassRes
  repeat' with_reducible first
      | assumption | (rename_i e; have e2 := congrArg Prod.snd e; dsimp only at e2; subst e2) | apply resKept_next | apply State.elapse_kept
      | apply State.updDoor_kept | apply State.sweep_kept | apply State.doorUpset_kept | apply State.nextSweep_kept
      | (extract_lets +onlyGivenNames x; first | (refine State.Kept.cut (m := μ) (q := κ) (s := x) ?_ fun hx => ?_; (on_goal 2 => clear_value x); (on_goal 1 => unfold x; clear x)) | clear_value x)
      | split | (fail_if_no_progress (apply kept_mk))

theorem execFlushDone_kept {dt c : Nat} {s : State} (hk : s.Kept μ κ) (t_clusterRx : μ.clusterRx = none := by assumption) :
    ResKept μ κ (execFlushDone dt c s) := by
  unfold execFlushDone
  repeat' with_reducible first
      | assumption | apply resKept_next | apply State.elapse_kept | apply State.raise_kept | apply State.updDoor_kept
      | (extract_lets +onlyGivenNames x; first | (refine State.Kept.cut (m := μ) (q := κ) (s := x) ?_ fun hx => ?_; (on_goal 2 => clear_value x); (on_goal 1 => unfold x; clear x)) | clear_value x)
      | split | (fail_if_no_progress (apply kept_mk))

theorem execFlushOnDown_kept {dt p : Nat} {s : State} (hk : s.Kept μ κ) (t_clusterRx : μ.clusterRx = none := by assumption) :
    ResKept μ κ (execFlushOnDown dt p s) := by
  unfold execFlushOnDown
  repeat' with_reducible first
      | assumption | apply resKept_next | apply State.elapse_kept | apply State.updDoor_kept | apply State.doorRemove_kept
      | (extract_lets +onlyGivenNames x; first | (refine State.Kept.cut (m := μ) (q := κ) (s := x) ?_ fun hx => ?_; (on_goal 2 => clear_value x); (on_goal 1 => unfold x; clear x)) | clear_value x)
      | split | (fail_if_no_progress (apply kept_mk))

theorem execLearnInsert_kept {dt c : Nat} {s : State} (hk : s.Kept μ κ) (t_clusterRx : μ.clusterRx = none := by assumption) (t_twin : μ.twin = none := by assumption) :
    ResKept μ κ (execLearnInsert dt c s) := by
  unfold execLearnInsert
  repeat' with_reducible first
      | assumption | apply resKept_next | apply State.elapse_kept | apply State.updDoor_kept | apply State.doorInsert_kept
      | apply State.bump_kept | apply State.doorWrite_kept
      | (extract_lets +onlyGivenNames x; first | (refine State.Kept.cut (m := μ) (q := κ) (s := x) ?_ fun hx => ?_; (on_goal 2 => clear_value x); (on_goal 1 => unfold x; clear x)) | (refine State.Kept.cut (m := μ) (q := κ) (s := x.2) ?_ fun hx => ?_; (on_goal 2 => clear_value x); (on_goal 1 => unfold x; clear x)) | clear_value x)
      | split | (fail_if_no_progress (apply kept_mk))

theorem execStationMove_kept {dt c : Nat} {s : State} (hk : s.Kept μ κ) (t_clusterRx : μ.clusterRx = none := by assumption) :
    ResKept μ κ (execStationMove dt c s) := by
  unfold execStationMove
  repeat' with_reducible first
      | assumption | apply resKept_next | apply State.elapse_kept | apply State.updDoor_kept | apply State.bump_kept
      | apply State.doorWrite_kept
      | (extract_lets +onlyGivenNames x; first | (refine State.Kept.cut (m := μ) (q := κ) (s := x) ?_ fun hx => ?_; (on_goal 2 => clear_value x); (on_goal 1 => unfold x; clear x)) | clear_value x)
      | split | (fail_if_no_progress (apply kept_mk))

end Sys2Proof.Machine
end

