-- ==== Sys2Proof/Laws/KeptInband.lean ====
section
/-!
SUPPORT. What the operations of Machine/Inband.lean keep.
-/
set_option linter.unusedTactic false
set_option linter.unreachableTactic false
set_option linter.unusedVariables false
set_option linter.tactic.unusedName false
namespace Sys2Proof.Machine
variable {μ : Marks} {κ : List Instr}

theorem State.inbandRequest_kept {s : State} {body : Bytes} (hk : s.Kept μ κ) (t_dict : μ.dict = none := by assumption) :
    (State.inbandRequest s body).Kept μ κ := by
  unfold State.inbandRequest
  repeat' with_reducible first
      | assumption | apply State.raise_kept | apply State.bump_kept | intro _
      | (extract_lets +onlyGivenNames x; first | (refine State.Kept.cut (m := μ) (q := κ) (s := x) ?_ fun hx => ?_; (on_goal 2 => clear_value x); (on_goal 1 => unfold x; clear x)) | (refine State.Kept.cut (m := μ) (q := κ) (s := x.2) ?_ fun hx => ?_; (on_goal 2 => clear_value x); (on_goal 1 => unfold x; clear x)) | (have _f : _ → _ := x; clear _f) | clear_value x | skip)
      | split | apply kept_dict | (fail_if_no_progress (apply kept_mk)) | (dsimp -zeta +zetaDelta only)

end Sys2Proof.Machine
end

