-- ==== Sys2Proof/Laws/KeptSched.lean ====
section
/-!
SUPPORT. What the operations of Machine/Sched.lean keep.
-/
set_option linter.unusedTactic false
set_option linter.unreachableTactic false
set_option linter.unusedVariables false
set_option linter.tactic.unusedName false
namespace Sys2Proof.Machine
variable {μ : Marks} {κ : List Instr}

theorem State.chargeTags_kept {s : State} {c parent child cLen : Nat} (hk : s.Kept μ κ) (t_clusterTx : μ.clusterTx = none := by assumption) :
    (State.chargeTags s c parent child cLen).Kept μ κ := by
  unfold State.chargeTags
  repeat' with_reducible first
      | assumption | apply State.setSch_kept
      | (extract_lets +onlyGivenNames x; first | (refine State.Kept.cut (m := μ) (q := κ) (s := x) ?_ fun hx => ?_; (on_goal 2 => clear_value x); (on_goal 1 => unfold x; clear x)) | clear_value x)
      | (fail_if_no_progress (apply kept_mk))

theorem State.refillRow_kept {s : State} {c k : Nat} (hk : s.Kept μ κ) (t_clusterTx : μ.clusterTx = none := by assumption) :
    (State.refillRow s c k).Kept μ κ := by
  unfold State.refillRow
  repeat' with_reducible first
      | assumption | apply State.setSch_kept
      | (extract_lets +onlyGivenNames x; first | (refine State.Kept.cut (m := μ) (q := κ) (s := x) ?_ fun hx => ?_; (on_goal 2 => clear_value x); (on_goal 1 => unfold x; clear x)) | clear_value x)
      | split | (fail_if_no_progress (apply kept_mk))

theorem State.placeRow_kept {s : State} {c k : Nat} {t : Word} (hk : s.Kept μ κ) (t_clusterTx : μ.clusterTx = none := by assumption) :
    (State.placeRow s c k t).Kept μ κ := by
  unfold State.placeRow
  repeat' with_reducible first
      | assumption | apply State.setSch_kept | apply State.bump_kept
      | (extract_lets +onlyGivenNames x; first | (refine State.Kept.cut (m := μ) (q := κ) (s := x) ?_ fun hx => ?_; (on_goal 2 => clear_value x); (on_goal 1 => unfold x; clear x)) | (refine State.Kept.cut (m := μ) (q := κ) (s := x.2) ?_ fun hx => ?_; (on_goal 2 => clear_value x); (on_goal 1 => unfold x; clear x)) | clear_value x)
      | split | (fail_if_no_progress (apply kept_mk))

theorem State.settleClass_kept {s : State} {c l n : Nat} (hk : s.Kept μ κ) (t_clusterTx : μ.clusterTx = none := by assumption) :
    (State.settleClass s c l n).Kept μ κ := by
  unfold State.settleClass
  repeat' with_reducible first
      | assumption | apply State.setSch_kept
      | (extract_lets +onlyGivenNames x; first | (refine State.Kept.cut (m := μ) (q := κ) (s := x) ?_ fun hx => ?_; (on_goal 2 => clear_value x); (on_goal 1 => unfold x; clear x)) | clear_value x)
      | split | (fail_if_no_progress (apply kept_mk))

theorem State.settleNode_kept {s : State} {c k : Nat} (hk : s.Kept μ κ) (t_clusterTx : μ.clusterTx = none := by assumption) :
    (State.settleNode s c k).Kept μ κ := by
  unfold State.settleNode
  repeat' with_reducible first
      | assumption | apply State.setSch_kept | apply State.settleClass_kept
      | (extract_lets +onlyGivenNames x; first | (refine State.Kept.cut (m := μ) (q := κ) (s := x) ?_ fun hx => ?_; (on_goal 2 => clear_value x); (on_goal 1 => unfold x; clear x)) | clear_value x)
      | split | (fail_if_no_progress (apply kept_mk))

theorem State.settleParent_kept {s : State} {c par : Nat} (hk : s.Kept μ κ) (t_clusterTx : μ.clusterTx = none := by assumption) :
    (State.settleParent s c par).Kept μ κ := by
  unfold State.settleParent
  repeat' with_reducible first
      | assumption | apply State.settleNode_kept | apply State.settleClass_kept | split

theorem State.settleLeaf_kept {s : State} {c k : Nat} (hk : s.Kept μ κ) (t_clusterTx : μ.clusterTx = none := by assumption) :
    (State.settleLeaf s c k).Kept μ κ := by
  unfold State.settleLeaf
  repeat' with_reducible first
      | assumption | apply State.setSch_kept | apply State.settleParent_kept
      | (extract_lets +onlyGivenNames x; first | (refine State.Kept.cut (m := μ) (q := κ) (s := x) ?_ fun hx => ?_; (on_goal 2 => clear_value x); (on_goal 1 => unfold x; clear x)) | clear_value x)
      | split | (fail_if_no_progress (apply kept_mk))

theorem State.settleRow_kept {s : State} {c k : Nat} (hk : s.Kept μ κ) (t_clusterTx : μ.clusterTx = none := by assumption) :
    (State.settleRow s c k).Kept μ κ := by
  unfold State.settleRow
  repeat' with_reducible first
      | assumption | apply State.settleLeaf_kept | apply State.settleNode_kept | split

theorem State.setGroup_kept {s : State} {c k : Nat} (hk : s.Kept μ κ) (t_clusterTx : μ.clusterTx = none := by assumption) :
    (State.setGroup s c k).Kept μ κ := by
  unfold State.setGroup
  repeat' with_reducible first
      | assumption | apply State.setSch_kept | apply State.placeRow_kept | apply State.settleRow_kept
      | (extract_lets +onlyGivenNames x; first | (refine State.Kept.cut (m := μ) (q := κ) (s := x) ?_ fun hx => ?_; (on_goal 2 => clear_value x); (on_goal 1 => unfold x; clear x)) | (refine State.Kept.cut (m := μ) (q := κ) (s := x.2) ?_ fun hx => ?_; (on_goal 2 => clear_value x); (on_goal 1 => unfold x; clear x)) | clear_value x)
      | split | (fail_if_no_progress (apply kept_mk))

theorem State.debitRow_kept {s : State} {c k cLen : Nat} (hk : s.Kept μ κ) (t_clusterTx : μ.clusterTx = none := by assumption) :
    (State.debitRow s c k cLen).Kept μ κ := by
  unfold State.debitRow
  repeat' with_reducible first
      | assumption | apply State.refillRow_kept | apply State.setSch_kept | apply State.setGroup_kept
      | (extract_lets +onlyGivenNames x; first | (refine State.Kept.cut (m := μ) (q := κ) (s := x) ?_ fun hx => ?_; (on_goal 2 => clear_value x); (on_goal 1 => unfold x; clear x)) | clear_value x)
      | split | (fail_if_no_progress (apply kept_mk))

theorem State.chargeGrant_kept {s : State} {c l n leaf cLen : Nat} (hk : s.Kept μ κ) (t_clusterTx : μ.clusterTx = none := by assumption) :
    (State.chargeGrant s c l n leaf cLen).Kept μ κ := by
  unfold State.chargeGrant
  repeat' with_reducible first
      | assumption | apply State.chargeTags_kept | apply State.setSch_kept | apply State.debitRow_kept | apply State.bumpRow_kept
      | apply State.bump_kept
      | (extract_lets +onlyGivenNames x; first | (refine State.Kept.cut (m := μ) (q := κ) (s := x) ?_ fun hx => ?_; (on_goal 2 => clear_value x); (on_goal 1 => unfold x; clear x)) | clear_value x)
      | split | (fail_if_no_progress (apply kept_mk))

theorem State.dropRow_kept {s : State} {c k par : Nat} (hk : s.Kept μ κ) (t_clusterTx : μ.clusterTx = none := by assumption) :
    (State.dropRow s c k par).Kept μ κ := by
  unfold State.dropRow
  repeat' with_reducible first
      | assumption | apply State.setSch_kept | apply State.settleParent_kept
      | (extract_lets +onlyGivenNames x; first | (refine State.Kept.cut (m := μ) (q := κ) (s := x) ?_ fun hx => ?_; (on_goal 2 => clear_value x); (on_goal 1 => unfold x; clear x)) | clear_value x)
      | (fail_if_no_progress (apply kept_mk))

theorem State.refillAndGroup_kept {s : State} {c k : Nat} (hk : s.Kept μ κ) (t_clusterTx : μ.clusterTx = none := by assumption) :
    (State.refillAndGroup s c k).Kept μ κ := by
  unfold State.refillAndGroup
  repeat' with_reducible first
      | assumption | apply State.setGroup_kept | apply State.refillRow_kept

theorem State.landReturn_kept {s : State} {c t row : Nat} (hk : s.Kept μ κ) (t_clusterTx : μ.clusterTx = none := by assumption) :
    (State.landReturn s c t row).Kept μ κ := by
  unfold State.landReturn
  repeat' with_reducible first
      | assumption | apply State.refillAndGroup_kept

theorem State.settlePort_kept {s : State} {p : Nat} (hk : s.Kept μ κ) (t_clusterTx : μ.clusterTx = none := by assumption) :
    (State.settlePort s p).Kept μ κ := by
  unfold State.settlePort
  repeat' with_reducible first
      | assumption | apply State.settleClass_kept | apply foldl_kept | intro _

theorem State.landSched_kept {s : State} {c t row : Nat} {img : List Word} (hk : s.Kept μ κ) (t_rows : μ.rows = none := by assumption) (t_clusterTx : μ.clusterTx = none := by assumption) :
    (State.landSched s c t row img).Kept μ κ := by
  unfold State.landSched
  repeat' with_reducible first
      | assumption | apply State.rowSet_kept | apply State.setSch_kept | apply State.settlePort_kept | apply State.dropRow_kept
      | apply State.settleParent_kept | apply State.settleRow_kept | apply foldl_kept | intro _
      | (extract_lets +onlyGivenNames x; first | (refine State.Kept.cut (m := μ) (q := κ) (s := x) ?_ fun hx => ?_; (on_goal 2 => clear_value x); (on_goal 1 => unfold x; clear x)) | clear_value x)
      | split | (fail_if_no_progress (apply kept_mk))

theorem State.notice_kept {s : State} {c leaf : Nat} {len : Option Nat} (hk : s.Kept μ κ) (t_clusterTx : μ.clusterTx = none := by assumption) (t_twin : μ.twin = none := by assumption) :
    (State.notice s c leaf len).Kept μ κ := by
  unfold State.notice
  repeat' with_reducible first
      | assumption | apply State.setSch_kept | apply State.raiseOnce_kept | apply State.bump_kept | apply State.settleLeaf_kept
      | (extract_lets +onlyGivenNames x; first | (refine State.Kept.cut (m := μ) (q := κ) (s := x) ?_ fun hx => ?_; (on_goal 2 => clear_value x); (on_goal 1 => unfold x; clear x)) | clear_value x)
      | split | (fail_if_no_progress (apply kept_mk))

theorem State.readMaxLate_kept {s : State} {c : Nat} (hk : s.Kept μ κ) (t_clusterTx : μ.clusterTx = none := by assumption) :
    (State.readMaxLate s c).2.Kept μ κ := by
  unfold State.readMaxLate
  repeat' with_reducible first
      | assumption | apply State.updClTx_kept | (fail_if_no_progress (apply kept_mk))

theorem State.readSchedCapture_kept {s : State} {c : Nat} (hk : s.Kept μ κ) (t_clusterTx : μ.clusterTx = none := by assumption) :
    (State.readSchedCapture s c).2.Kept μ κ := by
  unfold State.readSchedCapture
  repeat' with_reducible first
      | assumption | apply State.updClTx_kept | (fail_if_no_progress (apply kept_mk))

theorem State.schedCold_kept {s : State} {c : Nat} (hk : s.Kept μ κ) (t_rows : μ.rows = none := by assumption) (t_clusterTx : μ.clusterTx = none := by assumption) :
    (State.schedCold s c).Kept μ κ := by
  unfold State.schedCold
  repeat' with_reducible first
      | assumption | apply State.clearTable_kept | apply State.updClTx_kept
      | (extract_lets +onlyGivenNames x; first | (refine State.Kept.cut (m := μ) (q := κ) (s := x) ?_ fun hx => ?_; (on_goal 2 => clear_value x); (on_goal 1 => unfold x; clear x)) | clear_value x)
      | (fail_if_no_progress (apply kept_mk))

theorem State.schedEcc_kept {s : State} {c t row : Nat} (hk : s.Kept μ κ) (t_rows : μ.rows = none := by assumption) (t_clusterTx : μ.clusterTx = none := by assumption) (t_twin : μ.twin = none := by assumption) :
    (State.schedEcc s c t row).Kept μ κ := by
  unfold State.schedEcc
  extract_lets w k par s0 r0 s1 s2 b s3
  have h1 : s1.Kept μ κ := by
    unfold s1
    split
    · exact State.setSch_kept (foldl_kept hk fun s a hs => State.rowSet_kept hs)
    · exact State.dropRow_kept (State.rowSet_kept hk)
  have h3 : s3.Kept μ κ := by
    unfold s3
    split
    · exact State.bump_kept h1
    · exact State.setClTx_kept (State.bump_kept h1)
  exact State.raiseOnce_kept h3

theorem State.schedPortReset_kept {s : State} {p : Nat} (hk : s.Kept μ κ) (t_clusterTx : μ.clusterTx = none := by assumption) :
    (State.schedPortReset s p).Kept μ κ := by
  unfold State.schedPortReset
  repeat' with_reducible first
      | assumption | apply State.settlePort_kept | apply State.setSch_kept
      | (extract_lets +onlyGivenNames x; first | (refine State.Kept.cut (m := μ) (q := κ) (s := x) ?_ fun hx => ?_; (on_goal 2 => clear_value x); (on_goal 1 => unfold x; clear x)) | clear_value x)
      | split | (fail_if_no_progress (apply kept_mk))

theorem State.schedReturn_kept {s : State} {c away : Nat} (hk : s.Kept μ κ) (t_clusterTx : μ.clusterTx = none := by assumption) :
    (State.schedReturn s c away).Kept μ κ := by
  unfold State.schedReturn
  repeat' with_reducible first
      | assumption | apply State.setSch_kept | apply foldl_kept | intro _
      | (extract_lets +onlyGivenNames x; first | (refine State.Kept.cut (m := μ) (q := κ) (s := x) ?_ fun hx => ?_; (on_goal 2 => clear_value x); (on_goal 1 => unfold x; clear x)) | (refine State.Kept.cut (m := μ) (q := κ) (s := x.2) ?_ fun hx => ?_; (on_goal 2 => clear_value x); (on_goal 1 => unfold x; clear x)) | clear_value x)
      | split | (fail_if_no_progress (apply kept_mk))

theorem State.schedWarm_kept {s : State} {c : Nat} (hk : s.Kept μ κ) (t_clusterTx : μ.clusterTx = none := by assumption) :
    (State.schedWarm s c).Kept μ κ := by
  unfold State.schedWarm
  repeat' with_reducible first
      | assumption | apply State.updClTx_kept | apply foldl_kept | intro _
      | (extract_lets +onlyGivenNames x; first | (refine State.Kept.cut (m := μ) (q := κ) (s := x) ?_ fun hx => ?_; (on_goal 2 => clear_value x); (on_goal 1 => unfold x; clear x)) | (refine State.Kept.cut (m := μ) (q := κ) (s := x.2) ?_ fun hx => ?_; (on_goal 2 => clear_value x); (on_goal 1 => unfold x; clear x)) | clear_value x)
      | split | (fail_if_no_progress (apply kept_mk))

theorem execEnqueueNotice_kept {dt c leaf : Nat} {len : Option Nat} {s : State} (hk : s.Kept μ κ) (t_clusterTx : μ.clusterTx = none := by assumption) (t_twin : μ.twin = none := by assumption) :
    ResKept μ κ (execEnqueueNotice dt c leaf len s) := by
  unfold execEnqueueNotice
  repeat' with_reducible first
      | assumption | apply resKept_next | apply State.elapse_kept | apply State.notice_kept
      | (extract_lets +onlyGivenNames x; first | (refine State.Kept.cut (m := μ) (q := κ) (s := x) ?_ fun hx => ?_; (on_goal 2 => clear_value x); (on_goal 1 => unfold x; clear x)) | clear_value x)
      | split

theorem execLatheCascade_kept {dt c slot : Nat} {s : State} (hk : s.Kept μ κ) (t_clusterTx : μ.clusterTx = none := by assumption) :
    ResKept μ κ (execLatheCascade dt c slot s) := by
  unfold execLatheCascade
  repeat' with_reducible first
      | assumption | apply resKept_next | apply State.elapse_kept | apply State.placeRow_kept | apply foldl_kept | intro _
      | (extract_lets +onlyGivenNames x; first | (refine State.Kept.cut (m := μ) (q := κ) (s := x) ?_ fun hx => ?_; (on_goal 2 => clear_value x); (on_goal 1 => unfold x; clear x)) | (refine State.Kept.cut (m := μ) (q := κ) (s := x.2) ?_ fun hx => ?_; (on_goal 2 => clear_value x); (on_goal 1 => unfold x; clear x)) | clear_value x)
      | split | (fail_if_no_progress (apply kept_mk))

theorem execLatheFiring_kept {dt c k : Nat} {s : State} (hk : s.Kept μ κ) (t_clusterTx : μ.clusterTx = none := by assumption) (t_twin : μ.twin = none := by assumption) :
    ResKept μ κ (execLatheFiring dt c k s) := by
  unfold execLatheFiring
  repeat' with_reducible first
      | assumption | apply resKept_next | apply State.elapse_kept | apply State.updClTx_kept | apply State.raiseOnce_kept
      | apply State.bump_kept | apply State.setSch_kept | apply State.refillAndGroup_kept
      | (extract_lets +onlyGivenNames x; first | (refine State.Kept.cut (m := μ) (q := κ) (s := x) ?_ fun hx => ?_; (on_goal 2 => clear_value x); (on_goal 1 => unfold x; clear x)) | clear_value x)
      | split | (fail_if_no_progress (apply kept_mk))

theorem execShaperBackgroundRefill_kept {dt c k : Nat} {s : State} (hk : s.Kept μ κ) (t_clusterTx : μ.clusterTx = none := by assumption) :
    ResKept μ κ (execShaperBackgroundRefill dt c k s) := by
  unfold execShaperBackgroundRefill
  repeat' with_reducible first
      | assumption | apply resKept_next | apply State.elapse_kept | apply State.refillAndGroup_kept
      | (extract_lets +onlyGivenNames x; first | (refine State.Kept.cut (m := μ) (q := κ) (s := x) ?_ fun hx => ?_; (on_goal 2 => clear_value x); (on_goal 1 => unfold x; clear x)) | clear_value x)
      | split

end Sys2Proof.Machine
end

