-- ==== Sys2Proof/Laws/KeptStream.lean ====
section
/-!
SUPPORT. What the operations of Machine/Stream.lean keep.
-/
set_option linter.unusedTactic false
set_option linter.unreachableTactic false
set_option linter.unusedVariables false
set_option linter.tactic.unusedName false
namespace Sys2Proof.Machine
variable {μ : Marks} {κ : List Instr}

theorem State.setPath_kept {s : State} {b : Bool} {q : HingePath} (hk : s.Kept μ κ) (t_twin : μ.twin = none := by assumption) :
    (State.setPath s b q).Kept μ κ := by
  unfold State.setPath
  repeat' with_reducible first
      | assumption | apply State.updTwin_kept | split | (fail_if_no_progress (apply kept_mk))

theorem State.pathSend_kept {s : State} {b : Bool} {m : HingeMsg} (hk : s.Kept μ κ) (t_twin : μ.twin = none := by assumption) :
    (State.pathSend s b m).Kept μ κ := by
  unfold State.pathSend
  repeat' with_reducible first
      | assumption | apply State.emit_kept | apply State.setPath_kept
      | (extract_lets +onlyGivenNames x; first | (refine State.Kept.cut (m := μ) (q := κ) (s := x) ?_ fun hx => ?_; (on_goal 2 => clear_value x); (on_goal 1 => unfold x; clear x)) | clear_value x)
      | (fail_if_no_progress (apply kept_mk))

theorem State.hingeSend_kept {s : State} {m : HingeMsg} (hk : s.Kept μ κ) (t_twin : μ.twin = none := by assumption) :
    (State.hingeSend s m).Kept μ κ := by
  unfold State.hingeSend
  repeat' with_reducible first
      | assumption | apply State.pathSend_kept | apply foldl_kept | intro _ | split

theorem State.mirrorOverflow_kept {s : State} (hk : s.Kept μ κ) (t_twin : μ.twin = none := by assumption) :
    (State.mirrorOverflow s).Kept μ κ := by
  unfold State.mirrorOverflow
  repeat' with_reducible first
      | assumption | apply State.raiseOnce_kept | apply State.bump_kept | apply State.updTwin_kept | (fail_if_no_progress (apply kept_mk))

theorem State.streamSend_kept {s : State} {m : StreamMsg} (hk : s.Kept μ κ) (t_twin : μ.twin = none := by assumption) :
    (State.streamSend s m).Kept μ κ := by
  unfold State.streamSend
  repeat' with_reducible first
      | assumption | apply State.mirrorOverflow_kept | apply State.hingeSend_kept | apply State.updTwin_kept
      | (extract_lets +onlyGivenNames x; first | (refine State.Kept.cut (m := μ) (q := κ) (s := x) ?_ fun hx => ?_; (on_goal 2 => clear_value x); (on_goal 1 => unfold x; clear x)) | clear_value x)
      | split | (fail_if_no_progress (apply kept_mk))

end Sys2Proof.Machine
end

