-- ==== Sys2Proof/Laws/KeptTimeCore.lean ====
section
/-!
SUPPORT. What the operations of Machine/TimeCore.lean keep.
-/
set_option linter.unusedTactic false
set_option linter.unreachableTactic false
set_option linter.unusedVariables false
set_option linter.tactic.unusedName false
namespace Sys2Proof.Machine
variable {μ : Marks} {κ : List Instr}

theorem State.jumpTo_kept {s : State} {new : Nat} (hk : s.Kept μ κ) (t_time : μ.time = none := by assumption) :
    (State.jumpTo s new).Kept μ κ := by
  unfold State.jumpTo
  repeat' with_reducible first
      | assumption | apply State.raise_kept | apply State.bump_kept
      | (extract_lets +onlyGivenNames x; first | (refine State.Kept.cut (m := μ) (q := κ) (s := x) ?_ fun hx => ?_; (on_goal 2 => clear_value x); (on_goal 1 => unfold x; clear x)) | clear_value x)
      | split | apply kept_time | (fail_if_no_progress (apply kept_mk))

theorem State.servoWrote_kept {s : State} (hk : s.Kept μ κ) (t_time : μ.time = none := by assumption) : (State.servoWrote s).Kept μ κ := by
  unfold State.servoWrote
  repeat' with_reducible first
      | assumption
      | (extract_lets +onlyGivenNames x; first | (refine State.Kept.cut (m := μ) (q := κ) (s := x) ?_ fun hx => ?_; (on_goal 2 => clear_value x); (on_goal 1 => unfold x; clear x)) | clear_value x)
      | apply kept_time | (fail_if_no_progress (apply kept_mk))

theorem State.setTimeState_kept {s : State} {st : TimeState} (hk : s.Kept μ κ) (t_time : μ.time = none := by assumption) :
    (State.setTimeState s st).Kept μ κ := by
  unfold State.setTimeState
  repeat' with_reducible first
      | assumption
      | (extract_lets +onlyGivenNames x; first | (refine State.Kept.cut (m := μ) (q := κ) (s := x) ?_ fun hx => ?_; (on_goal 2 => clear_value x); (on_goal 1 => unfold x; clear x)) | clear_value x)
      | apply kept_time | (fail_if_no_progress (apply kept_mk))

theorem State.landFreqWord_kept {s : State} {v : Word} (hk : s.Kept μ κ) (t_time : μ.time = none := by assumption) (t_objs : μ.objs = none := by assumption) :
    (State.landFreqWord s v).Kept μ κ := by
  unfold State.landFreqWord
  repeat' with_reducible first
      | assumption | apply State.servoWrote_kept | apply State.setReg_kept | apply State.setTimeState_kept | apply State.raise_kept
      | (extract_lets +onlyGivenNames x; first | (refine State.Kept.cut (m := μ) (q := κ) (s := x) ?_ fun hx => ?_; (on_goal 2 => clear_value x); (on_goal 1 => unfold x; clear x)) | clear_value x)
      | split

theorem State.landPpsOutEn_kept {s : State} {v : Word} (hk : s.Kept μ κ) (t_time : μ.time = none := by assumption) (t_objs : μ.objs = none := by assumption) :
    (State.landPpsOutEn s v).Kept μ κ := by
  unfold State.landPpsOutEn
  repeat' with_reducible first
      | assumption | apply State.setReg_kept
      | (extract_lets +onlyGivenNames x; first | (refine State.Kept.cut (m := μ) (q := κ) (s := x) ?_ fun hx => ?_; (on_goal 2 => clear_value x); (on_goal 1 => unfold x; clear x)) | clear_value x)
      | split | apply kept_time | (fail_if_no_progress (apply kept_mk))

theorem State.leaveUnset_kept {s : State} (hk : s.Kept μ κ) (t_time : μ.time = none := by assumption) : (State.leaveUnset s).Kept μ κ := by
  unfold State.leaveUnset
  repeat' with_reducible first
      | assumption | apply State.raise_kept | apply State.setTimeState_kept | split

theorem execHoldoverEntry_kept {dt : Nat} {s : State} (hk : s.Kept μ κ) (t_time : μ.time = none := by assumption) :
    ResKept μ κ (execHoldoverEntry dt s) := by
  unfold execHoldoverEntry
  repeat' with_reducible first
      | assumption | apply resKept_next | apply State.elapse_kept | apply State.raise_kept | apply State.setTimeState_kept
      | (extract_lets +onlyGivenNames x; first | (refine State.Kept.cut (m := μ) (q := κ) (s := x) ?_ fun hx => ?_; (on_goal 2 => clear_value x); (on_goal 1 => unfold x; clear x)) | clear_value x)
      | split

theorem execPpsInEdge_kept {dt : Nat} {s : State} (hk : s.Kept μ κ) (t_time : μ.time = none := by assumption) :
    ResKept μ κ (execPpsInEdge dt s) := by
  unfold execPpsInEdge
  repeat' with_reducible first
      | assumption | apply resKept_next | apply State.elapse_kept | apply State.raise_kept
      | (extract_lets +onlyGivenNames x; first | (refine State.Kept.cut (m := μ) (q := κ) (s := x) ?_ fun hx => ?_; (on_goal 2 => clear_value x); (on_goal 1 => unfold x; clear x)) | clear_value x)
      | split | apply kept_time | (fail_if_no_progress (apply kept_mk))

theorem execPpsMissing_kept {dt : Nat} {s : State} (hk : s.Kept μ κ) (t_time : μ.time = none := by assumption) :
    ResKept μ κ (execPpsMissing dt s) := by
  unfold execPpsMissing
  repeat' with_reducible first
      | assumption | apply resKept_next | apply State.elapse_kept | apply State.bump_kept | apply State.raise_kept
      | (extract_lets +onlyGivenNames x; first | (refine State.Kept.cut (m := μ) (q := κ) (s := x) ?_ fun hx => ?_; (on_goal 2 => clear_value x); (on_goal 1 => unfold x; clear x)) | clear_value x)
      | split | apply kept_time | (fail_if_no_progress (apply kept_mk))

theorem execPpsOutEdge_kept {dt : Nat} {s : State} (hk : s.Kept μ κ) (t_time : μ.time = none := by assumption) :
    ResKept μ κ (execPpsOutEdge dt s) := by
  unfold execPpsOutEdge
  repeat' with_reducible first
      | assumption | apply resKept_next | apply State.elapse_kept | apply State.emit_kept
      | (extract_lets +onlyGivenNames x; first | (refine State.Kept.cut (m := μ) (q := κ) (s := x) ?_ fun hx => ?_; (on_goal 2 => clear_value x); (on_goal 1 => unfold x; clear x)) | clear_value x)
      | split | apply kept_time | (fail_if_no_progress (apply kept_mk))

theorem execPpsOutPulseEnd_kept {dt : Nat} {s : State} (hk : s.Kept μ κ) (t_time : μ.time = none := by assumption) :
    ResKept μ κ (execPpsOutPulseEnd dt s) := by
  unfold execPpsOutPulseEnd
  repeat' with_reducible first
      | assumption | apply resKept_next | apply State.elapse_kept
      | (extract_lets +onlyGivenNames x; first | (refine State.Kept.cut (m := μ) (q := κ) (s := x) ?_ fun hx => ?_; (on_goal 2 => clear_value x); (on_goal 1 => unfold x; clear x)) | clear_value x)
      | split | apply kept_time | (fail_if_no_progress (apply kept_mk))

theorem execShortFormWrap_kept {dt : Nat} {s : State} (hk : s.Kept μ κ) (t_time : μ.time = none := by assumption) :
    ResKept μ κ (execShortFormWrap dt s) := by
  unfold execShortFormWrap
  repeat' with_reducible first
      | assumption | apply resKept_next | apply State.elapse_kept | apply State.raise_kept
      | (extract_lets +onlyGivenNames x; first | (refine State.Kept.cut (m := μ) (q := κ) (s := x) ?_ fun hx => ?_; (on_goal 2 => clear_value x); (on_goal 1 => unfold x; clear x)) | clear_value x)
      | split | apply kept_time | (fail_if_no_progress (apply kept_mk))

theorem execTodMessage_kept {dt : Nat} {msg : Bytes} {s : State} (hk : s.Kept μ κ) (t_time : μ.time = none := by assumption) :
    ResKept μ κ (execTodMessage dt msg s) := by
  unfold execTodMessage
  repeat' with_reducible first
      | assumption | apply resKept_next | apply State.elapse_kept | apply State.bump_kept
      | (extract_lets +onlyGivenNames x; first | (refine State.Kept.cut (m := μ) (q := κ) (s := x) ?_ fun hx => ?_; (on_goal 2 => clear_value x); (on_goal 1 => unfold x; clear x)) | clear_value x)
      | split | apply kept_time | (fail_if_no_progress (apply kept_mk))

end Sys2Proof.Machine
end

