-- ==== Sys2Proof/Laws/KeptShutters.lean ====
section
/-!
SUPPORT. What the operations of Machine/Shutters.lean keep.
-/
set_option linter.unusedTactic false
set_option linter.unreachableTactic false
set_option linter.unusedVariables false
set_option linter.tactic.unusedName false
namespace Sys2Proof.Machine
variable {μ : Marks} {κ : List Instr}

theorem State.shutParams_kept {s : State} {p : Nat} (hk : s.Kept μ κ) (t_shutters : μ.shutters = none := by assumption) :
    (State.shutParams s p).Kept μ κ := by
  unfold State.shutParams
  repeat' with_reducible first
      | assumption | apply State.setShut_kept
      | (extract_lets +onlyGivenNames x; first | (refine State.Kept.cut (m := μ) (q := κ) (s := x) ?_ fun hx => ?_; (on_goal 2 => clear_value x); (on_goal 1 => unfold x; clear x)) | clear_value x)
      | (fail_if_no_progress (apply kept_mk))

theorem State.shutCause_kept {s : State} {p bit : Nat} (hk : s.Kept μ κ) (t_shutters : μ.shutters = none := by assumption) :
    (State.shutCause s p bit).Kept μ κ := by
  unfold State.shutCause
  repeat' with_reducible first
      | assumption | apply State.setShut_kept | apply State.raise_kept
      | (extract_lets +onlyGivenNames x; first | (refine State.Kept.cut (m := μ) (q := κ) (s := x) ?_ fun hx => ?_; (on_goal 2 => clear_value x); (on_goal 1 => unfold x; clear x)) | clear_value x)
      | split | (fail_if_no_progress (apply kept_mk))

theorem State.closeShutter_kept {s : State} {p : Nat} {cause : Bool} (hk : s.Kept μ κ) (t_shutters : μ.shutters = none := by assumption) :
    (State.closeShutter s p cause).Kept μ κ := by
  unfold State.closeShutter
  repeat' with_reducible first
      | assumption | apply State.setShut_kept | apply State.shutParams_kept | apply State.shutCause_kept
      | (extract_lets +onlyGivenNames x; first | (refine State.Kept.cut (m := μ) (q := κ) (s := x) ?_ fun hx => ?_; (on_goal 2 => clear_value x); (on_goal 1 => unfold x; clear x)) | clear_value x)
      | split | (fail_if_no_progress (apply kept_mk))

theorem State.fit_kept {s : State} {p n w : Nat} (hk : s.Kept μ κ) (t_shutters : μ.shutters = none := by assumption) :
    (State.fit s p n w).2.Kept μ κ := by
  unfold State.fit
  repeat' with_reducible first
      | assumption | apply State.shutCause_kept | apply State.bumpPort_kept | apply State.setShut_kept
      | (extract_lets +onlyGivenNames x; first | (refine State.Kept.cut (m := μ) (q := κ) (s := x) ?_ fun hx => ?_; (on_goal 2 => clear_value x); (on_goal 1 => unfold x; clear x)) | clear_value x)
      | split | (fail_if_no_progress (apply kept_mk))

theorem State.tellSwap_kept {s : State} {p sub : Nat} (hk : s.Kept μ κ) (t_twin : μ.twin = none := by assumption) :
    (State.tellSwap s p sub).Kept μ κ := by
  unfold State.tellSwap
  repeat' with_reducible first
      | assumption | apply State.streamSend_kept | split

theorem State.requestSwap_kept {s : State} {p landing : Nat} {fwd : Option Nat} (hk : s.Kept μ κ) (t_shutters : μ.shutters = none := by assumption) :
    (State.requestSwap s p landing fwd).Kept μ κ := by
  unfold State.requestSwap
  repeat' with_reducible first
      | assumption | apply State.setShut_kept
      | (extract_lets +onlyGivenNames x; first | (refine State.Kept.cut (m := μ) (q := κ) (s := x) ?_ fun hx => ?_; (on_goal 2 => clear_value x); (on_goal 1 => unfold x; clear x)) | clear_value x)
      | split | (fail_if_no_progress (apply kept_mk))

theorem State.latchSwap_kept {s : State} {p : Nat} (hk : s.Kept μ κ) (t_shutters : μ.shutters = none := by assumption) (t_twin : μ.twin = none := by assumption) :
    (State.latchSwap s p).Kept μ κ := by
  unfold State.latchSwap
  repeat' with_reducible first
      | assumption | apply State.streamSend_kept | apply State.shutCause_kept | apply State.setShut_kept | apply State.tellSwap_kept
      | apply State.requestSwap_kept
      | (extract_lets +onlyGivenNames x; first | (refine State.Kept.cut (m := μ) (q := κ) (s := x) ?_ fun hx => ?_; (on_goal 2 => clear_value x); (on_goal 1 => unfold x; clear x)) | (refine State.Kept.cut (m := μ) (q := κ) (s := x.2) ?_ fun hx => ?_; (on_goal 2 => clear_value x); (on_goal 1 => unfold x; clear x)) | clear_value x)
      | split | (fail_if_no_progress (apply kept_mk))

theorem State.openDigest_kept {s : State} {p cycle close : Nat} (hk : s.Kept μ κ) (t_shutters : μ.shutters = none := by assumption) :
    (State.openDigest s p cycle close).Kept μ κ := by
  unfold State.openDigest
  repeat' with_reducible first
      | assumption | apply State.setShut_kept
      | (extract_lets +onlyGivenNames x; first | (refine State.Kept.cut (m := μ) (q := κ) (s := x) ?_ fun hx => ?_; (on_goal 2 => clear_value x); (on_goal 1 => unfold x; clear x)) | clear_value x)
      | split | (fail_if_no_progress (apply kept_mk))

theorem State.shutRefresh_kept {s : State} {p : Nat} (hk : s.Kept μ κ) (t_shutters : μ.shutters = none := by assumption) :
    (State.shutRefresh s p).Kept μ κ := by
  unfold State.shutRefresh
  repeat' with_reducible first
      | assumption | apply State.shutParams_kept | apply State.setShut_kept | apply State.openDigest_kept
      | (extract_lets +onlyGivenNames x; first | (refine State.Kept.cut (m := μ) (q := κ) (s := x) ?_ fun hx => ?_; (on_goal 2 => clear_value x); (on_goal 1 => unfold x; clear x)) | (refine State.Kept.cut (m := μ) (q := κ) (s := x.2) ?_ fun hx => ?_; (on_goal 2 => clear_value x); (on_goal 1 => unfold x; clear x)) | clear_value x)
      | split | (fail_if_no_progress (apply kept_mk))

theorem State.makeSwap_kept {s : State} {p : Nat} (hk : s.Kept μ κ) (t_shutters : μ.shutters = none := by assumption) (t_twin : μ.twin = none := by assumption) :
    (State.makeSwap s p).Kept μ κ := by
  unfold State.makeSwap
  repeat' with_reducible first
      | assumption | apply State.setShut_kept | apply State.shutParams_kept | apply State.tellSwap_kept | apply State.requestSwap_kept
      | apply State.shutRefresh_kept | apply State.shutCause_kept | apply State.bumpPort_kept
      | (extract_lets +onlyGivenNames x; first | (refine State.Kept.cut (m := μ) (q := κ) (s := x) ?_ fun hx => ?_; (on_goal 2 => clear_value x); (on_goal 1 => unfold x; clear x)) | clear_value x)
      | split | (fail_if_no_progress (apply kept_mk))

theorem State.passSwap_kept {s : State} {p : Nat} (hk : s.Kept μ κ) (t_shutters : μ.shutters = none := by assumption) (t_twin : μ.twin = none := by assumption) :
    (State.passSwap s p).1.Kept μ κ := by
  unfold State.passSwap
  repeat' with_reducible first
      | assumption | apply State.latchSwap_kept | apply State.makeSwap_kept
      | (extract_lets +onlyGivenNames x; first | (refine State.Kept.cut (m := μ) (q := κ) (s := x) ?_ fun hx => ?_; (on_goal 2 => clear_value x); (on_goal 1 => unfold x; clear x)) | clear_value x)
      | split

theorem State.realignStep_kept {s : State} {p old : Nat} {big : Bool} (hk : s.Kept μ κ) (t_shutters : μ.shutters = none := by assumption) :
    (State.realignStep s p old big).Kept μ κ := by
  unfold State.realignStep
  repeat' with_reducible first
      | assumption | apply State.setShut_kept | apply State.shutRefresh_kept | apply State.shutCause_kept | apply State.bumpPort_kept
      | (extract_lets +onlyGivenNames x; first | (refine State.Kept.cut (m := μ) (q := κ) (s := x) ?_ fun hx => ?_; (on_goal 2 => clear_value x); (on_goal 1 => unfold x; clear x)) | (refine State.Kept.cut (m := μ) (q := κ) (s := x.2) ?_ fun hx => ?_; (on_goal 2 => clear_value x); (on_goal 1 => unfold x; clear x)) | clear_value x)
      | split | (fail_if_no_progress (apply kept_mk))

theorem State.shutStep_kept {s : State} {p old : Nat} (hk : s.Kept μ κ) (t_portTx : μ.portTx = none := by assumption) (t_shutters : μ.shutters = none := by assumption) (t_twin : μ.twin = none := by assumption) :
    (State.shutStep s p old).Kept μ κ := by
  unfold State.shutStep
  repeat' with_reducible first
      | assumption | (rename_i e; have e2 := congrArg Prod.snd e; dsimp only at e2; subst e2) | apply State.setShut_kept
      | apply State.updPortTx_kept | apply State.passSwap_kept | apply State.shutCause_kept | apply State.bumpPort_kept
      | apply State.realignStep_kept | apply foldl_kept | apply foldl_kept_snd | apply foldl_kept_mid | apply foldl_resKept
      | apply foldl_pairKept | apply foldl_slotKept | intro _ | apply pairKept_none | apply pairKept_some | apply foldl_pairKept
      | exact PairKept.state (by assumption) | exact optKept_none | apply optKept_some
      | (extract_lets +onlyGivenNames x; first | (refine State.Kept.cut (m := μ) (q := κ) (s := x) ?_ fun hx => ?_; (on_goal 2 => clear_value x); (on_goal 1 => unfold x; clear x)) | (refine State.Kept.cut (m := μ) (q := κ) (s := x.2) ?_ fun hx => ?_; (on_goal 2 => clear_value x); (on_goal 1 => unfold x; clear x)) | (refine State.Kept.cut (m := μ) (q := κ) (s := x.2.2) ?_ fun hx => ?_; (on_goal 2 => clear_value x); (on_goal 1 => unfold x; clear x)) | (refine State.Kept.cut (m := μ) (q := κ) (s := x.1) ?_ fun hx => ?_; (on_goal 2 => clear_value x); (on_goal 1 => unfold x; clear x)) | (have _f : _ → _ := x; clear _f) | clear_value x | skip)
      | split | (fail_if_no_progress (apply kept_mk)) | (fail_if_no_progress (apply kept_eraseRegs))
      | (fail_if_no_progress (apply kept_eraseRings)) | (fail_if_no_progress (apply kept_setCtr)) | (dsimp -zeta +zetaDelta only)

theorem State.shutStepAll_kept {s : State} {old : Nat} (hk : s.Kept μ κ) (t_portTx : μ.portTx = none := by assumption) (t_shutters : μ.shutters = none := by assumption) (t_twin : μ.twin = none := by assumption) :
    (State.shutStepAll s old).Kept μ κ := by
  unfold State.shutStepAll
  repeat' with_reducible first
      | assumption | apply State.shutStep_kept | apply foldl_kept | intro _

theorem State.jump_kept {s : State} {new : Nat} (hk : s.Kept μ κ) (t_portTx : μ.portTx = none := by assumption) (t_shutters : μ.shutters = none := by assumption) (t_twin : μ.twin = none := by assumption) (t_time : μ.time = none := by assumption) :
    (State.jump s new).Kept μ κ := by
  unfold State.jump
  repeat' with_reducible first
      | assumption | apply State.shutStepAll_kept | apply State.jumpTo_kept

theorem State.landConfigChange_kept {s : State} {p : Nat} {fwd : Option Nat} (hk : s.Kept μ κ) (t_shutters : μ.shutters = none := by assumption) :
    (State.landConfigChange s p fwd).Kept μ κ := by
  unfold State.landConfigChange
  repeat' with_reducible first
      | assumption | apply State.requestSwap_kept | apply State.setShut_kept
      | (extract_lets +onlyGivenNames x; first | (refine State.Kept.cut (m := μ) (q := κ) (s := x) ?_ fun hx => ?_; (on_goal 2 => clear_value x); (on_goal 1 => unfold x; clear x)) | clear_value x)
      | split | (fail_if_no_progress (apply kept_mk))

theorem State.openShutter_kept {s : State} {p : Nat} {fwd : Option Nat} (hk : s.Kept μ κ) (t_shutters : μ.shutters = none := by assumption) :
    (State.openShutter s p fwd).Kept μ κ := by
  unfold State.openShutter
  repeat' with_reducible first
      | assumption | apply State.shutParams_kept | apply State.requestSwap_kept | apply State.setShut_kept
      | (extract_lets +onlyGivenNames x; first | (refine State.Kept.cut (m := μ) (q := κ) (s := x) ?_ fun hx => ?_; (on_goal 2 => clear_value x); (on_goal 1 => unfold x; clear x)) | clear_value x)
      | (fail_if_no_progress (apply kept_mk))

theorem State.landGateEnable_kept {s : State} {p : Nat} {v : Bool} {fwd : Option Nat} (hk : s.Kept μ κ) (t_shutters : μ.shutters = none := by assumption) (t_objs : μ.objs = none := by assumption) :
    (State.landGateEnable s p v fwd).Kept μ κ := by
  unfold State.landGateEnable
  repeat' with_reducible first
      | assumption | apply State.setReg_kept | apply State.openShutter_kept | apply State.setShut_kept | apply State.requestSwap_kept
      | apply State.closeShutter_kept
      | (extract_lets +onlyGivenNames x; first | (refine State.Kept.cut (m := μ) (q := κ) (s := x) ?_ fun hx => ?_; (on_goal 2 => clear_value x); (on_goal 1 => unfold x; clear x)) | clear_value x)
      | split | (fail_if_no_progress (apply kept_mk))

theorem State.landSetTime_kept {s : State} {v : Nat} (hk : s.Kept μ κ) (t_portTx : μ.portTx = none := by assumption) (t_shutters : μ.shutters = none := by assumption) (t_twin : μ.twin = none := by assumption) (t_time : μ.time = none := by assumption) :
    (State.landSetTime s v).Kept μ κ := by
  unfold State.landSetTime
  repeat' with_reducible first
      | assumption | apply State.leaveUnset_kept | apply State.jump_kept | apply State.servoWrote_kept

theorem State.landShutCauseClr_kept {s : State} {p : Nat} {v : Word} (hk : s.Kept μ κ) (t_shutters : μ.shutters = none := by assumption) :
    (State.landShutCauseClr s p v).Kept μ κ := by
  unfold State.landShutCauseClr
  repeat' with_reducible first
      | assumption | apply State.setShut_kept
      | (extract_lets +onlyGivenNames x; first | (refine State.Kept.cut (m := μ) (q := κ) (s := x) ?_ fun hx => ?_; (on_goal 2 => clear_value x); (on_goal 1 => unfold x; clear x)) | clear_value x)
      | (fail_if_no_progress (apply kept_mk))

theorem State.landShutParam_kept {s : State} {p sub : Nat} {v : Word} (hk : s.Kept μ κ) (t_shutters : μ.shutters = none := by assumption) (t_objs : μ.objs = none := by assumption) :
    (State.landShutParam s p sub v).Kept μ κ := by
  unfold State.landShutParam
  repeat' with_reducible first
      | assumption | apply State.setReg_kept | apply State.shutParams_kept
      | (extract_lets +onlyGivenNames x; first | (refine State.Kept.cut (m := μ) (q := κ) (s := x) ?_ fun hx => ?_; (on_goal 2 => clear_value x); (on_goal 1 => unfold x; clear x)) | clear_value x)
      | split

theorem State.landShutterRow_kept {s : State} {c row : Nat} {e : Word} (hk : s.Kept μ κ) (t_rows : μ.rows = none := by assumption) (t_clusterTx : μ.clusterTx = none := by assumption) :
    (State.landShutterRow s c row e).Kept μ κ := by
  unfold State.landShutterRow
  repeat' with_reducible first
      | assumption | apply State.updClTx_kept | apply State.rowSet_kept | (fail_if_no_progress (apply kept_mk))

theorem State.landStep_kept {s : State} {off : ℤ} (hk : s.Kept μ κ) (t_portTx : μ.portTx = none := by assumption) (t_shutters : μ.shutters = none := by assumption) (t_twin : μ.twin = none := by assumption) (t_time : μ.time = none := by assumption) :
    (State.landStep s off).Kept μ κ := by
  unfold State.landStep
  repeat' with_reducible first
      | assumption | apply State.jump_kept | apply State.servoWrote_kept

theorem State.readShutterCapture_kept {s : State} {c : Nat} (hk : s.Kept μ κ) (t_clusterTx : μ.clusterTx = none := by assumption) :
    (State.readShutterCapture s c).2.Kept μ κ := by
  unfold State.readShutterCapture
  repeat' with_reducible first
      | assumption | apply State.updClTx_kept | (fail_if_no_progress (apply kept_mk))

theorem State.shutRestart_kept {s : State} {p : Nat} (hk : s.Kept μ κ) (t_shutters : μ.shutters = none := by assumption) :
    (State.shutRestart s p).Kept μ κ := by
  unfold State.shutRestart
  repeat' with_reducible first
      | assumption | apply State.openShutter_kept | split

theorem State.shutBegin_kept {s : State} {p : Nat} (hk : s.Kept μ κ) (t_shutters : μ.shutters = none := by assumption) (t_twin : μ.twin = none := by assumption) :
    (State.shutBegin s p).Kept μ κ := by
  unfold State.shutBegin
  repeat' with_reducible first
      | assumption | apply State.shutRestart_kept | apply State.tellSwap_kept
      | (extract_lets +onlyGivenNames x; first | (refine State.Kept.cut (m := μ) (q := κ) (s := x) ?_ fun hx => ?_; (on_goal 2 => clear_value x); (on_goal 1 => unfold x; clear x)) | clear_value x)
      | split

theorem State.shutReset_kept {s : State} {p : Nat} (hk : s.Kept μ κ) (t_shutters : μ.shutters = none := by assumption) :
    (State.shutReset s p).Kept μ κ := by
  unfold State.shutReset
  repeat' with_reducible first
      | assumption | apply State.closeShutter_kept | apply State.setShut_kept
      | (extract_lets +onlyGivenNames x; first | (refine State.Kept.cut (m := μ) (q := κ) (s := x) ?_ fun hx => ?_; (on_goal 2 => clear_value x); (on_goal 1 => unfold x; clear x)) | clear_value x)
      | (fail_if_no_progress (apply kept_mk))

theorem State.shutReturn_kept {s : State} {p : Nat} (hk : s.Kept μ κ) (t_shutters : μ.shutters = none := by assumption) (t_twin : μ.twin = none := by assumption) :
    (State.shutReturn s p).Kept μ κ := by
  unfold State.shutReturn
  repeat' with_reducible first
      | assumption | (rename_i e; have e2 := congrArg Prod.snd e; dsimp only at e2; subst e2) | apply State.setShut_kept
      | apply State.passSwap_kept | apply State.shutRefresh_kept | apply foldl_kept | apply foldl_kept_snd | apply foldl_kept_mid
      | apply foldl_resKept | apply foldl_pairKept | apply foldl_slotKept | intro _ | apply pairKept_none | apply pairKept_some
      | apply foldl_pairKept | exact PairKept.state (by assumption) | exact optKept_none | apply optKept_some
      | (extract_lets +onlyGivenNames x; first | (refine State.Kept.cut (m := μ) (q := κ) (s := x) ?_ fun hx => ?_; (on_goal 2 => clear_value x); (on_goal 1 => unfold x; clear x)) | (refine State.Kept.cut (m := μ) (q := κ) (s := x.2) ?_ fun hx => ?_; (on_goal 2 => clear_value x); (on_goal 1 => unfold x; clear x)) | (refine State.Kept.cut (m := μ) (q := κ) (s := x.2.2) ?_ fun hx => ?_; (on_goal 2 => clear_value x); (on_goal 1 => unfold x; clear x)) | (refine State.Kept.cut (m := μ) (q := κ) (s := x.1) ?_ fun hx => ?_; (on_goal 2 => clear_value x); (on_goal 1 => unfold x; clear x)) | (have _f : _ → _ := x; clear _f) | clear_value x | skip)
      | split | (fail_if_no_progress (apply kept_mk)) | (fail_if_no_progress (apply kept_eraseRegs))
      | (fail_if_no_progress (apply kept_eraseRings)) | (fail_if_no_progress (apply kept_setCtr)) | (dsimp -zeta +zetaDelta only)

theorem State.shutterEcc_kept {s : State} {p entry : Nat} {oper : Bool} (hk : s.Kept μ κ) (t_clusterTx : μ.clusterTx = none := by assumption) (t_shutters : μ.shutters = none := by assumption) (t_twin : μ.twin = none := by assumption) :
    (State.shutterEcc s p entry oper).Kept μ κ := by
  unfold State.shutterEcc
  repeat' with_reducible first
      | assumption | apply State.setClTx_kept | apply State.raiseOnce_kept | apply State.bump_kept | apply State.closeShutter_kept
      | apply State.shutCause_kept
      | (extract_lets +onlyGivenNames x; first | (refine State.Kept.cut (m := μ) (q := κ) (s := x) ?_ fun hx => ?_; (on_goal 2 => clear_value x); (on_goal 1 => unfold x; clear x)) | clear_value x)
      | split | (fail_if_no_progress (apply kept_mk))

theorem execShutterCloseDone_kept {dt p : Nat} {s : State} (hk : s.Kept μ κ) (t_shutters : μ.shutters = none := by assumption) (t_twin : μ.twin = none := by assumption) (t_objs : μ.objs = none := by assumption) :
    ResKept μ κ (execShutterCloseDone dt p s) := by
  unfold execShutterCloseDone
  repeat' with_reducible first
      | assumption | apply resKept_next | apply State.elapse_kept | apply State.closeShutter_kept | apply State.tellSwap_kept
      | apply State.landGateEnable_kept
      | (extract_lets +onlyGivenNames x; first | (refine State.Kept.cut (m := μ) (q := κ) (s := x) ?_ fun hx => ?_; (on_goal 2 => clear_value x); (on_goal 1 => unfold x; clear x)) | clear_value x)
      | split

theorem execShutterSwap_kept {dt p : Nat} {s : State} (hk : s.Kept μ κ) (t_shutters : μ.shutters = none := by assumption) (t_twin : μ.twin = none := by assumption) :
    ResKept μ κ (execShutterSwap dt p s) := by
  unfold execShutterSwap
  repeat' with_reducible first
      | assumption | apply resKept_next | apply State.elapse_kept | apply State.makeSwap_kept
      | (extract_lets +onlyGivenNames x; first | (refine State.Kept.cut (m := μ) (q := κ) (s := x) ?_ fun hx => ?_; (on_goal 2 => clear_value x); (on_goal 1 => unfold x; clear x)) | clear_value x)
      | split

theorem execTodAlign_kept {dt : Nat} {s : State} (hk : s.Kept μ κ) (t_portTx : μ.portTx = none := by assumption) (t_shutters : μ.shutters = none := by assumption) (t_twin : μ.twin = none := by assumption) (t_time : μ.time = none := by assumption) :
    ResKept μ κ (execTodAlign dt s) := by
  unfold execTodAlign
  repeat' with_reducible first
      | assumption | apply resKept_next | apply State.elapse_kept | apply State.leaveUnset_kept | apply State.jump_kept
      | (extract_lets +onlyGivenNames x; first | (refine State.Kept.cut (m := μ) (q := κ) (s := x) ?_ fun hx => ?_; (on_goal 2 => clear_value x); (on_goal 1 => unfold x; clear x)) | clear_value x)
      | split | apply kept_time | (fail_if_no_progress (apply kept_mk))

theorem shutterEntryChangeRes_kept {dt p : Nat} {upset : Bool} {s : State} (hk : s.Kept μ κ) (t_clusterTx : μ.clusterTx = none := by assumption) (t_shutters : μ.shutters = none := by assumption) (t_twin : μ.twin = none := by assumption) :
    ResKept μ κ (shutterEntryChangeRes dt p upset s) := by
  unfold shutterEntryChangeRes
  repeat' with_reducible first
      | assumption | apply resKept_next | apply State.elapse_kept | apply State.shutterEcc_kept | apply State.shutRefresh_kept
      | (extract_lets +onlyGivenNames x; first | (refine State.Kept.cut (m := μ) (q := κ) (s := x) ?_ fun hx => ?_; (on_goal 2 => clear_value x); (on_goal 1 => unfold x; clear x)) | clear_value x)
      | split

end Sys2Proof.Machine
end

