-- ==== Sys2Proof/Laws/KeptCalipers.lean ====
section
/-!
SUPPORT. What the operations of Machine/Calipers.lean keep.
-/
set_option linter.unusedTactic false
set_option linter.unreachableTactic false
set_option linter.unusedVariables false
set_option linter.tactic.unusedName false
namespace Sys2Proof.Machine
variable {μ : Marks} {κ : List Instr}

theorem State.addDigest_kept {s : State} {p tc cycle : Nat} {body : Bytes} (hk : s.Kept μ κ) (t_shutters : μ.shutters = none := by assumption) (t_twin : μ.twin = none := by assumption) :
    (State.addDigest s p tc cycle body).Kept μ κ := by
  unfold State.addDigest
  repeat' with_reducible first
      | assumption | apply State.openDigest_kept | apply State.setShut_kept | apply State.raiseOnce_kept | apply State.bump_kept
      | (extract_lets +onlyGivenNames x; first | (refine State.Kept.cut (m := μ) (q := κ) (s := x) ?_ fun hx => ?_; (on_goal 2 => clear_value x); (on_goal 1 => unfold x; clear x)) | (refine State.Kept.cut (m := μ) (q := κ) (s := x.2) ?_ fun hx => ?_; (on_goal 2 => clear_value x); (on_goal 1 => unfold x; clear x)) | clear_value x)
      | split | (fail_if_no_progress (apply kept_mk))

theorem State.calClusterReset_kept {s : State} {c : Nat} (hk : s.Kept μ κ) (t_rows : μ.rows = none := by assumption) :
    (State.calClusterReset s c).Kept μ κ := by
  unfold State.calClusterReset
  repeat' with_reducible first
      | assumption | apply State.rowSet_kept | apply foldl_kept | intro _
      | (extract_lets +onlyGivenNames x; first | (refine State.Kept.cut (m := μ) (q := κ) (s := x) ?_ fun hx => ?_; (on_goal 2 => clear_value x); (on_goal 1 => unfold x; clear x)) | clear_value x)

theorem State.calEcc_kept {s : State} {c : Nat} {rule : Bool} {k : Nat} (hk : s.Kept μ κ) (t_rows : μ.rows = none := by assumption) (t_clusterTx : μ.clusterTx = none := by assumption) (t_twin : μ.twin = none := by assumption) :
    (State.calEcc s c rule k).Kept μ κ := by
  unfold State.calEcc
  repeat' with_reducible first
      | assumption | apply State.rowSet_kept | apply State.setClTx_kept | apply State.raiseOnce_kept | apply State.bump_kept
      | (extract_lets +onlyGivenNames x; first | (refine State.Kept.cut (m := μ) (q := κ) (s := x) ?_ fun hx => ?_; (on_goal 2 => clear_value x); (on_goal 1 => unfold x; clear x)) | clear_value x)
      | split | (fail_if_no_progress (apply kept_mk))

theorem State.calStage_kept {s : State} {c : Nat} {f : CalIn} (hk : s.Kept μ κ) (t_rows : μ.rows = none := by assumption) (t_clusterTx : μ.clusterTx = none := by assumption) (t_twin : μ.twin = none := by assumption) :
    (State.calStage s c f).2.Kept μ κ := by
  unfold State.calStage
  repeat' with_reducible first
      | assumption | apply State.bumpRow_kept | apply State.rowSet_kept | apply State.setClTx_kept | apply State.raiseOnce_kept
      | (extract_lets +onlyGivenNames x; first | (refine State.Kept.cut (m := μ) (q := κ) (s := x) ?_ fun hx => ?_; (on_goal 2 => clear_value x); (on_goal 1 => unfold x; clear x)) | clear_value x)
      | split | (fail_if_no_progress (apply kept_mk))

theorem State.landCal_kept {s : State} {c k : Nat} {img : List Word} {run st : Word} (hk : s.Kept μ κ) (t_rows : μ.rows = none := by assumption) (t_past : μ.past = none := by assumption) :
    (State.landCal s c k img run st).Kept μ κ := by
  unfold State.landCal
  repeat' with_reducible first
      | assumption | apply State.setLatchedRow_kept | apply State.rowSet_kept | apply State.clearCtrs_kept | apply foldl_kept | intro _
      | (extract_lets +onlyGivenNames x; first | (refine State.Kept.cut (m := μ) (q := κ) (s := x) ?_ fun hx => ?_; (on_goal 2 => clear_value x); (on_goal 1 => unfold x; clear x)) | clear_value x)
      | split | apply kept_past | (fail_if_no_progress (apply kept_mk))

theorem State.landRule_kept {s : State} {c row : Nat} {img : List Word} (hk : s.Kept μ κ) (t_rows : μ.rows = none := by assumption) (t_past : μ.past = none := by assumption) :
    (State.landRule s c row img).Kept μ κ := by
  unfold State.landRule
  repeat' with_reducible first
      | assumption | apply State.setLatchedRow_kept | apply foldl_kept | intro _

theorem State.readCalCapture_kept {s : State} {c : Nat} (hk : s.Kept μ κ) (t_clusterTx : μ.clusterTx = none := by assumption) :
    (State.readCalCapture s c).2.Kept μ κ := by
  unfold State.readCalCapture
  repeat' with_reducible first
      | assumption | apply State.updClTx_kept | (fail_if_no_progress (apply kept_mk))

theorem State.readCalEccCapture_kept {s : State} {c : Nat} (hk : s.Kept μ κ) (t_clusterTx : μ.clusterTx = none := by assumption) :
    (State.readCalEccCapture s c).2.Kept μ κ := by
  unfold State.readCalEccCapture
  repeat' with_reducible first
      | assumption | apply State.updClTx_kept | (fail_if_no_progress (apply kept_mk))

end Sys2Proof.Machine
end

