-- ==== Sys2Proof/Laws/KeptDmaCore.lean ====
section
/-!
SUPPORT. What the operations of Machine/DmaCore.lean keep.
-/
set_option linter.unusedTactic false
set_option linter.unreachableTactic false
set_option linter.unusedVariables false
set_option linter.tactic.unusedName false
namespace Sys2Proof.Machine
variable {μ : Marks} {κ : List Instr}

theorem State.busRead_kept {s : State} {r n : Nat} (hk : s.Kept μ κ) : (State.busRead s r n).Kept μ κ := by
  unfold State.busRead
  repeat' with_reducible first
      | assumption | apply State.bump_kept

theorem State.busWrite_kept {s : State} {r n : Nat} (hk : s.Kept μ κ) : (State.busWrite s r n).Kept μ κ := by
  unfold State.busWrite
  repeat' with_reducible first
      | assumption | apply State.bump_kept

theorem State.ringCause_kept {s : State} {r bit : Nat} (hk : s.Kept μ κ) (t_rings : μ.rings = none := by assumption) :
    (State.ringCause s r bit).Kept μ κ := by
  unfold State.ringCause
  repeat' with_reducible first
      | assumption | apply State.setRing_kept | apply State.raise_kept
      | (extract_lets +onlyGivenNames x; first | (refine State.Kept.cut (m := μ) (q := κ) (s := x) ?_ fun hx => ?_; (on_goal 2 => clear_value x); (on_goal 1 => unfold x; clear x)) | clear_value x)
      | split | (fail_if_no_progress (apply kept_mk))

theorem State.completeDesc_kept {s : State} {r i : Nat} {d : Desc} {result done : Nat} {aux : Option Word} {extra : Nat} (hk : s.Kept μ κ) (t_mem : μ.mem = none := by assumption) (t_rings : μ.rings = none := by assumption) :
    (State.completeDesc s r i d result done aux extra).Kept μ κ := by
  unfold State.completeDesc
  repeat' with_reducible first
      | assumption | apply State.busWrite_kept | apply State.memWrite_kept | apply State.bump_kept | apply State.updRing_kept
      | apply State.ringCause_kept | apply State.raise_kept
      | (extract_lets +onlyGivenNames x; first | (refine State.Kept.cut (m := μ) (q := κ) (s := x) ?_ fun hx => ?_; (on_goal 2 => clear_value x); (on_goal 1 => unfold x; clear x)) | clear_value x)
      | split | (fail_if_no_progress (apply kept_mk))

theorem State.completeChain_kept {s : State} {r : Nat} {c : Chain} {result : Nat} {stamp : Option Word} (hk : s.Kept μ κ) (t_mem : μ.mem = none := by assumption) (t_rings : μ.rings = none := by assumption) :
    (State.completeChain s r c result stamp).Kept μ κ := by
  unfold State.completeChain
  repeat' with_reducible first
      | assumption | apply State.completeDesc_kept | apply foldl_kept | intro _
      | (extract_lets +onlyGivenNames x; first | (refine State.Kept.cut (m := μ) (q := κ) (s := x) ?_ fun hx => ?_; (on_goal 2 => clear_value x); (on_goal 1 => unfold x; clear x)) | clear_value x)
      | split

theorem State.settleChains_kept {r a0 : Nat} {a1 : State} (hk : a1.Kept μ κ) (t_mem : μ.mem = none := by assumption) (t_rings : μ.rings = none := by assumption) :
    (State.settleChains r a0 a1).Kept μ κ := by
  induction a0 generalizing a1 with
  | zero => exact hk
  | succ n ih =>
    unfold State.settleChains
    repeat' with_reducible first
      | assumption | apply ih | apply State.updRing_kept | apply State.completeChain_kept | split | (fail_if_no_progress (apply kept_mk))

theorem State.directDone_kept {s : State} {o : Option DirectRef} {result : Nat} {stamp : Option Word} (hk : s.Kept μ κ) (t_mem : μ.mem = none := by assumption) (t_rings : μ.rings = none := by assumption) :
    (State.directDone s o result stamp).Kept μ κ := by
  unfold State.directDone
  repeat' with_reducible first
      | assumption | apply State.updRing_kept | apply State.settleChains_kept
      | (extract_lets +onlyGivenNames x; first | (refine State.Kept.cut (m := μ) (q := κ) (s := x) ?_ fun hx => ?_; (on_goal 2 => clear_value x); (on_goal 1 => unfold x; clear x)) | clear_value x)
      | split | (fail_if_no_progress (apply kept_mk))

theorem State.fetchDesc_kept {s : State} {r : Nat} (hk : s.Kept μ κ) (t_rings : μ.rings = none := by assumption) :
    (State.fetchDesc s r).2.Kept μ κ := by
  unfold State.fetchDesc
  repeat' with_reducible first
      | assumption | apply State.busRead_kept | apply State.setRing_kept
      | (extract_lets +onlyGivenNames x; first | (refine State.Kept.cut (m := μ) (q := κ) (s := x) ?_ fun hx => ?_; (on_goal 2 => clear_value x); (on_goal 1 => unfold x; clear x)) | clear_value x)
      | split | (fail_if_no_progress (apply kept_mk))

theorem State.landRingCauseClr_kept {s : State} {r : Nat} {v : Word} (hk : s.Kept μ κ) (t_rings : μ.rings = none := by assumption) :
    (State.landRingCauseClr s r v).Kept μ κ := by
  unfold State.landRingCauseClr
  repeat' with_reducible first
      | assumption | apply State.updRing_kept | (fail_if_no_progress (apply kept_mk))

theorem State.reserveDescs_kept {r need a0 a1 a2 : Nat} {a3 : State} (hk : a3.Kept μ κ) (t_mem : μ.mem = none := by assumption) (t_rings : μ.rings = none := by assumption) :
    (State.reserveDescs r need a0 a1 a2 a3).2.Kept μ κ := by
  induction a0 generalizing a1 a2 a3 with
  | zero => exact hk
  | succ n ih =>
    unfold State.reserveDescs
    repeat' with_reducible first
      | assumption | (rename_i e; have e2 := congrArg Prod.snd e; dsimp only at e2; subst e2) | apply ih | apply State.completeDesc_kept
      | apply State.updRing_kept | apply State.fetchDesc_kept | intro _
      | (extract_lets +onlyGivenNames x; first | (refine State.Kept.cut (m := μ) (q := κ) (s := x) ?_ fun hx => ?_; (on_goal 2 => clear_value x); (on_goal 1 => unfold x; clear x)) | (refine State.Kept.cut (m := μ) (q := κ) (s := x.2) ?_ fun hx => ?_; (on_goal 2 => clear_value x); (on_goal 1 => unfold x; clear x)) | (have _f : _ → _ := x; clear _f) | clear_value x | skip)
      | split | (fail_if_no_progress (apply kept_mk)) | (dsimp -zeta +zetaDelta only)

theorem State.stageRx_kept {s : State} {f : Staged} {good known : Bool} (hk : s.Kept μ κ) (t_mem : μ.mem = none := by assumption) (t_rings : μ.rings = none := by assumption) (t_quarters : μ.quarters = none := by assumption) :
    (State.stageRx s f good known).2.Kept μ κ := by
  unfold State.stageRx
  repeat' with_reducible first
      | assumption | apply State.reserveDescs_kept | apply State.ringCause_kept | apply State.bump_kept | apply State.updRing_kept
      | apply State.setQuarter_kept
      | (extract_lets +onlyGivenNames x; first | (refine State.Kept.cut (m := μ) (q := κ) (s := x) ?_ fun hx => ?_; (on_goal 2 => clear_value x); (on_goal 1 => unfold x; clear x)) | (refine State.Kept.cut (m := μ) (q := κ) (s := x.2) ?_ fun hx => ?_; (on_goal 2 => clear_value x); (on_goal 1 => unfold x; clear x)) | clear_value x)
      | split | (fail_if_no_progress (apply kept_mk))

theorem State.takeTurn_kept {s : State} {r : Nat} (hk : s.Kept μ κ) (t_quarters : μ.quarters = none := by assumption) :
    (State.takeTurn s r).Kept μ κ := by
  unfold State.takeTurn
  repeat' with_reducible first
      | assumption | apply State.setQuarter_kept
      | (extract_lets +onlyGivenNames x; first | (refine State.Kept.cut (m := μ) (q := κ) (s := x) ?_ fun hx => ?_; (on_goal 2 => clear_value x); (on_goal 1 => unfold x; clear x)) | clear_value x)
      | split | (fail_if_no_progress (apply kept_mk))

end Sys2Proof.Machine
end

