-- ==== Sys2Proof/Laws/KeptPeep.lean ====
section
/-!
SUPPORT. What the operations of Machine/Peep.lean keep.
-/
set_option linter.unusedTactic false
set_option linter.unreachableTactic false
set_option linter.unusedVariables false
set_option linter.tactic.unusedName false
namespace Sys2Proof.Machine
variable {μ : Marks} {κ : List Instr}

theorem State.landPeep_kept {s : State} {c k : Nat} {img : List Word} (hk : s.Kept μ κ) (t_rows : μ.rows = none := by assumption) (t_past : μ.past = none := by assumption) (t_clusterRx : μ.clusterRx = none := by assumption) :
    (State.landPeep s c k img).Kept μ κ := by
  unfold State.landPeep
  repeat' with_reducible first
      | assumption | apply State.setLatchedRow_kept | apply State.updClRx_kept | apply State.clearCtrs_kept | apply foldl_kept | intro _
      | (extract_lets +onlyGivenNames x; first | (refine State.Kept.cut (m := μ) (q := κ) (s := x) ?_ fun hx => ?_; (on_goal 2 => clear_value x); (on_goal 1 => unfold x; clear x)) | clear_value x)
      | split | (fail_if_no_progress (apply kept_mk))

theorem State.peepDrop_kept {s : State} {c k : Nat} (hk : s.Kept μ κ) (t_twin : μ.twin = none := by assumption) :
    (State.peepDrop s c k).Kept μ κ := by
  unfold State.peepDrop
  repeat' with_reducible first
      | assumption | apply State.raiseOnce_kept | apply State.bumpRow_kept

theorem State.skidPush_kept {s : State} {c : Nat} {f : SkidFrame} (hk : s.Kept μ κ) (t_clusterRx : μ.clusterRx = none := by assumption) :
    (State.skidPush s c f).Kept μ κ := by
  unfold State.skidPush
  repeat' with_reducible first
      | assumption | apply State.updClRx_kept | (fail_if_no_progress (apply kept_mk))

theorem State.peepCopy_kept {s : State} {c k : Nat} {t : TapIn} (hk : s.Kept μ κ) (t_mem : μ.mem = none := by assumption) (t_clusterRx : μ.clusterRx = none := by assumption) (t_rings : μ.rings = none := by assumption) (t_quarters : μ.quarters = none := by assumption) (t_twin : μ.twin = none := by assumption) :
    (State.peepCopy s c k t).Kept μ κ := by
  unfold State.peepCopy
  repeat' with_reducible first
      | assumption | apply State.updClRx_kept | apply State.peepDrop_kept | apply State.skidPush_kept | apply State.stageRx_kept
      | (extract_lets +onlyGivenNames x; first | (refine State.Kept.cut (m := μ) (q := κ) (s := x) ?_ fun hx => ?_; (on_goal 2 => clear_value x); (on_goal 1 => unfold x; clear x)) | (refine State.Kept.cut (m := μ) (q := κ) (s := x.2) ?_ fun hx => ?_; (on_goal 2 => clear_value x); (on_goal 1 => unfold x; clear x)) | clear_value x)
      | split | (fail_if_no_progress (apply kept_mk))

theorem State.peepDelivered_kept {s : State} {c k n : Nat} (hk : s.Kept μ κ) (t_clusterRx : μ.clusterRx = none := by assumption) :
    (State.peepDelivered s c k n).Kept μ κ := by
  unfold State.peepDelivered
  repeat' with_reducible first
      | assumption | apply State.updClRx_kept | apply State.bumpRow_kept | (fail_if_no_progress (apply kept_mk))

theorem State.peepTap_kept {s : State} {t : TapIn} (hk : s.Kept μ κ) (t_mem : μ.mem = none := by assumption) (t_clusterRx : μ.clusterRx = none := by assumption) (t_rings : μ.rings = none := by assumption) (t_quarters : μ.quarters = none := by assumption) (t_twin : μ.twin = none := by assumption) :
    (State.peepTap s t).Kept μ κ := by
  unfold State.peepTap
  repeat' with_reducible first
      | assumption | apply State.bumpRow_kept | apply State.updClRx_kept | apply State.peepCopy_kept | apply foldl_kept | intro _
      | (extract_lets +onlyGivenNames x; first | (refine State.Kept.cut (m := μ) (q := κ) (s := x) ?_ fun hx => ?_; (on_goal 2 => clear_value x); (on_goal 1 => unfold x; clear x)) | clear_value x)
      | split | (fail_if_no_progress (apply kept_mk))

end Sys2Proof.Machine
end

