-- ==== Sys2Proof/Laws/KeptFlowControl.lean ====
section
/-!
SUPPORT. What the operations of Machine/FlowControl.lean keep.
-/
set_option linter.unusedTactic false
set_option linter.unreachableTactic false
set_option linter.unusedVariables false
set_option linter.tactic.unusedName false
namespace Sys2Proof.Machine
variable {μ : Marks} {κ : List Instr}

theorem State.landFcLate_kept {s : State} {p back : Nat} (hk : s.Kept μ κ) (t_past : μ.past = none := by assumption) (t_portRx : μ.portRx = none := by assumption) (t_clusterTx : μ.clusterTx = none := by assumption) (t_objs : μ.objs = none := by assumption) :
    (State.landFcLate s p back).Kept μ κ := by
  unfold State.landFcLate
  repeat' with_reducible first
      | assumption | apply State.updPort_kept | apply State.settlePort_kept | apply State.setPortReg_kept | apply foldl_kept | intro _
      | (extract_lets +onlyGivenNames x; first | (refine State.Kept.cut (m := μ) (q := κ) (s := x) ?_ fun hx => ?_; (on_goal 2 => clear_value x); (on_goal 1 => unfold x; clear x)) | (refine State.Kept.cut (m := μ) (q := κ) (s := x.2) ?_ fun hx => ?_; (on_goal 2 => clear_value x); (on_goal 1 => unfold x; clear x)) | clear_value x)
      | split | (fail_if_no_progress (apply kept_mk))

theorem State.ctlOnLanes_kept {s : State} {p : Nat} (hk : s.Kept μ κ) (t_portTx : μ.portTx = none := by assumption) :
    (State.ctlOnLanes s p).Kept μ κ := by
  unfold State.ctlOnLanes
  repeat' with_reducible first
      | assumption | apply State.updPortTx_kept
      | (extract_lets +onlyGivenNames x; first | (refine State.Kept.cut (m := μ) (q := κ) (s := x) ?_ fun hx => ?_; (on_goal 2 => clear_value x); (on_goal 1 => unfold x; clear x)) | clear_value x)
      | split | (fail_if_no_progress (apply kept_mk))

theorem State.lanes_kept {s : State} {p sfd : Nat} {frag : Option Nat} {bytes : Bytes} (hk : s.Kept μ κ) :
    (State.lanes s p sfd frag bytes).Kept μ κ := by
  unfold State.lanes
  repeat' with_reducible first
      | assumption | apply State.emit_kept | split

theorem State.sendOwn_kept {s : State} {p sfd : Nat} {bytes : Bytes} (hk : s.Kept μ κ) (t_mem : μ.mem = none := by assumption) (t_clusterRx : μ.clusterRx = none := by assumption) (t_rings : μ.rings = none := by assumption) (t_quarters : μ.quarters = none := by assumption) (t_twin : μ.twin = none := by assumption) :
    (State.sendOwn s p sfd bytes).Kept μ κ := by
  unfold State.sendOwn
  repeat' with_reducible first
      | assumption | apply State.peepTap_kept | apply State.lanes_kept | (fail_if_no_progress (apply kept_mk))

theorem State.sendVerify_kept {s : State} {p smd : Nat} (hk : s.Kept μ κ) (t_mem : μ.mem = none := by assumption) (t_clusterRx : μ.clusterRx = none := by assumption) (t_rings : μ.rings = none := by assumption) (t_quarters : μ.quarters = none := by assumption) (t_twin : μ.twin = none := by assumption) :
    (State.sendVerify s p smd).Kept μ κ := by
  unfold State.sendVerify
  repeat' with_reducible first
      | assumption | apply State.sendOwn_kept

theorem State.countSent_kept {s : State} {p : Nat} {body : Bytes} (hk : s.Kept μ κ) : (State.countSent s p body).Kept μ κ := by
  unfold State.countSent
  repeat' with_reducible first
      | assumption | apply State.bumpPort_kept
      | (extract_lets +onlyGivenNames x; first | (refine State.Kept.cut (m := μ) (q := κ) (s := x) ?_ fun hx => ?_; (on_goal 2 => clear_value x); (on_goal 1 => unfold x; clear x)) | clear_value x)
      | split

theorem State.sendMacCtl_kept {s : State} {p : Nat} {body : Bytes} (hk : s.Kept μ κ) (t_mem : μ.mem = none := by assumption) (t_clusterRx : μ.clusterRx = none := by assumption) (t_rings : μ.rings = none := by assumption) (t_quarters : μ.quarters = none := by assumption) (t_twin : μ.twin = none := by assumption) :
    (State.sendMacCtl s p body).Kept μ κ := by
  unfold State.sendMacCtl
  repeat' with_reducible first
      | assumption | apply State.sendOwn_kept | apply State.countSent_kept

theorem State.sendCtl_kept {s : State} {p : Nat} {k : CtlFrame} (hk : s.Kept μ κ) (t_mem : μ.mem = none := by assumption) (t_past : μ.past = none := by assumption) (t_portRx : μ.portRx = none := by assumption) (t_clusterRx : μ.clusterRx = none := by assumption) (t_clusterTx : μ.clusterTx = none := by assumption) (t_portTx : μ.portTx = none := by assumption) (t_rings : μ.rings = none := by assumption) (t_quarters : μ.quarters = none := by assumption) (t_twin : μ.twin = none := by assumption) (t_objs : μ.objs = none := by assumption) :
    (State.sendCtl s p k).Kept μ κ := by
  unfold State.sendCtl
  repeat' with_reducible first
      | assumption | apply State.landFcLate_kept | apply State.ctlOnLanes_kept | apply State.sendVerify_kept | apply State.bumpPort_kept
      | apply State.sendMacCtl_kept | apply foldl_kept | intro _
      | (extract_lets +onlyGivenNames x; first | (refine State.Kept.cut (m := μ) (q := κ) (s := x) ?_ fun hx => ?_; (on_goal 2 => clear_value x); (on_goal 1 => unfold x; clear x)) | clear_value x)
      | split

theorem State.queueCtl_kept {s : State} {p : Nat} {k : CtlFrame} (hk : s.Kept μ κ) (t_mem : μ.mem = none := by assumption) (t_past : μ.past = none := by assumption) (t_portRx : μ.portRx = none := by assumption) (t_clusterRx : μ.clusterRx = none := by assumption) (t_clusterTx : μ.clusterTx = none := by assumption) (t_portTx : μ.portTx = none := by assumption) (t_rings : μ.rings = none := by assumption) (t_quarters : μ.quarters = none := by assumption) (t_twin : μ.twin = none := by assumption) (t_objs : μ.objs = none := by assumption) :
    (State.queueCtl s p k).Kept μ κ := by
  unfold State.queueCtl
  repeat' with_reducible first
      | assumption | apply State.sendCtl_kept | apply State.updPortTx_kept | split | (fail_if_no_progress (apply kept_mk))

theorem State.verifyStart_kept {s : State} {p : Nat} (hk : s.Kept μ κ) (t_mem : μ.mem = none := by assumption) (t_past : μ.past = none := by assumption) (t_portRx : μ.portRx = none := by assumption) (t_clusterRx : μ.clusterRx = none := by assumption) (t_clusterTx : μ.clusterTx = none := by assumption) (t_portTx : μ.portTx = none := by assumption) (t_rings : μ.rings = none := by assumption) (t_quarters : μ.quarters = none := by assumption) (t_twin : μ.twin = none := by assumption) (t_objs : μ.objs = none := by assumption) :
    (State.verifyStart s p).Kept μ κ := by
  unfold State.verifyStart
  repeat' with_reducible first
      | assumption | apply State.updPortTx_kept | apply State.queueCtl_kept
      | (extract_lets +onlyGivenNames x; first | (refine State.Kept.cut (m := μ) (q := κ) (s := x) ?_ fun hx => ?_; (on_goal 2 => clear_value x); (on_goal 1 => unfold x; clear x)) | clear_value x)
      | split | (fail_if_no_progress (apply kept_mk))

theorem State.landLate_kept {s : State} {p : Nat} (hk : s.Kept μ κ) (t_mem : μ.mem = none := by assumption) (t_past : μ.past = none := by assumption) (t_portRx : μ.portRx = none := by assumption) (t_clusterRx : μ.clusterRx = none := by assumption) (t_clusterTx : μ.clusterTx = none := by assumption) (t_portTx : μ.portTx = none := by assumption) (t_rings : μ.rings = none := by assumption) (t_quarters : μ.quarters = none := by assumption) (t_twin : μ.twin = none := by assumption) (t_objs : μ.objs = none := by assumption) :
    (State.landLate s p).Kept μ κ := by
  unfold State.landLate
  repeat' with_reducible first
      | assumption | apply State.updPortTx_kept | apply State.verifyStart_kept | apply State.setReg_kept | apply foldl_kept | intro _
      | (extract_lets +onlyGivenNames x; first | (refine State.Kept.cut (m := μ) (q := κ) (s := x) ?_ fun hx => ?_; (on_goal 2 => clear_value x); (on_goal 1 => unfold x; clear x)) | (refine State.Kept.cut (m := μ) (q := κ) (s := x.2) ?_ fun hx => ?_; (on_goal 2 => clear_value x); (on_goal 1 => unfold x; clear x)) | clear_value x)
      | split | (fail_if_no_progress (apply kept_mk))

theorem State.xoffDone_kept {s : State} {p : Nat} (hk : s.Kept μ κ) (t_portTx : μ.portTx = none := by assumption) :
    (State.xoffDone s p).Kept μ κ := by
  unfold State.xoffDone
  repeat' with_reducible first
      | assumption | apply State.updPortTx_kept
      | (extract_lets +onlyGivenNames x; first | (refine State.Kept.cut (m := μ) (q := κ) (s := x) ?_ fun hx => ?_; (on_goal 2 => clear_value x); (on_goal 1 => unfold x; clear x)) | clear_value x)
      | (fail_if_no_progress (apply kept_mk))

theorem State.sendPfc_kept {s : State} {p : Nat} (hk : s.Kept μ κ) (t_mem : μ.mem = none := by assumption) (t_past : μ.past = none := by assumption) (t_portRx : μ.portRx = none := by assumption) (t_clusterRx : μ.clusterRx = none := by assumption) (t_clusterTx : μ.clusterTx = none := by assumption) (t_portTx : μ.portTx = none := by assumption) (t_rings : μ.rings = none := by assumption) (t_quarters : μ.quarters = none := by assumption) (t_twin : μ.twin = none := by assumption) (t_objs : μ.objs = none := by assumption) :
    (State.sendPfc s p).Kept μ κ := by
  unfold State.sendPfc
  repeat' with_reducible first
      | assumption | apply State.queueCtl_kept | apply State.xoffDone_kept

theorem State.settlePfc_kept {s : State} {p : Nat} (hk : s.Kept μ κ) (t_mem : μ.mem = none := by assumption) (t_past : μ.past = none := by assumption) (t_portRx : μ.portRx = none := by assumption) (t_clusterRx : μ.clusterRx = none := by assumption) (t_clusterTx : μ.clusterTx = none := by assumption) (t_portTx : μ.portTx = none := by assumption) (t_rings : μ.rings = none := by assumption) (t_quarters : μ.quarters = none := by assumption) (t_twin : μ.twin = none := by assumption) (t_objs : μ.objs = none := by assumption) :
    (State.settlePfc s p).Kept μ κ := by
  unfold State.settlePfc
  repeat' with_reducible first
      | assumption | apply State.sendPfc_kept | split

theorem State.sendWaiting_kept {s : State} {p : Nat} (hk : s.Kept μ κ) (t_mem : μ.mem = none := by assumption) (t_past : μ.past = none := by assumption) (t_portRx : μ.portRx = none := by assumption) (t_clusterRx : μ.clusterRx = none := by assumption) (t_clusterTx : μ.clusterTx = none := by assumption) (t_portTx : μ.portTx = none := by assumption) (t_rings : μ.rings = none := by assumption) (t_quarters : μ.quarters = none := by assumption) (t_twin : μ.twin = none := by assumption) (t_objs : μ.objs = none := by assumption) :
    (State.sendWaiting s p).Kept μ κ := by
  unfold State.sendWaiting
  repeat' with_reducible first
      | assumption | apply State.settlePfc_kept | apply State.sendCtl_kept | apply State.setPortTx_kept | apply foldl_kept | intro _
      | (extract_lets +onlyGivenNames x; first | (refine State.Kept.cut (m := μ) (q := κ) (s := x) ?_ fun hx => ?_; (on_goal 2 => clear_value x); (on_goal 1 => unfold x; clear x)) | clear_value x)
      | split | (fail_if_no_progress (apply kept_mk))

theorem State.boundaryTx_kept {s : State} {p : Nat} (hk : s.Kept μ κ) (t_mem : μ.mem = none := by assumption) (t_past : μ.past = none := by assumption) (t_portRx : μ.portRx = none := by assumption) (t_clusterRx : μ.clusterRx = none := by assumption) (t_clusterTx : μ.clusterTx = none := by assumption) (t_portTx : μ.portTx = none := by assumption) (t_rings : μ.rings = none := by assumption) (t_quarters : μ.quarters = none := by assumption) (t_twin : μ.twin = none := by assumption) (t_objs : μ.objs = none := by assumption) :
    (State.boundaryTx s p).Kept μ κ := by
  unfold State.boundaryTx
  repeat' with_reducible first
      | assumption | apply State.landLate_kept | apply State.sendWaiting_kept

theorem State.dropCtl_kept {s : State} {p : Nat} (hk : s.Kept μ κ) (t_portTx : μ.portTx = none := by assumption) :
    (State.dropCtl s p).Kept μ κ := by
  unfold State.dropCtl
  repeat' with_reducible first
      | assumption | apply State.updPortTx_kept | (fail_if_no_progress (apply kept_mk))

theorem State.endOnLanes_kept {s : State} {p : Nat} (hk : s.Kept μ κ) (t_portTx : μ.portTx = none := by assumption) :
    (State.endOnLanes s p).Kept μ κ := by
  unfold State.endOnLanes
  repeat' with_reducible first
      | assumption | apply State.updPortTx_kept
      | (extract_lets +onlyGivenNames x; first | (refine State.Kept.cut (m := μ) (q := κ) (s := x) ?_ fun hx => ?_; (on_goal 2 => clear_value x); (on_goal 1 => unfold x; clear x)) | clear_value x)
      | (fail_if_no_progress (apply kept_mk))

theorem State.fcUpdate_kept {s : State} {p : Nat} (hk : s.Kept μ κ) (t_mem : μ.mem = none := by assumption) (t_past : μ.past = none := by assumption) (t_portRx : μ.portRx = none := by assumption) (t_clusterRx : μ.clusterRx = none := by assumption) (t_clusterTx : μ.clusterTx = none := by assumption) (t_portTx : μ.portTx = none := by assumption) (t_rings : μ.rings = none := by assumption) (t_quarters : μ.quarters = none := by assumption) (t_twin : μ.twin = none := by assumption) (t_objs : μ.objs = none := by assumption) :
    (State.fcUpdate s p).Kept μ κ := by
  unfold State.fcUpdate
  repeat' with_reducible first
      | assumption | (rename_i e; have e2 := congrArg Prod.snd e; dsimp only at e2; subst e2) | apply State.setPortTx_kept
      | apply State.queueCtl_kept | apply State.xoffDone_kept | apply State.updPortTx_kept
      | (extract_lets +onlyGivenNames x; first | (refine State.Kept.cut (m := μ) (q := κ) (s := x) ?_ fun hx => ?_; (on_goal 2 => clear_value x); (on_goal 1 => unfold x; clear x)) | clear_value x)
      | split | (fail_if_no_progress (apply kept_mk))

theorem State.fcStart_kept {s : State} {p : Nat} (hk : s.Kept μ κ) (t_mem : μ.mem = none := by assumption) (t_past : μ.past = none := by assumption) (t_portRx : μ.portRx = none := by assumption) (t_clusterRx : μ.clusterRx = none := by assumption) (t_clusterTx : μ.clusterTx = none := by assumption) (t_portTx : μ.portTx = none := by assumption) (t_rings : μ.rings = none := by assumption) (t_quarters : μ.quarters = none := by assumption) (t_twin : μ.twin = none := by assumption) (t_objs : μ.objs = none := by assumption) :
    (State.fcStart s p).Kept μ κ := by
  unfold State.fcStart
  repeat' with_reducible first
      | assumption | apply State.fcUpdate_kept | apply State.updPortTx_kept | (fail_if_no_progress (apply kept_mk))

theorem State.landSillSet_kept {s : State} {p v : Nat} (hk : s.Kept μ κ) (t_portTx : μ.portTx = none := by assumption) :
    (State.landSillSet s p v).Kept μ κ := by
  unfold State.landSillSet
  repeat' with_reducible first
      | assumption | apply State.updPortTx_kept | (fail_if_no_progress (apply kept_mk))

theorem State.landTxCauseClr_kept {s : State} {p : Nat} {v : Word} (hk : s.Kept μ κ) (t_portTx : μ.portTx = none := by assumption) :
    (State.landTxCauseClr s p v).Kept μ κ := by
  unfold State.landTxCauseClr
  repeat' with_reducible first
      | assumption | apply State.updPortTx_kept | (fail_if_no_progress (apply kept_mk))

theorem State.landVerify_kept {s : State} {p sub : Nat} {v : Word} (hk : s.Kept μ κ) (t_mem : μ.mem = none := by assumption) (t_past : μ.past = none := by assumption) (t_portRx : μ.portRx = none := by assumption) (t_clusterRx : μ.clusterRx = none := by assumption) (t_clusterTx : μ.clusterTx = none := by assumption) (t_portTx : μ.portTx = none := by assumption) (t_rings : μ.rings = none := by assumption) (t_quarters : μ.quarters = none := by assumption) (t_twin : μ.twin = none := by assumption) (t_objs : μ.objs = none := by assumption) :
    (State.landVerify s p sub v).Kept μ κ := by
  unfold State.landVerify
  repeat' with_reducible first
      | assumption | apply State.updPortTx_kept | apply State.verifyStart_kept | apply State.setReg_kept | split
      | (fail_if_no_progress (apply kept_mk))

theorem State.setSignal_kept {s : State} {p : Nat} {sig : LaneSignal} (hk : s.Kept μ κ) (t_portTx : μ.portTx = none := by assumption) :
    (State.setSignal s p sig).Kept μ κ := by
  unfold State.setSignal
  repeat' with_reducible first
      | assumption | apply State.emit_kept | apply State.updPortTx_kept | split | (fail_if_no_progress (apply kept_mk))

theorem State.settleSignal_kept {s : State} {p : Nat} (hk : s.Kept μ κ) (t_portTx : μ.portTx = none := by assumption) :
    (State.settleSignal s p).Kept μ κ := by
  unfold State.settleSignal
  repeat' with_reducible first
      | assumption | apply State.setSignal_kept

theorem State.txCause_kept {s : State} {p bit : Nat} (hk : s.Kept μ κ) (t_portTx : μ.portTx = none := by assumption) :
    (State.txCause s p bit).Kept μ κ := by
  unfold State.txCause
  repeat' with_reducible first
      | assumption | apply State.setPortTx_kept | apply State.raise_kept
      | (extract_lets +onlyGivenNames x; first | (refine State.Kept.cut (m := μ) (q := κ) (s := x) ?_ fun hx => ?_; (on_goal 2 => clear_value x); (on_goal 1 => unfold x; clear x)) | clear_value x)
      | split | (fail_if_no_progress (apply kept_mk))

theorem State.verifyStop_kept {s : State} {p : Nat} (hk : s.Kept μ κ) (t_portTx : μ.portTx = none := by assumption) :
    (State.verifyStop s p).Kept μ κ := by
  unfold State.verifyStop
  repeat' with_reducible first
      | assumption | apply State.updPortTx_kept | (fail_if_no_progress (apply kept_mk))

theorem execFcXoffChange_kept {dt p xoff : Nat} {s : State} (hk : s.Kept μ κ) (t_mem : μ.mem = none := by assumption) (t_past : μ.past = none := by assumption) (t_portRx : μ.portRx = none := by assumption) (t_clusterRx : μ.clusterRx = none := by assumption) (t_clusterTx : μ.clusterTx = none := by assumption) (t_portTx : μ.portTx = none := by assumption) (t_rings : μ.rings = none := by assumption) (t_quarters : μ.quarters = none := by assumption) (t_twin : μ.twin = none := by assumption) (t_objs : μ.objs = none := by assumption) :
    ResKept μ κ (execFcXoffChange dt p xoff s) := by
  unfold execFcXoffChange
  repeat' with_reducible first
      | assumption | apply resKept_next | apply State.settlePfc_kept | apply State.elapse_kept | apply State.fcUpdate_kept
      | apply State.updPortTx_kept
      | (extract_lets +onlyGivenNames x; first | (refine State.Kept.cut (m := μ) (q := κ) (s := x) ?_ fun hx => ?_; (on_goal 2 => clear_value x); (on_goal 1 => unfold x; clear x)) | clear_value x)
      | (fail_if_no_progress (apply kept_mk))

theorem execPauseRefresh_kept {dt p : Nat} {s : State} (hk : s.Kept μ κ) (t_mem : μ.mem = none := by assumption) (t_past : μ.past = none := by assumption) (t_portRx : μ.portRx = none := by assumption) (t_clusterRx : μ.clusterRx = none := by assumption) (t_clusterTx : μ.clusterTx = none := by assumption) (t_portTx : μ.portTx = none := by assumption) (t_rings : μ.rings = none := by assumption) (t_quarters : μ.quarters = none := by assumption) (t_twin : μ.twin = none := by assumption) (t_objs : μ.objs = none := by assumption) :
    ResKept μ κ (execPauseRefresh dt p s) := by
  unfold execPauseRefresh
  repeat' with_reducible first
      | assumption | apply resKept_next | apply State.settlePfc_kept | apply State.elapse_kept | apply State.queueCtl_kept
      | apply State.xoffDone_kept | apply State.sendPfc_kept | intro _
      | (extract_lets +onlyGivenNames x; first | (refine State.Kept.cut (m := μ) (q := κ) (s := x) ?_ fun hx => ?_; (on_goal 2 => clear_value x); (on_goal 1 => unfold x; clear x)) | (refine State.Kept.cut (m := μ) (q := κ) (s := x.2) ?_ fun hx => ?_; (on_goal 2 => clear_value x); (on_goal 1 => unfold x; clear x)) | (have _f : _ → _ := x; clear _f) | clear_value x | skip)
      | split | (fail_if_no_progress (apply kept_mk)) | (dsimp -zeta +zetaDelta only)

theorem execVerifyTimeout_kept {dt p : Nat} {s : State} (hk : s.Kept μ κ) (t_mem : μ.mem = none := by assumption) (t_past : μ.past = none := by assumption) (t_portRx : μ.portRx = none := by assumption) (t_clusterRx : μ.clusterRx = none := by assumption) (t_clusterTx : μ.clusterTx = none := by assumption) (t_portTx : μ.portTx = none := by assumption) (t_rings : μ.rings = none := by assumption) (t_quarters : μ.quarters = none := by assumption) (t_twin : μ.twin = none := by assumption) (t_objs : μ.objs = none := by assumption) :
    ResKept μ κ (execVerifyTimeout dt p s) := by
  unfold execVerifyTimeout
  repeat' with_reducible first
      | assumption | apply resKept_next | apply State.elapse_kept | apply State.queueCtl_kept | apply State.setPortTx_kept
      | apply State.txCause_kept
      | (extract_lets +onlyGivenNames x; first | (refine State.Kept.cut (m := μ) (q := κ) (s := x) ?_ fun hx => ?_; (on_goal 2 => clear_value x); (on_goal 1 => unfold x; clear x)) | clear_value x)
      | split | (fail_if_no_progress (apply kept_mk))

end Sys2Proof.Machine
end

