-- ==== Sys2Proof/Laws/KeptMacsec.lean ====
section
/-!
SUPPORT. What the operations of Machine/Macsec.lean keep.
-/
set_option linter.unusedTactic false
set_option linter.unreachableTactic false
set_option linter.unusedVariables false
set_option linter.tactic.unusedName false
namespace Sys2Proof.Machine
variable {μ : Marks} {κ : List Instr}

theorem State.drawMasks_kept {s : State} {c : Nat} (hk : s.Kept μ κ) (t_masks : μ.masks = none := by assumption) :
    (State.drawMasks s c).Kept μ κ := by
  unfold State.drawMasks
  repeat' with_reducible first
      | assumption
      | (extract_lets +onlyGivenNames x; first | (refine State.Kept.cut (m := μ) (q := κ) (s := x) ?_ fun hx => ?_; (on_goal 2 => clear_value x); (on_goal 1 => unfold x; clear x)) | (refine State.Kept.cut (m := μ) (q := κ) (s := x.2) ?_ fun hx => ?_; (on_goal 2 => clear_value x); (on_goal 1 => unfold x; clear x)) | clear_value x)
      | apply kept_masks | (fail_if_no_progress (apply kept_mk))

theorem State.pnAlert_kept {s : State} {c r : Nat} {exhausted : Bool} (hk : s.Kept μ κ) (t_clusterRx : μ.clusterRx = none := by assumption) :
    (State.pnAlert s c r exhausted).Kept μ κ := by
  unfold State.pnAlert
  repeat' with_reducible first
      | assumption | apply State.setClRx_kept | apply State.raise_kept
      | (extract_lets +onlyGivenNames x; first | (refine State.Kept.cut (m := μ) (q := κ) (s := x) ?_ fun hx => ?_; (on_goal 2 => clear_value x); (on_goal 1 => unfold x; clear x)) | clear_value x)
      | split | (fail_if_no_progress (apply kept_mk))

theorem State.saFlag_kept {s : State} {c r bit : Nat} (hk : s.Kept μ κ) (t_rows : μ.rows = none := by assumption) (t_clusterRx : μ.clusterRx = none := by assumption) :
    (State.saFlag s c r bit).Kept μ κ := by
  unfold State.saFlag
  repeat' with_reducible first
      | assumption | apply State.pnAlert_kept | apply State.rowSet_kept
      | (extract_lets +onlyGivenNames x; first | (refine State.Kept.cut (m := μ) (q := κ) (s := x) ?_ fun hx => ?_; (on_goal 2 => clear_value x); (on_goal 1 => unfold x; clear x)) | clear_value x)
      | split

theorem State.landSa_kept {s : State} {c r : Nat} {img : List Word} (hk : s.Kept μ κ) (t_rows : μ.rows = none := by assumption) (t_past : μ.past = none := by assumption) (t_clusterRx : μ.clusterRx = none := by assumption) :
    (State.landSa s c r img).Kept μ κ := by
  unfold State.landSa
  repeat' with_reducible first
      | assumption | apply State.setLatchedRow_kept | apply State.rowSet_kept | apply State.clearCtrs_kept | apply State.saFlag_kept
      | (extract_lets +onlyGivenNames x; first | (refine State.Kept.cut (m := μ) (q := κ) (s := x) ?_ fun hx => ?_; (on_goal 2 => clear_value x); (on_goal 1 => unfold x; clear x)) | clear_value x)
      | split

theorem State.readHoldPeak_kept {s : State} {c : Nat} (hk : s.Kept μ κ) (t_clusterRx : μ.clusterRx = none := by assumption) :
    (State.readHoldPeak s c).2.Kept μ κ := by
  unfold State.readHoldPeak
  repeat' with_reducible first
      | assumption | apply State.updClRx_kept
      | (extract_lets +onlyGivenNames x; first | (refine State.Kept.cut (m := μ) (q := κ) (s := x) ?_ fun hx => ?_; (on_goal 2 => clear_value x); (on_goal 1 => unfold x; clear x)) | clear_value x)
      | (fail_if_no_progress (apply kept_mk))

theorem State.readPnAlert_kept {s : State} {c : Nat} (hk : s.Kept μ κ) (t_clusterRx : μ.clusterRx = none := by assumption) :
    (State.readPnAlert s c).2.Kept μ κ := by
  unfold State.readPnAlert
  repeat' with_reducible first
      | assumption | apply State.setClRx_kept
      | (extract_lets +onlyGivenNames x; first | (refine State.Kept.cut (m := μ) (q := κ) (s := x) ?_ fun hx => ?_; (on_goal 2 => clear_value x); (on_goal 1 => unfold x; clear x)) | clear_value x)
      | split | (fail_if_no_progress (apply kept_mk))

theorem State.secCount_kept {s : State} {p : Nat} {f : TxFrame} {len : Nat} (hk : s.Kept μ κ) : (State.secCount s p f len).Kept μ κ := by
  unfold State.secCount
  repeat' with_reducible first
      | assumption | apply State.bumpRow_kept | apply State.bumpPort_kept
      | (extract_lets +onlyGivenNames x; first | (refine State.Kept.cut (m := μ) (q := κ) (s := x) ?_ fun hx => ?_; (on_goal 2 => clear_value x); (on_goal 1 => unfold x; clear x)) | clear_value x)
      | split

theorem State.takePn_kept {s : State} {c r gen : Nat} {xpn : Bool} (hk : s.Kept μ κ) (t_rows : μ.rows = none := by assumption) (t_clusterRx : μ.clusterRx = none := by assumption) (t_clusterTx : μ.clusterTx = none := by assumption) :
    (State.takePn s c r gen xpn).2.Kept μ κ := by
  unfold State.takePn
  repeat' with_reducible first
      | assumption | apply State.updClTx_kept | apply State.rowSet_kept | apply State.saFlag_kept
      | (extract_lets +onlyGivenNames x; first | (refine State.Kept.cut (m := μ) (q := κ) (s := x) ?_ fun hx => ?_; (on_goal 2 => clear_value x); (on_goal 1 => unfold x; clear x)) | clear_value x)
      | split | (fail_if_no_progress (apply kept_mk))

theorem State.secStage_kept {s : State} {p : Nat} {f : TxFrame} {et : Nat} (hk : s.Kept μ κ) (t_rows : μ.rows = none := by assumption) (t_masks : μ.masks = none := by assumption) (t_clusterRx : μ.clusterRx = none := by assumption) (t_clusterTx : μ.clusterTx = none := by assumption) :
    (State.secStage s p f et).2.Kept μ κ := by
  unfold State.secStage
  repeat' with_reducible first
      | assumption | apply State.bumpPort_kept | apply State.bumpRow_kept | apply State.takePn_kept | apply State.drawMasks_kept
      | (extract_lets +onlyGivenNames x; first | (refine State.Kept.cut (m := μ) (q := κ) (s := x) ?_ fun hx => ?_; (on_goal 2 => clear_value x); (on_goal 1 => unfold x; clear x)) | (refine State.Kept.cut (m := μ) (q := κ) (s := x.2) ?_ fun hx => ?_; (on_goal 2 => clear_value x); (on_goal 1 => unfold x; clear x)) | clear_value x)
      | split | (fail_if_no_progress (apply kept_mk))

theorem State.storeDraw_kept {s : State} {n : Nat} (hk : s.Kept μ κ) (t_masks : μ.masks = none := by assumption) :
    (State.storeDraw s n).2.Kept μ κ := by
  unfold State.storeDraw
  repeat' with_reducible first
      | assumption
      | (extract_lets +onlyGivenNames x; first | (refine State.Kept.cut (m := μ) (q := κ) (s := x) ?_ fun hx => ?_; (on_goal 2 => clear_value x); (on_goal 1 => unfold x; clear x)) | (refine State.Kept.cut (m := μ) (q := κ) (s := x.2) ?_ fun hx => ?_; (on_goal 2 => clear_value x); (on_goal 1 => unfold x; clear x)) | clear_value x)
      | apply kept_masks | (fail_if_no_progress (apply kept_mk))

end Sys2Proof.Machine
end

