-- ==== Sys2Proof/Laws/KeptTransmit.lean ====
section
/-!
SUPPORT. What the operations of Machine/Transmit.lean keep.
-/
set_option linter.unusedTactic false
set_option linter.unreachableTactic false
set_option linter.unusedVariables false
set_option linter.tactic.unusedName false
namespace Sys2Proof.Machine
variable {μ : Marks} {κ : List Instr}

theorem State.addBulk_kept {s : State} {p tc len : Nat} (hk : s.Kept μ κ) (t_twin : μ.twin = none := by assumption) :
    (State.addBulk s p tc len).Kept μ κ := by
  unfold State.addBulk
  repeat' with_reducible first
      | assumption | apply State.updTwin_kept
      | (extract_lets +onlyGivenNames x; first | (refine State.Kept.cut (m := μ) (q := κ) (s := x) ?_ fun hx => ?_; (on_goal 2 => clear_value x); (on_goal 1 => unfold x; clear x)) | clear_value x)
      | split | (fail_if_no_progress (apply kept_mk))

theorem State.addFrame_kept {s : State} {p : Nat} {f : TxFrame} (hk : s.Kept μ κ) (t_portTx : μ.portTx = none := by assumption) :
    (State.addFrame s p f).Kept μ κ := by
  unfold State.addFrame
  repeat' with_reducible first
      | assumption | apply State.updPortTx_kept | (fail_if_no_progress (apply kept_mk))

theorem State.cutOversize_kept {s : State} {p : Nat} {f : TxFrame} (hk : s.Kept μ κ) (t_portTx : μ.portTx = none := by assumption) :
    (State.cutOversize s p f).2.Kept μ κ := by
  unfold State.cutOversize
  repeat' with_reducible first
      | assumption | apply State.txCause_kept | apply State.bumpPort_kept | split | (fail_if_no_progress (apply kept_mk))

theorem State.countFirst_kept {s : State} {p : Nat} {f : TxFrame} {slot : Nat} (hk : s.Kept μ κ) :
    (State.countFirst s p f slot).Kept μ κ := by
  unfold State.countFirst
  repeat' with_reducible first
      | assumption | apply State.bumpPort_kept | split

theorem State.bufferEcc_kept {s : State} {p : Nat} {f : TxFrame} (hk : s.Kept μ κ) (t_twin : μ.twin = none := by assumption) :
    (State.bufferEcc s p f).Kept μ κ := by
  unfold State.bufferEcc
  repeat' with_reducible first
      | assumption | apply State.raiseOnce_kept | apply State.bump_kept | apply State.countFirst_kept

theorem State.lengthCheck_kept {s : State} {p annLen len : Nat} (hk : s.Kept μ κ) (t_portTx : μ.portTx = none := by assumption) :
    (State.lengthCheck s p annLen len).Kept μ κ := by
  unfold State.lengthCheck
  repeat' with_reducible first
      | assumption | apply State.txCause_kept | apply State.bumpPort_kept | split

theorem State.addSegment_kept {s : State} {p : Nat} {f : TxFrame} {seg : Segment} {ecc : Bool} (hk : s.Kept μ κ) (t_portTx : μ.portTx = none := by assumption) (t_twin : μ.twin = none := by assumption) :
    (State.addSegment s p f seg ecc).2.Kept μ κ := by
  unfold State.addSegment
  repeat' with_reducible first
      | assumption | apply State.cutOversize_kept | apply State.bufferEcc_kept | apply State.lengthCheck_kept | apply State.txCause_kept
      | apply State.bumpPort_kept
      | (extract_lets +onlyGivenNames x; first | (refine State.Kept.cut (m := μ) (q := κ) (s := x) ?_ fun hx => ?_; (on_goal 2 => clear_value x); (on_goal 1 => unfold x; clear x)) | (refine State.Kept.cut (m := μ) (q := κ) (s := x.2) ?_ fun hx => ?_; (on_goal 2 => clear_value x); (on_goal 1 => unfold x; clear x)) | clear_value x)
      | split | (fail_if_no_progress (apply kept_mk))

theorem State.calUpsets_kept {s : State} {c : Nat} {ups : List Upset} (hk : s.Kept μ κ) (t_rows : μ.rows = none := by assumption) (t_clusterTx : μ.clusterTx = none := by assumption) (t_twin : μ.twin = none := by assumption) :
    (State.calUpsets s c ups).Kept μ κ := by
  unfold State.calUpsets
  repeat' with_reducible first
      | assumption | apply State.calEcc_kept | apply foldl_kept | intro _ | split

theorem State.wireFree_kept {s : State} {p : Nat} {f : TxFrame} (hk : s.Kept μ κ) (t_mem : μ.mem = none := by assumption) (t_past : μ.past = none := by assumption) (t_portRx : μ.portRx = none := by assumption) (t_clusterRx : μ.clusterRx = none := by assumption) (t_clusterTx : μ.clusterTx = none := by assumption) (t_portTx : μ.portTx = none := by assumption) (t_rings : μ.rings = none := by assumption) (t_quarters : μ.quarters = none := by assumption) (t_twin : μ.twin = none := by assumption) (t_objs : μ.objs = none := by assumption) :
    (State.wireFree s p f).Kept μ κ := by
  unfold State.wireFree
  repeat' with_reducible first
      | assumption | apply State.boundaryTx_kept | apply State.endOnLanes_kept | apply State.updPortTx_kept
      | (fail_if_no_progress (apply kept_mk))

theorem State.tapPlain_kept {s : State} {p : Nat} {f : TxFrame} {stamp : Word} (hk : s.Kept μ κ) (t_mem : μ.mem = none := by assumption) (t_clusterRx : μ.clusterRx = none := by assumption) (t_rings : μ.rings = none := by assumption) (t_quarters : μ.quarters = none := by assumption) (t_twin : μ.twin = none := by assumption) :
    (State.tapPlain s p f stamp).Kept μ κ := by
  unfold State.tapPlain
  repeat' with_reducible first
      | assumption | apply State.peepTap_kept
      | (extract_lets +onlyGivenNames x; first | (refine State.Kept.cut (m := μ) (q := κ) (s := x) ?_ fun hx => ?_; (on_goal 2 => clear_value x); (on_goal 1 => unfold x; clear x)) | clear_value x)
      | split | (fail_if_no_progress (apply kept_mk))

theorem State.overrunCheck_kept {s : State} {p : Nat} {f : TxFrame} (hk : s.Kept μ κ) (t_shutters : μ.shutters = none := by assumption) :
    (State.overrunCheck s p f).Kept μ κ := by
  unfold State.overrunCheck
  repeat' with_reducible first
      | assumption | apply State.shutCause_kept | apply State.bumpPort_kept
      | (extract_lets +onlyGivenNames x; first | (refine State.Kept.cut (m := μ) (q := κ) (s := x) ?_ fun hx => ?_; (on_goal 2 => clear_value x); (on_goal 1 => unfold x; clear x)) | clear_value x)
      | split

theorem State.frameLeft_kept {s : State} {p : Nat} {f : TxFrame} {bytes : Bytes} {fin : End} (hk : s.Kept μ κ) (t_mem : μ.mem = none := by assumption) (t_clusterRx : μ.clusterRx = none := by assumption) (t_shutters : μ.shutters = none := by assumption) (t_rings : μ.rings = none := by assumption) (t_quarters : μ.quarters = none := by assumption) (t_twin : μ.twin = none := by assumption) :
    (State.frameLeft s p f bytes fin).Kept μ κ := by
  unfold State.frameLeft
  repeat' with_reducible first
      | assumption | apply State.peepTap_kept | apply State.tapPlain_kept | apply State.overrunCheck_kept | apply State.directDone_kept
      | (extract_lets +onlyGivenNames x; first | (refine State.Kept.cut (m := μ) (q := κ) (s := x) ?_ fun hx => ?_; (on_goal 2 => clear_value x); (on_goal 1 => unfold x; clear x)) | clear_value x)
      | split | (fail_if_no_progress (apply kept_mk))

theorem State.sendFragment_kept {s : State} {p : Nat} {f : TxFrame} {bytes tail : Bytes} (hk : s.Kept μ κ) :
    (State.sendFragment s p f bytes tail).Kept μ κ := by
  unfold State.sendFragment
  repeat' with_reducible first
      | assumption | apply State.bumpPort_kept | apply State.lanes_kept
      | (extract_lets +onlyGivenNames x; first | (refine State.Kept.cut (m := μ) (q := κ) (s := x) ?_ fun hx => ?_; (on_goal 2 => clear_value x); (on_goal 1 => unfold x; clear x)) | (refine State.Kept.cut (m := μ) (q := κ) (s := x.2) ?_ fun hx => ?_; (on_goal 2 => clear_value x); (on_goal 1 => unfold x; clear x)) | clear_value x)
      | split

theorem State.stompLanes_kept {s : State} {p : Nat} {f : TxFrame} {body : Bytes} (hk : s.Kept μ κ) (t_mem : μ.mem = none := by assumption) (t_clusterRx : μ.clusterRx = none := by assumption) (t_shutters : μ.shutters = none := by assumption) (t_rings : μ.rings = none := by assumption) (t_quarters : μ.quarters = none := by assumption) (t_twin : μ.twin = none := by assumption) :
    (State.stompLanes s p f body).Kept μ κ := by
  unfold State.stompLanes
  repeat' with_reducible first
      | assumption | apply State.frameLeft_kept | apply State.sendFragment_kept | apply State.bumpPort_kept

theorem State.stompWire_kept {s : State} {p : Nat} {f : TxFrame} {body : Bytes} (hk : s.Kept μ κ) (t_mem : μ.mem = none := by assumption) (t_past : μ.past = none := by assumption) (t_portRx : μ.portRx = none := by assumption) (t_clusterRx : μ.clusterRx = none := by assumption) (t_clusterTx : μ.clusterTx = none := by assumption) (t_portTx : μ.portTx = none := by assumption) (t_shutters : μ.shutters = none := by assumption) (t_rings : μ.rings = none := by assumption) (t_quarters : μ.quarters = none := by assumption) (t_twin : μ.twin = none := by assumption) (t_objs : μ.objs = none := by assumption) :
    (State.stompWire s p f body).Kept μ κ := by
  unfold State.stompWire
  repeat' with_reducible first
      | assumption | apply State.wireFree_kept | apply State.stompLanes_kept

theorem State.cutWire_kept {s : State} {p slot : Nat} {f : TxFrame} {pad : Bool} (hk : s.Kept μ κ) (t_mem : μ.mem = none := by assumption) (t_past : μ.past = none := by assumption) (t_portRx : μ.portRx = none := by assumption) (t_clusterRx : μ.clusterRx = none := by assumption) (t_clusterTx : μ.clusterTx = none := by assumption) (t_portTx : μ.portTx = none := by assumption) (t_shutters : μ.shutters = none := by assumption) (t_rings : μ.rings = none := by assumption) (t_quarters : μ.quarters = none := by assumption) (t_twin : μ.twin = none := by assumption) (t_objs : μ.objs = none := by assumption) :
    (State.cutWire s p slot f pad).Kept μ κ := by
  unfold State.cutWire
  repeat' with_reducible first
      | assumption | apply State.stompWire_kept | apply State.countFirst_kept
      | (extract_lets +onlyGivenNames x; first | (refine State.Kept.cut (m := μ) (q := κ) (s := x) ?_ fun hx => ?_; (on_goal 2 => clear_value x); (on_goal 1 => unfold x; clear x)) | clear_value x)
      | split

theorem State.dropFrame_kept {s : State} {p : Nat} {f : TxFrame} (hk : s.Kept μ κ) (t_mem : μ.mem = none := by assumption) (t_clusterRx : μ.clusterRx = none := by assumption) (t_rings : μ.rings = none := by assumption) (t_quarters : μ.quarters = none := by assumption) (t_twin : μ.twin = none := by assumption) :
    (State.dropFrame s p f).Kept μ κ := by
  unfold State.dropFrame
  repeat' with_reducible first
      | assumption | apply State.freshWord_kept | apply State.tapPlain_kept | apply State.bump_kept | apply State.directDone_kept
      | (extract_lets +onlyGivenNames x; first | (refine State.Kept.cut (m := μ) (q := κ) (s := x) ?_ fun hx => ?_; (on_goal 2 => clear_value x); (on_goal 1 => unfold x; clear x)) | (refine State.Kept.cut (m := μ) (q := κ) (s := x.2) ?_ fun hx => ?_; (on_goal 2 => clear_value x); (on_goal 1 => unfold x; clear x)) | clear_value x)
      | split | (fail_if_no_progress (apply kept_mk))

theorem State.discardFrames_kept {s : State} {p slot : Nat} (hk : s.Kept μ κ) (t_mem : μ.mem = none := by assumption) (t_past : μ.past = none := by assumption) (t_portRx : μ.portRx = none := by assumption) (t_clusterRx : μ.clusterRx = none := by assumption) (t_clusterTx : μ.clusterTx = none := by assumption) (t_portTx : μ.portTx = none := by assumption) (t_rings : μ.rings = none := by assumption) (t_quarters : μ.quarters = none := by assumption) (t_twin : μ.twin = none := by assumption) (t_objs : μ.objs = none := by assumption) :
    (State.discardFrames s p slot).Kept μ κ := by
  unfold State.discardFrames
  repeat' with_reducible first
      | assumption | apply State.bumpPort_kept | apply State.setPortTx_kept | apply State.landLate_kept | apply State.dropFrame_kept
      | apply foldl_kept | intro _
      | (extract_lets +onlyGivenNames x; first | (refine State.Kept.cut (m := μ) (q := κ) (s := x) ?_ fun hx => ?_; (on_goal 2 => clear_value x); (on_goal 1 => unfold x; clear x)) | clear_value x)
      | (fail_if_no_progress (apply kept_mk))

theorem State.pushRecord_kept {s : State} {p : Nat} {plain : Bytes} {m : Ptp} {fallback : Bool} {stamp : Nat} (hk : s.Kept μ κ) (t_clusterTx : μ.clusterTx = none := by assumption) (t_twin : μ.twin = none := by assumption) :
    (State.pushRecord s p plain m fallback stamp).Kept μ κ := by
  unfold State.pushRecord
  repeat' with_reducible first
      | assumption | apply State.raiseOnce_kept | apply State.bump_kept | apply State.setClTx_kept | apply State.fifoGrew_kept
      | apply State.bumpPort_kept
      | (extract_lets +onlyGivenNames x; first | (refine State.Kept.cut (m := μ) (q := κ) (s := x) ?_ fun hx => ?_; (on_goal 2 => clear_value x); (on_goal 1 => unfold x; clear x)) | clear_value x)
      | split | (fail_if_no_progress (apply kept_mk))

theorem State.tsLeft_kept {s : State} {p : Nat} {f : TxFrame} {plain : Bytes} {act : State.TsAct} (hk : s.Kept μ κ) (t_clusterTx : μ.clusterTx = none := by assumption) (t_twin : μ.twin = none := by assumption) :
    (State.tsLeft s p f plain act).Kept μ κ := by
  unfold State.tsLeft
  repeat' with_reducible first
      | assumption | apply State.bumpPort_kept | apply State.pushRecord_kept | split

theorem State.setSill_kept {s : State} {p v : Nat} (hk : s.Kept μ κ) (t_portTx : μ.portTx = none := by assumption) :
    (State.setSill s p v).Kept μ κ := by
  unfold State.setSill
  repeat' with_reducible first
      | assumption | apply State.updPortTx_kept | apply State.txCause_kept
      | (extract_lets +onlyGivenNames x; first | (refine State.Kept.cut (m := μ) (q := κ) (s := x) ?_ fun hx => ?_; (on_goal 2 => clear_value x); (on_goal 1 => unfold x; clear x)) | clear_value x)
      | split | (fail_if_no_progress (apply kept_mk))

theorem State.sillDecay_kept {s : State} {p : Nat} {f : TxFrame} (hk : s.Kept μ κ) (t_portTx : μ.portTx = none := by assumption) :
    (State.sillDecay s p f).Kept μ κ := by
  unfold State.sillDecay
  repeat' with_reducible first
      | assumption | apply State.updPortTx_kept | apply State.setSill_kept
      | (extract_lets +onlyGivenNames x; first | (refine State.Kept.cut (m := μ) (q := κ) (s := x) ?_ fun hx => ?_; (on_goal 2 => clear_value x); (on_goal 1 => unfold x; clear x)) | clear_value x)
      | split | (fail_if_no_progress (apply kept_mk))

theorem State.sendWhole_kept {s : State} {p : Nat} {f : TxFrame} (hk : s.Kept μ κ) (t_mem : μ.mem = none := by assumption) (t_past : μ.past = none := by assumption) (t_portRx : μ.portRx = none := by assumption) (t_clusterRx : μ.clusterRx = none := by assumption) (t_clusterTx : μ.clusterTx = none := by assumption) (t_portTx : μ.portTx = none := by assumption) (t_shutters : μ.shutters = none := by assumption) (t_rings : μ.rings = none := by assumption) (t_quarters : μ.quarters = none := by assumption) (t_twin : μ.twin = none := by assumption) (t_objs : μ.objs = none := by assumption) :
    (State.sendWhole s p f).Kept μ κ := by
  unfold State.sendWhole
  repeat' with_reducible first
      | assumption | apply State.countSent_kept | apply State.bumpPort_kept | apply State.tsLeft_kept | apply State.sendFragment_kept
      | apply State.wireFree_kept | apply State.sillDecay_kept | apply State.frameLeft_kept
      | (extract_lets +onlyGivenNames x; first | (refine State.Kept.cut (m := μ) (q := κ) (s := x) ?_ fun hx => ?_; (on_goal 2 => clear_value x); (on_goal 1 => unfold x; clear x)) | clear_value x)
      | split

theorem State.finishFrame_kept {s : State} {p : Nat} {f : TxFrame} (hk : s.Kept μ κ) (t_mem : μ.mem = none := by assumption) (t_past : μ.past = none := by assumption) (t_portRx : μ.portRx = none := by assumption) (t_clusterRx : μ.clusterRx = none := by assumption) (t_clusterTx : μ.clusterTx = none := by assumption) (t_portTx : μ.portTx = none := by assumption) (t_shutters : μ.shutters = none := by assumption) (t_rings : μ.rings = none := by assumption) (t_quarters : μ.quarters = none := by assumption) (t_twin : μ.twin = none := by assumption) (t_objs : μ.objs = none := by assumption) :
    (State.finishFrame s p f).Kept μ κ := by
  unfold State.finishFrame
  repeat' with_reducible first
      | assumption | (rename_i e; have e2 := congrArg Prod.snd e; dsimp only at e2; subst e2) | apply State.cutOversize_kept
      | apply State.stompWire_kept | apply State.sendWhole_kept | apply foldl_kept | apply foldl_kept_snd | apply foldl_kept_mid
      | apply foldl_resKept | apply foldl_pairKept | apply foldl_slotKept | intro _ | apply pairKept_none | apply pairKept_some
      | apply foldl_pairKept | exact PairKept.state (by assumption) | exact optKept_none | apply optKept_some
      | (extract_lets +onlyGivenNames x; first | (refine State.Kept.cut (m := μ) (q := κ) (s := x) ?_ fun hx => ?_; (on_goal 2 => clear_value x); (on_goal 1 => unfold x; clear x)) | (refine State.Kept.cut (m := μ) (q := κ) (s := x.2) ?_ fun hx => ?_; (on_goal 2 => clear_value x); (on_goal 1 => unfold x; clear x)) | (refine State.Kept.cut (m := μ) (q := κ) (s := x.2.2) ?_ fun hx => ?_; (on_goal 2 => clear_value x); (on_goal 1 => unfold x; clear x)) | (refine State.Kept.cut (m := μ) (q := κ) (s := x.1) ?_ fun hx => ?_; (on_goal 2 => clear_value x); (on_goal 1 => unfold x; clear x)) | (have _f : _ → _ := x; clear _f) | clear_value x | skip)
      | split | (fail_if_no_progress (apply kept_mk)) | (fail_if_no_progress (apply kept_eraseRegs))
      | (fail_if_no_progress (apply kept_eraseRings)) | (fail_if_no_progress (apply kept_setCtr)) | (dsimp -zeta +zetaDelta only)

theorem State.stageFrame_kept {s : State} {p : Nat} {f : TxFrame} (hk : s.Kept μ κ) (t_rows : μ.rows = none := by assumption) (t_masks : μ.masks = none := by assumption) (t_clusterRx : μ.clusterRx = none := by assumption) (t_clusterTx : μ.clusterTx = none := by assumption) (t_shutters : μ.shutters = none := by assumption) (t_twin : μ.twin = none := by assumption) :
    (State.stageFrame s p f).2.Kept μ κ := by
  unfold State.stageFrame
  repeat' with_reducible first
      | assumption | (rename_i e; have e2 := congrArg Prod.snd e; dsimp only at e2; subst e2) | apply State.calStage_kept
      | apply State.secStage_kept | apply State.addBulk_kept | apply State.addDigest_kept | apply State.secCount_kept | apply foldl_kept
      | apply foldl_kept_snd | apply foldl_kept_mid | apply foldl_resKept | apply foldl_pairKept | apply foldl_slotKept | intro _
      | apply pairKept_none | apply pairKept_some | apply foldl_pairKept | exact PairKept.state (by assumption) | exact optKept_none
      | apply optKept_some
      | (extract_lets +onlyGivenNames x; first | (refine State.Kept.cut (m := μ) (q := κ) (s := x) ?_ fun hx => ?_; (on_goal 2 => clear_value x); (on_goal 1 => unfold x; clear x)) | (refine State.Kept.cut (m := μ) (q := κ) (s := x.2) ?_ fun hx => ?_; (on_goal 2 => clear_value x); (on_goal 1 => unfold x; clear x)) | (refine State.Kept.cut (m := μ) (q := κ) (s := x.2.2) ?_ fun hx => ?_; (on_goal 2 => clear_value x); (on_goal 1 => unfold x; clear x)) | (refine State.Kept.cut (m := μ) (q := κ) (s := x.1) ?_ fun hx => ?_; (on_goal 2 => clear_value x); (on_goal 1 => unfold x; clear x)) | (have _f : _ → _ := x; clear _f) | clear_value x | skip)
      | split | (fail_if_no_progress (apply kept_mk)) | (fail_if_no_progress (apply kept_eraseRegs))
      | (fail_if_no_progress (apply kept_eraseRings)) | (fail_if_no_progress (apply kept_setCtr)) | (dsimp -zeta +zetaDelta only)

theorem State.stagePort_kept {s : State} {p : Nat} (hk : s.Kept μ κ) (t_mem : μ.mem = none := by assumption) (t_rows : μ.rows = none := by assumption) (t_masks : μ.masks = none := by assumption) (t_clusterRx : μ.clusterRx = none := by assumption) (t_clusterTx : μ.clusterTx = none := by assumption) (t_portTx : μ.portTx = none := by assumption) (t_shutters : μ.shutters = none := by assumption) (t_rings : μ.rings = none := by assumption) (t_quarters : μ.quarters = none := by assumption) (t_twin : μ.twin = none := by assumption) :
    (State.stagePort s p).Kept μ κ := by
  unfold State.stagePort
  repeat' with_reducible first
      | assumption | apply State.stageFrame_kept | apply State.dropFrame_kept | apply State.updPortTx_kept | apply foldl_kept
      | apply foldl_kept_snd | apply foldl_kept_mid | apply foldl_resKept | apply foldl_pairKept | apply foldl_slotKept | intro _
      | (extract_lets +onlyGivenNames x; first | (refine State.Kept.cut (m := μ) (q := κ) (s := x) ?_ fun hx => ?_; (on_goal 2 => clear_value x); (on_goal 1 => unfold x; clear x)) | (refine State.Kept.cut (m := μ) (q := κ) (s := x.2) ?_ fun hx => ?_; (on_goal 2 => clear_value x); (on_goal 1 => unfold x; clear x)) | (have _f : _ → _ := x; clear _f) | clear_value x | skip)
      | split | (fail_if_no_progress (apply kept_mk)) | (dsimp -zeta +zetaDelta only)

theorem State.tryClass_kept {s : State} {c l n : Nat} (hk : s.Kept μ κ) (t_mem : μ.mem = none := by assumption) (t_rows : μ.rows = none := by assumption) (t_masks : μ.masks = none := by assumption) (t_clusterRx : μ.clusterRx = none := by assumption) (t_clusterTx : μ.clusterTx = none := by assumption) (t_portTx : μ.portTx = none := by assumption) (t_shutters : μ.shutters = none := by assumption) (t_rings : μ.rings = none := by assumption) (t_quarters : μ.quarters = none := by assumption) (t_twin : μ.twin = none := by assumption) :
    PairKept μ κ (State.tryClass s c l n) := by
  unfold State.tryClass
  repeat' with_reducible first
      | assumption | apply State.fit_kept | apply State.updPortTx_kept | apply State.directDone_kept | apply State.settleClass_kept
      | apply State.stagePort_kept | apply State.addFrame_kept | apply State.emit_kept | apply State.chargeGrant_kept | intro _
      | apply pairKept_none | apply pairKept_some | apply foldl_pairKept | exact PairKept.state (by assumption) | exact optKept_none
      | apply optKept_some
      | (extract_lets +onlyGivenNames x; first | (refine State.Kept.cut (m := μ) (q := κ) (s := x) ?_ fun hx => ?_; (on_goal 2 => clear_value x); (on_goal 1 => unfold x; clear x)) | (refine State.Kept.cut (m := μ) (q := κ) (s := x.2) ?_ fun hx => ?_; (on_goal 2 => clear_value x); (on_goal 1 => unfold x; clear x)) | (have _f : _ → _ := x; clear _f) | clear_value x | skip)
      | split | (fail_if_no_progress (apply kept_mk)) | (dsimp -zeta +zetaDelta only)

theorem State.tryPort_kept {s : State} {c l : Nat} (hk : s.Kept μ κ) (t_mem : μ.mem = none := by assumption) (t_rows : μ.rows = none := by assumption) (t_masks : μ.masks = none := by assumption) (t_clusterRx : μ.clusterRx = none := by assumption) (t_clusterTx : μ.clusterTx = none := by assumption) (t_portTx : μ.portTx = none := by assumption) (t_shutters : μ.shutters = none := by assumption) (t_rings : μ.rings = none := by assumption) (t_quarters : μ.quarters = none := by assumption) (t_twin : μ.twin = none := by assumption) :
    PairKept μ κ (State.tryPort s c l) := by
  unfold State.tryPort
  repeat' with_reducible first
      | assumption | (rename_i e; have e2 := congrArg Prod.snd e; dsimp only at e2; subst e2) | apply State.tryClass_kept | apply foldl_kept
      | intro _ | apply pairKept_none | apply pairKept_some | apply foldl_pairKept | exact PairKept.state (by assumption)
      | exact optKept_none | apply optKept_some
      | (extract_lets +onlyGivenNames x; first | (refine State.Kept.cut (m := μ) (q := κ) (s := x) ?_ fun hx => ?_; (on_goal 2 => clear_value x); (on_goal 1 => unfold x; clear x)) | (refine State.Kept.cut (m := μ) (q := κ) (s := x.2) ?_ fun hx => ?_; (on_goal 2 => clear_value x); (on_goal 1 => unfold x; clear x)) | clear_value x)
      | split

theorem State.grantSlot_kept {s : State} {c : Nat} {counts : List Nat} (hk : s.Kept μ κ) (t_mem : μ.mem = none := by assumption) (t_rows : μ.rows = none := by assumption) (t_masks : μ.masks = none := by assumption) (t_clusterRx : μ.clusterRx = none := by assumption) (t_clusterTx : μ.clusterTx = none := by assumption) (t_portTx : μ.portTx = none := by assumption) (t_shutters : μ.shutters = none := by assumption) (t_rings : μ.rings = none := by assumption) (t_quarters : μ.quarters = none := by assumption) (t_twin : μ.twin = none := by assumption) :
    SlotKept μ κ (State.grantSlot s c counts) := by
  unfold State.grantSlot
  refine foldl_slotKept (slotKept_none hk) fun x a hx => ?_
  dsimp only
  split
  · exact hx
  · split
    · exact hx
    · split
      · rename_i hq
        have hp := State.tryPort_kept (c := c) (l := ((s.clTx c).lastPort + 1 + a) % 64) hx.state
        exact slotKept_some (State.updClTx_kept (hp.found hq)) (hp.found hq)
      · rename_i hq
        have hp := State.tryPort_kept (c := c) (l := ((s.clTx c).lastPort + 1 + a) % 64) hx.state
        exact slotKept_none (by have := hp.state; rw [hq] at this; exact this)

theorem State.grantNext_kept {μ : Marks} {κ : List Instr} {c : Nat} {a : Option (List Nat) × State} (hk : a.2.Kept μ κ) (t_mem : μ.mem = none := by assumption) (t_rows : μ.rows = none := by assumption) (t_masks : μ.masks = none := by assumption) (t_clusterRx : μ.clusterRx = none := by assumption) (t_clusterTx : μ.clusterTx = none := by assumption) (t_portTx : μ.portTx = none := by assumption) (t_shutters : μ.shutters = none := by assumption) (t_rings : μ.rings = none := by assumption) (t_quarters : μ.quarters = none := by assumption) (t_twin : μ.twin = none := by assumption) :
    (State.grantNext c a).2.Kept μ κ := by
  unfold State.grantNext
  split
  · exact hk
  · rename_i counts _
    have hp := State.grantSlot_kept (c := c) (counts := counts) hk
    dsimp only
    split
    · rename_i y hy
      exact hp.2 y hy
    · exact hp.state

theorem State.grantCycle_kept {μ : Marks} {κ : List Instr} {s : State} {c : Nat} (hk : s.Kept μ κ) (t_mem : μ.mem = none := by assumption) (t_rows : μ.rows = none := by assumption) (t_masks : μ.masks = none := by assumption) (t_clusterRx : μ.clusterRx = none := by assumption) (t_clusterTx : μ.clusterTx = none := by assumption) (t_portTx : μ.portTx = none := by assumption) (t_shutters : μ.shutters = none := by assumption) (t_rings : μ.rings = none := by assumption) (t_quarters : μ.quarters = none := by assumption) (t_twin : μ.twin = none := by assumption) : (State.grantCycle s c).Kept μ κ := by
  unfold State.grantCycle
  exact foldl_kept_snd hk fun _ _ hx => State.grantNext_kept hx

theorem State.readTsMeta_kept {s : State} {c : Nat} (hk : s.Kept μ κ) (t_clusterTx : μ.clusterTx = none := by assumption) :
    (State.readTsMeta s c).2.Kept μ κ := by
  unfold State.readTsMeta
  repeat' with_reducible first
      | assumption | apply State.setClTx_kept
      | (extract_lets +onlyGivenNames x; first | (refine State.Kept.cut (m := μ) (q := κ) (s := x) ?_ fun hx => ?_; (on_goal 2 => clear_value x); (on_goal 1 => unfold x; clear x)) | (refine State.Kept.cut (m := μ) (q := κ) (s := x.2) ?_ fun hx => ?_; (on_goal 2 => clear_value x); (on_goal 1 => unfold x; clear x)) | clear_value x)
      | split | (fail_if_no_progress (apply kept_mk))

theorem State.sillAtStart_kept {s : State} {p : Nat} (hk : s.Kept μ κ) (t_portTx : μ.portTx = none := by assumption) :
    (State.sillAtStart s p).Kept μ κ := by
  unfold State.sillAtStart
  repeat' with_reducible first
      | assumption | apply State.setSill_kept | apply State.updPortTx_kept | intro _
      | (extract_lets +onlyGivenNames x; first | (refine State.Kept.cut (m := μ) (q := κ) (s := x) ?_ fun hx => ?_; (on_goal 2 => clear_value x); (on_goal 1 => unfold x; clear x)) | (refine State.Kept.cut (m := μ) (q := κ) (s := x.2) ?_ fun hx => ?_; (on_goal 2 => clear_value x); (on_goal 1 => unfold x; clear x)) | (have _f : _ → _ := x; clear _f) | clear_value x | skip)
      | split | (fail_if_no_progress (apply kept_mk)) | (dsimp -zeta +zetaDelta only)

theorem State.stompHeld_kept {s : State} {p : Nat} {f : TxFrame} (hk : s.Kept μ κ) (t_mem : μ.mem = none := by assumption) (t_past : μ.past = none := by assumption) (t_portRx : μ.portRx = none := by assumption) (t_clusterRx : μ.clusterRx = none := by assumption) (t_clusterTx : μ.clusterTx = none := by assumption) (t_portTx : μ.portTx = none := by assumption) (t_shutters : μ.shutters = none := by assumption) (t_rings : μ.rings = none := by assumption) (t_quarters : μ.quarters = none := by assumption) (t_twin : μ.twin = none := by assumption) (t_objs : μ.objs = none := by assumption) :
    (State.stompHeld s p f).Kept μ κ := by
  unfold State.stompHeld
  repeat' with_reducible first
      | assumption | apply State.stompWire_kept | apply State.updPortTx_kept | (fail_if_no_progress (apply kept_mk))

theorem State.txAbandon_kept {s : State} {p : Nat} (hk : s.Kept μ κ) (t_mem : μ.mem = none := by assumption) (t_past : μ.past = none := by assumption) (t_portRx : μ.portRx = none := by assumption) (t_clusterRx : μ.clusterRx = none := by assumption) (t_clusterTx : μ.clusterTx = none := by assumption) (t_portTx : μ.portTx = none := by assumption) (t_rings : μ.rings = none := by assumption) (t_quarters : μ.quarters = none := by assumption) (t_twin : μ.twin = none := by assumption) (t_objs : μ.objs = none := by assumption) :
    (State.txAbandon s p).Kept μ κ := by
  unfold State.txAbandon
  repeat' with_reducible first
      | assumption | apply State.updPortTx_kept | apply State.landLate_kept | apply State.txCause_kept | apply State.bumpPort_kept
      | (extract_lets +onlyGivenNames x; first | (refine State.Kept.cut (m := μ) (q := κ) (s := x) ?_ fun hx => ?_; (on_goal 2 => clear_value x); (on_goal 1 => unfold x; clear x)) | clear_value x)
      | split | (fail_if_no_progress (apply kept_mk))

theorem State.txClose_kept {s : State} {p : Nat} (hk : s.Kept μ κ) (t_mem : μ.mem = none := by assumption) (t_past : μ.past = none := by assumption) (t_portRx : μ.portRx = none := by assumption) (t_clusterRx : μ.clusterRx = none := by assumption) (t_clusterTx : μ.clusterTx = none := by assumption) (t_portTx : μ.portTx = none := by assumption) (t_rings : μ.rings = none := by assumption) (t_quarters : μ.quarters = none := by assumption) (t_twin : μ.twin = none := by assumption) (t_objs : μ.objs = none := by assumption) :
    (State.txClose s p).Kept μ κ := by
  unfold State.txClose
  repeat' with_reducible first
      | assumption | apply State.verifyStop_kept | apply State.discardFrames_kept | apply State.dropCtl_kept | apply State.updPortTx_kept
      | apply State.bump_kept | apply State.directDone_kept | apply foldl_kept | intro _
      | (extract_lets +onlyGivenNames x; first | (refine State.Kept.cut (m := μ) (q := κ) (s := x) ?_ fun hx => ?_; (on_goal 2 => clear_value x); (on_goal 1 => unfold x; clear x)) | clear_value x)
      | split | (fail_if_no_progress (apply kept_mk))

theorem State.txKeyErase_kept {s : State} {p : Nat} {hit : Nat → Bool} (hk : s.Kept μ κ) (t_mem : μ.mem = none := by assumption) (t_past : μ.past = none := by assumption) (t_portRx : μ.portRx = none := by assumption) (t_clusterRx : μ.clusterRx = none := by assumption) (t_clusterTx : μ.clusterTx = none := by assumption) (t_portTx : μ.portTx = none := by assumption) (t_shutters : μ.shutters = none := by assumption) (t_rings : μ.rings = none := by assumption) (t_quarters : μ.quarters = none := by assumption) (t_twin : μ.twin = none := by assumption) (t_objs : μ.objs = none := by assumption) :
    (State.txKeyErase s p hit).Kept μ κ := by
  unfold State.txKeyErase
  repeat' with_reducible first
      | assumption | apply State.setPortTx_kept | apply State.bumpPort_kept | apply State.dropFrame_kept | apply State.cutWire_kept
      | apply State.stompHeld_kept | apply foldl_kept | intro _
      | (extract_lets +onlyGivenNames x; first | (refine State.Kept.cut (m := μ) (q := κ) (s := x) ?_ fun hx => ?_; (on_goal 2 => clear_value x); (on_goal 1 => unfold x; clear x)) | clear_value x)
      | split | (fail_if_no_progress (apply kept_mk))

theorem State.txLinkDown_kept {s : State} {p : Nat} (hk : s.Kept μ κ) (t_mem : μ.mem = none := by assumption) (t_past : μ.past = none := by assumption) (t_portRx : μ.portRx = none := by assumption) (t_clusterRx : μ.clusterRx = none := by assumption) (t_clusterTx : μ.clusterTx = none := by assumption) (t_portTx : μ.portTx = none := by assumption) (t_rings : μ.rings = none := by assumption) (t_quarters : μ.quarters = none := by assumption) (t_twin : μ.twin = none := by assumption) (t_objs : μ.objs = none := by assumption) :
    (State.txLinkDown s p).Kept μ κ := by
  unfold State.txLinkDown
  repeat' with_reducible first
      | assumption | apply State.dropCtl_kept | apply State.verifyStop_kept | apply State.discardFrames_kept

theorem State.txReset_kept {s : State} {p : Nat} (hk : s.Kept μ κ) (t_mem : μ.mem = none := by assumption) (t_past : μ.past = none := by assumption) (t_portRx : μ.portRx = none := by assumption) (t_clusterRx : μ.clusterRx = none := by assumption) (t_clusterTx : μ.clusterTx = none := by assumption) (t_portTx : μ.portTx = none := by assumption) (t_shutters : μ.shutters = none := by assumption) (t_rings : μ.rings = none := by assumption) (t_quarters : μ.quarters = none := by assumption) (t_twin : μ.twin = none := by assumption) (t_objs : μ.objs = none := by assumption) :
    (State.txReset s p).Kept μ κ := by
  unfold State.txReset
  repeat' with_reducible first
      | assumption | apply State.dropCtl_kept | apply State.cutWire_kept | apply State.txAbandon_kept | apply State.txClose_kept
      | apply State.updPortTx_kept
      | (extract_lets +onlyGivenNames x; first | (refine State.Kept.cut (m := μ) (q := κ) (s := x) ?_ fun hx => ?_; (on_goal 2 => clear_value x); (on_goal 1 => unfold x; clear x)) | clear_value x)
      | split | (fail_if_no_progress (apply kept_mk))

theorem dequeueGrantRes_kept {dt c : Nat} {upsets : List (Nat × Nat)} {s : State} (hk : s.Kept μ κ) (t_mem : μ.mem = none := by assumption) (t_rows : μ.rows = none := by assumption) (t_masks : μ.masks = none := by assumption) (t_clusterRx : μ.clusterRx = none := by assumption) (t_clusterTx : μ.clusterTx = none := by assumption) (t_portTx : μ.portTx = none := by assumption) (t_shutters : μ.shutters = none := by assumption) (t_rings : μ.rings = none := by assumption) (t_quarters : μ.quarters = none := by assumption) (t_twin : μ.twin = none := by assumption) :
    ResKept μ κ (dequeueGrantRes dt c upsets s) := by
  unfold dequeueGrantRes
  repeat' with_reducible first
      | assumption | apply resKept_next | apply State.elapse_kept | apply State.schedEcc_kept | apply State.settlePort_kept
      | apply State.grantCycle_kept | apply foldl_kept | intro _
      | (extract_lets +onlyGivenNames x; first | (refine State.Kept.cut (m := μ) (q := κ) (s := x) ?_ fun hx => ?_; (on_goal 2 => clear_value x); (on_goal 1 => unfold x; clear x)) | (refine State.Kept.cut (m := μ) (q := κ) (s := x.2) ?_ fun hx => ?_; (on_goal 2 => clear_value x); (on_goal 1 => unfold x; clear x)) | clear_value x)
      | split

theorem execContinuationResume_kept {dt p : Nat} {s : State} (hk : s.Kept μ κ) (t_mem : μ.mem = none := by assumption) (t_past : μ.past = none := by assumption) (t_portRx : μ.portRx = none := by assumption) (t_clusterRx : μ.clusterRx = none := by assumption) (t_clusterTx : μ.clusterTx = none := by assumption) (t_portTx : μ.portTx = none := by assumption) (t_shutters : μ.shutters = none := by assumption) (t_rings : μ.rings = none := by assumption) (t_quarters : μ.quarters = none := by assumption) (t_twin : μ.twin = none := by assumption) (t_objs : μ.objs = none := by assumption) :
    ResKept μ κ (execContinuationResume dt p s) := by
  unfold execContinuationResume
  repeat' with_reducible first
      | assumption | apply resKept_next | apply State.elapse_kept | apply State.stompHeld_kept | apply State.setPortTx_kept
      | (extract_lets +onlyGivenNames x; first | (refine State.Kept.cut (m := μ) (q := κ) (s := x) ?_ fun hx => ?_; (on_goal 2 => clear_value x); (on_goal 1 => unfold x; clear x)) | clear_value x)
      | split | (fail_if_no_progress (apply kept_mk))

theorem execPreemption_kept {dt p gone : Nat} {s : State} (hk : s.Kept μ κ) (t_mem : μ.mem = none := by assumption) (t_past : μ.past = none := by assumption) (t_portRx : μ.portRx = none := by assumption) (t_clusterRx : μ.clusterRx = none := by assumption) (t_clusterTx : μ.clusterTx = none := by assumption) (t_portTx : μ.portTx = none := by assumption) (t_rings : μ.rings = none := by assumption) (t_quarters : μ.quarters = none := by assumption) (t_twin : μ.twin = none := by assumption) (t_objs : μ.objs = none := by assumption) :
    ResKept μ κ (execPreemption dt p gone s) := by
  unfold execPreemption
  repeat' with_reducible first
      | assumption | apply resKept_next | apply State.elapse_kept | apply State.bumpPort_kept | apply State.sendFragment_kept
      | apply State.endOnLanes_kept | apply State.updPortTx_kept | apply State.boundaryTx_kept | apply State.discardFrames_kept
      | (extract_lets +onlyGivenNames x; first | (refine State.Kept.cut (m := μ) (q := κ) (s := x) ?_ fun hx => ?_; (on_goal 2 => clear_value x); (on_goal 1 => unfold x; clear x)) | clear_value x)
      | split | (fail_if_no_progress (apply kept_mk))

theorem execReturnLostTimeout_kept {dt p : Nat} {s : State} (hk : s.Kept μ κ) (t_mem : μ.mem = none := by assumption) (t_past : μ.past = none := by assumption) (t_portRx : μ.portRx = none := by assumption) (t_clusterRx : μ.clusterRx = none := by assumption) (t_clusterTx : μ.clusterTx = none := by assumption) (t_portTx : μ.portTx = none := by assumption) (t_rings : μ.rings = none := by assumption) (t_quarters : μ.quarters = none := by assumption) (t_twin : μ.twin = none := by assumption) (t_objs : μ.objs = none := by assumption) :
    ResKept μ κ (execReturnLostTimeout dt p s) := by
  unfold execReturnLostTimeout
  repeat' with_reducible first
      | assumption | apply resKept_next | apply State.elapse_kept | apply State.txAbandon_kept | intro _
      | (extract_lets +onlyGivenNames x; first | (refine State.Kept.cut (m := μ) (q := κ) (s := x) ?_ fun hx => ?_; (on_goal 2 => clear_value x); (on_goal 1 => unfold x; clear x)) | (refine State.Kept.cut (m := μ) (q := κ) (s := x.2) ?_ fun hx => ?_; (on_goal 2 => clear_value x); (on_goal 1 => unfold x; clear x)) | (have _f : _ → _ := x; clear _f) | clear_value x | skip)
      | split | (fail_if_no_progress (apply kept_mk)) | (dsimp -zeta +zetaDelta only)

theorem execTxFrameStart_kept {dt p : Nat} {s : State} (hk : s.Kept μ κ) (t_mem : μ.mem = none := by assumption) (t_past : μ.past = none := by assumption) (t_portRx : μ.portRx = none := by assumption) (t_clusterRx : μ.clusterRx = none := by assumption) (t_clusterTx : μ.clusterTx = none := by assumption) (t_portTx : μ.portTx = none := by assumption) (t_rings : μ.rings = none := by assumption) (t_quarters : μ.quarters = none := by assumption) (t_twin : μ.twin = none := by assumption) (t_objs : μ.objs = none := by assumption) :
    ResKept μ κ (execTxFrameStart dt p s) := by
  unfold execTxFrameStart
  repeat' with_reducible first
      | assumption | (rename_i e; have e2 := congrArg Prod.snd e; dsimp only at e2; subst e2) | apply resKept_next
      | apply State.settlePfc_kept | apply State.elapse_kept | apply State.setPortTx_kept | apply State.landFcLate_kept
      | apply State.sillAtStart_kept
      | (extract_lets +onlyGivenNames x; first | (refine State.Kept.cut (m := μ) (q := κ) (s := x) ?_ fun hx => ?_; (on_goal 2 => clear_value x); (on_goal 1 => unfold x; clear x)) | clear_value x)
      | split | (fail_if_no_progress (apply kept_mk))

theorem execUnderrun_kept {dt p : Nat} {s : State} (hk : s.Kept μ κ) (t_mem : μ.mem = none := by assumption) (t_past : μ.past = none := by assumption) (t_portRx : μ.portRx = none := by assumption) (t_clusterRx : μ.clusterRx = none := by assumption) (t_clusterTx : μ.clusterTx = none := by assumption) (t_portTx : μ.portTx = none := by assumption) (t_shutters : μ.shutters = none := by assumption) (t_rings : μ.rings = none := by assumption) (t_quarters : μ.quarters = none := by assumption) (t_twin : μ.twin = none := by assumption) (t_objs : μ.objs = none := by assumption) :
    ResKept μ κ (execUnderrun dt p s) := by
  unfold execUnderrun
  repeat' with_reducible first
      | assumption | apply resKept_next | apply State.elapse_kept | apply State.txCause_kept | apply State.countFirst_kept
      | apply State.setSill_kept | apply State.updPortTx_kept | apply State.stompWire_kept
      | (extract_lets +onlyGivenNames x; first | (refine State.Kept.cut (m := μ) (q := κ) (s := x) ?_ fun hx => ?_; (on_goal 2 => clear_value x); (on_goal 1 => unfold x; clear x)) | clear_value x)
      | split | (fail_if_no_progress (apply kept_mk))

theorem returnedSegmentRes.tailOrOrphan_kept {tag : Nat} {seg : Segment} {s : State} {q : PortTx} (hk : s.Kept μ κ) (t_portTx : μ.portTx = none := by assumption) :
    ResKept μ κ (returnedSegmentRes.tailOrOrphan tag seg s q) := by
  unfold returnedSegmentRes.tailOrOrphan
  repeat' with_reducible first
      | assumption | apply resKept_next | apply State.bumpPort_kept | apply State.lengthCheck_kept | apply State.updPortTx_kept | intro _
      | (extract_lets +onlyGivenNames x; first | (refine State.Kept.cut (m := μ) (q := κ) (s := x) ?_ fun hx => ?_; (on_goal 2 => clear_value x); (on_goal 1 => unfold x; clear x)) | (refine State.Kept.cut (m := μ) (q := κ) (s := x.2) ?_ fun hx => ?_; (on_goal 2 => clear_value x); (on_goal 1 => unfold x; clear x)) | (have _f : _ → _ := x; clear _f) | clear_value x | skip)
      | split | (fail_if_no_progress (apply kept_mk)) | (dsimp -zeta +zetaDelta only)

theorem returnedSegmentRes.rest_kept {tag : Nat} {seg : Segment} {ecc : Bool} {s : State} {q : PortTx} (hk : s.Kept μ κ) (t_rows : μ.rows = none := by assumption) (t_masks : μ.masks = none := by assumption) (t_clusterRx : μ.clusterRx = none := by assumption) (t_clusterTx : μ.clusterTx = none := by assumption) (t_portTx : μ.portTx = none := by assumption) (t_shutters : μ.shutters = none := by assumption) (t_twin : μ.twin = none := by assumption) :
    ResKept μ κ (returnedSegmentRes.rest tag seg ecc s q) := by
  unfold returnedSegmentRes.rest
  repeat' with_reducible first
      | assumption | apply resKept_next | apply State.addSegment_kept | apply State.stageFrame_kept | apply State.updPortTx_kept
      | apply returnedSegmentRes.tailOrOrphan_kept | intro _
      | (extract_lets +onlyGivenNames x; first | (refine State.Kept.cut (m := μ) (q := κ) (s := x) ?_ fun hx => ?_; (on_goal 2 => clear_value x); (on_goal 1 => unfold x; clear x)) | (refine State.Kept.cut (m := μ) (q := κ) (s := x.2) ?_ fun hx => ?_; (on_goal 2 => clear_value x); (on_goal 1 => unfold x; clear x)) | (have _f : _ → _ := x; clear _f) | clear_value x | skip)
      | split | (fail_if_no_progress (apply kept_mk)) | (dsimp -zeta +zetaDelta only)

theorem returnedSegmentRes_kept {dt tag : Nat} {seg : Segment} {ecc : Bool} {upsets : List Upset} {s : State} (hk : s.Kept μ κ) (t_mem : μ.mem = none := by assumption) (t_rows : μ.rows = none := by assumption) (t_masks : μ.masks = none := by assumption) (t_clusterRx : μ.clusterRx = none := by assumption) (t_clusterTx : μ.clusterTx = none := by assumption) (t_portTx : μ.portTx = none := by assumption) (t_shutters : μ.shutters = none := by assumption) (t_rings : μ.rings = none := by assumption) (t_quarters : μ.quarters = none := by assumption) (t_twin : μ.twin = none := by assumption) :
    ResKept μ κ (returnedSegmentRes dt tag seg ecc upsets s) := by
  unfold returnedSegmentRes
  repeat' with_reducible first
      | assumption | apply resKept_next | apply State.elapse_kept | apply State.calUpsets_kept | apply State.addSegment_kept
      | apply State.stagePort_kept | apply State.updPortTx_kept | apply State.stageFrame_kept | apply returnedSegmentRes.rest_kept
      | apply foldl_kept | apply foldl_kept_snd | apply foldl_kept_mid | apply foldl_resKept | apply foldl_pairKept | apply foldl_slotKept
      | intro _
      | (extract_lets +onlyGivenNames x; first | (refine State.Kept.cut (m := μ) (q := κ) (s := x) ?_ fun hx => ?_; (on_goal 2 => clear_value x); (on_goal 1 => unfold x; clear x)) | (refine State.Kept.cut (m := μ) (q := κ) (s := x.2) ?_ fun hx => ?_; (on_goal 2 => clear_value x); (on_goal 1 => unfold x; clear x)) | (have _f : _ → _ := x; clear _f) | clear_value x | skip)
      | split | (fail_if_no_progress (apply kept_mk)) | (dsimp -zeta +zetaDelta only)

theorem txFrameDoneRes_kept {dt p : Nat} {ecc : Bool} {s : State} (hk : s.Kept μ κ) (t_mem : μ.mem = none := by assumption) (t_past : μ.past = none := by assumption) (t_portRx : μ.portRx = none := by assumption) (t_clusterRx : μ.clusterRx = none := by assumption) (t_clusterTx : μ.clusterTx = none := by assumption) (t_portTx : μ.portTx = none := by assumption) (t_shutters : μ.shutters = none := by assumption) (t_rings : μ.rings = none := by assumption) (t_quarters : μ.quarters = none := by assumption) (t_twin : μ.twin = none := by assumption) (t_objs : μ.objs = none := by assumption) :
    ResKept μ κ (txFrameDoneRes dt p ecc s) := by
  unfold txFrameDoneRes
  repeat' with_reducible first
      | assumption | apply resKept_next | apply State.elapse_kept | apply State.finishFrame_kept | apply State.bufferEcc_kept
      | (extract_lets +onlyGivenNames x; first | (refine State.Kept.cut (m := μ) (q := κ) (s := x) ?_ fun hx => ?_; (on_goal 2 => clear_value x); (on_goal 1 => unfold x; clear x)) | clear_value x)
      | split

end Sys2Proof.Machine
end

