-- ==== Sys2Proof/Laws/KeptSwing.lean ====
section
/-!
SUPPORT. What the operations of Machine/Swing.lean keep.
-/
set_option linter.unusedTactic false
set_option linter.unreachableTactic false
set_option linter.unusedVariables false
set_option linter.tactic.unusedName false
namespace Sys2Proof.Machine
variable {μ : Marks} {κ : List Instr}

theorem State.setRole_kept {s : State} {r : Role} (hk : s.Kept μ κ) (t_twin : μ.twin = none := by assumption) :
    (State.setRole s r).Kept μ κ := by
  unfold State.setRole
  repeat' with_reducible first
      | assumption | apply State.updTwin_kept | apply State.bump_kept | apply State.raise_kept
      | (extract_lets +onlyGivenNames x; first | (refine State.Kept.cut (m := μ) (q := κ) (s := x) ?_ fun hx => ?_; (on_goal 2 => clear_value x); (on_goal 1 => unfold x; clear x)) | clear_value x)
      | split | (fail_if_no_progress (apply kept_mk))

theorem State.portSilent_kept {s : State} {p : Nat} (hk : s.Kept μ κ) (t_portTx : μ.portTx = none := by assumption) :
    (State.portSilent s p).Kept μ κ := by
  unfold State.portSilent
  repeat' with_reducible first
      | assumption | apply State.settleSignal_kept | apply State.updPortTx_kept | (fail_if_no_progress (apply kept_mk))

theorem State.releasePort_kept {s : State} {p : Nat} (hk : s.Kept μ κ) (t_mem : μ.mem = none := by assumption) (t_past : μ.past = none := by assumption) (t_portRx : μ.portRx = none := by assumption) (t_clusterRx : μ.clusterRx = none := by assumption) (t_clusterTx : μ.clusterTx = none := by assumption) (t_portTx : μ.portTx = none := by assumption) (t_shutters : μ.shutters = none := by assumption) (t_rings : μ.rings = none := by assumption) (t_quarters : μ.quarters = none := by assumption) (t_twin : μ.twin = none := by assumption) (t_objs : μ.objs = none := by assumption) :
    (State.releasePort s p).Kept μ κ := by
  unfold State.releasePort
  repeat' with_reducible first
      | assumption | apply State.wireFree_kept | apply State.portSilent_kept | apply State.stompLanes_kept | apply State.countFirst_kept
      | split

theorem State.swingRelease_kept {s : State} (hk : s.Kept μ κ) (t_mem : μ.mem = none := by assumption) (t_past : μ.past = none := by assumption) (t_portRx : μ.portRx = none := by assumption) (t_clusterRx : μ.clusterRx = none := by assumption) (t_clusterTx : μ.clusterTx = none := by assumption) (t_portTx : μ.portTx = none := by assumption) (t_shutters : μ.shutters = none := by assumption) (t_rings : μ.rings = none := by assumption) (t_quarters : μ.quarters = none := by assumption) (t_twin : μ.twin = none := by assumption) (t_objs : μ.objs = none := by assumption) :
    (State.swingRelease s).Kept μ κ := by
  unfold State.swingRelease
  repeat' with_reducible first
      | assumption | apply State.releasePort_kept | apply State.updTwin_kept | apply foldl_kept | intro _
      | (extract_lets +onlyGivenNames x; first | (refine State.Kept.cut (m := μ) (q := κ) (s := x) ?_ fun hx => ?_; (on_goal 2 => clear_value x); (on_goal 1 => unfold x; clear x)) | (refine State.Kept.cut (m := μ) (q := κ) (s := x.2) ?_ fun hx => ?_; (on_goal 2 => clear_value x); (on_goal 1 => unfold x; clear x)) | clear_value x)
      | (fail_if_no_progress (apply kept_mk))

theorem State.demote_kept {s : State} (hk : s.Kept μ κ) (t_mem : μ.mem = none := by assumption) (t_past : μ.past = none := by assumption) (t_portRx : μ.portRx = none := by assumption) (t_clusterRx : μ.clusterRx = none := by assumption) (t_clusterTx : μ.clusterTx = none := by assumption) (t_portTx : μ.portTx = none := by assumption) (t_shutters : μ.shutters = none := by assumption) (t_rings : μ.rings = none := by assumption) (t_quarters : μ.quarters = none := by assumption) (t_twin : μ.twin = none := by assumption) (t_objs : μ.objs = none := by assumption) :
    (State.demote s).Kept μ κ := by
  unfold State.demote
  repeat' with_reducible first
      | assumption | apply State.setRole_kept | apply State.swingRelease_kept | apply State.hingeSend_kept | split

theorem State.disagree_kept {s : State} (hk : s.Kept μ κ) (t_mem : μ.mem = none := by assumption) (t_past : μ.past = none := by assumption) (t_portRx : μ.portRx = none := by assumption) (t_clusterRx : μ.clusterRx = none := by assumption) (t_clusterTx : μ.clusterTx = none := by assumption) (t_portTx : μ.portTx = none := by assumption) (t_shutters : μ.shutters = none := by assumption) (t_rings : μ.rings = none := by assumption) (t_quarters : μ.quarters = none := by assumption) (t_twin : μ.twin = none := by assumption) (t_objs : μ.objs = none := by assumption) :
    (State.disagree s).Kept μ κ := by
  unfold State.disagree
  repeat' with_reducible first
      | assumption | apply State.updTwin_kept | apply State.demote_kept | apply State.raiseOnce_kept | apply State.bump_kept | intro _
      | (extract_lets +onlyGivenNames x; first | (refine State.Kept.cut (m := μ) (q := κ) (s := x) ?_ fun hx => ?_; (on_goal 2 => clear_value x); (on_goal 1 => unfold x; clear x)) | (refine State.Kept.cut (m := μ) (q := κ) (s := x.2) ?_ fun hx => ?_; (on_goal 2 => clear_value x); (on_goal 1 => unfold x; clear x)) | (have _f : _ → _ := x; clear _f) | clear_value x | skip)
      | split | (fail_if_no_progress (apply kept_mk)) | (dsimp -zeta +zetaDelta only)

theorem State.mismatchCapture_kept {s : State} {kind p n : Nat} (hk : s.Kept μ κ) (t_twin : μ.twin = none := by assumption) :
    (State.mismatchCapture s kind p n).Kept μ κ := by
  unfold State.mismatchCapture
  repeat' with_reducible first
      | assumption | apply State.updTwin_kept | split | (fail_if_no_progress (apply kept_mk))

theorem State.mismatch_kept {s : State} {kind p n : Nat} (hk : s.Kept μ κ) (t_mem : μ.mem = none := by assumption) (t_past : μ.past = none := by assumption) (t_portRx : μ.portRx = none := by assumption) (t_clusterRx : μ.clusterRx = none := by assumption) (t_clusterTx : μ.clusterTx = none := by assumption) (t_portTx : μ.portTx = none := by assumption) (t_shutters : μ.shutters = none := by assumption) (t_rings : μ.rings = none := by assumption) (t_quarters : μ.quarters = none := by assumption) (t_twin : μ.twin = none := by assumption) (t_objs : μ.objs = none := by assumption) :
    (State.mismatch s kind p n).Kept μ κ := by
  unfold State.mismatch
  repeat' with_reducible first
      | assumption | apply State.disagree_kept | apply State.raiseOnce_kept | apply State.mismatchCapture_kept | apply State.bump_kept
      | intro _
      | (extract_lets +onlyGivenNames x; first | (refine State.Kept.cut (m := μ) (q := κ) (s := x) ?_ fun hx => ?_; (on_goal 2 => clear_value x); (on_goal 1 => unfold x; clear x)) | (refine State.Kept.cut (m := μ) (q := κ) (s := x.2) ?_ fun hx => ?_; (on_goal 2 => clear_value x); (on_goal 1 => unfold x; clear x)) | (have _f : _ → _ := x; clear _f) | clear_value x | skip)
      | split | (fail_if_no_progress (apply kept_mk)) | (dsimp -zeta +zetaDelta only)

theorem State.settleFaults_kept {s : State} (hk : s.Kept μ κ) (t_mem : μ.mem = none := by assumption) (t_past : μ.past = none := by assumption) (t_portRx : μ.portRx = none := by assumption) (t_clusterRx : μ.clusterRx = none := by assumption) (t_clusterTx : μ.clusterTx = none := by assumption) (t_portTx : μ.portTx = none := by assumption) (t_shutters : μ.shutters = none := by assumption) (t_rings : μ.rings = none := by assumption) (t_quarters : μ.quarters = none := by assumption) (t_twin : μ.twin = none := by assumption) (t_objs : μ.objs = none := by assumption) :
    (State.settleFaults s).Kept μ κ := by
  unfold State.settleFaults
  repeat' with_reducible first
      | assumption | (rename_i e; have e2 := congrArg Prod.snd e; dsimp only at e2; subst e2) | apply State.updTwin_kept
      | apply State.demote_kept
      | (extract_lets +onlyGivenNames x; first | (refine State.Kept.cut (m := μ) (q := κ) (s := x) ?_ fun hx => ?_; (on_goal 2 => clear_value x); (on_goal 1 => unfold x; clear x)) | clear_value x)
      | split | (fail_if_no_progress (apply kept_mk))

theorem State.settleStep_kept {s : State} (hk : s.Kept μ κ) (t_twin : μ.twin = none := by assumption) : (State.settleStep s).Kept μ κ := by
  unfold State.settleStep
  repeat' with_reducible first
      | assumption | (rename_i e; have e2 := congrArg Prod.snd e; dsimp only at e2; subst e2) | apply State.setRole_kept | split

theorem settled_kept {r : Res} (hk : ResKept μ κ r) (t_mem : μ.mem = none := by assumption) (t_past : μ.past = none := by assumption) (t_portRx : μ.portRx = none := by assumption) (t_clusterRx : μ.clusterRx = none := by assumption) (t_clusterTx : μ.clusterTx = none := by assumption) (t_portTx : μ.portTx = none := by assumption) (t_shutters : μ.shutters = none := by assumption) (t_rings : μ.rings = none := by assumption) (t_quarters : μ.quarters = none := by assumption) (t_twin : μ.twin = none := by assumption) (t_objs : μ.objs = none := by assumption) :
    ResKept μ κ (settled r) := by
  unfold settled
  split
  · exact State.settleFaults_kept hk
  · exact hk

end Sys2Proof.Machine
end

