-- ==== Sys2Proof/Laws/KeptKeys.lean ====
section
/-!
SUPPORT. What the operations of Machine/Keys.lean keep.
-/
set_option linter.unusedTactic false
set_option linter.unreachableTactic false
set_option linter.unusedVariables false
set_option linter.tactic.unusedName false
namespace Sys2Proof.Machine
variable {μ : Marks} {κ : List Instr}

theorem State.updKeys_kept {s : State} {f : KeyUnit → KeyUnit} (hk : s.Kept μ κ) (t_keys : μ.keys = none := by assumption) :
    (State.updKeys s f).Kept μ κ := by
  unfold State.updKeys
  repeat' with_reducible first
      | assumption
      | (extract_lets +onlyGivenNames x; first | (refine State.Kept.cut (m := μ) (q := κ) (s := x) ?_ fun hx => ?_; (on_goal 2 => clear_value x); (on_goal 1 => unfold x; clear x)) | clear_value x)
      | apply kept_keys | (fail_if_no_progress (apply kept_mk))

theorem State.eraseKeys_kept {s : State} (hk : s.Kept μ κ) (t_mem : μ.mem = none := by assumption) (t_past : μ.past = none := by assumption) (t_keys : μ.keys = none := by assumption) (t_masks : μ.masks = none := by assumption) (t_portRx : μ.portRx = none := by assumption) (t_clusterRx : μ.clusterRx = none := by assumption) (t_clusterTx : μ.clusterTx = none := by assumption) (t_portTx : μ.portTx = none := by assumption) (t_shutters : μ.shutters = none := by assumption) (t_rings : μ.rings = none := by assumption) (t_quarters : μ.quarters = none := by assumption) (t_twin : μ.twin = none := by assumption) (t_objs : μ.objs = none := by assumption) :
    (State.eraseKeys s).Kept μ κ := by
  unfold State.eraseKeys
  repeat' with_reducible first
      | assumption | apply State.updKeys_kept | apply State.updClTx_kept | apply State.txKeyErase_kept | apply foldl_kept | intro _
      | (extract_lets +onlyGivenNames x; first | (refine State.Kept.cut (m := μ) (q := κ) (s := x) ?_ fun hx => ?_; (on_goal 2 => clear_value x); (on_goal 1 => unfold x; clear x)) | (refine State.Kept.cut (m := μ) (q := κ) (s := x.2) ?_ fun hx => ?_; (on_goal 2 => clear_value x); (on_goal 1 => unfold x; clear x)) | clear_value x)
      | apply kept_masks | (fail_if_no_progress (apply kept_mk))

theorem State.freshPns_kept {s : State} {c r : Nat} (hk : s.Kept μ κ) (t_clusterTx : μ.clusterTx = none := by assumption) :
    (State.freshPns s c r).Kept μ κ := by
  unfold State.freshPns
  repeat' with_reducible first
      | assumption | apply State.updClTx_kept
      | (extract_lets +onlyGivenNames x; first | (refine State.Kept.cut (m := μ) (q := κ) (s := x) ?_ fun hx => ?_; (on_goal 2 => clear_value x); (on_goal 1 => unfold x; clear x)) | clear_value x)
      | (fail_if_no_progress (apply kept_mk))

theorem State.flipBank_kept {s : State} {i : Nat} (hk : s.Kept μ κ) (t_keys : μ.keys = none := by assumption) (t_clusterTx : μ.clusterTx = none := by assumption) :
    (State.flipBank s i).Kept μ κ := by
  unfold State.flipBank
  repeat' with_reducible first
      | assumption | apply State.freshPns_kept | apply State.setSlot_kept
      | (extract_lets +onlyGivenNames x; first | (refine State.Kept.cut (m := μ) (q := κ) (s := x) ?_ fun hx => ?_; (on_goal 2 => clear_value x); (on_goal 1 => unfold x; clear x)) | clear_value x)
      | split | (fail_if_no_progress (apply kept_mk))

theorem State.flipBanks_kept {s : State} (hk : s.Kept μ κ) (t_keys : μ.keys = none := by assumption) (t_clusterTx : μ.clusterTx = none := by assumption) :
    (State.flipBanks s).Kept μ κ := by
  unfold State.flipBanks
  repeat' with_reducible first
      | assumption | apply State.flipBank_kept | apply foldl_kept | intro _

theorem State.keyAlarm_kept {s : State} {bit : Nat} (hk : s.Kept μ κ) (t_keys : μ.keys = none := by assumption) (t_twin : μ.twin = none := by assumption) :
    (State.keyAlarm s bit).Kept μ κ := by
  unfold State.keyAlarm
  repeat' with_reducible first
      | assumption | apply State.updKeys_kept | apply State.updTwin_kept
      | (extract_lets +onlyGivenNames x; first | (refine State.Kept.cut (m := μ) (q := κ) (s := x) ?_ fun hx => ?_; (on_goal 2 => clear_value x); (on_goal 1 => unfold x; clear x)) | clear_value x)
      | split | (fail_if_no_progress (apply kept_mk))

theorem State.landKeyErase_kept {s : State} {c r : Nat} (hk : s.Kept μ κ) (t_mem : μ.mem = none := by assumption) (t_past : μ.past = none := by assumption) (t_keys : μ.keys = none := by assumption) (t_portRx : μ.portRx = none := by assumption) (t_clusterRx : μ.clusterRx = none := by assumption) (t_clusterTx : μ.clusterTx = none := by assumption) (t_portTx : μ.portTx = none := by assumption) (t_shutters : μ.shutters = none := by assumption) (t_rings : μ.rings = none := by assumption) (t_quarters : μ.quarters = none := by assumption) (t_twin : μ.twin = none := by assumption) (t_objs : μ.objs = none := by assumption) :
    (State.landKeyErase s c r).Kept μ κ := by
  unfold State.landKeyErase
  repeat' with_reducible first
      | assumption | apply State.freshPns_kept | apply State.setSlot_kept | apply State.txKeyErase_kept | apply foldl_kept | intro _
      | (extract_lets +onlyGivenNames x; first | (refine State.Kept.cut (m := μ) (q := κ) (s := x) ?_ fun hx => ?_; (on_goal 2 => clear_value x); (on_goal 1 => unfold x; clear x)) | clear_value x)
      | (fail_if_no_progress (apply kept_mk))

theorem State.keyEcc_kept {s : State} {k : Nat} {bad : Bool} (hk : s.Kept μ κ) (t_mem : μ.mem = none := by assumption) (t_past : μ.past = none := by assumption) (t_keys : μ.keys = none := by assumption) (t_portRx : μ.portRx = none := by assumption) (t_clusterRx : μ.clusterRx = none := by assumption) (t_clusterTx : μ.clusterTx = none := by assumption) (t_portTx : μ.portTx = none := by assumption) (t_shutters : μ.shutters = none := by assumption) (t_rings : μ.rings = none := by assumption) (t_quarters : μ.quarters = none := by assumption) (t_twin : μ.twin = none := by assumption) (t_objs : μ.objs = none := by assumption) :
    (State.keyEcc s k bad).Kept μ κ := by
  unfold State.keyEcc
  repeat' with_reducible first
      | assumption | apply State.bump_kept | apply State.landKeyErase_kept | apply State.updKeys_kept | apply State.raise_kept
      | apply State.noteEcc_kept | apply State.keyAlarm_kept
      | (extract_lets +onlyGivenNames x; first | (refine State.Kept.cut (m := μ) (q := κ) (s := x) ?_ fun hx => ?_; (on_goal 2 => clear_value x); (on_goal 1 => unfold x; clear x)) | clear_value x)
      | split | (fail_if_no_progress (apply kept_mk))

theorem State.keyUpsets_kept {s : State} {ups : List Upset} (hk : s.Kept μ κ) (t_mem : μ.mem = none := by assumption) (t_past : μ.past = none := by assumption) (t_keys : μ.keys = none := by assumption) (t_portRx : μ.portRx = none := by assumption) (t_clusterRx : μ.clusterRx = none := by assumption) (t_clusterTx : μ.clusterTx = none := by assumption) (t_portTx : μ.portTx = none := by assumption) (t_shutters : μ.shutters = none := by assumption) (t_rings : μ.rings = none := by assumption) (t_quarters : μ.quarters = none := by assumption) (t_twin : μ.twin = none := by assumption) (t_objs : μ.objs = none := by assumption) :
    (State.keyUpsets s ups).Kept μ κ := by
  unfold State.keyUpsets
  repeat' with_reducible first
      | assumption | apply State.keyEcc_kept | apply foldl_kept | intro _ | split

theorem State.landCommon_kept {s : State} {n : Nat} {k : Option KeyImg} (hk : s.Kept μ κ) (t_dict : μ.dict = none := by assumption) (t_keys : μ.keys = none := by assumption) :
    (State.landCommon s n k).Kept μ κ := by
  unfold State.landCommon
  repeat' with_reducible first
      | assumption | apply State.updKeys_kept
      | (extract_lets +onlyGivenNames x; first | (refine State.Kept.cut (m := μ) (q := κ) (s := x) ?_ fun hx => ?_; (on_goal 2 => clear_value x); (on_goal 1 => unfold x; clear x)) | clear_value x)
      | split | apply kept_dict | (fail_if_no_progress (apply kept_mk))

theorem State.landEraseAll_kept {s : State} (hk : s.Kept μ κ) (t_mem : μ.mem = none := by assumption) (t_past : μ.past = none := by assumption) (t_keys : μ.keys = none := by assumption) (t_masks : μ.masks = none := by assumption) (t_portRx : μ.portRx = none := by assumption) (t_clusterRx : μ.clusterRx = none := by assumption) (t_clusterTx : μ.clusterTx = none := by assumption) (t_portTx : μ.portTx = none := by assumption) (t_shutters : μ.shutters = none := by assumption) (t_rings : μ.rings = none := by assumption) (t_quarters : μ.quarters = none := by assumption) (t_twin : μ.twin = none := by assumption) (t_objs : μ.objs = none := by assumption) :
    (State.landEraseAll s).Kept μ κ := by
  unfold State.landEraseAll
  repeat' with_reducible first
      | assumption | apply State.eraseKeys_kept | apply State.settleFaults_kept | apply State.keyAlarm_kept

theorem State.landKeyAlarmClr_kept {s : State} {v : Word} (hk : s.Kept μ κ) (t_keys : μ.keys = none := by assumption) :
    (State.landKeyAlarmClr s v).Kept μ κ := by
  unfold State.landKeyAlarmClr
  repeat' with_reducible first
      | assumption | apply State.updKeys_kept | (fail_if_no_progress (apply kept_mk))

theorem State.landKeyLoad_kept {s : State} {c r : Nat} {k : KeyImg} (hk : s.Kept μ κ) (t_keys : μ.keys = none := by assumption) :
    (State.landKeyLoad s c r k).Kept μ κ := by
  unfold State.landKeyLoad
  repeat' with_reducible first
      | assumption | apply State.setSlot_kept
      | (extract_lets +onlyGivenNames x; first | (refine State.Kept.cut (m := μ) (q := κ) (s := x) ?_ fun hx => ?_; (on_goal 2 => clear_value x); (on_goal 1 => unfold x; clear x)) | clear_value x)
      | (fail_if_no_progress (apply kept_mk))

theorem State.landTamperClr_kept {s : State} {v : Word} (hk : s.Kept μ κ) (t_keys : μ.keys = none := by assumption) :
    (State.landTamperClr s v).Kept μ κ := by
  unfold State.landTamperClr
  repeat' with_reducible first
      | assumption | apply State.updKeys_kept | apply foldl_kept | intro _ | split | (fail_if_no_progress (apply kept_mk))

theorem State.landTrngRestart_kept {s : State} (hk : s.Kept μ κ) (t_keys : μ.keys = none := by assumption) :
    (State.landTrngRestart s).Kept μ κ := by
  unfold State.landTrngRestart
  repeat' with_reducible first
      | assumption | apply State.updKeys_kept | split | (fail_if_no_progress (apply kept_mk))

theorem State.loseBanks_kept {s : State} {c : Nat} (hk : s.Kept μ κ) (t_keys : μ.keys = none := by assumption) :
    (State.loseBanks s c).Kept μ κ := by
  unfold State.loseBanks
  repeat' with_reducible first
      | assumption | apply State.updKeys_kept | apply foldl_kept | intro _
      | (extract_lets +onlyGivenNames x; first | (refine State.Kept.cut (m := μ) (q := κ) (s := x) ?_ fun hx => ?_; (on_goal 2 => clear_value x); (on_goal 1 => unfold x; clear x)) | (refine State.Kept.cut (m := μ) (q := κ) (s := x.2) ?_ fun hx => ?_; (on_goal 2 => clear_value x); (on_goal 1 => unfold x; clear x)) | clear_value x)
      | split | (fail_if_no_progress (apply kept_mk))

theorem State.reloadKeys_kept {s : State} {c : Nat} (hk : s.Kept μ κ) (t_keys : μ.keys = none := by assumption) :
    (State.reloadKeys s c).Kept μ κ := by
  unfold State.reloadKeys
  repeat' with_reducible first
      | assumption | apply State.updKeys_kept | apply foldl_kept | intro _
      | (extract_lets +onlyGivenNames x; first | (refine State.Kept.cut (m := μ) (q := κ) (s := x) ?_ fun hx => ?_; (on_goal 2 => clear_value x); (on_goal 1 => unfold x; clear x)) | (refine State.Kept.cut (m := μ) (q := κ) (s := x.2) ?_ fun hx => ?_; (on_goal 2 => clear_value x); (on_goal 1 => unfold x; clear x)) | clear_value x)
      | split | (fail_if_no_progress (apply kept_mk))

theorem State.seedDrbg_kept {s : State} {n : Nat} (hk : s.Kept μ κ) (t_masks : μ.masks = none := by assumption) :
    (State.seedDrbg s n).Kept μ κ := by
  unfold State.seedDrbg
  repeat' with_reducible first
      | assumption
      | (extract_lets +onlyGivenNames x; first | (refine State.Kept.cut (m := μ) (q := κ) (s := x) ?_ fun hx => ?_; (on_goal 2 => clear_value x); (on_goal 1 => unfold x; clear x)) | clear_value x)
      | apply kept_masks | (fail_if_no_progress (apply kept_mk))

theorem State.reseed_kept {s : State} (hk : s.Kept μ κ) (t_masks : μ.masks = none := by assumption) (t_twin : μ.twin = none := by assumption) :
    (State.reseed s).Kept μ κ := by
  unfold State.reseed
  repeat' with_reducible first
      | assumption | apply State.seedDrbg_kept | apply State.raiseOnce_kept | apply State.bump_kept | apply foldl_kept | intro _
      | (extract_lets +onlyGivenNames x; first | (refine State.Kept.cut (m := μ) (q := κ) (s := x) ?_ fun hx => ?_; (on_goal 2 => clear_value x); (on_goal 1 => unfold x; clear x)) | clear_value x)
      | split | apply kept_masks | (fail_if_no_progress (apply kept_mk))

theorem State.wrapFailed_kept {s : State} (hk : s.Kept μ κ) : (State.wrapFailed s).Kept μ κ := by
  unfold State.wrapFailed
  repeat' with_reducible first
      | assumption | apply State.raise_kept | apply State.bump_kept

theorem execKeyBankFlip_kept {dt c r : Nat} {s : State} (hk : s.Kept μ κ) (t_keys : μ.keys = none := by assumption) (t_clusterTx : μ.clusterTx = none := by assumption) :
    ResKept μ κ (execKeyBankFlip dt c r s) := by
  unfold execKeyBankFlip
  repeat' with_reducible first
      | assumption | apply resKept_next | apply State.flipBank_kept | apply State.elapse_kept

theorem execTamper_kept {dt sensor : Nat} {s : State} (hk : s.Kept μ κ) (t_mem : μ.mem = none := by assumption) (t_past : μ.past = none := by assumption) (t_keys : μ.keys = none := by assumption) (t_masks : μ.masks = none := by assumption) (t_portRx : μ.portRx = none := by assumption) (t_clusterRx : μ.clusterRx = none := by assumption) (t_clusterTx : μ.clusterTx = none := by assumption) (t_portTx : μ.portTx = none := by assumption) (t_shutters : μ.shutters = none := by assumption) (t_rings : μ.rings = none := by assumption) (t_quarters : μ.quarters = none := by assumption) (t_twin : μ.twin = none := by assumption) (t_objs : μ.objs = none := by assumption) :
    ResKept μ κ (execTamper dt sensor s) := by
  unfold execTamper
  repeat' with_reducible first
      | assumption | apply resKept_next | apply State.elapse_kept | apply State.updKeys_kept | apply settled_kept
      | apply State.eraseKeys_kept | apply State.settleFaults_kept | apply State.raise_kept | apply State.keyAlarm_kept
      | (extract_lets +onlyGivenNames x; first | (refine State.Kept.cut (m := μ) (q := κ) (s := x) ?_ fun hx => ?_; (on_goal 2 => clear_value x); (on_goal 1 => unfold x; clear x)) | clear_value x)
      | split | (fail_if_no_progress (apply kept_mk))

theorem execTamperInputHigh_kept {dt sensor : Nat} {s : State} (hk : s.Kept μ κ) (t_keys : μ.keys = none := by assumption) :
    ResKept μ κ (execTamperInputHigh dt sensor s) := by
  unfold execTamperInputHigh
  repeat' with_reducible first
      | assumption | apply resKept_next | apply State.elapse_kept | apply State.updKeys_kept
      | (extract_lets +onlyGivenNames x; first | (refine State.Kept.cut (m := μ) (q := κ) (s := x) ?_ fun hx => ?_; (on_goal 2 => clear_value x); (on_goal 1 => unfold x; clear x)) | clear_value x)
      | split | (fail_if_no_progress (apply kept_mk))

theorem execTrngStartupDone_kept {window : RawWindow} {s : State} (hk : s.Kept μ κ) (t_keys : μ.keys = none := by assumption) :
    ResKept μ κ (execTrngStartupDone window s) := by
  unfold execTrngStartupDone
  repeat' with_reducible first
      | assumption | apply resKept_next | apply State.elapse_kept | apply State.updKeys_kept | intro _
      | (extract_lets +onlyGivenNames x; first | (refine State.Kept.cut (m := μ) (q := κ) (s := x) ?_ fun hx => ?_; (on_goal 2 => clear_value x); (on_goal 1 => unfold x; clear x)) | (refine State.Kept.cut (m := μ) (q := κ) (s := x.2) ?_ fun hx => ?_; (on_goal 2 => clear_value x); (on_goal 1 => unfold x; clear x)) | (have _f : _ → _ := x; clear _f) | clear_value x | skip)
      | split | (fail_if_no_progress (apply kept_mk)) | (dsimp -zeta +zetaDelta only)

theorem execTrngTestFail_kept {dt : Nat} {test : RawTest} {s : State} (hk : s.Kept μ κ) (t_keys : μ.keys = none := by assumption) :
    ResKept μ κ (execTrngTestFail dt test s) := by
  unfold execTrngTestFail
  repeat' with_reducible first
      | assumption | apply resKept_next | apply State.elapse_kept | apply State.bump_kept | apply State.updKeys_kept
      | apply State.raise_kept
      | (extract_lets +onlyGivenNames x; first | (refine State.Kept.cut (m := μ) (q := κ) (s := x) ?_ fun hx => ?_; (on_goal 2 => clear_value x); (on_goal 1 => unfold x; clear x)) | clear_value x)
      | split | (fail_if_no_progress (apply kept_mk))

end Sys2Proof.Machine
end

