-- ==== Sys2Proof/Laws/KeptMacsecRx.lean ====
section
/-!
SUPPORT. What the operations of Machine/MacsecRx.lean keep.
-/
set_option linter.unusedTactic false
set_option linter.unreachableTactic false
set_option linter.unusedVariables false
set_option linter.tactic.unusedName false
namespace Sys2Proof.Machine
variable {μ : Marks} {κ : List Instr}

theorem State.acceptPn_kept {s : State} {c r pn : Nat} {xpn : Bool} (hk : s.Kept μ κ) (t_rows : μ.rows = none := by assumption) (t_clusterRx : μ.clusterRx = none := by assumption) :
    (State.acceptPn s c r pn xpn).Kept μ κ := by
  unfold State.acceptPn
  repeat' with_reducible first
      | assumption | apply State.rowSet_kept | apply State.saFlag_kept
      | (extract_lets +onlyGivenNames x; first | (refine State.Kept.cut (m := μ) (q := κ) (s := x) ?_ fun hx => ?_; (on_goal 2 => clear_value x); (on_goal 1 => unfold x; clear x)) | clear_value x)
      | split

theorem State.heldBytes_kept {s : State} {c n others : Nat} (hk : s.Kept μ κ) (t_clusterRx : μ.clusterRx = none := by assumption) :
    (State.heldBytes s c n others).Kept μ κ := by
  unfold State.heldBytes
  repeat' with_reducible first
      | assumption | apply State.updClRx_kept | (fail_if_no_progress (apply kept_mk))

theorem State.saBump_kept {s : State} {c r sub n : Nat} (hk : s.Kept μ κ) : (State.saBump s c r sub n).Kept μ κ := by
  unfold State.saBump
  repeat' with_reducible first
      | assumption | apply State.bumpRow_kept

theorem State.secCountRx_kept {s : State} {p : Nat} {a0 : SecCount} (hk : s.Kept μ κ) : (State.secCountRx s p a0).Kept μ κ := by
  unfold State.secCountRx
  repeat' with_reducible first
      | assumption | apply State.bumpPort_kept | apply State.saBump_kept | intro _
      | (extract_lets +onlyGivenNames x; first | (refine State.Kept.cut (m := μ) (q := κ) (s := x) ?_ fun hx => ?_; (on_goal 2 => clear_value x); (on_goal 1 => unfold x; clear x)) | (refine State.Kept.cut (m := μ) (q := κ) (s := x.2) ?_ fun hx => ?_; (on_goal 2 => clear_value x); (on_goal 1 => unfold x; clear x)) | (have _f : _ → _ := x; clear _f) | clear_value x | skip)
      | split | (fail_if_no_progress (apply kept_mk)) | (dsimp -zeta +zetaDelta only)

theorem State.secVerify_kept {s : State} {f : SecIn} {t : SecTag} {r : Nat} {w : Word} {k : KeyImg} {sci pn : Nat} {pass : Bool} (hk : s.Kept μ κ) (t_rows : μ.rows = none := by assumption) (t_masks : μ.masks = none := by assumption) (t_clusterRx : μ.clusterRx = none := by assumption) (t_twin : μ.twin = none := by assumption) :
    (State.secVerify s f t r w k sci pn pass).2.Kept μ κ := by
  unfold State.secVerify
  repeat' with_reducible first
      | assumption | apply State.saBump_kept | apply State.raiseOnce_kept | apply State.bump_kept | apply State.bumpPort_kept
      | apply State.drawMasks_kept | apply State.acceptPn_kept | intro _
      | (extract_lets +onlyGivenNames x; first | (refine State.Kept.cut (m := μ) (q := κ) (s := x) ?_ fun hx => ?_; (on_goal 2 => clear_value x); (on_goal 1 => unfold x; clear x)) | (refine State.Kept.cut (m := μ) (q := κ) (s := x.2) ?_ fun hx => ?_; (on_goal 2 => clear_value x); (on_goal 1 => unfold x; clear x)) | (have _f : _ → _ := x; clear _f) | clear_value x | skip)
      | split | (fail_if_no_progress (apply kept_mk)) | (dsimp -zeta +zetaDelta only)

theorem State.secRx_kept {s : State} {f : SecIn} (hk : s.Kept μ κ) (t_rows : μ.rows = none := by assumption) (t_masks : μ.masks = none := by assumption) (t_clusterRx : μ.clusterRx = none := by assumption) (t_twin : μ.twin = none := by assumption) :
    (State.secRx s f).2.Kept μ κ := by
  unfold State.secRx
  repeat' with_reducible first
      | assumption | apply State.secCountRx_kept | apply State.bumpPort_kept | apply State.heldBytes_kept | apply State.raiseOnce_kept
      | apply State.bump_kept | apply State.secVerify_kept | intro _
      | (extract_lets +onlyGivenNames x; first | (refine State.Kept.cut (m := μ) (q := κ) (s := x) ?_ fun hx => ?_; (on_goal 2 => clear_value x); (on_goal 1 => unfold x; clear x)) | (refine State.Kept.cut (m := μ) (q := κ) (s := x.2) ?_ fun hx => ?_; (on_goal 2 => clear_value x); (on_goal 1 => unfold x; clear x)) | (have _f : _ → _ := x; clear _f) | clear_value x | skip)
      | split | (fail_if_no_progress (apply kept_mk)) | (dsimp -zeta +zetaDelta only)

theorem State.secStageRx_kept {s : State} {f : SecIn} (hk : s.Kept μ κ) (t_rows : μ.rows = none := by assumption) (t_masks : μ.masks = none := by assumption) (t_clusterRx : μ.clusterRx = none := by assumption) (t_twin : μ.twin = none := by assumption) :
    (State.secStageRx s f).2.Kept μ κ := by
  unfold State.secStageRx
  repeat' with_reducible first
      | assumption | apply State.secRx_kept | intro _
      | (extract_lets +onlyGivenNames x; first | (refine State.Kept.cut (m := μ) (q := κ) (s := x) ?_ fun hx => ?_; (on_goal 2 => clear_value x); (on_goal 1 => unfold x; clear x)) | (refine State.Kept.cut (m := μ) (q := κ) (s := x.2) ?_ fun hx => ?_; (on_goal 2 => clear_value x); (on_goal 1 => unfold x; clear x)) | (have _f : _ → _ := x; clear _f) | clear_value x | skip)
      | split | (fail_if_no_progress (apply kept_mk)) | (dsimp -zeta +zetaDelta only)

end Sys2Proof.Machine
end

