-- ==== Sys2Proof/Laws/KeptMeters.lean ====
section
/-!
SUPPORT. What the operations of Machine/Meters.lean keep.
-/
set_option linter.unusedTactic false
set_option linter.unreachableTactic false
set_option linter.unusedVariables false
set_option linter.tactic.unusedName false
namespace Sys2Proof.Machine
variable {μ : Marks} {κ : List Instr}

theorem State.setMeterSt_kept {s : State} {c r : Nat} {m : MeterSt} (hk : s.Kept μ κ) (t_clusterRx : μ.clusterRx = none := by assumption) :
    (State.setMeterSt s c r m).Kept μ κ := by
  unfold State.setMeterSt
  repeat' with_reducible first
      | assumption | apply State.updClRx_kept | (fail_if_no_progress (apply kept_mk))

theorem State.landMeter_kept {s : State} {c r : Nat} {img : List Word} (hk : s.Kept μ κ) (t_rows : μ.rows = none := by assumption) (t_clusterRx : μ.clusterRx = none := by assumption) :
    (State.landMeter s c r img).Kept μ κ := by
  unfold State.landMeter
  repeat' with_reducible first
      | assumption | apply State.rowSet_kept | apply State.clearCtrs_kept | apply State.setMeterSt_kept | apply foldl_kept | intro _
      | (extract_lets +onlyGivenNames x; first | (refine State.Kept.cut (m := μ) (q := κ) (s := x) ?_ fun hx => ?_; (on_goal 2 => clear_value x); (on_goal 1 => unfold x; clear x)) | clear_value x)
      | split | (fail_if_no_progress (apply kept_mk))

theorem State.meterEcc_kept {s : State} {c : Nat} {map : Bool} {r : Nat} (hk : s.Kept μ κ) (t_rows : μ.rows = none := by assumption) (t_clusterRx : μ.clusterRx = none := by assumption) (t_twin : μ.twin = none := by assumption) :
    (State.meterEcc s c map r).Kept μ κ := by
  unfold State.meterEcc
  repeat' with_reducible first
      | assumption | apply State.rowSet_kept | apply State.setClRx_kept | apply State.raiseOnce_kept | apply State.bump_kept
      | (extract_lets +onlyGivenNames x; first | (refine State.Kept.cut (m := μ) (q := κ) (s := x) ?_ fun hx => ?_; (on_goal 2 => clear_value x); (on_goal 1 => unfold x; clear x)) | clear_value x)
      | split | (fail_if_no_progress (apply kept_mk))

theorem State.meterEnd_kept {s : State} {c : Nat} {due : Option MeterDue} {len : Nat} (hk : s.Kept μ κ) (t_clusterRx : μ.clusterRx = none := by assumption) :
    (State.meterEnd s c due len).Kept μ κ := by
  unfold State.meterEnd
  repeat' with_reducible first
      | assumption | apply State.bumpRow_kept | apply State.setMeterSt_kept
      | (extract_lets +onlyGivenNames x; first | (refine State.Kept.cut (m := μ) (q := κ) (s := x) ?_ fun hx => ?_; (on_goal 2 => clear_value x); (on_goal 1 => unfold x; clear x)) | clear_value x)
      | split

theorem State.meterStage_kept {s : State} {f : MeterIn} (hk : s.Kept μ κ) (t_clusterRx : μ.clusterRx = none := by assumption) :
    (State.meterStage s f).2.Kept μ κ := by
  unfold State.meterStage
  repeat' with_reducible first
      | assumption | apply State.bumpPort_kept | apply State.bumpRow_kept | apply State.setMeterSt_kept
      | (extract_lets +onlyGivenNames x; first | (refine State.Kept.cut (m := μ) (q := κ) (s := x) ?_ fun hx => ?_; (on_goal 2 => clear_value x); (on_goal 1 => unfold x; clear x)) | (refine State.Kept.cut (m := μ) (q := κ) (s := x.2) ?_ fun hx => ?_; (on_goal 2 => clear_value x); (on_goal 1 => unfold x; clear x)) | clear_value x)
      | split | (fail_if_no_progress (apply kept_mk))

theorem State.metersCold_kept {s : State} {c : Nat} (hk : s.Kept μ κ) (t_rows : μ.rows = none := by assumption) (t_clusterRx : μ.clusterRx = none := by assumption) :
    (State.metersCold s c).Kept μ κ := by
  unfold State.metersCold
  repeat' with_reducible first
      | assumption | apply State.updClRx_kept | apply State.clearTable_kept | (fail_if_no_progress (apply kept_mk))

theorem State.metersFull_kept {s : State} {c : Nat} (hk : s.Kept μ κ) (t_clusterRx : μ.clusterRx = none := by assumption) :
    (State.metersFull s c).Kept μ κ := by
  unfold State.metersFull
  repeat' with_reducible first
      | assumption | apply State.setMeterSt_kept | apply foldl_kept | intro _
      | (extract_lets +onlyGivenNames x; first | (refine State.Kept.cut (m := μ) (q := κ) (s := x) ?_ fun hx => ?_; (on_goal 2 => clear_value x); (on_goal 1 => unfold x; clear x)) | clear_value x)
      | split

theorem State.readMeterCapture_kept {s : State} {c : Nat} (hk : s.Kept μ κ) (t_clusterRx : μ.clusterRx = none := by assumption) :
    (State.readMeterCapture s c).2.Kept μ κ := by
  unfold State.readMeterCapture
  repeat' with_reducible first
      | assumption | apply State.updClRx_kept | (fail_if_no_progress (apply kept_mk))

theorem State.refillMeter_kept {s : State} {c r : Nat} (hk : s.Kept μ κ) (t_clusterRx : μ.clusterRx = none := by assumption) :
    (State.refillMeter s c r).Kept μ κ := by
  unfold State.refillMeter
  repeat' with_reducible first
      | assumption | apply State.setMeterSt_kept

theorem execMeterBackgroundRefill_kept {dt c row : Nat} {s : State} (hk : s.Kept μ κ) (t_clusterRx : μ.clusterRx = none := by assumption) :
    ResKept μ κ (execMeterBackgroundRefill dt c row s) := by
  unfold execMeterBackgroundRefill
  repeat' with_reducible first
      | assumption | apply resKept_next | apply State.elapse_kept | apply State.refillMeter_kept
      | (extract_lets +onlyGivenNames x; first | (refine State.Kept.cut (m := μ) (q := κ) (s := x) ?_ fun hx => ?_; (on_goal 2 => clear_value x); (on_goal 1 => unfold x; clear x)) | clear_value x)
      | split

end Sys2Proof.Machine
end

