-- ==== Sys2Proof/Laws/KeptReceive.lean ====
section
/-!
SUPPORT. What the operations of Machine/Receive.lean keep.
-/
set_option linter.unusedTactic false
set_option linter.unreachableTactic false
set_option linter.unusedVariables false
set_option linter.tactic.unusedName false
namespace Sys2Proof.Machine
variable {μ : Marks} {κ : List Instr}

theorem State.setTimer_kept {s : State} {p k : Nat} {v : Option Word} (hk : s.Kept μ κ) (t_portRx : μ.portRx = none := by assumption) :
    (State.setTimer s p k v).Kept μ κ := by
  unfold State.setTimer
  repeat' with_reducible first
      | assumption | apply State.updPort_kept | (fail_if_no_progress (apply kept_mk))

theorem State.actControl_kept {s : State} {p : Nat} {bs : Bytes} (hk : s.Kept μ κ) (t_portRx : μ.portRx = none := by assumption) (t_clusterTx : μ.clusterTx = none := by assumption) :
    (State.actControl s p bs).Kept μ κ := by
  unfold State.actControl
  repeat' with_reducible first
      | assumption | apply State.settlePort_kept | apply State.bumpPort_kept | apply State.setTimer_kept | apply foldl_kept
      | apply foldl_kept_snd | apply foldl_kept_mid | apply foldl_resKept | apply foldl_pairKept | apply foldl_slotKept | intro _
      | (extract_lets +onlyGivenNames x; first | (refine State.Kept.cut (m := μ) (q := κ) (s := x) ?_ fun hx => ?_; (on_goal 2 => clear_value x); (on_goal 1 => unfold x; clear x)) | (refine State.Kept.cut (m := μ) (q := κ) (s := x.2) ?_ fun hx => ?_; (on_goal 2 => clear_value x); (on_goal 1 => unfold x; clear x)) | (have _f : _ → _ := x; clear _f) | clear_value x | skip)
      | split | (fail_if_no_progress (apply kept_mk)) | (dsimp -zeta +zetaDelta only)

theorem State.badSfd_kept {s : State} {p back : Nat} (hk : s.Kept μ κ) : (State.badSfd s p back).Kept μ κ := by
  unfold State.badSfd
  repeat' with_reducible first
      | assumption | apply State.bumpPort_kept | split

theorem State.coreEnd_kept {s : State} {p : Nat} {bytes : Bytes} {fin : End} {reason : Nat} (hk : s.Kept μ κ) (t_clusterRx : μ.clusterRx = none := by assumption) :
    (State.coreEnd s p bytes fin reason).Kept μ κ := by
  unfold State.coreEnd
  repeat' with_reducible first
      | assumption | apply State.updClRx_kept | split | (fail_if_no_progress (apply kept_mk))

theorem State.coreFeed_kept {s : State} {p : Nat} {bytes : Bytes} (hk : s.Kept μ κ) (t_clusterRx : μ.clusterRx = none := by assumption) :
    (State.coreFeed s p bytes).Kept μ κ := by
  unfold State.coreFeed
  repeat' with_reducible first
      | assumption | apply State.updClRx_kept | split | (fail_if_no_progress (apply kept_mk))

theorem State.countOk_kept {s : State} {p : Nat} {bs : Bytes} (hk : s.Kept μ κ) : (State.countOk s p bs).Kept μ κ := by
  unfold State.countOk
  repeat' with_reducible first
      | assumption | apply State.bumpPort_kept
      | (extract_lets +onlyGivenNames x; first | (refine State.Kept.cut (m := μ) (q := κ) (s := x) ?_ fun hx => ?_; (on_goal 2 => clear_value x); (on_goal 1 => unfold x; clear x)) | clear_value x)
      | split

theorem State.rxUpsets_kept {s : State} {c : Nat} {ups : List Upset} (hk : s.Kept μ κ) (t_mem : μ.mem = none := by assumption) (t_rows : μ.rows = none := by assumption) (t_past : μ.past = none := by assumption) (t_keys : μ.keys = none := by assumption) (t_portRx : μ.portRx = none := by assumption) (t_clusterRx : μ.clusterRx = none := by assumption) (t_clusterTx : μ.clusterTx = none := by assumption) (t_portTx : μ.portTx = none := by assumption) (t_shutters : μ.shutters = none := by assumption) (t_rings : μ.rings = none := by assumption) (t_quarters : μ.quarters = none := by assumption) (t_twin : μ.twin = none := by assumption) (t_objs : μ.objs = none := by assumption) :
    (State.rxUpsets s c ups).Kept μ κ := by
  unfold State.rxUpsets
  repeat' with_reducible first
      | assumption | apply State.keyUpsets_kept | apply State.doorUpset_kept | apply State.meterEcc_kept | apply State.calEcc_kept
      | apply foldl_kept | intro _
      | (extract_lets +onlyGivenNames x; first | (refine State.Kept.cut (m := μ) (q := κ) (s := x) ?_ fun hx => ?_; (on_goal 2 => clear_value x); (on_goal 1 => unfold x; clear x)) | clear_value x)
      | split

theorem State.decideRx_kept {s : State} {p : Nat} {o : SecOut} {mark : Bool} {tag : Option SysTag} {stamp : Word} {len : Option Nat} {held : Nat} (hk : s.Kept μ κ) (t_clusterRx : μ.clusterRx = none := by assumption) (t_twin : μ.twin = none := by assumption) :
    (State.decideRx s p o mark tag stamp len held).2.Kept μ κ := by
  unfold State.decideRx
  repeat' with_reducible first
      | assumption | (rename_i e; have e2 := congrArg Prod.snd e; dsimp only at e2; subst e2) | apply State.doorDecide_kept
      | apply State.meterStage_kept
      | (extract_lets +onlyGivenNames x; first | (refine State.Kept.cut (m := μ) (q := κ) (s := x) ?_ fun hx => ?_; (on_goal 2 => clear_value x); (on_goal 1 => unfold x; clear x)) | (refine State.Kept.cut (m := μ) (q := κ) (s := x.2) ?_ fun hx => ?_; (on_goal 2 => clear_value x); (on_goal 1 => unfold x; clear x)) | clear_value x)
      | split | (fail_if_no_progress (apply kept_mk))

theorem State.decideEarly_kept {s : State} {p : Nat} {r : Reasm} {env : RxEnv} (hk : s.Kept μ κ) (t_rows : μ.rows = none := by assumption) (t_clusterRx : μ.clusterRx = none := by assumption) (t_clusterTx : μ.clusterTx = none := by assumption) (t_twin : μ.twin = none := by assumption) :
    (State.decideEarly s p r env).2.Kept μ κ := by
  unfold State.decideEarly
  repeat' with_reducible first
      | assumption | (rename_i e; have e2 := congrArg Prod.snd e; dsimp only at e2; subst e2) | apply State.calStage_kept
      | apply State.decideRx_kept | apply State.raiseOnce_kept | apply State.bump_kept | apply State.skidPush_kept
      | (extract_lets +onlyGivenNames x; first | (refine State.Kept.cut (m := μ) (q := κ) (s := x) ?_ fun hx => ?_; (on_goal 2 => clear_value x); (on_goal 1 => unfold x; clear x)) | clear_value x)
      | split | (fail_if_no_progress (apply kept_mk))

theorem State.filterRx_kept {s : State} {p : Nat} {bs : Bytes} (hk : s.Kept μ κ) (t_portRx : μ.portRx = none := by assumption) :
    (State.filterRx s p bs).2.Kept μ κ := by
  unfold State.filterRx
  repeat' with_reducible first
      | assumption | apply State.bumpPort_kept | apply State.rxCause_kept | split

theorem State.cutOn_kept {s : State} {p : Nat} {r : Reasm} {env : RxEnv} (hk : s.Kept μ κ) (t_mem : μ.mem = none := by assumption) (t_rows : μ.rows = none := by assumption) (t_past : μ.past = none := by assumption) (t_keys : μ.keys = none := by assumption) (t_portRx : μ.portRx = none := by assumption) (t_clusterRx : μ.clusterRx = none := by assumption) (t_clusterTx : μ.clusterTx = none := by assumption) (t_portTx : μ.portTx = none := by assumption) (t_shutters : μ.shutters = none := by assumption) (t_rings : μ.rings = none := by assumption) (t_quarters : μ.quarters = none := by assumption) (t_twin : μ.twin = none := by assumption) (t_objs : μ.objs = none := by assumption) :
    (State.cutOn s p r env).2.Kept μ κ := by
  unfold State.cutOn
  repeat' with_reducible first
      | assumption | apply State.rxUpsets_kept | apply State.coreFeed_kept | apply State.decideEarly_kept | apply State.filterRx_kept
      | (extract_lets +onlyGivenNames x; first | (refine State.Kept.cut (m := μ) (q := κ) (s := x) ?_ fun hx => ?_; (on_goal 2 => clear_value x); (on_goal 1 => unfold x; clear x)) | (refine State.Kept.cut (m := μ) (q := κ) (s := x.2) ?_ fun hx => ?_; (on_goal 2 => clear_value x); (on_goal 1 => unfold x; clear x)) | clear_value x)
      | split | (fail_if_no_progress (apply kept_mk))

theorem State.fecWords_kept {s : State} {p : Nat} {env : RxEnv} (hk : s.Kept μ κ) (t_portRx : μ.portRx = none := by assumption) :
    (State.fecWords s p env).Kept μ κ := by
  unfold State.fecWords
  repeat' with_reducible first
      | assumption | apply State.bump_kept | apply State.rxCause_kept
      | (extract_lets +onlyGivenNames x; first | (refine State.Kept.cut (m := μ) (q := κ) (s := x) ?_ fun hx => ?_; (on_goal 2 => clear_value x); (on_goal 1 => unfold x; clear x)) | clear_value x)
      | split

theorem State.knock_kept {s : State} {p : Nat} {bs : Bytes} (hk : s.Kept μ κ) (t_clusterRx : μ.clusterRx = none := by assumption) :
    (State.knock s p bs).Kept μ κ := by
  unfold State.knock
  repeat' with_reducible first
      | assumption | apply State.bumpPort_kept | apply State.bump_kept | apply State.raise_kept | apply State.updClRx_kept
      | (extract_lets +onlyGivenNames x; first | (refine State.Kept.cut (m := μ) (q := κ) (s := x) ?_ fun hx => ?_; (on_goal 2 => clear_value x); (on_goal 1 => unfold x; clear x)) | clear_value x)
      | split | (fail_if_no_progress (apply kept_mk))

theorem State.sized_kept {s : State} {p : Nat} {bs : Bytes} {how : RxHow} {known : Bool} {stamp begun : Word} {stage : RxStage} {env : RxEnv} (hk : s.Kept μ κ) (t_portRx : μ.portRx = none := by assumption) (t_clusterTx : μ.clusterTx = none := by assumption) :
    (State.sized s p bs how known stamp begun stage env).2.Kept μ κ := by
  unfold State.sized
  repeat' with_reducible first
      | assumption | apply State.bumpPort_kept | apply State.countOk_kept | apply State.actControl_kept
      | (extract_lets +onlyGivenNames x; first | (refine State.Kept.cut (m := μ) (q := κ) (s := x) ?_ fun hx => ?_; (on_goal 2 => clear_value x); (on_goal 1 => unfold x; clear x)) | clear_value x)
      | split | (fail_if_no_progress (apply kept_mk))

theorem State.handOver_kept {s : State} {p : Nat} {punt : Option (Nat × Nat)} {body : Bytes} {fin : End} {known : Bool} {stamp : Word} {vid colour : Nat} (hk : s.Kept μ κ) (t_mem : μ.mem = none := by assumption) (t_rings : μ.rings = none := by assumption) (t_quarters : μ.quarters = none := by assumption) :
    (State.handOver s p punt body fin known stamp vid colour).Kept μ κ := by
  unfold State.handOver
  repeat' with_reducible first
      | assumption | apply State.bump_kept | apply State.stageRx_kept | split | (fail_if_no_progress (apply kept_mk))

theorem State.toCore_kept {s : State} {p : Nat} {m : FrameMeta} {bytes : Bytes} {fin : End} {reason reach : Nat} (hk : s.Kept μ κ) (t_clusterRx : μ.clusterRx = none := by assumption) (t_twin : μ.twin = none := by assumption) :
    (State.toCore s p m bytes fin reason reach).Kept μ κ := by
  unfold State.toCore
  repeat' with_reducible first
      | assumption | apply State.raiseOnce_kept | apply State.bump_kept | apply State.skidPush_kept
      | (extract_lets +onlyGivenNames x; first | (refine State.Kept.cut (m := μ) (q := κ) (s := x) ?_ fun hx => ?_; (on_goal 2 => clear_value x); (on_goal 1 => unfold x; clear x)) | clear_value x)
      | split | (fail_if_no_progress (apply kept_mk))

theorem State.finishRx_kept {s : State} {p : Nat} {v : RxVerdict} {o : SecOut} {strip : Bool} {tail : Bytes} {f : RxPass} (hk : s.Kept μ κ) (t_mem : μ.mem = none := by assumption) (t_clusterRx : μ.clusterRx = none := by assumption) (t_rings : μ.rings = none := by assumption) (t_quarters : μ.quarters = none := by assumption) (t_twin : μ.twin = none := by assumption) :
    (State.finishRx s p v o strip tail f).Kept μ κ := by
  unfold State.finishRx
  repeat' with_reducible first
      | assumption | apply State.doorLearn_kept | apply State.meterEnd_kept | apply State.peepTap_kept | apply State.handOver_kept
      | apply State.coreEnd_kept | apply State.toCore_kept
      | (extract_lets +onlyGivenNames x; first | (refine State.Kept.cut (m := μ) (q := κ) (s := x) ?_ fun hx => ?_; (on_goal 2 => clear_value x); (on_goal 1 => unfold x; clear x)) | clear_value x)
      | split | (fail_if_no_progress (apply kept_mk))

theorem State.pipeline_kept {s : State} {p : Nat} {strip : Bool} {f : RxPass} (hk : s.Kept μ κ) (t_mem : μ.mem = none := by assumption) (t_rows : μ.rows = none := by assumption) (t_dict : μ.dict = none := by assumption) (t_masks : μ.masks = none := by assumption) (t_clusterRx : μ.clusterRx = none := by assumption) (t_clusterTx : μ.clusterTx = none := by assumption) (t_rings : μ.rings = none := by assumption) (t_quarters : μ.quarters = none := by assumption) (t_twin : μ.twin = none := by assumption) :
    (State.pipeline s p strip f).Kept μ κ := by
  unfold State.pipeline
  repeat' with_reducible first
      | assumption | (rename_i e; have e2 := congrArg Prod.snd e; dsimp only at e2; subst e2) | apply State.peepTap_kept
      | apply State.secStageRx_kept | apply State.finishRx_kept | apply State.calStage_kept | apply State.inbandRequest_kept
      | apply State.decideRx_kept
      | (extract_lets +onlyGivenNames x; first | (refine State.Kept.cut (m := μ) (q := κ) (s := x) ?_ fun hx => ?_; (on_goal 2 => clear_value x); (on_goal 1 => unfold x; clear x)) | clear_value x)
      | split | (fail_if_no_progress (apply kept_mk))

theorem State.passOrWait_kept {s s0 : State} {p : Nat} {express : Bool} {f : RxPass} (hk : s.Kept μ κ) (hks0 : s0.Kept μ κ) (t_mem : μ.mem = none := by assumption) (t_rows : μ.rows = none := by assumption) (t_past : μ.past = none := by assumption) (t_dict : μ.dict = none := by assumption) (t_keys : μ.keys = none := by assumption) (t_masks : μ.masks = none := by assumption) (t_portRx : μ.portRx = none := by assumption) (t_clusterRx : μ.clusterRx = none := by assumption) (t_clusterTx : μ.clusterTx = none := by assumption) (t_portTx : μ.portTx = none := by assumption) (t_shutters : μ.shutters = none := by assumption) (t_rings : μ.rings = none := by assumption) (t_quarters : μ.quarters = none := by assumption) (t_twin : μ.twin = none := by assumption) (t_objs : μ.objs = none := by assumption) :
    (State.passOrWait s s0 p express f).Kept μ κ := by
  unfold State.passOrWait
  repeat' with_reducible first
      | assumption | apply State.bumpPort_kept | apply State.rxUpsets_kept | apply State.updPort_kept | apply State.pipeline_kept | split
      | (fail_if_no_progress (apply kept_mk))

theorem State.rxMac_kept {s : State} {p : Nat} {bs : Bytes} {how : RxHow} {express known : Bool} {stamp begun : Word} {stage : RxStage} {env : RxEnv} (hk : s.Kept μ κ) (t_mem : μ.mem = none := by assumption) (t_rows : μ.rows = none := by assumption) (t_past : μ.past = none := by assumption) (t_dict : μ.dict = none := by assumption) (t_keys : μ.keys = none := by assumption) (t_masks : μ.masks = none := by assumption) (t_portRx : μ.portRx = none := by assumption) (t_clusterRx : μ.clusterRx = none := by assumption) (t_clusterTx : μ.clusterTx = none := by assumption) (t_portTx : μ.portTx = none := by assumption) (t_shutters : μ.shutters = none := by assumption) (t_rings : μ.rings = none := by assumption) (t_quarters : μ.quarters = none := by assumption) (t_twin : μ.twin = none := by assumption) (t_objs : μ.objs = none := by assumption) :
    (State.rxMac s p bs how express known stamp begun stage env).Kept μ κ := by
  unfold State.rxMac
  repeat' with_reducible first
      | assumption | (rename_i e; have e2 := congrArg Prod.snd e; dsimp only at e2; subst e2) | apply State.settlePort_kept
      | apply State.underStart_kept | apply State.knock_kept | apply State.filterRx_kept | apply State.sized_kept
      | apply State.passOrWait_kept | intro _
      | (extract_lets +onlyGivenNames x; first | (refine State.Kept.cut (m := μ) (q := κ) (s := x) ?_ fun hx => ?_; (on_goal 2 => clear_value x); (on_goal 1 => unfold x; clear x)) | (refine State.Kept.cut (m := μ) (q := κ) (s := x.2) ?_ fun hx => ?_; (on_goal 2 => clear_value x); (on_goal 1 => unfold x; clear x)) | (have _f : _ → _ := x; clear _f) | clear_value x | skip)
      | split | (fail_if_no_progress (apply kept_mk)) | (dsimp -zeta +zetaDelta only)

theorem State.reasmErr_kept {s : State} {p age : Nat} (hk : s.Kept μ κ) (t_portRx : μ.portRx = none := by assumption) :
    (State.reasmErr s p age).Kept μ κ := by
  unfold State.reasmErr
  repeat' with_reducible first
      | assumption | apply State.rxCause_kept | apply State.bumpPort_kept | split

theorem State.fragCodeErr_kept {s : State} {p : Nat} {stage : RxStage} {env : RxEnv} (hk : s.Kept μ κ) :
    (State.fragCodeErr s p stage env).Kept μ κ := by
  unfold State.fragCodeErr
  repeat' with_reducible first
      | assumption | apply State.bumpPort_kept | split

theorem State.releaseWaiting_kept {s : State} {p : Nat} (hk : s.Kept μ κ) (t_mem : μ.mem = none := by assumption) (t_rows : μ.rows = none := by assumption) (t_dict : μ.dict = none := by assumption) (t_masks : μ.masks = none := by assumption) (t_portRx : μ.portRx = none := by assumption) (t_clusterRx : μ.clusterRx = none := by assumption) (t_clusterTx : μ.clusterTx = none := by assumption) (t_rings : μ.rings = none := by assumption) (t_quarters : μ.quarters = none := by assumption) (t_twin : μ.twin = none := by assumption) (t_objs : μ.objs = none := by assumption) :
    (State.releaseWaiting s p).Kept μ κ := by
  unfold State.releaseWaiting
  repeat' with_reducible first
      | assumption | apply State.updPort_kept | apply State.underStart_kept | apply State.pipeline_kept | apply foldl_kept | intro _
      | (extract_lets +onlyGivenNames x; first | (refine State.Kept.cut (m := μ) (q := κ) (s := x) ?_ fun hx => ?_; (on_goal 2 => clear_value x); (on_goal 1 => unfold x; clear x)) | clear_value x)
      | (fail_if_no_progress (apply kept_mk))

theorem State.endReasm_kept {s : State} {p : Nat} (hk : s.Kept μ κ) (t_mem : μ.mem = none := by assumption) (t_rows : μ.rows = none := by assumption) (t_past : μ.past = none := by assumption) (t_dict : μ.dict = none := by assumption) (t_keys : μ.keys = none := by assumption) (t_masks : μ.masks = none := by assumption) (t_portRx : μ.portRx = none := by assumption) (t_clusterRx : μ.clusterRx = none := by assumption) (t_clusterTx : μ.clusterTx = none := by assumption) (t_portTx : μ.portTx = none := by assumption) (t_shutters : μ.shutters = none := by assumption) (t_rings : μ.rings = none := by assumption) (t_quarters : μ.quarters = none := by assumption) (t_twin : μ.twin = none := by assumption) (t_objs : μ.objs = none := by assumption) :
    (State.endReasm s p).Kept μ κ := by
  unfold State.endReasm
  repeat' with_reducible first
      | assumption | apply State.updPort_kept | apply State.rxMac_kept | apply State.releaseWaiting_kept
      | (extract_lets +onlyGivenNames x; first | (refine State.Kept.cut (m := μ) (q := κ) (s := x) ?_ fun hx => ?_; (on_goal 2 => clear_value x); (on_goal 1 => unfold x; clear x)) | clear_value x)
      | split | (fail_if_no_progress (apply kept_mk))

theorem State.holdReasm_kept {s : State} {p : Nat} {r : Reasm} {env : RxEnv} (hk : s.Kept μ κ) (t_mem : μ.mem = none := by assumption) (t_rows : μ.rows = none := by assumption) (t_past : μ.past = none := by assumption) (t_keys : μ.keys = none := by assumption) (t_portRx : μ.portRx = none := by assumption) (t_clusterRx : μ.clusterRx = none := by assumption) (t_clusterTx : μ.clusterTx = none := by assumption) (t_portTx : μ.portTx = none := by assumption) (t_shutters : μ.shutters = none := by assumption) (t_rings : μ.rings = none := by assumption) (t_quarters : μ.quarters = none := by assumption) (t_twin : μ.twin = none := by assumption) (t_objs : μ.objs = none := by assumption) :
    (State.holdReasm s p r env).Kept μ κ := by
  unfold State.holdReasm
  repeat' with_reducible first
      | assumption | apply State.underStart_kept | apply State.updPort_kept | apply State.cutOn_kept | intro _
      | (extract_lets +onlyGivenNames x; first | (refine State.Kept.cut (m := μ) (q := κ) (s := x) ?_ fun hx => ?_; (on_goal 2 => clear_value x); (on_goal 1 => unfold x; clear x)) | (refine State.Kept.cut (m := μ) (q := κ) (s := x.2) ?_ fun hx => ?_; (on_goal 2 => clear_value x); (on_goal 1 => unfold x; clear x)) | (have _f : _ → _ := x; clear _f) | clear_value x | skip)
      | split | (fail_if_no_progress (apply kept_mk)) | (dsimp -zeta +zetaDelta only)

theorem State.wholeReasm_kept {s : State} {p : Nat} {r : Reasm} {bs : Bytes} {env : RxEnv} (hk : s.Kept μ κ) (t_mem : μ.mem = none := by assumption) (t_rows : μ.rows = none := by assumption) (t_past : μ.past = none := by assumption) (t_dict : μ.dict = none := by assumption) (t_keys : μ.keys = none := by assumption) (t_masks : μ.masks = none := by assumption) (t_portRx : μ.portRx = none := by assumption) (t_clusterRx : μ.clusterRx = none := by assumption) (t_clusterTx : μ.clusterTx = none := by assumption) (t_portTx : μ.portTx = none := by assumption) (t_shutters : μ.shutters = none := by assumption) (t_rings : μ.rings = none := by assumption) (t_quarters : μ.quarters = none := by assumption) (t_twin : μ.twin = none := by assumption) (t_objs : μ.objs = none := by assumption) :
    (State.wholeReasm s p r bs env).Kept μ κ := by
  unfold State.wholeReasm
  repeat' with_reducible first
      | assumption | apply State.updPort_kept | apply State.rxMac_kept | apply State.releaseWaiting_kept
      | (extract_lets +onlyGivenNames x; first | (refine State.Kept.cut (m := μ) (q := κ) (s := x) ?_ fun hx => ?_; (on_goal 2 => clear_value x); (on_goal 1 => unfold x; clear x)) | clear_value x)
      | (fail_if_no_progress (apply kept_mk))

theorem State.joinFragment_kept {s : State} {p : Nat} {r : Reasm} {bs : Bytes} {cut : Bool} {env : RxEnv} (hk : s.Kept μ κ) (t_mem : μ.mem = none := by assumption) (t_rows : μ.rows = none := by assumption) (t_past : μ.past = none := by assumption) (t_dict : μ.dict = none := by assumption) (t_keys : μ.keys = none := by assumption) (t_masks : μ.masks = none := by assumption) (t_portRx : μ.portRx = none := by assumption) (t_clusterRx : μ.clusterRx = none := by assumption) (t_clusterTx : μ.clusterTx = none := by assumption) (t_portTx : μ.portTx = none := by assumption) (t_shutters : μ.shutters = none := by assumption) (t_rings : μ.rings = none := by assumption) (t_quarters : μ.quarters = none := by assumption) (t_twin : μ.twin = none := by assumption) (t_objs : μ.objs = none := by assumption) :
    (State.joinFragment s p r bs cut env).Kept μ κ := by
  unfold State.joinFragment
  repeat' with_reducible first
      | assumption | apply State.fragCodeErr_kept | apply State.holdReasm_kept | apply State.endReasm_kept | apply State.reasmErr_kept
      | apply State.wholeReasm_kept
      | (extract_lets +onlyGivenNames x; first | (refine State.Kept.cut (m := μ) (q := κ) (s := x) ?_ fun hx => ?_; (on_goal 2 => clear_value x); (on_goal 1 => unfold x; clear x)) | clear_value x)
      | split | (fail_if_no_progress (apply kept_mk))

theorem State.rxFragment_kept {s : State} {p num : Nat} {frag : Option Nat} {bs : Bytes} {cut : Bool} {env : RxEnv} (hk : s.Kept μ κ) (t_mem : μ.mem = none := by assumption) (t_rows : μ.rows = none := by assumption) (t_past : μ.past = none := by assumption) (t_dict : μ.dict = none := by assumption) (t_keys : μ.keys = none := by assumption) (t_masks : μ.masks = none := by assumption) (t_portRx : μ.portRx = none := by assumption) (t_clusterRx : μ.clusterRx = none := by assumption) (t_clusterTx : μ.clusterTx = none := by assumption) (t_portTx : μ.portTx = none := by assumption) (t_shutters : μ.shutters = none := by assumption) (t_rings : μ.rings = none := by assumption) (t_quarters : μ.quarters = none := by assumption) (t_twin : μ.twin = none := by assumption) (t_objs : μ.objs = none := by assumption) :
    (State.rxFragment s p num frag bs cut env).Kept μ κ := by
  unfold State.rxFragment
  repeat' with_reducible first
      | assumption | apply State.bumpPort_kept | apply State.reasmErr_kept | apply State.fragCodeErr_kept | apply State.endReasm_kept
      | apply State.joinFragment_kept | intro _
      | (extract_lets +onlyGivenNames x; first | (refine State.Kept.cut (m := μ) (q := κ) (s := x) ?_ fun hx => ?_; (on_goal 2 => clear_value x); (on_goal 1 => unfold x; clear x)) | (refine State.Kept.cut (m := μ) (q := κ) (s := x.2) ?_ fun hx => ?_; (on_goal 2 => clear_value x); (on_goal 1 => unfold x; clear x)) | (have _f : _ → _ := x; clear _f) | clear_value x | skip)
      | split | (fail_if_no_progress (apply kept_mk)) | (dsimp -zeta +zetaDelta only)

theorem State.rxStart_kept {s : State} {p sfd : Nat} {bs : Bytes} {how : RxHow} {env : RxEnv} (hk : s.Kept μ κ) (t_mem : μ.mem = none := by assumption) (t_rows : μ.rows = none := by assumption) (t_past : μ.past = none := by assumption) (t_dict : μ.dict = none := by assumption) (t_keys : μ.keys = none := by assumption) (t_masks : μ.masks = none := by assumption) (t_portRx : μ.portRx = none := by assumption) (t_clusterRx : μ.clusterRx = none := by assumption) (t_clusterTx : μ.clusterTx = none := by assumption) (t_portTx : μ.portTx = none := by assumption) (t_shutters : μ.shutters = none := by assumption) (t_rings : μ.rings = none := by assumption) (t_quarters : μ.quarters = none := by assumption) (t_twin : μ.twin = none := by assumption) (t_objs : μ.objs = none := by assumption) :
    (State.rxStart s p sfd bs how env).Kept μ κ := by
  unfold State.rxStart
  repeat' with_reducible first
      | assumption | apply State.fecWords_kept | apply State.landFcLate_kept | apply State.rxMac_kept | apply State.badSfd_kept
      | apply State.rxFragment_kept
      | (extract_lets +onlyGivenNames x; first | (refine State.Kept.cut (m := μ) (q := κ) (s := x) ?_ fun hx => ?_; (on_goal 2 => clear_value x); (on_goal 1 => unfold x; clear x)) | clear_value x)
      | split

theorem State.cutRx_kept {s : State} {p : Nat} {cut : Option CutFrame} (hk : s.Kept μ κ) (t_mem : μ.mem = none := by assumption) (t_rows : μ.rows = none := by assumption) (t_past : μ.past = none := by assumption) (t_dict : μ.dict = none := by assumption) (t_keys : μ.keys = none := by assumption) (t_masks : μ.masks = none := by assumption) (t_portRx : μ.portRx = none := by assumption) (t_clusterRx : μ.clusterRx = none := by assumption) (t_clusterTx : μ.clusterTx = none := by assumption) (t_portTx : μ.portTx = none := by assumption) (t_shutters : μ.shutters = none := by assumption) (t_rings : μ.rings = none := by assumption) (t_quarters : μ.quarters = none := by assumption) (t_twin : μ.twin = none := by assumption) (t_objs : μ.objs = none := by assumption) :
    (State.cutRx s p cut).Kept μ κ := by
  unfold State.cutRx
  repeat' with_reducible first
      | assumption | apply State.rxStart_kept | split

theorem State.dropFragments_kept {s : State} {p : Nat} (hk : s.Kept μ κ) (t_mem : μ.mem = none := by assumption) (t_rows : μ.rows = none := by assumption) (t_past : μ.past = none := by assumption) (t_dict : μ.dict = none := by assumption) (t_keys : μ.keys = none := by assumption) (t_masks : μ.masks = none := by assumption) (t_portRx : μ.portRx = none := by assumption) (t_clusterRx : μ.clusterRx = none := by assumption) (t_clusterTx : μ.clusterTx = none := by assumption) (t_portTx : μ.portTx = none := by assumption) (t_shutters : μ.shutters = none := by assumption) (t_rings : μ.rings = none := by assumption) (t_quarters : μ.quarters = none := by assumption) (t_twin : μ.twin = none := by assumption) (t_objs : μ.objs = none := by assumption) :
    (State.dropFragments s p).Kept μ κ := by
  unfold State.dropFragments
  repeat' with_reducible first
      | assumption | apply State.endReasm_kept | apply State.reasmErr_kept | apply State.releaseWaiting_kept | split

theorem State.landKnock_kept {s : State} {c r : Nat} {img : List Word} (hk : s.Kept μ κ) (t_rows : μ.rows = none := by assumption) (t_past : μ.past = none := by assumption) :
    (State.landKnock s c r img).Kept μ κ := by
  unfold State.landKnock
  repeat' with_reducible first
      | assumption | apply State.setLatchedRow_kept | apply foldl_kept | intro _ | split

theorem State.skidPop_kept {μ : Marks} {κ : List Instr} {s t : State} {c : Nat} {seg : Segment} (hk : s.Kept μ κ) (t_clusterRx : μ.clusterRx = none := by assumption)
    (h : s.skidPop c = some (seg, t)) : t.Kept μ κ := by
  unfold State.skidPop at h
  extract_lets skid at h
  split at h
  · exact absurd h (Option.some_ne_none _).symm
  · rename_i f _
    extract_lets eof len sg s1 at h
    have h1 : s1.Kept μ κ := State.updClRx_kept hk
    clear_value s1
    injection h with h
    rw [← (Prod.mk.inj h).2]
    split
    · split
      · exact State.peepDelivered_kept h1
      · exact h1
    · exact h1

theorem State.skidSend_kept {μ : Marks} {κ : List Instr} {c n : Nat} {s : State} (hk : s.Kept μ κ) (t_clusterRx : μ.clusterRx = none := by assumption) :
    (State.skidSend c n s).2.Kept μ κ := by
  induction n generalizing s with
  | zero => exact hk
  | succ n ih =>
    unfold State.skidSend
    split
    · exact hk
    · exact ih (State.skidPop_kept hk (h := by assumption))

theorem State.stopTimers_kept {s : State} {p : Nat} (hk : s.Kept μ κ) (t_portRx : μ.portRx = none := by assumption) (t_clusterTx : μ.clusterTx = none := by assumption) :
    (State.stopTimers s p).Kept μ κ := by
  unfold State.stopTimers
  repeat' with_reducible first
      | assumption | apply State.settlePort_kept | apply State.updPort_kept | (fail_if_no_progress (apply kept_mk))

theorem execInbandRequest_kept {dt p : Nat} {bytes : Bytes} {env : RxEnv} {s : State} (hk : s.Kept μ κ) (t_mem : μ.mem = none := by assumption) (t_rows : μ.rows = none := by assumption) (t_past : μ.past = none := by assumption) (t_dict : μ.dict = none := by assumption) (t_keys : μ.keys = none := by assumption) (t_masks : μ.masks = none := by assumption) (t_portRx : μ.portRx = none := by assumption) (t_clusterRx : μ.clusterRx = none := by assumption) (t_clusterTx : μ.clusterTx = none := by assumption) (t_portTx : μ.portTx = none := by assumption) (t_shutters : μ.shutters = none := by assumption) (t_rings : μ.rings = none := by assumption) (t_quarters : μ.quarters = none := by assumption) (t_twin : μ.twin = none := by assumption) (t_objs : μ.objs = none := by assumption) :
    ResKept μ κ (execInbandRequest dt p bytes env s) := by
  unfold execInbandRequest
  repeat' with_reducible first
      | assumption | apply resKept_next | apply State.elapse_kept | apply settled_kept | apply State.rxStart_kept
      | (extract_lets +onlyGivenNames x; first | (refine State.Kept.cut (m := μ) (q := κ) (s := x) ?_ fun hx => ?_; (on_goal 2 => clear_value x); (on_goal 1 => unfold x; clear x)) | clear_value x)
      | split

theorem execIngressSkidSend_kept {dt c n : Nat} {ready : Bool} {s : State} (hk : s.Kept μ κ) (t_clusterRx : μ.clusterRx = none := by assumption) :
    ResKept μ κ (execIngressSkidSend dt c n ready s) := by
  unfold execIngressSkidSend
  repeat' with_reducible first
      | assumption | apply resKept_next | apply State.elapse_kept | apply State.updClRx_kept | apply State.skidSend_kept
      | apply State.emit_kept | apply State.beginSwitch_kept
      | (extract_lets +onlyGivenNames x; first | (refine State.Kept.cut (m := μ) (q := κ) (s := x) ?_ fun hx => ?_; (on_goal 2 => clear_value x); (on_goal 1 => unfold x; clear x)) | (refine State.Kept.cut (m := μ) (q := κ) (s := x.2) ?_ fun hx => ?_; (on_goal 2 => clear_value x); (on_goal 1 => unfold x; clear x)) | clear_value x)
      | split | (fail_if_no_progress (apply kept_mk))

theorem execMacControlFrame_kept {dt p : Nat} {bytes : Bytes} {env : RxEnv} {s : State} (hk : s.Kept μ κ) (t_mem : μ.mem = none := by assumption) (t_rows : μ.rows = none := by assumption) (t_past : μ.past = none := by assumption) (t_dict : μ.dict = none := by assumption) (t_keys : μ.keys = none := by assumption) (t_masks : μ.masks = none := by assumption) (t_portRx : μ.portRx = none := by assumption) (t_clusterRx : μ.clusterRx = none := by assumption) (t_clusterTx : μ.clusterTx = none := by assumption) (t_portTx : μ.portTx = none := by assumption) (t_shutters : μ.shutters = none := by assumption) (t_rings : μ.rings = none := by assumption) (t_quarters : μ.quarters = none := by assumption) (t_twin : μ.twin = none := by assumption) (t_objs : μ.objs = none := by assumption) :
    ResKept μ κ (execMacControlFrame dt p bytes env s) := by
  unfold execMacControlFrame
  repeat' with_reducible first
      | assumption | apply resKept_next | apply State.elapse_kept | apply settled_kept | apply State.rxStart_kept
      | (extract_lets +onlyGivenNames x; first | (refine State.Kept.cut (m := μ) (q := κ) (s := x) ?_ fun hx => ?_; (on_goal 2 => clear_value x); (on_goal 1 => unfold x; clear x)) | clear_value x)
      | split

theorem execPauseFrame_kept {dt p : Nat} {bytes : Bytes} {env : RxEnv} {s : State} (hk : s.Kept μ κ) (t_mem : μ.mem = none := by assumption) (t_rows : μ.rows = none := by assumption) (t_past : μ.past = none := by assumption) (t_dict : μ.dict = none := by assumption) (t_keys : μ.keys = none := by assumption) (t_masks : μ.masks = none := by assumption) (t_portRx : μ.portRx = none := by assumption) (t_clusterRx : μ.clusterRx = none := by assumption) (t_clusterTx : μ.clusterTx = none := by assumption) (t_portTx : μ.portTx = none := by assumption) (t_shutters : μ.shutters = none := by assumption) (t_rings : μ.rings = none := by assumption) (t_quarters : μ.quarters = none := by assumption) (t_twin : μ.twin = none := by assumption) (t_objs : μ.objs = none := by assumption) :
    ResKept μ κ (execPauseFrame dt p bytes env s) := by
  unfold execPauseFrame
  repeat' with_reducible first
      | assumption | apply resKept_next | apply State.elapse_kept | apply settled_kept | apply State.rxStart_kept
      | (extract_lets +onlyGivenNames x; first | (refine State.Kept.cut (m := μ) (q := κ) (s := x) ?_ fun hx => ?_; (on_goal 2 => clear_value x); (on_goal 1 => unfold x; clear x)) | clear_value x)
      | split

theorem execPauseTimerExpiry_kept {dt p k : Nat} {s : State} (hk : s.Kept μ κ) (t_portRx : μ.portRx = none := by assumption) (t_clusterTx : μ.clusterTx = none := by assumption) :
    ResKept μ κ (execPauseTimerExpiry dt p k s) := by
  unfold execPauseTimerExpiry
  repeat' with_reducible first
      | assumption | apply resKept_next | apply State.elapse_kept | apply State.settlePort_kept | apply State.setTimer_kept
      | (extract_lets +onlyGivenNames x; first | (refine State.Kept.cut (m := μ) (q := κ) (s := x) ?_ fun hx => ?_; (on_goal 2 => clear_value x); (on_goal 1 => unfold x; clear x)) | clear_value x)
      | split

theorem execPfcFrame_kept {dt p : Nat} {bytes : Bytes} {env : RxEnv} {s : State} (hk : s.Kept μ κ) (t_mem : μ.mem = none := by assumption) (t_rows : μ.rows = none := by assumption) (t_past : μ.past = none := by assumption) (t_dict : μ.dict = none := by assumption) (t_keys : μ.keys = none := by assumption) (t_masks : μ.masks = none := by assumption) (t_portRx : μ.portRx = none := by assumption) (t_clusterRx : μ.clusterRx = none := by assumption) (t_clusterTx : μ.clusterTx = none := by assumption) (t_portTx : μ.portTx = none := by assumption) (t_shutters : μ.shutters = none := by assumption) (t_rings : μ.rings = none := by assumption) (t_quarters : μ.quarters = none := by assumption) (t_twin : μ.twin = none := by assumption) (t_objs : μ.objs = none := by assumption) :
    ResKept μ κ (execPfcFrame dt p bytes env s) := by
  unfold execPfcFrame
  repeat' with_reducible first
      | assumption | apply resKept_next | apply State.elapse_kept | apply settled_kept | apply State.rxStart_kept
      | (extract_lets +onlyGivenNames x; first | (refine State.Kept.cut (m := μ) (q := κ) (s := x) ?_ fun hx => ?_; (on_goal 2 => clear_value x); (on_goal 1 => unfold x; clear x)) | clear_value x)
      | split

theorem execPreemptFragmentRx_kept {dt p sfd : Nat} {bytes : Bytes} {env : RxEnv} {s : State} (hk : s.Kept μ κ) (t_mem : μ.mem = none := by assumption) (t_rows : μ.rows = none := by assumption) (t_past : μ.past = none := by assumption) (t_dict : μ.dict = none := by assumption) (t_keys : μ.keys = none := by assumption) (t_masks : μ.masks = none := by assumption) (t_portRx : μ.portRx = none := by assumption) (t_clusterRx : μ.clusterRx = none := by assumption) (t_clusterTx : μ.clusterTx = none := by assumption) (t_portTx : μ.portTx = none := by assumption) (t_shutters : μ.shutters = none := by assumption) (t_rings : μ.rings = none := by assumption) (t_quarters : μ.quarters = none := by assumption) (t_twin : μ.twin = none := by assumption) (t_objs : μ.objs = none := by assumption) :
    ResKept μ κ (execPreemptFragmentRx dt p sfd bytes env s) := by
  unfold execPreemptFragmentRx
  repeat' with_reducible first
      | assumption | apply resKept_next | apply State.elapse_kept | apply settled_kept | apply State.rxStart_kept
      | (extract_lets +onlyGivenNames x; first | (refine State.Kept.cut (m := μ) (q := κ) (s := x) ?_ fun hx => ?_; (on_goal 2 => clear_value x); (on_goal 1 => unfold x; clear x)) | clear_value x)

theorem execReasmTimeout_kept {dt p : Nat} {s : State} (hk : s.Kept μ κ) (t_mem : μ.mem = none := by assumption) (t_rows : μ.rows = none := by assumption) (t_past : μ.past = none := by assumption) (t_dict : μ.dict = none := by assumption) (t_keys : μ.keys = none := by assumption) (t_masks : μ.masks = none := by assumption) (t_portRx : μ.portRx = none := by assumption) (t_clusterRx : μ.clusterRx = none := by assumption) (t_clusterTx : μ.clusterTx = none := by assumption) (t_portTx : μ.portTx = none := by assumption) (t_shutters : μ.shutters = none := by assumption) (t_rings : μ.rings = none := by assumption) (t_quarters : μ.quarters = none := by assumption) (t_twin : μ.twin = none := by assumption) (t_objs : μ.objs = none := by assumption) :
    ResKept μ κ (execReasmTimeout dt p s) := by
  unfold execReasmTimeout
  repeat' with_reducible first
      | assumption | apply resKept_next | apply State.elapse_kept | apply settled_kept | apply State.endReasm_kept
      | apply State.reasmErr_kept
      | (extract_lets +onlyGivenNames x; first | (refine State.Kept.cut (m := μ) (q := κ) (s := x) ?_ fun hx => ?_; (on_goal 2 => clear_value x); (on_goal 1 => unfold x; clear x)) | clear_value x)
      | split

theorem execRespondFrameRx_kept {dt p : Nat} {body mcrc : Bytes} {s : State} (hk : s.Kept μ κ) (t_portTx : μ.portTx = none := by assumption) :
    ResKept μ κ (execRespondFrameRx dt p body mcrc s) := by
  unfold execRespondFrameRx
  repeat' with_reducible first
      | assumption | apply resKept_next | apply State.elapse_kept | apply State.badSfd_kept | apply State.txCause_kept
      | apply State.setPortTx_kept
      | (extract_lets +onlyGivenNames x; first | (refine State.Kept.cut (m := μ) (q := κ) (s := x) ?_ fun hx => ?_; (on_goal 2 => clear_value x); (on_goal 1 => unfold x; clear x)) | clear_value x)
      | split | (fail_if_no_progress (apply kept_mk))

theorem execRxFrame_kept {dt p sfd : Nat} {bytes : Bytes} {env : RxEnv} {s : State} (hk : s.Kept μ κ) (t_mem : μ.mem = none := by assumption) (t_rows : μ.rows = none := by assumption) (t_past : μ.past = none := by assumption) (t_dict : μ.dict = none := by assumption) (t_keys : μ.keys = none := by assumption) (t_masks : μ.masks = none := by assumption) (t_portRx : μ.portRx = none := by assumption) (t_clusterRx : μ.clusterRx = none := by assumption) (t_clusterTx : μ.clusterTx = none := by assumption) (t_portTx : μ.portTx = none := by assumption) (t_shutters : μ.shutters = none := by assumption) (t_rings : μ.rings = none := by assumption) (t_quarters : μ.quarters = none := by assumption) (t_twin : μ.twin = none := by assumption) (t_objs : μ.objs = none := by assumption) :
    ResKept μ κ (execRxFrame dt p sfd bytes env s) := by
  unfold execRxFrame
  repeat' with_reducible first
      | assumption | apply resKept_next | apply State.elapse_kept | apply settled_kept | apply State.rxStart_kept
      | (extract_lets +onlyGivenNames x; first | (refine State.Kept.cut (m := μ) (q := κ) (s := x) ?_ fun hx => ?_; (on_goal 2 => clear_value x); (on_goal 1 => unfold x; clear x)) | clear_value x)

theorem execVerifyFrameRx_kept {dt p : Nat} {body mcrc : Bytes} {s : State} (hk : s.Kept μ κ) (t_mem : μ.mem = none := by assumption) (t_past : μ.past = none := by assumption) (t_portRx : μ.portRx = none := by assumption) (t_clusterRx : μ.clusterRx = none := by assumption) (t_clusterTx : μ.clusterTx = none := by assumption) (t_portTx : μ.portTx = none := by assumption) (t_rings : μ.rings = none := by assumption) (t_quarters : μ.quarters = none := by assumption) (t_twin : μ.twin = none := by assumption) (t_objs : μ.objs = none := by assumption) :
    ResKept μ κ (execVerifyFrameRx dt p body mcrc s) := by
  unfold execVerifyFrameRx
  repeat' with_reducible first
      | assumption | apply resKept_next | apply State.elapse_kept | apply State.badSfd_kept | apply State.queueCtl_kept
      | (extract_lets +onlyGivenNames x; first | (refine State.Kept.cut (m := μ) (q := κ) (s := x) ?_ fun hx => ?_; (on_goal 2 => clear_value x); (on_goal 1 => unfold x; clear x)) | clear_value x)
      | split

end Sys2Proof.Machine
end

