-- ==== Sys2Proof/Laws/KeptLink.lean ====
section
/-!
SUPPORT. What the operations of Machine/Link.lean keep.
-/
set_option linter.unusedTactic false
set_option linter.unreachableTactic false
set_option linter.unusedVariables false
set_option linter.tactic.unusedName false
namespace Sys2Proof.Machine
variable {μ : Marks} {κ : List Instr}

theorem State.closePort_kept {s : State} {p : Nat} (hk : s.Kept μ κ) (t_mem : μ.mem = none := by assumption) (t_rows : μ.rows = none := by assumption) (t_past : μ.past = none := by assumption) (t_dict : μ.dict = none := by assumption) (t_keys : μ.keys = none := by assumption) (t_masks : μ.masks = none := by assumption) (t_portRx : μ.portRx = none := by assumption) (t_clusterRx : μ.clusterRx = none := by assumption) (t_clusterTx : μ.clusterTx = none := by assumption) (t_portTx : μ.portTx = none := by assumption) (t_shutters : μ.shutters = none := by assumption) (t_rings : μ.rings = none := by assumption) (t_quarters : μ.quarters = none := by assumption) (t_twin : μ.twin = none := by assumption) (t_objs : μ.objs = none := by assumption) :
    (State.closePort s p).Kept μ κ := by
  unfold State.closePort
  repeat' with_reducible first
      | assumption | apply State.updPort_kept | apply State.settleSignal_kept | apply State.txClose_kept | apply State.dropFragments_kept
      | (extract_lets +onlyGivenNames x; first | (refine State.Kept.cut (m := μ) (q := κ) (s := x) ?_ fun hx => ?_; (on_goal 2 => clear_value x); (on_goal 1 => unfold x; clear x)) | clear_value x)
      | (fail_if_no_progress (apply kept_mk))

theorem State.setLink_kept {s : State} {p : Nat} {l : Link} (hk : s.Kept μ κ) (t_mem : μ.mem = none := by assumption) (t_past : μ.past = none := by assumption) (t_portRx : μ.portRx = none := by assumption) (t_clusterRx : μ.clusterRx = none := by assumption) (t_clusterTx : μ.clusterTx = none := by assumption) (t_portTx : μ.portTx = none := by assumption) (t_rings : μ.rings = none := by assumption) (t_quarters : μ.quarters = none := by assumption) (t_twin : μ.twin = none := by assumption) (t_objs : μ.objs = none := by assumption) :
    (State.setLink s p l).Kept μ κ := by
  unfold State.setLink
  repeat' with_reducible first
      | assumption | apply State.updPort_kept | apply State.settleSignal_kept | apply State.landFcLate_kept | apply State.txLinkDown_kept
      | apply State.flushOnDown_kept | apply State.fcStart_kept | apply State.verifyStart_kept | apply State.rxCause_kept
      | (extract_lets +onlyGivenNames x; first | (refine State.Kept.cut (m := μ) (q := κ) (s := x) ?_ fun hx => ?_; (on_goal 2 => clear_value x); (on_goal 1 => unfold x; clear x)) | clear_value x)
      | split | (fail_if_no_progress (apply kept_mk))

theorem State.settleLink_kept {s : State} {p : Nat} (hk : s.Kept μ κ) (t_mem : μ.mem = none := by assumption) (t_past : μ.past = none := by assumption) (t_portRx : μ.portRx = none := by assumption) (t_clusterRx : μ.clusterRx = none := by assumption) (t_clusterTx : μ.clusterTx = none := by assumption) (t_portTx : μ.portTx = none := by assumption) (t_rings : μ.rings = none := by assumption) (t_quarters : μ.quarters = none := by assumption) (t_twin : μ.twin = none := by assumption) (t_objs : μ.objs = none := by assumption) :
    (State.settleLink s p).Kept μ κ := by
  unfold State.settleLink
  repeat' with_reducible first
      | assumption | apply State.setLink_kept
      | (extract_lets +onlyGivenNames x; first | (refine State.Kept.cut (m := μ) (q := κ) (s := x) ?_ fun hx => ?_; (on_goal 2 => clear_value x); (on_goal 1 => unfold x; clear x)) | clear_value x)
      | split

theorem State.openPort_kept {s : State} {p : Nat} (hk : s.Kept μ κ) (t_mem : μ.mem = none := by assumption) (t_past : μ.past = none := by assumption) (t_portRx : μ.portRx = none := by assumption) (t_clusterRx : μ.clusterRx = none := by assumption) (t_clusterTx : μ.clusterTx = none := by assumption) (t_portTx : μ.portTx = none := by assumption) (t_rings : μ.rings = none := by assumption) (t_quarters : μ.quarters = none := by assumption) (t_twin : μ.twin = none := by assumption) (t_objs : μ.objs = none := by assumption) :
    (State.openPort s p).Kept μ κ := by
  unfold State.openPort
  repeat' with_reducible first
      | assumption | apply State.settleLink_kept | apply State.settleSignal_kept | apply State.updPort_kept | apply State.rxCause_kept
      | split | (fail_if_no_progress (apply kept_mk))

theorem State.landPortEnable_kept {s : State} {p : Nat} {v : Bool} (hk : s.Kept μ κ) (t_mem : μ.mem = none := by assumption) (t_rows : μ.rows = none := by assumption) (t_past : μ.past = none := by assumption) (t_dict : μ.dict = none := by assumption) (t_keys : μ.keys = none := by assumption) (t_masks : μ.masks = none := by assumption) (t_portRx : μ.portRx = none := by assumption) (t_clusterRx : μ.clusterRx = none := by assumption) (t_clusterTx : μ.clusterTx = none := by assumption) (t_portTx : μ.portTx = none := by assumption) (t_shutters : μ.shutters = none := by assumption) (t_rings : μ.rings = none := by assumption) (t_quarters : μ.quarters = none := by assumption) (t_twin : μ.twin = none := by assumption) (t_objs : μ.objs = none := by assumption) :
    (State.landPortEnable s p v).Kept μ κ := by
  unfold State.landPortEnable
  repeat' with_reducible first
      | assumption | apply State.setReg_kept | apply State.openPort_kept | apply State.updPort_kept | apply State.closePort_kept
      | (extract_lets +onlyGivenNames x; first | (refine State.Kept.cut (m := μ) (q := κ) (s := x) ?_ fun hx => ?_; (on_goal 2 => clear_value x); (on_goal 1 => unfold x; clear x)) | clear_value x)
      | split | (fail_if_no_progress (apply kept_mk))

theorem State.portClosed_kept {s : State} {p : Nat} (hk : s.Kept μ κ) (t_mem : μ.mem = none := by assumption) (t_past : μ.past = none := by assumption) (t_portRx : μ.portRx = none := by assumption) (t_clusterRx : μ.clusterRx = none := by assumption) (t_clusterTx : μ.clusterTx = none := by assumption) (t_portTx : μ.portTx = none := by assumption) (t_rings : μ.rings = none := by assumption) (t_quarters : μ.quarters = none := by assumption) (t_twin : μ.twin = none := by assumption) (t_objs : μ.objs = none := by assumption) :
    (State.portClosed s p).Kept μ κ := by
  unfold State.portClosed
  repeat' with_reducible first
      | assumption | apply State.setLink_kept | apply State.updPort_kept | apply State.settleSignal_kept | apply State.settlePort_kept
      | apply State.verifyStop_kept
      | (extract_lets +onlyGivenNames x; first | (refine State.Kept.cut (m := μ) (q := κ) (s := x) ?_ fun hx => ?_; (on_goal 2 => clear_value x); (on_goal 1 => unfold x; clear x)) | clear_value x)
      | (fail_if_no_progress (apply kept_mk))

theorem State.portOpened_kept {s : State} {p : Nat} (hk : s.Kept μ κ) (t_mem : μ.mem = none := by assumption) (t_rows : μ.rows = none := by assumption) (t_past : μ.past = none := by assumption) (t_dict : μ.dict = none := by assumption) (t_keys : μ.keys = none := by assumption) (t_masks : μ.masks = none := by assumption) (t_portRx : μ.portRx = none := by assumption) (t_clusterRx : μ.clusterRx = none := by assumption) (t_clusterTx : μ.clusterTx = none := by assumption) (t_portTx : μ.portTx = none := by assumption) (t_shutters : μ.shutters = none := by assumption) (t_rings : μ.rings = none := by assumption) (t_quarters : μ.quarters = none := by assumption) (t_twin : μ.twin = none := by assumption) (t_objs : μ.objs = none := by assumption) :
    (State.portOpened s p).Kept μ κ := by
  unfold State.portOpened
  repeat' with_reducible first
      | assumption | apply State.updPort_kept | apply State.updPortTx_kept | apply State.settleSignal_kept | apply State.updTwin_kept
      | apply State.settleLink_kept | apply State.fcStart_kept | apply State.verifyStart_kept | apply State.closePort_kept
      | (extract_lets +onlyGivenNames x; first | (refine State.Kept.cut (m := μ) (q := κ) (s := x) ?_ fun hx => ?_; (on_goal 2 => clear_value x); (on_goal 1 => unfold x; clear x)) | clear_value x)
      | split | (fail_if_no_progress (apply kept_mk))

theorem State.portReopen_kept {s : State} {p : Nat} (hk : s.Kept μ κ) (t_mem : μ.mem = none := by assumption) (t_past : μ.past = none := by assumption) (t_portRx : μ.portRx = none := by assumption) (t_clusterRx : μ.clusterRx = none := by assumption) (t_clusterTx : μ.clusterTx = none := by assumption) (t_portTx : μ.portTx = none := by assumption) (t_rings : μ.rings = none := by assumption) (t_quarters : μ.quarters = none := by assumption) (t_twin : μ.twin = none := by assumption) (t_objs : μ.objs = none := by assumption) :
    (State.portReopen s p).Kept μ κ := by
  unfold State.portReopen
  repeat' with_reducible first
      | assumption | apply State.openPort_kept | split

theorem State.portReset_kept {s : State} {p : Nat} {cut : Option CutFrame} (hk : s.Kept μ κ) (t_mem : μ.mem = none := by assumption) (t_rows : μ.rows = none := by assumption) (t_past : μ.past = none := by assumption) (t_dict : μ.dict = none := by assumption) (t_keys : μ.keys = none := by assumption) (t_masks : μ.masks = none := by assumption) (t_portRx : μ.portRx = none := by assumption) (t_clusterRx : μ.clusterRx = none := by assumption) (t_clusterTx : μ.clusterTx = none := by assumption) (t_portTx : μ.portTx = none := by assumption) (t_shutters : μ.shutters = none := by assumption) (t_rings : μ.rings = none := by assumption) (t_quarters : μ.quarters = none := by assumption) (t_twin : μ.twin = none := by assumption) (t_objs : μ.objs = none := by assumption) :
    (State.portReset s p cut).Kept μ κ := by
  unfold State.portReset
  repeat' with_reducible first
      | assumption | (rename_i e; have e2 := congrArg Prod.snd e; dsimp only at e2; subst e2) | apply State.cutRx_kept
      | apply State.txReset_kept | apply State.dropFragments_kept | apply State.landFcLate_kept | apply State.setLink_kept
      | apply State.updPort_kept | apply State.updTwin_kept | apply State.settleSignal_kept | apply State.settlePort_kept
      | apply State.verifyStop_kept | apply foldl_kept | apply foldl_kept_snd | apply foldl_kept_mid | apply foldl_resKept
      | apply foldl_pairKept | apply foldl_slotKept | intro _ | apply pairKept_none | apply pairKept_some | apply foldl_pairKept
      | exact PairKept.state (by assumption) | exact optKept_none | apply optKept_some
      | (extract_lets +onlyGivenNames x; first | (refine State.Kept.cut (m := μ) (q := κ) (s := x) ?_ fun hx => ?_; (on_goal 2 => clear_value x); (on_goal 1 => unfold x; clear x)) | (refine State.Kept.cut (m := μ) (q := κ) (s := x.2) ?_ fun hx => ?_; (on_goal 2 => clear_value x); (on_goal 1 => unfold x; clear x)) | (refine State.Kept.cut (m := μ) (q := κ) (s := x.2.2) ?_ fun hx => ?_; (on_goal 2 => clear_value x); (on_goal 1 => unfold x; clear x)) | (refine State.Kept.cut (m := μ) (q := κ) (s := x.1) ?_ fun hx => ?_; (on_goal 2 => clear_value x); (on_goal 1 => unfold x; clear x)) | (have _f : _ → _ := x; clear _f) | clear_value x | skip)
      | split | (fail_if_no_progress (apply kept_mk)) | (fail_if_no_progress (apply kept_eraseRegs))
      | (fail_if_no_progress (apply kept_eraseRings)) | (fail_if_no_progress (apply kept_setCtr)) | (dsimp -zeta +zetaDelta only)

theorem execAlignFail_kept {dt p : Nat} {s : State} (hk : s.Kept μ κ) (t_portRx : μ.portRx = none := by assumption) :
    ResKept μ κ (execAlignFail dt p s) := by
  unfold execAlignFail
  repeat' with_reducible first
      | assumption | apply resKept_next | apply State.elapse_kept | apply State.rxCause_kept | apply State.setPort_kept
      | (extract_lets +onlyGivenNames x; first | (refine State.Kept.cut (m := μ) (q := κ) (s := x) ?_ fun hx => ?_; (on_goal 2 => clear_value x); (on_goal 1 => unfold x; clear x)) | clear_value x)
      | split | (fail_if_no_progress (apply kept_mk))

theorem execAlignmentLock_kept {dt p : Nat} {s : State} (hk : s.Kept μ κ) (t_mem : μ.mem = none := by assumption) (t_past : μ.past = none := by assumption) (t_portRx : μ.portRx = none := by assumption) (t_clusterRx : μ.clusterRx = none := by assumption) (t_clusterTx : μ.clusterTx = none := by assumption) (t_portTx : μ.portTx = none := by assumption) (t_rings : μ.rings = none := by assumption) (t_quarters : μ.quarters = none := by assumption) (t_twin : μ.twin = none := by assumption) (t_objs : μ.objs = none := by assumption) :
    ResKept μ κ (execAlignmentLock dt p s) := by
  unfold execAlignmentLock
  repeat' with_reducible first
      | assumption | apply resKept_next | apply State.elapse_kept | apply State.setLink_kept
      | (extract_lets +onlyGivenNames x; first | (refine State.Kept.cut (m := μ) (q := κ) (s := x) ?_ fun hx => ?_; (on_goal 2 => clear_value x); (on_goal 1 => unfold x; clear x)) | clear_value x)
      | split

theorem execAlignmentLoss_kept {dt p : Nat} {cut : Option CutFrame} {s : State} (hk : s.Kept μ κ) (t_mem : μ.mem = none := by assumption) (t_rows : μ.rows = none := by assumption) (t_past : μ.past = none := by assumption) (t_dict : μ.dict = none := by assumption) (t_keys : μ.keys = none := by assumption) (t_masks : μ.masks = none := by assumption) (t_portRx : μ.portRx = none := by assumption) (t_clusterRx : μ.clusterRx = none := by assumption) (t_clusterTx : μ.clusterTx = none := by assumption) (t_portTx : μ.portTx = none := by assumption) (t_shutters : μ.shutters = none := by assumption) (t_rings : μ.rings = none := by assumption) (t_quarters : μ.quarters = none := by assumption) (t_twin : μ.twin = none := by assumption) (t_objs : μ.objs = none := by assumption) :
    ResKept μ κ (execAlignmentLoss dt p cut s) := by
  unfold execAlignmentLoss
  repeat' with_reducible first
      | assumption | apply resKept_next | apply State.elapse_kept | apply settled_kept | apply State.setLink_kept | apply State.cutRx_kept
      | (extract_lets +onlyGivenNames x; first | (refine State.Kept.cut (m := μ) (q := κ) (s := x) ?_ fun hx => ?_; (on_goal 2 => clear_value x); (on_goal 1 => unfold x; clear x)) | clear_value x)
      | split

theorem execLaneLock_kept {dt lane : Nat} {s : State} (hk : s.Kept μ κ) (t_mem : μ.mem = none := by assumption) (t_past : μ.past = none := by assumption) (t_laneLock : μ.laneLock = none := by assumption) (t_portRx : μ.portRx = none := by assumption) (t_clusterRx : μ.clusterRx = none := by assumption) (t_clusterTx : μ.clusterTx = none := by assumption) (t_portTx : μ.portTx = none := by assumption) (t_rings : μ.rings = none := by assumption) (t_quarters : μ.quarters = none := by assumption) (t_twin : μ.twin = none := by assumption) (t_objs : μ.objs = none := by assumption) :
    ResKept μ κ (execLaneLock dt lane s) := by
  unfold execLaneLock
  repeat' with_reducible first
      | assumption | apply resKept_next | apply State.elapse_kept | apply State.settleLink_kept
      | (extract_lets +onlyGivenNames x; first | (refine State.Kept.cut (m := μ) (q := κ) (s := x) ?_ fun hx => ?_; (on_goal 2 => clear_value x); (on_goal 1 => unfold x; clear x)) | clear_value x)
      | split | apply kept_laneLock | (fail_if_no_progress (apply kept_mk))

theorem execLaneLockLoss_kept {dt lane : Nat} {cut : Option CutFrame} {s : State} (hk : s.Kept μ κ) (t_mem : μ.mem = none := by assumption) (t_rows : μ.rows = none := by assumption) (t_past : μ.past = none := by assumption) (t_dict : μ.dict = none := by assumption) (t_keys : μ.keys = none := by assumption) (t_masks : μ.masks = none := by assumption) (t_laneLock : μ.laneLock = none := by assumption) (t_portRx : μ.portRx = none := by assumption) (t_clusterRx : μ.clusterRx = none := by assumption) (t_clusterTx : μ.clusterTx = none := by assumption) (t_portTx : μ.portTx = none := by assumption) (t_shutters : μ.shutters = none := by assumption) (t_rings : μ.rings = none := by assumption) (t_quarters : μ.quarters = none := by assumption) (t_twin : μ.twin = none := by assumption) (t_objs : μ.objs = none := by assumption) :
    ResKept μ κ (execLaneLockLoss dt lane cut s) := by
  unfold execLaneLockLoss
  repeat' with_reducible first
      | assumption | apply resKept_next | apply State.elapse_kept | apply settled_kept | apply State.setLink_kept | apply State.cutRx_kept
      | (extract_lets +onlyGivenNames x; first | (refine State.Kept.cut (m := μ) (q := κ) (s := x) ?_ fun hx => ?_; (on_goal 2 => clear_value x); (on_goal 1 => unfold x; clear x)) | clear_value x)
      | split | apply kept_laneLock | (fail_if_no_progress (apply kept_mk))

theorem execPortCloseDone_kept {dt p : Nat} {s : State} (hk : s.Kept μ κ) (t_mem : μ.mem = none := by assumption) (t_past : μ.past = none := by assumption) (t_portRx : μ.portRx = none := by assumption) (t_clusterRx : μ.clusterRx = none := by assumption) (t_clusterTx : μ.clusterTx = none := by assumption) (t_portTx : μ.portTx = none := by assumption) (t_rings : μ.rings = none := by assumption) (t_quarters : μ.quarters = none := by assumption) (t_twin : μ.twin = none := by assumption) (t_objs : μ.objs = none := by assumption) :
    ResKept μ κ (execPortCloseDone dt p s) := by
  unfold execPortCloseDone
  repeat' with_reducible first
      | assumption | apply resKept_next | apply State.elapse_kept | apply State.updPort_kept | apply State.portClosed_kept
      | apply State.openPort_kept
      | (extract_lets +onlyGivenNames x; first | (refine State.Kept.cut (m := μ) (q := κ) (s := x) ?_ fun hx => ?_; (on_goal 2 => clear_value x); (on_goal 1 => unfold x; clear x)) | clear_value x)
      | split | (fail_if_no_progress (apply kept_mk))

theorem execRemoteFault_kept {dt p : Nat} {cut : Option CutFrame} {s : State} (hk : s.Kept μ κ) (t_mem : μ.mem = none := by assumption) (t_rows : μ.rows = none := by assumption) (t_past : μ.past = none := by assumption) (t_dict : μ.dict = none := by assumption) (t_keys : μ.keys = none := by assumption) (t_masks : μ.masks = none := by assumption) (t_portRx : μ.portRx = none := by assumption) (t_clusterRx : μ.clusterRx = none := by assumption) (t_clusterTx : μ.clusterTx = none := by assumption) (t_portTx : μ.portTx = none := by assumption) (t_shutters : μ.shutters = none := by assumption) (t_rings : μ.rings = none := by assumption) (t_quarters : μ.quarters = none := by assumption) (t_twin : μ.twin = none := by assumption) (t_objs : μ.objs = none := by assumption) :
    ResKept μ κ (execRemoteFault dt p cut s) := by
  unfold execRemoteFault
  repeat' with_reducible first
      | assumption | apply resKept_next | apply State.elapse_kept | apply settled_kept | apply State.setLink_kept | apply State.cutRx_kept
      | (extract_lets +onlyGivenNames x; first | (refine State.Kept.cut (m := μ) (q := κ) (s := x) ?_ fun hx => ?_; (on_goal 2 => clear_value x); (on_goal 1 => unfold x; clear x)) | clear_value x)
      | split

theorem execRemoteFaultClear_kept {dt p : Nat} {s : State} (hk : s.Kept μ κ) (t_mem : μ.mem = none := by assumption) (t_past : μ.past = none := by assumption) (t_portRx : μ.portRx = none := by assumption) (t_clusterRx : μ.clusterRx = none := by assumption) (t_clusterTx : μ.clusterTx = none := by assumption) (t_portTx : μ.portTx = none := by assumption) (t_rings : μ.rings = none := by assumption) (t_quarters : μ.quarters = none := by assumption) (t_twin : μ.twin = none := by assumption) (t_objs : μ.objs = none := by assumption) :
    ResKept μ κ (execRemoteFaultClear dt p s) := by
  unfold execRemoteFaultClear
  repeat' with_reducible first
      | assumption | apply resKept_next | apply State.elapse_kept | apply State.setLink_kept
      | (extract_lets +onlyGivenNames x; first | (refine State.Kept.cut (m := μ) (q := κ) (s := x) ?_ fun hx => ?_; (on_goal 2 => clear_value x); (on_goal 1 => unfold x; clear x)) | clear_value x)
      | split

end Sys2Proof.Machine
end

