-- ==== Sys2Proof/Laws/KeptRings.lean ====
section
/-!
SUPPORT. What the operations of Machine/Rings.lean keep.
-/
set_option linter.unusedTactic false
set_option linter.unreachableTactic false
set_option linter.unusedVariables false
set_option linter.tactic.unusedName false
namespace Sys2Proof.Machine
variable {μ : Marks} {κ : List Instr}

theorem State.busError_kept {s : State} {r addr : Nat} {write descr : Bool} (hk : s.Kept μ κ) (t_quarters : μ.quarters = none := by assumption) (t_twin : μ.twin = none := by assumption) :
    (State.busError s r addr write descr).Kept μ κ := by
  unfold State.busError
  repeat' with_reducible first
      | assumption | apply State.setQuarter_kept | apply State.raiseOnce_kept | apply State.bump_kept
      | (extract_lets +onlyGivenNames x; first | (refine State.Kept.cut (m := μ) (q := κ) (s := x) ?_ fun hx => ?_; (on_goal 2 => clear_value x); (on_goal 1 => unfold x; clear x)) | clear_value x)
      | split | (fail_if_no_progress (apply kept_mk))

theorem State.chainFrame_kept {s : State} {r : Nat} {ds : List Desc} (hk : s.Kept μ κ) : (State.chainFrame s r ds).2.Kept μ κ := by
  unfold State.chainFrame
  repeat' with_reducible first
      | assumption | apply State.bump_kept
      | (extract_lets +onlyGivenNames x; first | (refine State.Kept.cut (m := μ) (q := κ) (s := x) ?_ fun hx => ?_; (on_goal 2 => clear_value x); (on_goal 1 => unfold x; clear x)) | (refine State.Kept.cut (m := μ) (q := κ) (s := x.2) ?_ fun hx => ?_; (on_goal 2 => clear_value x); (on_goal 1 => unfold x; clear x)) | clear_value x)
      | split

theorem State.closeRing_kept {s : State} {r : Nat} (hk : s.Kept μ κ) (t_rings : μ.rings = none := by assumption) :
    (State.closeRing s r).Kept μ κ := by
  unfold State.closeRing
  repeat' with_reducible first
      | assumption | apply State.updRing_kept | (fail_if_no_progress (apply kept_mk))

theorem State.finishChain_kept {s : State} {r n result : Nat} {len : optParam (Option Nat) none} (hk : s.Kept μ κ) (t_mem : μ.mem = none := by assumption) (t_rings : μ.rings = none := by assumption) :
    (State.finishChain s r n result len).Kept μ κ := by
  unfold State.finishChain
  repeat' with_reducible first
      | assumption | apply State.updRing_kept | apply State.settleChains_kept
      | (extract_lets +onlyGivenNames x; first | (refine State.Kept.cut (m := μ) (q := κ) (s := x) ?_ fun hx => ?_; (on_goal 2 => clear_value x); (on_goal 1 => unfold x; clear x)) | clear_value x)
      | (fail_if_no_progress (apply kept_mk))

theorem State.coreChain_kept {s : State} {r : Nat} {ds : List Desc} (hk : s.Kept μ κ) (t_mem : μ.mem = none := by assumption) (t_clusterRx : μ.clusterRx = none := by assumption) (t_rings : μ.rings = none := by assumption) :
    (State.coreChain s r ds).Kept μ κ := by
  unfold State.coreChain
  repeat' with_reducible first
      | assumption | apply State.chainFrame_kept | apply State.finishChain_kept | apply State.skidPush_kept
      | (extract_lets +onlyGivenNames x; first | (refine State.Kept.cut (m := μ) (q := κ) (s := x) ?_ fun hx => ?_; (on_goal 2 => clear_value x); (on_goal 1 => unfold x; clear x)) | (refine State.Kept.cut (m := μ) (q := κ) (s := x.2) ?_ fun hx => ?_; (on_goal 2 => clear_value x); (on_goal 1 => unfold x; clear x)) | clear_value x)
      | split | (fail_if_no_progress (apply kept_mk))

theorem State.writeBuffer_kept {s : State} {f : Staged} {i : Nat} {d : Desc} {bs : Bytes} {fail : Option Nat} (hk : s.Kept μ κ) (t_mem : μ.mem = none := by assumption) (t_rings : μ.rings = none := by assumption) :
    (State.writeBuffer s f i d bs fail).2.Kept μ κ := by
  unfold State.writeBuffer
  repeat' with_reducible first
      | assumption | apply State.busWrite_kept | apply State.memWrite_kept | apply State.completeDesc_kept
      | (extract_lets +onlyGivenNames x; first | (refine State.Kept.cut (m := μ) (q := κ) (s := x) ?_ fun hx => ?_; (on_goal 2 => clear_value x); (on_goal 1 => unfold x; clear x)) | clear_value x)
      | split

theorem State.writeRx_kept {f : Staged} {fail : Option (Nat × Nat)} {a0 a1 : Nat} {a2 : Bytes} {a3 : State} (hk : a3.Kept μ κ) (t_mem : μ.mem = none := by assumption) (t_rings : μ.rings = none := by assumption) :
    (State.writeRx f fail a0 a1 a2 a3).2.2.Kept μ κ := by
  induction a0 generalizing a1 a2 a3 with
  | zero => exact hk
  | succ n ih =>
    unfold State.writeRx
    repeat' with_reducible first
      | assumption | apply ih | apply State.writeBuffer_kept | apply State.completeDesc_kept
      | (extract_lets +onlyGivenNames x; first | (refine State.Kept.cut (m := μ) (q := κ) (s := x) ?_ fun hx => ?_; (on_goal 2 => clear_value x); (on_goal 1 => unfold x; clear x)) | (refine State.Kept.cut (m := μ) (q := κ) (s := x.2) ?_ fun hx => ?_; (on_goal 2 => clear_value x); (on_goal 1 => unfold x; clear x)) | clear_value x)
      | split

theorem State.endRx_kept {s : State} {f : Staged} {used : Nat} (hk : s.Kept μ κ) (t_clusterRx : μ.clusterRx = none := by assumption) (t_rings : μ.rings = none := by assumption) (t_quarters : μ.quarters = none := by assumption) :
    (State.endRx s f used).Kept μ κ := by
  unfold State.endRx
  repeat' with_reducible first
      | assumption | apply State.setQuarter_kept | apply State.updRing_kept | apply State.peepDelivered_kept
      | (extract_lets +onlyGivenNames x; first | (refine State.Kept.cut (m := μ) (q := κ) (s := x) ?_ fun hx => ?_; (on_goal 2 => clear_value x); (on_goal 1 => unfold x; clear x)) | (refine State.Kept.cut (m := μ) (q := κ) (s := x.2) ?_ fun hx => ?_; (on_goal 2 => clear_value x); (on_goal 1 => unfold x; clear x)) | clear_value x)
      | split | (fail_if_no_progress (apply kept_mk))

theorem State.deliverRx_kept {s : State} {r : Nat} {fail : Option (Nat × Nat)} (hk : s.Kept μ κ) (t_mem : μ.mem = none := by assumption) (t_clusterRx : μ.clusterRx = none := by assumption) (t_rings : μ.rings = none := by assumption) (t_quarters : μ.quarters = none := by assumption) :
    (State.deliverRx s r fail).Kept μ κ := by
  unfold State.deliverRx
  repeat' with_reducible first
      | assumption | (rename_i e; have e2 := congrArg Prod.snd e; dsimp only at e2; subst e2) | apply State.writeRx_kept
      | apply State.takeTurn_kept | apply State.endRx_kept | apply State.setQuarter_kept | apply foldl_kept | apply foldl_kept_snd
      | apply foldl_kept_mid | apply foldl_resKept | apply foldl_pairKept | apply foldl_slotKept | intro _ | apply pairKept_none
      | apply pairKept_some | apply foldl_pairKept | exact PairKept.state (by assumption) | exact optKept_none | apply optKept_some
      | (extract_lets +onlyGivenNames x; first | (refine State.Kept.cut (m := μ) (q := κ) (s := x) ?_ fun hx => ?_; (on_goal 2 => clear_value x); (on_goal 1 => unfold x; clear x)) | (refine State.Kept.cut (m := μ) (q := κ) (s := x.2) ?_ fun hx => ?_; (on_goal 2 => clear_value x); (on_goal 1 => unfold x; clear x)) | (refine State.Kept.cut (m := μ) (q := κ) (s := x.2.2) ?_ fun hx => ?_; (on_goal 2 => clear_value x); (on_goal 1 => unfold x; clear x)) | (refine State.Kept.cut (m := μ) (q := κ) (s := x.1) ?_ fun hx => ?_; (on_goal 2 => clear_value x); (on_goal 1 => unfold x; clear x)) | (have _f : _ → _ := x; clear _f) | clear_value x | skip)
      | split | (fail_if_no_progress (apply kept_mk)) | (fail_if_no_progress (apply kept_eraseRegs))
      | (fail_if_no_progress (apply kept_eraseRings)) | (fail_if_no_progress (apply kept_setCtr)) | (dsimp -zeta +zetaDelta only)

theorem State.waitChain_kept {s : State} {r n : Nat} (hk : s.Kept μ κ) (t_rings : μ.rings = none := by assumption) :
    (State.waitChain s r n).Kept μ κ := by
  unfold State.waitChain
  repeat' with_reducible first
      | assumption | apply State.updRing_kept
      | (extract_lets +onlyGivenNames x; first | (refine State.Kept.cut (m := μ) (q := κ) (s := x) ?_ fun hx => ?_; (on_goal 2 => clear_value x); (on_goal 1 => unfold x; clear x)) | clear_value x)
      | (fail_if_no_progress (apply kept_mk))

theorem State.directChain_kept {s : State} {r : Nat} {ds : List Desc} (hk : s.Kept μ κ) (t_mem : μ.mem = none := by assumption) (t_clusterTx : μ.clusterTx = none := by assumption) (t_portTx : μ.portTx = none := by assumption) (t_rings : μ.rings = none := by assumption) :
    (State.directChain s r ds).Kept μ κ := by
  unfold State.directChain
  repeat' with_reducible first
      | assumption | apply State.chainFrame_kept | apply State.finishChain_kept | apply State.settlePort_kept | apply State.updPortTx_kept
      | apply State.waitChain_kept
      | (extract_lets +onlyGivenNames x; first | (refine State.Kept.cut (m := μ) (q := κ) (s := x) ?_ fun hx => ?_; (on_goal 2 => clear_value x); (on_goal 1 => unfold x; clear x)) | (refine State.Kept.cut (m := μ) (q := κ) (s := x.2) ?_ fun hx => ?_; (on_goal 2 => clear_value x); (on_goal 1 => unfold x; clear x)) | clear_value x)
      | split | (fail_if_no_progress (apply kept_mk))

theorem State.takeDesc_kept {s : State} {r : Nat} (hk : s.Kept μ κ) (t_rings : μ.rings = none := by assumption) :
    (State.takeDesc s r).Kept μ κ := by
  unfold State.takeDesc
  repeat' with_reducible first
      | assumption | apply State.updRing_kept | (fail_if_no_progress (apply kept_mk))

theorem State.takeBuffer_kept {s : State} {r : Nat} {d : Desc} (hk : s.Kept μ κ) (t_rings : μ.rings = none := by assumption) :
    (State.takeBuffer s r d).Kept μ κ := by
  unfold State.takeBuffer
  repeat' with_reducible first
      | assumption | apply State.busRead_kept | apply State.updRing_kept | apply State.takeDesc_kept | (fail_if_no_progress (apply kept_mk))

theorem State.gatherTx_kept {r a0 : Nat} {a1 : List Desc} {a2 : State} (hk : a2.Kept μ κ) (t_rings : μ.rings = none := by assumption) :
    (State.gatherTx r a0 a1 a2).2.Kept μ κ := by
  induction a0 generalizing a1 a2 with
  | zero => exact hk
  | succ n ih =>
    unfold State.gatherTx
    repeat' with_reducible first
      | assumption | apply ih | apply State.takeBuffer_kept | apply State.takeDesc_kept | apply State.fetchDesc_kept
      | (extract_lets +onlyGivenNames x; first | (refine State.Kept.cut (m := μ) (q := κ) (s := x) ?_ fun hx => ?_; (on_goal 2 => clear_value x); (on_goal 1 => unfold x; clear x)) | (refine State.Kept.cut (m := μ) (q := κ) (s := x.2) ?_ fun hx => ?_; (on_goal 2 => clear_value x); (on_goal 1 => unfold x; clear x)) | clear_value x)
      | split

theorem State.haltRing_kept {s : State} {r addr : Nat} {write : Bool} (hk : s.Kept μ κ) (t_rings : μ.rings = none := by assumption) (t_quarters : μ.quarters = none := by assumption) (t_twin : μ.twin = none := by assumption) :
    (State.haltRing s r addr write).Kept μ κ := by
  unfold State.haltRing
  repeat' with_reducible first
      | assumption | apply State.closeRing_kept | apply State.ringCause_kept | apply State.busError_kept

theorem State.openRing_kept {s : State} {r : Nat} (hk : s.Kept μ κ) (t_rings : μ.rings = none := by assumption) :
    (State.openRing s r).Kept μ κ := by
  unfold State.openRing
  repeat' with_reducible first
      | assumption | apply State.setRing_kept | apply State.ringCause_kept
      | (extract_lets +onlyGivenNames x; first | (refine State.Kept.cut (m := μ) (q := κ) (s := x) ?_ fun hx => ?_; (on_goal 2 => clear_value x); (on_goal 1 => unfold x; clear x)) | clear_value x)
      | split | (fail_if_no_progress (apply kept_mk))

theorem State.landRingEnable_kept {s : State} {r : Nat} {v : Bool} (hk : s.Kept μ κ) (t_rings : μ.rings = none := by assumption) (t_objs : μ.objs = none := by assumption) :
    (State.landRingEnable s r v).Kept μ κ := by
  unfold State.landRingEnable
  repeat' with_reducible first
      | assumption | apply State.setReg_kept | apply State.openRing_kept | apply State.closeRing_kept | apply State.updRing_kept
      | (extract_lets +onlyGivenNames x; first | (refine State.Kept.cut (m := μ) (q := κ) (s := x) ?_ fun hx => ?_; (on_goal 2 => clear_value x); (on_goal 1 => unfold x; clear x)) | clear_value x)
      | split | (fail_if_no_progress (apply kept_mk))

theorem State.landTail_kept {s : State} {r v : Nat} (hk : s.Kept μ κ) (t_rings : μ.rings = none := by assumption) :
    (State.landTail s r v).Kept μ κ := by
  unfold State.landTail
  repeat' with_reducible first
      | assumption | apply State.updRing_kept | split | (fail_if_no_progress (apply kept_mk))

theorem State.nextTx_kept {s : State} {r : Nat} (hk : s.Kept μ κ) (t_rings : μ.rings = none := by assumption) :
    (State.nextTx s r).2.Kept μ κ := by
  unfold State.nextTx
  repeat' with_reducible first
      | assumption | apply State.gatherTx_kept
      | (extract_lets +onlyGivenNames x; first | (refine State.Kept.cut (m := μ) (q := κ) (s := x) ?_ fun hx => ?_; (on_goal 2 => clear_value x); (on_goal 1 => unfold x; clear x)) | clear_value x)
      | split

theorem State.ringsClosed_kept {s : State} {i : Nat} (hk : s.Kept μ κ) (t_rings : μ.rings = none := by assumption) (t_quarters : μ.quarters = none := by assumption) (t_objs : μ.objs = none := by assumption) :
    (State.ringsClosed s i).Kept μ κ := by
  unfold State.ringsClosed
  repeat' with_reducible first
      | assumption | (rename_i e; have e2 := congrArg Prod.snd e; dsimp only at e2; subst e2) | apply State.setQuarter_kept
      | apply foldl_kept | apply foldl_kept_snd | apply foldl_kept_mid | apply foldl_resKept | apply foldl_pairKept | apply foldl_slotKept
      | intro _ | apply pairKept_none | apply pairKept_some | apply foldl_pairKept | exact PairKept.state (by assumption)
      | exact optKept_none | apply optKept_some
      | (extract_lets +onlyGivenNames x; first | (refine State.Kept.cut (m := μ) (q := κ) (s := x) ?_ fun hx => ?_; (on_goal 2 => clear_value x); (on_goal 1 => unfold x; clear x)) | (refine State.Kept.cut (m := μ) (q := κ) (s := x.2) ?_ fun hx => ?_; (on_goal 2 => clear_value x); (on_goal 1 => unfold x; clear x)) | (refine State.Kept.cut (m := μ) (q := κ) (s := x.2.2) ?_ fun hx => ?_; (on_goal 2 => clear_value x); (on_goal 1 => unfold x; clear x)) | (refine State.Kept.cut (m := μ) (q := κ) (s := x.1) ?_ fun hx => ?_; (on_goal 2 => clear_value x); (on_goal 1 => unfold x; clear x)) | (have _f : _ → _ := x; clear _f) | clear_value x | skip)
      | split | apply kept_rings | (fail_if_no_progress (apply kept_mk)) | (fail_if_no_progress (apply kept_eraseRegs))
      | (fail_if_no_progress (apply kept_eraseRings)) | (fail_if_no_progress (apply kept_setCtr)) | (dsimp -zeta +zetaDelta only)

theorem State.quarterCold_kept {s : State} {i : Nat} (hk : s.Kept μ κ) (t_rings : μ.rings = none := by assumption) (t_quarters : μ.quarters = none := by assumption) (t_objs : μ.objs = none := by assumption) :
    (State.quarterCold s i).Kept μ κ := by
  unfold State.quarterCold
  repeat' with_reducible first
      | assumption | (rename_i e; have e2 := congrArg Prod.snd e; dsimp only at e2; subst e2) | apply State.ringsClosed_kept
      | apply State.clearCtrs_kept | apply foldl_kept | apply foldl_kept_snd | apply foldl_kept_mid | apply foldl_resKept
      | apply foldl_pairKept | apply foldl_slotKept | intro _ | apply pairKept_none | apply pairKept_some | apply foldl_pairKept
      | exact PairKept.state (by assumption) | exact optKept_none | apply optKept_some
      | (extract_lets +onlyGivenNames x; first | (refine State.Kept.cut (m := μ) (q := κ) (s := x) ?_ fun hx => ?_; (on_goal 2 => clear_value x); (on_goal 1 => unfold x; clear x)) | (refine State.Kept.cut (m := μ) (q := κ) (s := x.2) ?_ fun hx => ?_; (on_goal 2 => clear_value x); (on_goal 1 => unfold x; clear x)) | (refine State.Kept.cut (m := μ) (q := κ) (s := x.2.2) ?_ fun hx => ?_; (on_goal 2 => clear_value x); (on_goal 1 => unfold x; clear x)) | (refine State.Kept.cut (m := μ) (q := κ) (s := x.1) ?_ fun hx => ?_; (on_goal 2 => clear_value x); (on_goal 1 => unfold x; clear x)) | (have _f : _ → _ := x; clear _f) | clear_value x | skip)
      | split | (fail_if_no_progress (apply kept_mk)) | (fail_if_no_progress (apply kept_eraseRegs))
      | (fail_if_no_progress (apply kept_eraseRings)) | (fail_if_no_progress (apply kept_setCtr)) | (dsimp -zeta +zetaDelta only)

theorem State.readBusErr_kept {s : State} {i : Nat} (hk : s.Kept μ κ) (t_quarters : μ.quarters = none := by assumption) :
    (State.readBusErr s i).2.Kept μ κ := by
  unfold State.readBusErr
  repeat' with_reducible first
      | assumption | apply State.setQuarter_kept
      | (extract_lets +onlyGivenNames x; first | (refine State.Kept.cut (m := μ) (q := κ) (s := x) ?_ fun hx => ?_; (on_goal 2 => clear_value x); (on_goal 1 => unfold x; clear x)) | clear_value x)
      | (fail_if_no_progress (apply kept_mk))

theorem State.ringClosed_kept {s : State} {r : Nat} (hk : s.Kept μ κ) (t_rings : μ.rings = none := by assumption) :
    (State.ringClosed s r).Kept μ κ := by
  unfold State.ringClosed
  repeat' with_reducible first
      | assumption | apply State.ringCause_kept | apply State.setRing_kept | apply State.openRing_kept
      | (extract_lets +onlyGivenNames x; first | (refine State.Kept.cut (m := μ) (q := κ) (s := x) ?_ fun hx => ?_; (on_goal 2 => clear_value x); (on_goal 1 => unfold x; clear x)) | clear_value x)
      | split | (fail_if_no_progress (apply kept_mk))

theorem State.ringOpened_kept {s : State} {r : Nat} (hk : s.Kept μ κ) (t_rings : μ.rings = none := by assumption) :
    (State.ringOpened s r).Kept μ κ := by
  unfold State.ringOpened
  repeat' with_reducible first
      | assumption | apply State.setRing_kept | apply State.closeRing_kept
      | (extract_lets +onlyGivenNames x; first | (refine State.Kept.cut (m := μ) (q := κ) (s := x) ?_ fun hx => ?_; (on_goal 2 => clear_value x); (on_goal 1 => unfold x; clear x)) | clear_value x)
      | split | (fail_if_no_progress (apply kept_mk))

theorem State.runTx_kept {μ : Marks} {κ : List Instr} {s : State} {r type : Nat} {place : State → Nat → List Desc → State} (hk : s.Kept μ κ) (t_mem : μ.mem = none := by assumption) (t_rings : μ.rings = none := by assumption) (t_quarters : μ.quarters = none := by assumption)
    (hp : ∀ t ds, t.Kept μ κ → (place t r ds).Kept μ κ) : (State.runTx s r type place).Kept μ κ := by
  unfold State.runTx
  have hn := State.nextTx_kept (r := r) (State.takeTurn_kept (r := r) hk)
  generalize (s.takeTurn r).nextTx r = x at hn ⊢
  split
  · exact hk
  · split
    · split
      · exact hn
      · exact State.finishChain_kept hn
      · exact State.finishChain_kept hn
      · exact hp _ _ hn
    · dsimp only
      split
      · exact hk
      · split
        · exact hp _ _ hk
        · exact State.finishChain_kept hk
    · exact hk

theorem execDescFrameCore_kept {dt r : Nat} {s : State} (hk : s.Kept μ κ) (t_mem : μ.mem = none := by assumption) (t_clusterRx : μ.clusterRx = none := by assumption) (t_rings : μ.rings = none := by assumption) (t_quarters : μ.quarters = none := by assumption) :
    ResKept μ κ (execDescFrameCore dt r s) := by
  unfold execDescFrameCore
  repeat' with_reducible first
      | assumption | apply resKept_next | apply State.runTx_kept | apply State.elapse_kept | apply State.coreChain_kept | intro _
      | (extract_lets +onlyGivenNames x; first | (refine State.Kept.cut (m := μ) (q := κ) (s := x) ?_ fun hx => ?_; (on_goal 2 => clear_value x); (on_goal 1 => unfold x; clear x)) | (refine State.Kept.cut (m := μ) (q := κ) (s := x.2) ?_ fun hx => ?_; (on_goal 2 => clear_value x); (on_goal 1 => unfold x; clear x)) | (have _f : _ → _ := x; clear _f) | clear_value x | skip)
      | split | (fail_if_no_progress (apply kept_mk)) | (dsimp -zeta +zetaDelta only)

theorem execDescFrameDirect_kept {dt r : Nat} {s : State} (hk : s.Kept μ κ) (t_mem : μ.mem = none := by assumption) (t_clusterTx : μ.clusterTx = none := by assumption) (t_portTx : μ.portTx = none := by assumption) (t_rings : μ.rings = none := by assumption) (t_quarters : μ.quarters = none := by assumption) :
    ResKept μ κ (execDescFrameDirect dt r s) := by
  unfold execDescFrameDirect
  repeat' with_reducible first
      | assumption | apply resKept_next | apply State.runTx_kept | apply State.elapse_kept | apply State.directChain_kept | intro _
      | (extract_lets +onlyGivenNames x; first | (refine State.Kept.cut (m := μ) (q := κ) (s := x) ?_ fun hx => ?_; (on_goal 2 => clear_value x); (on_goal 1 => unfold x; clear x)) | (refine State.Kept.cut (m := μ) (q := κ) (s := x.2) ?_ fun hx => ?_; (on_goal 2 => clear_value x); (on_goal 1 => unfold x; clear x)) | (have _f : _ → _ := x; clear _f) | clear_value x | skip)
      | split | (fail_if_no_progress (apply kept_mk)) | (dsimp -zeta +zetaDelta only)

theorem execDmaRxDelivery_kept {dt r : Nat} {s : State} (hk : s.Kept μ κ) (t_mem : μ.mem = none := by assumption) (t_clusterRx : μ.clusterRx = none := by assumption) (t_rings : μ.rings = none := by assumption) (t_quarters : μ.quarters = none := by assumption) :
    ResKept μ κ (execDmaRxDelivery dt r s) := by
  unfold execDmaRxDelivery
  repeat' with_reducible first
      | assumption | apply resKept_next | apply State.elapse_kept | apply State.deliverRx_kept
      | (extract_lets +onlyGivenNames x; first | (refine State.Kept.cut (m := μ) (q := κ) (s := x) ?_ fun hx => ?_; (on_goal 2 => clear_value x); (on_goal 1 => unfold x; clear x)) | clear_value x)
      | split

end Sys2Proof.Machine
end

