-- ==== Sys2Proof/Laws/KeptTwin.lean ====
section
/-!
SUPPORT. What the operations of Machine/Twin.lean keep.
-/
set_option linter.unusedTactic false
set_option linter.unreachableTactic false
set_option linter.unusedVariables false
set_option linter.tactic.unusedName false
namespace Sys2Proof.Machine
variable {μ : Marks} {κ : List Instr}

theorem State.bankFailed_kept {s : State} {u bank : Nat} (hk : s.Kept μ κ) (t_twin : μ.twin = none := by assumption) :
    (State.bankFailed s u bank).Kept μ κ := by
  unfold State.bankFailed
  repeat' with_reducible first
      | assumption | apply State.raiseOnce_kept | apply State.updTwin_kept | split | (fail_if_no_progress (apply kept_mk))

theorem State.comparePn_kept {s : State} {p n : Nat} {own peer : PnInfo} (hk : s.Kept μ κ) (t_mem : μ.mem = none := by assumption) (t_past : μ.past = none := by assumption) (t_portRx : μ.portRx = none := by assumption) (t_clusterRx : μ.clusterRx = none := by assumption) (t_clusterTx : μ.clusterTx = none := by assumption) (t_portTx : μ.portTx = none := by assumption) (t_shutters : μ.shutters = none := by assumption) (t_rings : μ.rings = none := by assumption) (t_quarters : μ.quarters = none := by assumption) (t_twin : μ.twin = none := by assumption) (t_objs : μ.objs = none := by assumption) :
    (State.comparePn s p n own peer).Kept μ κ := by
  unfold State.comparePn
  repeat' with_reducible first
      | assumption | apply State.mismatch_kept | split

theorem State.compareBulk_kept {s : State} {own peer : BulkRec} (hk : s.Kept μ κ) (t_mem : μ.mem = none := by assumption) (t_past : μ.past = none := by assumption) (t_portRx : μ.portRx = none := by assumption) (t_clusterRx : μ.clusterRx = none := by assumption) (t_clusterTx : μ.clusterTx = none := by assumption) (t_portTx : μ.portTx = none := by assumption) (t_shutters : μ.shutters = none := by assumption) (t_rings : μ.rings = none := by assumption) (t_quarters : μ.quarters = none := by assumption) (t_twin : μ.twin = none := by assumption) (t_objs : μ.objs = none := by assumption) :
    (State.compareBulk s own peer).Kept μ κ := by
  unfold State.compareBulk
  repeat' with_reducible first
      | assumption | apply State.updTwin_kept | apply State.mismatch_kept | apply State.comparePn_kept
      | (extract_lets +onlyGivenNames x; first | (refine State.Kept.cut (m := μ) (q := κ) (s := x) ?_ fun hx => ?_; (on_goal 2 => clear_value x); (on_goal 1 => unfold x; clear x)) | clear_value x)
      | split | (fail_if_no_progress (apply kept_mk))

theorem State.bulkMeet_kept {s : State} {p : Nat} (hk : s.Kept μ κ) (t_mem : μ.mem = none := by assumption) (t_past : μ.past = none := by assumption) (t_portRx : μ.portRx = none := by assumption) (t_clusterRx : μ.clusterRx = none := by assumption) (t_clusterTx : μ.clusterTx = none := by assumption) (t_portTx : μ.portTx = none := by assumption) (t_shutters : μ.shutters = none := by assumption) (t_rings : μ.rings = none := by assumption) (t_quarters : μ.quarters = none := by assumption) (t_twin : μ.twin = none := by assumption) (t_objs : μ.objs = none := by assumption) :
    (State.bulkMeet s p).Kept μ κ := by
  unfold State.bulkMeet
  repeat' with_reducible first
      | assumption | apply State.compareBulk_kept | apply State.updTwin_kept
      | (extract_lets +onlyGivenNames x; first | (refine State.Kept.cut (m := μ) (q := κ) (s := x) ?_ fun hx => ?_; (on_goal 2 => clear_value x); (on_goal 1 => unfold x; clear x)) | clear_value x)
      | split | (fail_if_no_progress (apply kept_mk))

theorem State.bulkEnd_kept {s : State} {k : Nat} (hk : s.Kept μ κ) (t_mem : μ.mem = none := by assumption) (t_past : μ.past = none := by assumption) (t_portRx : μ.portRx = none := by assumption) (t_clusterRx : μ.clusterRx = none := by assumption) (t_clusterTx : μ.clusterTx = none := by assumption) (t_portTx : μ.portTx = none := by assumption) (t_shutters : μ.shutters = none := by assumption) (t_rings : μ.rings = none := by assumption) (t_quarters : μ.quarters = none := by assumption) (t_twin : μ.twin = none := by assumption) (t_objs : μ.objs = none := by assumption) :
    (State.bulkEnd s k).Kept μ κ := by
  unfold State.bulkEnd
  repeat' with_reducible first
      | assumption | apply State.updTwin_kept | apply State.hingeSend_kept | apply State.bulkMeet_kept | apply foldl_kept | intro _
      | (extract_lets +onlyGivenNames x; first | (refine State.Kept.cut (m := μ) (q := κ) (s := x) ?_ fun hx => ?_; (on_goal 2 => clear_value x); (on_goal 1 => unfold x; clear x)) | (refine State.Kept.cut (m := μ) (q := κ) (s := x.2) ?_ fun hx => ?_; (on_goal 2 => clear_value x); (on_goal 1 => unfold x; clear x)) | clear_value x)
      | split | (fail_if_no_progress (apply kept_mk))

theorem State.bulkRx_kept {s : State} {e : BulkRec} (hk : s.Kept μ κ) (t_mem : μ.mem = none := by assumption) (t_past : μ.past = none := by assumption) (t_portRx : μ.portRx = none := by assumption) (t_clusterRx : μ.clusterRx = none := by assumption) (t_clusterTx : μ.clusterTx = none := by assumption) (t_portTx : μ.portTx = none := by assumption) (t_shutters : μ.shutters = none := by assumption) (t_rings : μ.rings = none := by assumption) (t_quarters : μ.quarters = none := by assumption) (t_twin : μ.twin = none := by assumption) (t_objs : μ.objs = none := by assumption) :
    (State.bulkRx s e).Kept μ κ := by
  unfold State.bulkRx
  repeat' with_reducible first
      | assumption | apply State.updTwin_kept | apply State.bulkMeet_kept
      | (extract_lets +onlyGivenNames x; first | (refine State.Kept.cut (m := μ) (q := κ) (s := x) ?_ fun hx => ?_; (on_goal 2 => clear_value x); (on_goal 1 => unfold x; clear x)) | clear_value x)
      | split | (fail_if_no_progress (apply kept_mk))

theorem State.compareExpress_kept {s : State} {own peer : ExpressRec} (hk : s.Kept μ κ) (t_mem : μ.mem = none := by assumption) (t_past : μ.past = none := by assumption) (t_portRx : μ.portRx = none := by assumption) (t_clusterRx : μ.clusterRx = none := by assumption) (t_clusterTx : μ.clusterTx = none := by assumption) (t_portTx : μ.portTx = none := by assumption) (t_shutters : μ.shutters = none := by assumption) (t_rings : μ.rings = none := by assumption) (t_quarters : μ.quarters = none := by assumption) (t_twin : μ.twin = none := by assumption) (t_objs : μ.objs = none := by assumption) :
    (State.compareExpress s own peer).Kept μ κ := by
  unfold State.compareExpress
  repeat' with_reducible first
      | assumption | apply State.mismatch_kept | apply State.comparePn_kept
      | (extract_lets +onlyGivenNames x; first | (refine State.Kept.cut (m := μ) (q := κ) (s := x) ?_ fun hx => ?_; (on_goal 2 => clear_value x); (on_goal 1 => unfold x; clear x)) | clear_value x)
      | split

theorem State.countTimely_kept {s : State} {late : Bool} (hk : s.Kept μ κ) (t_twin : μ.twin = none := by assumption) :
    (State.countTimely s late).Kept μ κ := by
  unfold State.countTimely
  repeat' with_reducible first
      | assumption | apply State.updTwin_kept | apply State.bump_kept | apply State.raiseOnce_kept
      | (extract_lets +onlyGivenNames x; first | (refine State.Kept.cut (m := μ) (q := κ) (s := x) ?_ fun hx => ?_; (on_goal 2 => clear_value x); (on_goal 1 => unfold x; clear x)) | clear_value x)
      | split | (fail_if_no_progress (apply kept_mk))

theorem State.closeDigest_kept {s : State} {p : Nat} (hk : s.Kept μ κ) (t_mem : μ.mem = none := by assumption) (t_past : μ.past = none := by assumption) (t_portRx : μ.portRx = none := by assumption) (t_clusterRx : μ.clusterRx = none := by assumption) (t_clusterTx : μ.clusterTx = none := by assumption) (t_portTx : μ.portTx = none := by assumption) (t_shutters : μ.shutters = none := by assumption) (t_rings : μ.rings = none := by assumption) (t_quarters : μ.quarters = none := by assumption) (t_twin : μ.twin = none := by assumption) (t_objs : μ.objs = none := by assumption) :
    (State.closeDigest s p).Kept μ κ := by
  unfold State.closeDigest
  repeat' with_reducible first
      | assumption | apply State.setShut_kept | apply State.updTwin_kept | apply State.hingeSend_kept | apply State.compareExpress_kept
      | apply State.countTimely_kept
      | (extract_lets +onlyGivenNames x; first | (refine State.Kept.cut (m := μ) (q := κ) (s := x) ?_ fun hx => ?_; (on_goal 2 => clear_value x); (on_goal 1 => unfold x; clear x)) | clear_value x)
      | split | (fail_if_no_progress (apply kept_mk))

theorem State.streamResend_kept {s : State} (hk : s.Kept μ κ) (t_twin : μ.twin = none := by assumption) :
    (State.streamResend s).Kept μ κ := by
  unfold State.streamResend
  repeat' with_reducible first
      | assumption | apply State.hingeSend_kept | apply foldl_kept | intro _ | split

theorem State.pathDown_kept {s : State} {b : Bool} (hk : s.Kept μ κ) (t_twin : μ.twin = none := by assumption) :
    (State.pathDown s b).Kept μ κ := by
  unfold State.pathDown
  repeat' with_reducible first
      | assumption | apply State.raise_kept | apply State.setPath_kept | apply State.settleStep_kept | apply State.streamResend_kept
      | apply State.raiseOnce_kept | apply State.updTwin_kept
      | (extract_lets +onlyGivenNames x; first | (refine State.Kept.cut (m := μ) (q := κ) (s := x) ?_ fun hx => ?_; (on_goal 2 => clear_value x); (on_goal 1 => unfold x; clear x)) | clear_value x)
      | split | (fail_if_no_progress (apply kept_mk))

theorem State.closeHinge_kept {s : State} (hk : s.Kept μ κ) (t_twin : μ.twin = none := by assumption) : (State.closeHinge s).Kept μ κ := by
  unfold State.closeHinge
  repeat' with_reducible first
      | assumption | apply State.pathDown_kept | apply State.updTwin_kept
      | (extract_lets +onlyGivenNames x; first | (refine State.Kept.cut (m := μ) (q := κ) (s := x) ?_ fun hx => ?_; (on_goal 2 => clear_value x); (on_goal 1 => unfold x; clear x)) | clear_value x)
      | (fail_if_no_progress (apply kept_mk))

theorem State.countMisses_kept {s : State} {path : Bool} {n : Nat} (hk : s.Kept μ κ) (t_twin : μ.twin = none := by assumption) :
    (State.countMisses s path n).Kept μ κ := by
  unfold State.countMisses
  repeat' with_reducible first
      | assumption | apply State.bump_kept | apply State.setPath_kept
      | (extract_lets +onlyGivenNames x; first | (refine State.Kept.cut (m := μ) (q := κ) (s := x) ?_ fun hx => ?_; (on_goal 2 => clear_value x); (on_goal 1 => unfold x; clear x)) | clear_value x)
      | split | (fail_if_no_progress (apply kept_mk))

theorem State.expressRx_kept {s : State} {e : ExpressRec} (hk : s.Kept μ κ) (t_mem : μ.mem = none := by assumption) (t_past : μ.past = none := by assumption) (t_portRx : μ.portRx = none := by assumption) (t_clusterRx : μ.clusterRx = none := by assumption) (t_clusterTx : μ.clusterTx = none := by assumption) (t_portTx : μ.portTx = none := by assumption) (t_shutters : μ.shutters = none := by assumption) (t_rings : μ.rings = none := by assumption) (t_quarters : μ.quarters = none := by assumption) (t_twin : μ.twin = none := by assumption) (t_objs : μ.objs = none := by assumption) :
    (State.expressRx s e).Kept μ κ := by
  unfold State.expressRx
  repeat' with_reducible first
      | assumption | apply State.updTwin_kept | apply State.compareExpress_kept | apply State.countTimely_kept | intro _
      | (extract_lets +onlyGivenNames x; first | (refine State.Kept.cut (m := μ) (q := κ) (s := x) ?_ fun hx => ?_; (on_goal 2 => clear_value x); (on_goal 1 => unfold x; clear x)) | (refine State.Kept.cut (m := μ) (q := κ) (s := x.2) ?_ fun hx => ?_; (on_goal 2 => clear_value x); (on_goal 1 => unfold x; clear x)) | (have _f : _ → _ := x; clear _f) | clear_value x | skip)
      | split | (fail_if_no_progress (apply kept_mk)) | (dsimp -zeta +zetaDelta only)

theorem State.hingeCrcErr_kept {s : State} (hk : s.Kept μ κ) : (State.hingeCrcErr s).Kept μ κ := by
  unfold State.hingeCrcErr
  repeat' with_reducible first
      | assumption | apply State.bump_kept | split

theorem State.openHinge_kept {s : State} (hk : s.Kept μ κ) (t_twin : μ.twin = none := by assumption) : (State.openHinge s).Kept μ κ := by
  unfold State.openHinge
  repeat' with_reducible first
      | assumption | apply State.updTwin_kept | split | (fail_if_no_progress (apply kept_mk))

theorem State.hingeTick_kept {s : State} (hk : s.Kept μ κ) (t_twin : μ.twin = none := by assumption) : (State.hingeTick s).Kept μ κ := by
  unfold State.hingeTick
  repeat' with_reducible first
      | assumption | apply State.updTwin_kept | apply State.closeHinge_kept | apply State.openHinge_kept
      | (extract_lets +onlyGivenNames x; first | (refine State.Kept.cut (m := μ) (q := κ) (s := x) ?_ fun hx => ?_; (on_goal 2 => clear_value x); (on_goal 1 => unfold x; clear x)) | clear_value x)
      | split | (fail_if_no_progress (apply kept_mk))

theorem State.landDemote_kept {s : State} (hk : s.Kept μ κ) (t_mem : μ.mem = none := by assumption) (t_past : μ.past = none := by assumption) (t_portRx : μ.portRx = none := by assumption) (t_clusterRx : μ.clusterRx = none := by assumption) (t_clusterTx : μ.clusterTx = none := by assumption) (t_portTx : μ.portTx = none := by assumption) (t_shutters : μ.shutters = none := by assumption) (t_rings : μ.rings = none := by assumption) (t_quarters : μ.quarters = none := by assumption) (t_twin : μ.twin = none := by assumption) (t_objs : μ.objs = none := by assumption) :
    (State.landDemote s).Kept μ κ := by
  unfold State.landDemote
  repeat' with_reducible first
      | assumption | apply State.demote_kept

theorem State.landHingeEnable_kept {s : State} {v : Bool} (hk : s.Kept μ κ) (t_twin : μ.twin = none := by assumption) (t_objs : μ.objs = none := by assumption) :
    (State.landHingeEnable s v).Kept μ κ := by
  unfold State.landHingeEnable
  repeat' with_reducible first
      | assumption | apply State.setReg_kept | apply State.openHinge_kept | apply State.closeHinge_kept | apply State.updTwin_kept
      | (extract_lets +onlyGivenNames x; first | (refine State.Kept.cut (m := μ) (q := κ) (s := x) ?_ fun hx => ?_; (on_goal 2 => clear_value x); (on_goal 1 => unfold x; clear x)) | clear_value x)
      | split | (fail_if_no_progress (apply kept_mk))

theorem State.landReinstate_kept {s : State} (hk : s.Kept μ κ) (t_twin : μ.twin = none := by assumption) :
    (State.landReinstate s).Kept μ κ := by
  unfold State.landReinstate
  repeat' with_reducible first
      | assumption | apply State.setRole_kept | split

theorem State.newOffset_kept {s : State} {m : ℤ} (hk : s.Kept μ κ) (t_twin : μ.twin = none := by assumption) :
    (State.newOffset s m).Kept μ κ := by
  unfold State.newOffset
  repeat' with_reducible first
      | assumption | apply State.updTwin_kept | apply State.raiseOnce_kept
      | (extract_lets +onlyGivenNames x; first | (refine State.Kept.cut (m := μ) (q := κ) (s := x) ?_ fun hx => ?_; (on_goal 2 => clear_value x); (on_goal 1 => unfold x; clear x)) | clear_value x)
      | split | (fail_if_no_progress (apply kept_mk))

theorem State.pathRefuse_kept {s : State} {b : Bool} (hk : s.Kept μ κ) (t_twin : μ.twin = none := by assumption) :
    (State.pathRefuse s b).Kept μ κ := by
  unfold State.pathRefuse
  repeat' with_reducible first
      | assumption | apply State.raiseOnce_kept | apply State.setPath_kept
      | (extract_lets +onlyGivenNames x; first | (refine State.Kept.cut (m := μ) (q := κ) (s := x) ?_ fun hx => ?_; (on_goal 2 => clear_value x); (on_goal 1 => unfold x; clear x)) | clear_value x)
      | (fail_if_no_progress (apply kept_mk))

theorem State.pathRise_kept {s : State} {b : Bool} {version delay : Nat} (hk : s.Kept μ κ) (t_twin : μ.twin = none := by assumption) :
    (State.pathRise s b version delay).Kept μ κ := by
  unfold State.pathRise
  extract_lets before now_ p0 s1 s2
  have h1 : s1.Kept μ κ := State.setPath_kept hk
  clear_value s1
  have h2 : s2.Kept μ κ := State.raise_kept (State.updTwin_kept h1)
  clear_value s2
  refine State.settleStep_kept ?_
  split
  · exact h2
  · exact State.streamResend_kept h2

theorem State.pnJump_kept {s : State} {p : Nat} (hk : s.Kept μ κ) (t_rows : μ.rows = none := by assumption) (t_clusterRx : μ.clusterRx = none := by assumption) :
    (State.pnJump s p).Kept μ κ := by
  unfold State.pnJump
  repeat' with_reducible first
      | assumption | apply State.rowSet_kept | apply State.saFlag_kept
      | (extract_lets +onlyGivenNames x; first | (refine State.Kept.cut (m := μ) (q := κ) (s := x) ?_ fun hx => ?_; (on_goal 2 => clear_value x); (on_goal 1 => unfold x; clear x)) | clear_value x)
      | split | (fail_if_no_progress (apply kept_mk))

theorem State.readMismatch_kept {s : State} (hk : s.Kept μ κ) (t_twin : μ.twin = none := by assumption) :
    (State.readMismatch s).2.Kept μ κ := by
  unfold State.readMismatch
  repeat' with_reducible first
      | assumption | apply State.updTwin_kept | split | (fail_if_no_progress (apply kept_mk))

theorem State.readStest_kept {s : State} (hk : s.Kept μ κ) (t_twin : μ.twin = none := by assumption) : (State.readStest s).2.Kept μ κ := by
  unfold State.readStest
  repeat' with_reducible first
      | assumption | apply State.updTwin_kept | (fail_if_no_progress (apply kept_mk))

theorem State.setPeerHash_kept {s : State} {check : Word} (hk : s.Kept μ κ) (t_keys : μ.keys = none := by assumption) :
    (State.setPeerHash s check).Kept μ κ := by
  unfold State.setPeerHash
  repeat' with_reducible first
      | assumption
      | (extract_lets +onlyGivenNames x; first | (refine State.Kept.cut (m := μ) (q := κ) (s := x) ?_ fun hx => ?_; (on_goal 2 => clear_value x); (on_goal 1 => unfold x; clear x)) | clear_value x)
      | apply kept_keys | (fail_if_no_progress (apply kept_mk))

theorem State.takeOver_kept {s : State} (hk : s.Kept μ κ) (t_rows : μ.rows = none := by assumption) (t_clusterRx : μ.clusterRx = none := by assumption) (t_twin : μ.twin = none := by assumption) :
    (State.takeOver s).Kept μ κ := by
  unfold State.takeOver
  repeat' with_reducible first
      | assumption | apply State.pnJump_kept | apply State.updTwin_kept | apply State.setRole_kept | apply foldl_kept | intro _
      | (extract_lets +onlyGivenNames x; first | (refine State.Kept.cut (m := μ) (q := κ) (s := x) ?_ fun hx => ?_; (on_goal 2 => clear_value x); (on_goal 1 => unfold x; clear x)) | clear_value x)
      | (fail_if_no_progress (apply kept_mk))

theorem State.soloRole_kept {s : State} (hk : s.Kept μ κ) (t_rows : μ.rows = none := by assumption) (t_clusterRx : μ.clusterRx = none := by assumption) (t_twin : μ.twin = none := by assumption) :
    (State.soloRole s).Kept μ κ := by
  unfold State.soloRole
  repeat' with_reducible first
      | assumption | apply State.takeOver_kept | split

theorem execBulkIntervalEnd_kept {dt : Nat} {s : State} (hk : s.Kept μ κ) (t_mem : μ.mem = none := by assumption) (t_past : μ.past = none := by assumption) (t_portRx : μ.portRx = none := by assumption) (t_clusterRx : μ.clusterRx = none := by assumption) (t_clusterTx : μ.clusterTx = none := by assumption) (t_portTx : μ.portTx = none := by assumption) (t_shutters : μ.shutters = none := by assumption) (t_rings : μ.rings = none := by assumption) (t_quarters : μ.quarters = none := by assumption) (t_twin : μ.twin = none := by assumption) (t_objs : μ.objs = none := by assumption) :
    ResKept μ κ (execBulkIntervalEnd dt s) := by
  unfold execBulkIntervalEnd
  repeat' with_reducible first
      | assumption | apply resKept_next | apply State.elapse_kept | apply State.bulkEnd_kept
      | (extract_lets +onlyGivenNames x; first | (refine State.Kept.cut (m := μ) (q := κ) (s := x) ?_ fun hx => ?_; (on_goal 2 => clear_value x); (on_goal 1 => unfold x; clear x)) | clear_value x)
      | split

theorem execBulkRecordRx_kept {dt : Nat} {path crcOk : Bool} {r : BulkRec} {s : State} (hk : s.Kept μ κ) (t_mem : μ.mem = none := by assumption) (t_past : μ.past = none := by assumption) (t_portRx : μ.portRx = none := by assumption) (t_clusterRx : μ.clusterRx = none := by assumption) (t_clusterTx : μ.clusterTx = none := by assumption) (t_portTx : μ.portTx = none := by assumption) (t_shutters : μ.shutters = none := by assumption) (t_rings : μ.rings = none := by assumption) (t_quarters : μ.quarters = none := by assumption) (t_twin : μ.twin = none := by assumption) (t_objs : μ.objs = none := by assumption) :
    ResKept μ κ (execBulkRecordRx dt path crcOk r s) := by
  unfold execBulkRecordRx
  repeat' with_reducible first
      | assumption | apply resKept_next | apply State.elapse_kept | apply State.hingeCrcErr_kept | apply State.bulkRx_kept
      | (extract_lets +onlyGivenNames x; first | (refine State.Kept.cut (m := μ) (q := κ) (s := x) ?_ fun hx => ?_; (on_goal 2 => clear_value x); (on_goal 1 => unfold x; clear x)) | clear_value x)
      | split

theorem execDemotingRx_kept {dt : Nat} {path crcOk : Bool} {s : State} (hk : s.Kept μ κ) (t_twin : μ.twin = none := by assumption) :
    ResKept μ κ (execDemotingRx dt path crcOk s) := by
  unfold execDemotingRx
  repeat' with_reducible first
      | assumption | apply resKept_next | apply State.elapse_kept | apply State.hingeCrcErr_kept | apply State.updTwin_kept
      | (extract_lets +onlyGivenNames x; first | (refine State.Kept.cut (m := μ) (q := κ) (s := x) ?_ fun hx => ?_; (on_goal 2 => clear_value x); (on_goal 1 => unfold x; clear x)) | clear_value x)
      | split | (fail_if_no_progress (apply kept_mk))

theorem execDigestClose_kept {dt p : Nat} {s : State} (hk : s.Kept μ κ) (t_mem : μ.mem = none := by assumption) (t_past : μ.past = none := by assumption) (t_portRx : μ.portRx = none := by assumption) (t_clusterRx : μ.clusterRx = none := by assumption) (t_clusterTx : μ.clusterTx = none := by assumption) (t_portTx : μ.portTx = none := by assumption) (t_shutters : μ.shutters = none := by assumption) (t_rings : μ.rings = none := by assumption) (t_quarters : μ.quarters = none := by assumption) (t_twin : μ.twin = none := by assumption) (t_objs : μ.objs = none := by assumption) :
    ResKept μ κ (execDigestClose dt p s) := by
  unfold execDigestClose
  repeat' with_reducible first
      | assumption | apply resKept_next | apply State.elapse_kept | apply settled_kept | apply State.closeDigest_kept
      | (extract_lets +onlyGivenNames x; first | (refine State.Kept.cut (m := μ) (q := κ) (s := x) ?_ fun hx => ?_; (on_goal 2 => clear_value x); (on_goal 1 => unfold x; clear x)) | clear_value x)
      | split

theorem execExpressRecordRx_kept {dt : Nat} {path crcOk : Bool} {r : ExpressRec} {s : State} (hk : s.Kept μ κ) (t_mem : μ.mem = none := by assumption) (t_past : μ.past = none := by assumption) (t_portRx : μ.portRx = none := by assumption) (t_clusterRx : μ.clusterRx = none := by assumption) (t_clusterTx : μ.clusterTx = none := by assumption) (t_portTx : μ.portTx = none := by assumption) (t_shutters : μ.shutters = none := by assumption) (t_rings : μ.rings = none := by assumption) (t_quarters : μ.quarters = none := by assumption) (t_twin : μ.twin = none := by assumption) (t_objs : μ.objs = none := by assumption) :
    ResKept μ κ (execExpressRecordRx dt path crcOk r s) := by
  unfold execExpressRecordRx
  repeat' with_reducible first
      | assumption | apply resKept_next | apply State.elapse_kept | apply State.hingeCrcErr_kept | apply State.expressRx_kept
      | (extract_lets +onlyGivenNames x; first | (refine State.Kept.cut (m := μ) (q := κ) (s := x) ?_ fun hx => ?_; (on_goal 2 => clear_value x); (on_goal 1 => unfold x; clear x)) | clear_value x)
      | split

theorem execHeartbeatRx_kept {dt : Nat} {path crcOk : Bool} {sent peerSent arrived : Nat} {s : State} (hk : s.Kept μ κ) (t_twin : μ.twin = none := by assumption) :
    ResKept μ κ (execHeartbeatRx dt path crcOk sent peerSent arrived s) := by
  unfold execHeartbeatRx
  repeat' with_reducible first
      | assumption | apply resKept_next | apply State.elapse_kept | apply State.hingeCrcErr_kept | apply State.countMisses_kept
      | apply State.setPath_kept | apply State.newOffset_kept
      | (extract_lets +onlyGivenNames x; first | (refine State.Kept.cut (m := μ) (q := κ) (s := x) ?_ fun hx => ?_; (on_goal 2 => clear_value x); (on_goal 1 => unfold x; clear x)) | clear_value x)
      | split | (fail_if_no_progress (apply kept_mk))

theorem execHeartbeatTimeout_kept {dt : Nat} {path : Bool} {s : State} (hk : s.Kept μ κ) (t_twin : μ.twin = none := by assumption) :
    ResKept μ κ (execHeartbeatTimeout dt path s) := by
  unfold execHeartbeatTimeout
  repeat' with_reducible first
      | assumption | apply resKept_next | apply State.elapse_kept | apply State.pathDown_kept | apply State.countMisses_kept
      | (extract_lets +onlyGivenNames x; first | (refine State.Kept.cut (m := μ) (q := κ) (s := x) ?_ fun hx => ?_; (on_goal 2 => clear_value x); (on_goal 1 => unfold x; clear x)) | clear_value x)
      | split

theorem execHeartbeatTx_kept {dt : Nat} {path : Bool} {s : State} (hk : s.Kept μ κ) (t_twin : μ.twin = none := by assumption) :
    ResKept μ κ (execHeartbeatTx dt path s) := by
  unfold execHeartbeatTx
  repeat' with_reducible first
      | assumption | apply resKept_next | apply State.elapse_kept | apply State.pathSend_kept | apply State.setPath_kept
      | (extract_lets +onlyGivenNames x; first | (refine State.Kept.cut (m := μ) (q := κ) (s := x) ?_ fun hx => ?_; (on_goal 2 => clear_value x); (on_goal 1 => unfold x; clear x)) | clear_value x)
      | split | (fail_if_no_progress (apply kept_mk))

theorem execHelloAckRx_kept {dt : Nat} {path crcOk : Bool} {echo sig : Bytes} {held : Nat} {s : State} (hk : s.Kept μ κ) (t_keys : μ.keys = none := by assumption) (t_twin : μ.twin = none := by assumption) :
    ResKept μ κ (execHelloAckRx dt path crcOk echo sig held s) := by
  unfold execHelloAckRx
  repeat' with_reducible first
      | assumption | apply resKept_next | apply State.elapse_kept | apply State.hingeCrcErr_kept | apply State.pathRefuse_kept
      | apply State.setPeerHash_kept | apply State.raiseOnce_kept | apply State.pathRise_kept | intro _
      | (extract_lets +onlyGivenNames x; first | (refine State.Kept.cut (m := μ) (q := κ) (s := x) ?_ fun hx => ?_; (on_goal 2 => clear_value x); (on_goal 1 => unfold x; clear x)) | (refine State.Kept.cut (m := μ) (q := κ) (s := x.2) ?_ fun hx => ?_; (on_goal 2 => clear_value x); (on_goal 1 => unfold x; clear x)) | (have _f : _ → _ := x; clear _f) | clear_value x | skip)
      | split | (fail_if_no_progress (apply kept_mk)) | (dsimp -zeta +zetaDelta only)

theorem execHelloRx_kept {dt : Nat} {path crcOk : Bool} {h : Hello} {s : State} (hk : s.Kept μ κ) (t_twin : μ.twin = none := by assumption) :
    ResKept μ κ (execHelloRx dt path crcOk h s) := by
  unfold execHelloRx
  repeat' with_reducible first
      | assumption | apply resKept_next | apply State.elapse_kept | apply State.hingeCrcErr_kept | apply State.setPath_kept
      | apply State.pathSend_kept
      | (extract_lets +onlyGivenNames x; first | (refine State.Kept.cut (m := μ) (q := κ) (s := x) ?_ fun hx => ?_; (on_goal 2 => clear_value x); (on_goal 1 => unfold x; clear x)) | clear_value x)
      | split | (fail_if_no_progress (apply kept_mk))

theorem execHelloTx_kept {dt : Nat} {path : Bool} {s : State} (hk : s.Kept μ κ) (t_masks : μ.masks = none := by assumption) (t_twin : μ.twin = none := by assumption) :
    ResKept μ κ (execHelloTx dt path s) := by
  unfold execHelloTx
  repeat' with_reducible first
      | assumption | apply resKept_next | apply State.elapse_kept | apply State.storeDraw_kept | apply State.setPath_kept
      | apply State.pathSend_kept
      | (extract_lets +onlyGivenNames x; first | (refine State.Kept.cut (m := μ) (q := κ) (s := x) ?_ fun hx => ?_; (on_goal 2 => clear_value x); (on_goal 1 => unfold x; clear x)) | (refine State.Kept.cut (m := μ) (q := κ) (s := x.2) ?_ fun hx => ?_; (on_goal 2 => clear_value x); (on_goal 1 => unfold x; clear x)) | clear_value x)
      | split | (fail_if_no_progress (apply kept_mk))

theorem execMirrorAckRx_kept {dt : Nat} {path crcOk : Bool} {seq : Nat} {s : State} (hk : s.Kept μ κ) (t_twin : μ.twin = none := by assumption) :
    ResKept μ κ (execMirrorAckRx dt path crcOk seq s) := by
  unfold execMirrorAckRx
  repeat' with_reducible first
      | assumption | apply resKept_next | apply State.elapse_kept | apply State.hingeCrcErr_kept | apply State.updTwin_kept
      | (extract_lets +onlyGivenNames x; first | (refine State.Kept.cut (m := μ) (q := κ) (s := x) ?_ fun hx => ?_; (on_goal 2 => clear_value x); (on_goal 1 => unfold x; clear x)) | (refine State.Kept.cut (m := μ) (q := κ) (s := x.2) ?_ fun hx => ?_; (on_goal 2 => clear_value x); (on_goal 1 => unfold x; clear x)) | clear_value x)
      | split | (fail_if_no_progress (apply kept_mk))

theorem execMirrorAckTx_kept {dt : Nat} {s : State} (hk : s.Kept μ κ) (t_twin : μ.twin = none := by assumption) :
    ResKept μ κ (execMirrorAckTx dt s) := by
  unfold execMirrorAckTx
  repeat' with_reducible first
      | assumption | apply resKept_next | apply State.elapse_kept | apply State.hingeSend_kept | apply State.updTwin_kept
      | (extract_lets +onlyGivenNames x; first | (refine State.Kept.cut (m := μ) (q := κ) (s := x) ?_ fun hx => ?_; (on_goal 2 => clear_value x); (on_goal 1 => unfold x; clear x)) | clear_value x)
      | split | (fail_if_no_progress (apply kept_mk))

theorem execPairedComparatorFire_kept {dt cluster unit : Nat} {s : State} (hk : s.Kept μ κ) (t_mem : μ.mem = none := by assumption) (t_past : μ.past = none := by assumption) (t_portRx : μ.portRx = none := by assumption) (t_clusterRx : μ.clusterRx = none := by assumption) (t_clusterTx : μ.clusterTx = none := by assumption) (t_portTx : μ.portTx = none := by assumption) (t_shutters : μ.shutters = none := by assumption) (t_rings : μ.rings = none := by assumption) (t_quarters : μ.quarters = none := by assumption) (t_twin : μ.twin = none := by assumption) (t_objs : μ.objs = none := by assumption) :
    ResKept μ κ (execPairedComparatorFire dt cluster unit s) := by
  unfold execPairedComparatorFire
  repeat' with_reducible first
      | assumption | apply resKept_next | apply State.elapse_kept | apply State.updTwin_kept | apply settled_kept
      | apply State.raiseOnce_kept
      | (extract_lets +onlyGivenNames x; first | (refine State.Kept.cut (m := μ) (q := κ) (s := x) ?_ fun hx => ?_; (on_goal 2 => clear_value x); (on_goal 1 => unfold x; clear x)) | clear_value x)
      | (fail_if_no_progress (apply kept_mk))

theorem execPcsOutputSwitch_kept {dt p : Nat} {s : State} (hk : s.Kept μ κ) (t_portTx : μ.portTx = none := by assumption) :
    ResKept μ κ (execPcsOutputSwitch dt p s) := by
  unfold execPcsOutputSwitch
  repeat' with_reducible first
      | assumption | apply resKept_next | apply State.elapse_kept | apply State.settleSignal_kept | apply State.setPortTx_kept
      | (extract_lets +onlyGivenNames x; first | (refine State.Kept.cut (m := μ) (q := κ) (s := x) ?_ fun hx => ?_; (on_goal 2 => clear_value x); (on_goal 1 => unfold x; clear x)) | clear_value x)
      | split | (fail_if_no_progress (apply kept_mk))

theorem execPeerAliveTimeout_kept {dt : Nat} {s : State} (hk : s.Kept μ κ) (t_twin : μ.twin = none := by assumption) :
    ResKept μ κ (execPeerAliveTimeout dt s) := by
  unfold execPeerAliveTimeout
  repeat' with_reducible first
      | assumption | apply resKept_next | apply State.elapse_kept | apply State.updTwin_kept
      | (extract_lets +onlyGivenNames x; first | (refine State.Kept.cut (m := μ) (q := κ) (s := x) ?_ fun hx => ?_; (on_goal 2 => clear_value x); (on_goal 1 => unfold x; clear x)) | clear_value x)
      | split | (fail_if_no_progress (apply kept_mk))

theorem execPeerAliveToggle_kept {dt : Nat} {s : State} (hk : s.Kept μ κ) (t_twin : μ.twin = none := by assumption) :
    ResKept μ κ (execPeerAliveToggle dt s) := by
  unfold execPeerAliveToggle
  repeat' with_reducible first
      | assumption | apply resKept_next | apply State.elapse_kept | apply State.updTwin_kept | apply State.settleStep_kept
      | (extract_lets +onlyGivenNames x; first | (refine State.Kept.cut (m := μ) (q := κ) (s := x) ?_ fun hx => ?_; (on_goal 2 => clear_value x); (on_goal 1 => unfold x; clear x)) | clear_value x)
      | split | (fail_if_no_progress (apply kept_mk))

theorem execRecordExpiry_kept {dt : Nat} {s : State} (hk : s.Kept μ κ) (t_twin : μ.twin = none := by assumption) :
    ResKept μ κ (execRecordExpiry dt s) := by
  unfold execRecordExpiry
  repeat' with_reducible first
      | assumption | apply resKept_next | apply State.elapse_kept | apply State.updTwin_kept
      | (extract_lets +onlyGivenNames x; first | (refine State.Kept.cut (m := μ) (q := κ) (s := x) ?_ fun hx => ?_; (on_goal 2 => clear_value x); (on_goal 1 => unfold x; clear x)) | clear_value x)
      | (fail_if_no_progress (apply kept_mk))

theorem execRefusedPathHoldoffEnd_kept {dt : Nat} {path : Bool} {s : State} (hk : s.Kept μ κ) (t_twin : μ.twin = none := by assumption) :
    ResKept μ κ (execRefusedPathHoldoffEnd dt path s) := by
  unfold execRefusedPathHoldoffEnd
  repeat' with_reducible first
      | assumption | apply resKept_next | apply State.elapse_kept | apply State.setPath_kept
      | (extract_lets +onlyGivenNames x; first | (refine State.Kept.cut (m := μ) (q := κ) (s := x) ?_ fun hx => ?_; (on_goal 2 => clear_value x); (on_goal 1 => unfold x; clear x)) | clear_value x)
      | split | (fail_if_no_progress (apply kept_mk))

theorem execSelMineFall_kept {dt : Nat} {s : State} (hk : s.Kept μ κ) (t_mem : μ.mem = none := by assumption) (t_past : μ.past = none := by assumption) (t_portRx : μ.portRx = none := by assumption) (t_clusterRx : μ.clusterRx = none := by assumption) (t_clusterTx : μ.clusterTx = none := by assumption) (t_portTx : μ.portTx = none := by assumption) (t_shutters : μ.shutters = none := by assumption) (t_rings : μ.rings = none := by assumption) (t_quarters : μ.quarters = none := by assumption) (t_twin : μ.twin = none := by assumption) (t_objs : μ.objs = none := by assumption) :
    ResKept μ κ (execSelMineFall dt s) := by
  unfold execSelMineFall
  repeat' with_reducible first
      | assumption | apply resKept_next | apply State.elapse_kept | apply State.updTwin_kept | apply State.setRole_kept
      | apply State.swingRelease_kept | apply State.mismatchCapture_kept
      | (extract_lets +onlyGivenNames x; first | (refine State.Kept.cut (m := μ) (q := κ) (s := x) ?_ fun hx => ?_; (on_goal 2 => clear_value x); (on_goal 1 => unfold x; clear x)) | clear_value x)
      | split | (fail_if_no_progress (apply kept_mk))

theorem execSelMineRise_kept {dt : Nat} {s : State} (hk : s.Kept μ κ) (t_mem : μ.mem = none := by assumption) (t_rows : μ.rows = none := by assumption) (t_past : μ.past = none := by assumption) (t_portRx : μ.portRx = none := by assumption) (t_clusterRx : μ.clusterRx = none := by assumption) (t_clusterTx : μ.clusterTx = none := by assumption) (t_portTx : μ.portTx = none := by assumption) (t_shutters : μ.shutters = none := by assumption) (t_rings : μ.rings = none := by assumption) (t_quarters : μ.quarters = none := by assumption) (t_twin : μ.twin = none := by assumption) (t_objs : μ.objs = none := by assumption) :
    ResKept μ κ (execSelMineRise dt s) := by
  unfold execSelMineRise
  repeat' with_reducible first
      | assumption | apply resKept_next | apply State.elapse_kept | apply State.updTwin_kept | apply settled_kept
      | apply State.takeOver_kept
      | (extract_lets +onlyGivenNames x; first | (refine State.Kept.cut (m := μ) (q := κ) (s := x) ?_ fun hx => ?_; (on_goal 2 => clear_value x); (on_goal 1 => unfold x; clear x)) | clear_value x)
      | split | (fail_if_no_progress (apply kept_mk))

theorem execStestBankTest_kept {dt unit bank : Nat} {ok last : Bool} {s : State} (hk : s.Kept μ κ) (t_mem : μ.mem = none := by assumption) (t_past : μ.past = none := by assumption) (t_portRx : μ.portRx = none := by assumption) (t_clusterRx : μ.clusterRx = none := by assumption) (t_clusterTx : μ.clusterTx = none := by assumption) (t_portTx : μ.portTx = none := by assumption) (t_shutters : μ.shutters = none := by assumption) (t_rings : μ.rings = none := by assumption) (t_quarters : μ.quarters = none := by assumption) (t_twin : μ.twin = none := by assumption) (t_objs : μ.objs = none := by assumption) :
    ResKept μ κ (execStestBankTest dt unit bank ok last s) := by
  unfold execStestBankTest
  repeat' with_reducible first
      | assumption | apply resKept_next | apply State.elapse_kept | apply State.bankFailed_kept | apply settled_kept | apply State.bump_kept
      | (extract_lets +onlyGivenNames x; first | (refine State.Kept.cut (m := μ) (q := κ) (s := x) ?_ fun hx => ?_; (on_goal 2 => clear_value x); (on_goal 1 => unfold x; clear x)) | clear_value x)
      | split

theorem execSwapLatch_kept {dt p : Nat} {upset : Option Nat} {s : State} (hk : s.Kept μ κ) (t_mem : μ.mem = none := by assumption) (t_past : μ.past = none := by assumption) (t_portRx : μ.portRx = none := by assumption) (t_clusterRx : μ.clusterRx = none := by assumption) (t_clusterTx : μ.clusterTx = none := by assumption) (t_portTx : μ.portTx = none := by assumption) (t_shutters : μ.shutters = none := by assumption) (t_rings : μ.rings = none := by assumption) (t_quarters : μ.quarters = none := by assumption) (t_twin : μ.twin = none := by assumption) (t_objs : μ.objs = none := by assumption) :
    ResKept μ κ (execSwapLatch dt p upset s) := by
  unfold execSwapLatch
  repeat' with_reducible first
      | assumption | apply resKept_next | apply State.elapse_kept | apply State.shutterEcc_kept | apply settled_kept
      | apply State.latchSwap_kept
      | (extract_lets +onlyGivenNames x; first | (refine State.Kept.cut (m := μ) (q := κ) (s := x) ?_ fun hx => ?_; (on_goal 2 => clear_value x); (on_goal 1 => unfold x; clear x)) | clear_value x)
      | split

theorem execWdxAliveToggle_kept {dt : Nat} {s : State} (hk : s.Kept μ κ) (t_twin : μ.twin = none := by assumption) :
    ResKept μ κ (execWdxAliveToggle dt s) := by
  unfold execWdxAliveToggle
  repeat' with_reducible first
      | assumption | apply resKept_next | apply State.elapse_kept | apply State.updTwin_kept
      | (extract_lets +onlyGivenNames x; first | (refine State.Kept.cut (m := μ) (q := κ) (s := x) ?_ fun hx => ?_; (on_goal 2 => clear_value x); (on_goal 1 => unfold x; clear x)) | clear_value x)
      | split | (fail_if_no_progress (apply kept_mk))

end Sys2Proof.Machine
end

