-- ==== Sys2Proof/Laws/KeptRows.lean ====
section
/-!
SUPPORT. What the operations of Machine/Rows.lean keep.
-/
set_option linter.unusedTactic false
set_option linter.unreachableTactic false
set_option linter.unusedVariables false
set_option linter.tactic.unusedName false
namespace Sys2Proof.Machine
variable {μ : Marks} {κ : List Instr}

theorem State.landAdopt_kept {s : State} (hk : s.Kept μ κ) (t_mem : μ.mem = none := by assumption) (t_past : μ.past = none := by assumption) (t_keys : μ.keys = none := by assumption) (t_portRx : μ.portRx = none := by assumption) (t_clusterRx : μ.clusterRx = none := by assumption) (t_clusterTx : μ.clusterTx = none := by assumption) (t_portTx : μ.portTx = none := by assumption) (t_shutters : μ.shutters = none := by assumption) (t_rings : μ.rings = none := by assumption) (t_quarters : μ.quarters = none := by assumption) (t_twin : μ.twin = none := by assumption) (t_objs : μ.objs = none := by assumption) :
    (State.landAdopt s).Kept μ κ := by
  unfold State.landAdopt
  repeat' with_reducible first
      | assumption | apply State.raise_kept | apply State.updKeys_kept | apply State.settleFaults_kept | apply State.setRole_kept
      | apply State.updTwin_kept
      | (extract_lets +onlyGivenNames x; first | (refine State.Kept.cut (m := μ) (q := κ) (s := x) ?_ fun hx => ?_; (on_goal 2 => clear_value x); (on_goal 1 => unfold x; clear x)) | clear_value x)
      | split | (fail_if_no_progress (apply kept_mk))

theorem State.landNonce_kept {s : State} {v : Word} (hk : s.Kept μ κ) (t_keys : μ.keys = none := by assumption) :
    (State.landNonce s v).Kept μ κ := by
  unfold State.landNonce
  repeat' with_reducible first
      | assumption | apply State.updKeys_kept
      | (extract_lets +onlyGivenNames x; first | (refine State.Kept.cut (m := μ) (q := κ) (s := x) ?_ fun hx => ?_; (on_goal 2 => clear_value x); (on_goal 1 => unfold x; clear x)) | clear_value x)
      | split | (fail_if_no_progress (apply kept_mk))

theorem execAttestReady_kept {dt : Nat} {s : State} (hk : s.Kept μ κ) (t_keys : μ.keys = none := by assumption) :
    ResKept μ κ (execAttestReady dt s) := by
  unfold execAttestReady
  repeat' with_reducible first
      | assumption | apply resKept_next | apply State.elapse_kept | apply State.raise_kept | apply State.updKeys_kept
      | (extract_lets +onlyGivenNames x; first | (refine State.Kept.cut (m := μ) (q := κ) (s := x) ?_ fun hx => ?_; (on_goal 2 => clear_value x); (on_goal 1 => unfold x; clear x)) | clear_value x)
      | split | (fail_if_no_progress (apply kept_mk))

end Sys2Proof.Machine
end

