-- ==== Sys2Proof/Laws/KeptPower.lean ====
section
/-!
SUPPORT. What the operations of Machine/Power.lean keep.
-/
set_option linter.unusedTactic false
set_option linter.unreachableTactic false
set_option linter.unusedVariables false
set_option linter.tactic.unusedName false
namespace Sys2Proof.Machine
variable {μ : Marks} {κ : List Instr}

theorem State.bootUp_kept {s : State} (hk : s.Kept μ κ) : (State.bootUp s).Kept μ κ := by
  unfold State.bootUp
  repeat' with_reducible first
      | assumption | apply State.requestOn_kept
      | (extract_lets +onlyGivenNames x; first | (refine State.Kept.cut (m := μ) (q := κ) (s := x) ?_ fun hx => ?_; (on_goal 2 => clear_value x); (on_goal 1 => unfold x; clear x)) | clear_value x)
      | (fail_if_no_progress (apply kept_mk))

theorem State.canHealth_kept {s : State} (hk : s.Kept μ κ) (t_dict : μ.dict = none := by assumption) : (State.canHealth s).Kept μ κ := by
  unfold State.canHealth
  repeat' with_reducible first
      | assumption | apply State.freshBytes_kept | apply State.emit_kept
      | (extract_lets +onlyGivenNames x; first | (refine State.Kept.cut (m := μ) (q := κ) (s := x) ?_ fun hx => ?_; (on_goal 2 => clear_value x); (on_goal 1 => unfold x; clear x)) | (refine State.Kept.cut (m := μ) (q := κ) (s := x.2) ?_ fun hx => ?_; (on_goal 2 => clear_value x); (on_goal 1 => unfold x; clear x)) | clear_value x)
      | split | apply kept_dict | (fail_if_no_progress (apply kept_mk))

theorem State.clearCaptures_kept {s : State} {c : Nat} (hk : s.Kept μ κ) (t_clusterRx : μ.clusterRx = none := by assumption) (t_clusterTx : μ.clusterTx = none := by assumption) :
    (State.clearCaptures s c).Kept μ κ := by
  unfold State.clearCaptures
  repeat' with_reducible first
      | assumption | apply State.updClTx_kept | apply State.updClRx_kept
      | (extract_lets +onlyGivenNames x; first | (refine State.Kept.cut (m := μ) (q := κ) (s := x) ?_ fun hx => ?_; (on_goal 2 => clear_value x); (on_goal 1 => unfold x; clear x)) | clear_value x)
      | (fail_if_no_progress (apply kept_mk))

theorem State.clearWindows_kept {s : State} {f : Nat → Bool} (hk : s.Kept μ κ) (t_dict : μ.dict = none := by assumption) :
    (State.clearWindows s f).Kept μ κ := by
  unfold State.clearWindows
  repeat' with_reducible first
      | assumption
      | (extract_lets +onlyGivenNames x; first | (refine State.Kept.cut (m := μ) (q := κ) (s := x) ?_ fun hx => ?_; (on_goal 2 => clear_value x); (on_goal 1 => unfold x; clear x)) | clear_value x)
      | apply kept_dict | (fail_if_no_progress (apply kept_mk))

theorem State.shutterDown_kept {s : State} {p : Nat} (hk : s.Kept μ κ) (t_shutters : μ.shutters = none := by assumption) (t_objs : μ.objs = none := by assumption) :
    (State.shutterDown s p).Kept μ κ := by
  unfold State.shutterDown
  repeat' with_reducible first
      | assumption | apply State.closeShutter_kept | apply State.setReg_kept | apply State.landGateEnable_kept
      | (extract_lets +onlyGivenNames x; first | (refine State.Kept.cut (m := μ) (q := κ) (s := x) ?_ fun hx => ?_; (on_goal 2 => clear_value x); (on_goal 1 => unfold x; clear x)) | clear_value x)
      | split

theorem State.portDown_kept {s : State} {p : Nat} (hk : s.Kept μ κ) (t_mem : μ.mem = none := by assumption) (t_rows : μ.rows = none := by assumption) (t_past : μ.past = none := by assumption) (t_dict : μ.dict = none := by assumption) (t_keys : μ.keys = none := by assumption) (t_masks : μ.masks = none := by assumption) (t_portRx : μ.portRx = none := by assumption) (t_clusterRx : μ.clusterRx = none := by assumption) (t_clusterTx : μ.clusterTx = none := by assumption) (t_portTx : μ.portTx = none := by assumption) (t_shutters : μ.shutters = none := by assumption) (t_rings : μ.rings = none := by assumption) (t_quarters : μ.quarters = none := by assumption) (t_twin : μ.twin = none := by assumption) (t_objs : μ.objs = none := by assumption) :
    (State.portDown s p).Kept μ κ := by
  unfold State.portDown
  repeat' with_reducible first
      | assumption | apply State.closePort_kept | apply State.updPort_kept | split | (fail_if_no_progress (apply kept_mk))

theorem State.closeCluster_kept {s : State} {c : Nat} (hk : s.Kept μ κ) (t_mem : μ.mem = none := by assumption) (t_rows : μ.rows = none := by assumption) (t_past : μ.past = none := by assumption) (t_dict : μ.dict = none := by assumption) (t_keys : μ.keys = none := by assumption) (t_masks : μ.masks = none := by assumption) (t_portRx : μ.portRx = none := by assumption) (t_clusterRx : μ.clusterRx = none := by assumption) (t_clusterTx : μ.clusterTx = none := by assumption) (t_portTx : μ.portTx = none := by assumption) (t_shutters : μ.shutters = none := by assumption) (t_rings : μ.rings = none := by assumption) (t_quarters : μ.quarters = none := by assumption) (t_twin : μ.twin = none := by assumption) (t_objs : μ.objs = none := by assumption) :
    (State.closeCluster s c).Kept μ κ := by
  unfold State.closeCluster
  repeat' with_reducible first
      | assumption | apply State.setClp_kept | apply State.shutterDown_kept | apply State.portDown_kept | apply foldl_kept | intro _
      | (extract_lets +onlyGivenNames x; first | (refine State.Kept.cut (m := μ) (q := κ) (s := x) ?_ fun hx => ?_; (on_goal 2 => clear_value x); (on_goal 1 => unfold x; clear x)) | clear_value x)
      | (fail_if_no_progress (apply kept_mk))

theorem State.closeFunctions_kept {s : State} {n : Nat} (hk : s.Kept μ κ) (t_clusterRx : μ.clusterRx = none := by assumption) (t_rings : μ.rings = none := by assumption) (t_twin : μ.twin = none := by assumption) :
    (State.closeFunctions s n).2.Kept μ κ := by
  unfold State.closeFunctions
  repeat' with_reducible first
      | assumption | apply State.closeRing_kept | apply State.setRing_kept | apply State.snapRelease_kept | apply State.closeHinge_kept
      | apply State.updTwin_kept | apply State.sweepPause_kept | apply foldl_kept | apply foldl_kept_snd | apply foldl_kept_mid
      | apply foldl_resKept | apply foldl_pairKept | apply foldl_slotKept | intro _
      | (extract_lets +onlyGivenNames x; first | (refine State.Kept.cut (m := μ) (q := κ) (s := x) ?_ fun hx => ?_; (on_goal 2 => clear_value x); (on_goal 1 => unfold x; clear x)) | (refine State.Kept.cut (m := μ) (q := κ) (s := x.2) ?_ fun hx => ?_; (on_goal 2 => clear_value x); (on_goal 1 => unfold x; clear x)) | (have _f : _ → _ := x; clear _f) | clear_value x | skip)
      | split | (fail_if_no_progress (apply kept_mk)) | (dsimp -zeta +zetaDelta only)

theorem State.enterListen_kept {s : State} {c : Nat} (hk : s.Kept μ κ) (t_portRx : μ.portRx = none := by assumption) (t_clusterTx : μ.clusterTx = none := by assumption) :
    (State.enterListen s c).Kept μ κ := by
  unfold State.enterListen
  repeat' with_reducible first
      | assumption | apply State.setClp_kept | apply State.stopTimers_kept | apply foldl_kept | intro _
      | (extract_lets +onlyGivenNames x; first | (refine State.Kept.cut (m := μ) (q := κ) (s := x) ?_ fun hx => ?_; (on_goal 2 => clear_value x); (on_goal 1 => unfold x; clear x)) | clear_value x)
      | split | (fail_if_no_progress (apply kept_mk))

theorem State.settleCluster_kept {s : State} {c : Nat} (hk : s.Kept μ κ) (t_mem : μ.mem = none := by assumption) (t_rows : μ.rows = none := by assumption) (t_past : μ.past = none := by assumption) (t_dict : μ.dict = none := by assumption) (t_keys : μ.keys = none := by assumption) (t_masks : μ.masks = none := by assumption) (t_portRx : μ.portRx = none := by assumption) (t_clusterRx : μ.clusterRx = none := by assumption) (t_clusterTx : μ.clusterTx = none := by assumption) (t_portTx : μ.portTx = none := by assumption) (t_shutters : μ.shutters = none := by assumption) (t_rings : μ.rings = none := by assumption) (t_quarters : μ.quarters = none := by assumption) (t_twin : μ.twin = none := by assumption) (t_objs : μ.objs = none := by assumption) :
    (State.settleCluster s c).Kept μ κ := by
  unfold State.settleCluster
  repeat' with_reducible first
      | assumption | apply State.setClp_kept | apply State.sweepResume_kept | apply State.updTwin_kept | apply State.raise_kept
      | apply State.bump_kept | apply State.openPort_kept | apply State.shutBegin_kept | apply State.closeCluster_kept
      | apply State.enterListen_kept | apply State.setReg_kept | apply foldl_kept | intro _
      | (extract_lets +onlyGivenNames x; first | (refine State.Kept.cut (m := μ) (q := κ) (s := x) ?_ fun hx => ?_; (on_goal 2 => clear_value x); (on_goal 1 => unfold x; clear x)) | clear_value x)
      | split | (fail_if_no_progress (apply kept_mk))

theorem State.clusterReset_kept {s : State} {c : Nat} {warm : Bool} {cuts : List (Nat × CutFrame)} (hk : s.Kept μ κ) (t_mem : μ.mem = none := by assumption) (t_rows : μ.rows = none := by assumption) (t_past : μ.past = none := by assumption) (t_dict : μ.dict = none := by assumption) (t_keys : μ.keys = none := by assumption) (t_masks : μ.masks = none := by assumption) (t_portRx : μ.portRx = none := by assumption) (t_clusterRx : μ.clusterRx = none := by assumption) (t_clusterTx : μ.clusterTx = none := by assumption) (t_portTx : μ.portTx = none := by assumption) (t_shutters : μ.shutters = none := by assumption) (t_rings : μ.rings = none := by assumption) (t_quarters : μ.quarters = none := by assumption) (t_twin : μ.twin = none := by assumption) (t_objs : μ.objs = none := by assumption) :
    (State.clusterReset s c warm cuts).Kept μ κ := by
  unfold State.clusterReset
  repeat' with_reducible first
      | assumption | apply State.wakeCluster_kept | apply State.setReg_kept | apply State.portReset_kept | apply State.shutReset_kept
      | apply State.doorReset_kept | apply State.schedWarm_kept | apply State.calClusterReset_kept | apply State.metersFull_kept
      | apply State.updClRx_kept | apply State.updClTx_kept | apply State.clearCaptures_kept | apply State.setClp_kept
      | apply State.settleCluster_kept | apply foldl_kept | intro _
      | (extract_lets +onlyGivenNames x; first | (refine State.Kept.cut (m := μ) (q := κ) (s := x) ?_ fun hx => ?_; (on_goal 2 => clear_value x); (on_goal 1 => unfold x; clear x)) | clear_value x)
      | split | (fail_if_no_progress (apply kept_mk))

theorem State.coldState_kept {s : State} {por : Bool} (hk : s.Kept μ κ) (t_rows : μ.rows = none := by assumption) (t_past : μ.past = none := by assumption) (t_dict : μ.dict = none := by assumption) (t_keys : μ.keys = none := by assumption) (t_masks : μ.masks = none := by assumption) (t_portRx : μ.portRx = none := by assumption) (t_clusterRx : μ.clusterRx = none := by assumption) (t_clusterTx : μ.clusterTx = none := by assumption) (t_portTx : μ.portTx = none := by assumption) (t_shutters : μ.shutters = none := by assumption) (t_rings : μ.rings = none := by assumption) (t_quarters : μ.quarters = none := by assumption) (t_twin : μ.twin = none := by assumption) (t_time : μ.time = none := by assumption) (t_objs : μ.objs = none := by assumption) :
    (State.coldState s por).Kept μ κ := by
  unfold State.coldState
  dsimp only
  refine { canonMem := hk.canonMem, canonRegs := SMap.canon_nil _, canonRows := rfl, canonCtrs := ?_, queue := hk.queue, mem := hk.mem,
           laneLock := hk.laneLock, rows := .none (by assumption), past := .none (by assumption), masks := .none (by assumption), dict := .none (by assumption), keys := .none (by assumption),
           portRx := .none (by assumption), clusterRx := .none (by assumption), clusterTx := .none (by assumption),
           portTx := .none (by assumption), shutters := .none (by assumption), rings := .none (by assumption),
           quarters := .none (by assumption), twin := .none (by assumption), time := .none (by assumption),
           objs := fun y e => absurd (t_objs.symm.trans e).symm (Option.some_ne_none y) }
  dsimp only
  split
  · exact SMap.canon_nil _
  · exact SMap.canon_set _ (SMap.canon_nil _) rfl

theorem State.resetDone_kept {s : State} {j : ResetJob} (hk : s.Kept μ κ) : (State.resetDone s j).Kept μ κ := by
  unfold State.resetDone
  repeat' with_reducible first
      | assumption | apply State.bump_kept | apply State.raise_kept
      | (extract_lets +onlyGivenNames x; first | (refine State.Kept.cut (m := μ) (q := κ) (s := x) ?_ fun hx => ?_; (on_goal 2 => clear_value x); (on_goal 1 => unfold x; clear x)) | clear_value x)
      | split | (fail_if_no_progress (apply kept_mk))

theorem State.settleBoot_kept {s : State} (hk : s.Kept μ κ) (t_time : μ.time = none := by assumption) : (State.settleBoot s).Kept μ κ := by
  unfold State.settleBoot
  repeat' with_reducible first
      | assumption | apply State.bootUp_kept | apply State.beginSwitch_kept | apply State.requestOn_kept | apply State.resetDone_kept
      | apply foldl_kept | intro _
      | (extract_lets +onlyGivenNames x; first | (refine State.Kept.cut (m := μ) (q := κ) (s := x) ?_ fun hx => ?_; (on_goal 2 => clear_value x); (on_goal 1 => unfold x; clear x)) | (refine State.Kept.cut (m := μ) (q := κ) (s := x.2) ?_ fun hx => ?_; (on_goal 2 => clear_value x); (on_goal 1 => unfold x; clear x)) | clear_value x)
      | split | apply kept_time | (fail_if_no_progress (apply kept_mk))

theorem State.coldReset_kept {s : State} {j : ResetJob} (hk : s.Kept μ κ) (t_mem : μ.mem = none := by assumption) (t_rows : μ.rows = none := by assumption) (t_past : μ.past = none := by assumption) (t_dict : μ.dict = none := by assumption) (t_keys : μ.keys = none := by assumption) (t_masks : μ.masks = none := by assumption) (t_portRx : μ.portRx = none := by assumption) (t_clusterRx : μ.clusterRx = none := by assumption) (t_clusterTx : μ.clusterTx = none := by assumption) (t_portTx : μ.portTx = none := by assumption) (t_shutters : μ.shutters = none := by assumption) (t_rings : μ.rings = none := by assumption) (t_quarters : μ.quarters = none := by assumption) (t_twin : μ.twin = none := by assumption) (t_time : μ.time = none := by assumption) (t_objs : μ.objs = none := by assumption) :
    (State.coldReset s j).Kept μ κ := by
  unfold State.coldReset
  repeat' with_reducible first
      | assumption | apply State.coldState_kept | apply State.swingRelease_kept | apply State.settleBoot_kept | apply State.beginSwitch_kept
      | apply foldl_kept | intro _
      | (extract_lets +onlyGivenNames x; first | (refine State.Kept.cut (m := μ) (q := κ) (s := x) ?_ fun hx => ?_; (on_goal 2 => clear_value x); (on_goal 1 => unfold x; clear x)) | (refine State.Kept.cut (m := μ) (q := κ) (s := x.2) ?_ fun hx => ?_; (on_goal 2 => clear_value x); (on_goal 1 => unfold x; clear x)) | clear_value x)
      | split | (fail_if_no_progress (apply kept_mk))

theorem State.timeReturn_kept {s : State} {fromOff : Bool} (hk : s.Kept μ κ) (t_time : μ.time = none := by assumption) :
    (State.timeReturn s fromOff).Kept μ κ := by
  unfold State.timeReturn
  extract_lets t adv s1 t1 s2
  have h2 : s2.Kept μ κ := kept_time (kept_time hk t_time) t_time
  split
  · exact h2
  · exact State.raise_kept (State.setTimeState_kept h2)

theorem State.domainBack_kept {s : State} {n : Nat} (hk : s.Kept μ κ) (t_keys : μ.keys = none := by assumption) (t_clusterRx : μ.clusterRx = none := by assumption) (t_clusterTx : μ.clusterTx = none := by assumption) (t_shutters : μ.shutters = none := by assumption) (t_twin : μ.twin = none := by assumption) (t_time : μ.time = none := by assumption) (t_objs : μ.objs = none := by assumption) :
    (State.domainBack s n).Kept μ κ := by
  unfold State.domainBack
  repeat' with_reducible first
      | assumption | apply State.setDom_kept | apply State.doorSchedule_kept | apply State.sweepResume_kept | apply State.reloadKeys_kept
      | apply State.setReg_kept | apply State.shutReturn_kept | apply State.schedReturn_kept | apply State.metersFull_kept
      | apply State.timeReturn_kept | apply State.evtReturn_kept | apply State.openHinge_kept | apply State.updKeys_kept | apply foldl_kept
      | intro _
      | (extract_lets +onlyGivenNames x; first | (refine State.Kept.cut (m := μ) (q := κ) (s := x) ?_ fun hx => ?_; (on_goal 2 => clear_value x); (on_goal 1 => unfold x; clear x)) | clear_value x)
      | split | (fail_if_no_progress (apply kept_mk))

theorem State.goDown_kept {s : State} {n : Nat} {goal : Pwr} (hk : s.Kept μ κ) (t_clusterRx : μ.clusterRx = none := by assumption) (t_rings : μ.rings = none := by assumption) (t_twin : μ.twin = none := by assumption) :
    (State.goDown s n goal).Kept μ κ := by
  unfold State.goDown
  repeat' with_reducible first
      | assumption | apply State.beginSwitch_kept | apply State.closeFunctions_kept | apply State.setDom_kept
      | (extract_lets +onlyGivenNames x; first | (refine State.Kept.cut (m := μ) (q := κ) (s := x) ?_ fun hx => ?_; (on_goal 2 => clear_value x); (on_goal 1 => unfold x; clear x)) | (refine State.Kept.cut (m := μ) (q := κ) (s := x.2) ?_ fun hx => ?_; (on_goal 2 => clear_value x); (on_goal 1 => unfold x; clear x)) | clear_value x)
      | split | (fail_if_no_progress (apply kept_mk))

theorem State.requestDomain_kept {s : State} {n : Nat} {goal : Pwr} (hk : s.Kept μ κ) (t_clusterRx : μ.clusterRx = none := by assumption) (t_rings : μ.rings = none := by assumption) (t_twin : μ.twin = none := by assumption) :
    (State.requestDomain s n goal).Kept μ κ := by
  unfold State.requestDomain
  repeat' with_reducible first
      | assumption | apply State.requestOn_kept | apply State.setDom_kept | apply State.goDown_kept
      | (extract_lets +onlyGivenNames x; first | (refine State.Kept.cut (m := μ) (q := κ) (s := x) ?_ fun hx => ?_; (on_goal 2 => clear_value x); (on_goal 1 => unfold x; clear x)) | clear_value x)
      | split | (fail_if_no_progress (apply kept_mk))

theorem State.landDomain_kept {s : State} {n : Nat} {goal : Pwr} {via : Option Transport} (hk : s.Kept μ κ) (t_keys : μ.keys = none := by assumption) (t_clusterRx : μ.clusterRx = none := by assumption) (t_clusterTx : μ.clusterTx = none := by assumption) (t_shutters : μ.shutters = none := by assumption) (t_rings : μ.rings = none := by assumption) (t_twin : μ.twin = none := by assumption) (t_time : μ.time = none := by assumption) (t_objs : μ.objs = none := by assumption) :
    (State.landDomain s n goal via).Kept μ κ := by
  unfold State.landDomain
  repeat' with_reducible first
      | assumption | apply State.setDom_kept | apply State.domainBack_kept | apply State.requestDomain_kept
      | (extract_lets +onlyGivenNames x; first | (refine State.Kept.cut (m := μ) (q := κ) (s := x) ?_ fun hx => ?_; (on_goal 2 => clear_value x); (on_goal 1 => unfold x; clear x)) | clear_value x)
      | split | (fail_if_no_progress (apply kept_mk))

theorem State.settleSleep_kept {s : State} (hk : s.Kept μ κ) (t_clusterRx : μ.clusterRx = none := by assumption) (t_rings : μ.rings = none := by assumption) (t_twin : μ.twin = none := by assumption) :
    (State.settleSleep s).Kept μ κ := by
  unfold State.settleSleep
  repeat' with_reducible first
      | assumption | apply State.requestDomain_kept | apply State.raise_kept
      | (extract_lets +onlyGivenNames x; first | (refine State.Kept.cut (m := μ) (q := κ) (s := x) ?_ fun hx => ?_; (on_goal 2 => clear_value x); (on_goal 1 => unfold x; clear x)) | clear_value x)
      | split | (fail_if_no_progress (apply kept_mk))

theorem State.twinWarm_kept {s : State} (hk : s.Kept μ κ) (t_twin : μ.twin = none := by assumption) : (State.twinWarm s).Kept μ κ := by
  unfold State.twinWarm
  repeat' with_reducible first
      | assumption | apply State.closeHinge_kept | apply State.updTwin_kept | apply State.setRole_kept | apply State.openHinge_kept
      | (extract_lets +onlyGivenNames x; first | (refine State.Kept.cut (m := μ) (q := κ) (s := x) ?_ fun hx => ?_; (on_goal 2 => clear_value x); (on_goal 1 => unfold x; clear x)) | clear_value x)
      | split | (fail_if_no_progress (apply kept_mk))

theorem State.everyReset_kept {s : State} (hk : s.Kept μ κ) (t_dict : μ.dict = none := by assumption) (t_quarters : μ.quarters = none := by assumption) (t_twin : μ.twin = none := by assumption) :
    (State.everyReset s).Kept μ κ := by
  unfold State.everyReset
  repeat' with_reducible first
      | assumption | apply State.updTwin_kept | apply State.setQuarter_kept | apply State.snapRelease_kept | apply foldl_kept | intro _
      | (extract_lets +onlyGivenNames x; first | (refine State.Kept.cut (m := μ) (q := κ) (s := x) ?_ fun hx => ?_; (on_goal 2 => clear_value x); (on_goal 1 => unfold x; clear x)) | clear_value x)
      | split | apply kept_dict | (fail_if_no_progress (apply kept_mk))

theorem State.warmReset_kept {s : State} {cuts : List (Nat × CutFrame)} (hk : s.Kept μ κ) (t_mem : μ.mem = none := by assumption) (t_rows : μ.rows = none := by assumption) (t_past : μ.past = none := by assumption) (t_dict : μ.dict = none := by assumption) (t_keys : μ.keys = none := by assumption) (t_masks : μ.masks = none := by assumption) (t_portRx : μ.portRx = none := by assumption) (t_clusterRx : μ.clusterRx = none := by assumption) (t_clusterTx : μ.clusterTx = none := by assumption) (t_portTx : μ.portTx = none := by assumption) (t_shutters : μ.shutters = none := by assumption) (t_rings : μ.rings = none := by assumption) (t_quarters : μ.quarters = none := by assumption) (t_twin : μ.twin = none := by assumption) (t_objs : μ.objs = none := by assumption) :
    (State.warmReset s cuts).Kept μ κ := by
  unfold State.warmReset
  repeat' with_reducible first
      | assumption | apply State.swingRelease_kept | apply State.ringsClosed_kept | apply State.emptyRings_kept
      | apply State.idleSources_kept | apply State.clusterReset_kept | apply State.clearWindows_kept | apply State.twinWarm_kept
      | apply State.everyReset_kept | apply State.sampleLevel_kept | apply foldl_kept | intro _
      | (extract_lets +onlyGivenNames x; first | (refine State.Kept.cut (m := μ) (q := κ) (s := x) ?_ fun hx => ?_; (on_goal 2 => clear_value x); (on_goal 1 => unfold x; clear x)) | clear_value x)
      | split | apply kept_dict | (fail_if_no_progress (apply kept_mk))

theorem State.onePortReset_kept {s : State} {p : Nat} {cut : Option CutFrame} (hk : s.Kept μ κ) (t_mem : μ.mem = none := by assumption) (t_rows : μ.rows = none := by assumption) (t_past : μ.past = none := by assumption) (t_dict : μ.dict = none := by assumption) (t_keys : μ.keys = none := by assumption) (t_masks : μ.masks = none := by assumption) (t_portRx : μ.portRx = none := by assumption) (t_clusterRx : μ.clusterRx = none := by assumption) (t_clusterTx : μ.clusterTx = none := by assumption) (t_portTx : μ.portTx = none := by assumption) (t_shutters : μ.shutters = none := by assumption) (t_rings : μ.rings = none := by assumption) (t_quarters : μ.quarters = none := by assumption) (t_twin : μ.twin = none := by assumption) (t_objs : μ.objs = none := by assumption) :
    (State.onePortReset s p cut).Kept μ κ := by
  unfold State.onePortReset
  repeat' with_reducible first
      | assumption | apply State.shutReset_kept | apply State.schedPortReset_kept | apply State.portReset_kept
      | apply State.clearCaptures_kept | apply State.doorReset_kept | apply State.portReopen_kept | apply State.shutRestart_kept
      | (extract_lets +onlyGivenNames x; first | (refine State.Kept.cut (m := μ) (q := κ) (s := x) ?_ fun hx => ?_; (on_goal 2 => clear_value x); (on_goal 1 => unfold x; clear x)) | clear_value x)

theorem State.unitsCold_kept {s : State} (hk : s.Kept μ κ) (t_rows : μ.rows = none := by assumption) (t_past : μ.past = none := by assumption) (t_portRx : μ.portRx = none := by assumption) (t_clusterRx : μ.clusterRx = none := by assumption) (t_clusterTx : μ.clusterTx = none := by assumption) (t_portTx : μ.portTx = none := by assumption) (t_shutters : μ.shutters = none := by assumption) (t_rings : μ.rings = none := by assumption) (t_quarters : μ.quarters = none := by assumption) :
    (State.unitsCold s).Kept μ κ := by
  unfold State.unitsCold
  exact { hk with canonRows := rfl, rows := .none t_rows, portRx := .none t_portRx, clusterRx := .none t_clusterRx,
                  clusterTx := .none t_clusterTx, portTx := .none t_portTx, shutters := .none t_shutters, rings := .none t_rings,
                  quarters := .none t_quarters, past := .none t_past }

theorem State.twinCold_kept {s : State} (hk : s.Kept μ κ) (t_twin : μ.twin = none := by assumption) : (State.twinCold s).Kept μ κ := by
  unfold State.twinCold
  repeat' with_reducible first
      | assumption | apply State.updTwin_kept | (fail_if_no_progress (apply kept_mk))

theorem State.restoreReset_kept {s : State} {cuts : List (Nat × CutFrame)} (hk : s.Kept μ κ) (t_mem : μ.mem = none := by assumption) (t_rows : μ.rows = none := by assumption) (t_past : μ.past = none := by assumption) (t_dict : μ.dict = none := by assumption) (t_keys : μ.keys = none := by assumption) (t_masks : μ.masks = none := by assumption) (t_portRx : μ.portRx = none := by assumption) (t_clusterRx : μ.clusterRx = none := by assumption) (t_clusterTx : μ.clusterTx = none := by assumption) (t_portTx : μ.portTx = none := by assumption) (t_shutters : μ.shutters = none := by assumption) (t_rings : μ.rings = none := by assumption) (t_quarters : μ.quarters = none := by assumption) (t_twin : μ.twin = none := by assumption) (t_time : μ.time = none := by assumption) (t_objs : μ.objs = none := by assumption) :
    (State.restoreReset s cuts).Kept μ κ := by
  unfold State.restoreReset
  extract_lets s1 s2 s3 s4 s5 s6 s7 s8 s9 st s10 wanted
  have h1 : s1.Kept μ κ := by
    unfold s1
    split
    · exact State.swingRelease_kept hk
    · exact hk
  clear_value s1
  have h2 : s2.Kept μ κ := foldl_kept h1 fun _ _ h => State.portReset_kept h
  clear_value s2
  have h4 : s4.Kept μ κ := State.unitsCold_kept (State.updKeys_kept (State.eraseKeys_kept h2))
  clear_value s4
  have h5 : s5.Kept μ κ := { h4 with canonRegs := SMap.canon_nil _, objs := fun y e => absurd (t_objs.symm.trans e).symm (Option.some_ne_none y) }
  clear_value s5
  have h7 : s7.Kept μ κ := foldl_kept (State.clearCtrs_kept h5) fun _ _ h => State.doorCold_kept h
  clear_value s7
  have h8 : s8.Kept μ κ := kept_dict h7 t_dict
  clear_value s8
  have h9 : s9.Kept μ κ := State.twinCold_kept (State.everyReset_kept h8)
  clear_value s9
  have h10 : s10.Kept μ κ := by
    unfold s10
    split
    · exact State.setTimeState_kept h9
    · exact h9
  exact foldl_kept h10 fun _ _ h => State.setDom_kept (State.requestDomain_kept h)

theorem State.runReset_kept {s : State} {j : ResetJob} {cuts : List (Nat × CutFrame)} (hk : s.Kept μ κ) (t_mem : μ.mem = none := by assumption) (t_rows : μ.rows = none := by assumption) (t_past : μ.past = none := by assumption) (t_dict : μ.dict = none := by assumption) (t_keys : μ.keys = none := by assumption) (t_masks : μ.masks = none := by assumption) (t_portRx : μ.portRx = none := by assumption) (t_clusterRx : μ.clusterRx = none := by assumption) (t_clusterTx : μ.clusterTx = none := by assumption) (t_portTx : μ.portTx = none := by assumption) (t_shutters : μ.shutters = none := by assumption) (t_rings : μ.rings = none := by assumption) (t_quarters : μ.quarters = none := by assumption) (t_twin : μ.twin = none := by assumption) (t_time : μ.time = none := by assumption) (t_objs : μ.objs = none := by assumption) :
    (State.runReset s j cuts).Kept μ κ := by
  unfold State.runReset
  repeat' with_reducible first
      | assumption | apply State.coldReset_kept | apply State.resetDone_kept | apply State.warmReset_kept | apply State.clearWindows_kept
      | apply State.clusterReset_kept | apply State.everyReset_kept | apply State.onePortReset_kept | apply State.restoreReset_kept | split

theorem State.domainDone_kept {s : State} {n : Nat} (hk : s.Kept μ κ) (t_mem : μ.mem = none := by assumption) (t_rows : μ.rows = none := by assumption) (t_past : μ.past = none := by assumption) (t_dict : μ.dict = none := by assumption) (t_keys : μ.keys = none := by assumption) (t_masks : μ.masks = none := by assumption) (t_portRx : μ.portRx = none := by assumption) (t_clusterRx : μ.clusterRx = none := by assumption) (t_clusterTx : μ.clusterTx = none := by assumption) (t_portTx : μ.portTx = none := by assumption) (t_shutters : μ.shutters = none := by assumption) (t_rings : μ.rings = none := by assumption) (t_quarters : μ.quarters = none := by assumption) (t_twin : μ.twin = none := by assumption) (t_time : μ.time = none := by assumption) (t_objs : μ.objs = none := by assumption) :
    (State.domainDone s n).Kept μ κ := by
  unfold State.domainDone
  repeat' with_reducible first
      | assumption | apply State.setDom_kept | apply State.landDomain_kept | apply State.refuse_kept | apply State.settleCluster_kept
      | apply State.settleBoot_kept | apply State.settleSleep_kept | apply State.runReset_kept
      | (extract_lets +onlyGivenNames x; first | (refine State.Kept.cut (m := μ) (q := κ) (s := x) ?_ fun hx => ?_; (on_goal 2 => clear_value x); (on_goal 1 => unfold x; clear x)) | (refine State.Kept.cut (m := μ) (q := κ) (s := x.2) ?_ fun hx => ?_; (on_goal 2 => clear_value x); (on_goal 1 => unfold x; clear x)) | clear_value x)
      | split | (fail_if_no_progress (apply kept_mk))

theorem State.domainLost_kept {s : State} {n : Nat} (hk : s.Kept μ κ) (t_rows : μ.rows = none := by assumption) (t_keys : μ.keys = none := by assumption) (t_clusterRx : μ.clusterRx = none := by assumption) (t_clusterTx : μ.clusterTx = none := by assumption) (t_shutters : μ.shutters = none := by assumption) (t_rings : μ.rings = none := by assumption) (t_quarters : μ.quarters = none := by assumption) (t_objs : μ.objs = none := by assumption) :
    (State.domainLost s n).Kept μ κ := by
  unfold State.domainLost
  repeat' with_reducible first
      | assumption | apply State.clearTable_kept | apply State.doorLost_kept | apply State.updClRx_kept | apply State.loseBanks_kept
      | apply State.updClTx_kept | apply State.schedCold_kept | apply State.closeShutter_kept | apply State.losePortCtrs_kept
      | apply State.metersCold_kept | apply State.quarterCold_kept | apply State.evtDefaults_kept | apply foldl_kept | intro _
      | (extract_lets +onlyGivenNames x; first | (refine State.Kept.cut (m := μ) (q := κ) (s := x) ?_ fun hx => ?_; (on_goal 2 => clear_value x); (on_goal 1 => unfold x; clear x)) | clear_value x)
      | split | (fail_if_no_progress (apply kept_mk))

theorem State.dropTimeWrites_kept {s : State} (hk : s.Kept μ κ) (t_dict : μ.dict = none := by assumption) :
    (State.dropTimeWrites s).Kept μ κ := by
  unfold State.dropTimeWrites
  repeat' with_reducible first
      | assumption
      | (extract_lets +onlyGivenNames x; first | (refine State.Kept.cut (m := μ) (q := κ) (s := x) ?_ fun hx => ?_; (on_goal 2 => clear_value x); (on_goal 1 => unfold x; clear x)) | clear_value x)
      | split | apply kept_dict | (fail_if_no_progress (apply kept_mk))

theorem State.openCluster_kept {s : State} {c : Nat} (hk : s.Kept μ κ) (t_mem : μ.mem = none := by assumption) (t_rows : μ.rows = none := by assumption) (t_past : μ.past = none := by assumption) (t_dict : μ.dict = none := by assumption) (t_keys : μ.keys = none := by assumption) (t_masks : μ.masks = none := by assumption) (t_portRx : μ.portRx = none := by assumption) (t_clusterRx : μ.clusterRx = none := by assumption) (t_clusterTx : μ.clusterTx = none := by assumption) (t_portTx : μ.portTx = none := by assumption) (t_shutters : μ.shutters = none := by assumption) (t_rings : μ.rings = none := by assumption) (t_quarters : μ.quarters = none := by assumption) (t_twin : μ.twin = none := by assumption) (t_objs : μ.objs = none := by assumption) :
    (State.openCluster s c).Kept μ κ := by
  unfold State.openCluster
  repeat' with_reducible first
      | assumption | apply State.setClp_kept | apply State.settleCluster_kept | apply State.requestOn_kept | apply foldl_kept | intro _
      | (extract_lets +onlyGivenNames x; first | (refine State.Kept.cut (m := μ) (q := κ) (s := x) ?_ fun hx => ?_; (on_goal 2 => clear_value x); (on_goal 1 => unfold x; clear x)) | clear_value x)
      | (fail_if_no_progress (apply kept_mk))

theorem State.landClusterEnable_kept {s : State} {c : Nat} {v : Bool} (hk : s.Kept μ κ) (t_mem : μ.mem = none := by assumption) (t_rows : μ.rows = none := by assumption) (t_past : μ.past = none := by assumption) (t_dict : μ.dict = none := by assumption) (t_keys : μ.keys = none := by assumption) (t_masks : μ.masks = none := by assumption) (t_portRx : μ.portRx = none := by assumption) (t_clusterRx : μ.clusterRx = none := by assumption) (t_clusterTx : μ.clusterTx = none := by assumption) (t_portTx : μ.portTx = none := by assumption) (t_shutters : μ.shutters = none := by assumption) (t_rings : μ.rings = none := by assumption) (t_quarters : μ.quarters = none := by assumption) (t_twin : μ.twin = none := by assumption) (t_objs : μ.objs = none := by assumption) :
    (State.landClusterEnable s c v).Kept μ κ := by
  unfold State.landClusterEnable
  repeat' with_reducible first
      | assumption | apply State.setReg_kept | apply State.openCluster_kept | apply State.setClp_kept | apply State.closeCluster_kept
      | (extract_lets +onlyGivenNames x; first | (refine State.Kept.cut (m := μ) (q := κ) (s := x) ?_ fun hx => ?_; (on_goal 2 => clear_value x); (on_goal 1 => unfold x; clear x)) | clear_value x)
      | split | (fail_if_no_progress (apply kept_mk))

theorem State.landClusterMode_kept {s : State} {c v : Nat} (hk : s.Kept μ κ) (t_portRx : μ.portRx = none := by assumption) (t_clusterTx : μ.clusterTx = none := by assumption) (t_objs : μ.objs = none := by assumption) :
    (State.landClusterMode s c v).Kept μ κ := by
  unfold State.landClusterMode
  repeat' with_reducible first
      | assumption | apply State.setReg_kept | apply State.setClp_kept | apply State.wakeCluster_kept | apply State.enterListen_kept
      | (extract_lets +onlyGivenNames x; first | (refine State.Kept.cut (m := μ) (q := κ) (s := x) ?_ fun hx => ?_; (on_goal 2 => clear_value x); (on_goal 1 => unfold x; clear x)) | clear_value x)
      | split | (fail_if_no_progress (apply kept_mk))

theorem State.landReset_kept {s : State} {via : Transport} {cuts : List (Nat × CutFrame)} (hk : s.Kept μ κ) (t_mem : μ.mem = none := by assumption) (t_rows : μ.rows = none := by assumption) (t_past : μ.past = none := by assumption) (t_dict : μ.dict = none := by assumption) (t_keys : μ.keys = none := by assumption) (t_masks : μ.masks = none := by assumption) (t_portRx : μ.portRx = none := by assumption) (t_clusterRx : μ.clusterRx = none := by assumption) (t_clusterTx : μ.clusterTx = none := by assumption) (t_portTx : μ.portTx = none := by assumption) (t_shutters : μ.shutters = none := by assumption) (t_rings : μ.rings = none := by assumption) (t_quarters : μ.quarters = none := by assumption) (t_twin : μ.twin = none := by assumption) (t_time : μ.time = none := by assumption) (t_objs : μ.objs = none := by assumption) :
    (State.landReset s via cuts).Kept μ κ := by
  unfold State.landReset
  repeat' with_reducible first
      | assumption | apply State.runReset_kept
      | (extract_lets +onlyGivenNames x; first | (refine State.Kept.cut (m := μ) (q := κ) (s := x) ?_ fun hx => ?_; (on_goal 2 => clear_value x); (on_goal 1 => unfold x; clear x)) | (refine State.Kept.cut (m := μ) (q := κ) (s := x.2) ?_ fun hx => ?_; (on_goal 2 => clear_value x); (on_goal 1 => unfold x; clear x)) | clear_value x)
      | split | (fail_if_no_progress (apply kept_mk))

theorem State.landSleep_kept {s : State} (hk : s.Kept μ κ) (t_clusterRx : μ.clusterRx = none := by assumption) (t_rings : μ.rings = none := by assumption) (t_twin : μ.twin = none := by assumption) :
    (State.landSleep s).Kept μ κ := by
  unfold State.landSleep
  repeat' with_reducible first
      | assumption | apply State.settleSleep_kept | apply State.requestDomain_kept | apply foldl_kept | intro _
      | (extract_lets +onlyGivenNames x; first | (refine State.Kept.cut (m := μ) (q := κ) (s := x) ?_ fun hx => ?_; (on_goal 2 => clear_value x); (on_goal 1 => unfold x; clear x)) | clear_value x)
      | (fail_if_no_progress (apply kept_mk))

theorem State.portStopped_kept {s : State} {p : Nat} (hk : s.Kept μ κ) (t_past : μ.past = none := by assumption) (t_portRx : μ.portRx = none := by assumption) (t_clusterRx : μ.clusterRx = none := by assumption) (t_clusterTx : μ.clusterTx = none := by assumption) (t_portTx : μ.portTx = none := by assumption) (t_objs : μ.objs = none := by assumption) :
    (State.portStopped s p).Kept μ κ := by
  unfold State.portStopped
  repeat' with_reducible first
      | assumption | apply State.flushOnDown_kept | apply State.rxCause_kept | apply State.bump_kept | apply State.setSignal_kept
      | apply State.landFcLate_kept | apply State.setPort_kept | apply State.updPortTx_kept | apply State.settlePort_kept
      | (extract_lets +onlyGivenNames x; first | (refine State.Kept.cut (m := μ) (q := κ) (s := x) ?_ fun hx => ?_; (on_goal 2 => clear_value x); (on_goal 1 => unfold x; clear x)) | clear_value x)
      | split | (fail_if_no_progress (apply kept_mk))

theorem State.sendHealth_kept {s : State} {free : Bool} (hk : s.Kept μ κ) (t_dict : μ.dict = none := by assumption) (t_twin : μ.twin = none := by assumption) :
    (State.sendHealth s free).Kept μ κ := by
  unfold State.sendHealth
  repeat' with_reducible first
      | assumption | apply State.hingeSend_kept | apply State.updTwin_kept | apply State.canHealth_kept
      | (extract_lets +onlyGivenNames x; first | (refine State.Kept.cut (m := μ) (q := κ) (s := x) ?_ fun hx => ?_; (on_goal 2 => clear_value x); (on_goal 1 => unfold x; clear x)) | clear_value x)
      | split | apply kept_dict | (fail_if_no_progress (apply kept_mk))

theorem State.settleRestore_kept {s : State} {n : Nat} (hk : s.Kept μ κ) (t_mem : μ.mem = none := by assumption) (t_rows : μ.rows = none := by assumption) (t_past : μ.past = none := by assumption) (t_dict : μ.dict = none := by assumption) (t_keys : μ.keys = none := by assumption) (t_masks : μ.masks = none := by assumption) (t_portRx : μ.portRx = none := by assumption) (t_clusterRx : μ.clusterRx = none := by assumption) (t_clusterTx : μ.clusterTx = none := by assumption) (t_portTx : μ.portTx = none := by assumption) (t_shutters : μ.shutters = none := by assumption) (t_rings : μ.rings = none := by assumption) (t_quarters : μ.quarters = none := by assumption) (t_twin : μ.twin = none := by assumption) (t_time : μ.time = none := by assumption) (t_objs : μ.objs = none := by assumption) :
    (State.settleRestore s n).Kept μ κ := by
  unfold State.settleRestore
  repeat' with_reducible first
      | assumption | apply State.domainDone_kept | apply State.domainBack_kept | split

theorem State.stopFunctions_kept {s : State} (hk : s.Kept μ κ) (t_past : μ.past = none := by assumption) (t_portRx : μ.portRx = none := by assumption) (t_clusterRx : μ.clusterRx = none := by assumption) (t_clusterTx : μ.clusterTx = none := by assumption) (t_portTx : μ.portTx = none := by assumption) (t_shutters : μ.shutters = none := by assumption) (t_rings : μ.rings = none := by assumption) (t_quarters : μ.quarters = none := by assumption) (t_twin : μ.twin = none := by assumption) (t_objs : μ.objs = none := by assumption) :
    (State.stopFunctions s).Kept μ κ := by
  unfold State.stopFunctions
  repeat' with_reducible first
      | assumption | (rename_i e; have e2 := congrArg Prod.snd e; dsimp only at e2; subst e2) | apply State.portStopped_kept
      | apply State.closeShutter_kept | apply State.ringCause_kept | apply State.setRing_kept | apply State.setQuarter_kept
      | apply State.closeHinge_kept | apply State.updTwin_kept | apply foldl_kept | apply foldl_kept_snd | apply foldl_kept_mid
      | apply foldl_resKept | apply foldl_pairKept | apply foldl_slotKept | intro _ | apply pairKept_none | apply pairKept_some
      | apply foldl_pairKept | exact PairKept.state (by assumption) | exact optKept_none | apply optKept_some
      | (extract_lets +onlyGivenNames x; first | (refine State.Kept.cut (m := μ) (q := κ) (s := x) ?_ fun hx => ?_; (on_goal 2 => clear_value x); (on_goal 1 => unfold x; clear x)) | (refine State.Kept.cut (m := μ) (q := κ) (s := x.2) ?_ fun hx => ?_; (on_goal 2 => clear_value x); (on_goal 1 => unfold x; clear x)) | (refine State.Kept.cut (m := μ) (q := κ) (s := x.2.2) ?_ fun hx => ?_; (on_goal 2 => clear_value x); (on_goal 1 => unfold x; clear x)) | (refine State.Kept.cut (m := μ) (q := κ) (s := x.1) ?_ fun hx => ?_; (on_goal 2 => clear_value x); (on_goal 1 => unfold x; clear x)) | (have _f : _ → _ := x; clear _f) | clear_value x | skip)
      | split | (fail_if_no_progress (apply kept_mk)) | (fail_if_no_progress (apply kept_eraseRegs))
      | (fail_if_no_progress (apply kept_eraseRings)) | (fail_if_no_progress (apply kept_setCtr)) | (dsimp -zeta +zetaDelta only)

theorem State.tickFunctions_kept {s : State} (hk : s.Kept μ κ) (t_mem : μ.mem = none := by assumption) (t_rows : μ.rows = none := by assumption) (t_past : μ.past = none := by assumption) (t_dict : μ.dict = none := by assumption) (t_keys : μ.keys = none := by assumption) (t_masks : μ.masks = none := by assumption) (t_portRx : μ.portRx = none := by assumption) (t_clusterRx : μ.clusterRx = none := by assumption) (t_clusterTx : μ.clusterTx = none := by assumption) (t_portTx : μ.portTx = none := by assumption) (t_shutters : μ.shutters = none := by assumption) (t_rings : μ.rings = none := by assumption) (t_quarters : μ.quarters = none := by assumption) (t_twin : μ.twin = none := by assumption) (t_objs : μ.objs = none := by assumption) :
    (State.tickFunctions s).Kept μ κ := by
  unfold State.tickFunctions
  repeat' with_reducible first
      | assumption | apply State.portOpened_kept | apply State.ringOpened_kept | apply State.hingeTick_kept | apply foldl_kept | intro _
      | (extract_lets +onlyGivenNames x; first | (refine State.Kept.cut (m := μ) (q := κ) (s := x) ?_ fun hx => ?_; (on_goal 2 => clear_value x); (on_goal 1 => unfold x; clear x)) | (refine State.Kept.cut (m := μ) (q := κ) (s := x.2) ?_ fun hx => ?_; (on_goal 2 => clear_value x); (on_goal 1 => unfold x; clear x)) | clear_value x)

theorem State.timeUp_kept {s : State} (hk : s.Kept μ κ) (t_mem : μ.mem = none := by assumption) (t_rows : μ.rows = none := by assumption) (t_past : μ.past = none := by assumption) (t_dict : μ.dict = none := by assumption) (t_keys : μ.keys = none := by assumption) (t_masks : μ.masks = none := by assumption) (t_portRx : μ.portRx = none := by assumption) (t_clusterRx : μ.clusterRx = none := by assumption) (t_clusterTx : μ.clusterTx = none := by assumption) (t_portTx : μ.portTx = none := by assumption) (t_shutters : μ.shutters = none := by assumption) (t_rings : μ.rings = none := by assumption) (t_quarters : μ.quarters = none := by assumption) (t_twin : μ.twin = none := by assumption) (t_time : μ.time = none := by assumption) (t_objs : μ.objs = none := by assumption) :
    (State.timeUp s).Kept μ κ := by
  unfold State.timeUp
  repeat' with_reducible first
      | assumption | apply State.settleRestore_kept | apply State.beginSwitch_kept | apply foldl_kept | intro _
      | (extract_lets +onlyGivenNames x; first | (refine State.Kept.cut (m := μ) (q := κ) (s := x) ?_ fun hx => ?_; (on_goal 2 => clear_value x); (on_goal 1 => unfold x; clear x)) | (refine State.Kept.cut (m := μ) (q := κ) (s := x.2) ?_ fun hx => ?_; (on_goal 2 => clear_value x); (on_goal 1 => unfold x; clear x)) | clear_value x)
      | split

theorem execCanWakeFrame_kept {dt id : Nat} {s : State} (hk : s.Kept μ κ) : ResKept μ κ (execCanWakeFrame dt id s) := by
  unfold execCanWakeFrame
  repeat' with_reducible first
      | assumption | apply resKept_next | apply State.elapse_kept | apply State.endSleep_kept
      | (extract_lets +onlyGivenNames x; first | (refine State.Kept.cut (m := μ) (q := κ) (s := x) ?_ fun hx => ?_; (on_goal 2 => clear_value x); (on_goal 1 => unfold x; clear x)) | clear_value x)
      | split

theorem execClusterCloseDone_kept {dt c : Nat} {s : State} (hk : s.Kept μ κ) (t_mem : μ.mem = none := by assumption) (t_rows : μ.rows = none := by assumption) (t_past : μ.past = none := by assumption) (t_dict : μ.dict = none := by assumption) (t_keys : μ.keys = none := by assumption) (t_masks : μ.masks = none := by assumption) (t_portRx : μ.portRx = none := by assumption) (t_clusterRx : μ.clusterRx = none := by assumption) (t_clusterTx : μ.clusterTx = none := by assumption) (t_portTx : μ.portTx = none := by assumption) (t_shutters : μ.shutters = none := by assumption) (t_rings : μ.rings = none := by assumption) (t_quarters : μ.quarters = none := by assumption) (t_twin : μ.twin = none := by assumption) (t_objs : μ.objs = none := by assumption) :
    ResKept μ κ (execClusterCloseDone dt c s) := by
  unfold execClusterCloseDone
  repeat' with_reducible first
      | assumption | apply resKept_next | apply State.elapse_kept | apply State.setClp_kept | apply State.openCluster_kept
      | apply State.requestDomain_kept | apply foldl_kept | intro _
      | (extract_lets +onlyGivenNames x; first | (refine State.Kept.cut (m := μ) (q := κ) (s := x) ?_ fun hx => ?_; (on_goal 2 => clear_value x); (on_goal 1 => unfold x; clear x)) | clear_value x)
      | split | (fail_if_no_progress (apply kept_mk))

theorem execListenReached_kept {dt c : Nat} {s : State} (hk : s.Kept μ κ) (t_clusterRx : μ.clusterRx = none := by assumption) (t_rings : μ.rings = none := by assumption) (t_twin : μ.twin = none := by assumption) :
    ResKept μ κ (execListenReached dt c s) := by
  unfold execListenReached
  repeat' with_reducible first
      | assumption | apply resKept_next | apply State.elapse_kept | apply State.sweepPause_kept | apply State.setClp_kept
      | apply State.requestDomain_kept | apply State.raise_kept | apply State.wakeCluster_kept
      | (extract_lets +onlyGivenNames x; first | (refine State.Kept.cut (m := μ) (q := κ) (s := x) ?_ fun hx => ?_; (on_goal 2 => clear_value x); (on_goal 1 => unfold x; clear x)) | clear_value x)
      | split | (fail_if_no_progress (apply kept_mk))

theorem execPllLock_kept {dt : Nat} {s : State} (hk : s.Kept μ κ) (t_mem : μ.mem = none := by assumption) (t_rows : μ.rows = none := by assumption) (t_past : μ.past = none := by assumption) (t_dict : μ.dict = none := by assumption) (t_keys : μ.keys = none := by assumption) (t_masks : μ.masks = none := by assumption) (t_portRx : μ.portRx = none := by assumption) (t_clusterRx : μ.clusterRx = none := by assumption) (t_clusterTx : μ.clusterTx = none := by assumption) (t_portTx : μ.portTx = none := by assumption) (t_shutters : μ.shutters = none := by assumption) (t_rings : μ.rings = none := by assumption) (t_quarters : μ.quarters = none := by assumption) (t_twin : μ.twin = none := by assumption) (t_time : μ.time = none := by assumption) (t_objs : μ.objs = none := by assumption) :
    ResKept μ κ (execPllLock dt s) := by
  unfold execPllLock
  repeat' with_reducible first
      | assumption | apply resKept_next | apply State.elapse_kept | apply settled_kept | apply State.timeUp_kept
      | (extract_lets +onlyGivenNames x; first | (refine State.Kept.cut (m := μ) (q := κ) (s := x) ?_ fun hx => ?_; (on_goal 2 => clear_value x); (on_goal 1 => unfold x; clear x)) | clear_value x)
      | split | apply kept_time | (fail_if_no_progress (apply kept_mk))

theorem execPllLossOfLock_kept {dt : Nat} {s : State} (hk : s.Kept μ κ) (t_mem : μ.mem = none := by assumption) (t_past : μ.past = none := by assumption) (t_dict : μ.dict = none := by assumption) (t_portRx : μ.portRx = none := by assumption) (t_clusterRx : μ.clusterRx = none := by assumption) (t_clusterTx : μ.clusterTx = none := by assumption) (t_portTx : μ.portTx = none := by assumption) (t_shutters : μ.shutters = none := by assumption) (t_rings : μ.rings = none := by assumption) (t_quarters : μ.quarters = none := by assumption) (t_twin : μ.twin = none := by assumption) (t_time : μ.time = none := by assumption) (t_objs : μ.objs = none := by assumption) :
    ResKept μ κ (execPllLossOfLock dt s) := by
  unfold execPllLossOfLock
  repeat' with_reducible first
      | assumption | apply resKept_next | apply State.elapse_kept | apply State.setTimeState_kept | apply State.stopFunctions_kept
      | apply State.dropTimeWrites_kept | apply State.raise_kept | apply settled_kept
      | (extract_lets +onlyGivenNames x; first | (refine State.Kept.cut (m := μ) (q := κ) (s := x) ?_ fun hx => ?_; (on_goal 2 => clear_value x); (on_goal 1 => unfold x; clear x)) | clear_value x)
      | split | apply kept_time | (fail_if_no_progress (apply kept_mk))

theorem execPorNFall_kept {dt : Nat} {s : State} (hk : s.Kept μ κ) (t_rows : μ.rows = none := by assumption) (t_past : μ.past = none := by assumption) (t_dict : μ.dict = none := by assumption) (t_keys : μ.keys = none := by assumption) (t_masks : μ.masks = none := by assumption) (t_portRx : μ.portRx = none := by assumption) (t_clusterRx : μ.clusterRx = none := by assumption) (t_clusterTx : μ.clusterTx = none := by assumption) (t_portTx : μ.portTx = none := by assumption) (t_shutters : μ.shutters = none := by assumption) (t_rings : μ.rings = none := by assumption) (t_quarters : μ.quarters = none := by assumption) (t_twin : μ.twin = none := by assumption) (t_time : μ.time = none := by assumption) (t_objs : μ.objs = none := by assumption) :
    ResKept μ κ (execPorNFall dt s) := by
  unfold execPorNFall
  repeat' with_reducible first
      | assumption | apply resKept_next | apply State.coldState_kept | apply State.elapse_kept
      | (extract_lets +onlyGivenNames x; first | (refine State.Kept.cut (m := μ) (q := κ) (s := x) ?_ fun hx => ?_; (on_goal 2 => clear_value x); (on_goal 1 => unfold x; clear x)) | clear_value x)
      | (fail_if_no_progress (apply kept_mk))

theorem execPowerAck_kept {dt n : Nat} {s : State} (hk : s.Kept μ κ) (t_mem : μ.mem = none := by assumption) (t_rows : μ.rows = none := by assumption) (t_past : μ.past = none := by assumption) (t_dict : μ.dict = none := by assumption) (t_keys : μ.keys = none := by assumption) (t_masks : μ.masks = none := by assumption) (t_portRx : μ.portRx = none := by assumption) (t_clusterRx : μ.clusterRx = none := by assumption) (t_clusterTx : μ.clusterTx = none := by assumption) (t_portTx : μ.portTx = none := by assumption) (t_shutters : μ.shutters = none := by assumption) (t_rings : μ.rings = none := by assumption) (t_quarters : μ.quarters = none := by assumption) (t_twin : μ.twin = none := by assumption) (t_time : μ.time = none := by assumption) (t_objs : μ.objs = none := by assumption) :
    ResKept μ κ (execPowerAck dt n s) := by
  unfold execPowerAck
  repeat' with_reducible first
      | assumption | apply resKept_next | apply State.elapse_kept | apply State.setDom_kept | apply settled_kept
      | apply State.domainDone_kept | apply State.domainLost_kept | apply State.timeUp_kept | apply State.settleRestore_kept
      | (extract_lets +onlyGivenNames x; first | (refine State.Kept.cut (m := μ) (q := κ) (s := x) ?_ fun hx => ?_; (on_goal 2 => clear_value x); (on_goal 1 => unfold x; clear x)) | clear_value x)
      | split | apply kept_time | (fail_if_no_progress (apply kept_mk))

theorem execPowerAckTimeout_kept {dt n : Nat} {s : State} (hk : s.Kept μ κ) (t_mem : μ.mem = none := by assumption) (t_rows : μ.rows = none := by assumption) (t_past : μ.past = none := by assumption) (t_dict : μ.dict = none := by assumption) (t_keys : μ.keys = none := by assumption) (t_masks : μ.masks = none := by assumption) (t_portRx : μ.portRx = none := by assumption) (t_clusterRx : μ.clusterRx = none := by assumption) (t_clusterTx : μ.clusterTx = none := by assumption) (t_portTx : μ.portTx = none := by assumption) (t_shutters : μ.shutters = none := by assumption) (t_rings : μ.rings = none := by assumption) (t_quarters : μ.quarters = none := by assumption) (t_twin : μ.twin = none := by assumption) (t_time : μ.time = none := by assumption) (t_objs : μ.objs = none := by assumption) :
    ResKept μ κ (execPowerAckTimeout dt n s) := by
  unfold execPowerAckTimeout
  repeat' with_reducible first
      | assumption | apply resKept_next | apply State.elapse_kept | apply State.setDom_kept | apply State.raise_kept
      | apply State.runReset_kept | apply settled_kept
      | (extract_lets +onlyGivenNames x; first | (refine State.Kept.cut (m := μ) (q := κ) (s := x) ?_ fun hx => ?_; (on_goal 2 => clear_value x); (on_goal 1 => unfold x; clear x)) | (refine State.Kept.cut (m := μ) (q := κ) (s := x.2) ?_ fun hx => ?_; (on_goal 2 => clear_value x); (on_goal 1 => unfold x; clear x)) | clear_value x)
      | split | (fail_if_no_progress (apply kept_mk))

theorem execPowerOnReset_kept {dt : Nat} {s : State} (hk : s.Kept μ κ) (t_rows : μ.rows = none := by assumption) (t_past : μ.past = none := by assumption) (t_dict : μ.dict = none := by assumption) (t_keys : μ.keys = none := by assumption) (t_masks : μ.masks = none := by assumption) (t_portRx : μ.portRx = none := by assumption) (t_clusterRx : μ.clusterRx = none := by assumption) (t_clusterTx : μ.clusterTx = none := by assumption) (t_portTx : μ.portTx = none := by assumption) (t_shutters : μ.shutters = none := by assumption) (t_rings : μ.rings = none := by assumption) (t_quarters : μ.quarters = none := by assumption) (t_twin : μ.twin = none := by assumption) (t_time : μ.time = none := by assumption) (t_objs : μ.objs = none := by assumption) :
    ResKept μ κ (execPowerOnReset dt s) := by
  unfold execPowerOnReset
  repeat' with_reducible first
      | assumption | apply resKept_next | apply State.elapse_kept | apply State.bootUp_kept | apply State.coldState_kept
      | (extract_lets +onlyGivenNames x; first | (refine State.Kept.cut (m := μ) (q := κ) (s := x) ?_ fun hx => ?_; (on_goal 2 => clear_value x); (on_goal 1 => unfold x; clear x)) | clear_value x)
      | split

theorem execRingCloseDone_kept {dt r : Nat} {s : State} (hk : s.Kept μ κ) (t_rings : μ.rings = none := by assumption) :
    ResKept μ κ (execRingCloseDone dt r s) := by
  unfold execRingCloseDone
  repeat' with_reducible first
      | assumption | apply resKept_next | apply State.elapse_kept | apply State.ringClosed_kept | apply State.beginSwitch_kept
      | (extract_lets +onlyGivenNames x; first | (refine State.Kept.cut (m := μ) (q := κ) (s := x) ?_ fun hx => ?_; (on_goal 2 => clear_value x); (on_goal 1 => unfold x; clear x)) | (refine State.Kept.cut (m := μ) (q := κ) (s := x.2) ?_ fun hx => ?_; (on_goal 2 => clear_value x); (on_goal 1 => unfold x; clear x)) | clear_value x)
      | split

end Sys2Proof.Machine
end

