-- ==== Sys2Proof/Laws/KeptResync.lean ====
section
/-!
SUPPORT. What the operations of Machine/Resync.lean keep.
-/
set_option linter.unusedTactic false
set_option linter.unreachableTactic false
set_option linter.unusedVariables false
set_option linter.tactic.unusedName false
namespace Sys2Proof.Machine
variable {μ : Marks} {κ : List Instr}

theorem State.hingeWrap_kept {s : State} {im : Bytes} (hk : s.Kept μ κ) : (State.hingeWrap s im).2.Kept μ κ := by
  unfold State.hingeWrap
  repeat' with_reducible first
      | assumption | apply State.freshBytes_kept | split

theorem State.keyItem_kept {s : State} {c r : Nat} (hk : s.Kept μ κ) : (State.keyItem s c r).2.Kept μ κ := by
  unfold State.keyItem
  repeat' with_reducible first
      | assumption | apply State.hingeWrap_kept
      | (extract_lets +onlyGivenNames x; first | (refine State.Kept.cut (m := μ) (q := κ) (s := x) ?_ fun hx => ?_; (on_goal 2 => clear_value x); (on_goal 1 => unfold x; clear x)) | (refine State.Kept.cut (m := μ) (q := κ) (s := x.2) ?_ fun hx => ?_; (on_goal 2 => clear_value x); (on_goal 1 => unfold x; clear x)) | clear_value x)
      | split

theorem State.syncIndex_kept {s : State} {idx : Nat} (hk : s.Kept μ κ) (t_twin : μ.twin = none := by assumption) :
    (State.syncIndex s idx).Kept μ κ := by
  unfold State.syncIndex
  repeat' with_reducible first
      | assumption | apply State.keyItem_kept | apply State.streamSend_kept | apply foldl_kept | intro _
      | (extract_lets +onlyGivenNames x; first | (refine State.Kept.cut (m := μ) (q := κ) (s := x) ?_ fun hx => ?_; (on_goal 2 => clear_value x); (on_goal 1 => unfold x; clear x)) | (refine State.Kept.cut (m := μ) (q := κ) (s := x.2) ?_ fun hx => ?_; (on_goal 2 => clear_value x); (on_goal 1 => unfold x; clear x)) | clear_value x)
      | split

theorem State.startResync_kept {s : State} (hk : s.Kept μ κ) (t_twin : μ.twin = none := by assumption) :
    (State.startResync s).Kept μ κ := by
  unfold State.startResync
  repeat' with_reducible first
      | assumption | apply State.updTwin_kept | apply State.syncIndex_kept | apply foldl_kept | intro _
      | (extract_lets +onlyGivenNames x; first | (refine State.Kept.cut (m := μ) (q := κ) (s := x) ?_ fun hx => ?_; (on_goal 2 => clear_value x); (on_goal 1 => unfold x; clear x)) | (refine State.Kept.cut (m := μ) (q := κ) (s := x.2) ?_ fun hx => ?_; (on_goal 2 => clear_value x); (on_goal 1 => unfold x; clear x)) | clear_value x)
      | split | (fail_if_no_progress (apply kept_mk))

end Sys2Proof.Machine
end

