-- ==== Sys2Proof/Laws/KeptAccess.lean ====
section
/-!
SUPPORT. What the operations of Machine/Access.lean keep.
-/
set_option linter.unusedTactic false
set_option linter.unreachableTactic false
set_option linter.unusedVariables false
set_option linter.tactic.unusedName false
namespace Sys2Proof.Machine
variable {μ : Marks} {κ : List Instr}

theorem State.rowCheck_kept {s : State} {c t row : Nat} {img : List Word} {live : Bool} (hk : s.Kept μ κ) :
    (State.rowCheck s c t row img live).2.Kept μ κ := by
  unfold State.rowCheck
  repeat' with_reducible first
      | assumption | apply State.wrapFailed_kept
      | (extract_lets +onlyGivenNames x; first | (refine State.Kept.cut (m := μ) (q := κ) (s := x) ?_ fun hx => ?_; (on_goal 2 => clear_value x); (on_goal 1 => unfold x; clear x)) | clear_value x)
      | split

theorem State.landRow_kept {s : State} {c t row : Nat} {img : List Word} (hk : s.Kept μ κ) (t_rows : μ.rows = none := by assumption) (t_past : μ.past = none := by assumption) (t_clusterRx : μ.clusterRx = none := by assumption) (t_clusterTx : μ.clusterTx = none := by assumption) (t_twin : μ.twin = none := by assumption) :
    (State.landRow s c t row img).2.Kept μ κ := by
  unfold State.landRow
  repeat' with_reducible first
      | assumption | apply State.rowCheck_kept | apply State.landSched_kept | apply State.landMeter_kept | apply State.rowSet_kept
      | apply State.landDoor_kept | apply State.landSa_kept | apply State.landCal_kept | apply State.landRule_kept
      | apply State.landShutterRow_kept | apply State.landKnock_kept | apply State.landPeep_kept
      | (extract_lets +onlyGivenNames x; first | (refine State.Kept.cut (m := μ) (q := κ) (s := x) ?_ fun hx => ?_; (on_goal 2 => clear_value x); (on_goal 1 => unfold x; clear x)) | (refine State.Kept.cut (m := μ) (q := κ) (s := x.2) ?_ fun hx => ?_; (on_goal 2 => clear_value x); (on_goal 1 => unfold x; clear x)) | clear_value x)
      | split

theorem State.landStrobe_kept {s : State} {c t row : Nat} (hk : s.Kept μ κ) (t_clusterRx : μ.clusterRx = none := by assumption) (t_clusterTx : μ.clusterTx = none := by assumption) :
    (State.landStrobe s c t row).Kept μ κ := by
  unfold State.landStrobe
  repeat' with_reducible first
      | assumption | apply State.refillMeter_kept | apply State.landReturn_kept | split

theorem State.selectRow_kept {s : State} {c t row : Nat} (hk : s.Kept μ κ) (t_dict : μ.dict = none := by assumption) :
    (State.selectRow s c t row).Kept μ κ := by
  unfold State.selectRow
  repeat' with_reducible first
      | assumption | apply State.setWindow_kept
      | (extract_lets +onlyGivenNames x; first | (refine State.Kept.cut (m := μ) (q := κ) (s := x) ?_ fun hx => ?_; (on_goal 2 => clear_value x); (on_goal 1 => unfold x; clear x)) | clear_value x)
      | split | (fail_if_no_progress (apply kept_mk))

theorem State.setStatus_kept {s : State} {w code : Nat} (hk : s.Kept μ κ) (t_dict : μ.dict = none := by assumption) :
    (State.setStatus s w code).Kept μ κ := by
  unfold State.setStatus
  repeat' with_reducible first
      | assumption | apply State.setWindow_kept
      | (extract_lets +onlyGivenNames x; first | (refine State.Kept.cut (m := μ) (q := κ) (s := x) ?_ fun hx => ?_; (on_goal 2 => clear_value x); (on_goal 1 => unfold x; clear x)) | clear_value x)
      | (fail_if_no_progress (apply kept_mk))

end Sys2Proof.Machine
end

