-- ==== Sys2Proof/Laws/KeptLanding.lean ====
section
/-!
SUPPORT. What the operations of Machine/Landing.lean keep.
-/
set_option linter.unusedTactic false
set_option linter.unreachableTactic false
set_option linter.unusedVariables false
set_option linter.tactic.unusedName false
namespace Sys2Proof.Machine
variable {μ : Marks} {κ : List Instr}

theorem State.enqueue_kept {s : State} {via : Transport} {e : Effect} (hk : s.Kept μ κ) (t_dict : μ.dict = none := by assumption) :
    (State.enqueue s via e).Kept μ κ := by
  unfold State.enqueue
  repeat' with_reducible first
      | assumption
      | (extract_lets +onlyGivenNames x; first | (refine State.Kept.cut (m := μ) (q := κ) (s := x) ?_ fun hx => ?_; (on_goal 2 => clear_value x); (on_goal 1 => unfold x; clear x)) | clear_value x)
      | apply kept_dict | (fail_if_no_progress (apply kept_mk))

theorem State.acceptCkey_kept {s : State} {via : Transport} (hk : s.Kept μ κ) (t_dict : μ.dict = none := by assumption) :
    (State.acceptCkey s via).2.Kept μ κ := by
  unfold State.acceptCkey
  repeat' with_reducible first
      | assumption | apply State.wrapFailed_kept | apply State.enqueue_kept
      | (extract_lets +onlyGivenNames x; first | (refine State.Kept.cut (m := μ) (q := κ) (s := x) ?_ fun hx => ?_; (on_goal 2 => clear_value x); (on_goal 1 => unfold x; clear x)) | clear_value x)
      | split

theorem State.forwardRow_kept {s : State} {via : Transport} {c t row : Nat} {img : List Word} (hk : s.Kept μ κ) (t_twin : μ.twin = none := by assumption) :
    (State.forwardRow s via c t row img).Kept μ κ := by
  unfold State.forwardRow
  repeat' with_reducible first
      | assumption | apply State.streamSend_kept | apply State.hingeWrap_kept
      | (extract_lets +onlyGivenNames x; first | (refine State.Kept.cut (m := μ) (q := κ) (s := x) ?_ fun hx => ?_; (on_goal 2 => clear_value x); (on_goal 1 => unfold x; clear x)) | (refine State.Kept.cut (m := μ) (q := κ) (s := x.2) ?_ fun hx => ?_; (on_goal 2 => clear_value x); (on_goal 1 => unfold x; clear x)) | clear_value x)
      | split

theorem State.acceptRow_kept {s : State} {via : Transport} {c t row : Nat} {img : List Word} {byData : Bool} (hk : s.Kept μ κ) (t_dict : μ.dict = none := by assumption) (t_twin : μ.twin = none := by assumption) :
    (State.acceptRow s via c t row img byData).2.Kept μ κ := by
  unfold State.acceptRow
  repeat' with_reducible first
      | assumption | apply State.rowCheck_kept | apply State.forwardRow_kept | apply State.enqueue_kept
      | (extract_lets +onlyGivenNames x; first | (refine State.Kept.cut (m := μ) (q := κ) (s := x) ?_ fun hx => ?_; (on_goal 2 => clear_value x); (on_goal 1 => unfold x; clear x)) | (refine State.Kept.cut (m := μ) (q := κ) (s := x.2) ?_ fun hx => ?_; (on_goal 2 => clear_value x); (on_goal 1 => unfold x; clear x)) | clear_value x)
      | split

theorem State.acceptCommit_kept {s : State} {via : Transport} {c t : Nat} (hk : s.Kept μ κ) (t_dict : μ.dict = none := by assumption) (t_twin : μ.twin = none := by assumption) :
    (State.acceptCommit s via c t).2.Kept μ κ := by
  unfold State.acceptCommit
  repeat' with_reducible first
      | assumption | apply State.setWindow_kept | apply State.acceptRow_kept | apply State.setStatus_kept
      | (extract_lets +onlyGivenNames x; first | (refine State.Kept.cut (m := μ) (q := κ) (s := x) ?_ fun hx => ?_; (on_goal 2 => clear_value x); (on_goal 1 => unfold x; clear x)) | (refine State.Kept.cut (m := μ) (q := κ) (s := x.2) ?_ fun hx => ?_; (on_goal 2 => clear_value x); (on_goal 1 => unfold x; clear x)) | clear_value x)
      | split | (fail_if_no_progress (apply kept_mk))

theorem State.acceptData_kept {s : State} {via : Transport} {c t : Nat} {v : Word} (hk : s.Kept μ κ) (t_dict : μ.dict = none := by assumption) (t_twin : μ.twin = none := by assumption) :
    (State.acceptData s via c t v).2.Kept μ κ := by
  unfold State.acceptData
  repeat' with_reducible first
      | assumption | apply State.setWindow_kept | apply State.acceptRow_kept | apply State.setStatus_kept | apply State.selectRow_kept
      | (extract_lets +onlyGivenNames x; first | (refine State.Kept.cut (m := μ) (q := κ) (s := x) ?_ fun hx => ?_; (on_goal 2 => clear_value x); (on_goal 1 => unfold x; clear x)) | (refine State.Kept.cut (m := μ) (q := κ) (s := x.2) ?_ fun hx => ?_; (on_goal 2 => clear_value x); (on_goal 1 => unfold x; clear x)) | clear_value x)
      | split | (fail_if_no_progress (apply kept_mk))

theorem State.acceptField_kept {s : State} {via : Transport} {c t : Nat} {o : ObjInfo} {v : Word} (hk : s.Kept μ κ) (t_dict : μ.dict = none := by assumption) :
    (State.acceptField s via c t o v).2.Kept μ κ := by
  unfold State.acceptField
  repeat' with_reducible first
      | assumption | apply State.setWindow_kept
      | (extract_lets +onlyGivenNames x; first | (refine State.Kept.cut (m := μ) (q := κ) (s := x) ?_ fun hx => ?_; (on_goal 2 => clear_value x); (on_goal 1 => unfold x; clear x)) | clear_value x)
      | split | (fail_if_no_progress (apply kept_mk))

theorem State.unwrapFailed_kept {s : State} {e : Effect} (hk : s.Kept μ κ) : (State.unwrapFailed s e).Kept μ κ := by
  unfold State.unwrapFailed
  repeat' with_reducible first
      | assumption | apply State.raise_kept | apply State.bump_kept | apply State.wrapFailed_kept | split

theorem State.rowLanded_kept {x : Nat × State} {via : Transport} {w : Nat} {byData : Bool} (hk : x.2.Kept μ κ) (t_dict : μ.dict = none := by assumption) (t_twin : μ.twin = none := by assumption) :
    (State.rowLanded x via w byData).Kept μ κ := by
  unfold State.rowLanded
  repeat' with_reducible first
      | assumption | apply State.refuse_kept | apply State.setStatus_kept
      | (extract_lets +onlyGivenNames x; first | (refine State.Kept.cut (m := μ) (q := κ) (s := x) ?_ fun hx => ?_; (on_goal 2 => clear_value x); (on_goal 1 => unfold x; clear x)) | (refine State.Kept.cut (m := μ) (q := κ) (s := x.2) ?_ fun hx => ?_; (on_goal 2 => clear_value x); (on_goal 1 => unfold x; clear x)) | clear_value x)
      | split

theorem State.landKeyRow_kept {s : State} {via : Transport} {e : Effect} {last : Bool} (hk : s.Kept μ κ) (t_mem : μ.mem = none := by assumption) (t_past : μ.past = none := by assumption) (t_dict : μ.dict = none := by assumption) (t_keys : μ.keys = none := by assumption) (t_portRx : μ.portRx = none := by assumption) (t_clusterRx : μ.clusterRx = none := by assumption) (t_clusterTx : μ.clusterTx = none := by assumption) (t_portTx : μ.portTx = none := by assumption) (t_shutters : μ.shutters = none := by assumption) (t_rings : μ.rings = none := by assumption) (t_quarters : μ.quarters = none := by assumption) (t_twin : μ.twin = none := by assumption) (t_objs : μ.objs = none := by assumption) :
    (State.landKeyRow s via e last).Kept μ κ := by
  unfold State.landKeyRow
  extract_lets out
  have ho : ∀ w row d, (out w row d).Kept μ κ := by
    intro w row d
    refine State.rowLanded_kept ?_
    split
    · split
      · exact State.landKeyErase_kept hk
      · exact hk
    · split
      · exact State.landKeyLoad_kept hk
      · exact hk
    · exact State.unwrapFailed_kept hk
    · exact hk
  clear_value out
  split
  · exact ho _ _ _
  · exact ho _ _ _
  · exact hk

theorem State.forwardLanded_kept {s before : State} {via : Transport} {idx sub : Nat} {v : Word} (hk : s.Kept μ κ) (hkbefore : before.Kept μ κ) (t_twin : μ.twin = none := by assumption) :
    (State.forwardLanded s before via idx sub v).Kept μ κ := by
  unfold State.forwardLanded
  repeat' with_reducible first
      | assumption | apply State.streamSend_kept | intro _
      | (extract_lets +onlyGivenNames x; first | (refine State.Kept.cut (m := μ) (q := κ) (s := x) ?_ fun hx => ?_; (on_goal 2 => clear_value x); (on_goal 1 => unfold x; clear x)) | (refine State.Kept.cut (m := μ) (q := κ) (s := x.2) ?_ fun hx => ?_; (on_goal 2 => clear_value x); (on_goal 1 => unfold x; clear x)) | (have _f : _ → _ := x; clear _f) | clear_value x | skip)
      | split | (fail_if_no_progress (apply kept_mk)) | (dsimp -zeta +zetaDelta only)

theorem State.actPower_kept {s : State} {via : Transport} {cuts : List (Nat × CutFrame)} {sub : Nat} {v : Word} (hk : s.Kept μ κ) (t_mem : μ.mem = none := by assumption) (t_rows : μ.rows = none := by assumption) (t_past : μ.past = none := by assumption) (t_dict : μ.dict = none := by assumption) (t_keys : μ.keys = none := by assumption) (t_masks : μ.masks = none := by assumption) (t_portRx : μ.portRx = none := by assumption) (t_clusterRx : μ.clusterRx = none := by assumption) (t_clusterTx : μ.clusterTx = none := by assumption) (t_portTx : μ.portTx = none := by assumption) (t_shutters : μ.shutters = none := by assumption) (t_rings : μ.rings = none := by assumption) (t_quarters : μ.quarters = none := by assumption) (t_twin : μ.twin = none := by assumption) (t_time : μ.time = none := by assumption) (t_objs : μ.objs = none := by assumption) :
    (State.actPower s via cuts sub v).Kept μ κ := by
  unfold State.actPower
  repeat' with_reducible first
      | assumption | apply State.landReset_kept | apply State.landSleep_kept | apply State.setReg_kept | apply State.landDomain_kept | split

theorem State.actTime_kept {s : State} {sub : Nat} {v : Word} (hk : s.Kept μ κ) (t_portTx : μ.portTx = none := by assumption) (t_shutters : μ.shutters = none := by assumption) (t_twin : μ.twin = none := by assumption) (t_time : μ.time = none := by assumption) (t_objs : μ.objs = none := by assumption) :
    (State.actTime s sub v).Kept μ κ := by
  unfold State.actTime
  repeat' with_reducible first
      | assumption | apply State.landStep_kept | apply State.landFreqWord_kept | apply State.landPpsOutEn_kept | apply State.setReg_kept
      | split

theorem State.actTwin_kept {s : State} {sub : Nat} {v : Word} (hk : s.Kept μ κ) (t_mem : μ.mem = none := by assumption) (t_rows : μ.rows = none := by assumption) (t_past : μ.past = none := by assumption) (t_portRx : μ.portRx = none := by assumption) (t_clusterRx : μ.clusterRx = none := by assumption) (t_clusterTx : μ.clusterTx = none := by assumption) (t_portTx : μ.portTx = none := by assumption) (t_shutters : μ.shutters = none := by assumption) (t_rings : μ.rings = none := by assumption) (t_quarters : μ.quarters = none := by assumption) (t_twin : μ.twin = none := by assumption) (t_objs : μ.objs = none := by assumption) :
    (State.actTwin s sub v).Kept μ κ := by
  unfold State.actTwin
  repeat' with_reducible first
      | assumption | apply State.soloRole_kept | apply State.openHinge_kept | apply State.setReg_kept | apply State.landHingeEnable_kept
      | apply State.landDemote_kept | apply State.landReinstate_kept | apply State.startResync_kept | split

theorem State.actKeys_kept {s : State} {sub : Nat} {v : Word} (hk : s.Kept μ κ) (t_mem : μ.mem = none := by assumption) (t_past : μ.past = none := by assumption) (t_keys : μ.keys = none := by assumption) (t_masks : μ.masks = none := by assumption) (t_portRx : μ.portRx = none := by assumption) (t_clusterRx : μ.clusterRx = none := by assumption) (t_clusterTx : μ.clusterTx = none := by assumption) (t_portTx : μ.portTx = none := by assumption) (t_shutters : μ.shutters = none := by assumption) (t_rings : μ.rings = none := by assumption) (t_quarters : μ.quarters = none := by assumption) (t_twin : μ.twin = none := by assumption) (t_objs : μ.objs = none := by assumption) :
    (State.actKeys s sub v).Kept μ κ := by
  unfold State.actKeys
  repeat' with_reducible first
      | assumption | apply State.landTamperClr_kept | apply State.landEraseAll_kept | apply State.landKeyAlarmClr_kept
      | apply State.landTrngRestart_kept | apply State.landNonce_kept | apply State.updKeys_kept | apply State.landAdopt_kept
      | apply State.setReg_kept | split | (fail_if_no_progress (apply kept_mk))

theorem State.landRxCauseClr_kept {s : State} {p : Nat} {v : Word} (hk : s.Kept μ κ) (t_portRx : μ.portRx = none := by assumption) :
    (State.landRxCauseClr s p v).Kept μ κ := by
  unfold State.landRxCauseClr
  repeat' with_reducible first
      | assumption | apply State.updPort_kept | (fail_if_no_progress (apply kept_mk))

theorem State.actMac_kept {s : State} {p sub : Nat} {v : Word} (hk : s.Kept μ κ) (t_mem : μ.mem = none := by assumption) (t_rows : μ.rows = none := by assumption) (t_past : μ.past = none := by assumption) (t_dict : μ.dict = none := by assumption) (t_keys : μ.keys = none := by assumption) (t_masks : μ.masks = none := by assumption) (t_portRx : μ.portRx = none := by assumption) (t_clusterRx : μ.clusterRx = none := by assumption) (t_clusterTx : μ.clusterTx = none := by assumption) (t_portTx : μ.portTx = none := by assumption) (t_shutters : μ.shutters = none := by assumption) (t_rings : μ.rings = none := by assumption) (t_quarters : μ.quarters = none := by assumption) (t_twin : μ.twin = none := by assumption) (t_objs : μ.objs = none := by assumption) :
    (State.actMac s p sub v).Kept μ κ := by
  unfold State.actMac
  repeat' with_reducible first
      | assumption | apply State.landPortEnable_kept | apply State.landRxCauseClr_kept | apply State.landSillSet_kept
      | apply State.landTxCauseClr_kept | apply State.setPortReg_kept | split

theorem State.actGate_kept {s : State} {p sub : Nat} {v : Word} {tc : Option Nat} (hk : s.Kept μ κ) (t_shutters : μ.shutters = none := by assumption) (t_objs : μ.objs = none := by assumption) :
    (State.actGate s p sub v tc).Kept μ κ := by
  unfold State.actGate
  repeat' with_reducible first
      | assumption | apply State.landGateEnable_kept | apply State.landConfigChange_kept | apply State.landShutCauseClr_kept
      | apply State.landShutParam_kept | apply State.setReg_kept | split

theorem State.landFcMap_kept {s : State} {p sub : Nat} {v : Word} (hk : s.Kept μ κ) (t_past : μ.past = none := by assumption) (t_portRx : μ.portRx = none := by assumption) (t_clusterTx : μ.clusterTx = none := by assumption) (t_objs : μ.objs = none := by assumption) :
    (State.landFcMap s p sub v).Kept μ κ := by
  unfold State.landFcMap
  repeat' with_reducible first
      | assumption | apply State.updPort_kept | apply State.landFcLate_kept
      | (extract_lets +onlyGivenNames x; first | (refine State.Kept.cut (m := μ) (q := κ) (s := x) ?_ fun hx => ?_; (on_goal 2 => clear_value x); (on_goal 1 => unfold x; clear x)) | clear_value x)
      | split | (fail_if_no_progress (apply kept_mk))

theorem State.actFc_kept {s : State} {p sub : Nat} {v : Word} (hk : s.Kept μ κ) (t_mem : μ.mem = none := by assumption) (t_past : μ.past = none := by assumption) (t_portRx : μ.portRx = none := by assumption) (t_clusterRx : μ.clusterRx = none := by assumption) (t_clusterTx : μ.clusterTx = none := by assumption) (t_portTx : μ.portTx = none := by assumption) (t_rings : μ.rings = none := by assumption) (t_quarters : μ.quarters = none := by assumption) (t_twin : μ.twin = none := by assumption) (t_objs : μ.objs = none := by assumption) :
    (State.actFc s p sub v).Kept μ κ := by
  unfold State.actFc
  repeat' with_reducible first
      | assumption | apply State.landFcMap_kept | apply State.landVerify_kept | apply State.fcUpdate_kept | apply State.setReg_kept
      | apply State.setPortReg_kept | split

theorem State.actCluster_kept {s : State} {c k sub : Nat} {v : Word} (hk : s.Kept μ κ) (t_mem : μ.mem = none := by assumption) (t_rows : μ.rows = none := by assumption) (t_past : μ.past = none := by assumption) (t_dict : μ.dict = none := by assumption) (t_keys : μ.keys = none := by assumption) (t_masks : μ.masks = none := by assumption) (t_portRx : μ.portRx = none := by assumption) (t_clusterRx : μ.clusterRx = none := by assumption) (t_clusterTx : μ.clusterTx = none := by assumption) (t_portTx : μ.portTx = none := by assumption) (t_shutters : μ.shutters = none := by assumption) (t_rings : μ.rings = none := by assumption) (t_quarters : μ.quarters = none := by assumption) (t_twin : μ.twin = none := by assumption) (t_objs : μ.objs = none := by assumption) :
    (State.actCluster s c k sub v).Kept μ κ := by
  unfold State.actCluster
  repeat' with_reducible first
      | assumption | apply State.landClusterEnable_kept | apply State.landClusterMode_kept | apply State.landSalt_kept
      | apply State.landAgeInterval_kept | apply State.landFlush_kept | apply State.setReg_kept | split

theorem State.actBand_kept {s : State} {t b sub : Nat} {v : Word} (hk : s.Kept μ κ) (t_objs : μ.objs = none := by assumption) :
    (State.actBand s t b sub v).Kept μ κ := by
  unfold State.actBand
  repeat' with_reducible first
      | assumption | apply State.landRecEnable_kept | apply State.landRecCoal_kept | apply State.setReg_kept | split

theorem State.actObj_kept {s : State} {via : Transport} {cuts : List (Nat × CutFrame)} {ix : Ix} {idx sub : Nat} {v : Word} {tc : Option Nat} (hk : s.Kept μ κ) (t_mem : μ.mem = none := by assumption) (t_rows : μ.rows = none := by assumption) (t_past : μ.past = none := by assumption) (t_dict : μ.dict = none := by assumption) (t_keys : μ.keys = none := by assumption) (t_masks : μ.masks = none := by assumption) (t_portRx : μ.portRx = none := by assumption) (t_clusterRx : μ.clusterRx = none := by assumption) (t_clusterTx : μ.clusterTx = none := by assumption) (t_portTx : μ.portTx = none := by assumption) (t_shutters : μ.shutters = none := by assumption) (t_rings : μ.rings = none := by assumption) (t_quarters : μ.quarters = none := by assumption) (t_twin : μ.twin = none := by assumption) (t_time : μ.time = none := by assumption) (t_objs : μ.objs = none := by assumption) :
    (State.actObj s via cuts ix idx sub v tc).Kept μ κ := by
  unfold State.actObj
  repeat' with_reducible first
      | assumption | apply State.actPower_kept | apply State.actTime_kept | apply State.actTwin_kept | apply State.actKeys_kept
      | apply State.landFiredClr_kept | apply State.setReg_kept | apply State.landRingEnable_kept | apply State.landRingCauseClr_kept
      | apply State.landSnap_kept | apply State.snapRelease_kept | apply State.setPortReg_kept | apply State.actMac_kept
      | apply State.actGate_kept | apply State.actFc_kept | apply State.actCluster_kept | apply State.landPendingSet_kept
      | apply State.landPendingClr_kept | apply State.landMask_kept | apply State.actBand_kept | split

theorem State.landObj_kept {s : State} {via : Transport} {cuts : List (Nat × CutFrame)} {idx sub : Nat} {v : Word} {tc : Option Nat} (hk : s.Kept μ κ) (t_mem : μ.mem = none := by assumption) (t_rows : μ.rows = none := by assumption) (t_past : μ.past = none := by assumption) (t_dict : μ.dict = none := by assumption) (t_keys : μ.keys = none := by assumption) (t_masks : μ.masks = none := by assumption) (t_portRx : μ.portRx = none := by assumption) (t_clusterRx : μ.clusterRx = none := by assumption) (t_clusterTx : μ.clusterTx = none := by assumption) (t_portTx : μ.portTx = none := by assumption) (t_shutters : μ.shutters = none := by assumption) (t_rings : μ.rings = none := by assumption) (t_quarters : μ.quarters = none := by assumption) (t_twin : μ.twin = none := by assumption) (t_time : μ.time = none := by assumption) (t_objs : μ.objs = none := by assumption) :
    (State.landObj s via cuts idx sub v tc).2.Kept μ κ := by
  unfold State.landObj
  repeat' with_reducible first
      | assumption | apply State.forwardLanded_kept | apply State.actObj_kept
      | (extract_lets +onlyGivenNames x; first | (refine State.Kept.cut (m := μ) (q := κ) (s := x) ?_ fun hx => ?_; (on_goal 2 => clear_value x); (on_goal 1 => unfold x; clear x)) | clear_value x)
      | split

theorem State.actTime84_kept {s : State} {idx sub : Nat} {v : BitVec 84} (hk : s.Kept μ κ) (t_portTx : μ.portTx = none := by assumption) (t_shutters : μ.shutters = none := by assumption) (t_twin : μ.twin = none := by assumption) (t_time : μ.time = none := by assumption) (t_objs : μ.objs = none := by assumption) :
    (State.actTime84 s idx sub v).Kept μ κ := by
  unfold State.actTime84
  repeat' with_reducible first
      | assumption | apply State.landSetTime_kept | apply State.setReg_kept | split

theorem State.landCkey_kept {s : State} {sel : Nat} {img : List Word} (hk : s.Kept μ κ) (t_dict : μ.dict = none := by assumption) (t_keys : μ.keys = none := by assumption) :
    (State.landCkey s sel img).2.Kept μ κ := by
  unfold State.landCkey
  repeat' with_reducible first
      | assumption | apply State.landCommon_kept | apply State.wrapFailed_kept | split

theorem State.landOne_kept {s : State} {cuts : List (Nat × CutFrame)} {l : Landing} (hk : s.Kept μ κ) (t_mem : μ.mem = none := by assumption) (t_rows : μ.rows = none := by assumption) (t_past : μ.past = none := by assumption) (t_dict : μ.dict = none := by assumption) (t_keys : μ.keys = none := by assumption) (t_masks : μ.masks = none := by assumption) (t_portRx : μ.portRx = none := by assumption) (t_clusterRx : μ.clusterRx = none := by assumption) (t_clusterTx : μ.clusterTx = none := by assumption) (t_portTx : μ.portTx = none := by assumption) (t_shutters : μ.shutters = none := by assumption) (t_rings : μ.rings = none := by assumption) (t_quarters : μ.quarters = none := by assumption) (t_twin : μ.twin = none := by assumption) (t_time : μ.time = none := by assumption) (t_objs : μ.objs = none := by assumption) :
    (State.landOne s cuts l).Kept μ κ := by
  unfold State.landOne
  repeat' with_reducible first
      | assumption | (rename_i e; have e2 := congrArg Prod.snd e; dsimp only at e2; subst e2) | apply State.refuse_kept
      | apply State.landObj_kept | apply State.actTime84_kept | apply State.landKeyRow_kept | apply State.rowLanded_kept
      | apply State.landRow_kept | apply State.landStrobe_kept | apply State.landCkey_kept | apply foldl_kept | apply foldl_kept_snd
      | apply foldl_kept_mid | apply foldl_resKept | apply foldl_pairKept | apply foldl_slotKept | intro _ | apply pairKept_none
      | apply pairKept_some | apply foldl_pairKept | exact PairKept.state (by assumption) | exact optKept_none | apply optKept_some
      | (extract_lets +onlyGivenNames x; first | (refine State.Kept.cut (m := μ) (q := κ) (s := x) ?_ fun hx => ?_; (on_goal 2 => clear_value x); (on_goal 1 => unfold x; clear x)) | (refine State.Kept.cut (m := μ) (q := κ) (s := x.2) ?_ fun hx => ?_; (on_goal 2 => clear_value x); (on_goal 1 => unfold x; clear x)) | (refine State.Kept.cut (m := μ) (q := κ) (s := x.2.2) ?_ fun hx => ?_; (on_goal 2 => clear_value x); (on_goal 1 => unfold x; clear x)) | (refine State.Kept.cut (m := μ) (q := κ) (s := x.1) ?_ fun hx => ?_; (on_goal 2 => clear_value x); (on_goal 1 => unfold x; clear x)) | (have _f : _ → _ := x; clear _f) | clear_value x | skip)
      | split | (fail_if_no_progress (apply kept_mk)) | (fail_if_no_progress (apply kept_eraseRegs))
      | (fail_if_no_progress (apply kept_eraseRings)) | (fail_if_no_progress (apply kept_setCtr)) | (dsimp -zeta +zetaDelta only)

theorem State.landEdge_kept {s : State} {cuts : List (Nat × CutFrame)} {ls : List Landing} (hk : s.Kept μ κ) (t_mem : μ.mem = none := by assumption) (t_rows : μ.rows = none := by assumption) (t_past : μ.past = none := by assumption) (t_dict : μ.dict = none := by assumption) (t_keys : μ.keys = none := by assumption) (t_masks : μ.masks = none := by assumption) (t_portRx : μ.portRx = none := by assumption) (t_clusterRx : μ.clusterRx = none := by assumption) (t_clusterTx : μ.clusterTx = none := by assumption) (t_portTx : μ.portTx = none := by assumption) (t_shutters : μ.shutters = none := by assumption) (t_rings : μ.rings = none := by assumption) (t_quarters : μ.quarters = none := by assumption) (t_twin : μ.twin = none := by assumption) (t_time : μ.time = none := by assumption) (t_objs : μ.objs = none := by assumption) :
    (State.landEdge s cuts ls).Kept μ κ := by
  unfold State.landEdge
  repeat' with_reducible first
      | assumption | apply State.landKeyRow_kept | apply State.landOne_kept | apply foldl_kept | intro _
      | (extract_lets +onlyGivenNames x; first | (refine State.Kept.cut (m := μ) (q := κ) (s := x) ?_ fun hx => ?_; (on_goal 2 => clear_value x); (on_goal 1 => unfold x; clear x)) | (refine State.Kept.cut (m := μ) (q := κ) (s := x.2) ?_ fun hx => ?_; (on_goal 2 => clear_value x); (on_goal 1 => unfold x; clear x)) | clear_value x)
      | split

theorem State.landNext_kept {s : State} {cuts : List (Nat × CutFrame)} {ok : State → Landing → Bool} (hk : s.Kept μ κ) (t_mem : μ.mem = none := by assumption) (t_rows : μ.rows = none := by assumption) (t_past : μ.past = none := by assumption) (t_dict : μ.dict = none := by assumption) (t_keys : μ.keys = none := by assumption) (t_masks : μ.masks = none := by assumption) (t_portRx : μ.portRx = none := by assumption) (t_clusterRx : μ.clusterRx = none := by assumption) (t_clusterTx : μ.clusterTx = none := by assumption) (t_portTx : μ.portTx = none := by assumption) (t_shutters : μ.shutters = none := by assumption) (t_rings : μ.rings = none := by assumption) (t_quarters : μ.quarters = none := by assumption) (t_twin : μ.twin = none := by assumption) (t_time : μ.time = none := by assumption) (t_objs : μ.objs = none := by assumption) :
    OptKept μ κ (State.landNext s cuts ok) := by
  unfold State.landNext
  repeat' with_reducible first
      | assumption | (rename_i e; have e2 := congrArg Prod.snd e; dsimp only at e2; subst e2) | apply State.landEdge_kept
      | apply State.landOne_kept | apply pairKept_none | apply pairKept_some | apply foldl_pairKept | exact PairKept.state (by assumption)
      | exact optKept_none | apply optKept_some
      | (extract_lets +onlyGivenNames x; first | (refine State.Kept.cut (m := μ) (q := κ) (s := x) ?_ fun hx => ?_; (on_goal 2 => clear_value x); (on_goal 1 => unfold x; clear x)) | clear_value x)
      | split | apply kept_dict | (fail_if_no_progress (apply kept_mk))

theorem State.landAll_kept {cuts : List (Nat × CutFrame)} {ok : State → Landing → Bool} {a0 : Nat} {a1 : State} (hk : a1.Kept μ κ) (t_mem : μ.mem = none := by assumption) (t_rows : μ.rows = none := by assumption) (t_past : μ.past = none := by assumption) (t_dict : μ.dict = none := by assumption) (t_keys : μ.keys = none := by assumption) (t_masks : μ.masks = none := by assumption) (t_portRx : μ.portRx = none := by assumption) (t_clusterRx : μ.clusterRx = none := by assumption) (t_clusterTx : μ.clusterTx = none := by assumption) (t_portTx : μ.portTx = none := by assumption) (t_shutters : μ.shutters = none := by assumption) (t_rings : μ.rings = none := by assumption) (t_quarters : μ.quarters = none := by assumption) (t_twin : μ.twin = none := by assumption) (t_time : μ.time = none := by assumption) (t_objs : μ.objs = none := by assumption) :
    (State.landAll cuts ok a0 a1).Kept μ κ := by
  induction a0 generalizing a1 with
  | zero => exact hk
  | succ n ih =>
    unfold State.landAll
    have hp := State.landNext_kept (cuts := cuts) (ok := ok) hk
    split
    · rename_i t ht
      exact ih (hp t ht)
    · exact hk

theorem State.landWrites_kept {s : State} {cuts : List (Nat × CutFrame)} (hk : s.Kept μ κ) (t_mem : μ.mem = none := by assumption) (t_rows : μ.rows = none := by assumption) (t_past : μ.past = none := by assumption) (t_dict : μ.dict = none := by assumption) (t_keys : μ.keys = none := by assumption) (t_masks : μ.masks = none := by assumption) (t_portRx : μ.portRx = none := by assumption) (t_clusterRx : μ.clusterRx = none := by assumption) (t_clusterTx : μ.clusterTx = none := by assumption) (t_portTx : μ.portTx = none := by assumption) (t_shutters : μ.shutters = none := by assumption) (t_rings : μ.rings = none := by assumption) (t_quarters : μ.quarters = none := by assumption) (t_twin : μ.twin = none := by assumption) (t_time : μ.time = none := by assumption) (t_objs : μ.objs = none := by assumption) :
    (State.landWrites s cuts).Kept μ κ := by
  unfold State.landWrites
  repeat' with_reducible first
      | assumption | apply State.landAll_kept

theorem State.forwardObj_kept {s : State} {via : Transport} {idx sub : Nat} {v : Word} (hk : s.Kept μ κ) (t_twin : μ.twin = none := by assumption) :
    (State.forwardObj s via idx sub v).Kept μ κ := by
  unfold State.forwardObj
  repeat' with_reducible first
      | assumption | apply State.streamSend_kept | intro _
      | (extract_lets +onlyGivenNames x; first | (refine State.Kept.cut (m := μ) (q := κ) (s := x) ?_ fun hx => ?_; (on_goal 2 => clear_value x); (on_goal 1 => unfold x; clear x)) | (refine State.Kept.cut (m := μ) (q := κ) (s := x.2) ?_ fun hx => ?_; (on_goal 2 => clear_value x); (on_goal 1 => unfold x; clear x)) | (have _f : _ → _ := x; clear _f) | clear_value x | skip)
      | split | (fail_if_no_progress (apply kept_mk)) | (dsimp -zeta +zetaDelta only)

theorem State.actRwl_kept {s : State} {ix : Ix} {sub : Nat} {v : Word} (hk : s.Kept μ κ) (t_rings : μ.rings = none := by assumption) (t_objs : μ.objs = none := by assumption) :
    (State.actRwl s ix sub v).Kept μ κ := by
  unfold State.actRwl
  repeat' with_reducible first
      | assumption | apply State.landEnter_kept | apply State.landExit_kept | apply State.landClaimSel_kept | apply State.landDone_kept
      | apply State.landTail_kept | apply State.landRecHead_kept | split

theorem State.acceptObj_kept {s : State} {via : Transport} {ix : Ix} {o : ObjInfo} {idx : Nat} {v : Word} {tc : Option Nat} (hk : s.Kept μ κ) (t_mem : μ.mem = none := by assumption) (t_rows : μ.rows = none := by assumption) (t_past : μ.past = none := by assumption) (t_dict : μ.dict = none := by assumption) (t_keys : μ.keys = none := by assumption) (t_masks : μ.masks = none := by assumption) (t_portRx : μ.portRx = none := by assumption) (t_clusterRx : μ.clusterRx = none := by assumption) (t_clusterTx : μ.clusterTx = none := by assumption) (t_portTx : μ.portTx = none := by assumption) (t_shutters : μ.shutters = none := by assumption) (t_rings : μ.rings = none := by assumption) (t_quarters : μ.quarters = none := by assumption) (t_twin : μ.twin = none := by assumption) (t_time : μ.time = none := by assumption) (t_objs : μ.objs = none := by assumption) :
    (State.acceptObj s via ix o idx v tc).2.Kept μ κ := by
  unfold State.acceptObj
  extract_lets w queue
  have hq : ∀ {t : State}, t.Kept μ κ → (queue t).Kept μ κ := by
    intro t ht
    have he : ∀ e : Effect, (t.enqueue via e).Kept μ κ := fun e => State.enqueue_kept ht
    unfold queue
    dsimp only
    split
    · exact State.landWrites_kept (he _)
    · exact he _
  clear_value queue
  repeat' apply ite_kept_snd
  all_goals try exact hk
  · exact State.forwardObj_kept (hq hk)
  · dsimp only
    exact State.updKeys_kept hk
  · exact State.acceptCkey_kept hk
  · exact State.forwardObj_kept (State.actRwl_kept hk)
  · exact State.forwardObj_kept (kept_dict hk t_dict)
  · exact State.forwardObj_kept (State.enqueue_kept hk)
  · exact State.forwardObj_kept (hq hk)

theorem State.acceptStrobe_kept {s : State} {via : Transport} {c t sub row : Nat} (hk : s.Kept μ κ) (t_dict : μ.dict = none := by assumption) (t_twin : μ.twin = none := by assumption) :
    (State.acceptStrobe s via c t sub row).2.Kept μ κ := by
  unfold State.acceptStrobe
  repeat' with_reducible first
      | assumption | apply State.enqueue_kept | apply State.streamSend_kept
      | (extract_lets +onlyGivenNames x; first | (refine State.Kept.cut (m := μ) (q := κ) (s := x) ?_ fun hx => ?_; (on_goal 2 => clear_value x); (on_goal 1 => unfold x; clear x)) | clear_value x)
      | split

theorem State.acceptWin_kept {s : State} {via : Transport} {c t : Nat} {o : ObjInfo} {v : Word} (hk : s.Kept μ κ) (t_dict : μ.dict = none := by assumption) (t_twin : μ.twin = none := by assumption) :
    (State.acceptWin s via c t o v).2.Kept μ κ := by
  unfold State.acceptWin
  repeat' with_reducible first
      | assumption | apply State.selectRow_kept | apply State.acceptData_kept | apply State.acceptCommit_kept
      | apply State.acceptStrobe_kept | apply State.acceptField_kept | intro _
      | (extract_lets +onlyGivenNames x; first | (refine State.Kept.cut (m := μ) (q := κ) (s := x) ?_ fun hx => ?_; (on_goal 2 => clear_value x); (on_goal 1 => unfold x; clear x)) | (refine State.Kept.cut (m := μ) (q := κ) (s := x.2) ?_ fun hx => ?_; (on_goal 2 => clear_value x); (on_goal 1 => unfold x; clear x)) | (have _f : _ → _ := x; clear _f) | clear_value x | skip)
      | split | (fail_if_no_progress (apply kept_mk)) | (dsimp -zeta +zetaDelta only)

theorem State.landDue_kept {s : State} (hk : s.Kept μ κ) (t_mem : μ.mem = none := by assumption) (t_rows : μ.rows = none := by assumption) (t_past : μ.past = none := by assumption) (t_dict : μ.dict = none := by assumption) (t_keys : μ.keys = none := by assumption) (t_masks : μ.masks = none := by assumption) (t_portRx : μ.portRx = none := by assumption) (t_clusterRx : μ.clusterRx = none := by assumption) (t_clusterTx : μ.clusterTx = none := by assumption) (t_portTx : μ.portTx = none := by assumption) (t_shutters : μ.shutters = none := by assumption) (t_rings : μ.rings = none := by assumption) (t_quarters : μ.quarters = none := by assumption) (t_twin : μ.twin = none := by assumption) (t_time : μ.time = none := by assumption) (t_objs : μ.objs = none := by assumption) :
    (State.landDue s).Kept μ κ := by
  unfold State.landDue
  repeat' with_reducible first
      | assumption | apply State.landAll_kept

theorem State.write_kept {s : State} {via : Transport} {idx sub : Nat} {v : Word} (hk : s.Kept μ κ) (t_mem : μ.mem = none := by assumption) (t_rows : μ.rows = none := by assumption) (t_past : μ.past = none := by assumption) (t_dict : μ.dict = none := by assumption) (t_keys : μ.keys = none := by assumption) (t_masks : μ.masks = none := by assumption) (t_portRx : μ.portRx = none := by assumption) (t_clusterRx : μ.clusterRx = none := by assumption) (t_clusterTx : μ.clusterTx = none := by assumption) (t_portTx : μ.portTx = none := by assumption) (t_shutters : μ.shutters = none := by assumption) (t_rings : μ.rings = none := by assumption) (t_quarters : μ.quarters = none := by assumption) (t_twin : μ.twin = none := by assumption) (t_time : μ.time = none := by assumption) (t_objs : μ.objs = none := by assumption) :
    (State.write s via idx sub v).2.Kept μ κ := by
  unfold State.write
  repeat' with_reducible first
      | assumption | apply State.acceptWin_kept | apply State.acceptObj_kept | apply State.refuse_kept
      | (extract_lets +onlyGivenNames x; first | (refine State.Kept.cut (m := μ) (q := κ) (s := x) ?_ fun hx => ?_; (on_goal 2 => clear_value x); (on_goal 1 => unfold x; clear x)) | (refine State.Kept.cut (m := μ) (q := κ) (s := x.2) ?_ fun hx => ?_; (on_goal 2 => clear_value x); (on_goal 1 => unfold x; clear x)) | clear_value x)
      | split

theorem State.request_kept {s : State} {via : Transport} {idx sub : Nat} {v : Word} (hk : s.Kept μ κ) (t_mem : μ.mem = none := by assumption) (t_rows : μ.rows = none := by assumption) (t_past : μ.past = none := by assumption) (t_dict : μ.dict = none := by assumption) (t_keys : μ.keys = none := by assumption) (t_masks : μ.masks = none := by assumption) (t_portRx : μ.portRx = none := by assumption) (t_clusterRx : μ.clusterRx = none := by assumption) (t_clusterTx : μ.clusterTx = none := by assumption) (t_portTx : μ.portTx = none := by assumption) (t_shutters : μ.shutters = none := by assumption) (t_rings : μ.rings = none := by assumption) (t_quarters : μ.quarters = none := by assumption) (t_twin : μ.twin = none := by assumption) (t_time : μ.time = none := by assumption) (t_objs : μ.objs = none := by assumption) :
    (State.request s via idx sub v).Kept μ κ := by
  unfold State.request
  repeat' with_reducible first
      | assumption | apply State.write_kept | apply State.emit_kept
      | (extract_lets +onlyGivenNames x; first | (refine State.Kept.cut (m := μ) (q := κ) (s := x) ?_ fun hx => ?_; (on_goal 2 => clear_value x); (on_goal 1 => unfold x; clear x)) | (refine State.Kept.cut (m := μ) (q := κ) (s := x.2) ?_ fun hx => ?_; (on_goal 2 => clear_value x); (on_goal 1 => unfold x; clear x)) | clear_value x)
      | split

theorem State.requestLand_kept {s : State} {via : Transport} {cuts : List (Nat × CutFrame)} {idx sub : Nat} {v : Word} (hk : s.Kept μ κ) (t_mem : μ.mem = none := by assumption) (t_rows : μ.rows = none := by assumption) (t_past : μ.past = none := by assumption) (t_dict : μ.dict = none := by assumption) (t_keys : μ.keys = none := by assumption) (t_masks : μ.masks = none := by assumption) (t_portRx : μ.portRx = none := by assumption) (t_clusterRx : μ.clusterRx = none := by assumption) (t_clusterTx : μ.clusterTx = none := by assumption) (t_portTx : μ.portTx = none := by assumption) (t_shutters : μ.shutters = none := by assumption) (t_rings : μ.rings = none := by assumption) (t_quarters : μ.quarters = none := by assumption) (t_twin : μ.twin = none := by assumption) (t_time : μ.time = none := by assumption) (t_objs : μ.objs = none := by assumption) :
    (State.requestLand s via cuts idx sub v).Kept μ κ := by
  unfold State.requestLand
  repeat' with_reducible first
      | assumption | apply State.request_kept | apply State.landWrites_kept
      | (extract_lets +onlyGivenNames x; first | (refine State.Kept.cut (m := μ) (q := κ) (s := x) ?_ fun hx => ?_; (on_goal 2 => clear_value x); (on_goal 1 => unfold x; clear x)) | clear_value x)
      | split

end Sys2Proof.Machine
end

