-- ==== Sys2Proof/Laws/KeptReads.lean ====
section
/-!
SUPPORT. What the operations of Machine/Reads.lean keep.
-/
set_option linter.unusedTactic false
set_option linter.unreachableTactic false
set_option linter.unusedVariables false
set_option linter.tactic.unusedName false
namespace Sys2Proof.Machine
variable {μ : Marks} {κ : List Instr}

theorem State.readWin_kept {s : State} {c t : Nat} {o : ObjInfo} (hk : s.Kept μ κ) (t_dict : μ.dict = none := by assumption) :
    (State.readWin s c t o).2.2.Kept μ κ := by
  unfold State.readWin
  repeat' with_reducible first
      | assumption | apply State.setWindow_kept
      | (extract_lets +onlyGivenNames x; first | (refine State.Kept.cut (m := μ) (q := κ) (s := x) ?_ fun hx => ?_; (on_goal 2 => clear_value x); (on_goal 1 => unfold x; clear x)) | clear_value x)
      | split | (fail_if_no_progress (apply kept_mk))

theorem State.readStream_kept {s : State} {sub : Nat} (hk : s.Kept μ κ) (t_dict : μ.dict = none := by assumption) :
    (State.readStream s sub).2.Kept μ κ := by
  unfold State.readStream
  repeat' with_reducible first
      | assumption
      | (extract_lets +onlyGivenNames x; first | (refine State.Kept.cut (m := μ) (q := κ) (s := x) ?_ fun hx => ?_; (on_goal 2 => clear_value x); (on_goal 1 => unfold x; clear x)) | clear_value x)
      | split | apply kept_dict | (fail_if_no_progress (apply kept_mk))

theorem State.readDigest_kept {s : State} {sub : Nat} (hk : s.Kept μ κ) (t_dict : μ.dict = none := by assumption) :
    (State.readDigest s sub).2.Kept μ κ := by
  unfold State.readDigest
  repeat' with_reducible first
      | assumption
      | (extract_lets +onlyGivenNames x; first | (refine State.Kept.cut (m := μ) (q := κ) (s := x) ?_ fun hx => ?_; (on_goal 2 => clear_value x); (on_goal 1 => unfold x; clear x)) | (refine State.Kept.cut (m := μ) (q := κ) (s := x.2) ?_ fun hx => ?_; (on_goal 2 => clear_value x); (on_goal 1 => unfold x; clear x)) | clear_value x)
      | split | apply kept_dict | (fail_if_no_progress (apply kept_mk))

theorem State.readCluster_kept {s : State} {c k sub : Nat} (hk : s.Kept μ κ) (t_clusterRx : μ.clusterRx = none := by assumption) (t_clusterTx : μ.clusterTx = none := by assumption) :
    (State.readCluster s c k sub).2.Kept μ κ := by
  unfold State.readCluster
  repeat' with_reducible first
      | assumption | apply State.readPnAlert_kept | apply State.readHoldPeak_kept | apply State.readParityCapture_kept
      | apply State.readMeterCapture_kept | apply State.readMaxLate_kept | apply State.readSchedCapture_kept
      | apply State.readShutterCapture_kept | apply State.readTsMeta_kept | apply State.readCalCapture_kept
      | apply State.readCalEccCapture_kept | apply State.halfNext_kept | split

theorem State.readTarget_kept {s : State} {t sub : Nat} (hk : s.Kept μ κ) : (State.readTarget s t sub).2.Kept μ κ := by
  unfold State.readTarget
  repeat' with_reducible first
      | assumption | apply State.readClaim_kept | apply State.freshWord_kept
      | (extract_lets +onlyGivenNames x; first | (refine State.Kept.cut (m := μ) (q := κ) (s := x) ?_ fun hx => ?_; (on_goal 2 => clear_value x); (on_goal 1 => unfold x; clear x)) | (refine State.Kept.cut (m := μ) (q := κ) (s := x.2) ?_ fun hx => ?_; (on_goal 2 => clear_value x); (on_goal 1 => unfold x; clear x)) | clear_value x)
      | split

theorem State.readView_kept {s : State} {ix : Ix} {sub : Nat} (hk : s.Kept μ κ) (t_dict : μ.dict = none := by assumption) (t_clusterRx : μ.clusterRx = none := by assumption) (t_clusterTx : μ.clusterTx = none := by assumption) (t_quarters : μ.quarters = none := by assumption) (t_twin : μ.twin = none := by assumption) :
    (State.readView s ix sub).2.Kept μ κ := by
  unfold State.readView
  repeat' with_reducible first
      | assumption | apply State.readMismatch_kept | apply State.readStest_kept | apply State.readStream_kept
      | apply State.readRecCapture_kept | apply State.readBusErr_kept | apply State.readDigest_kept | apply State.halfNext_kept
      | apply State.readCluster_kept | apply State.readTarget_kept | split

theorem State.latch84_kept {s : State} {idx sub : Nat} {high : Word} (hk : s.Kept μ κ) (t_dict : μ.dict = none := by assumption) :
    (State.latch84 s idx sub high).Kept μ κ := by
  unfold State.latch84
  repeat' with_reducible first
      | assumption
      | (extract_lets +onlyGivenNames x; first | (refine State.Kept.cut (m := μ) (q := κ) (s := x) ?_ fun hx => ?_; (on_goal 2 => clear_value x); (on_goal 1 => unfold x; clear x)) | clear_value x)
      | apply kept_dict | (fail_if_no_progress (apply kept_mk))

theorem State.readObj_kept {s : State} {ix : Ix} {o : ObjInfo} {idx : Nat} (hk : s.Kept μ κ) (t_dict : μ.dict = none := by assumption) (t_clusterRx : μ.clusterRx = none := by assumption) (t_clusterTx : μ.clusterTx = none := by assumption) (t_quarters : μ.quarters = none := by assumption) (t_twin : μ.twin = none := by assumption) :
    (State.readObj s ix o idx).2.Kept μ κ := by
  unfold State.readObj
  repeat' with_reducible first
      | assumption | apply State.readView_kept | apply State.latch84_kept
      | (extract_lets +onlyGivenNames x; first | (refine State.Kept.cut (m := μ) (q := κ) (s := x) ?_ fun hx => ?_; (on_goal 2 => clear_value x); (on_goal 1 => unfold x; clear x)) | (refine State.Kept.cut (m := μ) (q := κ) (s := x.2) ?_ fun hx => ?_; (on_goal 2 => clear_value x); (on_goal 1 => unfold x; clear x)) | clear_value x)
      | split

theorem State.read_kept {s : State} {via : Transport} {idx sub : Nat} (hk : s.Kept μ κ) (t_dict : μ.dict = none := by assumption) (t_clusterRx : μ.clusterRx = none := by assumption) (t_clusterTx : μ.clusterTx = none := by assumption) (t_quarters : μ.quarters = none := by assumption) (t_twin : μ.twin = none := by assumption) :
    (State.read s via idx sub).2.2.Kept μ κ := by
  unfold State.read
  repeat' with_reducible first
      | assumption | apply State.refuse_kept | apply State.readWin_kept | apply State.readObj_kept | intro _
      | (extract_lets +onlyGivenNames x; first | (refine State.Kept.cut (m := μ) (q := κ) (s := x) ?_ fun hx => ?_; (on_goal 2 => clear_value x); (on_goal 1 => unfold x; clear x)) | (refine State.Kept.cut (m := μ) (q := κ) (s := x.2) ?_ fun hx => ?_; (on_goal 2 => clear_value x); (on_goal 1 => unfold x; clear x)) | (have _f : _ → _ := x; clear _f) | clear_value x | skip)
      | split | (fail_if_no_progress (apply kept_mk)) | (dsimp -zeta +zetaDelta only)

theorem State.fetch_kept {s : State} {via : Transport} {idx sub : Nat} (hk : s.Kept μ κ) (t_dict : μ.dict = none := by assumption) (t_clusterRx : μ.clusterRx = none := by assumption) (t_clusterTx : μ.clusterTx = none := by assumption) (t_quarters : μ.quarters = none := by assumption) (t_twin : μ.twin = none := by assumption) :
    (State.fetch s via idx sub).Kept μ κ := by
  unfold State.fetch
  repeat' with_reducible first
      | assumption | (rename_i e; have e2 := congrArg Prod.snd e; dsimp only at e2; subst e2) | apply State.read_kept
      | apply State.emit_kept | apply foldl_kept | apply foldl_kept_snd | apply foldl_kept_mid | apply foldl_resKept | apply foldl_pairKept
      | apply foldl_slotKept | intro _ | apply pairKept_none | apply pairKept_some | apply foldl_pairKept
      | exact PairKept.state (by assumption) | exact optKept_none | apply optKept_some
      | (extract_lets +onlyGivenNames x; first | (refine State.Kept.cut (m := μ) (q := κ) (s := x) ?_ fun hx => ?_; (on_goal 2 => clear_value x); (on_goal 1 => unfold x; clear x)) | (refine State.Kept.cut (m := μ) (q := κ) (s := x.2) ?_ fun hx => ?_; (on_goal 2 => clear_value x); (on_goal 1 => unfold x; clear x)) | (refine State.Kept.cut (m := μ) (q := κ) (s := x.2.2) ?_ fun hx => ?_; (on_goal 2 => clear_value x); (on_goal 1 => unfold x; clear x)) | (refine State.Kept.cut (m := μ) (q := κ) (s := x.1) ?_ fun hx => ?_; (on_goal 2 => clear_value x); (on_goal 1 => unfold x; clear x)) | (have _f : _ → _ := x; clear _f) | clear_value x | skip)
      | split | (fail_if_no_progress (apply kept_mk)) | (fail_if_no_progress (apply kept_eraseRegs))
      | (fail_if_no_progress (apply kept_eraseRings)) | (fail_if_no_progress (apply kept_setCtr)) | (dsimp -zeta +zetaDelta only)

end Sys2Proof.Machine
end

