-- ==== Sys2Proof/Laws/KeptBdp.lean ====
section
/-!
SUPPORT. What the operations of Machine/Bdp.lean keep.
-/
set_option linter.unusedTactic false
set_option linter.unreachableTactic false
set_option linter.unusedVariables false
set_option linter.tactic.unusedName false
namespace Sys2Proof.Machine
variable {μ : Marks} {κ : List Instr}

theorem State.bdpRefuse_kept {s : State} {via : Transport} {h : BdpHead} {version op result : Nat} (hk : s.Kept μ κ) (t_dict : μ.dict = none := by assumption) (t_twin : μ.twin = none := by assumption) :
    (State.bdpRefuse s via h version op result).2.Kept μ κ := by
  unfold State.bdpRefuse
  repeat' with_reducible first
      | assumption | apply State.refuse_kept

theorem State.setSession_kept {s : State} {inband : Bool} {src : Nat} {q : Session} (hk : s.Kept μ κ) (t_dict : μ.dict = none := by assumption) :
    (State.setSession s inband src q).Kept μ κ := by
  unfold State.setSession
  repeat' with_reducible first
      | assumption
      | (extract_lets +onlyGivenNames x; first | (refine State.Kept.cut (m := μ) (q := κ) (s := x) ?_ fun hx => ?_; (on_goal 2 => clear_value x); (on_goal 1 => unfold x; clear x)) | clear_value x)
      | split | apply kept_dict | (fail_if_no_progress (apply kept_mk))

theorem State.bdpHello_kept {s : State} {via : Transport} {inband : Bool} {src : Nat} {h : BdpHead} {pdu : Bytes} {lenOk : Bool} (hk : s.Kept μ κ) (t_dict : μ.dict = none := by assumption) (t_twin : μ.twin = none := by assumption) :
    (State.bdpHello s via inband src h pdu lenOk).2.Kept μ κ := by
  unfold State.bdpHello
  repeat' with_reducible first
      | assumption | apply State.bdpRefuse_kept | apply State.setSession_kept
      | (extract_lets +onlyGivenNames x; first | (refine State.Kept.cut (m := μ) (q := κ) (s := x) ?_ fun hx => ?_; (on_goal 2 => clear_value x); (on_goal 1 => unfold x; clear x)) | clear_value x)
      | split | (fail_if_no_progress (apply kept_mk))

theorem State.bdpReads_kept {via : Transport} {idx a0 a1 a2 : Nat} {a3 : List Word} {a4 : State} (hk : a4.Kept μ κ) (t_dict : μ.dict = none := by assumption) (t_clusterRx : μ.clusterRx = none := by assumption) (t_clusterTx : μ.clusterTx = none := by assumption) (t_quarters : μ.quarters = none := by assumption) (t_twin : μ.twin = none := by assumption) :
    (State.bdpReads via idx a0 a1 a2 a3 a4).2.2.Kept μ κ := by
  induction a0 generalizing a1 a2 a3 a4 with
  | zero => exact hk
  | succ n ih =>
    unfold State.bdpReads
    repeat' with_reducible first
      | assumption | (rename_i e; have e2 := congrArg Prod.snd e; dsimp only at e2; subst e2) | apply ih | apply State.read_kept
      | apply State.refuse_kept | apply foldl_kept | apply foldl_kept_snd | apply foldl_kept_mid | apply foldl_resKept
      | apply foldl_pairKept | apply foldl_slotKept | intro _ | apply pairKept_none | apply pairKept_some | apply foldl_pairKept
      | exact PairKept.state (by assumption) | exact optKept_none | apply optKept_some
      | (extract_lets +onlyGivenNames x; first | (refine State.Kept.cut (m := μ) (q := κ) (s := x) ?_ fun hx => ?_; (on_goal 2 => clear_value x); (on_goal 1 => unfold x; clear x)) | (refine State.Kept.cut (m := μ) (q := κ) (s := x.2) ?_ fun hx => ?_; (on_goal 2 => clear_value x); (on_goal 1 => unfold x; clear x)) | (refine State.Kept.cut (m := μ) (q := κ) (s := x.2.2) ?_ fun hx => ?_; (on_goal 2 => clear_value x); (on_goal 1 => unfold x; clear x)) | (refine State.Kept.cut (m := μ) (q := κ) (s := x.1) ?_ fun hx => ?_; (on_goal 2 => clear_value x); (on_goal 1 => unfold x; clear x)) | (have _f : _ → _ := x; clear _f) | clear_value x | skip)
      | split | (fail_if_no_progress (apply kept_mk)) | (fail_if_no_progress (apply kept_eraseRegs))
      | (fail_if_no_progress (apply kept_eraseRings)) | (fail_if_no_progress (apply kept_setCtr)) | (dsimp -zeta +zetaDelta only)

theorem State.bdpWrites_kept {via : Transport} {idx : Nat} {a0 : List Word} {a1 : Nat} {a2 : State} (hk : a2.Kept μ κ) (t_mem : μ.mem = none := by assumption) (t_rows : μ.rows = none := by assumption) (t_past : μ.past = none := by assumption) (t_dict : μ.dict = none := by assumption) (t_keys : μ.keys = none := by assumption) (t_masks : μ.masks = none := by assumption) (t_portRx : μ.portRx = none := by assumption) (t_clusterRx : μ.clusterRx = none := by assumption) (t_clusterTx : μ.clusterTx = none := by assumption) (t_portTx : μ.portTx = none := by assumption) (t_shutters : μ.shutters = none := by assumption) (t_rings : μ.rings = none := by assumption) (t_quarters : μ.quarters = none := by assumption) (t_twin : μ.twin = none := by assumption) (t_time : μ.time = none := by assumption) (t_objs : μ.objs = none := by assumption) :
    (State.bdpWrites via idx a0 a1 a2).2.Kept μ κ := by
  induction a0 generalizing a1 a2 with
  | nil => exact hk
  | cons b l ih =>
    unfold State.bdpWrites
    repeat' with_reducible first
      | assumption | apply ih | apply State.write_kept | apply State.refuse_kept
      | (extract_lets +onlyGivenNames x; first | (refine State.Kept.cut (m := μ) (q := κ) (s := x) ?_ fun hx => ?_; (on_goal 2 => clear_value x); (on_goal 1 => unfold x; clear x)) | (refine State.Kept.cut (m := μ) (q := κ) (s := x.2) ?_ fun hx => ?_; (on_goal 2 => clear_value x); (on_goal 1 => unfold x; clear x)) | clear_value x)
      | split

theorem State.bdpRequest_kept {s : State} {via : Transport} {version : Nat} {h : BdpHead} {pdu : Bytes} {lenOk : Bool} (hk : s.Kept μ κ) (t_mem : μ.mem = none := by assumption) (t_rows : μ.rows = none := by assumption) (t_past : μ.past = none := by assumption) (t_dict : μ.dict = none := by assumption) (t_keys : μ.keys = none := by assumption) (t_masks : μ.masks = none := by assumption) (t_portRx : μ.portRx = none := by assumption) (t_clusterRx : μ.clusterRx = none := by assumption) (t_clusterTx : μ.clusterTx = none := by assumption) (t_portTx : μ.portTx = none := by assumption) (t_shutters : μ.shutters = none := by assumption) (t_rings : μ.rings = none := by assumption) (t_quarters : μ.quarters = none := by assumption) (t_twin : μ.twin = none := by assumption) (t_time : μ.time = none := by assumption) (t_objs : μ.objs = none := by assumption) :
    (State.bdpRequest s via version h pdu lenOk).2.Kept μ κ := by
  unfold State.bdpRequest
  repeat' with_reducible first
      | assumption | (rename_i e; have e2 := congrArg Prod.snd e; dsimp only at e2; subst e2) | apply State.bdpRefuse_kept
      | apply State.bdpReads_kept | apply State.bdpWrites_kept | apply foldl_kept | apply foldl_kept_snd | apply foldl_kept_mid
      | apply foldl_resKept | apply foldl_pairKept | apply foldl_slotKept | intro _ | apply pairKept_none | apply pairKept_some
      | apply foldl_pairKept | exact PairKept.state (by assumption) | exact optKept_none | apply optKept_some
      | (extract_lets +onlyGivenNames x; first | (refine State.Kept.cut (m := μ) (q := κ) (s := x) ?_ fun hx => ?_; (on_goal 2 => clear_value x); (on_goal 1 => unfold x; clear x)) | (refine State.Kept.cut (m := μ) (q := κ) (s := x.2) ?_ fun hx => ?_; (on_goal 2 => clear_value x); (on_goal 1 => unfold x; clear x)) | (refine State.Kept.cut (m := μ) (q := κ) (s := x.2.2) ?_ fun hx => ?_; (on_goal 2 => clear_value x); (on_goal 1 => unfold x; clear x)) | (refine State.Kept.cut (m := μ) (q := κ) (s := x.1) ?_ fun hx => ?_; (on_goal 2 => clear_value x); (on_goal 1 => unfold x; clear x)) | (have _f : _ → _ := x; clear _f) | clear_value x | skip)
      | split | (fail_if_no_progress (apply kept_mk)) | (fail_if_no_progress (apply kept_eraseRegs))
      | (fail_if_no_progress (apply kept_eraseRings)) | (fail_if_no_progress (apply kept_setCtr)) | (dsimp -zeta +zetaDelta only)

theorem State.bdpServe_kept {s : State} {via : Transport} {src : Nat} {h : BdpHead} {pdu : Bytes} {lenOk : Bool} (hk : s.Kept μ κ) (t_mem : μ.mem = none := by assumption) (t_rows : μ.rows = none := by assumption) (t_past : μ.past = none := by assumption) (t_dict : μ.dict = none := by assumption) (t_keys : μ.keys = none := by assumption) (t_masks : μ.masks = none := by assumption) (t_portRx : μ.portRx = none := by assumption) (t_clusterRx : μ.clusterRx = none := by assumption) (t_clusterTx : μ.clusterTx = none := by assumption) (t_portTx : μ.portTx = none := by assumption) (t_shutters : μ.shutters = none := by assumption) (t_rings : μ.rings = none := by assumption) (t_quarters : μ.quarters = none := by assumption) (t_twin : μ.twin = none := by assumption) (t_time : μ.time = none := by assumption) (t_objs : μ.objs = none := by assumption) :
    (State.bdpServe s via src h pdu lenOk).2.Kept μ κ := by
  unfold State.bdpServe
  repeat' with_reducible first
      | assumption | apply State.bdpHello_kept | apply State.bdpRequest_kept | apply State.setSession_kept
      | (extract_lets +onlyGivenNames x; first | (refine State.Kept.cut (m := μ) (q := κ) (s := x) ?_ fun hx => ?_; (on_goal 2 => clear_value x); (on_goal 1 => unfold x; clear x)) | (refine State.Kept.cut (m := μ) (q := κ) (s := x.2) ?_ fun hx => ?_; (on_goal 2 => clear_value x); (on_goal 1 => unfold x; clear x)) | clear_value x)
      | split | (fail_if_no_progress (apply kept_mk))

theorem State.canRequest_kept {s : State} {op id : Nat} {data : Bytes} (hk : s.Kept μ κ) (t_mem : μ.mem = none := by assumption) (t_rows : μ.rows = none := by assumption) (t_past : μ.past = none := by assumption) (t_dict : μ.dict = none := by assumption) (t_keys : μ.keys = none := by assumption) (t_masks : μ.masks = none := by assumption) (t_portRx : μ.portRx = none := by assumption) (t_clusterRx : μ.clusterRx = none := by assumption) (t_clusterTx : μ.clusterTx = none := by assumption) (t_portTx : μ.portTx = none := by assumption) (t_shutters : μ.shutters = none := by assumption) (t_rings : μ.rings = none := by assumption) (t_quarters : μ.quarters = none := by assumption) (t_twin : μ.twin = none := by assumption) (t_time : μ.time = none := by assumption) (t_objs : μ.objs = none := by assumption) :
    (State.canRequest s op id data).Kept μ κ := by
  unfold State.canRequest
  repeat' with_reducible first
      | assumption | apply State.canHealth_kept | apply State.bdpServe_kept | apply State.emit_kept
      | (extract_lets +onlyGivenNames x; first | (refine State.Kept.cut (m := μ) (q := κ) (s := x) ?_ fun hx => ?_; (on_goal 2 => clear_value x); (on_goal 1 => unfold x; clear x)) | (refine State.Kept.cut (m := μ) (q := κ) (s := x.2) ?_ fun hx => ?_; (on_goal 2 => clear_value x); (on_goal 1 => unfold x; clear x)) | clear_value x)
      | split

theorem State.inbandRespond_kept {s : State} {req : InbandReq} {pdu : Bytes} (hk : s.Kept μ κ) (t_dict : μ.dict = none := by assumption) (t_clusterTx : μ.clusterTx = none := by assumption) (t_portTx : μ.portTx = none := by assumption) :
    (State.inbandRespond s req pdu).Kept μ κ := by
  unfold State.inbandRespond
  repeat' with_reducible first
      | assumption | apply State.bump_kept | apply State.freshBytes_kept | apply State.settlePort_kept | apply State.updPortTx_kept
      | (extract_lets +onlyGivenNames x; first | (refine State.Kept.cut (m := μ) (q := κ) (s := x) ?_ fun hx => ?_; (on_goal 2 => clear_value x); (on_goal 1 => unfold x; clear x)) | (refine State.Kept.cut (m := μ) (q := κ) (s := x.2) ?_ fun hx => ?_; (on_goal 2 => clear_value x); (on_goal 1 => unfold x; clear x)) | clear_value x)
      | split | apply kept_dict | (fail_if_no_progress (apply kept_mk))

theorem State.inbandServe_kept {s : State} {op : Nat} (hk : s.Kept μ κ) (t_mem : μ.mem = none := by assumption) (t_rows : μ.rows = none := by assumption) (t_past : μ.past = none := by assumption) (t_dict : μ.dict = none := by assumption) (t_keys : μ.keys = none := by assumption) (t_masks : μ.masks = none := by assumption) (t_portRx : μ.portRx = none := by assumption) (t_clusterRx : μ.clusterRx = none := by assumption) (t_clusterTx : μ.clusterTx = none := by assumption) (t_portTx : μ.portTx = none := by assumption) (t_shutters : μ.shutters = none := by assumption) (t_rings : μ.rings = none := by assumption) (t_quarters : μ.quarters = none := by assumption) (t_twin : μ.twin = none := by assumption) (t_time : μ.time = none := by assumption) (t_objs : μ.objs = none := by assumption) :
    (State.inbandServe s op).Kept μ κ := by
  unfold State.inbandServe
  repeat' with_reducible first
      | assumption | apply State.bdpServe_kept | apply State.inbandRespond_kept
      | (extract_lets +onlyGivenNames x; first | (refine State.Kept.cut (m := μ) (q := κ) (s := x) ?_ fun hx => ?_; (on_goal 2 => clear_value x); (on_goal 1 => unfold x; clear x)) | (refine State.Kept.cut (m := μ) (q := κ) (s := x.2) ?_ fun hx => ?_; (on_goal 2 => clear_value x); (on_goal 1 => unfold x; clear x)) | clear_value x)
      | split | apply kept_dict | (fail_if_no_progress (apply kept_mk))

theorem State.bdp_kept {s : State} {op : Nat} {src : BdpSrc} (hk : s.Kept μ κ) (t_mem : μ.mem = none := by assumption) (t_rows : μ.rows = none := by assumption) (t_past : μ.past = none := by assumption) (t_dict : μ.dict = none := by assumption) (t_keys : μ.keys = none := by assumption) (t_masks : μ.masks = none := by assumption) (t_portRx : μ.portRx = none := by assumption) (t_clusterRx : μ.clusterRx = none := by assumption) (t_clusterTx : μ.clusterTx = none := by assumption) (t_portTx : μ.portTx = none := by assumption) (t_shutters : μ.shutters = none := by assumption) (t_rings : μ.rings = none := by assumption) (t_quarters : μ.quarters = none := by assumption) (t_twin : μ.twin = none := by assumption) (t_time : μ.time = none := by assumption) (t_objs : μ.objs = none := by assumption) :
    (State.bdp s op src).Kept μ κ := by
  unfold State.bdp
  repeat' with_reducible first
      | assumption | apply State.canRequest_kept | apply State.bump_kept | apply State.inbandServe_kept | split

theorem State.canBusOff_kept {s : State} (hk : s.Kept μ κ) : (State.canBusOff s).Kept μ κ := by
  unfold State.canBusOff
  repeat' with_reducible first
      | assumption | apply State.raise_kept | apply State.bump_kept | split

theorem execBdpHello_kept {dt : Nat} {src : BdpSrc} {s : State} (hk : s.Kept μ κ) (t_mem : μ.mem = none := by assumption) (t_rows : μ.rows = none := by assumption) (t_past : μ.past = none := by assumption) (t_dict : μ.dict = none := by assumption) (t_keys : μ.keys = none := by assumption) (t_masks : μ.masks = none := by assumption) (t_portRx : μ.portRx = none := by assumption) (t_clusterRx : μ.clusterRx = none := by assumption) (t_clusterTx : μ.clusterTx = none := by assumption) (t_portTx : μ.portTx = none := by assumption) (t_shutters : μ.shutters = none := by assumption) (t_rings : μ.rings = none := by assumption) (t_quarters : μ.quarters = none := by assumption) (t_twin : μ.twin = none := by assumption) (t_time : μ.time = none := by assumption) (t_objs : μ.objs = none := by assumption) :
    ResKept μ κ (execBdpHello dt src s) := by
  unfold execBdpHello
  repeat' with_reducible first
      | assumption | apply resKept_next | apply settled_kept | apply State.bdp_kept | apply State.elapse_kept

theorem execBdpRead_kept {dt : Nat} {src : BdpSrc} {s : State} (hk : s.Kept μ κ) (t_mem : μ.mem = none := by assumption) (t_rows : μ.rows = none := by assumption) (t_past : μ.past = none := by assumption) (t_dict : μ.dict = none := by assumption) (t_keys : μ.keys = none := by assumption) (t_masks : μ.masks = none := by assumption) (t_portRx : μ.portRx = none := by assumption) (t_clusterRx : μ.clusterRx = none := by assumption) (t_clusterTx : μ.clusterTx = none := by assumption) (t_portTx : μ.portTx = none := by assumption) (t_shutters : μ.shutters = none := by assumption) (t_rings : μ.rings = none := by assumption) (t_quarters : μ.quarters = none := by assumption) (t_twin : μ.twin = none := by assumption) (t_time : μ.time = none := by assumption) (t_objs : μ.objs = none := by assumption) :
    ResKept μ κ (execBdpRead dt src s) := by
  unfold execBdpRead
  repeat' with_reducible first
      | assumption | apply resKept_next | apply settled_kept | apply State.bdp_kept | apply State.elapse_kept

theorem execBdpWrite_kept {dt : Nat} {src : BdpSrc} {s : State} (hk : s.Kept μ κ) (t_mem : μ.mem = none := by assumption) (t_rows : μ.rows = none := by assumption) (t_past : μ.past = none := by assumption) (t_dict : μ.dict = none := by assumption) (t_keys : μ.keys = none := by assumption) (t_masks : μ.masks = none := by assumption) (t_portRx : μ.portRx = none := by assumption) (t_clusterRx : μ.clusterRx = none := by assumption) (t_clusterTx : μ.clusterTx = none := by assumption) (t_portTx : μ.portTx = none := by assumption) (t_shutters : μ.shutters = none := by assumption) (t_rings : μ.rings = none := by assumption) (t_quarters : μ.quarters = none := by assumption) (t_twin : μ.twin = none := by assumption) (t_time : μ.time = none := by assumption) (t_objs : μ.objs = none := by assumption) :
    ResKept μ κ (execBdpWrite dt src s) := by
  unfold execBdpWrite
  repeat' with_reducible first
      | assumption | apply resKept_next | apply settled_kept | apply State.bdp_kept | apply State.elapse_kept

theorem execBusOff_kept {dt : Nat} {s : State} (hk : s.Kept μ κ) : ResKept μ κ (execBusOff dt s) := by
  unfold execBusOff
  repeat' with_reducible first
      | assumption | apply resKept_next | apply State.canBusOff_kept | apply State.elapse_kept

end Sys2Proof.Machine
end

