-- ==== Sys2Proof/Laws/KeptFaulting.lean ====
section
/-!
SUPPORT. What the operations of Machine/Faulting.lean keep.
-/
set_option linter.unusedTactic false
set_option linter.unreachableTactic false
set_option linter.unusedVariables false
set_option linter.tactic.unusedName false
namespace Sys2Proof.Machine
variable {μ : Marks} {κ : List Instr}

theorem execAgePass_kept {dt c : Nat} {upsets : List Upset} {s : State} (hk : s.Kept μ κ) (t_mem : μ.mem = none := by assumption) (t_past : μ.past = none := by assumption) (t_portRx : μ.portRx = none := by assumption) (t_clusterRx : μ.clusterRx = none := by assumption) (t_clusterTx : μ.clusterTx = none := by assumption) (t_portTx : μ.portTx = none := by assumption) (t_shutters : μ.shutters = none := by assumption) (t_rings : μ.rings = none := by assumption) (t_quarters : μ.quarters = none := by assumption) (t_twin : μ.twin = none := by assumption) (t_objs : μ.objs = none := by assumption) :
    ResKept μ κ (execAgePass dt c upsets s) := by
  unfold execAgePass
  repeat' with_reducible first
      | assumption | apply resKept_next | apply settled_kept | apply agePassRes_kept

theorem execDequeueGrant_kept {dt c : Nat} {upsets : List (Nat × Nat)} {s : State} (hk : s.Kept μ κ) (t_mem : μ.mem = none := by assumption) (t_rows : μ.rows = none := by assumption) (t_past : μ.past = none := by assumption) (t_masks : μ.masks = none := by assumption) (t_portRx : μ.portRx = none := by assumption) (t_clusterRx : μ.clusterRx = none := by assumption) (t_clusterTx : μ.clusterTx = none := by assumption) (t_portTx : μ.portTx = none := by assumption) (t_shutters : μ.shutters = none := by assumption) (t_rings : μ.rings = none := by assumption) (t_quarters : μ.quarters = none := by assumption) (t_twin : μ.twin = none := by assumption) (t_objs : μ.objs = none := by assumption) :
    ResKept μ κ (execDequeueGrant dt c upsets s) := by
  unfold execDequeueGrant
  repeat' with_reducible first
      | assumption | apply resKept_next | apply settled_kept | apply dequeueGrantRes_kept

theorem execReturnedSegment_kept {dt tag : Nat} {seg : Segment} {ecc : Bool} {upsets : List Upset} {s : State} (hk : s.Kept μ κ) (t_mem : μ.mem = none := by assumption) (t_rows : μ.rows = none := by assumption) (t_past : μ.past = none := by assumption) (t_masks : μ.masks = none := by assumption) (t_portRx : μ.portRx = none := by assumption) (t_clusterRx : μ.clusterRx = none := by assumption) (t_clusterTx : μ.clusterTx = none := by assumption) (t_portTx : μ.portTx = none := by assumption) (t_shutters : μ.shutters = none := by assumption) (t_rings : μ.rings = none := by assumption) (t_quarters : μ.quarters = none := by assumption) (t_twin : μ.twin = none := by assumption) (t_objs : μ.objs = none := by assumption) :
    ResKept μ κ (execReturnedSegment dt tag seg ecc upsets s) := by
  unfold execReturnedSegment
  repeat' with_reducible first
      | assumption | apply resKept_next | apply settled_kept | apply returnedSegmentRes_kept

theorem execShutterEntryChange_kept {dt p : Nat} {upset : Bool} {s : State} (hk : s.Kept μ κ) (t_mem : μ.mem = none := by assumption) (t_past : μ.past = none := by assumption) (t_portRx : μ.portRx = none := by assumption) (t_clusterRx : μ.clusterRx = none := by assumption) (t_clusterTx : μ.clusterTx = none := by assumption) (t_portTx : μ.portTx = none := by assumption) (t_shutters : μ.shutters = none := by assumption) (t_rings : μ.rings = none := by assumption) (t_quarters : μ.quarters = none := by assumption) (t_twin : μ.twin = none := by assumption) (t_objs : μ.objs = none := by assumption) :
    ResKept μ κ (execShutterEntryChange dt p upset s) := by
  unfold execShutterEntryChange
  repeat' with_reducible first
      | assumption | apply resKept_next | apply settled_kept | apply shutterEntryChangeRes_kept

theorem execTxFrameDone_kept {dt : Nat} {wire : WireEnd} {s : State} (hk : s.Kept μ κ) (t_mem : μ.mem = none := by assumption) (t_past : μ.past = none := by assumption) (t_portRx : μ.portRx = none := by assumption) (t_clusterRx : μ.clusterRx = none := by assumption) (t_clusterTx : μ.clusterTx = none := by assumption) (t_portTx : μ.portTx = none := by assumption) (t_shutters : μ.shutters = none := by assumption) (t_rings : μ.rings = none := by assumption) (t_quarters : μ.quarters = none := by assumption) (t_twin : μ.twin = none := by assumption) (t_objs : μ.objs = none := by assumption) :
    ResKept μ κ (execTxFrameDone dt wire s) := by
  unfold execTxFrameDone
  repeat' with_reducible first
      | assumption | apply resKept_next | apply settled_kept | apply txFrameDoneRes_kept

end Sys2Proof.Machine
end

