-- ==== Sys2Proof/Laws/KeptMirrorRx.lean ====
section
/-!
SUPPORT. What the operations of Machine/MirrorRx.lean keep.
-/
set_option linter.unusedTactic false
set_option linter.unreachableTactic false
set_option linter.unusedVariables false
set_option linter.tactic.unusedName false
namespace Sys2Proof.Machine
variable {μ : Marks} {κ : List Instr}

theorem State.acceptWrapped_kept {s : State} {w row suite : Nat} {wrapped : Option Bytes} (hk : s.Kept μ κ) (t_dict : μ.dict = none := by assumption) :
    (State.acceptWrapped s w row suite wrapped).2.Kept μ κ := by
  unfold State.acceptWrapped
  repeat' with_reducible first
      | assumption | apply State.enqueue_kept | split

theorem State.acceptOp_kept {s : State} {op : MirrorOp} (hk : s.Kept μ κ) (t_mem : μ.mem = none := by assumption) (t_rows : μ.rows = none := by assumption) (t_past : μ.past = none := by assumption) (t_dict : μ.dict = none := by assumption) (t_keys : μ.keys = none := by assumption) (t_masks : μ.masks = none := by assumption) (t_portRx : μ.portRx = none := by assumption) (t_clusterRx : μ.clusterRx = none := by assumption) (t_clusterTx : μ.clusterTx = none := by assumption) (t_portTx : μ.portTx = none := by assumption) (t_shutters : μ.shutters = none := by assumption) (t_rings : μ.rings = none := by assumption) (t_quarters : μ.quarters = none := by assumption) (t_twin : μ.twin = none := by assumption) (t_time : μ.time = none := by assumption) (t_objs : μ.objs = none := by assumption) :
    (State.acceptOp s op).Kept μ κ := by
  unfold State.acceptOp
  repeat' with_reducible first
      | assumption | apply State.refuse_kept | apply State.acceptObj_kept | apply State.enqueue_kept | apply State.acceptRow_kept
      | apply State.acceptStrobe_kept | apply State.acceptWrapped_kept | intro _
      | (extract_lets +onlyGivenNames x; first | (refine State.Kept.cut (m := μ) (q := κ) (s := x) ?_ fun hx => ?_; (on_goal 2 => clear_value x); (on_goal 1 => unfold x; clear x)) | (refine State.Kept.cut (m := μ) (q := κ) (s := x.2) ?_ fun hx => ?_; (on_goal 2 => clear_value x); (on_goal 1 => unfold x; clear x)) | (have _f : _ → _ := x; clear _f) | clear_value x | skip)
      | split | (fail_if_no_progress (apply kept_mk)) | (dsimp -zeta +zetaDelta only)

theorem State.applyOp_kept {s : State} {op : MirrorOp} (hk : s.Kept μ κ) (t_mem : μ.mem = none := by assumption) (t_rows : μ.rows = none := by assumption) (t_past : μ.past = none := by assumption) (t_dict : μ.dict = none := by assumption) (t_keys : μ.keys = none := by assumption) (t_masks : μ.masks = none := by assumption) (t_portRx : μ.portRx = none := by assumption) (t_clusterRx : μ.clusterRx = none := by assumption) (t_clusterTx : μ.clusterTx = none := by assumption) (t_portTx : μ.portTx = none := by assumption) (t_shutters : μ.shutters = none := by assumption) (t_rings : μ.rings = none := by assumption) (t_quarters : μ.quarters = none := by assumption) (t_twin : μ.twin = none := by assumption) (t_time : μ.time = none := by assumption) (t_objs : μ.objs = none := by assumption) :
    (State.applyOp s op).Kept μ κ := by
  unfold State.applyOp
  repeat' with_reducible first
      | assumption | apply State.landWrites_kept | apply State.acceptOp_kept

theorem State.takeMark_kept {s : State} {p tc : Nat} (hk : s.Kept μ κ) (t_shutters : μ.shutters = none := by assumption) (t_twin : μ.twin = none := by assumption) :
    (State.takeMark s p tc).Kept μ κ := by
  unfold State.takeMark
  repeat' with_reducible first
      | assumption | apply State.latchSwap_kept | apply State.shutCause_kept | apply State.setShut_kept
      | (extract_lets +onlyGivenNames x; first | (refine State.Kept.cut (m := μ) (q := κ) (s := x) ?_ fun hx => ?_; (on_goal 2 => clear_value x); (on_goal 1 => unfold x; clear x)) | clear_value x)
      | split | (fail_if_no_progress (apply kept_mk))

theorem State.takeDigest_kept {s : State} {digest : Word} {final : Bool} (hk : s.Kept μ κ) (t_mem : μ.mem = none := by assumption) (t_rows : μ.rows = none := by assumption) (t_past : μ.past = none := by assumption) (t_dict : μ.dict = none := by assumption) (t_keys : μ.keys = none := by assumption) (t_masks : μ.masks = none := by assumption) (t_portRx : μ.portRx = none := by assumption) (t_clusterRx : μ.clusterRx = none := by assumption) (t_clusterTx : μ.clusterTx = none := by assumption) (t_portTx : μ.portTx = none := by assumption) (t_shutters : μ.shutters = none := by assumption) (t_rings : μ.rings = none := by assumption) (t_quarters : μ.quarters = none := by assumption) (t_twin : μ.twin = none := by assumption) (t_time : μ.time = none := by assumption) (t_objs : μ.objs = none := by assumption) :
    (State.takeDigest s digest final).Kept μ κ := by
  unfold State.takeDigest
  generalize (s.streamDigest == digest) = same
  extract_lets same' ends again s1 s2 s3
  have h1 : s1.Kept μ κ := State.updTwin_kept hk
  clear_value s1
  have h2 : s2.Kept μ κ := by
    unfold s2
    split
    · exact State.raiseOnce_kept h1
    · exact h1
  clear_value s2
  have h3 : s3.Kept μ κ := by
    unfold s3
    split
    · exact State.raiseOnce_kept h2
    · exact h2
  exact State.settleStep_kept h3

theorem State.takeMsg_kept {s : State} {m : StreamMsg} (hk : s.Kept μ κ) (t_mem : μ.mem = none := by assumption) (t_rows : μ.rows = none := by assumption) (t_past : μ.past = none := by assumption) (t_dict : μ.dict = none := by assumption) (t_keys : μ.keys = none := by assumption) (t_masks : μ.masks = none := by assumption) (t_portRx : μ.portRx = none := by assumption) (t_clusterRx : μ.clusterRx = none := by assumption) (t_clusterTx : μ.clusterTx = none := by assumption) (t_portTx : μ.portTx = none := by assumption) (t_shutters : μ.shutters = none := by assumption) (t_rings : μ.rings = none := by assumption) (t_quarters : μ.quarters = none := by assumption) (t_twin : μ.twin = none := by assumption) (t_time : μ.time = none := by assumption) (t_objs : μ.objs = none := by assumption) :
    (State.takeMsg s m).Kept μ κ := by
  unfold State.takeMsg
  repeat' with_reducible first
      | assumption | apply State.applyOp_kept | apply State.updTwin_kept | apply State.takeMark_kept | apply State.takeDigest_kept | split
      | (fail_if_no_progress (apply kept_mk))

theorem State.drainHold_kept {a0 : Nat} {a1 : State} (hk : a1.Kept μ κ) (t_mem : μ.mem = none := by assumption) (t_rows : μ.rows = none := by assumption) (t_past : μ.past = none := by assumption) (t_dict : μ.dict = none := by assumption) (t_keys : μ.keys = none := by assumption) (t_masks : μ.masks = none := by assumption) (t_portRx : μ.portRx = none := by assumption) (t_clusterRx : μ.clusterRx = none := by assumption) (t_clusterTx : μ.clusterTx = none := by assumption) (t_portTx : μ.portTx = none := by assumption) (t_shutters : μ.shutters = none := by assumption) (t_rings : μ.rings = none := by assumption) (t_quarters : μ.quarters = none := by assumption) (t_twin : μ.twin = none := by assumption) (t_time : μ.time = none := by assumption) (t_objs : μ.objs = none := by assumption) :
    (State.drainHold a0 a1).Kept μ κ := by
  induction a0 generalizing a1 with
  | zero => exact hk
  | succ n ih =>
    unfold State.drainHold
    repeat' with_reducible first
      | assumption | apply ih | apply State.takeMsg_kept | apply State.updTwin_kept
      | (extract_lets +onlyGivenNames x; first | (refine State.Kept.cut (m := μ) (q := κ) (s := x) ?_ fun hx => ?_; (on_goal 2 => clear_value x); (on_goal 1 => unfold x; clear x)) | (refine State.Kept.cut (m := μ) (q := κ) (s := x.2) ?_ fun hx => ?_; (on_goal 2 => clear_value x); (on_goal 1 => unfold x; clear x)) | clear_value x)
      | split | (fail_if_no_progress (apply kept_mk))

theorem State.endResync_kept {s : State} (hk : s.Kept μ κ) (t_mem : μ.mem = none := by assumption) (t_rows : μ.rows = none := by assumption) (t_past : μ.past = none := by assumption) (t_dict : μ.dict = none := by assumption) (t_keys : μ.keys = none := by assumption) (t_masks : μ.masks = none := by assumption) (t_portRx : μ.portRx = none := by assumption) (t_clusterRx : μ.clusterRx = none := by assumption) (t_clusterTx : μ.clusterTx = none := by assumption) (t_portTx : μ.portTx = none := by assumption) (t_shutters : μ.shutters = none := by assumption) (t_rings : μ.rings = none := by assumption) (t_quarters : μ.quarters = none := by assumption) (t_twin : μ.twin = none := by assumption) (t_time : μ.time = none := by assumption) (t_objs : μ.objs = none := by assumption) :
    (State.endResync s).Kept μ κ := by
  unfold State.endResync
  repeat' with_reducible first
      | assumption | apply State.updTwin_kept | apply State.streamSend_kept | split | (fail_if_no_progress (apply kept_mk))

theorem State.forgetPast_kept {s : State} (hk : s.Kept μ κ) (t_past : μ.past = none := by assumption) : (State.forgetPast s).Kept μ κ := by
  unfold State.forgetPast
  repeat' with_reducible first
      | assumption
      | (extract_lets +onlyGivenNames x; first | (refine State.Kept.cut (m := μ) (q := κ) (s := x) ?_ fun hx => ?_; (on_goal 2 => clear_value x); (on_goal 1 => unfold x; clear x)) | clear_value x)
      | apply kept_past | (fail_if_no_progress (apply kept_mk))

theorem State.healthRx_kept {s : State} {path crcOk : Bool} {w : Word} (hk : s.Kept μ κ) (t_twin : μ.twin = none := by assumption) :
    (State.healthRx s path crcOk w).Kept μ κ := by
  unfold State.healthRx
  repeat' with_reducible first
      | assumption | apply State.hingeCrcErr_kept | apply State.settleStep_kept | apply State.updTwin_kept | apply State.startResync_kept
      | (extract_lets +onlyGivenNames x; first | (refine State.Kept.cut (m := μ) (q := κ) (s := x) ?_ fun hx => ?_; (on_goal 2 => clear_value x); (on_goal 1 => unfold x; clear x)) | clear_value x)
      | split | (fail_if_no_progress (apply kept_mk))

theorem State.streamRx_kept {s : State} {path crcOk : Bool} {n : Nat} {m : StreamMsg} (hk : s.Kept μ κ) (t_mem : μ.mem = none := by assumption) (t_rows : μ.rows = none := by assumption) (t_past : μ.past = none := by assumption) (t_dict : μ.dict = none := by assumption) (t_keys : μ.keys = none := by assumption) (t_masks : μ.masks = none := by assumption) (t_portRx : μ.portRx = none := by assumption) (t_clusterRx : μ.clusterRx = none := by assumption) (t_clusterTx : μ.clusterTx = none := by assumption) (t_portTx : μ.portTx = none := by assumption) (t_shutters : μ.shutters = none := by assumption) (t_rings : μ.rings = none := by assumption) (t_quarters : μ.quarters = none := by assumption) (t_twin : μ.twin = none := by assumption) (t_time : μ.time = none := by assumption) (t_objs : μ.objs = none := by assumption) :
    (State.streamRx s path crcOk n m).Kept μ κ := by
  unfold State.streamRx
  repeat' with_reducible first
      | assumption | apply State.hingeCrcErr_kept | apply State.updTwin_kept | apply State.drainHold_kept
      | (extract_lets +onlyGivenNames x; first | (refine State.Kept.cut (m := μ) (q := κ) (s := x) ?_ fun hx => ?_; (on_goal 2 => clear_value x); (on_goal 1 => unfold x; clear x)) | (refine State.Kept.cut (m := μ) (q := κ) (s := x.2) ?_ fun hx => ?_; (on_goal 2 => clear_value x); (on_goal 1 => unfold x; clear x)) | clear_value x)
      | split | (fail_if_no_progress (apply kept_mk))

theorem execDigestMarkRx_kept {dt : Nat} {path crcOk : Bool} {n : Nat} {digest : Word} {final : Bool} {s : State} (hk : s.Kept μ κ) (t_mem : μ.mem = none := by assumption) (t_rows : μ.rows = none := by assumption) (t_past : μ.past = none := by assumption) (t_dict : μ.dict = none := by assumption) (t_keys : μ.keys = none := by assumption) (t_masks : μ.masks = none := by assumption) (t_portRx : μ.portRx = none := by assumption) (t_clusterRx : μ.clusterRx = none := by assumption) (t_clusterTx : μ.clusterTx = none := by assumption) (t_portTx : μ.portTx = none := by assumption) (t_shutters : μ.shutters = none := by assumption) (t_rings : μ.rings = none := by assumption) (t_quarters : μ.quarters = none := by assumption) (t_twin : μ.twin = none := by assumption) (t_time : μ.time = none := by assumption) (t_objs : μ.objs = none := by assumption) :
    ResKept μ κ (execDigestMarkRx dt path crcOk n digest final s) := by
  unfold execDigestMarkRx
  repeat' with_reducible first
      | assumption | apply resKept_next | apply settled_kept | apply State.streamRx_kept | apply State.elapse_kept

theorem execHealthRx_kept {dt : Nat} {path crcOk : Bool} {w : Word} {s : State} (hk : s.Kept μ κ) (t_mem : μ.mem = none := by assumption) (t_past : μ.past = none := by assumption) (t_portRx : μ.portRx = none := by assumption) (t_clusterRx : μ.clusterRx = none := by assumption) (t_clusterTx : μ.clusterTx = none := by assumption) (t_portTx : μ.portTx = none := by assumption) (t_shutters : μ.shutters = none := by assumption) (t_rings : μ.rings = none := by assumption) (t_quarters : μ.quarters = none := by assumption) (t_twin : μ.twin = none := by assumption) (t_objs : μ.objs = none := by assumption) :
    ResKept μ κ (execHealthRx dt path crcOk w s) := by
  unfold execHealthRx
  repeat' with_reducible first
      | assumption | apply resKept_next | apply settled_kept | apply State.healthRx_kept | apply State.elapse_kept

theorem execLatchMarkRx_kept {dt : Nat} {path crcOk : Bool} {n p tc : Nat} {s : State} (hk : s.Kept μ κ) (t_mem : μ.mem = none := by assumption) (t_rows : μ.rows = none := by assumption) (t_past : μ.past = none := by assumption) (t_dict : μ.dict = none := by assumption) (t_keys : μ.keys = none := by assumption) (t_masks : μ.masks = none := by assumption) (t_portRx : μ.portRx = none := by assumption) (t_clusterRx : μ.clusterRx = none := by assumption) (t_clusterTx : μ.clusterTx = none := by assumption) (t_portTx : μ.portTx = none := by assumption) (t_shutters : μ.shutters = none := by assumption) (t_rings : μ.rings = none := by assumption) (t_quarters : μ.quarters = none := by assumption) (t_twin : μ.twin = none := by assumption) (t_time : μ.time = none := by assumption) (t_objs : μ.objs = none := by assumption) :
    ResKept μ κ (execLatchMarkRx dt path crcOk n p tc s) := by
  unfold execLatchMarkRx
  repeat' with_reducible first
      | assumption | apply resKept_next | apply settled_kept | apply State.streamRx_kept | apply State.elapse_kept

theorem execManagementTick_kept {dt : Nat} {env : TickEnv} {s : State} (hk : s.Kept μ κ) (t_mem : μ.mem = none := by assumption) (t_rows : μ.rows = none := by assumption) (t_past : μ.past = none := by assumption) (t_dict : μ.dict = none := by assumption) (t_keys : μ.keys = none := by assumption) (t_masks : μ.masks = none := by assumption) (t_portRx : μ.portRx = none := by assumption) (t_clusterRx : μ.clusterRx = none := by assumption) (t_clusterTx : μ.clusterTx = none := by assumption) (t_portTx : μ.portTx = none := by assumption) (t_shutters : μ.shutters = none := by assumption) (t_rings : μ.rings = none := by assumption) (t_quarters : μ.quarters = none := by assumption) (t_twin : μ.twin = none := by assumption) (t_time : μ.time = none := by assumption) (t_objs : μ.objs = none := by assumption) :
    ResKept μ κ (execManagementTick dt env s) := by
  unfold execManagementTick
  repeat' with_reducible first
      | assumption | apply resKept_next | apply State.elapse_kept | apply State.flipBanks_kept | apply State.reseed_kept | apply State.bump_kept
      | apply State.tickFunctions_kept | apply State.landDue_kept | apply State.settleFaults_kept | apply State.keyUpsets_kept
      | apply State.sendHealth_kept | apply State.settleStep_kept | apply State.forgetPast_kept | apply State.streamSend_kept
      | (extract_lets +onlyGivenNames x; first | (refine State.Kept.cut (m := μ) (q := κ) (s := x) ?_ fun hx => ?_; (on_goal 2 => clear_value x); (on_goal 1 => unfold x; clear x)) | clear_value x)
      | split | apply kept_time | (fail_if_no_progress (apply kept_mk))

theorem execMirrorRx_kept {dt : Nat} {path crcOk : Bool} {n : Nat} {op : MirrorOp} {s : State} (hk : s.Kept μ κ) (t_mem : μ.mem = none := by assumption) (t_rows : μ.rows = none := by assumption) (t_past : μ.past = none := by assumption) (t_dict : μ.dict = none := by assumption) (t_keys : μ.keys = none := by assumption) (t_masks : μ.masks = none := by assumption) (t_portRx : μ.portRx = none := by assumption) (t_clusterRx : μ.clusterRx = none := by assumption) (t_clusterTx : μ.clusterTx = none := by assumption) (t_portTx : μ.portTx = none := by assumption) (t_shutters : μ.shutters = none := by assumption) (t_rings : μ.rings = none := by assumption) (t_quarters : μ.quarters = none := by assumption) (t_twin : μ.twin = none := by assumption) (t_time : μ.time = none := by assumption) (t_objs : μ.objs = none := by assumption) :
    ResKept μ κ (execMirrorRx dt path crcOk n op s) := by
  unfold execMirrorRx
  repeat' with_reducible first
      | assumption | apply resKept_next | apply settled_kept | apply State.streamRx_kept | apply State.elapse_kept

theorem execResyncComplete_kept {dt : Nat} {s : State} (hk : s.Kept μ κ) (t_mem : μ.mem = none := by assumption) (t_rows : μ.rows = none := by assumption) (t_past : μ.past = none := by assumption) (t_dict : μ.dict = none := by assumption) (t_keys : μ.keys = none := by assumption) (t_masks : μ.masks = none := by assumption) (t_portRx : μ.portRx = none := by assumption) (t_clusterRx : μ.clusterRx = none := by assumption) (t_clusterTx : μ.clusterTx = none := by assumption) (t_portTx : μ.portTx = none := by assumption) (t_shutters : μ.shutters = none := by assumption) (t_rings : μ.rings = none := by assumption) (t_quarters : μ.quarters = none := by assumption) (t_twin : μ.twin = none := by assumption) (t_time : μ.time = none := by assumption) (t_objs : μ.objs = none := by assumption) :
    ResKept μ κ (execResyncComplete dt s) := by
  unfold execResyncComplete
  repeat' with_reducible first
      | assumption | apply resKept_next | apply State.endResync_kept | apply State.elapse_kept

theorem execResyncItemRx_kept {dt : Nat} {path crcOk : Bool} {n : Nat} {op : MirrorOp} {s : State} (hk : s.Kept μ κ) (t_mem : μ.mem = none := by assumption) (t_rows : μ.rows = none := by assumption) (t_past : μ.past = none := by assumption) (t_dict : μ.dict = none := by assumption) (t_keys : μ.keys = none := by assumption) (t_masks : μ.masks = none := by assumption) (t_portRx : μ.portRx = none := by assumption) (t_clusterRx : μ.clusterRx = none := by assumption) (t_clusterTx : μ.clusterTx = none := by assumption) (t_portTx : μ.portTx = none := by assumption) (t_shutters : μ.shutters = none := by assumption) (t_rings : μ.rings = none := by assumption) (t_quarters : μ.quarters = none := by assumption) (t_twin : μ.twin = none := by assumption) (t_time : μ.time = none := by assumption) (t_objs : μ.objs = none := by assumption) :
    ResKept μ κ (execResyncItemRx dt path crcOk n op s) := by
  unfold execResyncItemRx
  repeat' with_reducible first
      | assumption | apply resKept_next | apply settled_kept | apply State.streamRx_kept | apply State.elapse_kept

end Sys2Proof.Machine
end

