-- ==== Sys2Proof/Laws/Quiet.lean ====
section
/-!
SUPPORT. What the scheduler, the shutters and the stages before the wire leave as it was: they put nothing on an interface.
-/
set_option linter.unusedTactic false
set_option linter.unreachableTactic false
set_option linter.unusedVariables false
set_option linter.tactic.unusedName false
namespace Sys2Proof.Machine

/-- What the scheduler, the shutters and the stages before the wire leave as it was: they put nothing on an interface. -/
structure State.Quiet (s s₀ : State) : Prop where
  pending : s.pending = s₀.pending
  out : s.out = s₀.out
  past : s.past = s₀.past
  time : s.time = s₀.time
  dict : s.dict = s₀.dict
  keys : s.keys = s₀.keys
  laneLock : s.laneLock = s₀.laneLock
  portRx : s.portRx = s₀.portRx

theorem State.Quiet.refl (s : State) : s.Quiet s := ⟨rfl, rfl, rfl, rfl, rfl, rfl, rfl, rfl⟩

theorem State.Quiet.cut {s s₀ : State} {p : Prop} (h : s.Quiet s₀) (k : s.Quiet s₀ → p) : p := k h

theorem quiet_mk {s s₀ : State} (h : s.Quiet s₀) {free regs rows ctrs onceTick power clusterPower ev cu masks clusterRx clusterTx portTx shutters rings quarters twin mem} :
    (State.mk s.pending s.out free regs rows s.past ctrs onceTick power clusterPower s.time ev cu s.dict s.keys masks s.laneLock s.portRx clusterRx clusterTx portTx shutters rings quarters twin mem).Quiet s₀ :=
  ⟨h.pending, h.out, h.past, h.time, h.dict, h.keys, h.laneLock, h.portRx⟩

theorem foldl_quiet {α : Type} {f : State → α → State} {l : List α} {s s₀ : State} (h : s.Quiet s₀)
    (hf : ∀ s a, s.Quiet s₀ → (f s a).Quiet s₀) : (l.foldl f s).Quiet s₀ := by
  induction l generalizing s with
  | nil => exact h
  | cons a t ih => exact ih (hf _ _ h)

theorem foldl_quiet_snd {α β : Type} {f : β × State → α → β × State} {l : List α} {x : β × State} {s₀ : State} (h : x.2.Quiet s₀)
    (hf : ∀ x a, x.2.Quiet s₀ → (f x a).2.Quiet s₀) : (l.foldl f x).2.Quiet s₀ := by
  induction l generalizing x with
  | nil => exact h
  | cons a t ih => exact ih (hf _ _ h)

theorem foldl_quiet_mid {α β γ : Type} {f : β × State × γ → α → β × State × γ} {l : List α} {x : β × State × γ} {s₀ : State} (h : x.2.1.Quiet s₀)
    (hf : ∀ x a, x.2.1.Quiet s₀ → (f x a).2.1.Quiet s₀) : (l.foldl f x).2.1.Quiet s₀ := by
  induction l generalizing x with
  | nil => exact h
  | cons a t ih => exact ih (hf _ _ h)

variable {s₀ : State}

theorem State.memWrite_quiet {s : State} {a : Nat} {bs : Bytes} (h : s.Quiet s₀) : (s.memWrite a bs).Quiet s₀ := by
  induction bs generalizing s a with
  | nil => exact h
  | cons b t ih => exact ih (quiet_mk h)

theorem State.rowSet_quiet {s : State} {w u r : Nat} {v : Word} (h : s.Quiet s₀) : (s.rowSet w u r v).Quiet s₀ := quiet_mk h

theorem State.setReg_quiet {s : State} {i u : Nat} {v : Word} (h : s.Quiet s₀) : (s.setReg i u v).Quiet s₀ := quiet_mk h

theorem State.bumpRow_quiet {s : State} {i u r n : Nat} (h : s.Quiet s₀) : (s.bumpRow i u r n).Quiet s₀ := by
  unfold State.bumpRow
  dsimp only
  split
  · exact quiet_mk (quiet_mk h)
  · exact quiet_mk h

theorem State.setDom_quiet {s : State} {n : Nat} {d : Domain} (hk : s.Quiet s₀) : (State.setDom s n d).Quiet s₀ := by
  unfold State.setDom
  repeat' with_reducible first
      | assumption
      | (extract_lets +onlyGivenNames x; first | (refine State.Quiet.cut (s₀ := s₀) (s := x) ?_ fun hx => ?_; (on_goal 2 => clear_value x); (on_goal 1 => unfold x; clear x)) | clear_value x)
      | (fail_if_no_progress (apply quiet_mk))

theorem State.beginSwitch_quiet {s : State} {n : Nat} {goal : Pwr} (hk : s.Quiet s₀) : (State.beginSwitch s n goal).Quiet s₀ := by
  unfold State.beginSwitch
  repeat' with_reducible first
      | assumption | apply State.setDom_quiet
      | (extract_lets +onlyGivenNames x; first | (refine State.Quiet.cut (s₀ := s₀) (s := x) ?_ fun hx => ?_; (on_goal 2 => clear_value x); (on_goal 1 => unfold x; clear x)) | clear_value x)
      | split | (fail_if_no_progress (apply quiet_mk))

theorem State.bump_quiet {s : State} {idx sub n : Nat} (hk : s.Quiet s₀) : (State.bump s idx sub n).Quiet s₀ := by
  unfold State.bump
  repeat' with_reducible first
      | assumption | apply State.bumpRow_quiet

theorem State.bumpPort_quiet {s : State} {p slot n : Nat} (hk : s.Quiet s₀) : (State.bumpPort s p slot n).Quiet s₀ := by
  unfold State.bumpPort
  repeat' with_reducible first
      | assumption | apply State.bumpRow_quiet

theorem State.requestOn_quiet {s : State} {n : Nat} (hk : s.Quiet s₀) : (State.requestOn s n).Quiet s₀ := by
  unfold State.requestOn
  repeat' with_reducible first
      | assumption | apply State.setDom_quiet | apply State.beginSwitch_quiet
      | (extract_lets +onlyGivenNames x; first | (refine State.Quiet.cut (s₀ := s₀) (s := x) ?_ fun hx => ?_; (on_goal 2 => clear_value x); (on_goal 1 => unfold x; clear x)) | clear_value x)
      | split | (fail_if_no_progress (apply quiet_mk))

theorem State.endSleep_quiet {s : State} (hk : s.Quiet s₀) : (State.endSleep s).Quiet s₀ := by
  unfold State.endSleep
  repeat' with_reducible first
      | assumption | apply State.requestOn_quiet | apply foldl_quiet | intro _
      | (extract_lets +onlyGivenNames x; first | (refine State.Quiet.cut (s₀ := s₀) (s := x) ?_ fun hx => ?_; (on_goal 2 => clear_value x); (on_goal 1 => unfold x; clear x)) | clear_value x)
      | split | (fail_if_no_progress (apply quiet_mk))

theorem State.freshWord_quiet {s : State} (hk : s.Quiet s₀) : (State.freshWord s).2.Quiet s₀ := by
  unfold State.freshWord
  repeat' with_reducible first
      | assumption
      | (extract_lets +onlyGivenNames x; first | (refine State.Quiet.cut (s₀ := s₀) (s := x) ?_ fun hx => ?_; (on_goal 2 => clear_value x); (on_goal 1 => unfold x; clear x)) | clear_value x)
      | (fail_if_no_progress (apply quiet_mk))

theorem State.setClp_quiet {s : State} {c : Nat} {q : ClusterPower} (hk : s.Quiet s₀) : (State.setClp s c q).Quiet s₀ := by
  unfold State.setClp
  repeat' with_reducible first
      | assumption
      | (extract_lets +onlyGivenNames x; first | (refine State.Quiet.cut (s₀ := s₀) (s := x) ?_ fun hx => ?_; (on_goal 2 => clear_value x); (on_goal 1 => unfold x; clear x)) | clear_value x)
      | (fail_if_no_progress (apply quiet_mk))

theorem State.wakeCluster_quiet {s : State} {c : Nat} (hk : s.Quiet s₀) : (State.wakeCluster s c).Quiet s₀ := by
  unfold State.wakeCluster
  dsimp only
  split
  · exact State.requestOn_quiet (State.requestOn_quiet (State.requestOn_quiet (State.setReg_quiet (State.setClp_quiet hk))))
  · exact State.setClp_quiet hk
  · exact hk

theorem State.wakeCommon_quiet {s : State} (hk : s.Quiet s₀) : (State.wakeCommon s).Quiet s₀ := by
  unfold State.wakeCommon
  repeat' with_reducible first
      | assumption | apply State.requestOn_quiet | apply State.endSleep_quiet | apply foldl_quiet | intro _ | split

theorem State.latchFire_quiet {s : State} {e data : Nat} (hk : s.Quiet s₀) : (State.latchFire s e data).1.Quiet s₀ := by
  unfold State.latchFire
  repeat' with_reducible first
      | assumption | apply State.wakeCluster_quiet | apply State.wakeCommon_quiet | apply State.bump_quiet | apply foldl_quiet | intro _
      | (extract_lets +onlyGivenNames x; first | (refine State.Quiet.cut (s₀ := s₀) (s := x) ?_ fun hx => ?_; (on_goal 2 => clear_value x); (on_goal 1 => unfold x; clear x)) | clear_value x)
      | split | (fail_if_no_progress (apply quiet_mk))

theorem State.noteEcc_quiet {s : State} {e : Nat} (hk : s.Quiet s₀) :
    (State.noteEcc s e).Quiet s₀ := by
  unfold State.noteEcc
  repeat' with_reducible first
      | assumption
      | (extract_lets +onlyGivenNames x; first | (refine State.Quiet.cut (s₀ := s₀) (s := x) ?_ fun hx => ?_; (on_goal 2 => clear_value x); (on_goal 1 => unfold x; clear x)) | clear_value x)
      | split | (fail_if_no_progress (apply quiet_mk))

theorem State.setSrc_quiet {s : State} {e : Nat} {q : Source} (hk : s.Quiet s₀) : (State.setSrc s e q).Quiet s₀ := by
  unfold State.setSrc
  repeat' with_reducible first
      | assumption
      | (extract_lets +onlyGivenNames x; first | (refine State.Quiet.cut (s₀ := s₀) (s := x) ?_ fun hx => ?_; (on_goal 2 => clear_value x); (on_goal 1 => unfold x; clear x)) | clear_value x)
      | (fail_if_no_progress (apply quiet_mk))

theorem State.raiseSource_quiet {s : State} {e data : Nat} (hk : s.Quiet s₀) : (State.raiseSource s e data).Quiet s₀ := by
  unfold State.raiseSource
  repeat' with_reducible first
      | assumption | apply State.bump_quiet | apply State.setSrc_quiet
      | (extract_lets +onlyGivenNames x; first | (refine State.Quiet.cut (s₀ := s₀) (s := x) ?_ fun hx => ?_; (on_goal 2 => clear_value x); (on_goal 1 => unfold x; clear x)) | clear_value x)
      | split | (fail_if_no_progress (apply quiet_mk))

theorem State.raise_quiet {s : State} {e : Nat} {data : optParam Nat 0} (hk : s.Quiet s₀) : (State.raise s e data).Quiet s₀ := by
  unfold State.raise
  repeat' with_reducible first
      | assumption | (rename_i e; have e2 := congrArg Prod.snd e; dsimp only at e2; subst e2) | apply State.latchFire_quiet
      | apply State.raiseSource_quiet | apply foldl_quiet | apply foldl_quiet_snd | apply foldl_quiet_mid | apply foldl_resKept
      | apply foldl_quietPair | apply foldl_quietSlot | intro _ | apply quietPair_none | apply quietPair_some | apply foldl_quietPair
      | exact QuietPair.state (by assumption) | exact optKept_none | apply optKept_some
      | (extract_lets +onlyGivenNames x; first | (refine State.Quiet.cut (s₀ := s₀) (s := x) ?_ fun hx => ?_; (on_goal 2 => clear_value x); (on_goal 1 => unfold x; clear x)) | (refine State.Quiet.cut (s₀ := s₀) (s := x.2) ?_ fun hx => ?_; (on_goal 2 => clear_value x); (on_goal 1 => unfold x; clear x)) | (refine State.Quiet.cut (s₀ := s₀) (s := x.2.2) ?_ fun hx => ?_; (on_goal 2 => clear_value x); (on_goal 1 => unfold x; clear x)) | (refine State.Quiet.cut (s₀ := s₀) (s := x.1) ?_ fun hx => ?_; (on_goal 2 => clear_value x); (on_goal 1 => unfold x; clear x)) | (have _f : _ → _ := x; clear _f) | clear_value x | skip)
      | split | (fail_if_no_progress (apply quiet_mk)) | (fail_if_no_progress (apply quiet_eraseRegs))
      | (fail_if_no_progress (apply quiet_eraseRings)) | (fail_if_no_progress (apply quiet_setCtr)) | (dsimp -zeta +zetaDelta only)

theorem State.raiseOnce_quiet {s : State} {e : Nat} {data : optParam Nat 0} (hk : s.Quiet s₀) :
    (State.raiseOnce s e data).Quiet s₀ := by
  unfold State.raiseOnce
  repeat' with_reducible first
      | assumption | apply State.noteEcc_quiet | apply State.raise_quiet
      | (extract_lets +onlyGivenNames x; first | (refine State.Quiet.cut (s₀ := s₀) (s := x) ?_ fun hx => ?_; (on_goal 2 => clear_value x); (on_goal 1 => unfold x; clear x)) | clear_value x)
      | split | (fail_if_no_progress (apply quiet_mk))

theorem State.setClRx_quiet {s : State} {c : Nat} {q : ClusterRx} (hk : s.Quiet s₀) :
    (State.setClRx s c q).Quiet s₀ := by
  unfold State.setClRx
  repeat' with_reducible first
      | assumption
      | (extract_lets +onlyGivenNames x; first | (refine State.Quiet.cut (s₀ := s₀) (s := x) ?_ fun hx => ?_; (on_goal 2 => clear_value x); (on_goal 1 => unfold x; clear x)) | clear_value x)
      | (fail_if_no_progress (apply quiet_mk))

theorem State.setClTx_quiet {s : State} {c : Nat} {q : ClusterTx} (hk : s.Quiet s₀) :
    (State.setClTx s c q).Quiet s₀ := by
  unfold State.setClTx
  repeat' with_reducible first
      | assumption
      | (extract_lets +onlyGivenNames x; first | (refine State.Quiet.cut (s₀ := s₀) (s := x) ?_ fun hx => ?_; (on_goal 2 => clear_value x); (on_goal 1 => unfold x; clear x)) | clear_value x)
      | (fail_if_no_progress (apply quiet_mk))

theorem State.setPortTx_quiet {s : State} {p : Nat} {q : PortTx} (hk : s.Quiet s₀) :
    (State.setPortTx s p q).Quiet s₀ := by
  unfold State.setPortTx
  repeat' with_reducible first
      | assumption
      | (extract_lets +onlyGivenNames x; first | (refine State.Quiet.cut (s₀ := s₀) (s := x) ?_ fun hx => ?_; (on_goal 2 => clear_value x); (on_goal 1 => unfold x; clear x)) | clear_value x)
      | (fail_if_no_progress (apply quiet_mk))

theorem State.setQuarter_quiet {s : State} {q : Nat} {v : Quarter} (hk : s.Quiet s₀) :
    (State.setQuarter s q v).Quiet s₀ := by
  unfold State.setQuarter
  repeat' with_reducible first
      | assumption
      | (extract_lets +onlyGivenNames x; first | (refine State.Quiet.cut (s₀ := s₀) (s := x) ?_ fun hx => ?_; (on_goal 2 => clear_value x); (on_goal 1 => unfold x; clear x)) | clear_value x)
      | (fail_if_no_progress (apply quiet_mk))

theorem State.setRing_quiet {s : State} {r : Nat} {q : Ring} (hk : s.Quiet s₀) :
    (State.setRing s r q).Quiet s₀ := by
  unfold State.setRing
  repeat' with_reducible first
      | assumption
      | (extract_lets +onlyGivenNames x; first | (refine State.Quiet.cut (s₀ := s₀) (s := x) ?_ fun hx => ?_; (on_goal 2 => clear_value x); (on_goal 1 => unfold x; clear x)) | clear_value x)
      | (fail_if_no_progress (apply quiet_mk))

theorem State.updClTx_quiet {s : State} {c : Nat} {f : ClusterTx → ClusterTx} (hk : s.Quiet s₀) :
    (State.updClTx s c f).Quiet s₀ := by
  unfold State.updClTx
  repeat' with_reducible first
      | assumption | apply State.setClTx_quiet

theorem State.setSch_quiet {s : State} {c k : Nat} {r : SchRow} (hk : s.Quiet s₀) :
    (State.setSch s c k r).Quiet s₀ := by
  unfold State.setSch
  repeat' with_reducible first
      | assumption | apply State.updClTx_quiet | (fail_if_no_progress (apply quiet_mk))

theorem State.setShut_quiet {s : State} {p : Nat} {q : Shutter} (hk : s.Quiet s₀) :
    (State.setShut s p q).Quiet s₀ := by
  unfold State.setShut
  repeat' with_reducible first
      | assumption
      | (extract_lets +onlyGivenNames x; first | (refine State.Quiet.cut (s₀ := s₀) (s := x) ?_ fun hx => ?_; (on_goal 2 => clear_value x); (on_goal 1 => unfold x; clear x)) | clear_value x)
      | (fail_if_no_progress (apply quiet_mk))

theorem State.updClRx_quiet {s : State} {c : Nat} {f : ClusterRx → ClusterRx} (hk : s.Quiet s₀) :
    (State.updClRx s c f).Quiet s₀ := by
  unfold State.updClRx
  repeat' with_reducible first
      | assumption | apply State.setClRx_quiet

theorem State.updPortTx_quiet {s : State} {p : Nat} {f : PortTx → PortTx} (hk : s.Quiet s₀) :
    (State.updPortTx s p f).Quiet s₀ := by
  unfold State.updPortTx
  repeat' with_reducible first
      | assumption | apply State.setPortTx_quiet

theorem State.updRing_quiet {s : State} {r : Nat} {f : Ring → Ring} (hk : s.Quiet s₀) :
    (State.updRing s r f).Quiet s₀ := by
  unfold State.updRing
  repeat' with_reducible first
      | assumption | apply State.setRing_quiet

theorem State.updTwin_quiet {s : State} {f : TwinUnit → TwinUnit} (hk : s.Quiet s₀) :
    (State.updTwin s f).Quiet s₀ := by
  unfold State.updTwin
  repeat' with_reducible first
      | assumption
      | (extract_lets +onlyGivenNames x; first | (refine State.Quiet.cut (s₀ := s₀) (s := x) ?_ fun hx => ?_; (on_goal 2 => clear_value x); (on_goal 1 => unfold x; clear x)) | clear_value x)
      | (fail_if_no_progress (apply quiet_mk))

theorem State.chargeTags_quiet {s : State} {c parent child cLen : Nat} (hk : s.Quiet s₀) :
    (State.chargeTags s c parent child cLen).Quiet s₀ := by
  unfold State.chargeTags
  repeat' with_reducible first
      | assumption | apply State.setSch_quiet
      | (extract_lets +onlyGivenNames x; first | (refine State.Quiet.cut (s₀ := s₀) (s := x) ?_ fun hx => ?_; (on_goal 2 => clear_value x); (on_goal 1 => unfold x; clear x)) | clear_value x)
      | (fail_if_no_progress (apply quiet_mk))

theorem State.refillRow_quiet {s : State} {c k : Nat} (hk : s.Quiet s₀) :
    (State.refillRow s c k).Quiet s₀ := by
  unfold State.refillRow
  repeat' with_reducible first
      | assumption | apply State.setSch_quiet
      | (extract_lets +onlyGivenNames x; first | (refine State.Quiet.cut (s₀ := s₀) (s := x) ?_ fun hx => ?_; (on_goal 2 => clear_value x); (on_goal 1 => unfold x; clear x)) | clear_value x)
      | split | (fail_if_no_progress (apply quiet_mk))

theorem State.placeRow_quiet {s : State} {c k : Nat} {t : Word} (hk : s.Quiet s₀) :
    (State.placeRow s c k t).Quiet s₀ := by
  unfold State.placeRow
  repeat' with_reducible first
      | assumption | apply State.setSch_quiet | apply State.bump_quiet
      | (extract_lets +onlyGivenNames x; first | (refine State.Quiet.cut (s₀ := s₀) (s := x) ?_ fun hx => ?_; (on_goal 2 => clear_value x); (on_goal 1 => unfold x; clear x)) | (refine State.Quiet.cut (s₀ := s₀) (s := x.2) ?_ fun hx => ?_; (on_goal 2 => clear_value x); (on_goal 1 => unfold x; clear x)) | clear_value x)
      | split | (fail_if_no_progress (apply quiet_mk))

theorem State.settleClass_quiet {s : State} {c l n : Nat} (hk : s.Quiet s₀) :
    (State.settleClass s c l n).Quiet s₀ := by
  unfold State.settleClass
  repeat' with_reducible first
      | assumption | apply State.setSch_quiet
      | (extract_lets +onlyGivenNames x; first | (refine State.Quiet.cut (s₀ := s₀) (s := x) ?_ fun hx => ?_; (on_goal 2 => clear_value x); (on_goal 1 => unfold x; clear x)) | clear_value x)
      | split | (fail_if_no_progress (apply quiet_mk))

theorem State.settleNode_quiet {s : State} {c k : Nat} (hk : s.Quiet s₀) :
    (State.settleNode s c k).Quiet s₀ := by
  unfold State.settleNode
  repeat' with_reducible first
      | assumption | apply State.setSch_quiet | apply State.settleClass_quiet
      | (extract_lets +onlyGivenNames x; first | (refine State.Quiet.cut (s₀ := s₀) (s := x) ?_ fun hx => ?_; (on_goal 2 => clear_value x); (on_goal 1 => unfold x; clear x)) | clear_value x)
      | split | (fail_if_no_progress (apply quiet_mk))

theorem State.settleParent_quiet {s : State} {c par : Nat} (hk : s.Quiet s₀) :
    (State.settleParent s c par).Quiet s₀ := by
  unfold State.settleParent
  repeat' with_reducible first
      | assumption | apply State.settleNode_quiet | apply State.settleClass_quiet | split

theorem State.settleLeaf_quiet {s : State} {c k : Nat} (hk : s.Quiet s₀) :
    (State.settleLeaf s c k).Quiet s₀ := by
  unfold State.settleLeaf
  repeat' with_reducible first
      | assumption | apply State.setSch_quiet | apply State.settleParent_quiet
      | (extract_lets +onlyGivenNames x; first | (refine State.Quiet.cut (s₀ := s₀) (s := x) ?_ fun hx => ?_; (on_goal 2 => clear_value x); (on_goal 1 => unfold x; clear x)) | clear_value x)
      | split | (fail_if_no_progress (apply quiet_mk))

theorem State.settleRow_quiet {s : State} {c k : Nat} (hk : s.Quiet s₀) :
    (State.settleRow s c k).Quiet s₀ := by
  unfold State.settleRow
  repeat' with_reducible first
      | assumption | apply State.settleLeaf_quiet | apply State.settleNode_quiet | split

theorem State.setGroup_quiet {s : State} {c k : Nat} (hk : s.Quiet s₀) :
    (State.setGroup s c k).Quiet s₀ := by
  unfold State.setGroup
  repeat' with_reducible first
      | assumption | apply State.setSch_quiet | apply State.placeRow_quiet | apply State.settleRow_quiet
      | (extract_lets +onlyGivenNames x; first | (refine State.Quiet.cut (s₀ := s₀) (s := x) ?_ fun hx => ?_; (on_goal 2 => clear_value x); (on_goal 1 => unfold x; clear x)) | (refine State.Quiet.cut (s₀ := s₀) (s := x.2) ?_ fun hx => ?_; (on_goal 2 => clear_value x); (on_goal 1 => unfold x; clear x)) | clear_value x)
      | split | (fail_if_no_progress (apply quiet_mk))

theorem State.debitRow_quiet {s : State} {c k cLen : Nat} (hk : s.Quiet s₀) :
    (State.debitRow s c k cLen).Quiet s₀ := by
  unfold State.debitRow
  repeat' with_reducible first
      | assumption | apply State.refillRow_quiet | apply State.setSch_quiet | apply State.setGroup_quiet
      | (extract_lets +onlyGivenNames x; first | (refine State.Quiet.cut (s₀ := s₀) (s := x) ?_ fun hx => ?_; (on_goal 2 => clear_value x); (on_goal 1 => unfold x; clear x)) | clear_value x)
      | split | (fail_if_no_progress (apply quiet_mk))

theorem State.chargeGrant_quiet {s : State} {c l n leaf cLen : Nat} (hk : s.Quiet s₀) :
    (State.chargeGrant s c l n leaf cLen).Quiet s₀ := by
  unfold State.chargeGrant
  repeat' with_reducible first
      | assumption | apply State.chargeTags_quiet | apply State.setSch_quiet | apply State.debitRow_quiet | apply State.bumpRow_quiet
      | apply State.bump_quiet
      | (extract_lets +onlyGivenNames x; first | (refine State.Quiet.cut (s₀ := s₀) (s := x) ?_ fun hx => ?_; (on_goal 2 => clear_value x); (on_goal 1 => unfold x; clear x)) | clear_value x)
      | split | (fail_if_no_progress (apply quiet_mk))

theorem State.dropRow_quiet {s : State} {c k par : Nat} (hk : s.Quiet s₀) :
    (State.dropRow s c k par).Quiet s₀ := by
  unfold State.dropRow
  repeat' with_reducible first
      | assumption | apply State.setSch_quiet | apply State.settleParent_quiet
      | (extract_lets +onlyGivenNames x; first | (refine State.Quiet.cut (s₀ := s₀) (s := x) ?_ fun hx => ?_; (on_goal 2 => clear_value x); (on_goal 1 => unfold x; clear x)) | clear_value x)
      | (fail_if_no_progress (apply quiet_mk))

theorem State.settlePort_quiet {s : State} {p : Nat} (hk : s.Quiet s₀) :
    (State.settlePort s p).Quiet s₀ := by
  unfold State.settlePort
  repeat' with_reducible first
      | assumption | apply State.settleClass_quiet | apply foldl_quiet | intro _

theorem State.schedEcc_quiet {s : State} {c t row : Nat} (hk : s.Quiet s₀) :
    (State.schedEcc s c t row).Quiet s₀ := by
  unfold State.schedEcc
  extract_lets w k par s0 r0 s1 s2 b s3
  have h1 : s1.Quiet s₀ := by
    unfold s1
    split
    · exact State.setSch_quiet (foldl_quiet hk fun s a hs => State.rowSet_quiet hs)
    · exact State.dropRow_quiet (State.rowSet_quiet hk)
  have h3 : s3.Quiet s₀ := by
    unfold s3
    split
    · exact State.bump_quiet h1
    · exact State.setClTx_quiet (State.bump_quiet h1)
  exact State.raiseOnce_quiet h3

theorem State.shutCause_quiet {s : State} {p bit : Nat} (hk : s.Quiet s₀) :
    (State.shutCause s p bit).Quiet s₀ := by
  unfold State.shutCause
  repeat' with_reducible first
      | assumption | apply State.setShut_quiet | apply State.raise_quiet
      | (extract_lets +onlyGivenNames x; first | (refine State.Quiet.cut (s₀ := s₀) (s := x) ?_ fun hx => ?_; (on_goal 2 => clear_value x); (on_goal 1 => unfold x; clear x)) | clear_value x)
      | split | (fail_if_no_progress (apply quiet_mk))

theorem State.fit_quiet {s : State} {p n w : Nat} (hk : s.Quiet s₀) :
    (State.fit s p n w).2.Quiet s₀ := by
  unfold State.fit
  repeat' with_reducible first
      | assumption | apply State.shutCause_quiet | apply State.bumpPort_quiet | apply State.setShut_quiet
      | (extract_lets +onlyGivenNames x; first | (refine State.Quiet.cut (s₀ := s₀) (s := x) ?_ fun hx => ?_; (on_goal 2 => clear_value x); (on_goal 1 => unfold x; clear x)) | clear_value x)
      | split | (fail_if_no_progress (apply quiet_mk))

theorem State.openDigest_quiet {s : State} {p cycle close : Nat} (hk : s.Quiet s₀) :
    (State.openDigest s p cycle close).Quiet s₀ := by
  unfold State.openDigest
  repeat' with_reducible first
      | assumption | apply State.setShut_quiet
      | (extract_lets +onlyGivenNames x; first | (refine State.Quiet.cut (s₀ := s₀) (s := x) ?_ fun hx => ?_; (on_goal 2 => clear_value x); (on_goal 1 => unfold x; clear x)) | clear_value x)
      | split | (fail_if_no_progress (apply quiet_mk))

theorem State.addDigest_quiet {s : State} {p tc cycle : Nat} {body : Bytes} (hk : s.Quiet s₀) :
    (State.addDigest s p tc cycle body).Quiet s₀ := by
  unfold State.addDigest
  repeat' with_reducible first
      | assumption | apply State.openDigest_quiet | apply State.setShut_quiet | apply State.raiseOnce_quiet | apply State.bump_quiet
      | (extract_lets +onlyGivenNames x; first | (refine State.Quiet.cut (s₀ := s₀) (s := x) ?_ fun hx => ?_; (on_goal 2 => clear_value x); (on_goal 1 => unfold x; clear x)) | (refine State.Quiet.cut (s₀ := s₀) (s := x.2) ?_ fun hx => ?_; (on_goal 2 => clear_value x); (on_goal 1 => unfold x; clear x)) | clear_value x)
      | split | (fail_if_no_progress (apply quiet_mk))

theorem State.calStage_quiet {s : State} {c : Nat} {f : CalIn} (hk : s.Quiet s₀) :
    (State.calStage s c f).2.Quiet s₀ := by
  unfold State.calStage
  repeat' with_reducible first
      | assumption | apply State.bumpRow_quiet | apply State.rowSet_quiet | apply State.setClTx_quiet | apply State.raiseOnce_quiet
      | (extract_lets +onlyGivenNames x; first | (refine State.Quiet.cut (s₀ := s₀) (s := x) ?_ fun hx => ?_; (on_goal 2 => clear_value x); (on_goal 1 => unfold x; clear x)) | clear_value x)
      | split | (fail_if_no_progress (apply quiet_mk))

theorem State.busRead_quiet {s : State} {r n : Nat} (hk : s.Quiet s₀) : (State.busRead s r n).Quiet s₀ := by
  unfold State.busRead
  repeat' with_reducible first
      | assumption | apply State.bump_quiet

theorem State.busWrite_quiet {s : State} {r n : Nat} (hk : s.Quiet s₀) : (State.busWrite s r n).Quiet s₀ := by
  unfold State.busWrite
  repeat' with_reducible first
      | assumption | apply State.bump_quiet

theorem State.ringCause_quiet {s : State} {r bit : Nat} (hk : s.Quiet s₀) :
    (State.ringCause s r bit).Quiet s₀ := by
  unfold State.ringCause
  repeat' with_reducible first
      | assumption | apply State.setRing_quiet | apply State.raise_quiet
      | (extract_lets +onlyGivenNames x; first | (refine State.Quiet.cut (s₀ := s₀) (s := x) ?_ fun hx => ?_; (on_goal 2 => clear_value x); (on_goal 1 => unfold x; clear x)) | clear_value x)
      | split | (fail_if_no_progress (apply quiet_mk))

theorem State.completeDesc_quiet {s : State} {r i : Nat} {d : Desc} {result done : Nat} {aux : Option Word} {extra : Nat} (hk : s.Quiet s₀) :
    (State.completeDesc s r i d result done aux extra).Quiet s₀ := by
  unfold State.completeDesc
  repeat' with_reducible first
      | assumption | apply State.busWrite_quiet | apply State.memWrite_quiet | apply State.bump_quiet | apply State.updRing_quiet
      | apply State.ringCause_quiet | apply State.raise_quiet
      | (extract_lets +onlyGivenNames x; first | (refine State.Quiet.cut (s₀ := s₀) (s := x) ?_ fun hx => ?_; (on_goal 2 => clear_value x); (on_goal 1 => unfold x; clear x)) | clear_value x)
      | split | (fail_if_no_progress (apply quiet_mk))

theorem State.completeChain_quiet {s : State} {r : Nat} {c : Chain} {result : Nat} {stamp : Option Word} (hk : s.Quiet s₀) :
    (State.completeChain s r c result stamp).Quiet s₀ := by
  unfold State.completeChain
  repeat' with_reducible first
      | assumption | apply State.completeDesc_quiet | apply foldl_quiet | intro _
      | (extract_lets +onlyGivenNames x; first | (refine State.Quiet.cut (s₀ := s₀) (s := x) ?_ fun hx => ?_; (on_goal 2 => clear_value x); (on_goal 1 => unfold x; clear x)) | clear_value x)
      | split

theorem State.settleChains_quiet {r a0 : Nat} {a1 : State} (hk : a1.Quiet s₀) :
    (State.settleChains r a0 a1).Quiet s₀ := by
  induction a0 generalizing a1 with
  | zero => exact hk
  | succ n ih =>
    unfold State.settleChains
    repeat' with_reducible first
      | assumption | apply ih | apply State.updRing_quiet | apply State.completeChain_quiet | split | (fail_if_no_progress (apply quiet_mk))

theorem State.directDone_quiet {s : State} {o : Option DirectRef} {result : Nat} {stamp : Option Word} (hk : s.Quiet s₀) :
    (State.directDone s o result stamp).Quiet s₀ := by
  unfold State.directDone
  repeat' with_reducible first
      | assumption | apply State.updRing_quiet | apply State.settleChains_quiet
      | (extract_lets +onlyGivenNames x; first | (refine State.Quiet.cut (s₀ := s₀) (s := x) ?_ fun hx => ?_; (on_goal 2 => clear_value x); (on_goal 1 => unfold x; clear x)) | clear_value x)
      | split | (fail_if_no_progress (apply quiet_mk))

theorem State.fetchDesc_quiet {s : State} {r : Nat} (hk : s.Quiet s₀) :
    (State.fetchDesc s r).2.Quiet s₀ := by
  unfold State.fetchDesc
  repeat' with_reducible first
      | assumption | apply State.busRead_quiet | apply State.setRing_quiet
      | (extract_lets +onlyGivenNames x; first | (refine State.Quiet.cut (s₀ := s₀) (s := x) ?_ fun hx => ?_; (on_goal 2 => clear_value x); (on_goal 1 => unfold x; clear x)) | clear_value x)
      | split | (fail_if_no_progress (apply quiet_mk))

theorem State.reserveDescs_quiet {r need a0 a1 a2 : Nat} {a3 : State} (hk : a3.Quiet s₀) :
    (State.reserveDescs r need a0 a1 a2 a3).2.Quiet s₀ := by
  induction a0 generalizing a1 a2 a3 with
  | zero => exact hk
  | succ n ih =>
    unfold State.reserveDescs
    repeat' with_reducible first
      | assumption | (rename_i e; have e2 := congrArg Prod.snd e; dsimp only at e2; subst e2) | apply ih | apply State.completeDesc_quiet
      | apply State.updRing_quiet | apply State.fetchDesc_quiet | intro _
      | (extract_lets +onlyGivenNames x; first | (refine State.Quiet.cut (s₀ := s₀) (s := x) ?_ fun hx => ?_; (on_goal 2 => clear_value x); (on_goal 1 => unfold x; clear x)) | (refine State.Quiet.cut (s₀ := s₀) (s := x.2) ?_ fun hx => ?_; (on_goal 2 => clear_value x); (on_goal 1 => unfold x; clear x)) | (have _f : _ → _ := x; clear _f) | clear_value x | skip)
      | split | (fail_if_no_progress (apply quiet_mk)) | (dsimp -zeta +zetaDelta only)

theorem State.stageRx_quiet {s : State} {f : Staged} {good known : Bool} (hk : s.Quiet s₀) :
    (State.stageRx s f good known).2.Quiet s₀ := by
  unfold State.stageRx
  repeat' with_reducible first
      | assumption | apply State.reserveDescs_quiet | apply State.ringCause_quiet | apply State.bump_quiet | apply State.updRing_quiet
      | apply State.setQuarter_quiet
      | (extract_lets +onlyGivenNames x; first | (refine State.Quiet.cut (s₀ := s₀) (s := x) ?_ fun hx => ?_; (on_goal 2 => clear_value x); (on_goal 1 => unfold x; clear x)) | (refine State.Quiet.cut (s₀ := s₀) (s := x.2) ?_ fun hx => ?_; (on_goal 2 => clear_value x); (on_goal 1 => unfold x; clear x)) | clear_value x)
      | split | (fail_if_no_progress (apply quiet_mk))

theorem State.peepDrop_quiet {s : State} {c k : Nat} (hk : s.Quiet s₀) :
    (State.peepDrop s c k).Quiet s₀ := by
  unfold State.peepDrop
  repeat' with_reducible first
      | assumption | apply State.raiseOnce_quiet | apply State.bumpRow_quiet

theorem State.skidPush_quiet {s : State} {c : Nat} {f : SkidFrame} (hk : s.Quiet s₀) :
    (State.skidPush s c f).Quiet s₀ := by
  unfold State.skidPush
  repeat' with_reducible first
      | assumption | apply State.updClRx_quiet | (fail_if_no_progress (apply quiet_mk))

theorem State.peepCopy_quiet {s : State} {c k : Nat} {t : TapIn} (hk : s.Quiet s₀) :
    (State.peepCopy s c k t).Quiet s₀ := by
  unfold State.peepCopy
  repeat' with_reducible first
      | assumption | apply State.updClRx_quiet | apply State.peepDrop_quiet | apply State.skidPush_quiet | apply State.stageRx_quiet
      | (extract_lets +onlyGivenNames x; first | (refine State.Quiet.cut (s₀ := s₀) (s := x) ?_ fun hx => ?_; (on_goal 2 => clear_value x); (on_goal 1 => unfold x; clear x)) | (refine State.Quiet.cut (s₀ := s₀) (s := x.2) ?_ fun hx => ?_; (on_goal 2 => clear_value x); (on_goal 1 => unfold x; clear x)) | clear_value x)
      | split | (fail_if_no_progress (apply quiet_mk))

theorem State.peepTap_quiet {s : State} {t : TapIn} (hk : s.Quiet s₀) :
    (State.peepTap s t).Quiet s₀ := by
  unfold State.peepTap
  repeat' with_reducible first
      | assumption | apply State.bumpRow_quiet | apply State.updClRx_quiet | apply State.peepCopy_quiet | apply foldl_quiet | intro _
      | (extract_lets +onlyGivenNames x; first | (refine State.Quiet.cut (s₀ := s₀) (s := x) ?_ fun hx => ?_; (on_goal 2 => clear_value x); (on_goal 1 => unfold x; clear x)) | clear_value x)
      | split | (fail_if_no_progress (apply quiet_mk))

theorem State.drawMasks_quiet {s : State} {c : Nat} (hk : s.Quiet s₀) :
    (State.drawMasks s c).Quiet s₀ := by
  unfold State.drawMasks
  repeat' with_reducible first
      | assumption
      | (extract_lets +onlyGivenNames x; first | (refine State.Quiet.cut (s₀ := s₀) (s := x) ?_ fun hx => ?_; (on_goal 2 => clear_value x); (on_goal 1 => unfold x; clear x)) | (refine State.Quiet.cut (s₀ := s₀) (s := x.2) ?_ fun hx => ?_; (on_goal 2 => clear_value x); (on_goal 1 => unfold x; clear x)) | clear_value x)
      | (fail_if_no_progress (apply quiet_mk))

theorem State.pnAlert_quiet {s : State} {c r : Nat} {exhausted : Bool} (hk : s.Quiet s₀) :
    (State.pnAlert s c r exhausted).Quiet s₀ := by
  unfold State.pnAlert
  repeat' with_reducible first
      | assumption | apply State.setClRx_quiet | apply State.raise_quiet
      | (extract_lets +onlyGivenNames x; first | (refine State.Quiet.cut (s₀ := s₀) (s := x) ?_ fun hx => ?_; (on_goal 2 => clear_value x); (on_goal 1 => unfold x; clear x)) | clear_value x)
      | split | (fail_if_no_progress (apply quiet_mk))

theorem State.saFlag_quiet {s : State} {c r bit : Nat} (hk : s.Quiet s₀) :
    (State.saFlag s c r bit).Quiet s₀ := by
  unfold State.saFlag
  repeat' with_reducible first
      | assumption | apply State.pnAlert_quiet | apply State.rowSet_quiet
      | (extract_lets +onlyGivenNames x; first | (refine State.Quiet.cut (s₀ := s₀) (s := x) ?_ fun hx => ?_; (on_goal 2 => clear_value x); (on_goal 1 => unfold x; clear x)) | clear_value x)
      | split

theorem State.secCount_quiet {s : State} {p : Nat} {f : TxFrame} {len : Nat} (hk : s.Quiet s₀) : (State.secCount s p f len).Quiet s₀ := by
  unfold State.secCount
  repeat' with_reducible first
      | assumption | apply State.bumpRow_quiet | apply State.bumpPort_quiet
      | (extract_lets +onlyGivenNames x; first | (refine State.Quiet.cut (s₀ := s₀) (s := x) ?_ fun hx => ?_; (on_goal 2 => clear_value x); (on_goal 1 => unfold x; clear x)) | clear_value x)
      | split

theorem State.takePn_quiet {s : State} {c r gen : Nat} {xpn : Bool} (hk : s.Quiet s₀) :
    (State.takePn s c r gen xpn).2.Quiet s₀ := by
  unfold State.takePn
  repeat' with_reducible first
      | assumption | apply State.updClTx_quiet | apply State.rowSet_quiet | apply State.saFlag_quiet
      | (extract_lets +onlyGivenNames x; first | (refine State.Quiet.cut (s₀ := s₀) (s := x) ?_ fun hx => ?_; (on_goal 2 => clear_value x); (on_goal 1 => unfold x; clear x)) | clear_value x)
      | split | (fail_if_no_progress (apply quiet_mk))

theorem State.secStage_quiet {s : State} {p : Nat} {f : TxFrame} {et : Nat} (hk : s.Quiet s₀) :
    (State.secStage s p f et).2.Quiet s₀ := by
  unfold State.secStage
  repeat' with_reducible first
      | assumption | apply State.bumpPort_quiet | apply State.bumpRow_quiet | apply State.takePn_quiet | apply State.drawMasks_quiet
      | (extract_lets +onlyGivenNames x; first | (refine State.Quiet.cut (s₀ := s₀) (s := x) ?_ fun hx => ?_; (on_goal 2 => clear_value x); (on_goal 1 => unfold x; clear x)) | (refine State.Quiet.cut (s₀ := s₀) (s := x.2) ?_ fun hx => ?_; (on_goal 2 => clear_value x); (on_goal 1 => unfold x; clear x)) | clear_value x)
      | split | (fail_if_no_progress (apply quiet_mk))

theorem State.addBulk_quiet {s : State} {p tc len : Nat} (hk : s.Quiet s₀) :
    (State.addBulk s p tc len).Quiet s₀ := by
  unfold State.addBulk
  repeat' with_reducible first
      | assumption | apply State.updTwin_quiet
      | (extract_lets +onlyGivenNames x; first | (refine State.Quiet.cut (s₀ := s₀) (s := x) ?_ fun hx => ?_; (on_goal 2 => clear_value x); (on_goal 1 => unfold x; clear x)) | clear_value x)
      | split | (fail_if_no_progress (apply quiet_mk))

theorem State.tapPlain_quiet {s : State} {p : Nat} {f : TxFrame} {stamp : Word} (hk : s.Quiet s₀) :
    (State.tapPlain s p f stamp).Quiet s₀ := by
  unfold State.tapPlain
  repeat' with_reducible first
      | assumption | apply State.peepTap_quiet
      | (extract_lets +onlyGivenNames x; first | (refine State.Quiet.cut (s₀ := s₀) (s := x) ?_ fun hx => ?_; (on_goal 2 => clear_value x); (on_goal 1 => unfold x; clear x)) | clear_value x)
      | split | (fail_if_no_progress (apply quiet_mk))

theorem State.dropFrame_quiet {s : State} {p : Nat} {f : TxFrame} (hk : s.Quiet s₀) :
    (State.dropFrame s p f).Quiet s₀ := by
  unfold State.dropFrame
  repeat' with_reducible first
      | assumption | apply State.freshWord_quiet | apply State.tapPlain_quiet | apply State.bump_quiet | apply State.directDone_quiet
      | (extract_lets +onlyGivenNames x; first | (refine State.Quiet.cut (s₀ := s₀) (s := x) ?_ fun hx => ?_; (on_goal 2 => clear_value x); (on_goal 1 => unfold x; clear x)) | (refine State.Quiet.cut (s₀ := s₀) (s := x.2) ?_ fun hx => ?_; (on_goal 2 => clear_value x); (on_goal 1 => unfold x; clear x)) | clear_value x)
      | split | (fail_if_no_progress (apply quiet_mk))

theorem State.stageFrame_quiet {s : State} {p : Nat} {f : TxFrame} (hk : s.Quiet s₀) :
    (State.stageFrame s p f).2.Quiet s₀ := by
  unfold State.stageFrame
  repeat' with_reducible first
      | assumption | (rename_i e; have e2 := congrArg Prod.snd e; dsimp only at e2; subst e2) | apply State.calStage_quiet
      | apply State.secStage_quiet | apply State.addBulk_quiet | apply State.addDigest_quiet | apply State.secCount_quiet | apply foldl_quiet
      | apply foldl_quiet_snd | apply foldl_quiet_mid | apply foldl_resKept | apply foldl_quietPair | apply foldl_quietSlot | intro _
      | apply quietPair_none | apply quietPair_some | apply foldl_quietPair | exact QuietPair.state (by assumption) | exact optKept_none
      | apply optKept_some
      | (extract_lets +onlyGivenNames x; first | (refine State.Quiet.cut (s₀ := s₀) (s := x) ?_ fun hx => ?_; (on_goal 2 => clear_value x); (on_goal 1 => unfold x; clear x)) | (refine State.Quiet.cut (s₀ := s₀) (s := x.2) ?_ fun hx => ?_; (on_goal 2 => clear_value x); (on_goal 1 => unfold x; clear x)) | (refine State.Quiet.cut (s₀ := s₀) (s := x.2.2) ?_ fun hx => ?_; (on_goal 2 => clear_value x); (on_goal 1 => unfold x; clear x)) | (refine State.Quiet.cut (s₀ := s₀) (s := x.1) ?_ fun hx => ?_; (on_goal 2 => clear_value x); (on_goal 1 => unfold x; clear x)) | (have _f : _ → _ := x; clear _f) | clear_value x | skip)
      | split | (fail_if_no_progress (apply quiet_mk)) | (fail_if_no_progress (apply quiet_eraseRegs))
      | (fail_if_no_progress (apply quiet_eraseRings)) | (fail_if_no_progress (apply quiet_setCtr)) | (dsimp -zeta +zetaDelta only)

theorem State.stagePort_quiet {s : State} {p : Nat} (hk : s.Quiet s₀) :
    (State.stagePort s p).Quiet s₀ := by
  unfold State.stagePort
  repeat' with_reducible first
      | assumption | apply State.stageFrame_quiet | apply State.dropFrame_quiet | apply State.updPortTx_quiet | apply foldl_quiet
      | apply foldl_quiet_snd | apply foldl_quiet_mid | apply foldl_resKept | apply foldl_quietPair | apply foldl_quietSlot | intro _
      | (extract_lets +onlyGivenNames x; first | (refine State.Quiet.cut (s₀ := s₀) (s := x) ?_ fun hx => ?_; (on_goal 2 => clear_value x); (on_goal 1 => unfold x; clear x)) | (refine State.Quiet.cut (s₀ := s₀) (s := x.2) ?_ fun hx => ?_; (on_goal 2 => clear_value x); (on_goal 1 => unfold x; clear x)) | (have _f : _ → _ := x; clear _f) | clear_value x | skip)
      | split | (fail_if_no_progress (apply quiet_mk)) | (dsimp -zeta +zetaDelta only)

end Sys2Proof.Machine
end

