-- ==== Sys2Proof/Laws/Reads.lean ====
section
/-!
SUPPORT. What a named read of one object answers and does (R53, R61), and the choice of the best source.
-/
namespace Sys2Proof.Machine.State

/-- **A read of an object**: its value, and what reading it does. -/
theorem fetch_obj {s : State} {via : Transport} {idx sub : Nat} {ix : Ix} {o : ObjInfo} (hr : s.dictRuns = true)
    (hc : classify idx = some ix) (ho : objInfo idx sub = some o) (hs : sub ≠ 0) (hl : ¬(o.acc = .rwl ∧ isBdp via = true))
    (hw : o.acc ≠ .wo) (hx : ∀ c t, ix ≠ .window c t) :
    s.fetch via idx sub = (s.readObj ix o idx).2.emit (.value rOK (s.readObj ix o idx).1) := by
  unfold fetch read
  simp only [hr, Bool.not_true, Bool.false_eq_true, if_false, hc, hs, ho, hl, hw]

theorem reads_obj {s : State} {dt : Nat} {via : Master} {idx sub : Nat} {ix : Ix} {o : ObjInfo} {v : Word} {p : State → Prop}
    (hr : s.dictRuns = true)
    (hc : classify idx = some ix) (ho : objInfo idx sub = some o) (hs : sub ≠ 0) (hl : o.acc ≠ .rwl ∨ via = .window)
    (hw : o.acc ≠ .wo) (hx : ∀ c t, ix ≠ .window c t)
    (hv : ((s.elapse dt).readObj ix o idx).1 = v) (h0 : ((s.elapse dt).readObj ix o idx).2.out = [])
    (hp : p (((s.elapse dt).readObj ix o idx).2.emit (.value rOK v))) :
    Reads (s.masterRead dt via idx sub) v p := by
  unfold masterRead Reads
  refine answersSettled ?_
  rw [fetch_obj (by rw [elapse_dictRuns, hr]) hc ho hs ?_ hw hx, hv]
  · exact ⟨by simp [h0], hp⟩
  · rintro ⟨a, b⟩
    rcases hl with hl | rfl
    · exact hl a
    · simp [Master.transport, isBdp] at b

theorem cluster_view {c k sub : Nat} (hc : c < 16) (hk : k ≤ 9) : objInfo (clIdx c k) sub = (clusterObjs k).find? fun o => o.sub == sub :=
  objInfo_of (classify_cluster hc hk)

theorem best_pick (prio : Nat → Nat) (l : List Nat) (hl : l.Pairwise (· < ·)) (b0 : Option Nat)
    (hb0 : ∀ b, b0 = some b → ∀ e ∈ l, b < e) :
    match l.foldl (fun best e => match best with
      | none => some e
      | some b => if prio b < prio e then some e else some b) b0 with
    | none => l = [] ∧ b0 = none
    | some b => (b ∈ l ∨ b0 = some b) ∧ ∀ e, (e ∈ l ∨ b0 = some e) → prio e < prio b ∨ prio e = prio b ∧ b ≤ e := by
  induction l generalizing b0 with
  | nil =>
    cases b0
    · simp
    · simp
  | cons a t ih =>
    have hp := List.pairwise_cons.mp hl
    simp only [List.foldl_cons]
    cases b0 with
    | none =>
      have := ih hp.2 (some a) (by rintro b ⟨⟩; exact hp.1)
      dsimp only at this ⊢
      split at this
      · simp at this
      · rename_i b hb
        rw [hb] at *
        refine ⟨by simpa [or_comm] using this.1.imp id (fun h => by simpa using h.symm), ?_⟩
        intro e he
        refine this.2 e ?_
        simp at he; simp; tauto
    | some c =>
      dsimp only
      by_cases hlt : prio c < prio a
      · rw [if_pos hlt]
        have := ih hp.2 (some a) (by rintro b ⟨⟩; exact hp.1)
        split at this
        · simp at this
        · rename_i b hb
          refine ⟨?_, ?_⟩
          · rcases this.1 with h | h
            · exact .inl (List.mem_cons_of_mem _ h)
            · simp at h; left; simp [h]
          · intro e he
            rcases he with he | he
            · refine this.2 e ?_
              rcases List.mem_cons.mp he with rfl | h
              · exact .inr rfl
              · exact .inl h
            · simp at he; subst he
              have ha := this.2 a (.inr rfl)
              omega
      · rw [if_neg hlt]
        have := ih hp.2 (some c) (by rintro b ⟨⟩ e he; exact hb0 c rfl e (List.mem_cons_of_mem _ he))
        split at this
        · simp at this
        · rename_i b hb
          refine ⟨?_, ?_⟩
          · rcases this.1 with h | h
            · exact .inl (List.mem_cons_of_mem _ h)
            · exact .inr h
          · intro e he
            rcases he with he | he
            · rcases List.mem_cons.mp he with rfl | h
              · have hc := this.2 c (.inr rfl)
                have := hb0 c rfl e (by simp)
                omega
              · exact this.2 e (.inl h)
            · exact this.2 e (.inr he)

theorem pairwise_keys {α : Type} {m : SMap α} (h : SMap.rising m = true) : (m.map (·.1)).Pairwise (· < ·) := by
  induction m with
  | nil => simp
  | cons a t ih =>
    rw [SMap.rising_cons] at h
    simp only [List.map_cons, List.pairwise_cons, List.mem_map, forall_exists_index, and_imp]
    exact ⟨fun x y hy e => e ▸ h.1 y hy, ih h.2⟩

theorem get_of_mem {α : Type} {d : α} {m : SMap α} (h : SMap.rising m = true) {e : Nat × α} (he : e ∈ m) : SMap.get d m e.1 = e.2 := by
  induction m with
  | nil => simp at he
  | cons a t ih =>
    obtain ⟨j, w⟩ := a
    rw [SMap.rising_cons] at h
    rcases List.mem_cons.mp he with rfl | he
    · simp [SMap.get]
    · simp only [SMap.get]
      rw [if_neg (by have := h.1 e he; omega)]
      exact ih h.2 he

end Sys2Proof.Machine.State
end

