-- ==== Sys2Proof/Laws/Request.lean ====
section
/-!
SUPPORT. What a write of one object does when nothing waits: it is accepted, answered, and lands in its unit (R61, R557); and
what a read of one object answers.
-/
namespace Sys2Proof.Machine
namespace State
variable {s : State} {via : Transport} {cuts : List (Nat × CutFrame)} {idx sub : Nat} {v : Word}

/-- What sending moves: the sequence numbers of the stream and of the two paths, the mirror store, and the interfaces. -/
structure Sent where
  seq : Nat
  a : Nat
  b : Nat
  store : List (Nat × StreamMsg)
  outs : List Output

/-- Nothing sent. -/
def sent (s : State) : Sent := ⟨s.twin.seq, s.twin.pathA.txSeq, s.twin.pathB.txSeq, s.twin.store, []⟩

/-- The state after a sending. -/
def said (s : State) (x : Sent) : State :=
  { s with twin := { s.twin with seq := x.seq, store := x.store, pathA := { s.twin.pathA with txSeq := x.a },
                                 pathB := { s.twin.pathB with txSeq := x.b } }
           out := s.out ++ x.outs }

theorem said_self (s : State) : s = s.said s.sent := by simp [said, sent]

theorem said_said (s : State) (x y : Sent) : (s.said x).said y = s.said { y with outs := x.outs ++ y.outs } := by simp [said]

theorem emit_said (s : State) (x : Sent) (o : Output) : (s.said x).emit o = s.said { x with outs := x.outs ++ [o] } := by
  simp [emit, said]

theorem pathSend_said (s : State) (b : Bool) (m : HingeMsg) : ∃ x, s.pathSend b m = s.said x := by
  cases b
  · exact ⟨{ s.sent with a := (s.twin.pathA.txSeq + 1) % 2 ^ 32, outs := [.hinge false m (hingeWire s.twin.pathA.txSeq m)] }, rfl⟩
  · exact ⟨{ s.sent with b := (s.twin.pathB.txSeq + 1) % 2 ^ 32, outs := [.hinge true m (hingeWire s.twin.pathB.txSeq m)] }, rfl⟩

theorem sendPaths_said (m : HingeMsg) (bs : List Bool) (s : State) : ∃ x, bs.foldl (fun s b => s.pathSend b m) s = s.said x := by
  induction bs generalizing s with
  | nil => exact ⟨_, said_self s⟩
  | cons b t ih =>
    obtain ⟨x, hx⟩ := pathSend_said s b m
    obtain ⟨y, hy⟩ := ih (s.pathSend b m)
    exact ⟨{ y with outs := x.outs ++ y.outs }, by rw [List.foldl_cons, hy, hx, said_said]⟩

theorem hingeSend_said (s : State) (m : HingeMsg) : ∃ x, s.hingeSend m = s.said x := by
  unfold hingeSend
  split
  · exact sendPaths_said m _ s
  · exact ⟨_, said_self s⟩

/-- A message enters the stream while the store has room. -/
theorem streamSend_said (s : State) (m : StreamMsg) (room : s.streamRuns = true → s.storedWrites < 65536) :
    ∃ x, s.streamSend m = s.said x := by
  unfold streamSend
  split
  · exact ⟨_, said_self s⟩
  · rename_i h
    have := room (by simpa using h)
    dsimp only
    rw [if_neg (by simp; omega)]
    obtain ⟨x, hx⟩ := hingeSend_said (s.updTwin fun t => { t with seq := s.twin.seq + 1, store := t.store ++ [(s.twin.seq + 1, m)] })
      (.stream (s.twin.seq + 1) m)
    exact ⟨x, hx⟩

theorem forwardObj_said (s : State) (via : Transport) (idx sub : Nat) (v : Word)
    (room : s.streamRuns = true → s.storedWrites < 65536) : ∃ x, s.forwardObj via idx sub v = s.said x := by
  unfold forwardObj
  split
  · exact ⟨_, said_self s⟩
  · exact streamSend_said s _ room

/-! ### Fields of a state that has said something -/

section
variable (x : Sent)
@[simp] theorem said_pending : (s.said x).pending = s.pending := rfl
@[simp] theorem said_free : (s.said x).free = s.free := rfl
@[simp] theorem said_regs : (s.said x).regs = s.regs := rfl
@[simp] theorem said_rows : (s.said x).rows = s.rows := rfl
@[simp] theorem said_past : (s.said x).past = s.past := rfl
@[simp] theorem said_ctrs : (s.said x).ctrs = s.ctrs := rfl
@[simp] theorem said_onceTick : (s.said x).onceTick = s.onceTick := rfl
@[simp] theorem said_power : (s.said x).power = s.power := rfl
@[simp] theorem said_clusterPower : (s.said x).clusterPower = s.clusterPower := rfl
@[simp] theorem said_time : (s.said x).time = s.time := rfl
@[simp] theorem said_ev : (s.said x).ev = s.ev := rfl
@[simp] theorem said_cu : (s.said x).cu = s.cu := rfl
@[simp] theorem said_dict : (s.said x).dict = s.dict := rfl
@[simp] theorem said_keys : (s.said x).keys = s.keys := rfl
@[simp] theorem said_masks : (s.said x).masks = s.masks := rfl
@[simp] theorem said_laneLock : (s.said x).laneLock = s.laneLock := rfl
@[simp] theorem said_portRx : (s.said x).portRx = s.portRx := rfl
@[simp] theorem said_clusterRx : (s.said x).clusterRx = s.clusterRx := rfl
@[simp] theorem said_clusterTx : (s.said x).clusterTx = s.clusterTx := rfl
@[simp] theorem said_portTx : (s.said x).portTx = s.portTx := rfl
@[simp] theorem said_shutters : (s.said x).shutters = s.shutters := rfl
@[simp] theorem said_rings : (s.said x).rings = s.rings := rfl
@[simp] theorem said_quarters : (s.said x).quarters = s.quarters := rfl
@[simp] theorem said_mem : (s.said x).mem = s.mem := rfl
@[simp] theorem said_role : (s.said x).twin.role = s.twin.role := rfl
@[simp] theorem said_hinge : (s.said x).twin.hinge = s.twin.hinge := rfl
end

/-! ### Conditions, which a message does not move -/

theorem said_ownerClosed (ix : Ix) (x : Sent) : (s.said x).ownerClosed ix = s.ownerClosed ix := by cases ix <;> rfl

theorem said_objCond (x : Sent) (landing : Bool) (ix : Ix) (idx sub : Nat) (v : Word) :
    (s.said x).objCond (s.said x).landedVal landing ix idx sub v = s.objCond s.landedVal landing ix idx sub v := by
  cases ix <;> rfl

theorem acceptedVal_landed (h : s.dict.landing = []) : s.acceptedVal = s.landedVal := by
  funext i u; simp [acceptedVal, h]

/-! ### A write that is accepted and lands -/

/-- The object takes a write whose right is `acc` and that lands as a plain write of its unit, at any time. -/
structure Takes (s : State) (ix : Ix) (o : ObjInfo) (idx : Nat) (v : Word) : Prop where
  acc : o.acc = .rw ∨ o.acc = .wo ∨ o.acc = .rwc
  plain : o.ty ≠ .time84lo ∧ o.ty ≠ .time84hi
  window : ∀ c t, ix ≠ .window c t
  keys : idx = 0x0600 → ¬(0x11 ≤ o.sub ∧ o.sub ≤ 0x19)
  fits : (o.ty.fits v.toNat && o.ok v.toNat) = true
  closed : o.acc = .rwc → s.ownerClosed ix = true
  accept : s.objCond s.landedVal false ix idx o.sub (storedAs ix o.sub v) = true
  land : s.objCond s.landedVal true ix idx o.sub (storedAs ix o.sub v) = true
  late : landsAtOnce idx o.sub = false
  anytime : ¬(idx = 0x0300 ∧ 0x40 ≤ o.sub)

theorem enqueue_said (s : State) (via : Transport) (e : Effect) (x : Sent) :
    (s.enqueue via e).said x = (s.said x).enqueue via e := rfl

theorem acceptObj_takes {ix : Ix} {o : ObjInfo} (h : s.Takes ix o idx v) (hl : s.dict.landing = [])
    (room : s.streamRuns = true → s.storedWrites < 65536) :
    ∃ x, s.acceptObj via ix o idx v none = (rOK, (s.said x).enqueue via (.obj idx o.sub v)) := by
  obtain ⟨x, hf⟩ := forwardObj_said (s.enqueue via (.obj idx o.sub v)) via idx o.sub v room
  refine ⟨x, ?_⟩
  unfold acceptObj
  dsimp only
  rw [enqueue_said] at hf
  rw [acceptedVal_landed hl, h.late]
  simp only [Bool.false_eq_true, if_false]
  rw [hf]
  have ro : o.acc ≠ .ro := by rcases h.acc with e | e | e <;> simp [e]
  have rwl : o.acc ≠ .rwl := by rcases h.acc with e | e | e <;> simp [e]
  rw [if_neg ro, if_neg (fun e => rwl e.1)]
  split
  · rfl
  · have k1 : ¬(idx = 0x0600 ∧ isBdp via = true ∧ s.ckeyLocal o.sub = true) := by
      rintro ⟨e, -, e'⟩
      have := h.keys e
      simp only [ckeyLocal, Bool.and_eq_true, decide_eq_true_eq] at e'
      omega
    have k2 : ¬(idx = 0x0600 ∧ 0x11 ≤ o.sub ∧ o.sub ≤ 0x18) := fun e => h.keys e.1 ⟨by omega, by omega⟩
    have k3 : ¬(idx = 0x0600 ∧ o.sub = 0x19) := fun e => h.keys e.1 ⟨by omega, by omega⟩
    have k4 : ¬(o.acc = .rwc ∧ storedAs ix o.sub v ≠ s.landedVal idx o.sub ∧ (!s.ownerClosed ix) = true) :=
      fun e => by simpa [h.closed e.1] using e.2.2
    have k5 : ¬((!(o.ty.fits v.toNat && o.ok v.toNat)) = true) := by simp [h.fits]
    have k6 : ¬((!s.objCond s.landedVal false ix idx o.sub (storedAs ix o.sub v)) = true) := by simp [h.accept]
    rw [if_neg k5, if_neg k4, if_neg k6, if_neg k1, if_neg k2, if_neg k3, if_neg h.plain.1, if_neg h.plain.2]

/-- A write of an object that no tick bounds need not wait. -/
theorem waits_obj (s : State) (via : Transport) (i u : Nat) (v : Word) (t : Word) (h : ¬(i = 0x0300 ∧ 0x40 ≤ u)) :
    s.waits ⟨via, .obj i u v, t⟩ = false := by
  simp [waits, tickBound, h]

/-- What a landed write of an object does (R61): its unit's own effect. -/
def objEffect (s : State) (via : Transport) (cuts : List (Nat × CutFrame)) (ix : Ix) (o : ObjInfo) (idx : Nat) (v : Word) : State :=
  if o.ty = .strobe ∧ v ≠ 1 then s else s.actObj via cuts ix idx o.sub (storedAs ix o.sub v) none

/-- The only write on its way lands. -/
theorem landWrites_one {s : State} {via : Transport} {i u : Nat} {v t : Word} (hl : s.dict.landing = [⟨via, .obj i u v, t⟩])
    (h : ¬(i = 0x0300 ∧ 0x40 ≤ u)) :
    s.landWrites cuts = ({ s with dict := { s.dict with landing := [] } }).landOne cuts ⟨via, .obj i u v, t⟩ := by
  have hw := waits_obj s via i u v t h
  have hb : boundRow (.obj i u v) = none := by unfold boundRow; split <;> rfl
  simp [landWrites, hl, landAll, landNext, mayLand, hw, hb]

/-- **A write of an object, with nothing waiting**: the completion OK, and the effect on the unit. -/
theorem requestLand_obj {ix : Ix} {o : ObjInfo} (hr : s.Ready) (hc : classify idx = some ix) (ho : objInfo idx sub = some o)
    (hs : sub ≠ 0) (hu : o.sub = sub) (h : s.Takes ix o idx v) :
    ∃ x : Sent, Output.status rOK ∈ x.outs ∧ s.requestLand via cuts idx sub v = (s.said x).objEffect via cuts ix o idx v := by
  obtain ⟨run, hl, room⟩ := hr
  obtain ⟨x, ha⟩ := acceptObj_takes (via := via) h hl room
  refine ⟨{ x with outs := x.outs ++ [.status rOK] }, by simp, ?_⟩
  have hw : s.write via idx sub v = (rOK, (s.said x).enqueue via (.obj idx o.sub v)) := by
    unfold write
    simp only [hc, hs, ho, if_false]
    cases ix <;> first | exact absurd rfl (h.window _ _) | (simp only [ha]; rfl)
  have hq : s.request via idx sub v = ((s.said x).enqueue via (.obj idx o.sub v)).emit (.status rOK) := by
    unfold request
    rw [if_neg (by simp [run]), hw]
  unfold requestLand
  dsimp only
  rw [hq]
  have hq2 : ((s.said x).enqueue via (.obj idx o.sub v)).emit (.status rOK)
      = (s.said { x with outs := x.outs ++ [.status rOK] }).enqueue via (.obj idx o.sub v) := by
    rw [← emit_said]; rfl
  rw [hq2]
  generalize ({ x with outs := x.outs ++ [.status rOK] } : Sent) = x'
  have hd : ((s.said x').enqueue via (.obj idx o.sub v)).dictRuns = true := run
  rw [if_pos hd]
  have hland : ((s.said x').enqueue via (.obj idx o.sub v)).dict.landing = [⟨via, .obj idx o.sub v, s.time.ticks⟩] := by
    simp [enqueue, hl]
  rw [landWrites_one hland h.anytime]
  have hclear : ({ (s.said x').enqueue via (.obj idx o.sub v) with
      dict := { ((s.said x').enqueue via (.obj idx o.sub v)).dict with landing := [] } } : State) = s.said x' := by
    simp only [enqueue, said_dict]
    rw [← hl]
    rfl
  rw [hclear]
  have hlo : (s.said x').landObj via cuts idx o.sub v none = (rOK, (s.said x').objEffect via cuts ix o idx v) := by
    unfold landObj objEffect
    simp only [hc, hu, ho]
    have hcl : ¬(o.acc = .rwc ∧ storedAs ix sub v ≠ (s.said x').reg idx sub ∧ (!(s.said x').ownerClosed ix) = true) := by
      rintro ⟨e, -, e'⟩
      simp [said_ownerClosed, h.closed e] at e'
    have hco := h.land
    rw [hu] at hco
    have hlate := h.late
    rw [hu] at hlate
    have hfw : ∀ y b : State, y.forwardLanded b via idx sub v = y := by
      intro y b; unfold forwardLanded; dsimp only; rw [if_pos (.inr (.inl (by simp [hlate])))]
    rw [if_neg hcl, said_objCond, hco]
    simp only [Bool.not_true, Bool.false_eq_true, if_false, hfw]
    split <;> rfl
  simp [landOne, hlo]

end State
end Sys2Proof.Machine
end

