-- ==== Sys2Proof/Laws/Wired.lean ====
section
/-!
SUPPORT. What the taps and the completion of a frame that leaves a port leave as it was.
-/
set_option linter.unusedTactic false
set_option linter.unreachableTactic false
set_option linter.unusedVariables false
set_option linter.tactic.unusedName false
namespace Sys2Proof.Machine

/-- What the taps and the completion of a frame that leaves a port leave as it was. -/
structure State.Wired (s s₀ : State) : Prop where
  pending : s.pending = s₀.pending
  out : s.out = s₀.out
  rows : s.rows = s₀.rows
  past : s.past = s₀.past
  time : s.time = s₀.time
  dict : s.dict = s₀.dict
  keys : s.keys = s₀.keys
  masks : s.masks = s₀.masks
  laneLock : s.laneLock = s₀.laneLock
  portRx : s.portRx = s₀.portRx
  clusterTx : s.clusterTx = s₀.clusterTx
  portTx : s.portTx = s₀.portTx

theorem State.Wired.refl (s : State) : s.Wired s := ⟨rfl, rfl, rfl, rfl, rfl, rfl, rfl, rfl, rfl, rfl, rfl, rfl⟩

theorem State.Wired.cut {s s₀ : State} {p : Prop} (h : s.Wired s₀) (k : s.Wired s₀ → p) : p := k h

theorem wired_mk {s s₀ : State} (h : s.Wired s₀) {free regs ctrs onceTick power clusterPower ev cu clusterRx shutters rings quarters twin mem} :
    (State.mk s.pending s.out free regs s.rows s.past ctrs onceTick power clusterPower s.time ev cu s.dict s.keys s.masks s.laneLock s.portRx clusterRx s.clusterTx s.portTx shutters rings quarters twin mem).Wired s₀ :=
  ⟨h.pending, h.out, h.rows, h.past, h.time, h.dict, h.keys, h.masks, h.laneLock, h.portRx, h.clusterTx, h.portTx⟩

theorem foldl_wired {α : Type} {f : State → α → State} {l : List α} {s s₀ : State} (h : s.Wired s₀)
    (hf : ∀ s a, s.Wired s₀ → (f s a).Wired s₀) : (l.foldl f s).Wired s₀ := by
  induction l generalizing s with
  | nil => exact h
  | cons a t ih => exact ih (hf _ _ h)

theorem foldl_wired_snd {α β : Type} {f : β × State → α → β × State} {l : List α} {x : β × State} {s₀ : State} (h : x.2.Wired s₀)
    (hf : ∀ x a, x.2.Wired s₀ → (f x a).2.Wired s₀) : (l.foldl f x).2.Wired s₀ := by
  induction l generalizing x with
  | nil => exact h
  | cons a t ih => exact ih (hf _ _ h)

theorem foldl_wired_mid {α β γ : Type} {f : β × State × γ → α → β × State × γ} {l : List α} {x : β × State × γ} {s₀ : State} (h : x.2.1.Wired s₀)
    (hf : ∀ x a, x.2.1.Wired s₀ → (f x a).2.1.Wired s₀) : (l.foldl f x).2.1.Wired s₀ := by
  induction l generalizing x with
  | nil => exact h
  | cons a t ih => exact ih (hf _ _ h)

variable {s₀ : State}

theorem State.memWrite_wired {s : State} {a : Nat} {bs : Bytes} (h : s.Wired s₀) : (s.memWrite a bs).Wired s₀ := by
  induction bs generalizing s a with
  | nil => exact h
  | cons b t ih => exact ih (wired_mk h)

theorem State.setReg_wired {s : State} {i u : Nat} {v : Word} (h : s.Wired s₀) : (s.setReg i u v).Wired s₀ := wired_mk h

theorem State.bumpRow_wired {s : State} {i u r n : Nat} (h : s.Wired s₀) : (s.bumpRow i u r n).Wired s₀ := by
  unfold State.bumpRow
  dsimp only
  split
  · exact wired_mk (wired_mk h)
  · exact wired_mk h

theorem State.setDom_wired {s : State} {n : Nat} {d : Domain} (hk : s.Wired s₀) : (State.setDom s n d).Wired s₀ := by
  unfold State.setDom
  repeat' with_reducible first
      | assumption
      | (extract_lets +onlyGivenNames x; first | (refine State.Wired.cut (s₀ := s₀) (s := x) ?_ fun hx => ?_; (on_goal 2 => clear_value x); (on_goal 1 => unfold x; clear x)) | clear_value x)
      | (fail_if_no_progress (apply wired_mk))

theorem State.beginSwitch_wired {s : State} {n : Nat} {goal : Pwr} (hk : s.Wired s₀) : (State.beginSwitch s n goal).Wired s₀ := by
  unfold State.beginSwitch
  repeat' with_reducible first
      | assumption | apply State.setDom_wired
      | (extract_lets +onlyGivenNames x; first | (refine State.Wired.cut (s₀ := s₀) (s := x) ?_ fun hx => ?_; (on_goal 2 => clear_value x); (on_goal 1 => unfold x; clear x)) | clear_value x)
      | split | (fail_if_no_progress (apply wired_mk))

theorem State.bump_wired {s : State} {idx sub n : Nat} (hk : s.Wired s₀) : (State.bump s idx sub n).Wired s₀ := by
  unfold State.bump
  repeat' with_reducible first
      | assumption | apply State.bumpRow_wired

theorem State.bumpPort_wired {s : State} {p slot n : Nat} (hk : s.Wired s₀) : (State.bumpPort s p slot n).Wired s₀ := by
  unfold State.bumpPort
  repeat' with_reducible first
      | assumption | apply State.bumpRow_wired

theorem State.requestOn_wired {s : State} {n : Nat} (hk : s.Wired s₀) : (State.requestOn s n).Wired s₀ := by
  unfold State.requestOn
  repeat' with_reducible first
      | assumption | apply State.setDom_wired | apply State.beginSwitch_wired
      | (extract_lets +onlyGivenNames x; first | (refine State.Wired.cut (s₀ := s₀) (s := x) ?_ fun hx => ?_; (on_goal 2 => clear_value x); (on_goal 1 => unfold x; clear x)) | clear_value x)
      | split | (fail_if_no_progress (apply wired_mk))

theorem State.endSleep_wired {s : State} (hk : s.Wired s₀) : (State.endSleep s).Wired s₀ := by
  unfold State.endSleep
  repeat' with_reducible first
      | assumption | apply State.requestOn_wired | apply foldl_wired | intro _
      | (extract_lets +onlyGivenNames x; first | (refine State.Wired.cut (s₀ := s₀) (s := x) ?_ fun hx => ?_; (on_goal 2 => clear_value x); (on_goal 1 => unfold x; clear x)) | clear_value x)
      | split | (fail_if_no_progress (apply wired_mk))

theorem State.freshWord_wired {s : State} (hk : s.Wired s₀) : (State.freshWord s).2.Wired s₀ := by
  unfold State.freshWord
  repeat' with_reducible first
      | assumption
      | (extract_lets +onlyGivenNames x; first | (refine State.Wired.cut (s₀ := s₀) (s := x) ?_ fun hx => ?_; (on_goal 2 => clear_value x); (on_goal 1 => unfold x; clear x)) | clear_value x)
      | (fail_if_no_progress (apply wired_mk))

theorem State.setClp_wired {s : State} {c : Nat} {q : ClusterPower} (hk : s.Wired s₀) : (State.setClp s c q).Wired s₀ := by
  unfold State.setClp
  repeat' with_reducible first
      | assumption
      | (extract_lets +onlyGivenNames x; first | (refine State.Wired.cut (s₀ := s₀) (s := x) ?_ fun hx => ?_; (on_goal 2 => clear_value x); (on_goal 1 => unfold x; clear x)) | clear_value x)
      | (fail_if_no_progress (apply wired_mk))

theorem State.wakeCluster_wired {s : State} {c : Nat} (hk : s.Wired s₀) : (State.wakeCluster s c).Wired s₀ := by
  unfold State.wakeCluster
  dsimp only
  split
  · exact State.requestOn_wired (State.requestOn_wired (State.requestOn_wired (State.setReg_wired (State.setClp_wired hk))))
  · exact State.setClp_wired hk
  · exact hk

theorem State.wakeCommon_wired {s : State} (hk : s.Wired s₀) : (State.wakeCommon s).Wired s₀ := by
  unfold State.wakeCommon
  repeat' with_reducible first
      | assumption | apply State.requestOn_wired | apply State.endSleep_wired | apply foldl_wired | intro _ | split

theorem State.latchFire_wired {s : State} {e data : Nat} (hk : s.Wired s₀) : (State.latchFire s e data).1.Wired s₀ := by
  unfold State.latchFire
  repeat' with_reducible first
      | assumption | apply State.wakeCluster_wired | apply State.wakeCommon_wired | apply State.bump_wired | apply foldl_wired | intro _
      | (extract_lets +onlyGivenNames x; first | (refine State.Wired.cut (s₀ := s₀) (s := x) ?_ fun hx => ?_; (on_goal 2 => clear_value x); (on_goal 1 => unfold x; clear x)) | clear_value x)
      | split | (fail_if_no_progress (apply wired_mk))

theorem State.noteEcc_wired {s : State} {e : Nat} (hk : s.Wired s₀) :
    (State.noteEcc s e).Wired s₀ := by
  unfold State.noteEcc
  repeat' with_reducible first
      | assumption
      | (extract_lets +onlyGivenNames x; first | (refine State.Wired.cut (s₀ := s₀) (s := x) ?_ fun hx => ?_; (on_goal 2 => clear_value x); (on_goal 1 => unfold x; clear x)) | clear_value x)
      | split | (fail_if_no_progress (apply wired_mk))

theorem State.setSrc_wired {s : State} {e : Nat} {q : Source} (hk : s.Wired s₀) : (State.setSrc s e q).Wired s₀ := by
  unfold State.setSrc
  repeat' with_reducible first
      | assumption
      | (extract_lets +onlyGivenNames x; first | (refine State.Wired.cut (s₀ := s₀) (s := x) ?_ fun hx => ?_; (on_goal 2 => clear_value x); (on_goal 1 => unfold x; clear x)) | clear_value x)
      | (fail_if_no_progress (apply wired_mk))

theorem State.raiseSource_wired {s : State} {e data : Nat} (hk : s.Wired s₀) : (State.raiseSource s e data).Wired s₀ := by
  unfold State.raiseSource
  repeat' with_reducible first
      | assumption | apply State.bump_wired | apply State.setSrc_wired
      | (extract_lets +onlyGivenNames x; first | (refine State.Wired.cut (s₀ := s₀) (s := x) ?_ fun hx => ?_; (on_goal 2 => clear_value x); (on_goal 1 => unfold x; clear x)) | clear_value x)
      | split | (fail_if_no_progress (apply wired_mk))

theorem State.raise_wired {s : State} {e : Nat} {data : optParam Nat 0} (hk : s.Wired s₀) : (State.raise s e data).Wired s₀ := by
  unfold State.raise
  repeat' with_reducible first
      | assumption | (rename_i e; have e2 := congrArg Prod.snd e; dsimp only at e2; subst e2) | apply State.latchFire_wired
      | apply State.raiseSource_wired | apply foldl_wired | apply foldl_wired_snd | apply foldl_wired_mid | apply foldl_resKept
      | apply foldl_wiredPair | apply foldl_wiredSlot | intro _ | apply wiredPair_none | apply wiredPair_some | apply foldl_wiredPair
      | exact WiredPair.state (by assumption) | exact optKept_none | apply optKept_some
      | (extract_lets +onlyGivenNames x; first | (refine State.Wired.cut (s₀ := s₀) (s := x) ?_ fun hx => ?_; (on_goal 2 => clear_value x); (on_goal 1 => unfold x; clear x)) | (refine State.Wired.cut (s₀ := s₀) (s := x.2) ?_ fun hx => ?_; (on_goal 2 => clear_value x); (on_goal 1 => unfold x; clear x)) | (refine State.Wired.cut (s₀ := s₀) (s := x.2.2) ?_ fun hx => ?_; (on_goal 2 => clear_value x); (on_goal 1 => unfold x; clear x)) | (refine State.Wired.cut (s₀ := s₀) (s := x.1) ?_ fun hx => ?_; (on_goal 2 => clear_value x); (on_goal 1 => unfold x; clear x)) | (have _f : _ → _ := x; clear _f) | clear_value x | skip)
      | split | (fail_if_no_progress (apply wired_mk)) | (fail_if_no_progress (apply wired_eraseRegs))
      | (fail_if_no_progress (apply wired_eraseRings)) | (fail_if_no_progress (apply wired_setCtr)) | (dsimp -zeta +zetaDelta only)

theorem State.raiseOnce_wired {s : State} {e : Nat} {data : optParam Nat 0} (hk : s.Wired s₀) :
    (State.raiseOnce s e data).Wired s₀ := by
  unfold State.raiseOnce
  repeat' with_reducible first
      | assumption | apply State.noteEcc_wired | apply State.raise_wired
      | (extract_lets +onlyGivenNames x; first | (refine State.Wired.cut (s₀ := s₀) (s := x) ?_ fun hx => ?_; (on_goal 2 => clear_value x); (on_goal 1 => unfold x; clear x)) | clear_value x)
      | split | (fail_if_no_progress (apply wired_mk))

theorem State.setClRx_wired {s : State} {c : Nat} {q : ClusterRx} (hk : s.Wired s₀) :
    (State.setClRx s c q).Wired s₀ := by
  unfold State.setClRx
  repeat' with_reducible first
      | assumption
      | (extract_lets +onlyGivenNames x; first | (refine State.Wired.cut (s₀ := s₀) (s := x) ?_ fun hx => ?_; (on_goal 2 => clear_value x); (on_goal 1 => unfold x; clear x)) | clear_value x)
      | (fail_if_no_progress (apply wired_mk))

theorem State.setQuarter_wired {s : State} {q : Nat} {v : Quarter} (hk : s.Wired s₀) :
    (State.setQuarter s q v).Wired s₀ := by
  unfold State.setQuarter
  repeat' with_reducible first
      | assumption
      | (extract_lets +onlyGivenNames x; first | (refine State.Wired.cut (s₀ := s₀) (s := x) ?_ fun hx => ?_; (on_goal 2 => clear_value x); (on_goal 1 => unfold x; clear x)) | clear_value x)
      | (fail_if_no_progress (apply wired_mk))

theorem State.setRing_wired {s : State} {r : Nat} {q : Ring} (hk : s.Wired s₀) :
    (State.setRing s r q).Wired s₀ := by
  unfold State.setRing
  repeat' with_reducible first
      | assumption
      | (extract_lets +onlyGivenNames x; first | (refine State.Wired.cut (s₀ := s₀) (s := x) ?_ fun hx => ?_; (on_goal 2 => clear_value x); (on_goal 1 => unfold x; clear x)) | clear_value x)
      | (fail_if_no_progress (apply wired_mk))

theorem State.setShut_wired {s : State} {p : Nat} {q : Shutter} (hk : s.Wired s₀) :
    (State.setShut s p q).Wired s₀ := by
  unfold State.setShut
  repeat' with_reducible first
      | assumption
      | (extract_lets +onlyGivenNames x; first | (refine State.Wired.cut (s₀ := s₀) (s := x) ?_ fun hx => ?_; (on_goal 2 => clear_value x); (on_goal 1 => unfold x; clear x)) | clear_value x)
      | (fail_if_no_progress (apply wired_mk))

theorem State.updClRx_wired {s : State} {c : Nat} {f : ClusterRx → ClusterRx} (hk : s.Wired s₀) :
    (State.updClRx s c f).Wired s₀ := by
  unfold State.updClRx
  repeat' with_reducible first
      | assumption | apply State.setClRx_wired

theorem State.updRing_wired {s : State} {r : Nat} {f : Ring → Ring} (hk : s.Wired s₀) :
    (State.updRing s r f).Wired s₀ := by
  unfold State.updRing
  repeat' with_reducible first
      | assumption | apply State.setRing_wired

theorem State.shutCause_wired {s : State} {p bit : Nat} (hk : s.Wired s₀) :
    (State.shutCause s p bit).Wired s₀ := by
  unfold State.shutCause
  repeat' with_reducible first
      | assumption | apply State.setShut_wired | apply State.raise_wired
      | (extract_lets +onlyGivenNames x; first | (refine State.Wired.cut (s₀ := s₀) (s := x) ?_ fun hx => ?_; (on_goal 2 => clear_value x); (on_goal 1 => unfold x; clear x)) | clear_value x)
      | split | (fail_if_no_progress (apply wired_mk))

theorem State.busRead_wired {s : State} {r n : Nat} (hk : s.Wired s₀) : (State.busRead s r n).Wired s₀ := by
  unfold State.busRead
  repeat' with_reducible first
      | assumption | apply State.bump_wired

theorem State.busWrite_wired {s : State} {r n : Nat} (hk : s.Wired s₀) : (State.busWrite s r n).Wired s₀ := by
  unfold State.busWrite
  repeat' with_reducible first
      | assumption | apply State.bump_wired

theorem State.ringCause_wired {s : State} {r bit : Nat} (hk : s.Wired s₀) :
    (State.ringCause s r bit).Wired s₀ := by
  unfold State.ringCause
  repeat' with_reducible first
      | assumption | apply State.setRing_wired | apply State.raise_wired
      | (extract_lets +onlyGivenNames x; first | (refine State.Wired.cut (s₀ := s₀) (s := x) ?_ fun hx => ?_; (on_goal 2 => clear_value x); (on_goal 1 => unfold x; clear x)) | clear_value x)
      | split | (fail_if_no_progress (apply wired_mk))

theorem State.completeDesc_wired {s : State} {r i : Nat} {d : Desc} {result done : Nat} {aux : Option Word} {extra : Nat} (hk : s.Wired s₀) :
    (State.completeDesc s r i d result done aux extra).Wired s₀ := by
  unfold State.completeDesc
  repeat' with_reducible first
      | assumption | apply State.busWrite_wired | apply State.memWrite_wired | apply State.bump_wired | apply State.updRing_wired
      | apply State.ringCause_wired | apply State.raise_wired
      | (extract_lets +onlyGivenNames x; first | (refine State.Wired.cut (s₀ := s₀) (s := x) ?_ fun hx => ?_; (on_goal 2 => clear_value x); (on_goal 1 => unfold x; clear x)) | clear_value x)
      | split | (fail_if_no_progress (apply wired_mk))

theorem State.completeChain_wired {s : State} {r : Nat} {c : Chain} {result : Nat} {stamp : Option Word} (hk : s.Wired s₀) :
    (State.completeChain s r c result stamp).Wired s₀ := by
  unfold State.completeChain
  repeat' with_reducible first
      | assumption | apply State.completeDesc_wired | apply foldl_wired | intro _
      | (extract_lets +onlyGivenNames x; first | (refine State.Wired.cut (s₀ := s₀) (s := x) ?_ fun hx => ?_; (on_goal 2 => clear_value x); (on_goal 1 => unfold x; clear x)) | clear_value x)
      | split

theorem State.settleChains_wired {r a0 : Nat} {a1 : State} (hk : a1.Wired s₀) :
    (State.settleChains r a0 a1).Wired s₀ := by
  induction a0 generalizing a1 with
  | zero => exact hk
  | succ n ih =>
    unfold State.settleChains
    repeat' with_reducible first
      | assumption | apply ih | apply State.updRing_wired | apply State.completeChain_wired | split | (fail_if_no_progress (apply wired_mk))

theorem State.directDone_wired {s : State} {o : Option DirectRef} {result : Nat} {stamp : Option Word} (hk : s.Wired s₀) :
    (State.directDone s o result stamp).Wired s₀ := by
  unfold State.directDone
  repeat' with_reducible first
      | assumption | apply State.updRing_wired | apply State.settleChains_wired
      | (extract_lets +onlyGivenNames x; first | (refine State.Wired.cut (s₀ := s₀) (s := x) ?_ fun hx => ?_; (on_goal 2 => clear_value x); (on_goal 1 => unfold x; clear x)) | clear_value x)
      | split | (fail_if_no_progress (apply wired_mk))

theorem State.fetchDesc_wired {s : State} {r : Nat} (hk : s.Wired s₀) :
    (State.fetchDesc s r).2.Wired s₀ := by
  unfold State.fetchDesc
  repeat' with_reducible first
      | assumption | apply State.busRead_wired | apply State.setRing_wired
      | (extract_lets +onlyGivenNames x; first | (refine State.Wired.cut (s₀ := s₀) (s := x) ?_ fun hx => ?_; (on_goal 2 => clear_value x); (on_goal 1 => unfold x; clear x)) | clear_value x)
      | split | (fail_if_no_progress (apply wired_mk))

theorem State.reserveDescs_wired {r need a0 a1 a2 : Nat} {a3 : State} (hk : a3.Wired s₀) :
    (State.reserveDescs r need a0 a1 a2 a3).2.Wired s₀ := by
  induction a0 generalizing a1 a2 a3 with
  | zero => exact hk
  | succ n ih =>
    unfold State.reserveDescs
    repeat' with_reducible first
      | assumption | (rename_i e; have e2 := congrArg Prod.snd e; dsimp only at e2; subst e2) | apply ih | apply State.completeDesc_wired
      | apply State.updRing_wired | apply State.fetchDesc_wired | intro _
      | (extract_lets +onlyGivenNames x; first | (refine State.Wired.cut (s₀ := s₀) (s := x) ?_ fun hx => ?_; (on_goal 2 => clear_value x); (on_goal 1 => unfold x; clear x)) | (refine State.Wired.cut (s₀ := s₀) (s := x.2) ?_ fun hx => ?_; (on_goal 2 => clear_value x); (on_goal 1 => unfold x; clear x)) | (have _f : _ → _ := x; clear _f) | clear_value x | skip)
      | split | (fail_if_no_progress (apply wired_mk)) | (dsimp -zeta +zetaDelta only)

theorem State.stageRx_wired {s : State} {f : Staged} {good known : Bool} (hk : s.Wired s₀) :
    (State.stageRx s f good known).2.Wired s₀ := by
  unfold State.stageRx
  repeat' with_reducible first
      | assumption | apply State.reserveDescs_wired | apply State.ringCause_wired | apply State.bump_wired | apply State.updRing_wired
      | apply State.setQuarter_wired
      | (extract_lets +onlyGivenNames x; first | (refine State.Wired.cut (s₀ := s₀) (s := x) ?_ fun hx => ?_; (on_goal 2 => clear_value x); (on_goal 1 => unfold x; clear x)) | (refine State.Wired.cut (s₀ := s₀) (s := x.2) ?_ fun hx => ?_; (on_goal 2 => clear_value x); (on_goal 1 => unfold x; clear x)) | clear_value x)
      | split | (fail_if_no_progress (apply wired_mk))

theorem State.peepDrop_wired {s : State} {c k : Nat} (hk : s.Wired s₀) :
    (State.peepDrop s c k).Wired s₀ := by
  unfold State.peepDrop
  repeat' with_reducible first
      | assumption | apply State.raiseOnce_wired | apply State.bumpRow_wired

theorem State.skidPush_wired {s : State} {c : Nat} {f : SkidFrame} (hk : s.Wired s₀) :
    (State.skidPush s c f).Wired s₀ := by
  unfold State.skidPush
  repeat' with_reducible first
      | assumption | apply State.updClRx_wired | (fail_if_no_progress (apply wired_mk))

theorem State.peepCopy_wired {s : State} {c k : Nat} {t : TapIn} (hk : s.Wired s₀) :
    (State.peepCopy s c k t).Wired s₀ := by
  unfold State.peepCopy
  repeat' with_reducible first
      | assumption | apply State.updClRx_wired | apply State.peepDrop_wired | apply State.skidPush_wired | apply State.stageRx_wired
      | (extract_lets +onlyGivenNames x; first | (refine State.Wired.cut (s₀ := s₀) (s := x) ?_ fun hx => ?_; (on_goal 2 => clear_value x); (on_goal 1 => unfold x; clear x)) | (refine State.Wired.cut (s₀ := s₀) (s := x.2) ?_ fun hx => ?_; (on_goal 2 => clear_value x); (on_goal 1 => unfold x; clear x)) | clear_value x)
      | split | (fail_if_no_progress (apply wired_mk))

theorem State.peepTap_wired {s : State} {t : TapIn} (hk : s.Wired s₀) :
    (State.peepTap s t).Wired s₀ := by
  unfold State.peepTap
  repeat' with_reducible first
      | assumption | apply State.bumpRow_wired | apply State.updClRx_wired | apply State.peepCopy_wired | apply foldl_wired | intro _
      | (extract_lets +onlyGivenNames x; first | (refine State.Wired.cut (s₀ := s₀) (s := x) ?_ fun hx => ?_; (on_goal 2 => clear_value x); (on_goal 1 => unfold x; clear x)) | clear_value x)
      | split | (fail_if_no_progress (apply wired_mk))

theorem State.tapPlain_wired {s : State} {p : Nat} {f : TxFrame} {stamp : Word} (hk : s.Wired s₀) :
    (State.tapPlain s p f stamp).Wired s₀ := by
  unfold State.tapPlain
  repeat' with_reducible first
      | assumption | apply State.peepTap_wired
      | (extract_lets +onlyGivenNames x; first | (refine State.Wired.cut (s₀ := s₀) (s := x) ?_ fun hx => ?_; (on_goal 2 => clear_value x); (on_goal 1 => unfold x; clear x)) | clear_value x)
      | split | (fail_if_no_progress (apply wired_mk))

theorem State.overrunCheck_wired {s : State} {p : Nat} {f : TxFrame} (hk : s.Wired s₀) :
    (State.overrunCheck s p f).Wired s₀ := by
  unfold State.overrunCheck
  repeat' with_reducible first
      | assumption | apply State.shutCause_wired | apply State.bumpPort_wired
      | (extract_lets +onlyGivenNames x; first | (refine State.Wired.cut (s₀ := s₀) (s := x) ?_ fun hx => ?_; (on_goal 2 => clear_value x); (on_goal 1 => unfold x; clear x)) | clear_value x)
      | split

theorem State.frameLeft_wired {s : State} {p : Nat} {f : TxFrame} {bytes : Bytes} {fin : End} (hk : s.Wired s₀) :
    (State.frameLeft s p f bytes fin).Wired s₀ := by
  unfold State.frameLeft
  repeat' with_reducible first
      | assumption | apply State.peepTap_wired | apply State.tapPlain_wired | apply State.overrunCheck_wired | apply State.directDone_wired
      | (extract_lets +onlyGivenNames x; first | (refine State.Wired.cut (s₀ := s₀) (s := x) ?_ fun hx => ?_; (on_goal 2 => clear_value x); (on_goal 1 => unfold x; clear x)) | clear_value x)
      | split | (fail_if_no_progress (apply wired_mk))

theorem State.dropFrame_wired {s : State} {p : Nat} {f : TxFrame} (hk : s.Wired s₀) :
    (State.dropFrame s p f).Wired s₀ := by
  unfold State.dropFrame
  repeat' with_reducible first
      | assumption | apply State.freshWord_wired | apply State.tapPlain_wired | apply State.bump_wired | apply State.directDone_wired
      | (extract_lets +onlyGivenNames x; first | (refine State.Wired.cut (s₀ := s₀) (s := x) ?_ fun hx => ?_; (on_goal 2 => clear_value x); (on_goal 1 => unfold x; clear x)) | (refine State.Wired.cut (s₀ := s₀) (s := x.2) ?_ fun hx => ?_; (on_goal 2 => clear_value x); (on_goal 1 => unfold x; clear x)) | clear_value x)
      | split | (fail_if_no_progress (apply wired_mk))

end Sys2Proof.Machine
end

