-- ==== Sys2Proof/Laws/Writes.lean ====
section
/-!
SUPPORT. A master's write of one object, with nothing waiting: the command answers the state in which the object's unit has
acted. Written once for objects that land and once for those that act at acceptance (R16).
-/
namespace Sys2Proof.Machine
open State
variable {s : State} {idx sub : Nat} {v : Word} {ix : Ix} {o : ObjInfo} {p : State → Prop}

/-- A write that is accepted and lands answers what its unit's effect satisfies. -/
theorem answers_write (dt : Nat) (via : Master) (hr : s.Ready) (hc : classify idx = some ix)
    (ho : (objsOf ix).find? (fun o => o.sub == sub) = some o) (hs : sub ≠ 0) (hu : o.sub = sub) (h : (s.elapse dt).Takes ix o idx v)
    (hp : ∀ x : Sent, Output.status rOK ∈ x.outs → p (((s.elapse dt).said x).objEffect via.transport [] ix o idx v)) :
    AnswersSettled (s.masterWrite dt via idx sub v) p := by
  obtain ⟨x, hl, he⟩ := requestLand_obj (via := via.transport) (cuts := []) (elapse_ready s dt hr) hc
    ((objInfo_of hc).trans ho) hs hu h
  exact ⟨_, by rw [masterWrite, he]; rfl, hp x hl⟩

theorem objEffect_plain (s : State) (via : Transport) (cuts : List (Nat × CutFrame)) (hst : ¬(o.ty = .strobe ∧ v ≠ 1)) :
    s.objEffect via cuts ix o idx v = s.actObj via cuts ix idx o.sub (storedAs ix o.sub v) none := if_neg hst

/-- An RWL object, through the window (R16). -/
structure TakesNow (s : State) (ix : Ix) (o : ObjInfo) (idx : Nat) (v : Word) : Prop where
  acc : o.acc = .rwl
  window : ∀ c t, ix ≠ .window c t
  keys : idx ≠ 0x0600
  fits : (o.ty.fits v.toNat && o.ok v.toNat) = true
  accept : s.objCond s.landedVal false ix idx o.sub (storedAs ix o.sub v) = true

theorem answers_rwl (dt : Nat) (hr : s.Ready) (hc : classify idx = some ix)
    (ho : (objsOf ix).find? (fun o => o.sub == sub) = some o) (hs : sub ≠ 0) (hu : o.sub = sub) (h : TakesNow (s.elapse dt) ix o idx v)
    (hm : mirrored idx sub = false)
    (hd : ((s.elapse dt).actRwl ix sub v).dict = s.dict)
    (hp : p (((s.elapse dt).actRwl ix sub v).emit (.status rOK))) :
    AnswersSettled (s.masterWrite dt .window idx sub v) p := by
  refine ⟨_, ?_, hp⟩
  have run := (elapse_ready s dt hr).1
  have ha : (s.elapse dt).acceptObj .window ix o idx v none = (rOK, (s.elapse dt).actRwl ix sub v) := by
    unfold acceptObj
    dsimp only
    have hl : (s.elapse dt).acceptedVal = (s.elapse dt).landedVal := acceptedVal_landed hr.2.1
    rw [hl, hu, if_neg (by simp [h.acc]), if_neg (by simp [isBdp]), if_neg (by simp [h.acc]), if_neg (by simp [h.fits]),
      if_neg (by simp [h.acc]), if_neg (by have := h.accept; rw [hu] at this; simp [this]), if_neg (fun e => h.keys e.1),
      if_neg (fun e => h.keys e.1), if_neg (fun e => h.keys e.1), if_pos h.acc]
    simp [forwardObj, hm]
  have hw : (s.elapse dt).write .window idx sub v = (rOK, (s.elapse dt).actRwl ix sub v) := by
    unfold write
    simp only [hc, hs, (objInfo_of hc).trans ho, if_false]
    cases ix <;> first | exact absurd rfl (h.window _ _) | (simp only [ha]; rfl)
  have hq : (s.elapse dt).request .window idx sub v = ((s.elapse dt).actRwl ix sub v).emit (.status rOK) := by
    unfold request
    rw [if_neg (by simp [run]), hw]
  have hn : (((s.elapse dt).actRwl ix sub v).emit (.status rOK)).dict.landing = [] := by
    rw [show (((s.elapse dt).actRwl ix sub v).emit (.status rOK)).dict = ((s.elapse dt).actRwl ix sub v).dict from rfl, hd]; exact hr.2.1
  unfold masterWrite requestLand
  rw [show Master.window.transport = Transport.window from rfl, hq]
  dsimp only
  split
  · unfold landWrites; rw [hn]; rfl
  · rfl

end Sys2Proof.Machine
end

