-- ==== Sys2Proof/WellFormed.lean ====
section
/-!
DEFINITION. Which commands are well formed: every number within the range the spec gives it. A meaning is total on ill-formed
commands too, but nothing is meant by one.
-/
namespace Sys2Proof

/-- Ports (R6), lanes, clusters and their key slots. -/
def portOk (p : Nat) : Bool := decide (p < 1024)
def laneOk (l : Nat) : Bool := decide (l < 1024)
def clusterOk (c : Nat) : Bool := decide (c < 16)
def slotOk (r : Nat) : Bool := decide (r < 4096)

/-- DMA rings and quarters (R480). -/
def ringOk (r : Nat) : Bool := decide (r < 256)
def quarterOk (q : Nat) : Bool := decide (q < 4)

/-- Tables of a cluster (R68). -/
def tableOk (t : Nat) : Bool := decide (t ≤ 0xC)

/-- Processor targets, their bands and the source banks (R64, R511, R514). -/
def targetOk (t : Nat) : Bool := decide (t < 32)
def bandOk (b : Nat) : Bool := decide (b < 8)
def bankOk (b : Nat) : Bool := decide (b < 64)

/-- Power domains (R535) and tamper inputs (R221). -/
def domainOk (n : Nat) : Bool := decide (n < 80)
def sensorOk (n : Nat) : Bool := decide (n < 4)

/-- Every operand lies in its range. -/
def Instr.wellFormed (i : Instr) : Bool :=
  match i with
  | .powerOnReset _ => true
  | .laneLockLoss _ lane _ => laneOk lane
  | .laneLock _ lane => laneOk lane
  | .alignmentLock _ p => portOk p
  | .alignFail _ p => portOk p
  | .alignmentLoss _ p _ => portOk p
  | .remoteFault _ p _ => portOk p
  | .remoteFaultClear _ p => portOk p
  | .flushOnDown _ p => portOk p
  | .rxFrame _ p _ _ _ => portOk p
  | .ingressSkidSend _ c _ _ => clusterOk c
  | .macControlFrame _ p _ _ => portOk p
  | .pauseFrame _ p _ _ => portOk p
  | .pfcFrame _ p _ _ => portOk p
  | .pauseTimerExpiry _ p k => portOk p && decide (k < 8)
  | .preemptFragmentRx _ p _ _ _ => portOk p
  | .reasmTimeout _ p => portOk p
  | .verifyFrameRx _ p _ _ => portOk p
  | .respondFrameRx _ p _ _ => portOk p
  | .verifyTimeout _ p => portOk p
  | .inbandRequest _ p _ _ => portOk p
  | .bdpRead _ _ => true
  | .bdpWrite _ _ => true
  | .bdpHello _ _ => true
  | .busOff _ => true
  | .canWakeFrame _ id => decide (id < 2 ^ 29)
  | .windowAccessError _ => true
  | .dictWrite _ _ idx sub _ => decide (idx < 65536) && decide (sub < 256)
  | .writeLanding _ _ => true
  | .time84ReadLatch _ _ idx sub => decide (idx < 65536) && decide (sub < 256)
  | .timeSnap _ => true
  | .rowSelect _ _ c t _ => clusterOk c && tableOk t
  | .commit _ _ c t => clusterOk c && tableOk t
  | .dataRow _ _ c t image => clusterOk c && tableOk t && !image.isEmpty
  | .doorInsert _ _ c _ _ => clusterOk c
  | .doorDelete _ _ c _ _ => clusterOk c
  | .learnInsert _ c => clusterOk c
  | .stationMove _ c => clusterOk c
  | .agePass _ c _ => clusterOk c
  | .flush _ _ c => clusterOk c
  | .flushDone _ c => clusterOk c
  | .parityCaptureRead _ _ c => clusterOk c
  | .keyLoad _ _ c _ suite _ data => clusterOk c && decide (suite < 4) && data.length == 7
  | .keyBankFlip _ c r => clusterOk c && slotOk r
  | .keyErase _ _ c _ => clusterOk c
  | .ckeyCommit _ _ => true
  | .eraseAll _ _ => true
  | .tamper _ sensor => sensorOk sensor
  | .tamperClr _ _ _ => true
  | .keyAlarmClr _ _ _ => true
  | .trngRestart _ _ => true
  | .trngStartupDone _ => true
  | .trngTestFail _ _ => true
  | .attestNonce _ _ _ => true
  | .attestReady _ => true
  | .adopt _ _ => true
  | .pnAlertRead _ _ c => clusterOk c
  | .holdPeakRead _ _ c => clusterOk c
  | .meterEccCaptureRead _ _ c => clusterOk c
  | .settle _ _ c => clusterOk c
  | .meterBackgroundRefill _ c row => clusterOk c && decide (row < 32768)
  | .enqueueNotice _ c leaf _ => clusterOk c && decide (leaf < 65536)
  | .dequeueGrant _ c _ => clusterOk c
  | .latheFiring _ c k => clusterOk c && decide (k < 196608 + 1024)
  | .latheCascade _ c _ => clusterOk c
  | .shaperBackgroundRefill _ c k => clusterOk c && decide (k < 196608 + 1024)
  | .returnRow _ _ c t => clusterOk c && decide (t ≤ 2)
  | .schedEccCaptureRead _ _ c => clusterOk c
  | .latheMaxLateRead _ _ c => clusterOk c
  | .returnedSegment _ tag seg _ _ => decide (tag < 65536) && portOk seg.port
  | .txFrameStart _ p => portOk p
  | .underrun _ p => portOk p
  | .txFrameDone _ wire => portOk wire.port
  | .preemption _ p _ => portOk p
  | .continuationResume _ p => portOk p
  | .fcXoffChange _ p xoff => portOk p && decide (xoff < 256)
  | .pauseRefresh _ p => portOk p
  | .txSillSet _ _ p _ => portOk p
  | .txTsMetaRead _ _ c => clusterOk c
  | .rxCauseClr _ _ p _ => portOk p
  | .txCauseClr _ _ p _ => portOk p
  | .shutterCauseClr _ _ p _ => portOk p
  | .portEnable _ _ p _ => portOk p
  | .returnLostTimeout _ p => portOk p
  | .portCloseDone _ p => portOk p
  | .gateEnable _ _ p _ => portOk p
  | .configChange _ _ p => portOk p
  | .swapLatch _ p _ => portOk p
  | .shutterSwap _ p => portOk p
  | .shutterEntryChange _ p _ => portOk p
  | .shutterCloseDone _ p => portOk p
  | .shutterEccCaptureRead _ _ c => clusterOk c
  | .digestClose _ p => portOk p
  | .digestCycleRead _ _ => true
  | .calCaptureRead _ _ c => clusterOk c
  | .calEccCaptureRead _ _ c => clusterOk c
  | .setTime _ _ _ _ => true
  | .stepTime _ _ _ => true
  | .freqWordWrite _ _ _ => true
  | .holdoverEntry _ => true
  | .ppsInEdge _ => true
  | .ppsMissing _ => true
  | .todMessage _ msg => msg.length == 16
  | .todAlign _ => true
  | .ppsOutEdge _ => true
  | .shortFormWrap _ => true
  | .pllLock _ => true
  | .pllLossOfLock _ => true
  | .managementTick _ _ => true
  | .counterHalfPresent _ idx sub _ => decide (idx < 65536) && decide (sub < 256)
  | .halfNextRead _ _ g => decide (g ≤ 16)
  | .snap _ _ => true
  | .snapRelease _ _ => true
  | .wdxAliveToggle _ => true
  | .peerAliveTimeout _ => true
  | .peerAliveToggle _ => true
  | .selMineRise _ => true
  | .selMineFall _ => true
  | .pcsOutputSwitch _ p => portOk p
  | .demote _ _ => true
  | .reinstate _ _ => true
  | .helloTx _ _ => true
  | .helloRx _ _ _ _ => true
  | .helloAckRx _ _ _ _ _ _ => true
  | .heartbeatTx _ _ => true
  | .heartbeatRx _ _ _ _ _ _ => true
  | .heartbeatTimeout _ _ => true
  | .healthRx _ _ _ _ => true
  | .mirrorRx _ _ _ _ _ => true
  | .mirrorAckRx _ _ _ _ => true
  | .latchMarkRx _ _ _ _ p _ => portOk p
  | .digestMarkRx _ _ _ _ _ _ => true
  | .resync _ _ => true
  | .resyncComplete _ => true
  | .resyncItemRx _ _ _ _ _ => true
  | .expressRecordRx _ _ _ r => portOk r.port
  | .bulkIntervalEnd _ => true
  | .bulkRecordRx _ _ _ r => portOk r.port
  | .recordExpiry _ => true
  | .demotingRx _ _ _ => true
  | .mismatchCaptureRead _ _ => true
  | .stestBankTest _ unit _ _ _ => decide (unit ≤ 16)
  | .stestCaptureRead _ _ => true
  | .pairedComparatorFire _ cluster unit => decide (cluster ≤ 16) && decide (unit ≤ 16)
  | .eventDelivery _ => true
  | .recordWriteError _ t b => targetOk t && bandOk b
  | .coalTimeout _ t b => targetOk t && bandOk b
  | .pendingSet _ _ b _ => bankOk b
  | .pendingClr _ _ b _ => bankOk b
  | .maskSet _ _ b _ => bankOk b
  | .maskClr _ _ b _ => bankOk b
  | .enterBand _ _ t _ => targetOk t
  | .exitBand _ _ t _ => targetOk t
  | .claim _ _ t => targetOk t
  | .doneWrite _ _ t _ => targetOk t
  | .recHeadWrite _ _ t b _ => targetOk t && bandOk b
  | .recCoalWrite _ _ t b _ => targetOk t && bandOk b
  | .recEnable _ _ t b _ => targetOk t && bandOk b
  | .recBusCaptureRead _ _ => true
  | .latchFiredClr _ _ _ => true
  | .ringEnable _ _ r _ => ringOk r
  | .ringCloseDone _ r => ringOk r
  | .tailDoorbell _ _ r _ => ringOk r
  | .ringCauseClr _ _ r _ => ringOk r
  | .descFrameCore _ r => ringOk r
  | .descFrameDirect _ r => ringOk r
  | .descMove _ work => ringOk work.ring
  | .descFill _ work => ringOk work.ring
  | .descCompare _ work => ringOk work.ring
  | .dmaRxDelivery _ r => ringOk r
  | .busErrorResponse _ r _ => ringOk r
  | .busErrInfoRead _ _ q => quarterOk q
  | .domainRequest _ _ n _ => domainOk n
  | .powerAck _ n => domainOk n
  | .powerAckTimeout _ n => domainOk n
  | .clusterEnable _ _ c _ => clusterOk c
  | .clusterCloseDone _ c => clusterOk c
  | .clusterModeListen _ _ c => clusterOk c
  | .listenReached _ c => clusterOk c
  | .clusterModeFull _ _ c => clusterOk c
  | .sleep _ _ => true
  | .resetCold _ _ _ => true
  | .resetWarm _ _ _ => true
  | .resetCluster _ _ c _ => clusterOk c
  | .resetPort _ _ p _ => portOk p
  | .resetRestoreDefaults _ _ _ => true
  | .refusedPathHoldoffEnd _ _ => true
  | .mirrorAckTx _ => true
  | .hingeEnable _ _ _ => true
  | .porNFall _ => true
  | .tamperInputHigh _ sensor => sensorOk sensor
  | .ppsOutPulseEnd _ => true
  | .domainStreamRead _ _ sub => decide (sub < 256)

end Sys2Proof
end

