-- ==== Sys2Proof/Tests/Slice0.lean ====
section
/-!
SUPPORT. Smoke tests of the well-formedness checks, small tests of single commands, and for each statement with hypotheses a
theorem `witness_<Name>`: states and operands that meet the hypotheses of its clauses together, in the order of the clauses.
The expected values of the tests come from the rule named with each, not from the model.
-/
namespace Sys2Proof.Tests
open Sys2Proof Sys2Proof.Machine State

set_option maxRecDepth 8000
set_option Elab.async false

/-! ### Well-formedness: an ill-formed command for each check -/

theorem test_wf_port : (Instr.alignFail 0 1024).wellFormed = false := by decide
theorem test_wf_lane : (Instr.laneLock 0 1024).wellFormed = false := by decide
theorem test_wf_cluster : (Instr.learnInsert 0 16).wellFormed = false := by decide
theorem test_wf_slot : (Instr.keyBankFlip 0 0 4096).wellFormed = false := by decide
theorem test_wf_ring : (Instr.descMove 0 { ring := 256 }).wellFormed = false := by decide
theorem test_wf_quarter : (Instr.busErrInfoRead 0 .window 4).wellFormed = false := by decide
theorem test_wf_table : (Instr.commit 0 .window 0 0xD).wellFormed = false := by decide
theorem test_wf_target : (Instr.claim 0 .window 32).wellFormed = false := by decide
theorem test_wf_band : (Instr.recEnable 0 .window 0 8 1).wellFormed = false := by decide
theorem test_wf_bank : (Instr.maskSet 0 .window 64 0).wellFormed = false := by decide
theorem test_wf_domain : (Instr.powerAck 0 80).wellFormed = false := by decide
theorem test_wf_sensor : (Instr.tamper 0 4).wellFormed = false := by decide
theorem test_wf_fields : (Instr.keyLoad 0 .window 0 0 4 false (List.replicate 7 0)).wellFormed = false ∧
    (Instr.keyLoad 0 .window 0 0 1 false []).wellFormed = false ∧ (Instr.pauseTimerExpiry 0 0 8).wellFormed = false ∧
    (Instr.dictWrite 0 .window 65536 0 0).wellFormed = false ∧ (Instr.todMessage 0 []).wellFormed = false := by decide
theorem test_wf_good : (Instr.commit 0 .window 15 0xC).wellFormed = true ∧ (Instr.alignFail 0 1023).wellFormed = true := by decide

/-! ### States the tests and witnesses start from -/

/-- READY with every domain ON. -/
def wAll : State :=
  { State.reset with power := { doms := (List.range 80).map fun n => (n, domainOn), boot := .ready } }

/-- ... with cluster 0 OPEN. -/
def wC : State := { wAll with clusterPower := [(0, { st := .opened })] }

/-- ... with port 0 OPEN and its link UP. -/
def wP : State := { wC with portRx := [(0, { st := .opened, link := .up })] }

def withPort (s : State) (q : PortRx) : State := { s with portRx := [(0, q)] }
def withTx (s : State) (q : PortTx) : State := { s with portTx := [(0, q)] }
def withClRx (s : State) (q : ClusterRx) : State := { s with clusterRx := [(0, q)] }
def withClTx (s : State) (q : ClusterTx) : State := { s with clusterTx := [(0, q)] }
def withShut (s : State) (q : Shutter) : State := { s with shutters := [(0, q)] }
def withRing (s : State) (q : Ring) : State := { s with rings := [(0, q)] }
def withTwin (s : State) (q : TwinUnit) : State := { s with twin := { q with faultSeen := 32 } }
def withDom (s : State) (n : Nat) (d : Domain) : State := s.setDom n d
def withClp (s : State) (q : ClusterPower) : State := { s with clusterPower := [(0, q)] }
def withSrc (s : State) (q : Source) : State := { s with ev := { s.ev with sources := [(5, q)] } }
def withTime (s : State) (q : TimeUnit) : State := { s with time := q }

/-- A frame of zeros between stations 02:...:01 and 02:...:02 with EtherType `e`, and bytes `b` behind it, with its FCS. -/
def eth (da sa : Bytes) (e : Nat) (b : Bytes) : Bytes := (fun x => x ++ fcsOf x) (padTo 60 (da ++ sa ++ beBytes 2 e ++ b))
def staA : Bytes := [2, 0, 0, 0, 0, 1]
def staB : Bytes := [2, 0, 0, 0, 0, 2]
def pauseDa : Bytes := [1, 0x80, 0xC2, 0, 0, 1]
def wFrame : TxFrame := { data := List.replicate 200 0, ended := true, endDone := true }
def wKey : KeyImg := { suite := 1, key := List.replicate 16 7, salt := [] }
def wPdu : Bytes := [1, 1, 0, 1, 1, 0, 3, 1]
def wReq : Bytes := eth staA staB 0x88B5 (beBytes 8 5 ++ wPdu ++ inbandTag wKey.key staB 5 wPdu)
def z60 : Bytes := List.replicate 60 0
def wReasm (num frag : Nat) (data : Bytes) : Reasm := { num, data, frag, stamp := 0, lastAt := 0, begun := 0 }
def wSkid (n sent : Nat) (growing : Bool) : SkidFrame :=
  { port := 0, metaWord := 5, bytes := List.replicate n 1, fin := .good, reason := 0, sent, growing, reserve := 64 }
def wLearn (move : Bool) : LearnReq := { mac := 0x020000000001, vid := 1, port := 5, move }
def wWay : Nat := (wC.doorWays 0 0x020000000001 1).headD 0
def wEntry (kind port : Nat) (hit stale : Bool) : DoorEntry :=
  { mac := 0x020000000001, vid := 1, kind, port, ring := 0, mode := 0, hit, stale }
def wDoorAt (e : DoorEntry) (d : DoorUnit) : State := withClRx wC { door := { d with rows := [(wWay, { entry := some e })] } }

def wSeg (e : Bool) : Segment :=
  { port := 0, data := List.replicate 64 1, sof := false, eof := e, fin := .good, reason := 0, metaWord := 0 }
def wGrant : TxFrame := { wFrame with tag := some 255, ended := false, annLen := 300 }
def wPre : TxFrame := { wFrame with preemptable := true }
def wList : ShutterList := { entries := [], g := 68719476, den := 1, num := 0 }
def wSwap : Swap := { tc := 2 ^ 40, start := 0, first := 9 }
def wTod : Bytes := (fun b => b ++ beBytes 2 (crc16 b)) [0x5A, 0xA5, 1, 7, 0, 0, 0, 0, 0, 9, 0, 0, 0, 0]
def withCu (s : State) (q : CounterUnit) : State := { s with cu := q }
def withDict (s : State) (q : DictUnit) : State := { s with dict := q }

def wCan : State := wAll.setReg 0x0200 3 1
def wId : Nat := 2 * 2 ^ 26 + 1 * 2 ^ 22 + 0x40 * 2 ^ 15 + 1 * 2 ^ 8
def withSession (s : State) (q : Session) : State := { s with dict := { s.dict with sessions := [(1, q)] } }
def wHead (data : Bytes) : BdpHead := (bdpHead data).getD { version := 0, op := 0, seq := 0, idx := 0, sub := 0, count := 0 }
def wRead : Bytes := [1, 1, 0, 1, 1, 0, 3, 1]
def wWrite : Bytes := [1, 2, 0, 1, 1, 0, 3, 1] ++ beBytes 8 5
def wHel : Bytes := [1, 5, 0, 1, 0, 0, 0, 1] ++ beBytes 8 1

def wMeterImg : List Word := [1, 0, 0, 0, 0]
def wAt (s : State) (tick : Word) (es : List Effect) : State := withDict s { landing := es.map fun e => { via := .can, eff := e, tick } }
def wLand (e : Effect) (tick : Word) : Landing := { via := .can, eff := e, tick }
def wOn (s : State) : State := withTime s { s.time with ticks := 9 }

def wMac : Nat := beNat (leBytes 6 0x010000000002)
def wDoor : State :=
  withClRx wC { door := { rows := [((wC.doorWays 0 wMac 1).headD 0, { entry := some ({ mac := wMac, vid := 1, kind := 1, port := 4, ring := 0, mode := 0, hit := false, stale := false } : DoorEntry) })] } }
def wCtrl : Word := 1 <<< 61 ||| 1 <<< 8 ||| 1 <<< 40 ||| 4

def wImage : List Word := [0x0F0E0D0C0B0A0908, 1, 2, 3, 0, 0, 0]
def wKeyRow (w : Bool) : List Word := (if w then 17 else 1) :: wImage
def withSlot (s : State) (q : KeySlot) : State := { s with keys := { s.keys with slots := [(4095, q)] } }
def withKeys (s : State) (q : KeyUnit) : State := { s with keys := q }
def wKeyOf : KeyImg := (imageKey 1 false ((wImage.flatMap fun w : Word => leBytes 8 w.toNat).take 48)).getD wKey

/-- The image above wrapped under `wKey`. -/
def wWrapped : List Word :=
  [2745797582610993709, 6756755937225631436, 9075664097844888430, 9798043538507925534, 5068666956273490862, 2445494017250206772,
    3850961060535157976]

def onDom : Domain := { req := .on, pin := .on, ack := .on, goal := .on, isolated := false }
def pairedS : State := (wC.setReg 0x0500 1 1).setReg 0x0500 3 1
def wFaultless (s : State) : State := { s with time := { s.time with st := .freerun } }
/-- The Hinge OPEN, both paths UP. -/
def hingeUp (r : Role) : TwinUnit :=
  { role := r, hinge := .opened, pathA := { st := .up, version := 1 }, pathB := { st := .up, version := 1 } }
def wH (r : Role) : State := withTwin pairedS (hingeUp r)
def wHello : Hello :=
  { versions := 7, stepping := 0, deviceId := 5, role := 1, adopted := true, serial := 9, pub := [1, 2], nonce := List.replicate 32 3, sent := 0 }
def with1023 (s : State) (q : PortRx) : State := { s with portRx := [(1023, q)] }
def withEv (s : State) (q : EventUnit) : State := { s with ev := q }
def withPower (s : State) (q : PowerUnit) : State := { s with power := q }
def wBits : List Bool := (List.range 512).flatMap fun _ => [true, false]
def wMem (s : State) (r i addr ctrl aux : Nat) : State :=
  s.memWrite (s.descAddr r i) (leBytes 8 addr ++ leBytes 8 ctrl ++ leBytes 8 aux ++ leBytes 8 (2 ^ 63))
/-- An OPEN ring 0 of 8 descriptors of 32 bytes at 0x1000, type `ty`, whose first descriptor is `addr`, `ctrl`, `aux`. -/
def wRing (ty addr ctrl aux : Nat) : State :=
  wMem (((((withRing wC { st := .opened, tail := 1, door := true }).setReg 0x0800 3 0x1000).setReg 0x0800 4 8).setReg 0x0800 5 (Word.ofNat ty)).setReg 0x0800 6 1) 0 0 addr ctrl aux
def wWork (level : Nat) : Work := { d := { v1 := false, addr := 2 ^ 40, aux := 0, ctrl := 0x20000C8, status := 0 }, off := 0, level }
/-- Two MEMORY rings of one quarter, ring 0 of a higher level. -/
def wTwo : State :=
  { (((wRing 2 0 0 0).setReg 0x0801 5 2).setReg 0x0800 8 0).setReg 0x0801 8 3 with rings := [(0, { st := .opened, tail := 1, work := some (wWork 3) }), (1, { st := .opened, tail := 1, work := some (wWork 0) })] }
def wStaged : Staged :=
  { ring := 32, first := 7, count := 1, bytes := [1, 2, 3, 4, 5, 6, 7, 8, 9], cut := false, stamp := 0, port := 0, vid := 0, colour := 0, source := 0 }
def wRxRing : State :=
  let s := ({ wC with rings := [(32, { st := .opened, tail := 1, door := true, head := 7, fetch := 7 })], quarters := [(0, { staged := [wStaged] })] } : State)
  wMem (((s.setReg 0x0820 3 0x1000).setReg 0x0820 4 8).setReg 0x0820 6 1) 32 7 (2 ^ 40) 9 0
def wEvt : State :=
  ((((withSrc wAll { st := .pending, mask := false }).setReg 0x5005 1 0x100000000).setReg (tIdx 0) 1 1).setReg (bIdx 0 0) 1 1).setReg (tIdx 0) 2 0

/-! ### Small tests -/

/-- The command answers a next state of which `p` holds. -/
def runs (r : Res) (p : State → Bool) : Bool := match r with | .next t => p t | _ => false

/-- ASCII "123456789", the usual check string; the check values are the published ones of CRC-32 and of CRC-16 with this
polynomial and start (R48). -/
def checkString : Bytes := [0x31, 0x32, 0x33, 0x34, 0x35, 0x36, 0x37, 0x38, 0x39]
theorem test_crc : crc32 checkString = 0xCBF43926 ∧ crc16 checkString = 0x29B1 ∧ crc32c 0xFFFFFFFF checkString = 0xE3069283 := by
  decide +kernel

/-- FIPS 197, appendix C.1. -/
theorem test_aes : aesEnc (List.range 16) ((List.range 16).map (17 * ·)) =
    [0x69, 0xC4, 0xE0, 0xD8, 0x6A, 0x7B, 0x04, 0x30, 0xD8, 0xCD, 0xB7, 0x80, 0x70, 0xB4, 0xC5, 0x5A] := by decide +kernel

/-- FIPS 180-4, the digest of "abc". -/
theorem test_sha256 : beNat (sha256 [0x61, 0x62, 0x63]) = 0xBA7816BF8F01CFEA414140DE5DAE2223B00361A396177A9CB410FF61F20015AD := by
  decide +kernel

/-- The worked examples of 00_scope.md: cluster object 3 of cluster 11. -/
theorem test_index : clIdx 11 3 = 0x20B3 ∧ winIdx 8 1 = 0x3801 := by decide

/-- The worked example of R155: 65,535 quanta at 1.6T. -/
theorem test_pause_grains : pauseGrains 65535 1600000000000 = 1441130 := by decide

/-- The worked example of R122: boundaries 1, 2 and 125 of a 1 ms cycle. -/
theorem test_boundary : boundary 0 68719476 92 125 1 = 68719476 ∧ boundary 0 68719476 92 125 2 = 137438953 ∧
    boundary 0 68719476 92 125 125 = 2 ^ 33 := by decide

/-- The worked example after R83: SEQ, INDEX, SUBINDEX and COUNT of a BDP request. -/
theorem test_bdp_head : (bdpHead [2, 1, 0, 0x2A, 1, 0, 2, 1]).map (fun h => [h.version, h.op, h.seq, h.idx, h.sub, h.count]) =
    some [2, 1, 0x2A, 0x0100, 2, 1] := by decide

/-- The worked example of R297: 9,000 bytes with 32 of MACsec on port 512, in cells of 64 with 5 of overhead. -/
theorem test_charged :
    ((wAll.rowSet (winIdx 8 2) 2 0 (20 <<< 16 ||| 64 <<< 32 ||| 5 <<< 40 : Word)).setReg 0x1200 7 9216).charged 512 9000 0 32 = (9032, 9052, 9798) := by
  decide +kernel

/-- The worked example of R134: 63 bytes with a good FCS never leave the MAC, with a bad one neither; 64 pass. -/
def wShort (n : Nat) : Bytes := (fun x => x ++ fcsOf x) (staA ++ staB ++ List.replicate n 8)
theorem test_runt : runs (execRxFrame 0 0 0xD5 (wShort 47) {} wP) fun t => decide (t.ctr 0x1800 0x09 = 1 ∧ (t.clRx 0).skid = []) := by
  decide +kernel
theorem test_fragment : runs (execRxFrame 0 0 0xD5 ((wShort 46) ++ [0]) {} wP)
    fun t => decide (t.ctr 0x1800 0x0A = 1 ∧ t.ctr 0x1800 0x09 = 0) := by
  decide +kernel
theorem test_shortest : runs (execRxFrame 0 0 0xD5 (wShort 48) {} wP)
    fun t => decide (t.ctr 0x1800 0x01 = 1 ∧ t.ctr 0x1800 0x02 = 64) := by
  decide +kernel

/-- R131: the lanes of an UP port lock no longer. -/
theorem test_link_down : runs (execLaneLockLoss 0 0 none wP) fun t => decide ((t.port 0).link = .down ∧ (t.port 0).cause = 2) := by
  decide +kernel

/-- R57, R58: SERIAL is read only, SPEED waits for CLOSED, an object that does not exist is NO_OBJECT. -/
theorem test_refusals : ((wP.write .window 0x0100 1 0).1, (wP.write .window 0x1000 3 1).1, (wP.write .window 0x0FFF 1 0).1) = 
   (2, 4, 1) := by
  decide +kernel

/-- R258: the second pass without a hit marks a learned entry, and the third removes it. -/
theorem test_ageing : runs (execAgePass 0 0 [] (wDoorAt (wEntry 0 4 false true) { nextPass := some 0 }))
    fun t => decide (t.doorEntry 0 wWay = none) := by
  decide +kernel

/-- R131, R106: after power-on reset a link is DOWN and the clock is UNSET; the queue stays. -/
theorem test_power_on_reset : runs (execPowerOnReset 0 (withPower wP { wP.power with porN := false }))
    fun t => decide ((t.port 0).link = .down ∧ t.time.st = .unset ∧ t.pending = wP.pending) := by
  decide +kernel

/-- On an empty queue the block idles; a command put in front is run next (assumption 1). -/
theorem test_step : step State.reset = .next State.reset ∧
    step { State.reset with pending := [.powerAckTimeout 1 0] } = exec (.powerAckTimeout 1 0) State.reset := ⟨rfl, rfl⟩

/-! ### Witnesses of the statements' hypotheses -/

/-- `wP` with two commands waiting: the hypotheses of StepRunsFront and, at their first, of StepKeepsCanonical, ExecKeepsQueue and
FramesByPart. -/
def wTwoWait : State := { wP with pending := [.rxCauseClr 1 .can 0 1, .windowAccessError 1] }
theorem witness_StepRunsFront : wTwoWait.pending = .rxCauseClr 1 .can 0 1 :: [.windowAccessError 1] := rfl
theorem witness_StepIdlesOnEmpty : wP.pending = [] := rfl
theorem witness_StepKeepsCanonical : (decide wTwoWait.Canonical && runs (step wTwoWait) fun _ => true) = true := by decide +kernel
theorem witness_ExecKeepsQueue : runs (exec (.rxCauseClr 1 .can 0 1) wTwoWait) (fun _ => true) = true := by decide +kernel
theorem witness_FramesByPart : (decide (wP.Canonical ∧ .keys ∉ reaches (.alignFail 1 0)) &&
    runs (exec (.alignFail 1 0) wP) fun _ => true) = true := by decide +kernel
theorem witness_WriteFrames : wC.Ready ∧ 1023 < 1024 ∧ 255 < 256 ∧ 31 < 32 ∧ 63 < 64 ∧ (0xFFFFFFFF : Word).toNat < 2 ^ 32 := by
  decide +kernel

def wLinkStates : State :=
  (withTx (withPort wC { st := .opened, link := .up }) { ownPcs := true })

theorem witness_LinkStates : List.all [
  (fun s : State =>
    let p := 0; let lane := 0; decide (lane < 1024) && decide (s.portOfLane lane = some p) && decide ((s.port p).st ≠ .closing))
    (withPort wC { st := .opened, link := .up }),
  (fun s : State =>
    let p := 0; let lane := 0; decide (lane < 1024) && decide (s.portOfLane lane = some p) && decide ((s.port p).st = .closing))
    (withPort wC { st := .closing, link := .up }),
  (fun s : State =>
    let lane := 1023; decide (lane < 1024) && decide (s.portOfLane lane = none)) (wAll),
  (fun s : State =>
    let p := 0; let lane := 0; decide (lane < 1024) && decide (s.portOfLane lane = some p) && decide ((s.port p).st ≠ .closing) &&
    decide ((s.port p).link = .down) && decide (s.laneRuns (p / 64) = true) &&
    decide ((∀ l ∈ s.portLanes p, l ≠ lane → SMap.get false s.laneLock l = true))) (withPort wC { st := .opened, link := .down }),
  (fun s : State =>
    let p := 0; decide ((s.port p).link = .aligning) && decide ((s.port p).st ≠ .closing) && decide (s.laneRuns (p / 64) = true))
    (withPort wC { st := .opened, link := .aligning }),
  (fun s : State =>
    let p := 0; let dt := 2 ^ 22; decide ((s.port p).link = .aligning) && decide ((s.port p).alignFailed = false) &&
    decide (2 ^ 26 ≤ (s.elapse dt).since (s.port p).alignAt)) (withPort wC { st := .opened, link := .aligning }),
  (fun s : State =>
    let p := 0; decide ((s.port p).link = .up ∨ (s.port p).link = .remoteFault) && decide ((s.port p).st ≠ .closing)) (wLinkStates),
  (fun s : State =>
    let p := 0; decide ((s.port p).link = .up ∨ (s.port p).link = .remoteFault) && decide ((s.port p).st ≠ .closing))
    (withPort wC { st := .opened, link := .remoteFault }),
  (fun s : State =>
    let p := 0; decide ((s.port p).link = .up) && decide ((s.port p).st ≠ .closing)) (wLinkStates),
  (fun s : State =>
    let p := 0; decide ((s.port p).link = .remoteFault) && decide ((s.port p).st ≠ .closing))
    (withPort wC { st := .opened, link := .remoteFault }),
  (fun s : State =>
    let p := 0; decide ((s.port p).st = .closing)) (withPort wC { st := .closing, link := .up }),
  (fun s : State =>
    let p := 0; decide ((s.port p).st = .closing)) (withPort wC { st := .closing, link := .up }),
  (fun s : State =>
    let p := 0; decide ((s.port p).st = .closing)) (withPort wC { st := .closing, link := .aligning }),
  (fun s : State =>
    let p := 0; decide ((s.port p).st = .closing)) (withPort wC { st := .closing, link := .remoteFault })] id = true := by decide +kernel

theorem witness_RxFrameReachesSkid : List.all [
  (fun s : State =>
    let p := 0; let bytes := eth staA staB 0x0800 []; decide (s.RxPlain p) && decide (s.GoodFrame p bytes) &&
    decide (beAt bytes 12 2 ≠ 0x8808) && decide (s.regB (0x1000 + p) 0x40 = false) && decide (s.regN (0x1000 + p) 0x58 = 0) &&
    decide (s.regN (0x1000 + p) 0x50 ≤ 1) && decide ((s.clRx (p / 64)).door.rows = []) && decide (s.regN 0x0200 5 ≠ p) &&
    decide (isGroup (saOf bytes) = false) && decide (saOf bytes ≠ 0) && decide (s.skidNeed p ≤ s.skidFree (p / 64))) (wP)] id = true := by decide +kernel

theorem witness_MacControl : List.all [
  (fun s : State =>
    let p := 0; let bytes := eth pauseDa staB 0x8808 []; decide (s.RxPlain p) && decide (s.GoodFrame p bytes) &&
    decide (beAt bytes 12 2 = 0x8808) && decide (s.regN (0x1C00 + p) 1 = 0)) (wP.setReg 0x1C00 1 0),
  (fun s : State =>
    let p := 0; let bytes := eth pauseDa staB 0x8808 [0, 1, 0, 9]; decide (s.RxPlain p) && decide (s.GoodFrame p bytes) &&
    decide (beAt bytes 12 4 = 0x88080001) && decide (s.regN (0x1C00 + p) 1 = 1) &&
    decide (daOf bytes = 0x0180C2000001 ∨ bytes.take 6 = s.stationAddr p)) (wP.setReg 0x1C00 1 1),
  (fun s : State =>
    let p := 0; let bytes := eth pauseDa staB 0x8808 [0, 1, 0, 0]; decide (s.RxPlain p) && decide (s.GoodFrame p bytes) &&
    decide (beAt bytes 12 4 = 0x88080001) && decide (s.regN (0x1C00 + p) 1 = 1) &&
    decide (daOf bytes = 0x0180C2000001 ∨ bytes.take 6 = s.stationAddr p))
    ((withPort wC { st := .opened, link := .up, timers := [(8, some 77)] }).setReg 0x1C00 1 1),
  (fun s : State =>
    let p := 0; let bytes := eth pauseDa staB 0x8808 [1, 1, 0, 0x81, 0,0,0,0,0,0,0,0,0,0,0,0,0,0,0,5]; decide (s.RxPlain p) &&
    decide (s.GoodFrame p bytes) && decide (beAt bytes 12 4 = 0x88080101) && decide (s.regN (0x1C00 + p) 1 = 2) &&
    decide (daOf bytes = 0x0180C2000001 ∨ bytes.take 6 = s.stationAddr p)) (wP.setReg 0x1C00 1 2),
  (fun s : State =>
    let dt := 1; let p := 0; let k := 8; let e := (1 : Word); decide (SMap.get none (s.port p).timers k = some e) &&
    decide ((s.elapse dt).before e = false)) (withPort wC { timers := [(8, some 1)] })] id = true := by decide +kernel

theorem witness_Reassembly : List.all [
  (fun s : State =>
    let p := 0; let n := 3; let data := z60; decide (s.RxPlain p) && decide (n < 4) && decide (s.regB (0x1C00 + p) 4 = true) &&
    decide ((s.port p).reasm = none) && decide (60 ≤ data.length)) (wP.setReg 0x1C00 4 1),
  (fun s : State =>
    let p := 0; let n := 3; let k := 3; let data := z60; let r := wReasm 3 3 z60; decide (s.RxPlain p) && decide (n < 4) &&
    decide (k < 4) && decide (s.regB (0x1C00 + p) 4 = true) && decide ((s.port p).reasm = some r) && decide (r.num = n) &&
    decide (r.frag = k) && decide (60 ≤ data.length))
    ((withPort wC { st := .opened, link := .up, reasm := some (wReasm 3 3 z60) }).setReg 0x1C00 4 1),
  (fun s : State =>
    let p := 0; let dt := 2 ^ 40; let r := wReasm 0 0 []; decide ((s.port p).reasm = some r) && decide (s.laneRuns (p / 64) = true) &&
    decide (s.regN (0x1C00 + p) 6 ≤ (s.elapse dt).since r.lastAt))
    (withPort wC { st := .opened, link := .up, reasm := some (wReasm 0 0 []) })] id = true := by decide +kernel

theorem witness_InbandQueued : List.all [
  (fun s : State =>
    let p := 0; let bytes := wReq;
    let f := ((parseInband (wReq.take (wReq.length - 4))).getD { sa := [], tag := none, seq := 0, pdu := [], mac := [] });
    let k := wKey; decide (s.RxPlain p) && decide (s.GoodFrame p bytes) && decide (s.regB (0x1000 + p) 0x40 = false) &&
    decide (s.regN 0x0200 5 = p) && decide ((parseInband (bytes.take (bytes.length - 4))).isSome = true) &&
    decide (s.inbandKey = some k) && decide (inbandGood k f = true) && decide (s.dict.rxSeq.toNat < f.seq) && decide (f.seq < 2 ^ 64) &&
    decide (s.dict.queue.length < 16) && decide (s.isOn domDict = true) && decide (beAt bytes 12 2 ≠ 0x8808))
    (({ wP with keys := { wP.keys with common := [(0, some wKey)] } }).setReg 0x0200 5 0)] id = true := by decide +kernel

theorem witness_SkidSends : List.all [
  (fun s : State =>
    let c := 0; let n := 16; let f := wSkid 65 0 false; let rest := ([] : List SkidFrame); decide (0 < n) &&
    decide (s.laneRuns c = true) && decide ((s.clRx c).skid = f :: rest) && decide (f.sent + 64 < f.bytes.length))
    (withClRx wC { skid := [wSkid 65 0 false] }),
  (fun s : State =>
    let c := 0; let n := 1; let f := wSkid 200 64 true; let rest := ([] : List SkidFrame); decide (0 < n) &&
    decide (s.laneRuns c = true) && decide ((s.clRx c).skid = f :: rest) && decide (f.sent + 64 < f.bytes.length))
    (withClRx wC { skid := [wSkid 200 64 true] }),
  (fun s : State =>
    let c := 0; let f := wSkid 64 0 false; decide (s.laneRuns c = true) && decide ((s.clRx c).skid = [f]) &&
    decide (f.bytes.length ≤ f.sent + 64) && decide (f.growing = false)) (withClRx wC { skid := [wSkid 64 0 false] }),
  (fun s : State =>
    let c := 0; let f := wSkid 127 64 true; decide ((s.clRx c).skid = [f]) && decide (f.bytes.length < f.sent + 64) &&
    decide (f.growing = true)) (withClRx wC { skid := [wSkid 127 64 true] }),
  (fun s : State =>
    let c := 0; let ready := false; decide (ready = false ∨ s.laneRuns c = false)) (withClRx wC { skid := [wSkid 127 64 true] }),
  (fun s : State =>
    let c := 0; let ready := true; decide (ready = false ∨ s.laneRuns c = false))
    (withClRx (withDom wC 0 {}) { skid := [wSkid 127 64 true] })] id = true := by decide +kernel

theorem witness_DoorlistWork : List.all [
  (fun s : State =>
    let c := 0; let q := wLearn false; let rest := ([] : List LearnReq); let r := wWay; decide ((s.clRx c).door.learnq = q :: rest) &&
    decide (q.move = false) && decide (s.laneRuns c = true) && decide (s.doorFind c q.mac q.vid [0, 1, 2] = none) &&
    decide ((s.doorWays c q.mac q.vid).find? (fun w => (s.doorEntry c w).isNone) = some r))
    (withClRx wC { door := { learnq := [wLearn false] } }),
  (fun s : State =>
    let c := 0; let q := wLearn true; let rest := ([] : List LearnReq); let r := wWay; let e := wEntry 0 4 false true;
    decide ((s.clRx c).door.learnq = q :: rest) && decide (q.move = true) && decide (s.laneRuns c = true) &&
    decide (s.doorFind c q.mac q.vid [0] = some (r, e)) && decide (e.port ≠ q.port))
    (wDoorAt (wEntry 0 4 false true) { learnq := [wLearn true] }),
  (fun s : State =>
    let dt := 1; let c := 0; let at_ := (1 : Word); decide ((s.clRx c).door.nextPass = some at_) &&
    decide ((s.elapse dt).before at_ = false) && decide (s.regN (clIdx c 3) 2 ≠ 0) && decide (s.laneRuns c = true) &&
    decide ((s.clp c).night ≠ .listen) && decide (SMap.rising (s.clRx c).door.rows = true))
    (wDoorAt (wEntry 0 4 true false) { nextPass := some 1 }),
  (fun s : State =>
    let dt := 1; let c := 0; let at_ := (1 : Word); decide ((s.clRx c).door.nextPass = some at_) &&
    decide ((s.elapse dt).before at_ = false) && decide (s.regN (clIdx c 3) 2 ≠ 0) && decide (s.laneRuns c = true) &&
    decide ((s.clp c).night ≠ .listen) && decide (SMap.rising (s.clRx c).door.rows = true))
    (wDoorAt (wEntry 0 4 false true) { nextPass := some 1 }),
  (fun s : State =>
    let dt := 1; let c := 0; let at_ := (1 : Word); decide ((s.clRx c).door.nextPass = some at_) &&
    decide ((s.elapse dt).before at_ = false) && decide (s.regN (clIdx c 3) 2 ≠ 0) && decide (s.laneRuns c = true) &&
    decide ((s.clp c).night ≠ .listen) && decide (SMap.rising (s.clRx c).door.rows = true))
    (wDoorAt (wEntry 0 4 false false) { nextPass := some 1 }),
  (fun s : State =>
    let dt := 1; let c := 0; let at_ := (1 : Word); decide ((s.clRx c).door.nextPass = some at_) &&
    decide ((s.elapse dt).before at_ = false) && decide (s.regN (clIdx c 3) 2 ≠ 0) && decide (s.laneRuns c = true) &&
    decide ((s.clp c).night ≠ .listen) && decide (SMap.rising (s.clRx c).door.rows = true))
    (wDoorAt (wEntry 1 4 false true) { nextPass := some 1 }),
  (fun s : State =>
    let p := 0; decide (p % 64 ∈ (s.clRx (p / 64)).door.walks) && decide (s.flushBusy (p / 64) = false) &&
    decide (s.laneRuns (p / 64) = true)) (wDoorAt (wEntry 0 0 false true) { walks := [0] }),
  (fun s : State =>
    let c := 0; decide (s.flushBusy c = true) && decide (s.laneRuns c = true)) (withClRx wC { door := { flush := some 0 } })] id = true := by decide +kernel

theorem witness_FlowControlFrames : List.all [
  (fun s : State =>
    let p := 0; decide (s.rxTakes p 0 = true) && decide (s.rxNight p 0 = false) && decide (s.txSends p = true) &&
    decide (s.regB (0x1C00 + p) 4 = true) && decide ((s.portTxOf p).wire = none) && decide ((s.portTxOf p).ownPcs = true))
    ((withTx wP { ownPcs := true }).setReg 0x1C00 4 1),
  (fun s : State =>
    let p := 0; let f := wFrame; decide (s.rxTakes p 0 = true) && decide (s.rxNight p 0 = false) && decide (s.txSends p = true) &&
    decide (s.regB (0x1C00 + p) 4 = true) && decide ((s.portTxOf p).wire = some f))
    ((withTx wP { ownPcs := true, wire := some wFrame }).setReg 0x1C00 4 1),
  (fun s : State =>
    let p := 0; decide (s.rxTakes p 0 = true) && decide (s.rxNight p 0 = false) && decide (s.regB (0x1C00 + p) 4 = false)) (wP),
  (fun s : State =>
    let p := 0; decide (s.rxTakes p 0 = true) && decide (s.rxNight p 0 = false) && decide (s.regB (0x1C00 + p) 4 = false)) (wP),
  (fun s : State =>
    let p := 0; decide (s.rxTakes p 0 = true) && decide (s.rxNight p 0 = false) && decide (s.txSends p = true) &&
    decide (s.regB (0x1C00 + p) 4 = true) && decide ((s.portTxOf p).verify = .verifying))
    ((withTx wP { verify := .verifying }).setReg 0x1C00 4 1),
  (fun s : State =>
    let p := 0; let dt := 2 ^ 40; let f := wFrame; decide ((s.portTxOf p).verify = .verifying) &&
    decide (s.verifyGrains p ≤ (s.elapse dt).since (s.portTxOf p).verifyAt) && decide ((s.portTxOf p).verifySent < 3) &&
    decide ((s.portTxOf p).wire = some f))
    ((withTx wP { wire := some wFrame, verify := .verifying, verifySent := 2 }).setReg 0x1C00 4 1),
  (fun s : State =>
    let p := 0; let dt := 2 ^ 40; decide ((s.portTxOf p).verify = .verifying) &&
    decide (s.verifyGrains p ≤ (s.elapse dt).since (s.portTxOf p).verifyAt) && decide (3 ≤ (s.portTxOf p).verifySent))
    ((withTx wP { verify := .verifying, verifySent := 3 }).setReg 0x1C00 4 1),
  (fun s : State =>
    let p := 0; let xoff := 255; let f := wFrame; decide (s.txSends p = true) && decide (s.regN (0x1C00 + p) 1 = 1) &&
    decide ((s.portTxOf p).xoffSeen = 0) && decide (xoff % 256 ≠ 0) && decide ((s.portTxOf p).wire = some f))
    ((withTx wP { wire := some wFrame }).setReg 0x1C00 1 1),
  (fun s : State =>
    let p := 0; let dt := 2 ^ 40; let f := wFrame; decide (s.txSends p = true) && decide (s.regN (0x1C00 + p) 1 = 1) &&
    decide (s.xoffNow p ≠ 0) && decide ((s.portTxOf p).wire = some f) &&
    decide (pauseGrains (s.regN (0x1C00 + p) 0x0D) (s.portRate p) ≤ (s.elapse dt).since (s.portTxOf p).pauseAt))
    ((withTx wP { wire := some wFrame, xoff := 255 }).setReg 0x1C00 1 1),
  (fun s : State =>
    let p := 0; let xoff := 0x80; let n := 7; decide (s.txSends p = true) && decide (s.regN (0x1C00 + p) 1 = 2) &&
    decide ((s.portTxOf p).pfcAt = none) && decide (n < 8) && decide (xoff.testBit n = true) &&
    decide ((s.portTxOf p).xoffSeen.testBit n = false)) ((withTx wP { wire := some wFrame }).setReg 0x1C00 1 2),
  (fun s : State =>
    let p := 0; let xoff := 0x80; let n := 7; decide (s.txSends p = true) && decide (s.regN (0x1C00 + p) 1 = 2) &&
    decide ((s.portTxOf p).pfcAt = none) && decide (n < 8) && decide (xoff.testBit n = true) &&
    decide ((s.portTxOf p).xoffSeen.testBit n = false)) ((withTx wP { ownPcs := true }).setReg 0x1C00 1 2),
  (fun s : State =>
    let p := 0; let dt := 2 ^ 40; let at_ := (0 : Word); let f := wFrame; decide (s.txSends p = true) &&
    decide (s.regN (0x1C00 + p) 1 = 2) && decide ((s.portTxOf p).pfcAt = some at_) &&
    decide (State.pfcGrains ≤ (s.elapse dt).since at_) && decide ((s.portTxOf p).xoff < 256) && decide ((s.portTxOf p).wire = some f))
    ((withTx wP { wire := some wFrame, xoff := 0x81, xoffSeen := 0x81, xoffSent := 6, pfcAt := some 0 }).setReg 0x1C00 1 2)] id = true := by decide +kernel

def wCaptureReads : State :=
  { (withClTx (withClRx wC { door := { capture := 3 }, holdPeak := 9, meterCapture := 5 }) { schedCapture := 2, latheMaxLate := 4, shutterCapture := 6, calCapture := 7, calEccCapture := 8 }) with twin := { mismatch := 11, stestCapture := 12, faultSeen := 32 }, ev := { capture := 13 }, quarters := [(3, { info := 14, addr := 15 })] }

theorem witness_CaptureReads : List.all [
  (fun s : State =>
    let c := 0; decide (s.dictRuns = true) && decide (c < 16)) (wCaptureReads),
  (fun s : State =>
    let c := 0; decide (s.dictRuns = true) && decide (c < 16)) (wCaptureReads),
  (fun s : State =>
    let c := 0; decide (s.dictRuns = true) && decide (c < 16)) (wCaptureReads),
  (fun s : State =>
    let c := 0; decide (s.dictRuns = true) && decide (c < 16)) (wCaptureReads),
  (fun s : State =>
    let c := 0; decide (s.dictRuns = true) && decide (c < 16)) (wCaptureReads),
  (fun s : State =>
    let c := 0; decide (s.dictRuns = true) && decide (c < 16)) (wCaptureReads),
  (fun s : State =>
    let c := 0; decide (s.dictRuns = true) && decide (c < 16)) (wCaptureReads),
  (fun s : State =>
    let c := 0; decide (s.dictRuns = true) && decide (c < 16)) (wCaptureReads),
  (fun s : State =>
    decide (s.dictRuns = true)) (wCaptureReads),
  (fun s : State =>
    decide (s.dictRuns = true)) (wCaptureReads),
  (fun s : State =>
    decide (s.dictRuns = true)) (wCaptureReads),
  (fun s : State =>
    let q := 3; decide (s.dictRuns = true) && decide (q < 4)) (wCaptureReads)] id = true := by decide +kernel

theorem witness_QueueReads : List.all [
  (fun s : State =>
    let c := 0; let a := (7 : Word); let rest := ([] : List Word); decide (s.dictRuns = true) && decide (c < 16) &&
    decide ((s.clRx c).alerts = a :: rest)) (withClRx wC { alerts := [7] }),
  (fun s : State =>
    let c := 0; let a := (7 : Word); let rest := ([8] : List Word); decide (s.dictRuns = true) && decide (c < 16) &&
    decide ((s.clRx c).alerts = a :: rest)) (withClRx wC { alerts := [7, 8], alertLost := true }),
  (fun s : State =>
    let c := 15; decide (s.dictRuns = true) && decide (c < 16) && decide ((s.clRx c).alerts = [])) (withClRx wC { alerts := [7] }),
  (fun s : State =>
    let c := 0; let r := ((1, 2) : Word × Word); let rest := ([] : List (Word × Word)); decide (s.dictRuns = true) && decide (c < 16) &&
    decide ((s.clTx c).stamps = r :: rest)) (withClTx wC { stamps := [(1, 2)] }),
  (fun s : State =>
    let g := 16; let k := 3; let rest := ([] : List Nat); decide (s.dictRuns = true) && decide (g ≤ 16) &&
    decide (SMap.get [] s.cu.fifos g = k :: rest))
    ({ wC with cu := { wC.cu with fifos := [(16, [3])], pending := [(3, true)] }, ctrs := [(3, BitVec.ofNat 48 (2 ^ 47 + 5))] }),
  (fun s : State =>
    let g := 16; let k := 3; let rest := ([4] : List Nat); decide (s.dictRuns = true) && decide (g ≤ 16) &&
    decide (SMap.get [] s.cu.fifos g = k :: rest)) ({ wC with cu := { wC.cu with fifos := [(16, [3, 4])] } }),
  (fun s : State =>
    let t := 31; let e := 5; decide (s.dictRuns = true) && decide (t < 32) && decide ((s.tgt t).claimSel = 0) &&
    decide (s.mayClaim t e = true) && decide (SMap.rising s.ev.sources = true))
    (withSrc wC { st := .active, got := [31], mask := false }),
  (fun s : State =>
    let t := 31; let e := 5; decide (s.dictRuns = true) && decide (t < 32) && decide ((s.tgt t).claimSel = e) && decide (e ≠ 0) &&
    decide (s.mayClaim t e = true))
    ((fun s : State => { s with ev := { s.ev with targets := [(31, { claimSel := 5 })] } }) (withSrc wC { st := .active, got := [31] })),
  (fun s : State =>
    let t := 31; let e := 5; decide (s.dictRuns = true) && decide (t < 32) && decide ((s.tgt t).claimSel = e) && decide (e ≠ 0) &&
    decide (s.mayClaim t e = false) && decide ((s.src e).owner ≠ some t))
    ((fun s : State => { s with ev := { s.ev with targets := [(31, { claimSel := 5 })] } }) (withSrc wC { st := .active, got := [30] }))] id = true := by decide +kernel

def wLatchingReads : State :=
  { wC with dict := { wC.dict with latched := [(slotKey 0x0400 2 0, some 1)], offsets := [(slotKey 0x0600 0x30 0, 8)] } }

theorem witness_LatchingReads : List.all [
  (fun s : State =>
    decide (s.dictRuns = true)) (wLatchingReads),
  (fun s : State =>
    let h := (1 : Word); decide (s.dictRuns = true) && decide (SMap.get none s.dict.latched (slotKey 0x0400 2 0) = some h))
    (wLatchingReads),
  (fun s : State =>
    let p := 1023; decide (s.dictRuns = true) && decide (p < 1024)) (wLatchingReads),
  (fun s : State =>
    decide (s.dictRuns = true)) (wLatchingReads),
  (fun s : State =>
    decide (s.dictRuns = true)) (wLatchingReads),
  (fun s : State =>
    let sub := 0x30; let o := 8; decide (s.dictRuns = true) && decide (sub = 0x30 ∨ sub = 0x32 ∨ sub = 0x36) &&
    decide (o = SMap.get 0 s.dict.offsets (slotKey 0x0600 sub 0))) (wLatchingReads),
  (fun s : State =>
    let sub := 0x32; let o := 0; decide (s.dictRuns = true) && decide (sub = 0x30 ∨ sub = 0x32 ∨ sub = 0x36) &&
    decide (o = SMap.get 0 s.dict.offsets (slotKey 0x0600 sub 0))) (wLatchingReads),
  (fun s : State =>
    let sub := 0x36; let o := streamLen 0x36 - 1; decide (s.dictRuns = true) && decide (sub = 0x30 ∨ sub = 0x32 ∨ sub = 0x36) &&
    decide (o = SMap.get 0 s.dict.offsets (slotKey 0x0600 sub 0)))
    ({ wC with dict := { wC.dict with offsets := [(slotKey 0x0600 0x36 0, streamLen 0x36 - 1)] } })] id = true := by decide +kernel

theorem witness_SchedulerRows : List.all [
  (fun s : State =>
    let c := 0; let leaf := 65535; decide (s.queueRuns c = true) && decide (leaf < 65536) && decide (s.schValid c leaf = true))
    ((withClTx wC {}).rowSet (winIdx 0 0) 2 65535 (-1)),
  (fun s : State =>
    let c := 0; let leaf := 0; decide (s.queueRuns c = true) && decide (s.schValid c leaf = false)) (wC),
  (fun s : State =>
    let dt := 1; let c := 0; let k := 0; let e := ({ at_ := 0, span := none } : LatheEntry); decide (s.queueRuns c = true) &&
    decide ((s.sch c k).lathe = some e) && decide (e.span = none) && decide ((s.elapse dt).since e.at_ < 2 ^ 63))
    (withClTx wC { sched := [(0, { lathe := some { at_ := 0, span := none }, pend := some { cir := 5 } })] }),
  (fun s : State =>
    let dt := 1; let c := 0; let k := 0; let j := 0; let a := (0 : Word); decide (s.queueRuns c = true) &&
    decide ((s.sch c k).lathe = some { at_ := a, span := some j }) &&
    decide (((s.elapse dt).runTime + Word.ofNat (2 ^ 25) - Word.ofNat (j * 2 ^ 26)).toNat < 2 ^ 63) &&
    decide (SMap.rising (s.clTx c).sched = true)) (withClTx wC { sched := [(0, { lathe := some { at_ := 0, span := some 0 } })] }),
  (fun s : State =>
    let c := 0; let k := 0; decide (s.queueRuns c = true) && decide ((s.sch c k).lathe = none) &&
    decide (((s.sch c k).inst.cirEn || (s.sch c k).inst.pirEn || ((s.sch c k).pend.map fun i => i.cirEn || i.pirEn).getD false) = true))
    (withClTx wC { sched := [(0, { inst := { cirEn := true } })] }),
  (fun s : State =>
    let c := 0; let r := 32767; decide (s.meterRuns c = true) && decide (r < 32768) && decide ((s.meterRow c r).enable = true))
    (wC.rowSet (winIdx 0 3) 2 32767 (-1))] id = true := by decide +kernel

theorem witness_Grants : List.all [
  (fun s : State =>
    let dt := 1; let c := 0; let l := 0; let u := ((List.range 64).foldl (fun s l => s.settlePort (64 * c + l)) (s.elapse dt));
    let n := ((u.classOrder 0 0).headD 0); let rest := ((u.classOrder 0 0).tail); let leaf := 65535; let tag := 0;
    decide (u = (List.range 64).foldl (fun s l => s.settlePort (64 * c + l)) (s.elapse dt)) && decide (s.queueRuns c = true) &&
    decide (l < 64) && decide ((u.clTx c).lastPort = (l + 63) % 64) && decide (u.txAccepts (64 * c + l) = true) &&
    decide ((u.sch c (portKey l)).grp ≠ 2) && decide (u.ahead (64 * c + l) < u.aheadLimit (64 * c + l)) &&
    decide (u.classOrder c l = n :: rest) && decide ((u.portTxOf (64 * c + l)).inject = []) && decide (u.classHead c l n = some leaf) &&
    decide (u.freeTag (64 * c + l) = some tag) &&
    decide ((u.fit (64 * c + l) n (u.charged (64 * c + l) (u.sch c leaf).headLen (if (u.sysDevice (64 * c + l)).isSome then 12 else 0) (State.expansion (u.secPlan (64 * c + l)))).2.1).1 ≠ .closed))
    ((({ (withTx wP { ownPcs := true }) with clusterTx := [(0, { lastPort := 63, sched := [(65535, { backlogged := true, headLen := 64 })] })] }).rowSet (winIdx 0 0) 2 65535 0x31).settleLeaf 0 65535)] id = true := by decide +kernel

theorem witness_FramesOnTheWire : List.all [
  (fun s : State =>
    let dt := 1; let p := 0; let f := ({ wFrame with secDone := true } : TxFrame); decide (s.txSends p = true) &&
    decide ((s.portTxOf p).wire = none) && decide ((s.elapse dt).pfcDue p = false) && decide ((s.elapse dt).gapOk p = true) &&
    decide ((s.elapse dt).nextStart p = some f)) (withTx wP { frames := [{ wFrame with secDone := true }], ownPcs := true, sill := 1 }),
  (fun s : State =>
    let dt := 1; let p := 0; decide ((s.elapse dt).pfcDue p = false) && decide ((s.elapse dt).gapNow p < 9))
    (withTx wP { frames := [{ wFrame with secDone := true }], ownPcs := true, idleAt := some 0 }),
  (fun s : State =>
    let dt := 1; let p := 0; let f := wFrame; let plain := TxFrame.plain wFrame; decide ((s.portTxOf p).wire = some f) &&
    decide (f.ended = true) && decide (f.endDone = true) && decide (f.bad = none) && decide (s.txRuns p = true) &&
    decide ((s.portTxOf p).ownPcs = true) && decide ((s.elapse dt).oversized p f = false) && decide (plain = State.TxFrame.plain f))
    (withTx wP { wire := some wFrame, ownPcs := true }),
  (fun s : State =>
    let dt := 1; let p := 0; let f := ({ wFrame with bad := some .relayed } : TxFrame); let ecc := false;
    let body := TxFrame.tagged wFrame 0 (TxFrame.plain wFrame); decide ((s.portTxOf p).wire = some f) && decide (s.txRuns p = true) &&
    decide ((s.portTxOf p).ownPcs = true) &&
    decide (f.ended = true ∧ f.endDone = true ∧ (f.bad ≠ none ∨ ecc = true) ∨ (s.elapse dt).oversized p f = true) &&
    decide (body = (State.TxFrame.tagged f p (State.TxFrame.plain f)).take (((s.elapse dt).atStart f (0x1000 + p) 7).toNat - 4)))
    (withTx wP { wire := some { wFrame with bad := some .relayed }, ownPcs := true }),
  (fun s : State =>
    let dt := 1; let p := 0; let f := wFrame; let ecc := true; let body := TxFrame.tagged wFrame 0 (TxFrame.plain wFrame);
    decide ((s.portTxOf p).wire = some f) && decide (s.txRuns p = true) && decide ((s.portTxOf p).ownPcs = true) &&
    decide (f.ended = true ∧ f.endDone = true ∧ (f.bad ≠ none ∨ ecc = true) ∨ (s.elapse dt).oversized p f = true) &&
    decide (body = (State.TxFrame.tagged f p (State.TxFrame.plain f)).take (((s.elapse dt).atStart f (0x1000 + p) 7).toNat - 4)))
    (withTx wP { wire := some wFrame, ownPcs := true }),
  (fun s : State =>
    let dt := 1; let p := 0; let f := ({ wFrame with ended := false, endDone := false, annLen := 300 } : TxFrame); let ecc := false;
    let body := List.replicate 96 0; decide ((s.portTxOf p).wire = some f) && decide (s.txRuns p = true) &&
    decide ((s.portTxOf p).ownPcs = true) &&
    decide (f.ended = true ∧ f.endDone = true ∧ (f.bad ≠ none ∨ ecc = true) ∨ (s.elapse dt).oversized p f = true) &&
    decide (body = (State.TxFrame.tagged f p (State.TxFrame.plain f)).take (((s.elapse dt).atStart f (0x1000 + p) 7).toNat - 4)))
    ((withTx wP { wire := some { wFrame with ended := false, endDone := false, annLen := 300 }, ownPcs := true }).setReg 0x1000 7 100),
  (fun s : State =>
    let dt := 1; let p := 0; let f := ({ wFrame with ended := false } : TxFrame);
    let body := TxFrame.tagged { wFrame with ended := false } 0 (TxFrame.plain { wFrame with ended := false });
    decide ((s.portTxOf p).wire = some f) && decide (f.ended = false) && decide ((s.elapse dt).oversized p f = false) &&
    decide (s.txRuns p = true) && decide ((s.portTxOf p).ownPcs = true) &&
    decide (body = State.TxFrame.tagged f p (State.TxFrame.plain f)))
    (withTx wP { wire := some { wFrame with ended := false }, ownPcs := true })] id = true := by decide +kernel

theorem witness_PreemptionOfFrames : List.all [
  (fun s : State =>
    let dt := 1; let p := 0; let gone := 60; let f := wPre; let body := TxFrame.tagged wPre 0 (TxFrame.plain wPre);
    decide ((s.portTxOf p).wire = some f) && decide (f.preemptable = true) && decide ((s.elapse dt).preemptCause p f.tc = true) &&
    decide (s.txRuns p = true) && decide ((s.portTxOf p).ownPcs = true) &&
    decide (body = State.TxFrame.tagged f p (State.TxFrame.plain f)) && decide (f.gone + 60 ≤ gone) && decide (gone ≤ body.length) &&
    decide (gone + 60 ≤ (if f.ended then body.length else max body.length (f.f - 4))))
    (withTx wP { wire := some wPre, ctl := [.respond], ownPcs := true }),
  (fun s : State =>
    let dt := 1; let p := 0; let gone := 136; let f := wPre; let body := TxFrame.tagged wPre 0 (TxFrame.plain wPre);
    decide ((s.portTxOf p).wire = some f) && decide (f.preemptable = true) && decide ((s.elapse dt).preemptCause p f.tc = true) &&
    decide (s.txRuns p = true) && decide ((s.portTxOf p).ownPcs = true) &&
    decide (body = State.TxFrame.tagged f p (State.TxFrame.plain f)) && decide (f.gone + 60 ≤ gone) && decide (gone ≤ body.length) &&
    decide (gone + 60 ≤ (if f.ended then body.length else max body.length (f.f - 4))))
    (withTx (withPort wC { st := .opened, link := .down }) { wire := some wPre, ctl := [.respond], ownPcs := true }),
  (fun s : State =>
    let dt := 1; let p := 0; let f := wPre; decide ((s.portTxOf p).held = some f) && decide ((s.portTxOf p).wire = none) &&
    decide (s.txSends p = true) && decide ((s.elapse dt).gapOk p = true) && decide (f.bad ≠ some .keyErase) &&
    decide ((s.elapse dt).preemptCause p f.tc = false)) (withTx wP { held := some wPre }),
  (fun s : State =>
    let dt := 1; let p := 0; let f := ({ wPre with bad := some .keyErase } : TxFrame); decide ((s.portTxOf p).held = some f) &&
    decide ((s.portTxOf p).wire = none) && decide (s.txSends p = true) && decide ((s.elapse dt).gapOk p = true) &&
    decide (f.bad = some .keyErase)) (withTx wP { held := some { wPre with bad := some .keyErase } })] id = true := by decide +kernel

def wReturnedGrants : State :=
  withTx wP { tails := [{ tag := 255, got := 64, annLen := 300 }] }

theorem witness_ReturnedGrants : List.all [
  (fun s : State =>
    let tag := 255; let seg := wSeg false; let f := wGrant; decide (s.txRuns seg.port = true) &&
    decide (f ∈ (s.portTxOf seg.port).frames) && decide (f.tag = some tag) && decide (f.ended = false) && decide (seg.eof = false))
    (withTx wP { frames := [wGrant] }),
  (fun s : State =>
    let tag := 255; let seg := wSeg true; let f := wGrant; decide (s.txRuns seg.port = true) &&
    decide ((s.portTxOf seg.port).frames = [f]) && decide (f.tag = some tag) && decide (f.ended = false) && decide (seg.eof = true) &&
    decide (f.data.length + seg.data.length ≠ f.annLen)) (withTx wP { frames := [wGrant] }),
  (fun s : State =>
    let tag := 255; let seg := wSeg true; let tail := ({ tag := 255, got := 64, annLen := 300 } : TxTail);
    decide (s.txRuns seg.port = true) && decide ((∀ f ∈ s.liveFrames seg.port, f.tag = some tag → f.ended = true)) &&
    decide ((s.portTxOf seg.port).tails.find? (fun t => t.tag == tag) = some tail)) (wReturnedGrants),
  (fun s : State =>
    let tag := 255; let seg := wSeg false; let tail := ({ tag := 255, got := 64, annLen := 300 } : TxTail);
    decide (s.txRuns seg.port = true) && decide ((∀ f ∈ s.liveFrames seg.port, f.tag = some tag → f.ended = true)) &&
    decide ((s.portTxOf seg.port).tails.find? (fun t => t.tag == tag) = some tail)) (wReturnedGrants),
  (fun s : State =>
    let tag := 255; let seg := wSeg true; decide (s.txRuns seg.port = true) && decide (tag ∉ s.outTags seg.port)) (wP),
  (fun s : State =>
    let p := 0; let dt := 2 ^ 22;
    decide ((s.port p).st = .closing ∧ 2 ^ 26 ≤ (s.elapse dt).since (s.port p).closingAt ∨ (s.clp (p / 64)).night = .entering ∧ 2 ^ 26 ≤ (s.elapse dt).since (s.clp (p / 64)).enteringAt) &&
    decide (s.outTags p ≠ []))
    (withTx (withPort wC { st := .closing }) { tails := [{ tag := 0, got := 0, annLen := 5 }], held := some { wPre with tag := some 4, ended := false } }),
  (fun s : State =>
    let p := 0; let dt := 2 ^ 22;
    decide ((s.port p).st = .closing ∧ 2 ^ 26 ≤ (s.elapse dt).since (s.port p).closingAt ∨ (s.clp (p / 64)).night = .entering ∧ 2 ^ 26 ≤ (s.elapse dt).since (s.clp (p / 64)).enteringAt) &&
    decide (s.outTags p ≠ []))
    (withTx (withPort (withClp wC { st := .opened, night := .entering }) { st := .opened }) { wire := some { wPre with tag := some 4, ended := false } })] id = true := by decide +kernel

theorem witness_PortClears : List.all [
  (fun s : State =>
    let p := 0; let v := (0x0F : Word); decide (s.Ready) && decide (p < 1024) && decide (v.toNat < 2 ^ 32))
    (withPort wC { cause := 0xFF }),
  (fun s : State =>
    let p := 0; let v := (0x0F : Word); decide (s.Ready) && decide (p < 1024) && decide (v.toNat < 2 ^ 32))
    (withTx wC { cause := 0xFF }),
  (fun s : State =>
    let p := 0; let v := (0x0F : Word); decide (s.Ready) && decide (p < 1024) && decide (v.toNat < 2 ^ 32))
    (withShut wC { cause := 0xFF }),
  (fun s : State =>
    let p := 0; let v := (252 : Word); decide (s.Ready) && decide (p < 1024) && decide (1 ≤ v.toNat) && decide (v.toNat ≤ 252)) (wC)] id = true := by decide +kernel

theorem witness_PortOpensAndCloses : List.all [
  (fun s : State =>
    let p := 0; decide (s.Ready) && decide (p < 1024) && decide ((s.port p).st = .closed) && decide ((s.clp (p / 64)).st = .opened))
    (wC),
  (fun s : State =>
    let p := 0; decide (s.Ready) && decide (p < 1024) && decide ((s.port p).st = .closed) && decide ((s.clp (p / 64)).st = .opened))
    ((wC.setReg 0x1000 4 0).setReg 0x1000 5 1),
  (fun s : State =>
    let p := 0; decide (s.Ready) && decide (p < 1024) && decide ((s.port p).st = .opened)) (wP),
  (fun s : State =>
    let dt := 1; let p := 0; decide ((s.port p).st = .closing) && decide ((s.elapse dt).txDone p = true) &&
    decide ((s.port p).enLatched ≠ some true)) (withPort wC { st := .closing }),
  (fun s : State =>
    let dt := 1; let p := 0; decide ((s.port p).st = .closing) && decide ((s.elapse dt).txDone p = true) &&
    decide ((s.port p).enLatched = some true) && decide ((s.clp (p / 64)).st = .opened))
    (((withPort wC { st := .closing, enLatched := some true }).setReg 0x1000 4 0).setReg 0x1000 5 1),
  (fun s : State =>
    let dt := 1; let p := 0; decide ((s.port p).st = .closing) && decide ((s.elapse dt).txDone p = true) &&
    decide ((s.port p).enLatched = some true) && decide ((s.clp (p / 64)).st = .opened))
    (((withPort wC { st := .closing, enLatched := some true }).setReg 0x1000 4 1).setReg 0x1000 5 2),
  (fun s : State =>
    let p := 0; decide (s.twin.role = .active) && decide ((s.port p).st = .opened) && decide ((s.portTxOf p).wire = none) &&
    decide ((s.portTxOf p).held = none)) (withTwin wP { role := .active }),
  (fun s : State =>
    let p := 0; decide (s.twin.role = .active) && decide ((s.port p).st = .opened) && decide ((s.portTxOf p).wire = none) &&
    decide ((s.portTxOf p).held = none)) (withTwin (withPort wC { st := .opened, link := .aligning }) { role := .active })] id = true := by decide +kernel

theorem witness_ShutterSwaps : List.all [
  (fun s : State =>
    let p := 0; decide (s.Ready) && decide (p < 1024) && decide ((s.shut p).st = .closed) && decide ((s.clp (p / 64)).st = .opened))
    (wC),
  (fun s : State =>
    let p := 0; decide (s.Ready) && decide (p < 1024) && decide ((s.shut p).st = .opening)) (withShut wC { st := .opening }),
  (fun s : State =>
    let p := 0; let l := wList; decide (s.Ready) && decide (p < 1024) && decide ((s.shut p).st = .opened) &&
    decide ((s.shut p).oper = some l)) (withShut wC { st := .opened, oper := some wList }),
  (fun s : State =>
    let p := 0; decide (s.Ready) && decide (p < 1024) && decide ((s.shut p).st = .opened) && decide ((s.shut p).pend = none))
    (withShut wC { st := .opened, oper := some wList }),
  (fun s : State =>
    let dt := 1; let p := 0; let w := ({ wSwap with latched := some wList } : Swap); decide (s.Ready) && decide (p < 1024) &&
    decide ((s.shut p).st = .opening ∨ (s.shut p).st = .opened) && decide ((s.shut p).pend = some w) &&
    decide (w.latched.isSome = true ∨ w.start ≤ (s.elapse dt).devTime))
    (withShut wC { st := .opened, oper := some wList, pend := some { wSwap with latched := some wList } }),
  (fun s : State =>
    let dt := 1; let p := 0; let w := wSwap; decide (s.Ready) && decide (p < 1024) &&
    decide ((s.shut p).st = .opening ∨ (s.shut p).st = .opened) && decide ((s.shut p).pend = some w) &&
    decide (w.latched.isSome = true ∨ w.start ≤ (s.elapse dt).devTime)) (withShut wC { st := .opening, pend := some wSwap }),
  (fun s : State =>
    let dt := 1; let p := 0; let w := ({ wSwap with start := 2 ^ 39 } : Swap); decide (s.Ready) && decide (p < 1024) &&
    decide ((s.shut p).st = .opening ∨ (s.shut p).st = .opened) && decide ((s.shut p).pend = some w) && decide (w.latched = none) &&
    decide ((s.elapse dt).devTime < w.start))
    (withShut wC { st := .opened, oper := some wList, pend := some { wSwap with start := 2 ^ 39 } }),
  (fun s : State =>
    let dt := 1; let p := 0; let w := ({ wSwap with start := 2 ^ 39 } : Swap); decide (s.Ready) && decide (p < 1024) &&
    decide ((s.shut p).st = .opening ∨ (s.shut p).st = .opened) && decide ((s.shut p).pend = some w) && decide (w.latched = none) &&
    decide ((s.elapse dt).devTime < w.start)) (withShut wC { st := .opening, pend := some { wSwap with start := 2 ^ 39 } }),
  (fun s : State =>
    let p := 0; decide (s.Ready) && decide (p < 1024) && decide ((s.shut p).st = .closed ∨ (s.shut p).st = .closing))
    (withShut wC { st := .closing, oper := some wList }),
  (fun s : State =>
    let p := 0; decide (s.Ready) && decide (p < 1024) && decide ((s.shut p).st = .closed ∨ (s.shut p).st = .closing)) (wC),
  (fun s : State =>
    let p := 0; let w := wSwap; decide ((s.shut p).pend = some w) && decide (s.twin.role = .standby))
    (withTwin (withShut wC { st := .opening, pend := some wSwap }) { role := .standby }),
  (fun s : State =>
    let dt := 1; let p := 0; let w := wSwap; decide ((s.shut p).pend = some w) && decide (w.latched = none) &&
    decide (s.waitsMark w = false) && decide (s.queueRuns (p / 64) = true) && decide (w.start ≤ (s.elapse dt).devTime) &&
    decide ((∀ r ∈ s.adminRows p, 1024 ≤ entInterval (s.rowGet (winIdx (p / 64) 0xA) 2 r) ∧ r ∉ (s.clTx (p / 64)).badRows)))
    (withTwin (withShut wC { st := .opening, pend := some wSwap }) { role := .active }),
  (fun s : State =>
    let dt := 1; let p := 0; let w := wSwap; let r := 0; decide ((s.shut p).pend = some w) && decide (w.latched = none) &&
    decide (s.waitsMark w = false) && decide (s.queueRuns (p / 64) = true) && decide (w.start ≤ (s.elapse dt).devTime) &&
    decide (r ∈ s.adminRows p) && decide (entInterval (s.rowGet (winIdx (p / 64) 0xA) 2 r) < 1024 ∨ r ∈ (s.clTx (p / 64)).badRows))
    ((withShut wC { st := .opened, pend := some wSwap }).setReg 0x1400 4 1),
  (fun s : State =>
    let dt := 1; let p := 0; let w := ({ wSwap with held := true } : Swap); let r := 0; decide ((s.shut p).pend = some w) &&
    decide (w.latched = none) && decide (s.waitsMark w = false) && decide (s.queueRuns (p / 64) = true) &&
    decide (w.start ≤ (s.elapse dt).devTime) && decide (r ∈ s.adminRows p) &&
    decide (entInterval (s.rowGet (winIdx (p / 64) 0xA) 2 r) < 1024 ∨ r ∈ (s.clTx (p / 64)).badRows))
    ((withShut wC { st := .opened, oper := some wList, pend := some { wSwap with held := true } }).setReg 0x1400 4 1),
  (fun s : State =>
    let dt := 1; let p := 0; let w := wSwap; let r := 0; decide ((s.shut p).pend = some w) && decide (w.latched = none) &&
    decide (s.waitsMark w = false) && decide (s.queueRuns (p / 64) = true) && decide (w.start ≤ (s.elapse dt).devTime) &&
    decide (r ∈ s.adminRows p) && decide (entInterval (s.rowGet (winIdx (p / 64) 0xA) 2 r) < 1024 ∨ r ∈ (s.clTx (p / 64)).badRows))
    ((withClTx (withShut wC { st := .opened, pend := some wSwap }) { badRows := [0] }).setReg 0x1400 4 1),
  (fun s : State =>
    let dt := 1; let p := 0; let l := wList; let w := ({ tc := 0, start := 0, first := 9, latched := some wList } : Swap);
    decide ((s.shut p).pend = some w) && decide (w.latched = some l) && decide (s.queueRuns (p / 64) = true) &&
    decide (w.tc ≤ (s.elapse dt).devTime))
    (withShut wC { st := .opening, pend := some { tc := 0, start := 0, first := 9, latched := some wList } }),
  (fun s : State =>
    let dt := 1; let p := 0; let l := wList; let w := ({ tc := 0, start := 0, first := 9, latched := some wList, held := true } : Swap);
    decide ((s.shut p).pend = some w) && decide (w.latched = some l) && decide (s.queueRuns (p / 64) = true) &&
    decide (w.tc ≤ (s.elapse dt).devTime))
    (withShut wC { st := .opened, oper := some wList, pend := some { tc := 0, start := 0, first := 9, latched := some wList, held := true } }),
  (fun s : State =>
    let p := 0; let dt := 2 ^ 20; let l := ({ wList with entries := [0x10000000400] } : ShutterList);
    let w := ({ tc := 1, start := 0, first := 9, latched := some { wList with entries := [0x10000000400] } } : Swap);
    decide ((s.shut p).pend = some w) && decide (w.latched = some l) && decide (s.queueRuns (p / 64) = true) &&
    decide (w.tc ≤ (s.elapse dt).devTime))
    (withShut wC { st := .opened, oper := some { wList with entries := [0x20000000400] }, pend := some { tc := 1, start := 0, first := 9, latched := some { wList with entries := [0x10000000400] } } })] id = true := by decide +kernel

theorem witness_ShutterCycles : List.all [
  (fun s : State =>
    let p := 0; let l := wList; decide (s.queueRuns (p / 64) = true) && decide ((s.shut p).st = .opened) &&
    decide ((s.shut p).oper = some l) && decide ((s.shut p).realign = none)) (withShut wC { st := .opened, oper := some wList }),
  (fun s : State =>
    let p := 0; let l := wList; decide (s.queueRuns (p / 64) = true) && decide ((s.shut p).st = .opened) &&
    decide ((s.shut p).oper = some l)) (withShut wC { st := .opened, oper := some wList }),
  (fun s : State =>
    let dt := 1; let p := 0; decide ((s.shut p).st = .closing) && decide (s.queueRuns (p / 64) = true) &&
    decide ((s.shut p).closeAt ≤ (s.elapse dt).devTime) && decide ((s.shut p).reopen = false)) (withShut wC { st := .closing }),
  (fun s : State =>
    let dt := 1; let p := 0; decide ((s.shut p).st = .closing) && decide (s.queueRuns (p / 64) = true) &&
    decide ((s.shut p).closeAt ≤ (s.elapse dt).devTime) && decide ((s.shut p).reopen = true) && decide ((s.clp (p / 64)).st = .opened))
    (withShut wC { st := .closing, reopen := true }),
  (fun s : State =>
    let dt := 1; let p := 0; let d := ({ cycle := 3, closeAt := 0, sum := 5, count := 6 } : Digest); let rest := ([] : List Digest);
    decide (s.isOn domCalc = true) && decide (s.queueRuns (p / 64) = true) && decide ((s.shut p).digests = d :: rest) &&
    decide (d.closeAt ≤ (s.elapse dt).devTime) && decide ((∀ e ∈ s.twin.peerRecs, e.port ≠ p)))
    (withShut wC { digests := [{ cycle := 3, closeAt := 0, sum := 5, count := 6 }] })] id = true := by decide +kernel

theorem witness_TimeWrites : List.all [
  (fun s : State =>
    let high := (5 : Word); decide (s.Ready) && decide (high.toNat < 2 ^ 20)) (wAll),
  (fun s : State =>
    let dt := 1; let v := (5 : Word); decide (s.Ready) && decide (-(2 ^ 62) ≤ v.toInt) && decide (v.toInt ≤ 2 ^ 62) &&
    decide ((s.elapse dt).stepFits v.toInt = true)) (wAll),
  (fun s : State =>
    let dt := 1; let v := (BitVec.ofInt 64 (-7) : Word); decide (s.Ready) && decide (-(2 ^ 62) ≤ v.toInt) &&
    decide (v.toInt ≤ 2 ^ 62) && decide ((s.elapse dt).stepFits v.toInt = true))
    (withTime wAll { wAll.time with st := .tracking, acc := BitVec.ofNat 116 (2 ^ 60) }),
  (fun s : State =>
    let v := (92325954089 : Word); decide (s.Ready) && decide (92141486649 ≤ v.toNat) && decide (v.toNat ≤ 92325954089)) (wAll),
  (fun s : State =>
    let v := (92325954089 : Word); decide (s.Ready) && decide (92141486649 ≤ v.toNat) && decide (v.toNat ≤ 92325954089))
    (withTime wAll { wAll.time with st := .freerun }),
  (fun s : State =>
    decide (s.Ready) && decide (s.isOn domSnap = true)) ({ wAll with ctrs := [(slotKey 0x1800 128 0, 9)] }),
  (fun s : State =>
    decide (s.Ready)) ({ wAll with cu := { held := some 0 } })] id = true := by decide +kernel

theorem witness_TimeEvents : List.all [
  (fun s : State =>
    decide (s.time.st = .tracking) && decide (s.regN 0x0400 0x10 ≤ s.time.sinceServo))
    (withTime wAll { wAll.time with st := .tracking, sinceServo := 2 ^ 40 }),
  (fun s : State =>
    decide (s.clocked = true)) ((withTime wAll { wAll.time with tod := some (0, 9) }).setReg 0x0400 0x0F 1),
  (fun s : State =>
    let dt := 2 ^ 40; let r := (0 : Word); decide (s.time.ppsRef = some r) &&
    decide (2 ^ 36 + s.regN 0x0400 0x17 ≤ (s.elapse dt).since r)) (withTime wAll { wAll.time with ppsRef := some 0 }),
  (fun s : State =>
    let msg := wTod; decide (s.clocked = true) && decide (msg.length = 16) && decide (beAt msg 0 2 = 0x5AA5) &&
    decide (beAt msg 2 1 = 1) && decide (crc16 (msg.take 14) = beAt msg 14 2)) (wAll),
  (fun s : State =>
    let msg := wTod.take 14 ++ [0, 0]; decide (s.clocked = true) && decide (msg.length = 16) && decide (beAt msg 0 2 = 0x5AA5) &&
    decide (crc16 (msg.take 14) ≠ beAt msg 14 2)) (wAll),
  (fun s : State =>
    let a := ({ secs := 9, edgeSec := 0, edgeRun := 0 } : TodAlign); decide (s.time.align = some a) && decide (s.time.st = .unset))
    (withTime wAll { wAll.time with align := some ({ secs := 9, edgeSec := 0, edgeRun := 0 } : TodAlign) }),
  (fun s : State =>
    let dt := 1; let a := ({ secs := 9, edgeSec := 0, edgeRun := 0 } : TodAlign); decide (s.time.align = some a) &&
    decide (s.time.st ≠ .unset) && decide (a.secs ≠ a.edgeSec) &&
    decide ((s.elapse dt).stepFits (((a.secs : Int) - a.edgeSec) * 2 ^ 36) = true))
    (withTime wAll { wAll.time with st := .freerun, align := some ({ secs := 9, edgeSec := 0, edgeRun := 0 } : TodAlign) }),
  (fun s : State =>
    let dt := 2 ^ 40; decide ((s.elapse dt).devSeconds ≠ s.time.secSeen) && decide (s.time.st ≠ .unset) &&
    decide (s.regB 0x0400 0x0E = true) && decide (s.time.ppsOut = false))
    ((withTime wAll { wAll.time with st := .freerun }).setReg 0x0400 0x0E 1),
  (fun s : State =>
    let dt := 2 ^ 40; decide (s.time.ppsOut = true) && decide (2 ^ 30 ≤ (s.elapse dt).since s.time.ppsOutAt))
    (withTime wAll { wAll.time with ppsOut := true }),
  (fun s : State =>
    let dt := 1; decide ((s.elapse dt).epoch ≠ s.time.epochSeen) && decide (s.isOn domEvt = true))
    (withTime wAll { wAll.time with epochSeen := 1 })] id = true := by decide +kernel

theorem witness_ClocksAndTicks : List.all [
  (fun s : State =>
    decide ((s.dom domTime).ack = .on) && decide (s.time.pllLocked = false) &&
    decide ((s.power.doms.all fun e => e.2.phase != .restoring && e.2.phase != .waitTime) = true))
    (withTime wAll { wAll.time with pllLocked := false, refPresent := false }),
  (fun s : State =>
    decide ((s.dom domTime).ack = .on) && decide (s.time.pllLocked = false) && decide ((s.dom domTime).phase = .restoring) &&
    decide ((s.dom domTime).latched = none) && decide ((s.power.doms.all fun e => e.1 == domTime || (e.2.phase != .restoring &&
    e.2.phase != .waitTime)) = true) && decide (s.power.waiting = none) && decide (s.power.sequencer = .rest) &&
    decide (s.power.boot ≠ .sleep) && decide (s.power.slept = []) && decide (s.regB 0x0700 0x10 = false))
    (withDom (withTime wAll { wAll.time with pllLocked := false }) domTime { domainOn with phase := .restoring }),
  (fun s : State =>
    decide (s.clocked = true)) ({ wP with rings := [(255, { st := .opened })] }),
  (fun s : State =>
    let dt := 2 ^ 21; decide (s.clocked = true) && decide (2 ^ 21 ≤ (s.elapse dt).time.tickAt) && decide (s.dict.landing = []))
    (withPort wC { st := .opening }),
  (fun s : State =>
    let dt := 1; decide (s.clocked = false ∨ (s.elapse dt).time.tickAt < 2 ^ 21)) (wP),
  (fun s : State =>
    let dt := 2 ^ 30; decide (s.clocked = false ∨ (s.elapse dt).time.tickAt < 2 ^ 21))
    (withTime wAll { wAll.time with pllLocked := false }),
  (fun s : State =>
    let idx := 0x0100; let sub := 255; let row := 65535; decide (s.clocked = true) && decide (sub < 256) && decide (row < 65536) &&
    decide (SMap.get false s.cu.pending (slotKey idx sub row) = true) &&
    decide (slotKey idx sub row ∉ SMap.get [] s.cu.fifos (State.queueOf (slotKey idx sub row))) &&
    decide ((SMap.get [] s.cu.fifos (State.queueOf (slotKey idx sub row))).length < 64) && decide (s.cu.held = none))
    ({ wC with cu := { pending := [(slotKey 0x0100 255 65535, true)] } })] id = true := by decide +kernel

theorem witness_DictionaryWrites : List.all [
  (fun s : State =>
    let v := (0x3FFFF : Word); decide (s.Ready) && decide (v.toNat ≤ 0x3FFFF)) (wAll),
  (fun s : State =>
    let idx := 0xFFFF; let sub := 255; let v := (0 : Word); let code := rNO_OBJECT; decide (s.Ready) && decide (sub < 256) &&
    decide (idx < 65536) &&
    decide ((classify idx = none ∧ code = rNO_OBJECT) ∨ (idx = 0x0100 ∧ sub ≤ 2 ∧ code = rREAD_ONLY) ∨ (idx = 0x0100 ∧ sub = 3 ∧ 0x3FFFF < v.toNat ∧ code = rRANGE) ∨ (idx = 0x0100 ∧ 5 < sub ∧ code = rNO_OBJECT)))
    (wAll),
  (fun s : State =>
    let idx := 0x0100; let sub := 2; let v := (0 : Word); let code := rREAD_ONLY; decide (s.Ready) && decide (sub < 256) &&
    decide (idx < 65536) &&
    decide ((classify idx = none ∧ code = rNO_OBJECT) ∨ (idx = 0x0100 ∧ sub ≤ 2 ∧ code = rREAD_ONLY) ∨ (idx = 0x0100 ∧ sub = 3 ∧ 0x3FFFF < v.toNat ∧ code = rRANGE) ∨ (idx = 0x0100 ∧ 5 < sub ∧ code = rNO_OBJECT)))
    (wAll),
  (fun s : State =>
    let idx := 0x0100; let sub := 0; let v := (0 : Word); let code := rREAD_ONLY; decide (s.Ready) && decide (sub < 256) &&
    decide (idx < 65536) &&
    decide ((classify idx = none ∧ code = rNO_OBJECT) ∨ (idx = 0x0100 ∧ sub ≤ 2 ∧ code = rREAD_ONLY) ∨ (idx = 0x0100 ∧ sub = 3 ∧ 0x3FFFF < v.toNat ∧ code = rRANGE) ∨ (idx = 0x0100 ∧ 5 < sub ∧ code = rNO_OBJECT)))
    (wAll),
  (fun s : State =>
    let idx := 0x0100; let sub := 3; let v := (0x40000 : Word); let code := rRANGE; decide (s.Ready) && decide (sub < 256) &&
    decide (idx < 65536) &&
    decide ((classify idx = none ∧ code = rNO_OBJECT) ∨ (idx = 0x0100 ∧ sub ≤ 2 ∧ code = rREAD_ONLY) ∨ (idx = 0x0100 ∧ sub = 3 ∧ 0x3FFFF < v.toNat ∧ code = rRANGE) ∨ (idx = 0x0100 ∧ 5 < sub ∧ code = rNO_OBJECT)))
    (wAll),
  (fun s : State =>
    let idx := 0x0100; let sub := 6; let v := (0 : Word); let code := rNO_OBJECT; decide (s.Ready) && decide (sub < 256) &&
    decide (idx < 65536) &&
    decide ((classify idx = none ∧ code = rNO_OBJECT) ∨ (idx = 0x0100 ∧ sub ≤ 2 ∧ code = rREAD_ONLY) ∨ (idx = 0x0100 ∧ sub = 3 ∧ 0x3FFFF < v.toNat ∧ code = rRANGE) ∨ (idx = 0x0100 ∧ 5 < sub ∧ code = rNO_OBJECT)))
    (wAll),
  (fun s : State =>
    let idx := 0x0100; let sub := 255; let v := (0 : Word); let code := rNO_OBJECT; decide (s.Ready) && decide (sub < 256) &&
    decide (idx < 65536) &&
    decide ((classify idx = none ∧ code = rNO_OBJECT) ∨ (idx = 0x0100 ∧ sub ≤ 2 ∧ code = rREAD_ONLY) ∨ (idx = 0x0100 ∧ sub = 3 ∧ 0x3FFFF < v.toNat ∧ code = rRANGE) ∨ (idx = 0x0100 ∧ 5 < sub ∧ code = rNO_OBJECT)))
    (wAll),
  (fun s : State =>
    let l := ({ via := .window, eff := .obj 0x0100 3 5, tick := 0 } : Landing); let v := (5 : Word); decide (s.dictRuns = true) &&
    decide (s.dict.landing = [l]) && decide (l.eff = .obj 0x0100 3 v))
    (withDict wAll { landing := [({ via := .window, eff := .obj 0x0100 3 5, tick := 0 } : Landing)] })] id = true := by decide +kernel

theorem witness_BdpRequests : List.all [
  (fun s : State =>
    let errs := 3; let id := wId; let data := wRead; let src := 1; let h := wHead wRead;
    let s' := ((s.elapse 1).bump 0x0200 0x0D errs).canHealth; let v := (s'.read .can h.idx h.sub).2.1;
    let u := (s'.read .can h.idx h.sub).2.2; decide (s.dictRuns = true) && decide (s.regB 0x0200 3 = true) &&
    decide (id / 2 ^ 22 % 16 = 1) && decide (id / 2 ^ 15 % 128 = s.regN 0x0200 1) && decide (src = id / 2 ^ 8 % 128) &&
    decide ((bdpHead data).isSome = true) && decide (data.length = 8) && decide (h.op = 1) && decide (h.count = 1) &&
    decide (h.version ≠ 0) && decide ((SMap.get {} s.dict.sessions src).version = h.version) &&
    decide ((SMap.get {} s.dict.sessions src).seq ≠ some h.seq) && decide (s'.read .can h.idx h.sub = (rOK, v, u)))
    (withSession wCan { version := 1 }),
  (fun s : State =>
    let errs := 0; let id := wId; let data := wWrite; let src := 1; let h := wHead wWrite;
    let s' := ((s.elapse 1).bump 0x0200 0x0D errs).canHealth; let u := (s'.write .can h.idx h.sub (Word.ofNat (beAt data 8 8))).2;
    decide (s.dictRuns = true) && decide (s.regB 0x0200 3 = true) && decide (id / 2 ^ 22 % 16 = 1) &&
    decide (id / 2 ^ 15 % 128 = s.regN 0x0200 1) && decide (src = id / 2 ^ 8 % 128) && decide ((bdpHead data).isSome = true) &&
    decide (data.length = 16) && decide (h.op = 2) && decide (h.count = 1) && decide (h.version ≠ 0) &&
    decide ((SMap.get {} s.dict.sessions src).version = h.version) && decide ((SMap.get {} s.dict.sessions src).seq ≠ some h.seq) &&
    decide (s'.write .can h.idx h.sub (Word.ofNat (beAt data 8 8)) = (rOK, u))) (withSession wCan { version := 1 }),
  (fun s : State =>
    let id := wId; let data := wHel; let src := 1; let h := wHead wHel; decide (s.dictRuns = true) && decide (s.regB 0x0200 3 = true) &&
    decide (id / 2 ^ 22 % 16 = 1) && decide (id / 2 ^ 15 % 128 = s.regN 0x0200 1) && decide (src = id / 2 ^ 8 % 128) &&
    decide ((bdpHead data).isSome = true) && decide (data.length = 16) && decide (h.op = 5) &&
    decide ((SMap.get {} s.dict.sessions src).seq ≠ some h.seq)) (wCan),
  (fun s : State =>
    decide (s.dictRuns = true)) (wAll)] id = true := by decide +kernel

/-- The last hypothesis of clause 3, on every stepping. -/
theorem witness_BdpRequests_version : State.helloVersion wHel ≠ 0 := by
  have h : ∀ n, n < 3 → topVersion (beAt wHel 15 1 &&& [0x01, 0x03, 0x03].getD n 0) ≠ 0 := by decide +kernel
  exact h _ Config.steppingSel.isLt

theorem witness_TableWindows : List.all [
  (fun s : State =>
    let c := 0; let t := 4; let row := 2 ^ 32 - 1; decide (s.Ready) && decide (c < 16) && decide (t ≤ 0xC) && decide (row < 2 ^ 32))
    ((fun s : State => { s with dict := { s.dict with windows := [(winIdx 0 4, { part := [1], status := 3 })] } }) wC),
  (fun s : State =>
    let c := 0; let t := 0xC; let row := 0; decide (s.Ready) && decide (c < 16) && decide (t ≤ 0xC) && decide (row < 2 ^ 32))
    ((fun s : State => { s with dict := { s.dict with windows := [(winIdx 0 0xC, { part := [1], status := 3 })] } }) wC),
  (fun s : State =>
    let c := 0; let row := 4095; decide (s.Ready) && decide (c < 16) && decide (row < 4096) && decide ((s.dom (domMeter c)).ack ≠ .off))
    (wC.rowSet (winIdx 0 4) 2 4095 77),
  (fun s : State =>
    let c := 0; let v := (0x8001 : Word); decide (s.Ready) && decide (c < 16) && decide (s.isOn (domMeter c) = true) &&
    decide ((s.window (winIdx c 4)).row < 4096) && decide (v = SMap.get 0 (s.window (winIdx c 4)).stage 2) &&
    decide (State.vmapOk [v] = true))
    ((fun s : State => { s with dict := { s.dict with windows := [(winIdx 0 4, { row := 4095, stage := [(2, 0x8001)] })] } }) wC),
  (fun s : State =>
    let c := 0; let v := (-1 : Word); decide (s.Ready) && decide (c < 16) && decide (s.isOn (domMeter c) = true) &&
    decide ((s.window (winIdx c 4)).row < 4096) && decide (v = SMap.get 0 (s.window (winIdx c 4)).stage 2) &&
    decide (State.vmapOk [v] = false))
    ((fun s : State => { s with dict := { s.dict with windows := [(winIdx 0 4, { row := 4095, stage := [(2, -1)] })] } }) wC),
  (fun s : State =>
    let dt := 1; let c := 0; let t := 4; let img := s.stagedImage 0 4; let code := rROW_RANGE; decide (s.Ready) && decide (c < 16) &&
    decide (t ≤ 0xC) && decide (t ≠ 6) && decide (img = s.stagedImage c t) &&
    decide (((s.elapse dt).rowCheck c t (s.window (winIdx c t)).row img true).1 = code) && decide (code ≠ rOK))
    ((fun s : State => { s with dict := { s.dict with windows := [(winIdx 0 4, { row := 4096 })] } }) wC),
  (fun s : State =>
    let dt := 1; let c := 0; let t := 7; let img := s.stagedImage 0 7; let code := rRANGE; decide (s.Ready) && decide (c < 16) &&
    decide (t ≤ 0xC) && decide (t ≠ 6) && decide (img = s.stagedImage c t) &&
    decide (((s.elapse dt).rowCheck c t (s.window (winIdx c t)).row img true).1 = code) && decide (code ≠ rOK))
    ((fun s : State => { s with dict := { s.dict with windows := [(winIdx 0 7, { row := 0, stage := [(2, -1)] })] } }) wC),
  (fun s : State =>
    let c := 0; let img := s.stagedImage 0 3; decide (s.Ready) && decide (c < 16) && decide ((s.dom (domMeter c)).ack ≠ .off) &&
    decide ((s.window (winIdx c 3)).row < 32768) && decide (img = s.stagedImage c 3) && decide (State.fieldsOk 3 img = true) &&
    decide (State.meterOk img = true))
    ((fun s : State => { s with dict := { s.dict with windows := [(winIdx 0 3, { row := 32767, stage := [(2, 1)] })] } }) wC),
  (fun s : State =>
    let c := 0; let l := wLand (.row (winIdx 0 3) 32767 wMeterImg false) 8; let row := 32767; let img := wMeterImg; let byData := false;
    decide (s.dictRuns = true) && decide (s.dict.landing = [l]) && decide (l.eff = .row (winIdx c 3) row img byData) &&
    decide (1 ≤ s.ticksWaited l) && decide (c < 16) && decide (s.isOn (domMeter c) = true) && decide (row < 32768) &&
    decide (img.length = 5) && decide (State.fieldsOk 3 img = true) && decide (State.meterOk img = true))
    (withDict (wOn wC) { landing := [wLand (.row (winIdx 0 3) 32767 [1, 0, 0, 0, 0] false) 8], windows := [] }),
  (fun s : State =>
    let c := 0; let e := (0x40000000000 : Word); decide (s.Ready) && decide (c < 16) && decide (s.isOn (domQueue c) = true) &&
    decide ((s.window (winIdx c 0xA)).row < 65536) && decide ((s.window (winIdx c 0xA)).part = []) &&
    decide (State.shutterRowOk e = true))
    ((fun s : State => { s with dict := { s.dict with windows := [(winIdx 0 0xA, { row := 65535 })] } }) wC),
  (fun s : State =>
    let c := 0; decide (s.Ready) && decide (c < 16) && decide ((s.window (winIdx c 3)).row < 32768))
    (((fun s : State => { s with dict := { s.dict with windows := [(winIdx 0 3, { row := 32767 })] } }) wC).rowSet (winIdx 0 3) 2 32767 (-1)),
  (fun s : State =>
    let c := 0; let l := wLand (.strobe (winIdx 0 3) 8 32767) 8; let sub := 8; let row := 32767; decide (s.dictRuns = true) &&
    decide (s.dict.landing = [l]) && decide (l.eff = .strobe (winIdx c 3) sub row) && decide (1 ≤ s.ticksWaited l) && decide (c < 16) &&
    decide (s.isOn (domMeter c) = true)) ((wAt (wOn wC) 8 [(.strobe (winIdx 0 3) 8 32767)]).rowSet (winIdx 0 3) 2 32767 (-1)),
  (fun s : State =>
    let c := 0; let l := wLand (.row (winIdx 0 3) 32767 wMeterImg false) 8; let m := wLand (.strobe (winIdx 0 3) 8 32767) 8;
    let sub := 8; let row := 32767; let img := wMeterImg; decide (s.dictRuns = true) && decide (s.dict.landing = [l, m]) &&
    decide (l.eff = .row (winIdx c 3) row img false) && decide (m.eff = .strobe (winIdx c 3) sub row) && decide (m.tick = l.tick) &&
    decide (1 ≤ s.ticksWaited l) && decide (c < 16) && decide (s.isOn (domMeter c) = true) && decide (row < 32768) &&
    decide (img.length = 5) && decide (State.fieldsOk 3 img = true) && decide (State.meterOk img = true) &&
    decide ((s.meterRow c row).enable = true) && decide ((img.getD 0 0).bit 0 = true) &&
    decide ((img.getD 0 0).bits 1 3 = (s.meterRow c row).alg))
    (((wAt (wOn wC) 8 [(.row (winIdx 0 3) 32767 wMeterImg false), (.strobe (winIdx 0 3) 8 32767)]).rowSet (winIdx 0 3) 2 32767 1).rowSet (winIdx 0 3) 3 32767 4096),
  (fun s : State =>
    let c := 0; let t := 0; decide (s.Ready) && decide (c < 16) && decide (t ≤ 2) && decide ((s.window (winIdx c t)).row < tableRows t))
    (((fun s : State => { s with dict := { s.dict with windows := [(winIdx 0 0, { row := 65535 })] } }) wC).rowSet (winIdx 0 0) 2 65535 1),
  (fun s : State =>
    let c := 0; let t := 2; decide (s.Ready) && decide (c < 16) && decide (t ≤ 2) && decide ((s.window (winIdx c t)).row < tableRows t))
    ((fun s : State => { s with dict := { s.dict with windows := [(winIdx 0 2, { row := 63 })] } }) wC),
  (fun s : State =>
    let c := 0; let l := wLand (.strobe (winIdx 0 0) 9 65535) 8; let t := 0; let sub := 9; let row := 65535; let k := schKey 0 65535;
    decide (s.dictRuns = true) && decide (s.dict.landing = [l]) && decide (l.eff = .strobe (winIdx c t) sub row) &&
    decide (1 ≤ s.ticksWaited l) && decide (c < 16) && decide (t ≤ 2) && decide (s.isOn (domQueue c) = true) &&
    decide (k = State.schKey t row))
    (withClTx (wAt (wOn wC) 8 [(.strobe (winIdx 0 0) 9 65535)]) { sched := [(65535, { pend := some { cir := 5 } })] }),
  (fun s : State =>
    let c := 0; let dt := 2 ^ 21; let l := wLand (.strobe (winIdx 0 3) 8 7) 9; let sub := 8; let row := 7; decide (s.dictRuns = true) &&
    decide (2 ^ 21 ≤ (s.elapse dt).time.tickAt) && decide (s.dict.landing = [l]) && decide (l.eff = .strobe (winIdx c 3) sub row) &&
    decide (l.tick = s.time.ticks) && decide (c < 16) && decide (s.isOn (domMeter c) = true))
    (wAt (wOn wC) 9 [(.strobe (winIdx 0 3) 8 7)])] id = true := by decide +kernel

theorem witness_DoorlistCommits : List.all [
  (fun s : State =>
    let c := 0; let mac := (0x010000000002 : Word); let ctrl := wCtrl; let m := wMac; let vid := 1;
    let r := (wC.doorWays 0 wMac 1).headD 0; decide (s.Ready) && decide (c < 16) && decide (mac.toNat < 2 ^ 48) &&
    decide (s.isOn (domLane c) = true) && decide ((s.window (winIdx c 5)).row < 65536) &&
    decide (State.doorOk [mac, ctrl.setBits 62 2 0] = true) && decide (ctrl.bit 61 = true) && decide (ctrl.bits 8 2 = 1) &&
    decide (m = beNat (leBytes 6 mac.toNat)) && decide (vid = ctrl.bits 40 12) && decide (s.doorFind c m vid [0, 1, 2] = none) &&
    decide ((s.doorWays c m vid).find? (fun w => (s.doorEntry c w).isNone) = some r)) (wC),
  (fun s : State =>
    let c := 0; let mac := (0x010000000002 : Word); let ctrl := wCtrl; let m := wMac; let vid := 1;
    let r := (wC.doorWays 0 wMac 1).headD 0;
    let e := ({ mac := wMac, vid := 1, kind := 1, port := 4, ring := 0, mode := 0, hit := false, stale := false } : DoorEntry);
    decide (s.Ready) && decide (c < 16) && decide (mac.toNat < 2 ^ 48) && decide (s.isOn (domLane c) = true) &&
    decide ((s.window (winIdx c 5)).row < 65536) && decide (State.doorOk [mac, ctrl.setBits 62 2 1] = true) &&
    decide (m = beNat (leBytes 6 mac.toNat)) && decide (vid = ctrl.bits 40 12) && decide (s.doorFind c m vid [0, 1, 2] = some (r, e)))
    (wDoor),
  (fun s : State =>
    let c := 0; decide (s.Ready) && decide (c < 16) && decide (s.flushBusy c = false)) (wDoor.setReg (clIdx 0 3) 0xD 0)] id = true := by decide +kernel

/-- The bytes of the wrapped image of clause 2 and the states its unwrapping under `wKey` passes after 12, 24 and 36 steps. -/
def wRaw : Bytes := wWrapped.flatMap fun w : Word => leBytes 8 w.toNat
def wU (i : Nat) : Bytes × List Bytes := match i with
  | 0 => ((chunks 8 7 wRaw).headD [], (chunks 8 7 wRaw).drop 1)
  | 1 => (ofNats [69, 59, 178, 216, 90, 185, 151, 201],
    [ofNats [54, 41, 10, 143, 254, 177, 206, 246],
     ofNats [96, 236, 62, 54, 130, 116, 186, 234],
     ofNats [243, 57, 111, 106, 73, 221, 25, 237],
     ofNats [110, 61, 66, 185, 19, 60, 164, 140],
     ofNats [23, 151, 139, 166, 119, 25, 47, 15],
     ofNats [42, 253, 154, 195, 204, 52, 207, 188]])
  | 2 => (ofNats [33, 241, 201, 82, 111, 17, 199, 22],
    [ofNats [223, 183, 122, 3, 195, 243, 252, 26],
     ofNats [97, 9, 192, 73, 136, 93, 120, 154],
     ofNats [126, 67, 134, 171, 16, 168, 195, 99],
     ofNats [242, 112, 246, 56, 100, 225, 199, 151],
     ofNats [18, 80, 79, 141, 157, 78, 92, 52],
     ofNats [198, 139, 60, 209, 65, 157, 110, 69]])
  | _ => (ofNats [166, 166, 166, 166, 166, 166, 166, 166],
    [ofNats [8, 9, 10, 11, 12, 13, 14, 15],
     ofNats [1, 0, 0, 0, 0, 0, 0, 0],
     ofNats [2, 0, 0, 0, 0, 0, 0, 0],
     ofNats [3, 0, 0, 0, 0, 0, 0, 0],
     ofNats [0, 0, 0, 0, 0, 0, 0, 0],
     ofNats [0, 0, 0, 0, 0, 0, 0, 0]])

theorem unwrap_steps_1 : ((List.range 12).reverse.map (· + 25)).foldl (kwStep wKey.key 6) (wU 0) = wU 1 := by decide +kernel
theorem unwrap_steps_2 : ((List.range 12).reverse.map (· + 13)).foldl (kwStep wKey.key 6) (wU 1) = wU 2 := by decide +kernel
theorem unwrap_steps_3 : ((List.range 12).reverse.map (· + 1)).foldl (kwStep wKey.key 6) (wU 2) = wU 3 := by decide +kernel

theorem kwUnwrap_of (key w : Bytes) (a : Bytes) (r d : List Bytes) (h : chunks 8 (w.length / 8) w = a :: r)
    (hf : ((List.range (6 * r.length)).reverse.map (· + 1)).foldl (kwStep key r.length) (a, r) = (List.replicate 8 0xA6, d)) :
    kwUnwrap key w = some d.flatten := by
  simp [kwUnwrap, h] at hf ⊢
  simp [hf]

/-- The hypothesis of clause 2 on the wrapped image: it unwraps to the image clause 2's witness names. -/
theorem witness_KeySlots_unwrap :
    kwUnwrap wKey.key wRaw = some ((wImage.flatMap fun w : Word => leBytes 8 w.toNat).take 48) := by
  have hs : (List.range 36).reverse.map (· + 1) =
      (List.range 12).reverse.map (· + 25) ++ ((List.range 12).reverse.map (· + 13) ++ (List.range 12).reverse.map (· + 1)) := by
    decide
  have hc : chunks 8 (wRaw.length / 8) wRaw = (wU 0).1 :: (wU 0).2 := by decide +kernel
  have hn : (wU 0).2.length = 6 := by decide +kernel
  have hd : wU 3 = (List.replicate 8 0xA6, (wU 3).2) := by decide +kernel
  have hr : (wU 3).2.flatten = (wImage.flatMap fun w : Word => leBytes 8 w.toNat).take 48 := by decide +kernel
  rw [kwUnwrap_of _ _ _ _ (wU 3).2 hc, hr]
  rw [hn, hs, List.foldl_append, List.foldl_append, Prod.mk.eta, unwrap_steps_1, unwrap_steps_2, unwrap_steps_3, ← hd]

theorem witness_KeySlots : List.all [
  (fun s : State =>
    let c := 0; let row := 4095; let suite := 1; let data := wImage; let k := wKeyOf; decide (s.Ready) && decide (c < 16) &&
    decide (row < 4096) && decide (suite < 4) && decide (data.length = 7) && decide (s.isOn domKeys = true) &&
    decide (s.keys.latch = 0) && decide (((data.flatMap fun w : Word => leBytes 8 w.toNat).drop 48).all (· == 0) = true) &&
    decide (imageKey suite false ((data.flatMap fun w : Word => leBytes 8 w.toNat).take 48) = some k)) (wAll),
  (fun s : State =>
    let c := 0; let row := 4095; let suite := 1; let data := wWrapped; let kek := wKey;
    let im := (wImage.flatMap fun w : Word => leBytes 8 w.toNat).take 48; let k := wKeyOf; decide (s.Ready) && decide (c < 16) &&
    decide (row < 4096) && decide (suite < 4) && decide (data.length = 7) && decide (s.isOn domKeys = true) &&
    decide (s.keys.latch = 0) && decide (s.commonKey 2 = some kek) && decide (imageKey suite false im = some k))
    (withKeys wAll { common := [(2, some wKey)] }),
  (fun s : State =>
    let c := 0; let via := Master.inband; let row := 0; let suite := 3; let data := wImage; decide (s.Ready) &&
    decide (via ≠ .window) && decide (c < 16) && decide (row < 4096) && decide (suite < 4) && decide (data ≠ [])) (wAll),
  (fun s : State =>
    let c := 0; let l := wLand (.row (winIdx 0 6) 4095 (wKeyRow false) false) 7; let row := 4095; let img := wKeyRow false;
    let byData := false; let k := wKeyOf; decide (s.dictRuns = true) && decide (s.dict.landing = [l]) &&
    decide (l.eff = .row (winIdx c 6) row img byData) && decide (2 ≤ s.ticksWaited l) && decide (c < 16) && decide (row < 4096) &&
    decide (s.isOn domKeys = true) && decide ((match s.keyAct false img true with | .load x => decide (x = k) | _ => false) = true))
    (wAt (wOn wAll) 7 [(.row (winIdx 0 6) 4095 (wKeyRow false) false)]),
  (fun s : State =>
    let c := 0; let r := 4095; let k := wKey; decide (c < 16) && decide (r < 4096) && decide ((s.slot (4096 * c + r)).flip = some k) &&
    decide (s.bankBusy c r = false) && decide (s.isOn (domCipher c) = true) && decide (s.clocked = true) &&
    decide (s.masks.erased = false)) ({ withSlot wAll { flip := some wKey, gen := 255 } with masks := { erased := false } }),
  (fun s : State =>
    let c := 0; let r := 4095; decide (s.bankBusy (c % 16) (r % 4096) = true ∨ s.masks.erased = true))
    ({ withSlot wAll { flip := some wKey, gen := 255 } with masks := { erased := true } }),
  (fun s : State =>
    let c := 0; let row := 4095; decide (s.Ready) && decide (c < 16) && decide (row < 4096) && decide (s.isOn domKeys = true))
    (withSlot wAll { master := some wKey, cur := some wKey, prev := some wKey, flip := some wKey }),
  (fun s : State =>
    let c := 0; let l := wLand (.row (winIdx 0 6) 4095 [0x100, 0, 0, 0, 0, 0, 0, 0] false) 7; let row := 4095;
    decide (s.dictRuns = true) && decide (s.dict.landing = [l]) &&
    decide ((match s.keyAct false [0x100, 0, 0, 0, 0, 0, 0, 0] true with | .erase => true | _ => false) = true) &&
    decide (2 ≤ s.ticksWaited l) && decide (c < 16) && decide (row < 4096) && decide (s.isOn domKeys = true))
    (withSlot (wAt (wOn wAll) 7 [(.row (winIdx 0 6) 4095 [0x100, 0, 0, 0, 0, 0, 0, 0] false)]) { master := some wKey, cur := some wKey, prev := some wKey, flip := some wKey, gen := 255 }),
  (fun s : State =>
    let c := 0; let l := wLand (.wrappedKey (winIdx 0 6) 4095 0 none) 7; let row := 4095; decide (s.dictRuns = true) &&
    decide (s.dict.landing = [l]) && decide (2 ≤ s.ticksWaited l) && decide (c < 16) && decide (row < 4096) &&
    decide (s.isOn domKeys = true))
    (withSlot (wAt (wOn wAll) 7 [(.wrappedKey (winIdx 0 6) 4095 0 none)]) { master := some wKey, cur := some wKey, prev := some wKey, flip := some wKey, gen := 255 }),
  (fun s : State =>
    let img := ((List.range 8).map fun i => SMap.get 0 s.keys.stage (0x11 + i));
    let k := (match s.keyAct true img true with | .load x => x | _ => wKey); decide (s.Ready) &&
    decide (img = ((List.range 8).map fun i => SMap.get 0 s.keys.stage (0x11 + i))) &&
    decide ((match s.keyAct true img true with | .load x => decide (x = k) | _ => false) = true))
    (withKeys wAll { stage := [(0x11, 0), (0x12, 5)] }),
  (fun s : State =>
    let l := wLand (.ckey 0 [0, 5, 0, 0, 0, 0, 0, 0]) 7; let sel := 0; let img := ([0, 5, 0, 0, 0, 0, 0, 0] : List Word);
    let k := (match s.keyAct true img true with | .load x => x | _ => wKey); decide (s.dictRuns = true) &&
    decide (s.dict.landing = [l]) && decide (l.eff = .ckey sel img) && decide (2 ≤ s.ticksWaited l) && decide (s.isOn domKeys = true) &&
    decide ((match s.keyAct true img true with | .load x => decide (x = k) | _ => false) = true))
    (wAt (wOn wAll) 7 [(.ckey 0 [0, 5, 0, 0, 0, 0, 0, 0])]),
  (fun s : State =>
    decide (s.Ready)) (withSlot wAll { master := some wKey })] id = true := by decide +kernel

theorem witness_TamperInputs : List.all [
  (fun s : State =>
    let n := 3; decide (n < 4) && decide (s.keys.live.testBit n = false)) (withSlot wAll { master := some wKey }),
  (fun s : State =>
    let n := 3; decide (n < 4)) (withKeys wAll { live := 8, latch := 8 }),
  (fun s : State =>
    let v := (15 : Word); decide (s.Ready) && decide (v.toNat < 16)) (withKeys wAll { live := 2, latch := 7 }),
  (fun s : State =>
    let v := (0xFFFFFFFF : Word); decide (s.Ready) && decide (v.toNat < 2 ^ 32)) (withKeys wAll { alarm := 7 })] id = true := by decide +kernel

theorem witness_IdentityAndEntropy : List.all [
  (fun s : State =>
    decide (s.Ready)) (withKeys wAll { trng := .failed }),
  (fun s : State =>
    decide (s.Ready)) (withKeys wAll { trng := .running }),
  (fun s : State =>
    let bits := wBits; decide (s.keys.trng = .startup) && decide (s.isOn domTrng = true) && decide (bits.length = 1024) &&
    decide (rctFails (s.regN 0x0600 0x22) (0, false) bits = false) && decide (aptFails (s.regN 0x0600 0x23) bits = false))
    (withKeys wAll { trng := .startup }),
  (fun s : State =>
    let apt := true; let bits := List.replicate 1024 true; decide (s.keys.trng ≠ .failed) && decide (s.isOn domTrng = true) &&
    decide ((if apt then aptFails (s.regN 0x0600 0x23) bits else rctFails (s.regN 0x0600 0x22) (0, false) bits) = true))
    (withKeys wAll { trng := .running, trngFails := [0, 0] }),
  (fun s : State =>
    let apt := false; let bits := List.replicate 1024 true; decide (s.keys.trng ≠ .failed) && decide (s.isOn domTrng = true) &&
    decide ((if apt then aptFails (s.regN 0x0600 0x23) bits else rctFails (s.regN 0x0600 0x22) (0, false) bits) = true))
    (withKeys wAll { trng := .running, trngFails := [0] }),
  (fun s : State =>
    decide (s.Ready)) (withKeys wAll { nonce := List.replicate 24 1 }),
  (fun s : State =>
    decide (s.Ready)) (withKeys wAll { nonce := List.replicate 16 1 }),
  (fun s : State =>
    decide (s.keys.attest = .busy) && decide (s.isOn domKeys = true)) (withKeys wAll { attest := .busy, signing := [1] }),
  (fun s : State =>
    decide (s.Ready) && decide (s.keys.adopted = false)) (withKeys wAll { adoptCheck := identityCheck identityPub })] id = true := by decide +kernel

def wEventBanks : State :=
  withEv wAll { wAll.ev with sources := [(5, { mask := true })] }

theorem witness_EventBanks : List.all [
  (fun s : State =>
    let b := 0; decide (s.Ready) && decide (b < 64) && decide (s.regB 0x0700 0x10 = false) && decide (s.isOn domEvt = true))
    (withEv wAll { wAll.ev with sources := [(5, { st := .idle })] }),
  (fun s : State =>
    let b := 0; decide (s.Ready) && decide (b < 64) && decide (s.regB 0x0700 0x10 = false) && decide (s.isOn domEvt = true))
    (withEv wAll { wAll.ev with sources := [(5, { st := .activePending })] }),
  (fun s : State =>
    let b := 0; decide (s.Ready) && decide (b < 64) && decide (s.regB 0x0700 0x10 = false) && decide (s.isOn domEvt = true))
    (withEv wAll { wAll.ev with sources := [(5, { st := .pending })] }),
  (fun s : State =>
    let b := 0; decide (s.Ready) && decide (b < 64) && decide (s.regB 0x0700 0x10 = false) && decide (s.isOn domEvt = true))
    (withEv wAll { wAll.ev with sources := [(5, { mask := false })] }),
  (fun s : State =>
    let b := 63; decide (s.Ready) && decide (b < 64) && decide (s.regB 0x0700 0x10 = false) && decide (s.isOn domEvt = true))
    (wEventBanks),
  (fun s : State =>
    let b := 0; decide (s.Ready) && decide (b < 64) && decide (s.regB 0x0700 0x10 = false) && decide (s.isOn domEvt = true))
    (wEventBanks),
  (fun s : State =>
    let b := 0; decide (s.Ready) && decide (b < 64) && decide (s.regB 0x0700 0x10 = false) && decide (s.isOn domEvt = true))
    (withEv wAll { fired := 7 })] id = true := by decide +kernel

theorem witness_TargetStrobes : List.all [
  (fun s : State =>
    let t := 31; let v := (7 : Word); decide (s.Ready) && decide (t < 32) && decide (v.toNat ≤ 7))
    (withEv wAll { targets := [(31, { stack := [3] })] }),
  (fun s : State =>
    let t := 31; let v := (3 : Word); decide (s.Ready) && decide (t < 32) && decide (v.toNat ≤ 7))
    (withEv wAll { targets := [(31, { stack := [3] })] }),
  (fun s : State =>
    let t := 31; let v := (0 : Word); decide (s.Ready) && decide (t < 32) && decide (v.toNat ≤ 7))
    (withEv wAll { targets := [(31, { stack := [] })] }),
  (fun s : State =>
    let t := 31; let v := (7 : Word); decide (s.Ready) && decide (t < 32) && decide (v.toNat ≤ 7))
    (withEv wAll { targets := [(31, { stack := [7, 3] })] }),
  (fun s : State =>
    let t := 31; let v := (3 : Word); decide (s.Ready) && decide (t < 32) && decide (v.toNat ≤ 7))
    (withEv wAll { targets := [(31, { stack := [7, 3] })] }),
  (fun s : State =>
    let t := 31; let v := (0 : Word); decide (s.Ready) && decide (t < 32) && decide (v.toNat ≤ 7))
    (withEv wAll { targets := [(31, { stack := [] })] }),
  (fun s : State =>
    let t := 31; let v := (5 : Word); decide (s.Ready) && decide (t < 32) && decide (v.toNat < 65536) &&
    decide (isLevel v.toNat = false)) (withEv wAll { wAll.ev with sources := [(5, { st := .activePending, owner := some 31 })] }),
  (fun s : State =>
    let t := 31; let v := (5 : Word); decide (s.Ready) && decide (t < 32) && decide (v.toNat < 65536) &&
    decide (isLevel v.toNat = false)) (withEv wAll { wAll.ev with sources := [(5, { st := .active, owner := some 30 })] }),
  (fun s : State =>
    let t := 31; let v := (5 : Word); decide (s.Ready) && decide (t < 32) && decide (v.toNat < 65536) &&
    decide (isLevel v.toNat = false)) (withEv wAll { wAll.ev with sources := [(5, { st := .active, owner := some 31 })] })] id = true := by decide +kernel

def wBandRings : State :=
  withEv wAll { rings := [(255, { tail := 3, head := 1, gathered := 2 })] }

theorem witness_BandRings : List.all [
  (fun s : State =>
    let t := 31; let b := 7; decide (s.Ready) && decide (t < 32) && decide (b < 8) && decide (s.recOk t b = true))
    (withEv wAll { rings := [(255, { tail := 3, head := 1 })] }),
  (fun s : State =>
    let t := 31; let b := 7; decide (s.Ready) && decide (t < 32) && decide (b < 8))
    (withEv wAll { rings := [(255, { tail := 3, head := 1 })] }),
  (fun s : State =>
    let t := 31; let b := 7; let v := (3 : Word); decide (s.Ready) && decide (t < 32) && decide (b < 8) && decide (v.toNat < 65536) &&
    decide (v.toNat < s.recSize t b)) (wBandRings),
  (fun s : State =>
    let t := 31; let b := 7; let v := (7 : Word); decide (s.Ready) && decide (t < 32) && decide (b < 8) && decide (v.toNat < 65536) &&
    decide (v.toNat < s.recSize t b)) (wBandRings),
  (fun s : State =>
    let t := 31; let b := 7; let v := (0x50001 : Word); decide (s.Ready) && decide (t < 32) && decide (b < 8) &&
    decide (v.toNat % 65536 ≠ 0) && decide (v &&& 0xBFF0000000000000 = 0) && decide ((s.bandRing t b).tail = (s.bandRing t b).head) &&
    decide ((s.bandRing t b).gathered = 0)) (wAll),
  (fun s : State =>
    let t := 31; let b := 7; let v := (0x8000000000000001 : Word); decide (s.Ready) && decide (t < 32) && decide (b < 8) &&
    decide (v.toNat % 65536 ≠ 0) && decide (v.bit 63 = true) && decide ((s.bandRing t b).tail < s.recSize t b) &&
    decide ((s.bandRing t b).head < s.recSize t b) && decide ((s.bandRing t b).tail ≠ (s.bandRing t b).head))
    (withEv wAll { rings := [(255, { tail := 3, head := 1 })] }),
  (fun s : State =>
    let dt := 1; let t := 31; let b := 7; decide (s.isOn domEvt = true) && decide (s.regB (State.bIdx t b) 1 = true) &&
    decide ((s.reg (State.bIdx t b) 7).bit 62 = false) && decide (0 < (s.bandRing t b).gathered) &&
    decide ((s.reg (State.bIdx t b) 7).bits 16 36 ≠ 0) &&
    decide ((s.reg (State.bIdx t b) 7).bits 16 36 ≤ (s.elapse dt).since (s.bandRing t b).gatherAt))
    (((withEv wAll { rings := [(255, { gathered := 1 })] }).setReg (bIdx 31 7) 1 1).setReg (bIdx 31 7) 7 0x10001),
  (fun s : State =>
    let t := 31; let b := 7; let e := 5; decide (t < 32) && decide (b < 8) && decide (s.isOn domEvt = true) &&
    decide (s.regB (State.bIdx t b) 1 = true) && decide ((s.bandRing t b).seq ≠ 0) && decide ((s.bandRing t b).lastSrc = e) &&
    decide ((s.src e).got = [t]) && decide (s.srcActive e = true))
    ((withEv wAll { rings := [(255, { seq := 1, lastSrc := 5, tail := 0 })], sources := [(5, { st := .active, got := [31] })] }).setReg (bIdx 31 7) 1 1)] id = true := by decide +kernel

theorem witness_EventDelivery : List.all [
  (fun s : State =>
    let e := 5; decide (s.isOn domEvt = true) && decide (s.clocked = true) && decide (SMap.rising s.ev.sources = true) &&
    decide ((s.src e).st = .pending) && decide ((s.src e).mask = false) && decide (s.chosen e ≠ [])) (wEvt)] id = true := by decide +kernel

theorem witness_Roles : List.all [
  (fun s : State =>
    decide (s.Ready) && decide (s.twin.role = .active ∨ s.twin.role = .standby ∨ s.twin.role = .orphan))
    (withTwin pairedS { role := .standby }),
  (fun s : State =>
    decide (s.Ready) && decide (s.twin.role = .active ∨ s.twin.role = .standby ∨ s.twin.role = .orphan))
    (withTx (withTwin pairedS { role := .active }) { ownPcs := true }),
  (fun s : State =>
    let dt := 1; decide (s.Ready) && decide (s.twin.role = .demoted) && decide ((s.elapse dt).faults = 0))
    (wFaultless (withTwin pairedS { role := .demoted, release := true, selMine := true })),
  (fun s : State =>
    let dt := 1; decide (s.Ready) && decide (s.twin.role = .demoted) && decide ((s.elapse dt).faults = 0))
    (wFaultless (withTwin wC { role := .demoted, release := true })),
  (fun s : State =>
    decide (s.twin.role = .standby ∨ s.twin.role = .orphan)) (wFaultless (withTwin pairedS { role := .orphan, request := true })),
  (fun s : State =>
    decide (s.twin.role = .active) && decide (s.paired = true))
    (withTx (withTwin pairedS { role := .active, selMine := true }) { ownPcs := true })] id = true := by decide +kernel

theorem witness_SwingPins : List.all [
  (fun s : State =>
    let dt := 2 ^ 40; decide (s.twin.role = .active) && decide (2 ^ 19 ≤ (s.elapse dt).since s.twin.aliveAt))
    (withTwin pairedS { role := .active }),
  (fun s : State =>
    decide (s.twin.role ≠ .active)) (withTwin pairedS { role := .standby }),
  (fun s : State =>
    let dt := 2 ^ 40; decide (s.twin.role = .standby ∨ s.twin.role = .orphan) && decide (s.twin.selMine = false) &&
    decide (s.twin.request = false) && decide (5 * 2 ^ 19 ≤ (s.elapse dt).since s.twin.peerAliveAt))
    (withTwin pairedS { role := .orphan }),
  (fun s : State =>
    decide (s.twin.request = false)) (withTwin pairedS { role := .standby }),
  (fun s : State =>
    decide (s.twin.request = true) && decide (s.twin.toggles = 0)) (withTwin pairedS { role := .standby, request := true }),
  (fun s : State =>
    decide (s.twin.request = true) && decide (s.twin.toggles = 1))
    (withTwin pairedS { role := .standby, request := true, toggles := 1 }),
  (fun s : State =>
    let path := true; decide (s.hingeTakes path = true) && decide (s.twin.role = .standby ∨ s.twin.role = .orphan)) (wH .orphan)] id = true := by decide +kernel

/-- Clause 4's version is what its hypothesis says it is; it is left out here, since it depends on the stepping. -/
theorem witness_HingePaths : List.all [
  (fun s : State =>
    let path := true; decide (s.hingeRuns = true) && decide (s.paired = true) &&
    decide ((s.path path).st = .down ∨ (s.path path).st = .hello) && decide ((s.path path).nonce = none))
    (withTwin pairedS { hinge := .opened, role := .orphan }),
  (fun s : State =>
    decide (s.hingeRuns = true)) (wH .orphan),
  (fun s : State =>
    decide (s.hingeRuns = true)) (wH .orphan),
  (fun s : State =>
    let path := false; let n := ([1] : Bytes); let h := wHello; decide (s.hingeRuns = true) && decide ((s.path path).peer = some h) &&
    decide ((s.path path).nonce = some n) && decide ((s.path path).st = .hello))
    (withTwin pairedS { hinge := .opened, role := .orphan, pathA := { st := .hello, nonce := some [1], peer := some wHello } }),
  (fun s : State =>
    let path := false; let n := ([1] : Bytes); let h := ({ wHello with versions := 0 } : Hello); decide (s.hingeRuns = true) &&
    decide ((s.path path).peer = some h) && decide ((s.path path).nonce = some n) && decide ((s.path path).st = .hello))
    (withTwin pairedS { hinge := .opened, role := .orphan, pathA := { st := .hello, nonce := some [1], peer := some { wHello with versions := 0 } } }),
  (fun s : State =>
    let path := false; let dt := 2 ^ 40; decide ((s.path path).st = .refused) &&
    decide (2 ^ 36 ≤ (s.elapse dt).since (s.path path).refusedAt))
    (withTwin pairedS { hinge := .opened, role := .orphan, pathA := { st := .refused } }),
  (fun s : State =>
    decide (s.Ready) && decide (s.twin.hinge = .closed) && decide (s.paired = true) && decide (s.isOn domHinge = true))
    (withTwin pairedS { role := .orphan }),
  (fun s : State =>
    decide (s.Ready) && decide (s.twin.hinge = .opened)) (wH .orphan)] id = true := by decide +kernel

theorem witness_Heartbeats : List.all [
  (fun s : State =>
    let path := false; let dt := 2 ^ 40; decide (s.hingeTakes path = true) && decide (2 ^ 21 ≤ (s.elapse dt).since (s.path path).sentAt))
    (wH .standby),
  (fun s : State =>
    let path := false; decide (s.hingeTakes path = true)) (wH .standby),
  (fun s : State =>
    let path := false; decide (s.hingeTakes path = true)) (wH .standby),
  (fun s : State =>
    let path := false; let dt := 2 ^ 40; decide (s.hingeTakes path = true) && decide (2 ^ 23 ≤ (s.elapse dt).since (s.path path).beatAt))
    (wH .standby),
  (fun s : State =>
    let path := false; let dt := 2 ^ 40; decide (s.hingeTakes path = true) && decide (2 ^ 23 ≤ (s.elapse dt).since (s.path path).beatAt))
    (withTwin pairedS { hinge := .opened, role := .standby, pathA := { st := .up, version := 1 } }),
  (fun s : State =>
    let path := false; decide (s.hingeTakes path = true)) (wH .standby)] id = true := by decide +kernel

def wMirrorStream : State :=
  withTwin pairedS { hinge := .opened, pathA := { st := .up, version := 1 }, pathB := { st := .up, version := 1 }, role := .standby, seq := 5 }
def wMirrorStream1 : State :=
  withShut (withTwin pairedS { hinge := .opened, pathA := { st := .up, version := 1 }, pathB := { st := .up, version := 1 }, role := .standby, seq := 5 }) { st := .opened, pend := some { tc := 2 ^ 40, start := 0, first := 9 } }

theorem witness_MirrorStream : List.all [
  (fun s : State =>
    decide (s.hingeRuns = true) && decide (s.twin.role ≠ .active) && decide (s.twin.role ≠ .unadopted) &&
    decide (s.twin.seq ≠ s.twin.ackSent) && decide (s.sendPaths ≠ []))
    (withTwin pairedS { hinge := .opened, pathA := { st := .up, version := 1 }, pathB := { st := .up, version := 1 }, role := .orphan, seq := 5 }),
  (fun s : State =>
    let path := false; let n := 3; decide (s.hingeTakes path = true) && decide (s.twin.role = .active) && decide (n ≤ s.twin.seq) &&
    decide (s.twin.acked ≤ n))
    (withTwin pairedS { hinge := .opened, pathA := { st := .up, version := 1 }, pathB := { st := .up, version := 1 }, role := .active, seq := 5, acked := 2, store := [(3, .latchMark 0 0), (4, .latchMark 0 0)] }),
  (fun s : State =>
    let path := false; let n := 6; let p := 1023; let v := (0xFFFFFFFFFFFF : Word); decide (s.hingeTakes path = true) &&
    decide (s.twin.role = .standby ∨ s.twin.role = .orphan ∨ s.twin.role = .demoted) && decide (s.dictRuns = true) &&
    decide (s.dict.landing = []) && decide (s.twin.hold = []) && decide (n = s.twin.seq + 1) && decide (p < 1024) &&
    decide (v.toNat < 2 ^ 48)) (wMirrorStream),
  (fun s : State =>
    let path := false; let n := 6; let p := 1023; let v := (0xFFFFFFFFFFFF : Word); decide (s.hingeTakes path = true) &&
    decide (s.twin.role = .standby ∨ s.twin.role = .orphan ∨ s.twin.role = .demoted) && decide (s.dictRuns = true) &&
    decide (s.dict.landing = []) && decide (s.twin.hold = []) && decide (n = s.twin.seq + 1) && decide (p < 1024) &&
    decide (v.toNat < 2 ^ 48))
    (withTwin pairedS { hinge := .opened, pathA := { st := .up, version := 1 }, pathB := { st := .up, version := 1 }, role := .demoted, seq := 5 }),
  (fun s : State =>
    let path := false; let p := 0; let n := 6; let tc := 2 ^ 40; let w := ({ tc := 2 ^ 40, start := 0, first := 9 } : Swap);
    decide (s.hingeTakes path = true) && decide (s.twin.role = .standby ∨ s.twin.role = .orphan ∨ s.twin.role = .demoted) &&
    decide (s.dictRuns = true) && decide (s.twin.hold = []) && decide (n = s.twin.seq + 1) && decide ((s.shut p).pend = some w) &&
    decide (w.latched = none)) (wMirrorStream1),
  (fun s : State =>
    let path := false; let p := 0; let n := 6; let tc := 0; let w := ({ tc := 2 ^ 40, start := 0, first := 9 } : Swap);
    decide (s.hingeTakes path = true) && decide (s.twin.role = .standby ∨ s.twin.role = .orphan ∨ s.twin.role = .demoted) &&
    decide (s.dictRuns = true) && decide (s.twin.hold = []) && decide (n = s.twin.seq + 1) && decide ((s.shut p).pend = some w) &&
    decide (w.latched = none)) (wMirrorStream1),
  (fun s : State =>
    let path := false; let n := 6; decide (s.hingeTakes path = true) &&
    decide (s.twin.role = .standby ∨ s.twin.role = .orphan ∨ s.twin.role = .demoted) && decide (s.dictRuns = true) &&
    decide (s.dict.landing = []) && decide (s.twin.hold = []) && decide (n = s.twin.seq + 1)) (wMirrorStream),
  (fun s : State =>
    let path := false; let n := 6; decide (s.hingeTakes path = true) &&
    decide (s.twin.role = .standby ∨ s.twin.role = .orphan ∨ s.twin.role = .demoted) && decide (s.dictRuns = true) &&
    decide (s.dict.landing = []) && decide (s.twin.hold = []) && decide (n = s.twin.seq + 1)) (wMirrorStream),
  (fun s : State =>
    decide (s.Ready) && decide (s.twin.role = .active))
    (withTwin pairedS { hinge := .opened, pathA := { st := .up, version := 1 }, pathB := { st := .up, version := 1 }, role := .active }),
  (fun s : State =>
    decide (s.twin.role = .active) && decide (s.twin.resync = .sending))
    (withTwin pairedS { hinge := .opened, pathA := { st := .up, version := 1 }, pathB := { st := .up, version := 1 }, role := .active, resync := .sending, lost := true })] id = true := by decide +kernel

theorem witness_Comparisons : List.all [
  (fun s : State =>
    let path := false; let r := ({ port := 1023, cycle := 4, sum := 8, count := 2, pn := {} } : ExpressRec);
    let o := ({ r := ({ port := 1023, cycle := 4, sum := 9, count := 2, pn := {} } : ExpressRec), at_ := 0 } : OwnRec);
    decide (s.hingeTakes path = true) && decide (r.port < 1024) && decide (s.regB 0x0700 0x10 = false) &&
    decide (s.twin.ownRecs.find? (fun o => o.r.port == r.port && o.r.cycle == r.cycle) = some o) && decide (o.done = false) &&
    decide (o.r.sum ≠ r.sum ∨ o.r.count ≠ r.count) && decide (r.pn.valid = false))
    (withTwin pairedS { hinge := .opened, pathA := { st := .up, version := 1 }, pathB := { st := .up, version := 1 }, role := .standby, ownRecs := [({ r := ({ port := 1023, cycle := 4, sum := 9, count := 2, pn := {} } : ExpressRec), at_ := 0 } : OwnRec)], peerHealthTick := some 0 }),
  (fun s : State =>
    let path := false; let r := ({ port := 1023, cycle := 4, sum := 8, count := 2, pn := {} } : ExpressRec);
    let o := ({ r := ({ port := 1023, cycle := 4, sum := 9, count := 2, pn := {} } : ExpressRec), at_ := 0 } : OwnRec);
    decide (s.hingeTakes path = true) && decide (r.port < 1024) && decide (s.regB 0x0700 0x10 = false) &&
    decide (s.twin.ownRecs.find? (fun o => o.r.port == r.port && o.r.cycle == r.cycle) = some o) && decide (o.done = false) &&
    decide (o.r.sum ≠ r.sum ∨ o.r.count ≠ r.count) && decide (r.pn.valid = false))
    (withTwin pairedS { hinge := .opened, pathA := { st := .up, version := 1 }, pathB := { st := .up, version := 1 }, role := .active, ownRecs := [({ r := ({ port := 1023, cycle := 4, sum := 9, count := 2, pn := {} } : ExpressRec), at_ := 0 } : OwnRec)], peerHealthTick := some 0 }),
  (fun s : State =>
    let path := false; let r := ({ port := 1023, cycle := 4, sum := 8, count := 2, pn := {} } : ExpressRec);
    let o := ({ r := ({ port := 1023, cycle := 4, sum := 9, count := 2, pn := {} } : ExpressRec), at_ := 0 } : OwnRec);
    decide (s.hingeTakes path = true) && decide (r.port < 1024) && decide (s.regB 0x0700 0x10 = false) &&
    decide (s.twin.ownRecs.find? (fun o => o.r.port == r.port && o.r.cycle == r.cycle) = some o) && decide (o.done = false) &&
    decide (o.r.sum ≠ r.sum ∨ o.r.count ≠ r.count) && decide (r.pn.valid = false))
    (withTwin pairedS { hinge := .opened, pathA := { st := .up, version := 1 }, pathB := { st := .up, version := 1 }, role := .active, ownRecs := [({ r := ({ port := 1023, cycle := 4, sum := 9, count := 2, pn := {} } : ExpressRec), at_ := 0 } : OwnRec)] }),
  (fun s : State =>
    let path := false; let r := ({ port := 1023, cycle := 4, sum := 8, count := 2, pn := {} } : ExpressRec);
    let o := ({ r := ({ port := 1023, cycle := 4, sum := 9, count := 2, pn := {} } : ExpressRec), at_ := 0 } : OwnRec);
    decide (s.hingeTakes path = true) && decide (r.port < 1024) && decide (s.regB 0x0700 0x10 = false) &&
    decide (s.twin.ownRecs.find? (fun o => o.r.port == r.port && o.r.cycle == r.cycle) = some o) && decide (o.done = false) &&
    decide (o.r.sum ≠ r.sum ∨ o.r.count ≠ r.count) && decide (r.pn.valid = false))
    (wFaultless (withTwin pairedS { hinge := .opened, pathA := { st := .up, version := 1 }, pathB := { st := .up, version := 1 }, role := .active, ownRecs := [({ r := ({ port := 1023, cycle := 4, sum := 9, count := 2, pn := {} } : ExpressRec), at_ := 0 } : OwnRec)], peerHealthTick := some 0 })),
  (fun s : State =>
    let dt := 1; let n := 3; decide (s.hingeRuns = true) && decide (((s.elapse dt).devTime - 2 ^ 20) / 2 ^ 24 = n + 1) &&
    decide (s.twin.bulkDone ≠ some n) && decide ((SMap.get {} s.twin.bulk 1023).peer = none))
    (with1023 (({ (withTwin pairedS { hinge := .opened, pathA := { st := .up, version := 1 }, pathB := { st := .up, version := 1 }, role := .active, bulk := [(1023, { frames := 5, octets := 6 })] }) with time := { pairedS.time with acc := BitVec.ofNat 116 ((2 ^ 20 + 4 * 2 ^ 24) * 2 ^ 32) } })) { st := .opened }),
  (fun s : State =>
    let path := false; let r := ({ port := 1023, interval := 3, frames := (2 ^ 48 - 1), octets := 1, pn := {} } : BulkRec);
    let o := ({ port := 1023, interval := 3, frames := 7, octets := 9, pn := {} } : BulkRec); decide (s.hingeTakes path = true) &&
    decide (r.port < 1024) && decide ((s.port r.port).st = .opened) && decide ((SMap.get {} s.twin.bulk r.port).own = some o) &&
    decide (o.interval = r.interval) && decide (o.port = r.port) && decide (r.frames < 2 ^ 48) && decide (r.octets < 2 ^ 48) &&
    decide ((SMap.get {} s.twin.bulk r.port).fresh = true))
    (with1023 (withTwin pairedS { hinge := .opened, pathA := { st := .up, version := 1 }, pathB := { st := .up, version := 1 }, role := .active, bulk := [(1023, { own := some ({ port := 1023, interval := 3, frames := 7, octets := 9, pn := {} } : BulkRec) })] }) { st := .opened }),
  (fun s : State =>
    let path := false; let r := ({ port := 1023, interval := 3, frames := 1, octets := 9, pn := {} } : BulkRec);
    let o := ({ port := 1023, interval := 3, frames := (2 ^ 40), octets := 9, pn := {} } : BulkRec);
    let b := SMap.get {} s.twin.bulk 1023; decide (s.hingeTakes path = true) && decide (r.port < 1024) &&
    decide ((s.port r.port).st = .opened) && decide (b = SMap.get {} s.twin.bulk r.port) && decide (b.own = some o) &&
    decide (o.interval = r.interval) && decide (o.port = r.port) && decide (b.fresh = false) &&
    decide (b.run + 1 = s.regN 0x0500 0x1C) &&
    decide (s.regN 0x0500 0x1A < (signed48 (o.frames + (2 ^ 49 - r.frames % 2 ^ 48 - b.baseF))).natAbs))
    (with1023 ((withTwin pairedS { hinge := .opened, pathA := { st := .up, version := 1 }, pathB := { st := .up, version := 1 }, role := .active, bulk := [(1023, { fresh := false, own := some ({ port := 1023, interval := 3, frames := (2 ^ 40), octets := 9, pn := {} } : BulkRec) })] }).setReg 0x0500 0x1C 1) { st := .opened })] id = true := by decide +kernel

theorem witness_SelfTest : List.all [
  (fun s : State =>
    let unit := 16; let bank := 65535; decide (s.isOn domStest = true) && decide (s.clocked = true) &&
    decide (s.regB 0x0500 0x30 = true) && decide (unit < 17) && decide (bank < 65536))
    ((withTwin pairedS { spares := 0x1FFFF }).setReg 0x0500 0x30 1),
  (fun s : State =>
    let unit := 16; let bank := 65535; decide (s.isOn domStest = true) && decide (s.clocked = true) &&
    decide (s.regB 0x0500 0x30 = true) && decide (unit < 17) && decide (bank < 65536))
    ((withTwin pairedS { spares := 0 }).setReg 0x0500 0x30 1),
  (fun s : State =>
    let unit := 16; decide (s.isOn domStest = true) && decide (s.clocked = true) && decide (s.regB 0x0500 0x30 = true) &&
    decide (unit < 17)) ((withTwin pairedS { spares := 0 }).setReg 0x0500 0x30 1),
  (fun s : State =>
    let c := 16; let u := 3; decide (c < 17) && decide (u < 4)) (wAll)] id = true := by decide +kernel

theorem witness_RingControl : List.all [
  (fun s : State =>
    let r := 0; decide (s.Ready) && decide (r < 256) && decide ((s.ring r).st = .closed))
    (((withRing wAll { cause := 3 }).setReg 0x0800 4 8).setReg 0x0800 9 0),
  (fun s : State =>
    let r := 0; decide (s.Ready) && decide (r < 256) && decide ((s.ring r).st = .closed))
    ((withRing wAll { cause := 3 }).setReg 0x0800 4 7),
  (fun s : State =>
    let r := 0; decide (s.Ready) && decide (r < 256) && decide ((s.ring r).st = .opened)) (withRing wAll { st := .opened }),
  (fun s : State =>
    let r := 0; decide ((s.ring r).st = .closing) && decide (s.ringIdle r = true) && decide ((s.ring r).enLatched ≠ some true))
    (withRing wAll { st := .closing }),
  (fun s : State =>
    let r := 0; decide ((s.ring r).st = .closing) && decide (s.ringIdle r = true) && decide ((s.ring r).enLatched = some true) &&
    decide (s.ringOk r = true)) (((withRing wAll { st := .closing, enLatched := some true }).setReg 0x0800 4 8).setReg 0x0800 9 0),
  (fun s : State =>
    let r := 0; let v := (7 : Word); decide (s.Ready) && decide (r < 256) && decide ((s.ring r).st = .opened) &&
    decide (v.toNat < s.ringSize r) && decide (v.toNat < 65536)) ((withRing wAll { st := .opened }).setReg 0x0800 4 8),
  (fun s : State =>
    let r := 0; let v := (3 : Word); decide (s.Ready) && decide (r < 256) && decide (v.toNat < 2 ^ 32)) (withRing wAll { cause := 7 })] id = true := by decide +kernel

theorem witness_DescriptorFrames : List.all [
  (fun s : State =>
    let dt := 1; let r := 0; let u := (((s.elapse 1).takeTurn 0).nextTx 0).2;
    let ds := (match ((s.elapse 1).takeTurn 0).nextTx 0 with | (.chain ds, _) => ds | _ => []);
    let d := (match ds with | d :: _ => d | _ => { v1 := false, addr := 0, aux := 0, ctrl := 0, status := 0 }); let rest := ds.tail;
    let x := (u.chainFrame 0 ds).1; let p := 0; decide (State.isTxRing r = true) && decide (r < 256) &&
    decide (s.regN (0x0800 + r) 5 = 0) && decide ((s.ring r).st = .opened) && decide (s.quarterRuns (r / 64) = true) &&
    decide ((s.elapse dt).mayGo r = true) &&
    decide ((match ((s.elapse 1).takeTurn 0).nextTx 0 with | (.chain _, _) => true | _ => false) = true) && decide (ds = d :: rest) &&
    decide (d.isFirst = true) && decide (x = (u.chainFrame r ds).1) && decide (14 ≤ x.length) && decide (x.length ≤ 16124) &&
    decide (p = s.regN (0x0800 + r) 9) && decide ((s.port p).st = .closed) && decide (s.isOn (domLane (p / 64)) = true))
    ((wRing 0 (2 ^ 40) (3 * 2 ^ 32 + 60) 0).setReg 0x0800 9 0),
  (fun s : State =>
    let dt := 1; let r := 0; let u := (((s.elapse 1).takeTurn 0).nextTx 0).2;
    let ds := (match ((s.elapse 1).takeTurn 0).nextTx 0 with | (.chain ds, _) => ds | _ => []);
    let d := (match ds with | d :: _ => d | _ => { v1 := false, addr := 0, aux := 0, ctrl := 0, status := 0 }); let rest := ds.tail;
    let x := (u.chainFrame 0 ds).1; let p := 0; decide (State.isTxRing r = true) && decide (r < 256) &&
    decide (s.regN (0x0800 + r) 5 = 0) && decide ((s.ring r).st = .opened) && decide (s.quarterRuns (r / 64) = true) &&
    decide ((s.elapse dt).mayGo r = true) &&
    decide ((match ((s.elapse 1).takeTurn 0).nextTx 0 with | (.chain _, _) => true | _ => false) = true) && decide (ds = d :: rest) &&
    decide (d.isFirst = true) && decide (x = (u.chainFrame r ds).1) && decide (14 ≤ x.length) && decide (x.length ≤ 16124) &&
    decide (p = s.regN (0x0800 + r) 9) && decide ((s.port p).st = .closed) && decide (s.isOn (domLane (p / 64)) = true))
    (withClRx ((wRing 0 (2 ^ 40) (3 * 2 ^ 32 + 60) 0).setReg 0x0800 9 0) { skid := [{ port := 0, metaWord := 0, bytes := [], fin := .good, reason := 0, reserve := 524288 }] }),
  (fun s : State =>
    let dt := 1; let r := 0; let u := (((s.elapse 1).takeTurn 0).nextTx 0).2;
    let ds := (match ((s.elapse 1).takeTurn 0).nextTx 0 with | (.chain ds, _) => ds | _ => []);
    let d := (match ds with | d :: _ => d | _ => { v1 := false, addr := 0, aux := 0, ctrl := 0, status := 0 }); let rest := ds.tail;
    let x := (u.chainFrame 0 ds).1; let p := 0; decide (State.isTxRing r = true) && decide (r < 256) &&
    decide (s.regN (0x0800 + r) 5 = 1) && decide ((s.ring r).st = .opened) && decide (s.quarterRuns (r / 64) = true) &&
    decide ((s.elapse dt).mayGo r = true) &&
    decide ((match ((s.elapse 1).takeTurn 0).nextTx 0 with | (.chain _, _) => true | _ => false) = true) && decide (ds = d :: rest) &&
    decide (d.isFirst = true) && decide ((ds.getLast?.map Desc.tsReq) = some false) && decide (x = (u.chainFrame r ds).1) &&
    decide (p = s.regN (0x0800 + r) 9) && decide ((s.port p).st = .opened))
    (withPort (((wRing 1 (2 ^ 40) (3 * 2 ^ 32 + 5 * 2 ^ 48 + 60) 0).setReg 0x0800 9 0).setReg 0x0800 0xB 60) { st := .opened }),
  (fun s : State =>
    let dt := 1; let r := 0; let u := (((s.elapse 1).takeTurn 0).nextTx 0).2;
    let ds := (match ((s.elapse 1).takeTurn 0).nextTx 0 with | (.chain ds, _) => ds | _ => []);
    let d := (match ds with | d :: _ => d | _ => { v1 := false, addr := 0, aux := 0, ctrl := 0, status := 0 }); let rest := ds.tail;
    let x := (u.chainFrame 0 ds).1; let p := 0; decide (State.isTxRing r = true) && decide (r < 256) &&
    decide (s.regN (0x0800 + r) 5 = 1) && decide ((s.ring r).st = .opened) && decide (s.quarterRuns (r / 64) = true) &&
    decide ((s.elapse dt).mayGo r = true) &&
    decide ((match ((s.elapse 1).takeTurn 0).nextTx 0 with | (.chain _, _) => true | _ => false) = true) && decide (ds = d :: rest) &&
    decide (d.isFirst = true) && decide ((ds.getLast?.map Desc.tsReq) = some false) && decide (x = (u.chainFrame r ds).1) &&
    decide (p = s.regN (0x0800 + r) 9) && decide ((s.port p).st = .opened))
    (withPort (((wRing 1 (2 ^ 40) (3 * 2 ^ 32 + 5 * 2 ^ 48 + 60) 0).setReg 0x0800 9 0).setReg 0x0800 0xB 59) { st := .opened })] id = true := by decide +kernel

theorem inWindow_none (a : Nat) (h : 2 ^ 27 ≤ (a + (2 ^ 64 - Config.windowBase.toNat)) % 2 ^ 64) : State.inWindow a = none := by
  simp [State.inWindow]
  exact h

/-- The dictionary window lies over at most one of these two stretches, wherever `Config.windowBase` is. -/
theorem outside_window (i j : Nat) (hi : i ≤ 8192) (hj : j ≤ 8192) :
    State.inWindow (2 ^ 40 + i) = none ∨ State.inWindow (2 ^ 41 + j) = none := by
  have hb := Config.windowBase.isLt
  by_cases h : Config.windowBase.toNat ≤ 2 ^ 40 + 2 ^ 28 ∧ 2 ^ 39 ≤ Config.windowBase.toNat
  · exact .inr (inWindow_none _ (by omega))
  · exact .inl (inWindow_none _ (by omega))

/-- The address hypotheses hold by `outside_window` at one of the two `a`. -/
theorem witness_MemoryDescriptors : [2 ^ 40, 2 ^ 41].all (fun a => List.all [
  (fun s : State =>
    let dt := 1; let r := 0; let d := (((s.elapse 1).fetchDesc 0).1.getD { v1 := false, addr := 0, aux := 0, ctrl := 0, status := 0 });
    let k := s.descAddr 0 0; decide (s.memoryRing r = true) && decide (s.dictRuns = true) && decide ((s.ring r).work = none) &&
    decide ((s.elapse dt).mayGo r = true) && decide ((((s.elapse 1).fetchDesc 0).1).isSome = true) && decide (d.flagsOk = true) &&
    decide (State.fixedBad d = false) && decide (d.srcFixed = false) && decide (d.dstFixed = false) &&
    decide (d.addr = a ∧ d.len ≤ 8192) && decide ((s.ring r).chains = []) && decide ((s.ring r).head = (s.ring r).fetch) &&
    decide ((s.ring r).fetch < s.ringSize r) && decide (k = s.descAddr r (s.ring r).fetch) && decide (d.opcode = 2))
    ((wRing 2 a (2 * 2 ^ 24 + 9) (a + 4096)).memWrite (a + 4096) [1, 2, 3, 4, 5, 6, 7, 8, 9]),
  (fun s : State =>
    let dt := 1; let r := 0; let d := (((s.elapse 1).fetchDesc 0).1.getD { v1 := false, addr := 0, aux := 0, ctrl := 0, status := 0 });
    let k := s.descAddr 0 0; decide (s.memoryRing r = true) && decide (s.dictRuns = true) && decide ((s.ring r).work = none) &&
    decide ((s.elapse dt).mayGo r = true) && decide ((((s.elapse 1).fetchDesc 0).1).isSome = true) && decide (d.flagsOk = true) &&
    decide (State.fixedBad d = false) && decide (d.srcFixed = false) && decide (d.dstFixed = false) &&
    decide (d.addr = a ∧ d.len ≤ 8192) && decide ((s.ring r).chains = []) && decide ((s.ring r).head = (s.ring r).fetch) &&
    decide ((s.ring r).fetch < s.ringSize r) && decide (k = s.descAddr r (s.ring r).fetch) && decide (d.opcode = 1) &&
    decide (d.aux.toNat = a + 4096 ∧ d.len ≤ 4096))
    ((wRing 2 a (1 * 2 ^ 24 + 9) (a + 4096)).memWrite (a + 4096) [1, 2, 3, 4, 5, 6, 7, 8, 9]),
  (fun s : State =>
    let dt := 1; let r := 0; let d := (((s.elapse 1).fetchDesc 0).1.getD { v1 := false, addr := 0, aux := 0, ctrl := 0, status := 0 });
    let k := s.descAddr 0 0; decide (s.memoryRing r = true) && decide (s.dictRuns = true) && decide ((s.ring r).work = none) &&
    decide ((s.elapse dt).mayGo r = true) && decide ((((s.elapse 1).fetchDesc 0).1).isSome = true) && decide (d.flagsOk = true) &&
    decide (State.fixedBad d = false) && decide (d.srcFixed = false) && decide (d.dstFixed = false) &&
    decide (d.addr = a ∧ d.len ≤ 8192) && decide ((s.ring r).chains = []) && decide ((s.ring r).head = (s.ring r).fetch) &&
    decide ((s.ring r).fetch < s.ringSize r) && decide (k = s.descAddr r (s.ring r).fetch) && decide (d.opcode = 3) &&
    decide (d.cmpBuf = false)) ((wRing 2 a (3 * 2 ^ 24 + 9) (a + 4096)).memWrite (a + 4096) [1, 2, 3, 4, 5, 6, 7, 8, 9]),
  (fun s : State =>
    let dt := 1; let r := 0; let d := (((s.elapse 1).fetchDesc 0).1.getD { v1 := false, addr := 0, aux := 0, ctrl := 0, status := 0 });
    let k := s.descAddr 0 0; let beats := 3; decide (s.memoryRing r = true) && decide (s.dictRuns = true) &&
    decide ((s.ring r).work = none) && decide ((s.elapse dt).mayGo r = true) && decide ((((s.elapse 1).fetchDesc 0).1).isSome = true) &&
    decide (d.flagsOk = true) && decide (State.fixedBad d = false) && decide (d.srcFixed = false) && decide (d.dstFixed = false) &&
    decide (d.addr = a ∧ d.len ≤ 8192) && decide ((s.ring r).chains = []) && decide ((s.ring r).head = (s.ring r).fetch) &&
    decide ((s.ring r).fetch < s.ringSize r) && decide (k = s.descAddr r (s.ring r).fetch) && decide (d.opcode = 2) &&
    decide (0 < beats) && decide (64 * beats < d.len))
    ((wRing 2 a (2 * 2 ^ 24 + 200) (a + 4096)).memWrite (a + 4096) [1, 2, 3, 4, 5, 6, 7, 8, 9])] id) = true := by decide +kernel

theorem witness_DmaReceive : List.all [
  (fun s : State =>
    let dt := 1; let r := 32; let f := wStaged; let i := 7; let d := s.readDesc 32 7; decide (s.quarterRuns (r / 64) = true) &&
    decide ((s.quarter (r / 64)).staged.find? (fun f => f.ring == r) = some f) && decide (f.count = 1) && decide (f.sent = 0) &&
    decide (f.rest = f.bytes) && decide (f.copy = none) && decide ((s.elapse dt).mayGo r = true) &&
    decide (i = f.first % s.ringSize r) && decide (d = s.readDesc r i) && decide (d.opcode = 0) && decide (d.flagsOk = true) &&
    decide (f.bytes.length ≤ d.len)) (wRxRing),
  (fun s : State =>
    let r := 255; decide (r < 256) && decide ((s.ring r).st = .opened) && decide (s.quarterRuns (r / 64) = true) &&
    decide ((s.ring r).idle = false) && decide ((s.ring r).fetch ≠ (s.ring r).tail))
    ({ wC with rings := [(255, { st := .opened, tail := 1, door := true })] }),
  (fun s : State =>
    let dt := 1; let r := 1; let o := 0; decide (o ∈ (s.elapse dt).rivals r) &&
    decide ((s.elapse dt).ringLevel r < (s.elapse dt).ringLevel o)) (wTwo),
  (fun s : State =>
    let dt := 1; let r := 1; let o := 0; decide (o ∈ (s.elapse dt).rivals r) &&
    decide ((s.elapse dt).ringLevel r < (s.elapse dt).ringLevel o)) (wTwo),
  (fun s : State =>
    let dt := 1; let r := 1; let o := 0; decide (o ∈ (s.elapse dt).rivals r) &&
    decide ((s.elapse dt).ringLevel r < (s.elapse dt).ringLevel o)) (wTwo),
  (fun s : State =>
    let dt := 1; let r := 1; let o := 0; decide (o ∈ (s.elapse dt).rivals r) &&
    decide ((s.elapse dt).ringLevel r < (s.elapse dt).ringLevel o)) (wTwo),
  (fun s : State =>
    let dt := 1; let r := 1; let o := 0; decide (o ∈ (s.elapse dt).rivals r) &&
    decide ((s.elapse dt).ringLevel r < (s.elapse dt).ringLevel o)) (wTwo),
  (fun s : State =>
    let dt := 1; let r := 1; let o := 0; decide (o ∈ (s.elapse dt).rivals r) &&
    decide ((s.elapse dt).ringLevel r < (s.elapse dt).ringLevel o)) (wTwo)] id = true := by decide +kernel

theorem witness_PowerDomains : List.all [
  (fun s : State =>
    let n := 63; let v := (0 : Word); decide (s.Ready) && decide (n < 80) && decide (n ≠ domAO) && decide (v = 0 ∨ v = 1 ∨ v = 3) &&
    decide (s.domainOk n (Pwr.ofCode v.toNat) = true)) (wAll),
  (fun s : State =>
    let n := 63; let v := (1 : Word); decide (s.Ready) && decide (n < 80) && decide (n ≠ domAO) && decide (v = 0 ∨ v = 1 ∨ v = 3) &&
    decide (s.domainOk n (Pwr.ofCode v.toNat) = true)) (wAll),
  (fun s : State =>
    let n := 63; let v := (3 : Word); decide (s.Ready) && decide (n < 80) && decide (n ≠ domAO) && decide (v = 0 ∨ v = 1 ∨ v = 3) &&
    decide (s.domainOk n (Pwr.ofCode v.toNat) = true)) (wAll),
  (fun s : State =>
    let dt := 2 ^ 21; let n := 63; let l := ({ via := .window, eff := .obj 0x0300 (0x40 + 63) 3, tick := 0 } : Landing);
    decide (s.dictRuns = true) && decide (s.dict.landing = [l]) && decide (l.eff = .obj 0x0300 (0x40 + n) 3) &&
    decide (l.tick = s.time.ticks) && decide (2 ^ 21 ≤ (s.elapse dt).time.tickAt) && decide (s.regB 0x0700 0x10 = false) &&
    decide (n < 80) && decide (n ≠ domAO) && decide ((s.dom n).ack ≠ .on) && decide ((s.dom n).phase = .idle) &&
    decide ((s.dom n).pin = (s.dom n).ack) && decide ((s.dom domTime).phase = .idle))
    (withDict (withDom wAll 63 {}) { landing := [({ via := .window, eff := .obj 0x0300 (0x40 + 63) 3, tick := 0 } : Landing)] }),
  (fun s : State =>
    let n := 63; let v := (0 : Word); let goal := Pwr.off;
    let l := ({ via := .window, eff := .obj 0x0300 (0x40 + 63) 0, tick := 0 } : Landing); decide (s.dictRuns = true) &&
    decide (s.dict.landing = [l]) && decide (l.eff = .obj 0x0300 (0x40 + n) v) && decide (1 ≤ s.ticksWaited l) && decide (n < 64) &&
    decide (s.mayLeave n = true) && decide ((s.dom n).ack = .on) && decide ((s.dom n).pin = .on) && decide ((s.dom n).phase = .idle) &&
    decide ((v = 0 ∧ goal = Pwr.off) ∨ (v = 1 ∧ goal = Pwr.retain)))
    (withDict (wOn (wAll)) { landing := [({ via := .window, eff := .obj 0x0300 (0x40 + 63) 0, tick := 0 } : Landing)] }),
  (fun s : State =>
    let n := 0; let v := (1 : Word); let goal := Pwr.retain;
    let l := ({ via := .window, eff := .obj 0x0300 (0x40 + 0) 1, tick := 0 } : Landing); decide (s.dictRuns = true) &&
    decide (s.dict.landing = [l]) && decide (l.eff = .obj 0x0300 (0x40 + n) v) && decide (1 ≤ s.ticksWaited l) && decide (n < 64) &&
    decide (s.mayLeave n = true) && decide ((s.dom n).ack = .on) && decide ((s.dom n).pin = .on) && decide ((s.dom n).phase = .idle) &&
    decide ((v = 0 ∧ goal = Pwr.off) ∨ (v = 1 ∧ goal = Pwr.retain)))
    (withDict (wOn (wAll)) { landing := [({ via := .window, eff := .obj 0x0300 (0x40 + 0) 1, tick := 0 } : Landing)] }),
  (fun s : State =>
    let n := 0; let v := (1 : Word); let goal := Pwr.retain;
    let l := ({ via := .window, eff := .obj 0x0300 (0x40 + 0) 1, tick := 0 } : Landing); decide (s.dictRuns = true) &&
    decide (s.dict.landing = [l]) && decide (l.eff = .obj 0x0300 (0x40 + n) v) && decide (1 ≤ s.ticksWaited l) && decide (n < 64) &&
    decide (s.mayLeave n = true) && decide ((s.dom n).ack = .on) && decide ((s.dom n).pin = .on) && decide ((s.dom n).phase = .idle) &&
    decide ((v = 0 ∧ goal = Pwr.off) ∨ (v = 1 ∧ goal = Pwr.retain)))
    (withDict (wOn (withClRx wAll { skid := [wSkid 65 0 false] })) { landing := [({ via := .window, eff := .obj 0x0300 (0x40 + 0) 1, tick := 0 } : Landing)] }),
  (fun s : State =>
    let n := 0; let v := (1 : Word); decide (s.Ready) && decide (n < 80) && decide (n ≠ domAO) && decide (s.mayLeave n = false) &&
    decide ((s.dom n).ack = .on) && decide ((s.dom n).phase = .idle) && decide (v = 0 ∨ v = 1)) (wC),
  (fun s : State =>
    let n := 0; let v := (0 : Word); decide (s.Ready) && decide (n < 80) && decide (n ≠ domAO) && decide (s.mayLeave n = false) &&
    decide ((s.dom n).ack = .on) && decide ((s.dom n).phase = .idle) && decide (v = 0 ∨ v = 1)) (wC),
  (fun s : State =>
    let n := 63; decide (n < 64) && decide ((s.dom n).phase = .switching) && decide ((s.dom n).latched = none) &&
    decide ((s.dom n).pin ≠ (s.dom n).ack) && decide (s.clocked = true) && decide (s.power.boot = .ready) &&
    decide (s.power.sequencer = .rest) && decide (s.power.waiting = none) && decide (s.regB 0x0700 0x10 = false))
    (withDom wAll 63 { onDom with pin := .off, phase := .switching }),
  (fun s : State =>
    let n := 63; decide (n < 64) && decide ((s.dom n).phase = .switching) && decide ((s.dom n).latched = none) &&
    decide ((s.dom n).pin ≠ (s.dom n).ack) && decide (s.clocked = true) && decide (s.power.boot = .ready) &&
    decide (s.power.sequencer = .rest) && decide (s.power.waiting = none) && decide (s.regB 0x0700 0x10 = false))
    (withDom wAll 63 { pin := .on, phase := .switching }),
  (fun s : State =>
    let n := 63; decide (n < 80) && decide (n ≠ domAO) && decide (n ≠ domTime) && decide ((s.dom n).phase = .switching) &&
    decide ((s.dom n).pin = .on) && decide ((s.dom n).ack ≠ .on) && decide ((s.dom n).isolated = true) && decide (s.clocked = false))
    (withDom (withTime wAll { wAll.time with pllLocked := false }) 63 { pin := .on, phase := .switching }),
  (fun s : State =>
    let n := 79; let dt := 12800; decide (n ≠ domAO) && decide ((s.dom n).phase = .switching) &&
    decide ((s.dom n).pin ≠ (s.dom n).ack) && decide (s.power.waiting = none) && decide (s.regB 0x0700 0x10 = false) &&
    decide ((s.dom n).began + (if (s.dom n).pin = .on ∧ (s.dom n).fromOff = false then 12800 else 256000) ≤ s.power.clock + dt))
    (withDom wAll 79 { pin := .on, phase := .switching }),
  (fun s : State =>
    let n := 79; let dt := 256000; decide (n ≠ domAO) && decide ((s.dom n).phase = .switching) &&
    decide ((s.dom n).pin ≠ (s.dom n).ack) && decide (s.power.waiting = none) && decide (s.regB 0x0700 0x10 = false) &&
    decide ((s.dom n).began + (if (s.dom n).pin = .on ∧ (s.dom n).fromOff = false then 12800 else 256000) ≤ s.power.clock + dt))
    (withDom wAll 79 { pin := .on, phase := .switching, fromOff := true }),
  (fun s : State =>
    let n := 79; let dt := 12799;
    decide (s.power.clock + dt < (s.dom n).began + (if (s.dom n).pin = .on ∧ (s.dom n).fromOff = false then 12800 else 256000)))
    (withDom wAll 79 { pin := .on, phase := .switching })] id = true := by decide +kernel

theorem witness_ClusterOpenClose : List.all [
  (fun s : State =>
    let c := 15; decide (s.Ready) && decide (c < 16) && decide ((s.clp c).st = .closed) && decide (s.keys.adopted = true))
    (withKeys wAll { adopted := true }),
  (fun s : State =>
    let c := 15; decide (s.Ready) && decide (c < 16) && decide ((s.clp c).st = .closed) && decide (s.keys.adopted = true))
    (withKeys (withDom wAll 63 {}) { adopted := true }),
  (fun s : State =>
    let c := 15; decide (s.Ready) && decide (c < 16) && decide ((s.clp c).st = .closed) && decide (s.keys.adopted = false)) (wAll),
  (fun s : State =>
    let c := 0; decide (s.Ready) && decide (c < 16) && decide ((s.clp c).st = .opened)) (wP),
  (fun s : State =>
    let c := 0; decide (c < 16) && decide ((s.clp c).st = .closing) && decide (s.clusterDone c = true) &&
    decide ((s.clp c).enLatched ≠ some true)) (withClp wAll { st := .closing }),
  (fun s : State =>
    let c := 0; decide (c < 16) && decide ((s.clp c).st = .closing) && decide (s.clusterDone c = true) &&
    decide ((s.clp c).enLatched = some true)) (withClp wAll { st := .closing, enLatched := some true })] id = true := by decide +kernel

theorem witness_ListenAndSleep : List.all [
  (fun s : State =>
    let c := 0; decide (s.Ready) && decide (c < 16) && decide ((s.clp c).st = .opened) && decide ((s.clp c).night = .awake))
    (withPort wC { timers := [(8, some 1)] }),
  (fun s : State =>
    let c := 15; decide (s.Ready) && decide (c < 16) && decide ((s.clp c).st ≠ .opened) && decide (s.regB 0x0700 0x10 = false)) (wAll),
  (fun s : State =>
    let c := 0; decide (c < 16) && decide ((s.clp c).night = .entering) && decide ((s.clp c).st = .opened) &&
    decide (s.clusterEmpty c = true) && decide ((s.clp c).wakeLatched = false) && decide (s.regB 0x0700 0x10 = false))
    (withClp wAll { st := .opened, night := .entering }),
  (fun s : State =>
    let c := 0; decide (s.Ready) && decide (c < 16) && decide ((s.clp c).night = .listen))
    ((withClp wAll { st := .opened, night := .listen }).setReg 0x2000 3 1),
  (fun s : State =>
    decide (s.Ready) && decide (s.sleepOk = true) && decide (s.regB 0x0700 0x10 = false)) (State.reset),
  (fun s : State =>
    let id := wId; decide (s.power.boot = .sleep) && decide (id / 2 ^ 22 % 16 = 1) && decide (id / 2 ^ 15 % 128 = s.regN 0x0200 1) &&
    decide ((s.dom domTime).ack ≠ .on) && decide ((s.dom domTime).phase = .idle) && decide ((s.dom domTime).held = false))
    ((fun s : State => { s with power := { s.power with boot := .sleep } }) ((withDom State.reset domTime {}).setReg 0x0200 1 64)),
  (fun s : State =>
    let id := wId; decide (s.power.boot = .sleep) && decide (id / 2 ^ 15 % 128 ≠ s.regN 0x0200 1))
    ((fun s : State => { s with power := { s.power with boot := .sleep } }) ((withDom State.reset domTime {}).setReg 0x0200 1 63))] id = true := by decide +kernel

theorem witness_Resets : List.all [
  (fun s : State =>
    decide (s.Ready) && decide (s.power.waiting = none) && decide (s.power.sequencer = .rest) &&
    decide ((s.power.doms.any fun e => e.2.phase != .idle) = false)) (wP),
  (fun s : State =>
    decide (s.Ready) && decide (s.power.waiting = none) && decide (s.power.sequencer = .rest) &&
    decide ((s.power.doms.any fun e => e.2.phase != .idle) = false)) (wP),
  (fun s : State =>
    let c := 0; decide (s.Ready) && decide (s.power.waiting = none) && decide (s.power.sequencer = .rest) &&
    decide ((s.power.doms.any fun e => e.2.phase != .idle) = false) && decide (c < 16)) (withClRx wP { alerts := [7] }),
  (fun s : State =>
    let c := 15; decide (s.Ready) && decide (s.power.waiting = none) && decide (s.power.sequencer = .rest) &&
    decide ((s.power.doms.any fun e => e.2.phase != .idle) = false) && decide (c < 16)) (wP),
  (fun s : State =>
    let p := 0; decide (s.Ready) && decide (s.power.waiting = none) && decide (s.power.sequencer = .rest) &&
    decide ((s.power.doms.any fun e => e.2.phase != .idle) = false) && decide (p < 1024)) (wP),
  (fun s : State =>
    let p := 1023; decide (s.Ready) && decide (s.power.waiting = none) && decide (s.power.sequencer = .rest) &&
    decide ((s.power.doms.any fun e => e.2.phase != .idle) = false) && decide (p < 1024)) (wP),
  (fun s : State =>
    decide (s.Ready) && decide (s.power.waiting = none) && decide (s.power.sequencer = .rest) &&
    decide ((s.power.doms.any fun e => e.2.phase != .idle) = false)) (wP)] id = true := by decide +kernel

theorem witness_PowerOnReset : List.all [
  (fun s : State =>
    decide (s.power.porN = false)) (withPower State.reset { porN := false }),
  (fun s : State =>
    decide (s.power.sequencer = .up) && decide (s.power.boot = .ao) && decide (s.power.waiting = none) &&
    decide ((s.dom domTime).ack = .on) && decide ((s.dom domTime).phase = .restoring) && decide ((s.dom domTime).latched = none) &&
    decide (s.time.pllLocked = false) &&
    decide (((List.range 80).all fun n => n == domTime || decide ((s.dom n).phase = .idle ∧ (s.dom n).held = false ∧ (s.dom n).ack ≠ .on)) = true))
    (withPower { wAll with time := {} } { sequencer := .up, doms := [(domTime, { pin := .on, ack := .on, phase := .restoring })] }),
  (fun s : State =>
    let n := domKeys; decide (n = domDict ∨ n = domEvt ∨ n = domKeys ∨ n = domTrng) && decide (s.power.sequencer = .up) &&
    decide (s.power.boot = .time) && decide (s.power.waiting = none) && decide (s.clocked = true) &&
    decide (s.regB 0x0700 0x10 = false) && decide ((s.dom n).phase = .switching) && decide ((s.dom n).pin = .on) &&
    decide ((s.dom n).ack ≠ .on) && decide ((s.dom n).latched = none) &&
    decide (([domDict, domEvt, domKeys, domTrng].all fun m => m == n || decide (s.isOn m = true ∧ (s.dom m).phase = .idle)) = true))
    (withDom (withPower wAll { wAll.power with sequencer := .up, boot := .time, cold := none }) domKeys { pin := .on, phase := .switching }),
  (fun s : State =>
    let n := domKeys; decide (n = domDict ∨ n = domEvt ∨ n = domKeys ∨ n = domTrng) && decide (s.power.sequencer = .up) &&
    decide (s.power.boot = .time) && decide (s.power.waiting = none) && decide (s.clocked = true) &&
    decide (s.regB 0x0700 0x10 = false) && decide ((s.dom n).phase = .switching) && decide ((s.dom n).pin = .on) &&
    decide ((s.dom n).ack ≠ .on) && decide ((s.dom n).latched = none) &&
    decide (([domDict, domEvt, domKeys, domTrng].all fun m => m == n || decide (s.isOn m = true ∧ (s.dom m).phase = .idle)) = true))
    (withDom (withPower wAll { wAll.power with sequencer := .up, boot := .time, cold := some { kind := 0, target := 0, source := 2 } }) domKeys { pin := .on, phase := .switching }),
  (fun s : State =>
    let n := domEvt; decide (n < 80) && decide (n ≠ domAO) && decide (n ≠ domTime) && decide (s.power.sequencer = .down) &&
    decide (s.power.boot = .ao) && decide (s.power.waiting = none) && decide (SMap.rising s.power.doms = true) &&
    decide ((s.dom n).phase = .switching) && decide ((s.dom n).pin = .off) && decide ((s.dom n).ack ≠ .off) &&
    decide ((s.dom n).latched = none) &&
    decide (((List.range 80).all fun m => m == n || m == domTime || decide ((s.dom m).ack = .off)) = true) &&
    decide ((s.dom domTime).ack = .on) && decide ((s.dom domTime).phase = .idle))
    (withPower wAll { sequencer := .down, doms := SMap.set {} (SMap.set {} [] domTime domainOn) domEvt { domainOn with pin := .off, phase := .switching } }),
  (fun s : State =>
    decide (s.power.sequencer = .down) && decide (s.power.boot = .ao) && decide (s.power.waiting = none) &&
    decide (SMap.rising s.power.doms = true) && decide ((s.dom domTime).phase = .switching) && decide ((s.dom domTime).pin = .off) &&
    decide ((s.dom domTime).ack ≠ .off) && decide ((s.dom domTime).latched = none) && decide ((s.dom domTime).held = false) &&
    decide (((List.range 80).all fun m => m == domTime || decide ((s.dom m).ack = .off)) = true))
    (withPower wAll { sequencer := .down, doms := SMap.set {} (SMap.set {} [] domTime { domainOn with pin := .off, phase := .switching }) domEvt {} })] id = true := by decide +kernel

theorem witness_WindowAccess : List.all [
  (fun s : State =>
    decide (s.dictRuns = true)) (wP)] id = true := by decide +kernel

theorem witness_StepOutOfRange : List.all [
  (fun s : State =>
    let dt := 1; let v := (BitVec.ofInt 64 (-(2 ^ 62)) : Word); decide (s.Ready) && decide (-(2 ^ 62) ≤ v.toInt) &&
    decide (v.toInt ≤ 2 ^ 62) && decide ((s.elapse dt).stepFits v.toInt = false)) (wAll)] id = true := by decide +kernel

/-- The last hypothesis of the clause on INIT_ADOPT holds of its witness above. -/
theorem witness_IdentityAndEntropy_check :
    (withKeys wAll { adoptCheck := identityCheck identityPub }).keys.adoptCheck = identityCheck identityPub := rfl

end Sys2Proof.Tests
end

