-- ==== Sys2Proof/Proofs/WindowAccess.lean ====
section
namespace Sys2Proof.Machine
open State

/-! ### A window access of a wrong form (R37) -/

theorem elapse_settings (s : State) (dt : Nat) : (s.elapse dt).time.settings = s.time.settings := by
  unfold elapse timeAfter TimeUnit.settings
  dsimp only
  split
  · rfl
  · split <;> rfl

theorem same_of_beside {s t : State} (h : t.Beside s) (hr : t.regs = s.regs) (x : Part) : x.Same s t := by
  cases x
  case objects => intro i u _; unfold reg; rw [hr]
  case time => exact congrArg _ h.time.symm
  case rows => exact h.rows.symm
  case past => exact h.past.symm
  case dict => exact h.dict.symm
  case keys => exact h.keys.symm
  case masks => exact h.masks.symm
  case laneLock => exact h.laneLock.symm
  case portRx => exact h.portRx.symm
  case clusterRx => exact h.clusterRx.symm
  case clusterTx => exact h.clusterTx.symm
  case portTx => exact h.portTx.symm
  case shutters => exact h.shutters.symm
  case rings => exact h.rings.symm
  case quarters => exact h.quarters.symm
  case twin => exact h.twin.symm
  case mem => exact h.mem.symm

theorem same_elapse (s : State) (dt : Nat) (x : Part) : x.Same s (s.elapse dt) := by
  cases x
  case time => exact (elapse_settings s dt).symm
  case objects => exact fun _ _ _ => rfl
  all_goals rfl

theorem same_emit (s : State) (o : Output) (x : Part) : x.Same s (s.emit o) := by
  cases x
  case objects => exact fun _ _ _ => rfl
  all_goals rfl

theorem Part.Same.trans {s t u : State} {x : Part} (h : x.Same s t) (k : x.Same t u) : x.Same s u := by
  cases x
  case objects => exact fun i j hm => (h i j hm).trans (k i j hm)
  all_goals exact Eq.trans h k

/-- Settles O57: the access bumps one counter and answers; every other part passes through `bump`, `emit` and the time untouched. -/
theorem windowAccess : Obligations.WindowAccess := by
  intro dt s hr
  have hm : (s.elapse dt).misaligned = ((s.elapse dt).bump 0x0200 0x0F).emit .windowError :=
    if_pos (by rw [elapse_dictRuns, hr])
  refine answers_next (t := (s.elapse dt).misaligned) ?_
  rw [hm]
  refine ⟨by simp, ctr_bumpRow (s.elapse dt) 0x0200 0x0F 0 1, fun i u r h => ctr_bumpRow_ne (s.elapse dt) _ _ _ _ _ _ _ h, ?_,
    by simp, by simp, by simp, by simp⟩
  intro x
  exact ((same_elapse s dt x).trans (same_of_beside (bump_beside (.refl _)) (bump_regs ..) x)).trans (same_emit _ _ x)

end Sys2Proof.Machine
end

