-- ==== Sys2Proof/Proofs/SwingPins.lean ====
section
namespace Sys2Proof.Machine
open State

/-! ### The swing's pins (R44, R427, R431, R453) -/

/-- What the swing's pins and the role become with role `r`. -/
def TwinUnit.withRole (t : TwinUnit) (r : Role) : TwinUnit :=
  { t with role := r, alive := t.alive && r == .active, release := r == .demoted || (t.release && t.selMine && r != .active),
           request := t.request && (r == .standby || r == .orphan) }

theorem setRole_twin (s : State) (r : Role) (h : r ≠ s.twin.role) : (s.setRole r).twin = s.twin.withRole r := by
  unfold setRole
  dsimp only
  rw [if_neg h, raise_twin]
  have bump_ite : ∀ (c : Prop) [Decidable c] (x : State) (i u : Nat), (if c then x.bump i u else x).twin = x.twin := by
    intro c _ x i u; split
    · exact bump_twin ..
    · rfl
  rw [bump_ite, bump_ite]; rfl

/-- ORPHAN and STANDBY swap, or the role stays; the pins of a complex without a request are not moved. -/
theorem settleStep_pins (s : State) : s.settleStep.twin.peerAlive = s.twin.peerAlive ∧
    (s.twin.request = false → s.settleStep.twin.request = false) := by
  unfold settleStep
  cases hr : s.twin.role <;> dsimp only
  case orphan =>
    split
    · rw [setRole_twin s _ (by simp [hr])]; simp +contextual [TwinUnit.withRole]
    · simp
  case standby =>
    split
    · simp
    · rw [setRole_twin s _ (by simp [hr])]; simp +contextual [TwinUnit.withRole]
  all_goals simp

/-- What a toggle of peer_alive answers (R44, R453): the second one while the request is up lowers it. -/
theorem peerAliveToggle_eq (dt : Nat) (s : State) : execPeerAliveToggle dt s =
    let u := (s.elapse dt).updTwin fun t => { t with peerAlive := !t.peerAlive, peerAliveAt := (s.elapse dt).runTime, toggles := if t.request then t.toggles + 1 else t.toggles }
    if s.twin.request ∧ 2 ≤ (if s.twin.request then s.twin.toggles + 1 else s.twin.toggles) then
      .next ((u.updTwin fun t => { t with request := false, toggles := 0 }).settleStep) else .next u := rfl

/-- Settles O41: one pin, one guard at a time, by the guard's two answers. -/
theorem swingPins : Obligations.SwingPins := by
  refine ⟨?toggles, ?stays, ?timeout, ?quiet, ?first, ?second, ?demoting⟩
  case toggles =>
    intro dt s hr ht
    exact answers_pos (c := (s.elapse dt).twin.role = .active ∧ _) ⟨hr, ht⟩ (answers_next ⟨rfl, rfl⟩)
  case stays =>
    intro dt s hr
    exact answers_neg (c := (s.elapse dt).twin.role = .active ∧ _) (fun h => hr h.1) (answers_next rfl)
  case timeout =>
    intro dt s hr hm hq ht
    refine answers_pos ⟨hr, ?_, ?_, ht⟩ (answers_next ⟨rfl, rfl, rfl⟩)
    · simp [hm]
    · simp [hq]
  case quiet =>
    intro dt s hq
    change Answers (execPeerAliveToggle dt s) _
    rw [peerAliveToggle_eq]
    exact answers_neg (by simp [hq]) (answers_next ⟨rfl, rfl, hq, rfl⟩)
  case first =>
    intro dt s hq ht
    change Answers (execPeerAliveToggle dt s) _
    rw [peerAliveToggle_eq]
    exact answers_neg (by simp [hq, ht]) (answers_next ⟨hq, by simp [updTwin, hq, ht]⟩)
  case second =>
    intro dt s hq ht
    change Answers (execPeerAliveToggle dt s) _
    rw [peerAliveToggle_eq]
    refine answers_pos (by simp [hq, ht]) (answers_next ⟨(settleStep_pins _).2 rfl, ?_⟩)
    rw [(settleStep_pins _).1]; rfl
  case demoting =>
    intro dt path s hp hr
    have hp' : (s.elapse dt).hingeTakes path = true := by
      rw [← hp]; simp [hingeTakes, pathUp, State.path]
    exact answers_pos ⟨hp', hr⟩ (answers_next ⟨rfl, rfl⟩)

end Sys2Proof.Machine
end

