-- ==== Sys2Proof/Proofs/SkidSends.lean ====
section
namespace Sys2Proof.Machine
open State

/-! ### The ingress skid (R25, R27) -/

/-- The next segment of a frame in the skid ends it. -/
def SkidFrame.endsNext (f : SkidFrame) : Bool := !f.growing && decide (f.bytes.length ≤ f.sent + 64)

/-- The next segment of a frame in the skid (R25). -/
def SkidFrame.nextSegment (f : SkidFrame) : Segment :=
  { port := f.port, data := slice f.bytes f.sent (min 64 (f.bytes.length - f.sent)), sof := f.sent == 0, eof := f.endsNext,
    fin := if f.endsNext then f.fin else .good, reason := if f.endsNext then f.reason else 0,
    metaWord := if f.sent = 0 then f.metaWord else 0 }

theorem skidPop_none {s : State} {c : Nat} (h : ∀ f ∈ (s.clRx c).skid, canSend f = false) : s.skidPop c = none := by
  unfold skidPop
  dsimp only
  rw [List.find?_eq_none.mpr (by simpa using h)]

theorem peepDelivered_out (s : State) (c k n : Nat) : (s.peepDelivered c k n).out = s.out :=
  (bumpRow_beside (.refl s)).out

theorem peepDelivered_skid (s : State) (c k n : Nat) : ((s.peepDelivered c k n).clRx c).skid = (s.clRx c).skid := by
  unfold peepDelivered
  rw [clRx_updClRx, (bumpRow_beside (.refl s)).clRx]

/-- A segment that leaves the skid puts nothing on an interface yet. -/
theorem skidPop_out {s t : State} {c : Nat} {seg : Segment} (h : s.skidPop c = some (seg, t)) : t.out = s.out := by
  unfold skidPop at h
  dsimp only at h
  split at h
  · exact absurd h (by simp)
  · obtain ⟨-, rfl⟩ := Prod.mk.inj (Option.some.inj h)
    split
    · split
      · exact peepDelivered_out ..
      · rfl
    · rfl

theorem skidSend_out (c n : Nat) (s : State) : (State.skidSend c n s).2.out = s.out := by
  induction n generalizing s with
  | zero => rfl
  | succ n ih =>
    unfold State.skidSend
    split
    · rfl
    · next seg t h => exact (ih t).trans (skidPop_out h)

/-- The oldest frame of the skid can leave: its next segment is taken, and with its end the frame. -/
theorem skidPop_head {s : State} {c : Nat} {f : SkidFrame} {rest : List SkidFrame} (h : (s.clRx c).skid = f :: rest)
    (hc : canSend f = true) : ∃ t, s.skidPop c = some (f.nextSegment, t) ∧ (f.endsNext = true → (t.clRx c).skid = rest) := by
  unfold skidPop
  simp only [h, List.find?_cons, hc]
  refine ⟨_, rfl, fun he => ?_⟩
  have he' : (!f.growing && decide (f.bytes.length ≤ f.sent + 64)) = true := he
  simp only [he', if_true]
  split
  · rw [peepDelivered_skid, clRx_updClRx]; simp [hc]
  · rw [clRx_updClRx]; simp [hc]

theorem nextSegment_middle {f : SkidFrame} (h : f.sent + 64 < f.bytes.length) :
    f.nextSegment = { port := f.port, data := slice f.bytes f.sent 64, sof := f.sent == 0, eof := false, fin := .good, reason := 0,
                      metaWord := if f.sent = 0 then f.metaWord else 0 } := by
  have hm : min 64 (f.bytes.length - f.sent) = 64 := by omega
  have he : f.endsNext = false := by simp [SkidFrame.endsNext]; omega
  simp [SkidFrame.nextSegment, hm, he]

/-- The state in which the skid is looked at: the time has passed and ing_ready is taken. -/
def State.atSkid (s : State) (dt c : Nat) (ready : Bool) : State := (s.elapse dt).updClRx c fun q => { q with ingReady := ready }

theorem atSkid_skid (s : State) (dt c : Nat) (ready : Bool) : ((s.atSkid dt c ready).clRx c).skid = (s.clRx c).skid := by
  rw [atSkid, clRx_updClRx]; rfl

theorem ingressSkidSend_eq (dt c n : Nat) (ready : Bool) (s : State) :
    execIngressSkidSend dt c n ready s =
      if !ready || !s.laneRuns c then .next (s.atSkid dt c ready)
      else
        let x := State.skidSend c (min n 16) (s.atSkid dt c ready)
        let t := if x.1.isEmpty then x.2 else x.2.emit (.ingress c x.1)
        let d := t.dom (domLane c)
        .next (if d.phase = .closing ∧ (t.clRx c).skid.isEmpty then t.beginSwitch (domLane c) d.goal else t) := by
  rw [← elapse_laneRuns s dt c]; rfl

/-- With ing_ready high and LANE running, what can leave is put on the ingress interface. -/
theorem ingressSkidSend_ready (dt c n : Nat) {s : State} (h : s.laneRuns c = true) :
    Answers (execIngressSkidSend dt c n true s) fun t =>
      let x := State.skidSend c (min n 16) (s.atSkid dt c true)
      t.out = (if x.1.isEmpty then [] else [.ingress c x.1]) ∧ (t.clRx c).skid = (x.2.clRx c).skid := by
  rw [ingressSkidSend_eq, if_neg (by simp [h])]
  have ho := skidSend_out c (min n 16) (s.atSkid dt c true)
  generalize State.skidSend c (min n 16) (s.atSkid dt c true) = x at ho ⊢
  have he : (x.2.emit (.ingress c x.1)).out = [.ingress c x.1] := by rw [emit_outs, ho]; rfl
  refine answers_next ?_
  dsimp only
  cases x.1.isEmpty
  · simp only [Bool.false_eq_true, if_false]
    split <;> exact ⟨he, rfl⟩
  · simp only [if_true]
    split <;> exact ⟨ho, rfl⟩

/-- Settles O11: what the head of the skid gives is its next segment, and what is not ready gives none. -/
theorem skidSends : Obligations.SkidSends := by
  refine ⟨?middle, ?last, ?growing, ?still⟩
  case middle =>
    intro dt c n f rest s hn hr hs hl
    obtain ⟨t, ht, hout, -⟩ := ingressSkidSend_ready dt c n hr
    obtain ⟨u, hp, -⟩ := skidPop_head (s := s.atSkid dt c true) ((atSkid_skid ..).trans hs) (by simp [canSend]; omega)
    obtain ⟨k, hk⟩ : ∃ k, min n 16 = k + 1 := ⟨min n 16 - 1, by omega⟩
    refine ⟨t, ht, (State.skidSend c k u).1, ?_⟩
    rw [hout, hk, State.skidSend, hp, nextSegment_middle hl]
    simp
  case last =>
    intro dt c f s hr hs hl hg
    obtain ⟨t, ht, hout, hskid⟩ := ingressSkidSend_ready dt c 1 hr
    have he : f.endsNext = true := by simp [SkidFrame.endsNext, hg, hl]
    obtain ⟨u, hp, hu⟩ := skidPop_head (s := s.atSkid dt c true) ((atSkid_skid ..).trans hs) (by simp [canSend, hg])
    have hx : State.skidSend c 1 (s.atSkid dt c true) = ([f.nextSegment], u) := by rw [State.skidSend, hp]; rfl
    have hm : min 64 (f.bytes.length - f.sent) = f.bytes.length - f.sent := by omega
    refine ⟨t, ht, ?_, ?_⟩
    · rw [hskid]
      simp [hx, hu he]
    · rw [hout]
      simp [hx, SkidFrame.nextSegment, he, hm]
  case growing =>
    intro dt c n f s hs hl hg
    have hp : (s.atSkid dt c true).skidPop c = none := skidPop_none (by
      rw [atSkid_skid, hs]; simp [canSend, hg]; omega)
    have hx (k : Nat) : State.skidSend c k (s.atSkid dt c true) = ([], s.atSkid dt c true) := by
      cases k with
      | zero => rfl
      | succ k => rw [State.skidSend, hp]
    by_cases hr : s.laneRuns c = true
    · obtain ⟨t, ht, hout, hskid⟩ := ingressSkidSend_ready dt c n hr
      exact ⟨t, ht, by rw [hout]; simp [hx], by rw [hskid]; simp [hx, atSkid_skid, hs]⟩
    · change Answers (execIngressSkidSend dt c n true s) _
      rw [ingressSkidSend_eq, if_pos (by simpa using hr)]
      exact answers_next ⟨rfl, (atSkid_skid ..).trans hs⟩
  case still =>
    intro dt c n ready s h
    change Answers (execIngressSkidSend dt c n ready s) _
    rw [ingressSkidSend_eq, if_pos (by simpa using h)]
    exact answers_next ⟨rfl, atSkid_skid ..⟩

end Sys2Proof.Machine
end

