-- ==== Sys2Proof/Proofs/TimeCore.lean ====
section
namespace Sys2Proof.Machine
open State

/-! ### A step of device time moves the shutters, and nothing of the time core -/

theorem streamSend_time (s : State) (m : StreamMsg) : (s.streamSend m).time = s.time := (streamSend_alike (.refl s)).time

theorem shutCause_time (s : State) (p bit : Nat) : (s.shutCause p bit).time = s.time := (shutCause_quiet (.refl s)).time

theorem openDigest_time (s : State) (p c t : Nat) : (s.openDigest p c t).time = s.time := (openDigest_quiet (.refl s)).time

theorem tellSwap_time (s : State) (p sub : Nat) : (s.tellSwap p sub).time = s.time := by
  unfold tellSwap
  split
  · exact streamSend_time ..
  · rfl

theorem requestSwap_time (s : State) (p l : Nat) (f : Option Nat) : (s.requestSwap p l f).time = s.time := setShut_time ..

theorem shutParams_time (s : State) (p : Nat) : (s.shutParams p).time = s.time := setShut_time ..

theorem shutRefresh_time (s : State) (p : Nat) : (s.shutRefresh p).time = s.time := by
  unfold shutRefresh
  dsimp only
  split
  · rfl
  · split
    · rfl
    · rw [openDigest_time, setShut_time, setShut_time]
      split
      · exact shutParams_time ..
      · rfl

theorem latchSwap_time (s : State) (p : Nat) : (s.latchSwap p).time = s.time := by
  unfold latchSwap
  dsimp only
  split
  · rfl
  · split
    · rfl
    · split
      · split
        · rw [tellSwap_time, requestSwap_time, shutCause_time, setShut_time, streamSend_time]
        · rw [shutCause_time, setShut_time, streamSend_time]
      · rw [setShut_time, streamSend_time]

theorem makeSwap_time (s : State) (p : Nat) : (s.makeSwap p).time = s.time := by
  unfold makeSwap
  dsimp only
  split
  · rfl
  · split
    · rfl
    · rw [shutRefresh_time, shutCause_time, bumpPort_time]
      split
      · rw [tellSwap_time, requestSwap_time, shutParams_time, setShut_time]
      · rw [shutParams_time, setShut_time]

theorem passSwap_time (s : State) (p : Nat) : (s.passSwap p).1.time = s.time := by
  unfold passSwap
  dsimp only
  split
  · rfl
  · split
    · rfl
    · split
      · split
        · exact (makeSwap_time ..).trans (latchSwap_time ..)
        · exact latchSwap_time ..
      · exact latchSwap_time ..

theorem realignStep_time (s : State) (p old : Nat) (big : Bool) : (s.realignStep p old big).time = s.time := by
  unfold realignStep
  dsimp only
  split
  · rfl
  · split
    · rfl
    · split
      · rw [shutRefresh_time, shutCause_time, bumpPort_time]; rfl
      · rw [shutRefresh_time]; split <;> rfl

theorem shutStep_time (s : State) (p old : Nat) : (s.shutStep p old).time = s.time := by
  unfold shutStep
  dsimp only
  generalize hu : State.updPortTx _ p _ = u
  have h : u.time = s.time := by rw [← hu]; rfl
  split
  · exact h
  · rw [setShut_time, ← h]
    split
    · split
      · rw [shutCause_time, bumpPort_time, passSwap_time]
      · exact passSwap_time ..
    · rw [realignStep_time, passSwap_time]

theorem shutStepAll_time (s : State) (old : Nat) : (s.shutStepAll old).time = s.time := by
  unfold shutStepAll
  generalize s.shutters.map (·.1) = l
  induction l generalizing s with
  | nil => rfl
  | cons p l ih => rw [List.foldl_cons, ih, shutStep_time]

/-- What a jump of device time to `new` leaves of the time core (R110). -/
theorem jump_time (s : State) (new : Nat) : ∃ sat, (s.jump new).time =
    { s.time with acc := BitVec.ofNat 116 (new * 2 ^ 32), lastStep := sat, secSeen := new / 2 ^ 36, epochSeen := new / 2 ^ 64 } := by
  unfold jump
  rw [shutStepAll_time]
  unfold jumpTo
  dsimp only
  split
  · rw [raise_time, raise_time, bump_time]; exact ⟨_, rfl⟩
  · rw [raise_time, bump_time]; exact ⟨_, rfl⟩

/-- A jump within the 84 bits of device time shows its new value. -/
theorem jump_devTime (s : State) {new : Nat} (h : new < 2 ^ 84) : (s.jump new).devTime = new := by
  obtain ⟨sat, hj⟩ := jump_time s new
  unfold devTime
  rw [hj, BitVec.toNat_ofNat, Nat.shiftRight_eq_div_pow]
  omega

theorem jump_timeSt (s : State) (new : Nat) : (s.jump new).time.st = s.time.st := by
  obtain ⟨sat, hj⟩ := jump_time s new
  rw [hj]

theorem jump_align (s : State) (new : Nat) : (s.jump new).time.align = s.time.align := by
  obtain ⟨sat, hj⟩ := jump_time s new
  rw [hj]

theorem leaveUnset_time {s : State} (h : s.time.st = .unset) :
    s.leaveUnset.time = { s.time with st := .freerun, ppsOut := s.time.ppsOut && true } := by
  unfold leaveUnset
  rw [if_pos h, raise_time]
  rfl

theorem leaveUnset_devTime (s : State) : s.leaveUnset.devTime = s.devTime := by
  by_cases h : s.time.st = .unset
  · unfold devTime; rw [leaveUnset_time h]
  · unfold leaveUnset; rw [if_neg h]

/-- The state in which the alignment that was due is taken. -/
def alignTaken (s : State) : State := { s with time := { s.time with align := none } }

end Sys2Proof.Machine
end

