-- ==== Sys2Proof/Proofs/Raises.lean ====
section
namespace Sys2Proof.Machine
open State

/-! ### A raised source is counted (R509) -/

/-- A domain with its acknowledge and isolation as they were is ON as it was. -/
theorem setDom_isOn {s : State} {n : Nat} (m : Nat) {d : Domain} (ha : d.ack = (s.dom m).ack) (hi : d.isolated = (s.dom m).isolated)
    (h : s.isOn n = true) : (s.setDom m d).isOn n = true := by
  unfold isOn at *
  by_cases hm : n = m
  · subst hm; rw [dom_setDom, ha, hi]; exact h
  · rw [show (s.setDom m d).dom n = s.dom n from SMap.get_set_ne _ hm]; exact h

/-- A change of another domain, or of one that does not show ON, leaves a domain ON. -/
theorem beginSwitch_isOn {s : State} {m n : Nat} (g : Pwr) (ha : (s.dom m).ack ≠ .on) (h : s.isOn n = true) :
    (s.beginSwitch m g).isOn n = true := by
  unfold isOn at *
  by_cases hm : n = m
  · subst hm
    have hao : n = domAO := by simpa [ha] using h
    simp [hao]
  · rw [show (s.beginSwitch m g).dom n = s.dom n from SMap.get_set_ne _ hm]; exact h

/-- A request for ON takes no domain out of ON. -/
theorem requestOn_isOn {s : State} {n : Nat} (m : Nat) (h : s.isOn n = true) : (s.requestOn m).isOn n = true := by
  unfold requestOn
  dsimp only
  split
  · exact h
  split
  · exact setDom_isOn m rfl rfl h
  have h1 : (s.setDom m { s.dom m with req := .on }).isOn n = true := setDom_isOn m rfl rfl h
  split
  · exact h1
  next ha =>
  split
  · exact beginSwitch_isOn _ (by rwa [dom_setDom]) h1
  generalize hu : State.setDom (State.setDom s m _) m _ = u
  have h2 : u.isOn n = true := by rw [← hu]; exact setDom_isOn m rfl rfl h1
  split
  · exact setDom_isOn _ rfl rfl h2
  split
  · exact h2
  · next hn => exact beginSwitch_isOn _ (by rw [dom_setDom]; exact fun e => hn (.inl e)) (setDom_isOn _ rfl rfl h2)

theorem foldl_isOn {α : Type} {f : State → α → State} {n : Nat} (hf : ∀ s a, s.isOn n = true → (f s a).isOn n = true) (l : List α)
    {s : State} (h : s.isOn n = true) : (l.foldl f s).isOn n = true := by
  induction l generalizing s with
  | nil => exact h
  | cons a l ih => exact ih (hf s a h)

theorem wakeCluster_isOn {s : State} {n : Nat} (c : Nat) (h : s.isOn n = true) : (s.wakeCluster c).isOn n = true := by
  unfold wakeCluster
  dsimp only
  split
  · exact requestOn_isOn _ (requestOn_isOn _ (requestOn_isOn _ h))
  · exact h
  · exact h

theorem wakeCommon_isOn {s : State} {n : Nat} (h : s.isOn n = true) : s.wakeCommon.isOn n = true := by
  have he : s.endSleep.isOn n = true := by
    unfold endSleep
    split
    · exact h
    · exact foldl_isOn (fun s m h => requestOn_isOn m h) _ (requestOn_isOn _ h)
  refine foldl_isOn (fun s m h => ?_) _ he
  split
  · exact requestOn_isOn m h
  · exact h

/-- What the Night Latch does with a raise (R531): nothing is counted but the wake it brings, and no domain leaves ON. -/
theorem latchFire_cases (s : State) (e d : Nat) : ∃ v : State, v.ctrs = s.ctrs ∧ (∀ n, s.isOn n = true → v.isOn n = true) ∧
    ((s.latchFire e d).1 = v ∨ (s.latchFire e d).1 = v.bump 0x0700 0x13) := by
  unfold latchFire
  extract_lets ws ev u wake cs cm woke v w x
  have hv : v.ctrs = s.ctrs := foldl_ctrs _ wakeCluster_ctrs cs u
  have hvon (n : Nat) (h : s.isOn n = true) : v.isOn n = true := foldl_isOn (s := u) (fun s c h => wakeCluster_isOn c h) cs h
  have hx : x = w ∨ x = w.bump 0x0700 0x13 := by
    by_cases hk : woke = true
    · exact .inr (if_pos hk)
    · exact .inl (if_neg hk)
  clear_value x
  refine ⟨w, ?_, fun n h => ?_, hx⟩ <;> by_cases hc : cm = true
  · rw [show w = v.wakeCommon from if_pos hc, wakeCommon_ctrs, hv]
  · rw [show w = v from if_neg hc, hv]
  · rw [show w = v.wakeCommon from if_pos hc]; exact wakeCommon_isOn (hvon n h)
  · rw [show w = v from if_neg hc]; exact hvon n h

theorem latchFire_isOn {s : State} {n : Nat} (e d : Nat) (h : s.isOn n = true) : (s.latchFire e d).1.isOn n = true := by
  obtain ⟨v, -, hon, hv | hv⟩ := latchFire_cases s e d <;> rw [hv]
  · exact hon n h
  · have hb := hon n h
    unfold isOn dom at *
    rw [bump_power]
    exact hb

theorem latchFire_count (s : State) (e d n : Nat) : (s.latchFire e d).1.ctr (0x5000 + n) 5 = s.ctr (0x5000 + n) 5 := by
  obtain ⟨v, hc, -, hv⟩ := latchFire_cases s e d
  have hs : v.ctr (0x5000 + n) 5 = s.ctr (0x5000 + n) 5 := by unfold ctr; rw [hc]
  obtain hv | hv := hv <;> rw [hv, ← hs]
  exact ctr_bumpRow_ne _ _ _ _ _ _ _ _ (by simp [slotKey]; omega)

theorem raiseSource_count {s : State} {e : Nat} (d : Nat) (h : s.isOn domEvt = true) :
    (s.raiseSource e d).ctr (0x5000 + e) 5 = s.ctr (0x5000 + e) 5 + 1 := by
  unfold raiseSource
  rw [if_neg (by simp [h])]
  have hc := ctr_bumpRow s (0x5000 + e) 5 0 1
  dsimp only
  split <;> exact hc

theorem raiseSource_count_ne {s : State} {e f : Nat} (d : Nat) (h : f ≠ e) :
    (s.raiseSource e d).ctr (0x5000 + f) 5 = s.ctr (0x5000 + f) 5 := by
  unfold raiseSource
  dsimp only
  have hc := ctr_bumpRow_ne s (0x5000 + e) 5 0 1 (0x5000 + f) 5 0 (by unfold slotKey; omega)
  split
  · rfl
  · split <;> exact hc

/-- While EVT is ON, a raise of a source is counted once (R509); the wake it may bring raises another source. -/
theorem raise_count {s : State} {e : Nat} (d : Nat) (h : s.isOn domEvt = true) (he : e ≠ 0x872) :
    (s.raise e d).ctr (0x5000 + e) 5 = s.ctr (0x5000 + e) 5 + 1 := by
  have h1 : ((s.latchFire e d).1.raiseSource e d).ctr (0x5000 + e) 5 = s.ctr (0x5000 + e) 5 + 1 := by
    rw [raiseSource_count d (latchFire_isOn e d h), latchFire_count]
  unfold raise
  dsimp only
  split
  · split
    · rw [raiseSource_count_ne _ he, latchFire_count]; exact h1
    · exact h1
  · exact h1

end Sys2Proof.Machine
end

