-- ==== Sys2Proof/Proofs/TimeEvents.lean ====
section
namespace Sys2Proof.Machine
open State

/-! ### The message on tod_txd (R48) -/

theorem leBytes_length (n v : Nat) : (leBytes n v).length = n := by
  induction n generalizing v with
  | zero => rfl
  | succ n ih => simp [leBytes, ih]

theorem beBytes_length (n v : Nat) : (beBytes n v).length = n := by rw [beBytes, List.length_reverse, leBytes_length]

theorem beNat_append_one (bs : Bytes) (b : Byte) : beNat (bs ++ [b]) = beNat bs * 256 + b.toNat := by simp [beNat]

/-- The bytes of a number in wire order give its low bytes back (R4). -/
theorem beNat_beBytes (n v : Nat) : beNat (beBytes n v) = v % 256 ^ n := by
  induction n generalizing v with
  | zero => simp [beBytes, leBytes, beNat, Nat.mod_one]
  | succ n ih =>
    have hb : beBytes (n + 1) v = beBytes n (v / 256) ++ [BitVec.ofNat 8 v] := by simp [beBytes, leBytes]
    have hm : v % 256 ^ (n + 1) = v % 256 + 256 * (v / 256 % 256 ^ n) := by rw [Nat.pow_succ', Nat.mod_mul]
    rw [hb, beNat_append_one, ih, BitVec.toNat_ofNat, hm]
    omega

/-- A field of a message behind `a` bytes. -/
theorem beAt_field {a b c : Bytes} {o n : Nat} (ho : a.length = o) (hn : b.length = n) : beAt (a ++ b ++ c) o n = beNat b := by
  unfold beAt slice
  rw [List.append_assoc, List.drop_left' ho, List.take_left' hn]

theorem crcStepMsb_lt {w poly : Nat} (c : Nat) (hp : poly < 2 ^ w) : crcStepMsb w poly c < 2 ^ w := by
  have hm := Nat.mod_lt (c * 2) (Nat.two_pow_pos w)
  unfold crcStepMsb
  split
  · exact Nat.xor_lt_two_pow hm hp
  · exact hm

theorem crc16_lt (bs : Bytes) : crc16 bs < 2 ^ 16 := by
  refine List.foldlRecOn (motive := (· < 2 ^ 16)) bs _ (by decide) fun c hc b _ => ?_
  exact List.foldlRecOn (motive := (· < 2 ^ 16)) (List.range 8) _ hc fun c _ i _ => crcStepMsb_lt _ (by decide)

/-- The fields of the message that names second `secs`, and its CRC over them (R48). -/
theorem todMessage_fields (s : State) (secs : Nat) : (s.todMessage secs).length = 16 ∧ beAt (s.todMessage secs) 0 2 = 0x5AA5 ∧
    beAt (s.todMessage secs) 2 1 = 1 ∧ beAt (s.todMessage secs) 4 6 = secs % 2 ^ 48 ∧
    beAt (s.todMessage secs) 14 2 = crc16 ((s.todMessage secs).take 14) := by
  unfold todMessage
  dsimp only
  generalize hu : s.time.utcOffset.toNat = u
  set body := beBytes 2 0x5AA5 ++ [1, s.time.todFlags] ++ beBytes 6 secs ++ beBytes 2 u ++ [0, 0] with hbody
  have hl : body.length = 14 := by simp [hbody, beBytes_length]
  refine ⟨by simp [hl, beBytes_length], ?_, ?_, ?_, ?_⟩
  · have h := beAt_field (a := []) (b := beBytes 2 0x5AA5) (n := 2)
      (c := [1, s.time.todFlags] ++ beBytes 6 secs ++ beBytes 2 u ++ [0, 0] ++ beBytes 2 (crc16 body)) rfl (beBytes_length ..)
    simpa [hbody, beNat_beBytes] using h
  · have h := beAt_field (a := beBytes 2 0x5AA5) (b := [1]) (n := 1)
      (c := [s.time.todFlags] ++ beBytes 6 secs ++ beBytes 2 u ++ [0, 0] ++ beBytes 2 (crc16 body)) (beBytes_length ..) rfl
    simpa [hbody, beNat] using h
  · have h := beAt_field (a := beBytes 2 0x5AA5 ++ [1, s.time.todFlags]) (b := beBytes 6 secs)
      (c := beBytes 2 u ++ [0, 0] ++ beBytes 2 (crc16 body)) (o := 4) (by simp [beBytes_length]) (beBytes_length ..)
    simpa [hbody, beNat_beBytes] using h
  · have h := beAt_field (a := body) (b := beBytes 2 (crc16 body)) (c := []) hl (beBytes_length ..)
    rw [List.append_nil, beNat_beBytes] at h
    rw [List.take_left' hl, h]
    exact Nat.mod_eq_of_lt (crc16_lt body)


/-! ### The events of time (R47, R48, R106, R112–R116, R120) -/

/-- The passing of time moves the clocks of the time core alone. -/
@[simp] theorem elapse_timeSt (s : State) (dt : Nat) : (s.elapse dt).time.st = s.time.st := (congrArg TimeUnit.st (elapse_settings s dt) :)
@[simp] theorem elapse_ppsOut (s : State) (dt : Nat) : (s.elapse dt).time.ppsOut = s.time.ppsOut :=
  (congrArg TimeUnit.ppsOut (elapse_settings s dt) :)
@[simp] theorem elapse_ppsOutAt (s : State) (dt : Nat) : (s.elapse dt).time.ppsOutAt = s.time.ppsOutAt :=
  (congrArg TimeUnit.ppsOutAt (elapse_settings s dt) :)
@[simp] theorem elapse_ppsRef (s : State) (dt : Nat) : (s.elapse dt).time.ppsRef = s.time.ppsRef :=
  (congrArg TimeUnit.ppsRef (elapse_settings s dt) :)
@[simp] theorem elapse_tod (s : State) (dt : Nat) : (s.elapse dt).time.tod = s.time.tod := (congrArg TimeUnit.tod (elapse_settings s dt) :)
@[simp] theorem elapse_align (s : State) (dt : Nat) : (s.elapse dt).time.align = s.time.align := (congrArg TimeUnit.align (elapse_settings s dt) :)
@[simp] theorem elapse_sinceServo (s : State) (dt : Nat) : (s.elapse dt).time.sinceServo = s.time.sinceServo :=
  (congrArg TimeUnit.sinceServo (elapse_settings s dt) :)
@[simp] theorem elapse_secSeen (s : State) (dt : Nat) : (s.elapse dt).time.secSeen = s.time.secSeen :=
  (congrArg TimeUnit.secSeen (elapse_settings s dt) :)
@[simp] theorem elapse_epochSeen (s : State) (dt : Nat) : (s.elapse dt).time.epochSeen = s.time.epochSeen :=
  (congrArg TimeUnit.epochSeen (elapse_settings s dt) :)

/-- A raise that is made or not leaves the time core. -/
theorem time_ite_raise {c : Prop} [Decidable c] (s : State) (e d : Nat) : (if c then s.raise e d else s).time = s.time := by
  split
  · exact raise_time ..
  · rfl

theorem devTime_lt (s : State) : s.devTime < 2 ^ 84 := by
  unfold devTime
  rw [Nat.shiftRight_eq_div_pow]
  omega

/-- The tick after the edge takes the alignment that is due (R115). -/
theorem todAlign_eq {s : State} {a : TodAlign} (dt : Nat) (h : s.time.align = some a) : execTodAlign dt s =
    let u := alignTaken (s.elapse dt)
    if (s.elapse dt).time.st = .unset then .next ((u.jump ((a.secs * 2 ^ 36 + (s.elapse dt).since a.edgeRun) % 2 ^ 84)).leaveUnset)
    else
      let off : Int := ((a.secs : Int) - a.edgeSec) * 2 ^ 36
      if off = 0 ∨ !(s.elapse dt).stepFits off then .next u else .next (u.jump ((s.elapse dt).devTime + off).toNat) := by
  unfold execTodAlign
  simp only [elapse_align, h]
  rfl

/-- Settles O27: each event's guard decided, then what a raise and a jump of device time leave of the time core. -/
theorem timeEvents : Obligations.TimeEvents := by
  refine ⟨?holdover, ?ppsIn, ?ppsMissing, ?todGood, ?todBad, ?alignUnset, ?alignSet, ?ppsRise, ?ppsFall, ?carry⟩
  case holdover =>
    intro dt s ht hs
    exact answers_pos (c := (s.elapse dt).time.st = .tracking ∧ _) ⟨by simp [ht], by rwa [elapse_sinceServo]⟩
      (answers_next (by rw [raise_time]; rfl))
  case ppsIn =>
    intro dt s hc
    refine answers_neg (c := (!(s.elapse dt).clocked) = true) (by simp [hc]) (answers_next ?_)
    rw [time_ite_raise, raise_time]
    refine ⟨?_, rfl, rfl, fun secs hr hb hst => ?_⟩
    · rw [BitVec.toNat_ofNat]; exact Nat.mod_eq_of_lt (devTime_lt _)
    · have hb' : (s.elapse dt).regB 0x0400 0x0F = true := hb
      simp [hr, hb', hst]
  case ppsMissing =>
    intro dt r s hr hl
    change Answers (execPpsMissing dt s) _
    unfold execPpsMissing
    simp only [elapse_ppsRef, hr]
    refine answers_neg (Nat.not_lt.mpr hl) (answers_next ?_)
    rw [time_ite_raise, bump_time]
    refine ⟨rfl, rfl, ?_⟩
    split
    · exact (raise_ctr _ _ _ _ _ _ (by decide) (by decide) (by decide) (by decide)).trans (ctr_bumpRow ..)
    · exact ctr_bumpRow ..
  case todGood =>
    intro dt msg s hc hl hh ht hcrc
    refine answers_neg (by simp [hc, hl, hh]) (answers_neg (by simp [ht, hcrc]) (answers_next ⟨rfl, rfl, rfl⟩))
  case todBad =>
    intro dt msg s hc hl hh hcrc
    refine answers_neg (by simp [hc, hl, hh]) (answers_pos (by simp [hcrc]) (answers_next ⟨?_, ctr_bumpRow (s.elapse dt) 0x0400 0x1E 0 1⟩))
    rw [bump_time, elapse_tod]
  case alignUnset =>
    intro dt a s ha hu
    change Answers (execTodAlign dt s) _
    rw [todAlign_eq dt ha]
    have hst : ((alignTaken (s.elapse dt)).jump ((a.secs * 2 ^ 36 + (s.elapse dt).since a.edgeRun) % 2 ^ 84)).time.st = .unset := by
      rw [jump_timeSt]; exact (elapse_timeSt s dt).trans hu
    refine answers_pos (by rwa [elapse_timeSt]) (answers_next ⟨?_, ?_, ?_⟩)
    · rw [leaveUnset_devTime, jump_devTime _ (Nat.mod_lt _ (by decide))]
    · rw [leaveUnset_time hst]
    · rw [leaveUnset_time hst]; exact jump_align ..
  case alignSet =>
    intro dt a s ha hu hne hf
    change Answers (execTodAlign dt s) _
    rw [todAlign_eq dt ha]
    refine answers_neg (by rwa [elapse_timeSt]) (answers_neg ?_ (answers_next ?_))
    · rw [hf]; simp; omega
    · simp only [stepFits, Bool.and_eq_true, decide_eq_true_eq] at hf
      rw [jump_devTime _ (by omega), jump_align]
      exact ⟨by omega, rfl⟩
  case ppsRise =>
    intro dt s hsec hst hen hout
    refine answers_neg (c := (s.elapse dt).devSeconds = (s.elapse dt).time.secSeen) (by rwa [elapse_secSeen]) ?_
    have hr : ((s.elapse dt).time.st != .unset && (s.elapse dt).regB 0x0400 0x0E && !(s.elapse dt).time.ppsOut) = true := by
      have hb : (s.elapse dt).regB 0x0400 0x0E = true := hen
      simp [hst, hout, hb]
    simp only [hr, Bool.or_true, if_true]
    exact answers_next ⟨rfl, rfl, rfl, _, rfl, todMessage_fields _ _⟩
  case ppsFall =>
    intro dt s ho hl
    exact answers_pos (c := (s.elapse dt).time.ppsOut = true ∧ _) ⟨by simp [ho], by rwa [elapse_ppsOutAt]⟩ (answers_next rfl)
  case carry =>
    intro dt s he hon
    refine answers_neg (c := (s.elapse dt).epoch = (s.elapse dt).time.epochSeen) (by rwa [elapse_epochSeen])
      (answers_next ⟨?_, raise_count 0 hon (by decide)⟩)
    rw [raise_time]

end Sys2Proof.Machine
end

