-- ==== Sys2Proof/Proofs/Flow.lean ====
section
namespace Sys2Proof.Machine
open State

/-! ### What a port's grants and the swing hold while frames leave and events are raised

Events, taps, completions of descriptors, control frames and the stages before the wire move much of the state, but not the grants of
a port, its causes, who drives its lanes, the role, or the counters of demotions and of grants that went wrong. -/

/-- The pins and the role of the swing. -/
structure SwingView where
  role : Role
  selMine : Bool
  release : Bool
  request : Bool

/-- The grants of a port, its causes, and whether it drives its own PCS output. -/
structure HoldView where
  frames : List TxFrame
  wire : Option TxFrame
  held : Option TxFrame
  tails : List TxTail
  cause : Word
  ownPcs : Bool

def TwinUnit.swing (t : TwinUnit) : SwingView := ⟨t.role, t.selMine, t.release, t.request⟩

def PortTx.hold (q : PortTx) : HoldView := ⟨q.frames, q.wire, q.held, q.tails, q.cause, q.ownPcs⟩

/-- The counters of takeovers and demotions, and of grants of port `p` lost or of another length. -/
def watched (p : Nat) : List Nat :=
  [slotKey 0x0500 0x2B 0, slotKey 0x0500 0x2C 0, slotKey (0x1800 + p) Pc.txReturnLost 0, slotKey (0x1800 + p) Pc.headLenMismatch 0]

structure FlowView where
  swing : SwingView
  hold : Nat → HoldView
  counts : List (BitVec 48)

def flowOf (p : Nat) (t : TwinUnit) (q : SMap PortTx) (c : SMap (BitVec 48)) : FlowView :=
  ⟨t.swing, fun i => (SMap.get {} q i).hold, (watched p).map (SMap.get 0 c)⟩

/-- What stays while frames leave port `p`. -/
def State.flow (p : Nat) (s : State) : FlowView := flowOf p s.twin s.portTx s.ctrs

section
variable {p : Nat} {s t : State}

theorem flow_twin (h : t.flow p = s.flow p) : t.twin.swing = s.twin.swing := congrArg FlowView.swing h
theorem flow_hold (h : t.flow p = s.flow p) (i : Nat) : (t.portTxOf i).hold = (s.portTxOf i).hold := congrFun (congrArg FlowView.hold h) i

theorem flow_ctr {k : Nat} (h : t.flow p = s.flow p) (hk : k ∈ watched p) : SMap.get 0 t.ctrs k = SMap.get 0 s.ctrs k :=
  List.map_inj_left.mp (congrArg FlowView.counts h) k hk

theorem flow_congr (ht : t.twin.swing = s.twin.swing) (hp : t.portTx = s.portTx) (hc : t.ctrs = s.ctrs) : t.flow p = s.flow p := by
  unfold State.flow flowOf; rw [ht, hp, hc]

theorem foldl_flow {α : Type} {f : State → α → State} {l : List α} (s : State) (hf : ∀ s, ∀ a ∈ l, (f s a).flow p = s.flow p) :
    (l.foldl f s).flow p = s.flow p := by
  induction l generalizing s with
  | nil => rfl
  | cons a l ih => exact (ih _ fun s b hb => hf s b (List.mem_cons_of_mem _ hb)).trans (hf s a (List.mem_cons_self ..))

end

variable (p : Nat) (s : State)

theorem bumpRow_flow (i u r n : Nat) (h : slotKey i u r ∉ watched p) : (s.bumpRow i u r n).flow p = s.flow p := by
  have hc : ∀ k ∈ watched p, SMap.get 0 (s.bumpRow i u r n).ctrs k = SMap.get 0 s.ctrs k := fun k hk => by
    have hne : k ≠ slotKey i u r := fun e => h (e ▸ hk)
    unfold bumpRow
    dsimp only
    split <;> exact SMap.get_set_ne _ hne
  unfold State.flow flowOf
  rw [List.map_inj_left.mpr hc, (bumpRow_beside (.refl s)).twin, (bumpRow_beside (.refl s)).portTx]

/-- A counter of a unit with one row that is none of those watched. -/
theorem bump_flow (i u n : Nat) (hi : i ≠ 0x0500) (hu : u < 0x4E) : (s.bump i u n).flow p = s.flow p := by
  refine bumpRow_flow p s i u 0 n ?_
  simp only [watched, List.mem_cons, List.not_mem_nil, or_false, not_or, slotKey, Pc.txReturnLost, Pc.headLenMismatch]
  omega

theorem bumpPort_flow (q slot n : Nat) (h : slot < 0x4E ∨ 0x4F < slot ∧ slot < 256) : (s.bumpPort q slot n).flow p = s.flow p := by
  refine bumpRow_flow p s (0x1800 + q) slot 0 n ?_
  simp only [watched, List.mem_cons, List.not_mem_nil, or_false, not_or, slotKey, Pc.txReturnLost, Pc.headLenMismatch]
  omega

/-- A counter of a row of a table of the port's cluster. -/
theorem bumpRow_window_flow (t u r n : Nat) : (s.bumpRow (winIdx (p / 64) t) u r n).flow p = s.flow p := by
  refine bumpRow_flow p s _ u r n ?_
  simp only [watched, List.mem_cons, List.not_mem_nil, or_false, not_or, slotKey, winIdx, Pc.txReturnLost, Pc.headLenMismatch]
  omega

theorem setPortTx_flow (i : Nat) (q : PortTx) (h : q.hold = (s.portTxOf i).hold) : (s.setPortTx i q).flow p = s.flow p := by
  have hh : ∀ j, ((s.setPortTx i q).portTxOf j).hold = (s.portTxOf j).hold := fun j => by
    by_cases hj : j = i
    · subst hj; rw [portTxOf_setPortTx, h]
    · rw [show (s.setPortTx i q).portTxOf j = s.portTxOf j from SMap.get_set_ne _ hj]
  exact congrArg (fun f => FlowView.mk s.twin.swing f ((watched p).map (SMap.get 0 s.ctrs))) (funext hh)

theorem updPortTx_flow (i : Nat) (f : PortTx → PortTx) (h : ∀ q, (f q).hold = q.hold) : (s.updPortTx i f).flow p = s.flow p :=
  setPortTx_flow p s i _ (h _)

theorem raise_flow (e d : Nat) : (s.raise e d).flow p = s.flow p := by
  have hc : ∀ k ∈ watched p, SMap.get 0 (s.raise e d).ctrs k = SMap.get 0 s.ctrs k := by
    simp only [watched, List.forall_mem_cons, List.not_mem_nil, false_imp_iff, implies_true, and_true]
    exact ⟨raise_ctr s e d 0x0500 0x2B 0 (by decide) (by decide) (by decide) (by decide),
      raise_ctr s e d 0x0500 0x2C 0 (by decide) (by decide) (by decide) (by decide),
      raise_ctr s e d (0x1800 + p) Pc.txReturnLost 0 (by decide) (by decide) (by decide) (by decide),
      raise_ctr s e d (0x1800 + p) Pc.headLenMismatch 0 (by decide) (by decide) (by decide) (by decide)⟩
  unfold State.flow flowOf
  rw [List.map_inj_left.mpr hc, raise_twin, raise_portTx]

theorem noteEcc_flow (e : Nat) : (s.noteEcc e).flow p = s.flow p := by
  unfold noteEcc; split <;> rfl

theorem raiseOnce_flow (e d : Nat) : (s.raiseOnce e d).flow p = s.flow p := by
  unfold raiseOnce
  dsimp only
  split
  · exact noteEcc_flow p s e
  · rw [raise_flow]; exact noteEcc_flow p s e


section
variable (p : Nat) (s : State)

@[simp] theorem updClRx_flow (c : Nat) (f : ClusterRx → ClusterRx) : (s.updClRx c f).flow p = s.flow p := flow_congr rfl rfl rfl
@[simp] theorem setClRx_flow (c : Nat) (q : ClusterRx) : (s.setClRx c q).flow p = s.flow p := flow_congr rfl rfl rfl
@[simp] theorem updClTx_flow (c : Nat) (f : ClusterTx → ClusterTx) : (s.updClTx c f).flow p = s.flow p := flow_congr rfl rfl rfl
@[simp] theorem setClTx_flow (c : Nat) (q : ClusterTx) : (s.setClTx c q).flow p = s.flow p := flow_congr rfl rfl rfl
@[simp] theorem updPort_flow (i : Nat) (f : PortRx → PortRx) : (s.updPort i f).flow p = s.flow p := flow_congr rfl rfl rfl
@[simp] theorem setReg_flow (i u : Nat) (v : Word) : (s.setReg i u v).flow p = s.flow p := flow_congr rfl rfl rfl
@[simp] theorem rowSet_flow (w u r : Nat) (v : Word) : (s.rowSet w u r v).flow p = s.flow p := flow_congr rfl rfl rfl
@[simp] theorem setRing_flow (r : Nat) (q : Ring) : (s.setRing r q).flow p = s.flow p := flow_congr rfl rfl rfl
@[simp] theorem updRing_flow (r : Nat) (f : Ring → Ring) : (s.updRing r f).flow p = s.flow p := flow_congr rfl rfl rfl
@[simp] theorem setQuarter_flow (r : Nat) (q : Quarter) : (s.setQuarter r q).flow p = s.flow p := flow_congr rfl rfl rfl
@[simp] theorem setShut_flow (r : Nat) (q : Shutter) : (s.setShut r q).flow p = s.flow p := flow_congr rfl rfl rfl
@[simp] theorem setSch_flow (c k : Nat) (q : SchRow) : (s.setSch c k q).flow p = s.flow p := flow_congr rfl rfl rfl
@[simp] theorem emit_flow (o : Output) : (s.emit o).flow p = s.flow p := flow_congr rfl rfl rfl

@[simp] theorem memWrite_flow (a : Nat) (bs : Bytes) : (s.memWrite a bs).flow p = s.flow p := by
  induction bs generalizing s a with
  | nil => rfl
  | cons b bs ih => exact ih ..

@[simp] theorem setPortReg_flow (i u : Nat) (v : Word) : (s.setPortReg i u v).flow p = s.flow p := by
  unfold setPortReg notePast
  split <;> exact flow_congr rfl rfl rfl

/-! ### The rings -/

@[simp] theorem busRead_flow (r n : Nat) : (s.busRead r n).flow p = s.flow p := bump_flow p s _ _ _ (by unfold qIdx; omega) (by decide)
@[simp] theorem busWrite_flow (r n : Nat) : (s.busWrite r n).flow p = s.flow p := bump_flow p s _ _ _ (by unfold qIdx; omega) (by decide)

theorem bump_ring_flow (r u n : Nat) (hu : u < 0x4E) : (s.bump (rIdx r) u n).flow p = s.flow p :=
  bump_flow p s _ _ _ (by unfold rIdx; omega) hu

@[simp] theorem ringCause_flow (r bit : Nat) : (s.ringCause r bit).flow p = s.flow p := by
  unfold ringCause
  dsimp only
  split
  · rw [raise_flow, setRing_flow]
  · rfl

@[simp] theorem completeDesc_flow (r i : Nat) (d : Desc) (result done : Nat) (aux : Option Word) (extra : Nat) :
    (s.completeDesc r i d result done aux extra).flow p = s.flow p := by
  unfold completeDesc
  extract_lets a s1 keep s2 s3 s4
  have h1 : s1.flow p = s.flow p := by
    unfold s1; split
    · split <;> simp
    · rfl
  have h2 : s2.flow p = s.flow p := by unfold s2; split <;> simp [h1]
  have h3 : s3.flow p = s.flow p := by unfold s3; simp (disch := decide) [bump_ring_flow, h2]
  have h4 : s4.flow p = s.flow p := by
    unfold s4
    repeat' split
    all_goals simp (disch := decide) [bump_ring_flow, h3]
  split
  · rw [raise_flow, h4]
  · exact h4

@[simp] theorem completeChain_flow (r : Nat) (c : Chain) (result : Nat) (stamp : Option Word) :
    (s.completeChain r c result stamp).flow p = s.flow p := foldl_flow s fun _ _ _ => completeDesc_flow ..

@[simp] theorem settleChains_flow (r n : Nat) : (settleChains r n s).flow p = s.flow p := by
  induction n generalizing s with
  | zero => rfl
  | succ n ih =>
    unfold settleChains
    repeat' split
    all_goals simp [ih]

@[simp] theorem directDone_flow (o : Option DirectRef) (result : Nat) (stamp : Option Word) :
    (s.directDone o result stamp).flow p = s.flow p := by
  unfold directDone
  split
  · simp
  · rfl

@[simp] theorem fetchDesc_flow (r : Nat) : (s.fetchDesc r).2.flow p = s.flow p := by
  unfold fetchDesc
  dsimp only
  repeat' split
  all_goals simp

@[simp] theorem reserveDescs_flow (r need n count room : Nat) : (reserveDescs r need n count room s).2.flow p = s.flow p := by
  induction n generalizing count room s with
  | zero => rfl
  | succ n ih =>
    unfold reserveDescs
    split
    · rfl
    extract_lets q size i f
    split
    · rfl
    have hf : f.2.flow p = s.flow p := by
      have hd := fetchDesc_flow p s r
      unfold f
      split
      · split <;> next h => rw [h] at hd; simpa using hd
      · rfl
    split
    · exact hf
    · split
      · rw [ih, completeDesc_flow, updRing_flow, hf]
      · rw [ih, hf]

@[simp] theorem stageRx_flow (f : Staged) (good known : Bool) : (s.stageRx f good known).2.flow p = s.flow p := by
  unfold stageRx
  extract_lets r most need x
  have hx : x.2.flow p = s.flow p := reserveDescs_flow ..
  split
  · exact (ringCause_flow ..).trans ((bump_ring_flow _ _ _ _ _ (by decide)).trans hx)
  split
  · exact (ringCause_flow ..).trans ((bump_ring_flow _ _ _ _ _ (by decide)).trans hx)
  split
  · exact (bump_flow _ _ _ _ _ (by unfold qIdx; omega) (by decide)).trans hx
  · exact hx

/-! ### The taps -/

@[simp] theorem peepDrop_flow (k : Nat) : (s.peepDrop (p / 64) k).flow p = s.flow p := by
  unfold peepDrop
  rw [raiseOnce_flow, bumpRow_window_flow]

@[simp] theorem skidPush_flow (c : Nat) (f : SkidFrame) : (s.skidPush c f).flow p = s.flow p := rfl

@[simp] theorem peepCopy_flow (k : Nat) (t : TapIn) : (s.peepCopy (p / 64) k t).flow p = s.flow p := by
  unfold peepCopy
  dsimp only
  repeat' split
  all_goals simp

/-- A frame that passes a tap of port `p`. -/
theorem peepTap_flow (t : TapIn) (h : t.port = p) : (s.peepTap t).flow p = s.flow p := by
  subst h
  refine foldl_flow s fun s k _ => ?_
  split
  · rfl
  · dsimp only
    split <;> simp [bumpRow_window_flow]

/-! ### Control frames -/

@[simp] theorem settlePort_flow (i : Nat) : (s.settlePort i).flow p = s.flow p :=
  foldl_flow s fun s n _ => by
    unfold settleClass
    dsimp only
    repeat' split
    all_goals rfl

@[simp] theorem landFcLate_flow (i back : Nat) : (s.landFcLate i back).flow p = s.flow p := by
  unfold landFcLate
  dsimp only
  split
  · rfl
  · rw [foldl_flow _ fun s w _ => by rw [settlePort_flow, updPort_flow, setPortReg_flow], updPort_flow]

@[simp] theorem ctlOnLanes_flow (i : Nat) : (s.ctlOnLanes i).flow p = s.flow p := updPortTx_flow _ _ _ _ fun _ => rfl

@[simp] theorem endOnLanes_flow (i : Nat) : (s.endOnLanes i).flow p = s.flow p := updPortTx_flow _ _ _ _ fun _ => rfl

@[simp] theorem lanes_flow (i sfd : Nat) (frag : Option Nat) (bs : Bytes) : (s.lanes i sfd frag bs).flow p = s.flow p := by
  unfold lanes; split <;> rfl

@[simp] theorem sendOwn_flow (sfd : Nat) (bs : Bytes) : (s.sendOwn p sfd bs).flow p = s.flow p := by
  unfold sendOwn
  rw [peepTap_flow p _ _ rfl, lanes_flow]

theorem bin_lt (n : Nat) : Pc.bin n < 16 := by
  unfold Pc.bin
  repeat' split
  all_goals decide

@[simp] theorem countSent_flow (i : Nat) (body : Bytes) : (s.countSent i body).flow p = s.flow p := by
  unfold countSent
  extract_lets f s1 s2
  have hb := bin_lt f
  rw [bumpPort_flow _ _ _ _ _ (by unfold Pc.txBin; omega), bumpPort_flow _ _ _ _ _ (.inl (by split_ifs <;> decide)),
    bumpPort_flow _ _ _ _ _ (by decide), bumpPort_flow _ _ _ _ _ (by decide)]

@[simp] theorem sendCtl_flow (k : CtlFrame) : (s.sendCtl p k).flow p = s.flow p := by
  unfold sendCtl
  extract_lets u
  have hu : u.flow p = s.flow p := by unfold u; rw [landFcLate_flow, ctlOnLanes_flow]
  cases k
  case verify => simp (disch := decide) [sendVerify, bumpPort_flow, hu]
  case respond => simp (disch := decide) [sendVerify, bumpPort_flow, hu]
  case pause q =>
    dsimp only
    unfold sendMacCtl
    rw [sendOwn_flow, countSent_flow, bumpPort_flow _ _ _ _ _ (by split <;> decide), hu]
  case pfc times =>
    dsimp only
    unfold sendMacCtl
    have hf (x : State) : ((List.range 8).foldl (fun s n => match times.getD n none with
        | some (_ + 1) => s.bumpPort p (Pc.txPfc + n)
        | _ => s) x).flow p = x.flow p := foldl_flow x fun s n hn => by
      have hn' := List.mem_range.mp hn
      split
      · exact bumpPort_flow _ _ _ _ _ (by unfold Pc.txPfc; omega)
      · rfl
    rw [sendOwn_flow, countSent_flow]
    split
    · rw [bumpPort_flow _ _ _ _ _ (by decide)]; exact (hf u).trans hu
    · exact (hf u).trans hu

@[simp] theorem queueCtl_flow (k : CtlFrame) : (s.queueCtl p k).flow p = s.flow p := by
  unfold queueCtl
  split
  · exact sendCtl_flow ..
  · exact updPortTx_flow _ _ _ _ fun _ => rfl

@[simp] theorem verifyStart_flow : (s.verifyStart p).flow p = s.flow p := by
  unfold verifyStart
  dsimp only
  have hu : (s.updPortTx p fun q => { q with verify := .initial, verifySent := 0 }).flow p = s.flow p :=
    updPortTx_flow _ _ _ _ fun _ => rfl
  split
  · exact hu
  split
  · rw [updPortTx_flow _ _ _ _ (by exact fun _ => rfl), hu]
  · rw [queueCtl_flow, updPortTx_flow _ _ _ _ (by exact fun _ => rfl), hu]

@[simp] theorem landLate_flow : (s.landLate p).flow p = s.flow p := by
  unfold landLate
  split
  · rfl
  · dsimp only
    rw [foldl_flow _ fun s w _ => by rw [verifyStart_flow, setReg_flow], updPortTx_flow _ _ _ _ (by exact fun _ => rfl)]

@[simp] theorem settlePfc_flow : (s.settlePfc p).flow p = s.flow p := by
  unfold settlePfc sendPfc
  split
  · rw [queueCtl_flow]; exact updPortTx_flow _ _ _ _ fun _ => rfl
  · rfl

@[simp] theorem boundaryTx_flow : (s.boundaryTx p).flow p = s.flow p := by
  unfold boundaryTx
  rw [landLate_flow]
  unfold sendWaiting
  dsimp only
  split
  · exact settlePfc_flow ..
  · rw [foldl_flow _ fun s k _ => sendCtl_flow .., setPortTx_flow _ _ _ _ (by exact rfl), settlePfc_flow]

/-! ### A frame that leaves -/

@[simp] theorem settleSignal_flow (i : Nat) : (s.settleSignal i).flow p = s.flow p := by
  unfold settleSignal setSignal
  split
  · rfl
  · rw [emit_flow]; exact updPortTx_flow _ _ _ _ fun _ => rfl

@[simp] theorem shutCause_flow (i bit : Nat) : (s.shutCause i bit).flow p = s.flow p := by
  unfold shutCause
  dsimp only
  split
  · rw [raise_flow, setShut_flow]
  · rfl

@[simp] theorem tapPlain_flow (f : TxFrame) (w : Word) : (s.tapPlain p f w).flow p = s.flow p := by
  unfold tapPlain
  split
  · rfl
  · exact peepTap_flow p _ _ rfl

@[simp] theorem overrunCheck_flow (f : TxFrame) : (s.overrunCheck p f).flow p = s.flow p := by
  unfold overrunCheck
  extract_lets shut
  split
  · rw [shutCause_flow, bumpPort_flow _ _ _ _ _ (by decide)]
  · rfl

@[simp] theorem frameLeft_flow (f : TxFrame) (bs : Bytes) (fin : End) : (s.frameLeft p f bs fin).flow p = s.flow p := by
  unfold frameLeft
  dsimp only
  rw [directDone_flow, peepTap_flow p _ _ rfl, tapPlain_flow, overrunCheck_flow]

@[simp] theorem stompLanes_flow (f : TxFrame) (body : Bytes) : (s.stompLanes p f body).flow p = s.flow p := by
  unfold stompLanes sendFragment
  dsimp only
  rw [frameLeft_flow, lanes_flow]
  split
  · rw [bumpPort_flow _ _ _ _ _ (by decide), bumpPort_flow _ _ _ _ _ (by decide)]
  · rw [bumpPort_flow _ _ _ _ _ (by decide)]

end

end Sys2Proof.Machine
end

