-- ==== Sys2Proof/Proofs/Roles.lean ====
section
namespace Sys2Proof.Machine
open State

/-! ### Giving the lanes away (R46, R429, R430, R452) -/

/-- The ports of `ps` present idle in place of their PCS output, every other port as before; the swing and the counts of takeovers and
demotions are as they were. -/
structure State.Released (ps : List Nat) (s t : State) : Prop where
  pcs : ∀ i, (t.portTxOf i).ownPcs = ((s.portTxOf i).ownPcs && !ps.contains i)
  swing : t.twin.swing = s.twin.swing
  takeovers : t.ctr 0x0500 0x2B = s.ctr 0x0500 0x2B
  demotions : t.ctr 0x0500 0x2C = s.ctr 0x0500 0x2C

theorem State.Released.trans {ps qs : List Nat} {s t u : State} (h : s.Released ps t) (k : t.Released qs u) : s.Released (ps ++ qs) u where
  pcs i := by rw [k.pcs, h.pcs, List.contains_append, Bool.not_or, Bool.and_assoc]
  swing := k.swing.trans h.swing
  takeovers := k.takeovers.trans h.takeovers
  demotions := k.demotions.trans h.demotions

theorem released_of_flow {p : Nat} {s t : State} (h : t.flow p = s.flow p) : s.Released [] t where
  pcs i := (congrArg HoldView.ownPcs (flow_hold h i)).trans (by simp [PortTx.hold])
  swing := flow_twin h
  takeovers := flow_ctr h (by simp [watched])
  demotions := flow_ctr h (by simp [watched])

/-- The frame on the wire is gone; who drives the lanes has not changed. -/
theorem wireFree_released (s : State) (p : Nat) (f : TxFrame) : s.Released [] (s.wireFree p f) := by
  have hu : s.Released [] (s.updPortTx p fun q => { q with wire := none, tails := q.tails ++ TxFrame.tail f }) := by
    refine ⟨fun i => ?_, rfl, rfl, rfl⟩
    by_cases hi : i = p
    · subst hi; simp
    · rw [updPortTx, show (s.setPortTx p _).portTxOf i = s.portTxOf i from SMap.get_set_ne _ hi]; simp
  exact hu.trans (released_of_flow (p := p) ((boundaryTx_flow ..).trans (endOnLanes_flow ..)))

theorem portSilent_released (s : State) (p : Nat) : s.Released [p] (s.portSilent p) := by
  have hu : s.Released [p] (s.updPortTx p fun q => { q with ownPcs := false }) := by
    refine ⟨fun i => ?_, rfl, rfl, rfl⟩
    by_cases hi : i = p
    · subst hi; simp
    · rw [updPortTx, show (s.setPortTx p _).portTxOf i = s.portTxOf i from SMap.get_set_ne _ hi]; simp [hi]
  exact hu.trans (released_of_flow (p := p) (settleSignal_flow ..))

theorem releasePort_released (s : State) (p : Nat) : s.Released [p] (s.releasePort p) := by
  unfold releasePort
  split
  · next f _ =>
    have hc : (s.countFirst p f Pc.swingStomp).flow p = s.flow p := by
      unfold countFirst
      split
      · exact bumpPort_flow _ _ _ _ _ (by decide)
      · rfl
    exact ((released_of_flow ((stompLanes_flow ..).trans hc)).trans (portSilent_released _ p)).trans (wireFree_released _ p f)
  · exact portSilent_released s p

theorem releasePorts_released (ps : List Nat) (s : State) : s.Released ps (ps.foldl (fun s p => s.releasePort p) s) := by
  induction ps generalizing s with
  | nil => exact released_of_flow (p := 0) rfl
  | cons p ps ih => exact (releasePort_released s p).trans (ih _)

/-- A port that no entry names presents idle. -/
theorem ownPcs_unlisted {s : State} {i : Nat} (h : i ∉ s.portTx.map (·.1)) : (s.portTxOf i).ownPcs = false := by
  have hd : s.portTxOf i = {} := by
    by_contra hne
    exact h (List.mem_map.mpr ⟨_, get_mem hne, rfl⟩)
  rw [hd]

/-- The lanes given away: no port drives its own PCS output, and the role stands. -/
theorem swingRelease_pcs (s : State) (i : Nat) : (s.swingRelease.portTxOf i).ownPcs = false := by
  have h := (releasePorts_released (s.portTx.map (·.1)) s).pcs i
  change ((State.portTxOf _ i).ownPcs) = _
  by_cases hm : i ∈ s.portTx.map (·.1)
  · exact h.trans (by simp [hm])
  · exact h.trans (by rw [ownPcs_unlisted hm]; rfl)

theorem swingRelease_swing (s : State) : s.swingRelease.twin.swing = { s.twin.swing with release := true } := by
  have h := (releasePorts_released (s.portTx.map (·.1)) s).swing
  rw [← h]; rfl

theorem swingRelease_demotions (s : State) : s.swingRelease.ctr 0x0500 0x2C = s.ctr 0x0500 0x2C := by
  have h := (releasePorts_released (s.portTx.map (·.1)) s).demotions
  rw [← h]; rfl

theorem setRole_portTx (s : State) (r : Role) : (s.setRole r).portTx = s.portTx := by
  unfold setRole
  dsimp only
  repeat' split
  all_goals simp [updTwin]

/-- An entry to DEMOTED is counted (R436). -/
theorem setRole_demotions {s : State} (h : s.twin.role ≠ .demoted) :
    (s.setRole .demoted).ctr 0x0500 0x2C = s.ctr 0x0500 0x2C + 1 := by
  unfold setRole
  dsimp only
  rw [if_neg (Ne.symm h), raise_ctr _ _ _ _ _ _ (by decide) (by decide) (by decide) (by decide), if_pos rfl, if_neg (by simp)]
  exact ctr_bumpRow ..

/-- An entry to ACTIVE from a shadow role is counted (R436). -/
theorem setRole_takeovers {s : State} (h : s.twin.role = .standby ∨ s.twin.role = .orphan) :
    (s.setRole .active).ctr 0x0500 0x2B = s.ctr 0x0500 0x2B + 1 := by
  have hne : Role.active ≠ s.twin.role := by rcases h with h | h <;> simp [h]
  unfold setRole
  dsimp only
  rw [if_neg hne, raise_ctr _ _ _ _ _ _ (by decide) (by decide) (by decide) (by decide), if_neg (by simp), if_pos ⟨rfl, h⟩]
  exact ctr_bumpRow ..

/-- What a demotion does to a complex that has a role to lose (R429, R46). -/
theorem demote_active {s : State} (h : s.twin.role = .active) :
    s.demote.twin.role = .demoted ∧ s.demote.twin.release = true ∧ (∀ i, (s.demote.portTxOf i).ownPcs = false) ∧
      s.demote.ctr 0x0500 0x2C = s.ctr 0x0500 0x2C + 1 := by
  obtain ⟨x, hx⟩ := hingeSend_said s .demoting
  have hd : s.demote = ((s.said x).swingRelease).setRole .demoted := by unfold demote; rw [h, ← hx]
  have hr : (s.said x).swingRelease.twin.role = .active := (congrArg SwingView.role (swingRelease_swing _)).trans h
  rw [hd, setRole_twin _ _ (by simp [hr])]
  refine ⟨rfl, rfl, fun i => ?_, ?_⟩
  · unfold portTxOf; rw [setRole_portTx]; exact swingRelease_pcs _ i
  · rw [setRole_demotions (by simp [hr]), swingRelease_demotions]; rfl

theorem demote_shadow {s : State} (h : s.twin.role = .standby ∨ s.twin.role = .orphan) :
    s.demote.twin.role = .demoted ∧ s.demote.twin.release = true ∧ s.demote.ctr 0x0500 0x2C = s.ctr 0x0500 0x2C + 1 := by
  obtain ⟨x, hx⟩ := hingeSend_said s .demoting
  have hd : s.demote = (s.said x).setRole .demoted := by unfold demote; rcases h with h | h <;> rw [h, ← hx]
  have hr : (s.said x).twin.role ≠ .demoted := by rcases h with h | h <;> simp [h]
  rw [hd, setRole_twin _ _ hr.symm, setRole_demotions hr]
  exact ⟨rfl, rfl, rfl⟩

/-! ### A shadow takes over (R452) -/

theorem pnAlert_flow (p : Nat) (s : State) (c r : Nat) (ex : Bool) : (s.pnAlert c r ex).flow p = s.flow p := by
  unfold pnAlert
  dsimp only
  split
  · rfl
  split
  · rw [raise_flow, setClRx_flow]
  · rfl

theorem saFlag_flow (p : Nat) (s : State) (c r bit : Nat) : (s.saFlag c r bit).flow p = s.flow p := by
  unfold saFlag
  dsimp only
  split
  · rfl
  · rw [pnAlert_flow, rowSet_flow]

theorem pnJump_flow (p : Nat) (s : State) (i : Nat) : (s.pnJump i).flow p = s.flow p := by
  unfold pnJump
  split
  · extract_lets c w own peer peerPn pn xpn u
    split
    · rw [saFlag_flow]; exact rowSet_flow ..
    · exact rowSet_flow ..
  · rfl

/-- A shadow that takes over is ACTIVE with its request low, once more counted (R436, R452). -/
theorem takeOver_spec {s : State} (h : s.twin.role = .standby ∨ s.twin.role = .orphan) :
    s.takeOver.twin.role = .active ∧ s.takeOver.twin.selMine = s.twin.selMine ∧ s.takeOver.twin.request = false ∧
      s.takeOver.ctr 0x0500 0x2B = s.ctr 0x0500 0x2B + 1 := by
  unfold takeOver
  extract_lets u now_ w
  have hu : u.flow 0 = s.flow 0 := foldl_flow s fun s i _ => pnJump_flow ..
  clear_value u
  have hw : w.twin.role = s.twin.role ∧ w.twin.selMine = s.twin.selMine :=
    ⟨congrArg SwingView.role (flow_twin hu), congrArg SwingView.selMine (flow_twin hu)⟩
  have hc : u.ctr 0x0500 0x2B = s.ctr 0x0500 0x2B := flow_ctr hu (by simp [watched])
  have hne : Role.active ≠ w.twin.role := by rw [hw.1]; rcases h with h | h <;> simp [h]
  rw [setRole_takeovers (by rw [hw.1]; exact h), setRole_twin _ _ hne]
  exact ⟨rfl, hw.2, by simp [TwinUnit.withRole], congrArg (· + 1) hc⟩

/-! ### The role (R427, R429, R430, R452) -/

/-- A strobe that lands, of a unit whose condition on it holds. -/
theorem takes_strobe {s : State} {ix : Ix} {idx sub : Nat} (name : String) (hw : ∀ c t, ix ≠ .window c t) (hk : idx ≠ 0x0600)
    (hp : idx ≠ 0x0300) (hl : landsAtOnce idx sub = false)
    (h : ∀ landing, s.objCond s.landedVal landing ix idx sub (storedAs ix sub 1) = true) : s.Takes ix (woObj sub name .strobe) idx 1 where
  acc := .inr (.inl rfl)
  plain := ⟨by simp [woObj], by simp [woObj]⟩
  window := hw
  keys := fun e => absurd e hk
  fits := rfl
  closed := fun e => by simp [woObj] at e
  accept := h false
  land := h true
  late := hl
  anytime := fun e => hp e.1

/-- Settles O40: the strobes land as `demote` and `landReinstate`, a rise of sel_mine as `takeOver`; what each leaves of the
swing and of its count is said above. -/
theorem roles : Obligations.Roles := by
  refine ⟨?demote, ?reinstate, ?rise, ?fall⟩
  case demote =>
    intro dt via s hr hrole
    refine answers_write (ix := .twin) (o := woObj 0x0E "DEMOTE" .strobe) dt via hr (by decide) rfl (by decide) rfl ?_ fun x _ => ?_
    · exact takes_strobe "DEMOTE" (fun _ _ h => Ix.noConfusion h) (by decide) (by decide) rfl fun _ => rfl
    · rw [objEffect_plain _ _ _ (by decide)]
      change (State.demote _).twin.role = _ ∧ (State.demote _).twin.release = _ ∧ (_ → ∀ p, ((State.demote _).portTxOf p).ownPcs = false) ∧
        (State.demote _).ctr _ _ = _
      rcases hrole with h | h
      · obtain ⟨h1, h2, h3, h4⟩ := demote_active (s := (s.elapse dt).said x) h
        exact ⟨h1, h2, fun _ => h3, h4⟩
      · obtain ⟨h1, h2, h4⟩ := demote_shadow (s := (s.elapse dt).said x) h
        exact ⟨h1, h2, fun h' => by simp [h'] at h, h4⟩
  case reinstate =>
    intro dt via s hr hrole hf
    refine answers_write (ix := .twin) (o := woObj 0x0F "REINSTATE" .strobe) dt via hr (by decide) rfl (by decide) rfl ?_ fun x _ => ?_
    · have hok : (s.elapse dt).reinstateOk = true := by
        rw [reinstateOk, show (s.elapse dt).twin.role = .demoted from hrole, hf]; rfl
      refine takes_strobe "REINSTATE" (fun _ _ h => Ix.noConfusion h) (by decide) (by decide) rfl fun _ => ?_
      simp [objCond, hok]
    · rw [objEffect_plain _ _ _ (by decide)]
      change (State.landReinstate _).twin.role = _ ∧ (State.landReinstate _).twin.release = _
      unfold landReinstate
      have hne (r : Role) (h : r ≠ .demoted) : r ≠ ((s.elapse dt).said x).twin.role := fun e => h (e.trans hrole)
      rw [show ((s.elapse dt).said x).paired = s.paired from rfl]
      cases s.paired
      · rw [if_neg (by decide), setRole_twin _ _ (hne _ (by decide))]
        exact ⟨rfl, by simp [TwinUnit.withRole]⟩
      · rw [if_pos rfl, setRole_twin _ _ (hne _ (by decide))]
        refine ⟨rfl, ?_⟩
        change (false || (s.twin.release && s.twin.selMine && true)) = _
        simp
  case rise =>
    intro dt s hr
    obtain ⟨h1, h2, h3, h4⟩ := takeOver_spec (s := (s.elapse dt).updTwin fun t => { t with selMine := true, request := false }) hr
    change AnswersSettled (execSelMineRise dt s) _
    unfold execSelMineRise
    rcases hr with h | h
    · have h' : ((s.elapse dt).updTwin fun t => { t with selMine := true, request := false }).twin.role = .standby := h
      simp only [h']
      exact answersSettled ⟨h1, h2, h3, h4⟩
    · have h' : ((s.elapse dt).updTwin fun t => { t with selMine := true, request := false }).twin.role = .orphan := h
      simp only [h']
      exact answersSettled ⟨h1, h2, h3, h4⟩
  case fall =>
    intro dt s hr hp
    refine answers_pos (c := _ ∧ _) ⟨hr, hp⟩ (answers_next ?_)
    generalize hu : State.mismatchCapture _ 4 0 0 = u
    have hm : u.twin.role = .active ∧ u.twin.selMine = false := by
      rw [← hu]; unfold mismatchCapture; split <;> exact ⟨hr, rfl⟩
    have hs := swingRelease_swing u
    have hr' : u.swingRelease.twin.role = .active := (congrArg SwingView.role hs).trans hm.1
    rw [setRole_twin _ _ (by simp [hr'])]
    refine ⟨rfl, (congrArg SwingView.selMine hs).trans hm.2, rfl, fun p => ?_⟩
    unfold portTxOf
    rw [setRole_portTx]
    exact swingRelease_pcs _ p

end Sys2Proof.Machine
end

