-- ==== Sys2Proof/Proofs/Stages.lean ====
section
namespace Sys2Proof.Machine
open State

/-! ### The stages between grant and wire keep the grants (R181, R371, R402, R420) -/

section
variable (p : Nat) (s : State)

theorem calStage_flow (f : CalIn) : (s.calStage (p / 64) f).2.flow p = s.flow p := by
  have hb (x : State) (t u r n : Nat) := bumpRow_window_flow p x t u r n
  unfold calStage
  split
  · rfl
  · rfl
  · extract_lets k ctl acts s1 o w s2 s3 s4 s5 fail reason q s6 s7
    have h1 : s1.flow p = s.flow p := hb ..
    have h2 : s2.flow p = s.flow p := by
      unfold s2
      split
      · exact h1
      · exact ((rowSet_flow ..).trans ((rowSet_flow ..).trans (rowSet_flow ..))).trans h1
    have h3 : s3.flow p = s.flow p := (hb ..).trans h2
    have h4 : s4.flow p = s.flow p := by
      unfold s4; split
      · exact (hb ..).trans h3
      · exact h3
    have h5 : s5.flow p = s.flow p := by
      unfold s5; split
      · exact (hb ..).trans h4
      · exact h4
    have h6 : s6.flow p = s.flow p := by unfold s6; split <;> simp [h5]
    have h7 : s7.flow p = s.flow p := (raiseOnce_flow ..).trans h6
    split
    · rfl
    split
    · exact h1
    split
    · exact h5
    split
    · exact (hb ..).trans h7
    · exact h7
    · exact h7

theorem takePn_flow (c r gen : Nat) (xpn : Bool) : (s.takePn c r gen xpn).2.flow p = s.flow p := by
  unfold takePn
  extract_lets key next pn s1 s2 s3
  have h3 : s3.flow p = s.flow p := by
    unfold s3; split
    · rw [saFlag_flow, rowSet_flow, updClTx_flow]
    · rw [rowSet_flow, updClTx_flow]
  split
  · rw [saFlag_flow, h3]
  · exact h3

theorem drawMasks_flow (c : Nat) : (s.drawMasks c).flow p = s.flow p := by
  unfold drawMasks
  exact flow_congr rfl rfl rfl

theorem secStage_flow (f : TxFrame) (et : Nat) : (s.secStage p f et).2.flow p = s.flow p := by
  unfold secStage
  dsimp only
  split
  · rfl
  · split
    · exact bumpPort_flow _ _ _ _ _ (by decide)
    split
    · exact bumpRow_window_flow ..
    split
    · exact bumpPort_flow _ _ _ _ _ (by decide)
    · exact (drawMasks_flow ..).trans (takePn_flow ..)

theorem addDigest_flow (i tc cycle : Nat) (body : Bytes) : (s.addDigest i tc cycle body).flow p = s.flow p := by
  unfold addDigest
  extract_lets q ahead s1 q1
  have h1 : s1.flow p = s.flow p := by
    unfold s1
    split
    · unfold openDigest
      dsimp only
      repeat' split
      all_goals simp
    · rfl
  split
  · rfl
  split
  · rfl
  split
  · exact (setShut_flow ..).trans h1
  · rw [raiseOnce_flow, bump_flow _ _ _ _ _ (by decide) (by decide), h1]

theorem addBulk_flow (i tc len : Nat) : (s.addBulk i tc len).flow p = s.flow p := by
  unfold addBulk; split <;> rfl

theorem secCount_flow (f : TxFrame) (len : Nat) : (s.secCount p f len).flow p = s.flow p := by
  unfold secCount
  extract_lets w sec s1
  have h1 : s1.flow p = s.flow p := by
    unfold s1; split <;> rw [bumpRow_window_flow, bumpRow_window_flow]
  split
  · rfl
  split
  · exact (bumpPort_flow _ _ _ _ _ (by decide)).trans h1
  · exact h1

theorem dropFrame_flow (f : TxFrame) : (s.dropFrame p f).flow p = s.flow p := by
  unfold dropFrame
  extract_lets w s1 s2
  have h1 : s1.flow p = s.flow p := by
    unfold s1; split
    · exact (tapPlain_flow ..).trans rfl
    · rfl
  have h2 : s2.flow p = s.flow p := by
    unfold s2
    split
    · split
      · exact (bump_flow _ _ _ _ _ (by decide) (by decide)).trans h1
      · exact h1
    · exact h1
  rw [directDone_flow, h2]

end

/-- The same grant with the same bytes returned, wherever it stands in the stages. -/
def TxFrame.SameGrant (f g : TxFrame) : Prop := g.tag = f.tag ∧ g.data = f.data ∧ g.ended = f.ended

theorem TxFrame.SameGrant.refl (f : TxFrame) : f.SameGrant f := ⟨rfl, rfl, rfl⟩

theorem TxFrame.SameGrant.trans {f g k : TxFrame} (h : f.SameGrant g) (h' : g.SameGrant k) : f.SameGrant k :=
  ⟨h'.1.trans h.1, h'.2.1.trans h.2.1, h'.2.2.trans h.2.2⟩

theorem secStage_sameGrant (s : State) (p : Nat) (f : TxFrame) (et : Nat) : f.SameGrant (s.secStage p f et).1 := by
  unfold secStage
  dsimp only
  repeat' split
  all_goals exact ⟨rfl, rfl, rfl⟩

/-- One frame moves on through the stages: its grant and its bytes stand. -/
theorem stageFrame_keeps (s : State) (p : Nat) (f : TxFrame) :
    f.SameGrant (s.stageFrame p f).1 ∧ (s.stageFrame p f).2.flow p = s.flow p := by
  unfold stageFrame
  extract_lets c body tags cal f1 s1 sec f2 s2 s3
  have hcal : f.SameGrant f1 ∧ s1.flow p = s.flow p := by
    unfold f1 s1 cal
    split
    · exact ⟨.refl f, rfl⟩
    · have hc (x : CalIn) := calStage_flow p s x
      split <;> next h => exact ⟨⟨rfl, rfl, rfl⟩, (congrArg (fun x => x.2.flow p) h).symm.trans (hc _)⟩
  have hsec : f1.SameGrant f2 ∧ s2.flow p = s1.flow p := by
    unfold f2 s2 sec
    split
    · exact ⟨secStage_sameGrant .., secStage_flow ..⟩
    · exact ⟨.refl _, rfl⟩
  have h2 : f.SameGrant f2 ∧ s2.flow p = s.flow p := ⟨hcal.1.trans hsec.1, hsec.2.trans hcal.2⟩
  have h3 : s3.flow p = s.flow p := by
    unfold s3; split
    · rw [addBulk_flow, addDigest_flow, h2.2]
    · exact h2.2
  split
  · exact ⟨.refl f, rfl⟩
  split
  · exact ⟨h2.1, (secCount_flow ..).trans h3⟩
  · exact h2

/-- What `stagePort` does with one frame more: a frame waits while one before it waits. -/
def State.stageNext (p : Nat) (a : List TxFrame × State × Bool) (f : TxFrame) : List TxFrame × State × Bool :=
  if a.2.2 then (a.1 ++ [f], a.2.1, true)
  else
    let x := a.2.1.stageFrame p f
    (a.1 ++ [x.1], x.2, !x.1.secDone && !TxFrame.dead x.1)

theorem stageNext_keeps (p : Nat) (a : List TxFrame × State × Bool) (f : TxFrame) :
    (∃ g, f.SameGrant g ∧ (stageNext p a f).1 = a.1 ++ [g]) ∧ (stageNext p a f).2.1.flow p = a.2.1.flow p := by
  unfold stageNext
  split
  · exact ⟨⟨f, .refl f, rfl⟩, rfl⟩
  · obtain ⟨hg, hf⟩ := stageFrame_keeps a.2.1 p f
    exact ⟨⟨_, hg, rfl⟩, hf⟩

/-- The frames of a port, moved on in grant order, keep their grants. -/
theorem stageAll_keeps (p : Nat) (fs : List TxFrame) (a : List TxFrame × State × Bool) :
    (∀ g ∈ a.1, g ∈ (fs.foldl (stageNext p) a).1) ∧ (∀ f ∈ fs, ∃ g ∈ (fs.foldl (stageNext p) a).1, f.SameGrant g) ∧
      (fs.foldl (stageNext p) a).2.1.flow p = a.2.1.flow p := by
  induction fs generalizing a with
  | nil => exact ⟨fun _ h => h, by simp, rfl⟩
  | cons f fs ih =>
    obtain ⟨⟨g, hg, hl⟩, hf⟩ := stageNext_keeps p a f
    obtain ⟨hold, hnew, hflow⟩ := ih (stageNext p a f)
    refine ⟨fun x hx => hold x (by rw [hl]; exact List.mem_append_left _ hx), fun x hx => ?_, hflow.trans hf⟩
    rcases List.mem_cons.mp hx with rfl | hx
    · exact ⟨g, hold g (by rw [hl]; simp), hg⟩
    · exact hnew x hx

/-- A discarded frame whose end has been returned. -/
def TxFrame.over (f : TxFrame) : Bool := f.bad.isSome && f.ended

theorem stagePort_eq (s : State) (p : Nat) :
    let r := (s.portTxOf p).frames.foldl (stageNext p) ([], s, false)
    s.stagePort p = (r.1.filter TxFrame.over).foldl (fun s f => s.dropFrame p f)
      (r.2.1.updPortTx p fun q => { q with frames := r.1.filter fun f => !f.over }) := rfl

/-- The frames of a port move on: a grant whose end has not come stands, and so do the port's causes and the watched counters. -/
theorem stagePort_keeps (s : State) (p : Nat) :
    (∀ f ∈ (s.portTxOf p).frames, f.ended = false → ∃ g ∈ ((s.stagePort p).portTxOf p).frames, f.SameGrant g) ∧
      ((s.stagePort p).portTxOf p).cause = (s.portTxOf p).cause ∧
      ∀ k ∈ watched p, SMap.get 0 (s.stagePort p).ctrs k = SMap.get 0 s.ctrs k := by
  obtain ⟨-, hnew, hflow⟩ := stageAll_keeps p (s.portTxOf p).frames ([], s, false)
  rw [stagePort_eq]
  generalize (s.portTxOf p).frames.foldl (stageNext p) ([], s, false) = r at hnew hflow ⊢
  have hd : ((r.1.filter TxFrame.over).foldl (fun s f => s.dropFrame p f)
      (r.2.1.updPortTx p fun q => { q with frames := r.1.filter fun f => !f.over })).flow p =
      (r.2.1.updPortTx p fun q => { q with frames := r.1.filter fun f => !f.over }).flow p :=
    foldl_flow _ fun s f _ => dropFrame_flow ..
  refine ⟨fun f hf he => ?_, ?_, fun k hk => (flow_ctr hd hk).trans (flow_ctr hflow hk :)⟩
  · obtain ⟨g, hg, hs⟩ := hnew f hf
    refine ⟨g, ?_, hs⟩
    rw [show (State.portTxOf _ p).frames = _ from congrArg HoldView.frames (flow_hold hd p), PortTx.hold, portTxOf_updPortTx]
    exact List.mem_filter.mpr ⟨hg, by simp [TxFrame.over, hs.2.2, he]⟩
  · rw [show (State.portTxOf _ p).cause = _ from congrArg HoldView.cause (flow_hold hd p), PortTx.hold, portTxOf_updPortTx]
    exact congrArg HoldView.cause (flow_hold hflow p)

end Sys2Proof.Machine
end

