-- ==== Sys2Proof/Proofs/ReturnedGrants.lean ====
section
namespace Sys2Proof.Machine
open State

/-! ### A returned segment (R33, R360) -/

/-- The frame on the wire that has run past MAX_FRAME is marked, and nothing else of it changes. -/
theorem cutOversize_sameGrant (s : State) (p : Nat) (f : TxFrame) : f.SameGrant (s.cutOversize p f).1 := by
  unfold cutOversize
  split <;> exact ⟨rfl, rfl, rfl⟩

/-- A segment with no error that does not end its frame adds its bytes to it. -/
theorem addSegment_middle (s : State) (p : Nat) (f : TxFrame) {seg : Segment} (h : seg.eof = false) :
    (s.addSegment p f seg false).1.tag = f.tag ∧ (s.addSegment p f seg false).1.data = f.data ++ seg.data ∧
      (s.addSegment p f seg false).1.ended = false := by
  unfold addSegment
  extract_lets cut g s1 g2
  rw [if_pos (by simp [h])]
  refine ⟨?_, rfl, h⟩
  change cut.1.tag = f.tag
  unfold cut
  split
  · exact (cutOversize_sameGrant ..).1
  · rfl

/-- One frame more of those that a returned segment passes. -/
def State.returnNext (p tag : Nat) (seg : Segment) (a : List TxFrame × State) (f : TxFrame) : List TxFrame × State :=
  if f.tag == some tag && !f.ended then let x := a.2.addSegment p f seg false; (a.1 ++ [x.1], x.2) else (a.1 ++ [f], a.2)

theorem returnAll_middle (p tag : Nat) {seg : Segment} (hs : seg.eof = false) (fs : List TxFrame) (a : List TxFrame × State) :
    (∀ g ∈ a.1, g ∈ (fs.foldl (returnNext p tag seg) a).1) ∧
      ∀ f ∈ fs, f.tag = some tag → f.ended = false → ∃ g ∈ (fs.foldl (returnNext p tag seg) a).1,
        g.tag = some tag ∧ g.data = f.data ++ seg.data ∧ g.ended = false := by
  induction fs generalizing a with
  | nil => exact ⟨fun _ h => h, by simp⟩
  | cons f fs ih =>
    obtain ⟨hold, hnew⟩ := ih (returnNext p tag seg a f)
    have hl : ∃ g, (returnNext p tag seg a f).1 = a.1 ++ [g] ∧ (f.tag = some tag → f.ended = false →
        g.tag = some tag ∧ g.data = f.data ++ seg.data ∧ g.ended = false) := by
      unfold returnNext
      split
      · obtain ⟨ht, hd, he⟩ := addSegment_middle a.2 p f hs
        exact ⟨_, rfl, fun h _ => ⟨ht.trans h, hd, he⟩⟩
      · next h => exact ⟨f, rfl, fun ht he => absurd (by simp [ht, he]) h⟩
    obtain ⟨g, hl, hg⟩ := hl
    refine ⟨fun x hx => hold x (by rw [hl]; exact List.mem_append_left _ hx), fun x hx ht he => ?_⟩
    rcases List.mem_cons.mp hx with rfl | hx
    · exact ⟨g, hold g (by rw [hl]; simp), hg ht he⟩
    · exact hnew x hx ht he

theorem txCause_ctr (s : State) (p bit i u r : Nat) (hu : u < 256) (hr : r < 65536) (h5 : u ≠ 5) (h13 : u ≠ 0x13) :
    (s.txCause p bit).ctr i u r = s.ctr i u r := by
  unfold txCause
  dsimp only
  split
  · exact raise_ctr _ _ _ _ _ _ hu hr h5 h13
  · rfl

/-- A segment for a frame that has not started goes to it, and the port's stages move on (R360). -/
theorem returnedSegment_live (dt tag : Nat) {seg : Segment} {f : TxFrame} {s : State} (hr : s.txRuns seg.port = true)
    (hf : f ∈ (s.portTxOf seg.port).frames) (ht : f.tag = some tag) (he : f.ended = false) :
    let r := (s.portTxOf seg.port).frames.foldl (returnNext seg.port tag seg) ([], s.elapse dt)
    returnedSegmentRes dt tag seg false [] s = .next ((r.2.updPortTx seg.port fun q => { q with frames := r.1 }).stagePort seg.port) := by
  have hm : (s.portTxOf seg.port).frames.any (fun f => f.tag == some tag && !f.ended) = true :=
    List.any_eq_true.mpr ⟨f, hf, by simp [ht, he]⟩
  unfold returnedSegmentRes
  dsimp only
  rw [if_neg (by simpa [elapse_txRuns] using hr)]
  exact if_pos hm

/-- A segment whose tag no live frame waits for is one of a tail, or an orphan (R360). -/
theorem returnedSegment_rest (dt tag : Nat) {seg : Segment} {s : State} (hr : s.txRuns seg.port = true)
    (h : ∀ f ∈ s.liveFrames seg.port, f.tag = some tag → f.ended = true) :
    returnedSegmentRes dt tag seg false [] s =
      returnedSegmentRes.tailOrOrphan tag seg (s.elapse dt) (s.portTxOf seg.port) := by
  have hno (f : TxFrame) (hf : f ∈ s.liveFrames seg.port) : ¬(f.tag == some tag && !f.ended) = true := fun hm => by
    simp only [Bool.and_eq_true, beq_iff_eq, Bool.not_eq_true'] at hm
    simp [h f hf hm.1] at hm
  have hm : ¬(s.portTxOf seg.port).frames.any (fun f => f.tag == some tag && !f.ended) = true := fun hm => by
    obtain ⟨f, hf, hx⟩ := List.any_eq_true.mp hm
    exact hno f (by simp [liveFrames, hf]) hx
  have hrest : returnedSegmentRes.rest tag seg false (s.elapse dt) (s.portTxOf seg.port) =
      returnedSegmentRes.tailOrOrphan tag seg (s.elapse dt) (s.portTxOf seg.port) := by
    unfold returnedSegmentRes.rest
    dsimp only
    split
    · next f hf => exact if_neg (hno f (by simp [liveFrames, hf]))
    · rfl
  unfold returnedSegmentRes
  dsimp only
  rw [if_neg (by simpa [elapse_txRuns] using hr), show (s.elapse dt).calUpsets (seg.port / 64) [] = s.elapse dt from rfl,
    show (s.elapse dt).portTxOf seg.port = s.portTxOf seg.port from rfl, if_neg hm]
  split
  · next f hf => rw [if_neg (hno f (by simp [liveFrames, hf])), hrest]
  · next f hw hf => rw [if_neg (hno f (by simp [liveFrames, hf])), hrest]
  · exact hrest

/-- The end of a grant with another length than announced is counted, and cause LEN_MISMATCH is set (R33). -/
theorem lengthCheck_mismatch (s : State) (p : Nat) {annLen len : Nat} (h : len ≠ annLen) :
    (s.lengthCheck p annLen len).ctr (0x1800 + p) Pc.headLenMismatch = s.ctr (0x1800 + p) Pc.headLenMismatch + 1 ∧
      ((s.lengthCheck p annLen len).portTxOf p).cause.bit 1 = true := by
  unfold lengthCheck
  rw [if_pos h]
  refine ⟨?_, ?_⟩
  · rw [txCause_ctr]
    · exact ctr_bumpPort ..
    all_goals decide
  · rw [txCause_portTx]; exact bit_setBit_self _ _ (by decide)

theorem lengthCheck_tails (s : State) (p annLen len : Nat) :
    ((s.lengthCheck p annLen len).portTxOf p).tails = (s.portTxOf p).tails := by
  unfold lengthCheck
  split
  · rw [txCause_portTx, bumpPort, (bumpRow_beside (.refl s)).portTxOf]
  · rfl

theorem bit_setBit_of {w : Word} {i : Nat} (j : Nat) (h : w.bit i = true) : (w.setBit j true).bit i = true := by
  simp only [Word.setBit, Word.bit, if_true, BitVec.getLsbD_or] at h ⊢
  rw [h, Bool.true_or]

/-- A mismatch that has been counted stands when another counter and another cause follow. -/
theorem mismatch_stands {s : State} {p slot bit : Nat} (h : slot ≠ Pc.headLenMismatch) :
    ((s.bumpPort p slot).txCause p bit).ctr (0x1800 + p) Pc.headLenMismatch = s.ctr (0x1800 + p) Pc.headLenMismatch ∧
      ((s.portTxOf p).cause.bit 1 = true → (((s.bumpPort p slot).txCause p bit).portTxOf p).cause.bit 1 = true) := by
  refine ⟨?_, fun hb => ?_⟩
  · rw [txCause_ctr]
    · exact ctr_bumpPort_ne _ _ _ _ _ h.symm
    all_goals decide
  · rw [txCause_portTx]
    refine bit_setBit_of bit ?_
    rw [bumpPort, (bumpRow_beside (.refl s)).portTxOf]
    exact hb

/-- The end segment of a grant that makes another length than announced. -/
theorem addSegment_mismatch (s : State) (p : Nat) (f : TxFrame) {seg : Segment} (he : seg.eof = true)
    (hl : f.data.length + seg.data.length ≠ f.annLen) :
    (s.addSegment p f seg false).2.ctr (0x1800 + p) Pc.headLenMismatch = s.ctr (0x1800 + p) Pc.headLenMismatch + 1 ∧
      ((s.addSegment p f seg false).2.portTxOf p).cause.bit 1 = true := by
  unfold addSegment
  extract_lets cut src g s1 g2 u
  have hcut : cut.1.annLen = f.annLen ∧ cut.2.ctr (0x1800 + p) Pc.headLenMismatch = s.ctr (0x1800 + p) Pc.headLenMismatch := by
    unfold cut
    split
    · unfold cutOversize
      split
      · exact ⟨rfl, (mismatch_stands (by decide)).1⟩
      · exact ⟨rfl, rfl⟩
    · exact ⟨rfl, rfl⟩
  have hu : u.ctr (0x1800 + p) Pc.headLenMismatch = s.ctr (0x1800 + p) Pc.headLenMismatch + 1 ∧ (u.portTxOf p).cause.bit 1 = true := by
    obtain ⟨hc, hb⟩ := lengthCheck_mismatch s1 p (annLen := g2.annLen) (len := g2.data.length) (by
      change (f.data ++ seg.data).length ≠ cut.1.annLen
      rwa [hcut.1, List.length_append])
    exact ⟨hc.trans (congrArg (· + 1) hcut.2), hb⟩
  clear_value u
  rw [if_neg (by simp [he])]
  split
  · exact hu
  split
  · exact ⟨(mismatch_stands (by decide)).1.trans hu.1, (mismatch_stands (by decide)).2 hu.2⟩
  split
  · exact ⟨(mismatch_stands (by decide)).1.trans hu.1, (mismatch_stands (by decide)).2 hu.2⟩
  · exact hu

/-! ### Grants that never come back (R395) -/

/-- The tags of outstanding grants that a port's grants name (R360). -/
def HoldView.tags (h : HoldView) : List Nat :=
  ((h.frames ++ h.wire.toList ++ h.held.toList).filterMap fun f => if f.ended then none else f.tag) ++ h.tails.map (·.tag)

theorem outTags_hold (s : State) (p : Nat) : s.outTags p = (s.portTxOf p).hold.tags := rfl

theorem txAbandon_spec {s : State} {p : Nat} (h : s.outTags p ≠ []) : (s.txAbandon p).outTags p = [] ∧
    ((s.txAbandon p).portTxOf p).cause.bit 7 = true ∧
    (s.txAbandon p).ctr (0x1800 + p) Pc.txReturnLost = s.ctr (0x1800 + p) Pc.txReturnLost + BitVec.ofNat 48 (s.outTags p).length := by
  unfold txAbandon
  extract_lets n u
  rw [if_neg (by simpa [n] using h)]
  have hf := landLate_flow p ((u.bumpPort p Pc.txReturnLost n).txCause p 7)
  generalize hv : (u.bumpPort p Pc.txReturnLost n).txCause p 7 = v at hf ⊢
  have hq : v.portTxOf p = { u.portTxOf p with cause := (u.portTxOf p).cause.setBit 7 true } := by
    rw [← hv, txCause_portTx, bumpPort, (bumpRow_beside (.refl u)).portTxOf]
  have hh := flow_hold hf p
  refine ⟨?_, ?_, ?_⟩
  · rw [outTags_hold, hh, hq]
    have hw : ((s.portTxOf p).wire.map fun f => if f.ended then f else { f with tag := none, f := 0, w := 0 }).toList.filterMap
        (fun f => if f.ended then none else f.tag) = [] := by
      cases (s.portTxOf p).wire with
      | none => rfl
      | some f => by_cases hf : f.ended = true <;> simp [hf]
    have hf (l : List TxFrame) : (l.filter (·.ended)).filterMap (fun f => if f.ended then none else f.tag) = [] :=
      List.filterMap_eq_nil_iff.mpr fun f hm => by simp [(List.mem_filter.mp hm).2]
    have hd : ((s.portTxOf p).held.filter (·.ended)).toList.filterMap (fun f => if f.ended then none else f.tag) = [] := by
      cases (s.portTxOf p).held with
      | none => rfl
      | some f => by_cases he : f.ended = true <;> simp [Option.filter, he]
    simp only [HoldView.tags, PortTx.hold, u, portTxOf_updPortTx, List.filterMap_append, hw, hf, hd]
    rfl
  · rw [show (State.portTxOf _ p).cause = _ from congrArg HoldView.cause hh, PortTx.hold, hq]
    exact bit_setBit_self _ _ (by decide)
  · refine (flow_ctr hf (by simp [watched])).trans ?_
    rw [← hv]
    refine (txCause_ctr _ _ _ _ _ _ (by decide) (by decide) (by decide) (by decide)).trans ?_
    exact ctr_bumpPort ..

/-- Settles O21: a segment goes to the frames that wait for it, which the stages then keep, or to its tail; the counters and the causes
stand through what follows, as `stagePort_keeps` and `landLate_flow` say. -/
theorem returnedGrants : Obligations.ReturnedGrants := by
  refine ⟨?middle, ?mismatch, ?tail, ?orphan, ?lost⟩
  case middle =>
    intro dt tag seg f s hr hf ht he hs
    change AnswersSettled (settled (returnedSegmentRes dt tag seg false [] s)) _
    rw [returnedSegment_live dt tag hr hf ht he]
    refine answersSettled ?_
    obtain ⟨g, hg, hgt, hgd, hge⟩ := (returnAll_middle seg.port tag hs (s.portTxOf seg.port).frames ([], s.elapse dt)).2 f hf ht he
    generalize (s.portTxOf seg.port).frames.foldl (returnNext seg.port tag seg) ([], s.elapse dt) = r at hg ⊢
    obtain ⟨k, hk, hkt, hkd, hke⟩ := (stagePort_keeps (r.2.updPortTx seg.port fun q => { q with frames := r.1 }) seg.port).1 g
      (by rw [portTxOf_updPortTx]; exact hg) hge
    exact ⟨k, hk, hkt.trans hgt, hkd.trans hgd, hke.trans hge⟩
  case mismatch =>
    intro dt tag seg f s hr hf ht he hs hl
    change AnswersSettled (settled (returnedSegmentRes dt tag seg false [] s)) _
    rw [returnedSegment_live dt tag hr (by rw [hf]; exact List.mem_singleton_self f) ht he]
    refine answersSettled ?_
    obtain ⟨hc, hb⟩ := addSegment_mismatch (s.elapse dt) seg.port f hs hl
    have hfold : (s.portTxOf seg.port).frames.foldl (returnNext seg.port tag seg) ([], s.elapse dt) =
        ([((s.elapse dt).addSegment seg.port f seg false).1], ((s.elapse dt).addSegment seg.port f seg false).2) := by
      rw [hf]
      exact if_pos (by simp [ht, he])
    rw [hfold]
    obtain ⟨-, hcause, hctr⟩ := stagePort_keeps (((s.elapse dt).addSegment seg.port f seg false).2.updPortTx seg.port fun q =>
      { q with frames := [((s.elapse dt).addSegment seg.port f seg false).1] }) seg.port
    refine ⟨(hctr _ (by simp [watched])).trans hc, ?_⟩
    rw [hcause, portTxOf_updPortTx]
    exact hb
  case tail =>
    intro dt tag seg tail s hr hlive htail
    change AnswersSettled (settled (returnedSegmentRes dt tag seg false [] s)) _
    rw [returnedSegment_rest dt tag hr hlive]
    unfold returnedSegmentRes.tailOrOrphan
    simp only [htail]
    split
    · next he =>
      refine answersSettled ⟨?_, fun _ hl => ?_⟩
      · rw [lengthCheck_tails, portTxOf_updPortTx, List.nil_append]
      · obtain ⟨hc, hb⟩ := lengthCheck_mismatch ((s.elapse dt).updPortTx seg.port fun q =>
          { q with tails := (s.portTxOf seg.port).tails.filter fun u => u.tag != tag }) seg.port hl
        exact ⟨hc, hb⟩
    · next he =>
      refine answersSettled ⟨?_, fun h => absurd h he⟩
      rw [portTxOf_updPortTx]
      rfl
  case orphan =>
    intro dt tag seg s hr ho
    have hlive : ∀ f ∈ s.liveFrames seg.port, f.tag = some tag → f.ended = true := fun f hf ht => by
      by_contra he
      exact ho (List.mem_append_left _ (List.mem_filterMap.mpr ⟨f, hf, by simp [he, ht]⟩))
    have htail : (s.portTxOf seg.port).tails.find? (fun t => t.tag == tag) = none :=
      List.find?_eq_none.mpr fun t ht h => ho (List.mem_append_right _ (List.mem_map.mpr ⟨t, ht, by simpa using h⟩))
    change AnswersSettled (settled (returnedSegmentRes dt tag seg false [] s)) _
    rw [returnedSegment_rest dt tag hr hlive]
    unfold returnedSegmentRes.tailOrOrphan
    simp only [htail]
    exact answersSettled ⟨ctr_bumpPort .., (bumpRow_beside (.refl _)).portTx⟩
  case lost =>
    intro dt p s hd hn
    have hn' : (s.elapse dt).outTags p ≠ [] := hn
    refine answers_neg ?_ (answers_next (txAbandon_spec hn'))
    have hz : ((s.elapse dt).outTags p).length ≠ 0 := fun h => hn' (List.length_eq_zero_iff.mp h)
    simp only [not_or]
    exact ⟨by rw [Bool.not_eq_true', Bool.not_eq_false]; exact decide_eq_true hd, hz⟩

end Sys2Proof.Machine
end

