-- ==== Sys2Proof/Proofs/RxFrameReachesSkid.lean ====
section
namespace Sys2Proof.Machine
open State

/-! ### A good data frame on its way to the skid (R134, R168, R169, R250–R255) -/

/-- What the stages of port `p` leave of the way to its skid: the tables, the objects, the skid, and the count of good frames. -/
structure State.RxKept (p : Nat) (s t : State) : Prop where
  rows : t.rows = s.rows
  regs : t.regs = s.regs
  skid : (t.clRx (p / 64)).skid = (s.clRx (p / 64)).skid
  frames : t.ctr (0x1800 + p) Pc.rxFramesOk = s.ctr (0x1800 + p) Pc.rxFramesOk

section
variable {p : Nat} {s t u : State}

theorem State.RxKept.refl (p : Nat) (s : State) : s.RxKept p s := ⟨rfl, rfl, rfl, rfl⟩

theorem State.RxKept.trans (h : s.RxKept p t) (k : t.RxKept p u) : s.RxKept p u :=
  ⟨k.rows.trans h.rows, k.regs.trans h.regs, k.skid.trans h.skid, k.frames.trans h.frames⟩

theorem State.RxKept.regN (h : s.RxKept p t) (i v : Nat) : t.regN i v = s.regN i v := by unfold State.regN reg; rw [h.regs]

theorem State.RxKept.need (h : s.RxKept p t) : t.skidNeed p = s.skidNeed p := by unfold skidNeed; rw [h.regN]

theorem State.RxKept.free (h : s.RxKept p t) : t.skidFree (p / 64) = s.skidFree (p / 64) := by unfold skidFree; rw [h.skid]

/-- A counter of the port other than RX_FRAMES_OK. -/
theorem bumpPort_rxKept (s : State) (p slot n : Nat) (h : slot ≠ Pc.rxFramesOk) : s.RxKept p (s.bumpPort p slot n) where
  rows := (bumpRow_beside (.refl s)).rows
  regs := by simp [bumpPort]
  skid := by rw [bumpPort, (bumpRow_beside (.refl s)).clRx]
  frames := ctr_bumpPort_ne _ _ _ _ _ h.symm

theorem queueLearn_rxKept (s : State) (p : Nat) (q : LearnReq) : s.RxKept p (s.queueLearn (p / 64) q) := by
  unfold queueLearn
  dsimp only
  split
  · exact .refl p s
  split
  · exact .refl p s
  split
  · exact ⟨(bumpRow_beside (.refl s)).rows, by simp, by rw [bump, (bumpRow_beside (.refl s)).clRx], by
      refine ctr_bumpRow_ne _ _ _ _ _ _ _ _ ?_
      unfold slotKey clIdx Pc.rxFramesOk
      omega⟩
  · exact ⟨rfl, rfl, by rw [updDoor, clRx_updClRx], rfl⟩

/-- A frame whose source is not that of an entry hit queues at most a learn (R253). -/
theorem doorLearn_rxKept (s : State) (p sa vid : Nat) {seen : DoorSeen} (h : seen ≠ .hit) : s.RxKept p (s.doorLearn p sa vid seen) := by
  unfold doorLearn
  cases seen
  case none => exact .refl p s
  case miss => exact queueLearn_rxKept ..
  case hit => exact absurd rfl h

theorem bumpPort_door (s : State) (p q slot n : Nat) : ((s.bumpPort q slot n).clRx (p / 64)).door.rows = (s.clRx (p / 64)).door.rows := by
  rw [bumpPort, (bumpRow_beside (.refl s)).clRx]

/-- With an empty Doorlist that learns or not, a frame from a station goes to the core (R250, R251). -/
theorem doorDecide_nil {sa : Nat} (da vid : Nat) (hd : (s.clRx (p / 64)).door.rows = []) (hm : s.regN (0x1000 + p) 0x50 ≤ 1)
    (hg : isGroup sa = false) (h0 : sa ≠ 0) :
    ∃ seen t, seen ≠ DoorSeen.hit ∧ s.doorDecide p sa da vid = (some { door := 1, seen }, t) ∧ s.RxKept p t := by
  unfold doorDecide
  extract_lets c l i v accept x s1 hit s2
  have hx : x = (none, s) := doorLookup_nil _ _ _ _ hd
  have h2 : s.RxKept p s2 := by unfold s2 s1; rw [hx]; exact bumpPort_rxKept s p Pc.rxDoorMiss 1 (by decide)
  have hmode : s2.regN i 0x50 = s.regN i 0x50 := h2.regN ..
  have hdoor : (s2.clRx (p / 64)).door.rows = [] := by
    unfold s2 s1; rw [hx]; exact (bumpPort_door ..).trans hd
  rw [if_neg (by simp [hg, h0]), hx]
  dsimp only
  rw [hmode]
  split
  · next h => exact absurd (show s.regN (0x1000 + p) 0x50 = 2 from h) (by omega)
  · next h => exact absurd (show s.regN (0x1000 + p) 0x50 = 3 from h) (by omega)
  · generalize (decide (s.regN i 0x50 = 0) && s2.learnFull p) = full
    have h3 : s.RxKept p (if full = true then s2.bumpPort p Pc.rxLearnLimit else s2) ∧
        ((if full = true then s2.bumpPort p Pc.rxLearnLimit else s2).clRx (p / 64)).door.rows = [] := by
      split
      · exact ⟨h2.trans (bumpPort_rxKept _ _ _ _ (by decide)), (bumpPort_door ..).trans hdoor⟩
      · exact ⟨h2, hdoor⟩
    refine ⟨if (decide (s.regN i 0x50 = 0) && !full) = true then .miss else .none, _, ?_, ?_, h3.1⟩
    · split <;> decide
    · unfold accept
      rw [doorDest_nil _ _ _ _ h3.2]

/-- The Doorlist and the meters pass a frame, with nothing configured: to the core, unmarked. -/
theorem decideRx_plain (o : SecOut) (mark : Bool) (tag : Option SysTag) (stamp : Word) (len : Option Nat) (held : Nat)
    (hd : (s.clRx (p / 64)).door.rows = []) (hm : s.regN (0x1000 + p) 0x50 ≤ 1) (hmeter : s.regN (0x1000 + p) 0x58 = 0)
    (hg : isGroup (saOf o.body) = false) (h0 : saOf o.body ≠ 0) :
    ∃ v t, s.decideRx p o mark tag stamp len held = (some v, t) ∧ s.RxKept p t ∧ v.door.core = true ∧ v.door.punt = none ∧
      v.door.seen ≠ .hit ∧ v.meter.drop = false ∧ v.meter.mark = false ∧ v.meter.due = none := by
  obtain ⟨seen, t, hs, hdec, ht⟩ := doorDecide_nil (daOf o.body) (s.rxTags p o.body).vid hd hm hg h0
  have hmt (f : MeterIn) (hf : f.port = p) : t.meterStage f = ({ colour := t.inputColour f }, t) := by
    have hz : t.regN (0x1000 + f.port) 0x58 = 0 := by rw [hf, ht.regN]; exact hmeter
    unfold meterStage meterSelect
    simp [hz]
  unfold decideRx
  simp only [hdec]
  rw [hmt _ rfl]
  exact ⟨_, t, rfl, ht, rfl, rfl, hs, rfl, rfl, rfl⟩

/-- The end of a good frame that was passed unmarked: it joins the skid, which has room for it (R28). -/
theorem finishRx_plain {v : RxVerdict} {o : SecOut} (strip : Bool) (tail : Bytes) {f : RxPass} (hp : p < 1024) (hrows : s.rows = [])
    (hroom : s.skidNeed p ≤ s.skidFree (p / 64)) (hcore : v.door.core = true) (hpunt : v.door.punt = none) (hseen : v.door.seen ≠ .hit)
    (hdrop : v.meter.drop = false) (hmark : v.meter.mark = false) (hdue : v.meter.due = none) (hfin : o.fin = .good)
    (hreason : o.reason = 0) (hstage : f.stage = .hold) :
    ∃ t, s.RxKept p t ∧ s.finishRx p v o strip tail f = t.skidPush (p / 64)
      { port := p, metaWord := v.info.word, bytes := o.body ++ fcsOf o.body, fin := .good, reason := 0, reserve := t.skidNeed p } := by
  have hl := doorLearn_rxKept s p (saOf o.body) v.info.vid hseen
  refine ⟨_, hl, ?_⟩
  generalize hu : s.doorLearn p (saOf o.body) v.info.vid v.door.seen = u at hl ⊢
  have hbody (x : State) : x.remarked p v.meter o.body = o.body := if_neg (by simp [hmark])
  have htap (t : TapIn) (ha : t.age = 0) (ht : t.port = p) : u.peepTap t = u := peepTap_nil t (hl.rows.trans hrows) ha (by omega)
  unfold finishRx
  rw [hfin, hu]
  simp only [beq_self_eq_true, if_true, meterEnd, hdue, hdrop, Bool.false_eq_true, if_false, hbody, handOver, hpunt, hcore, hstage,
    Bool.not_true, hreason]
  rw [htap _ rfl rfl]
  unfold toCore
  rw [if_neg (by rw [hl.need, hl.free]; omega), if_neg (by simp)]

theorem saOf_take {bs : Bytes} {n : Nat} (h : 12 ≤ n) : saOf (bs.take n) = saOf bs := by
  unfold saOf beAt slice
  rw [List.drop_take, List.take_take, Nat.min_eq_left (by omega)]

/-- A good frame in one piece goes through stages with nothing configured to the skid of its cluster (R9, R28). -/
theorem pipeline_plain {f : RxPass} (hp : p < 1024) (hrows : s.rows = []) (hsec : s.regB (0x1000 + p) 0x40 = false)
    (hmeter : s.regN (0x1000 + p) 0x58 = 0) (hm : s.regN (0x1000 + p) 0x50 ≤ 1) (hd : (s.clRx (p / 64)).door.rows = [])
    (hin : s.regN 0x0200 5 ≠ p) (hg : isGroup (saOf f.bytes) = false) (h0 : saOf f.bytes ≠ 0)
    (hroom : s.skidNeed p ≤ s.skidFree (p / 64)) (hlen : 64 ≤ f.bytes.length) (hfin : f.fin = .good) (hreason : f.reason = 0)
    (henv : f.env = {}) (hstage : f.stage = .hold) (hage : s.since f.begun = 0) (hfcs : fcsGood f.bytes = true) :
    ∃ t w, s.RxKept p t ∧ s.pipeline p false f = t.skidPush (p / 64)
      { port := p, metaWord := w, bytes := f.bytes, fin := .good, reason := 0, reserve := t.skidNeed p } := by
  have htap (x : TapIn) (ha : x.age = 0) (ht : x.port = p) : s.peepTap x = s := peepTap_nil x hrows ha (by omega)
  have hc : p / 64 < 16 := by omega
  have hbody : saOf (f.bytes.take (f.bytes.length - 4)) = saOf f.bytes := saOf_take (by omega)
  have hinb (b : Bytes) : s.isInband p b = false := by unfold isInband; simp [hin]
  unfold pipeline
  extract_lets c s1 tag n body tail body' age
  have hs1 : s1 = s := htap _ rfl rfl
  have hage' : age = 0 := by unfold age; rw [hs1, henv]; exact hage
  have hb : body' = f.bytes.take (f.bytes.length - 4) := by simp [body', body, n, hfin]
  obtain ⟨v, t, hdec, ht, hcore, hpunt, hseen, hdrop, hmark, hdue⟩ := decideRx_plain (s := s) (p := p)
    { body := body', fin := f.fin, reason := f.reason, known := f.known } false tag f.stamp
    (if f.known then some (body'.length + 4) else none) f.env.held hd hm hmeter (by rw [hb, hbody, hg]) (by rw [hb, hbody]; exact h0)
  obtain ⟨u, hu, hend⟩ := finishRx_plain (s := t) (p := p) (v := v) (o := { body := body', fin := f.fin, reason := f.reason, known := f.known })
    (f := f) false tail hp (ht.rows.trans hrows) (by rw [ht.need, ht.free]; exact hroom) hcore hpunt hseen hdrop hmark hdue hfin hreason hstage
  refine ⟨u, v.info.word, ht.trans hu, ?_⟩
  have hout (x : SecIn) (hx : x.port = p) : s.secStageRx x = (some { body := x.body, fin := x.fin, reason := x.reason, known := x.known }, s) :=
    secStageRx_off x (by rw [hx]; exact hsec)
  rw [hs1, hout _ rfl]
  simp only [hstage]
  rw [if_neg (fun h => absurd (hreason.symm.trans h.1) (by decide)), calStage_nil _ _ hc hrows hage' rfl]
  simp only [hinb, Bool.false_eq_true, if_false, hdec]
  rw [hend, hb, bytes_rejoin _ hfcs]

/-- A good frame is counted in RX_FRAMES_OK, and the way to the skid is as it was (R169). -/
theorem countOk_frames (s : State) (p : Nat) (bs : Bytes) :
    (s.countOk p bs).ctr (0x1800 + p) Pc.rxFramesOk = s.ctr (0x1800 + p) Pc.rxFramesOk + 1 := by
  have hb := bin_lt bs.length
  unfold countOk
  rw [ctr_bumpPort_ne _ _ _ _ _ (by unfold Pc.rxBin Pc.rxFramesOk; omega), ctr_bumpPort_ne _ _ _ _ _ (by split_ifs <;> decide),
    ctr_bumpPort_ne _ _ _ _ _ (by decide)]
  exact ctr_bumpPort ..

theorem countOk_rows (s : State) (p : Nat) (bs : Bytes) : (s.countOk p bs).rows = s.rows := by
  have hb (x : State) (k n : Nat) : (x.bumpPort p k n).rows = x.rows := (bumpRow_beside (.refl x)).rows
  simp only [countOk, hb]

theorem rxUpsets_nil (s : State) (c : Nat) : s.rxUpsets c [] = s := rfl

/-- A port that takes system tags as they come passes every frame on as it is (R142). -/
theorem tagAct_plain {bs : Bytes} (h : s.regN (0x1000 + p) 0xC = 0) : s.tagAct p bs = .pass := by
  unfold tagAct
  simp [h]

/-- Settles O7: the receive MAC counts the frame and passes it on, and the stages with nothing configured hand it to the skid. -/
theorem rxFrameReachesSkid : Obligations.RxFrameReachesSkid := by
  intro dt p bytes s hplain hgood hdata hsec hmeter hm hd hin hg h0 hroom
  have hp := hplain.1
  obtain ⟨-, -, -, -, -, -, -, htag, -, hwait, -, hrows⟩ := elapse_rxPlain dt hplain
  refine answersSettled ?_
  rw [rx_data (elapse_rxPlain dt hplain) hgood hdata]
  obtain ⟨hcl, hrx, htime, hregs⟩ := countOk_eqs (s.elapse dt) p bytes
  have hcount := countOk_frames (s.elapse dt) p bytes
  have hurows : ((s.elapse dt).countOk p bytes).rows = [] := (countOk_rows ..).trans hrows
  generalize (s.elapse dt).countOk p bytes = u at hcl hrx htime hregs hcount hurows ⊢
  have hreg (i v : Nat) : u.reg i v = s.reg i v := by unfold reg; rw [hregs]; rfl
  have hregN (i v : Nat) : u.regN i v = s.regN i v := by unfold regN; rw [hreg]
  have hclp : u.clRx (p / 64) = s.clRx (p / 64) := by unfold clRx; rw [hcl]; rfl
  have hroom' : u.skidNeed p ≤ u.skidFree (p / 64) := by unfold skidNeed skidFree at *; rw [hclp, hregN]; exact hroom
  have hage : u.since (s.elapse dt).runTime = 0 := by
    have hrun : u.runTime = (s.elapse dt).runTime := by unfold runTime; rw [htime]
    rw [← hrun, since_now]
  have hpass : (u.mustWait p) = false := by unfold mustWait port at *; rw [hrx]; exact hwait
  have htag' : u.tagAct p bytes = .pass := tagAct_plain ((hregN ..).trans htag)
  obtain ⟨t, w, ht, hend⟩ := pipeline_plain (s := u) (p := p)
    (f := { bytes, fin := .good, reason := 0, known := false, stamp := (s.elapse dt).rxStamp p 0, begun := (s.elapse dt).runTime, env := {},
            stage := .hold }) hp hurows (by unfold regB; rw [hreg]; exact hsec) ((hregN ..).trans hmeter) (by rw [hregN]; exact hm)
    (by rw [hclp]; exact hd) (by rw [hregN]; exact hin) hg h0 hroom' hgood.1 rfl rfl rfl rfl hage hgood.2.2
  unfold passOrWait
  rw [if_neg (by simp [hpass]), rxUpsets_nil, htag']
  refine ⟨⟨{ port := p, metaWord := w, bytes, fin := .good, reason := 0, reserve := t.skidNeed p }, ?_, rfl, rfl, rfl, rfl⟩, ?_⟩
  · refine (congrArg (fun x : State => (x.clRx (p / 64)).skid) hend).trans ?_
    rw [skidPush, clRx_updClRx, ht.skid, hclp]
  · exact (congrArg (fun x : State => x.ctr (0x1800 + p) Pc.rxFramesOk) hend).trans (ht.frames.trans hcount)

end

end Sys2Proof.Machine
end

