-- ==== Sys2Proof/Proofs/PowerDomains.lean ====
section
namespace Sys2Proof.Machine
open State

/-! ### DOMAIN_n OFF lands while an event of its own closing wakes the complex (R257, R531, R536, R548) -/

/-- A complex on its way to sleep, with LANE of cluster 0 still ON and DOMAIN_0 OFF about to land. A sweeper pass of that LANE is due at
a row in error, and the Night Latch watches the parity event with a wake of the common group. -/
def laneGoingDown : State where
  regs := [(slotKey 0x0700 0x10 0, 1), (slotKey 0x0700 0x40 0, Word.ofNat (2 ^ 63 + 2 ^ 48 + clEvent 0 6))]
  power := { doms := [(0, domainOn), (domTime, domainOn), (domDict, domainOn)], boot := .sleep, slept := [0] }
  time := { pllLocked := true, ticks := 1, run := 4096 * 2 ^ 32 }
  clusterRx := [(0, { door := { rows := [(0, { synd := 1 })], nextPass := some 0 } })]
  dict := { landing := [{ via := .window, eff := .obj 0x0300 0x40 0, tick := 0 }] }

/-- That complex once the write has landed: the pass that closes LANE finds the error, its event ends the sleep, and the wake asks for
LANE to be ON before pwr_req goes to OFF. -/
def laneWoken : State := ((laneGoingDown.elapse 0).landOldest []).settleFaults

theorem laneWoken_req : (laneWoken.dom 0).req = .on := by decide +kernel
theorem laneWoken_role : laneWoken.twin.role = .unadopted := by decide +kernel

theorem setRole_role (s : State) (r : Role) : (s.setRole r).twin.role = r := by
  by_cases h : r = s.twin.role
  · unfold setRole; rw [if_pos h]; exact h.symm
  · rw [setRole_twin s r h]; rfl

/-- Of a complex that has a role, a demotion leaves DEMOTED. -/
theorem demote_role {s : State} (h : s.twin.role = .active ∨ s.twin.role = .standby ∨ s.twin.role = .orphan) :
    s.demote.twin.role = .demoted := by
  unfold demote
  rcases h with h | h | h <;> rw [h] <;> exact setRole_role ..

/-- Faults note what was seen, and may demote. -/
theorem settleFaults_cases (s : State) : ∃ u : State, u.power = s.power ∧
    (s.settleFaults = u ∨ s.settleFaults = u.demote ∧ (u.twin.role = .active ∨ u.twin.role = .standby ∨ u.twin.role = .orphan)) := by
  unfold settleFaults
  extract_lets t now_ fresh u peerReady
  refine ⟨u, rfl, ?_⟩
  split
  · exact .inl rfl
  split
  · next h =>
    split
    · exact .inr ⟨rfl, .inl h⟩
    · exact .inl rfl
  · next h => exact .inr ⟨rfl, .inr (.inl h)⟩
  · next h => exact .inr ⟨rfl, .inr (.inr h)⟩
  · exact .inl rfl

/-- Only a demotion raises an event there: where no role is DEMOTED afterwards, no domain has been woken. -/
theorem settleFaults_power {s : State} (h : s.settleFaults.twin.role ≠ .demoted) : s.settleFaults.power = s.power := by
  obtain ⟨u, hu, hs | ⟨hs, hr⟩⟩ := settleFaults_cases s
  · rw [hs, hu]
  · exact absurd (by rw [hs]; exact demote_role hr) h

/-- Refutes O51 by its third clause, which leaves the Night Latch free: OFF lands on LANE with an empty skid, the event of its last sweeper
pass wakes the complex, and DOMAIN_0 then shows the request ON. -/
theorem not_powerDomains : ¬ Obligations.PowerDomains := by
  intro h
  obtain ⟨-, -, hland, -⟩ := h
  obtain ⟨t, ht, hreq, -⟩ := hland 0 { via := .window, eff := .obj 0x0300 0x40 0, tick := 0 } 0 0 .off laneGoingDown
    (by decide +kernel) rfl rfl (by decide +kernel) (by decide) (by decide +kernel) rfl rfl rfl (.inl ⟨rfl, rfl⟩)
  have hw : laneWoken = t.settleFaults := by injection ht
  have hp : t.settleFaults.power = t.power := settleFaults_power (by rw [← hw, laneWoken_role]; decide)
  have hon := laneWoken_req
  unfold dom at hon hreq
  rw [hw, hp, hreq] at hon
  exact absurd hon (by decide)

end Sys2Proof.Machine
end

