-- ==== Sys2Proof/Proofs/DictionaryWrites.lean ====
section
namespace Sys2Proof.Machine
open State

/-! ### A write of the value last accepted (R63), whatever its range (R56) -/

/-- DEVICE_ID holds 0x40000, a value beyond its range. -/
def deviceIdBeyond : State where
  regs := [(slotKey 0x0100 3 0, 0x40000)]
  power := { doms := readyDomains, boot := .ready }
  time := { pllLocked := true }

/-- Writing that value again is accepted and on its way: the comparison of R63 comes before the range check. -/
theorem deviceIdBeyond_accepts : ((deviceIdBeyond.elapse 0).request .window 0x0100 3 0x40000).dict.landing ≠ [] := by
  decide +kernel

theorem settleFaults_dict (s : State) : s.settleFaults.dict = s.dict := (settleFaults_apart (.refl s)).dict

/-- Refutes O29 by its second clause, which leaves the stored DEVICE_ID free: a write beyond the range of the very value it holds is
accepted, and waits to land. -/
theorem not_dictionaryWrites : ¬ Obligations.DictionaryWrites := by
  intro h
  obtain ⟨-, hrefused, -⟩ := h
  have hready : deviceIdBeyond.Ready := ⟨by decide +kernel, rfl, by decide +kernel⟩
  obtain ⟨t, ht, -, hland, -⟩ := hrefused 0 .window 0x0100 3 0x40000 deviceIdBeyond hready (by decide) (by decide) rRANGE
    (.inr (.inr (.inl ⟨rfl, rfl, by decide, rfl⟩)))
  have hnext : ((deviceIdBeyond.elapse 0).request .window 0x0100 3 0x40000).settleFaults = t.settleFaults := by injection ht
  have hdict := congrArg State.dict hnext
  rw [settleFaults_dict, settleFaults_dict] at hdict
  exact deviceIdBeyond_accepts (by rw [hdict, hland])

end Sys2Proof.Machine
end

