-- ==== Sys2Proof/Proofs/LatchingReads.lean ====
section
namespace Sys2Proof.Machine
open State

/-! ### Reads that latch (R57, R73, R423) -/

/-- What a read of slot s of a TIME84 object leaves for slot s + 1 (R57). -/
theorem latch84_latched (s : State) (idx sub : Nat) (high : Word) :
    SMap.get none (s.latch84 idx sub high).dict.latched (slotKey idx (sub + 1) 0) = some high := by
  change SMap.get none (SMap.set none s.dict.latched (slotKey idx (sub + 1) 0) (some high)) _ = _
  exact SMap.get_set_self ..

/-- DIGEST_CYCLE shows the cycle of the record and latches its sum and count (R423). -/
theorem readDigest_cycle (s : State) : (s.readDigest 0x11).1 = Word.ofNat s.digestRecord.1 ∧
    SMap.get none (s.readDigest 0x11).2.dict.latched (slotKey 0x0A00 0x12 0) = some (Word.ofNat s.digestRecord.2.1) ∧
    SMap.get none (s.readDigest 0x11).2.dict.latched (slotKey 0x0A00 0x13 0) = some (Word.ofNat s.digestRecord.2.2) := by
  have hl : (s.readDigest 0x11).2.dict.latched = SMap.set none (SMap.set none s.dict.latched (slotKey 0x0A00 0x12 0)
      (some (Word.ofNat s.digestRecord.2.1))) (slotKey 0x0A00 0x13 0) (some (Word.ofNat s.digestRecord.2.2)) := rfl
  rw [hl]
  exact ⟨rfl, (SMap.get_set_ne _ (by decide)).trans (SMap.get_set_self ..), SMap.get_set_self ..⟩

/-- A read of a stream moves its offset by 8, and back to 0 behind its last bytes (R73). -/
theorem readStream_offset (s : State) (sub : Nat) :
    SMap.get 0 (s.readStream sub).2.dict.offsets (slotKey 0x0600 sub 0) =
      if streamLen sub ≤ SMap.get 0 s.dict.offsets (slotKey 0x0600 sub 0) + 8 then 0
      else SMap.get 0 s.dict.offsets (slotKey 0x0600 sub 0) + 8 := SMap.get_set_self ..

/-- Settles O16: each object's line of the map, then what its read latches. -/
theorem latchingReads : Obligations.LatchingReads := by
  intro dt via s hr
  refine ⟨?timeNow, ?timeHigh, ?base, ?snap, ?digest, ?stream⟩
  case timeNow =>
    exact reads_obj hr (ix := .time) (o := viewObj 0x01 "TIME_NOW" .time84lo) rfl rfl (by decide) (.inl (by decide)) (by decide) (by simp) rfl rfl
      (latch84_latched ..)
  case timeHigh =>
    intro h hh
    refine reads_obj hr (ix := .time) (o := viewObj 0x02 "TIME_NOW+1" .time84hi) rfl rfl (by decide) (.inl (by decide)) (by decide) (by simp)
      ?_ rfl rfl
    exact congrArg (fun latched : Option Word => latched.getD (hi84 (s.elapse dt).devTime)) hh
  case base =>
    intro p hp
    exact reads_obj hr (ix := .portGate p) (o := rwObj 0x07 "ADMIN_BASE_TIME" .time84lo) (classify_gate hp) ((objInfo_of (classify_gate hp)).trans rfl)
      (by decide) (.inl (by decide)) (by decide) (by simp) rfl rfl (latch84_latched ..)
  case snap =>
    exact reads_obj hr (ix := .time) (o := rwlObj 0x18 "TIME_SNAP" .time84lo) rfl rfl (by decide) (.inr rfl) (by decide) (by simp) rfl rfl
      (latch84_latched ..)
  case digest =>
    exact reads_obj hr (ix := .calCommon) (o := viewObj 0x11 "DIGEST_CYCLE" .u64) rfl rfl (by decide) (.inl (by decide)) (by decide) (by simp)
      rfl rfl (readDigest_cycle _).2
  case stream =>
    rintro sub (rfl | rfl | rfl) o rfl
    · exact reads_obj hr (ix := .keys) (o := viewObj 0x30 "IDENTITY_PUB" .domain) rfl rfl (by decide) (.inl (by decide)) (by decide) (by simp)
        rfl rfl (readStream_offset ..)
    · exact reads_obj hr (ix := .keys) (o := viewObj 0x32 "IDENTITY_CERT" .domain) rfl rfl (by decide) (.inl (by decide)) (by decide) (by simp)
        rfl rfl (readStream_offset ..)
    · exact reads_obj hr (ix := .keys) (o := viewObj 0x36 "ATTEST_REPORT" .domain) rfl rfl (by decide) (.inl (by decide)) (by decide) (by simp)
        rfl rfl (readStream_offset ..)

end Sys2Proof.Machine
end

