-- ==== Sys2Proof/Proofs/BdpRequests.lean ====
section
namespace Sys2Proof.Machine
open State

/-! ### Requests on CAN FD (R76–R83) -/

theorem bdpHead_fields {data : Bytes} {h : BdpHead} (hh : bdpHead data = some h) :
    h.op = beAt data 1 1 ∧ h.sub = beAt data 6 1 ∧ h.count = beAt data 7 1 := by
  unfold bdpHead at hh
  split at hh
  · exact absurd hh (by simp)
  · obtain rfl := Option.some.inj hh
    exact ⟨rfl, rfl, rfl⟩

/-- The length of a request with one value at the most is what its operation gives (R76). -/
theorem pduLen_of_head {data : Bytes} {h : BdpHead} (hh : bdpHead data = some h) :
    (h.op = 1 → pduLen data = 8) ∧ (h.op = 2 → h.count = 1 → pduLen data = 16) ∧ (h.op = 5 → pduLen data = 16) := by
  obtain ⟨hop, -, hcount⟩ := bdpHead_fields hh
  unfold pduLen
  rw [hop, hcount]
  exact ⟨fun h => by simp [h], fun h k => by simp [h, k], fun h => by simp [h]⟩

theorem beAt_one_lt (bs : Bytes) (o : Nat) : beAt bs o 1 < 256 := by
  have hl : (slice bs o 1).length ≤ 1 := by simp [slice]
  unfold beAt
  match slice bs o 1, hl with
  | [], _ => decide
  | [b], _ => simpa [beNat] using b.isLt

/-- A response of up to eight bytes, or of 16, leaves unpadded (R81). -/
theorem padTo_canLen {bs : Bytes} (h : bs.length = 8 ∨ bs.length = 16) : padTo (canLen bs.length) bs = bs := by
  unfold padTo
  rcases h with h | h <;> rw [h] <;> simp [canLen]

theorem bdpResponse_length (h : BdpHead) (version op result : Nat) (vals : List Word) :
    (bdpResponse h version op result vals).length = 8 + 8 * vals.length := by
  simp [bdpResponse, beBytes_length]
  omega

/-- The state that a request on CAN FD is served in: its error frames are counted and the health word that waits has left (R67, R82). -/
def State.canStart (s : State) (dt errs : Nat) : State := ((s.elapse dt).bump 0x0200 0x0D errs).canHealth

theorem canHealth_view (s : State) : s.canHealth.regs = s.regs ∧ s.canHealth.dict.sessions = s.dict.sessions := by
  unfold canHealth
  split
  · exact ⟨rfl, rfl⟩
  · exact ⟨rfl, rfl⟩

theorem canStart_reg (s : State) (dt errs i u : Nat) : (s.canStart dt errs).reg i u = s.reg i u := by
  unfold canStart reg
  rw [(canHealth_view _).1, bump_regs]
  rfl

theorem canStart_sessions (s : State) (dt errs : Nat) : (s.canStart dt errs).dict.sessions = s.dict.sessions := by
  unfold canStart
  rw [(canHealth_view _).2, bump_dict]
  rfl

/-- What serving a new request on CAN FD answers, before its session is noted (R77, R78). -/
def State.canServed (s : State) (src : Nat) (h : BdpHead) (pdu : Bytes) (lenOk : Bool) : Bytes × State :=
  if h.op = 5 then s.bdpHello .can false src h pdu lenOk
  else s.bdpRequest .can (SMap.get {} s.dict.sessions src).version h pdu lenOk

theorem bdpServe_new {s : State} {src : Nat} {h : BdpHead} (pdu : Bytes) (lenOk : Bool)
    (hseq : (SMap.get {} s.dict.sessions src).seq ≠ some h.seq) :
    s.bdpServe .can src h pdu lenOk = ((s.canServed src h pdu lenOk).1, (s.canServed src h pdu lenOk).2.setSession false src
      { (s.canServed src h pdu lenOk).2.sessionOf false src with seq := some h.seq, resp := (s.canServed src h pdu lenOk).1 }) := by
  unfold bdpServe
  exact if_neg hseq

/-- A frame that is a request to the node: the completion, and what its session keeps (R79, R80). `x` is what serving it answers. -/
theorem canRequest_answers {s : State} {dt op id errs src : Nat} {data : Bytes} {h : BdpHead} {x : Bytes × State} (hr : s.dictRuns = true)
    (hen : s.regB 0x0200 3 = true) (hkind : id / 2 ^ 22 % 16 = 1) (hnode : id / 2 ^ 15 % 128 = s.regN 0x0200 1)
    (hsrc : src = id / 2 ^ 8 % 128) (hh : bdpHead data = some h) (hop : h.op = op) (hseq : (SMap.get {} s.dict.sessions src).seq ≠ some h.seq)
    (hpdu : pduLen data = data.length) (hcan : canLen data.length = data.length) (hx : (s.canStart dt errs).canServed src h data true = x)
    (hlen : x.1.length = 8 ∨ x.1.length = 16) :
    let t := (s.elapse dt).bdp op (.can id data errs)
    t.out = x.2.out ++ [.can (2 * 2 ^ 26 + 2 * 2 ^ 22 + src * 2 ^ 15 + s.regN 0x0200 1 * 2 ^ 8) x.1] ∧
      t.dict.landing = x.2.dict.landing ∧
      SMap.get {} t.dict.sessions src = { SMap.get {} x.2.dict.sessions src with seq := some h.seq, resp := x.1 } := by
  have hnode' : (s.canStart dt errs).regN 0x0200 1 = s.regN 0x0200 1 := by unfold regN; rw [canStart_reg]
  have hen' : (s.canStart dt errs).regB 0x0200 3 = true := by unfold regB; rw [canStart_reg]; exact hen
  have hreq : (s.elapse dt).bdp op (.can id data errs) =
      (x.2.setSession false src { x.2.sessionOf false src with seq := some h.seq, resp := x.1 }).emit
        (.can (2 * 2 ^ 26 + 2 * 2 ^ 22 + src * 2 ^ 15 + s.regN 0x0200 1 * 2 ^ 8) x.1) := by
    unfold bdp
    rw [if_neg (by simp [hr])]
    unfold canRequest
    simp only [hh]
    rw [← canStart, if_neg (by simp [-Nat.reducePow, hen', hkind, hnode, hnode', hop]), ← hsrc,
      hpdu, hcan, List.take_length, beq_self_eq_true,
      bdpServe_new _ _ (by rw [canStart_sessions]; exact hseq), hx, hnode', padTo_canLen hlen]
  simp only [hreq]
  exact ⟨rfl, rfl, SMap.get_set_self ..⟩

/-- One object read with the session's version (R77). -/
theorem canServed_read {s u : State} {src : Nat} {h : BdpHead} {v : Word} (pdu : Bytes) (hop : h.op = 1) (hcount : h.count = 1)
    (hv : h.version ≠ 0) (hver : (SMap.get {} s.dict.sessions src).version = h.version) (hsub : h.sub < 256)
    (hread : s.read .can h.idx h.sub = (rOK, v, u)) :
    s.canServed src h pdu true = (bdpResponse h h.version 3 rOK [v], u) := by
  have h7 : ¬(if h.version = 1 then 1 else 7) < 1 := by split <;> omega
  unfold canServed bdpRequest
  rw [if_neg (by omega), hver, if_neg (by simp [hv])]
  simp [hcount, h7, hop, bdpReads, hread, Nat.not_lt.mpr (Nat.le_of_lt_succ hsub)]

/-- One object written with the session's version (R77). -/
theorem canServed_write {s u : State} {src : Nat} {h : BdpHead} {pdu : Bytes} (hop : h.op = 2) (hcount : h.count = 1)
    (hv : h.version ≠ 0) (hver : (SMap.get {} s.dict.sessions src).version = h.version) (hsub : h.sub < 256)
    (hwrite : s.write .can h.idx h.sub (Word.ofNat (beAt pdu 8 8)) = (rOK, u)) :
    s.canServed src h pdu true = (bdpResponse h h.version 4 rOK [], u) := by
  have h7 : ¬(if h.version = 1 then 1 else 7) < 1 := by split <;> omega
  unfold canServed bdpRequest
  rw [if_neg (by omega), hver, if_neg (by simp [hv])]
  simp [hcount, h7, hop, bdpValues, bdpWrites, hwrite, Nat.not_lt.mpr (Nat.le_of_lt_succ hsub)]

/-- A HELLO with a common version opens a session with it (R78). -/
theorem canServed_hello (s : State) (src : Nat) {h : BdpHead} {pdu : Bytes} (hop : h.op = 5) (hv : helloVersion pdu ≠ 0) :
    s.canServed src h pdu true = (bdpResponse h (helloVersion pdu) 6 rOK [],
      s.setSession false src { s.sessionOf false src with version := helloVersion pdu }) := by
  unfold canServed bdpHello
  rw [if_pos hop, if_neg (by simp), if_neg hv]

/-- Settles O30: `canRequest_answers`, with what serving the request answers from the lemma for its operation. -/
theorem bdpRequests : Obligations.BdpRequests := by
  refine ⟨?read, ?write, ?hello, ?busOff⟩
  case read =>
    intro dt id data errs h v u s s' src hs' hr hen hkind hnode hsrc hh hlen hop hcount hv hver hseq hread
    subst hs'
    have hsub : h.sub < 256 := (bdpHead_fields hh).2.1 ▸ beAt_one_lt ..
    have hserve : (s.canStart dt errs).canServed src h data true = (bdpResponse h h.version 3 rOK [v], u) :=
      canServed_read data hop hcount hv (by rw [canStart_sessions]; exact hver) hsub hread
    obtain ⟨hout, -, hsess⟩ := canRequest_answers hr hen hkind hnode hsrc hh hop hseq
      (by rw [(pduLen_of_head hh).1 hop, hlen]) (by rw [hlen]; rfl) hserve (.inr (bdpResponse_length ..))
    exact answersSettled ⟨hout, by rw [hsess]⟩
  case write =>
    intro dt id data errs h u s s' src hs' hr hen hkind hnode hsrc hh hlen hop hcount hv hver hseq hwrite
    subst hs'
    have hsub : h.sub < 256 := (bdpHead_fields hh).2.1 ▸ beAt_one_lt ..
    have hserve : (s.canStart dt errs).canServed src h data true = (bdpResponse h h.version 4 rOK [], u) :=
      canServed_write hop hcount hv (by rw [canStart_sessions]; exact hver) hsub hwrite
    obtain ⟨hout, hland, hsess⟩ := canRequest_answers hr hen hkind hnode hsrc hh hop hseq
      (by rw [(pduLen_of_head hh).2.1 hop hcount, hlen]) (by rw [hlen]; rfl) hserve (.inl (bdpResponse_length ..))
    exact answersSettled ⟨hout, hland, by rw [hsess]⟩
  case hello =>
    intro dt id data errs h s s' src hs' hr hen hkind hnode hsrc hh hlen hop hseq hv
    subst hs'
    have hserve := canServed_hello (s.canStart dt errs) src hop hv
    obtain ⟨hout, -, hsess⟩ := canRequest_answers hr hen hkind hnode hsrc hh hop hseq
      (by rw [(pduLen_of_head hh).2.2 hop, hlen]) (by rw [hlen]; rfl) hserve (.inl (bdpResponse_length ..))
    refine answersSettled ⟨hout, ?_⟩
    rw [hsess]
    exact congrArg Session.version (SMap.get_set_self ..)
  case busOff =>
    intro dt s hr
    have hoff : (s.elapse dt).canBusOff = ((s.elapse dt).bump 0x0200 0x0D).raise 0x813 := if_pos (by rw [elapse_dictRuns, hr])
    refine answers_next (t := (s.elapse dt).canBusOff) ?_
    rw [hoff]
    exact (raise_ctr _ _ _ _ _ _ (by decide) (by decide) (by decide) (by decide)).trans (ctr_bumpRow ..)

end Sys2Proof.Machine
end

