-- ==== Sys2Proof/Proofs/WriteFrames.lean ====
section
namespace Sys2Proof.Machine
open State

/-! ### Which parts an event leaves (R509, R531): all, a cluster's mode apart, which its wake sets (R546) -/

theorem sameObjs_of_regs {s t : State} (h : t.regs = s.regs) : s.SameObjs t := fun i u _ => by unfold reg; rw [h]

theorem SameObjs.trans {s t u : State} (h : s.SameObjs t) (k : t.SameObjs u) : s.SameObjs u :=
  fun i j hm => (h i j hm).trans (k i j hm)

theorem requestOn_regs (s : State) (n : Nat) : (s.requestOn n).regs = s.regs := by
  unfold requestOn
  dsimp only
  repeat' split
  all_goals rfl

theorem foldl_regs {α : Type} {f : State → α → State} (hf : ∀ s a, (f s a).regs = s.regs) (l : List α) (s : State) :
    (l.foldl f s).regs = s.regs := by
  induction l generalizing s with
  | nil => rfl
  | cons a l ih => exact (ih _).trans (hf s a)

theorem wakeCommon_regs (s : State) : s.wakeCommon.regs = s.regs := by
  have he : s.endSleep.regs = s.regs := by
    unfold endSleep
    split
    · rfl
    · exact (foldl_regs requestOn_regs _ _).trans (requestOn_regs _ _)
  refine (foldl_regs (fun t n => ?_) _ _).trans he
  split
  · exact requestOn_regs t n
  · rfl

theorem wakeCluster_sameObjs (s : State) (c : Nat) : s.SameObjs (s.wakeCluster c) := by
  unfold wakeCluster
  dsimp only
  split
  · intro i u hm
    unfold reg
    rw [requestOn_regs, requestOn_regs, requestOn_regs]
    exact (SMap.get_set_ne _ fun e => hm ⟨c, e⟩).symm
  · exact sameObjs_of_regs rfl
  · exact sameObjs_of_regs rfl

theorem foldl_same {α : Type} {f : State → α → State} {x : Part} (hf : ∀ s a, x.Same s (f s a)) (l : List α) (s : State) :
    x.Same s (l.foldl f s) := by
  induction l generalizing s with
  | nil => exact same_of_beside (.refl s) rfl x
  | cons a l ih => exact (hf s a).trans (ih _)

theorem latchFire_sameObjs (s : State) (e d : Nat) : s.SameObjs (s.latchFire e d).1 := by
  unfold latchFire
  extract_lets ws ev u wake cs cm woke v w x
  have hv : u.SameObjs v := foldl_same (x := .objects) wakeCluster_sameObjs cs u
  have hw : w.regs = v.regs := by
    by_cases hc : cm = true
    · exact (congrArg State.regs (if_pos hc)).trans (wakeCommon_regs v)
    · exact congrArg State.regs (if_neg hc)
  have hx : x.regs = w.regs := by
    by_cases hk : woke = true
    · exact (congrArg State.regs (if_pos hk)).trans (bump_regs ..)
    · exact congrArg State.regs (if_neg hk)
  exact SameObjs.trans (t := u) (sameObjs_of_regs rfl) (SameObjs.trans hv (sameObjs_of_regs (hx.trans hw)))

theorem raiseSource_regs (s : State) (e d : Nat) : (s.raiseSource e d).regs = s.regs := by
  unfold raiseSource
  dsimp only
  split
  · rfl
  · split <;> exact bump_regs ..

theorem raise_sameObjs (s : State) (e d : Nat) : s.SameObjs (s.raise e d) := by
  have hfire (t : State) (f a b : Nat) : t.SameObjs ((t.latchFire f a).1.raiseSource f b) :=
    SameObjs.trans (latchFire_sameObjs t f a) (sameObjs_of_regs (raiseSource_regs ..))
  unfold raise
  dsimp only
  split
  · split
    · exact SameObjs.trans (hfire s e d d) (hfire _ _ _ _)
    · exact SameObjs.trans (hfire s e d d) (sameObjs_of_regs rfl)
  · exact hfire s e d d

theorem same_bump (s : State) (i u n : Nat) (x : Part) : x.Same s (s.bump i u n) :=
  same_of_beside (bump_beside (.refl _)) (bump_regs ..) x

theorem same_raise (s : State) (e d : Nat) (x : Part) : x.Same s (s.raise e d) := by
  cases x
  case objects => exact raise_sameObjs s e d
  all_goals simp [Part.Same]

/-! ### Which parts the state's own updates leave -/

section
variable {x : Part} (s : State)

theorem same_dict (hx : x ≠ .dict) (d : DictUnit) : x.Same s { s with dict := d } := by
  cases x
  case dict => exact absurd rfl hx
  case objects => exact sameObjs_of_regs rfl
  all_goals rfl

theorem same_twin (hx : x ≠ .twin) (f : TwinUnit → TwinUnit) : x.Same s (s.updTwin f) := by
  cases x
  case twin => exact absurd rfl hx
  case objects => exact sameObjs_of_regs rfl
  all_goals rfl

theorem same_said (hx : x ≠ .twin) (y : Sent) : x.Same s (s.said y) := by
  cases x
  case twin => exact absurd rfl hx
  case objects => exact sameObjs_of_regs rfl
  all_goals rfl

/-- The Event Unit and the counter memory are no part. -/
theorem same_ev (ev : EventUnit) (cu : CounterUnit) (once : List Nat) : x.Same s { s with ev := ev, cu := cu, onceTick := once } :=
  same_of_beside ⟨rfl, rfl, rfl, rfl, rfl, rfl, rfl, rfl, rfl, rfl, rfl, rfl, rfl, rfl, rfl, rfl, rfl, rfl, rfl⟩ rfl x

theorem same_keys (hx : x ≠ .keys) (f : KeyUnit → KeyUnit) : x.Same s (s.updKeys f) := by
  cases x
  case keys => exact absurd rfl hx
  case objects => exact sameObjs_of_regs rfl
  all_goals rfl

theorem same_port (hx : x ≠ .portRx) (p : Nat) (f : PortRx → PortRx) : x.Same s (s.updPort p f) := by
  cases x
  case portRx => exact absurd rfl hx
  case objects => exact sameObjs_of_regs rfl
  all_goals rfl

theorem same_portTx (hx : x ≠ .portTx) (p : Nat) (f : PortTx → PortTx) : x.Same s (s.updPortTx p f) := by
  cases x
  case portTx => exact absurd rfl hx
  case objects => exact sameObjs_of_regs rfl
  all_goals rfl

theorem same_shut (hx : x ≠ .shutters) (p : Nat) (q : Shutter) : x.Same s (s.setShut p q) := by
  cases x
  case shutters => exact absurd rfl hx
  case objects => exact sameObjs_of_regs rfl
  all_goals rfl

theorem same_ring (hx : x ≠ .rings) (r : Nat) (f : Ring → Ring) : x.Same s (s.updRing r f) := by
  cases x
  case rings => exact absurd rfl hx
  case objects => exact sameObjs_of_regs rfl
  all_goals rfl

theorem same_noteEcc (hx : x ≠ .twin) (e : Nat) : x.Same s (s.noteEcc e) := by
  unfold noteEcc
  split
  · exact same_twin s hx fun t => { t with eccAt := some s.runTime, eccNew := true }
  · exact same_of_beside (.refl s) rfl x

theorem same_raiseOnce (hx : x ≠ .twin) (e d : Nat) : x.Same s (s.raiseOnce e d) := by
  refine (same_noteEcc s hx e).trans ?_
  unfold raiseOnce
  dsimp only
  split
  · exact same_of_beside (.refl _) rfl x
  · exact (same_ev _ _ _ _).trans (same_raise _ _ _ x)

/-- A refusal is the dictionary engine's own record (R60). -/
theorem same_refuse (hd : x ≠ .dict) (ht : x ≠ .twin) (via : Transport) (idx sub code : Nat) : x.Same s (s.refuse via idx sub code) :=
  ((same_bump s _ _ _ x).trans (same_dict _ hd _)).trans (same_raiseOnce _ ht _ _)

/-! ### What the units' own writes leave -/

theorem same_landPendingSet (b : Nat) (v : Word) : x.Same s (s.landPendingSet b v) :=
  foldl_same (fun s e => same_raise s e 0 x) _ s

theorem same_landPendingClr (b : Nat) (v : Word) : x.Same s (s.landPendingClr b v) := by
  have hsrc (s : State) (e : Nat) (q : Source) : x.Same s (s.setSrc e q) := same_ev s _ _ _
  have hlevel (s : State) (e : Nat) : x.Same s (s.sampleLevel e) := by
    unfold sampleLevel
    split
    · exact same_raise s e 0 x
    · exact same_of_beside (.refl s) rfl x
  refine foldl_same (fun s e => ?_) _ s
  dsimp only
  cases (s.src e).st
  case pending => exact (hsrc s e _).trans (hlevel _ e)
  case activePending => exact (hsrc s e _).trans (hlevel _ e)
  all_goals exact same_of_beside (.refl s) rfl x

theorem same_landMask (b : Nat) (v : Word) (m : Bool) : x.Same s (s.landMask b v m) :=
  foldl_same (fun s _ => same_ev s _ _ _) _ s

theorem same_stackFault (t b : Nat) (exit : Bool) : x.Same s (s.stackFault t b exit) :=
  (same_bump s _ _ _ x).trans (same_raise _ _ _ x)

theorem same_landEnter (t b : Nat) : x.Same s (s.landEnter t b) := by
  unfold landEnter
  dsimp only
  split
  · exact same_ev s _ _ _
  · exact same_stackFault s t b false

theorem same_landExit (t b : Nat) : x.Same s (s.landExit t b) := by
  unfold landExit
  dsimp only
  split
  · exact same_ev s _ _ _
  · exact same_stackFault s t b true
end

/-! ### A write of a WO object, and one of an RWL object, leave every part but their unit's (R60, R61) -/

/-- A WO object that no condition of its unit refuses takes every value of its type. -/
theorem takes_wo {s : State} {ix : Ix} {idx sub : Nat} {v : Word} {ty : ObjType} (name : String) (hty : ty ≠ .time84lo ∧ ty ≠ .time84hi)
    (hw : ∀ c t, ix ≠ .window c t) (hk : idx = 0x0600 → ¬(0x11 ≤ sub ∧ sub ≤ 0x19)) (hp : idx ≠ 0x0300) (hl : landsAtOnce idx sub = false)
    (hf : ty.fits v.toNat = true) (h : ∀ landing, s.objCond s.landedVal landing ix idx sub (storedAs ix sub v) = true) :
    s.Takes ix (woObj sub name ty) idx v where
  acc := .inr (.inl rfl)
  plain := hty
  window := hw
  keys := hk
  fits := by simpa [woObj] using hf
  closed := fun e => by simp [woObj] at e
  accept := h false
  land := h true
  late := hl
  anytime := fun e => hp e.1

/-- The command leaves every part but `p`, the dictionary engine's and the mirror stream's. -/
def Res.Frames (r : Res) (s : State) (p : Part) : Prop := AnswersSettled r fun t => ∀ x : Part, x ∉ [p, .dict, .twin] → x.Same s t

theorem frames_wo {s : State} {ix : Ix} {idx sub : Nat} {v : Word} {ty : ObjType} {p : Part} (dt : Nat) (via : Master) (name : String)
    (hr : s.Ready) (hc : classify idx = some ix) (ho : (objsOf ix).find? (fun o => o.sub == sub) = some (woObj sub name ty)) (hs : sub ≠ 0)
    (h : (s.elapse dt).Takes ix (woObj sub name ty) idx v)
    (hact : ∀ u : State, ∀ x : Part, x ≠ p → x ≠ .dict → x.Same u (u.objEffect via.transport [] ix (woObj sub name ty) idx v)) :
    Res.Frames (s.masterWrite dt via idx sub v) s p := by
  refine answers_write dt via hr hc ho hs rfl h fun y _ x hx => ?_
  obtain ⟨hp, hd, ht⟩ : x ≠ p ∧ x ≠ .dict ∧ x ≠ .twin := by simpa using hx
  exact ((same_elapse s dt x).trans (same_said _ ht y)).trans (hact _ x hp hd)

/-- What the acceptance of an RWL object outside the windows and the key slots answers: a refusal, or its unit's effect at once (R16). -/
theorem acceptObj_rwl (s : State) (via : Transport) {ix : Ix} {o : ObjInfo} {idx : Nat} (v : Word) (ha : o.acc = .rwl) (hk : idx ≠ 0x0600)
    (hm : mirrored idx o.sub = false) :
    (∃ c, s.acceptObj via ix o idx v none = (c, s) ∧ c ≠ rOK) ∨ s.acceptObj via ix o idx v none = (rOK, s.actRwl ix o.sub v) := by
  unfold acceptObj
  dsimp only
  rw [if_neg (by simp [ha])]
  split
  · exact .inl ⟨rLOCAL_ONLY, rfl, by decide⟩
  rw [if_neg (by simp [ha])]
  split
  · exact .inl ⟨rRANGE, rfl, by decide⟩
  rw [if_neg (by simp [ha])]
  split
  · exact .inl ⟨rRANGE, rfl, by decide⟩
  · rw [if_neg fun e => hk e.1, if_neg fun e => hk e.1, if_neg fun e => hk e.1]
    exact .inr (by simp [forwardObj, hm])

theorem raiseOnce_dict (s : State) (e d : Nat) : (s.raiseOnce e d).dict = s.dict := by
  have hecc : (s.noteEcc e).dict = s.dict := by unfold noteEcc; split <;> rfl
  unfold raiseOnce
  dsimp only
  split
  · exact hecc
  · exact (raise_dict ..).trans hecc

theorem landing_record (s : State) (w : Word) : ({ s with dict := { s.dict with lastRefusal := w } } : State).dict.landing = s.dict.landing :=
  rfl

theorem refuse_landing (s : State) (via : Transport) (idx sub code : Nat) : (s.refuse via idx sub code).dict.landing = s.dict.landing := by
  unfold refuse
  extract_lets t w
  rw [raiseOnce_dict, landing_record, bump_dict]

theorem frames_rwl {s : State} {ix : Ix} {o : ObjInfo} {idx sub : Nat} (dt : Nat) (via : Master) (v : Word) (p : Part) (hr : s.Ready)
    (hc : classify idx = some ix) (ho : (objsOf ix).find? (fun o => o.sub == sub) = some o) (hs : sub ≠ 0) (hu : o.sub = sub)
    (ha : o.acc = .rwl) (hw : ∀ c t, ix ≠ .window c t) (hk : idx ≠ 0x0600) (hm : mirrored idx sub = false)
    (hact : ∀ u : State, ∀ x : Part, x.Same u (u.actRwl ix sub v)) :
    Res.Frames (s.masterWrite dt via idx sub v) s p := by
  subst hu
  obtain ⟨run, hl, -⟩ := elapse_ready s dt hr
  have hacc : (s.elapse dt).write via.transport idx o.sub v =
      let y := (s.elapse dt).acceptObj via.transport ix o idx v none
      if y.1 = rOK then y else (y.1, y.2.refuse via.transport idx o.sub y.1) := by
    unfold write
    simp only [hc, hs, (objInfo_of hc).trans ho, if_false]
  have hwrite : ∃ c u, (s.elapse dt).write via.transport idx o.sub v = (c, u) ∧ u.dict.landing = [] ∧
      ∀ x : Part, x ≠ .dict → x ≠ .twin → x.Same (s.elapse dt) u := by
    rw [hacc]
    rcases acceptObj_rwl (s.elapse dt) via.transport v ha hk hm with ⟨c, h, hn⟩ | h
    · rw [h]
      exact ⟨c, _, if_neg hn, (refuse_landing ..).trans hl, fun x hd ht => same_refuse _ hd ht _ _ _ _⟩
    · rw [h]
      exact ⟨rOK, _, if_pos rfl, (congrArg DictUnit.landing (hact _ .dict)).symm.trans hl, fun x _ _ => hact _ x⟩
  obtain ⟨c, u, hwr, hul, hsame⟩ := hwrite
  have hl' : (u.emit (.status c)).dict.landing = [] := hul
  have hreq : (s.elapse dt).request via.transport idx o.sub v = u.emit (.status c) := by
    unfold request
    rw [if_neg (by simp [run]), hwr]
  have hq : (s.elapse dt).requestLand via.transport [] idx o.sub v = u.emit (.status c) := by
    unfold requestLand
    rw [hreq]
    dsimp only
    split
    · unfold landWrites; rw [hl']; rfl
    · rfl
  refine ⟨u.emit (.status c), by rw [masterWrite, hq]; rfl, fun x hx => ?_⟩
  obtain ⟨-, hd, ht⟩ : x ≠ p ∧ x ≠ .dict ∧ x ≠ .twin := by simpa using hx
  exact ((same_elapse s dt x).trans (hsame x hd ht)).trans (same_emit _ _ x)

theorem mirrored_target {t sub : Nat} (h : t < 32) : mirrored (0x6000 + 0x80 * t) sub = false := by
  unfold mirrored
  rw [classify_target h]

theorem landsAtOnce_low {i sub : Nat} (h : i < 0x1400) : landsAtOnce i sub = false := by
  simp only [landsAtOnce, Bool.or_eq_false_iff, Bool.and_eq_false_iff, decide_eq_false_iff_not]
  omega

/-- Settles O60: eleven writes land as their unit's own update of one field; ENTER and EXIT act at acceptance or are refused. -/
theorem writeFrames : Obligations.WriteFrames := by
  intro dt via p r n b v s hr hp hr' hn hb hv e he
  have hfit : ObjType.fits .u32 v.toNat = true := by simpa [ObjType.fits] using hv
  have hmac := classify_mac hp
  have hbank := classify_bank hb
  have htarget := classify_target hn
  simp only [List.mem_cons, List.not_mem_nil, or_false] at he
  rcases he with rfl | rfl | rfl | rfl | rfl | rfl | rfl | rfl | rfl | rfl | rfl | rfl | rfl
  · exact frames_wo (ty := .u32) dt via "RX_CAUSE_CLR" hr hmac rfl (by decide)
      (takes_wo _ (by decide) (fun _ _ h => Ix.noConfusion h) (by omega) (by omega) (by simp [landsAtOnce]) hfit fun _ => rfl)
      fun u x hx _ => show x.Same u (u.landRxCauseClr p v) from same_port u hx _ _
  · exact frames_wo (ty := .u32) dt via "TX_CAUSE_CLR" hr hmac rfl (by decide)
      (takes_wo _ (by decide) (fun _ _ h => Ix.noConfusion h) (by omega) (by omega) (by simp [landsAtOnce]) hfit fun _ => rfl)
      fun u x hx _ => show x.Same u (u.landTxCauseClr p v) from same_portTx u hx _ _
  · exact frames_wo (ty := .u32) dt via "SHUTTER_CAUSE_CLR" hr (classify_gate hp) rfl (by decide)
      (takes_wo _ (by decide) (fun _ _ h => Ix.noConfusion h) (by omega) (by omega) (by simp [landsAtOnce]) hfit fun _ => rfl)
      fun u x hx _ => same_shut u hx _ _
  · exact frames_wo (ty := .u32) dt via "RING_CAUSE_CLR" hr (classify_ring hr') rfl (by decide)
      (takes_wo _ (by decide) (fun _ _ h => Ix.noConfusion h) (by omega) (by omega) (by simp [landsAtOnce]) hfit fun _ => rfl)
      fun u x hx _ => show x.Same u (u.landRingCauseClr r v) from same_ring u hx _ _
  · exact frames_wo (ix := .keys) (ty := .u32) dt via "KEY_ALARM_CLR" hr rfl rfl (by decide)
      (takes_wo _ (by decide) (fun _ _ h => Ix.noConfusion h) (by omega) (by omega) rfl hfit fun _ => rfl)
      fun u x hx _ => same_keys u hx _
  · exact frames_rwl dt via v .dict hr htarget rfl (by decide) rfl rfl (fun _ _ h => Ix.noConfusion h) (by omega) (mirrored_target hn)
      fun u x => same_landEnter u _ _
  · exact frames_rwl dt via v .dict hr htarget rfl (by decide) rfl rfl (fun _ _ h => Ix.noConfusion h) (by omega) (mirrored_target hn)
      fun u x => same_landExit u _ _
  · exact frames_wo (ty := .u64) dt via "PENDING_SET" hr hbank rfl (by decide)
      (takes_wo _ (by decide) (fun _ _ h => Ix.noConfusion h) (by omega) (by omega) (by simp [landsAtOnce]) rfl fun _ => rfl)
      fun u x _ _ => same_landPendingSet u _ _
  · exact frames_wo (ty := .u64) dt via "PENDING_CLR" hr hbank rfl (by decide)
      (takes_wo _ (by decide) (fun _ _ h => Ix.noConfusion h) (by omega) (by omega) (by simp [landsAtOnce]) rfl fun _ => rfl)
      fun u x _ _ => same_landPendingClr u _ _
  · exact frames_wo (ty := .u64) dt via "MASK_SET" hr hbank rfl (by decide)
      (takes_wo _ (by decide) (fun _ _ h => Ix.noConfusion h) (by omega) (by omega) (by simp [landsAtOnce]) rfl fun _ => rfl)
      fun u x _ _ => same_landMask u _ _ true
  · exact frames_wo (ty := .u64) dt via "MASK_CLR" hr hbank rfl (by decide)
      (takes_wo _ (by decide) (fun _ _ h => Ix.noConfusion h) (by omega) (by omega) (by simp [landsAtOnce]) rfl fun _ => rfl)
      fun u x _ _ => same_landMask u _ _ false
  · exact frames_wo (ix := .events) (ty := .u64) dt via "LATCH_FIRED_CLR" hr rfl rfl (by decide)
      (takes_wo _ (by decide) (fun _ _ h => Ix.noConfusion h) (by omega) (by omega) rfl rfl fun _ => rfl)
      fun u x _ _ => same_ev u _ _ _
  · exact frames_wo (ix := .ctrCommon) dt via "SNAP_RELEASE" hr rfl rfl (by decide)
      (takes_strobe _ (fun _ _ h => Ix.noConfusion h) (by decide) (by decide) rfl fun _ => rfl)
      fun u x _ _ => same_ev u _ _ _

end Sys2Proof.Machine
end

