-- ==== Sys2Proof/Proofs/InbandQueued.lean ====
section
namespace Sys2Proof.Machine
open State

/-! ### An in-band request on its way to the dictionary engine (R84, R85, R88) -/

section
variable {p : Nat} {s : State}

theorem countOk_beside (s : State) (p : Nat) (bs : Bytes) : (s.countOk p bs).Beside s :=
  bumpRow_beside (bumpRow_beside (bumpRow_beside (bumpRow_beside (.refl s))))

theorem countOk_isOn (s : State) (p : Nat) (bs : Bytes) (n : Nat) : (s.countOk p bs).isOn n = s.isOn n := by
  unfold isOn dom
  simp [countOk, bumpPort]

/-- What the queue takes of a request. -/
def InbandFrame.entry (f : InbandFrame) : InbandReq := { src := f.sa, tag := f.tag, pdu := f.pdu }

/-- A request with a good tag and a new number, while the queue has room, is queued (R84, R88). -/
theorem inbandRequest_queued {body : Bytes} {f : InbandFrame} {k : KeyImg} (hf : parseInband body = some f) (hk : s.inbandKey = some k)
    (hgood : inbandGood k f = true) (hseq : s.dict.rxSeq.toNat < f.seq) (hroom : s.dict.queue.length < 16) (hon : s.isOn domDict = true) :
    s.inbandRequest body = { s with dict := { s.dict with rxSeq := Word.ofNat f.seq, queue := s.dict.queue ++ [f.entry] } } := by
  unfold inbandRequest
  have hg : (f.mac == inbandTag k.key f.sa f.seq f.pdu && f.mac.length == 8) = true := hgood
  simp only [hf, hon, hk, hg, Bool.not_true, Bool.false_eq_true, if_false]
  rw [if_neg (Nat.not_le.mpr hseq), if_neg (Nat.not_le.mpr hroom)]
  rfl

/-- A good request on INBAND_PORT leaves the receive stages for the engine (R84). -/
theorem pipeline_inband {f : RxPass} {g : InbandFrame} (hp : p < 1024) (hrows : s.rows = []) (hsec : s.regB (0x1000 + p) 0x40 = false)
    (hin : s.regN 0x0200 5 = p) (hg : parseInband (f.bytes.take (f.bytes.length - 4)) = some g) (hfin : f.fin = .good) (hreason : f.reason = 0)
    (henv : f.env = {}) (hstage : f.stage = .hold) (hage : s.since f.begun = 0) :
    s.pipeline p false f = s.inbandRequest (f.bytes.take (f.bytes.length - 4)) := by
  have htap (x : TapIn) (ha : x.age = 0) (ht : x.port = p) : s.peepTap x = s := peepTap_nil x hrows ha (by omega)
  unfold pipeline
  extract_lets c s1 tag n body tail body' age
  have hs1 : s1 = s := htap _ rfl rfl
  have hage' : age = 0 := by unfold age; rw [hs1, henv]; exact hage
  have hb : body' = f.bytes.take (f.bytes.length - 4) := by simp [body', body, n, hfin]
  have hinb : s.isInband p (f.bytes.take (f.bytes.length - 4)) = true := by simp [isInband, hin, hg]
  have hout (x : SecIn) (hx : x.port = p) : s.secStageRx x = (some { body := x.body, fin := x.fin, reason := x.reason, known := x.known }, s) :=
    secStageRx_off x (by rw [hx]; exact hsec)
  rw [hs1, hout _ rfl]
  simp only [hstage]
  rw [if_neg (fun h => absurd (hreason.symm.trans h.1) (by decide)), calStage_nil _ _ (by omega) hrows hage' rfl, hb]
  simp only [hinb, if_true, hfin]

end

/-- Settles O10: the receive MAC counts the frame, the stages with nothing configured pass it, and the engine's queue takes it. -/
theorem inbandQueued : Obligations.InbandQueued := by
  intro dt p bytes f k s hplain hgood hsec hin hf hk hmac hseq hbound hroom hon hdata
  have hp := hplain.1
  obtain ⟨-, -, -, -, -, -, -, htag, -, hwait, -, hrows⟩ := elapse_rxPlain dt hplain
  refine answersSettled_pos hin (answersSettled ?_)
  rw [rx_data (elapse_rxPlain dt hplain) hgood hdata]
  have hu := countOk_beside (s.elapse dt) p bytes
  have huon : ((s.elapse dt).countOk p bytes).isOn domDict = true := by rw [countOk_isOn]; exact hon
  obtain ⟨-, -, -, hregs⟩ := countOk_eqs (s.elapse dt) p bytes
  generalize (s.elapse dt).countOk p bytes = u at hu huon hregs ⊢
  have hreg (i v : Nat) : u.reg i v = s.reg i v := by unfold reg; rw [hregs]; rfl
  have hregN (i v : Nat) : u.regN i v = s.regN i v := by unfold regN; rw [hreg]
  have hdict : u.dict = s.dict := hu.dict
  have hage : u.since (s.elapse dt).runTime = 0 := by
    have hrun : u.runTime = (s.elapse dt).runTime := by unfold runTime; rw [hu.time]
    rw [← hrun, since_now]
  have hpass : u.mustWait p = false := by unfold mustWait port at *; rw [hu.portRx]; exact hwait
  have htag' : u.tagAct p bytes = .pass := tagAct_plain ((hregN ..).trans htag)
  have hkey : u.inbandKey = some k := by unfold inbandKey at *; rw [hregN, hu.keys]; exact hk
  have hend := pipeline_inband (s := u) (p := p) (g := f)
    (f := { bytes, fin := .good, reason := 0, known := false, stamp := (s.elapse dt).rxStamp p 0, begun := (s.elapse dt).runTime, env := {},
            stage := .hold })
    hp (hu.rows.trans hrows) (by unfold regB; rw [hreg]; exact hsec) ((hregN ..).trans hin) hf rfl rfl rfl rfl hage
  rw [inbandRequest_queued hf hkey hmac (by rw [hdict]; exact hseq) (by rw [hdict]; exact hroom) huon, hdict] at hend
  unfold passOrWait
  rw [if_neg (by simp [hpass]), rxUpsets_nil, htag', show (TagAct.pass == TagAct.strip) = false from rfl, hend]
  exact ⟨rfl, Nat.mod_eq_of_lt hbound, hu.clusterRx⟩

end Sys2Proof.Machine
end

