-- ==== Sys2Proof/Proofs/WindowWrites.lean ====
section
namespace Sys2Proof.Machine
open State

/-! ### Writes of a table window (R69–R72) -/

theorem winTable_winIdx {c t : Nat} (ht : t < 256) : winTable (winIdx c t) = t := by unfold winTable winIdx; omega

theorem winCluster_winIdx {c t : Nat} (hc : c < 16) (ht : t < 256) : winCluster (winIdx c t) = c := by unfold winCluster winIdx; omega

section
variable {s u : State} {via : Transport} {c t sub idx code : Nat} {v : Word}

theorem write_window {o : ObjInfo} (hc : c < 16) (ht : t ≤ 0xC) (hs : sub ≠ 0)
    (ho : (windowObjs t).find? (fun o => o.sub == sub) = some o) :
    s.write via (winIdx c t) sub v = let x := s.acceptWin via c t o v
      if x.1 = rOK then x else (x.1, x.2.refuse via (winIdx c t) sub x.1) := by
  have hcl := classify_window hc ht
  unfold write
  simp only [hcl, hs, (objInfo_of hcl).trans ho, if_false]

theorem requestLand_eq {cuts : List (Nat × CutFrame)} (run : s.dictRuns = true) (hw : s.write via idx sub v = (code, u))
    (hu : u.dictRuns = true) : s.requestLand via cuts idx sub v = (u.emit (.status code)).landWrites cuts := by
  have hreq : s.request via idx sub v = u.emit (.status code) := by
    unfold request
    rw [if_neg (by simp [run]), hw]
  unfold requestLand
  rw [hreq]
  exact if_pos hu

theorem landWrites_nil (cuts : List (Nat × CutFrame)) (hl : s.dict.landing = []) : s.landWrites cuts = s := by
  unfold landWrites
  rw [hl]
  rfl

/-- A request that leaves nothing on its way. -/
theorem masterWrite_done {dt : Nat} {m : Master} {p : State → Prop} (run : s.dictRuns = true)
    (hw : (s.elapse dt).write m.transport idx sub v = (code, u)) (hl : u.dict.landing = []) (hp : p (u.emit (.status code))) :
    AnswersSettled (s.masterWrite dt m idx sub v) p := by
  have hreq : (s.elapse dt).request m.transport idx sub v = u.emit (.status code) := by
    unfold request
    rw [if_neg (by simp [run]), hw]
  have hland : (s.elapse dt).requestLand m.transport [] idx sub v = u.emit (.status code) := by
    unfold requestLand
    rw [hreq]
    dsimp only
    split
    · exact landWrites_nil [] hl
    · rfl
  exact ⟨_, by rw [masterWrite, hland]; rfl, hp⟩

theorem masterWrite_answers {dt : Nat} {m : Master} {p : State → Prop} (run : s.dictRuns = true)
    (hw : (s.elapse dt).write m.transport idx sub v = (code, u)) (hu : u.dictRuns = true)
    (hp : p ((u.emit (.status code)).landWrites [])) : AnswersSettled (s.masterWrite dt m idx sub v) p :=
  ⟨_, by rw [masterWrite, requestLand_eq (by simpa using run) hw hu]; rfl, hp⟩

/-! ### What of the writes on their way lands in the step (R15) -/

theorem landWrites_waits {l : Landing} (cuts : List (Nat × CutFrame)) (hl : s.dict.landing = [l]) (hw : s.waits l = true) :
    s.landWrites cuts = s := by
  simp [landWrites, hl, landAll, landNext, mayLand, hw]

/-- The state with no write on its way. -/
def State.cleared (s : State) : State := { s with dict := { s.dict with landing := [] } }

theorem landWrites_unbound {l : Landing} (cuts : List (Nat × CutFrame)) (hl : s.dict.landing = [l]) (hw : s.waits l = false)
    (hb : boundRow l.eff = none) :
    s.landWrites cuts = s.cleared.landOne cuts l := by
  simp [landWrites, hl, landAll, landNext, mayLand, hw, hb, cleared]

/-- A write that a tick bounds and that was just accepted waits. -/
theorem waits_fresh {l : Landing} (ht : l.tick = s.time.ticks) (hb : 0 < tickBound l.eff) : s.waits l = true := by
  have hz : s.ticksWaited l = 0 := by simp [ticksWaited, ht]
  unfold waits
  rw [hz]
  simp [hb]

theorem tickBound_row {row : Nat} {img : List Word} {b : Bool} (ht : t < 256) :
    tickBound (.row (winIdx c t) row img b) = if t ≤ 3 then 1 else if t = 6 then 2 else 0 := by
  unfold tickBound
  simp only [winTable_winIdx ht]

theorem tickBound_strobe {row : Nat} (ht : t < 256) :
    tickBound (.strobe (winIdx c t) sub row) = if t ≤ 3 then 1 else if t = 6 then 2 else 0 := by
  unfold tickBound
  simp only [winTable_winIdx ht]

section
variable {n row : Nat} {k : Word}

/-- A row may land with its domain ON, once the ticks that bound it have passed; so may a strobe. -/
theorem waits_row {img : List Word} {b : Bool} (hc : c < 16) (ht : t < 256) (hn : tableDomain c t = some n) (hon : s.isOn n = true)
    (hw : tickBound (.row (winIdx c t) row img b) ≤ s.ticksWaited ⟨via, .row (winIdx c t) row img b, k⟩) :
    s.waits ⟨via, .row (winIdx c t) row img b, k⟩ = false := by
  unfold waits
  rw [decide_eq_false (Nat.not_lt.mpr hw)]
  simp [winTable_winIdx ht, winCluster_winIdx hc ht, hn, hon]

theorem waits_strobe (hc : c < 16) (ht : t < 256) (hn : tableDomain c t = some n) (hon : s.isOn n = true)
    (hw : tickBound (.strobe (winIdx c t) sub row) ≤ s.ticksWaited ⟨via, .strobe (winIdx c t) sub row, k⟩) :
    s.waits ⟨via, .strobe (winIdx c t) sub row, k⟩ = false := by
  unfold waits
  rw [decide_eq_false (Nat.not_lt.mpr hw)]
  simp [winTable_winIdx ht, winCluster_winIdx hc ht, hn, hon]

end

/-! ### ROW selects (R69) -/

/-- The state in which a window is `q`; what a row that does not exist loads is drawn from the free words (R69). -/
def State.selected (s : State) (w : Nat) (q : Window) (free : Nat) : State := { s.setWindow w q with free }

theorem window_selected (s : State) (w : Nat) (q : Window) (f : Nat) : (s.selected w q f).window w = q := window_setWindow ..

/-- Whatever the table, ROW replaces the window by one that holds the row and STATUS, with no partial image. -/
theorem selectRow_eq (s : State) (c t row : Nat) : ∃ q f, s.selectRow c t row = s.selected (winIdx c t) q f ∧
    q.row = row ∧ q.part = [] ∧ q.status = (s.window (winIdx c t)).status := by
  unfold selectRow
  extract_lets w q off stage pattern img img'
  by_cases hoff : off = true
  · rw [if_pos hoff]
    refine ⟨_, s.free, rfl, ?_⟩
    exact ⟨rfl, rfl, rfl⟩
  rw [if_neg hoff]
  split
  · refine ⟨_, s.free + 32, rfl, ?_⟩
    exact ⟨rfl, rfl, rfl⟩
  · refine ⟨_, s.free, rfl, ?_⟩
    exact ⟨rfl, rfl, rfl⟩

/-- The row of the VLAN map is loaded into its one staging slot (R69). -/
theorem selectRow_vlan {row : Nat} (hrow : row < 4096) (hon : (s.dom (domMeter c)).ack ≠ .off) :
    SMap.get 0 ((s.selectRow c 4 row).window (winIdx c 4)).stage 2 = s.rowGet (winIdx c 4) 2 row := by
  have hr4 : ¬ tableRows 4 ≤ row := Nat.not_le.mpr hrow
  unfold selectRow
  dsimp only
  rw [if_neg (by simpa [tableDomain] using hon), if_neg hr4, window_setWindow]
  exact SMap.get_set_self ..

theorem write_row {row : Nat} (hc : c < 16) (ht : t ≤ 0xC) (hrow : row < 2 ^ 32) :
    s.write via (winIdx c t) 1 (Word.ofNat row) = (rOK, s.selectRow c t row) := by
  have hv : (Word.ofNat row).toNat = row := by
    simp only [Word.ofNat, BitVec.toNat_ofNat]
    omega
  have ha : s.acceptWin via c t (rwObj 1 "ROW" .u32) (Word.ofNat row) = (rOK, s.selectRow c t row) := by
    have hfit : ObjType.fits .u32 (Word.ofNat row).toNat = true := by simpa [ObjType.fits, hv] using hrow
    unfold acceptWin
    refine (if_neg (by simp [rwObj])).trans ((if_neg (by simp [rwObj, hfit])).trans ((if_pos rfl).trans ?_))
    rw [hv]
  rw [write_window hc ht (by decide) rfl, ha]
  rfl

/-! ### A row is taken or refused (R70–R72) -/

/-- The check of a row of any table but the keys changes nothing and reads no window. -/
theorem rowCheck_window (s : State) (w : Nat) (q : Window) (row : Nat) (img : List Word) (live : Bool) (h6 : t ≠ 6) :
    (s.setWindow w q).rowCheck c t row img live = ((s.rowCheck c t row img live).1, s.setWindow w q) := by
  have key (p : Prop) [Decidable p] (a k : Bool) (u v : State) :
      (if p then (rROW_RANGE, u) else if a then (rRANGE, u) else (if k then rOK else rRANGE, u)) =
        ((if p then (rROW_RANGE, v) else if a then (rRANGE, v) else (if k then rOK else rRANGE, v)).1, u) := by
    split_ifs <;> rfl
  unfold rowCheck
  simp only [if_neg h6]
  exact key ..

theorem rowCheck_state (s : State) (row : Nat) (img : List Word) (live : Bool) (h6 : t ≠ 6) : (s.rowCheck c t row img live).2 = s := by
  unfold rowCheck
  simp only [if_neg h6]
  split_ifs <;> rfl

theorem forwardRow_said (s : State) (via : Transport) (c row : Nat) (img : List Word) (h6 : t ≠ 6)
    (room : s.streamRuns = true → s.storedWrites < 65536) : ∃ x, s.forwardRow via c t row img = s.said x := by
  unfold forwardRow
  split
  · exact ⟨_, said_self s⟩
  · exact streamSend_said s _ room

/-- A row that passes its check is on its way, and its message to the twin with it. -/
theorem acceptRow_ok {row : Nat} {img : List Word} (byData : Bool) (hl : s.dict.landing = [])
    (room : s.streamRuns = true → s.storedWrites < 65536) (h6 : t ≠ 6) (hok : (s.rowCheck c t row img true).1 = rOK) :
    ∃ x, s.acceptRow via c t row img byData = (rOK, (s.said x).enqueue via (.row (winIdx c t) row img byData)) := by
  obtain ⟨x, hx⟩ := forwardRow_said (s.enqueue via (.row (winIdx c t) row img byData)) via c row img h6 room
  have hset : s.rowsSettled = true := by simp [rowsSettled, hl]
  refine ⟨x, ?_⟩
  unfold acceptRow
  dsimp only
  rw [hset, if_neg (by simp [hok]), rowCheck_state _ _ _ _ h6, hx, enqueue_said]

theorem acceptRow_refused {row : Nat} {img : List Word} (byData : Bool) (hl : s.dict.landing = []) (h6 : t ≠ 6)
    (hcode : (s.rowCheck c t row img true).1 = code) (hn : code ≠ rOK) : s.acceptRow via c t row img byData = (code, s) := by
  have hset : s.rowsSettled = true := by simp [rowsSettled, hl]
  unfold acceptRow
  dsimp only
  rw [hset, if_pos (by rw [hcode]; exact hn)]
  exact Prod.ext hcode (rowCheck_state _ _ _ _ h6)

/-- A COMMIT drops a partial image. -/
def State.noPart (s : State) (w : Nat) : State := s.setWindow w { s.window w with part := [] }

theorem noPart_window (s : State) (w : Nat) : (s.noPart w).window w = { s.window w with part := [] } := window_setWindow ..

theorem stagedImage_noPart (s : State) (c t : Nat) : (s.noPart (winIdx c t)).stagedImage c t = s.stagedImage c t := by
  unfold stagedImage
  rw [noPart_window]

theorem windowObjs_commit (ht : t ≤ 0xC) : (windowObjs t).find? (fun o => o.sub == 0x10) = some (woObj 0x10 "COMMIT" .strobe) := by
  interval_cases t <;> rfl

theorem write_commit (hc : c < 16) (ht : t ≤ 0xC) : s.write via (winIdx c t) 0x10 1 =
    let x := s.acceptCommit via c t
    if x.1 = rOK then x else (x.1, x.2.refuse via (winIdx c t) 0x10 x.1) :=
  write_window hc ht (by decide) (windowObjs_commit ht)

/-- A COMMIT whose row passes its check (R70). -/
theorem commit_accepted (hr : s.Ready) (hc : c < 16) (ht : t ≤ 0xC) (h6 : t ≠ 6)
    (hok : (s.rowCheck c t (s.window (winIdx c t)).row (s.stagedImage c t) true).1 = rOK) :
    ∃ x, s.write via (winIdx c t) 0x10 1 = (rOK, ((s.noPart (winIdx c t)).said x).enqueue via
      (.row (winIdx c t) (s.window (winIdx c t)).row (s.stagedImage c t) false)) := by
  obtain ⟨x, hx⟩ := acceptRow_ok (s := s.noPart (winIdx c t)) (via := via) false hr.2.1 hr.2.2 h6
    (by rw [noPart, rowCheck_window _ _ _ _ _ _ h6]; exact hok)
  refine ⟨x, ?_⟩
  rw [write_commit hc ht]
  unfold acceptCommit
  dsimp only
  rw [← noPart, noPart_window, stagedImage_noPart]
  dsimp only
  rw [hx]
  rfl

/-- A COMMIT whose row fails it (R71). -/
theorem commit_refused (hr : s.Ready) (hc : c < 16) (ht : t ≤ 0xC) (h6 : t ≠ 6)
    (hcode : (s.rowCheck c t (s.window (winIdx c t)).row (s.stagedImage c t) true).1 = code) (hn : code ≠ rOK) :
    s.write via (winIdx c t) 0x10 1 = (code, ((s.noPart (winIdx c t)).setStatus (winIdx c t) code).refuse via (winIdx c t) 0x10 code) := by
  have hx := acceptRow_refused (s := s.noPart (winIdx c t)) (via := via) false hr.2.1 h6
    (by rw [noPart, rowCheck_window _ _ _ _ _ _ h6]; exact hcode) hn
  rw [write_commit hc ht]
  unfold acceptCommit
  dsimp only
  rw [← noPart, noPart_window, stagedImage_noPart]
  dsimp only
  rw [hx, if_neg hn, if_neg hn]

/-! ### Strobes of a row (R275, R281, R315) -/

theorem write_strobe {name : String} (hc : c < 16) (ht : t ≤ 0xC) (h0 : sub ≠ 0) (h1 : sub ≠ 1) (h10 : sub ≠ 0x10) (h14 : sub ≠ 0x14)
    (ho : (windowObjs t).find? (fun o => o.sub == sub) = some (woObj sub name .strobe)) (hv : via ≠ .hinge)
    (room : s.streamRuns = true → s.storedWrites < 65536) (hrow : (s.window (winIdx c t)).row < tableRows t) :
    ∃ x, s.write via (winIdx c t) sub 1 = (rOK, (s.said x).enqueue via (.strobe (winIdx c t) sub (s.window (winIdx c t)).row)) := by
  have ha : s.acceptWin via c t (woObj sub name .strobe) 1 = s.acceptStrobe via c t sub (s.window (winIdx c t)).row := by
    unfold acceptWin
    exact (if_neg (by simp [woObj])).trans ((if_neg (by simp [woObj, ObjType.fits])).trans ((if_neg h1).trans ((if_neg h14).trans ((if_neg (by simp)).trans
      ((if_neg h10).trans (if_pos rfl))))))
  obtain ⟨x, hx⟩ := streamSend_said (s.enqueue via (.strobe (winIdx c t) sub (s.window (winIdx c t)).row))
    (.write (.strobe (winIdx c t) sub (s.window (winIdx c t)).row)) room
  refine ⟨x, ?_⟩
  rw [write_window hc ht h0 ho, ha]
  unfold acceptStrobe
  dsimp only
  rw [if_neg (Nat.not_le.mpr hrow), if_neg hv, hx, enqueue_said]
  rfl

theorem transport_ne_hinge (m : Master) : m.transport ≠ .hinge := by cases m <;> decide

/-- A request whose write waits for a tick boundary. -/
theorem masterWrite_queued {dt : Nat} {m : Master} {p : State → Prop} {x : Sent} {e : Effect} (hr : s.Ready)
    (hw : (s.elapse dt).write m.transport idx sub v = (rOK, (u.said x).enqueue m.transport e)) (hu : u.dictRuns = true)
    (hl : u.dict.landing = []) (hb : 0 < tickBound e) (hp : p (((u.said x).enqueue m.transport e).emit (.status rOK))) :
    AnswersSettled (s.masterWrite dt m idx sub v) p := by
  refine masterWrite_answers hr.1 hw hu ?_
  rwa [landWrites_waits (s := ((u.said x).enqueue m.transport e).emit (.status rOK)) [] (by simp [enqueue, hl])
    (waits_fresh (l := ⟨m.transport, e, u.time.ticks⟩) rfl hb)]

/-- A request whose write lands in the step. -/
theorem masterWrite_lands {dt : Nat} {m : Master} {p : State → Prop} {x : Sent} {e : Effect} (hr : s.Ready)
    (hw : (s.elapse dt).write m.transport idx sub v = (rOK, (u.said x).enqueue m.transport e)) (hu : u.dictRuns = true)
    (hl : u.dict.landing = []) (hb : boundRow e = none) (hwait : ∀ tick, u.waits ⟨m.transport, e, tick⟩ = false)
    (hp : ∀ y : Sent, Output.status rOK ∈ y.outs → p ((u.said y).landOne [] ⟨m.transport, e, u.time.ticks⟩)) :
    AnswersSettled (s.masterWrite dt m idx sub v) p := by
  refine masterWrite_answers hr.1 hw hu ?_
  have hclear : (((u.said x).enqueue m.transport e).emit (.status rOK)).cleared = u.said { x with outs := x.outs ++ [.status rOK] } := by
    rw [← emit_said]
    simp only [cleared, enqueue, emit, said_dict]
    rw [← hl]
  rw [landWrites_unbound (s := ((u.said x).enqueue m.transport e).emit (.status rOK))
    (l := ⟨m.transport, e, u.time.ticks⟩) [] (by simp [enqueue, hl]) (hwait _) hb, hclear]
  exact hp _ (by simp)

end
end Sys2Proof.Machine
end

