-- ==== Sys2Proof/Proofs/RowLandings.lean ====
section
namespace Sys2Proof.Machine
open State

section
variable {s u : State} {via : Transport} {c t row sub : Nat} {img : List Word}

/-! ### A row and its words -/

/-- The words of an image written to the row's slots from 2 on. -/
def State.setImage (s : State) (w row : Nat) (img : List Word) : State :=
  (List.range img.length).foldl (fun s i => s.rowSet w (2 + i) row (img.getD i 0)) s

theorem rowGet_rowSet (s : State) (w i r : Nat) (v : Word) : (s.rowSet w i r v).rowGet w i r = v := SMap.get_set_self ..

theorem rowGet_rowSet_ne (s : State) {w i j r : Nat} (v : Word) (h : j ≠ i) (hi : i < 256) (hj : j < 256) (hr : r < 65536) :
    (s.rowSet w i r v).rowGet w j r = s.rowGet w j r :=
  SMap.get_set_ne _ fun e => h (slotKey_inj hj hr hi hr e).2.1

/-- Everything but the rows is as before. -/
theorem setImage_eq (s : State) (w row : Nat) (img : List Word) : ∃ m, s.setImage w row img = { s with rows := m } := by
  unfold setImage
  generalize List.range img.length = l
  induction l generalizing s with
  | nil => exact ⟨s.rows, rfl⟩
  | cons i l ih => exact ih (s.rowSet w (2 + i) row (img.getD i 0))

theorem rowGet_setImage (s : State) (w : Nat) (hr : row < 65536) (hlen : img.length ≤ 16) {i : Nat} (hi : i < img.length) :
    (s.setImage w row img).rowGet w (2 + i) row = img.getD i 0 := by
  have key (n : Nat) (hn : n ≤ 16) (hin : i < n) :
      ((List.range n).foldl (fun s i => s.rowSet w (2 + i) row (img.getD i 0)) s).rowGet w (2 + i) row = img.getD i 0 := by
    induction n with
    | zero => omega
    | succ n ih =>
      rw [List.range_succ, List.foldl_append, List.foldl_cons, List.foldl_nil]
      by_cases h : i = n
      · rw [h, rowGet_rowSet]
      · rw [rowGet_rowSet_ne _ _ (by omega) (by omega) (by omega) hr]
        exact ih (by omega) (by omega)
  exact key _ hlen hi

/-! ### The check of a row of the tables 0x03, 0x04 and 0x0A (R70, R72) -/

theorem ack_of_isOn {n : Nat} (hn : n < 64) (h : s.isOn n = true) : (s.dom n).ack ≠ .off := by
  intro hoff
  unfold isOn at h
  rw [hoff] at h
  have : ¬ n = domAO := by unfold domAO; omega
  simp [this] at h

theorem rowCheck_meter (live : Bool) (hon : (s.dom (domMeter c)).ack ≠ .off) (hrow : row < 32768) (hf : fieldsOk 3 img = true)
    (hok : meterOk img = true) : s.rowCheck c 3 row img live = (rOK, s) := by
  have hr : ¬ tableRows 3 ≤ row := Nat.not_le.mpr hrow
  unfold rowCheck
  dsimp only
  rw [if_neg hr, if_neg (by simpa [tableDomain, hf] using hon), if_neg (by decide), hok]
  rfl

theorem rowCheck_vlan (live : Bool) (hon : (s.dom (domMeter c)).ack ≠ .off) (hrow : row < 4096) (v : Word) :
    s.rowCheck c 4 row [v] live = (if vmapOk [v] then rOK else rRANGE, s) := by
  have hr : ¬ tableRows 4 ≤ row := Nat.not_le.mpr hrow
  have hf : fieldsOk 4 [v] = true := rfl
  unfold rowCheck
  dsimp only
  rw [if_neg hr, if_neg (by simpa [tableDomain, hf] using hon), if_neg (by decide)]
  rfl

theorem rowCheck_shutter (live : Bool) (hon : (s.dom (domQueue c)).ack ≠ .off) (hrow : row < 65536) {e : Word}
    (hok : shutterRowOk e = true) : s.rowCheck c 0xA row [e] live = (rOK, s) := by
  have hr : ¬ tableRows 0xA ≤ row := Nat.not_le.mpr hrow
  have hf : fieldsOk 0xA [e] = true := rfl
  unfold rowCheck
  dsimp only
  rw [if_neg hr, if_neg (by simpa [tableDomain, hf] using hon), if_neg (by decide)]
  exact congrArg (fun b : Bool => (if b then rOK else rRANGE, s)) hok

theorem landRow_meter (hon : (s.dom (domMeter c)).ack ≠ .off) (hrow : row < 32768) (hf : fieldsOk 3 img = true) (hok : meterOk img = true) :
    s.landRow c 3 row img = (rOK, s.landMeter c row img) := by
  unfold landRow
  rw [rowCheck_meter true hon hrow hf hok]
  rfl

theorem landRow_vlan (hon : (s.dom (domMeter c)).ack ≠ .off) (hrow : row < 4096) {v : Word} (hok : vmapOk [v] = true) :
    s.landRow c 4 row [v] = (rOK, s.rowSet (winIdx c 4) 2 row v) := by
  unfold landRow
  rw [rowCheck_vlan true hon hrow, hok]
  rfl

theorem landRow_shutter (hon : (s.dom (domQueue c)).ack ≠ .off) (hrow : row < 65536) {e : Word} (hok : shutterRowOk e = true) :
    s.landRow c 0xA row [e] = (rOK, s.landShutterRow c row e) := by
  unfold landRow
  rw [rowCheck_shutter true hon hrow hok]
  rfl

/-! ### A write on its way lands -/

theorem landOne_row (cuts : List (Nat × CutFrame)) (k : Word) (b : Bool) (hc : c < 16) (ht : t < 256) (h6 : t ≠ 6) :
    s.landOne cuts ⟨via, .row (winIdx c t) row img b, k⟩ = rowLanded (s.landRow c t row img) via (winIdx c t) b := by
  unfold landOne
  dsimp only
  rw [winTable_winIdx ht, winCluster_winIdx hc ht, if_neg h6]

theorem landOne_strobe (cuts : List (Nat × CutFrame)) (k : Word) (hc : c < 16) (ht : t < 256) :
    s.landOne cuts ⟨via, .strobe (winIdx c t) sub row, k⟩ = s.landStrobe c t row := by
  unfold landOne
  dsimp only
  rw [winTable_winIdx ht, winCluster_winIdx hc ht]

/-- A landed row answers in STATUS of its window, but for one that came by the mirror stream (R93). -/
theorem rowLanded_ok (s : State) (via : Transport) (w : Nat) (b : Bool) :
    rowLanded (rOK, s) via w b = if via = .hinge then s else s.setStatus w rOK := rfl

theorem rowLanded_rows (s : State) (via : Transport) (w : Nat) (b : Bool) : (rowLanded (rOK, s) via w b).rows = s.rows := by
  rw [rowLanded_ok]
  split <;> rfl

theorem rowLanded_landing (s : State) (via : Transport) (w : Nat) (b : Bool) :
    (rowLanded (rOK, s) via w b).dict.landing = s.dict.landing := by
  rw [rowLanded_ok]
  split <;> rfl

theorem rowLanded_status (s : State) (w : Nat) (b : Bool) (hv : via ≠ .hinge) :
    ((rowLanded (rOK, s) via w b).window w).status = rOK := by
  rw [rowLanded_ok, if_neg hv, setStatus, window_setWindow]

/-- Writing a meter's row writes its words, and leaves the dictionary engine. -/
theorem landMeter_rows (s : State) (c row : Nat) (img : List Word) : (s.landMeter c row img).rows = (s.setImage (winIdx c 3) row img).rows ∧
    (s.landMeter c row img).dict = s.dict := by
  obtain ⟨m, hm⟩ := setImage_eq s (winIdx c 3) row img
  unfold landMeter
  dsimp only
  rw [← setImage, hm]
  split_ifs <;> exact ⟨rfl, rfl⟩

/-- A meter that stays ENABLEd under one algorithm keeps its buckets (R275). -/
theorem landMeter_going {s : State} (ho : (s.meterRow c row).enable = true)
    (ha : (img.getD 0 0).bits 1 3 = (s.meterRow c row).alg) (hr : row < 65536) (hlen : img.length = 5) :
    s.landMeter c row img = s.setImage (winIdx c 3) row img := by
  have hnew : ((s.setImage (winIdx c 3) row img).meterRow c row).alg = (img.getD 0 0).bits 1 3 := by
    unfold meterRow
    dsimp only
    rw [rowGet_setImage (i := 0) s (winIdx c 3) hr (by omega) (by omega)]
    rfl
  unfold landMeter
  dsimp only
  rw [← setImage, if_neg (by simp [ho]), if_neg (by rw [hnew, ha]; simp), if_neg (by simp [ho])]

/-! ### The oldest write on its way lands (R61) -/

/-- A write of one row that a tick bounds lands alone, where nothing else is on its way. -/
theorem landNext_one {l : Landing} {k : Nat × Nat} (cuts : List (Nat × CutFrame)) (ok : State → Landing → Bool) (hl : s.dict.landing = [l])
    (hok : ok s l = true) (hb : boundRow l.eff = some k) (h2 : tickBound l.eff ≠ 2) :
    s.landNext cuts ok = some (s.cleared.landOne cuts l) := by
  have hedge (u : State) : u.landEdge cuts [l] = u.landOne cuts l := by
    unfold landEdge
    rw [if_neg (by simp [h2])]
    cases hs : isSettle l
    · cases hr : isReturn l <;> simp [hs, hr]
    · have hr : isReturn l = false := by
        unfold isSettle at hs
        unfold isReturn
        split at hs <;> simp_all
      simp [hs, hr]
  unfold landNext
  simp [hl, hok, hb, hedge, cleared]

theorem landOldest_one {l : Landing} {k : Nat × Nat} (cuts : List (Nat × CutFrame)) (run : s.dictRuns = true) (hl : s.dict.landing = [l])
    (hw : s.waits l = false) (hb : boundRow l.eff = some k) (h2 : tickBound l.eff ≠ 2) :
    s.landOldest cuts = s.cleared.landOne cuts l := by
  unfold landOldest
  rw [if_pos run, landNext_one cuts mayLand hl (by simp [mayLand, hw]) hb h2]
  rfl

theorem boundRow_row {b : Bool} (ht : t ≤ 3) : boundRow (.row (winIdx c t) row img b) = some (winIdx c t, row) := by
  unfold boundRow
  rw [tickBound_row (by omega), if_pos ht]
  rfl

theorem boundRow_strobe (ht : t ≤ 3) : boundRow (.strobe (winIdx c t) sub row) = some (winIdx c t, row) := by
  unfold boundRow
  rw [tickBound_strobe (by omega), if_pos ht]
  rfl

theorem elapse_ticks (s : State) (dt : Nat) : (s.elapse dt).time.ticks = s.time.ticks := by
  unfold elapse timeAfter
  dsimp only
  split_ifs <;> rfl

theorem elapse_ticksWaited (s : State) (dt : Nat) (l : Landing) : (s.elapse dt).ticksWaited l = s.ticksWaited l := by
  unfold ticksWaited
  rw [elapse_ticks]

end
end Sys2Proof.Machine
end

