-- ==== Sys2Proof/Proofs/TickGrid.lean ====
section
/-!
SUPPORT. What the functions of a management tick leave of the way to a landing: the writes on their way, the time core and which domains
are ON. Function by function, in the order of the model; only a wake asks a domain for ON, and no domain leaves ON by it.
-/
set_option linter.unusedTactic false
set_option linter.unreachableTactic false
set_option linter.unusedVariables false
set_option linter.tactic.unusedName false
namespace Sys2Proof.Machine

/-- The writes on their way, the time core, and what the domains acknowledge and show are the same. -/
structure State.Grid (s s₀ : State) : Prop where
  landing : s.dict.landing = s₀.dict.landing
  time : s.time = s₀.time
  ack : ∀ n, (s.dom n).ack = (s₀.dom n).ack
  on : ∀ n, s.isOn n = s₀.isOn n

theorem State.Grid.refl (s : State) : s.Grid s := ⟨rfl, rfl, fun _ => rfl, fun _ => rfl⟩

theorem State.Grid.trans {s t u : State} (h : s.Grid t) (k : t.Grid u) : s.Grid u :=
  ⟨h.landing.trans k.landing, h.time.trans k.time, fun n => (h.ack n).trans (k.ack n), fun n => (h.on n).trans (k.on n)⟩

theorem State.Grid.cut {s s₀ : State} {p : Prop} (h : s.Grid s₀) (k : s.Grid s₀ → p) : p := k h

theorem grid_mk {s s₀ : State} (h : s.Grid s₀) {pending out free regs rows past ctrs onceTick clusterPower ev cu keys masks laneLock portRx clusterRx
      clusterTx portTx shutters rings quarters twin mem} :
    (State.mk pending out free regs rows past ctrs onceTick s.power clusterPower s.time ev cu s.dict keys masks laneLock portRx clusterRx clusterTx
      portTx shutters rings quarters twin mem).Grid s₀ :=
  ⟨h.landing, h.time, h.ack, h.on⟩

/-- The dictionary engine with the same writes on their way. -/
theorem grid_dict {s s₀ : State} {d : DictUnit} (h : s.Grid s₀) (hl : d.landing = s.dict.landing) : ({ s with dict := d } : State).Grid s₀ :=
  ⟨hl.trans h.landing, h.time, h.ack, h.on⟩

theorem foldl_grid {α : Type} {f : State → α → State} {l : List α} {s s₀ : State} (h : s.Grid s₀)
    (hf : ∀ s a, s.Grid s₀ → (f s a).Grid s₀) : (l.foldl f s).Grid s₀ := by
  induction l generalizing s with
  | nil => exact h
  | cons a t ih => exact ih (hf _ _ h)

theorem foldl_grid_snd {α β : Type} {f : β × State → α → β × State} {l : List α} {x : β × State} {s₀ : State} (h : x.2.Grid s₀)
    (hf : ∀ x a, x.2.Grid s₀ → (f x a).2.Grid s₀) : (l.foldl f x).2.Grid s₀ := by
  induction l generalizing x with
  | nil => exact h
  | cons a t ih => exact ih (hf _ _ h)

theorem foldl_grid_mid {α β γ : Type} {f : β × State × γ → α → β × State × γ} {l : List α} {x : β × State × γ} {s₀ : State}
    (h : x.2.1.Grid s₀) (hf : ∀ x a, x.2.1.Grid s₀ → (f x a).2.1.Grid s₀) : (l.foldl f x).2.1.Grid s₀ := by
  induction l generalizing x with
  | nil => exact h
  | cons a t ih => exact ih (hf _ _ h)

/-! ### Domains: a wake asks for ON (R531, R546) -/

section
variable {s s₀ : State}

/-- A domain with its acknowledge and isolation as they were. -/
theorem State.setDom_grid {m : Nat} {d : Domain} (ha : d.ack = (s.dom m).ack) (hi : d.isolated = (s.dom m).isolated) (hk : s.Grid s₀) :
    (s.setDom m d).Grid s₀ := by
  have hdom (n : Nat) : ((s.setDom m d).dom n).ack = (s.dom n).ack ∧ ((s.setDom m d).dom n).isolated = (s.dom n).isolated := by
    by_cases hm : n = m
    · subst hm; rw [dom_setDom]; exact ⟨ha, hi⟩
    · rw [show (s.setDom m d).dom n = s.dom n from SMap.get_set_ne _ hm]; exact ⟨rfl, rfl⟩
  refine Grid.trans (t := s) ⟨rfl, rfl, fun n => (hdom n).1, fun n => ?_⟩ hk
  unfold isOn
  rw [(hdom n).1, (hdom n).2]

/-- A domain that does not acknowledge ON is isolated: it did not show ON before. -/
theorem State.beginSwitch_grid {m : Nat} {g : Pwr} (ha : (s.dom m).ack ≠ .on) (hk : s.Grid s₀) : (s.beginSwitch m g).Grid s₀ := by
  refine Grid.trans (t := s) ⟨rfl, rfl, fun n => ?_, fun n => ?_⟩ hk
  · by_cases hm : n = m
    · subst hm; rw [beginSwitch, dom_setDom]
    · exact congrArg Domain.ack (SMap.get_set_ne _ hm)
  · unfold isOn
    by_cases hm : n = m
    · subst hm; rw [beginSwitch, dom_setDom]; simp [ha]
    · rw [show (s.beginSwitch m g).dom n = s.dom n from SMap.get_set_ne _ hm]

theorem State.requestOn_grid {m : Nat} (hk : s.Grid s₀) : (s.requestOn m).Grid s₀ := by
  unfold requestOn
  dsimp only
  split
  · exact hk
  split
  · exact setDom_grid rfl rfl hk
  have h1 : (s.setDom m { s.dom m with req := .on }).Grid s₀ := setDom_grid rfl rfl hk
  split
  · exact h1
  next ha =>
  split
  · exact beginSwitch_grid (by rwa [dom_setDom]) h1
  generalize hu : State.setDom (State.setDom s m _) m _ = u
  have h2 : u.Grid s₀ := by rw [← hu]; exact setDom_grid rfl rfl h1
  split
  · exact setDom_grid rfl rfl h2
  split
  · exact h2
  · next hn => exact beginSwitch_grid (by rw [dom_setDom]; exact fun e => hn (.inl e)) (setDom_grid rfl rfl h2)

theorem State.endSleep_grid (hk : s.Grid s₀) : s.endSleep.Grid s₀ := by
  unfold endSleep
  split
  · exact hk
  · have hboot : ({ s with power := { s.power with boot := .core } } : State).Grid s₀ := ⟨hk.landing, hk.time, hk.ack, hk.on⟩
    exact foldl_grid (requestOn_grid hboot) fun _ _ h => requestOn_grid h

theorem State.setReg_grid {i u : Nat} {v : Word} (h : s.Grid s₀) : (s.setReg i u v).Grid s₀ := grid_mk h

theorem State.rowSet_grid {w u r : Nat} {v : Word} (h : s.Grid s₀) : (s.rowSet w u r v).Grid s₀ := grid_mk h

theorem State.store_grid {row : Bool} {key : Nat} {v : Word} (h : s.Grid s₀) : (s.store row key v).Grid s₀ := by
  unfold store
  split
  · exact grid_mk h
  · exact grid_mk h

theorem State.memWrite_grid {a : Nat} {bs : Bytes} (h : s.Grid s₀) : (s.memWrite a bs).Grid s₀ := by
  induction bs generalizing s a with
  | nil => exact h
  | cons b l ih => exact ih (grid_mk h)

theorem State.bumpRow_grid {i u r n : Nat} (h : s.Grid s₀) : (s.bumpRow i u r n).Grid s₀ := by
  unfold bumpRow
  dsimp only
  split
  · exact grid_mk h
  · exact grid_mk h

end

/-! ### The functions of the model, in its order -/

theorem State.bump_grid {s s₀ : State} {idx sub n : Nat} (hk : s.Grid s₀) : (State.bump s idx sub n).Grid s₀ :=
  bumpRow_grid hk

theorem State.bumpPort_grid {s s₀ : State} {p slot n : Nat} (hk : s.Grid s₀) : (State.bumpPort s p slot n).Grid s₀ :=
  bumpRow_grid hk

theorem State.emit_grid {s s₀ : State} {o : Output} (hk : s.Grid s₀) : (State.emit s o).Grid s₀ := grid_mk hk

theorem State.freshBytes_grid {s s₀ : State} {n : Nat} (hk : s.Grid s₀) : (State.freshBytes s n).2.Grid s₀ := grid_mk hk

theorem State.freshWord_grid {s s₀ : State} (hk : s.Grid s₀) : (State.freshWord s).2.Grid s₀ := grid_mk hk

theorem State.setClp_grid {s s₀ : State} {c : Nat} {q : ClusterPower} (hk : s.Grid s₀) : (State.setClp s c q).Grid s₀ := grid_mk hk

theorem State.wakeCluster_grid {s s₀ : State} {c : Nat} (hk : s.Grid s₀) : (State.wakeCluster s c).Grid s₀ := by
  unfold State.wakeCluster
  dsimp only
  split
  · exact State.requestOn_grid (State.requestOn_grid (State.requestOn_grid (State.setReg_grid (State.setClp_grid hk))))
  · exact State.setClp_grid hk
  · exact hk

theorem State.wakeCommon_grid {s s₀ : State} (hk : s.Grid s₀) : (State.wakeCommon s).Grid s₀ := by
  unfold State.wakeCommon
  repeat' with_reducible first
    | assumption | apply State.requestOn_grid | apply State.endSleep_grid | apply foldl_grid | intro _ | split

theorem State.latchFire_grid {s s₀ : State} {e data : Nat} (hk : s.Grid s₀) : (State.latchFire s e data).1.Grid s₀ := by
  unfold State.latchFire
  repeat' with_reducible first
    | assumption | apply State.wakeCluster_grid | apply State.wakeCommon_grid | apply State.bump_grid | apply foldl_grid | intro _
    | (extract_lets +onlyGivenNames x; first
      | (refine State.Grid.cut (s₀ := s₀) (s := x) ?_ fun hx => ?_; (on_goal 2 => clear_value x); (on_goal 1 => unfold x; clear x))
      | clear_value x)
    | split | (fail_if_no_progress (apply grid_mk))

theorem State.noteEcc_grid {s s₀ : State} {e : Nat} (hk : s.Grid s₀) :
    (State.noteEcc s e).Grid s₀ := by
  unfold State.noteEcc
  repeat' with_reducible first
    | assumption | split | (fail_if_no_progress (apply grid_mk))

theorem State.notePast_grid {s s₀ : State} {row : Bool} {key : Nat} {old new : Word} (hk : s.Grid s₀) :
    (State.notePast s row key old new).Grid s₀ := by
  unfold State.notePast
  repeat' with_reducible first
    | assumption | split | (fail_if_no_progress (apply grid_mk))

theorem State.setSrc_grid {s s₀ : State} {e : Nat} {q : Source} (hk : s.Grid s₀) : (State.setSrc s e q).Grid s₀ := grid_mk hk

theorem State.raiseSource_grid {s s₀ : State} {e data : Nat} (hk : s.Grid s₀) : (State.raiseSource s e data).Grid s₀ := by
  unfold State.raiseSource
  repeat' with_reducible first
    | assumption | apply State.bump_grid | apply State.setSrc_grid
    | (extract_lets +onlyGivenNames x; first
      | (refine State.Grid.cut (s₀ := s₀) (s := x) ?_ fun hx => ?_; (on_goal 2 => clear_value x); (on_goal 1 => unfold x; clear x))
      | clear_value x)
    | split

theorem State.raise_grid {s s₀ : State} {e : Nat} {data : optParam Nat 0} (hk : s.Grid s₀) : (s.raise e data).Grid s₀ := by
  have hfire {u : State} (hu : u.Grid s₀) (f a b : Nat) : ((u.latchFire f a).1.raiseSource f b).Grid s₀ := raiseSource_grid (latchFire_grid hu)
  unfold raise
  dsimp only
  split
  · split
    · exact hfire (hfire hk _ _ _) _ _ _
    · exact grid_mk (hfire hk _ _ _)
  · exact hfire hk _ _ _

theorem State.raiseOnce_grid {s s₀ : State} {e : Nat} {data : optParam Nat 0} (hk : s.Grid s₀) :
    (State.raiseOnce s e data).Grid s₀ := by
  unfold State.raiseOnce
  repeat' with_reducible first
    | assumption | apply State.noteEcc_grid | apply State.raise_grid
    | (extract_lets +onlyGivenNames x;
        refine State.Grid.cut (s₀ := s₀) (s := x) ?_ fun hx => ?_; (on_goal 2 => clear_value x); (on_goal 1 => unfold x; clear x))
    | split | (fail_if_no_progress (apply grid_mk))

theorem State.setPort_grid {s s₀ : State} {p : Nat} {q : PortRx} (hk : s.Grid s₀) : (State.setPort s p q).Grid s₀ := grid_mk hk

theorem State.rxCause_grid {s s₀ : State} {p bit : Nat} (hk : s.Grid s₀) :
    (State.rxCause s p bit).Grid s₀ := by
  unfold State.rxCause
  repeat' with_reducible first
    | assumption | apply State.setPort_grid | apply State.raise_grid
    | (extract_lets +onlyGivenNames x; first
      | (refine State.Grid.cut (s₀ := s₀) (s := x) ?_ fun hx => ?_; (on_goal 2 => clear_value x); (on_goal 1 => unfold x; clear x))
      | clear_value x)
    | split

theorem State.setClRx_grid {s s₀ : State} {c : Nat} {q : ClusterRx} (hk : s.Grid s₀) : (State.setClRx s c q).Grid s₀ := grid_mk hk

theorem State.setClTx_grid {s s₀ : State} {c : Nat} {q : ClusterTx} (hk : s.Grid s₀) : (State.setClTx s c q).Grid s₀ := grid_mk hk

theorem State.setPortReg_grid {s s₀ : State} {idx sub : Nat} {v : Word} (hk : s.Grid s₀) : (State.setPortReg s idx sub v).Grid s₀ :=
  setReg_grid (notePast_grid hk)

theorem State.setPortTx_grid {s s₀ : State} {p : Nat} {q : PortTx} (hk : s.Grid s₀) : (State.setPortTx s p q).Grid s₀ := grid_mk hk

theorem State.setQuarter_grid {s s₀ : State} {q : Nat} {v : Quarter} (hk : s.Grid s₀) : (State.setQuarter s q v).Grid s₀ := grid_mk hk

theorem State.setRing_grid {s s₀ : State} {r : Nat} {q : Ring} (hk : s.Grid s₀) : (State.setRing s r q).Grid s₀ := grid_mk hk

theorem State.setSch_grid {s s₀ : State} {c k : Nat} {r : SchRow} (hk : s.Grid s₀) : (State.setSch s c k r).Grid s₀ := grid_mk hk

theorem State.setShut_grid {s s₀ : State} {p : Nat} {q : Shutter} (hk : s.Grid s₀) : (State.setShut s p q).Grid s₀ := grid_mk hk

theorem State.setSlot_grid {s s₀ : State} {k : Nat} {q : KeySlot} (hk : s.Grid s₀) : (State.setSlot s k q).Grid s₀ := grid_mk hk

theorem State.underStart_grid {s s₀ : State} {p age : Nat} {f : State → State} (hk : s.Grid s₀)
    (hf : ∀ t, t.Grid s₀ → (f t).Grid s₀) : (State.underStart s p age f).Grid s₀ := by
  unfold State.underStart
  have h1 : ∀ l : List Past, (l.foldr (fun e s => s.store e.row e.key e.old) s).Grid s₀ := by
    intro l
    induction l with
    | nil => exact hk
    | cons e l ih => exact State.store_grid ih
  exact foldl_grid (hf _ (h1 _)) fun _ _ h => State.store_grid h

theorem State.updClRx_grid {s s₀ : State} {c : Nat} {f : ClusterRx → ClusterRx} (hk : s.Grid s₀) : (State.updClRx s c f).Grid s₀ := grid_mk hk

theorem State.updPort_grid {s s₀ : State} {p : Nat} {f : PortRx → PortRx} (hk : s.Grid s₀) : (State.updPort s p f).Grid s₀ := grid_mk hk

theorem State.updPortTx_grid {s s₀ : State} {p : Nat} {f : PortTx → PortTx} (hk : s.Grid s₀) : (State.updPortTx s p f).Grid s₀ := grid_mk hk

theorem State.updRing_grid {s s₀ : State} {r : Nat} {f : Ring → Ring} (hk : s.Grid s₀) : (State.updRing s r f).Grid s₀ := grid_mk hk

theorem State.updTwin_grid {s s₀ : State} {f : TwinUnit → TwinUnit} (hk : s.Grid s₀) : (State.updTwin s f).Grid s₀ := grid_mk hk

theorem State.setDoorRow_grid {s s₀ : State} {c r : Nat} {w : DoorRow} (hk : s.Grid s₀) : (State.setDoorRow s c r w).Grid s₀ := grid_mk hk

theorem State.updDoor_grid {s s₀ : State} {c : Nat} {f : DoorUnit → DoorUnit} (hk : s.Grid s₀) : (State.updDoor s c f).Grid s₀ := grid_mk hk

theorem State.parityErr_grid {s s₀ : State} {c r : Nat} (hk : s.Grid s₀) : (State.parityErr s c r).Grid s₀ :=
  raiseOnce_grid (bump_grid (updDoor_grid hk))

theorem State.doorLookup_grid {s s₀ : State} {c mac vid : Nat} {kinds : List Nat} (hk : s.Grid s₀) :
    (State.doorLookup s c mac vid kinds).2.Grid s₀ := by
  unfold State.doorLookup
  repeat' with_reducible first
    | assumption | apply State.parityErr_grid | apply foldl_grid | intro _

theorem State.doorDest_grid {s s₀ : State} {p vid da : Nat} {out : DoorOut} (hk : s.Grid s₀) :
    (State.doorDest s p vid da out).2.Grid s₀ := by
  unfold State.doorDest
  repeat' with_reducible first
    | assumption | apply State.doorLookup_grid | apply State.bumpPort_grid
    | (extract_lets +onlyGivenNames x; first
      | (refine State.Grid.cut (s₀ := s₀) (s := x) ?_ fun hx => ?_; (on_goal 2 => clear_value x); (on_goal 1 => unfold x; clear x))
      | (refine State.Grid.cut (s₀ := s₀) (s := x.2) ?_ fun hx => ?_; (on_goal 2 => clear_value x); (on_goal 1 => unfold x; clear x))
      | clear_value x)
    | split

theorem State.doorPunt_grid {s s₀ : State} {p source : Nat} (hk : s.Grid s₀) : (State.doorPunt s p source).2.Grid s₀ :=
  bumpPort_grid hk

theorem State.doorDecide_grid {s s₀ : State} {p sa da fvid : Nat} (hk : s.Grid s₀) :
    (State.doorDecide s p sa da fvid).2.Grid s₀ := by
  unfold State.doorDecide
  repeat' with_reducible first
    | assumption | apply State.bumpPort_grid | apply State.doorLookup_grid | apply State.raiseOnce_grid | apply State.doorDest_grid
    | apply State.doorPunt_grid
    | (extract_lets +onlyGivenNames x; first
      | (refine State.Grid.cut (s₀ := s₀) (s := x) ?_ fun hx => ?_; (on_goal 2 => clear_value x); (on_goal 1 => unfold x; clear x))
      | (refine State.Grid.cut (s₀ := s₀) (s := x.2) ?_ fun hx => ?_; (on_goal 2 => clear_value x); (on_goal 1 => unfold x; clear x))
      | (have _f : _ → _ := x; clear _f)
      | clear_value x
      | skip)
    | split

theorem State.queueLearn_grid {s s₀ : State} {c : Nat} {q : LearnReq} (hk : s.Grid s₀) :
    (State.queueLearn s c q).Grid s₀ := by
  unfold State.queueLearn
  repeat' with_reducible first
    | assumption | apply State.bump_grid | apply State.updDoor_grid
    | (extract_lets +onlyGivenNames x; clear_value x)
    | split

theorem State.doorLearn_grid {s s₀ : State} {p sa fvid : Nat} {seen : DoorSeen} (hk : s.Grid s₀) :
    (State.doorLearn s p sa fvid seen).Grid s₀ := by
  unfold State.doorLearn
  repeat' with_reducible first
    | assumption | apply State.queueLearn_grid | apply State.setDoorRow_grid | apply State.bumpPort_grid
    | (extract_lets +onlyGivenNames x; first
      | (refine State.Grid.cut (s₀ := s₀) (s := x) ?_ fun hx => ?_; (on_goal 2 => clear_value x); (on_goal 1 => unfold x; clear x))
      | clear_value x)
    | split

theorem State.doorUpset_grid {s s₀ : State} {c : Nat} {ups : List Upset} (hk : s.Grid s₀) :
    (State.doorUpset s c ups).Grid s₀ := by
  unfold State.doorUpset
  repeat' with_reducible first
    | assumption | apply State.setDoorRow_grid | apply foldl_grid | intro _ | split

theorem State.flushOnDown_grid {s s₀ : State} {p : Nat} (hk : s.Grid s₀) :
    (State.flushOnDown s p).Grid s₀ := by
  unfold State.flushOnDown
  repeat' with_reducible first
    | assumption | apply State.updDoor_grid | split

theorem State.inbandRequest_grid {s s₀ : State} {body : Bytes} (hk : s.Grid s₀) : (s.inbandRequest body).Grid s₀ := by
  unfold inbandRequest
  split
  · exact hk
  split
  · exact hk
  extract_lets good d u
  have hu : u.Grid s₀ := grid_dict hk rfl
  split
  · exact raise_grid (bump_grid hk)
  split
  · exact bump_grid hk
  split
  · exact bump_grid hu
  · exact grid_dict hu rfl

theorem State.settleClass_grid {s s₀ : State} {c l n : Nat} (hk : s.Grid s₀) :
    (State.settleClass s c l n).Grid s₀ := by
  unfold State.settleClass
  repeat' with_reducible first
    | assumption | apply State.setSch_grid
    | (extract_lets +onlyGivenNames x; clear_value x)
    | split

theorem State.settlePort_grid {s s₀ : State} {p : Nat} (hk : s.Grid s₀) :
    (State.settlePort s p).Grid s₀ := by
  unfold State.settlePort
  repeat' with_reducible first
    | assumption | apply State.settleClass_grid | apply foldl_grid | intro _

theorem State.setPath_grid {s s₀ : State} {b : Bool} {q : HingePath} (hk : s.Grid s₀) : (State.setPath s b q).Grid s₀ := grid_mk hk

theorem State.pathSend_grid {s s₀ : State} {b : Bool} {m : HingeMsg} (hk : s.Grid s₀) : (State.pathSend s b m).Grid s₀ := grid_mk hk

theorem State.hingeSend_grid {s s₀ : State} {m : HingeMsg} (hk : s.Grid s₀) :
    (State.hingeSend s m).Grid s₀ := by
  unfold State.hingeSend
  repeat' with_reducible first
    | assumption | apply State.pathSend_grid | apply foldl_grid | intro _ | split

theorem State.mirrorOverflow_grid {s s₀ : State} (hk : s.Grid s₀) : (State.mirrorOverflow s).Grid s₀ :=
  raiseOnce_grid (bump_grid (updTwin_grid hk))

theorem State.streamSend_grid {s s₀ : State} {m : StreamMsg} (hk : s.Grid s₀) :
    (State.streamSend s m).Grid s₀ := by
  unfold State.streamSend
  repeat' with_reducible first
    | assumption | apply State.mirrorOverflow_grid | apply State.hingeSend_grid | apply State.updTwin_grid
    | (extract_lets +onlyGivenNames x; clear_value x)
    | split

theorem State.shutCause_grid {s s₀ : State} {p bit : Nat} (hk : s.Grid s₀) :
    (State.shutCause s p bit).Grid s₀ := by
  unfold State.shutCause
  repeat' with_reducible first
    | assumption | apply State.setShut_grid | apply State.raise_grid
    | (extract_lets +onlyGivenNames x; first
      | (refine State.Grid.cut (s₀ := s₀) (s := x) ?_ fun hx => ?_; (on_goal 2 => clear_value x); (on_goal 1 => unfold x; clear x))
      | clear_value x)
    | split

theorem State.calEcc_grid {s s₀ : State} {c : Nat} {rule : Bool} {k : Nat} (hk : s.Grid s₀) :
    (State.calEcc s c rule k).Grid s₀ := by
  unfold State.calEcc
  repeat' with_reducible first
    | assumption | apply State.rowSet_grid | apply State.setClTx_grid | apply State.raiseOnce_grid | apply State.bump_grid | split

theorem State.calStage_grid {s s₀ : State} {c : Nat} {f : CalIn} (hk : s.Grid s₀) :
    (State.calStage s c f).2.Grid s₀ := by
  unfold State.calStage
  repeat' with_reducible first
    | assumption | apply State.bumpRow_grid | apply State.rowSet_grid | apply State.setClTx_grid | apply State.raiseOnce_grid
    | (extract_lets +onlyGivenNames x; first
      | (refine State.Grid.cut (s₀ := s₀) (s := x) ?_ fun hx => ?_; (on_goal 2 => clear_value x); (on_goal 1 => unfold x; clear x))
      | clear_value x)
    | split

theorem State.busRead_grid {s s₀ : State} {r n : Nat} (hk : s.Grid s₀) : (State.busRead s r n).Grid s₀ :=
  bump_grid hk

theorem State.busWrite_grid {s s₀ : State} {r n : Nat} (hk : s.Grid s₀) : (State.busWrite s r n).Grid s₀ :=
  bump_grid hk

theorem State.ringCause_grid {s s₀ : State} {r bit : Nat} (hk : s.Grid s₀) :
    (State.ringCause s r bit).Grid s₀ := by
  unfold State.ringCause
  repeat' with_reducible first
    | assumption | apply State.setRing_grid | apply State.raise_grid
    | (extract_lets +onlyGivenNames x; first
      | (refine State.Grid.cut (s₀ := s₀) (s := x) ?_ fun hx => ?_; (on_goal 2 => clear_value x); (on_goal 1 => unfold x; clear x))
      | clear_value x)
    | split

theorem State.completeDesc_grid {s s₀ : State} {r i : Nat} {d : Desc} {result done : Nat} {aux : Option Word} {extra : Nat} (hk : s.Grid s₀) :
    (State.completeDesc s r i d result done aux extra).Grid s₀ := by
  unfold State.completeDesc
  repeat' with_reducible first
    | assumption | apply State.busWrite_grid | apply State.memWrite_grid | apply State.bump_grid | apply State.updRing_grid
    | apply State.ringCause_grid | apply State.raise_grid | split

theorem State.completeChain_grid {s s₀ : State} {r : Nat} {c : Chain} {result : Nat} {stamp : Option Word} (hk : s.Grid s₀) :
    (State.completeChain s r c result stamp).Grid s₀ := by
  unfold State.completeChain
  repeat' with_reducible first
    | assumption | apply State.completeDesc_grid | apply foldl_grid | intro _

theorem State.settleChains_grid {r a0 : Nat} {a1 : State} (hk : a1.Grid s₀) :
    (State.settleChains r a0 a1).Grid s₀ := by
  induction a0 generalizing a1 with
  | zero => exact hk
  | succ n ih =>
    unfold State.settleChains
    repeat' with_reducible first
      | assumption | apply ih | apply State.updRing_grid | apply State.completeChain_grid | split

theorem State.directDone_grid {s s₀ : State} {o : Option DirectRef} {result : Nat} {stamp : Option Word} (hk : s.Grid s₀) :
    (State.directDone s o result stamp).Grid s₀ := by
  unfold State.directDone
  repeat' with_reducible first
    | assumption | apply State.updRing_grid | apply State.settleChains_grid | split

theorem State.fetchDesc_grid {s s₀ : State} {r : Nat} (hk : s.Grid s₀) :
    (State.fetchDesc s r).2.Grid s₀ := by
  unfold State.fetchDesc
  repeat' with_reducible first
    | assumption | apply State.busRead_grid | apply State.setRing_grid
    | (extract_lets +onlyGivenNames x; first
      | (refine State.Grid.cut (s₀ := s₀) (s := x) ?_ fun hx => ?_; (on_goal 2 => clear_value x); (on_goal 1 => unfold x; clear x))
      | clear_value x)
    | split

theorem State.reserveDescs_grid {r need a0 a1 a2 : Nat} {a3 : State} (hk : a3.Grid s₀) :
    (State.reserveDescs r need a0 a1 a2 a3).2.Grid s₀ := by
  induction a0 generalizing a1 a2 a3 with
  | zero => exact hk
  | succ n ih =>
    unfold State.reserveDescs
    repeat' with_reducible first
      | assumption | (rename_i e; have e2 := congrArg Prod.snd e; dsimp only at e2; subst e2) | apply ih | apply State.completeDesc_grid
      | apply State.updRing_grid | apply State.fetchDesc_grid
      | (extract_lets +onlyGivenNames x; first
        | (refine State.Grid.cut (s₀ := s₀) (s := x) ?_ fun hx => ?_; (on_goal 2 => clear_value x); (on_goal 1 => unfold x; clear x))
        | (refine State.Grid.cut (s₀ := s₀) (s := x.2) ?_ fun hx => ?_; (on_goal 2 => clear_value x); (on_goal 1 => unfold x; clear x))
        | (have _f : _ → _ := x; clear _f)
        | clear_value x
        | skip)
      | split

theorem State.stageRx_grid {s s₀ : State} {f : Staged} {good known : Bool} (hk : s.Grid s₀) :
    (State.stageRx s f good known).2.Grid s₀ := by
  unfold State.stageRx
  repeat' with_reducible first
    | assumption | apply State.reserveDescs_grid | apply State.ringCause_grid | apply State.bump_grid | apply State.updRing_grid
    | apply State.setQuarter_grid
    | (extract_lets +onlyGivenNames x; first
      | (refine State.Grid.cut (s₀ := s₀) (s := x) ?_ fun hx => ?_; (on_goal 2 => clear_value x); (on_goal 1 => unfold x; clear x))
      | (refine State.Grid.cut (s₀ := s₀) (s := x.2) ?_ fun hx => ?_; (on_goal 2 => clear_value x); (on_goal 1 => unfold x; clear x))
      | clear_value x)
    | split

theorem State.peepDrop_grid {s s₀ : State} {c k : Nat} (hk : s.Grid s₀) : (State.peepDrop s c k).Grid s₀ :=
  raiseOnce_grid (bumpRow_grid hk)

theorem State.skidPush_grid {s s₀ : State} {c : Nat} {f : SkidFrame} (hk : s.Grid s₀) : (State.skidPush s c f).Grid s₀ := grid_mk hk

theorem State.peepCopy_grid {s s₀ : State} {c k : Nat} {t : TapIn} (hk : s.Grid s₀) :
    (State.peepCopy s c k t).Grid s₀ := by
  unfold State.peepCopy
  repeat' with_reducible first
    | assumption | apply State.updClRx_grid | apply State.peepDrop_grid | apply State.skidPush_grid | apply State.stageRx_grid
    | (extract_lets +onlyGivenNames x; first
      | (refine State.Grid.cut (s₀ := s₀) (s := x) ?_ fun hx => ?_; (on_goal 2 => clear_value x); (on_goal 1 => unfold x; clear x))
      | (refine State.Grid.cut (s₀ := s₀) (s := x.2) ?_ fun hx => ?_; (on_goal 2 => clear_value x); (on_goal 1 => unfold x; clear x))
      | clear_value x)
    | split

theorem State.peepTap_grid {s s₀ : State} {t : TapIn} (hk : s.Grid s₀) :
    (State.peepTap s t).Grid s₀ := by
  unfold State.peepTap
  repeat' with_reducible first
    | assumption | apply State.bumpRow_grid | apply State.updClRx_grid | apply State.peepCopy_grid | apply foldl_grid | intro _
    | (extract_lets +onlyGivenNames x; first
      | (refine State.Grid.cut (s₀ := s₀) (s := x) ?_ fun hx => ?_; (on_goal 2 => clear_value x); (on_goal 1 => unfold x; clear x))
      | clear_value x)
    | split

theorem State.landFcLate_grid {s s₀ : State} {p back : Nat} (hk : s.Grid s₀) :
    (State.landFcLate s p back).Grid s₀ := by
  unfold State.landFcLate
  repeat' with_reducible first
    | assumption | apply State.updPort_grid | apply State.settlePort_grid | apply State.setPortReg_grid | apply foldl_grid | intro _
    | (extract_lets +onlyGivenNames x; first
      | (refine State.Grid.cut (s₀ := s₀) (s := x) ?_ fun hx => ?_; (on_goal 2 => clear_value x); (on_goal 1 => unfold x; clear x))
      | (refine State.Grid.cut (s₀ := s₀) (s := x.2) ?_ fun hx => ?_; (on_goal 2 => clear_value x); (on_goal 1 => unfold x; clear x))
      | clear_value x)
    | split

theorem State.ctlOnLanes_grid {s s₀ : State} {p : Nat} (hk : s.Grid s₀) : (State.ctlOnLanes s p).Grid s₀ := grid_mk hk

theorem State.lanes_grid {s s₀ : State} {p sfd : Nat} {frag : Option Nat} {bytes : Bytes} (hk : s.Grid s₀) :
    (State.lanes s p sfd frag bytes).Grid s₀ := by
  unfold State.lanes
  repeat' with_reducible first
    | assumption | apply State.emit_grid | split

theorem State.sendOwn_grid {s s₀ : State} {p sfd : Nat} {bytes : Bytes} (hk : s.Grid s₀) : (State.sendOwn s p sfd bytes).Grid s₀ :=
  peepTap_grid (lanes_grid hk)

theorem State.sendVerify_grid {s s₀ : State} {p smd : Nat} (hk : s.Grid s₀) : (State.sendVerify s p smd).Grid s₀ :=
  sendOwn_grid hk

theorem State.countSent_grid {s s₀ : State} {p : Nat} {body : Bytes} (hk : s.Grid s₀) : (State.countSent s p body).Grid s₀ := by
  unfold State.countSent
  repeat' with_reducible first
    | assumption | apply State.bumpPort_grid

theorem State.sendMacCtl_grid {s s₀ : State} {p : Nat} {body : Bytes} (hk : s.Grid s₀) : (State.sendMacCtl s p body).Grid s₀ :=
  sendOwn_grid (countSent_grid hk)

theorem State.sendCtl_grid {s s₀ : State} {p : Nat} {k : CtlFrame} (hk : s.Grid s₀) :
    (State.sendCtl s p k).Grid s₀ := by
  unfold State.sendCtl
  repeat' with_reducible first
    | assumption | apply State.landFcLate_grid | apply State.ctlOnLanes_grid | apply State.sendVerify_grid | apply State.bumpPort_grid
    | apply State.sendMacCtl_grid | apply foldl_grid | intro _ | split

theorem State.queueCtl_grid {s s₀ : State} {p : Nat} {k : CtlFrame} (hk : s.Grid s₀) :
    (State.queueCtl s p k).Grid s₀ := by
  unfold State.queueCtl
  repeat' with_reducible first
    | assumption | apply State.sendCtl_grid | apply State.updPortTx_grid | split

theorem State.verifyStart_grid {s s₀ : State} {p : Nat} (hk : s.Grid s₀) :
    (State.verifyStart s p).Grid s₀ := by
  unfold State.verifyStart
  repeat' with_reducible first
    | assumption | apply State.updPortTx_grid | apply State.queueCtl_grid
    | (extract_lets +onlyGivenNames x;
        refine State.Grid.cut (s₀ := s₀) (s := x) ?_ fun hx => ?_; (on_goal 2 => clear_value x); (on_goal 1 => unfold x; clear x))
    | split

theorem State.landLate_grid {s s₀ : State} {p : Nat} (hk : s.Grid s₀) :
    (State.landLate s p).Grid s₀ := by
  unfold State.landLate
  repeat' with_reducible first
    | assumption | apply State.updPortTx_grid | apply State.verifyStart_grid | apply State.setReg_grid | apply foldl_grid | intro _ | split

theorem State.xoffDone_grid {s s₀ : State} {p : Nat} (hk : s.Grid s₀) : (State.xoffDone s p).Grid s₀ := grid_mk hk

theorem State.sendPfc_grid {s s₀ : State} {p : Nat} (hk : s.Grid s₀) : (State.sendPfc s p).Grid s₀ :=
  queueCtl_grid (xoffDone_grid hk)

theorem State.settlePfc_grid {s s₀ : State} {p : Nat} (hk : s.Grid s₀) :
    (State.settlePfc s p).Grid s₀ := by
  unfold State.settlePfc
  repeat' with_reducible first
    | assumption | apply State.sendPfc_grid | split

theorem State.sendWaiting_grid {s s₀ : State} {p : Nat} (hk : s.Grid s₀) :
    (State.sendWaiting s p).Grid s₀ := by
  unfold State.sendWaiting
  repeat' with_reducible first
    | assumption | apply State.settlePfc_grid | apply State.sendCtl_grid | apply State.setPortTx_grid | apply foldl_grid | intro _
    | (extract_lets +onlyGivenNames x; first
      | (refine State.Grid.cut (s₀ := s₀) (s := x) ?_ fun hx => ?_; (on_goal 2 => clear_value x); (on_goal 1 => unfold x; clear x))
      | clear_value x)
    | split

theorem State.boundaryTx_grid {s s₀ : State} {p : Nat} (hk : s.Grid s₀) : (State.boundaryTx s p).Grid s₀ :=
  landLate_grid (sendWaiting_grid hk)

theorem State.dropCtl_grid {s s₀ : State} {p : Nat} (hk : s.Grid s₀) : (State.dropCtl s p).Grid s₀ := grid_mk hk

theorem State.endOnLanes_grid {s s₀ : State} {p : Nat} (hk : s.Grid s₀) : (State.endOnLanes s p).Grid s₀ := grid_mk hk

theorem State.fcUpdate_grid {s s₀ : State} {p : Nat} (hk : s.Grid s₀) :
    (State.fcUpdate s p).Grid s₀ := by
  unfold State.fcUpdate
  repeat' with_reducible first
    | assumption | apply State.setPortTx_grid | apply State.queueCtl_grid | apply State.xoffDone_grid | apply State.updPortTx_grid
    | (extract_lets +onlyGivenNames x; first
      | (refine State.Grid.cut (s₀ := s₀) (s := x) ?_ fun hx => ?_; (on_goal 2 => clear_value x); (on_goal 1 => unfold x; clear x))
      | clear_value x)
    | split

theorem State.fcStart_grid {s s₀ : State} {p : Nat} (hk : s.Grid s₀) : (State.fcStart s p).Grid s₀ :=
  fcUpdate_grid (updPortTx_grid hk)

theorem State.setSignal_grid {s s₀ : State} {p : Nat} {sig : LaneSignal} (hk : s.Grid s₀) :
    (State.setSignal s p sig).Grid s₀ := by
  unfold State.setSignal
  repeat' with_reducible first
    | assumption | apply State.emit_grid | apply State.updPortTx_grid | split

theorem State.settleSignal_grid {s s₀ : State} {p : Nat} (hk : s.Grid s₀) : (State.settleSignal s p).Grid s₀ :=
  setSignal_grid hk

theorem State.verifyStop_grid {s s₀ : State} {p : Nat} (hk : s.Grid s₀) : (State.verifyStop s p).Grid s₀ := grid_mk hk

theorem State.drawMasks_grid {s s₀ : State} {c : Nat} (hk : s.Grid s₀) : (State.drawMasks s c).Grid s₀ := grid_mk hk

theorem State.pnAlert_grid {s s₀ : State} {c r : Nat} {exhausted : Bool} (hk : s.Grid s₀) :
    (State.pnAlert s c r exhausted).Grid s₀ := by
  unfold State.pnAlert
  repeat' with_reducible first
    | assumption | apply State.setClRx_grid | apply State.raise_grid
    | (extract_lets +onlyGivenNames x; first
      | (refine State.Grid.cut (s₀ := s₀) (s := x) ?_ fun hx => ?_; (on_goal 2 => clear_value x); (on_goal 1 => unfold x; clear x))
      | clear_value x)
    | split

theorem State.saFlag_grid {s s₀ : State} {c r bit : Nat} (hk : s.Grid s₀) :
    (State.saFlag s c r bit).Grid s₀ := by
  unfold State.saFlag
  repeat' with_reducible first
    | assumption | apply State.pnAlert_grid | apply State.rowSet_grid
    | (extract_lets +onlyGivenNames x; clear_value x)
    | split

theorem State.countFirst_grid {s s₀ : State} {p : Nat} {f : TxFrame} {slot : Nat} (hk : s.Grid s₀) :
    (State.countFirst s p f slot).Grid s₀ := by
  unfold State.countFirst
  repeat' with_reducible first
    | assumption | apply State.bumpPort_grid | split

theorem State.wireFree_grid {s s₀ : State} {p : Nat} {f : TxFrame} (hk : s.Grid s₀) : (State.wireFree s p f).Grid s₀ :=
  boundaryTx_grid (endOnLanes_grid (updPortTx_grid hk))

theorem State.tapPlain_grid {s s₀ : State} {p : Nat} {f : TxFrame} {stamp : Word} (hk : s.Grid s₀) :
    (State.tapPlain s p f stamp).Grid s₀ := by
  unfold State.tapPlain
  repeat' with_reducible first
    | assumption | apply State.peepTap_grid | split

theorem State.overrunCheck_grid {s s₀ : State} {p : Nat} {f : TxFrame} (hk : s.Grid s₀) :
    (State.overrunCheck s p f).Grid s₀ := by
  unfold State.overrunCheck
  repeat' with_reducible first
    | assumption | apply State.shutCause_grid | apply State.bumpPort_grid
    | (extract_lets +onlyGivenNames x; clear_value x)
    | split

theorem State.frameLeft_grid {s s₀ : State} {p : Nat} {f : TxFrame} {bytes : Bytes} {fin : End} (hk : s.Grid s₀) :
    (State.frameLeft s p f bytes fin).Grid s₀ :=
  directDone_grid (peepTap_grid (tapPlain_grid (overrunCheck_grid hk)))

theorem State.sendFragment_grid {s s₀ : State} {p : Nat} {f : TxFrame} {bytes tail : Bytes} (hk : s.Grid s₀) :
    (State.sendFragment s p f bytes tail).Grid s₀ := by
  unfold State.sendFragment
  repeat' with_reducible first
    | assumption | apply State.bumpPort_grid | apply State.lanes_grid | split

theorem State.stompLanes_grid {s s₀ : State} {p : Nat} {f : TxFrame} {body : Bytes} (hk : s.Grid s₀) : (State.stompLanes s p f body).Grid s₀ :=
  frameLeft_grid (sendFragment_grid (bumpPort_grid hk))

theorem State.stompWire_grid {s s₀ : State} {p : Nat} {f : TxFrame} {body : Bytes} (hk : s.Grid s₀) : (State.stompWire s p f body).Grid s₀ :=
  wireFree_grid (stompLanes_grid hk)

theorem State.cutWire_grid {s s₀ : State} {p slot : Nat} {f : TxFrame} {pad : Bool} (hk : s.Grid s₀) : (State.cutWire s p slot f pad).Grid s₀ :=
  stompWire_grid (countFirst_grid hk)

theorem State.dropFrame_grid {s s₀ : State} {p : Nat} {f : TxFrame} (hk : s.Grid s₀) :
    (State.dropFrame s p f).Grid s₀ := by
  unfold State.dropFrame
  repeat' with_reducible first
    | assumption | apply State.freshWord_grid | apply State.tapPlain_grid | apply State.bump_grid | apply State.directDone_grid | split

theorem State.discardFrames_grid {s s₀ : State} {p slot : Nat} (hk : s.Grid s₀) :
    (State.discardFrames s p slot).Grid s₀ := by
  unfold State.discardFrames
  repeat' with_reducible first
    | assumption | apply State.bumpPort_grid | apply State.setPortTx_grid | apply State.landLate_grid | apply State.dropFrame_grid | apply foldl_grid
    | intro _

theorem State.stompHeld_grid {s s₀ : State} {p : Nat} {f : TxFrame} (hk : s.Grid s₀) : (State.stompHeld s p f).Grid s₀ :=
  stompWire_grid (updPortTx_grid hk)

theorem State.txClose_grid {s s₀ : State} {p : Nat} (hk : s.Grid s₀) :
    (State.txClose s p).Grid s₀ := by
  unfold State.txClose
  repeat' with_reducible first
    | assumption | apply State.verifyStop_grid | apply State.discardFrames_grid | apply State.dropCtl_grid | apply State.updPortTx_grid
    | apply State.bump_grid | apply State.directDone_grid | apply foldl_grid | intro _ | split

theorem State.txKeyErase_grid {s s₀ : State} {p : Nat} {hit : Nat → Bool} (hk : s.Grid s₀) :
    (State.txKeyErase s p hit).Grid s₀ := by
  unfold State.txKeyErase
  repeat' with_reducible first
    | assumption | apply State.setPortTx_grid | apply State.bumpPort_grid | apply State.dropFrame_grid | apply State.cutWire_grid
    | apply State.stompHeld_grid | apply foldl_grid | intro _
    | (extract_lets +onlyGivenNames x; first
      | (refine State.Grid.cut (s₀ := s₀) (s := x) ?_ fun hx => ?_; (on_goal 2 => clear_value x); (on_goal 1 => unfold x; clear x))
      | clear_value x)
    | split

theorem State.txLinkDown_grid {s s₀ : State} {p : Nat} (hk : s.Grid s₀) : (State.txLinkDown s p).Grid s₀ :=
  dropCtl_grid (verifyStop_grid (discardFrames_grid hk))

theorem State.setRole_grid {s s₀ : State} {r : Role} (hk : s.Grid s₀) :
    (State.setRole s r).Grid s₀ := by
  unfold State.setRole
  repeat' with_reducible first
    | assumption | apply State.updTwin_grid | apply State.bump_grid | apply State.raise_grid
    | (extract_lets +onlyGivenNames x; first
      | (refine State.Grid.cut (s₀ := s₀) (s := x) ?_ fun hx => ?_; (on_goal 2 => clear_value x); (on_goal 1 => unfold x; clear x))
      | clear_value x)
    | split

theorem State.settleStep_grid {s s₀ : State} (hk : s.Grid s₀) : (State.settleStep s).Grid s₀ := by
  unfold State.settleStep
  repeat' with_reducible first
    | assumption | apply State.setRole_grid | split

theorem State.updKeys_grid {s s₀ : State} {f : KeyUnit → KeyUnit} (hk : s.Grid s₀) : (State.updKeys s f).Grid s₀ := grid_mk hk

theorem State.freshPns_grid {s s₀ : State} {c r : Nat} (hk : s.Grid s₀) : (State.freshPns s c r).Grid s₀ := grid_mk hk

theorem State.flipBank_grid {s s₀ : State} {i : Nat} (hk : s.Grid s₀) :
    (State.flipBank s i).Grid s₀ := by
  unfold State.flipBank
  repeat' with_reducible first
    | assumption | apply State.freshPns_grid | apply State.setSlot_grid
    | (extract_lets +onlyGivenNames x; clear_value x)
    | split

theorem State.flipBanks_grid {s s₀ : State} (hk : s.Grid s₀) :
    (State.flipBanks s).Grid s₀ := by
  unfold State.flipBanks
  repeat' with_reducible first
    | assumption | apply State.flipBank_grid | apply foldl_grid | intro _

theorem State.keyAlarm_grid {s s₀ : State} {bit : Nat} (hk : s.Grid s₀) :
    (State.keyAlarm s bit).Grid s₀ := by
  unfold State.keyAlarm
  repeat' with_reducible first
    | assumption | apply State.updKeys_grid | apply State.updTwin_grid
    | (extract_lets +onlyGivenNames x; first
      | (refine State.Grid.cut (s₀ := s₀) (s := x) ?_ fun hx => ?_; (on_goal 2 => clear_value x); (on_goal 1 => unfold x; clear x))
      | clear_value x)
    | split

theorem State.landKeyErase_grid {s s₀ : State} {c r : Nat} (hk : s.Grid s₀) :
    (State.landKeyErase s c r).Grid s₀ := by
  unfold State.landKeyErase
  repeat' with_reducible first
    | assumption | apply State.freshPns_grid | apply State.setSlot_grid | apply State.txKeyErase_grid | apply foldl_grid | intro _

theorem State.keyEcc_grid {s s₀ : State} {k : Nat} {bad : Bool} (hk : s.Grid s₀) :
    (State.keyEcc s k bad).Grid s₀ := by
  unfold State.keyEcc
  repeat' with_reducible first
    | assumption | apply State.bump_grid | apply State.landKeyErase_grid | apply State.updKeys_grid | apply State.raise_grid
    | apply State.noteEcc_grid | apply State.keyAlarm_grid | split

theorem State.keyUpsets_grid {s s₀ : State} {ups : List Upset} (hk : s.Grid s₀) :
    (State.keyUpsets s ups).Grid s₀ := by
  unfold State.keyUpsets
  repeat' with_reducible first
    | assumption | apply State.keyEcc_grid | apply foldl_grid | intro _ | split

theorem State.seedDrbg_grid {s s₀ : State} {n : Nat} (hk : s.Grid s₀) : (State.seedDrbg s n).Grid s₀ := grid_mk hk

theorem State.reseed_grid {s s₀ : State} (hk : s.Grid s₀) :
    (State.reseed s).Grid s₀ := by
  unfold State.reseed
  repeat' with_reducible first
    | assumption | apply State.seedDrbg_grid | apply State.raiseOnce_grid | apply State.bump_grid | apply foldl_grid | intro _
    | (extract_lets +onlyGivenNames x; first
      | (refine State.Grid.cut (s₀ := s₀) (s := x) ?_ fun hx => ?_; (on_goal 2 => clear_value x); (on_goal 1 => unfold x; clear x))
      | clear_value x)
    | split | (fail_if_no_progress (apply grid_mk))

theorem State.acceptPn_grid {s s₀ : State} {c r pn : Nat} {xpn : Bool} (hk : s.Grid s₀) :
    (State.acceptPn s c r pn xpn).Grid s₀ := by
  unfold State.acceptPn
  repeat' with_reducible first
    | assumption | apply State.rowSet_grid | apply State.saFlag_grid
    | (extract_lets +onlyGivenNames x; first
      | (refine State.Grid.cut (s₀ := s₀) (s := x) ?_ fun hx => ?_; (on_goal 2 => clear_value x); (on_goal 1 => unfold x; clear x))
      | clear_value x)
    | split

theorem State.heldBytes_grid {s s₀ : State} {c n others : Nat} (hk : s.Grid s₀) : (State.heldBytes s c n others).Grid s₀ := grid_mk hk

theorem State.saBump_grid {s s₀ : State} {c r sub n : Nat} (hk : s.Grid s₀) : (State.saBump s c r sub n).Grid s₀ :=
  bumpRow_grid hk

theorem State.secCountRx_grid {s s₀ : State} {p : Nat} {a0 : SecCount} (hk : s.Grid s₀) : (State.secCountRx s p a0).Grid s₀ := by
  unfold State.secCountRx
  repeat' with_reducible first
    | assumption | apply State.bumpPort_grid | apply State.saBump_grid | split

theorem State.secVerify_grid {s s₀ : State} {f : SecIn} {t : SecTag} {r : Nat} {w : Word} {k : KeyImg} {sci pn : Nat} {pass : Bool} (hk : s.Grid s₀) :
    (State.secVerify s f t r w k sci pn pass).2.Grid s₀ := by
  unfold State.secVerify
  repeat' with_reducible first
    | assumption | apply State.saBump_grid | apply State.raiseOnce_grid | apply State.bump_grid | apply State.bumpPort_grid
    | apply State.drawMasks_grid | apply State.acceptPn_grid
    | (extract_lets +onlyGivenNames x; first
      | (refine State.Grid.cut (s₀ := s₀) (s := x) ?_ fun hx => ?_; (on_goal 2 => clear_value x); (on_goal 1 => unfold x; clear x))
      | (refine State.Grid.cut (s₀ := s₀) (s := x.2) ?_ fun hx => ?_; (on_goal 2 => clear_value x); (on_goal 1 => unfold x; clear x))
      | (have _f : _ → _ := x; clear _f)
      | clear_value x
      | skip)
    | split | (dsimp -zeta +zetaDelta only)

theorem State.secRx_grid {s s₀ : State} {f : SecIn} (hk : s.Grid s₀) :
    (State.secRx s f).2.Grid s₀ := by
  unfold State.secRx
  repeat' with_reducible first
    | assumption | apply State.secCountRx_grid | apply State.bumpPort_grid | apply State.heldBytes_grid | apply State.raiseOnce_grid
    | apply State.bump_grid | apply State.secVerify_grid
    | (extract_lets +onlyGivenNames x; first
      | (refine State.Grid.cut (s₀ := s₀) (s := x) ?_ fun hx => ?_; (on_goal 2 => clear_value x); (on_goal 1 => unfold x; clear x))
      | (refine State.Grid.cut (s₀ := s₀) (s := x.2) ?_ fun hx => ?_; (on_goal 2 => clear_value x); (on_goal 1 => unfold x; clear x))
      | (have _f : _ → _ := x; clear _f)
      | clear_value x
      | skip)
    | split | (dsimp -zeta +zetaDelta only)

theorem State.secStageRx_grid {s s₀ : State} {f : SecIn} (hk : s.Grid s₀) :
    (State.secStageRx s f).2.Grid s₀ := by
  unfold State.secStageRx
  repeat' with_reducible first
    | assumption | apply State.secRx_grid | split

theorem State.setMeterSt_grid {s s₀ : State} {c r : Nat} {m : MeterSt} (hk : s.Grid s₀) : (State.setMeterSt s c r m).Grid s₀ := grid_mk hk

theorem State.meterEcc_grid {s s₀ : State} {c : Nat} {map : Bool} {r : Nat} (hk : s.Grid s₀) :
    (State.meterEcc s c map r).Grid s₀ := by
  unfold State.meterEcc
  repeat' with_reducible first
    | assumption | apply State.rowSet_grid | apply State.setClRx_grid | apply State.raiseOnce_grid | apply State.bump_grid | split

theorem State.meterEnd_grid {s s₀ : State} {c : Nat} {due : Option MeterDue} {len : Nat} (hk : s.Grid s₀) :
    (State.meterEnd s c due len).Grid s₀ := by
  unfold State.meterEnd
  repeat' with_reducible first
    | assumption | apply State.bumpRow_grid | apply State.setMeterSt_grid | split

theorem State.meterStage_grid {s s₀ : State} {f : MeterIn} (hk : s.Grid s₀) :
    (State.meterStage s f).2.Grid s₀ := by
  unfold State.meterStage
  repeat' with_reducible first
    | assumption | apply State.bumpPort_grid | apply State.bumpRow_grid | apply State.setMeterSt_grid
    | (extract_lets +onlyGivenNames x; first
      | (refine State.Grid.cut (s₀ := s₀) (s := x) ?_ fun hx => ?_; (on_goal 2 => clear_value x); (on_goal 1 => unfold x; clear x))
      | (refine State.Grid.cut (s₀ := s₀) (s := x.2) ?_ fun hx => ?_; (on_goal 2 => clear_value x); (on_goal 1 => unfold x; clear x))
      | clear_value x)
    | split

theorem State.setTimer_grid {s s₀ : State} {p k : Nat} {v : Option Word} (hk : s.Grid s₀) : (State.setTimer s p k v).Grid s₀ := grid_mk hk

theorem State.actControl_grid {s s₀ : State} {p : Nat} {bs : Bytes} (hk : s.Grid s₀) :
    (State.actControl s p bs).Grid s₀ := by
  unfold State.actControl
  repeat' with_reducible first
    | assumption | apply State.settlePort_grid | apply State.bumpPort_grid | apply State.setTimer_grid | apply foldl_grid | intro _
    | (extract_lets +onlyGivenNames x; first
      | (refine State.Grid.cut (s₀ := s₀) (s := x) ?_ fun hx => ?_; (on_goal 2 => clear_value x); (on_goal 1 => unfold x; clear x))
      | (refine State.Grid.cut (s₀ := s₀) (s := x.2) ?_ fun hx => ?_; (on_goal 2 => clear_value x); (on_goal 1 => unfold x; clear x))
      | (have _f : _ → _ := x; clear _f)
      | clear_value x
      | skip)
    | split

theorem State.coreEnd_grid {s s₀ : State} {p : Nat} {bytes : Bytes} {fin : End} {reason : Nat} (hk : s.Grid s₀) :
    (State.coreEnd s p bytes fin reason).Grid s₀ := grid_mk hk

theorem State.countOk_grid {s s₀ : State} {p : Nat} {bs : Bytes} (hk : s.Grid s₀) : (State.countOk s p bs).Grid s₀ := by
  unfold State.countOk
  repeat' with_reducible first
    | assumption | apply State.bumpPort_grid

theorem State.rxUpsets_grid {s s₀ : State} {c : Nat} {ups : List Upset} (hk : s.Grid s₀) :
    (State.rxUpsets s c ups).Grid s₀ := by
  unfold State.rxUpsets
  repeat' with_reducible first
    | assumption | apply State.keyUpsets_grid | apply State.doorUpset_grid | apply State.meterEcc_grid | apply State.calEcc_grid | apply foldl_grid
    | intro _ | split

theorem State.decideRx_grid {s s₀ : State} {p : Nat} {o : SecOut} {mark : Bool} {tag : Option SysTag} {stamp : Word} {len : Option Nat}
    {held : Nat} (hk : s.Grid s₀) :
    (State.decideRx s p o mark tag stamp len held).2.Grid s₀ := by
  unfold State.decideRx
  repeat' with_reducible first
    | assumption | (rename_i e; have e2 := congrArg Prod.snd e; dsimp only at e2; subst e2) | apply State.doorDecide_grid
    | apply State.meterStage_grid
    | (extract_lets +onlyGivenNames x; first
      | (refine State.Grid.cut (s₀ := s₀) (s := x) ?_ fun hx => ?_; (on_goal 2 => clear_value x); (on_goal 1 => unfold x; clear x))
      | (refine State.Grid.cut (s₀ := s₀) (s := x.2) ?_ fun hx => ?_; (on_goal 2 => clear_value x); (on_goal 1 => unfold x; clear x))
      | clear_value x)
    | split

theorem State.filterRx_grid {s s₀ : State} {p : Nat} {bs : Bytes} (hk : s.Grid s₀) :
    (State.filterRx s p bs).2.Grid s₀ := by
  unfold State.filterRx
  repeat' with_reducible first
    | assumption | apply State.bumpPort_grid | apply State.rxCause_grid | split

theorem State.knock_grid {s s₀ : State} {p : Nat} {bs : Bytes} (hk : s.Grid s₀) :
    (State.knock s p bs).Grid s₀ := by
  unfold State.knock
  repeat' with_reducible first
    | assumption | apply State.bumpPort_grid | apply State.bump_grid | apply State.raise_grid | apply State.updClRx_grid
    | (extract_lets +onlyGivenNames x; first
      | (refine State.Grid.cut (s₀ := s₀) (s := x) ?_ fun hx => ?_; (on_goal 2 => clear_value x); (on_goal 1 => unfold x; clear x))
      | clear_value x)
    | split

theorem State.sized_grid {s s₀ : State} {p : Nat} {bs : Bytes} {how : RxHow} {known : Bool} {stamp begun : Word} {stage : RxStage}
    {env : RxEnv} (hk : s.Grid s₀) :
    (State.sized s p bs how known stamp begun stage env).2.Grid s₀ := by
  unfold State.sized
  repeat' with_reducible first
    | assumption | apply State.bumpPort_grid | apply State.countOk_grid | apply State.actControl_grid
    | (extract_lets +onlyGivenNames x; first
      | (refine State.Grid.cut (s₀ := s₀) (s := x) ?_ fun hx => ?_; (on_goal 2 => clear_value x); (on_goal 1 => unfold x; clear x))
      | clear_value x)
    | split

theorem State.handOver_grid {s s₀ : State} {p : Nat} {punt : Option (Nat × Nat)} {body : Bytes} {fin : End} {known : Bool} {stamp : Word}
    {vid colour : Nat} (hk : s.Grid s₀) :
    (State.handOver s p punt body fin known stamp vid colour).Grid s₀ := by
  unfold State.handOver
  repeat' with_reducible first
    | assumption | apply State.bump_grid | apply State.stageRx_grid | split

theorem State.toCore_grid {s s₀ : State} {p : Nat} {m : FrameMeta} {bytes : Bytes} {fin : End} {reason reach : Nat} (hk : s.Grid s₀) :
    (State.toCore s p m bytes fin reason reach).Grid s₀ := by
  unfold State.toCore
  repeat' with_reducible first
    | assumption | apply State.raiseOnce_grid | apply State.bump_grid | apply State.skidPush_grid
    | (extract_lets +onlyGivenNames x; clear_value x)
    | split

theorem State.finishRx_grid {s s₀ : State} {p : Nat} {v : RxVerdict} {o : SecOut} {strip : Bool} {tail : Bytes} {f : RxPass} (hk : s.Grid s₀) :
    (State.finishRx s p v o strip tail f).Grid s₀ := by
  unfold State.finishRx
  repeat' with_reducible first
    | assumption | apply State.doorLearn_grid | apply State.meterEnd_grid | apply State.peepTap_grid | apply State.handOver_grid
    | apply State.coreEnd_grid | apply State.toCore_grid | split

theorem State.pipeline_grid {s s₀ : State} {p : Nat} {strip : Bool} {f : RxPass} (hk : s.Grid s₀) :
    (State.pipeline s p strip f).Grid s₀ := by
  unfold State.pipeline
  repeat' with_reducible first
    | assumption | (rename_i e; have e2 := congrArg Prod.snd e; dsimp only at e2; subst e2) | apply State.peepTap_grid | apply State.secStageRx_grid
    | apply State.finishRx_grid | apply State.calStage_grid | apply State.inbandRequest_grid | apply State.decideRx_grid
    | (extract_lets +onlyGivenNames x; first
      | (refine State.Grid.cut (s₀ := s₀) (s := x) ?_ fun hx => ?_; (on_goal 2 => clear_value x); (on_goal 1 => unfold x; clear x))
      | clear_value x)
    | split

theorem State.passOrWait_grid {s s0 : State} {p : Nat} {express : Bool} {f : RxPass} (hk : s.Grid s₀) (hks0 : s0.Grid s₀) :
    (State.passOrWait s s0 p express f).Grid s₀ := by
  unfold State.passOrWait
  repeat' with_reducible first
    | assumption | apply State.bumpPort_grid | apply State.rxUpsets_grid | apply State.updPort_grid | apply State.pipeline_grid | split

theorem State.rxMac_grid {s s₀ : State} {p : Nat} {bs : Bytes} {how : RxHow} {express known : Bool} {stamp begun : Word} {stage : RxStage}
    {env : RxEnv} (hk : s.Grid s₀) :
    (State.rxMac s p bs how express known stamp begun stage env).Grid s₀ := by
  unfold State.rxMac
  repeat' with_reducible first
    | assumption | (rename_i e; have e2 := congrArg Prod.snd e; dsimp only at e2; subst e2) | apply State.settlePort_grid
    | apply State.underStart_grid | apply State.knock_grid | apply State.filterRx_grid | apply State.sized_grid | apply State.passOrWait_grid
    | intro _
    | (extract_lets +onlyGivenNames x; first
      | (refine State.Grid.cut (s₀ := s₀) (s := x) ?_ fun hx => ?_; (on_goal 2 => clear_value x); (on_goal 1 => unfold x; clear x))
      | (refine State.Grid.cut (s₀ := s₀) (s := x.2) ?_ fun hx => ?_; (on_goal 2 => clear_value x); (on_goal 1 => unfold x; clear x))
      | (have _f : _ → _ := x; clear _f)
      | clear_value x
      | skip)
    | split | (dsimp -zeta +zetaDelta only)

theorem State.reasmErr_grid {s s₀ : State} {p age : Nat} (hk : s.Grid s₀) :
    (State.reasmErr s p age).Grid s₀ := by
  unfold State.reasmErr
  repeat' with_reducible first
    | assumption | apply State.rxCause_grid | apply State.bumpPort_grid | split

theorem State.releaseWaiting_grid {s s₀ : State} {p : Nat} (hk : s.Grid s₀) :
    (State.releaseWaiting s p).Grid s₀ := by
  unfold State.releaseWaiting
  repeat' with_reducible first
    | assumption | apply State.updPort_grid | apply State.underStart_grid | apply State.pipeline_grid | apply foldl_grid | intro _

theorem State.endReasm_grid {s s₀ : State} {p : Nat} (hk : s.Grid s₀) :
    (State.endReasm s p).Grid s₀ := by
  unfold State.endReasm
  repeat' with_reducible first
    | assumption | apply State.updPort_grid | apply State.rxMac_grid | apply State.releaseWaiting_grid | split

theorem State.dropFragments_grid {s s₀ : State} {p : Nat} (hk : s.Grid s₀) :
    (State.dropFragments s p).Grid s₀ := by
  unfold State.dropFragments
  repeat' with_reducible first
    | assumption | apply State.endReasm_grid | apply State.reasmErr_grid | apply State.releaseWaiting_grid | split

theorem State.closePort_grid {s s₀ : State} {p : Nat} (hk : s.Grid s₀) : (State.closePort s p).Grid s₀ :=
  settleSignal_grid (txClose_grid (dropFragments_grid (updPort_grid hk)))

theorem State.setLink_grid {s s₀ : State} {p : Nat} {l : Link} (hk : s.Grid s₀) :
    (State.setLink s p l).Grid s₀ := by
  unfold State.setLink
  repeat' with_reducible first
    | assumption | apply State.updPort_grid | apply State.settleSignal_grid | apply State.landFcLate_grid | apply State.txLinkDown_grid
    | apply State.flushOnDown_grid | apply State.fcStart_grid | apply State.verifyStart_grid | apply State.rxCause_grid
    | (extract_lets +onlyGivenNames x; first
      | (refine State.Grid.cut (s₀ := s₀) (s := x) ?_ fun hx => ?_; (on_goal 2 => clear_value x); (on_goal 1 => unfold x; clear x))
      | clear_value x)
    | split

theorem State.settleLink_grid {s s₀ : State} {p : Nat} (hk : s.Grid s₀) :
    (State.settleLink s p).Grid s₀ := by
  unfold State.settleLink
  repeat' with_reducible first
    | assumption | apply State.setLink_grid
    | (extract_lets +onlyGivenNames x; clear_value x)
    | split

theorem State.portOpened_grid {s s₀ : State} {p : Nat} (hk : s.Grid s₀) :
    (State.portOpened s p).Grid s₀ := by
  unfold State.portOpened
  repeat' with_reducible first
    | assumption | apply State.updPort_grid | apply State.updPortTx_grid | apply State.settleSignal_grid | apply State.updTwin_grid
    | apply State.settleLink_grid | apply State.fcStart_grid | apply State.verifyStart_grid | apply State.closePort_grid
    | (extract_lets +onlyGivenNames x; first
      | (refine State.Grid.cut (s₀ := s₀) (s := x) ?_ fun hx => ?_; (on_goal 2 => clear_value x); (on_goal 1 => unfold x; clear x))
      | clear_value x)
    | split

theorem State.closeRing_grid {s s₀ : State} {r : Nat} (hk : s.Grid s₀) : (State.closeRing s r).Grid s₀ := grid_mk hk

theorem State.ringOpened_grid {s s₀ : State} {r : Nat} (hk : s.Grid s₀) :
    (State.ringOpened s r).Grid s₀ := by
  unfold State.ringOpened
  repeat' with_reducible first
    | assumption | apply State.setRing_grid | apply State.closeRing_grid
    | (extract_lets +onlyGivenNames x; first
      | (refine State.Grid.cut (s₀ := s₀) (s := x) ?_ fun hx => ?_; (on_goal 2 => clear_value x); (on_goal 1 => unfold x; clear x))
      | clear_value x)
    | split

theorem State.streamResend_grid {s s₀ : State} (hk : s.Grid s₀) :
    (State.streamResend s).Grid s₀ := by
  unfold State.streamResend
  repeat' with_reducible first
    | assumption | apply State.hingeSend_grid | apply foldl_grid | intro _ | split

theorem State.pathDown_grid {s s₀ : State} {b : Bool} (hk : s.Grid s₀) :
    (State.pathDown s b).Grid s₀ := by
  unfold State.pathDown
  repeat' with_reducible first
    | assumption | apply State.raise_grid | apply State.setPath_grid | apply State.settleStep_grid | apply State.streamResend_grid
    | apply State.raiseOnce_grid | apply State.updTwin_grid
    | (extract_lets +onlyGivenNames x; first
      | (refine State.Grid.cut (s₀ := s₀) (s := x) ?_ fun hx => ?_; (on_goal 2 => clear_value x); (on_goal 1 => unfold x; clear x))
      | clear_value x)
    | split

theorem State.closeHinge_grid {s s₀ : State} (hk : s.Grid s₀) : (State.closeHinge s).Grid s₀ := by
  unfold State.closeHinge
  repeat' with_reducible first
    | assumption | apply State.pathDown_grid | apply State.updTwin_grid

theorem State.openHinge_grid {s s₀ : State} (hk : s.Grid s₀) : (State.openHinge s).Grid s₀ := by
  unfold State.openHinge
  repeat' with_reducible first
    | assumption | apply State.updTwin_grid | split

theorem State.hingeTick_grid {s s₀ : State} (hk : s.Grid s₀) : (State.hingeTick s).Grid s₀ := by
  unfold State.hingeTick
  repeat' with_reducible first
    | assumption | apply State.updTwin_grid | apply State.closeHinge_grid | apply State.openHinge_grid
    | (extract_lets +onlyGivenNames x; first
      | (refine State.Grid.cut (s₀ := s₀) (s := x) ?_ fun hx => ?_; (on_goal 2 => clear_value x); (on_goal 1 => unfold x; clear x))
      | clear_value x)
    | split

theorem State.canHealth_grid {s s₀ : State} (hk : s.Grid s₀) : s.canHealth.Grid s₀ := by
  unfold canHealth
  split
  · exact hk
  · exact emit_grid (freshBytes_grid (grid_dict hk rfl))

theorem State.sendHealth_grid {s s₀ : State} {free : Bool} (hk : s.Grid s₀) : (s.sendHealth free).Grid s₀ := by
  unfold sendHealth
  extract_lets w u d v
  have hu : u.Grid s₀ := hingeSend_grid (updTwin_grid hk)
  have hv : v.Grid s₀ := grid_dict hu rfl
  split
  · split
    · exact canHealth_grid hv
    · exact hv
  · exact hu

theorem State.tickFunctions_grid {s s₀ : State} (hk : s.Grid s₀) :
    (State.tickFunctions s).Grid s₀ := by
  unfold State.tickFunctions
  repeat' with_reducible first
    | assumption | apply State.portOpened_grid | apply State.ringOpened_grid | apply State.hingeTick_grid | apply foldl_grid | intro _

theorem State.forgetPast_grid {s s₀ : State} (hk : s.Grid s₀) : (State.forgetPast s).Grid s₀ := grid_mk hk

end Sys2Proof.Machine
end

