-- ==== Sys2Proof/Proofs/TableWindows.lean ====
section
namespace Sys2Proof.Machine
open State

/-! ### RETURN brings a scheduler row to run time and installs what is pending (R315) -/

/-- What joining and leaving a group, tags and the lathe do not touch: the time of the last refill, what is pending and what is installed. -/
def SchRow.core (r : SchRow) : Word × Option ShapSet × ShapSet := (r.last, r.pend, r.inst)

section
variable {s : State} {c k : Nat}

theorem core_setSch {j : Nat} {q : SchRow} (k : Nat) (h : q.core = (s.sch c j).core) : ((s.setSch c j q).sch c k).core = (s.sch c k).core := by
  unfold setSch sch
  rw [clTx_updClTx]
  by_cases hk : k = j
  · subst hk
    rw [SMap.get_set_self]
    exact h
  · rw [SMap.get_set_ne _ hk]

theorem settleClass_core (s : State) (c l n k : Nat) : ((s.settleClass c l n).sch c k).core = (s.sch c k).core := by
  unfold settleClass
  dsimp only
  split_ifs
  · rfl
  · exact core_setSch k rfl
  · exact core_setSch k rfl
  · rfl

theorem settleNode_core (s : State) (c j k : Nat) : ((s.settleNode c j).sch c k).core = (s.sch c k).core := by
  unfold settleNode
  dsimp only
  rw [settleClass_core]
  split_ifs
  · exact core_setSch k rfl
  · rfl
  · exact core_setSch k rfl
  · rfl

theorem settleParent_core (s : State) (c par k : Nat) : ((s.settleParent c par).sch c k).core = (s.sch c k).core := by
  unfold settleParent
  split
  · exact settleNode_core ..
  · exact settleClass_core ..

theorem settleRow_core (s : State) (c j k : Nat) : ((s.settleRow c j).sch c k).core = (s.sch c k).core := by
  unfold settleRow
  split
  · unfold settleLeaf
    dsimp only
    rw [settleParent_core]
    split_ifs
    · exact core_setSch k rfl
    · rfl
    · exact core_setSch k rfl
    · rfl
  split
  · exact settleNode_core ..
  · rfl

theorem placeRow_core (s : State) (c j : Nat) (t : Word) (k : Nat) : ((s.placeRow c j t).sch c k).core = (s.sch c k).core := by
  have hset (e : LatheEntry) : ((s.setSch c j { s.sch c j with lathe := some e }).sch c k).core = (s.sch c k).core := core_setSch k rfl
  unfold placeRow
  dsimp only
  split
  · rw [← hset _]
    unfold sch clTx
    rw [bump_clusterTx]
  · exact hset _

theorem setGroup_core (s : State) (c k : Nat) : ((s.setGroup c k).sch c k).core = (s.sch c k).core := by
  unfold setGroup
  dsimp only
  rw [settleRow_core]
  split
  · split
    · exact core_setSch k rfl
    · rw [placeRow_core]
      exact core_setSch k rfl
  · exact core_setSch k rfl

theorem refillRow_core (s : State) (c k : Nat) : ((s.refillRow c k).sch c k).core =
    (s.runTime, none, (s.sch c k).pend.getD (s.sch c k).inst) := by
  unfold refillRow
  dsimp only
  unfold setSch sch
  rw [clTx_updClTx, SMap.get_set_self]
  split
  · next h => exact Prod.ext rfl (Prod.ext h (by rw [h]; rfl))
  · next h => exact Prod.ext rfl (Prod.ext rfl (by rw [h]; rfl))

/-- The row after a RETURN. -/
theorem landReturn_core (s : State) (c t row : Nat) : ((s.landReturn c t row).sch c (schKey t row)).core =
    (s.runTime, none, (s.sch c (schKey t row)).pend.getD (s.sch c (schKey t row)).inst) :=
  (setGroup_core ..).trans (refillRow_core ..)

theorem landReturn_quiet (s : State) (c t row : Nat) : (s.landReturn c t row).Quiet s :=
  setGroup_quiet (refillRow_quiet (.refl s))

end
/-! ### The windows' requests and landings -/

theorem refuse_dict (s : State) (via : Transport) (idx sub code : Nat) :
    ∃ w, (s.refuse via idx sub code).dict = { s.dict with lastRefusal := w } := by
  unfold refuse
  extract_lets t w
  refine ⟨w, ?_⟩
  have hb : t.dict = s.dict := bump_dict ..
  clear_value t w
  rw [raiseOnce_dict]
  exact congrArg (fun d : DictUnit => { d with lastRefusal := w }) hb

theorem landing_enqueue {u : State} (via : Transport) (e : Effect) (o : Output) (hl : u.dict.landing = []) :
    ((u.enqueue via e).emit o).dict.landing = [⟨via, e, u.time.ticks⟩] := by
  simp [enqueue, hl]

theorem refuse_rows (s : State) (via : Transport) (idx sub code : Nat) : (s.refuse via idx sub code).rows = s.rows :=
  (same_refuse (x := .rows) s (by decide) (by decide) via idx sub code).symm

theorem landStrobe_meter {s : State} {c row : Nat} (hon : s.isOn (domMeter c) = true) : s.landStrobe c 3 row = s.refillMeter c row := by
  unfold landStrobe
  simp [tableDomain, hon]

theorem landStrobe_sched {s : State} {c t row : Nat} (ht : t ≤ 2) (hon : s.isOn (domQueue c) = true) :
    s.landStrobe c t row = s.landReturn c t row := by
  have h3 : t ≠ 3 := by omega
  unfold landStrobe
  simp [tableDomain, ht, hon, h3]

theorem meterSt_refillMeter (s : State) (c row : Nat) :
    (s.refillMeter c row).meterSt c row = meterRefill (s.meterRow c row) (s.meterSt c row) s.runTime := by
  unfold refillMeter setMeterSt meterSt
  rw [clRx_updClRx]
  exact SMap.get_set_self ..

/-- The last slot of a row through DATA: the row is taken, and ROW moves on (R71). -/
theorem write_data {s : State} {via : Transport} {c t : Nat} {v : Word} (hr : s.Ready) (hc : c < 16) (ht : t ≤ 0xC) (h6 : t ≠ 6)
    (hslots : tableImageSlots t = 1) (hpart : (s.window (winIdx c t)).part = [])
    (hok : (s.rowCheck c t (s.window (winIdx c t)).row [v] true).1 = rOK) :
    ∃ x q f, s.write via (winIdx c t) 0x14 v = (rOK, ((s.selected (winIdx c t) q f).said x).enqueue via
      (.row (winIdx c t) (s.window (winIdx c t)).row [v] true)) ∧ q.row = ((s.window (winIdx c t)).row + 1) % 2 ^ 32 := by
  have hfind : (windowObjs t).find? (fun o => o.sub == 0x14) = some (woObj 0x14 "DATA" .domain) := by interval_cases t <;> rfl
  obtain ⟨x, hx⟩ := acceptRow_ok (via := via) true hr.2.1 hr.2.2 h6 hok
  obtain ⟨q, f, hsel, hrow, -⟩ := selectRow_eq ((s.said x).enqueue via (.row (winIdx c t) (s.window (winIdx c t)).row [v] true)) c t
    (((s.window (winIdx c t)).row + 1) % 2 ^ 32)
  refine ⟨x, q, f, ?_, hrow⟩
  have hw : s.acceptWin via c t (woObj 0x14 "DATA" .domain) v = s.acceptData via c t v := rfl
  have hd : s.acceptData via c t v = (rOK, ((s.selected (winIdx c t) q f).said x).enqueue via
      (.row (winIdx c t) (s.window (winIdx c t)).row [v] true)) := by
    unfold acceptData
    dsimp only
    rw [hpart, hslots, List.nil_append, if_neg (c := [v].length < 1) (by simp), hx]
    dsimp only
    rw [if_pos rfl, hsel]
    rfl
  rw [write_window hc ht (by decide) hfind, hw, hd]
  rfl

/-- A SETTLE and a COMMIT of one meter and one tick land at one edge, SETTLE first (R281). -/
theorem landOldest_settle {s : State} {c row sub : Nat} {img : List Word} {via via' : Transport} {k : Word} (cuts : List (Nat × CutFrame))
    (run : s.dictRuns = true) (hl : s.dict.landing = [⟨via, .row (winIdx c 3) row img false, k⟩, ⟨via', .strobe (winIdx c 3) sub row, k⟩])
    (hw : s.waits ⟨via, .row (winIdx c 3) row img false, k⟩ = false) (hw' : s.waits ⟨via', .strobe (winIdx c 3) sub row, k⟩ = false) :
    s.landOldest cuts = (s.cleared.landOne cuts ⟨via', .strobe (winIdx c 3) sub row, k⟩).landOne cuts
      ⟨via, .row (winIdx c 3) row img false, k⟩ := by
  have hb : boundRow (.row (winIdx c 3) row img false) = some (winIdx c 3, row) := boundRow_row (by decide)
  have hb' : boundRow (.strobe (winIdx c 3) sub row) = some (winIdx c 3, row) := boundRow_strobe (by decide)
  have ht : tickBound (.row (winIdx c 3) row img false) = 1 := tickBound_row (by decide)
  have hedge (u : State) : u.landEdge cuts [⟨via, .row (winIdx c 3) row img false, k⟩, ⟨via', .strobe (winIdx c 3) sub row, k⟩] =
      (u.landOne cuts ⟨via', .strobe (winIdx c 3) sub row, k⟩).landOne cuts ⟨via, .row (winIdx c 3) row img false, k⟩ := by
    unfold landEdge
    rw [if_neg (by simp [ht])]
    simp [isSettle, isReturn, winTable_winIdx]
  have hone : s.landNext cuts mayLand = some (s.cleared.landEdge cuts s.dict.landing) := by
    unfold landNext
    simp [hl, mayLand, hw, hw', hb, hb', oneEdge, cleared]
  unfold landOldest
  rw [if_pos run, hone, hl, hedge]
  rfl

/-- A refused COMMIT of any table but the keys (R71). -/
theorem commit_refusal {s : State} {dt : Nat} {via : Master} {c t code : Nat} (hr : s.Ready) (hc : c < 16) (ht : t ≤ 0xC) (h6 : t ≠ 6)
    (hcode : ((s.elapse dt).rowCheck c t (s.window (winIdx c t)).row (s.stagedImage c t) true).1 = code) (hn : code ≠ rOK) :
    AnswersSettled (exec (.commit dt via c t) s) fun u => u.rows = s.rows ∧ u.dict.landing = [] ∧
      (u.window (winIdx c t)).status = code ∧ Output.status code ∈ u.out := by
  have hw := commit_refused (via := via.transport) (elapse_ready s dt hr) hc ht h6 hcode hn
  obtain ⟨w, hd⟩ := refuse_dict (((s.elapse dt).noPart (winIdx c t)).setStatus (winIdx c t) code) via.transport (winIdx c t) 0x10 code
  have hl : (((((s.elapse dt).noPart (winIdx c t)).setStatus (winIdx c t) code).refuse via.transport (winIdx c t) 0x10 code).dict.landing) = [] :=
    (congrArg DictUnit.landing hd).trans hr.2.1
  refine masterWrite_done hr.1 hw hl ⟨(refuse_rows ..).trans rfl, hl, ?_, by simp⟩
  unfold window
  rw [emit_dict, hd]
  exact congrArg Window.status (window_setWindow ..)

/-! ### A management tick lands what it must (R15, R281) -/

/-- Where a state keeps the grid of one whose engine runs, its own engine runs. -/
theorem State.Grid.dictRuns {s s₀ : State} (h : s.Grid s₀) : s.dictRuns = s₀.dictRuns := by
  unfold State.dictRuns State.clocked
  rw [h.on, h.ack, h.time]

/-- A strobe of a meter row accepted in the tick that ends now must land (R281). -/
theorem mustLand_settle {s : State} {c sub row : Nat} {via : Transport} {k : Word} (hc : c < 16) (hon : s.isOn (domMeter c) = true)
    (hk : s.time.ticks = k + 1) : s.mustLand ⟨via, .strobe (winIdx c 3) sub row, k⟩ = true := by
  have hb : tickBound (.strobe (winIdx c 3) sub row) = 1 := tickBound_strobe (by decide)
  have hw : s.ticksWaited ⟨via, .strobe (winIdx c 3) sub row, k⟩ = 1 := by
    unfold ticksWaited
    rw [hk]
    simp
  have hwaits : s.waits ⟨via, .strobe (winIdx c 3) sub row, k⟩ = false := waits_strobe hc (by decide) rfl hon (by rw [hb, hw])
  unfold mustLand
  rw [hwaits, hb]
  rfl

/-- A tick boundary lands the SETTLE that the ending tick accepted. -/
theorem landDue_settle {s : State} {c sub row : Nat} {via : Transport} {k : Word} (hc : c < 16) (hon : s.isOn (domMeter c) = true)
    (hk : s.time.ticks = k + 1) (hl : s.dict.landing = [⟨via, .strobe (winIdx c 3) sub row, k⟩]) : s.landDue.dict.landing = [] := by
  have hnext : s.landNext [] mustLand = some (s.cleared.refillMeter c row) := by
    rw [landNext_one [] mustLand hl (mustLand_settle hc hon hk) (boundRow_strobe (by decide)) (by rw [tickBound_strobe (by decide)]; decide),
      landOne_strobe _ _ hc (by decide), landStrobe_meter (by exact hon)]
  unfold landDue
  rw [hl, List.length_singleton]
  simp only [landAll, hnext]
  rfl

/-- A management tick lands a SETTLE of the tick it ends: what runs before the landing keeps the way to it, and what runs after
it queues nothing (`State.Grid`). -/
theorem tick_lands {s : State} {dt c sub row : Nat} {env : TickEnv} {via : Transport} {k : Word} (run : s.dictRuns = true)
    (hat : 2 ^ 21 ≤ (s.elapse dt).time.tickAt) (hl : s.dict.landing = [⟨via, .strobe (winIdx c 3) sub row, k⟩]) (hk : k = s.time.ticks)
    (hc : c < 16) (hon : s.isOn (domMeter c) = true) :
    Answers (execManagementTick dt env s) fun u => u.dict.landing = [] := by
  have hclk : (s.elapse dt).clocked = true := by
    have : (s.elapse dt).dictRuns = true := by simpa using run
    exact (Bool.and_eq_true_iff.mp this).2
  unfold execManagementTick
  extract_lets u _ t f g h i
  refine answers_neg (by simpa [u, hclk, tickCycles] using hat) (answers_next ?_)
  have hf : f.Grid t := flipBanks_grid (reseed_grid (tickFunctions_grid (.refl t)))
  have hrun : f.dictRuns = true := hf.dictRuns.trans (by simpa using run : (s.elapse dt).dictRuns = true)
  have hg : g.dict.landing = [] := by
    have hb : (f.bump 0x0200 0x0D env.canErrs).Grid t := bump_grid hf
    refine (congrArg (fun v : State => v.dict.landing) (if_pos hrun)).trans ?_
    refine landDue_settle hc ((hb.on _).trans hon) ?_ (hb.landing.trans hl)
    rw [hb.time, hk]
    exact congrArg (· + 1) (elapse_ticks s dt)
  have hh : h.dict.landing = [] := by
    refine (congrArg DictUnit.landing (settleFaults_dict _)).trans ?_
    split
    · exact (keyUpsets_grid (.refl g)).landing.trans hg
    · exact hg
  have hi : i.Grid h := sendHealth_grid (settleStep_grid (forgetPast_grid (.refl h)))
  split
  · exact (streamSend_grid hi).landing.trans hh
  · exact hi.landing.trans hh

/-- Settles O31: the requests by `write_row`, `commit_accepted`, `commit_refused`, `write_strobe` and `write_data`; the landings by
`landOldest_one`, and the tick's by `tick_lands`. -/
theorem tableWindows : Obligations.TableWindows := by
  refine ⟨?select, ?load, ?vlan, ?vlanRefused, ?refused, ?meter, ?meterLands, ?data, ?settle, ?settleLands, ?both, ?return_, ?returnLands,
    ?tick⟩
  case select =>
    intro dt via c t row s hr hc ht hrow
    obtain ⟨q, f, hs, hq⟩ := selectRow_eq (s.elapse dt) c t row
    have hwin : (((s.elapse dt).selectRow c t row).window (winIdx c t)) = q := by rw [hs, window_selected]
    refine masterWrite_done hr.1 (write_row hc ht hrow) (by rw [hs]; exact hr.2.1) ?_
    rw [emit_window, hwin]
    exact hq
  case load =>
    intro dt via c row s hr hc hrow hon
    obtain ⟨q, f, hs, -⟩ := selectRow_eq (s.elapse dt) c 4 row
    exact masterWrite_done hr.1 (write_row hc (by decide) (by omega)) (by rw [hs]; exact hr.2.1) (selectRow_vlan (s := s.elapse dt) hrow hon)
  case vlan =>
    intro dt via c s v hr hc hon hrow hv hok
    have hack := ack_of_isOn (by unfold domMeter; omega) hon
    have himg : (s.elapse dt).stagedImage c 4 = [v] := by rw [hv]; rfl
    obtain ⟨x, hw⟩ := commit_accepted (via := via.transport) (elapse_ready s dt hr) hc (t := 4) (by decide) (by decide)
      (by rw [himg, elapse_window, rowCheck_vlan (s := s.elapse dt) true hack hrow, hok]; rfl)
    rw [himg, elapse_window] at hw
    refine masterWrite_lands hr hw (elapse_ready s dt hr).1 hr.2.1 (by unfold boundRow; rw [tickBound_row (by decide)]; rfl)
      (fun k => waits_row hc (by decide) rfl hon (by rw [tickBound_row (by decide)]; exact Nat.zero_le _)) ?_
    intro y hy
    rw [landOne_row _ _ _ hc (by decide) (by decide), landRow_vlan (s := ((s.elapse dt).noPart (winIdx c 4)).said y) hack hrow hok]
    refine ⟨(congrArg (SMap.get _ · _) (rowLanded_rows ..)).trans (rowGet_rowSet ..), rowLanded_status _ _ _ (transport_ne_hinge via), ?_⟩
    rw [rowLanded_ok, if_neg (transport_ne_hinge via)]
    exact List.mem_append_right _ hy
  case vlanRefused =>
    intro dt via c s v hr hc hon hrow hv hok
    have hack := ack_of_isOn (by unfold domMeter; omega) hon
    have himg : s.stagedImage c 4 = [v] := by rw [hv]; rfl
    obtain ⟨t, ht, hrows, -, hst, hout⟩ := commit_refusal (s := s) (dt := dt) (via := via) (c := c) (t := 4) (code := rRANGE) hr hc (by decide) (by decide)
      (by rw [himg, rowCheck_vlan (s := s.elapse dt) true hack hrow, hok]; rfl) (by decide)
    exact ⟨t, ht, hrows, hst, hout⟩
  case refused =>
    intro dt via c t img code s hr hc ht h6 himg hcode hn
    exact commit_refusal hr hc ht h6 (himg ▸ hcode) hn
  case meter =>
    intro dt via c img s hr hc hon hrow himg hf hok
    have hcheck : (s.elapse dt).rowCheck c 3 (s.window (winIdx c 3)).row (s.stagedImage c 3) true = (rOK, s.elapse dt) :=
      rowCheck_meter true hon hrow (himg ▸ hf) (himg ▸ hok)
    obtain ⟨x, hw⟩ := commit_accepted (via := via.transport) (elapse_ready s dt hr) hc (t := 3) (by decide) (by decide)
      (congrArg Prod.fst hcheck)
    refine masterWrite_queued hr hw (elapse_ready s dt hr).1 hr.2.1 (by rw [tickBound_row (by decide)]; decide) ⟨rfl, by simp, ?_⟩
    rw [landing_enqueue _ _ _ (by exact hr.2.1), himg, ← elapse_ticks s dt]
    rfl
  case meterLands =>
    rintro dt ⟨via, e, k⟩ c row img byData s run hl rfl hw hc hon hrow hlen hf hok
    have hack := ack_of_isOn (by unfold domMeter; omega) hon
    have hwaits : (s.elapse dt).waits ⟨via, .row (winIdx c 3) row img byData, k⟩ = false :=
      waits_row hc (by decide) rfl hon (by rw [tickBound_row (by decide), elapse_ticksWaited]; exact hw)
    refine answersSettled ?_
    rw [landOldest_one (s := s.elapse dt) [] (by simpa using run) hl hwaits (boundRow_row (by decide)) (by rw [tickBound_row (by decide)]; decide),
      landOne_row _ _ _ hc (by decide) (by decide), landRow_meter (by exact hack) hrow hf hok]
    obtain ⟨hrows, hdict⟩ := landMeter_rows (s.elapse dt).cleared c row img
    refine ⟨(rowLanded_landing ..).trans (congrArg DictUnit.landing hdict), fun i hi => ?_, rowLanded_status _ _ _⟩
    exact (congrArg (SMap.get _ · _) ((rowLanded_rows ..).trans hrows)).trans (rowGet_setImage _ _ (by omega) (by omega) (by omega))
  case data =>
    intro dt via c s e hr hc hon hrow hpart hok
    have hack := ack_of_isOn (by unfold domQueue; omega) hon
    obtain ⟨x, q, f, hw, hq⟩ := write_data (s := s.elapse dt) (via := via.transport) (t := 0xA) (v := e) (elapse_ready s dt hr) hc (by decide)
      (by decide) rfl hpart (by rw [elapse_window, rowCheck_shutter (s := s.elapse dt) true hack hrow hok])
    refine masterWrite_lands (v := e) (idx := winIdx c 0xA) (sub := 0x14) hr hw (elapse_ready s dt hr).1 hr.2.1
      (by unfold boundRow; rw [tickBound_row (by decide)]; rfl)
      (fun k => waits_row hc (by decide) rfl hon (by rw [tickBound_row (by decide)]; exact Nat.zero_le _)) fun y _ => ?_
    rw [landOne_row _ _ _ hc (by decide) (by decide), elapse_window, landRow_shutter (s := ((s.elapse dt).selected (winIdx c 0xA) q f).said y) hack hrow hok,
      rowLanded_ok, if_neg (transport_ne_hinge via)]
    refine ⟨rowGet_rowSet .., ?_, congrArg Window.status (window_setWindow ..)⟩
    refine (congrArg Window.row (window_setWindow ..)).trans ?_
    refine (congrArg Window.row (window_selected _ _ _ f)).trans (hq.trans ?_)
    rw [elapse_window]
    omega
  case settle =>
    intro dt via c s hr hc hrow
    obtain ⟨x, hw⟩ := write_strobe (s := s.elapse dt) (via := via.transport) (t := 3) (sub := 8) (name := "SETTLE") hc (by decide) (by decide)
      (by decide) (by decide) (by decide) rfl (transport_ne_hinge via) hr.2.2 hrow
    refine masterWrite_queued hr hw (elapse_ready s dt hr).1 hr.2.1 (by rw [tickBound_strobe (by decide)]; decide) ⟨rfl, by simp, ?_⟩
    rw [landing_enqueue _ _ _ (by exact hr.2.1), ← elapse_ticks s dt]
    rfl
  case settleLands =>
    rintro dt ⟨via, e, k⟩ c sub row s run hl rfl hw hc hon
    have hwaits : (s.elapse dt).waits ⟨via, .strobe (winIdx c 3) sub row, k⟩ = false :=
      waits_strobe hc (by decide) rfl hon (by rw [tickBound_strobe (by decide), elapse_ticksWaited]; exact hw)
    refine answersSettled ?_
    rw [landOldest_one (s := s.elapse dt) [] (by simpa using run) hl hwaits (boundRow_strobe (by decide)) (by rw [tickBound_strobe (by decide)]; decide),
      landOne_strobe _ _ hc (by decide), landStrobe_meter (by exact hon)]
    exact ⟨rfl, meterSt_refillMeter ..⟩
  case both =>
    rintro dt ⟨via, e, k'⟩ ⟨via', e', k⟩ c sub row img s run hl rfl rfl rfl hw hc hon hrow hlen hf hok hold _ halg
    have hack := ack_of_isOn (by unfold domMeter; omega) hon
    have hwaits : (s.elapse dt).waits ⟨via, .row (winIdx c 3) row img false, k⟩ = false :=
      waits_row hc (by decide) rfl hon (by rw [tickBound_row (by decide), elapse_ticksWaited]; exact hw)
    have hwaits' : (s.elapse dt).waits ⟨via', .strobe (winIdx c 3) sub row, k⟩ = false :=
      waits_strobe hc (by decide) rfl hon (by rw [tickBound_strobe (by decide), elapse_ticksWaited]; exact hw)
    refine answersSettled ?_
    rw [landOldest_settle (s := s.elapse dt) [] (by simpa using run) hl hwaits hwaits', landOne_strobe _ _ hc (by decide),
      landOne_row _ _ _ hc (by decide) (by decide), landStrobe_meter (by exact hon), landRow_meter (by exact hack) hrow hf hok,
      landMeter_going (by exact hold) (by exact halg) (by omega) hlen]
    obtain ⟨m, hm⟩ := setImage_eq ((s.elapse dt).cleared.refillMeter c row) (winIdx c 3) row img
    refine ⟨(rowLanded_landing ..).trans (by rw [hm]; rfl), ?_, fun i hi => ?_⟩
    · rw [hm, rowLanded_ok]
      split <;> exact meterSt_refillMeter ..
    · exact (congrArg (SMap.get _ · _) (rowLanded_rows ..)).trans (rowGet_setImage _ _ (by omega) (by omega) (by omega))
  case return_ =>
    intro dt via c t s hr hc ht hrow
    have hfind : ∃ name, (windowObjs t).find? (fun o => o.sub == (if t = 2 then 8 else 9)) = some (woObj (if t = 2 then 8 else 9) name .strobe) := by
      interval_cases t <;> exact ⟨"RETURN", rfl⟩
    obtain ⟨name, hfind⟩ := hfind
    obtain ⟨x, hw⟩ := write_strobe (s := s.elapse dt) (via := via.transport) hc (by omega) (by split <;> decide) (by split <;> decide)
      (by split <;> decide) (by split <;> decide) hfind (transport_ne_hinge via) hr.2.2 hrow
    refine masterWrite_queued hr hw (elapse_ready s dt hr).1 hr.2.1 (by rw [tickBound_strobe (by omega), if_pos (by omega)]; decide)
      ⟨rfl, by simp, _, landing_enqueue _ _ _ (by exact hr.2.1), rfl, elapse_ticks s dt⟩
  case returnLands =>
    rintro dt ⟨via, e, k⟩ c t sub row key s run hl rfl hw hc ht hon rfl
    have hwaits : (s.elapse dt).waits ⟨via, .strobe (winIdx c t) sub row, k⟩ = false :=
      waits_strobe hc (by omega) (if_pos (.inl ht)) hon
        (by rw [tickBound_strobe (by omega), if_pos (by omega), elapse_ticksWaited]; exact hw)
    refine answersSettled ?_
    rw [landOldest_one (s := s.elapse dt) [] (by simpa using run) hl hwaits (boundRow_strobe (by omega))
      (by rw [tickBound_strobe (by omega), if_pos (by omega)]; decide), landOne_strobe _ _ hc (by omega), landStrobe_sched ht (by exact hon)]
    have hq := landReturn_quiet (s.elapse dt).cleared c t row
    have hcore := landReturn_core (s.elapse dt).cleared c t row
    generalize State.landReturn _ c t row = u at hq hcore ⊢
    simp only [SchRow.core, Prod.mk.injEq] at hcore
    obtain ⟨hlast, hpend, hinst⟩ := hcore
    refine ⟨congrArg DictUnit.landing hq.dict, ?_, hpend, fun i hi => ?_⟩
    · rw [hlast]; unfold runTime; rw [hq.time]
    · rw [hinst]
      exact congrArg (Option.getD · _) hi
  case tick =>
    rintro dt ⟨via, e, k⟩ c sub row env s run hat hl rfl hk hc hon
    exact tick_lands run hat hl hk hc hon

end Sys2Proof.Machine
end

