-- ==== Sys2Proof/Proofs/TimeWrites.lean ====
section
namespace Sys2Proof.Machine
open State

/-! ### STEP_COUNT: the shutters that see a step count nothing in it (R110) -/

/-- STEP_COUNT (R105). -/
def State.stepCount (s : State) : BitVec 48 := s.ctr 0x0400 0x11

theorem stepCount_of_ctrs {s t : State} (h : t.ctrs = s.ctrs) : t.stepCount = s.stepCount := by
  unfold stepCount ctr
  rw [h]

theorem bump_stepCount (s : State) {i u : Nat} (n : Nat) (hu : u < 256) (hi : 0x0400 < i) : (s.bump i u n).stepCount = s.stepCount :=
  ctr_bumpRow_ne _ _ _ _ _ _ _ _ (by unfold slotKey; omega)

theorem bumpPort_stepCount (s : State) (p k n : Nat) : (s.bumpPort p k n).stepCount = s.stepCount :=
  ctr_bumpRow_ne _ _ _ _ _ _ _ _ (by unfold slotKey; omega)

theorem raise_stepCount (s : State) (e d : Nat) : (s.raise e d).stepCount = s.stepCount :=
  raise_ctr s e d 0x0400 0x11 0 (by decide) (by decide) (by decide) (by decide)

theorem raiseOnce_stepCount (s : State) (e d : Nat) : (s.raiseOnce e d).stepCount = s.stepCount := by
  have hecc : (s.noteEcc e).stepCount = s.stepCount := by unfold noteEcc; split <;> rfl
  unfold raiseOnce
  dsimp only
  split
  · exact hecc
  · exact (raise_stepCount ..).trans hecc

theorem streamSend_stepCount (s : State) (m : StreamMsg) : (s.streamSend m).stepCount = s.stepCount := by
  unfold streamSend
  split
  · rfl
  extract_lets isWrite n
  split
  · exact (raiseOnce_stepCount ..).trans (bump_stepCount (i := 0x0500) (u := 0x29) _ 1 (by decide) (by decide))
  · obtain ⟨x, hx⟩ := hingeSend_said (s.updTwin fun t => { t with seq := n, store := t.store ++ [(n, m)] }) (.stream n m)
    rw [hx]
    rfl

theorem shutCause_stepCount (s : State) (p bit : Nat) : (s.shutCause p bit).stepCount = s.stepCount := by
  unfold shutCause
  dsimp only
  split
  · exact raise_stepCount ..
  · rfl

theorem openDigest_stepCount (s : State) (p c t : Nat) : (s.openDigest p c t).stepCount = s.stepCount := by
  unfold openDigest
  dsimp only
  repeat' split
  all_goals rfl

theorem tellSwap_stepCount (s : State) (p sub : Nat) : (s.tellSwap p sub).stepCount = s.stepCount := by
  unfold tellSwap
  split
  · exact streamSend_stepCount ..
  · rfl

theorem setShut_stepCount (s : State) (p : Nat) (q : Shutter) : (s.setShut p q).stepCount = s.stepCount := rfl

theorem requestSwap_stepCount (s : State) (p l : Nat) (f : Option Nat) : (s.requestSwap p l f).stepCount = s.stepCount :=
  setShut_stepCount ..

theorem shutParams_stepCount (s : State) (p : Nat) : (s.shutParams p).stepCount = s.stepCount := setShut_stepCount ..

theorem shutRefresh_stepCount (s : State) (p : Nat) : (s.shutRefresh p).stepCount = s.stepCount := by
  unfold shutRefresh
  dsimp only
  split
  · rfl
  split
  · rfl
  · rw [openDigest_stepCount]
    split <;> rfl

theorem latchSwap_stepCount (s : State) (p : Nat) : (s.latchSwap p).stepCount = s.stepCount := by
  unfold latchSwap
  dsimp only
  split
  · rfl
  split
  · rfl
  split
  · split
    · rw [tellSwap_stepCount, requestSwap_stepCount, shutCause_stepCount, setShut_stepCount, streamSend_stepCount]
    · rw [shutCause_stepCount, setShut_stepCount, streamSend_stepCount]
  · rw [setShut_stepCount, streamSend_stepCount]

theorem makeSwap_stepCount (s : State) (p : Nat) : (s.makeSwap p).stepCount = s.stepCount := by
  unfold makeSwap
  dsimp only
  split
  · rfl
  split
  · rfl
  · rw [shutRefresh_stepCount, shutCause_stepCount, bumpPort_stepCount]
    split
    · rw [tellSwap_stepCount, requestSwap_stepCount, shutParams_stepCount, setShut_stepCount]
    · rw [shutParams_stepCount, setShut_stepCount]

theorem passSwap_stepCount (s : State) (p : Nat) : (s.passSwap p).1.stepCount = s.stepCount := by
  unfold passSwap
  dsimp only
  split
  · rfl
  split
  · rfl
  split
  · split
    · exact (makeSwap_stepCount ..).trans (latchSwap_stepCount ..)
    · exact latchSwap_stepCount ..
  · exact latchSwap_stepCount ..

theorem realignStep_stepCount (s : State) (p old : Nat) (big : Bool) : (s.realignStep p old big).stepCount = s.stepCount := by
  unfold realignStep
  dsimp only
  split
  · rfl
  split
  · rfl
  split
  · rw [shutRefresh_stepCount, shutCause_stepCount, bumpPort_stepCount]; rfl
  · rw [shutRefresh_stepCount]; split <;> rfl

theorem shutStep_stepCount (s : State) (p old : Nat) : (s.shutStep p old).stepCount = s.stepCount := by
  unfold shutStep
  dsimp only
  generalize hu : State.updPortTx _ p _ = u
  have h : u.stepCount = s.stepCount := by rw [← hu]; rfl
  split
  · exact h
  refine Eq.trans ?_ h
  change State.stepCount (if _ then _ else _) = _
  split
  · split
    · rw [shutCause_stepCount, bumpPort_stepCount, passSwap_stepCount]
    · exact passSwap_stepCount ..
  · rw [realignStep_stepCount, passSwap_stepCount]

theorem shutStepAll_stepCount (s : State) (old : Nat) : (s.shutStepAll old).stepCount = s.stepCount :=
  List.foldlRecOn (motive := fun t => t.stepCount = s.stepCount) _ _ rfl fun t h p _ => (shutStep_stepCount t p old).trans h

/-! ### What a jump of device time leaves (R110) -/

theorem bump_counts_step (s : State) : (s.bump 0x0400 0x11).stepCount = s.stepCount + 1 := ctr_bumpRow ..

/-- STEP_COUNT counts a jump; the grid of the shutters does not. -/
theorem jump_stepCount (s : State) (new : Nat) : (s.jump new).stepCount = s.stepCount + 1 := by
  unfold jump
  rw [shutStepAll_stepCount]
  unfold jumpTo
  extract_lets size sat old time t u
  have hu : u.stepCount = s.stepCount + 1 := (raise_stepCount ..).trans ((bump_counts_step t).trans (congrArg (· + 1) (stepCount_of_ctrs rfl)))
  split
  · exact (raise_stepCount ..).trans hu
  · exact hu

theorem jump_runTime (s : State) (new : Nat) : (s.jump new).runTime = s.runTime := by
  obtain ⟨sat, hj⟩ := jump_time s new
  unfold runTime
  rw [hj]

theorem jump_sinceServo (s : State) (new : Nat) : (s.jump new).time.sinceServo = s.time.sinceServo := by
  obtain ⟨sat, hj⟩ := jump_time s new
  rw [hj]

/-- A jump of at most 2^63 − 1 grains either way shows its own size. -/
theorem jump_lastStep (s : State) {new : Nat} {off : Int} (h : (new : Int) - s.devTime = off) (hl : -(2 ^ 63) ≤ off)
    (hu : off ≤ 2 ^ 63 - 1) : (s.jump new).time.lastStep = ofI64 off := by
  have hsat : max (-(2 ^ 63)) (min (2 ^ 63 - 1) off) = off := by omega
  unfold jump
  rw [shutStepAll_time]
  unfold jumpTo
  dsimp only
  rw [h, hsat]
  split
  · rw [raise_time, raise_time, bump_time]
  · rw [raise_time, bump_time]

theorem leaveUnset_sinceServo (s : State) : s.leaveUnset.time.sinceServo = s.time.sinceServo := by
  by_cases h : s.time.st = .unset
  · rw [leaveUnset_time h]
  · unfold leaveUnset; rw [if_neg h]

theorem leaveUnset_st (s : State) : s.leaveUnset.time.st = if s.time.st = .unset then .freerun else s.time.st := by
  by_cases h : s.time.st = .unset
  · rw [leaveUnset_time h, if_pos h]
  · unfold leaveUnset; rw [if_neg h, if_neg h]

theorem leaveUnset_runTime (s : State) : s.leaveUnset.runTime = s.runTime := by
  by_cases h : s.time.st = .unset
  · unfold runTime; rw [leaveUnset_time h]
  · unfold leaveUnset; rw [if_neg h]

theorem leaveUnset_stepCount (s : State) : s.leaveUnset.stepCount = s.stepCount := by
  unfold leaveUnset
  split
  · exact raise_stepCount ..
  · rfl

/-- SET_TIME lands (R106, R110). -/
theorem landSetTime_spec (s : State) {v : Nat} (hv : v < 2 ^ 84) : (s.landSetTime v).devTime = v ∧
    (s.landSetTime v).time.st = (if s.time.st = .unset then .freerun else s.time.st) ∧ (s.landSetTime v).time.sinceServo = 0 ∧
    (s.landSetTime v).stepCount = s.stepCount + 1 ∧ (s.landSetTime v).runTime = s.runTime := by
  unfold landSetTime
  rw [Nat.mod_eq_of_lt hv]
  refine ⟨?_, ?_, ?_, ?_, ?_⟩
  · rw [leaveUnset_devTime, jump_devTime _ hv]
  · rw [leaveUnset_st, jump_timeSt]; rfl
  · rw [leaveUnset_sinceServo, jump_sinceServo]; rfl
  · rw [leaveUnset_stepCount, jump_stepCount]; rfl
  · rw [leaveUnset_runTime, jump_runTime]; rfl

/-- STEP lands, with a result within the 84 bits of device time (R110, R111). -/
theorem landStep_spec (s : State) {v : Word} (hf : s.stepFits v.toInt = true) : ((s.landStep v.toInt).devTime : Int) = s.devTime + v.toInt ∧
    (s.landStep v.toInt).time.lastStep = v ∧ (s.landStep v.toInt).time.st = s.time.st ∧ (s.landStep v.toInt).time.sinceServo = 0 ∧
    (s.landStep v.toInt).stepCount = s.stepCount + 1 ∧ (s.landStep v.toInt).runTime = s.runTime := by
  obtain ⟨h0, h84⟩ : 0 ≤ s.devTime + v.toInt ∧ s.devTime + v.toInt < 2 ^ 84 := by simpa [stepFits] using hf
  have hvl := BitVec.le_toInt v
  have hvu := BitVec.toInt_lt (x := v)
  have hoff : ((s.devTime + v.toInt).toNat : Int) - s.servoWrote.devTime = v.toInt := by
    rw [show s.servoWrote.devTime = s.devTime from rfl]; omega
  unfold landStep
  refine ⟨?_, ?_, ?_, ?_, ?_, ?_⟩
  · rw [jump_devTime _ (by omega)]; omega
  · rw [jump_lastStep s.servoWrote hoff (by omega) (by omega)]; exact BitVec.ofInt_toInt
  · rw [jump_timeSt]; rfl
  · rw [jump_sinceServo]; rfl
  · rw [jump_stepCount]; rfl
  · rw [jump_runTime]; rfl

/-! ### Writes of the time core (R102, R110, R111, R117) -/

/-- STEP (R105). -/
def stepObj : ObjInfo := woObj 0x05 "STEP" .i64 (inSigned (2 ^ 62))

/-- FREQ_WORD (R102). -/
def freqWordObj : ObjInfo := rwObj 0x06 "FREQ_WORD" .u64 92233720369 (inRange 92141486649 92325954089)

/-- The words within ±2^62 are the values that STEP takes. -/
theorem inSigned_of_toInt {v : Word} (hl : -(2 ^ 62) ≤ v.toInt) (hu : v.toInt ≤ 2 ^ 62) : inSigned (2 ^ 62) v.toNat = true := by
  have hv := v.isLt
  rw [BitVec.toInt_eq_toNat_cond] at hl hu
  simp only [inSigned, Bool.or_eq_true, decide_eq_true_eq]
  split at hl <;> omega

theorem takes_step {s : State} {v : Word} (hl : -(2 ^ 62) ≤ v.toInt) (hu : v.toInt ≤ 2 ^ 62) (hf : s.stepFits v.toInt = true) :
    s.Takes .time stepObj 0x0400 v where
  acc := .inr (.inl rfl)
  plain := ⟨by decide, by decide⟩
  window := fun _ _ h => Ix.noConfusion h
  keys := by decide
  fits := inSigned_of_toInt hl hu
  closed := fun h => Access.noConfusion h
  accept := hf
  land := hf
  late := rfl
  anytime := by decide

theorem takes_freqWord {s : State} {v : Word} (hl : 92141486649 ≤ v.toNat) (hu : v.toNat ≤ 92325954089) :
    s.Takes .time freqWordObj 0x0400 v where
  acc := .inl rfl
  plain := ⟨by decide, by decide⟩
  window := fun _ _ h => Ix.noConfusion h
  keys := by decide
  fits := by simp [freqWordObj, rwObj, inRange, ObjType.fits, hl, hu]
  closed := fun h => Access.noConfusion h
  accept := rfl
  land := rfl
  late := rfl
  anytime := by decide

/-- FREQ_WORD lands (R106, R117); the wake that its event may bring sets no object but a cluster's mode. -/
theorem landFreqWord_spec (s : State) (v : Word) : (s.landFreqWord v).reg 0x0400 6 = v ∧ (s.landFreqWord v).time.sinceServo = 0 ∧
    (s.landFreqWord v).time.st = (if s.time.st = .unset then .unset else .tracking) ∧ (s.landFreqWord v).devTime = s.devTime := by
  have hst : ((s.setReg 0x0400 0x06 v).servoWrote).time.st = s.time.st := rfl
  have hreg : ((s.setReg 0x0400 0x06 v).servoWrote).reg 0x0400 6 = v := reg_setReg ..
  unfold landFreqWord
  extract_lets u
  change u.time.st = _ at hst
  have hmode : ¬ isMode 0x0400 6 := by
    rintro ⟨c, hc⟩
    unfold slotKey clIdx at hc
    omega
  cases h : s.time.st <;> rw [h] at hst <;> simp only [hst]
  case holdover =>
    refine ⟨?_, ?_, ?_, ?_⟩
    · exact (raise_sameObjs _ _ _ 0x0400 6 hmode).symm.trans hreg
    · rw [raise_time]; rfl
    · rw [raise_time]; rfl
    · unfold devTime; rw [raise_time]; rfl
  case unset => exact ⟨hreg, rfl, rfl, rfl⟩
  case freerun => exact ⟨hreg, rfl, rfl, rfl⟩
  case tracking => exact ⟨hreg, rfl, rfl, rfl⟩

/-- The low slot of SET_TIME is held (R57). -/
def State.lowHeld (s : State) (low : Word) : State :=
  { s with dict := { s.dict with low84 := SMap.put s.dict.low84 (slotKey 0x0400 3 0) low } }

/-- A write of an object of the time core: its acceptance, and the record of a refusal (R60). -/
theorem write_time {s : State} {via : Transport} {sub : Nat} {v : Word} {o : ObjInfo} (hs : sub ≠ 0)
    (ho : timeObjs.find? (fun o => o.sub == sub) = some o) :
    s.write via 0x0400 sub v = let x := s.acceptObj via .time o 0x0400 v none
      if x.1 = rOK then x else (x.1, x.2.refuse via 0x0400 sub x.1) := by
  have hc : classify 0x0400 = some .time := rfl
  unfold write
  simp only [hc, hs, (objInfo_of hc).trans ho, if_false]

/-- What the acceptance of a WO object of the time core answers: a refusal with RANGE, or the slot of a TIME84 object, or its way to the
unit (R56, R57, R61). -/
theorem acceptObj_timeWo (s : State) (via : Transport) {o : ObjInfo} (v : Word) (ha : o.acc = .wo) :
    s.acceptObj via .time o 0x0400 v none =
      if !(o.ty.fits v.toNat && o.ok v.toNat) then (rRANGE, s)
      else if !s.objCond s.acceptedVal false .time 0x0400 o.sub v then (rRANGE, s)
      else if o.ty = .time84lo then
        (rOK, { s with dict := { s.dict with low84 := SMap.put s.dict.low84 (slotKey 0x0400 o.sub 0) v } })
      else if o.ty = .time84hi then
        (rOK, s.enqueue via (.time84 0x0400 o.sub (BitVec.ofNat 84 (v.toNat * 2 ^ 64 +
          (SMap.get (s.reg 0x0400 (o.sub - 1)) s.dict.low84 (slotKey 0x0400 (o.sub - 1) 0)).toNat))))
      else (rOK, s.enqueue via (.obj 0x0400 o.sub v)) := by
  have hf (t : State) : t.forwardObj via 0x0400 o.sub v = t := if_pos (.inr (.inl rfl))
  have hl : landsAtOnce 0x0400 o.sub = false := rfl
  unfold acceptObj
  simp [ha, hf, hl, storedAs]

theorem write_setTimeLow (s : State) (via : Transport) (low : Word) : s.write via 0x0400 3 low = (rOK, s.lowHeld low) := by
  rw [write_time (o := woObj 0x03 "SET_TIME" .time84lo) (by decide) rfl, acceptObj_timeWo _ _ _ rfl]
  rfl

theorem write_setTimeHigh (s : State) (via : Transport) (low high : Word) (h : high.toNat < 2 ^ 20) :
    (s.lowHeld low).write via 0x0400 4 high =
      (rOK, (s.lowHeld low).enqueue via (.time84 0x0400 4 (BitVec.ofNat 84 (high.toNat * 2 ^ 64 + low.toNat)))) := by
  have hlow : SMap.get ((s.lowHeld low).reg 0x0400 3) (s.lowHeld low).dict.low84 (slotKey 0x0400 3 0) = low :=
    (SMap.get_put ..).trans (if_pos rfl)
  have hfit : ObjType.fits .time84hi high.toNat = true := by simpa [ObjType.fits] using h
  rw [write_time (o := woObj 0x04 "SET_TIME+1" .time84hi) (by decide) rfl, acceptObj_timeWo _ _ _ rfl]
  simp [woObj, hfit, objCond, hlow]

theorem requestLand_setTimeLow {s : State} (via : Transport) (low : Word) (run : s.dictRuns = true) (hl : s.dict.landing = []) :
    s.requestLand via [] 0x0400 3 low = (s.emit (.status rOK)).lowHeld low := by
  rw [requestLand_eq run (write_setTimeLow ..) run]
  exact landWrites_nil (s := (s.emit (.status rOK)).lowHeld low) [] hl

theorem landWrites_time84 {s : State} {via : Transport} {v : BitVec 84} {k : Word} (h : s.dict.landing = [⟨via, .time84 0x0400 4 v, k⟩]) :
    s.landWrites [] = s.cleared.landSetTime v.toNat :=
  landWrites_unbound [] h rfl rfl

/-- The second slot of SET_TIME lands both: of the time core nothing has moved before. -/
theorem requestLand_setTimeHigh {s : State} (via : Transport) (low : Word) {high : Word} (run : s.dictRuns = true)
    (hl : s.dict.landing = []) (h : high.toNat < 2 ^ 20) :
    ∃ u : State, u.time = s.time ∧ u.ctrs = s.ctrs ∧
      (s.lowHeld low).requestLand via [] 0x0400 4 high = u.landSetTime (high.toNat * 2 ^ 64 + low.toNat) := by
  have hv : (BitVec.ofNat 84 (high.toNat * 2 ^ 64 + low.toNat)).toNat = high.toNat * 2 ^ 64 + low.toNat := by
    have := low.isLt
    rw [BitVec.toNat_ofNat, Nat.mod_eq_of_lt (by omega)]
  have hw := write_setTimeHigh s via low high h
  generalize BitVec.ofNat 84 (high.toNat * 2 ^ 64 + low.toNat) = v at hv hw
  have hone : (((s.lowHeld low).enqueue via (.time84 0x0400 4 v)).emit (.status rOK)).dict.landing =
      [⟨via, .time84 0x0400 4 v, s.time.ticks⟩] := congrArg (· ++ _) hl
  refine ⟨(((s.lowHeld low).enqueue via (.time84 0x0400 4 v)).emit (.status rOK)).cleared, rfl, rfl, ?_⟩
  rw [requestLand_eq (s := s.lowHeld low) run hw run, landWrites_time84 hone, hv]

/-- Both slots of SET_TIME are written, and land. -/
theorem requestAll_setTime {s : State} (via : Master) (low : Word) {high : Word} (hr : s.Ready) (h : high.toNat < 2 ^ 20) :
    ∃ u : State, u.time = s.time ∧ u.ctrs = s.ctrs ∧
      s.requestAll via [] [(0x0400, 3, low), (0x0400, 4, high)] = u.landSetTime (high.toNat * 2 ^ 64 + low.toNat) := by
  obtain ⟨run, hl, -⟩ := hr
  obtain ⟨u, ht, hc, he⟩ := requestLand_setTimeHigh (s := s.emit (.status rOK)) via.transport low run hl h
  refine ⟨u, ht, hc, ?_⟩
  unfold requestAll
  rw [List.foldl_cons, List.foldl_cons, List.foldl_nil, requestLand_setTimeLow via.transport low run hl, he]

/-- A block of counters copied slot by slot. -/
theorem get_frozen (f : Nat → BitVec 48) {n k : Nat} (h1 : 1 ≤ k) (hn : k ≤ n) :
    SMap.get 0 ((List.range n).foldl (fun m i => SMap.set 0 m (i + 1) (f (i + 1))) []) k = f k := by
  induction n with
  | zero => omega
  | succ n ih =>
    rw [List.range_succ, List.foldl_append, List.foldl_cons, List.foldl_nil, SMap.get_set]
    split
    · next he => rw [he]
    · exact ih (by omega)

/-- SNAP lands: the counters of the port selected and the time are held (R469). -/
theorem landSnap_spec (s : State) : s.landSnap.cu.held = some (s.regN 0x0B00 1) ∧ s.landSnap.cu.snapTime.toNat = s.devTime ∧
    ∀ k, 1 ≤ k → k ≤ 128 → SMap.get 0 s.landSnap.cu.frozen k = s.ctr (0x1800 + s.regN 0x0B00 1) k := by
  refine ⟨rfl, ?_, fun k h1 h128 => ?_⟩
  · exact (BitVec.toNat_ofNat ..).trans (Nat.mod_eq_of_lt (devTime_lt s))
  · exact get_frozen (fun k => s.ctr (0x1800 + s.regN 0x0B00 1) k) h1 h128

/-- A STEP out of range is refused (R111). -/
theorem write_step_refused {s : State} (via : Transport) {v : Word} (hf : s.stepFits v.toInt = false) :
    s.write via 0x0400 5 v = (rRANGE, s.refuse via 0x0400 5 rRANGE) := by
  have ha : s.acceptObj via .time stepObj 0x0400 v none = (rRANGE, s) := by
    rw [acceptObj_timeWo _ _ _ rfl]
    have hc : s.objCond s.acceptedVal false .time 0x0400 stepObj.sub v = false := hf
    rw [hc]
    simp
  rw [write_time (o := stepObj) (by decide) rfl, ha]
  rfl

theorem refuse_out (s : State) (via : Transport) (idx sub code : Nat) : (s.refuse via idx sub code).out = s.out := by
  unfold refuse
  extract_lets t w
  rw [(raiseOnce_quiet (.refl _)).out, bump_out]

theorem refuse_time (s : State) (via : Transport) (idx sub code : Nat) : (s.refuse via idx sub code).time = s.time := by
  unfold refuse
  extract_lets t w
  rw [(raiseOnce_quiet (.refl _)).time, bump_time]

theorem refuse_twin (s : State) (via : Transport) (idx sub code : Nat) : (s.refuse via idx sub code).twin = s.twin := by
  have hecc (t : State) : t.noteEcc 0x810 = t := if_neg (by decide)
  unfold refuse
  extract_lets t w
  unfold raiseOnce
  simp only [hecc]
  split
  · exact bump_twin ..
  · exact (raise_twin ..).trans (bump_twin ..)

/-- Settles O58: the range check of STEP comes before anything else is done, and a refusal leaves but the engine's record of it. -/
theorem stepOutOfRange : Obligations.StepOutOfRange := by
  intro dt via v s hr _ _ hf
  have hw := write_step_refused (s := s.elapse dt) via.transport hf
  refine masterWrite_done hr.1 hw ((refuse_landing ..).trans hr.2.1) ⟨?_, refuse_time .., fun x hx => ?_⟩
  · rw [emit_outs, refuse_out]; rfl
  · refine (same_elapse s dt x).trans (Part.Same.trans ?_ (same_emit _ _ x))
    by_cases ht : x = .twin
    · subst ht; exact (refuse_twin ..).symm
    · exact same_refuse _ hx ht ..

/-- Settles O26: each write is accepted and lands in its step; what the landing does is said above, of any state. -/
theorem timeWrites : Obligations.TimeWrites := by
  refine ⟨?setTime, ?step, ?freqWord, ?snap, ?release⟩
  case setTime =>
    intro dt via low high s hr h
    obtain ⟨u, ht, hn, he⟩ := requestAll_setTime via low (elapse_ready s dt hr) h
    have hv : high.toNat * 2 ^ 64 + low.toNat < 2 ^ 84 := by have := low.isLt; omega
    obtain ⟨hdev, hst, hservo, hcount, hrun⟩ := landSetTime_spec u hv
    refine ⟨_, congrArg (fun t => settled (.next t)) he, hdev, ?_, hservo, hcount.trans (congrArg (· + 1) (stepCount_of_ctrs hn)), ?_⟩
    · rw [hst, ht, elapse_timeSt]
    · rw [hrun]; unfold runTime; rw [ht]
  case step =>
    intro dt via v s hr hl hu hf
    refine answers_write (ix := .time) (o := stepObj) dt via hr rfl rfl (by decide) rfl (takes_step hl hu hf) fun x _ => ?_
    rw [objEffect_plain _ _ _ fun h => ObjType.noConfusion h.1]
    obtain ⟨hdev, hlast, hst, hservo, hcount, hrun⟩ := landStep_spec ((s.elapse dt).said x) hf
    exact ⟨hdev, hlast, hst.trans (elapse_timeSt s dt), hservo, hcount, hrun⟩
  case freqWord =>
    intro dt via v s hr hl hu
    refine answers_write (ix := .time) (o := freqWordObj) dt via hr rfl rfl (by decide) rfl (takes_freqWord hl hu) fun x _ => ?_
    rw [objEffect_plain _ _ _ fun h => ObjType.noConfusion h.1]
    obtain ⟨hreg, hservo, hst, hdev⟩ := landFreqWord_spec ((s.elapse dt).said x) v
    refine ⟨hreg, hservo, hst.trans ?_, hdev⟩
    rw [said_time, elapse_timeSt]
  case snap =>
    intro dt via s hr hon
    refine answers_write (ix := .ctrCommon) (o := woObj 0x02 "SNAP" .strobe) dt via hr rfl rfl (by decide) rfl ?_ fun x _ => ?_
    · exact takes_strobe "SNAP" (fun _ _ h => Ix.noConfusion h) (by decide) (by decide) rfl fun _ => hon
    · rw [objEffect_plain _ _ _ (by decide)]
      exact landSnap_spec ((s.elapse dt).said x)
  case release =>
    intro dt via s hr
    refine answers_write (ix := .ctrCommon) (o := woObj 0x07 "SNAP_RELEASE" .strobe) dt via hr rfl rfl (by decide) rfl ?_ fun x _ => ?_
    · exact takes_strobe "SNAP_RELEASE" (fun _ _ h => Ix.noConfusion h) (by decide) (by decide) rfl fun _ => rfl
    · rw [objEffect_plain _ _ _ (by decide)]
      exact ⟨rfl, rfl⟩

end Sys2Proof.Machine
end

