-- ==== Sys2Proof/Proofs/PortGates.lean ====
section
/-!
SUPPORT. What a management tick leaves of the ports: whether each is OPENING, OPEN, CLOSING or CLOSED, and whether an OPENING port closes
once it is OPEN (R540). Only an opening, a closing and a stop move these two; what else a tick runs, through the transmit and the receive
path, the keys, the swing and the hinge, leaves them at every port. Each such proof peels what a function runs from the outside.
-/
namespace Sys2Proof.Machine
open State

/-- The state of a port and the closing that waits for its opening. -/
def State.gate (s : State) (p : Nat) : FnState × Bool := ((s.port p).st, (s.port p).closeAfterOpen)

/-- Every port has its state and its waiting closing as before. -/
def State.SameGates (s s₀ : State) : Prop := ∀ p, s.gate p = s₀.gate p

section
variable {s t s₀ : State}

theorem State.SameGates.refl (s : State) : s.SameGates s := fun _ => rfl

theorem gates_of_portRx (h : t.portRx = s.portRx) (hk : s.SameGates s₀) : t.SameGates s₀ := fun p => by
  rw [← hk p, gate, gate, State.port, State.port, h]

theorem State.Quiet.gates (h : t.Quiet s) (hk : s.SameGates s₀) : t.SameGates s₀ := gates_of_portRx h.portRx hk
theorem State.Wired.gates (h : t.Wired s) (hk : s.SameGates s₀) : t.SameGates s₀ := gates_of_portRx h.portRx hk
theorem State.Alike.gates (h : t.Alike s) (hk : s.SameGates s₀) : t.SameGates s₀ := gates_of_portRx h.portRx hk

/-- The receive units of the ports stay as they were. -/
theorem gates_mk (hk : s.SameGates s₀) {pending out free regs rows past ctrs onceTick power clusterPower time ev cu dict keys masks laneLock
      clusterRx clusterTx portTx shutters rings quarters twin mem} :
    (State.mk pending out free regs rows past ctrs onceTick power clusterPower time ev cu dict keys masks laneLock s.portRx clusterRx
      clusterTx portTx shutters rings quarters twin mem).SameGates s₀ := hk

theorem gates_of_pair {α : Type} {x : α × State} {a : α} (e : x = (a, t)) (h : x.2.SameGates s₀) : t.SameGates s₀ := by rwa [e] at h

theorem foldl_gates {α : Type} {f : State → α → State} {l : List α} (hk : s.SameGates s₀)
    (hf : ∀ s a, s.SameGates s₀ → (f s a).SameGates s₀) : (l.foldl f s).SameGates s₀ := by
  induction l generalizing s with
  | nil => exact hk
  | cons a t ih => exact ih (hf _ _ hk)

theorem updPort_gate_ne {p q : Nat} (f : PortRx → PortRx) (h : p ≠ q) : (s.updPort q f).gate p = s.gate p := by
  have e : (s.updPort q f).port p = s.port p := SMap.get_set_ne _ h
  rw [gate, e, gate]

theorem updPort_gate (p : Nat) (f : PortRx → PortRx) :
    (s.updPort p f).gate p = ((f (s.port p)).st, (f (s.port p)).closeAfterOpen) := by
  have e : (s.updPort p f).port p = f (s.port p) := SMap.get_set_self ..
  rw [gate, e]

theorem State.updPort_gates {p : Nat} {f : PortRx → PortRx} (hk : s.SameGates s₀) (hs : (f (s.port p)).st = (s.port p).st)
    (hc : (f (s.port p)).closeAfterOpen = (s.port p).closeAfterOpen) : (s.updPort p f).SameGates s₀ := fun q => by
  rw [← hk q]
  by_cases h : q = p
  · subst h; rw [updPort_gate, hs, hc, gate]
  · exact updPort_gate_ne f h

/-! ### Functions that the tick shares with the rest of the model -/

theorem State.setReg_gates {i u : Nat} {v : Word} (hk : s.SameGates s₀) : (s.setReg i u v).SameGates s₀ := gates_mk hk
theorem State.rowSet_gates {w u r : Nat} {v : Word} (hk : s.SameGates s₀) : (s.rowSet w u r v).SameGates s₀ := gates_mk hk
theorem State.bumpRow_gates {i u r n : Nat} (hk : s.SameGates s₀) : (s.bumpRow i u r n).SameGates s₀ := gates_of_portRx (bumpRow_portRx ..) hk
theorem State.bump_gates {idx sub n : Nat} (hk : s.SameGates s₀) : (s.bump idx sub n).SameGates s₀ := gates_of_portRx (bump_portRx ..) hk
theorem State.bumpPort_gates {p slot n : Nat} (hk : s.SameGates s₀) : (s.bumpPort p slot n).SameGates s₀ := gates_of_portRx (bumpPort_portRx ..) hk
theorem State.emit_gates {o : Output} (hk : s.SameGates s₀) : (s.emit o).SameGates s₀ := gates_mk hk
theorem State.noteEcc_gates {e : Nat} (hk : s.SameGates s₀) : (s.noteEcc e).SameGates s₀ := (noteEcc_quiet (.refl _)).gates hk
theorem State.raise_gates {e : Nat} {data : optParam Nat 0} (hk : s.SameGates s₀) : (s.raise e data).SameGates s₀ :=
  gates_of_portRx (raise_portRx ..) hk
theorem State.raiseOnce_gates {e : Nat} {data : optParam Nat 0} (hk : s.SameGates s₀) : (s.raiseOnce e data).SameGates s₀ :=
  (raiseOnce_quiet (.refl _)).gates hk
theorem State.setClRx_gates {c : Nat} {q : ClusterRx} (hk : s.SameGates s₀) : (s.setClRx c q).SameGates s₀ := gates_mk hk
theorem State.setClTx_gates {c : Nat} {q : ClusterTx} (hk : s.SameGates s₀) : (s.setClTx c q).SameGates s₀ := gates_mk hk
theorem State.setPortTx_gates {p : Nat} {q : PortTx} (hk : s.SameGates s₀) : (s.setPortTx p q).SameGates s₀ := gates_mk hk
theorem State.setRing_gates {r : Nat} {q : Ring} (hk : s.SameGates s₀) : (s.setRing r q).SameGates s₀ := gates_mk hk
theorem State.setSlot_gates {k : Nat} {q : KeySlot} (hk : s.SameGates s₀) : (s.setSlot k q).SameGates s₀ := gates_mk hk
theorem State.updClRx_gates {c : Nat} {f : ClusterRx → ClusterRx} (hk : s.SameGates s₀) : (s.updClRx c f).SameGates s₀ := gates_mk hk
theorem State.updPortTx_gates {p : Nat} {f : PortTx → PortTx} (hk : s.SameGates s₀) : (s.updPortTx p f).SameGates s₀ := gates_mk hk
theorem State.updTwin_gates {f : TwinUnit → TwinUnit} (hk : s.SameGates s₀) : (s.updTwin f).SameGates s₀ := gates_mk hk
theorem State.settlePort_gates {p : Nat} (hk : s.SameGates s₀) : (s.settlePort p).SameGates s₀ := (settlePort_quiet (.refl _)).gates hk
theorem State.setPath_gates {b : Bool} {q : HingePath} (hk : s.SameGates s₀) : (s.setPath b q).SameGates s₀ := gates_mk hk
theorem State.hingeSend_gates {m : HingeMsg} (hk : s.SameGates s₀) : (s.hingeSend m).SameGates s₀ := (hingeSend_alike (.refl _)).gates hk
theorem State.streamSend_gates {m : StreamMsg} (hk : s.SameGates s₀) : (s.streamSend m).SameGates s₀ := (streamSend_alike (.refl _)).gates hk
theorem State.calStage_gates {c : Nat} {f : CalIn} (hk : s.SameGates s₀) : (s.calStage c f).2.SameGates s₀ := (calStage_quiet (.refl _)).gates hk
theorem State.directDone_gates {o : Option DirectRef} {result : Nat} {stamp : Option Word}
    (hk : s.SameGates s₀) : (s.directDone o result stamp).SameGates s₀ :=
  (directDone_quiet (.refl _)).gates hk
theorem State.stageRx_gates {f : Staged} {good known : Bool} (hk : s.SameGates s₀) : (s.stageRx f good known).2.SameGates s₀ :=
  (stageRx_quiet (.refl _)).gates hk
theorem State.skidPush_gates {c : Nat} {f : SkidFrame} (hk : s.SameGates s₀) : (s.skidPush c f).SameGates s₀ := gates_mk hk
theorem State.peepTap_gates {t : TapIn} (hk : s.SameGates s₀) : (s.peepTap t).SameGates s₀ := (peepTap_quiet (.refl _)).gates hk
theorem State.drawMasks_gates {c : Nat} (hk : s.SameGates s₀) : (s.drawMasks c).SameGates s₀ := (drawMasks_quiet (.refl _)).gates hk
theorem State.saFlag_gates {c r bit : Nat} (hk : s.SameGates s₀) : (s.saFlag c r bit).SameGates s₀ := (saFlag_quiet (.refl _)).gates hk
theorem State.frameLeft_gates {p : Nat} {f : TxFrame} {bytes : Bytes} {fin : End}
    (hk : s.SameGates s₀) : (s.frameLeft p f bytes fin).SameGates s₀ :=
  (frameLeft_wired (.refl _)).gates hk
theorem State.dropFrame_gates {p : Nat} {f : TxFrame} (hk : s.SameGates s₀) : (s.dropFrame p f).SameGates s₀ := (dropFrame_quiet (.refl _)).gates hk
theorem State.updKeys_gates {f : KeyUnit → KeyUnit} (hk : s.SameGates s₀) : (s.updKeys f).SameGates s₀ := gates_mk hk

theorem State.rxCause_gates {p bit : Nat} (hk : s.SameGates s₀) : (s.rxCause p bit).SameGates s₀ := by
  have h : (s.updPort p fun q => { q with cause := q.cause.setBit bit true }).SameGates s₀ := updPort_gates hk rfl rfl
  unfold rxCause
  dsimp only
  split
  · exact raise_gates h
  · exact h

theorem State.setTimer_gates {p k : Nat} {v : Option Word} (hk : s.SameGates s₀) : (s.setTimer p k v).SameGates s₀ := updPort_gates hk rfl rfl

theorem State.store_gates {row : Bool} {key : Nat} {v : Word} (hk : s.SameGates s₀) : (s.store row key v).SameGates s₀ := by
  unfold store
  split
  · exact gates_mk hk
  · exact gates_mk hk

theorem State.underStart_gates {p : Nat} {age : Nat} {f : State → State} (hk : s.SameGates s₀)
    (hf : ∀ t, t.SameGates s₀ → (f t).SameGates s₀) : (s.underStart p age f).SameGates s₀ := by
  have before (l : List Past) : (l.foldr (fun e s => s.store e.row e.key e.old) s).SameGates s₀ := by
    induction l with
    | nil => exact hk
    | cons e l ih => exact store_gates ih
  exact foldl_gates (hf _ (before _)) fun _ _ h => store_gates h

end

/-! ### The functions of the model, in its order -/

section
variable {s s₀ : State}

theorem State.freshBytes_gates {n : Nat} (hk : s.SameGates s₀) : (s.freshBytes n).2.SameGates s₀ := gates_mk hk

theorem State.notePast_gates {row : Bool} {key : Nat} {old new : Word} (hk : s.SameGates s₀) : (s.notePast row key old new).SameGates s₀ := by
  unfold notePast
  split
  · exact hk
  · exact gates_mk hk

theorem State.setPortReg_gates {idx sub : Nat} {v : Word} (hk : s.SameGates s₀) : (s.setPortReg idx sub v).SameGates s₀ :=
  setReg_gates (notePast_gates hk)

theorem State.setDoorRow_gates {c r : Nat} {w : DoorRow} (hk : s.SameGates s₀) : (s.setDoorRow c r w).SameGates s₀ := gates_mk hk

theorem State.updDoor_gates {c : Nat} {f : DoorUnit → DoorUnit} (hk : s.SameGates s₀) : (s.updDoor c f).SameGates s₀ := gates_mk hk

theorem State.parityErr_gates {c r : Nat} (hk : s.SameGates s₀) : (s.parityErr c r).SameGates s₀ := raiseOnce_gates (bump_gates (updDoor_gates hk))

theorem State.doorLookup_gates {c mac vid : Nat} {kinds : List Nat} (hk : s.SameGates s₀) : (s.doorLookup c mac vid kinds).2.SameGates s₀ := by
  unfold doorLookup
  dsimp only
  repeat' with_reducible first
    | assumption | apply parityErr_gates | apply foldl_gates | intro _

theorem State.doorDest_gates {p vid da : Nat} {out : DoorOut} (hk : s.SameGates s₀) : (s.doorDest p vid da out).2.SameGates s₀ := by
  unfold doorDest
  dsimp only
  repeat' with_reducible first
    | assumption | apply doorLookup_gates | apply bumpPort_gates | split

theorem State.doorPunt_gates {p source : Nat} (hk : s.SameGates s₀) : (s.doorPunt p source).2.SameGates s₀ := bumpPort_gates hk

theorem State.doorDecide_gates {p sa da fvid : Nat} (hk : s.SameGates s₀) : (s.doorDecide p sa da fvid).2.SameGates s₀ := by
  unfold doorDecide
  dsimp only
  repeat' with_reducible first
    | assumption | apply bumpPort_gates | apply doorLookup_gates | apply raiseOnce_gates | apply doorDest_gates | apply doorPunt_gates
    | split

theorem State.queueLearn_gates {c : Nat} {q : LearnReq} (hk : s.SameGates s₀) : (s.queueLearn c q).SameGates s₀ := by
  unfold queueLearn
  dsimp only
  repeat' with_reducible first
    | assumption | apply bump_gates | apply updDoor_gates | split

theorem State.doorLearn_gates {p sa fvid : Nat} {seen : DoorSeen} (hk : s.SameGates s₀) : (s.doorLearn p sa fvid seen).SameGates s₀ := by
  unfold doorLearn
  dsimp only
  repeat' with_reducible first
    | assumption | apply queueLearn_gates | apply setDoorRow_gates | apply bumpPort_gates | split

theorem State.doorUpset_gates {c : Nat} {ups : List Upset} (hk : s.SameGates s₀) : (s.doorUpset c ups).SameGates s₀ := by
  unfold doorUpset
  dsimp only
  repeat' with_reducible first
    | assumption | apply setDoorRow_gates | apply foldl_gates | intro _ | split

theorem State.flushOnDown_gates {p : Nat} (hk : s.SameGates s₀) : (s.flushOnDown p).SameGates s₀ := by
  unfold flushOnDown
  repeat' with_reducible first
    | assumption | apply updDoor_gates | split

theorem State.inbandRequest_gates {body : Bytes} (hk : s.SameGates s₀) : (s.inbandRequest body).SameGates s₀ := by
  unfold inbandRequest
  split
  · exact hk
  split
  · exact hk
  extract_lets good u
  split
  · exact raise_gates (bump_gates hk)
  split
  · exact bump_gates hk
  split
  · exact bump_gates (gates_mk hk)
  · exact gates_mk hk

theorem State.calEcc_gates {c : Nat} {rule : Bool} {k : Nat} (hk : s.SameGates s₀) : (s.calEcc c rule k).SameGates s₀ := by
  unfold calEcc
  dsimp only
  repeat' with_reducible first
    | assumption | apply rowSet_gates | apply setClTx_gates | apply raiseOnce_gates | apply bump_gates | split

theorem State.landFcLate_gates {p back : Nat} (hk : s.SameGates s₀) : (s.landFcLate p back).SameGates s₀ := by
  unfold landFcLate
  dsimp only
  split
  · exact hk
  · exact foldl_gates (updPort_gates hk rfl rfl) fun u w hu => settlePort_gates (updPort_gates (setPortReg_gates hu) rfl rfl)

theorem State.ctlOnLanes_gates {p : Nat} (hk : s.SameGates s₀) : (s.ctlOnLanes p).SameGates s₀ := gates_mk hk

theorem State.lanes_gates {p sfd : Nat} {frag : Option Nat} {bytes : Bytes} (hk : s.SameGates s₀) : (s.lanes p sfd frag bytes).SameGates s₀ := by
  unfold lanes
  repeat' with_reducible first
    | assumption | apply emit_gates | split

theorem State.sendOwn_gates {p sfd : Nat} {bytes : Bytes} (hk : s.SameGates s₀) : (s.sendOwn p sfd bytes).SameGates s₀ :=
  peepTap_gates (lanes_gates hk)

theorem State.sendVerify_gates {p smd : Nat} (hk : s.SameGates s₀) : (s.sendVerify p smd).SameGates s₀ := sendOwn_gates hk

theorem State.countSent_gates {p : Nat} {body : Bytes} (hk : s.SameGates s₀) : (s.countSent p body).SameGates s₀ := by
  unfold countSent
  dsimp only
  repeat' with_reducible first
    | assumption | apply bumpPort_gates

theorem State.sendMacCtl_gates {p : Nat} {body : Bytes} (hk : s.SameGates s₀) : (s.sendMacCtl p body).SameGates s₀ :=
  sendOwn_gates (countSent_gates hk)

theorem State.sendCtl_gates {p : Nat} {k : CtlFrame} (hk : s.SameGates s₀) : (s.sendCtl p k).SameGates s₀ := by
  unfold sendCtl
  dsimp only
  repeat' with_reducible first
    | assumption | apply landFcLate_gates | apply ctlOnLanes_gates | apply sendVerify_gates | apply bumpPort_gates | apply sendMacCtl_gates
    | apply foldl_gates | intro _ | split

theorem State.queueCtl_gates {p : Nat} {k : CtlFrame} (hk : s.SameGates s₀) : (s.queueCtl p k).SameGates s₀ := by
  unfold queueCtl
  repeat' with_reducible first
    | assumption | apply sendCtl_gates | apply updPortTx_gates | split

theorem State.verifyStart_gates {p : Nat} (hk : s.SameGates s₀) : (s.verifyStart p).SameGates s₀ := by
  unfold verifyStart
  dsimp only
  repeat' with_reducible first
    | assumption | apply updPortTx_gates | apply queueCtl_gates | split

theorem State.landLate_gates {p : Nat} (hk : s.SameGates s₀) : (s.landLate p).SameGates s₀ := by
  unfold landLate
  dsimp only
  repeat' with_reducible first
    | assumption | apply updPortTx_gates | apply verifyStart_gates | apply setReg_gates | apply foldl_gates | intro _ | split

theorem State.xoffDone_gates {p : Nat} (hk : s.SameGates s₀) : (s.xoffDone p).SameGates s₀ := gates_mk hk

theorem State.sendPfc_gates {p : Nat} (hk : s.SameGates s₀) : (s.sendPfc p).SameGates s₀ := queueCtl_gates (xoffDone_gates hk)

theorem State.settlePfc_gates {p : Nat} (hk : s.SameGates s₀) : (s.settlePfc p).SameGates s₀ := by
  unfold settlePfc
  repeat' with_reducible first
    | assumption | apply sendPfc_gates | split

theorem State.sendWaiting_gates {p : Nat} (hk : s.SameGates s₀) : (s.sendWaiting p).SameGates s₀ := by
  unfold sendWaiting
  dsimp only
  repeat' with_reducible first
    | assumption | apply settlePfc_gates | apply sendCtl_gates | apply setPortTx_gates | apply foldl_gates | intro _ | split

theorem State.boundaryTx_gates {p : Nat} (hk : s.SameGates s₀) : (s.boundaryTx p).SameGates s₀ := landLate_gates (sendWaiting_gates hk)

theorem State.dropCtl_gates {p : Nat} (hk : s.SameGates s₀) : (s.dropCtl p).SameGates s₀ := gates_mk hk

theorem State.endOnLanes_gates {p : Nat} (hk : s.SameGates s₀) : (s.endOnLanes p).SameGates s₀ := gates_mk hk

theorem State.fcUpdate_gates {p : Nat} (hk : s.SameGates s₀) : (s.fcUpdate p).SameGates s₀ := by
  unfold fcUpdate
  dsimp only
  repeat' with_reducible first
    | assumption | apply setPortTx_gates | apply queueCtl_gates | apply xoffDone_gates | apply updPortTx_gates | split

theorem State.fcStart_gates {p : Nat} (hk : s.SameGates s₀) : (s.fcStart p).SameGates s₀ := fcUpdate_gates (updPortTx_gates hk)

theorem State.setSignal_gates {p : Nat} {sig : LaneSignal} (hk : s.SameGates s₀) : (s.setSignal p sig).SameGates s₀ := by
  unfold setSignal
  repeat' with_reducible first
    | assumption | apply emit_gates | apply updPortTx_gates | split

theorem State.settleSignal_gates {p : Nat} (hk : s.SameGates s₀) : (s.settleSignal p).SameGates s₀ := setSignal_gates hk

theorem State.verifyStop_gates {p : Nat} (hk : s.SameGates s₀) : (s.verifyStop p).SameGates s₀ := gates_mk hk

theorem State.countFirst_gates {p : Nat} {f : TxFrame} {slot : Nat} (hk : s.SameGates s₀) : (s.countFirst p f slot).SameGates s₀ := by
  unfold countFirst
  repeat' with_reducible first
    | assumption | apply bumpPort_gates | split

theorem State.wireFree_gates {p : Nat} {f : TxFrame} (hk : s.SameGates s₀) : (s.wireFree p f).SameGates s₀ :=
  boundaryTx_gates (endOnLanes_gates (updPortTx_gates hk))

theorem State.sendFragment_gates {p : Nat} {f : TxFrame} {bytes tail : Bytes}
    (hk : s.SameGates s₀) : (s.sendFragment p f bytes tail).SameGates s₀ := by
  unfold sendFragment
  dsimp only
  repeat' with_reducible first
    | assumption | apply bumpPort_gates | apply lanes_gates | split

theorem State.stompLanes_gates {p : Nat} {f : TxFrame} {body : Bytes} (hk : s.SameGates s₀) : (s.stompLanes p f body).SameGates s₀ :=
  frameLeft_gates (sendFragment_gates (bumpPort_gates hk))

theorem State.stompWire_gates {p : Nat} {f : TxFrame} {body : Bytes} (hk : s.SameGates s₀) : (s.stompWire p f body).SameGates s₀ :=
  wireFree_gates (stompLanes_gates hk)

theorem State.cutWire_gates {p slot : Nat} {f : TxFrame} {pad : Bool} (hk : s.SameGates s₀) : (s.cutWire p slot f pad).SameGates s₀ :=
  stompWire_gates (countFirst_gates hk)

theorem State.discardFrames_gates {p slot : Nat} (hk : s.SameGates s₀) : (s.discardFrames p slot).SameGates s₀ := by
  unfold discardFrames
  dsimp only
  repeat' with_reducible first
    | assumption | apply bumpPort_gates | apply setPortTx_gates | apply landLate_gates | apply dropFrame_gates | apply foldl_gates | intro _

theorem State.stompHeld_gates {p : Nat} {f : TxFrame} (hk : s.SameGates s₀) : (s.stompHeld p f).SameGates s₀ := stompWire_gates (updPortTx_gates hk)

theorem State.txClose_gates {p : Nat} (hk : s.SameGates s₀) : (s.txClose p).SameGates s₀ := by
  unfold txClose
  dsimp only
  repeat' with_reducible first
    | assumption | apply verifyStop_gates | apply discardFrames_gates | apply dropCtl_gates | apply updPortTx_gates | apply bump_gates
    | apply directDone_gates | apply foldl_gates | intro _ | split

theorem State.txKeyErase_gates {p : Nat} {hit : Nat → Bool} (hk : s.SameGates s₀) : (s.txKeyErase p hit).SameGates s₀ := by
  unfold txKeyErase
  dsimp only
  repeat' with_reducible first
    | assumption | apply setPortTx_gates | apply bumpPort_gates | apply dropFrame_gates | apply cutWire_gates | apply stompHeld_gates
    | apply foldl_gates | intro _ | split

theorem State.txLinkDown_gates {p : Nat} (hk : s.SameGates s₀) : (s.txLinkDown p).SameGates s₀ :=
  dropCtl_gates (verifyStop_gates (discardFrames_gates hk))

theorem State.setRole_gates {r : Role} (hk : s.SameGates s₀) : (s.setRole r).SameGates s₀ := by
  unfold setRole
  dsimp only
  repeat' with_reducible first
    | assumption | apply updTwin_gates | apply bump_gates | apply raise_gates | split

theorem State.settleStep_gates (hk : s.SameGates s₀) : s.settleStep.SameGates s₀ := by
  unfold settleStep
  repeat' with_reducible first
    | assumption | apply setRole_gates | split

theorem State.freshPns_gates {c r : Nat} (hk : s.SameGates s₀) : (s.freshPns c r).SameGates s₀ := gates_mk hk

theorem State.flipBank_gates {i : Nat} (hk : s.SameGates s₀) : (s.flipBank i).SameGates s₀ := by
  unfold flipBank
  dsimp only
  repeat' with_reducible first
    | assumption | apply freshPns_gates | apply setSlot_gates | split

theorem State.flipBanks_gates (hk : s.SameGates s₀) : s.flipBanks.SameGates s₀ := by
  unfold flipBanks
  repeat' with_reducible first
    | assumption | apply flipBank_gates | apply foldl_gates | intro _

theorem State.keyAlarm_gates {bit : Nat} (hk : s.SameGates s₀) : (s.keyAlarm bit).SameGates s₀ := by
  unfold keyAlarm
  dsimp only
  repeat' with_reducible first
    | assumption | apply updKeys_gates | apply updTwin_gates | split

theorem State.landKeyErase_gates {c r : Nat} (hk : s.SameGates s₀) : (s.landKeyErase c r).SameGates s₀ := by
  unfold landKeyErase
  dsimp only
  repeat' with_reducible first
    | assumption | apply freshPns_gates | apply setSlot_gates | apply txKeyErase_gates | apply foldl_gates | intro _

theorem State.keyEcc_gates {k : Nat} {bad : Bool} (hk : s.SameGates s₀) : (s.keyEcc k bad).SameGates s₀ := by
  unfold keyEcc
  dsimp only
  repeat' with_reducible first
    | assumption | apply bump_gates | apply landKeyErase_gates | apply updKeys_gates | apply raise_gates | apply noteEcc_gates
    | apply keyAlarm_gates | split

theorem State.keyUpsets_gates {ups : List Upset} (hk : s.SameGates s₀) : (s.keyUpsets ups).SameGates s₀ := by
  unfold keyUpsets
  repeat' with_reducible first
    | assumption | apply keyEcc_gates | apply foldl_gates | intro _ | split

theorem State.seedDrbg_gates {n : Nat} (hk : s.SameGates s₀) : (s.seedDrbg n).SameGates s₀ := gates_mk hk

theorem State.reseed_gates (hk : s.SameGates s₀) : s.reseed.SameGates s₀ := by
  have h : (({ s with masks := { s.masks with erased := false } } : State)).SameGates s₀ := gates_mk hk
  unfold reseed
  extract_lets m run u
  have hu : u.SameGates s₀ := foldl_gates h fun t c ht => by
    split
    · exact ht
    split
    · exact seedDrbg_gates ht
    · exact raiseOnce_gates (bump_gates ht)
  split
  · exact seedDrbg_gates hu
  · exact hu

theorem State.acceptPn_gates {c r pn : Nat} {xpn : Bool} (hk : s.SameGates s₀) : (s.acceptPn c r pn xpn).SameGates s₀ := by
  unfold acceptPn
  dsimp only
  repeat' with_reducible first
    | assumption | apply rowSet_gates | apply saFlag_gates | split

theorem State.heldBytes_gates {c n others : Nat} (hk : s.SameGates s₀) : (s.heldBytes c n others).SameGates s₀ := gates_mk hk

theorem State.saBump_gates {c r sub n : Nat} (hk : s.SameGates s₀) : (s.saBump c r sub n).SameGates s₀ := bumpRow_gates hk

theorem State.secCountRx_gates {p : Nat} {a0 : SecCount} (hk : s.SameGates s₀) : (s.secCountRx p a0).SameGates s₀ := by
  unfold secCountRx
  repeat' with_reducible first
    | assumption | apply bumpPort_gates | apply saBump_gates | split

theorem State.secVerify_gates {f : SecIn} {t : SecTag} {r : Nat} {w : Word} {k : KeyImg} {sci pn : Nat} {pass : Bool}
    (hk : s.SameGates s₀) : (s.secVerify f t r w k sci pn pass).2.SameGates s₀ := by
  unfold secVerify
  dsimp only
  repeat' with_reducible first
    | assumption | apply saBump_gates | apply raiseOnce_gates | apply bump_gates | apply bumpPort_gates | apply drawMasks_gates
    | apply acceptPn_gates | split

theorem State.secRx_gates {f : SecIn} (hk : s.SameGates s₀) : (s.secRx f).2.SameGates s₀ := by
  unfold secRx
  dsimp only
  repeat' with_reducible first
    | assumption | apply secCountRx_gates | apply bumpPort_gates | apply heldBytes_gates | apply raiseOnce_gates | apply bump_gates
    | apply secVerify_gates | split

theorem State.secStageRx_gates {f : SecIn} (hk : s.SameGates s₀) : (s.secStageRx f).2.SameGates s₀ := by
  unfold secStageRx
  repeat' with_reducible first
    | assumption | apply secRx_gates | split

theorem State.setMeterSt_gates {c r : Nat} {m : MeterSt} (hk : s.SameGates s₀) : (s.setMeterSt c r m).SameGates s₀ := gates_mk hk

theorem State.meterEcc_gates {c : Nat} {map : Bool} {r : Nat} (hk : s.SameGates s₀) : (s.meterEcc c map r).SameGates s₀ := by
  unfold meterEcc
  dsimp only
  repeat' with_reducible first
    | assumption | apply rowSet_gates | apply setClRx_gates | apply raiseOnce_gates | apply bump_gates | split

theorem State.meterEnd_gates {c : Nat} {due : Option MeterDue} {len : Nat} (hk : s.SameGates s₀) : (s.meterEnd c due len).SameGates s₀ := by
  unfold meterEnd
  dsimp only
  repeat' with_reducible first
    | assumption | apply bumpRow_gates | apply setMeterSt_gates | split

theorem State.meterStage_gates {f : MeterIn} (hk : s.SameGates s₀) : (s.meterStage f).2.SameGates s₀ := by
  unfold meterStage
  dsimp only
  repeat' with_reducible first
    | assumption | apply bumpPort_gates | apply bumpRow_gates | apply setMeterSt_gates | split

theorem State.actControl_gates {p : Nat} {bs : Bytes} (hk : s.SameGates s₀) : (s.actControl p bs).SameGates s₀ := by
  unfold actControl
  dsimp only
  repeat' with_reducible first
    | assumption | apply settlePort_gates | apply bumpPort_gates | apply setTimer_gates | apply foldl_gates | intro _ | split

theorem State.coreEnd_gates {p : Nat} {bytes : Bytes} {fin : End} {reason : Nat}
    (hk : s.SameGates s₀) : (s.coreEnd p bytes fin reason).SameGates s₀ :=
  gates_mk hk

theorem State.countOk_gates {p : Nat} {bs : Bytes} (hk : s.SameGates s₀) : (s.countOk p bs).SameGates s₀ := by
  unfold countOk
  dsimp only
  repeat' with_reducible first
    | assumption | apply bumpPort_gates

theorem State.rxUpsets_gates {c : Nat} {ups : List Upset} (hk : s.SameGates s₀) : (s.rxUpsets c ups).SameGates s₀ := by
  unfold rxUpsets
  dsimp only
  repeat' with_reducible first
    | assumption | apply keyUpsets_gates | apply doorUpset_gates | apply meterEcc_gates | apply calEcc_gates | apply foldl_gates | intro _
    | split

theorem State.decideRx_gates {p : Nat} {o : SecOut} {mark : Bool} {tag : Option SysTag} {stamp : Word} {len : Option Nat} {held : Nat}
    (hk : s.SameGates s₀) : (s.decideRx p o mark tag stamp len held).2.SameGates s₀ := by
  unfold decideRx
  dsimp only
  split
  · next e => exact gates_of_pair e (doorDecide_gates hk)
  · next e => exact meterStage_gates (gates_of_pair e (doorDecide_gates hk))

theorem State.filterRx_gates {p : Nat} {bs : Bytes} (hk : s.SameGates s₀) : (s.filterRx p bs).2.SameGates s₀ := by
  unfold filterRx
  repeat' with_reducible first
    | assumption | apply bumpPort_gates | apply rxCause_gates | split

theorem State.knock_gates {p : Nat} {bs : Bytes} (hk : s.SameGates s₀) : (s.knock p bs).SameGates s₀ := by
  unfold knock
  dsimp only
  repeat' with_reducible first
    | assumption | apply bumpPort_gates | apply bump_gates | apply raise_gates | apply updClRx_gates | split

theorem State.sized_gates {p : Nat} {bs : Bytes} {how : RxHow} {known : Bool} {stamp begun : Word} {stage : RxStage} {env : RxEnv}
    (hk : s.SameGates s₀) : (s.sized p bs how known stamp begun stage env).2.SameGates s₀ := by
  unfold sized
  dsimp only
  repeat' with_reducible first
    | assumption | apply bumpPort_gates | apply countOk_gates | apply actControl_gates | split

theorem State.handOver_gates {p : Nat} {punt : Option (Nat × Nat)} {body : Bytes} {fin : End} {known : Bool} {stamp : Word} {vid colour : Nat}
    (hk : s.SameGates s₀) : (s.handOver p punt body fin known stamp vid colour).SameGates s₀ := by
  unfold handOver
  repeat' with_reducible first
    | assumption | apply bump_gates | apply stageRx_gates | split

theorem State.toCore_gates {p : Nat} {m : FrameMeta} {bytes : Bytes} {fin : End} {reason reach : Nat}
    (hk : s.SameGates s₀) : (s.toCore p m bytes fin reason reach).SameGates s₀ := by
  unfold toCore
  dsimp only
  repeat' with_reducible first
    | assumption | apply raiseOnce_gates | apply bump_gates | apply skidPush_gates | split

theorem State.finishRx_gates {p : Nat} {v : RxVerdict} {o : SecOut} {strip : Bool} {tail : Bytes} {f : RxPass}
    (hk : s.SameGates s₀) : (s.finishRx p v o strip tail f).SameGates s₀ := by
  unfold finishRx
  dsimp only
  repeat' with_reducible first
    | assumption | apply doorLearn_gates | apply meterEnd_gates | apply peepTap_gates | apply handOver_gates | apply coreEnd_gates
    | apply toCore_gates | split

theorem State.pipeline_gates {p : Nat} {strip : Bool} {f : RxPass} (hk : s.SameGates s₀) : (s.pipeline p strip f).SameGates s₀ := by
  unfold pipeline
  dsimp only
  split
  · next e => exact gates_of_pair e (secStageRx_gates (peepTap_gates hk))
  next o u e =>
  have hu : u.SameGates s₀ := gates_of_pair e (secStageRx_gates (peepTap_gates hk))
  split
  · exact finishRx_gates hu
  · exact hu
  · exact hu
  split
  · exact hu
  split
  · next e => exact gates_of_pair e (calStage_gates hu)
  · next e => exact gates_of_pair e (calStage_gates hu)
  next v e =>
  have hv : v.SameGates s₀ := gates_of_pair e (calStage_gates hu)
  split
  · split
    · exact inbandRequest_gates hv
    · exact hv
  split
  · next e => exact gates_of_pair e (decideRx_gates hv)
  · next e => exact finishRx_gates (gates_of_pair e (decideRx_gates hv))

theorem State.passOrWait_gates {s s0 : State} {p : Nat} {express : Bool} {f : RxPass}
    (hk : s.SameGates s₀) (hks0 : s0.SameGates s₀) : (s.passOrWait s0 p express f).SameGates s₀ := by
  unfold passOrWait
  repeat' with_reducible first
    | assumption | apply bumpPort_gates | apply rxUpsets_gates | apply updPort_gates | apply pipeline_gates | rfl | split

theorem State.rxMac_gates {p : Nat} {bs : Bytes} {how : RxHow} {express known : Bool} {stamp begun : Word} {stage : RxStage} {env : RxEnv}
    (hk : s.SameGates s₀) : (s.rxMac p bs how express known stamp begun stage env).SameGates s₀ := by
  have settles {t : State} (ht : t.SameGates s₀) : (if s.changedSince p (s.since begun) = [] then t else t.settlePort p).SameGates s₀ := by
    split
    · exact ht
    · exact settlePort_gates ht
  refine settles (underStart_gates hk fun t ht => ?_)
  extract_lets u x
  have hu : u.SameGates s₀ := by
    unfold u
    split
    · exact knock_gates ht
    · exact ht
  have hx : x.2.SameGates s₀ := by
    unfold x
    split
    · exact filterRx_gates hu
    · exact hu
    · exact hu
  split
  · exact hu
  split
  · exact hx
  split
  · next e => exact gates_of_pair e (sized_gates hx)
  · next e => exact passOrWait_gates (gates_of_pair e (sized_gates hx)) hx

theorem State.reasmErr_gates {p age : Nat} (hk : s.SameGates s₀) : (s.reasmErr p age).SameGates s₀ := by
  unfold reasmErr
  repeat' with_reducible first
    | assumption | apply rxCause_gates | apply bumpPort_gates | split

theorem State.releaseWaiting_gates {p : Nat} (hk : s.SameGates s₀) : (s.releaseWaiting p).SameGates s₀ := by
  unfold releaseWaiting
  dsimp only
  repeat' with_reducible first
    | assumption | apply updPort_gates | apply underStart_gates | apply pipeline_gates | apply foldl_gates | intro _ | rfl

theorem State.endReasm_gates {p : Nat} (hk : s.SameGates s₀) : (s.endReasm p).SameGates s₀ := by
  unfold endReasm
  dsimp only
  repeat' with_reducible first
    | assumption | apply updPort_gates | apply rxMac_gates | apply releaseWaiting_gates | rfl | split

theorem State.dropFragments_gates {p : Nat} (hk : s.SameGates s₀) : (s.dropFragments p).SameGates s₀ := by
  unfold dropFragments
  repeat' with_reducible first
    | assumption | apply endReasm_gates | apply reasmErr_gates | apply releaseWaiting_gates | split

theorem State.setLink_gates {p : Nat} {l : Link} (hk : s.SameGates s₀) : (s.setLink p l).SameGates s₀ := by
  unfold setLink
  dsimp only
  split
  · exact hk
  have h0 {t : State} (h : t.SameGates s₀) (b : Prop) [Decidable b] :
      (State.settleSignal (if b then ((t.flushOnDown p).txLinkDown p).landFcLate p 0 else t) p).SameGates s₀ := by
    split
    · exact settleSignal_gates (landFcLate_gates (txLinkDown_gates (flushOnDown_gates h)))
    · exact settleSignal_gates h
  split
  · exact fcStart_gates (verifyStart_gates (rxCause_gates (h0 (updPort_gates hk rfl rfl) _)))
  · exact rxCause_gates (h0 (updPort_gates hk rfl rfl) _)
  split
  · exact rxCause_gates (h0 (updPort_gates hk rfl rfl) _)
  · exact h0 (updPort_gates hk rfl rfl) _

theorem State.settleLink_gates {p : Nat} (hk : s.SameGates s₀) : (s.settleLink p).SameGates s₀ := by
  unfold settleLink
  dsimp only
  repeat' with_reducible first
    | assumption | apply setLink_gates | split

theorem State.closeRing_gates {r : Nat} (hk : s.SameGates s₀) : (s.closeRing r).SameGates s₀ := gates_mk hk

theorem State.ringOpened_gates {r : Nat} (hk : s.SameGates s₀) : (s.ringOpened r).SameGates s₀ := by
  unfold ringOpened
  dsimp only
  repeat' with_reducible first
    | assumption | apply setRing_gates | apply closeRing_gates | split

theorem State.streamResend_gates (hk : s.SameGates s₀) : s.streamResend.SameGates s₀ := by
  unfold streamResend
  repeat' with_reducible first
    | assumption | apply hingeSend_gates | apply foldl_gates | intro _ | split

theorem State.pathDown_gates {b : Bool} (hk : s.SameGates s₀) : (s.pathDown b).SameGates s₀ := by
  unfold pathDown
  dsimp only
  repeat' with_reducible first
    | assumption | apply raise_gates | apply setPath_gates | apply settleStep_gates | apply streamResend_gates | apply raiseOnce_gates
    | apply updTwin_gates | split

theorem State.closeHinge_gates (hk : s.SameGates s₀) : s.closeHinge.SameGates s₀ := by
  unfold closeHinge
  dsimp only
  repeat' with_reducible first
    | assumption | apply pathDown_gates | apply updTwin_gates

theorem State.openHinge_gates (hk : s.SameGates s₀) : s.openHinge.SameGates s₀ := by
  unfold openHinge
  repeat' with_reducible first
    | assumption | apply updTwin_gates | split

theorem State.hingeTick_gates (hk : s.SameGates s₀) : s.hingeTick.SameGates s₀ := by
  unfold hingeTick
  dsimp only
  repeat' with_reducible first
    | assumption | apply updTwin_gates | apply closeHinge_gates | apply openHinge_gates | split

theorem State.canHealth_gates (hk : s.SameGates s₀) : s.canHealth.SameGates s₀ := by
  unfold canHealth
  split
  · exact hk
  · exact emit_gates (freshBytes_gates (gates_mk hk))

theorem State.sendHealth_gates {free : Bool} (hk : s.SameGates s₀) : (s.sendHealth free).SameGates s₀ := by
  have hu := hingeSend_gates (m := .health s.healthNow) (updTwin_gates (f := fun t => { t with health := s.healthNow }) hk)
  unfold sendHealth
  dsimp only
  split
  · split
    · exact canHealth_gates (gates_mk hu)
    · exact gates_mk hu
  · exact hu

theorem State.forgetPast_gates (hk : s.SameGates s₀) : s.forgetPast.SameGates s₀ := gates_mk hk

/-! ### The swing (R36, R428) -/

theorem State.portSilent_gates {p : Nat} (hk : s.SameGates s₀) : (s.portSilent p).SameGates s₀ := settleSignal_gates (updPortTx_gates hk)

theorem State.releasePort_gates {p : Nat} (hk : s.SameGates s₀) : (s.releasePort p).SameGates s₀ := by
  unfold releasePort
  split
  · exact wireFree_gates (portSilent_gates (stompLanes_gates (countFirst_gates hk)))
  · exact portSilent_gates hk

theorem State.swingRelease_gates (hk : s.SameGates s₀) : s.swingRelease.SameGates s₀ :=
  updTwin_gates (foldl_gates hk fun _ _ h => releasePort_gates h)

theorem State.demote_gates (hk : s.SameGates s₀) : s.demote.SameGates s₀ := by
  unfold demote
  split
  · exact setRole_gates (swingRelease_gates (hingeSend_gates hk))
  · exact setRole_gates (hingeSend_gates hk)
  · exact setRole_gates (hingeSend_gates hk)
  · exact hk

theorem State.settleFaults_gates (hk : s.SameGates s₀) : s.settleFaults.SameGates s₀ := by
  unfold settleFaults
  extract_lets t now_ fresh u peerReady
  have hu : u.SameGates s₀ := updTwin_gates hk
  split
  · exact hu
  split
  · split
    · exact demote_gates hu
    · exact hu
  · exact demote_gates hu
  · exact demote_gates hu
  · exact hu

end

/-! ### The tick opens the ports (R540) -/

section
variable {s t : State} {p q : Nat}

theorem State.SameGates.gate_ne {f : PortRx → PortRx} (h : t.SameGates (s.updPort q f)) (hne : p ≠ q) : t.gate p = s.gate p :=
  (h p).trans (updPort_gate_ne f hne)

theorem closePort_gate_ne (hne : p ≠ q) : (s.closePort q).gate p = s.gate p :=
  SameGates.gate_ne (settleSignal_gates (txClose_gates (dropFragments_gates (.refl _)))) hne

/-- What an opening does but for the closing that waited for it. -/
theorem portOpened_cases (s : State) (q : Nat) : ∃ u : State,
    u.SameGates (s.updPort q fun r => { r with st := .opened, closeAfterOpen := false }) ∧
    s.portOpened q = if (s.port q).closeAfterOpen then u.closePort q else u := by
  refine ⟨_, ?_, rfl⟩
  split
  · exact fcStart_gates (verifyStart_gates (settleLink_gates (updTwin_gates (settleSignal_gates (updPortTx_gates (.refl _))))))
  · exact settleLink_gates (updTwin_gates (settleSignal_gates (updPortTx_gates (.refl _))))

theorem portOpened_gate_ne (hne : p ≠ q) : (s.portOpened q).gate p = s.gate p := by
  obtain ⟨u, hu, e⟩ := portOpened_cases s q
  rw [e, ← hu.gate_ne hne]
  split
  · exact closePort_gate_ne hne
  · rfl

theorem portOpened_gate (h : (s.port p).closeAfterOpen = false) : (s.portOpened p).gate p = (.opened, false) := by
  obtain ⟨u, hu, e⟩ := portOpened_cases s p
  rw [e, h, if_neg Bool.false_ne_true, hu p, updPort_gate]

/-- Opening a port that is OPEN leaves it OPEN, and opening others leaves it. -/
theorem portOpened_stays (h : s.gate p = (.opened, false)) : (s.portOpened q).gate p = (.opened, false) := by
  by_cases hq : p = q
  · subst hq
    exact portOpened_gate (congrArg Prod.snd h)
  · rw [portOpened_gate_ne hq, h]

theorem foldl_portOpened_stays (l : List Nat) (h : s.gate p = (.opened, false)) :
    (l.foldl (fun s q => s.portOpened q) s).gate p = (.opened, false) := by
  induction l generalizing s with
  | nil => exact h
  | cons q l ih => exact ih (portOpened_stays h)

theorem foldl_portOpened (l : List Nat) (hp : p ∈ l) (h : s.gate p = (.opening, false)) :
    (l.foldl (fun s q => s.portOpened q) s).gate p = (.opened, false) := by
  induction l generalizing s with
  | nil => exact absurd hp List.not_mem_nil
  | cons q l ih =>
    by_cases hq : p = q
    · subst hq
      exact foldl_portOpened_stays l (portOpened_gate (congrArg Prod.snd h))
    · exact ih ((List.mem_cons.mp hp).resolve_left hq) ((portOpened_gate_ne hq).trans h)

theorem opening_listed (h : (s.port p).st = .opening) : p ∈ (s.portRx.filter fun e => e.2.st == .opening).map (·.1) := by
  have hne : s.port p ≠ {} := fun e => by rw [e] at h; exact absurd h (by decide)
  exact List.mem_map.mpr ⟨(p, s.port p), List.mem_filter.mpr ⟨get_mem hne, by simp [h]⟩, rfl⟩

theorem tickFunctions_opened (h : s.gate p = (.opening, false)) : s.tickFunctions.gate p = (.opened, false) := by
  have hrest (u : State) (l : List Nat) : (l.foldl (fun s r => s.ringOpened r) u).hingeTick.SameGates u :=
    hingeTick_gates (foldl_gates (.refl u) fun _ _ h => ringOpened_gates h)
  exact (hrest _ _ p).trans (foldl_portOpened _ (opening_listed (congrArg Prod.fst h)) h)

end

end Sys2Proof.Machine
end

