-- ==== Sys2Proof/Proofs/ClocksAndTicks.lean ====
section
namespace Sys2Proof.Machine
open State

/-! ### What an event leaves: the presentation FIFOs, the rings, and the state of every cluster (R531, R540) -/

/-- The presentation FIFOs, the rings and the state of every cluster are the same. -/
structure State.Sparing (s s₀ : State) : Prop where
  fifos : s.cu.fifos = s₀.cu.fifos
  rings : s.rings = s₀.rings
  clusters : ∀ c, (s.clp c).st = (s₀.clp c).st

section
variable {s s₀ : State}

theorem State.Sparing.refl (s : State) : s.Sparing s := ⟨rfl, rfl, fun _ => rfl⟩

theorem foldl_sparing {α : Type} {f : State → α → State} {l : List α} (hk : s.Sparing s₀)
    (hf : ∀ s a, s.Sparing s₀ → (f s a).Sparing s₀) : (l.foldl f s).Sparing s₀ := by
  induction l generalizing s with
  | nil => exact hk
  | cons a l ih => exact ih (hf _ _ hk)

theorem sparing_mk (hk : s.Sparing s₀) {pending out free regs rows past ctrs onceTick power time ev dict keys masks laneLock
      portRx clusterRx clusterTx portTx shutters quarters twin mem} :
    (State.mk pending out free regs rows past ctrs onceTick power s.clusterPower time ev s.cu dict keys masks laneLock portRx clusterRx
      clusterTx portTx shutters s.rings quarters twin mem).Sparing s₀ := ⟨hk.fifos, hk.rings, hk.clusters⟩

theorem State.setDom_sparing {n : Nat} {d : Domain} (hk : s.Sparing s₀) : (s.setDom n d).Sparing s₀ := sparing_mk hk
theorem State.beginSwitch_sparing {n : Nat} {g : Pwr} (hk : s.Sparing s₀) : (s.beginSwitch n g).Sparing s₀ := sparing_mk hk
theorem State.setReg_sparing {i u : Nat} {v : Word} (hk : s.Sparing s₀) : (s.setReg i u v).Sparing s₀ := sparing_mk hk
theorem State.setSrc_sparing {e : Nat} {q : Source} (hk : s.Sparing s₀) : (s.setSrc e q).Sparing s₀ := sparing_mk hk
theorem State.updTwin_sparing {f : TwinUnit → TwinUnit} (hk : s.Sparing s₀) : (s.updTwin f).Sparing s₀ := sparing_mk hk
theorem State.setPath_sparing {b : Bool} {q : HingePath} (hk : s.Sparing s₀) : (s.setPath b q).Sparing s₀ := sparing_mk hk
theorem State.pathSend_sparing {b : Bool} {m : HingeMsg} (hk : s.Sparing s₀) : (s.pathSend b m).Sparing s₀ := sparing_mk hk

/-- A cluster that keeps its state. -/
theorem State.setClp_sparing {c : Nat} {q : ClusterPower} (h : q.st = (s.clp c).st) (hk : s.Sparing s₀) : (s.setClp c q).Sparing s₀ := by
  refine ⟨hk.fifos, hk.rings, fun i => ?_⟩
  rw [← hk.clusters i]
  by_cases hi : i = c
  · subst hi; rw [show (s.setClp i q).clp i = q from SMap.get_set_self .., h]
  · rw [show (s.setClp c q).clp i = s.clp i from SMap.get_set_ne _ hi]

theorem State.bump_sparing {i u n : Nat} (hk : s.Sparing s₀) : (s.bump i u n).Sparing s₀ := by
  unfold bump bumpRow
  dsimp only
  split
  · exact ⟨hk.fifos, hk.rings, hk.clusters⟩
  · exact sparing_mk hk

theorem State.requestOn_sparing {n : Nat} (hk : s.Sparing s₀) : (s.requestOn n).Sparing s₀ := by
  unfold requestOn
  dsimp only
  repeat' with_reducible first
    | assumption | apply setDom_sparing | apply beginSwitch_sparing | split

theorem State.endSleep_sparing (hk : s.Sparing s₀) : s.endSleep.Sparing s₀ := by
  unfold endSleep
  split
  · exact hk
  · exact foldl_sparing (requestOn_sparing (sparing_mk hk)) fun _ _ h => requestOn_sparing h

theorem State.wakeCluster_sparing {c : Nat} (hk : s.Sparing s₀) : (s.wakeCluster c).Sparing s₀ := by
  unfold wakeCluster
  dsimp only
  split
  · exact requestOn_sparing (requestOn_sparing (requestOn_sparing (setReg_sparing (setClp_sparing rfl hk))))
  · exact setClp_sparing rfl hk
  · exact hk

theorem State.wakeCommon_sparing (hk : s.Sparing s₀) : s.wakeCommon.Sparing s₀ := by
  refine foldl_sparing (endSleep_sparing hk) fun u n hu => ?_
  split
  · exact requestOn_sparing hu
  · exact hu

theorem State.latchFire_sparing {e d : Nat} (hk : s.Sparing s₀) : (s.latchFire e d).1.Sparing s₀ := by
  unfold latchFire
  extract_lets ws ev u wake cs cm woke v w x
  have hv : v.Sparing s₀ := foldl_sparing (sparing_mk hk) fun _ _ h => wakeCluster_sparing h
  have hw : w.Sparing s₀ := by
    unfold w
    split
    · exact wakeCommon_sparing hv
    · exact hv
  unfold x
  dsimp only
  split
  · exact bump_sparing hw
  · exact hw

theorem State.raiseSource_sparing {e d : Nat} (hk : s.Sparing s₀) : (s.raiseSource e d).Sparing s₀ := by
  unfold raiseSource
  dsimp only
  split
  · exact hk
  · split <;> exact setSrc_sparing (bump_sparing hk)

theorem State.raise_sparing {e d : Nat} (hk : s.Sparing s₀) : (s.raise e d).Sparing s₀ := by
  unfold raise
  dsimp only
  split
  · split
    · exact raiseSource_sparing (latchFire_sparing (raiseSource_sparing (latchFire_sparing hk)))
    · exact sparing_mk (raiseSource_sparing (latchFire_sparing hk))
  · exact raiseSource_sparing (latchFire_sparing hk)

theorem State.hingeSend_sparing {m : HingeMsg} (hk : s.Sparing s₀) : (s.hingeSend m).Sparing s₀ := by
  unfold hingeSend
  split
  · exact foldl_sparing hk fun _ _ h => pathSend_sparing h
  · exact hk

theorem State.raiseOnce_sparing {e d : Nat} (hk : s.Sparing s₀) : (s.raiseOnce e d).Sparing s₀ := by
  have hn : (s.noteEcc e).Sparing s₀ := by
    unfold noteEcc
    split
    · exact sparing_mk hk
    · exact hk
  unfold raiseOnce
  dsimp only
  split
  · exact hn
  · exact raise_sparing (sparing_mk hn)

theorem State.setRole_sparing {r : Role} (hk : s.Sparing s₀) : (s.setRole r).Sparing s₀ := by
  unfold setRole
  dsimp only
  repeat' with_reducible first
    | assumption | apply raise_sparing | apply bump_sparing | apply updTwin_sparing | split

theorem State.settleStep_sparing (hk : s.Sparing s₀) : s.settleStep.Sparing s₀ := by
  unfold settleStep
  repeat' with_reducible first
    | assumption | apply setRole_sparing | split

theorem State.streamResend_sparing (hk : s.Sparing s₀) : s.streamResend.Sparing s₀ := by
  unfold streamResend
  split
  · exact foldl_sparing hk fun _ _ h => hingeSend_sparing h
  · exact hk

theorem State.pathDown_sparing {b : Bool} (hk : s.Sparing s₀) : (s.pathDown b).Sparing s₀ := by
  unfold pathDown
  dsimp only
  repeat' with_reducible first
    | assumption | apply settleStep_sparing | apply streamResend_sparing | apply raise_sparing | apply raiseOnce_sparing
    | apply setPath_sparing | apply updTwin_sparing | split

theorem State.closeHinge_sparing (hk : s.Sparing s₀) : s.closeHinge.Sparing s₀ := by
  unfold closeHinge
  exact updTwin_sparing (pathDown_sparing (pathDown_sparing hk))

end

/-! ### The scanner of half ranges (R464) -/

/-- What is appended stays: the event that it may raise leaves the FIFOs. -/
theorem counterHalfPresent_appends {dt idx sub row : Nat} {s : State} (hc : s.clocked = true)
    (hp : SMap.get false s.cu.pending (slotKey idx sub row) = true)
    (hn : slotKey idx sub row ∉ SMap.get [] s.cu.fifos (queueOf (slotKey idx sub row)))
    (hr : (SMap.get [] s.cu.fifos (queueOf (slotKey idx sub row))).length < 64) (hh : s.cu.held = none) :
    Answers (execCounterHalfPresent dt idx sub row s) fun t => SMap.get [] t.cu.fifos (queueOf (slotKey idx sub row))
      = SMap.get [] s.cu.fifos (queueOf (slotKey idx sub row)) ++ [slotKey idx sub row] := by
  unfold execCounterHalfPresent
  extract_lets u k q fifo heldOut m v
  refine answers_neg ?_ (answers_next ?_)
  · have hout : heldOut = false := by simp [heldOut, u, hh]
    simp [hout, u, k, q, fifo, hc, hp, hn, Nat.not_le.mpr hr]
  · have hgrew : (v.fifoGrew (halfEvent q) fifo.length).Sparing v := by
      unfold fifoGrew sampleLevel
      split
      · split
        · exact raise_sparing (.refl v)
        · exact .refl v
      · exact .refl v
    rw [hgrew.fifos]
    exact SMap.get_set_self ..

/-! ### The clocks stop (R99) -/

section
variable {s s₀ : State} {p q : Nat}

theorem State.closeShutter_gates {b : Bool} (hk : s.SameGates s₀) : (s.closeShutter p b).SameGates s₀ := by
  unfold closeShutter
  dsimp only
  split
  · exact hk
  split
  · exact (shutCause_quiet (.refl _)).gates (gates_mk hk)
  · exact gates_mk hk

theorem setPort_gate_ne {r : PortRx} (h : p ≠ q) : (s.setPort q r).gate p = s.gate p := updPort_gate_ne (fun _ => r) h

theorem setPort_gate (p : Nat) (r : PortRx) : (s.setPort p r).gate p = (r.st, r.closeAfterOpen) := updPort_gate p fun _ => r

/-- A port whose clocks stop keeps what it shows of its causes. -/
theorem portStopped_gates (h : (s.port p).st ≠ .closed) :
    ∃ (u : State) (cause : Word), u.SameGates s ∧ (s.portStopped p).SameGates (u.setPort p { cause }) := by
  unfold portStopped
  rw [if_neg h]
  extract_lets l v w lost x y cause z
  have hv : v.SameGates s := by
    unfold v
    split
    · exact flushOnDown_gates (.refl s)
    · exact .refl s
  have hw : w.SameGates s := by
    unfold w
    split
    · exact rxCause_gates hv
    · exact hv
  have hx : x.SameGates s := by
    unfold x
    split
    · exact hw
    · exact bump_gates hw
  exact ⟨y, cause, setSignal_gates (landFcLate_gates hx), settlePort_gates (updPortTx_gates (.refl _))⟩

theorem portStopped_gate_ne (hne : p ≠ q) : (s.portStopped q).gate p = s.gate p := by
  by_cases h : (s.port q).st = .closed
  · rw [portStopped, if_pos h]
  · obtain ⟨u, cause, hu, e⟩ := portStopped_gates h
    rw [e p, setPort_gate_ne hne, hu p]

theorem portStopped_closed (s : State) (p : Nat) : ((s.portStopped p).port p).st = .closed := by
  by_cases h : (s.port p).st = .closed
  · rw [portStopped, if_pos h, h]
  · obtain ⟨u, cause, hu, e⟩ := portStopped_gates h
    exact congrArg Prod.fst ((e p).trans (setPort_gate p _))

theorem portStopped_stays (h : (s.port p).st = .closed) : ((s.portStopped q).port p).st = .closed := by
  by_cases hq : p = q
  · subst hq
    exact portStopped_closed s p
  · exact (congrArg Prod.fst (portStopped_gate_ne hq)).trans h

/-- Every port that is listed or CLOSED already is CLOSED after a stop of those listed. -/
theorem foldl_portStopped (l : List Nat) (h : p ∈ l ∨ (s.port p).st = .closed) :
    ((l.foldl (fun s q => s.portStopped q) s).port p).st = .closed := by
  induction l generalizing s with
  | nil => exact h.resolve_left List.not_mem_nil
  | cons q l ih =>
    refine ih ?_
    by_cases hq : p = q
    · subst hq
      exact .inr (portStopped_closed s p)
    · exact h.imp (fun hm => (List.mem_cons.mp hm).resolve_left hq) portStopped_stays

theorem port_listed_or_closed (s : State) (p : Nat) : p ∈ s.portRx.map (·.1) ∨ (s.port p).st = .closed := by
  by_cases h : s.port p = {}
  · exact .inr (by rw [h])
  · exact .inl (List.mem_map.mpr ⟨_, get_mem h, rfl⟩)

/-- A ring whose clocks stop. -/
def State.ringStopped (s : State) (r : Nat) : State :=
  if (s.ring r).st = .closed then s else (s.setRing r { cause := (s.ring r).cause }).ringCause r 6

theorem ringCause_st (s : State) (r bit x : Nat) : ((s.ringCause r bit).ring x).st = (s.ring x).st := by
  have hset : ((s.setRing r { s.ring r with cause := (s.ring r).cause.setBit bit true }).ring x).st = (s.ring x).st := by
    by_cases hx : x = r
    · subst hx; rw [ring, setRing, SMap.get_set_self]
    · exact congrArg Ring.st (SMap.get_set_ne _ hx)
  unfold ringCause
  dsimp only
  split
  · rw [ring, raise_rings]; exact hset
  · exact hset

theorem ringStopped_stays {r x : Nat} (h : x = r ∨ (s.ring x).st = .closed) : ((s.ringStopped r).ring x).st = .closed := by
  unfold ringStopped
  split
  · next hr => exact h.elim (fun e => e ▸ hr) id
  · rw [ringCause_st]
    by_cases hx : x = r
    · subst hx; rw [ring, setRing, SMap.get_set_self]
    · exact (congrArg Ring.st (SMap.get_set_ne _ hx)).trans (h.resolve_left hx)

theorem foldl_ringStopped {x : Nat} (l : List Nat) (h : x ∈ l ∨ (s.ring x).st = .closed) :
    ((l.foldl (fun s r => s.ringStopped r) s).ring x).st = .closed := by
  induction l generalizing s with
  | nil => exact h.resolve_left List.not_mem_nil
  | cons r l ih =>
    refine ih ?_
    by_cases hx : x = r
    · exact .inr (ringStopped_stays (.inl hx))
    · exact h.imp (fun hm => (List.mem_cons.mp hm).resolve_left hx) fun hc => ringStopped_stays (.inr hc)

theorem ring_listed_or_closed (s : State) (r : Nat) : r ∈ s.rings.map (·.1) ∨ (s.ring r).st = .closed := by
  by_cases h : s.ring r = {}
  · exact .inr (by rw [h])
  · exact .inl (List.mem_map.mpr ⟨_, get_mem h, rfl⟩)

theorem State.ringStopped_gates {r : Nat} (hk : s.SameGates s₀) : (s.ringStopped r).SameGates s₀ := by
  unfold ringStopped
  split
  · exact hk
  · exact (ringCause_quiet (.refl _)).gates (setRing_gates hk)

/-- The clusters as a stop of the clocks leaves them: each keeps how long its last wake took. -/
def clustersStopped (m : SMap ClusterPower) : SMap ClusterPower :=
  m.foldl (fun n e => SMap.set {} n e.1 { wakeLatency := e.2.wakeLatency }) []

theorem clustersStopped_closed (m : SMap ClusterPower) (c : Nat) : (SMap.get {} (clustersStopped m) c).st = .closed := by
  refine List.foldlRecOn (motive := fun n : SMap ClusterPower => (SMap.get {} n c).st = .closed) m _ rfl fun n hn e _ => ?_
  rw [SMap.get_set]
  split
  · rfl
  · exact hn

/-- A stop of the functions closes every port, ring and cluster. -/
theorem stopFunctions_closed (s : State) : (∀ p, (s.stopFunctions.port p).st = .closed) ∧ (∀ r, (s.stopFunctions.ring r).st = .closed) ∧
    ∀ c, (s.stopFunctions.clp c).st = .closed := by
  unfold stopFunctions
  extract_lets u v w x e y z clusterPower a b
  have hx : x.SameGates u := by
    have hv : v.SameGates u := foldl_gates (.refl u) fun _ _ h => closeShutter_gates h
    have hw : w.SameGates u := foldl_gates hv fun _ _ h => ringStopped_gates h
    exact foldl_gates hw fun _ _ h => gates_mk h
  have hrings : x.rings = w.rings := List.foldlRecOn (motive := fun t : State => t.rings = w.rings) _ _ rfl fun _ h _ _ => h
  clear_value x
  have ha : a.SameGates u ∧ a.rings = w.rings := ⟨gates_mk hx, hrings⟩
  have hgates : (b.updTwin fun t => { t with hinge := .closed }).SameGates u := updTwin_gates (closeHinge_gates ha.1)
  have hspare : (b.updTwin fun t => { t with hinge := .closed }).Sparing a := updTwin_sparing (closeHinge_sparing (.refl a))
  refine ⟨fun p => ?_, fun r => ?_, fun c => ?_⟩
  · exact (congrArg Prod.fst (hgates p)).trans (foldl_portStopped _ (port_listed_or_closed s p))
  · rw [ring, hspare.rings, ha.2]
    exact foldl_ringStopped _ (ring_listed_or_closed v r)
  · rw [hspare.clusters c]
    exact clustersStopped_closed z.clusterPower c

end

/-- The PLL loses lock: the functions stop, and time is not set. -/
theorem pllLossOfLock_answers {s : State} {dt : Nat} (hc : s.clocked = true) :
    AnswersSettled (execPllLossOfLock dt s) fun t => t.clocked = false ∧ t.time.st = .unset ∧ t.time.ppsOut = false ∧
      (∀ p, (t.port p).st = .closed) ∧ (∀ r, (t.ring r).st = .closed) ∧ ∀ c, (t.clp c).st = .closed := by
  unfold execPllLossOfLock
  extract_lets u v w
  refine answersSettled_neg (by simp [u, hc]) (answersSettled ?_)
  obtain ⟨x, ⟨hport, hring, hclp⟩, hv⟩ : ∃ x : State, ((∀ p, (x.port p).st = .closed) ∧ (∀ r, (x.ring r).st = .closed) ∧
      ∀ c, (x.clp c).st = .closed) ∧ v = x.setTimeState .unset := ⟨_, stopFunctions_closed u.dropTimeWrites, rfl⟩
  have hw : (x.setTimeState .unset).raise 0x826 = w := hv ▸ rfl
  have htime : w.time = (x.setTimeState .unset).time := hw ▸ raise_time ..
  have hports : w.SameGates x := hw ▸ raise_gates (gates_mk (.refl x))
  have hspare : w.Sparing x := hw ▸ raise_sparing (sparing_mk (.refl x))
  clear_value w
  refine ⟨by simp [clocked], ?_, ?_, fun p => ?_, fun r => ?_, fun c => ?_⟩
  · exact congrArg TimeUnit.st htime
  · exact (congrArg TimeUnit.ppsOut htime).trans (by simp [setTimeState])
  · exact (congrArg Prod.fst (hports p)).trans (hport p)
  · exact (congrArg (fun m => (SMap.get {} m r).st) hspare.rings).trans (hring r)
  · exact (hspare.clusters c).trans (hclp c)

/-! ### The clocks return (R97, R98, R539) -/

theorem settleRestore_eq_self {s : State} {n : Nat} (h : (s.dom n).phase ≠ .restoring) : s.settleRestore n = s := if_neg fun e => h e.1

/-- TIME alone waited for the PLL: once it is back, nothing is left to do. -/
theorem timeUp_eq {s t : State} (ht : s.settleRestore domTime = t)
    (h : ∀ n, (t.dom n).phase ≠ .restoring ∧ (t.dom n).phase ≠ .waitTime) : s.timeUp = t := by
  unfold timeUp
  extract_lets u v
  have hu : u = t := ht
  have hv : v = t := by
    unfold v
    rw [hu]
    exact List.foldl_fixed' (fun n => settleRestore_eq_self (h n).1) _
  rw [hv]
  exact List.foldl_fixed' (fun n => if_neg fun e => (h n).2 e.1) _

/-- With no event watched the Night Latch wakes nothing (R531). -/
theorem latchFire_unwatched {s : State} (h : s.regB 0x0700 0x10 = false) (e d : Nat) : ∃ ev, s.latchFire e d = ({ s with ev }, false, 0) := by
  unfold latchFire
  simp [h]

theorem raiseSource_power (s : State) (e d : Nat) : (s.raiseSource e d).power = s.power := by
  unfold raiseSource
  dsimp only
  split
  · rfl
  · split <;> exact bump_power ..

theorem raise_power_unwatched {s : State} (h : s.regB 0x0700 0x10 = false) (e d : Nat) : (s.raise e d).power = s.power := by
  obtain ⟨ev, hf⟩ := latchFire_unwatched h e d
  unfold raise
  rw [hf]
  exact raiseSource_power ..

/-- TIME is usable again, `adv` grains after the always-on counter took over (R98): what `timeReturn` does for the grains that it
counted. With the grains a variable, no proof about it meets their arithmetic. -/
def State.timeReturnBy (s : State) (fromOff : Bool) (adv : Nat) : State :=
  let t := s.time
  let s := { s with time := { t with acc := t.acc + BitVec.ofNat 116 adv, run := t.run + BitVec.ofNat 96 adv, aoCount := 0,
                                     restored := true, ticks := if fromOff then 0 else t.ticks
                                     tickAt := if fromOff then 0 else t.tickAt } }
  let s := { s with time := { s.time with secSeen := s.devSeconds } }
  if s.time.st = .unset then s else (s.setTimeState .freerun).raise 0x820

theorem timeReturn_by (s : State) (fromOff : Bool) : ∃ adv, s.timeReturn fromOff = s.timeReturnBy fromOff adv := ⟨_, rfl⟩

theorem timeReturnBy_cases (s : State) (fromOff : Bool) (adv : Nat) : ∃ t : TimeUnit, t.pllLocked = s.time.pllLocked ∧
    (s.timeReturnBy fromOff adv = { s with time := t } ∨ s.timeReturnBy fromOff adv = ({ s with time := t } : State).raise 0x820) := by
  unfold timeReturnBy
  extract_lets t u m v
  by_cases h : v.time.st = .unset
  · rw [if_pos h]
    exact ⟨v.time, rfl, .inl rfl⟩
  · rw [if_neg h]
    exact ⟨(v.setTimeState .freerun).time, rfl, .inr rfl⟩

theorem timeReturn_locked (s : State) (fromOff : Bool) : (s.timeReturn fromOff).time.pllLocked = s.time.pllLocked := by
  obtain ⟨adv, e⟩ := timeReturn_by s fromOff
  obtain ⟨t, ht, h | h⟩ := timeReturnBy_cases s fromOff adv
  · rw [e, h, ← ht]
  · rw [e, h, raise_time, ← ht]

theorem timeReturn_power {s : State} (fromOff : Bool) (hr : s.regB 0x0700 0x10 = false) : (s.timeReturn fromOff).power = s.power := by
  obtain ⟨adv, e⟩ := timeReturn_by s fromOff
  obtain ⟨t, ht, h | h⟩ := timeReturnBy_cases s fromOff adv
  · rw [e, h]
  · rw [e, h]
    exact raise_power_unwatched (s := { s with time := t }) hr _ _

theorem domainBack_time (s : State) :
    s.domainBack domTime = (s.setDom domTime { s.dom domTime with isolated := false }).timeReturn (s.dom domTime).fromOff := by
  unfold domainBack
  dsimp only
  rw [if_neg (by decide), if_pos rfl]

/-- The end of a change of TIME, with nothing latched and nothing that waits for it. -/
theorem domainDone_time {s : State} (hl : (s.dom domTime).latched = none) (hw : s.power.waiting = none) (hq : s.power.sequencer = .rest)
    (hb : s.power.boot ≠ .sleep) (hs : s.power.slept = []) :
    s.domainDone domTime = s.setDom domTime { s.dom domTime with phase := .idle, latched := none } := by
  generalize ht : s.setDom domTime { s.dom domTime with phase := .idle, latched := none } = t
  have hsleep : t.settleSleep = t := by
    rw [← ht]
    exact (if_neg hb).trans (if_neg fun e => by simp [setDom, hs] at e)
  have hboot : t.settleBoot = t := by
    unfold settleBoot
    rw [show t.power.sequencer = .rest from ht ▸ hq]
  have hwait : t.power.waiting = none := ht ▸ hw
  unfold domainDone
  simp only [hl, ht, if_neg (show ¬domTime < 64 by decide), hsleep, hboot, hwait]

/-- TIME that was restoring is back. -/
structure State.TimeBack (s t : State) : Prop where
  clocked : t.clocked = true
  on : t.isOn domTime = true
  idle : (t.dom domTime).phase = .idle
  others : ∀ n, n ≠ domTime → t.dom n = s.dom n

/-- When TIME is back and no other domain waits for the PLL, none does. -/
theorem State.TimeBack.rests {s t : State} (h : s.TimeBack t)
    (ho : ∀ n, n ≠ domTime → (s.dom n).phase ≠ .restoring ∧ (s.dom n).phase ≠ .waitTime) (n : Nat) :
    (t.dom n).phase ≠ .restoring ∧ (t.dom n).phase ≠ .waitTime := by
  by_cases hn : n = domTime
  · subst hn
    rw [h.idle]
    exact ⟨by decide, by decide⟩
  · rw [h.others n hn]
    exact ho n hn

theorem settleRestore_time {s : State} (hc : s.clocked = true) (hp : (s.dom domTime).phase = .restoring) (hl : (s.dom domTime).latched = none)
    (hw : s.power.waiting = none) (hq : s.power.sequencer = .rest) (hb : s.power.boot ≠ .sleep) (hs : s.power.slept = [])
    (hr : s.regB 0x0700 0x10 = false) : s.TimeBack (s.settleRestore domTime) := by
  have hack : (s.dom domTime).ack = .on ∧ s.time.pllLocked = true := by simpa [State.clocked] using hc
  generalize hu : s.domainBack domTime = u
  have hpow : u.power = (s.setDom domTime { s.dom domTime with isolated := false }).power := by
    rw [← hu, domainBack_time]
    exact timeReturn_power _ hr
  have hlock : u.time.pllLocked = true := by
    rw [← hu, domainBack_time, timeReturn_locked]
    exact hack.2
  have hdom (n : Nat) : u.dom n = (s.setDom domTime { s.dom domTime with isolated := false }).dom n := by
    rw [dom, hpow]
    rfl
  have htime : u.dom domTime = { s.dom domTime with isolated := false } := (hdom _).trans (dom_setDom ..)
  have hdone : s.settleRestore domTime = u.setDom domTime { u.dom domTime with phase := .idle, latched := none } := by
    rw [settleRestore, if_pos ⟨hp, hc⟩, hu]
    exact domainDone_time (by rw [htime]; exact hl) (by rw [hpow]; exact hw) (by rw [hpow]; exact hq) (by rw [hpow]; exact hb)
      (by rw [hpow]; exact hs)
  have hself : (s.settleRestore domTime).dom domTime = { s.dom domTime with isolated := false, phase := .idle, latched := none } := by
    rw [hdone, dom_setDom, htime]
  refine ⟨?_, ?_, ?_, fun n hn => ?_⟩
  · unfold State.clocked
    rw [hself, hdone]
    simp [hack.1, setDom, hlock]
  · unfold isOn
    rw [hself]
    simp [hack.1]
  · rw [hself]
  · rw [hdone]
    refine Eq.trans (SMap.get_set_ne _ hn) ((hdom n).trans (SMap.get_set_ne _ hn))

/-- The PLL has locked, and ref_clk is there. -/
def State.pllUp (s : State) : State := { s with time := { s.time with pllLocked := true, refPresent := true } }

theorem pllUp_clocked {s : State} {dt : Nat} (h : (s.dom domTime).ack = .on) : (s.elapse dt).pllUp.clocked = true := by
  have hd : (s.elapse dt).pllUp.dom domTime = s.dom domTime := rfl
  rw [clocked, hd, h]
  rfl

theorem elapse_pllLocked (s : State) (dt : Nat) : (s.elapse dt).time.pllLocked = s.time.pllLocked :=
  (congrArg TimeUnit.pllLocked (elapse_settings s dt) :)

/-- The PLL locks while TIME is ON. -/
theorem pllLock_answers {s : State} {dt : Nat} {P : State → Prop} (ha : (s.dom domTime).ack = .on) (hl : s.time.pllLocked = false)
    (h : P (s.elapse dt).pllUp.timeUp) :
    AnswersSettled (execPllLock dt s) P :=
  answersSettled_neg (by simp [ha, elapse_pllLocked, hl]) (answersSettled h)

/-! ### The management tick (R15, R123) -/

/-- With no write on its way a tick lands none. -/
theorem landDue_nil {s : State} (h : s.dict.landing = []) : s.landDue = s := by
  unfold landDue
  rw [h]
  rfl

/-- A management tick whose cycles have passed. -/
theorem managementTick_opens {s : State} {dt : Nat} {env : TickEnv} (hc : s.clocked = true) (hat : 2 ^ 21 ≤ (s.elapse dt).time.tickAt)
    (hl : s.dict.landing = []) :
    Answers (execManagementTick dt env s) fun t => t.time.ticks = s.time.ticks + 1 ∧ t.time.refPresent = env.refPresent ∧
      t.time.tickAt = (s.elapse dt).time.tickAt - 2 ^ 21 ∧
      ∀ p, (s.port p).st = .opening → (s.port p).closeAfterOpen = false → (t.port p).st = .opened := by
  unfold execManagementTick
  extract_lets u _ t f g h i
  refine answers_neg (by simpa [u, hc, tickCycles] using hat) (answers_next ?_)
  have hf : f.Grid t ∧ f.SameGates t.tickFunctions :=
    ⟨flipBanks_grid (reseed_grid (tickFunctions_grid (.refl t))), flipBanks_gates (reseed_gates (.refl _))⟩
  have hg : g.time = f.time ∧ g.SameGates f := by
    have hb : (f.bump 0x0200 0x0D env.canErrs).dict.landing = [] := (bump_grid hf.1).landing.trans hl
    unfold g
    rw [landDue_nil hb]
    split
    · exact ⟨(bump_grid (.refl f)).time, bump_gates (.refl f)⟩
    · exact ⟨rfl, .refl f⟩
  have hh : h.time = g.time ∧ h.SameGates g := by
    unfold h
    refine ⟨(settleFaults_apart (.refl _)).time.trans ?_, settleFaults_gates ?_⟩
    · split
      · exact (keyUpsets_grid (.refl g)).time
      · rfl
    · split
      · exact keyUpsets_gates (.refl g)
      · exact .refl g
  have hi : i.time = h.time ∧ i.SameGates h :=
    ⟨(sendHealth_grid (settleStep_grid (forgetPast_grid (.refl h)))).time,
      sendHealth_gates (settleStep_gates (forgetPast_gates (.refl h)))⟩
  generalize hv : (if i.streamRuns = true then i.streamSend (StreamMsg.digestMark i.streamDigest false) else i) = v
  have hv : v.time = i.time ∧ v.SameGates i := by
    rw [← hv]
    split
    · exact ⟨(streamSend_grid (.refl i)).time, streamSend_gates (.refl i)⟩
    · exact ⟨rfl, .refl i⟩
  have htime : v.time = t.time := hv.1.trans (hi.1.trans (hh.1.trans (hg.1.trans hf.1.time)))
  refine ⟨?_, ?_, ?_, fun p hp hcl => ?_⟩
  · rw [htime]
    exact congrArg (· + 1) (elapse_ticks s dt)
  · rw [htime]
  · rw [htime]
    rfl
  · have ht : t.gate p = (.opening, false) := Prod.ext hp hcl
    have : v.gate p = (.opened, false) :=
      (hv.2 p).trans ((hi.2 p).trans ((hh.2 p).trans ((hg.2 p).trans ((hf.2 p).trans (tickFunctions_opened ht)))))
    exact congrArg Prod.fst this

/-! ### The obligation -/

/-- Settles O28: the lock by `timeUp_eq` and `settleRestore_time`, the loss by `stopFunctions_closed`, the tick by
`managementTick_opens`, and the scanner by `counterHalfPresent_appends`. -/
theorem clocksAndTicks : Obligations.ClocksAndTicks := by
  refine ⟨?lock, ?restore, ?loss, ?tick, ?early, ?scan⟩
  case lock =>
    intro dt s ha hl h
    refine pllLock_answers ha hl ?_
    rw [timeUp_eq (settleRestore_eq_self (s := (s.elapse dt).pllUp) (h domTime).1) h]
    exact ⟨pllUp_clocked ha, rfl⟩
  case restore =>
    intro dt s ha hl hp hlatched hothers hw hq hb hs hr
    have hback : (s.elapse dt).pllUp.TimeBack ((s.elapse dt).pllUp.settleRestore domTime) :=
      settleRestore_time (pllUp_clocked ha) hp hlatched hw hq hb hs hr
    refine pllLock_answers ha hl ?_
    rw [timeUp_eq rfl (hback.rests hothers)]
    exact ⟨hback.clocked, hback.on, hback.idle⟩
  case loss => exact fun dt s hc => pllLossOfLock_answers hc
  case tick => exact fun dt env s hc hat hl => managementTick_opens hc hat hl
  case early =>
    intro dt env s h
    exact answers_pos (c := (!(s.elapse dt).clocked) = true ∨ _) (by simpa [tickCycles] using h) (answers_next rfl)
  case scan => exact fun dt idx sub row s hc _ _ hp hn hr hh => counterHalfPresent_appends hc hp hn hr hh

end Sys2Proof.Machine
end

