-- ==== Sys2Proof/Proofs/PortClears.lean ====
section
namespace Sys2Proof.Machine
open State

/-! ### Clears of a port's causes (R128, R329, R357, R369) -/

theorem port_updPort_ne {s : State} {p q : Nat} (f : PortRx → PortRx) (h : q ≠ p) : (s.updPort p f).port q = s.port q :=
  SMap.get_set_ne _ h

theorem portTxOf_updPortTx_ne {s : State} {p q : Nat} (f : PortTx → PortTx) (h : q ≠ p) : (s.updPortTx p f).portTxOf q = s.portTxOf q :=
  SMap.get_set_ne _ h

theorem shut_setShut_ne {s : State} {p q : Nat} (w : Shutter) (h : q ≠ p) : (s.setShut p w).shut q = s.shut q :=
  SMap.get_set_ne _ h

/-- A write of a WO object that no condition refuses answers what its unit's effect leaves. -/
theorem answers_wo {s : State} {ix : Ix} {o : ObjInfo} {idx : Nat} {v : Word} {q : State → Prop} (dt : Nat) (via : Master) (hr : s.Ready)
    (hc : classify idx = some ix) (ho : (objsOf ix).find? (fun i => i.sub == o.sub) = some o) (hs : o.sub ≠ 0) (ha : o.acc = .wo)
    (hty : o.ty = .u32 ∨ o.ty = .u8) (hf : (o.ty.fits v.toNat && o.ok v.toNat) = true) (hw : ∀ c t, ix ≠ .window c t)
    (hk : 0x0600 < idx ∧ idx < 0x1800) (hl : landsAtOnce idx o.sub = false)
    (hcond : ∀ landing, (s.elapse dt).objCond (s.elapse dt).landedVal landing ix idx o.sub (storedAs ix o.sub v) = true)
    (hq : ∀ x : Sent, q (((s.elapse dt).said x).actObj via.transport [] ix idx o.sub (storedAs ix o.sub v) none)) :
    AnswersSettled (s.masterWrite dt via idx o.sub v) q := by
  have htakes : (s.elapse dt).Takes ix o idx v :=
    { acc := .inr (.inl ha)
      plain := by rcases hty with h | h <;> rw [h] <;> decide
      window := hw
      keys := by omega
      fits := hf
      closed := fun h => absurd (ha.symm.trans h) (by decide)
      accept := hcond false
      land := hcond true
      late := hl
      anytime := by omega }
  refine answers_write dt via hr hc ho hs rfl htakes fun x _ => ?_
  rw [objEffect_plain _ _ _ (by rcases hty with h | h <;> rw [h] <;> exact fun e => absurd e.1 (by decide))]
  exact hq x

/-- Settles O22: each write lands as its unit's own update of the port. -/
theorem portClears : Obligations.PortClears := by
  intro dt via p v s hr hp
  refine ⟨fun hv => ?_, fun hlow hhigh => ?_⟩
  · have hfit : ObjType.fits .u32 v.toNat = true := by simpa [ObjType.fits] using hv
    refine ⟨?_, ?_, ?_⟩
    · exact answers_wo (o := woObj 0x18 "RX_CAUSE_CLR" .u32) dt via hr (classify_mac hp) rfl (by decide) rfl (.inl rfl)
        (by simpa [woObj] using hfit) (fun _ _ h => Ix.noConfusion h) (by omega) (landsAtOnce_low (by omega)) (fun _ => rfl)
        fun x => ⟨port_updPort .., fun q h => port_updPort_ne _ h⟩
    · exact answers_wo (o := woObj 0x26 "TX_CAUSE_CLR" .u32) dt via hr (classify_mac hp) rfl (by decide) rfl (.inl rfl)
        (by simpa [woObj] using hfit) (fun _ _ h => Ix.noConfusion h) (by omega) (landsAtOnce_low (by omega)) (fun _ => rfl)
        fun x => ⟨portTxOf_updPortTx .., fun q h => portTxOf_updPortTx_ne _ h⟩
    · exact answers_wo (o := woObj 0x1D "SHUTTER_CAUSE_CLR" .u32) dt via hr (classify_gate hp) rfl (by decide) rfl (.inl rfl)
        (by simpa [woObj] using hfit) (fun _ _ h => Ix.noConfusion h) (by omega) (by simp [landsAtOnce, woObj]) (fun _ => rfl)
        fun x => ⟨shut_setShut .., fun q h => shut_setShut_ne _ h⟩
  · exact answers_wo (o := woObj 0x22 "TX_SILL_SET" .u8 (inRange 1 252)) dt via hr (classify_mac hp) rfl (by decide) rfl (.inr rfl)
      (by simp [woObj, ObjType.fits, inRange]; omega) (fun _ _ h => Ix.noConfusion h) (by omega) (landsAtOnce_low (by omega)) (fun _ => rfl)
      fun x => portTxOf_updPortTx ..

end Sys2Proof.Machine
end

