-- ==== Sys2Proof/Proofs/MacControl.lean ====
section
namespace Sys2Proof.Machine
open State

/-! ### MAC control frames and the pause timers (R151–R154) -/

/-- Timer `k` of port `p` (R152). -/
def State.timer (s : State) (p k : Nat) : Option Word := SMap.get none (s.port p).timers k

/-- A value of `q` quanta: the end of the timer, or none at 0 (R152). -/
def State.quanta (s : State) (p q : Nat) : Option Word := if q = 0 then none else some (s.timerEnd p q)

section
variable {p : Nat} {s u : State} {bs : Bytes}

theorem bumpPort_port (s : State) (p k n q : Nat) : (s.bumpPort p k n).port q = s.port q := (bumpRow_beside (.refl s)).port q

theorem settlePort_port (s : State) (p q : Nat) : (s.settlePort p).port q = s.port q := by
  rw [State.port, (settlePort_quiet (.refl s)).portRx, State.port]

theorem setTimer_timer (s : State) (p k i : Nat) (v : Option Word) :
    (s.setTimer p k v).timer p i = if i = k then v else s.timer p i := by
  unfold setTimer State.timer
  rw [port_updPort]
  exact SMap.get_set ..

theorem bumpPort_timer (s : State) (p k n i : Nat) : (s.bumpPort p k n).timer p i = s.timer p i := by
  rw [State.timer, bumpPort_port, State.timer]

theorem settlePort_timer (s : State) (p i : Nat) : (s.settlePort p).timer p i = s.timer p i := by
  rw [State.timer, settlePort_port, State.timer]

theorem timerEnd_congr (ht : u.time = s.time) (hr : u.regs = s.regs) (p q : Nat) : u.timerEnd p q = s.timerEnd p q := by
  unfold timerEnd runTime portRate State.regN reg
  rw [ht, hr]

theorem setTimer_clusterRx (s : State) (p k : Nat) (v : Option Word) : (s.setTimer p k v).clusterRx = s.clusterRx := rfl
theorem setTimer_time (s : State) (p k : Nat) (v : Option Word) : (s.setTimer p k v).time = s.time := rfl
theorem setTimer_regs (s : State) (p k : Nat) (v : Option Word) : (s.setTimer p k v).regs = s.regs := rfl

/-- A frame that FC_MODE gives no meaning is counted and discarded (R151). -/
theorem actControl_off (h : s.regN (0x1C00 + p) 1 = 0) : s.actControl p bs = s.bumpPort p Pc.rxMacCtrlDrop := by
  unfold actControl
  simp [h]

/-- A PAUSE frame for the port loads its timer, or ends it (R152, R153). -/
theorem actControl_pause (hm : s.regN (0x1C00 + p) 1 = 1) (ho : beAt bs 14 2 = 1)
    (ha : daOf bs = 0x0180C2000001 ∨ bs.take 6 = s.stationAddr p) :
    (s.actControl p bs).timer p 8 = s.quanta p (beAt bs 16 2) ∧ (s.actControl p bs).clusterRx = s.clusterRx := by
  unfold actControl
  extract_lets mode op mine q
  rw [if_pos ⟨ha, hm, ho⟩]
  unfold quanta
  split
  · rw [settlePort_timer, bumpPort_timer, setTimer_timer, settlePort_clusterRx, bumpPort_clusterRx, setTimer_clusterRx]
    exact ⟨if_pos rfl, rfl⟩
  · rw [settlePort_timer, bumpPort_timer, setTimer_timer, settlePort_clusterRx, bumpPort_clusterRx, setTimer_clusterRx]
    exact ⟨if_pos rfl, rfl⟩

/-- What a PFC frame does to priority `n` (R152, R153). -/
def State.pfcPrio (p : Nat) (bs : Bytes) (s : State) (n : Nat) : State :=
  if !(beAt bs 17 1).testBit n then s
  else if beAt bs (18 + 2 * n) 2 = 0 then (s.setTimer p n none).bumpPort p Pc.rxPfcResume
  else (s.setTimer p n (some (s.timerEnd p (beAt bs (18 + 2 * n) 2)))).bumpPort p (Pc.rxPfc + n)

theorem pfcPrio_cases (s : State) (p : Nat) (bs : Bytes) (n : Nat) :
    (∀ i, (s.pfcPrio p bs n).timer p i = if i = n ∧ (beAt bs 17 1).testBit n then s.quanta p (beAt bs (18 + 2 * n) 2) else s.timer p i) ∧
    (s.pfcPrio p bs n).clusterRx = s.clusterRx ∧ (s.pfcPrio p bs n).time = s.time ∧ (s.pfcPrio p bs n).regs = s.regs := by
  unfold pfcPrio
  by_cases hb : (beAt bs 17 1).testBit n
  · rw [if_neg (by simp [hb])]
    unfold quanta
    split
    · simp [bumpPort_timer, setTimer_timer, hb, setTimer_clusterRx, setTimer_time, setTimer_regs]
    · simp [bumpPort_timer, setTimer_timer, hb, setTimer_clusterRx, setTimer_time, setTimer_regs]
  · simp [hb]

/-- A PFC frame sets the timers of the priorities below `m` that it enables, and leaves the others. -/
theorem pfcPrios_timer (s : State) (p : Nat) (bs : Bytes) (m : Nat) :
    let t := (List.range m).foldl (State.pfcPrio p bs) s
    (∀ i, t.timer p i = if i < m ∧ (beAt bs 17 1).testBit i then s.quanta p (beAt bs (18 + 2 * i) 2) else s.timer p i) ∧
    t.clusterRx = s.clusterRx ∧ t.time = s.time ∧ t.regs = s.regs := by
  induction m with
  | zero => simp
  | succ m ih =>
    rw [List.range_succ, List.foldl_append, List.foldl_cons, List.foldl_nil]
    generalize (List.range m).foldl (State.pfcPrio p bs) s = u at ih ⊢
    obtain ⟨htimer, hrx, htime, hregs⟩ := ih
    obtain ⟨htimer', hrx', htime', hregs'⟩ := pfcPrio_cases u p bs m
    refine ⟨fun i => ?_, hrx'.trans hrx, htime'.trans htime, hregs'.trans hregs⟩
    have hq (q : Nat) : u.quanta p q = s.quanta p q := by unfold quanta; rw [timerEnd_congr htime hregs]
    rw [htimer', htimer, hq]
    by_cases hi : i = m
    · subst hi; simp
    · have : i < m + 1 ↔ i < m := by omega
      simp [hi, this]

theorem actControl_pfc (hm : s.regN (0x1C00 + p) 1 = 2) (ho : beAt bs 14 2 = 0x0101)
    (ha : daOf bs = 0x0180C2000001 ∨ bs.take 6 = s.stationAddr p) :
    s.actControl p bs = ((List.range 8).foldl (State.pfcPrio p bs) s).settlePort p := by
  unfold actControl
  extract_lets mode op mine q vec
  rw [if_neg (fun h => absurd (hm.symm.trans h.2.1) (by decide)), if_pos ⟨ha, hm, ho⟩]
  rfl

/-- A counted control frame leaves what the acting of R151 reads. -/
theorem countOk_stationAddr (s : State) (p : Nat) (bs : Bytes) : (s.countOk p bs).stationAddr p = s.stationAddr p := by
  unfold stationAddr
  rw [countOk_regN]

theorem countOk_dropped (s : State) (p : Nat) (bs : Bytes) :
    (s.countOk p bs).ctr (0x1800 + p) Pc.rxMacCtrlDrop = s.ctr (0x1800 + p) Pc.rxMacCtrlDrop := by
  have hb := bin_lt bs.length
  unfold countOk
  rw [ctr_bumpPort_ne _ _ _ _ _ (by unfold Pc.rxBin Pc.rxMacCtrlDrop; omega), ctr_bumpPort_ne _ _ _ _ _ (by split_ifs <;> decide),
    ctr_bumpPort_ne _ _ _ _ _ (by decide), ctr_bumpPort_ne _ _ _ _ _ (by decide)]

theorem countOk_quanta (s : State) (p : Nat) (bs : Bytes) (q : Nat) : (s.countOk p bs).quanta p q = s.quanta p q := by
  obtain ⟨-, -, htime, hregs⟩ := countOk_eqs s p bs
  unfold quanta
  rw [timerEnd_congr htime hregs]

theorem countOk_timer (s : State) (p : Nat) (bs : Bytes) (k : Nat) : (s.countOk p bs).timer p k = s.timer p k := by
  obtain ⟨-, hrx, -⟩ := countOk_eqs s p bs
  unfold State.timer State.port
  rw [hrx]

end

/-- Settles O8: a counted control frame acts as `actControl` does for its FC_MODE, and the expiry ends the one timer. -/
theorem macControl : Obligations.MacControl := by
  refine ⟨?off, ?pause, ?pfc, ?expiry⟩
  case off =>
    intro dt p bytes s hplain hgood htype hmode
    refine answersSettled_pos htype (answersSettled ?_)
    rw [rx_control (elapse_rxPlain dt hplain) hgood htype, actControl_off (s := (s.elapse dt).countOk p bytes) ((countOk_regN ..).trans hmode)]
    obtain ⟨hcl, hrx, -⟩ := countOk_eqs (s.elapse dt) p bytes
    refine ⟨?_, (bumpPort_clusterRx ..).trans hcl, (bumpPort_portRx ..).trans hrx⟩
    rw [ctr_bumpPort, countOk_dropped, elapse_ctr]
    rfl
  case pause =>
    intro dt p bytes s hplain hgood hop hmode hda
    obtain ⟨htype, hcode⟩ := beAt_four bytes 1 hop (by decide) hgood.1
    refine answersSettled_pos hop (answersSettled ?_)
    rw [rx_control (elapse_rxPlain dt hplain) hgood htype]
    obtain ⟨hcl, -⟩ := countOk_eqs (s.elapse dt) p bytes
    obtain ⟨htimer, hrx⟩ := actControl_pause (s := (s.elapse dt).countOk p bytes) ((countOk_regN ..).trans hmode) hcode
      (by rw [countOk_stationAddr]; exact hda)
    exact ⟨htimer.trans (countOk_quanta ..), hrx.trans hcl⟩
  case pfc =>
    intro dt p bytes s hplain hgood hop hmode hda
    obtain ⟨htype, hcode⟩ := beAt_four bytes 0x0101 hop (by decide) hgood.1
    refine answersSettled_pos hop (answersSettled ?_)
    rw [rx_control (elapse_rxPlain dt hplain) hgood htype, actControl_pfc (s := (s.elapse dt).countOk p bytes) ((countOk_regN ..).trans hmode)
      hcode (by rw [countOk_stationAddr]; exact hda)]
    obtain ⟨hcl, -⟩ := countOk_eqs (s.elapse dt) p bytes
    obtain ⟨htimer, hrx, -, -⟩ := pfcPrios_timer ((s.elapse dt).countOk p bytes) p bytes 8
    refine ⟨fun n hn => ((settlePort_timer ..).trans (htimer n)).trans ?_, (settlePort_clusterRx _).trans (hrx.trans hcl)⟩
    rw [countOk_quanta, countOk_timer]
    simp only [hn, true_and]
    rfl
  case expiry =>
    intro dt p k e s htimer hover
    have hget : SMap.get none ((s.elapse dt).port p).timers k = some e := htimer
    have hexec : exec (.pauseTimerExpiry dt p k) s = .next (((s.elapse dt).setTimer p k none).settlePort p) := by
      change execPauseTimerExpiry dt p k s = _
      unfold execPauseTimerExpiry
      simp only [hget, hover, Bool.false_eq_true, if_false]
    have hend : (((s.elapse dt).setTimer p k none).settlePort p).timer p k = none := by
      rw [settlePort_timer, setTimer_timer, if_pos rfl]
    rw [hexec]
    exact answers_next hend

end Sys2Proof.Machine
end

