-- ==== Sys2Proof/Proofs/FlowControlFrames.lean ====
section
namespace Sys2Proof.Machine
open State

/-! ### The taps and the rings count below subindex 0x20 (R473, R494) -/

/-- The counters of every index from subindex 0x20 on are as before. -/
structure State.SameHigh (t s : State) : Prop where
  ctr : ∀ i u, 0x20 ≤ u → u < 256 → t.ctr i u = s.ctr i u

section
variable {s t u : State}

theorem State.SameHigh.refl (s : State) : s.SameHigh s := ⟨fun _ _ _ _ => rfl⟩

theorem State.SameHigh.trans (h : u.SameHigh t) (k : t.SameHigh s) : u.SameHigh s :=
  ⟨fun i v hl hh => (h.ctr i v hl hh).trans (k.ctr i v hl hh)⟩

theorem sameHigh_of_ctrs (h : t.ctrs = s.ctrs) : t.SameHigh s := ⟨fun i u _ _ => by unfold State.ctr; rw [h]⟩

theorem State.SameHigh.ctrs (h : t.SameHigh s) (e : u.ctrs = t.ctrs) : u.SameHigh s := (sameHigh_of_ctrs e).trans h

theorem bumpRow_high (s : State) (i v r n : Nat) (hv : v < 0x20) (hr : r < 65536) : (s.bumpRow i v r n).SameHigh s :=
  ⟨fun j u hl hh => ctr_bumpRow_ne _ _ _ _ _ _ _ _ (by unfold slotKey; omega)⟩

theorem raise_high (s : State) (e d : Nat) : (s.raise e d).SameHigh s :=
  ⟨fun i u hl hh => raise_ctr s e d i u 0 hh (by decide) (by omega) (by omega)⟩

theorem raiseOnce_high (s : State) (e d : Nat) : (s.raiseOnce e d).SameHigh s :=
  ⟨fun i u hl hh => raiseOnce_ctr s e d i u 0 hh (by decide) (by omega) (by omega)⟩

theorem memWrite_high (s : State) (a : Nat) (bs : Bytes) : (s.memWrite a bs).SameHigh s := by
  induction bs generalizing s a with
  | nil => exact .refl s
  | cons b bs ih => exact (ih ..).trans (sameHigh_of_ctrs rfl)

theorem foldl_high {α : Type} {f : State → α → State} (l : List α) (s : State) (hf : ∀ s, ∀ a ∈ l, (f s a).SameHigh s) :
    (l.foldl f s).SameHigh s := by
  induction l generalizing s with
  | nil => exact .refl s
  | cons a l ih => exact (ih _ fun s b hb => hf s b (List.mem_cons_of_mem _ hb)).trans (hf s a (List.mem_cons_self ..))

theorem ringCause_high (s : State) (r bit : Nat) : (s.ringCause r bit).SameHigh s := by
  unfold ringCause
  dsimp only
  split
  · exact (raise_high ..).trans (sameHigh_of_ctrs rfl)
  · exact sameHigh_of_ctrs rfl

theorem completeDesc_high (s : State) (r i : Nat) (d : Desc) (result done : Nat) (aux : Option Word) (extra : Nat) :
    (s.completeDesc r i d result done aux extra).SameHigh s := by
  have hbus (x : State) (r n : Nat) : (x.busWrite r n).SameHigh x := bumpRow_high _ _ _ _ _ (by decide) (by decide)
  have hcount (x : State) (k n : Nat) (hk : k < 0x20) : (x.bump (rIdx r) k n).SameHigh x := bumpRow_high _ _ _ _ _ hk (by decide)
  unfold completeDesc
  extract_lets a s1 keep s2 s3 s4
  have h1 : s1.SameHigh s := by
    unfold s1
    split
    · split
      · exact .refl s
      · exact (hbus ..).trans (memWrite_high ..)
    · exact .refl s
  have h2 : s2.SameHigh s := by
    unfold s2
    split
    · exact ((hbus ..).trans (memWrite_high ..)).trans h1
    · exact ((hbus ..).trans (memWrite_high ..)).trans h1
  have h3 : s3.SameHigh s := ((hcount _ _ _ (by decide)).trans (hcount _ _ _ (by decide))).trans (h2.ctrs rfl)
  have h4 : s4.SameHigh s := by
    unfold s4
    split
    · exact ((ringCause_high ..).trans (hcount _ _ _ (by decide))).trans h3
    split
    · exact ((ringCause_high ..).trans (hcount _ _ _ (by decide))).trans h3
    split
    · exact ((ringCause_high ..).trans (hcount _ _ _ (by decide))).trans h3
    · exact h3
  split
  · exact (raise_high ..).trans h4
  · exact h4

theorem fetchDesc_high (s : State) (r : Nat) : (s.fetchDesc r).2.SameHigh s := by
  have hbus : (s.busRead r (s.descLen r)).SameHigh s := bumpRow_high _ _ _ _ _ (by decide) (by decide)
  unfold fetchDesc
  dsimp only
  split
  · exact .refl s
  split
  · exact hbus.ctrs rfl
  · exact hbus.ctrs rfl

theorem reserveDescs_high (s : State) (r need n count room : Nat) : (reserveDescs r need n count room s).2.SameHigh s := by
  induction n generalizing count room s with
  | zero => exact .refl s
  | succ n ih =>
    unfold reserveDescs
    split
    · exact .refl s
    extract_lets q size i f
    split
    · exact .refl s
    have hf : f.2.SameHigh s := by
      have hd := fetchDesc_high s r
      unfold f
      split
      · split
        · next h => rw [h] at hd; exact hd.ctrs rfl
        · next h => rw [h] at hd; exact hd
      · exact .refl s
    split
    · exact hf
    split
    · exact (ih ..).trans ((completeDesc_high ..).trans (hf.ctrs rfl))
    · exact (ih ..).trans hf

theorem stageRx_high (s : State) (f : Staged) (good known : Bool) : (s.stageRx f good known).2.SameHigh s := by
  have hcount (x : State) (i k : Nat) (hk : k < 0x20) : (x.bump i k).SameHigh x := bumpRow_high _ _ _ _ _ hk (by decide)
  unfold stageRx
  extract_lets r most need x
  have hx : x.2.SameHigh s := reserveDescs_high ..
  split
  · exact ((ringCause_high ..).trans (hcount _ _ _ (by decide))).trans hx
  split
  · exact ((ringCause_high ..).trans (hcount _ _ _ (by decide))).trans hx
  split
  · exact (hcount _ _ _ (by decide)).trans hx
  · exact hx.ctrs rfl

theorem peepDrop_high (s : State) (c : Nat) {k : Nat} (hk : k < 16) : (s.peepDrop c k).SameHigh s :=
  (raiseOnce_high ..).trans (bumpRow_high _ _ _ _ _ (by decide) (by omega))

theorem peepCopy_high (s : State) (c : Nat) {k : Nat} (t : TapIn) (hk : k < 16) : (s.peepCopy c k t).SameHigh s := by
  unfold peepCopy
  extract_lets data n s1 dest p m s2 r x
  have h1 : s1.SameHigh s := sameHigh_of_ctrs rfl
  have hx : x.2.SameHigh s := (stageRx_high ..).trans h1
  split
  · exact (peepDrop_high _ _ hk).trans h1
  split
  · split
    · exact (peepDrop_high _ _ hk).trans h1
    · exact sameHigh_of_ctrs rfl
  split
  · exact (peepDrop_high _ _ hk).trans h1
  split
  · exact hx.ctrs rfl
  · exact (peepDrop_high _ _ hk).trans hx

/-- A frame that passes a tap counts nothing from subindex 0x20 on. -/
theorem peepTap_high (s : State) (t : TapIn) : (s.peepTap t).SameHigh s := by
  refine foldl_high _ s fun s k hk => ?_
  have hk' : k < 16 := List.mem_range.mp hk
  have hcount : (s.bumpRow (winIdx (t.port / 64) 0xC) 5 k 1).SameHigh s := bumpRow_high _ _ _ _ _ (by decide) (by omega)
  split
  · exact .refl s
  extract_lets s1 n at_ s2
  have h2 : s2.SameHigh s := hcount.ctrs rfl
  split
  · exact (peepCopy_high _ _ _ hk').trans h2
  · exact h2

end

/-! ### Control frames (R374, R382) -/

section
variable {p : Nat} {s : State}

theorem landFcLate_ctrs (s : State) (p back : Nat) : (s.landFcLate p back).ctrs = s.ctrs := by
  have hclass (s : State) (c l n : Nat) : (s.settleClass c l n).ctrs = s.ctrs := by
    unfold settleClass
    dsimp only
    repeat' split
    all_goals rfl
  have hport (s : State) (q : Nat) : (s.settlePort q).ctrs = s.ctrs := foldl_ctrs _ (fun s n => hclass ..) _ s
  have hreg (s : State) (i v : Nat) (w : Word) : (s.setPortReg i v w).ctrs = s.ctrs := by
    unfold setPortReg notePast
    split <;> rfl
  unfold landFcLate
  dsimp only
  split
  · rfl
  · refine (foldl_ctrs _ (fun s w => ?_) _ _).trans (updPort_ctrs ..)
    rw [hport, updPort_ctrs, hreg]

theorem ctr_bumpPort_one (s : State) (p k : Nat) : (s.bumpPort p k).ctr (0x1800 + p) k = s.ctr (0x1800 + p) k + 1 := ctr_bumpPort ..

/-- A respond frame goes on the lanes at once, and is counted (R375). -/
theorem sendRespond_out (h : (s.portTxOf p).ownPcs = true) :
    Output.lanes p (List.replicate 6 0x55 ++ [0x19]) (List.replicate 60 0 ++ mcrcOf (List.replicate 60 0)) ∈ (s.sendCtl p .respond).out ∧
    (s.sendCtl p .respond).ctr (0x1800 + p) Pc.txRespond = s.ctr (0x1800 + p) Pc.txRespond + 1 := by
  unfold sendCtl
  extract_lets u
  have hflow : (u.bumpPort p Pc.txRespond).flow p = s.flow p := by
    unfold u
    rw [bumpPort_flow _ _ _ _ _ (by decide), landFcLate_flow, ctlOnLanes_flow]
  have hown : ((u.bumpPort p Pc.txRespond).portTxOf p).ownPcs = true :=
    (congrArg HoldView.ownPcs (flow_hold hflow p)).trans h
  have hcount : (u.bumpPort p Pc.txRespond).ctr (0x1800 + p) Pc.txRespond = s.ctr (0x1800 + p) Pc.txRespond + 1 := by
    rw [ctr_bumpPort_one]
    unfold u ctr
    rw [landFcLate_ctrs]
    rfl
  dsimp only
  unfold sendVerify sendOwn lanes
  rw [if_pos hown]
  refine ⟨?_, ?_⟩
  · rw [(peepTap_wired (.refl _)).out, emit_outs]
    exact List.mem_append_right _ (List.mem_singleton.mpr rfl)
  · rw [(peepTap_high ..).ctr _ _ (by decide) (by decide), emit_ctr, hcount]

theorem queueCtl_free (k : CtlFrame) (h : (s.portTxOf p).wire = none) : s.queueCtl p k = s.sendCtl p k := by
  unfold queueCtl
  rw [if_pos (by simp [h])]

theorem queueCtl_busy (k : CtlFrame) {f : TxFrame} (h : (s.portTxOf p).wire = some f) :
    s.queueCtl p k = s.updPortTx p fun q => { q with ctl := q.ctl ++ [k] } := by
  unfold queueCtl
  rw [if_neg (by simp [h])]

/-! ### What a frame that starts now meets does not move with time (R130, R165) -/

@[simp] theorem elapse_rxTakes_now (s : State) (dt p : Nat) : (s.elapse dt).rxTakes p 0 = s.rxTakes p 0 := by simp [rxTakes]

@[simp] theorem elapse_rxNight_now (s : State) (dt p : Nat) : (s.elapse dt).rxNight p 0 = s.rxNight p 0 := by simp [rxNight]

@[simp] theorem elapse_portRate (s : State) (dt p : Nat) : (s.elapse dt).portRate p = s.portRate p := rfl

@[simp] theorem elapse_xoffNow (s : State) (dt p : Nat) : (s.elapse dt).xoffNow p = s.xoffNow p := rfl

/-- A verify frame with a good mCRC asks for a respond frame (R375). -/
theorem verifyFrameRx_good (dt : Nat) (body : Bytes) (ht : s.rxTakes p 0 = true) (hn : s.rxNight p 0 = false) (hs : s.txSends p = true)
    (he : s.regB (0x1C00 + p) 4 = true) :
    exec (.verifyFrameRx dt p body (mcrcOf body)) s = .next ((s.elapse dt).queueCtl p .respond) := by
  change execVerifyFrameRx dt p body (mcrcOf body) s = _
  unfold execVerifyFrameRx
  simp [ht, hn, hs, he]

/-- A respond frame with a good mCRC ends the verification (R374). -/
theorem respondFrameRx_good (dt : Nat) (body : Bytes) (ht : s.rxTakes p 0 = true) (hn : s.rxNight p 0 = false) (hs : s.txSends p = true)
    (he : s.regB (0x1C00 + p) 4 = true) (hv : (s.portTxOf p).verify = .verifying) :
    exec (.respondFrameRx dt p body (mcrcOf body)) s =
      .next (((s.elapse dt).setPortTx p { s.portTxOf p with verify := .succeeded }).txCause p 5) := by
  change execRespondFrameRx dt p body (mcrcOf body) s = _
  unfold execRespondFrameRx
  simp [ht, hn, hs, he, hv]

/-- A port that accepts no preemptable frame counts both as bad delimiters (R132). -/
theorem verification_badSfd (dt : Nat) (body mcrc : Bytes) (ht : s.rxTakes p 0 = true) (hn : s.rxNight p 0 = false)
    (he : s.regB (0x1C00 + p) 4 = false) :
    exec (.verifyFrameRx dt p body mcrc) s = .next ((s.elapse dt).bumpPort p Pc.rxBadSfd) ∧
    exec (.respondFrameRx dt p body mcrc) s = .next ((s.elapse dt).bumpPort p Pc.rxBadSfd) := by
  constructor
  · change execVerifyFrameRx dt p body mcrc s = _
    unfold execVerifyFrameRx
    simp [ht, hn, he, badSfd]
  · change execRespondFrameRx dt p body mcrc s = _
    unfold execRespondFrameRx
    simp [ht, hn, he, badSfd]

/-! ### Requests (R380, R381) -/

theorem settlePfc_mode (h : s.regN (0x1C00 + p) 1 ≠ 2) : s.settlePfc p = s := by
  have hd : s.pfcDue p = false := by
    unfold pfcDue
    split <;> simp [h]
  unfold settlePfc
  simp [hd]

theorem settlePfc_none (h : (s.portTxOf p).pfcAt = none) : s.settlePfc p = s := by
  unfold settlePfc pfcDue
  simp [h]

theorem settlePfc_due {at_ : Word} (ha : (s.portTxOf p).pfcAt = some at_) (hd : pfcGrains ≤ s.since at_) (hs : s.txSends p = true)
    (hm : s.regN (0x1C00 + p) 1 = 2) : s.settlePfc p = (s.xoffDone p).queueCtl p (.pfc (s.pfcTimes p)) := by
  unfold settlePfc
  rw [if_pos (by simp [pfcDue, ha, hd, hs, hm])]
  rfl

/-- A PAUSE request that rises is sent (R381). -/
theorem fcUpdate_rises (hs : s.txSends p = true) (hm : s.regN (0x1C00 + p) 1 = 1) (h0 : (s.portTxOf p).xoffSeen = 0) (hn : s.xoffNow p ≠ 0) :
    s.fcUpdate p = (s.xoffDone p).queueCtl p (.pause (s.regN (0x1C00 + p) 0x0C)) := by
  unfold fcUpdate
  simp only [h0, hn, hs, hm, if_false, if_true, Bool.not_true, Bool.false_eq_true]

/-- A PFC request that rises asks for a frame at that moment, and queues none (R381). -/
theorem fcUpdate_asks (hs : s.txSends p = true) (hm : s.regN (0x1C00 + p) 1 = 2) (ha : (s.portTxOf p).pfcAt = none) {n : Nat} (hn : n < 8)
    (hr : (s.xoffNow p).testBit n = true) (h0 : (s.portTxOf p).xoffSeen.testBit n = false) :
    ((s.fcUpdate p).portTxOf p).pfcAt = some (s.fcUpdate p).runTime ∧ ((s.fcUpdate p).portTxOf p).ctl = (s.portTxOf p).ctl ∧
      (s.fcUpdate p).out = s.out := by
  have hne : s.xoffNow p ≠ (s.portTxOf p).xoffSeen := fun h => by rw [h, h0] at hr; exact absurd hr (by decide)
  have hany : ((List.range 8).any fun n => (s.xoffNow p).testBit n && !(s.portTxOf p).xoffSeen.testBit n) = true :=
    List.any_eq_true.mpr ⟨n, List.mem_range.mpr hn, by simp [hr, h0]⟩
  unfold fcUpdate
  simp only [hne, hs, hm, if_false, Bool.not_true, Bool.false_eq_true, hany, Bool.true_or, portTxOf_updPortTx, portTxOf_setPortTx, ha,
    Option.isNone_none, Bool.and_true, if_true]
  exact ⟨rfl, trivial, rfl⟩

/-- The request of the last frame is the present one: nothing more is sent. -/
theorem fcUpdate_same (h : s.xoffNow p = (s.portTxOf p).xoffSeen) : s.fcUpdate p = s := by
  unfold fcUpdate
  simp only [h, if_true]

theorem xoff_testBit (x f : Nat) {n : Nat} (hn : n < 8) : (x % 256 ||| f).testBit n = (x.testBit n || f.testBit n) := by
  rw [Nat.testBit_or, show 256 = 2 ^ 8 from rfl, Nat.testBit_mod_two_pow]
  simp [hn]

/-- What a PFC frame says of priority `n` (R381). -/
theorem pfcTimes_getD (s : State) (p : Nat) {n : Nat} (hn : n < 8) : (s.pfcTimes p).getD n none =
    if (s.xoffNow p).testBit n then some (s.regN (0x1C00 + p) 0x0C)
    else if ((s.portTxOf p).xoffSent ||| (s.portTxOf p).xoffEver).testBit n then some 0 else none := by
  unfold pfcTimes
  simp [List.getD, hn]

/-- The fc_xoff bits of a port as `x`. -/
def State.withXoff (s : State) (p x : Nat) : State := s.updPortTx p fun q => { q with xoff := x % 256 }

theorem withXoff_portTxOf (s : State) (p x : Nat) : (s.withXoff p x).portTxOf p = { s.portTxOf p with xoff := x % 256 } :=
  portTxOf_updPortTx ..

theorem withXoff_txSends (s : State) (p x : Nat) : (s.withXoff p x).txSends p = s.txSends p := rfl

theorem withXoff_regN (s : State) (p x i u : Nat) : (s.withXoff p x).regN i u = s.regN i u := rfl

theorem withXoff_xoffNow (s : State) (p x : Nat) : (s.withXoff p x).xoffNow p = x % 256 ||| s.regN (0x1C00 + p) 0x0F := by
  unfold xoffNow
  rw [withXoff_portTxOf, withXoff_regN]

theorem fcXoffChange_eq (dt p x : Nat) (s : State) :
    exec (.fcXoffChange dt p x) s = .next ((((s.elapse dt).settlePfc p).withXoff p x).fcUpdate p) := rfl

theorem xoffDone_portTxOf (s : State) (p : Nat) : (s.xoffDone p).portTxOf p =
    { s.portTxOf p with xoffSeen := s.xoffNow p, xoffSent := s.xoffNow p, pauseAt := s.runTime, pfcAt := none, xoffEver := 0 } :=
  portTxOf_updPortTx ..

/-- With a frame on the wire, a control frame that answers the request waits behind it. -/
theorem xoffDone_queue (k : CtlFrame) {f : TxFrame} (hw : (s.portTxOf p).wire = some f) :
    ((s.xoffDone p).queueCtl p k) = (s.xoffDone p).updPortTx p fun q => { q with ctl := q.ctl ++ [k] } :=
  queueCtl_busy k (f := f) (by rw [xoffDone_portTxOf]; exact hw)

/-! ### The clauses -/

/-- VERIFY_TIME has passed in VERIFYING (R374). -/
theorem verifyTimeout_over {dt : Nat} (hv : (s.portTxOf p).verify = .verifying)
    (hd : s.verifyGrains p ≤ (s.elapse dt).since (s.portTxOf p).verifyAt) :
    exec (.verifyTimeout dt p) s = if (s.portTxOf p).verifySent < 3 then
      .next (((s.elapse dt).setPortTx p { s.portTxOf p with
        verifySent := (s.portTxOf p).verifySent + 1, verifyAt := (s.elapse dt).runTime }).queueCtl p .verify)
      else .next (((s.elapse dt).setPortTx p { s.portTxOf p with verify := .failed }).txCause p 6) := by
  have hguard : ¬(((s.elapse dt).portTxOf p).verify ≠ .verifying ∨
      (s.elapse dt).since ((s.elapse dt).portTxOf p).verifyAt < (s.elapse dt).verifyGrains p) := by
    rintro (h | h)
    · exact h hv
    · exact absurd hd (Nat.not_le.mpr h)
  change execVerifyTimeout dt p s = _
  unfold execVerifyTimeout
  exact if_neg hguard

/-- A PAUSE request that rises behind a frame on the wire queues a PAUSE frame (R381). -/
theorem fcXoffChange_rises {dt xoff : Nat} {f : TxFrame} (hs : s.txSends p = true) (hm : s.regN (0x1C00 + p) 1 = 1)
    (h0 : (s.portTxOf p).xoffSeen = 0) (hx : xoff % 256 ≠ 0) (hw : (s.portTxOf p).wire = some f) :
    Answers (exec (.fcXoffChange dt p xoff) s) fun t =>
      (t.portTxOf p).ctl = (s.portTxOf p).ctl ++ [.pause (s.regN (0x1C00 + p) 0x0C)] ∧
      (t.portTxOf p).xoffSent = xoff % 256 ||| s.regN (0x1C00 + p) 0x0F := by
  have hsettle : (s.elapse dt).settlePfc p = s.elapse dt := settlePfc_mode (by rw [elapse_regN, hm]; decide)
  have htx := withXoff_portTxOf (s.elapse dt) p xoff
  have hnow := withXoff_xoffNow (s.elapse dt) p xoff
  rw [fcXoffChange_eq, hsettle, fcUpdate_rises (by simpa [withXoff_txSends] using hs) (by simpa [withXoff_regN] using hm)
    (by rw [htx]; exact h0) (by rw [hnow]; exact fun h => hx (Nat.or_eq_zero_iff.mp h).1), xoffDone_queue _ (f := f) (by rw [htx]; exact hw)]
  refine answers_next ?_
  rw [portTxOf_updPortTx, xoffDone_portTxOf, htx, hnow]
  exact ⟨rfl, rfl⟩

/-- A PAUSE request that is still held is sent again (R381). -/
theorem pauseRefresh_due {dt : Nat} {f : TxFrame} (hs : s.txSends p = true) (hm : s.regN (0x1C00 + p) 1 = 1) (hx : s.xoffNow p ≠ 0)
    (hw : (s.portTxOf p).wire = some f)
    (hd : pauseGrains (s.regN (0x1C00 + p) 0x0D) (s.portRate p) ≤ (s.elapse dt).since (s.portTxOf p).pauseAt) :
    Answers (exec (.pauseRefresh dt p) s) fun t =>
      (t.portTxOf p).ctl = (s.portTxOf p).ctl ++ [.pause (s.regN (0x1C00 + p) 0x0C)] ∧ (t.portTxOf p).pauseAt = t.runTime := by
  have hsettle : (s.elapse dt).settlePfc p = s.elapse dt := settlePfc_mode (by rw [elapse_regN, hm]; decide)
  have hexec : exec (.pauseRefresh dt p) s =
      .next (((s.elapse dt).xoffDone p).queueCtl p (.pause ((s.elapse dt).regN (0x1C00 + p) 0x0C))) := by
    change execPauseRefresh dt p s = _
    unfold execPauseRefresh
    simp [hsettle, Nat.not_lt.mpr hd, hs, hm, hx]
  rw [hexec, xoffDone_queue (s := s.elapse dt) _ (f := f) hw]
  refine answers_next ?_
  rw [portTxOf_updPortTx, xoffDone_portTxOf]
  exact ⟨rfl, rfl⟩

/-- A PFC frame that is due says what each priority now asks (R381). -/
theorem fcXoffChange_due {dt : Nat} {at_ : Word} {f : TxFrame} (hs : s.txSends p = true) (hm : s.regN (0x1C00 + p) 1 = 2)
    (ha : (s.portTxOf p).pfcAt = some at_) (hd : pfcGrains ≤ (s.elapse dt).since at_) (hx : (s.portTxOf p).xoff < 256)
    (hw : (s.portTxOf p).wire = some f) :
    Answers (exec (.fcXoffChange dt p (s.portTxOf p).xoff) s) fun t =>
      (t.portTxOf p).pfcAt = none ∧ (t.portTxOf p).ctl = (s.portTxOf p).ctl ++ [.pfc (s.pfcTimes p)] := by
  have hsettle : (s.elapse dt).settlePfc p = ((s.elapse dt).xoffDone p).updPortTx p fun q => { q with ctl := q.ctl ++ [.pfc (s.pfcTimes p)] } :=
    (settlePfc_due (s := s.elapse dt) ha hd (by simpa using hs) hm).trans (xoffDone_queue _ (f := f) hw)
  have htx : ((s.elapse dt).settlePfc p).portTxOf p = { s.portTxOf p with
      xoffSeen := s.xoffNow p, xoffSent := s.xoffNow p, pauseAt := (s.elapse dt).runTime, pfcAt := none, xoffEver := 0
      ctl := (s.portTxOf p).ctl ++ [.pfc (s.pfcTimes p)] } := by
    rw [hsettle, portTxOf_updPortTx, xoffDone_portTxOf]
    rfl
  have hreg : ((s.elapse dt).settlePfc p).regN (0x1C00 + p) 0x0F = s.regN (0x1C00 + p) 0x0F := by rw [hsettle]; rfl
  have hnow : (((s.elapse dt).settlePfc p).withXoff p (s.portTxOf p).xoff).xoffNow p = s.xoffNow p := by
    rw [withXoff_xoffNow, hreg, Nat.mod_eq_of_lt hx]
    rfl
  rw [fcXoffChange_eq, fcUpdate_same (by rw [hnow, withXoff_portTxOf, htx])]
  refine answers_next ?_
  rw [withXoff_portTxOf, htx]
  exact ⟨rfl, rfl⟩

end

/-- Settles O13: each command's guard decided, then the frame it sends, queues or asks for. -/
theorem flowControlFrames : Obligations.FlowControlFrames := by
  refine ⟨?idle, ?busy, ?bad, ?succeeds, ?again, ?fails, ?rises, ?refresh, ?asks, ?due⟩
  case idle =>
    intro dt p body s ht hn hs he hw hown
    rw [verifyFrameRx_good dt body ht hn hs he, queueCtl_free (s := s.elapse dt) _ hw]
    exact answers_next (sendRespond_out hown)
  case busy =>
    intro dt p body s f ht hn hs he hw
    rw [verifyFrameRx_good dt body ht hn hs he, queueCtl_busy (s := s.elapse dt) _ hw]
    exact answers_next ⟨by rw [portTxOf_updPortTx]; rfl, rfl⟩
  case bad =>
    intro dt p body mcrc s ht hn he
    obtain ⟨hv, hr⟩ := verification_badSfd dt body mcrc ht hn he
    rw [hv, hr]
    exact ⟨answers_next ⟨bumpPort_portTx .., ctr_bumpPort ..⟩, answers_next ⟨bumpPort_portTx .., ctr_bumpPort ..⟩⟩
  case succeeds =>
    intro dt p body s ht hn hs he hv
    rw [respondFrameRx_good dt body ht hn hs he hv]
    refine answers_next ?_
    rw [txCause_portTx, portTxOf_setPortTx]
    exact ⟨rfl, bit_setBit_self _ _ (by decide)⟩
  case again =>
    intro dt p s hv hd hsent f hw
    rw [verifyTimeout_over hv hd, if_pos hsent, queueCtl_busy (f := f) _ (by rw [portTxOf_setPortTx]; exact hw)]
    refine answers_next ?_
    rw [portTxOf_updPortTx, portTxOf_setPortTx]
    exact ⟨rfl, rfl⟩
  case fails =>
    intro dt p s hv hd hsent
    rw [verifyTimeout_over hv hd, if_neg (Nat.not_lt.mpr hsent)]
    refine answers_next ?_
    rw [txCause_portTx, portTxOf_setPortTx]
    exact ⟨rfl, bit_setBit_self _ _ (by decide)⟩
  case rises => exact fun dt p xoff f s hs hm h0 hx hw => fcXoffChange_rises hs hm h0 hx hw
  case refresh => exact fun dt p f s hs hm hx hw hd => pauseRefresh_due hs hm hx hw hd
  case asks =>
    intro dt p xoff n s hs hm ha hn hx h0
    have htx := withXoff_portTxOf (s.elapse dt) p xoff
    rw [fcXoffChange_eq, settlePfc_none (s := s.elapse dt) ha]
    obtain ⟨hat, hctl, hout⟩ := fcUpdate_asks (s := (s.elapse dt).withXoff p xoff) (p := p) (by simpa [withXoff_txSends] using hs)
      (by simpa [withXoff_regN] using hm) (by rw [htx]; exact ha) hn (by rw [withXoff_xoffNow, xoff_testBit _ _ hn, hx]; rfl)
      (by rw [htx]; exact h0)
    exact answers_next ⟨hat, hctl.trans (by rw [htx]; rfl), hout⟩
  case due =>
    intro dt p at_ f s hs hm ha hd hx hw
    obtain ⟨t, ht, hat, hctl⟩ := fcXoffChange_due hs hm ha hd hx hw
    exact ⟨t, ht, hat, s.pfcTimes p, hctl, fun n hn => pfcTimes_getD s p hn⟩

end Sys2Proof.Machine
end

