-- ==== Sys2Proof/Proofs/PortOpensAndCloses.lean ====
section
namespace Sys2Proof.Machine
open State

/-! ### An enable latched while CLOSING, at a port index of no port (R126, R397, R531) -/

/-- Index 0x1000 + 4096 is that of the common objects of cluster 0, so that SPEED of "port" 4096 is CLUSTER_MODE of that cluster. The port
is CLOSING with its link UP and an enable latched; the frame it will discard completes a descriptor of ring 0, whose event the Night Latch
watches with a wake of cluster 0, which is in LISTEN. -/
def portBeyond : State where
  regs := [(slotKey 0x0700 0x10 0, 1), (slotKey 0x0700 0x40 0, Word.ofNat (2 ^ 63 + 2 ^ 32 + 0x701)), (slotKey 0x0800 0x10 0, 1),
    (slotKey 0x2000 3 0, 1), (slotKey 0x2000 5 0, 1), (slotKey 0x2000 6 0, 1)]
  clusterPower := [(0, { night := .listen }), (64, { st := .opened })]
  portRx := [(4096, { st := .closing, link := .up, enLatched := some true })]
  portTx := [(4096, { frames := [{ ended := true, origin := some { ring := some 0, chain := some 0 } }] })]
  rings := [(0, { chains := [{ first := 0, count := 1 }] })]

/-- The checks of R126 pass for the port CLOSED: SPEED 1 with one lane and FEC_MODE 1. -/
theorem portBeyond_openOk : (portBeyond.updPort 4096 fun q => { q with st := .closed }).openOk 4096 = true := by decide +kernel

/-- The port reached CLOSED with everything it then gave up, and its enable was tried. -/
def portBeyondDone : State := (((portBeyond.elapse 0).portClosed 4096).updPort 4096 fun q => { q with enLatched := none }).openPort 4096

theorem portCloseDone_latched {dt p : Nat} {s : State} (hst : ((s.elapse dt).port p).st = .closing)
    (hdone : (s.elapse dt).txDone p = true) (hlatched : ((s.elapse dt).port p).enLatched = some true) :
    exec (.portCloseDone dt p) s =
      .next ((((s.elapse dt).portClosed p).updPort p fun q => { q with enLatched := none }).openPort p) := by
  have hdoing : ¬(((s.elapse dt).port p).st ≠ .closing ∨ (!(s.elapse dt).txDone p) = true) := by simp only [hst, hdone]; decide
  change execPortCloseDone dt p s = _
  unfold execPortCloseDone
  exact (if_neg hdoing).trans (congrArg _ (if_pos hlatched))

theorem portBeyond_exec : exec (.portCloseDone 0 4096) portBeyond = .next portBeyondDone :=
  portCloseDone_latched (by decide +kernel) (by decide +kernel) (by decide +kernel)

theorem portBeyondDone_closed : (portBeyondDone.port 4096).st = .closed := by decide +kernel

/-- Refutes O23 by its fourth clause, which leaves the port free: at an index beyond the ports, an event of the frames that the closing
port gives up wakes a cluster, whose CLUSTER_MODE is the port's SPEED, and the enable whose checks passed before is refused. -/
theorem not_portOpensAndCloses : ¬ Obligations.PortOpensAndCloses := by
  intro h
  obtain ⟨-, -, -, hlatched, -⟩ := h
  obtain ⟨t, ht, hopen⟩ := hlatched 0 4096 portBeyond rfl (by decide +kernel) rfl rfl
  have hdone : portBeyondDone = t := by
    rw [portBeyond_exec] at ht
    injection ht
  rw [if_pos portBeyond_openOk, ← hdone, portBeyondDone_closed] at hopen
  exact absurd hopen (by decide)

end Sys2Proof.Machine
end

