-- ==== Sys2Proof/Proofs/Receiving.lean ====
section
/-!
SUPPORT. What a receive path leaves of the ports: the link, the state and the frame under reassembly of each, the causes it has, and the
locks of the lanes. The receive path comes to the transmit side by a key that an upset erases. Each proof peels what a function runs from
the outside.
-/
namespace Sys2Proof.Machine
open State

/-- The link, the state and the frame under reassembly are the same, and no cause is gone. -/
structure PortRx.Hears (q r : PortRx) : Prop where
  link : q.link = r.link
  st : q.st = r.st
  reasm : q.reasm = r.reasm
  cause : ∀ b, r.cause.bit b = true → q.cause.bit b = true

theorem PortRx.Hears.refl (q : PortRx) : q.Hears q := ⟨rfl, rfl, rfl, fun _ h => h⟩

theorem PortRx.Hears.trans {q r u : PortRx} (h : q.Hears r) (k : r.Hears u) : q.Hears u :=
  ⟨h.link.trans k.link, h.st.trans k.st, h.reasm.trans k.reasm, fun b hb => h.cause b (k.cause b hb)⟩

/-- A receive unit in which other parts changed. -/
theorem PortRx.hears_mk (q : PortRx) {enLatched closeAfterOpen closingAt alignAt alignFailed timers waiting fcLate} :
    (PortRx.mk q.st enLatched closeAfterOpen closingAt q.link alignAt alignFailed q.cause timers q.reasm waiting fcLate).Hears q :=
  ⟨rfl, rfl, rfl, fun _ h => h⟩

theorem PortRx.hears_cause (q : PortRx) (bit : Nat) : { q with cause := q.cause.setBit bit true }.Hears q :=
  ⟨rfl, rfl, rfl, fun _ h => bit_setBit_of bit h⟩

/-- The locks of the lanes are the same, and every port hears on. -/
structure State.Hearing (s s₀ : State) : Prop where
  laneLock : s.laneLock = s₀.laneLock
  port : ∀ p, (s.port p).Hears (s₀.port p)

section
variable {s t s₀ : State}

theorem State.Hearing.refl (s : State) : s.Hearing s := ⟨rfl, fun _ => .refl _⟩

theorem hearing_of_same (hl : t.laneLock = s.laneLock) (hp : t.portRx = s.portRx) (hk : s.Hearing s₀) : t.Hearing s₀ where
  laneLock := hl.trans hk.laneLock
  port p := by rw [show t.port p = s.port p by rw [State.port, State.port, hp]]; exact hk.port p

theorem State.Quiet.hearing (h : t.Quiet s) (hk : s.Hearing s₀) : t.Hearing s₀ := hearing_of_same h.laneLock h.portRx hk
theorem State.Wired.hearing (h : t.Wired s) (hk : s.Hearing s₀) : t.Hearing s₀ := hearing_of_same h.laneLock h.portRx hk
theorem State.Beside.hearing (h : t.Beside s) (hk : s.Hearing s₀) : t.Hearing s₀ := hearing_of_same h.laneLock h.portRx hk

/-- The receive units of the ports and the locks stay as they were. -/
theorem hearing_mk (hk : s.Hearing s₀) {pending out free regs rows past ctrs onceTick power clusterPower time ev cu dict keys masks
      clusterRx clusterTx portTx shutters rings quarters twin mem} :
    (State.mk pending out free regs rows past ctrs onceTick power clusterPower time ev cu dict keys masks s.laneLock s.portRx clusterRx
      clusterTx portTx shutters rings quarters twin mem).Hearing s₀ := ⟨hk.laneLock, hk.port⟩

theorem hearing_of_pair {α : Type} {x : α × State} {a : α} (e : x = (a, t)) (h : x.2.Hearing s₀) : t.Hearing s₀ := by rwa [e] at h

theorem foldl_hearing {α : Type} {f : State → α → State} {l : List α} (hk : s.Hearing s₀)
    (hf : ∀ s a, s.Hearing s₀ → (f s a).Hearing s₀) : (l.foldl f s).Hearing s₀ := by
  induction l generalizing s with
  | nil => exact hk
  | cons a t ih => exact ih (hf _ _ hk)

theorem State.updPort_hearing {p : Nat} {f : PortRx → PortRx} (hk : s.Hearing s₀) (hf : (f (s.port p)).Hears (s.port p)) :
    (s.updPort p f).Hearing s₀ where
  laneLock := hk.laneLock
  port q := by
    by_cases h : q = p
    · subst h; rw [port_updPort]; exact hf.trans (hk.port q)
    · rw [port_updPort_ne f h]; exact hk.port q

/-! ### What the receive path shares with the rest of the model -/

theorem State.setReg_hearing {i u : Nat} {v : Word} (hk : s.Hearing s₀) : (s.setReg i u v).Hearing s₀ := hearing_mk hk
theorem State.rowSet_hearing {w u r : Nat} {v : Word} (hk : s.Hearing s₀) : (s.rowSet w u r v).Hearing s₀ := hearing_mk hk
theorem State.bumpRow_hearing {i u r n : Nat} (hk : s.Hearing s₀) : (s.bumpRow i u r n).Hearing s₀ := (bumpRow_beside (.refl _)).hearing hk
theorem State.bump_hearing {idx sub n : Nat} (hk : s.Hearing s₀) : (s.bump idx sub n).Hearing s₀ := (bump_beside (.refl _)).hearing hk
theorem State.bumpPort_hearing {p slot n : Nat} (hk : s.Hearing s₀) : (s.bumpPort p slot n).Hearing s₀ := bumpRow_hearing hk
theorem State.emit_hearing {o : Output} (hk : s.Hearing s₀) : (s.emit o).Hearing s₀ := hearing_mk hk
theorem State.noteEcc_hearing {e : Nat} (hk : s.Hearing s₀) : (s.noteEcc e).Hearing s₀ := (noteEcc_quiet (.refl _)).hearing hk
theorem State.raise_hearing {e : Nat} {data : optParam Nat 0} (hk : s.Hearing s₀) : (s.raise e data).Hearing s₀ :=
  (raise_beside (.refl _)).hearing hk
theorem State.raiseOnce_hearing {e : Nat} {data : optParam Nat 0} (hk : s.Hearing s₀) : (s.raiseOnce e data).Hearing s₀ :=
  (raiseOnce_quiet (.refl _)).hearing hk
theorem State.setClRx_hearing {c : Nat} {q : ClusterRx} (hk : s.Hearing s₀) : (s.setClRx c q).Hearing s₀ := hearing_mk hk
theorem State.setClTx_hearing {c : Nat} {q : ClusterTx} (hk : s.Hearing s₀) : (s.setClTx c q).Hearing s₀ := hearing_mk hk
theorem State.setPortTx_hearing {p : Nat} {q : PortTx} (hk : s.Hearing s₀) : (s.setPortTx p q).Hearing s₀ := hearing_mk hk
theorem State.setSlot_hearing {k : Nat} {q : KeySlot} (hk : s.Hearing s₀) : (s.setSlot k q).Hearing s₀ := hearing_mk hk
theorem State.updClRx_hearing {c : Nat} {f : ClusterRx → ClusterRx} (hk : s.Hearing s₀) : (s.updClRx c f).Hearing s₀ := hearing_mk hk
theorem State.updPortTx_hearing {p : Nat} {f : PortTx → PortTx} (hk : s.Hearing s₀) : (s.updPortTx p f).Hearing s₀ := hearing_mk hk
theorem State.updTwin_hearing {f : TwinUnit → TwinUnit} (hk : s.Hearing s₀) : (s.updTwin f).Hearing s₀ := hearing_mk hk
theorem State.settlePort_hearing {p : Nat} (hk : s.Hearing s₀) : (s.settlePort p).Hearing s₀ := (settlePort_quiet (.refl _)).hearing hk
theorem State.calStage_hearing {c : Nat} {f : CalIn} (hk : s.Hearing s₀) : (s.calStage c f).2.Hearing s₀ := (calStage_quiet (.refl _)).hearing hk
theorem State.stageRx_hearing {f : Staged} {good known : Bool} (hk : s.Hearing s₀) : (s.stageRx f good known).2.Hearing s₀ :=
  (stageRx_quiet (.refl _)).hearing hk
theorem State.skidPush_hearing {c : Nat} {f : SkidFrame} (hk : s.Hearing s₀) : (s.skidPush c f).Hearing s₀ := hearing_mk hk
theorem State.peepTap_hearing {t : TapIn} (hk : s.Hearing s₀) : (s.peepTap t).Hearing s₀ := (peepTap_quiet (.refl _)).hearing hk
theorem State.drawMasks_hearing {c : Nat} (hk : s.Hearing s₀) : (s.drawMasks c).Hearing s₀ := (drawMasks_quiet (.refl _)).hearing hk
theorem State.saFlag_hearing {c r bit : Nat} (hk : s.Hearing s₀) : (s.saFlag c r bit).Hearing s₀ := (saFlag_quiet (.refl _)).hearing hk
theorem State.frameLeft_hearing {p : Nat} {f : TxFrame} {bytes : Bytes} {fin : End}
    (hk : s.Hearing s₀) : (s.frameLeft p f bytes fin).Hearing s₀ :=
  (frameLeft_wired (.refl _)).hearing hk
theorem State.dropFrame_hearing {p : Nat} {f : TxFrame} (hk : s.Hearing s₀) : (s.dropFrame p f).Hearing s₀ :=
  (dropFrame_quiet (.refl _)).hearing hk
theorem State.updKeys_hearing {f : KeyUnit → KeyUnit} (hk : s.Hearing s₀) : (s.updKeys f).Hearing s₀ := hearing_mk hk

theorem State.rxCause_hearing {p bit : Nat} (hk : s.Hearing s₀) : (s.rxCause p bit).Hearing s₀ := by
  have h : (s.updPort p fun q => { q with cause := q.cause.setBit bit true }).Hearing s₀ :=
    updPort_hearing hk (PortRx.hears_cause _ bit)
  unfold rxCause
  dsimp only
  split
  · exact raise_hearing h
  · exact h

theorem State.setTimer_hearing {p k : Nat} {v : Option Word} (hk : s.Hearing s₀) : (s.setTimer p k v).Hearing s₀ :=
  updPort_hearing hk (PortRx.hears_mk _)

theorem State.store_hearing {row : Bool} {key : Nat} {v : Word} (hk : s.Hearing s₀) : (s.store row key v).Hearing s₀ := by
  unfold store
  split
  · exact hearing_mk hk
  · exact hearing_mk hk

theorem State.underStart_hearing {p : Nat} {age : Nat} {f : State → State} (hk : s.Hearing s₀)
    (hf : ∀ t, t.Hearing s₀ → (f t).Hearing s₀) : (s.underStart p age f).Hearing s₀ := by
  have before (l : List Past) : (l.foldr (fun e s => s.store e.row e.key e.old) s).Hearing s₀ := by
    induction l with
    | nil => exact hk
    | cons e l ih => exact store_hearing ih
  exact foldl_hearing (hf _ (before _)) fun _ _ h => store_hearing h

end

/-! ### The transmit side, the keys and the receive path, in the order of the model -/

section
variable {s s₀ : State}

theorem State.notePast_hearing {row : Bool} {key : Nat} {old new : Word} (hk : s.Hearing s₀) : (s.notePast row key old new).Hearing s₀ := by
  unfold notePast
  split
  · exact hk
  · exact hearing_mk hk

theorem State.setPortReg_hearing {idx sub : Nat} {v : Word} (hk : s.Hearing s₀) : (s.setPortReg idx sub v).Hearing s₀ :=
  setReg_hearing (notePast_hearing hk)

theorem State.setDoorRow_hearing {c r : Nat} {w : DoorRow} (hk : s.Hearing s₀) : (s.setDoorRow c r w).Hearing s₀ := hearing_mk hk

theorem State.updDoor_hearing {c : Nat} {f : DoorUnit → DoorUnit} (hk : s.Hearing s₀) : (s.updDoor c f).Hearing s₀ := hearing_mk hk

theorem State.parityErr_hearing {c r : Nat} (hk : s.Hearing s₀) : (s.parityErr c r).Hearing s₀ :=
  raiseOnce_hearing (bump_hearing (updDoor_hearing hk))

theorem State.doorLookup_hearing {c mac vid : Nat} {kinds : List Nat} (hk : s.Hearing s₀) : (s.doorLookup c mac vid kinds).2.Hearing s₀ := by
  unfold doorLookup
  dsimp only
  repeat' with_reducible first
    | assumption | apply parityErr_hearing | apply foldl_hearing | intro _

theorem State.doorDest_hearing {p vid da : Nat} {out : DoorOut} (hk : s.Hearing s₀) : (s.doorDest p vid da out).2.Hearing s₀ := by
  unfold doorDest
  dsimp only
  repeat' with_reducible first
    | assumption | apply doorLookup_hearing | apply bumpPort_hearing | split

theorem State.doorPunt_hearing {p source : Nat} (hk : s.Hearing s₀) : (s.doorPunt p source).2.Hearing s₀ := bumpPort_hearing hk

theorem State.doorDecide_hearing {p sa da fvid : Nat} (hk : s.Hearing s₀) : (s.doorDecide p sa da fvid).2.Hearing s₀ := by
  unfold doorDecide
  dsimp only
  repeat' with_reducible first
    | assumption | apply bumpPort_hearing | apply doorLookup_hearing | apply raiseOnce_hearing | apply doorDest_hearing | apply doorPunt_hearing
    | split

theorem State.queueLearn_hearing {c : Nat} {q : LearnReq} (hk : s.Hearing s₀) : (s.queueLearn c q).Hearing s₀ := by
  unfold queueLearn
  dsimp only
  repeat' with_reducible first
    | assumption | apply bump_hearing | apply updDoor_hearing | split

theorem State.doorLearn_hearing {p sa fvid : Nat} {seen : DoorSeen} (hk : s.Hearing s₀) : (s.doorLearn p sa fvid seen).Hearing s₀ := by
  unfold doorLearn
  dsimp only
  repeat' with_reducible first
    | assumption | apply queueLearn_hearing | apply setDoorRow_hearing | apply bumpPort_hearing | split

theorem State.doorUpset_hearing {c : Nat} {ups : List Upset} (hk : s.Hearing s₀) : (s.doorUpset c ups).Hearing s₀ := by
  unfold doorUpset
  dsimp only
  repeat' with_reducible first
    | assumption | apply setDoorRow_hearing | apply foldl_hearing | intro _ | split

theorem State.inbandRequest_hearing {body : Bytes} (hk : s.Hearing s₀) : (s.inbandRequest body).Hearing s₀ := by
  unfold inbandRequest
  split
  · exact hk
  split
  · exact hk
  extract_lets good u
  split
  · exact raise_hearing (bump_hearing hk)
  split
  · exact bump_hearing hk
  split
  · exact bump_hearing (hearing_mk hk)
  · exact hearing_mk hk

theorem State.calEcc_hearing {c : Nat} {rule : Bool} {k : Nat} (hk : s.Hearing s₀) : (s.calEcc c rule k).Hearing s₀ := by
  unfold calEcc
  dsimp only
  repeat' with_reducible first
    | assumption | apply rowSet_hearing | apply setClTx_hearing | apply raiseOnce_hearing | apply bump_hearing | split

theorem State.landFcLate_hearing {p back : Nat} (hk : s.Hearing s₀) : (s.landFcLate p back).Hearing s₀ := by
  unfold landFcLate
  dsimp only
  split
  · exact hk
  · exact foldl_hearing (updPort_hearing hk (PortRx.hears_mk _)) fun u w hu =>
      settlePort_hearing (updPort_hearing (setPortReg_hearing hu) (PortRx.hears_mk _))

theorem State.ctlOnLanes_hearing {p : Nat} (hk : s.Hearing s₀) : (s.ctlOnLanes p).Hearing s₀ := hearing_mk hk

theorem State.lanes_hearing {p sfd : Nat} {frag : Option Nat} {bytes : Bytes} (hk : s.Hearing s₀) : (s.lanes p sfd frag bytes).Hearing s₀ := by
  unfold lanes
  repeat' with_reducible first
    | assumption | apply emit_hearing | split

theorem State.sendOwn_hearing {p sfd : Nat} {bytes : Bytes} (hk : s.Hearing s₀) : (s.sendOwn p sfd bytes).Hearing s₀ :=
  peepTap_hearing (lanes_hearing hk)

theorem State.sendVerify_hearing {p smd : Nat} (hk : s.Hearing s₀) : (s.sendVerify p smd).Hearing s₀ := sendOwn_hearing hk

theorem State.countSent_hearing {p : Nat} {body : Bytes} (hk : s.Hearing s₀) : (s.countSent p body).Hearing s₀ := by
  unfold countSent
  dsimp only
  repeat' with_reducible first
    | assumption | apply bumpPort_hearing

theorem State.sendMacCtl_hearing {p : Nat} {body : Bytes} (hk : s.Hearing s₀) : (s.sendMacCtl p body).Hearing s₀ :=
  sendOwn_hearing (countSent_hearing hk)

theorem State.sendCtl_hearing {p : Nat} {k : CtlFrame} (hk : s.Hearing s₀) : (s.sendCtl p k).Hearing s₀ := by
  unfold sendCtl
  dsimp only
  repeat' with_reducible first
    | assumption | apply landFcLate_hearing | apply ctlOnLanes_hearing | apply sendVerify_hearing | apply bumpPort_hearing | apply sendMacCtl_hearing
    | apply foldl_hearing | intro _ | split

theorem State.queueCtl_hearing {p : Nat} {k : CtlFrame} (hk : s.Hearing s₀) : (s.queueCtl p k).Hearing s₀ := by
  unfold queueCtl
  repeat' with_reducible first
    | assumption | apply sendCtl_hearing | apply updPortTx_hearing | split

theorem State.verifyStart_hearing {p : Nat} (hk : s.Hearing s₀) : (s.verifyStart p).Hearing s₀ := by
  unfold verifyStart
  dsimp only
  repeat' with_reducible first
    | assumption | apply updPortTx_hearing | apply queueCtl_hearing | split

theorem State.landLate_hearing {p : Nat} (hk : s.Hearing s₀) : (s.landLate p).Hearing s₀ := by
  unfold landLate
  dsimp only
  repeat' with_reducible first
    | assumption | apply updPortTx_hearing | apply verifyStart_hearing | apply setReg_hearing | apply foldl_hearing | intro _ | split

theorem State.xoffDone_hearing {p : Nat} (hk : s.Hearing s₀) : (s.xoffDone p).Hearing s₀ := hearing_mk hk

theorem State.sendPfc_hearing {p : Nat} (hk : s.Hearing s₀) : (s.sendPfc p).Hearing s₀ := queueCtl_hearing (xoffDone_hearing hk)

theorem State.settlePfc_hearing {p : Nat} (hk : s.Hearing s₀) : (s.settlePfc p).Hearing s₀ := by
  unfold settlePfc
  repeat' with_reducible first
    | assumption | apply sendPfc_hearing | split

theorem State.sendWaiting_hearing {p : Nat} (hk : s.Hearing s₀) : (s.sendWaiting p).Hearing s₀ := by
  unfold sendWaiting
  dsimp only
  repeat' with_reducible first
    | assumption | apply settlePfc_hearing | apply sendCtl_hearing | apply setPortTx_hearing | apply foldl_hearing | intro _ | split

theorem State.boundaryTx_hearing {p : Nat} (hk : s.Hearing s₀) : (s.boundaryTx p).Hearing s₀ := landLate_hearing (sendWaiting_hearing hk)

theorem State.endOnLanes_hearing {p : Nat} (hk : s.Hearing s₀) : (s.endOnLanes p).Hearing s₀ := hearing_mk hk

theorem State.countFirst_hearing {p : Nat} {f : TxFrame} {slot : Nat} (hk : s.Hearing s₀) : (s.countFirst p f slot).Hearing s₀ := by
  unfold countFirst
  repeat' with_reducible first
    | assumption | apply bumpPort_hearing | split

theorem State.wireFree_hearing {p : Nat} {f : TxFrame} (hk : s.Hearing s₀) : (s.wireFree p f).Hearing s₀ :=
  boundaryTx_hearing (endOnLanes_hearing (updPortTx_hearing hk))

theorem State.sendFragment_hearing {p : Nat} {f : TxFrame} {bytes tail : Bytes}
    (hk : s.Hearing s₀) : (s.sendFragment p f bytes tail).Hearing s₀ := by
  unfold sendFragment
  dsimp only
  repeat' with_reducible first
    | assumption | apply bumpPort_hearing | apply lanes_hearing | split

theorem State.stompLanes_hearing {p : Nat} {f : TxFrame} {body : Bytes} (hk : s.Hearing s₀) : (s.stompLanes p f body).Hearing s₀ :=
  frameLeft_hearing (sendFragment_hearing (bumpPort_hearing hk))

theorem State.stompWire_hearing {p : Nat} {f : TxFrame} {body : Bytes} (hk : s.Hearing s₀) : (s.stompWire p f body).Hearing s₀ :=
  wireFree_hearing (stompLanes_hearing hk)

theorem State.cutWire_hearing {p slot : Nat} {f : TxFrame} {pad : Bool} (hk : s.Hearing s₀) : (s.cutWire p slot f pad).Hearing s₀ :=
  stompWire_hearing (countFirst_hearing hk)

theorem State.stompHeld_hearing {p : Nat} {f : TxFrame} (hk : s.Hearing s₀) : (s.stompHeld p f).Hearing s₀ :=
  stompWire_hearing (updPortTx_hearing hk)

theorem State.txKeyErase_hearing {p : Nat} {hit : Nat → Bool} (hk : s.Hearing s₀) : (s.txKeyErase p hit).Hearing s₀ := by
  unfold txKeyErase
  dsimp only
  repeat' with_reducible first
    | assumption | apply setPortTx_hearing | apply bumpPort_hearing | apply dropFrame_hearing | apply cutWire_hearing | apply stompHeld_hearing
    | apply foldl_hearing | intro _ | split

theorem State.freshPns_hearing {c r : Nat} (hk : s.Hearing s₀) : (s.freshPns c r).Hearing s₀ := hearing_mk hk

theorem State.keyAlarm_hearing {bit : Nat} (hk : s.Hearing s₀) : (s.keyAlarm bit).Hearing s₀ := by
  unfold keyAlarm
  dsimp only
  repeat' with_reducible first
    | assumption | apply updKeys_hearing | apply updTwin_hearing | split

theorem State.landKeyErase_hearing {c r : Nat} (hk : s.Hearing s₀) : (s.landKeyErase c r).Hearing s₀ := by
  unfold landKeyErase
  dsimp only
  repeat' with_reducible first
    | assumption | apply freshPns_hearing | apply setSlot_hearing | apply txKeyErase_hearing | apply foldl_hearing | intro _

theorem State.keyEcc_hearing {k : Nat} {bad : Bool} (hk : s.Hearing s₀) : (s.keyEcc k bad).Hearing s₀ := by
  unfold keyEcc
  dsimp only
  repeat' with_reducible first
    | assumption | apply bump_hearing | apply landKeyErase_hearing | apply updKeys_hearing | apply raise_hearing | apply noteEcc_hearing
    | apply keyAlarm_hearing | split

theorem State.keyUpsets_hearing {ups : List Upset} (hk : s.Hearing s₀) : (s.keyUpsets ups).Hearing s₀ := by
  unfold keyUpsets
  repeat' with_reducible first
    | assumption | apply keyEcc_hearing | apply foldl_hearing | intro _ | split

theorem State.acceptPn_hearing {c r pn : Nat} {xpn : Bool} (hk : s.Hearing s₀) : (s.acceptPn c r pn xpn).Hearing s₀ := by
  unfold acceptPn
  dsimp only
  repeat' with_reducible first
    | assumption | apply rowSet_hearing | apply saFlag_hearing | split

theorem State.heldBytes_hearing {c n others : Nat} (hk : s.Hearing s₀) : (s.heldBytes c n others).Hearing s₀ := hearing_mk hk

theorem State.saBump_hearing {c r sub n : Nat} (hk : s.Hearing s₀) : (s.saBump c r sub n).Hearing s₀ := bumpRow_hearing hk

theorem State.secCountRx_hearing {p : Nat} {a0 : SecCount} (hk : s.Hearing s₀) : (s.secCountRx p a0).Hearing s₀ := by
  unfold secCountRx
  repeat' with_reducible first
    | assumption | apply bumpPort_hearing | apply saBump_hearing | split

theorem State.secVerify_hearing {f : SecIn} {t : SecTag} {r : Nat} {w : Word} {k : KeyImg} {sci pn : Nat} {pass : Bool}
    (hk : s.Hearing s₀) : (s.secVerify f t r w k sci pn pass).2.Hearing s₀ := by
  unfold secVerify
  dsimp only
  repeat' with_reducible first
    | assumption | apply saBump_hearing | apply raiseOnce_hearing | apply bump_hearing | apply bumpPort_hearing | apply drawMasks_hearing
    | apply acceptPn_hearing | split

theorem State.secRx_hearing {f : SecIn} (hk : s.Hearing s₀) : (s.secRx f).2.Hearing s₀ := by
  unfold secRx
  dsimp only
  repeat' with_reducible first
    | assumption | apply secCountRx_hearing | apply bumpPort_hearing | apply heldBytes_hearing | apply raiseOnce_hearing | apply bump_hearing
    | apply secVerify_hearing | split

theorem State.secStageRx_hearing {f : SecIn} (hk : s.Hearing s₀) : (s.secStageRx f).2.Hearing s₀ := by
  unfold secStageRx
  repeat' with_reducible first
    | assumption | apply secRx_hearing | split

theorem State.setMeterSt_hearing {c r : Nat} {m : MeterSt} (hk : s.Hearing s₀) : (s.setMeterSt c r m).Hearing s₀ := hearing_mk hk

theorem State.meterEcc_hearing {c : Nat} {map : Bool} {r : Nat} (hk : s.Hearing s₀) : (s.meterEcc c map r).Hearing s₀ := by
  unfold meterEcc
  dsimp only
  repeat' with_reducible first
    | assumption | apply rowSet_hearing | apply setClRx_hearing | apply raiseOnce_hearing | apply bump_hearing | split

theorem State.meterEnd_hearing {c : Nat} {due : Option MeterDue} {len : Nat} (hk : s.Hearing s₀) : (s.meterEnd c due len).Hearing s₀ := by
  unfold meterEnd
  dsimp only
  repeat' with_reducible first
    | assumption | apply bumpRow_hearing | apply setMeterSt_hearing | split

theorem State.meterStage_hearing {f : MeterIn} (hk : s.Hearing s₀) : (s.meterStage f).2.Hearing s₀ := by
  unfold meterStage
  dsimp only
  repeat' with_reducible first
    | assumption | apply bumpPort_hearing | apply bumpRow_hearing | apply setMeterSt_hearing | split

theorem State.actControl_hearing {p : Nat} {bs : Bytes} (hk : s.Hearing s₀) : (s.actControl p bs).Hearing s₀ := by
  unfold actControl
  dsimp only
  repeat' with_reducible first
    | assumption | apply settlePort_hearing | apply bumpPort_hearing | apply setTimer_hearing | apply foldl_hearing | intro _ | split

theorem State.coreEnd_hearing {p : Nat} {bytes : Bytes} {fin : End} {reason : Nat}
    (hk : s.Hearing s₀) : (s.coreEnd p bytes fin reason).Hearing s₀ :=
  hearing_mk hk

theorem State.countOk_hearing {p : Nat} {bs : Bytes} (hk : s.Hearing s₀) : (s.countOk p bs).Hearing s₀ := by
  unfold countOk
  dsimp only
  repeat' with_reducible first
    | assumption | apply bumpPort_hearing

theorem State.rxUpsets_hearing {c : Nat} {ups : List Upset} (hk : s.Hearing s₀) : (s.rxUpsets c ups).Hearing s₀ := by
  unfold rxUpsets
  dsimp only
  repeat' with_reducible first
    | assumption | apply keyUpsets_hearing | apply doorUpset_hearing | apply meterEcc_hearing | apply calEcc_hearing | apply foldl_hearing | intro _
    | split

theorem State.decideRx_hearing {p : Nat} {o : SecOut} {mark : Bool} {tag : Option SysTag} {stamp : Word} {len : Option Nat} {held : Nat}
    (hk : s.Hearing s₀) : (s.decideRx p o mark tag stamp len held).2.Hearing s₀ := by
  unfold decideRx
  dsimp only
  split
  · next e => exact hearing_of_pair e (doorDecide_hearing hk)
  · next e => exact meterStage_hearing (hearing_of_pair e (doorDecide_hearing hk))

theorem State.filterRx_hearing {p : Nat} {bs : Bytes} (hk : s.Hearing s₀) : (s.filterRx p bs).2.Hearing s₀ := by
  unfold filterRx
  repeat' with_reducible first
    | assumption | apply bumpPort_hearing | apply rxCause_hearing | split

theorem State.knock_hearing {p : Nat} {bs : Bytes} (hk : s.Hearing s₀) : (s.knock p bs).Hearing s₀ := by
  unfold knock
  dsimp only
  repeat' with_reducible first
    | assumption | apply bumpPort_hearing | apply bump_hearing | apply raise_hearing | apply updClRx_hearing | split

theorem State.sized_hearing {p : Nat} {bs : Bytes} {how : RxHow} {known : Bool} {stamp begun : Word} {stage : RxStage} {env : RxEnv}
    (hk : s.Hearing s₀) : (s.sized p bs how known stamp begun stage env).2.Hearing s₀ := by
  unfold sized
  dsimp only
  repeat' with_reducible first
    | assumption | apply bumpPort_hearing | apply countOk_hearing | apply actControl_hearing | split

theorem State.handOver_hearing {p : Nat} {punt : Option (Nat × Nat)} {body : Bytes} {fin : End} {known : Bool} {stamp : Word} {vid colour : Nat}
    (hk : s.Hearing s₀) : (s.handOver p punt body fin known stamp vid colour).Hearing s₀ := by
  unfold handOver
  repeat' with_reducible first
    | assumption | apply bump_hearing | apply stageRx_hearing | split

theorem State.toCore_hearing {p : Nat} {m : FrameMeta} {bytes : Bytes} {fin : End} {reason reach : Nat}
    (hk : s.Hearing s₀) : (s.toCore p m bytes fin reason reach).Hearing s₀ := by
  unfold toCore
  dsimp only
  repeat' with_reducible first
    | assumption | apply raiseOnce_hearing | apply bump_hearing | apply skidPush_hearing | split

theorem State.finishRx_hearing {p : Nat} {v : RxVerdict} {o : SecOut} {strip : Bool} {tail : Bytes} {f : RxPass}
    (hk : s.Hearing s₀) : (s.finishRx p v o strip tail f).Hearing s₀ := by
  unfold finishRx
  dsimp only
  repeat' with_reducible first
    | assumption | apply doorLearn_hearing | apply meterEnd_hearing | apply peepTap_hearing | apply handOver_hearing | apply coreEnd_hearing
    | apply toCore_hearing | split

theorem State.pipeline_hearing {p : Nat} {strip : Bool} {f : RxPass} (hk : s.Hearing s₀) : (s.pipeline p strip f).Hearing s₀ := by
  unfold pipeline
  dsimp only
  split
  · next e => exact hearing_of_pair e (secStageRx_hearing (peepTap_hearing hk))
  next o u e =>
  have hu : u.Hearing s₀ := hearing_of_pair e (secStageRx_hearing (peepTap_hearing hk))
  split
  · exact finishRx_hearing hu
  · exact hu
  · exact hu
  split
  · exact hu
  split
  · next e => exact hearing_of_pair e (calStage_hearing hu)
  · next e => exact hearing_of_pair e (calStage_hearing hu)
  next v e =>
  have hv : v.Hearing s₀ := hearing_of_pair e (calStage_hearing hu)
  split
  · split
    · exact inbandRequest_hearing hv
    · exact hv
  split
  · next e => exact hearing_of_pair e (decideRx_hearing hv)
  · next e => exact finishRx_hearing (hearing_of_pair e (decideRx_hearing hv))

theorem State.passOrWait_hearing {s s0 : State} {p : Nat} {express : Bool} {f : RxPass}
    (hk : s.Hearing s₀) (hks0 : s0.Hearing s₀) : (s.passOrWait s0 p express f).Hearing s₀ := by
  unfold passOrWait
  repeat' with_reducible first
    | assumption | apply bumpPort_hearing | apply rxUpsets_hearing | apply updPort_hearing | apply pipeline_hearing | exact PortRx.hears_mk _ | split

theorem State.rxMac_hearing {p : Nat} {bs : Bytes} {how : RxHow} {express known : Bool} {stamp begun : Word} {stage : RxStage} {env : RxEnv}
    (hk : s.Hearing s₀) : (s.rxMac p bs how express known stamp begun stage env).Hearing s₀ := by
  have settles {t : State} (ht : t.Hearing s₀) : (if s.changedSince p (s.since begun) = [] then t else t.settlePort p).Hearing s₀ := by
    split
    · exact ht
    · exact settlePort_hearing ht
  refine settles (underStart_hearing hk fun t ht => ?_)
  extract_lets u x
  have hu : u.Hearing s₀ := by
    unfold u
    split
    · exact knock_hearing ht
    · exact ht
  have hx : x.2.Hearing s₀ := by
    unfold x
    split
    · exact filterRx_hearing hu
    · exact hu
    · exact hu
  split
  · exact hu
  split
  · exact hx
  split
  · next e => exact hearing_of_pair e (sized_hearing hx)
  · next e => exact passOrWait_hearing (hearing_of_pair e (sized_hearing hx)) hx

theorem State.reasmErr_hearing {p age : Nat} (hk : s.Hearing s₀) : (s.reasmErr p age).Hearing s₀ := by
  unfold reasmErr
  repeat' with_reducible first
    | assumption | apply rxCause_hearing | apply bumpPort_hearing | split

theorem State.releaseWaiting_hearing {p : Nat} (hk : s.Hearing s₀) : (s.releaseWaiting p).Hearing s₀ := by
  unfold releaseWaiting
  dsimp only
  repeat' with_reducible first
    | assumption | apply updPort_hearing | apply underStart_hearing | apply pipeline_hearing | apply foldl_hearing | intro _ | exact PortRx.hears_mk _

theorem State.coreFeed_hearing {p : Nat} {bytes : Bytes} (hk : s.Hearing s₀) : (s.coreFeed p bytes).Hearing s₀ := hearing_mk hk

theorem State.decideEarly_hearing {p : Nat} {r : Reasm} {env : RxEnv} (hk : s.Hearing s₀) : (s.decideEarly p r env).2.Hearing s₀ := by
  unfold decideEarly
  dsimp only
  split
  · exact hk
  · exact hk
  split
  · exact hk
  split
  · next e => exact hearing_of_pair e (calStage_hearing hk)
  · next e => exact hearing_of_pair e (calStage_hearing hk)
  next e =>
  have hu := hearing_of_pair e (calStage_hearing hk)
  split
  · next e => exact hearing_of_pair e (decideRx_hearing hu)
  next e =>
  have hv := hearing_of_pair e (decideRx_hearing hu)
  split
  · exact hv
  split
  · exact raiseOnce_hearing (bump_hearing hv)
  · exact skidPush_hearing hv

theorem State.cutOn_hearing {p : Nat} {r : Reasm} {env : RxEnv} (hk : s.Hearing s₀) : (s.cutOn p r env).2.Hearing s₀ := by
  have hu : (s.rxUpsets (p / 64) env.upsets).Hearing s₀ := rxUpsets_hearing hk
  unfold cutOn
  dsimp only
  repeat' with_reducible first
    | assumption | apply coreFeed_hearing | apply decideEarly_hearing | apply filterRx_hearing | split

theorem State.fragCodeErr_hearing {p : Nat} {stage : RxStage} {env : RxEnv} (hk : s.Hearing s₀) :
    (s.fragCodeErr p stage env).Hearing s₀ := by
  unfold fragCodeErr
  split
  · exact bumpPort_hearing hk
  · exact hk

theorem State.fecWords_hearing {p : Nat} {env : RxEnv} (hk : s.Hearing s₀) : (s.fecWords p env).Hearing s₀ := by
  unfold fecWords
  dsimp only
  repeat' with_reducible first
    | assumption | apply rxCause_hearing | apply bump_hearing | split

theorem State.badSfd_hearing {p back : Nat} (hk : s.Hearing s₀) : (s.badSfd p back).Hearing s₀ := by
  unfold badSfd
  split
  · exact hk
  · exact bumpPort_hearing hk

end

/-! ### The frame under reassembly (R156–R158) -/

/-- The locks of the lanes, and the link and the state of every port, are the same. -/
structure State.Steady (s s₀ : State) : Prop where
  laneLock : s.laneLock = s₀.laneLock
  link : ∀ p, (s.port p).link = (s₀.port p).link
  st : ∀ p, (s.port p).st = (s₀.port p).st

section
variable {s t s₀ : State}

theorem State.Steady.refl (s : State) : s.Steady s := ⟨rfl, fun _ => rfl, fun _ => rfl⟩

theorem State.Hearing.steady (h : t.Hearing s) (hk : s.Steady s₀) : t.Steady s₀ :=
  ⟨h.laneLock.trans hk.laneLock, fun p => (h.port p).link.trans (hk.link p), fun p => (h.port p).st.trans (hk.st p)⟩

/-- Another frame under reassembly, or none. -/
theorem State.setReasm_steady {p : Nat} {r : Option Reasm} (hk : s.Steady s₀) :
    (s.updPort p fun q => { q with reasm := r }).Steady s₀ := by
  have h (q : Nat) : ((s.updPort p fun q => { q with reasm := r }).port q).link = (s.port q).link ∧
      ((s.updPort p fun q => { q with reasm := r }).port q).st = (s.port q).st := by
    by_cases hq : q = p
    · subst hq; rw [port_updPort]; exact ⟨rfl, rfl⟩
    · rw [port_updPort_ne _ hq]; exact ⟨rfl, rfl⟩
  exact ⟨hk.laneLock, fun q => (h q).1.trans (hk.link q), fun q => (h q).2.trans (hk.st q)⟩

theorem State.endReasm_steady {p : Nat} (hk : s.Steady s₀) : (s.endReasm p).Steady s₀ := by
  unfold endReasm
  dsimp only
  split
  · exact hk
  · refine (releaseWaiting_hearing (.refl _)).steady ?_
    split
    · exact (rxMac_hearing (.refl _)).steady (setReasm_steady hk)
    · exact setReasm_steady hk

theorem State.underStart_steady {p : Nat} {age : Nat} {f : State → State} (hk : s.Steady s₀)
    (hf : ∀ t, t.Steady s₀ → (f t).Steady s₀) : (s.underStart p age f).Steady s₀ := by
  have before (l : List Past) : (l.foldr (fun e s => s.store e.row e.key e.old) s).Steady s₀ := by
    induction l with
    | nil => exact hk
    | cons e l ih => exact (store_hearing (.refl _)).steady ih
  exact (foldl_hearing (.refl _) fun _ _ h => store_hearing h).steady (hf _ (before _))

theorem State.holdReasm_steady {p : Nat} {r : Reasm} {env : RxEnv} (hk : s.Steady s₀) : (s.holdReasm p r env).Steady s₀ :=
  underStart_steady (setReasm_steady hk) fun _ ht => setReasm_steady ((cutOn_hearing (.refl _)).steady ht)

theorem State.wholeReasm_steady {p : Nat} {r : Reasm} {bs : Bytes} {env : RxEnv} (hk : s.Steady s₀) : (s.wholeReasm p r bs env).Steady s₀ :=
  (releaseWaiting_hearing (rxMac_hearing (.refl _))).steady (setReasm_steady hk)

theorem State.reasmErr_steady {p age : Nat} (hk : s.Steady s₀) : (s.reasmErr p age).Steady s₀ := (reasmErr_hearing (.refl _)).steady hk

theorem State.joinFragment_steady {p : Nat} {r : Reasm} {bs : Bytes} {cut : Bool} {env : RxEnv} (hk : s.Steady s₀) :
    (s.joinFragment p r bs cut env).Steady s₀ := by
  have hu : (s.fragCodeErr p r.stage env).Steady s₀ := (fragCodeErr_hearing (.refl _)).steady hk
  unfold joinFragment
  dsimp only
  repeat' with_reducible first
    | assumption | apply holdReasm_steady | apply endReasm_steady | apply reasmErr_steady | apply wholeReasm_steady | split

theorem State.rxFragment_steady {p num : Nat} {frag : Option Nat} {bs : Bytes} {cut : Bool} {env : RxEnv} (hk : s.Steady s₀) :
    (s.rxFragment p num frag bs cut env).Steady s₀ := by
  have hbad {u : State} (h : u.Steady s₀) : ((u.fragCodeErr p .hold env).reasmErr p env.back).Steady s₀ :=
    (reasmErr_hearing (fragCodeErr_hearing (.refl _))).steady h
  have hu : (s.bumpPort p Pc.rxPreemptFrag).Steady s₀ := (bumpPort_hearing (.refl _)).steady hk
  unfold rxFragment
  dsimp only
  repeat' with_reducible first
    | assumption | apply hbad | apply endReasm_steady | apply reasmErr_steady | apply joinFragment_steady | split

theorem State.rxStart_steady {p sfd : Nat} {bs : Bytes} {how : RxHow} {env : RxEnv} (hk : s.Steady s₀) :
    (s.rxStart p sfd bs how env).Steady s₀ := by
  have hu : ((s.landFcLate p env.back).fecWords p env).Steady s₀ := (fecWords_hearing (landFcLate_hearing (.refl _))).steady hk
  have hbad : (((s.landFcLate p env.back).fecWords p env).badSfd p env.back).Steady s₀ := (badSfd_hearing (.refl _)).steady hu
  unfold rxStart
  dsimp only
  split
  · exact hk
  split
  · exact (rxMac_hearing (.refl _)).steady hu
  split
  · exact hbad
  split
  · exact rxFragment_steady hu
  · exact rxFragment_steady hu
  · split
    · exact hu
    · exact hbad

theorem State.cutRx_steady {p : Nat} {cut : Option CutFrame} (hk : s.Steady s₀) : (s.cutRx p cut).Steady s₀ := by
  cases cut with
  | none => exact hk
  | some f => exact rxStart_steady hk

end

end Sys2Proof.Machine
end

