-- ==== Sys2Proof/Proofs/Reassembly.lean ====
section
namespace Sys2Proof.Machine
open State

/-! ### Start fragments, continuations and the timeout (R156–R158) -/

section
variable {p : Nat} {s : State} {r : Reasm}

theorem cutOn_keeps (s : State) (p : Nat) (r : Reasm) (env : RxEnv) :
    (s.cutOn p r env).1.num = r.num ∧ (s.cutOn p r env).1.data = r.data ∧ (s.cutOn p r env).1.frag = r.frag := by
  have early (u : State) (q : Reasm) : (u.decideEarly p q env).1.num = q.num ∧ (u.decideEarly p q env).1.data = q.data ∧
      (u.decideEarly p q env).1.frag = q.frag := by
    unfold decideEarly
    dsimp only
    repeat' split
    all_goals exact ⟨rfl, rfl, rfl⟩
  unfold cutOn
  dsimp only
  split
  · exact ⟨rfl, rfl, rfl⟩
  split
  · exact ⟨rfl, rfl, rfl⟩
  · exact ⟨rfl, rfl, rfl⟩
  · split <;> exact ⟨rfl, rfl, rfl⟩
  split
  · exact early _ r
  split
  · exact ⟨rfl, rfl, rfl⟩
  · exact early _ { r with passed := true }

/-- What a port holds of a frame under reassembly, whatever of it the core was given. -/
theorem holdReasm_holds (s : State) (p : Nat) (r : Reasm) (env : RxEnv) :
    ∃ q, ((s.holdReasm p r env).port p).reasm = some q ∧ q.num = r.num ∧ q.data = r.data ∧ q.frag = r.frag := by
  unfold holdReasm underStart
  dsimp only
  generalize List.foldr _ _ _ = u
  refine ⟨(u.cutOn p r env).1, ?_, cutOn_keeps u p r env⟩
  rw [((foldl_hearing (.refl _) fun _ _ h => store_hearing h).port p).reasm, port_updPort]

/-- A fragment that ends with its mCRC is held with what came before it, and is all that the port then does with it. -/
theorem joinFragment_holds {bs data : Bytes} (hst : (s.port p).st = .opened) (hbs : bs = data ++ mcrcOf (r.data ++ data)) :
    ∃ q, ((s.joinFragment p r bs false {}).port p).reasm = some q ∧ q.num = r.num ∧ q.data = r.data ++ data ∧ q.frag = r.frag := by
  obtain ⟨htake, hdrop⟩ := takeMcrc data (mcrcOf (r.data ++ data)) (mcrc_len _)
  rw [← hbs] at htake hdrop
  have hopen : ((s.holdReasm p { r with data := r.data ++ data, lastAt := s.runTime } {}).port p).st ≠ .closing := by
    rw [(holdReasm_steady (.refl s)).st, hst]
    decide
  unfold joinFragment
  dsimp only
  rw [htake, hdrop, if_pos (by simp), show s.fragCodeErr p r.stage {} = s from rfl, if_neg hopen]
  exact holdReasm_holds ..

/-- A fragment of a port that receives goes to the reassembly. -/
theorem rxStart_fragment {sfd num : Nat} (h : s.RxPlain p) (hpre : s.regB (0x1C00 + p) 4 = true) (bs : Bytes) :
    (smdSNum sfd = some num → s.rxStart p sfd bs .whole {} = s.rxFragment p num none bs false {}) ∧
    (smdSNum sfd = none → smdCNum sfd = some num →
      s.rxStart p sfd bs .whole {} = s.rxFragment p num (smdSNum (byteAt bs 0).toNat <|> some 4) (bs.drop 1) false {}) := by
  obtain ⟨-, hl, hu, ho, -, hf, -, -, -, -, hw, -⟩ := h
  have ht : s.rxTakes p 0 = true := by simp [rxTakes, hl, hu, ho]
  have hfec : s.fecWords p {} = s := by simp [fecWords, hf]
  have hlate : s.landFcLate p 0 = s := by simp [landFcLate, hw]
  have hwhole : (RxHow.whole == RxHow.cut) = false := rfl
  have hd5 : smdSNum 0xD5 = none ∧ smdCNum 0xD5 = none := by decide
  constructor
  · intro hs
    have hne : sfd ≠ 0xD5 := fun e => by rw [e, hd5.1] at hs; exact absurd hs (by simp)
    simp [rxStart, ht, hlate, hfec, hne, hpre, hs, hwhole]
  · intro hs hc
    have hne : sfd ≠ 0xD5 := fun e => by rw [e, hd5.2] at hc; exact absurd hc (by simp)
    simp [rxStart, ht, hlate, hfec, hne, hpre, hs, hc, hwhole]

/-- A start fragment of at least 64 bytes, where no frame waits. -/
theorem rxFragment_start {num : Nat} {data : Bytes} (h : s.RxPlain p) (hnone : (s.port p).reasm = none) (hlen : 60 ≤ data.length) :
    ∃ q, ((s.rxFragment p num none (data ++ mcrcOf data) false {}).port p).reasm = some q ∧ q.num = num ∧ q.data = data ∧ q.frag = 0 := by
  obtain ⟨-, -, -, hst, hawake, -⟩ := h
  have hnight : s.rxNight p 0 = false := by simp [rxNight, hawake]
  have hlong : ¬(data ++ mcrcOf data).length < 64 := by rw [List.length_append, mcrc_len]; omega
  unfold rxFragment
  dsimp only
  rw [hnight, if_neg Bool.false_ne_true, bumpPort_port, hnone, Option.isSome_none, if_neg Bool.false_ne_true, if_neg hlong]
  exact joinFragment_holds (data := data) (by rw [bumpPort_port, hst]) rfl

/-- The continuation that the frame under reassembly waits for. -/
theorem rxFragment_continuation {data : Bytes} (h : s.RxPlain p) (hr : (s.port p).reasm = some r) (hlen : 60 ≤ data.length) :
    ∃ q, ((s.rxFragment p r.num (some r.frag) (data ++ mcrcOf (r.data ++ data)) false {}).port p).reasm = some q ∧
      q.num = r.num ∧ q.data = r.data ++ data ∧ q.frag = (r.frag + 1) % 4 := by
  obtain ⟨-, -, -, hst, hawake, -⟩ := h
  have hnight : s.rxNight p 0 = false := by simp [rxNight, hawake]
  have hlong : ¬(data ++ mcrcOf (r.data ++ data)).length < 64 := by rw [List.length_append, mcrc_len]; omega
  unfold rxFragment
  dsimp only
  rw [hnight, if_neg Bool.false_ne_true, bumpPort_port, hr]
  dsimp only
  rw [if_neg (not_not.mpr rfl), if_neg (not_or.mpr ⟨not_not.mpr rfl, hlong⟩)]
  exact joinFragment_holds (by rw [bumpPort_port, hst]) rfl

/-- What the timeout of a frame under reassembly gives up, and the cause it sets. -/
theorem reasmErr_endReasm (s : State) (p age : Nat) (hr : (s.port p).reasm = some r) :
    (((s.reasmErr p age).endReasm p).port p).reasm = none ∧ (((s.reasmErr p age).endReasm p).port p).cause.bit 5 = true := by
  have herr : ((s.reasmErr p age).port p).reasm = some r := ((reasmErr_hearing (.refl s)).port p).reasm.trans hr
  have hcause : ((s.reasmErr p age).port p).cause.bit 5 = true := by
    rw [reasmErr, rxCause_port]
    exact bit_setBit_self _ 5 (by decide)
  generalize s.reasmErr p age = u at herr hcause
  obtain ⟨v, hv, hend⟩ : ∃ v, v.Hearing (u.updPort p fun q => { q with reasm := none }) ∧ u.endReasm p = v := by
    unfold endReasm
    rw [herr]
    refine ⟨_, releaseWaiting_hearing ?_, rfl⟩
    split
    · exact rxMac_hearing (.refl _)
    · exact .refl _
  have hport := hv.port p
  rw [port_updPort] at hport
  rw [hend]
  exact ⟨hport.reasm, hport.cause 5 hcause⟩

end

/-- Settles O9. A fragment with a good mCRC reaches the frame under reassembly, which the core does not change; a frame given up is gone,
and what the port does with its bytes leaves its causes. -/
theorem reassembly : Obligations.Reassembly := by
  unfold Obligations.Reassembly
  refine ⟨?start, ?continuation, ?timeout⟩
  case start =>
    intro dt p n data s hp hn hpre hnone hlen
    have hp' := elapse_rxPlain dt hp
    have hfrag := (rxStart_fragment hp' hpre (data ++ mcrcOf data)).1 (smdSNum_smdS n hn)
    exact answersSettled (hfrag ▸ rxFragment_start hp' hnone hlen)
  case continuation =>
    rintro dt p n k data r s hp hn hk hpre hr rfl rfl hlen
    have hp' := elapse_rxPlain dt hp
    obtain ⟨hc, hs⟩ := smdCNum_smdC r.num hn
    have hfrag := (rxStart_fragment hp' hpre (BitVec.ofNat 8 (smdS r.frag) :: (data ++ mcrcOf (r.data ++ data)))).2 hs hc
    have hcount : (smdSNum (byteAt (BitVec.ofNat 8 (smdS r.frag) :: (data ++ mcrcOf (r.data ++ data))) 0).toNat <|> some 4) = some r.frag := by
      have hbyte : smdS r.frag < 2 ^ 8 := by interval_cases r.frag <;> decide
      rw [byteAt, List.getD_cons_zero, BitVec.toNat_ofNat, Nat.mod_eq_of_lt hbyte, smdSNum_smdS _ hk]
      rfl
    rw [hcount, List.drop_succ_cons, List.drop_zero] at hfrag
    exact answersSettled (hfrag ▸ rxFragment_continuation hp' hr hlen)
  case timeout =>
    intro dt p r s hr hruns hwaited
    have hr' : ((s.elapse dt).port p).reasm = some r := hr
    have hdue : ¬((decide ((s.elapse dt).since r.lastAt < (s.elapse dt).regN (0x1C00 + p) 6) || !(s.elapse dt).laneRuns (p / 64)) = true) := by
      rw [elapse_laneRuns, hruns, elapse_regN]
      simpa using hwaited
    have hexec : exec (.reasmTimeout dt p) s =
        settled (.next (((s.elapse dt).reasmErr p ((s.elapse dt).since r.begun)).endReasm p)) := by
      change execReasmTimeout dt p s = _
      unfold execReasmTimeout
      dsimp only
      rw [hr']
      exact if_neg hdue
    rw [hexec]
    exact answersSettled (reasmErr_endReasm _ p _ hr')

end Sys2Proof.Machine
end

