-- ==== Sys2Proof/Proofs/LinkStates.lean ====
section
namespace Sys2Proof.Machine
open State

/-! ### What the lanes of a port show (R131, R391) -/

/-- Whether the port drives its own PCS output, and what its lanes carry between frames. -/
def State.shown (s : State) (p : Nat) : Bool × LaneSignal := ((s.portTxOf p).ownPcs, (s.portTxOf p).signal)

section
variable (s : State) (p : Nat)

theorem shown_of_portTx {t : State} (h : t.portTx = s.portTx) : t.shown p = s.shown p := by
  unfold State.shown State.portTxOf
  rw [h]

theorem updPortTx_shown (f : PortTx → PortTx) (ho : (f (s.portTxOf p)).ownPcs = (s.portTxOf p).ownPcs)
    (hs : (f (s.portTxOf p)).signal = (s.portTxOf p).signal) : (s.updPortTx p f).shown p = s.shown p := by
  rw [State.shown, portTxOf_updPortTx, ho, hs, State.shown]

theorem foldl_shown {α : Type} {f : State → α → State} (hf : ∀ s a, (f s a).shown p = s.shown p) (l : List α) :
    (l.foldl f s).shown p = s.shown p := by
  induction l generalizing s with
  | nil => rfl
  | cons a l ih => exact (ih _).trans (hf s a)

theorem bumpPort_shown (slot n : Nat) : (s.bumpPort p slot n).shown p = s.shown p :=
  shown_of_portTx s p (bumpRow_beside (.refl s)).portTx

theorem rxCause_shown (bit : Nat) : (s.rxCause p bit).shown p = s.shown p := by
  unfold rxCause
  dsimp only
  split
  · exact shown_of_portTx s p (raise_beside (.refl _)).portTx
  · rfl

theorem settlePort_shown : (s.settlePort p).shown p = s.shown p := by
  refine foldl_shown s p (fun s n => ?_) _
  unfold settleClass
  dsimp only
  repeat' split
  all_goals rfl

theorem landFcLate_shown (back : Nat) : (s.landFcLate p back).shown p = s.shown p := by
  unfold landFcLate
  dsimp only
  split
  · rfl
  · refine foldl_shown _ p (fun s w => (settlePort_shown _ p).trans ?_) _
    unfold setPortReg notePast
    split <;> rfl

theorem sendOwn_shown (sfd : Nat) (bs : Bytes) : (s.sendOwn p sfd bs).shown p = s.shown p := by
  refine shown_of_portTx s p ((peepTap_wired (.refl _)).portTx.trans ?_)
  unfold lanes
  split <;> rfl

theorem sendMacCtl_shown (body : Bytes) : (s.sendMacCtl p body).shown p = s.shown p := by
  unfold sendMacCtl countSent
  simp only [sendOwn_shown, bumpPort_shown]

theorem sendCtl_shown (k : CtlFrame) : (s.sendCtl p k).shown p = s.shown p := by
  have hu : ((s.ctlOnLanes p).landFcLate p 0).shown p = s.shown p :=
    (landFcLate_shown _ p 0).trans (updPortTx_shown s p _ rfl rfl)
  unfold sendCtl
  cases k with
  | verify => exact (sendOwn_shown ..).trans ((bumpPort_shown ..).trans hu)
  | respond => exact (sendOwn_shown ..).trans ((bumpPort_shown ..).trans hu)
  | pause q => exact (sendMacCtl_shown ..).trans ((bumpPort_shown ..).trans hu)
  | pfc times =>
    have hcounts (u : State) : ((List.range 8).foldl (fun s n => match times.getD n none with
        | some (_ + 1) => s.bumpPort p (Pc.txPfc + n)
        | _ => s) u).shown p = u.shown p := foldl_shown u p (fun s n => by split <;> [exact bumpPort_shown ..; rfl]) _
    dsimp only
    rw [sendMacCtl_shown]
    split
    · exact (bumpPort_shown ..).trans ((hcounts _).trans hu)
    · exact (hcounts _).trans hu

theorem queueCtl_shown (k : CtlFrame) : (s.queueCtl p k).shown p = s.shown p := by
  unfold queueCtl
  split
  · exact sendCtl_shown s p k
  · exact updPortTx_shown s p _ rfl rfl

theorem verifyStart_shown : (s.verifyStart p).shown p = s.shown p := by
  have hu : (s.updPortTx p fun q => { q with verify := .initial, verifySent := 0 }).shown p = s.shown p := updPortTx_shown s p _ rfl rfl
  unfold verifyStart
  dsimp only
  split
  · exact hu
  split
  · exact (updPortTx_shown _ p _ rfl rfl).trans hu
  · exact (queueCtl_shown ..).trans ((updPortTx_shown _ p _ rfl rfl).trans hu)

theorem fcUpdate_shown : (s.fcUpdate p).shown p = s.shown p := by
  have hseen : (s.setPortTx p { s.portTxOf p with xoffSeen := s.xoffNow p }).shown p = s.shown p :=
    updPortTx_shown s p (fun q => { q with xoffSeen := s.xoffNow p }) rfl rfl
  have hdone : (s.xoffDone p).shown p = s.shown p := updPortTx_shown s p _ rfl rfl
  unfold fcUpdate
  dsimp only
  split
  · rfl
  split
  · exact hseen
  split
  · split
    · exact (queueCtl_shown ..).trans hdone
    split
    · exact (queueCtl_shown ..).trans hdone
    · exact hseen
  · exact (updPortTx_shown _ p _ rfl rfl).trans hseen
  · exact hseen

theorem fcStart_shown : (s.fcStart p).shown p = s.shown p := (fcUpdate_shown _ p).trans (updPortTx_shown s p _ rfl rfl)

theorem landLate_shown : (s.landLate p).shown p = s.shown p := by
  unfold landLate
  split
  · rfl
  · dsimp only
    refine (foldl_shown _ p ?_ _).trans ?_
    · exact fun s w => verifyStart_shown (s.setReg (0x1C00 + p) w.1 w.2) p
    · exact updPortTx_shown s p _ rfl rfl

theorem discardFrames_shown (slot : Nat) : (s.discardFrames p slot).shown p = s.shown p := by
  unfold discardFrames
  extract_lets q all marked u
  have hu : u.shown p = s.shown p :=
    (bumpPort_shown ..).trans (updPortTx_shown s p (fun q => { q with frames := marked.filter fun f => !f.ended, held := none }) rfl rfl)
  exact (landLate_shown _ p).trans ((foldl_shown u p (fun s f => shown_of_portTx s p (dropFrame_wired (.refl s)).portTx) _).trans hu)

theorem txLinkDown_shown : (s.txLinkDown p).shown p = s.shown p :=
  (updPortTx_shown _ p _ rfl rfl).trans ((updPortTx_shown _ p _ rfl rfl).trans (discardFrames_shown s p _))

theorem flushOnDown_shown : (s.flushOnDown p).shown p = s.shown p := by
  unfold flushOnDown
  split <;> rfl

theorem settleSignal_signal : ((s.settleSignal p).portTxOf p).signal = s.laneSignal p := by
  unfold settleSignal setSignal
  split
  · assumption
  · show ((s.updPortTx p fun q => { q with signal := s.laneSignal p }).portTxOf p).signal = _
    rw [portTxOf_updPortTx]

/-! ### A change of LINK_STATE -/

theorem setLink_laneLock (l : Link) : (s.setLink p l).laneLock = s.laneLock := by
  unfold setLink
  dsimp only
  split
  · rfl
  generalize hw : State.settleSignal _ p = w
  have hwlock : w.laneLock = s.laneLock := by
    rw [← hw]
    split
    · exact (settleSignal_apart (landFcLate_apart (txLinkDown_apart (flushOnDown_apart (.refl _))))).laneLock
    · exact (settleSignal_apart (.refl _)).laneLock
  split
  · exact (fcStart_apart (verifyStart_apart (.refl _))).laneLock.trans ((rxCause_laneLock ..).trans hwlock)
  · exact (rxCause_laneLock ..).trans hwlock
  · split
    · exact (rxCause_laneLock ..).trans hwlock
    · exact hwlock

/-- What a port shows depends on its state, its link and whether it drives its own PCS output. -/
theorem laneSignal_congr {t : State} (hst : (t.port p).st = (s.port p).st) (hl : (t.port p).link = (s.port p).link)
    (ho : (t.portTxOf p).ownPcs = (s.portTxOf p).ownPcs) : t.laneSignal p = s.laneSignal p := by
  unfold laneSignal
  rw [hst, hl, ho]

/-- Once the link is in its new state, the lanes show what that state gives them. -/
theorem setLink_signal {l : Link} (h : l ≠ (s.port p).link) :
    ((s.setLink p l).portTxOf p).signal = (s.updPort p fun q => { q with link := l }).laneSignal p := by
  unfold setLink
  dsimp only
  rw [if_neg h]
  generalize hu : s.updPort p _ = u
  have huport : (u.port p).link = l ∧ (u.port p).st = (s.port p).st := by
    rw [← hu, port_updPort]
    exact ⟨rfl, rfl⟩
  have hushown : u.shown p = s.shown p := by rw [← hu]; rfl
  generalize hw : (if (s.port p).link = Link.up then ((u.flushOnDown p).txLinkDown p).landFcLate p 0 else u) = w
  have hwlinked : w.Linked u := by
    rw [← hw]
    split
    · exact landFcLate_linked (txLinkDown_linked (flushOnDown_linked (.refl u)))
    · exact .refl u
  have hwshown : w.shown p = s.shown p := by
    rw [← hw]
    split
    · exact (landFcLate_shown _ p 0).trans ((txLinkDown_shown _ p).trans ((flushOnDown_shown u p).trans hushown))
    · exact hushown
  obtain ⟨hwl, hwst, -⟩ := hwlinked.port p
  have hsig : ((w.settleSignal p).shown p).2 = (s.updPort p fun q => { q with link := l }).laneSignal p := by
    refine (settleSignal_signal w p).trans (laneSignal_congr _ p ?_ ?_ (congrArg Prod.fst hwshown))
    · rw [hwst, huport.2, port_updPort]
    · rw [hwl, huport.1, port_updPort]
  rw [← hsig]
  refine congrArg Prod.snd (?_ : State.shown _ p = _)
  split
  · exact (fcStart_shown _ p).trans ((verifyStart_shown _ p).trans (rxCause_shown _ p 0))
  · exact rxCause_shown _ p 3
  · split
    · exact rxCause_shown _ p 1
    · rfl

variable {s p}

theorem laneSignal_idle (hst : (s.port p).st ≠ .closed) (hl : (s.port p).link = .up ∨ (s.port p).link = .remoteFault) :
    s.laneSignal p = .idle := by
  unfold laneSignal
  split
  · exact absurd ‹_› hst
  · next hdown => rw [hdown] at hl; simp at hl
  · next haligning => rw [haligning] at hl; simp at hl
  · rfl

theorem laneSignal_aligning (hst : (s.port p).st = .opened) (hl : (s.port p).link = .aligning) (ho : (s.portTxOf p).ownPcs = true) :
    s.laneSignal p = .remoteFault := by
  unfold laneSignal
  rw [hst, hl]
  exact if_pos ho

/-- The ports that lanes come to: each is open, opening or closing, and has the lane. -/
theorem portOfLane_spec {lane : Nat} (h : s.portOfLane lane = some p) : (s.port p).st ≠ .closed ∧ lane ∈ s.portLanes p := by
  have hp := List.find?_some h
  simp only [Bool.and_eq_true, bne_iff_ne, ne_eq, List.contains_iff_mem] at hp
  exact ⟨hp.1.2, hp.2⟩

end

section
variable {s : State} {p lane : Nat}

/-- The lock of a lane that is heard. -/
def State.withLock (s : State) (lane : Nat) (b : Bool) : State := { s with laneLock := SMap.set false s.laneLock lane b }

theorem withLock_get (s : State) (lane : Nat) (b : Bool) : SMap.get false (s.withLock lane b).laneLock lane = b :=
  SMap.get_set_self s.laneLock lane b

theorem laneLockLoss_eq (dt : Nat) (cut : Option CutFrame) (h : lane < 1024) :
    exec (.laneLockLoss dt lane cut) s = match s.portOfLane lane with
      | none => .next ((s.elapse dt).withLock lane false)
      | some p => if (s.port p).st = .closing then .next ((s.elapse dt).withLock lane false)
        else settled (.next ((((s.elapse dt).withLock lane false).cutRx p cut).setLink p .down)) := by
  change execLaneLockLoss dt lane cut s = _
  unfold execLaneLockLoss
  rw [Nat.mod_eq_of_lt h]
  rfl

theorem laneLock_eq (dt : Nat) (h : lane < 1024) :
    exec (.laneLock dt lane) s = match s.portOfLane lane with
      | none => .next ((s.elapse dt).withLock lane true)
      | some p => .next (((s.elapse dt).withLock lane true).settleLink p) := by
  change execLaneLock dt lane s = _
  unfold execLaneLock
  rw [Nat.mod_eq_of_lt h]
  rfl

/-- The last lane to lock takes a port that is DOWN to ALIGNING. -/
theorem laneLock_aligns (dt : Nat) (h : lane < 1024) (hport : s.portOfLane lane = some p) (hst : (s.port p).st ≠ .closing)
    (hl : (s.port p).link = .down) (hruns : s.laneRuns (p / 64) = true)
    (hlocks : ∀ l ∈ s.portLanes p, l ≠ lane → SMap.get false s.laneLock l = true) :
    exec (.laneLock dt lane) s = .next (((s.elapse dt).withLock lane true).setLink p .aligning) := by
  have hlocked : ((s.elapse dt).withLock lane true).lanesLocked p = true := List.all_eq_true.mpr fun l hmem => by
    rw [State.withLock, SMap.get_set]
    split
    · rfl
    · exact hlocks l hmem ‹_›
  have hgo : ((s.port p).st ≠ .closed && (s.port p).st ≠ .closing && (s.port p).link == .down &&
      ((s.elapse dt).withLock lane true).lanesLocked p && ((s.elapse dt).withLock lane true).laneRuns (p / 64)) = true := by
    have hruns' : ((s.elapse dt).withLock lane true).laneRuns (p / 64) = true := (elapse_laneRuns ..).trans hruns
    simp [(portOfLane_spec hport).1, hst, hl, hlocked, hruns']
  rw [laneLock_eq dt h, hport]
  exact congrArg _ (if_pos hgo)

end

/-- Settles O6. A frame cut short leaves the link and the locks; the change of the link then gives the port its state, its cause and what
its lanes show. -/
theorem linkStates : Obligations.LinkStates := by
  unfold Obligations.LinkStates
  refine ⟨?loss, ?closingLoss, ?noPort, ?lock, ?aligned, ?failed, ?lost, ?fault, ?cleared, ?closing⟩
  case loss =>
    intro dt lane cut s p hlane hport hst
    rw [laneLockLoss_eq dt cut hlane, hport]
    refine answersSettled_neg hst (answersSettled ⟨setLink_link .., ?_⟩)
    rw [setLink_laneLock, (cutRx_steady (.refl _)).laneLock]
    exact withLock_get ..
  case closingLoss =>
    intro dt lane cut s p hlane hport hst
    rw [laneLockLoss_eq dt cut hlane, hport]
    exact answers_pos hst (answers_next ⟨rfl, withLock_get ..⟩)
  case noPort =>
    intro dt lane cut s hlane hport
    rw [laneLockLoss_eq dt cut hlane, hport]
    exact answers_next ⟨withLock_get .., rfl⟩
  case lock =>
    intro dt lane s p hlane hport hst hl hruns hlocks
    rw [laneLock_aligns dt hlane hport hst hl hruns hlocks]
    refine answers_next ⟨setLink_link .., ?_⟩
    rw [setLink_laneLock]
    exact withLock_get ..
  case aligned =>
    intro dt p s hl hst hruns
    refine answers_pos ⟨hl, hst, (elapse_laneRuns ..).trans hruns⟩ (answers_next ⟨setLink_link .., ?_, fun hclosed => ?_⟩)
    · have hl' : ((s.elapse dt).port p).link = .aligning := hl
      exact (setLink_port _ p .up (by rw [hl']; decide)).2.2
    · have hl' : ((s.elapse dt).port p).link = .aligning := hl
      rw [setLink_signal _ p (by rw [hl']; decide)]
      exact laneSignal_idle (by rw [port_updPort]; exact hclosed) (by rw [port_updPort]; exact .inl rfl)
  case failed =>
    intro dt p s hl hf hage
    refine answers_pos ⟨hl, by simp [hf], hage⟩ (answers_next ?_)
    rw [rxCause_port, port_setPort]
    exact ⟨hl, bit_setBit_self _ 2 (by decide)⟩
  case lost =>
    intro dt p cut s hl hst
    have hl' : (((s.elapse dt).cutRx p cut).port p).link = .up ∨ (((s.elapse dt).cutRx p cut).port p).link = .remoteFault := by
      rw [(cutRx_steady (.refl _)).link]
      exact hl
    have hne : Link.aligning ≠ (((s.elapse dt).cutRx p cut).port p).link := by rcases hl' with h | h <;> rw [h] <;> decide
    refine answersSettled_pos ⟨hl, hst⟩ (answersSettled
      ⟨setLink_link .., (setLink_port _ p .aligning hne).2.2 hl', fun hcut hopen hown => ?_⟩)
    subst hcut
    rw [setLink_signal _ p hne]
    exact laneSignal_aligning (by rw [port_updPort]; exact hopen) (by rw [port_updPort]) hown
  case fault =>
    intro dt p cut s hl hst
    have hne : Link.remoteFault ≠ (((s.elapse dt).cutRx p cut).port p).link := by
      rw [(cutRx_steady (.refl _)).link, show ((s.elapse dt).port p).link = .up from hl]
      decide
    refine answersSettled_pos ⟨hl, hst⟩ (answersSettled ⟨setLink_link .., (setLink_port _ p .remoteFault hne).2.2, fun hcut hopen => ?_⟩)
    subst hcut
    rw [setLink_signal _ p hne]
    exact laneSignal_idle (by rw [port_updPort]; exact hopen) (by rw [port_updPort]; exact .inr rfl)
  case cleared =>
    intro dt p s hl hst
    have hl' : ((s.elapse dt).port p).link = .remoteFault := hl
    exact answers_pos ⟨hl, hst⟩ (answers_next ⟨setLink_link .., (setLink_port _ p .up (by rw [hl']; decide)).2.2⟩)
  case closing =>
    intro dt p cut s hst
    refine ⟨?_, ?_, ?_, ?_⟩
    · exact answers_neg (fun h => h.2 hst) (answers_next rfl)
    · exact answers_neg (fun h => h.2 hst) (answers_next rfl)
    · exact answers_neg (fun h => h.2.1 hst) (answers_next rfl)
    · exact answers_neg (fun h => h.2 hst) (answers_next rfl)

end Sys2Proof.Machine
end

