-- ==== Sys2Proof/Proofs/CaptureReads.lean ====
section
namespace Sys2Proof.Machine
open State

/-! ### HOLD_PEAK starts again at what is held (R205) -/

/-- What faults note is of the twin unit alone; beside it they may demote a complex that has a role. -/
theorem settleFaults_updTwin_or_demote (s : State) : ∃ f, s.settleFaults = s.updTwin f ∨ s.settleFaults = (s.updTwin f).demote ∧
    ((s.updTwin f).twin.role = .active ∨ (s.updTwin f).twin.role = .standby ∨ (s.updTwin f).twin.role = .orphan) := by
  unfold settleFaults
  extract_lets t now_ fresh u _
  refine ⟨fun t => { t with faultSeen := now_, eccNew := false, alarmNew := false }, ?_⟩
  split
  · exact .inl rfl
  split
  · next h =>
    split
    · exact .inr ⟨rfl, .inl h⟩
    · exact .inl rfl
  · next h => exact .inr ⟨rfl, .inr (.inl h)⟩
  · next h => exact .inr ⟨rfl, .inr (.inr h)⟩
  · exact .inl rfl

/-- Faults that leave no role DEMOTED change nothing of a cluster's receive side. -/
theorem settleFaults_clRx {s : State} (h : s.settleFaults.twin.role ≠ .demoted) (c : Nat) : s.settleFaults.clRx c = s.clRx c := by
  obtain ⟨f, hs | ⟨hs, hr⟩⟩ := settleFaults_updTwin_or_demote s
  · rw [hs]; rfl
  · exact absurd (by rw [hs]; exact demote_role hr) h

/-- A complex with an OPEN port 0 that holds the first 64 bytes of a preemptable frame in MACsec's hold buffer. -/
def frameHeld : State where
  power := { doms := (List.range 80).map fun n => (n, domainOn), boot := .ready }
  clusterPower := [(0, { st := .opened })]
  time := { pllLocked := true }
  portRx := [(0, { st := .opened, link := .up,
                   reasm := some { num := 0, data := List.replicate 64 0, frag := 0, stamp := 0, begun := 0, held := 64 } })]
  clusterRx := [(0, { holdPeak := 64 })]

/-- That complex once HOLD_PEAK has been read. -/
def heldPeakRead : State := ((frameHeld.elapse 0).fetch .window (clIdx 0 2) 4).settleFaults

theorem heldPeakRead_role : heldPeakRead.twin.role = .unadopted := by decide +kernel
theorem heldPeakRead_holdPeak : (heldPeakRead.clRx 0).holdPeak = 64 := by decide +kernel

/-- Refutes O14 by its clause of HOLD_PEAK: where a frame is held, the peak starts again at the bytes that it holds and not at 0. -/
theorem not_captureReads : ¬ Obligations.CaptureReads := by
  intro h
  obtain ⟨hcluster, -⟩ := h 0 .window frameHeld (by decide +kernel)
  obtain ⟨-, ⟨t, ht, -, hpeak⟩, -⟩ := hcluster 0 (by decide)
  have hread : heldPeakRead = t.settleFaults := by injection ht
  have hkeeps := settleFaults_clRx (s := t) (by rw [← hread, heldPeakRead_role]; decide) 0
  have h64 := heldPeakRead_holdPeak
  rw [hread, hkeeps, hpeak] at h64
  exact absurd h64 (by decide)

end Sys2Proof.Machine
end

