-- ==== Sys2Proof/Proofs/QueueReads.lean ====
section
namespace Sys2Proof.Machine
open State

section
variable {s : State} {t e : Nat}

/-! ### The sources that a target may claim (R527) -/

/-- The sources that target `t` may claim, in the order of the store. -/
def State.claimable (s : State) (t : Nat) : List Nat :=
  (s.ev.sources.filter fun e => s.srcActive e.1 && e.2.owner.isNone && e.2.got.contains t).map (·.1)

/-- The best of them: the highest priority, and the first of equals. -/
def State.bestClaim (s : State) (t : Nat) : Option Nat :=
  (s.claimable t).foldl (fun best e => match best with
    | none => some e
    | some b => if (s.src b).sentPrio < (s.src e).sentPrio then some e else some b) none

theorem mem_claimable (hs : SMap.rising s.ev.sources = true) : e ∈ s.claimable t ↔ s.mayClaim t e = true := by
  have hsrc {x : Nat × Source} (hx : x ∈ s.ev.sources) : s.src x.1 = x.2 := get_of_mem hs hx
  unfold claimable mayClaim
  rw [List.mem_map]
  constructor
  · rintro ⟨x, hx, rfl⟩
    obtain ⟨hmem, hok⟩ := List.mem_filter.mp hx
    rwa [hsrc hmem]
  · intro h
    have hlisted : s.src e ≠ {} := fun h0 => by simp [srcActive, h0] at h
    exact ⟨(e, s.src e), List.mem_filter.mpr ⟨get_mem hlisted, h⟩, rfl⟩

theorem readClaim_bestClaim (hsel : (s.tgt t).claimSel = 0) : s.readClaim t = match s.bestClaim t with
    | none => (0, s)
    | some b => (Word.ofNat b, s.setSrc b { s.src b with owner := some t }) := by
  unfold readClaim
  rw [if_pos hsel]
  rfl

/-- CLAIM with CLAIM_SEL 0 takes the best source: no other has a higher priority, and of equals it has the lowest number. -/
theorem readClaim_best (hsel : (s.tgt t).claimSel = 0) (hs : SMap.rising s.ev.sources = true) (he : s.mayClaim t e = true) :
    ∃ b, s.mayClaim t b = true ∧
      (∀ e, s.mayClaim t e = true → (s.src e).sentPrio < (s.src b).sentPrio ∨ (s.src e).sentPrio = (s.src b).sentPrio ∧ b ≤ e) ∧
      s.readClaim t = (Word.ofNat b, s.setSrc b { s.src b with owner := some t }) := by
  have hpick := best_pick (fun e => (s.src e).sentPrio) (s.claimable t) (pairwise_keys (SMap.rising_filter _ hs)) none (by simp)
  change match s.bestClaim t with
    | none => _
    | some b => _ at hpick
  cases hb : s.bestClaim t with
  | none =>
    rw [hb] at hpick
    have hmem := (mem_claimable hs).mpr he
    rw [hpick.1] at hmem
    exact absurd hmem List.not_mem_nil
  | some b =>
    rw [hb] at hpick
    obtain ⟨hin, hmax⟩ := hpick
    refine ⟨b, (mem_claimable hs).mp (hin.resolve_right nofun), fun e he => hmax e (.inl ((mem_claimable hs).mpr he)), ?_⟩
    rw [readClaim_bestClaim hsel, hb]

/-- CLAIM takes the source that CLAIM_SEL names. -/
theorem readClaim_named (hsel : (s.tgt t).claimSel = e) (h0 : e ≠ 0) (he : s.mayClaim t e = true) :
    s.readClaim t = (Word.ofNat e, s.setSrc e { s.src e with owner := some t }) := by
  subst hsel
  obtain ⟨⟨hact, hfree⟩, hgot⟩ : (_ ∧ _) ∧ _ := by simpa only [mayClaim, Bool.and_eq_true] using he
  unfold readClaim
  rw [if_neg h0, if_pos (by rw [hact, hfree, hgot]; simp)]

/-- CLAIM fails where CLAIM_SEL names a source that the target neither owns nor may claim. -/
theorem readClaim_refused (hsel : (s.tgt t).claimSel = e) (h0 : e ≠ 0) (he : s.mayClaim t e = false) (hown : (s.src e).owner ≠ some t) :
    s.readClaim t = (0xFFF, s.bump (tIdx t) 0xB) := by
  subst hsel
  unfold readClaim
  rw [if_neg h0, if_neg]
  intro h
  obtain ⟨hact, hfree, hgot⟩ : _ ∧ _ ∧ _ := by simpa only [Bool.and_eq_true, Bool.or_eq_true, beq_iff_eq, hown, false_or] using h
  rw [mayClaim, hact, hfree, hgot] at he
  exact absurd he (by decide)

/-! ### The FIFOs (R201, R388, R465) -/

variable {c : Nat}

theorem readPnAlert_cons {a : Word} {rest : List Word} (h : (s.clRx c).alerts = a :: rest) : s.readPnAlert c =
    (a, s.setClRx c { s.clRx c with alerts := rest, alertLost := (s.clRx c).alertLost && !rest.isEmpty }) := by
  unfold readPnAlert; dsimp only; rw [h]

theorem readPnAlert_nil (h : (s.clRx c).alerts = []) : s.readPnAlert c = (0, s) := by
  unfold readPnAlert; dsimp only; rw [h]

theorem readTsMeta_cons {r : Word × Word} {rest : List (Word × Word)} (h : (s.clTx c).stamps = r :: rest) :
    s.readTsMeta c = (r.1, s.setClTx c { s.clTx c with stamps := rest, stampLatch := r.2 }) := by
  unfold readTsMeta; dsimp only; rw [h]

/-- What HALF_NEXT shows of counter `k` (R465). -/
def State.halfEntry (s : State) (k : Nat) : Word :=
  Word.ofNat (2 ^ 63 + b2n (!(SMap.get 0 s.ctrs k).getLsbD 47) * 2 ^ 62 + b2n (0x3000 ≤ keyIdx k ∧ keyIdx k ≤ 0x3FFF) * 2 ^ 61
    + keyIdx k * 2 ^ 32 + keySub k * 2 ^ 24 + keyRow k)

/-- A read of HALF_NEXT shows the oldest counter, takes it from its FIFO, ends its pending bit and retires its half range. -/
theorem halfNext_cons {g k : Nat} {rest : List Nat} (h : SMap.get [] s.cu.fifos g = k :: rest) :
    ∃ u, s.halfNext g = (s.halfEntry k, u) ∧ u.out = s.out ∧ SMap.get [] u.cu.fifos g = rest ∧ SMap.get false u.cu.pending k = false ∧
      SMap.get 0 u.ctrs k =
        if (SMap.get 0 s.ctrs k).getLsbD 47 then SMap.get 0 s.ctrs k - BitVec.ofNat 48 (2 ^ 47) else SMap.get 0 s.ctrs k := by
  unfold halfNext
  rw [h]
  refine ⟨_, rfl, rfl, ?_⟩
  dsimp only
  refine ⟨SMap.get_set_self .., SMap.get_set_self .., ?_⟩
  cases (SMap.get 0 s.ctrs k).getLsbD 47
  · rfl
  · exact SMap.get_set_self ..

/-! ### Reads that are answered with what the unit shows -/

/-- A read of an object whose value the unit keeps, of no TIME84 type. -/
theorem reads_view {dt idx sub : Nat} {via : Master} {ix : Ix} {o : ObjInfo} {v : Word} {u : State} {p : State → Prop} (hr : s.dictRuns = true)
    (hc : classify idx = some ix) (ho : (objsOf ix).find? (fun o => o.sub == sub) = some o) (hs : sub ≠ 0)
    (hl : o.acc = .ro ∨ o.acc = .rwl ∧ via = .window)
    (hx : ∀ c t, ix ≠ .window c t) (hh : o.home = .view) (hty : o.ty ≠ .time84lo ∧ o.ty ≠ .time84hi)
    (hread : (s.elapse dt).readView ix o.sub = (v, u)) (h0 : u.out = []) (hp : p (u.emit (.value rOK v))) :
    Reads (s.masterRead dt via idx sub) v p := by
  have hobj : (s.elapse dt).readObj ix o idx = (v, u) := by
    unfold readObj
    rw [hh]
    dsimp only
    rw [if_neg hty.1, if_neg hty.2, hread]
  have hacc : o.acc ≠ .wo := by rcases hl with h | ⟨h, -⟩ <;> rw [h] <;> decide
  have hloc : o.acc ≠ .rwl ∨ via = .window := hl.imp (fun h => by rw [h]; decide) And.right
  refine reads_obj hr hc ((objInfo_of hc).trans ho) hs hloc hacc hx ?_ ?_ ?_
  · rw [hobj]
  · rw [hobj]; exact h0
  · rw [hobj]; exact hp

end

/-- A read of CLAIM is what the unit answers (R527). -/
theorem reads_claim {s u : State} {dt t : Nat} {v : Word} {p : State → Prop} (hr : s.dictRuns = true) (ht : t < 32)
    (hread : (s.elapse dt).readClaim t = (v, u)) (h0 : u.out = []) (hp : p (u.emit (.value rOK v))) :
    Reads (exec (.claim dt .window t) s) v p :=
  reads_view (o := rwlObj 8 "CLAIM" .u16) hr (classify_target ht) rfl (by decide) (.inr ⟨rfl, rfl⟩) nofun rfl (by decide) hread h0 hp

/-- A read of HALF_NEXT of a cluster's FIFO or of the common one is what the unit answers (R465). -/
theorem reads_halfNext {s u : State} {dt g : Nat} {via : Master} {v : Word} {p : State → Prop} (hr : s.dictRuns = true) (hg : g ≤ 16)
    (hread : (s.elapse dt).halfNext g = (v, u)) (h0 : u.out = []) (hp : p (u.emit (.value rOK v))) :
    Reads (exec (.halfNextRead dt via g) s) v p := by
  change Reads (if g = 16 then s.masterRead dt via 0x0B00 8 else s.masterRead dt via (clIdx g 9) 1) v p
  split
  · next h =>
    subst h
    exact reads_view (ix := .ctrCommon) (o := viewObj 8 "HALF_NEXT" .u64) hr rfl rfl (by decide) (.inl rfl) nofun rfl (by decide) hread h0 hp
  · exact reads_view (o := viewObj 1 "HALF_NEXT" .u64) hr (classify_cluster (by omega) (by decide)) rfl (by decide) (.inl rfl) nofun rfl
      (by decide) hread h0 hp

/-- A read of PN_ALERT is what the unit answers (R201). -/
theorem reads_pnAlert {s u : State} {dt c : Nat} {via : Master} {v : Word} {p : State → Prop} (hr : s.dictRuns = true) (hc : c < 16)
    (hread : (s.elapse dt).readPnAlert c = (v, u)) (h0 : u.out = []) (hp : p (u.emit (.value rOK v))) :
    Reads (exec (.pnAlertRead dt via c) s) v p :=
  reads_view (o := viewObj 1 "PN_ALERT" .u32) hr (classify_cluster hc (by decide)) rfl (by decide) (.inl rfl) nofun rfl (by decide) hread h0 hp

/-- Settles O15: what each FIFO's head or each source claimed leaves, then the object's line of the map. -/
theorem queueReads : Obligations.QueueReads := by
  intro dt s hr
  refine ⟨?alert, ?noAlert, ?stamp, ?half, ?claimBest, ?claimNamed, ?claimRefused⟩
  case alert =>
    intro via c a rest hc h
    refine reads_pnAlert hr hc (readPnAlert_cons (s := s.elapse dt) h) rfl ?_
    rw [emit_clRx, clRx_setClRx]
    exact ⟨rfl, fun hrest => by simp [hrest]⟩
  case noAlert =>
    intro via c hc h
    exact reads_pnAlert hr hc (readPnAlert_nil (s := s.elapse dt) h) rfl rfl
  case stamp =>
    intro c r rest hc h
    refine reads_view (o := rwlObj 1 "TX_TS_META" .u64) hr (classify_cluster hc (by decide)) rfl (by decide) (.inr ⟨rfl, rfl⟩) nofun rfl
      (by decide) (readTsMeta_cons (s := s.elapse dt) h) rfl ?_
    rw [emit_clTx, clTx_setClTx]
    exact ⟨rfl, rfl⟩
  case half =>
    intro via g k rest hg h
    obtain ⟨u, hread, hout, hfifo, hpend, hctr⟩ := halfNext_cons (s := s.elapse dt) h
    exact reads_halfNext hr hg hread hout ⟨hfifo, hpend, hctr⟩
  case claimBest =>
    intro t e ht hsel he hs
    obtain ⟨b, hmay, hbest, hread⟩ := readClaim_best (s := s.elapse dt) hsel hs he
    refine ⟨b, hmay, hbest e he, reads_claim hr ht hread rfl ?_⟩
    rw [emit_src, src_setSrc]
  case claimNamed =>
    intro t e ht hsel h0 he
    refine reads_claim hr ht (readClaim_named (s := s.elapse dt) hsel h0 he) rfl ?_
    rw [emit_src, src_setSrc]
  case claimRefused =>
    intro t e ht hsel h0 he hown
    refine reads_claim hr ht (readClaim_refused (s := s.elapse dt) hsel h0 he hown) ?_ ⟨?_, ?_⟩
    · exact bump_out ..
    · exact bump_ev ..
    · exact ctr_bumpRow ..

end Sys2Proof.Machine
end

