-- ==== Sys2Proof/Proofs/KeyErases.lean ====
section
namespace Sys2Proof.Machine
open State

/-! ### A frame that loses its key moves nothing of the key store (R202) -/

section
variable {s s₀ : State}

theorem State.stompWire_apart {p : Nat} {f : TxFrame} {body : Bytes} (hk : s.Apart s₀) : (s.stompWire p f body).Apart s₀ :=
  wireFree_apart (stompLanes_apart hk)

theorem State.cutWire_apart {p slot : Nat} {f : TxFrame} {pad : Bool} (hk : s.Apart s₀) : (s.cutWire p slot f pad).Apart s₀ :=
  stompWire_apart (countFirst_apart hk)

theorem State.stompHeld_apart {p : Nat} {f : TxFrame} (hk : s.Apart s₀) : (s.stompHeld p f).Apart s₀ :=
  stompWire_apart (updPortTx_apart hk)

theorem State.txKeyErase_apart {p : Nat} {hit : Nat → Bool} (hk : s.Apart s₀) : (s.txKeyErase p hit).Apart s₀ := by
  unfold txKeyErase
  extract_lets uses q n mark marked gone lists counted dropped ended
  have hdropped : dropped.Apart s₀ := foldl_apart (bumpPort_apart (setPortTx_apart hk)) fun _ _ h => dropFrame_apart h
  have hended : ended.Apart s₀ := by
    unfold ended
    split
    · split
      · exact cutWire_apart hdropped
      · exact hdropped
    · exact hdropped
  split
  · split
    · exact stompHeld_apart hended
    · exact hended
  · exact hended

end

/-! ### Every key is erased (R222) -/

/-- The key store with no key: every slot has its generation only, and all of them move on together. -/
def KeyUnit.erased (q : KeyUnit) : KeyUnit :=
  { q with slots := q.slots.foldl (fun m e => SMap.set {} m e.1 { gen := e.2.gen }) [], genBase := (q.genBase + 1) % 256, common := [] }

theorem dropPns_apart (s : State) (l : List Nat) : (l.foldl (fun s c => s.updClTx c fun q => { q with pnTop := [] }) s).Apart s :=
  foldl_apart (.refl s) fun _ _ h => updClTx_apart h

theorem stompAll_apart (s : State) (l : List Nat) : (l.foldl (fun s p => s.txKeyErase p fun _ => true) s).Apart s :=
  foldl_apart (.refl s) fun _ _ h => txKeyErase_apart h

theorem eraseKeys_spec (s : State) : s.eraseKeys.keys = s.keys.erased ∧ s.eraseKeys.masks = {} := by
  unfold eraseKeys
  extract_lets slots u freed unmasked
  have hu : u.keys = s.keys.erased := rfl
  have hfreed : freed.keys = u.keys := (dropPns_apart u (List.range 16)).keys
  clear_value freed
  have h := stompAll_apart unmasked (unmasked.portTx.map (·.1))
  exact ⟨h.keys.trans (hfreed.trans hu), h.masks⟩

theorem mem_smap_set {α : Type} [DecidableEq α] {d v : α} {m : SMap α} {k : Nat} {e : Nat × α} (h : e ∈ SMap.set d m k v) :
    e = (k, v) ∨ e ∈ m := by
  unfold SMap.set at h
  split at h
  · exact .inr (SMap.mem_erase h)
  · exact SMap.mem_put h

theorem erased_master (q : KeyUnit) : ∀ e ∈ q.erased.slots, e.2.master = none := by
  have key (l : SMap KeySlot) (m : SMap KeySlot) (hm : ∀ e ∈ m, e.2.master = none) :
      ∀ e ∈ l.foldl (fun m e => SMap.set {} m e.1 { gen := e.2.gen }) m, e.2.master = none := by
    induction l generalizing m with
    | nil => exact hm
    | cons a l ih =>
      refine ih _ fun e he => ?_
      rcases mem_smap_set he with rfl | he
      · rfl
      · exact hm e he
  exact key q.slots [] (by simp)

theorem eraseKeys_anyKey (s : State) : s.eraseKeys.anyKey = false := by
  unfold anyKey
  rw [(eraseKeys_spec s).1, Bool.or_eq_false_iff, List.any_eq_false]
  exact ⟨fun e he => by simp [erased_master _ e he], rfl⟩

theorem keyAlarm_keys (s : State) (bit : Nat) : (s.keyAlarm bit).keys = { s.keys with alarm := s.keys.alarm.setBit bit true } := by
  unfold keyAlarm
  dsimp only
  split <;> rfl

theorem settleFaults_keys (s : State) : s.settleFaults.keys = s.keys := (settleFaults_apart (.refl s)).keys

/-- ERASE_ALL leaves no key, its alarm, and no masks. -/
theorem landEraseAll_spec (s : State) : s.landEraseAll.anyKey = false ∧ s.landEraseAll.keys.alarm.bit 2 = true ∧ s.landEraseAll.masks = {} := by
  obtain ⟨hk, hm⟩ := eraseKeys_spec (s.keyAlarm 2).settleFaults
  refine ⟨eraseKeys_anyKey _, ?_, hm⟩
  unfold landEraseAll
  rw [hk, settleFaults_keys, keyAlarm_keys]
  exact bit_setBit_self _ _ (by decide)

/-! ### A write of an object of the key store (R221, R229, R231, R233) -/

/-- A WO object of index 0x0600 outside the staged common slot, where ADOPT is not refused: its write lands in its unit. -/
theorem answers_keysWo {s : State} {sub : Nat} {v : Word} {name : String} {ty : ObjType} {ok : Nat → Bool} {q : State → Prop} (dt : Nat)
    (via : Master) (hr : s.Ready) (ho : keysObjs.find? (fun i => i.sub == sub) = some (woObj sub name ty ok)) (hs : sub ≠ 0)
    (hu : ¬(0x11 ≤ sub ∧ sub ≤ 0x19)) (hty : ty ≠ .time84lo ∧ ty ≠ .time84hi) (hf : (ty.fits v.toNat && ok v.toNat) = true)
    (hst : ¬(ty = .strobe ∧ v ≠ 1)) (hadopt : sub ≠ 0x39 ∨ s.keys.adoptCheck = identityCheck identityPub)
    (hq : ∀ x : Sent, Output.status rOK ∈ x.outs → q (((s.elapse dt).said x).actKeys sub v)) :
    AnswersSettled (s.masterWrite dt via 0x0600 sub v) q := by
  have hcond (landing : Bool) : (s.elapse dt).objCond (s.elapse dt).landedVal landing .keys 0x0600 sub v = true := by
    by_cases h39 : sub = 0x39
    · subst h39
      have hc := hadopt.resolve_left (by simp)
      simp [objCond, landedVal, hc]
    · unfold objCond
      split <;> simp_all
  have htakes : (s.elapse dt).Takes .keys (woObj sub name ty ok) 0x0600 v :=
    { acc := .inr (.inl rfl)
      plain := hty
      window := fun _ _ h => Ix.noConfusion h
      keys := fun _ => hu
      fits := hf
      closed := fun h => by simp [woObj] at h
      accept := hcond false
      land := hcond true
      late := landsAtOnce_low (by decide)
      anytime := by simp }
  refine answers_write (ix := .keys) dt via hr rfl ho hs rfl htakes fun x hx => ?_
  rw [objEffect_plain _ _ _ hst]
  exact hq x hx

end Sys2Proof.Machine
end

