-- ==== Sys2Proof/Proofs/TamperInputs.lean ====
section
namespace Sys2Proof.Machine
open State

/-! ### Latch and live bits (R221, R222) -/

/-- Taking a set bit away clears that bit and no other. -/
theorem testBit_sub_two_pow {n i : Nat} (h : n.testBit i = true) (j : Nat) : (n - 2 ^ i).testBit j = (n.testBit j && !decide (j = i)) := by
  have hle : 2 ^ i ≤ n := Nat.ge_two_pow_of_testBit h
  induction i generalizing n j with
  | zero =>
    have hodd : n % 2 = 1 := by simpa using h
    cases j with
    | zero => simp; omega
    | succ j => rw [Nat.testBit_succ, Nat.testBit_succ, show (n - 2 ^ 0) / 2 = n / 2 by omega]; simp
  | succ i ih =>
    rw [Nat.testBit_succ] at h
    cases j with
    | zero => simp; omega
    | succ j =>
      rw [Nat.testBit_succ, Nat.testBit_succ, show (n - 2 ^ (i + 1)) / 2 = n / 2 - 2 ^ i by omega, ih h j (by omega)]
      simp

/-- The latch with the bits cleared that `p` names among the positions of `l`. -/
def clearBits (p : Nat → Bool) (l : List Nat) (n : Nat) : Nat := l.foldl (fun n i => if p i && n.testBit i then n - 2 ^ i else n) n

theorem clearBits_testBit (p : Nat → Bool) (l : List Nat) (n j : Nat) :
    (clearBits p l n).testBit j = (n.testBit j && !(l.contains j && p j)) := by
  induction l generalizing n with
  | nil => simp [clearBits]
  | cons i l ih =>
    refine (ih _).trans ?_
    dsimp only
    by_cases hp : (p i && n.testBit i) = true
    · rw [if_pos hp, testBit_sub_two_pow (Bool.and_eq_true_iff.mp hp).2]
      by_cases hj : j = i
      · subst hj; simp_all
      · simp [hj]
    · rw [if_neg hp]
      by_cases hj : j = i
      · subst hj; cases h : n.testBit j <;> simp_all
      · simp [hj]

/-- Settles O34: a tamper edge is `eraseKeys` behind the latch; the clears land as their unit's own update. -/
theorem tamperInputs : Obligations.TamperInputs := by
  refine ⟨?edge, ?high, ?clear, ?alarm⟩
  case edge =>
    intro dt n s hn hlive
    have hmod : n % 4 = n := Nat.mod_eq_of_lt hn
    change AnswersSettled (execTamper dt n s) _
    unfold execTamper
    extract_lets u m q first w
    refine answersSettled_neg (by simp [q, u, m, hmod, hlive]) (answersSettled ?_)
    have hk : ((w.keyAlarm 0).raise 0x830).settleFaults.eraseKeys.keys = ({ w.keys with alarm := w.keys.alarm.setBit 0 true } : KeyUnit).erased := by
      rw [(eraseKeys_spec _).1, settleFaults_keys, raise_keys, keyAlarm_keys]
    refine ⟨eraseKeys_anyKey _, ?_, ?_, ?_, ?_⟩ <;> rw [hk]
    · change (s.keys.latch ||| 2 ^ (n % 4)).testBit n = true
      simp [hmod]
    · change (s.keys.live ||| 2 ^ (n % 4)).testBit n = true
      simp [hmod]
    · exact bit_setBit_self _ _ (by decide)
    · exact (BitVec.toNat_ofNat ..).trans (Nat.mod_eq_of_lt (devTime_lt _))
  case high =>
    intro dt n s hn
    have hmod : n % 4 = n := Nat.mod_eq_of_lt hn
    refine answers_next ⟨?_, rfl⟩
    change (if s.keys.live.testBit (n % 4) then s.keys.live - 2 ^ (n % 4) else s.keys.live).testBit n = false
    rw [hmod]
    split
    · next h => rw [testBit_sub_two_pow h]; simp
    · next h => simpa using h
  case clear =>
    intro dt via v s hr hv
    refine answers_keysWo (name := "TAMPER_CLR") (ty := .u8) (ok := within 0xF) dt via hr rfl (by decide) (by decide) (by decide) ?_ (by simp)
      (.inl (by decide)) fun x _ i hi => ?_
    · have hall : ∀ n < 16, (ObjType.fits .u8 n && within 0xF n) = true := by decide
      exact hall _ hv
    · refine (clearBits_testBit (fun i => v.bit i && !s.keys.live.testBit i) (List.range 4) s.keys.latch i).trans ?_
      simp [hi]
  case alarm =>
    intro dt via v s hr hv
    exact answers_keysWo (name := "KEY_ALARM_CLR") (ty := .u32) (ok := fun _ => true) dt via hr rfl (by decide) (by decide) (by decide)
      (by simpa [ObjType.fits] using hv) (by simp) (.inl (by decide)) fun _ _ => rfl

end Sys2Proof.Machine
end

