-- ==== Sys2Proof/Proofs/TwinMode.lean ====
section
/-!
SUPPORT. TWIN_MODE stays while faults are acted on: beyond the mode of a cluster that an event wakes, a demotion writes objects of the
ports only (index 0x1C00 + p), as a frame that leaves lets their waiting writes land (R129, R373). Function by function, from the events
to the demotion.
-/
namespace Sys2Proof.Machine
open State

/-- TWIN_MODE (R436). -/
def State.mode (s : State) : Word := s.reg 0x0500 1

section
variable {s t : State} {m : Word}

theorem mode_of_regs (h : t.regs = s.regs) (hk : s.mode = m) : t.mode = m := by
  rw [← hk, mode, mode, reg, reg, h]

theorem foldl_mode {α : Type} {f : State → α → State} {l : List α} (hk : s.mode = m) (hf : ∀ s a, s.mode = m → (f s a).mode = m) :
    (l.foldl f s).mode = m := by
  induction l generalizing s with
  | nil => exact hk
  | cons a l ih => exact ih (hf _ _ hk)

theorem bumpRow_mode {i u r n : Nat} (hk : s.mode = m) : (s.bumpRow i u r n).mode = m := by
  unfold bumpRow
  dsimp only
  split <;> exact hk

theorem bump_mode {i u n : Nat} (hk : s.mode = m) : (s.bump i u n).mode = m := bumpRow_mode hk
theorem bumpPort_mode {p i n : Nat} (hk : s.mode = m) : (s.bumpPort p i n).mode = m := bumpRow_mode hk

theorem raise_mode {e d : Nat} (hk : s.mode = m) : (s.raise e d).mode = m :=
  (raise_sameObjs s e d 0x0500 1 (by rintro ⟨c, h⟩; simp only [slotKey, clIdx] at h; omega)).symm.trans hk

theorem raiseOnce_mode {e d : Nat} (hk : s.mode = m) : (s.raiseOnce e d).mode = m := by
  have hecc : (s.noteEcc e).mode = m := by unfold noteEcc; split <;> exact hk
  unfold raiseOnce
  dsimp only
  split
  · exact hecc
  · exact raise_mode hecc

theorem memWrite_mode {a : Nat} {bs : Bytes} (hk : s.mode = m) : (s.memWrite a bs).mode = m := by
  induction bs generalizing s a with
  | nil => exact hk
  | cons b bs ih => exact ih hk

/-- An object of another index is written. -/
theorem setReg_mode {i u : Nat} {v : Word} (h : 0x0500 < i) (hk : s.mode = m) : (s.setReg i u v).mode = m :=
  (SMap.get_set_ne _ (by unfold slotKey; omega)).trans hk

theorem setPortReg_mode {i u : Nat} {v : Word} (h : 0x0500 < i) (hk : s.mode = m) : (s.setPortReg i u v).mode = m := by
  refine setReg_mode h ?_
  unfold notePast
  split <;> exact hk

/-! ### The rings and the taps -/

theorem ringCause_mode {r bit : Nat} (hk : s.mode = m) : (s.ringCause r bit).mode = m := by
  unfold ringCause
  dsimp only
  split
  · exact raise_mode hk
  · exact hk

theorem completeDesc_mode {r i : Nat} {d : Desc} {result done : Nat} {aux : Option Word} {extra : Nat} (hk : s.mode = m) :
    (s.completeDesc r i d result done aux extra).mode = m := by
  unfold completeDesc
  extract_lets a timed keep written counted caused
  have htimed : timed.mode = m := by
    unfold timed
    split
    · split
      · exact hk
      · exact bump_mode (memWrite_mode hk)
    · exact hk
  have hwritten : written.mode = m := by unfold written; split <;> exact bump_mode (memWrite_mode htimed)
  have hcounted : counted.mode = m := bump_mode (bump_mode hwritten)
  have hcaused : caused.mode = m := by
    unfold caused
    repeat' split
    · exact ringCause_mode (bump_mode hcounted)
    · exact ringCause_mode (bump_mode hcounted)
    · exact ringCause_mode (bump_mode hcounted)
    · exact hcounted
  split
  · exact raise_mode hcaused
  · exact hcaused

theorem settleChains_mode {r n : Nat} (hk : s.mode = m) : (settleChains r n s).mode = m := by
  induction n generalizing s with
  | zero => exact hk
  | succ n ih =>
    unfold settleChains
    split
    · exact hk
    split
    · exact hk
    · exact ih (foldl_mode (by exact hk) fun _ _ h => completeDesc_mode h)

theorem directDone_mode {o : Option DirectRef} {result : Nat} {stamp : Option Word} (hk : s.mode = m) :
    (s.directDone o result stamp).mode = m := by
  unfold directDone
  split
  · exact settleChains_mode (by exact hk)
  · exact hk

theorem fetchDesc_mode {r : Nat} (hk : s.mode = m) : (s.fetchDesc r).2.mode = m := by
  have hread : (s.busRead r (s.descLen r)).mode = m := bump_mode hk
  unfold fetchDesc
  dsimp only
  split
  · exact hk
  · split <;> exact hread

theorem reserveDescs_mode {r need n count room : Nat} (hk : s.mode = m) : (reserveDescs r need n count room s).2.mode = m := by
  induction n generalizing count room s with
  | zero => exact hk
  | succ n ih =>
    unfold reserveDescs
    split
    · exact hk
    extract_lets q size i f
    split
    · exact hk
    have hf : f.2.mode = m := by
      have hd := fetchDesc_mode (r := r) hk
      unfold f
      split
      · split <;> next h => rw [h] at hd; exact hd
      · exact hk
    split
    · exact hf
    · split
      · exact ih (completeDesc_mode hf)
      · exact ih hf

theorem stageRx_mode {f : Staged} {good known : Bool} (hk : s.mode = m) : (s.stageRx f good known).2.mode = m := by
  unfold stageRx
  extract_lets r most need x
  have hx : x.2.mode = m := reserveDescs_mode hk
  split
  · exact ringCause_mode (bump_mode hx)
  split
  · exact ringCause_mode (bump_mode hx)
  split
  · exact bump_mode hx
  · exact hx

theorem peepCopy_mode {c k : Nat} {t : TapIn} (hk : s.mode = m) : (s.peepCopy c k t).mode = m := by
  have hdrop {u : State} (h : u.mode = m) : (u.peepDrop c k).mode = m := raiseOnce_mode (bumpRow_mode h)
  unfold peepCopy
  extract_lets data n numbered dest p meta_ queued r x
  have hnumbered : numbered.mode = m := hk
  split
  · exact hdrop hnumbered
  split
  · split
    · exact hdrop hnumbered
    · exact hnumbered
  split
  · exact hdrop hnumbered
  · have hx : x.2.mode = m := stageRx_mode hnumbered
    split
    · exact hx
    · exact hdrop hx

theorem peepTap_mode {t : TapIn} (hk : s.mode = m) : (s.peepTap t).mode = m := by
  refine foldl_mode hk fun u k hu => ?_
  split
  · exact hu
  · extract_lets seen n at_ counted
    have hcounted : counted.mode = m := bumpRow_mode hu
    split
    · exact peepCopy_mode hcounted
    · exact hcounted

/-! ### Control frames and waiting writes -/

theorem settlePort_mode {p : Nat} (hk : s.mode = m) : (s.settlePort p).mode = m :=
  foldl_mode hk fun u n hu => by
    unfold settleClass
    dsimp only
    repeat' split
    all_goals exact hu

theorem landFcLate_mode {p back : Nat} (hk : s.mode = m) : (s.landFcLate p back).mode = m := by
  unfold landFcLate
  dsimp only
  split
  · exact hk
  · exact foldl_mode (by exact hk) fun u w hu => settlePort_mode (setPortReg_mode (by omega) hu)

theorem lanes_mode {p sfd : Nat} {frag : Option Nat} {bs : Bytes} (hk : s.mode = m) : (s.lanes p sfd frag bs).mode = m := by
  unfold lanes
  split <;> exact hk

theorem sendOwn_mode {p sfd : Nat} {bs : Bytes} (hk : s.mode = m) : (s.sendOwn p sfd bs).mode = m := peepTap_mode (lanes_mode hk)

theorem sendMacCtl_mode {p : Nat} {body : Bytes} (hk : s.mode = m) : (s.sendMacCtl p body).mode = m :=
  sendOwn_mode (bumpPort_mode (bumpPort_mode (bumpPort_mode (bumpPort_mode hk))))

theorem sendCtl_mode {p : Nat} {k : CtlFrame} (hk : s.mode = m) : (s.sendCtl p k).mode = m := by
  unfold sendCtl
  extract_lets u
  have hland : u.mode = m := landFcLate_mode (by exact hk)
  clear_value u
  cases k with
  | verify => exact sendOwn_mode (bumpPort_mode hland)
  | respond => exact sendOwn_mode (bumpPort_mode hland)
  | pause q => exact sendMacCtl_mode (bumpPort_mode hland)
  | pfc times =>
    refine sendMacCtl_mode ?_
    have hcount (x : State) (n : Nat) (h : x.mode = m) : State.mode (match times.getD n none with
        | some (_ + 1) => x.bumpPort p (Pc.txPfc + n)
        | _ => x) = m := by
      split
      · exact bumpPort_mode h
      · exact h
    split
    · exact bumpPort_mode (foldl_mode hland hcount)
    · exact foldl_mode hland hcount

theorem queueCtl_mode {p : Nat} {k : CtlFrame} (hk : s.mode = m) : (s.queueCtl p k).mode = m := by
  unfold queueCtl
  split
  · exact sendCtl_mode hk
  · exact hk

theorem verifyStart_mode {p : Nat} (hk : s.mode = m) : (s.verifyStart p).mode = m := by
  unfold verifyStart
  dsimp only
  split
  · exact hk
  split
  · exact hk
  · exact queueCtl_mode (by exact hk)

theorem landLate_mode {p : Nat} (hk : s.mode = m) : (s.landLate p).mode = m := by
  unfold landLate
  split
  · exact hk
  · exact foldl_mode (by exact hk) fun u w hu => verifyStart_mode (setReg_mode (by omega) hu)

theorem settlePfc_twinMode {p : Nat} (hk : s.mode = m) : (s.settlePfc p).mode = m := by
  unfold settlePfc
  split
  · exact queueCtl_mode (by exact hk)
  · exact hk

theorem boundaryTx_mode {p : Nat} (hk : s.mode = m) : (s.boundaryTx p).mode = m := by
  refine landLate_mode ?_
  have hpfc := settlePfc_twinMode (p := p) hk
  unfold sendWaiting
  dsimp only
  split
  · exact hpfc
  · exact foldl_mode (by exact hpfc) fun _ _ h => sendCtl_mode h

/-! ### A frame that leaves, and the lanes given away (R46, R225) -/

theorem frameLeft_mode {p : Nat} {f : TxFrame} {bs : Bytes} {fin : End} (hk : s.mode = m) : (s.frameLeft p f bs fin).mode = m := by
  have hshut {u : State} (h : u.mode = m) : (u.shutCause p 4).mode = m := by
    unfold shutCause
    dsimp only
    split
    · exact raise_mode h
    · exact h
  have hover : (s.overrunCheck p f).mode = m := by
    unfold overrunCheck
    extract_lets shut
    split
    · exact hshut (bumpPort_mode hk)
    · exact hk
  have hplain : ((s.overrunCheck p f).tapPlain p f (Word.ofNat f.stamp)).mode = m := by
    unfold tapPlain
    split
    · exact hover
    · exact peepTap_mode hover
  exact directDone_mode (peepTap_mode hplain)

theorem stompLanes_mode {p : Nat} {f : TxFrame} {body : Bytes} (hk : s.mode = m) : (s.stompLanes p f body).mode = m := by
  refine frameLeft_mode (lanes_mode ?_)
  split
  · exact bumpPort_mode (bumpPort_mode hk)
  · exact bumpPort_mode hk

theorem portSilent_mode {p : Nat} (hk : s.mode = m) : (s.portSilent p).mode = m := by
  unfold portSilent settleSignal setSignal
  split <;> exact mode_of_regs rfl hk

theorem wireFree_mode {p : Nat} {f : TxFrame} (hk : s.mode = m) : (s.wireFree p f).mode = m :=
  boundaryTx_mode (mode_of_regs rfl hk)

theorem countFirst_mode {p slot : Nat} {f : TxFrame} (hk : s.mode = m) : (s.countFirst p f slot).mode = m := by
  unfold countFirst
  split
  · exact bumpPort_mode hk
  · exact hk

theorem releasePort_mode {p : Nat} (hk : s.mode = m) : (s.releasePort p).mode = m := by
  unfold releasePort
  split
  · exact wireFree_mode (portSilent_mode (stompLanes_mode (countFirst_mode hk)))
  · exact portSilent_mode hk

theorem swingRelease_mode (hk : s.mode = m) : s.swingRelease.mode = m := by
  have hall := foldl_mode (l := s.portTx.map (·.1)) (f := fun s p => s.releasePort p) hk fun _ _ h => releasePort_mode h
  unfold swingRelease
  exact mode_of_regs rfl hall

theorem setRole_mode {r : Role} (hk : s.mode = m) : (s.setRole r).mode = m := by
  unfold setRole
  extract_lets old u counted demoted
  split
  · exact hk
  have hcounted : counted.mode = m := by
    unfold counted
    split
    · exact bump_mode (by exact hk)
    · exact hk
  refine raise_mode ?_
  unfold demoted
  split
  · exact bump_mode hcounted
  · exact hcounted

theorem demote_mode (hk : s.mode = m) : s.demote.mode = m := by
  have hsend : (s.hingeSend .demoting).mode = m := by
    obtain ⟨x, hx⟩ := hingeSend_said s .demoting
    rw [hx]
    exact hk
  unfold demote
  split
  · exact setRole_mode (swingRelease_mode hsend)
  · exact setRole_mode hsend
  · exact setRole_mode hsend
  · exact hk

/-! ### Faults that are acted on leave TWIN_MODE and sel_mine (R226, R450) -/

theorem setRole_selMine (s : State) (r : Role) : (s.setRole r).twin.selMine = s.twin.selMine := by
  by_cases h : r = s.twin.role
  · unfold setRole; rw [if_pos h]
  · rw [setRole_twin s r h]; rfl

theorem demote_selMine (s : State) : s.demote.twin.selMine = s.twin.selMine := by
  obtain ⟨x, hx⟩ := hingeSend_said s .demoting
  have hsent : (s.hingeSend .demoting).twin.selMine = s.twin.selMine := by rw [hx]; rfl
  unfold demote
  split
  · rw [setRole_selMine]
    exact (congrArg SwingView.selMine (swingRelease_swing _)).trans hsent
  · rw [setRole_selMine, hsent]
  · rw [setRole_selMine, hsent]
  · rfl

theorem settleFaults_keeps (s : State) : s.settleFaults.mode = s.mode ∧ s.settleFaults.twin.selMine = s.twin.selMine := by
  have hact (u : State) (h : u.mode = s.mode ∧ u.twin.selMine = s.twin.selMine) :
      u.demote.mode = s.mode ∧ u.demote.twin.selMine = s.twin.selMine :=
    ⟨demote_mode h.1, (demote_selMine u).trans h.2⟩
  unfold settleFaults
  extract_lets t now_ fresh u peerReady
  have hu : u.mode = s.mode ∧ u.twin.selMine = s.twin.selMine := ⟨rfl, rfl⟩
  split
  · exact hu
  split
  · split
    · exact hact u hu
    · exact hu
  · exact hact u hu
  · exact hact u hu
  · exact hu

theorem settleFaults_paired (s : State) : s.settleFaults.paired = s.paired :=
  congrArg (fun w : Word => w.toNat == 1) (settleFaults_keeps s).1

end
end Sys2Proof.Machine
end

