-- ==== Sys2Proof/Proofs/IdentityAndEntropy.lean ====
section
namespace Sys2Proof.Machine
open State

/-! ### What the entropy source, attestation and adoption leave (R229, R231, R233) -/

theorem landTrngRestart_trng (s : State) : s.landTrngRestart.keys.trng = if s.keys.trng = .failed then .startup else s.keys.trng := by
  unfold landTrngRestart
  split <;> rfl

theorem landNonce_keys (s : State) (v : Word) :
    if s.keys.nonce.length < 24 then
      (s.landNonce v).keys.nonce = s.keys.nonce ++ leBytes 8 v.toNat ∧ (s.landNonce v).keys.attest = s.keys.attest
    else (s.landNonce v).keys.nonce = [] ∧ (s.landNonce v).keys.attest = .busy := by
  have hlen : (s.keys.nonce ++ leBytes 8 v.toNat).length = s.keys.nonce.length + 8 := by simp [leBytes]
  unfold landNonce
  dsimp only
  rw [hlen]
  split
  · next h => rw [if_pos (by omega)]; exact ⟨rfl, rfl⟩
  · next h => rw [if_neg (by omega)]; exact ⟨rfl, rfl⟩

theorem raise_paired (s : State) (e d : Nat) : (s.raise e d).paired = s.paired :=
  congrArg (fun w : Word => w.toNat == 1) (raise_mode rfl)

theorem updKeys_paired (s : State) (f : KeyUnit → KeyUnit) : (s.updKeys f).paired = s.paired := rfl

theorem landAdopt_spec {s : State} (h : s.keys.adopted = false) :
    s.landAdopt.keys.adopted = true ∧ s.landAdopt.twin.role = if !s.paired || s.twin.selMine then .active else .orphan := by
  unfold landAdopt
  extract_lets u now_
  have hpaired : u.paired = s.paired := by unfold u; rw [raise_paired, updKeys_paired, settleFaults_paired]
  have hmine : u.twin.selMine = s.twin.selMine := by
    unfold u; rw [raise_twin, updKeys_twin, (settleFaults_keeps s).2]
  have hadopted : u.keys.adopted = true := congrArg KeyUnit.adopted (raise_keys ..)
  clear_value u
  rw [if_neg (by simp [h]), hpaired, hmine]
  split
  · exact ⟨(congrArg KeyUnit.adopted (setRole_apart (.refl _)).keys).trans hadopted, setRole_role ..⟩
  · exact ⟨(congrArg KeyUnit.adopted (setRole_apart (.refl _)).keys).trans hadopted, setRole_role ..⟩

/-- A failing test counts itself, and FAILED comes with the third failure within 2^36 gr (R228, R229). -/
theorem execTrngTestFail_fails {dt : Nat} {apt : Bool} {bits : List Bool} {s : State} (hst : s.keys.trng ≠ .failed)
    (hon : s.isOn domTrng = true)
    (hfail : (if apt then aptFails (s.regN 0x0600 0x23) bits else rctFails (s.regN 0x0600 0x22) (0, false) bits) = true) :
    Answers (execTrngTestFail dt { apt, bits } s) fun t =>
      t.keys.trng = (if 2 ≤ (s.keys.trngFails.filter fun a => (s.elapse dt).since a ≤ 2 ^ 36).length then .failed else .startup) ∧
      t.ctr 0x0600 (if apt then 0x25 else 0x24) = s.ctr 0x0600 (if apt then 0x25 else 0x24) + 1 := by
  unfold execTrngTestFail
  extract_lets w fails u recent r
  have hfails : fails = true := hfail
  have hu : u.ctr 0x0600 (if apt then 0x25 else 0x24) = s.ctr 0x0600 (if apt then 0x25 else 0x24) + 1 := ctr_bumpRow ..
  have hrecent : recent.length = (s.keys.trngFails.filter fun a => w.since a ≤ 2 ^ 36).length + 1 := by
    have hsince (a : Word) : u.since a = w.since a := by unfold since runTime; rw [bump_time]
    simp only [recent, List.length_append, List.length_singleton, hsince, u, bump_keys]
    rfl
  refine answers_neg (by simp [hst, hon, hfails, w]) ?_
  rw [hrecent]
  by_cases h : 2 ≤ (s.keys.trngFails.filter fun a => w.since a ≤ 2 ^ 36).length
  · rw [if_pos (by omega), if_pos h]
    refine answers_next ⟨by rw [raise_keys]; rfl, ?_⟩
    rw [raise_ctr _ _ _ _ _ _ (by split <;> decide) (by decide) (by split <;> decide) (by split <;> decide)]
    exact hu
  · rw [if_neg (by omega), if_neg h]
    exact answers_next ⟨rfl, hu⟩

/-- Settles O35: the commands of the entropy source by their own branch, the writes by what each lands. -/
theorem identityAndEntropy : Obligations.IdentityAndEntropy := by
  refine ⟨?restart, ?running, ?failing, ?nonce, ?ready, ?adopt⟩
  case restart =>
    intro dt via s hr
    exact answers_keysWo (name := "TRNG_RESTART") (ty := .strobe) (ok := fun _ => true) dt via hr rfl (by decide) (by decide) (by decide)
      rfl (by simp) (.inl (by decide)) fun x _ => landTrngRestart_trng _
  case running =>
    intro dt bits s hst hon hlen hrct hapt
    refine answers_pos (a := .next _) ⟨hst, hon, hlen, ?_, ?_⟩ (answers_next rfl)
    · exact (Bool.not_eq_true' _).mpr hrct
    · exact (Bool.not_eq_true' _).mpr hapt
  case failing =>
    intro dt apt bits s hst hon hfail
    exact execTrngTestFail_fails hst hon hfail
  case nonce =>
    intro dt via v s hr
    exact answers_keysWo (name := "ATTEST_NONCE") (ty := .domain) (ok := fun _ => true) dt via hr rfl (by decide) (by decide) (by decide)
      rfl (by simp) (.inl (by decide)) fun x _ => landNonce_keys ((s.elapse dt).said x) v
  case ready =>
    intro dt s hst hon
    refine answers_neg (b := .next _) (by simp [hst, hon]) (answers_next ⟨?_, ?_⟩)
    · rw [raise_keys]; rfl
    · rw [raise_keys]; rfl
  case adopt =>
    intro dt via s hr hnot hcheck
    exact answers_keysWo (name := "ADOPT") (ty := .strobe) (ok := fun _ => true) dt via hr rfl (by decide) (by decide) (by decide)
      rfl (by simp) (.inr hcheck) fun x _ => landAdopt_spec hnot

end Sys2Proof.Machine
end

