-- ==== Sys2Proof/Proofs/KeyRequests.lean ====
section
namespace Sys2Proof.Machine
open State

/-! ### The engine goes on: what a request leaves of the keys, the tick, the domains and the interfaces -/

/-- The keys, the writes on their way, the time and the domains are as before; the interfaces may have carried more. -/
structure State.Onward (u s : State) : Prop where
  grid : u.Grid s
  keys : u.keys = s.keys
  out : ∀ o ∈ s.out, o ∈ u.out

section
variable {s t u : State}

theorem State.Onward.refl (s : State) : s.Onward s := ⟨.refl s, rfl, fun _ h => h⟩

theorem State.Onward.trans (h : u.Onward t) (k : t.Onward s) : u.Onward s :=
  ⟨h.grid.trans k.grid, h.keys.trans k.keys, fun o ho => h.out o (k.out o ho)⟩

theorem setWindow_onward (s : State) (w : Nat) (q : Window) : (s.setWindow w q).Onward s :=
  ⟨⟨rfl, rfl, fun _ => rfl, fun _ => rfl⟩, rfl, fun _ h => h⟩

theorem emit_onward (s : State) (o : Output) : (s.emit o).Onward s :=
  ⟨⟨rfl, rfl, fun _ => rfl, fun _ => rfl⟩, rfl, fun _ h => List.mem_append_left _ h⟩

theorem said_onward (s : State) (x : Sent) : (s.said x).Onward s :=
  ⟨⟨rfl, rfl, fun _ => rfl, fun _ => rfl⟩, rfl, fun _ h => List.mem_append_left _ h⟩

theorem bump_onward (s : State) (i u n : Nat) : (s.bump i u n).Onward s :=
  ⟨bump_grid (.refl s), bump_keys .., fun _ h => by rwa [bump_out]⟩

theorem raise_onward (s : State) (e d : Nat) : (s.raise e d).Onward s :=
  ⟨raise_grid (.refl s), raise_keys .., fun _ h => by rwa [raise_out]⟩

theorem raiseOnce_onward (s : State) (e d : Nat) : (s.raiseOnce e d).Onward s :=
  ⟨raiseOnce_grid (.refl s), (raiseOnce_quiet (.refl s)).keys, fun _ h => by rwa [(raiseOnce_quiet (.refl s)).out]⟩

theorem lastRefusal_onward (s : State) (w : Word) : State.Onward { s with dict := { s.dict with lastRefusal := w } } s :=
  ⟨⟨rfl, rfl, fun _ => rfl, fun _ => rfl⟩, rfl, fun _ h => h⟩

theorem refuse_onward (s : State) (via : Transport) (idx sub code : Nat) : (s.refuse via idx sub code).Onward s := by
  unfold refuse
  extract_lets v w
  have hv : v.Onward s := bump_onward ..
  clear_value v w
  exact (raiseOnce_onward ..).trans ((lastRefusal_onward v w).trans hv)

theorem wrapFailed_onward (s : State) : s.wrapFailed.Onward s := (raise_onward ..).trans (bump_onward ..)

theorem mirrorOverflow_onward (s : State) : s.mirrorOverflow.Onward s :=
  (raiseOnce_onward ..).trans ((bump_onward ..).trans ⟨⟨rfl, rfl, fun _ => rfl, fun _ => rfl⟩, rfl, fun _ h => h⟩)

theorem streamSend_onward (s : State) (m : StreamMsg) : (s.streamSend m).Onward s := by
  unfold streamSend
  split
  · exact .refl s
  extract_lets isWrite n
  split
  · exact mirrorOverflow_onward s
  · obtain ⟨x, hx⟩ := hingeSend_said (s.updTwin fun t => { t with seq := n, store := t.store ++ [(n, m)] }) (.stream n m)
    rw [hx]
    exact (said_onward ..).trans ⟨⟨rfl, rfl, fun _ => rfl, fun _ => rfl⟩, rfl, fun _ h => h⟩

theorem hingeWrap_onward (s : State) (im : Bytes) : (s.hingeWrap im).2.Onward s := by
  unfold hingeWrap
  split
  · exact .refl s
  · exact ⟨⟨rfl, rfl, fun _ => rfl, fun _ => rfl⟩, rfl, fun _ h => h⟩

theorem forwardRow_onward (s : State) (via : Transport) (c t row : Nat) (img : List Word) : (s.forwardRow via c t row img).Onward s := by
  unfold forwardRow
  split
  · exact .refl s
  split
  · split
    · exact streamSend_onward ..
    · split
      · exact (streamSend_onward ..).trans (hingeWrap_onward ..)
      · exact .refl s
  · exact streamSend_onward ..

end

/-! ### ROW and the fields of a key slot (R69, R211, R213) -/

section
variable {s u v : State} {via : Transport} {cuts : List (Nat × CutFrame)} {c i row code idx sub : Nat} {w : Word}

/-- A request that queues nothing is answered, and nothing lands. -/
theorem requestLand_idle (run : s.dictRuns = true) (hl : s.dict.landing = []) (hw : s.write via idx sub w = (code, u)) (hu : u.Onward s) :
    s.requestLand via cuts idx sub w = u.emit (.status code) := by
  rw [requestLand_eq run hw (hu.grid.dictRuns.trans run)]
  exact landWrites_nil _ (hu.grid.landing.trans hl)

theorem requestRow_onward (run : s.dictRuns = true) (hl : s.dict.landing = []) (hc : c < 16) (hrow : row < 4096) :
    (s.requestLand via cuts (winIdx c 6) 1 (Word.ofNat row)).Onward s ∧
    ((s.requestLand via cuts (winIdx c 6) 1 (Word.ofNat row)).window (winIdx c 6)).row = row := by
  obtain ⟨q, f, hsel, hq, -, -⟩ := selectRow_eq s c 6 row
  have hon : (s.selected (winIdx c 6) q f).Onward s := ⟨⟨rfl, rfl, fun _ => rfl, fun _ => rfl⟩, rfl, fun _ h => h⟩
  rw [requestLand_idle run hl ((write_row hc (by decide) (by omega)).trans (by rw [hsel])) hon]
  refine ⟨(emit_onward ..).trans hon, ?_⟩
  exact (congrArg Window.row (window_selected s (winIdx c 6) q f)).trans hq

/-- The fields of a key slot are words without a range. -/
theorem windowObjs_key (h2 : 2 ≤ i) (h9 : i ≤ 9) : ∃ name, (windowObjs 6).find? (fun o => o.sub == i) = some (keyField i name) := by
  interval_cases i <;> exact ⟨_, rfl⟩

theorem write_keyField (hc : c < 16) (h2 : 2 ≤ i) (h9 : i ≤ 9) : s.write via (winIdx c 6) i w =
    if isBdp via ∧ i ≠ 2 ∧ !(SMap.get 0 (s.window (winIdx c 6)).stage 2).bit 4 then
      (rLOCAL_ONLY, s.refuse via (winIdx c 6) i rLOCAL_ONLY)
    else (rOK, s.setWindow (winIdx c 6) { s.window (winIdx c 6) with stage := SMap.set 0 (s.window (winIdx c 6)).stage i w }) := by
  obtain ⟨name, ho⟩ := windowObjs_key h2 h9
  have ha : s.acceptWin via c 6 (keyField i name) w = s.acceptField via c 6 (keyField i name) w := by
    have hfits : (ObjType.fits .u64 w.toNat && true) = true := by simp [ObjType.fits]
    unfold acceptWin
    exact (if_neg (by simp [keyField])).trans ((if_neg (by simp [keyField, hfits])).trans ((if_neg (by dsimp only [keyField]; omega)).trans
      ((if_neg (by dsimp only [keyField]; omega)).trans ((if_neg (by simp [keyField])).trans
      ((if_neg (by dsimp only [keyField]; omega)).trans (if_neg (by simp [keyField])))))))
  rw [write_window hc (by decide) (by omega) ho, ha]
  by_cases h : isBdp via ∧ i ≠ 2 ∧ !(SMap.get 0 (s.window (winIdx c 6)).stage 2).bit 4
  · have hno : s.acceptField via c 6 (keyField i name) w = (rLOCAL_ONLY, s) := if_pos ⟨rfl, h⟩
    rw [hno, if_pos h]
    rfl
  · have hyes : s.acceptField via c 6 (keyField i name) w = (rOK, s.setWindow (winIdx c 6)
        { s.window (winIdx c 6) with stage := SMap.set 0 (s.window (winIdx c 6)).stage i w }) :=
      (if_neg fun k => h k.2).trans (if_neg (by simp [keyField]))
    rw [hyes, if_neg h]
    rfl

/-- A field is taken where the transport may write it. -/
theorem requestField_onward (run : s.dictRuns = true) (hl : s.dict.landing = []) (hc : c < 16) (h2 : 2 ≤ i) (h9 : i ≤ 9)
    (hmay : ¬(isBdp via ∧ i ≠ 2 ∧ !(SMap.get 0 (s.window (winIdx c 6)).stage 2).bit 4)) :
    (s.requestLand via cuts (winIdx c 6) i w).Onward s ∧ (s.requestLand via cuts (winIdx c 6) i w).window (winIdx c 6) =
      { s.window (winIdx c 6) with stage := SMap.set 0 (s.window (winIdx c 6)).stage i w } := by
  have hw := write_keyField (s := s) (via := via) (w := w) hc h2 h9
  rw [if_neg hmay] at hw
  rw [requestLand_idle run hl hw (setWindow_onward ..)]
  exact ⟨(emit_onward ..).trans (setWindow_onward ..), window_setWindow ..⟩

/-- KEY_DATA of a plain LOAD is refused through BDP. -/
theorem requestField_refused (run : s.dictRuns = true) (hl : s.dict.landing = []) (hc : c < 16) (h3 : 3 ≤ i) (h9 : i ≤ 9)
    (hv : isBdp via = true) (hplain : (SMap.get 0 (s.window (winIdx c 6)).stage 2).bit 4 = false) :
    (s.requestLand via cuts (winIdx c 6) i w).Onward s ∧ Output.status rLOCAL_ONLY ∈ (s.requestLand via cuts (winIdx c 6) i w).out ∧
      (s.requestLand via cuts (winIdx c 6) i w).window (winIdx c 6) = s.window (winIdx c 6) := by
  have hw := write_keyField (s := s) (via := via) (w := w) hc (by omega : 2 ≤ i) h9
  rw [if_pos ⟨hv, by omega, by rw [hplain]; rfl⟩] at hw
  rw [requestLand_idle run hl hw (refuse_onward ..)]
  refine ⟨(emit_onward ..).trans (refuse_onward ..), ?_, ?_⟩
  · exact List.mem_append_right _ (List.mem_singleton_self _)
  · obtain ⟨r, hr⟩ := refuse_dict s via (winIdx c 6) i rLOCAL_ONLY
    exact congrArg (fun d : DictUnit => SMap.get {} d.windows (winIdx c 6)) hr

end
end Sys2Proof.Machine
end

