-- ==== Sys2Proof/Proofs/KeyCommits.lean ====
section
namespace Sys2Proof.Machine
open State

/-! ### A key slot is staged (R69, R211) -/

/-- Words written to staging slots, in order. -/
def stageFields (m : SMap Word) (fs : List (Nat × Word)) : SMap Word := fs.foldl (fun m f => SMap.set 0 m f.1 f.2) m

/-- The writes that carry KEY_DATA0–6. -/
def keyDataFields (data : List Word) : List (Nat × Word) := (data.take 7).zipIdx.map fun e => (3 + e.2, e.1)

theorem keyDataFields_sub (data : List Word) : ∀ f ∈ keyDataFields data, 3 ≤ f.1 ∧ f.1 ≤ 9 := by
  intro f hf
  obtain ⟨⟨d, i⟩, he, rfl⟩ := List.mem_map.mp hf
  have hi := (List.mem_zipIdx he).2.1
  rw [List.length_take] at hi
  dsimp only
  omega

theorem keyDataFields_image {data : List Word} (hlen : data.length = 7) (m : SMap Word) :
    (stageSubs 6).map (fun i => SMap.get 0 (stageFields m (keyDataFields data)) i) = SMap.get 0 m 2 :: data := by
  match data, hlen with
  | [d0, d1, d2, d3, d4, d5, d6], _ =>
    have hsubs : stageSubs 6 = [2, 3, 4, 5, 6, 7, 8, 9] := rfl
    simp [hsubs, keyDataFields, stageFields, SMap.get_set_self, SMap.get_set_ne]

section
variable {s u v : State} {via : Transport} {m : Master} {cuts : List (Nat × CutFrame)} {c row code idx sub : Nat} {w : Word}

theorem requestAll_append (s : State) (m : Master) (l k : List (Nat × Nat × Word)) :
    s.requestAll m cuts (l ++ k) = (s.requestAll m cuts l).requestAll m cuts k := List.foldl_append

theorem requestAll_cons (s : State) (m : Master) (a : Nat × Nat × Word) (l : List (Nat × Nat × Word)) :
    s.requestAll m cuts (a :: l) = (s.requestLand m.transport cuts a.1 a.2.1 a.2.2).requestAll m cuts l := List.foldl_cons ..

theorem requestAll_nil (s : State) (m : Master) : s.requestAll m cuts [] = s := List.foldl_nil

/-- The writes of ROW and KEY_CTRL. -/
def keyHead (c row : Nat) (w : Word) : List (Nat × Nat × Word) := [(winIdx c 6, 1, Word.ofNat row), (winIdx c 6, 2, w)]

theorem requestHead_onward (run : s.dictRuns = true) (hl : s.dict.landing = []) (hc : c < 16) (hrow : row < 4096) :
    (s.requestAll m cuts (keyHead c row w)).Onward s ∧ ((s.requestAll m cuts (keyHead c row w)).window (winIdx c 6)).row = row ∧
    SMap.get 0 ((s.requestAll m cuts (keyHead c row w)).window (winIdx c 6)).stage 2 = w := by
  obtain ⟨hon, hsel⟩ := requestRow_onward (via := m.transport) (cuts := cuts) run hl hc hrow
  rw [keyHead, requestAll_cons, requestAll_cons, requestAll_nil]
  dsimp only
  generalize s.requestLand m.transport cuts (winIdx c 6) 1 (Word.ofNat row) = u at hon hsel ⊢
  obtain ⟨hon', hwin⟩ := requestField_onward (via := m.transport) (cuts := cuts) (w := w) (i := 2) (hon.grid.dictRuns.trans run)
    (hon.grid.landing.trans hl) hc (by decide) (by decide) (by simp)
  rw [hwin]
  exact ⟨hon'.trans hon, hsel, SMap.get_set_self ..⟩

/-- KEY_DATA is staged where the transport may write it. -/
theorem requestFields_onward {fs : List (Nat × Word)} (hfs : ∀ f ∈ fs, 3 ≤ f.1 ∧ f.1 ≤ 9) (run : s.dictRuns = true)
    (hl : s.dict.landing = []) (hc : c < 16)
    (hmay : isBdp m.transport = false ∨ (SMap.get 0 (s.window (winIdx c 6)).stage 2).bit 4 = true) :
    (s.requestAll m cuts (fs.map fun f => (winIdx c 6, f.1, f.2))).Onward s ∧
    (s.requestAll m cuts (fs.map fun f => (winIdx c 6, f.1, f.2))).window (winIdx c 6) =
      { s.window (winIdx c 6) with stage := stageFields (s.window (winIdx c 6)).stage fs } := by
  induction fs generalizing s with
  | nil => exact ⟨.refl s, rfl⟩
  | cons f fs ih =>
    obtain ⟨h3, h9⟩ := hfs f (List.mem_cons_self ..)
    obtain ⟨hon, hwin⟩ := requestField_onward (via := m.transport) (cuts := cuts) (w := f.2) run hl hc (by omega) h9 (by
      rintro ⟨hbdp, -, hplain⟩
      rcases hmay with h | h
      · rw [h] at hbdp; exact absurd hbdp (by decide)
      · rw [h] at hplain; exact absurd hplain (by decide))
    obtain ⟨hon', hwin'⟩ := ih (fun g hg => hfs g (List.mem_cons_of_mem _ hg)) (hon.grid.dictRuns.trans run)
      (hon.grid.landing.trans hl) (hmay.imp_right fun h => by rw [hwin]; exact (congrArg (Word.bit · 4) (SMap.get_set_ne _ (by omega))).trans h)
    exact ⟨hon'.trans hon, hwin'.trans (by rw [hwin]; rfl)⟩

/-- KEY_DATA of a plain LOAD is refused through BDP, word for word. -/
theorem requestFields_refused {fs : List (Nat × Word)} (hfs : ∀ f ∈ fs, 3 ≤ f.1 ∧ f.1 ≤ 9) (run : s.dictRuns = true)
    (hl : s.dict.landing = []) (hc : c < 16) (hv : isBdp m.transport = true)
    (hplain : (SMap.get 0 (s.window (winIdx c 6)).stage 2).bit 4 = false) :
    (s.requestAll m cuts (fs.map fun f => (winIdx c 6, f.1, f.2))).Onward s ∧
    (fs ≠ [] → Output.status rLOCAL_ONLY ∈ (s.requestAll m cuts (fs.map fun f => (winIdx c 6, f.1, f.2))).out) := by
  induction fs generalizing s with
  | nil => exact ⟨.refl s, fun h => absurd rfl h⟩
  | cons f fs ih =>
    obtain ⟨h3, h9⟩ := hfs f (List.mem_cons_self ..)
    obtain ⟨hon, hout, hwin⟩ := requestField_refused (cuts := cuts) (w := f.2) run hl hc h3 h9 hv hplain
    obtain ⟨hon', -⟩ := ih (fun g hg => hfs g (List.mem_cons_of_mem _ hg)) (hon.grid.dictRuns.trans run)
      (hon.grid.landing.trans hl) (by rw [hwin]; exact hplain)
    exact ⟨hon'.trans hon, fun _ => hon'.out _ hout⟩

/-! ### COMMIT of a key slot (R70, R212) -/

/-- A request whose write waits for its tick boundary. -/
theorem requestLand_queued {e : Effect} (run : s.dictRuns = true) (hl : s.dict.landing = []) (hw : s.write via idx sub w = (rOK, v))
    (hu : u.Onward s) (hv : v.Onward (u.enqueue via e)) (hb : 0 < tickBound e) :
    s.requestLand via cuts idx sub w = v.emit (.status rOK) := by
  have hland : v.dict.landing = [⟨via, e, s.time.ticks⟩] := by
    rw [hv.grid.landing, ← hu.grid.time]
    exact congrArg (· ++ _) (hu.grid.landing.trans hl)
  have htime : v.time = s.time := hv.grid.time.trans hu.grid.time
  rw [requestLand_eq run hw (hv.grid.dictRuns.trans (hu.grid.dictRuns.trans run))]
  exact landWrites_waits _ hland (waits_fresh (congrArg TimeUnit.ticks htime).symm hb)

theorem domKeys_ack (hon : s.isOn domKeys = true) : (s.dom domKeys).ack ≠ .off := fun hoff => by
  unfold isOn at hon
  rw [hoff] at hon
  simp [domKeys, domAO] at hon

theorem rowCheck_key {img : List Word} (hrow : row < 4096) (hon : s.isOn domKeys = true) (hact : (s.keyAct false img true).takes = true) :
    s.rowCheck c 6 row img true = (rOK, s) := by
  have hr : ¬ tableRows 6 ≤ row := Nat.not_le.mpr hrow
  have hf : fieldsOk 6 img = true := rfl
  have hoff : (s.dom domKeys).ack ≠ .off := domKeys_ack hon
  unfold rowCheck
  dsimp only
  rw [if_neg hr, if_neg (by simpa [tableDomain, hf] using hoff), if_pos rfl]
  split
  · next h => rw [h] at hact; exact absurd hact (by decide)
  · next h => rw [h] at hact; exact absurd hact (by decide)
  · rfl

theorem rowCheck_onward (s : State) (c row : Nat) (img : List Word) (live : Bool) : (s.rowCheck c 6 row img live).2.Onward s := by
  have hact : (match s.keyAct false img live with
      | .refuse true => (rRANGE, s.wrapFailed)
      | .refuse false => (rRANGE, s)
      | _ => (rOK, s)).2.Onward s := by
    split
    · exact wrapFailed_onward s
    · exact .refl s
    · exact .refl s
  unfold rowCheck
  extract_lets off
  by_cases hr : tableRows 6 ≤ row
  · rw [if_pos hr]; exact .refl s
  by_cases hoff : (off || !fieldsOk 6 img) = true
  · rw [if_neg hr, if_pos hoff]; exact .refl s
  · rw [if_neg hr, if_neg hoff, if_pos rfl]; exact hact

theorem noPart_onward (s : State) (w : Nat) : (s.noPart w).Onward s := setWindow_onward ..

/-- The effect of a COMMIT of the staged key slot. -/
def State.keyEffect (s : State) (c : Nat) : Effect := .row (winIdx c 6) (s.window (winIdx c 6)).row (s.stagedImage c 6) false

theorem keyEffect_bound (s : State) (c : Nat) : 0 < tickBound (s.keyEffect c) := by
  rw [keyEffect, tickBound_row (by decide)]
  decide

/-- A COMMIT that passes its check is on its way. -/
theorem write_keyCommit_taken (hl : s.dict.landing = []) (hc : c < 16) (hrow : (s.window (winIdx c 6)).row < 4096)
    (hon : s.isOn domKeys = true) (hact : (s.keyAct false (s.stagedImage c 6) true).takes = true) :
    ∃ v, s.write via (winIdx c 6) 0x10 1 = (rOK, v) ∧ v.Onward ((s.noPart (winIdx c 6)).enqueue via (s.keyEffect c)) := by
  refine ⟨_, ?_, forwardRow_onward _ via c 6 (s.window (winIdx c 6)).row (s.stagedImage c 6)⟩
  have hset : (s.noPart (winIdx c 6)).rowsSettled = true := by
    have hl' : (s.noPart (winIdx c 6)).dict.landing = [] := hl
    simp [rowsSettled, hl']
  have hcheck : (s.noPart (winIdx c 6)).rowCheck c 6 (s.window (winIdx c 6)).row (s.stagedImage c 6) true = (rOK, s.noPart (winIdx c 6)) :=
    rowCheck_key hrow hon hact
  rw [write_commit hc (by decide)]
  unfold acceptCommit
  dsimp only
  rw [← noPart, noPart_window, stagedImage_noPart]
  unfold acceptRow
  dsimp only
  rw [hset, hcheck]
  rfl

/-- Any COMMIT: refused, or on its way. -/
theorem write_keyCommit (hc : c < 16) : ∃ code v, s.write via (winIdx c 6) 0x10 1 = (code, v) ∧
    (v.Onward s ∨ code = rOK ∧ ∃ u : State, u.Onward s ∧ v.Onward (u.enqueue via (s.keyEffect c))) := by
  let x := (s.noPart (winIdx c 6)).rowCheck c 6 (s.window (winIdx c 6)).row (s.stagedImage c 6) (s.noPart (winIdx c 6)).rowsSettled
  have hx : x.2.Onward s := (rowCheck_onward ..).trans (noPart_onward ..)
  have hacc : (s.noPart (winIdx c 6)).acceptRow via c 6 (s.window (winIdx c 6)).row (s.stagedImage c 6) false =
      if x.1 ≠ rOK then x
      else (rOK, (x.2.enqueue via (s.keyEffect c)).forwardRow via c 6 (s.window (winIdx c 6)).row (s.stagedImage c 6)) := rfl
  clear_value x
  rw [write_commit hc (by decide)]
  unfold acceptCommit
  dsimp only
  rw [← noPart, noPart_window, stagedImage_noPart]
  dsimp only
  rw [hacc]
  by_cases h : x.1 = rOK
  · rw [if_neg (not_not_intro h), if_pos rfl, if_pos rfl]
    exact ⟨_, _, rfl, .inr ⟨rfl, x.2, hx, forwardRow_onward ..⟩⟩
  · rw [if_pos h, if_neg h, if_neg h]
    exact ⟨_, _, rfl, .inl ((refuse_onward ..).trans ((setWindow_onward ..).trans hx))⟩

/-- What a COMMIT answers or queues, the keys stay until it lands. -/
theorem requestKeyCommit_keys (run : s.dictRuns = true) (hl : s.dict.landing = []) (hc : c < 16) :
    (s.requestLand via cuts (winIdx c 6) 0x10 1).keys = s.keys ∧
    ∀ o ∈ s.out, o ∈ (s.requestLand via cuts (winIdx c 6) 0x10 1).out := by
  obtain ⟨code, v, hw, hv | ⟨rfl, u, hu, hv⟩⟩ := write_keyCommit (s := s) (via := via) hc
  · rw [requestLand_idle run hl hw hv]
    exact ⟨hv.keys, fun o ho => (emit_onward ..).out o (hv.out o ho)⟩
  · rw [requestLand_queued run hl hw hu hv (keyEffect_bound ..)]
    exact ⟨hv.keys.trans hu.keys, fun o ho => (emit_onward ..).out o (hv.out o (hu.out o ho))⟩

/-- A COMMIT that passes its check waits for its tick boundary. -/
theorem requestKeyCommit_taken (run : s.dictRuns = true) (hl : s.dict.landing = []) (hc : c < 16)
    (hrow : (s.window (winIdx c 6)).row < 4096) (hon : s.isOn domKeys = true)
    (hact : (s.keyAct false (s.stagedImage c 6) true).takes = true) :
    (s.requestLand via cuts (winIdx c 6) 0x10 1).keys = s.keys ∧
    Output.status rOK ∈ (s.requestLand via cuts (winIdx c 6) 0x10 1).out ∧
    (s.requestLand via cuts (winIdx c 6) 0x10 1).dict.landing = [⟨via, s.keyEffect c, s.time.ticks⟩] := by
  obtain ⟨v, hw, hv⟩ := write_keyCommit_taken (via := via) hl hc hrow hon hact
  rw [requestLand_queued run hl hw (noPart_onward ..) hv (keyEffect_bound ..)]
  refine ⟨hv.keys, List.mem_append_right _ (List.mem_singleton_self _), ?_⟩
  refine hv.grid.landing.trans ?_
  exact congrArg (· ++ _) hl

end
end Sys2Proof.Machine
end

