-- ==== Sys2Proof/Proofs/KeyLandings.lean ====
section
namespace Sys2Proof.Machine
open State

/-! ### The one write on its way lands (R214, R219, R557) -/

section
variable {s : State} {cuts : List (Nat × CutFrame)} {l : Landing} {c row : Nat} {k : KeyImg}

theorem landOldest_keyRow (run : s.dictRuns = true) (hl : s.dict.landing = [l]) (hw : s.waits l = false)
    (hb : (boundRow l.eff).isSome = true) (h2 : tickBound l.eff = 2) (ht : (s.keyVerdict l.eff).takes = true) :
    s.landOldest cuts = s.cleared.landKeyRow l.via l.eff true := by
  have ht' : (s.cleared.keyVerdict l.eff).takes = true := ht
  have hedge : s.cleared.landEdge cuts [l] = s.cleared.landKeyRow l.via l.eff true := by
    unfold landEdge
    rw [if_pos (by simp [h2, hb])]
    simp [ht']
  have hnext : s.landNext cuts mayLand = some (s.cleared.landEdge cuts [l]) := by
    simp [landNext, hl, mayLand, hw, hb, cleared]
  unfold landOldest
  rw [if_pos run, hnext, hedge]
  rfl

theorem landOldest_unbound (run : s.dictRuns = true) (hl : s.dict.landing = [l]) (hw : s.waits l = false) (hb : boundRow l.eff = none) :
    s.landOldest cuts = s.cleared.landOne cuts l := by
  have hnext : s.landNext cuts mayLand = some (s.cleared.landOne cuts l) := by
    simp [landNext, hl, mayLand, hw, hb, cleared]
  unfold landOldest
  rw [if_pos run, hnext]
  rfl

theorem rowLanded_keys (u : State) (via : Transport) (w : Nat) (byData : Bool) : (rowLanded (rOK, u) via w byData).keys = u.keys := by
  unfold rowLanded
  dsimp only
  rw [if_pos rfl]
  split <;> rfl

/-! ### What a LOAD, an ERASE and a common slot leave -/

theorem slot_setSlot (s : State) (i : Nat) (q : KeySlot) : (s.setSlot i q).slot i = q := SMap.get_set_self ..

theorem landKeyLoad_slot (s : State) (c r : Nat) (k : KeyImg) :
    (s.landKeyLoad c r k).slot (4096 * c + r) = { s.slot (4096 * c + r) with master := some k, flip := some k } := slot_setSlot ..

theorem landKeyErase_slot (s : State) (c r : Nat) : (s.landKeyErase c r).slot (4096 * c + r) =
    { gen := ((s.slot (4096 * c + r)).gen + 1) % 256 } := by
  unfold landKeyErase
  extract_lets i q moved u
  have hu : u.slot i = { gen := (q.gen + 1) % 256 } := slot_setSlot ..
  clear_value u
  have h : (u.clusterPorts c |>.foldl (fun s p => s.txKeyErase p (· == r)) u).Apart u := foldl_apart (.refl u) fun _ _ h => txKeyErase_apart h
  unfold slot at hu ⊢
  rw [h.keys, hu]
  rfl

theorem landCommon_key (s : State) (n : Nat) (k : KeyImg) : (s.landCommon n (some k)).commonKey n = some k ∧
    (n = s.regN 0x0200 6 → (s.landCommon n (some k)).dict.rxSeq = 0 ∧ (s.landCommon n (some k)).dict.txSeq = 0) := by
  have hset : (s.updKeys fun q => { q with common := SMap.set none q.common n (some k) }).commonKey n = some k := by
    change SMap.get none (SMap.set none s.keys.common n (some k)) n = some k
    exact SMap.get_set_self ..
  unfold landCommon
  extract_lets u
  by_cases h : n = u.regN 0x0200 6
  · rw [if_pos h]
    exact ⟨hset, fun _ => ⟨rfl, rfl⟩⟩
  · rw [if_neg h]
    exact ⟨hset, fun k => absurd k h⟩

theorem landCkey_load {sel : Nat} {img : List Word} (hon : s.isOn domKeys = true) (hact : s.keyAct true img true = .load k) :
    s.landCkey sel img = (rOK, s.landCommon sel (some k)) := by
  unfold landCkey
  rw [if_neg (domKeys_ack hon), hact]

/-! ### The slot after its landing -/

theorem slot_of_keys {u v : State} (h : u.keys = v.keys) (i : Nat) : u.slot i = v.slot i := by unfold slot; rw [h]

theorem landKeyRow_load {via : Transport} {w : Nat} {img : List Word} {byData : Bool} (hv : s.keyVerdict (.row w row img byData) = .load k) :
    (s.landKeyRow via (.row w row img byData) true).keys = (s.landKeyLoad (winCluster w) row k).keys := by
  unfold landKeyRow
  dsimp only
  rw [hv]
  exact rowLanded_keys ..

theorem landKeyRow_erase {via : Transport} {w : Nat} {img : List Word} {byData : Bool} (hv : s.keyVerdict (.row w row img byData) = .erase) :
    (s.landKeyRow via (.row w row img byData) true).keys = (s.landKeyErase (winCluster w) row).keys := by
  unfold landKeyRow
  dsimp only
  rw [hv]
  exact rowLanded_keys ..

theorem landKeyRow_wrappedErase {via : Transport} {w suite : Nat} (hv : s.keyVerdict (.wrappedKey w row suite none) = .erase) :
    (s.landKeyRow via (.wrappedKey w row suite none) true).keys = (s.landKeyErase (winCluster w) row).keys := by
  unfold landKeyRow
  dsimp only
  rw [hv]
  exact rowLanded_keys ..

theorem waits_keyRow {img : List Word} {byData : Bool} (he : l.eff = .row (winIdx c 6) row img byData) (hw : 2 ≤ s.ticksWaited l) (hc : c < 16)
    (hon : s.isOn domKeys = true) : s.waits l = false := by
  obtain ⟨via, eff, tick⟩ := l
  subst he
  exact waits_row hc (by decide) rfl hon (by rw [tickBound_row (by decide)]; exact hw)

theorem waits_wrappedKey {suite : Nat} (he : l.eff = .wrappedKey (winIdx c 6) row suite none) (hw : 2 ≤ s.ticksWaited l)
    (hon : s.isOn domKeys = true) : s.waits l = false := by
  have hb : tickBound l.eff = 2 := by rw [he]; rfl
  unfold waits
  rw [decide_eq_false (by omega), he]
  simp [winTable_winIdx (c := c) (t := 6) (by decide), tableDomain, hon]

theorem waits_ckey {sel : Nat} {img : List Word} (he : l.eff = .ckey sel img) (hw : 2 ≤ s.ticksWaited l) (hon : s.isOn domKeys = true) :
    s.waits l = false := by
  have hb : tickBound l.eff = 2 := by rw [he]; rfl
  unfold waits
  rw [decide_eq_false (by omega), he]
  simp [hon]

section
variable (run : s.dictRuns = true) (hl : s.dict.landing = [l]) (hw : 2 ≤ s.ticksWaited l) (hon : s.isOn domKeys = true)
include run hl hw hon

/-- A LOAD leaves its key in the slot, and a bank waiting to flip. -/
theorem keyRow_loads {img : List Word} {byData : Bool} (he : l.eff = .row (winIdx c 6) row img byData) (hc : c < 16)
    (hact : s.keyAct false img true = .load k) :
    (s.landOldest cuts).slot (4096 * c + row) = { s.slot (4096 * c + row) with master := some k, flip := some k } := by
  have hb : tickBound l.eff = 2 := by rw [he]; exact tickBound_row (by decide)
  have hv : s.keyVerdict (.row (winIdx c 6) row img byData) = .load k := (if_neg (domKeys_ack hon)).trans hact
  rw [landOldest_keyRow run hl (waits_keyRow he hw hc hon) (by unfold boundRow; rw [hb, he]; rfl) hb (by rw [he, hv]; rfl), he,
    slot_of_keys (landKeyRow_load (s := s.cleared) hv), winCluster_winIdx hc (by decide)]
  exact landKeyLoad_slot ..

/-- An ERASE leaves the slot with the next generation and no key. -/
theorem keyRow_erases {img : List Word} {byData : Bool} (he : l.eff = .row (winIdx c 6) row img byData) (hc : c < 16)
    (hact : s.keyAct false img true = .erase) :
    (s.landOldest cuts).slot (4096 * c + row) = { gen := ((s.slot (4096 * c + row)).gen + 1) % 256 } := by
  have hb : tickBound l.eff = 2 := by rw [he]; exact tickBound_row (by decide)
  have hv : s.keyVerdict (.row (winIdx c 6) row img byData) = .erase := (if_neg (domKeys_ack hon)).trans hact
  rw [landOldest_keyRow run hl (waits_keyRow he hw hc hon) (by unfold boundRow; rw [hb, he]; rfl) hb (by rw [he, hv]; rfl), he,
    slot_of_keys (landKeyRow_erase (s := s.cleared) hv), winCluster_winIdx hc (by decide)]
  exact landKeyErase_slot ..

theorem wrappedKey_erases {suite : Nat} (he : l.eff = .wrappedKey (winIdx c 6) row suite none) (hc : c < 16) :
    (s.landOldest cuts).slot (4096 * c + row) = { gen := ((s.slot (4096 * c + row)).gen + 1) % 256 } := by
  have hb : tickBound l.eff = 2 := by rw [he]; rfl
  have hv : s.keyVerdict (.wrappedKey (winIdx c 6) row suite none) = .erase := if_neg (domKeys_ack hon)
  rw [landOldest_keyRow run hl (waits_wrappedKey he hw hon) (by rw [he]; rfl) hb (by rw [he, hv]; rfl), he,
    slot_of_keys (landKeyRow_wrappedErase (s := s.cleared) hv), winCluster_winIdx hc (by decide)]
  exact landKeyErase_slot ..

/-- A common slot stores its key. -/
theorem ckey_lands {sel : Nat} {img : List Word} (he : l.eff = .ckey sel img) (hact : s.keyAct true img true = .load k) :
    s.landOldest cuts = s.cleared.landCommon sel (some k) := by
  have hc : s.cleared.landCkey sel img = (rOK, s.cleared.landCommon sel (some k)) := landCkey_load hon hact
  rw [landOldest_unbound run hl (waits_ckey he hw hon) (by rw [he]; rfl)]
  unfold landOne
  dsimp only
  rw [he]
  dsimp only
  rw [hc]
  rfl

end
end
end Sys2Proof.Machine
end

