-- ==== Sys2Proof/Proofs/KeySlots.lean ====
section
namespace Sys2Proof.Machine
open State

/-! ### What the staged image asks for (R212) -/

section
variable {s : State} {suite : Nat} {data : List Word} {k : KeyImg} {im : Bytes}

theorem keyPayload_cons (w : Word) (hlen : data.length = 7) : keyPayload (w :: data) = data.flatMap fun w => leBytes 8 w.toNat := by
  rw [keyPayload, List.drop_succ_cons, List.drop_zero, List.take_of_length_le (by omega)]

/-- KEY_CTRL of a plain LOAD names its suite and nothing else; that of a wrapped one WRAPPED too. -/
theorem keyCtrl_plain (hs : suite < 4) (data : List Word) : within 0x313 (Word.ofNat suite).toNat = true ∧
    keyOp (Word.ofNat suite :: data) = 0 ∧ keyWrapped (Word.ofNat suite :: data) = false ∧ keySuite (Word.ofNat suite :: data) = suite := by
  unfold keyOp keyWrapped keySuite
  rw [List.getD_cons_zero]
  interval_cases suite <;> decide

theorem keyCtrl_wrapped (hs : suite < 4) (data : List Word) : within 0x313 (Word.ofNat (suite + 16)).toNat = true ∧
    keyOp (Word.ofNat (suite + 16) :: data) = 0 ∧ keyWrapped (Word.ofNat (suite + 16) :: data) = true ∧
    keySuite (Word.ofNat (suite + 16) :: data) = suite := by
  unfold keyOp keyWrapped keySuite
  rw [List.getD_cons_zero]
  interval_cases suite <;> decide

/-- An image with OP = LOAD that carries a key loads it. -/
theorem keyAct_load {img : List Word} (hlatch : s.keys.latch = 0) (hin : within 0x313 (img.getD 0 0).toNat = true) (hop : keyOp img = 0)
    (hload : loadImage (s.commonKey 2) img = some im) (hk : imageKey (keySuite img) false im = some k) :
    s.keyAct false img true = .load k := by
  unfold keyAct keyActWith
  rw [if_neg (by rw [hin, hop]; decide), if_neg (by omega), if_neg (by simp [hlatch]), if_neg (by simp), hload]
  dsimp only
  rw [hk]

theorem keyAct_plain (hlatch : s.keys.latch = 0) (hs : suite < 4) (hlen : data.length = 7)
    (hzero : ((data.flatMap fun w : Word => leBytes 8 w.toNat).drop 48).all (· == 0) = true)
    (hk : imageKey suite false ((data.flatMap fun w : Word => leBytes 8 w.toNat).take 48) = some k) :
    s.keyAct false (Word.ofNat suite :: data) true = .load k := by
  obtain ⟨hin, hop, hwrap, hsuite⟩ := keyCtrl_plain hs data
  refine keyAct_load (im := (data.flatMap fun w : Word => leBytes 8 w.toNat).take 48) hlatch hin hop ?_ (by rw [hsuite]; exact hk)
  unfold loadImage
  dsimp only
  rw [hwrap, if_neg (by decide), keyPayload_cons _ hlen, if_pos hzero]

theorem keyAct_wrapped {kek : KeyImg} (hlatch : s.keys.latch = 0) (hs : suite < 4) (hlen : data.length = 7)
    (hkek : s.commonKey 2 = some kek) (hun : kwUnwrap kek.key (data.flatMap fun w : Word => leBytes 8 w.toNat) = some im)
    (hk : imageKey suite false im = some k) : s.keyAct false (Word.ofNat (suite + 16) :: data) true = .load k := by
  obtain ⟨hin, hop, hwrap, hsuite⟩ := keyCtrl_wrapped hs data
  refine keyAct_load hlatch hin hop ?_ (by rw [hsuite]; exact hk)
  unfold loadImage
  dsimp only
  rw [hwrap, if_pos rfl, keyPayload_cons _ hlen, hkek]
  exact hun

/-- KEY_CTRL with OP = ERASE erases, whatever else is staged. -/
theorem keyAct_erase (s : State) (data : List Word) : keyOp (0x100 :: data) = 1 ∧ s.keyAct false (0x100 :: data) true = .erase := by
  have hop : keyOp (0x100 :: data) = 1 := by
    unfold keyOp
    rw [List.getD_cons_zero]
    decide
  refine ⟨hop, ?_⟩
  unfold keyAct keyActWith
  rw [List.getD_cons_zero, if_neg (by rw [hop]; decide), if_pos hop, if_neg (by simp)]

end

/-! ### A LOAD is requested (R211, R213) -/

section
variable {s : State} {dt c row suite : Nat} {data : List Word} {via : Master}

/-- The state with ROW, KEY_CTRL and KEY_DATA written. -/
def State.loadStaged (s : State) (via : Master) (c row : Nat) (w : Word) (data : List Word) : State :=
  (s.requestAll via [] (keyHead c row w)).requestAll via [] ((keyDataFields data).map fun f => (winIdx c 6, f.1, f.2))

theorem execKeyLoad_eq (wrapped : Bool) (hs : suite < 4) : execKeyLoad dt via c row suite wrapped data s = settled (.next
    (((s.elapse dt).loadStaged via c row (Word.ofNat (suite + 16 * b2n wrapped)) data).requestLand via.transport [] (winIdx c 6) 0x10 1)) := by
  have hfields : (keyDataFields data).map (fun f => (winIdx c 6, f.1, f.2)) = (data.take 7).zipIdx.map fun e => (winIdx c 6, 3 + e.2, e.1) := by
    unfold keyDataFields
    rw [List.map_map]
    rfl
  unfold execKeyLoad
  dsimp only
  rw [requestAll_append, requestAll_append, requestAll_cons (a := (winIdx c 6, 0x10, 1)), requestAll_nil, ← hfields, Nat.mod_eq_of_lt hs]
  rfl

theorem stagedImage_of_stage {u : State} {m : SMap Word} (h : (u.window (winIdx c 6)).stage = m) :
    u.stagedImage c 6 = (stageSubs 6).map fun i => SMap.get 0 m i := by
  subst h
  exact List.append_nil _

theorem loadStaged_onward {w : Word} (hr : s.Ready) (hc : c < 16) (hrow : row < 4096) (hlen : data.length = 7)
    (hmay : isBdp via.transport = false ∨ w.bit 4 = true) : (s.loadStaged via c row w data).Onward s ∧
    ((s.loadStaged via c row w data).window (winIdx c 6)).row = row ∧ (s.loadStaged via c row w data).stagedImage c 6 = w :: data := by
  obtain ⟨hhead, hsel, hctrl⟩ := requestHead_onward (m := via) (cuts := []) (w := w) hr.1 hr.2.1 hc hrow
  unfold loadStaged
  generalize s.requestAll via [] (keyHead c row w) = u at hhead hsel hctrl ⊢
  obtain ⟨hfields, hwin⟩ := requestFields_onward (m := via) (cuts := []) (keyDataFields_sub data) (hhead.grid.dictRuns.trans hr.1)
    (hhead.grid.landing.trans hr.2.1) hc (hmay.imp_right fun h => by rw [hctrl]; exact h)
  refine ⟨hfields.trans hhead, by rw [hwin]; exact hsel, ?_⟩
  rw [stagedImage_of_stage (congrArg Window.stage hwin), keyDataFields_image hlen, hctrl]

/-- A good LOAD waits for its tick boundary. -/
theorem keyLoad_queued {w : Word} (hr : s.Ready) (hc : c < 16) (hrow : row < 4096) (hlen : data.length = 7) (hon : s.isOn domKeys = true)
    (hact : (s.keyAct false (w :: data) true).takes = true) (hmay : isBdp via.transport = false ∨ w.bit 4 = true) :
    let t := (s.loadStaged via c row w data).requestLand via.transport [] (winIdx c 6) 0x10 1
    t.keys = s.keys ∧ t.dict.landing = [⟨via.transport, .row (winIdx c 6) row (w :: data) false, s.time.ticks⟩] := by
  obtain ⟨hu, hurow, huimg⟩ := loadStaged_onward hr hc hrow hlen hmay
  generalize s.loadStaged via c row w data = u at hu hurow huimg ⊢
  have huact : (u.keyAct false (u.stagedImage c 6) true).takes = true := by
    unfold keyAct commonKey at hact ⊢
    rw [hu.keys, huimg]
    exact hact
  obtain ⟨hkeys, -, hland⟩ := requestKeyCommit_taken (via := via.transport) (cuts := []) (hu.grid.dictRuns.trans hr.1)
    (hu.grid.landing.trans hr.2.1) hc (by omega) ((hu.grid.on _).trans hon) huact
  refine ⟨hkeys.trans hu.keys, hland.trans ?_⟩
  rw [keyEffect, hurow, huimg, hu.grid.time]

theorem loadStaged_refused {w : Word} (hr : s.Ready) (hc : c < 16) (hrow : row < 4096) (hdata : data ≠ [])
    (hv : isBdp via.transport = true) (hplain : w.bit 4 = false) :
    (s.loadStaged via c row w data).Onward s ∧ Output.status rLOCAL_ONLY ∈ (s.loadStaged via c row w data).out := by
  obtain ⟨hhead, -, hctrl⟩ := requestHead_onward (m := via) (cuts := []) (w := w) hr.1 hr.2.1 hc hrow
  unfold loadStaged
  generalize s.requestAll via [] (keyHead c row w) = u at hhead hctrl ⊢
  obtain ⟨hfields, hout⟩ := requestFields_refused (m := via) (cuts := []) (keyDataFields_sub data) (hhead.grid.dictRuns.trans hr.1)
    (hhead.grid.landing.trans hr.2.1) hc hv (by rw [hctrl]; exact hplain)
  refine ⟨hfields.trans hhead, hout ?_⟩
  cases data with
  | nil => exact absurd rfl hdata
  | cons d ds => simp [keyDataFields]

/-- A plain LOAD through BDP is refused at its first word of the key. -/
theorem keyLoad_refused {w : Word} (hr : s.Ready) (hc : c < 16) (hrow : row < 4096) (hdata : data ≠ []) (hv : isBdp via.transport = true)
    (hplain : w.bit 4 = false) :
    let t := (s.loadStaged via c row w data).requestLand via.transport [] (winIdx c 6) 0x10 1
    Output.status rLOCAL_ONLY ∈ t.out ∧ t.keys = s.keys := by
  obtain ⟨hu, hout⟩ := loadStaged_refused hr hc hrow hdata hv hplain
  generalize s.loadStaged via c row w data = u at hu hout ⊢
  obtain ⟨hkeys, hmore⟩ := requestKeyCommit_keys (via := via.transport) (cuts := []) (hu.grid.dictRuns.trans hr.1)
    (hu.grid.landing.trans hr.2.1) hc
  exact ⟨hmore _ hout, hkeys.trans hu.keys⟩

theorem execKeyErase_eq : execKeyErase dt via c row s = settled (.next
    (((s.elapse dt).requestAll via [] (keyHead c row 0x100)).requestLand via.transport [] (winIdx c 6) 0x10 1)) := by
  unfold execKeyErase keyHead
  dsimp only
  simp only [requestAll_cons, requestAll_nil]

/-- An ERASE waits for its tick boundary. -/
theorem keyErase_queued (hr : s.Ready) (hc : c < 16) (hrow : row < 4096) (hon : s.isOn domKeys = true) :
    let t := (s.requestAll via [] (keyHead c row 0x100)).requestLand via.transport [] (winIdx c 6) 0x10 1
    t.keys = s.keys ∧ Output.status rOK ∈ t.out ∧
      ∃ img, t.dict.landing = [⟨via.transport, .row (winIdx c 6) row img false, s.time.ticks⟩] ∧ keyOp img = 1 := by
  obtain ⟨hu, hurow, hctrl⟩ := requestHead_onward (m := via) (cuts := []) (w := 0x100) hr.1 hr.2.1 hc hrow
  generalize s.requestAll via [] (keyHead c row 0x100) = u at hu hurow hctrl ⊢
  obtain ⟨rest, himg⟩ : ∃ rest, u.stagedImage c 6 = 0x100 :: rest := ⟨_, congrArg (· :: _) hctrl⟩
  obtain ⟨hop, hact⟩ := keyAct_erase u rest
  obtain ⟨hkeys, hok, hland⟩ := requestKeyCommit_taken (via := via.transport) (cuts := []) (hu.grid.dictRuns.trans hr.1)
    (hu.grid.landing.trans hr.2.1) hc (by omega) ((hu.grid.on _).trans hon) (by rw [himg, hact]; rfl)
  refine ⟨hkeys.trans hu.keys, hok, 0x100 :: rest, hland.trans ?_, hop⟩
  rw [keyEffect, hurow, himg, hu.grid.time]

end
end Sys2Proof.Machine
end

