-- ==== Sys2Proof/Proofs/KeyStore.lean ====
section
namespace Sys2Proof.Machine
open State

/-! ### The flip of a slot's banks (R214, R224) -/

section
variable {s : State} {c r : Nat}

theorem flipBank_flips {k : KeyImg} (hr : r < 4096) (hflip : (s.slot (4096 * c + r)).flip = some k) (hbusy : s.bankBusy c r = false)
    (hon : s.isOn (domCipher c) = true) (hclk : s.clocked = true) (hmasks : s.masks.erased = false) :
    (s.flipBank (4096 * c + r)).slot (4096 * c + r) =
      { s.slot (4096 * c + r) with cur := some k, prev := (s.slot (4096 * c + r)).cur, flip := none,
                                   gen := ((s.slot (4096 * c + r)).gen + 1) % 256 } := by
  have hdiv : (4096 * c + r) / 4096 = c := by omega
  have hmod : (4096 * c + r) % 4096 = r := by omega
  unfold flipBank
  dsimp only
  rw [hflip, hdiv, hmod]
  dsimp only
  rw [if_neg (by simp [hbusy, hon, hclk, hmasks])]
  exact slot_setSlot ..

/-- While a frame uses the bank, or the masks are erased, nothing moves. -/
theorem flipBank_waits {i : Nat} (h : s.bankBusy (i / 4096) (i % 4096) = true ∨ s.masks.erased = true) : s.flipBank i = s := by
  unfold flipBank
  dsimp only
  split
  · rfl
  · exact if_pos (by rcases h with h | h <;> simp [h])

/-! ### A common slot (R219) -/

theorem tickBound_ckey (sel : Nat) (img : List Word) : 0 < tickBound (.ckey sel img) := Nat.zero_lt_two

theorem acceptCkey_load {k : KeyImg} {via : Transport} (hl : s.dict.landing = [])
    (hact : s.keyAct true ((List.range 8).map fun i => SMap.get 0 s.keys.stage (0x11 + i)) true = .load k) :
    s.acceptCkey via = (rOK, s.enqueue via (.ckey (s.regN 0x0600 0x10) ((List.range 8).map fun i => SMap.get 0 s.keys.stage (0x11 + i)))) := by
  have hset : s.rowsSettled = true := by simp [rowsSettled, hl]
  have hsel : s.acceptedVal 0x0600 0x10 = s.reg 0x0600 0x10 := by simp [acceptedVal, hl, landedVal]
  unfold acceptCkey
  dsimp only
  rw [hset, hact, hsel]
  rfl

theorem write_ckeyCommit {k : KeyImg} {via : Transport} (hl : s.dict.landing = [])
    (hact : s.keyAct true ((List.range 8).map fun i => SMap.get 0 s.keys.stage (0x11 + i)) true = .load k) :
    s.write via 0x0600 0x19 1 =
      (rOK, s.enqueue via (.ckey (s.regN 0x0600 0x10) ((List.range 8).map fun i => SMap.get 0 s.keys.stage (0x11 + i)))) := by
  have hobj : objInfo 0x0600 0x19 = some (woObj 0x19 "CKEY_COMMIT" .strobe) := rfl
  have hix : classify 0x0600 = some .keys := rfl
  have hacc : s.acceptObj via .keys (woObj 0x19 "CKEY_COMMIT" .strobe) 0x0600 1 none = s.acceptCkey via := by
    have hcond : ¬(!s.objCond s.acceptedVal false .keys 0x0600 0x19 1) = true := by simp [objCond]
    unfold acceptObj
    exact (if_neg (by decide)).trans ((if_neg (by simp [woObj])).trans ((if_neg (by simp [woObj])).trans ((if_neg (by decide)).trans
      ((if_neg (by simp [woObj])).trans ((if_neg hcond).trans ((if_neg (by simp [woObj, ckeyLocal])).trans
      ((if_neg (by simp [woObj])).trans ((if_pos (by simp [woObj])).trans (if_pos rfl)))))))))
  unfold write
  rw [hix, hobj]
  dsimp only
  rw [hacc, acceptCkey_load hl hact]
  rfl

end

/-- Settles O33: the requests stage the image and queue it, the landings write the one slot they name. -/
theorem keySlots : Obligations.KeySlots := by
  refine ⟨?plain, ?wrapped, ?localOnly, ?loadLands, ?flips, ?flipWaits, ?erase, ?eraseLands, ?ckey, ?ckeyLands, ?eraseAll⟩
  case plain =>
    intro dt c row suite data k s hr hc hrow hs hlen hon hlatch hzero hk
    change AnswersSettled (execKeyLoad dt .window c row suite false data s) _
    rw [execKeyLoad_eq false hs]
    obtain ⟨hkeys, hland⟩ := keyLoad_queued (s := s.elapse dt) (via := .window) (w := Word.ofNat suite) (elapse_ready _ _ hr) hc hrow hlen
      (by simpa using hon) (by rw [keyAct_plain (s := s.elapse dt) hlatch hs hlen hzero hk]; rfl) (.inl rfl)
    rw [elapse_ticks] at hland
    exact answersSettled ⟨congrArg KeyUnit.slots hkeys, hland⟩
  case wrapped =>
    intro dt via c row suite data kek im k s hr hc hrow hs hlen hon hlatch hkek hun hk
    change AnswersSettled (execKeyLoad dt via c row suite true data s) _
    have hbit : (Word.ofNat (suite + 16)).bit 4 = true := (keyCtrl_wrapped hs data).2.2.1
    rw [execKeyLoad_eq true hs]
    obtain ⟨hkeys, hland⟩ := keyLoad_queued (s := s.elapse dt) (via := via) (w := Word.ofNat (suite + 16)) (elapse_ready _ _ hr) hc hrow hlen
      (by simpa using hon) (by rw [keyAct_wrapped (s := s.elapse dt) hlatch hs hlen hkek hun hk]; rfl) (.inr hbit)
    rw [elapse_ticks] at hland
    exact answersSettled ⟨congrArg KeyUnit.slots hkeys, hland⟩
  case localOnly =>
    intro dt via c row suite data s hr hvia hc hrow hs hdata
    change AnswersSettled (execKeyLoad dt via c row suite false data s) _
    have hbdp : isBdp via.transport = true := by
      cases via with
      | window => exact absurd rfl hvia
      | can => rfl
      | inband => rfl
    have hbit : (Word.ofNat suite).bit 4 = false := (keyCtrl_plain hs data).2.2.1
    rw [execKeyLoad_eq false hs]
    obtain ⟨hout, hkeys⟩ := keyLoad_refused (s := s.elapse dt) (w := Word.ofNat suite) (elapse_ready _ _ hr) hc hrow hdata hbdp hbit
    exact answersSettled ⟨hout, congrArg KeyUnit.slots hkeys⟩
  case loadLands =>
    intro dt l c row img byData k s run hl he hw hc hrow hon hact
    refine answersSettled ?_
    rw [keyRow_loads (s := s.elapse dt) (by simpa using run) hl (by rwa [elapse_ticksWaited]) (by simpa using hon) he hc hact]
    exact ⟨rfl, rfl, rfl, rfl⟩
  case flips =>
    intro dt c r k s hc hr hflip hbusy hon hclk hmasks
    change Answers (execKeyBankFlip dt c r s) _
    unfold execKeyBankFlip
    rw [Nat.mod_eq_of_lt hc, Nat.mod_eq_of_lt hr]
    refine answers_next ?_
    rw [flipBank_flips (s := s.elapse dt) hr hflip hbusy (by simpa using hon) (by simpa using hclk) hmasks]
    exact ⟨rfl, rfl, rfl, rfl⟩
  case flipWaits =>
    intro dt c r s h
    refine answers_next (flipBank_waits ?_)
    rw [show (4096 * (c % 16) + r % 4096) / 4096 = c % 16 by omega, show (4096 * (c % 16) + r % 4096) % 4096 = r % 4096 by omega]
    exact h
  case erase =>
    intro dt via c row s hr hc hrow hon
    obtain ⟨hkeys, hok, img, hland, hop⟩ := keyErase_queued (s := s.elapse dt) (via := via) (elapse_ready _ _ hr) hc hrow (by simpa using hon)
    rw [elapse_ticks] at hland
    change AnswersSettled (execKeyErase dt via c row s) _
    rw [execKeyErase_eq]
    exact answersSettled ⟨congrArg KeyUnit.slots hkeys, hok, _, img, hland, rfl, rfl, hop⟩
  case eraseLands =>
    intro dt l c row s run hl he hw hc hrow hon
    have hrun : (s.elapse dt).dictRuns = true := by simpa using run
    have hwait : 2 ≤ (s.elapse dt).ticksWaited l := by rwa [elapse_ticksWaited]
    have hkeys : (s.elapse dt).isOn domKeys = true := by simpa using hon
    have hslot : ((s.elapse dt).landOldest []).slot (4096 * c + row) = { gen := ((s.slot (4096 * c + row)).gen + 1) % 256 } := by
      rcases he with ⟨img, byData, he, hact⟩ | ⟨suite, he⟩
      · exact keyRow_erases hrun hl hwait hkeys he hc hact
      · exact wrappedKey_erases hrun hl hwait hkeys he hc
    refine answersSettled ?_
    rw [hslot]
    exact ⟨rfl, rfl, rfl, rfl, rfl⟩
  case ckey =>
    intro dt via img k s hr himg hact
    subst himg
    have hl : (s.elapse dt).dict.landing = [] := hr.2.1
    refine masterWrite_answers hr.1 (write_ckeyCommit hl hact) (elapse_ready s dt hr).1 ?_
    rw [landWrites_waits _ (landing_enqueue _ _ _ hl) (waits_fresh rfl (tickBound_ckey _ _))]
    refine ⟨rfl, List.mem_append_right _ (List.mem_singleton_self _), (landing_enqueue _ _ _ hl).trans ?_⟩
    rw [elapse_ticks]
    rfl
  case ckeyLands =>
    intro dt l sel img k s run hl he hw hon hact
    refine answersSettled ?_
    rw [ckey_lands (s := s.elapse dt) (by simpa using run) hl (by rwa [elapse_ticksWaited]) (by simpa using hon) he hact]
    exact landCommon_key ..
  case eraseAll =>
    intro dt via s hr
    exact answers_keysWo (name := "ERASE_ALL") (ty := .strobe) (ok := fun _ => true) dt via hr rfl (by decide) (by decide) (by decide)
      rfl (by simp) (.inl (by decide)) fun x _ => landEraseAll_spec _

end Sys2Proof.Machine
end

