-- ==== Sys2Proof/Proofs/DoorRows.lean ====
section
namespace Sys2Proof.Machine
open State

/-! ### A field of a word that holds an operation (R243, R244) -/

theorem testBit_bits (w : Word) (lo n i : Nat) : (w.bits lo n).testBit i = (decide (i < n) && w.getLsbD (lo + i)) := by
  rw [Word.bits, Nat.testBit_mod_two_pow, Nat.testBit_shiftRight, BitVec.testBit_toNat]

theorem getLsbD_ofNat_shiftLeft_low {m p i : Nat} (h : i < p) : (BitVec.ofNat 64 (m <<< p)).getLsbD i = false := by
  rw [BitVec.getLsbD_ofNat, Nat.testBit_shiftLeft, decide_eq_false (Nat.not_le.mpr h), Bool.false_and, Bool.and_false]

theorem getLsbD_ofNat_shiftLeft {m p i : Nat} (h : p + i < 64) : (BitVec.ofNat 64 (m <<< p)).getLsbD (p + i) = m.testBit i := by
  rw [BitVec.getLsbD_ofNat, Nat.testBit_shiftLeft, decide_eq_true h, decide_eq_true (Nat.le_add_right p i), Nat.add_sub_cancel_left,
    Bool.true_and, Bool.true_and]

theorem getLsbD_setBits_low {w : Word} {p n v i : Nat} (h : i < p) : (w.setBits p n v).getLsbD i = w.getLsbD i := by
  have hmask : (BitVec.ofNat 64 ((2 ^ n - 1) <<< p)).getLsbD i = false := getLsbD_ofNat_shiftLeft_low h
  have hval : (BitVec.ofNat 64 ((v % 2 ^ n) <<< p)).getLsbD i = false := getLsbD_ofNat_shiftLeft_low h
  unfold Word.setBits
  rw [BitVec.getLsbD_or, BitVec.getLsbD_and, BitVec.getLsbD_not, hmask, hval]
  by_cases hi : i < 64
  · simp [hi]
  · simp [BitVec.getLsbD_of_ge w i (Nat.not_lt.mp hi), hi]

theorem getLsbD_setBits_field {w : Word} {p n v i : Nat} (hi : i < n) (hn : p + n ≤ 64) :
    (w.setBits p n v).getLsbD (p + i) = v.testBit i := by
  have h64 : p + i < 64 := by omega
  have hmask : (BitVec.ofNat 64 ((2 ^ n - 1) <<< p)).getLsbD (p + i) = true := by
    rw [getLsbD_ofNat_shiftLeft h64, Nat.testBit_two_pow_sub_one, decide_eq_true hi]
  have hval : (BitVec.ofNat 64 ((v % 2 ^ n) <<< p)).getLsbD (p + i) = v.testBit i := by
    rw [getLsbD_ofNat_shiftLeft h64, Nat.testBit_mod_two_pow, decide_eq_true hi, Bool.true_and]
  unfold Word.setBits
  rw [BitVec.getLsbD_or, BitVec.getLsbD_and, BitVec.getLsbD_not, hmask, hval]
  simp

theorem bit_setBits_low {w : Word} {p n v i : Nat} (h : i < p) : (w.setBits p n v).bit i = w.bit i := getLsbD_setBits_low h

theorem bits_setBits_low {w : Word} {p n v lo k : Nat} (h : lo + k ≤ p) : (w.setBits p n v).bits lo k = w.bits lo k := by
  refine Nat.eq_of_testBit_eq fun i => ?_
  rw [testBit_bits, testBit_bits]
  by_cases hi : i < k
  · rw [getLsbD_setBits_low (by omega)]
  · simp [hi]

theorem bits_setBits_field {w : Word} {p n v : Nat} (hv : v < 2 ^ n) (hn : p + n ≤ 64) : (w.setBits p n v).bits p n = v := by
  refine Nat.eq_of_testBit_eq fun i => ?_
  rw [testBit_bits]
  by_cases hi : i < n
  · rw [getLsbD_setBits_field hi hn, decide_eq_true hi, Bool.true_and]
  · rw [decide_eq_false hi, Bool.false_and, Nat.testBit_lt_two_pow (hv.trans_le (Nat.pow_le_pow_right (by decide) (by omega)))]

/-! ### What the Doorlist reads of the state -/

/-- The rows of every Doorlist and the objects are as before. -/
structure State.DoorAs (u s : State) : Prop where
  rx : u.clusterRx = s.clusterRx
  regs : u.regs = s.regs

section
variable {s u : State} {c r : Nat}

theorem State.DoorAs.doorEntry (h : u.DoorAs s) (c r : Nat) : u.doorEntry c r = s.doorEntry c r := by
  unfold State.doorEntry doorRow clRx
  rw [h.rx]

theorem State.DoorAs.doorWays (h : u.DoorAs s) (c mac vid : Nat) : u.doorWays c mac vid = s.doorWays c mac vid := by
  unfold State.doorWays regN reg
  rw [h.regs]

theorem State.DoorAs.doorFind (h : u.DoorAs s) (c mac vid : Nat) (kinds : List Nat) :
    u.doorFind c mac vid kinds = s.doorFind c mac vid kinds := by
  unfold State.doorFind
  simp only [h.doorWays, h.doorEntry]

theorem State.DoorAs.freeOf (h : u.DoorAs s) (c mac vid : Nat) :
    (u.doorWays c mac vid).find? (fun w => (u.doorEntry c w).isNone) = (s.doorWays c mac vid).find? (fun w => (s.doorEntry c w).isNone) := by
  simp only [h.doorWays, h.doorEntry]

/-! ### A way is written or emptied -/

theorem doorEntry_doorWrite (s : State) (c r : Nat) (e : DoorEntry) : (s.doorWrite c r e).doorEntry c r = some e := by
  unfold doorEntry
  rw [doorRow_doorWrite]
  rfl

theorem doorEntry_doorClear (s : State) (c r : Nat) : (s.doorClear c r).doorEntry c r = none := by
  unfold doorEntry
  rw [doorRow_doorClear]
  rfl

theorem doorEntry_doorClear_ne (s : State) (c : Nat) {r w : Nat} (h : w ≠ r) : (s.doorClear c r).doorEntry c w = s.doorEntry c w := by
  unfold doorEntry
  rw [doorRow_doorClear_ne s c h]

/-- An entry that is shown stands in its way. -/
theorem entry_of_doorEntry {e : DoorEntry} (h : s.doorEntry c r = some e) : (s.doorRow c r).synd = 0 ∧ (s.doorRow c r).entry = some e := by
  unfold doorEntry at h
  dsimp only at h
  split at h
  · next hs => exact ⟨hs, h⟩
  · exact absurd h (by simp)

/-! ### A COMMIT to the Doorlist lands (R244, R245) -/

theorem landDoor_delete {mac : Word} {ctrl : Word} {e : DoorEntry} (hop : ctrl.bits 62 2 = 1)
    (hfind : s.doorFind c (beNat (leBytes 6 mac.toNat)) (ctrl.bits 40 12) [0, 1, 2] = some (r, e)) :
    s.landDoor c [mac, ctrl] = (rOK, s.doorClear c r) := by
  unfold landDoor
  simp only [List.getD_cons_zero, List.getD_cons_succ, if_pos hop, hfind]

/-- The STATIC entry that an image names. -/
def staticEntry (mac ctrl : Word) : DoorEntry :=
  { mac := beNat (leBytes 6 mac.toNat), vid := ctrl.bits 40 12, kind := 1, port := ctrl.bits 0 6, ring := 0, mode := 0, hit := false,
    stale := false }

theorem doorInsert_free {e : DoorEntry} (hfind : s.doorFind c e.mac e.vid [0, 1, 2] = none)
    (hfree : (s.doorWays c e.mac e.vid).find? (fun w => (s.doorEntry c w).isNone) = some r) :
    s.doorInsert c e = (true, s.doorWrite c r e) := by
  unfold doorInsert
  dsimp only
  rw [hfind]
  dsimp only
  rw [hfree]

theorem landDoor_insert_static {mac ctrl : Word} (hop : ctrl.bits 62 2 = 0) (hv : ctrl.bit 61 = true) (hk : ctrl.bits 8 2 = 1)
    (hfind : s.doorFind c (beNat (leBytes 6 mac.toNat)) (ctrl.bits 40 12) [0, 1, 2] = none)
    (hfree : (s.doorWays c (beNat (leBytes 6 mac.toNat)) (ctrl.bits 40 12)).find? (fun w => (s.doorEntry c w).isNone) = some r) :
    s.landDoor c [mac, ctrl] = (rOK, s.doorWrite c r (staticEntry mac ctrl)) := by
  have hins : s.doorInsert c (staticEntry mac ctrl) = (true, s.doorWrite c r (staticEntry mac ctrl)) := doorInsert_free hfind hfree
  have hop1 : ¬ ctrl.bits 62 2 = 1 := by omega
  unfold landDoor
  simp only [List.getD_cons_zero, List.getD_cons_succ, if_neg hop1, hv, hk]
  simp only [staticEntry] at hins ⊢
  simp [hins]

/-! ### A FLUSH lands (R260) -/

/-- A removal touches the rows of the clusters only. -/
theorem doorClears_eq (s : State) (c : Nat) (l : List Nat) : ∃ m, l.foldl (fun s r => s.doorClear c r) s = { s with clusterRx := m } := by
  induction l generalizing s with
  | nil => exact ⟨s.clusterRx, rfl⟩
  | cons r l ih => exact ih (s.doorClear c r)

theorem doorRemove_eq (s : State) (c : Nat) (hit : DoorEntry → Bool) : ∃ m, s.doorRemove c hit = { s with clusterRx := m } :=
  doorClears_eq s c _

theorem landFlush_eq (s : State) (c : Nat) : ∃ m, s.landFlush c = { s with clusterRx := m } := by
  obtain ⟨m, hm⟩ := doorRemove_eq s c (flushHits (s.regN (clIdx c 3) 0xD))
  unfold landFlush
  dsimp only
  rw [hm]
  exact ⟨_, rfl⟩

theorem landFlush_busy (s : State) (c : Nat) : (s.landFlush c).flushBusy c = true := by
  unfold landFlush flushBusy
  dsimp only
  rw [updDoor_eq]
  rfl

/-- A way that holds an entry after a removal is as it was. -/
theorem doorRow_doorRemove {hit : DoorEntry → Bool} {e : DoorEntry} (h : ((s.doorRemove c hit).doorRow c r).entry = some e) :
    (s.doorRemove c hit).doorRow c r = s.doorRow c r := by
  unfold doorRemove at h ⊢
  exact (doorRow_clears c _ s r).2 (clears_entry h).1

/-- What stands after a FLUSH stood before, and FLUSH_SEL does not match it. -/
theorem landFlush_entry {e : DoorEntry} (h : (s.landFlush c).doorEntry c r = some e) :
    s.doorEntry c r = some e ∧ flushHits (s.regN (clIdx c 3) 0xD) e = false := by
  have hrow : (s.landFlush c).doorRow c r = (s.doorRemove c (flushHits (s.regN (clIdx c 3) 0xD))).doorRow c r :=
    doorRow_updDoor _ c r _ fun _ => rfl
  obtain ⟨-, hent⟩ := entry_of_doorEntry h
  rw [hrow] at hent
  have hsame := doorRow_doorRemove hent
  refine ⟨?_, (doorRemove_entry s c _ r e hent).2⟩
  rw [← h]
  unfold doorEntry
  rw [hrow, hsame]

end
end Sys2Proof.Machine
end

