-- ==== Sys2Proof/Proofs/DoorlistCommits.lean ====
section
namespace Sys2Proof.Machine
open State

section
variable {s u : State} {via : Transport} {cuts : List (Nat × CutFrame)} {c i : Nat} {mac ctrl v : Word}

/-! ### An image of the Doorlist is staged (R69, R243) -/

/-- The state with a word written to a staging slot of a window. -/
def State.stageWord (s : State) (w i : Nat) (v : Word) : State :=
  s.setWindow w { s.window w with stage := SMap.set 0 (s.window w).stage i v }

theorem windowObjs_door (h2 : 2 ≤ i) (h3 : i ≤ 3) : ∃ name, (windowObjs 5).find? (fun o => o.sub == i) =
    some (fieldObj i name (if i = 2 then .octets 6 else .u64)) := by
  interval_cases i <;> exact ⟨_, rfl⟩

theorem write_doorField (hc : c < 16) (h2 : 2 ≤ i) (h3 : i ≤ 3) (hv : i = 2 → v.toNat < 2 ^ 48) :
    s.write via (winIdx c 5) i v = (rOK, s.stageWord (winIdx c 5) i v) := by
  obtain ⟨name, ho⟩ := windowObjs_door h2 h3
  have hfit : ((if i = 2 then ObjType.octets 6 else .u64).fits v.toNat && true) = true := by
    by_cases h : i = 2
    · simpa [h, ObjType.fits] using hv h
    · simp [h, ObjType.fits]
  have hty : (if i = 2 then ObjType.octets 6 else .u64) ≠ .strobe ∧ (if i = 2 then ObjType.octets 6 else .u64) ≠ .domain := by
    split <;> simp
  have ha : s.acceptWin via c 5 (fieldObj i name (if i = 2 then .octets 6 else .u64)) v = (rOK, s.stageWord (winIdx c 5) i v) := by
    unfold acceptWin
    exact (if_neg (by simp [fieldObj])).trans ((if_neg (by simpa [fieldObj] using hfit)).trans ((if_neg (by dsimp only [fieldObj]; omega)).trans
      ((if_neg (by dsimp only [fieldObj]; omega)).trans ((if_neg fun h => hty.1 h.1).trans ((if_neg (by dsimp only [fieldObj]; omega)).trans
      ((if_neg hty.1).trans (if_neg hty.2)))))))
  rw [write_window hc (by decide) (by omega) ho, ha]
  rfl

theorem requestLand_doorField (hr : s.Ready) (hc : c < 16) (h2 : 2 ≤ i) (h3 : i ≤ 3) (hv : i = 2 → v.toNat < 2 ^ 48) :
    s.requestLand via cuts (winIdx c 5) i v = (s.stageWord (winIdx c 5) i v).emit (.status rOK) := by
  rw [requestLand_eq hr.1 (write_doorField hc h2 h3 hv) hr.1]
  exact landWrites_nil cuts hr.2.1

/-- The state with DOOR_MAC and DOOR_CTRL staged and both writes answered. -/
def State.doorStaged (s : State) (c : Nat) (mac ctrl : Word) : State :=
  (((s.stageWord (winIdx c 5) 2 mac).emit (.status rOK)).stageWord (winIdx c 5) 3 ctrl).emit (.status rOK)

theorem doorStaged_window (s : State) (c : Nat) (mac ctrl : Word) : (s.doorStaged c mac ctrl).window (winIdx c 5) =
    { s.window (winIdx c 5) with stage := SMap.set 0 (SMap.set 0 (s.window (winIdx c 5)).stage 2 mac) 3 ctrl } := by
  simp [doorStaged, stageWord]

theorem doorStaged_image (s : State) (c : Nat) (mac ctrl : Word) : (s.doorStaged c mac ctrl).stagedImage c 5 = [mac, ctrl] := by
  have hsubs : stageSubs 5 = [2, 3] := rfl
  simp [stagedImage, doorStaged_window, hsubs, SMap.get_set_self, SMap.get_set_ne]

theorem doorStaged_ready (hr : s.Ready) : (s.doorStaged c mac ctrl).Ready := ⟨hr.1, hr.2.1, hr.2.2⟩

theorem requestLand_doorStaged (hr : s.Ready) (hc : c < 16) (hmac : mac.toNat < 2 ^ 48) :
    (s.requestLand via cuts (winIdx c 5) 2 mac).requestLand via cuts (winIdx c 5) 3 ctrl = s.doorStaged c mac ctrl := by
  have hr' : ((s.stageWord (winIdx c 5) 2 mac).emit (.status rOK)).Ready := ⟨hr.1, hr.2.1, hr.2.2⟩
  rw [requestLand_doorField hr hc (by decide) (by decide) fun _ => hmac,
    requestLand_doorField hr' hc (by decide) (by decide) fun h => absurd h (by decide)]
  rfl

/-! ### COMMIT of the staged image (R70, R244) -/

theorem boundRow_unbound {e : Effect} (h : tickBound e = 0) : boundRow e = none := if_pos h

theorem rowCheck_door {row : Nat} (hc : c < 16) (live : Bool) (hon : s.isOn (domLane c) = true) (hrow : row < 65536)
    (hmac : mac.toNat < 2 ^ 48) (hok : doorOk [mac, ctrl] = true) : s.rowCheck c 5 row [mac, ctrl] live = (rOK, s) := by
  have hr : ¬ tableRows 5 ≤ row := Nat.not_le.mpr hrow
  have hack : (s.dom (domLane c)).ack ≠ .off := ack_of_isOn (by unfold domLane; omega) hon
  have hfields : fieldsOk 5 [mac, ctrl] = true := by
    have hlist : (tableFields 5).filter (fun o => o.home == .field && o.ty != .domain) =
        [fieldObj 2 "DOOR_MAC" (.octets 6), fieldObj 3 "DOOR_CTRL" .u64] := rfl
    simpa [fieldsOk, hlist, fieldObj, ObjType.fits] using hmac
  unfold rowCheck
  dsimp only
  rw [if_neg hr, if_neg (by simpa [tableDomain, hfields] using hack), if_neg (by decide), hok]
  rfl

theorem landRow_door {row : Nat} (hc : c < 16) (hon : s.isOn (domLane c) = true) (hrow : row < 65536) (hmac : mac.toNat < 2 ^ 48)
    (hok : doorOk [mac, ctrl] = true) : s.landRow c 5 row [mac, ctrl] = s.landDoor c [mac, ctrl] := by
  unfold landRow
  rw [rowCheck_door hc true hon hrow hmac hok]
  rfl

/-- A COMMIT to the Doorlist with LANE ON lands in the step that accepts it. -/
theorem requestLand_doorCommit (hr : s.Ready) (hc : c < 16) (hon : s.isOn (domLane c) = true)
    (hrow : (s.window (winIdx c 5)).row < 65536) (himg : s.stagedImage c 5 = [mac, ctrl]) (hmac : mac.toNat < 2 ^ 48)
    (hok : doorOk [mac, ctrl] = true) :
    ∃ u : State, u.DoorAs s ∧
      s.requestLand via cuts (winIdx c 5) 0x10 1 = rowLanded (u.landDoor c [mac, ctrl]) via (winIdx c 5) false := by
  obtain ⟨x, hw⟩ := commit_accepted (via := via) hr hc (by decide : 5 ≤ 0xC) (by decide)
    (by rw [himg, rowCheck_door hc true hon hrow hmac hok])
  rw [himg] at hw
  let l : Landing := ⟨via, .row (winIdx c 5) (s.window (winIdx c 5)).row [mac, ctrl] false, s.time.ticks⟩
  let q := (((s.noPart (winIdx c 5)).said x).enqueue via l.eff).emit (.status rOK)
  have hl : q.dict.landing = [l] := (congrArg (· ++ [l]) hr.2.1 : s.dict.landing ++ [l] = [] ++ [l])
  have hwait : q.waits l = false :=
    waits_row hc (by decide) rfl hon (by rw [tickBound_row (by decide)]; exact Nat.zero_le _)
  have hbound : boundRow l.eff = none := boundRow_unbound (tickBound_row (by decide))
  refine ⟨q.cleared, ⟨rfl, rfl⟩, ?_⟩
  rw [requestLand_eq hr.1 hw hr.1]
  exact (landWrites_unbound cuts hl hwait hbound).trans ((landOne_row cuts _ false hc (by decide) (by decide)).trans
    (congrArg (fun y => rowLanded y via (winIdx c 5) false) (landRow_door hc hon hrow hmac hok)))

/-- What an operation on the Doorlist that is accepted and lands OK leaves. -/
theorem doorOp_answers {dt : Nat} {m : Master} {p : State → Prop} (hr : s.Ready) (hc : c < 16) (hmac : mac.toNat < 2 ^ 48)
    (hon : s.isOn (domLane c) = true) (hrow : (s.window (winIdx c 5)).row < 65536) (hok : doorOk [mac, ctrl] = true)
    (hland : ∀ u : State, u.DoorAs s → ∃ t : State, u.landDoor c [mac, ctrl] = (rOK, t) ∧ p (t.setStatus (winIdx c 5) rOK)) :
    AnswersSettled (settled (.next ((s.elapse dt).requestAll m [] [(winIdx c 5, 2, mac), (winIdx c 5, 3, ctrl), (winIdx c 5, 0x10, 1)]))) p := by
  have hr' : (s.elapse dt).Ready := elapse_ready s dt hr
  have hrow' : (((s.elapse dt).doorStaged c mac ctrl).window (winIdx c 5)).row < 65536 := by
    rw [doorStaged_window]
    exact hrow
  obtain ⟨u, hu, hcommit⟩ := requestLand_doorCommit (via := m.transport) (cuts := []) (doorStaged_ready (mac := mac) (ctrl := ctrl) hr') hc
    hon hrow' (doorStaged_image ..) hmac hok
  obtain ⟨t, ht, hp⟩ := hland u ⟨hu.rx, hu.regs⟩
  refine answersSettled ?_
  rw [requestAll_cons, requestAll_cons, requestAll_cons, requestAll_nil]
  dsimp only
  rw [requestLand_doorStaged hr' hc hmac, hcommit, ht, rowLanded_ok, if_neg (transport_ne_hinge m)]
  exact hp

/-! ### FLUSH (R260) -/

/-- A write that lands where it is accepted is forwarded there, while the store has room. -/
theorem forwardLanded_said (s b : State) (via : Transport) (idx sub : Nat) (v : Word)
    (room : s.streamRuns = true → s.storedWrites < 65536) : ∃ x, s.forwardLanded b via idx sub v = s.said x := by
  unfold forwardLanded
  dsimp only
  split
  · exact ⟨_, said_self s⟩
  · exact streamSend_said s _ room

theorem landsAtOnce_flush (hc : c < 16) : landsAtOnce (clIdx c 3) 0x0E = true := by
  have h : 0x2000 ≤ clIdx c 3 ∧ clIdx c 3 < 0x2100 ∧ clIdx c 3 % 16 = 3 := by unfold clIdx; omega
  simp [landsAtOnce, h]

theorem objInfo_flush (hc : c < 16) : objInfo (clIdx c 3) 0x0E = some (woObj 0x0E "FLUSH" .strobe) :=
  objInfo_of (classify_cluster hc (by decide))

theorem landObj_flush (hc : c < 16) (hf : s.flushBusy c = false) :
    s.landObj via cuts (clIdx c 3) 0x0E 1 none = (rOK, (s.landFlush c).forwardLanded s via (clIdx c 3) 0x0E 1) := by
  unfold landObj
  simp only [classify_cluster hc (by decide : 3 ≤ 9), objInfo_flush hc]
  rw [if_neg (by simp [woObj]), if_neg (by simp [objCond, hf]), if_neg (by simp)]
  rfl

/-- A FLUSH on its way lands alone, and its message to the twin with it. -/
theorem landWrites_flush (hr : s.Ready) (hc : c < 16) (hf : s.flushBusy c = false) :
    ∃ x, (s.enqueue via (.obj (clIdx c 3) 0x0E 1)).landWrites [] = (s.landFlush c).said x := by
  obtain ⟨m, hm⟩ := landFlush_eq s c
  obtain ⟨x, hx⟩ := forwardLanded_said (s.landFlush c) s via (clIdx c 3) 0x0E 1 (by rw [hm]; exact hr.2.2)
  let l : Landing := ⟨via, .obj (clIdx c 3) 0x0E 1, s.time.ticks⟩
  have hl : (s.enqueue via l.eff).dict.landing = [l] := (congrArg (· ++ [l]) hr.2.1 : s.dict.landing ++ [l] = [] ++ [l])
  have hcleared : (s.enqueue via l.eff).cleared = s := by
    unfold cleared
    rw [← hr.2.1]
    rfl
  have hfree : ¬(clIdx c 3 = 0x0300 ∧ 0x40 ≤ 0x0E) := fun h => absurd h.2 (by decide)
  refine ⟨x, ?_⟩
  rw [landWrites_one hl hfree, ← cleared, hcleared]
  unfold landOne
  simp only [landObj_flush hc hf]
  exact hx

theorem acceptObj_flush (hc : c < 16) : s.acceptObj via (.cluster c 3) (woObj 0x0E "FLUSH" .strobe) (clIdx c 3) 1 none =
    (rOK, (s.enqueue via (.obj (clIdx c 3) 0x0E 1)).landWrites []) := by
  have hidx : clIdx c 3 ≠ 0x0600 := by unfold clIdx; omega
  have hfwd (y : State) : y.forwardObj via (clIdx c 3) 0x0E 1 = y := if_pos (.inr (.inr (landsAtOnce_flush hc)))
  refine Eq.trans ?_ (congrArg (rOK, ·) (hfwd _))
  unfold acceptObj
  simp [woObj, ObjType.fits, objCond, storedAs, hidx, landsAtOnce_flush hc]

/-- FLUSH lands in the step that accepts it. -/
theorem write_flush (hr : s.Ready) (hc : c < 16) (hf : s.flushBusy c = false) :
    ∃ x, s.write via (clIdx c 3) 0x0E 1 = (rOK, (s.landFlush c).said x) := by
  obtain ⟨x, hland⟩ := landWrites_flush (via := via) hr hc hf
  refine ⟨x, ?_⟩
  unfold write
  simp only [classify_cluster hc (by decide : 3 ≤ 9), objInfo_flush hc, acceptObj_flush hc, hland]
  rfl

end

/-- Settles O32: an INSERT or DELETE is staged and lands in the step of its COMMIT as `landDoor` does it; a FLUSH removes every match at
its landing, with FLUSH_BUSY left at 1 (log 36). -/
theorem doorlistCommits : Obligations.DoorlistCommits := by
  refine ⟨?insert, ?delete, ?flush⟩
  case insert =>
    intro dt via c mac ctrl m vid r s hr hc hmac hon hrow hok hvalid hkind hm hvid hfind hfree
    subst hm hvid
    have hop : (ctrl.setBits 62 2 0).bits 62 2 = 0 := bits_setBits_field (by decide) (by decide)
    have hlow {lo k : Nat} (h : lo + k ≤ 62) : (ctrl.setBits 62 2 0).bits lo k = ctrl.bits lo k := bits_setBits_low h
    refine doorOp_answers hr hc hmac hon hrow hok fun u hu => ⟨_, landDoor_insert_static (r := r) hop ?_ ?_ ?_ ?_, ?_, ?_⟩
    · rw [bit_setBits_low (by decide)]; exact hvalid
    · rw [hlow (by decide)]; exact hkind
    · rw [hlow (by decide), hu.doorFind]; exact hfind
    · rw [hlow (by decide), hu.freeOf]; exact hfree
    · refine (doorEntry_doorWrite ..).trans ?_
      rw [staticEntry, hlow (by decide), hlow (by decide)]
    · rw [setStatus, window_setWindow]
  case delete =>
    intro dt via c mac ctrl m vid r e s hr hc hmac hon hrow hok hm hvid hfind
    subst hm hvid
    refine doorOp_answers hr hc hmac hon hrow hok fun u hu => ⟨_, landDoor_delete (r := r) (e := e) ?_ ?_, ?_, ?_, fun w hw => ?_⟩
    · exact bits_setBits_field (by decide) (by decide)
    · rw [bits_setBits_low (by decide), hu.doorFind]; exact hfind
    · exact doorEntry_doorClear ..
    · rw [setStatus, window_setWindow]
    · exact (doorEntry_doorClear_ne u c hw).trans (hu.doorEntry c w)
  case flush =>
    intro dt via c s hr hc hf
    obtain ⟨x, hw⟩ := write_flush (via := via.transport) (elapse_ready s dt hr) hc hf
    obtain ⟨m, hm⟩ := landFlush_eq (s.elapse dt) c
    refine masterWrite_done hr.1 hw (by rw [hm]; exact hr.2.1) ⟨landFlush_busy .., fun r e he => ?_⟩
    exact landFlush_entry (s := s.elapse dt) he

end Sys2Proof.Machine
end

