-- ==== Sys2Proof/Proofs/SchedulerRows.lean ====
section
namespace Sys2Proof.Machine
open State

section
variable {s t : State} {c j k leaf : Nat} {len : Option Nat} {q : SchRow}

/-! ### Rows of the scheduler after a write of one, and what leaves them all -/

theorem sch_setSch_self (s : State) (c k : Nat) (q : SchRow) : (s.setSch c k q).sch c k = q := by
  unfold setSch sch
  rw [clTx_updClTx]
  exact SMap.get_set_self ..

theorem sch_setSch_ne (q : SchRow) (h : k ≠ j) : (s.setSch c j q).sch c k = s.sch c k := by
  unfold setSch sch
  rw [clTx_updClTx]
  exact SMap.get_set_ne _ h

theorem sch_of_clusterTx (h : t.clusterTx = s.clusterTx) (c k : Nat) : t.sch c k = s.sch c k := by
  unfold sch clTx
  rw [h]

theorem State.Quiet.runTime (h : t.Quiet s) : t.runTime = s.runTime := by
  unfold State.runTime
  rw [h.time]

theorem elapse_queueRuns (s : State) (dt c : Nat) : (s.elapse dt).queueRuns c = s.queueRuns c := by simp [queueRuns]

theorem elapse_meterRuns (s : State) (dt c : Nat) : (s.elapse dt).meterRuns c = s.meterRuns c := by simp [meterRuns]

/-! ### Joining and leaving an active set (R305) -/

/-- What joining and leaving an active set do not touch: the row but for its membership, its start tag and its remainder. -/
def SchRow.unjoined (r : SchRow) : SchRow := { r with joined := false, tag := 0, rem := 0 }

theorem unjoined_setSch (k : Nat) (h : q.unjoined = (s.sch c j).unjoined) :
    ((s.setSch c j q).sch c k).unjoined = (s.sch c k).unjoined := by
  by_cases hk : k = j
  · rw [hk, sch_setSch_self, h]
  · rw [sch_setSch_ne _ hk]

theorem settleClass_unjoined (s : State) (c l n k : Nat) : ((s.settleClass c l n).sch c k).unjoined = (s.sch c k).unjoined := by
  unfold settleClass
  dsimp only
  split_ifs
  · rfl
  · exact unjoined_setSch k rfl
  · exact unjoined_setSch k rfl
  · rfl

theorem settleNode_unjoined (s : State) (c j k : Nat) : ((s.settleNode c j).sch c k).unjoined = (s.sch c k).unjoined := by
  unfold settleNode
  dsimp only
  rw [settleClass_unjoined]
  split_ifs
  · exact unjoined_setSch k rfl
  · rfl
  · exact unjoined_setSch k rfl
  · rfl

theorem settleParent_unjoined (s : State) (c par k : Nat) : ((s.settleParent c par).sch c k).unjoined = (s.sch c k).unjoined := by
  unfold settleParent
  split
  · exact settleNode_unjoined ..
  · exact settleClass_unjoined ..

theorem settleLeaf_unjoined (s : State) (c j k : Nat) : ((s.settleLeaf c j).sch c k).unjoined = (s.sch c k).unjoined := by
  unfold settleLeaf
  dsimp only
  rw [settleParent_unjoined]
  split_ifs
  · exact unjoined_setSch k rfl
  · rfl
  · exact unjoined_setSch k rfl
  · rfl

/-! ### Enqueue notices (R288, R303) -/

theorem execEnqueueNotice_runs (dt : Nat) (h : s.queueRuns c = true) :
    execEnqueueNotice dt c leaf len s = .next ((s.elapse dt).notice c leaf len) :=
  if_neg (by simp [elapse_queueRuns, h])

theorem notice_of_valid (h : s.schValid c leaf = true) : s.notice c leaf len =
    (s.setSch c leaf { s.sch c leaf with grantOut := false, backlogged := len.isSome, headLen := len.getD 0 }).settleLeaf c leaf :=
  if_neg (by simp [h])

theorem notice_of_not_valid (h : s.schValid c leaf = false) : s.notice c leaf len =
    ((s.setSch c leaf { s.sch c leaf with grantOut := false }).bump (clIdx c 5) 1).raiseOnce (clEvent c 13) :=
  if_pos (by simp [h])

/-- The leaf after a notice, its place in the active set apart. -/
theorem notice_unjoined (h : s.schValid c leaf = true) : ((s.notice c leaf len).sch c leaf).unjoined =
    { (s.sch c leaf).unjoined with grantOut := false, backlogged := len.isSome, headLen := len.getD 0 } := by
  rw [notice_of_valid h, settleLeaf_unjoined, sch_setSch_self]
  rfl

/-- A notice for a leaf that is not VALID ends its grant all the same. -/
theorem notice_grantOut (h : s.schValid c leaf = false) : ((s.notice c leaf len).sch c leaf).grantOut = false := by
  rw [notice_of_not_valid h, sch_of_clusterTx (raiseOnce_alike (bump_alike (.refl _))).clusterTx, sch_setSch_self]

theorem notice_counted (h : s.schValid c leaf = false) :
    (s.notice c leaf len).ctr (clIdx c 5) 1 = s.ctr (clIdx c 5) 1 + 1 := by
  rw [notice_of_not_valid h, raiseOnce_ctr _ _ _ _ _ _ (by decide) (by decide) (by decide) (by decide)]
  exact ctr_bumpRow ..

/-! ### A refill that sets the group (R306, R313) -/

theorem refillAndGroup_quiet (s : State) (c k : Nat) : (s.refillAndGroup c k).Quiet s :=
  setGroup_quiet (refillRow_quiet (.refl s))

/-- The row is brought to run time, and the set that waited is installed. -/
theorem refillAndGroup_row (s : State) (c k : Nat) :
    ((s.refillAndGroup c k).sch c k).last = (s.refillAndGroup c k).runTime ∧ ((s.refillAndGroup c k).sch c k).pend = none ∧
      ((s.refillAndGroup c k).sch c k).inst = (s.sch c k).pend.getD (s.sch c k).inst := by
  have hcore : ((s.refillAndGroup c k).sch c k).core = (s.runTime, none, (s.sch c k).pend.getD (s.sch c k).inst) :=
    (setGroup_core ..).trans (refillRow_core ..)
  obtain ⟨hlast, hrest⟩ := Prod.mk.inj hcore
  exact ⟨hlast.trans (refillAndGroup_quiet s c k).runTime.symm, Prod.mk.inj hrest⟩

/-! ### The Lathe (R310–R312) -/

/-- A firing that comes `late` grains after its time is noted in LATHE_MAX_LATE, and counted when beyond 2^11 gr (R317, R318). -/
def State.noteLate (s : State) (c late : Nat) : State :=
  let s := s.updClTx c fun q => { q with latheMaxLate := max q.latheMaxLate (min late (2 ^ 20 - 1)) }
  if 2 ^ 11 < late then (s.bump (clIdx c 5) 4).raiseOnce (clEvent c 14) else s

/-- The state in which the row of a fired entry is refilled: the firing noted, and the entry gone (R311). -/
def State.fired (s : State) (c k late : Nat) : State :=
  (s.noteLate c late).setSch c k { (s.noteLate c late).sch c k with lathe := none }

theorem execLatheFiring_fires (dt : Nat) {e : LatheEntry} (hq : s.queueRuns c = true) (he : (s.sch c k).lathe = some e)
    (hspan : e.span = none) (hdue : (s.elapse dt).since e.at_ < 2 ^ 63) :
    execLatheFiring dt c k s = .next (((s.elapse dt).fired c k ((s.elapse dt).since e.at_)).refillAndGroup c k) := by
  have hentry : ((s.elapse dt).sch c k).lathe = some e := he
  unfold execLatheFiring
  dsimp only
  rw [hentry]
  exact if_neg (by simpa [elapse_queueRuns, hq, hspan] using hdue)

theorem noteLate_sch (s : State) (c k late : Nat) : (s.noteLate c late).sch c k = s.sch c k := by
  have hmax : (s.updClTx c fun q => { q with latheMaxLate := max q.latheMaxLate (min late (2 ^ 20 - 1)) }).sch c k = s.sch c k := by
    unfold sch
    rw [clTx_updClTx]
  unfold noteLate
  dsimp only
  split
  · rw [sch_of_clusterTx (raiseOnce_alike (bump_alike (.refl _))).clusterTx, hmax]
  · exact hmax

theorem fired_core (s : State) (c k late : Nat) : ((s.fired c k late).sch c k).core = (s.sch c k).core := by
  have hset : ((s.fired c k late).sch c k).core = ((s.noteLate c late).sch c k).core := core_setSch k rfl
  rw [hset, noteLate_sch]

theorem placeRow_lathe (s : State) (c k : Nat) (a : Word) : ((s.placeRow c k a).sch c k).lathe = some (s.lathePlace a).1 := by
  unfold placeRow
  dsimp only
  split
  · rw [sch_of_clusterTx (bump_alike (.refl _)).clusterTx, sch_setSch_self]
  · rw [sch_setSch_self]

theorem placeRow_sch_ne (a : Word) (h : k ≠ j) : (s.placeRow c j a).sch c k = s.sch c k := by
  unfold placeRow
  dsimp only
  split
  · rw [sch_of_clusterTx (bump_alike (.refl _)).clusterTx, sch_setSch_ne _ h]
  · rw [sch_setSch_ne _ h]

theorem lathePlace_congr (h : t.runTime = s.runTime) (a : Word) : t.lathePlace a = s.lathePlace a := by
  unfold lathePlace
  rw [h]

/-- A row of the store is placed again at its own time. -/
def State.placeAgain (s : State) (c : Nat) (e : Nat × SchRow) : State :=
  match e.2.lathe with
  | some l => s.placeRow c e.1 l.at_
  | none => s

/-- The row's entry lies in outer slot `slot` and its cascade has come. -/
def State.cascades (s : State) (slot : Nat) (r : SchRow) : Bool :=
  match r.lathe with
  | some { at_ := _, span := some j } =>
    j % 4096 == slot && decide ((s.runTime + Word.ofNat (2 ^ 25) - Word.ofNat (j * 2 ^ 26)).toNat < 2 ^ 63)
  | _ => false

theorem cascades_of_due {a : Word} {n : Nat} (hl : q.lathe = some { at_ := a, span := some n })
    (hdue : (s.runTime + Word.ofNat (2 ^ 25) - Word.ofNat (n * 2 ^ 26)).toNat < 2 ^ 63) : s.cascades (n % 4096) q = true := by
  unfold cascades
  rw [hl]
  exact Bool.and_eq_true_iff.mpr ⟨beq_self_eq_true _, decide_eq_true hdue⟩

theorem execLatheCascade_runs (dt slot : Nat) (hq : s.queueRuns c = true) : execLatheCascade dt c slot s =
    .next (((s.clTx c).sched.filter fun e => (s.elapse dt).cascades slot e.2).foldl (fun s e => s.placeAgain c e) (s.elapse dt)) :=
  if_neg (by simp [elapse_queueRuns, hq])

theorem placeAgain_quiet (e : Nat × SchRow) (h : t.Quiet s) : (t.placeAgain c e).Quiet s := by
  unfold placeAgain
  split
  · exact placeRow_quiet h
  · exact h

theorem placeAgain_sch_ne {e : Nat × SchRow} (h : k ≠ e.1) : (s.placeAgain c e).sch c k = s.sch c k := by
  unfold placeAgain
  split
  · exact placeRow_sch_ne _ h
  · rfl

theorem placeAgain_all_sch_ne {l : List (Nat × SchRow)} (h : ∀ e ∈ l, k ≠ e.1) (s : State) :
    (l.foldl (fun s e => s.placeAgain c e) s).sch c k = s.sch c k := by
  induction l generalizing s with
  | nil => rfl
  | cons e l ih =>
    obtain ⟨he, hl⟩ := List.forall_mem_cons.mp h
    rw [List.foldl_cons, ih hl, placeAgain_sch_ne he]

/-- A row listed once is placed once, and by its own entry. -/
theorem placeAgain_all_lathe {l : SMap SchRow} {e : LatheEntry} (hl : SMap.rising l = true) (hmem : (k, q) ∈ l)
    (he : q.lathe = some e) (s : State) :
    ((l.foldl (fun s e => s.placeAgain c e) s).sch c k).lathe = some (s.lathePlace e.at_).1 := by
  obtain ⟨front, back, rfl⟩ := List.append_of_mem hmem
  have hback : ∀ x ∈ back, k ≠ x.1 := by
    have hkeys := (List.pairwise_append.mp (List.pairwise_map.mp (pairwise_keys hl))).2.1
    exact fun x hx => (List.rel_of_pairwise_cons hkeys hx).ne
  have hfront : (front.foldl (fun s e => s.placeAgain c e) s).Quiet s := foldl_quiet (.refl s) fun _ e h => placeAgain_quiet e h
  rw [List.foldl_append, List.foldl_cons, placeAgain_all_sch_ne hback, ← lathePlace_congr hfront.runTime]
  unfold placeAgain
  dsimp only
  rw [he]
  exact placeRow_lathe ..

/-! ### Background refills (R275, R308) -/

theorem execShaperBackgroundRefill_refills (dt : Nat) (hq : s.queueRuns c = true) (hl : (s.sch c k).lathe = none)
    (hen : ((s.sch c k).inst.cirEn || (s.sch c k).inst.pirEn || ((s.sch c k).pend.map fun i => i.cirEn || i.pirEn).getD false) = true) :
    execShaperBackgroundRefill dt c k s = .next ((s.elapse dt).refillAndGroup c k) := by
  have hsch : (s.elapse dt).sch c k = s.sch c k := rfl
  refine if_pos ?_
  rw [hsch, elapse_queueRuns, hq, hl, hen]
  rfl

theorem execMeterBackgroundRefill_refills (dt : Nat) {r : Nat} (hm : s.meterRuns c = true) (hr : r < 32768)
    (hen : (s.meterRow c r).enable = true) :
    execMeterBackgroundRefill dt c r s = .next ((s.elapse dt).refillMeter c r) := by
  have hpar : (s.elapse dt).meterRow c r = s.meterRow c r := rfl
  unfold execMeterBackgroundRefill
  dsimp only
  rw [Nat.mod_eq_of_lt hr]
  exact if_pos (by rw [elapse_meterRuns, hm, hpar, hen]; rfl)

end

/-- Settles O17: a notice writes the leaf and then only moves it between active sets; a firing and a background refill are the refill that
installs what waits (a row whose only enabled shaper waits is refilled too, log 38); of an outer slot each listed row is placed once. -/
theorem schedulerRows : Obligations.SchedulerRows := by
  refine ⟨?notice, ?unknown, ?firing, ?cascade, ?shaper, ?meter⟩
  case notice =>
    intro dt c leaf len s hq _ hv
    have hrow := notice_unjoined (len := len) (s := s.elapse dt) hv
    exact ⟨_, execEnqueueNotice_runs dt hq,
      congrArg SchRow.grantOut hrow, congrArg SchRow.backlogged hrow, congrArg SchRow.headLen hrow⟩
  case unknown =>
    intro dt c leaf len s hq hv
    exact ⟨_, execEnqueueNotice_runs dt hq, notice_grantOut (s := s.elapse dt) hv, notice_counted (s := s.elapse dt) hv⟩
  case firing =>
    intro dt c k e s hq he hspan hdue
    obtain ⟨hlast, hpend, hinst⟩ := refillAndGroup_row ((s.elapse dt).fired c k ((s.elapse dt).since e.at_)) c k
    have hcore := fired_core (s.elapse dt) c k ((s.elapse dt).since e.at_)
    refine ⟨_, execLatheFiring_fires dt hq he hspan hdue, hlast, hpend, fun i hi => ?_⟩
    have hwaits : (((s.elapse dt).fired c k ((s.elapse dt).since e.at_)).sch c k).pend = some i := (congrArg (·.2.1) hcore).trans hi
    rw [hinst, hwaits]
    rfl
  case cascade =>
    intro dt c k j a s hq hl hdue hrising
    have hlisted : (k, s.sch c k) ∈ (s.clTx c).sched := get_mem fun h =>
      Option.some_ne_none _ (hl.symm.trans (congrArg SchRow.lathe h))
    have hmoved : (k, s.sch c k) ∈ (s.clTx c).sched.filter fun e => (s.elapse dt).cascades (j % 4096) e.2 :=
      List.mem_filter.mpr ⟨hlisted, cascades_of_due (s := s.elapse dt) hl hdue⟩
    exact ⟨_, execLatheCascade_runs dt _ hq, placeAgain_all_lathe (SMap.rising_filter _ hrising) hmoved hl _⟩
  case shaper =>
    intro dt c k s hq hl hen
    obtain ⟨hlast, hpend, -⟩ := refillAndGroup_row (s.elapse dt) c k
    exact ⟨_, execShaperBackgroundRefill_refills dt hq hl hen, hlast, hpend⟩
  case meter =>
    intro dt c r s hm hr hen
    exact ⟨_, execMeterBackgroundRefill_refills dt hm hr hen, meterSt_refillMeter (s.elapse dt) c r⟩

end Sys2Proof.Machine
end

