-- ==== Sys2Proof/Proofs/Grants.lean ====
section
namespace Sys2Proof.Machine
open State

section
variable {s : State} {c l n leaf tag : Nat} {counts : List Nat} {o o' : List Output}

/-! ### What a grant slot puts on the interfaces (R298, R300) -/

/-- What a slot spent on local port `l` adds to the outputs `o`: nothing for a DIRECT frame (log 41), otherwise one grant of the port. -/
inductive SlotOut (c l : Nat) (o : List Output) : List Output → Prop
  | direct : SlotOut c l o o
  | grant (leaf tag : Nat) : SlotOut c l o (o ++ [.grant c leaf (64 * c + l) tag])

/-- An offer to local port `l` over the outputs `o`: where nothing is taken nothing is put out, and what is taken is one slot. -/
def Offer (c l : Nat) (o : List Output) (r : Option State × State) : Prop :=
  r.2.out = o ∧ ∀ t, r.1 = some t → SlotOut c l o t.out

/-- Of a grant's charge and the frame that joins its port, only the grant itself is put out. -/
theorem granted_out (s : State) (c l n leaf cLen p tag : Nat) (f : TxFrame) :
    (((s.chargeGrant c l n leaf cLen).addFrame p f).emit (.grant c leaf p tag)).out = s.out ++ [.grant c leaf p tag] :=
  congrArg (· ++ [Output.grant c leaf p tag]) (chargeGrant_quiet (.refl s)).out

theorem offer_none (h : s.out = o) : Offer c l o (none, s) := ⟨h, by simp⟩

theorem tryClass_offer (c l n : Nat) (h : s.out = o) : Offer c l o (s.tryClass c l n) := by
  have hfit (w : Nat) : (s.fit (64 * c + l) n w).2.out = o := (fit_quiet (.refl s)).out.trans h
  unfold tryClass
  extract_lets p sec dev t launch closes
  split
  case h_1 d _ =>
    extract_lets x r s' f gone
    have hgone : gone.Quiet s' := updPortTx_quiet (.refl s')
    refine ⟨?_, ?_⟩
    · split <;> exact hfit _
    · rintro t' ht
      have hout : t'.out = s'.out := by
        split at ht <;> cases ht
        · exact (directDone_quiet (settleClass_quiet hgone)).out
        · exact (stagePort_quiet (updPortTx_quiet (settleClass_quiet hgone))).out
      rw [hout, hfit]
      exact .direct
  case h_2 =>
    split
    case h_1 leaf tag _ _ =>
      extract_lets len x r s' f granted
      have hgranted (f : TxFrame) : SlotOut c l o (granted f).out := by
        rw [granted_out, hfit]
        exact .grant leaf tag
      refine ⟨?_, ?_⟩
      · split <;> exact hfit _
      · rintro t' ht
        split at ht <;> cases ht <;> exact hgranted _
    case h_2 => exact offer_none h

theorem tryPort_offer (c l : Nat) (h : s.out = o) : Offer c l o (s.tryPort c l) := by
  unfold tryPort
  extract_lets p
  split
  · exact offer_none h
  · refine List.foldlRecOn (motive := Offer c l o) _ _ (offer_none h) fun a ha n _ => ?_
    split
    · exact ha
    · exact tryClass_offer c l n ha.1

/-- What the offers of one slot come to over the outputs `o`: nothing is put out, or one port that has had fewer than four grants of
this cycle is served (R302). -/
def SlotOffer (c : Nat) (counts : List Nat) (o : List Output) (r : Option (Nat × State) × State) : Prop :=
  (r.1 = none → r.2.out = o) ∧ ∀ l t, r.1 = some (l, t) → l < 64 ∧ counts.count l < 4 ∧ SlotOut c l o t.out

theorem slotOffer_none (h : s.out = o) : SlotOffer c counts o (none, s) := ⟨fun _ => h, by simp⟩

theorem grantSlot_offer (c : Nat) (counts : List Nat) (h : s.out = o) : SlotOffer c counts o (s.grantSlot c counts) := by
  refine List.foldlRecOn (motive := SlotOffer c counts o) _ _ (slotOffer_none h) fun a ha i _ => ?_
  split
  · exact ha
  next hnone =>
    extract_lets l
    split
    · exact ha
    next hfew =>
      have hoff := tryPort_offer c l (ha.1 hnone)
      split
      · next t _ he =>
        rw [he] at hoff
        refine ⟨by simp, ?_⟩
        rintro _ _ ⟨⟩
        exact ⟨Nat.mod_lt _ (by decide), Nat.lt_of_not_ge hfew, hoff.2 t rfl⟩
      · next he =>
        rw [he] at hoff
        exact slotOffer_none hoff.1

/-! ### The slots of one cycle (R302) -/

/-- The outputs `o` that slots spent on the local ports `ls`, the last first, put out. -/
inductive Granting (c : Nat) : List Nat → List Output → Prop
  | start : Granting c [] []
  | slot {l : Nat} {ls : List Nat} {o o' : List Output} (before : Granting c ls o) (port : l < 64) (few : ls.count l < 4)
      (out : SlotOut c l o o') : Granting c (l :: ls) o'

/-- The output is a grant for port `p`. -/
def Output.grantsTo (p : Nat) : Output → Bool
  | .grant _ _ q _ => q == p
  | _ => false

theorem Granting.length_le {ls : List Nat} (h : Granting c ls o) : o.length ≤ ls.length := by
  induction h with
  | start => exact Nat.le_refl 0
  | slot _ _ _ out ih =>
    cases out with
    | direct => exact Nat.le_succ_of_le ih
    | grant => simpa using ih

theorem Granting.forall_grant {ls : List Nat} (h : Granting c ls o) :
    ∀ x ∈ o, ∃ leaf l tag, l < 64 ∧ x = .grant c leaf (64 * c + l) tag := by
  induction h with
  | start => exact nofun
  | @slot l _ _ _ _ port _ out ih =>
    cases out with
    | direct => exact ih
    | grant leaf tag => exact List.forall_mem_append.mpr ⟨ih, List.forall_mem_singleton.mpr ⟨leaf, l, tag, port, rfl⟩⟩

theorem Granting.count_le_four {ls : List Nat} (h : Granting c ls o) (k : Nat) : ls.count k ≤ 4 := by
  induction h with
  | start => simp
  | slot _ _ few _ ih =>
    rw [List.count_cons]
    split
    · next hk => exact eq_of_beq hk ▸ few
    · exact ih

theorem Granting.grantsTo_le_count {ls : List Nat} (h : Granting c ls o) (p : Nat) :
    (o.filter (Output.grantsTo p)).length ≤ ls.count (p - 64 * c) := by
  induction h with
  | start => exact Nat.le_refl 0
  | @slot l _ _ _ _ _ _ out ih =>
    cases out with
    | direct => exact ih.trans List.count_le_count_cons
    | grant leaf tag =>
      rw [List.filter_append, List.length_append]
      by_cases hp : 64 * c + l = p
      · subst hp
        simpa [Output.grantsTo] using ih
      · simpa [Output.grantsTo, hp] using ih.trans List.count_le_count_cons

/-- The next slot finds no port and puts nothing out, or is spent on a port that has had fewer than four. -/
theorem grantNext_cases (c : Nat) (counts : List Nat) (s : State) :
    (∃ t, grantNext c (some counts, s) = (none, t) ∧ t.out = s.out) ∨
      ∃ l t, grantNext c (some counts, s) = (some (l :: counts), t) ∧ l < 64 ∧ counts.count l < 4 ∧ SlotOut c l s.out t.out := by
  obtain ⟨hnone, hsome⟩ := grantSlot_offer (s := s) c counts rfl
  unfold grantNext
  dsimp only
  split
  · next y he => exact .inr ⟨y.1, y.2, rfl, hsome _ _ he⟩
  · next he => exact .inl ⟨_, rfl, hnone he⟩

/-- After `k` slots: they were spent on at most `k` ports, and as long as each found a port the list of them is at hand. -/
theorem granting_foldl (c k : Nat) (h : s.out = []) :
    ∃ ls, ls.length ≤ k ∧ Granting c ls ((List.range k).foldl (fun a _ => grantNext c a) (some [], s)).2.out ∧
      ∀ counts, ((List.range k).foldl (fun a _ => grantNext c a) (some [], s)).1 = some counts → counts = ls := by
  induction k with
  | zero => exact ⟨[], Nat.le_refl 0, h ▸ .start, fun _ hc => (Option.some.inj hc).symm⟩
  | succ k ih =>
    rw [List.range_succ, List.foldl_concat]
    obtain ⟨ls, hlen, hgr, hcounts⟩ := ih
    generalize (List.range k).foldl (fun a _ => grantNext c a) (some [], s) = a at hgr hcounts ⊢
    obtain ⟨_ | counts, u⟩ := a
    · exact ⟨ls, Nat.le_succ_of_le hlen, hgr, nofun⟩
    · obtain rfl := hcounts counts rfl
      obtain ⟨t, he, ht⟩ | ⟨l, t, he, hl, hfew, hslot⟩ := grantNext_cases c counts u <;> rw [he]
      · exact ⟨counts, Nat.le_succ_of_le hlen, ht.symm ▸ hgr, nofun⟩
      · exact ⟨l :: counts, Nat.succ_le_succ hlen, .slot hgr hl hfew hslot, fun _ hc => (Option.some.inj hc).symm⟩

theorem grantCycle_granting (c : Nat) (h : s.out = []) : ∃ ls, ls.length ≤ 16 ∧ Granting c ls (s.grantCycle c).out := by
  obtain ⟨ls, hlen, hgr, -⟩ := granting_foldl c 16 h
  exact ⟨ls, hlen, hgr⟩

/-- A slot takes back nothing that is out. -/
theorem SlotOut.mem {x : Output} (h : SlotOut c l o o') (hx : x ∈ o) : x ∈ o' := by
  cases h with
  | direct => exact hx
  | grant => exact List.mem_append_left _ hx

theorem grantNext_mem {x : Output} {a : Option (List Nat) × State} (hx : x ∈ a.2.out) : x ∈ (grantNext c a).2.out := by
  obtain ⟨_ | counts, u⟩ := a
  · exact hx
  · obtain ⟨t, he, ht⟩ | ⟨l, t, he, -, -, hslot⟩ := grantNext_cases c counts u <;> rw [he]
    · exact ht.symm ▸ hx
    · exact hslot.mem hx

/-! ### The port next in turn (R300, R301) -/

/-- A class with no DIRECT frame whose head frame may start gives a grant for it under the lowest free tag (log 41). -/
theorem tryClass_grants (hinj : (s.portTxOf (64 * c + l)).inject = []) (hhead : s.classHead c l n = some leaf)
    (htag : s.freeTag (64 * c + l) = some tag)
    (hfit : (s.fit (64 * c + l) n (s.charged (64 * c + l) (s.sch c leaf).headLen (if (s.sysDevice (64 * c + l)).isSome then 12 else 0)
      (State.expansion (s.secPlan (64 * c + l)))).2.1).1 ≠ .closed) :
    ∃ t u, s.tryClass c l n = (some t, u) ∧ Output.grant c leaf (64 * c + l) tag ∈ t.out := by
  unfold tryClass
  simp only [hinj, List.find?_nil, hhead, htag]
  split
  · next hclosed => exact absurd hclosed hfit
  all_goals exact ⟨_, _, rfl, by rw [granted_out]; exact List.mem_concat_self⟩

/-- The first class in order that takes the slot ends the search. -/
theorem tryPort_first {t u : State} {rest : List Nat} (hacc : s.txAccepts (64 * c + l) = true) (hgrp : (s.sch c (portKey l)).grp ≠ 2)
    (hroom : s.ahead (64 * c + l) < s.aheadLimit (64 * c + l)) (hord : s.classOrder c l = n :: rest)
    (h : s.tryClass c l n = (some t, u)) : s.tryPort c l = (some t, u) := by
  unfold tryPort
  extract_lets p
  rw [if_neg (by simp [p, hacc, hgrp, hroom]), hord, List.foldl_cons]
  dsimp only
  rw [h]
  exact List.foldl_fixed' (fun _ => rfl) rest

/-- The port after the last served is the first that a cycle's first slot is offered to. -/
theorem grantSlot_first {t u : State} (hl : l < 64) (hlast : (s.clTx c).lastPort = (l + 63) % 64) (h : s.tryPort c l = (some t, u)) :
    s.grantSlot c [] = (some (l, t.updClTx c fun q => { q with lastPort := l }), t) := by
  have hturn : ((s.clTx c).lastPort + 1 + 0) % 64 = l := by omega
  unfold grantSlot
  dsimp only
  rw [List.range_succ_eq_map, List.foldl_cons]
  dsimp only
  rw [hturn, h]
  exact List.foldl_fixed' (fun _ => rfl) _

theorem grantCycle_mem {x : Output} {r : Nat × State} {u : State} (h : s.grantSlot c [] = (some r, u)) (hx : x ∈ r.2.out) :
    x ∈ (s.grantCycle c).out := by
  have hfirst : grantNext c (some [], s) = (some [r.1], r.2) := by
    unfold grantNext
    dsimp only
    rw [h]
  unfold grantCycle
  rw [List.range_succ_eq_map, List.foldl_cons, hfirst]
  exact List.foldlRecOn (motive := fun a : Option (List Nat) × State => x ∈ a.2.out) _ _ hx fun _ ha _ _ => grantNext_mem ha

/-! ### The command -/

theorem dequeueGrantRes_idle {ups : List (Nat × Nat)} (dt : Nat) (h : s.queueRuns c = false) :
    dequeueGrantRes dt c ups s = .next (s.elapse dt) :=
  if_pos (by rw [elapse_queueRuns, h]; rfl)

theorem dequeueGrantRes_runs (dt : Nat) (ups : List (Nat × Nat)) (h : s.queueRuns c = true) :
    dequeueGrantRes dt c ups s =
      .next (((List.range 64).foldl (fun s l => s.settlePort (64 * c + l))
        (ups.foldl (fun s u => s.schedEcc c u.1 u.2) (s.elapse dt))).grantCycle c) :=
  if_neg (by rw [elapse_queueRuns, h]; decide)

/-- The rows read and the classes settled before the grants put nothing out. -/
theorem settleAll_out (s : State) (dt c : Nat) (ups : List (Nat × Nat)) :
    ((List.range 64).foldl (fun s l => s.settlePort (64 * c + l)) (ups.foldl (fun s u => s.schedEcc c u.1 u.2) (s.elapse dt))).out = [] :=
  have hread : (ups.foldl (fun s u => s.schedEcc c u.1 u.2) (s.elapse dt)).Quiet (s.elapse dt) :=
    foldl_quiet (.refl _) fun _ _ h => schedEcc_quiet h
  (foldl_quiet hread fun _ _ h => settlePort_quiet h).out

/-- What goes out with a command for a cycle of grants is what at most 16 slots put out. -/
theorem dequeueGrantRes_granting (dt c : Nat) (ups : List (Nat × Nat)) (s : State) :
    ∃ t ls, dequeueGrantRes dt c ups s = .next t ∧ ls.length ≤ 16 ∧ Granting c ls t.out := by
  cases hq : s.queueRuns c with
  | false => exact ⟨_, [], dequeueGrantRes_idle dt hq, by decide, .start⟩
  | true =>
    obtain ⟨ls, hlen, hgr⟩ := grantCycle_granting c (settleAll_out s dt c ups)
    exact ⟨_, ls, dequeueGrantRes_runs dt ups hq, hlen, hgr⟩

end

/-- Settles O18: each slot that is spent puts out one grant of the port it is spent on, or takes a DIRECT frame, and no port gets a
fifth; of the port next in turn the first slot takes the head frame, under the lowest free tag (log 41). -/
theorem grants : Obligations.Grants := by
  refine ⟨?bounds, ?turn⟩
  case bounds =>
    intro dt c ups s
    obtain ⟨t, ls, hres, hlen, hgr⟩ := dequeueGrantRes_granting dt c ups s
    change AnswersSettled (settled (dequeueGrantRes dt c ups s)) _
    rw [hres]
    exact answersSettled ⟨hgr.length_le.trans hlen, hgr.forall_grant,
      fun p => (hgr.grantsTo_le_count p).trans (hgr.count_le_four _)⟩
  case turn =>
    intro dt c l n rest leaf tag s u hu hq hl hlast hacc hgrp hroom hord hinj hhead htag hfit
    change AnswersSettled (settled (dequeueGrantRes dt c [] s)) _
    rw [dequeueGrantRes_runs dt [] hq, List.foldl_nil, ← hu]
    obtain ⟨t, v, htry, hmem⟩ := tryClass_grants hinj hhead htag hfit
    exact answersSettled (grantCycle_mem (grantSlot_first hl hlast (tryPort_first hacc hgrp hroom hord htry)) hmem)

end Sys2Proof.Machine
end

