-- ==== Sys2Proof/Proofs/ShutterUnits.lean ====
section
/-!
SUPPORT. What the operations of a shutter function do and leave: its cause, the values in force, a swap asked for, a close; and what a
message to the twin leaves of it.
-/
namespace Sys2Proof.Machine
open State

section
variable {s t : State} {p : Nat}

/-! ### A message to the twin leaves the shutters (R350) -/

theorem shut_of_shutters (h : t.shutters = s.shutters) (p : Nat) : t.shut p = s.shut p := by unfold shut; rw [h]

theorem streamSend_shutters (s : State) (m : StreamMsg) : (s.streamSend m).shutters = s.shutters := (streamSend_alike (.refl s)).shutters

theorem tellSwap_shut (s : State) (p sub : Nat) : (s.tellSwap p sub).shut p = s.shut p := by
  unfold tellSwap
  split
  · exact shut_of_shutters (streamSend_shutters ..) p
  · rfl

theorem forwardLanded_alike (s b : State) (via : Transport) (idx sub : Nat) (v : Word) : (s.forwardLanded b via idx sub v).Alike s := by
  unfold forwardLanded
  dsimp only
  split
  · exact .refl s
  · exact streamSend_alike (.refl s)

/-- Neither a message nor the overflow of the mirror store that it may meet (R439) counts below another subindex. -/
theorem streamSend_ctr (s : State) (m : StreamMsg) {i u : Nat} (hu : u < 256) (h5 : u ≠ 5) (h13 : u ≠ 0x13) (h29 : u ≠ 0x29) :
    (s.streamSend m).ctr i u = s.ctr i u := by
  unfold streamSend
  split
  · rfl
  extract_lets isWrite n
  split
  · exact (raiseOnce_ctr _ _ _ i u 0 hu (by decide) h5 h13).trans (ctr_bumpRow_ne _ _ _ _ _ _ _ _ (by unfold slotKey; omega))
  · obtain ⟨x, hx⟩ := hingeSend_said (s.updTwin fun t => { t with seq := n, store := t.store ++ [(n, m)] }) (.stream n m)
    rw [hx]
    rfl

theorem tellSwap_ctr (s : State) (p sub : Nat) {i u : Nat} (hu : u < 256) (h5 : u ≠ 5) (h13 : u ≠ 0x13) (h29 : u ≠ 0x29) :
    (s.tellSwap p sub).ctr i u = s.ctr i u := by
  unfold tellSwap
  split
  · exact streamSend_ctr s _ hu h5 h13 h29
  · rfl

/-- Only a write can meet a full store: a mark, a digest or an item enters the stream. -/
theorem streamSend_said_unwritten (s : State) {m : StreamMsg} (h : ∀ op, m ≠ .write op) : ∃ x, s.streamSend m = s.said x := by
  unfold streamSend
  split
  · exact ⟨_, said_self s⟩
  dsimp only
  cases m
  case write op => exact absurd rfl (h op)
  all_goals exact hingeSend_said (s.updTwin _) _

/-- Only an ACTIVE complex sends on the mirror stream. -/
theorem streamSend_shadow (m : StreamMsg) (h : s.twin.role ≠ .active) : s.streamSend m = s := by
  have hstop : s.streamRuns = false := by simp [streamRuns, h]
  unfold streamSend
  rw [hstop]
  rfl

theorem tellSwap_shadow (p sub : Nat) (h : s.twin.role ≠ .active) : s.tellSwap p sub = s := by
  unfold tellSwap
  split
  · exact streamSend_shadow _ h
  · rfl

/-! ### A cause of the function (R329) -/

theorem shutCause_shut (s : State) (p bit : Nat) :
    (s.shutCause p bit).shut p = { s.shut p with cause := (s.shut p).cause.setBit bit true } := by
  unfold shutCause
  dsimp only
  split
  · exact (shut_of_shutters (raise_shutters ..) p).trans (shut_setShut ..)
  · exact shut_setShut ..

theorem shutCause_ctr (s : State) (p bit : Nat) {i u : Nat} (hu : u < 256) (h5 : u ≠ 5) (h13 : u ≠ 0x13) :
    (s.shutCause p bit).ctr i u = s.ctr i u := by
  unfold shutCause
  dsimp only
  split
  · exact raise_ctr _ _ _ i u 0 hu (by decide) h5 h13
  · rfl

theorem shutCause_sameObjs (s : State) (p bit : Nat) : s.SameObjs (s.shutCause p bit) := by
  unfold shutCause
  extract_lets q u
  have hu : s.SameObjs u := sameObjs_of_regs rfl
  split
  · exact SameObjs.trans hu (raise_sameObjs u (1 + p) 4)
  · exact hu

theorem shutCause_twin (s : State) (p bit : Nat) : (s.shutCause p bit).twin = s.twin := by
  unfold shutCause
  dsimp only
  split
  · exact raise_twin ..
  · rfl

theorem shutCause_clp (s : State) (p bit c : Nat) : ((s.shutCause p bit).clp c).st = (s.clp c).st := by
  unfold shutCause
  dsimp only
  split
  · exact (raise_sparing (.refl _)).clusters c
  · rfl

/-! ### What an entry and a cycle boundary leave (R324, R328) -/

/-- The function without the values that an entry or a cycle boundary puts in force and without its open digests. -/
def Shutter.lasting (q : Shutter) : Shutter :=
  { q with realign := none, gates := 0, hold := false, cycle := 0, entry := 0, guard := 0, overrunMode := false, holdAdv := 0,
           digestClasses := 0, digests := [] }

theorem setShut_lasting {q : Shutter} (h : q.lasting = (s.shut p).lasting) : ((s.setShut p q).shut p).lasting = (s.shut p).lasting := by
  rw [shut_setShut, h]

theorem shutParams_lasting (s : State) (p : Nat) : ((s.shutParams p).shut p).lasting = (s.shut p).lasting := setShut_lasting rfl

/-- Opening a digest changes the list of the open ones and nothing else. -/
theorem openDigest_shut (s : State) (p c close : Nat) : ∃ ds, (s.openDigest p c close).shut p = { s.shut p with digests := ds } := by
  unfold openDigest
  dsimp only
  repeat' split
  · exact ⟨_, rfl⟩
  · exact ⟨_, shut_setShut ..⟩
  · exact ⟨_, shut_setShut ..⟩

theorem openDigest_lasting (s : State) (p c close : Nat) : ((s.openDigest p c close).shut p).lasting = (s.shut p).lasting := by
  obtain ⟨ds, h⟩ := openDigest_shut s p c close
  rw [h]
  rfl

theorem shutRefresh_lasting (s : State) (p : Nat) : ((s.shutRefresh p).shut p).lasting = (s.shut p).lasting := by
  unfold shutRefresh
  extract_lets q t
  split
  · rfl
  split
  · rfl
  · extract_lets pos ra u qu v qv w
    have hu : (u.shut p).lasting = (s.shut p).lasting := by
      unfold u
      split
      · exact shutParams_lasting ..
      · rfl
    have hv : (v.shut p).lasting = (s.shut p).lasting := (setShut_lasting (s := u) (by rfl)).trans hu
    have hw : (w.shut p).lasting = (s.shut p).lasting := (setShut_lasting (s := v) (by rfl)).trans hv
    exact (openDigest_lasting ..).trans hw

theorem openDigest_ctrs (s : State) (p c close : Nat) : (s.openDigest p c close).ctrs = s.ctrs := by
  unfold openDigest
  dsimp only
  repeat' split
  all_goals rfl

theorem shutRefresh_ctrs (s : State) (p : Nat) : (s.shutRefresh p).ctrs = s.ctrs := by
  unfold shutRefresh
  dsimp only
  split
  · rfl
  split
  · rfl
  · rw [openDigest_ctrs]
    split <;> rfl

/-! ### The change time of a swap (R336) -/

/-- The period and the base time of the port's admin list are the same. -/
def State.AdminAs (t s : State) (p : Nat) : Prop := ∀ u, 5 ≤ u → u ≤ 8 → t.reg (0x1400 + p) u = s.reg (0x1400 + p) u

theorem adminAs_of_sameObjs (h : s.SameObjs t) (p : Nat) : t.AdminAs s p := fun u h5 h8 =>
  (h (0x1400 + p) u fun ⟨c, hc⟩ => by unfold slotKey clIdx at hc; omega).symm

theorem shutCause_adminAs (s : State) (p bit : Nat) : (s.shutCause p bit).AdminAs s p := adminAs_of_sameObjs (shutCause_sameObjs s p bit) p

/-- The change time rests on the period and the base time alone of the admin values. -/
theorem newSwap_congr (h : t.AdminAs s p) (landing : Nat) (old : Option ShutterList) : t.newSwap p landing old = s.newSwap p landing old := by
  have hadm : t.adminList p = { s.adminList p with ext := t.regN (0x1400 + p) 9, gates := t.adminGates p } := by
    unfold adminList time84 regN
    dsimp only
    rw [h 5 (by decide) (by decide), h 6 (by decide) (by decide), h 7 (by decide) (by decide), h 8 (by decide) (by decide)]
  unfold newSwap
  rw [hadm]
  rfl

/-- A swap asked for: the one forwarded, or a new one. -/
theorem requestSwap_shut (s : State) (p landing : Nat) (fwd : Option Nat) : ∃ w, (s.requestSwap p landing fwd).shut p =
      { s.shut p with pend := some w, given := none, oper := (s.shut p).oper.map fun l => { l with lastCycle := none } } ∧
    (fwd = none → w = s.newSwap p landing (if (s.shut p).st = .opened then (s.shut p).oper else none)) := by
  unfold requestSwap
  cases fwd with
  | none => exact ⟨_, shut_setShut .., fun _ => rfl⟩
  | some tc => exact ⟨_, shut_setShut .., nofun⟩

/-- A swap asked for with no change time forwarded is a new one. -/
theorem requestSwap_pend (s : State) (p landing : Nat) : ((s.requestSwap p landing none).shut p).pend =
    some (s.newSwap p landing (if (s.shut p).st = .opened then (s.shut p).oper else none)) := by
  obtain ⟨w, h, hnew⟩ := requestSwap_shut s p landing none
  rw [h, hnew rfl]

/-! ### A close (R334, R335) -/

/-- The function as a close leaves it, before its cause. -/
def State.shutterClosed (s : State) (p : Nat) : State :=
  (s.setShut p { s.shut p with st := .closed, reopen := false, given := none, oper := none, realign := none, pend := none,
                               hold := false, cycle := 0, entry := 0, deferred := [] }).shutParams p

theorem closeShutter_eq (h : (s.shut p).st ≠ .closed) : s.closeShutter p true = (s.shutterClosed p).shutCause p 7 := by
  unfold closeShutter
  dsimp only
  rw [if_neg h]
  rfl

theorem closeShutter_closes (h : (s.shut p).st ≠ .closed) : ((s.closeShutter p true).shut p).st = .closed ∧
    ((s.closeShutter p true).shut p).oper = none ∧
    ((s.closeShutter p true).shut p).cause = (s.shut p).cause.setBit 7 true := by
  have hl : ((s.shutterClosed p).shut p).lasting = Shutter.lasting { s.shut p with
      st := .closed, reopen := false, given := none, oper := none, pend := none, deferred := [] } := by
    unfold shutterClosed
    rw [shutParams_lasting, shut_setShut]
    rfl
  rw [closeShutter_eq h, shutCause_shut]
  exact ⟨congrArg Shutter.st hl, congrArg Shutter.oper hl, congrArg (fun q => q.cause.setBit 7 true) hl⟩

theorem closeShutter_dict (s : State) (p : Nat) (cause : Bool) : (s.closeShutter p cause).dict = s.dict := by
  unfold closeShutter
  dsimp only
  split
  · rfl
  split
  · exact (shutCause_quiet (.refl _)).dict
  · rfl

end

end Sys2Proof.Machine
end

