-- ==== Sys2Proof/Proofs/ShutterSwaps.lean ====
section
namespace Sys2Proof.Machine
open State

section
variable {s : State} {via : Transport} {p sub : Nat} {v : Word} {o : ObjInfo}

/-! ### GATE_ENABLE and CONFIG_CHANGE land in the step that accepts them (R92, R350) -/

theorem landsAtOnce_gate (hp : p < 1024) (hsub : sub = 1 ∨ sub = 0x0A) : landsAtOnce (0x1400 + p) sub = true := by
  have h : 0x1400 ≤ 0x1400 + p ∧ 0x1400 + p < 0x1800 := by omega
  rcases hsub with rfl | rfl <;> simp [landsAtOnce, h]

/-- An object of the function that lands at once, written with a value of its range. -/
structure GateWrite (p : Nat) (o : ObjInfo) (v : Word) : Prop where
  port : p < 1024
  sub : o.sub = 1 ∨ o.sub = 0x0A
  info : (objsOf (.portGate p)).find? (fun i => i.sub == o.sub) = some o
  acc : o.acc = .rw ∨ o.acc = .wo
  plain : o.ty ≠ .time84lo ∧ o.ty ≠ .time84hi
  fits : (o.ty.fits v.toNat && o.ok v.toNat) = true
  acts : ¬(o.ty = .strobe ∧ v ≠ 1)

theorem gateWrite_enable (hp : p < 1024) (b : Bool) : GateWrite p (rwObj 1 "GATE_ENABLE" .bool) (Word.ofBool b) where
  port := hp
  sub := .inl rfl
  info := rfl
  acc := .inl rfl
  plain := by decide
  fits := by cases b <;> rfl
  acts := fun h => absurd h.1 (by decide)

theorem gateWrite_change (hp : p < 1024) : GateWrite p (woObj 0x0A "CONFIG_CHANGE" .strobe) 1 where
  port := hp
  sub := .inr rfl
  info := rfl
  acc := .inr rfl
  plain := by decide
  fits := rfl
  acts := fun h => h.2 rfl

theorem GateWrite.stored (h : GateWrite p o v) (ix : Nat) : storedAs (.portGate ix) o.sub v = v := by
  rcases h.sub with e | e <;> rw [e] <;> rfl

theorem acceptObj_gate (h : GateWrite p o v) : s.acceptObj via (.portGate p) o (0x1400 + p) v none =
    (rOK, (s.enqueue via (.obj (0x1400 + p) o.sub v)).landWrites []) := by
  have honce := landsAtOnce_gate h.port h.sub
  have hfwd (y : State) : y.forwardObj via (0x1400 + p) o.sub v = y := if_pos (.inr (.inr honce))
  have hcond : s.objCond s.acceptedVal false (.portGate p) (0x1400 + p) o.sub (storedAs (.portGate p) o.sub v) = true := by
    rcases h.sub with e | e <;> rw [e] <;> rfl
  have hro : o.acc ≠ .ro ∧ o.acc ≠ .rwl ∧ o.acc ≠ .rwc := by rcases h.acc with e | e <;> simp [e]
  have hkeys : 0x1400 + p ≠ 0x0600 := by omega
  unfold acceptObj
  simp only [honce, if_true, hfwd, hro, hcond, h.fits, h.plain, hkeys, false_and, if_false, Bool.not_true, Bool.false_eq_true, ite_self]

/-- The write is answered OK whatever its landing finds: that is judged at the landing (R335, R557). -/
theorem write_gate (h : GateWrite p o v) (hr : s.Ready) :
    s.write via (0x1400 + p) o.sub v = (rOK, s.landOne [] ⟨via, .obj (0x1400 + p) o.sub v, s.time.ticks⟩) := by
  have hl : (s.enqueue via (.obj (0x1400 + p) o.sub v)).dict.landing = [⟨via, .obj (0x1400 + p) o.sub v, s.time.ticks⟩] :=
    (congrArg (· ++ _) hr.2.1 : s.dict.landing ++ _ = [] ++ _)
  have hcleared : (s.enqueue via (.obj (0x1400 + p) o.sub v)).cleared = s := by
    unfold cleared
    rw [← hr.2.1]
    rfl
  have hland : (s.enqueue via (.obj (0x1400 + p) o.sub v)).landWrites [] = s.landOne [] ⟨via, .obj (0x1400 + p) o.sub v, s.time.ticks⟩ := by
    rw [landWrites_one hl (by omega), ← cleared, hcleared]
  have hsub : o.sub ≠ 0 := by rcases h.sub with e | e <;> omega
  unfold write
  simp only [classify_gate h.port, hsub, objInfo_of (classify_gate h.port), h.info, if_false, acceptObj_gate h, hland, if_true]

theorem landOne_gate (h : GateWrite p o v) (t : Word)
    (hc : s.objCond s.landedVal true (.portGate p) (0x1400 + p) o.sub v = true) :
    s.landOne [] ⟨via, .obj (0x1400 + p) o.sub v, t⟩ = (s.actGate p o.sub v none).forwardLanded s via (0x1400 + p) o.sub v := by
  have hacc : ¬(o.acc = .rwc ∧ v ≠ s.reg (0x1400 + p) o.sub ∧ (!s.ownerClosed (.portGate p)) = true) := by
    rcases h.acc with e | e <;> simp [e]
  have hland : s.landObj via [] (0x1400 + p) o.sub v none =
      (rOK, (s.actGate p o.sub v none).forwardLanded s via (0x1400 + p) o.sub v) := by
    unfold landObj
    simp only [classify_gate h.port, objInfo_of (classify_gate h.port), h.info, h.stored]
    rw [if_neg hacc, if_neg (by simp [hc]), if_neg h.acts]
    rfl
  unfold landOne
  simp only [hland, if_true]

/-- A write of the function that is not refused answers what its own effect leaves of the shutters. -/
theorem answers_gate {dt : Nat} {m : Master} {q : State → Prop} (h : GateWrite p o v) (hr : s.Ready)
    (hc : (s.elapse dt).objCond (s.elapse dt).landedVal true (.portGate p) (0x1400 + p) o.sub v = true)
    (hdict : ((s.elapse dt).actGate p o.sub v none).dict = s.dict)
    (hq : ∀ t : State, t.shutters = ((s.elapse dt).actGate p o.sub v none).shutters → q t) :
    AnswersSettled (s.masterWrite dt m (0x1400 + p) o.sub v) q := by
  refine masterWrite_done hr.1 (write_gate h (elapse_ready s dt hr)) ?_ (hq _ ?_)
  · rw [landOne_gate h _ hc, (forwardLanded_alike ..).dict, hdict]
    exact hr.2.1
  · rw [landOne_gate h _ hc]
    exact (forwardLanded_alike ..).shutters

end

section
variable {s : State} {p : Nat} {w : Swap} {l : ShutterList}

/-! ### The start of the commit cycle (R337, R350) -/

/-- An entry of the admin list is shorter than 1,024 grains or cannot be read. -/
def State.badAdmin (s : State) (p : Nat) : Bool :=
  ((s.adminRows p).map fun r => s.rowGet (winIdx (p / 64) 0xA) 2 r).any (fun e => entInterval e < 1024) ||
    (s.adminRows p).any fun r => (s.clTx (p / 64)).badRows.contains r

theorem badAdmin_iff : s.badAdmin p = true ↔
    ∃ r ∈ s.adminRows p, entInterval (s.rowGet (winIdx (p / 64) 0xA) 2 r) < 1024 ∨ r ∈ (s.clTx (p / 64)).badRows := by
  simp only [badAdmin, Bool.or_eq_true, List.any_eq_true, List.mem_map, exists_exists_and_eq_and, decide_eq_true_eq,
    List.contains_iff_mem, and_or_left, exists_or]

/-- The admin list as the latch takes it. -/
def State.latchedList (s : State) (p : Nat) (w : Swap) : ShutterList :=
  { s.adminList p with entries := (s.adminRows p).map fun r => s.rowGet (winIdx (p / 64) 0xA) 2 r, first := w.first }

/-- The swap is given up, with the cause of its refusal. -/
def State.swapRefused (s : State) (p : Nat) : State := (s.setShut p { s.shut p with pend := none }).shutCause p 5

theorem swapRefused_shut (s : State) (p : Nat) :
    (s.swapRefused p).shut p = { s.shut p with pend := none, cause := (s.shut p).cause.setBit 5 true } := by
  rw [swapRefused, shutCause_shut, shut_setShut]

theorem swapRefused_adminAs (s : State) (p : Nat) : (s.swapRefused p).AdminAs s p := fun u h5 h8 =>
  shutCause_adminAs (s.setShut p { s.shut p with pend := none }) p 5 u h5 h8

/-- A latch: the mark goes out, and the list is taken or the swap refused; a CONFIG_CHANGE held behind it asks again. -/
theorem latchSwap_eq {x : Sent} (hw : (s.shut p).pend = some w) (hl : w.latched = none)
    (hx : s.streamSend (.latchMark p w.tc) = s.said x) : s.latchSwap p =
    if s.badAdmin p then
      if w.held then (((s.said x).swapRefused p).requestSwap p ((s.said x).swapRefused p).devTime (s.shut p).given).tellSwap p 0x0A
      else (s.said x).swapRefused p
    else (s.said x).setShut p { s.shut p with
      pend := some { w with latched := some (s.latchedList p w) }
      oper := (s.shut p).oper.map fun o => { o with lastCycle := (commitStart (if (s.shut p).st = .opened then (s.shut p).oper else none) w.tc).2 } } := by
  unfold latchSwap
  simp only [hw, hl, hx]
  rfl

theorem latchSwap_latches (hw : (s.shut p).pend = some w) (hl : w.latched = none)
    (hrows : ∀ r ∈ s.adminRows p, 1024 ≤ entInterval (s.rowGet (winIdx (p / 64) 0xA) 2 r) ∧ r ∉ (s.clTx (p / 64)).badRows) :
    ((s.latchSwap p).shut p).pend = some { w with latched := some (s.latchedList p w) } := by
  have hgood : ¬ s.badAdmin p = true := by
    rw [badAdmin_iff]
    rintro ⟨r, hr, hbad⟩
    obtain ⟨hlong, hread⟩ := hrows r hr
    exact hbad.elim (fun h => absurd hlong (Nat.not_le.mpr h)) hread
  obtain ⟨x, hx⟩ := streamSend_said_unwritten s (m := .latchMark p w.tc) nofun
  rw [latchSwap_eq hw hl hx, if_neg hgood, shut_setShut]

theorem latchSwap_refuses (hw : (s.shut p).pend = some w) (hl : w.latched = none) (hbad : s.badAdmin p = true) :
    ((s.latchSwap p).shut p).cause.bit 5 = true ∧ (w.held = false → ((s.latchSwap p).shut p).pend = none) ∧
    (w.held = true → (s.shut p).given = none → ((s.latchSwap p).shut p).pend =
      some (s.newSwap p s.devTime (if (s.shut p).st = .opened then (s.shut p).oper else none))) := by
  obtain ⟨x, hx⟩ := streamSend_said_unwritten s (m := .latchMark p w.tc) nofun
  have href := swapRefused_shut (s.said x) p
  have hcause : ((s.said x).swapRefused p |>.shut p).cause.bit 5 = true := by
    rw [href]
    exact bit_setBit_self _ 5 (by decide)
  rw [latchSwap_eq hw hl hx, if_pos hbad]
  cases hheld : w.held with
  | false =>
    rw [if_neg Bool.false_ne_true]
    exact ⟨hcause, fun _ => by rw [href], nofun⟩
  | true =>
    have htime : ((s.said x).swapRefused p).devTime = s.devTime := by
      unfold devTime swapRefused
      rw [shutCause_time]
      rfl
    have hadm : ((s.said x).swapRefused p).AdminAs s p := swapRefused_adminAs (s.said x) p
    obtain ⟨w', hreq, hnew⟩ := requestSwap_shut ((s.said x).swapRefused p) p s.devTime (s.shut p).given
    rw [if_pos rfl, tellSwap_shut, htime, hreq]
    refine ⟨hcause, nofun, fun _ hgiven => ?_⟩
    rw [hnew hgiven, newSwap_congr hadm, href]
    rfl

theorem execSwapLatch_waits (dt : Nat) (upset : Option Nat) (hw : (s.shut p).pend = some w) (hm : s.waitsMark w = true) :
    execSwapLatch dt p upset s = .next (s.elapse dt) := by
  unfold execSwapLatch
  simp only [elapse_shut, hw]
  exact if_pos (.inr (.inr (.inr hm)))

theorem execSwapLatch_acts (dt : Nat) (hw : (s.shut p).pend = some w) (hl : w.latched = none) (hm : s.waitsMark w = false)
    (hq : s.queueRuns (p / 64) = true) (ht : w.start ≤ (s.elapse dt).devTime) :
    execSwapLatch dt p none s = settled (.next ((s.elapse dt).latchSwap p)) := by
  have hm' : (s.elapse dt).waitsMark w = false := hm
  unfold execSwapLatch
  simp only [elapse_shut, hw]
  exact if_neg (by simp [hl, hm', hq, ht, elapse_queueRuns])

/-! ### The change time (R338, R339, R341) -/

/-- The list as it is put in force: hold as the list before it left it, and its longest windows. -/
def State.enteringList (s : State) (p : Nat) (w : Swap) (l : ShutterList) : ShutterList :=
  let l := { l with hold0 := !l.entries.isEmpty && s.listHold p (w.tc - 1) }
  { l with maxWin := (List.range 8).map fun n => l.maxWindow n (s.shutExpress p n) (s.regN (0x1400 + p) 0x1A) }

theorem entering_latched (hl : w.latched = some l) : s.entering p w = some (s.enteringList p w l) := by
  unfold entering
  rw [hl]
  rfl

/-- The list is in force. -/
def State.swapMade (s : State) (p : Nat) (w : Swap) (l : ShutterList) : State :=
  (s.setShut p { s.shut p with
    st := if (s.shut p).st = .opening then .opened else (s.shut p).st
    oper := some l, realign := none, pend := none, changeTime := w.tc, cycle := l.first, digestFrom := none }).shutParams p

/-- A CONFIG_CHANGE that was held asks for the next swap. -/
def State.heldAsked (s : State) (p : Nat) (w : Swap) (given : Option Nat) : State :=
  if w.held then (s.requestSwap p w.tc given).tellSwap p 0x0A else s

theorem makeSwap_eq (hw : (s.shut p).pend = some w) (hl : w.latched = some l) : s.makeSwap p =
    ((((s.swapMade p w (s.enteringList p w l)).heldAsked p w (s.shut p).given).bumpPort p Pc.shutterSwaps).shutCause p 0).shutRefresh p := by
  unfold makeSwap
  simp only [hw, entering_latched hl]
  rfl

theorem swapMade_lasting (s : State) (p : Nat) (w : Swap) (l : ShutterList) : ((s.swapMade p w l).shut p).lasting =
    Shutter.lasting { s.shut p with
      st := if (s.shut p).st = .opening then .opened else (s.shut p).st
      oper := some l, pend := none, changeTime := w.tc, digestFrom := none } := by
  unfold swapMade
  rw [shutParams_lasting, shut_setShut]
  rfl

/-- What follows a swap sets SWAPPED and counts it. -/
theorem swapCounted_lasting (u : State) (p : Nat) : ((((u.bumpPort p Pc.shutterSwaps).shutCause p 0).shutRefresh p).shut p).lasting =
    { (u.shut p).lasting with cause := (u.shut p).lasting.cause.setBit 0 true } := by
  have hbump : (u.bumpPort p Pc.shutterSwaps).shut p = u.shut p := shut_of_shutters (bumpRow_shutters ..) p
  rw [shutRefresh_lasting, shutCause_shut, hbump]
  rfl

theorem swapCounted_ctr (u : State) (p : Nat) : (((u.bumpPort p Pc.shutterSwaps).shutCause p 0).shutRefresh p).ctr (0x1800 + p) Pc.shutterSwaps =
    u.ctr (0x1800 + p) Pc.shutterSwaps + 1 := by
  have href : (((u.bumpPort p Pc.shutterSwaps).shutCause p 0).shutRefresh p).ctr (0x1800 + p) Pc.shutterSwaps =
      ((u.bumpPort p Pc.shutterSwaps).shutCause p 0).ctr (0x1800 + p) Pc.shutterSwaps := by
    unfold ctr
    rw [shutRefresh_ctrs]
  rw [href, shutCause_ctr _ _ _ (by decide) (by decide) (by decide)]
  exact ctr_bumpPort_one u p _

theorem heldAsked_ctr (u : State) (p : Nat) (w : Swap) (given : Option Nat) :
    (u.heldAsked p w given).ctr (0x1800 + p) Pc.shutterSwaps = u.ctr (0x1800 + p) Pc.shutterSwaps := by
  unfold heldAsked
  split
  · exact tellSwap_ctr _ _ _ (by decide) (by decide) (by decide) (by decide)
  · rfl

/-- What a held CONFIG_CHANGE leaves of the function: the next swap, and no extension of the cycle before it. -/
theorem heldAsked_lasting (u : State) (p : Nat) (w : Swap) (given : Option Nat) (hh : w.held = true) :
    ∃ w', ((u.heldAsked p w given).shut p).lasting = { (u.shut p).lasting with
        pend := some w', given := none, oper := (u.shut p).lasting.oper.map fun l => { l with lastCycle := none } } ∧
      (given = none → w' = u.newSwap p w.tc (if (u.shut p).lasting.st = .opened then (u.shut p).lasting.oper else none)) := by
  obtain ⟨w', hreq, hnew⟩ := requestSwap_shut u p w.tc given
  refine ⟨w', ?_, hnew⟩
  rw [heldAsked, if_pos hh, tellSwap_shut, hreq]
  rfl

/-- What a swap leaves of the function: the entering list in force, and the swap that was held asked for. -/
theorem makeSwap_lasting (hw : (s.shut p).pend = some w) (hl : w.latched = some l) :
    ∃ o pend given, ((s.makeSwap p).shut p).lasting = Shutter.lasting { s.shut p with
        st := if (s.shut p).st = .opening then .opened else (s.shut p).st
        oper := some o, pend, given, changeTime := w.tc, digestFrom := none, cause := (s.shut p).cause.setBit 0 true } ∧
      (o = s.enteringList p w l ∨ o = { s.enteringList p w l with lastCycle := none }) ∧ (w.held = false → pend = none) ∧
      (w.held = true → (s.shut p).given = none → (s.shut p).st = .opening ∨ (s.shut p).st = .opened →
        pend = some (s.newSwap p w.tc (some o))) := by
  have hmade := swapMade_lasting s p w (s.enteringList p w l)
  rw [makeSwap_eq hw hl, swapCounted_lasting]
  cases hh : w.held with
  | false =>
    rw [heldAsked, if_neg (by simp [hh]), hmade]
    exact ⟨_, _, _, rfl, .inl rfl, fun _ => rfl, nofun⟩
  | true =>
    obtain ⟨w', hasked, hnew⟩ := heldAsked_lasting (s.swapMade p w (s.enteringList p w l)) p w (s.shut p).given hh
    rw [hasked, hmade]
    refine ⟨_, _, _, rfl, .inr rfl, nofun, fun _ hgiven hst => ?_⟩
    have hadm : (s.swapMade p w (s.enteringList p w l)).AdminAs s p := fun _ _ _ => rfl
    rw [hnew hgiven, newSwap_congr hadm, hmade]
    rcases hst with hst | hst <;> simp only [Shutter.lasting, hst] <;> rfl

theorem makeSwap_ctr (hw : (s.shut p).pend = some w) (hl : w.latched = some l) :
    (s.makeSwap p).ctr (0x1800 + p) Pc.shutterSwaps = s.ctr (0x1800 + p) Pc.shutterSwaps + 1 := by
  rw [makeSwap_eq hw hl, swapCounted_ctr, heldAsked_ctr]
  rfl

theorem execShutterSwap_swaps (dt : Nat) (hw : (s.shut p).pend = some w) (hq : s.queueRuns (p / 64) = true)
    (ht : w.tc ≤ (s.elapse dt).devTime) : execShutterSwap dt p s = .next ((s.elapse dt).makeSwap p) := by
  unfold execShutterSwap
  simp only [elapse_shut, hw]
  exact if_pos (by simp [hq, ht, elapse_queueRuns])

end

/-! ### GATE_ENABLE and CONFIG_CHANGE (R334, R335, R339) -/

section
variable {s : State} {dt p : Nat} {m : Master} {w : Swap} {q : State → Prop}

theorem openShutter_dict (s : State) (p : Nat) (fwd : Option Nat) : (s.openShutter p fwd).dict = s.dict := by
  unfold openShutter requestSwap
  rw [setShut_dict, setShut_dict, shutParams, setShut_dict]

theorem openShutter_opens (s : State) (p : Nat) : ((s.openShutter p none).shut p).st = .opening ∧
    ((s.openShutter p none).shut p).pend = some (s.newSwap p s.devTime none) := by
  unfold openShutter
  extract_lets u
  obtain ⟨w, h, hnew⟩ := requestSwap_shut (u.setShut p { u.shut p with
    st := .opening, oper := none, realign := none, reopen := false, cycle := 0, entry := 0 }) p u.devTime none
  have hadm : State.AdminAs (u.setShut p { u.shut p with
    st := .opening, oper := none, realign := none, reopen := false, cycle := 0, entry := 0 }) s p := fun _ _ _ => rfl
  rw [h, hnew rfl, newSwap_congr hadm, shut_setShut]
  exact ⟨rfl, rfl⟩

/-- The state in which the GATE_ENABLE object holds `b`. -/
def State.gateSet (s : State) (p : Nat) (b : Bool) : State := s.setReg (0x1400 + p) 1 (Word.ofBool b)

theorem gateSet_shut (s : State) (p : Nat) (b : Bool) : (s.gateSet p b).shut p = s.shut p := shut_of_shutters (setReg_shutters ..) p

theorem gateSet_clp (s : State) (p : Nat) (b : Bool) (c : Nat) : (s.gateSet p b).clp c = s.clp c := by
  unfold clp gateSet
  rw [setReg_clusterPower]

theorem gateSet_dict (s : State) (p : Nat) (b : Bool) : (s.gateSet p b).dict = s.dict := setReg_dict ..

theorem gateSet_devTime (s : State) (p : Nat) (b : Bool) : (s.gateSet p b).devTime = s.devTime := by
  rw [devTime, gateSet, setReg_time, devTime]

/-- GATE_ENABLE is no admin value. -/
theorem gateSet_adminAs (s : State) (p : Nat) (b : Bool) : (s.gateSet p b).AdminAs s p := fun u h5 _ =>
  SMap.get_set_ne _ (by unfold slotKey; omega)

theorem landGateEnable_closed (fwd : Option Nat) (hst : (s.shut p).st = .closed) (hcl : (s.clp (p / 64)).st = .opened) :
    s.landGateEnable p true fwd = (s.gateSet p true).openShutter p fwd := by
  have hst' : ((s.gateSet p true).shut p).st = .closed := (gateSet_shut ..).symm ▸ hst
  unfold landGateEnable
  rw [← gateSet]
  simp only [hst']
  exact if_pos ((gateSet_clp ..).symm ▸ hcl)

theorem landGateEnable_opening (hst : (s.shut p).st = .opening) :
    s.landGateEnable p false none = (s.gateSet p false).closeShutter p true := by
  have hst' : ((s.gateSet p false).shut p).st = .opening := (gateSet_shut ..).symm ▸ hst
  unfold landGateEnable
  rw [← gateSet]
  simp only [hst']

/-- The function without its pending swap and without an extension of its cycle, which then ends at its own end (R335). -/
def State.swapDropped (s : State) (p : Nat) : State :=
  s.setShut p { s.shut p with oper := (s.shut p).oper.map fun l => { l with lastCycle := none }, pend := none, given := none }

theorem landGateEnable_opened (hst : (s.shut p).st = .opened) :
    s.landGateEnable p false none = ((s.gateSet p false).swapDropped p).setShut p { ((s.gateSet p false).swapDropped p).shut p with
      st := .closing, closeAt := ((s.gateSet p false).swapDropped p).closeTime p, reopen := false } := by
  have hst' : ((s.gateSet p false).shut p).st = .opened := (gateSet_shut ..).symm ▸ hst
  unfold landGateEnable
  rw [← gateSet]
  simp only [swapDropped, hst']

theorem landConfigChange_none (h : (s.shut p).pend = none) : s.landConfigChange p none = s.requestSwap p s.devTime none := by
  unfold landConfigChange
  simp only [h]

theorem landConfigChange_held (h : (s.shut p).pend = some w) (hw : w.latched.isSome = true ∨ w.start ≤ s.devTime) :
    s.landConfigChange p none = s.setShut p { s.shut p with pend := some { w with held := true }, given := none } := by
  have hlate : ¬(w.latched.isNone && ((none : Option Nat).isSome || decide (s.devTime < w.start))) = true := by
    rcases hw with hw | hw
    · obtain ⟨l, hl⟩ := Option.isSome_iff_exists.mp hw
      simp [hl]
    · simp [hw]
  unfold landConfigChange
  simp only [h]
  exact if_neg hlate

theorem landConfigChange_early (h : (s.shut p).pend = some w) (hl : w.latched = none) (hw : s.devTime < w.start) :
    s.landConfigChange p none = s.requestSwap p s.devTime none := by
  unfold landConfigChange
  simp only [h]
  exact if_pos (by simp [hl, hw])

/-- The answer to a write of GATE_ENABLE. -/
theorem answers_gateEnable {b : Bool} (hp : p < 1024) (hr : s.Ready) (hdict : ((s.elapse dt).landGateEnable p b none).dict = s.dict)
    (hq : ∀ t : State, t.shut p = ((s.elapse dt).landGateEnable p b none).shut p → q t) :
    AnswersSettled (s.masterWrite dt m (0x1400 + p) 1 (Word.ofBool b)) q := by
  have hact : (s.elapse dt).actGate p 1 (Word.ofBool b) none = (s.elapse dt).landGateEnable p b none := by cases b <;> rfl
  have h := @answers_gate s p (Word.ofBool b) (rwObj 1 "GATE_ENABLE" .bool) dt m q (gateWrite_enable hp b) hr
  have hsub : (rwObj 1 "GATE_ENABLE" .bool).sub = 1 := rfl
  rw [hsub, hact] at h
  exact h rfl hdict fun t ht => hq t (shut_of_shutters ht p)

/-- The answer to a CONFIG_CHANGE that is not refused. -/
theorem answers_configChange (hp : p < 1024) (hr : s.Ready) (hst : (s.shut p).st = .opening ∨ (s.shut p).st = .opened)
    (hdict : ((s.elapse dt).landConfigChange p none).dict = s.dict)
    (hq : ∀ t : State, t.shut p = ((s.elapse dt).landConfigChange p none).shut p → q t) :
    AnswersSettled (s.masterWrite dt m (0x1400 + p) 0x0A 1) q := by
  have hok : (s.elapse dt).configChangeOk p = true := by rcases hst with h | h <;> simp [configChangeOk, h]
  have hact : (s.elapse dt).actGate p 0x0A 1 none = (s.elapse dt).landConfigChange p none := rfl
  have h := @answers_gate s p 1 (woObj 0x0A "CONFIG_CHANGE" .strobe) dt m q (gateWrite_change hp) hr
  have hsub : (woObj 0x0A "CONFIG_CHANGE" .strobe).sub = 0x0A := rfl
  rw [hsub, hact] at h
  exact h (by simp [objCond, hok]) hdict fun t ht => hq t (shut_of_shutters ht p)

/-- A CONFIG_CHANGE that is taken anew: no swap is pending, or the commit cycle of the one pending has not started. -/
theorem configChange_asks (hp : p < 1024) (hr : s.Ready) (hst : (s.shut p).st = .opening ∨ (s.shut p).st = .opened)
    (h : (s.elapse dt).landConfigChange p none = (s.elapse dt).requestSwap p (s.elapse dt).devTime none) :
    AnswersSettled (s.masterWrite dt m (0x1400 + p) 0x0A 1) fun t => (t.shut p).pend =
      some ((s.elapse dt).newSwap p (s.elapse dt).devTime (if (s.shut p).st = .opened then (s.shut p).oper else none)) := by
  refine answers_configChange hp hr hst (by rw [h]; rfl) fun t ht => ?_
  rw [ht, h, requestSwap_pend, elapse_shut]

/-! ### A CONFIG_CHANGE that is refused (R335, R557) -/

theorem refuse_shutters (s : State) (via : Transport) (idx sub code : Nat) : (s.refuse via idx sub code).shutters = s.shutters := by
  unfold refuse
  extract_lets u w
  exact (raiseOnce_alike (.refl _)).shutters.trans (bump_shutters ..)

theorem ctr_record (s : State) (w : Word) (i u : Nat) : State.ctr { s with dict := { s.dict with lastRefusal := w } } i u = s.ctr i u := rfl

theorem refuse_counts (s : State) (via : Transport) (idx sub code : Nat) :
    (s.refuse via idx sub code).ctr 0x0200 0x0E = s.ctr 0x0200 0x0E + 1 := by
  unfold refuse
  extract_lets u w
  have hu : u.ctr 0x0200 0x0E = s.ctr 0x0200 0x0E + 1 := ctr_bumpRow s 0x0200 0x0E 0 1
  rw [raiseOnce_ctr _ _ _ _ _ _ (by decide) (by decide) (by decide) (by decide), ctr_record, hu]

theorem configChange_refused (hp : p < 1024) (hr : s.Ready) (hst : (s.shut p).st = .closed ∨ (s.shut p).st = .closing) :
    AnswersSettled (s.masterWrite dt m (0x1400 + p) 0x0A 1) fun t => t.shutters = s.shutters ∧ t.ctr 0x0200 0x0E = s.ctr 0x0200 0x0E + 1 := by
  have hok : (s.elapse dt).configChangeOk p = false := by rcases hst with h | h <;> simp [configChangeOk, h]
  have hland (t : Word) : (s.elapse dt).landOne [] ⟨m.transport, .obj (0x1400 + p) 0x0A 1, t⟩ =
      (s.elapse dt).refuse m.transport (0x1400 + p) 0x0A rRANGE := by
    have ho : (objsOf (.portGate p)).find? (fun i => i.sub == 0x0A) = some (woObj 0x0A "CONFIG_CHANGE" .strobe) := rfl
    have hobj : (s.elapse dt).landObj m.transport [] (0x1400 + p) 0x0A 1 none = (rRANGE, s.elapse dt) := by
      unfold landObj
      simp only [classify_gate hp, objInfo_of (classify_gate hp), ho]
      rw [if_neg (by simp [woObj]), if_pos (by simp [objCond, storedAs, hok])]
    unfold landOne
    simp only [hobj]
    exact if_neg (by decide)
  have hwrite := write_gate (via := m.transport) (gateWrite_change hp) (elapse_ready s dt hr)
  rw [show (woObj 0x0A "CONFIG_CHANGE" .strobe).sub = 0x0A from rfl, hland] at hwrite
  exact masterWrite_done hr.1 hwrite ((refuse_landing ..).trans hr.2.1) ⟨refuse_shutters .., refuse_counts ..⟩

end

/-- Settles O24: the writes land in the step that accepts them; the latch leaves a standby's swap to the mark (log 43) and else takes the
admin list or refuses it; a CONFIG_CHANGE that a refused or made swap held asks for the next. -/
theorem shutterSwaps : Obligations.ShutterSwaps := by
  refine ⟨?opens, ?ends, ?closes, ?asks, ?holds, ?again, ?refused, ?standby, ?latches, ?bad, ?swaps⟩
  case opens =>
    intro dt via p s hr hp hst hcl
    have h := landGateEnable_closed (s := s.elapse dt) none hst hcl
    refine answers_gateEnable (b := true) hp hr (by rw [h, openShutter_dict, gateSet_dict]; rfl) fun t ht => ?_
    rw [ht, h, ← newSwap_congr (gateSet_adminAs (s.elapse dt) p true), ← gateSet_devTime (s.elapse dt) p true]
    exact openShutter_opens ..
  case ends =>
    intro dt via p s hr hp hst
    have h := landGateEnable_opening (s := s.elapse dt) hst
    have hopen : (((s.elapse dt).gateSet p false).shut p).st ≠ .closed := by rw [gateSet_shut, elapse_shut, hst]; decide
    obtain ⟨hclosed, -, hcause⟩ := closeShutter_closes hopen
    refine answers_gateEnable (b := false) hp hr (by rw [h, closeShutter_dict, gateSet_dict]; rfl) fun t ht => ?_
    rw [ht, h, hcause]
    exact ⟨hclosed, bit_setBit_self _ 7 (by decide)⟩
  case closes =>
    intro dt via p l s hr hp hst hl
    have h := landGateEnable_opened (s := s.elapse dt) hst
    have hdrop : (((s.elapse dt).gateSet p false).swapDropped p).shut p =
        { s.shut p with oper := some { l with lastCycle := none }, pend := none, given := none } := by
      rw [swapDropped, shut_setShut, gateSet_shut, elapse_shut, hl]
      rfl
    refine answers_gateEnable (b := false) hp hr (by rw [h, setShut_dict, swapDropped, setShut_dict, gateSet_dict]; rfl) fun t ht => ?_
    have htime : (((s.elapse dt).gateSet p false).swapDropped p).devTime = (s.elapse dt).devTime := by
      rw [devTime, swapDropped, setShut_time, ← devTime, gateSet_devTime]
    rw [ht, h, shut_setShut, closeTime, hdrop, htime]
    exact ⟨rfl, rfl, rfl⟩
  case asks =>
    intro dt via p s hr hp hst hnone
    have h := landConfigChange_none (s := s.elapse dt) hnone
    change AnswersSettled (s.masterWrite dt via (0x1400 + p) 0x0A 1) _
    refine answers_configChange hp hr (.inr hst) (by rw [h]; rfl) fun t ht => ?_
    have hpend := requestSwap_pend (s.elapse dt) p (s.elapse dt).devTime
    rw [if_pos (show ((s.elapse dt).shut p).st = .opened from hst)] at hpend
    rw [ht, h, Shutter.changeShown, hpend]
    exact ⟨rfl, rfl⟩
  case holds =>
    intro dt via p w s hr hp hst hw hlate
    have h := landConfigChange_held (s := s.elapse dt) hw hlate
    change AnswersSettled (s.masterWrite dt via (0x1400 + p) 0x0A 1) _
    refine answers_configChange hp hr hst (by rw [h]; rfl) fun t ht => ?_
    rw [ht, h, shut_setShut]
  case again =>
    intro dt via p w s hr hp hst hw hl hearly
    exact configChange_asks hp hr hst (landConfigChange_early (s := s.elapse dt) hw hl hearly)
  case refused =>
    intro dt via p s hr hp hst
    exact configChange_refused hp hr hst
  case standby =>
    intro dt p w upset s hw hrole
    exact ⟨_, execSwapLatch_waits dt upset hw (by simp [waitsMark, hrole]), rfl⟩
  case latches =>
    intro dt p w s hw hl hm hq ht hrows
    change AnswersSettled (execSwapLatch dt p none s) _
    rw [execSwapLatch_acts dt hw hl hm hq ht]
    exact answersSettled ⟨_, latchSwap_latches (s := s.elapse dt) hw hl hrows, rfl, rfl, rfl, rfl⟩
  case bad =>
    intro dt p w r s hw hl hm hq ht hr hbad
    change AnswersSettled (execSwapLatch dt p none s) _
    rw [execSwapLatch_acts dt hw hl hm hq ht]
    exact answersSettled (latchSwap_refuses (s := s.elapse dt) hw hl (badAdmin_iff.mpr ⟨r, hr, hbad⟩))
  case swaps =>
    intro dt p w l s hw hl hq ht
    obtain ⟨o, pend, given, h, ho, hplain, hheld⟩ := makeSwap_lasting (s := s.elapse dt) hw hl
    have hcause : (((s.elapse dt).makeSwap p).shut p).cause = (s.shut p).cause.setBit 0 true := congrArg Shutter.cause h
    have hcount := makeSwap_ctr (s := s.elapse dt) hw hl
    have hlist : o.entries = l.entries ∧ o.g = l.g ∧ o.num = l.num ∧ o.den = l.den ∧ o.base = l.base ∧ o.first = l.first ∧
        o.hold0 = (!l.entries.isEmpty && (s.elapse dt).listHold p (w.tc - 1)) ∧
        o.maxWin = (List.range 8).map fun n => { l with hold0 := o.hold0 }.maxWindow n (s.shutExpress p n) (s.regN (0x1400 + p) 0x1A) := by
      rcases ho with rfl | rfl <;> exact ⟨rfl, rfl, rfl, rfl, rfl, rfl, rfl, rfl⟩
    obtain ⟨hentries, hg, hnum, hden, hbase, hfirst, hhold, hmax⟩ := hlist
    change Answers (execShutterSwap dt p s) _
    rw [execShutterSwap_swaps dt hw hq ht]
    refine answers_next ⟨⟨o, congrArg Shutter.oper h, hentries, hg, hnum, hden, hbase, hfirst, hhold, hmax, fun hw hgiven hst =>
      (congrArg Shutter.pend h).trans (hheld hw hgiven hst)⟩, fun hw => (congrArg Shutter.pend h).trans (hplain hw),
      congrArg Shutter.changeTime h, ?_, fun hst => (congrArg Shutter.st h).trans (if_pos hst), hcount⟩
    rw [hcause]
    exact bit_setBit_self _ 0 (by decide)

end Sys2Proof.Machine
end

