-- ==== Sys2Proof/Proofs/ShutterCycles.lean ====
section
namespace Sys2Proof.Machine
open State

section
variable {s : State} {p : Nat} {l : ShutterList}

/-! ### The entry in force (R324) -/

/-- What the engine puts in force of a running list that is on its grid. -/
theorem shutRefresh_runs (hst : (s.shut p).st = .opened) (hl : (s.shut p).oper = some l) (hra : (s.shut p).realign = none) :
    ((s.shutRefresh p).shut p).gates = l.gatesAt none s.devTime ∧ ((s.shutRefresh p).shut p).cycle = (l.pos none s.devTime).1 := by
  unfold shutRefresh
  dsimp only
  rw [if_neg (by simp [hst]), hl]
  dsimp only
  obtain ⟨ds, h⟩ := openDigest_shut _ p _ _
  rw [h, shut_setShut, shut_setShut, hra]
  exact ⟨rfl, rfl⟩

/-! ### An unreadable entry (R352) -/

theorem shutterEcc_closes (entry : Nat) (hst : (s.shut p).st ≠ .closed) :
    ((s.shutterEcc p entry true).shut p).st = .closed ∧ ((s.shutterEcc p entry true).shut p).oper = none ∧
    ((s.shutterEcc p entry true).shut p).cause.bit 6 = true := by
  unfold shutterEcc
  extract_lets c row q u v
  have hv : v.shut p = s.shut p :=
    shut_of_shutters ((raiseOnce_alike (.refl _)).shutters.trans (bump_shutters ..)) p
  have hcause := shutCause_shut v p 6
  obtain ⟨hclosed, hoper, hall⟩ := closeShutter_closes (s := v.shutCause p 6) (p := p) (by rw [hcause, hv]; exact hst)
  rw [if_pos rfl]
  refine ⟨hclosed, hoper, ?_⟩
  rw [hall, hcause]
  exact bit_setBit_of 7 (bit_setBit_self _ 6 (by decide))

theorem closeShutter_ctr (s : State) (p : Nat) (cause : Bool) {i u : Nat} (hu : u < 256) (h5 : u ≠ 5) (h13 : u ≠ 0x13) :
    (s.closeShutter p cause).ctr i u = s.ctr i u := by
  unfold closeShutter
  dsimp only
  split
  · rfl
  split
  · exact shutCause_ctr _ _ _ hu h5 h13
  · rfl

theorem shutterEcc_counts (s : State) (p entry : Nat) :
    (s.shutterEcc p entry true).ctr (clIdx (p / 64) 6) 1 = s.ctr (clIdx (p / 64) 6) 1 + 1 := by
  unfold shutterEcc
  extract_lets c row q u v
  have hv : v.ctr (clIdx c 6) 1 = s.ctr (clIdx c 6) 1 + 1 :=
    (raiseOnce_ctr _ _ _ _ 1 0 (by decide) (by decide) (by decide) (by decide)).trans (ctr_bumpRow u ..)
  rw [if_pos rfl, closeShutter_ctr _ _ _ (by decide) (by decide) (by decide), shutCause_ctr _ _ _ (by decide) (by decide) (by decide)]
  exact hv

theorem shutterEntryChangeRes_upset (dt : Nat) (hq : s.queueRuns (p / 64) = true) (hl : (s.shut p).oper = some l) :
    shutterEntryChangeRes dt p true s = .next ((s.elapse dt).shutterEcc p (s.shut p).entry true) := by
  unfold shutterEntryChangeRes
  exact (if_neg (by simp [elapse_queueRuns, hq])).trans (if_pos (by simp [hl]))

theorem shutterEntryChangeRes_read (dt : Nat) (hq : s.queueRuns (p / 64) = true) :
    shutterEntryChangeRes dt p false s = .next ((s.elapse dt).shutRefresh p) := by
  unfold shutterEntryChangeRes
  exact (if_neg (by simp [elapse_queueRuns, hq])).trans (if_neg (by simp))

/-! ### The end of the last cycle of a CLOSING function (R334, R335) -/

theorem closeShutter_clp (s : State) (p c : Nat) (cause : Bool) : ((s.closeShutter p cause).clp c).st = (s.clp c).st := by
  unfold closeShutter
  dsimp only
  split
  · rfl
  split
  · exact shutCause_clp ..
  · rfl

/-- A function that opens is OPENING, whether its change time is forwarded or its own. -/
theorem openShutter_st (s : State) (p : Nat) (fwd : Option Nat) : ((s.openShutter p fwd).shut p).st = .opening := by
  unfold openShutter
  extract_lets u
  obtain ⟨w, h, -⟩ := requestSwap_shut (u.setShut p { u.shut p with
    st := .opening, oper := none, realign := none, reopen := false, cycle := 0, entry := 0 }) p u.devTime fwd
  rw [h, shut_setShut]

theorem execShutterCloseDone_closes (dt : Nat) (hst : (s.shut p).st = .closing) (hq : s.queueRuns (p / 64) = true)
    (ht : (s.shut p).closeAt ≤ (s.elapse dt).devTime) : execShutterCloseDone dt p s =
      .next (if (s.shut p).reopen then
        (((s.elapse dt).closeShutter p true).landGateEnable p true (s.shut p).given).tellSwap p 1
      else (s.elapse dt).closeShutter p true) := by
  unfold execShutterCloseDone
  exact if_pos ⟨hst, by rwa [elapse_queueRuns], ht⟩

/-! ### A digest that is due (R421, R443) -/

/-- The oldest digest of a port whose peer has sent none closes: the record, and what the twin is told of it. -/
theorem closeDigest_records {d : Digest} {rest : List Digest} (hd : (s.shut p).digests = d :: rest) (ht : d.closeAt ≤ s.devTime)
    (hpeer : ∀ e ∈ s.twin.peerRecs, e.port ≠ p) :
    (s.closeDigest p).shut p = { s.shut p with digests := rest, record := (d.cycle, d.sum, d.count) } := by
  have hfind (n : Nat) : s.twin.peerRecs.find? (fun e => e.port == p && e.cycle == n) = none :=
    List.find?_eq_none.mpr fun e he => by simp [hpeer e he]
  unfold closeDigest
  extract_lets q
  split
  next hnil => exact absurd (hd.symm.trans hnil) (by simp)
  next d' rest' hcons =>
    obtain ⟨rfl, rfl⟩ : d = d' ∧ rest = rest' := List.cons.inj (hd.symm.trans hcons)
    rw [if_neg (Nat.not_lt.mpr ht)]
    extract_lets u r peer now t v
    have hu : u.shut p = { s.shut p with digests := rest, record := (d.cycle, d.sum, d.count) } := shut_setShut ..
    have hv : v.shutters = u.shutters := by
      unfold v
      split
      · exact (hingeSend_alike (.refl _)).shutters
      · rfl
    have hnone : peer = none := hfind _
    split
    · exact hu
    · rw [hnone]
      exact (shut_of_shutters hv p).trans hu

end

/-- Settles O25: the engine's refresh, the close at an unreadable entry and at the end of the last cycle, and the record of a digest. -/
theorem shutterCycles : Obligations.ShutterCycles := by
  refine ⟨?entry, ?upset, ?closed, ?reopens, ?digest⟩
  case entry =>
    intro dt p l s hq hst hl hra
    have hlast := shutRefresh_lasting (s.elapse dt) p
    obtain ⟨hgates, hcycle⟩ := shutRefresh_runs (s := s.elapse dt) hst hl hra
    change AnswersSettled (settled (shutterEntryChangeRes dt p false s)) _
    rw [shutterEntryChangeRes_read dt hq]
    exact answersSettled ⟨hgates, hcycle, (congrArg Shutter.oper hlast).trans hl, (congrArg Shutter.st hlast).trans hst⟩
  case upset =>
    intro dt p l s hq hst hl
    have hopen : ((s.elapse dt).shut p).st ≠ .closed := fun e => FnState.noConfusion (hst.symm.trans e)
    obtain ⟨hclosed, hoper, hcause⟩ := shutterEcc_closes (s.shut p).entry hopen
    change AnswersSettled (settled (shutterEntryChangeRes dt p true s)) _
    rw [shutterEntryChangeRes_upset dt hq hl]
    exact answersSettled ⟨hclosed, hoper, hcause, shutterEcc_counts ..⟩
  case closed =>
    intro dt p s hst hq ht hre
    have hopen : ((s.elapse dt).shut p).st ≠ .closed := fun e => FnState.noConfusion (hst.symm.trans e)
    obtain ⟨hclosed, hoper, hcause⟩ := closeShutter_closes hopen
    change Answers (execShutterCloseDone dt p s) _
    rw [execShutterCloseDone_closes dt hst hq ht, if_neg (by simp [hre])]
    refine answers_next ⟨hclosed, hoper, ?_⟩
    rw [hcause]
    exact bit_setBit_self _ 7 (by decide)
  case reopens =>
    intro dt p s hst hq ht hre hcl
    have hopen : ((s.elapse dt).shut p).st ≠ .closed := fun e => FnState.noConfusion (hst.symm.trans e)
    obtain ⟨hclosed, -, -⟩ := closeShutter_closes hopen
    have hcl' : (((s.elapse dt).closeShutter p true).clp (p / 64)).st = .opened := (closeShutter_clp ..).trans hcl
    change Answers (execShutterCloseDone dt p s) _
    rw [execShutterCloseDone_closes dt hst hq ht, if_pos hre, landGateEnable_closed _ hclosed hcl']
    refine answers_next ?_
    rw [tellSwap_shut]
    exact openShutter_st ..
  case digest =>
    intro dt p d rest s hon hq hd ht hpeer
    have hruns : ((s.elapse dt).isOn domCalc && (s.elapse dt).queueRuns (p / 64)) = true := by simp [hon, hq, elapse_queueRuns]
    change AnswersSettled (execDigestClose dt p s) _
    unfold execDigestClose
    exact answersSettled_pos hruns (answersSettled (closeDigest_records (s := s.elapse dt) hd ht hpeer))

end Sys2Proof.Machine
end

