-- ==== Sys2Proof/Proofs/MirrorStream.lean ====
section
namespace Sys2Proof.Machine
open State

section
variable {s t : State} {path : Bool} {n : Nat}

/-! ### Acknowledgements (R437, R439) -/

/-- A message without a layout leaves on each of the paths, in order, as itself. -/
theorem foldl_pathSend_out {m : HingeMsg} (hm : hingePayload m = none) (bs : List Bool) (s : State) :
    (bs.foldl (fun s b => s.pathSend b m) s).out = s.out ++ bs.map fun b => .hinge b m none := by
  induction bs generalizing s with
  | nil => simp
  | cons b bs ih =>
    have hb : (s.pathSend b m).out = s.out ++ [.hinge b m none] := by
      have hw : ∀ q, hingeWire q m = none := fun q => by rw [hingeWire, hm]; rfl
      simp only [pathSend, hw]
      cases b <;> rfl
    rw [List.foldl_cons, ih, hb]
    simp

theorem hingeSend_out {m : HingeMsg} (hm : hingePayload m = none) (h : s.hingeRuns = true) :
    (s.hingeSend m).out = s.out ++ s.sendPaths.map fun b => .hinge b m none := by
  rw [hingeSend, if_pos h, foldl_pathSend_out hm]

/-! ### A message in its turn (R437) -/

/-- Message `n` of the stream arrives on `path` at a complex that follows the stream, has applied the one before it and holds none back. -/
structure State.InTurn (s : State) (path : Bool) (n : Nat) : Prop where
  takes : s.hingeTakes path = true
  role : s.twin.role ≠ .active ∧ s.twin.role ≠ .unadopted
  runs : s.dictRuns = true
  hold : s.twin.hold = []
  next : n = s.twin.seq + 1

theorem hingeTakes_elapse {dt : Nat} (h : s.hingeTakes path = true) : (s.elapse dt).hingeTakes path = true := by
  simpa [hingeTakes, pathUp, State.path] using h

theorem inTurn_elapse (dt : Nat) (ht : s.hingeTakes path = true) (hr : s.twin.role = .standby ∨ s.twin.role = .orphan ∨ s.twin.role = .demoted)
    (hd : s.dictRuns = true) (hh : s.twin.hold = []) (hn : n = s.twin.seq + 1) : (s.elapse dt).InTurn path n where
  takes := hingeTakes_elapse ht
  role := by rcases hr with h | h | h <;> simp [h]
  runs := by simpa [dictRuns] using hd
  hold := hh
  next := hn

/-- The number is taken; the message is about to be applied. -/
def State.turned (s : State) (n : Nat) : State := s.updTwin fun t => { t with seq := n, hold := [] }

theorem streamRx_inTurn (h : s.InTurn path n) (m : StreamMsg) : s.streamRx path true n m = (s.turned n).takeMsg m := by
  obtain ⟨ht, ⟨ha, hu⟩, hd, hh, hn⟩ := h
  have hstart : (if s.twin.seq = 0 ∧ s.twin.hold.isEmpty = true then s.updTwin fun t => { t with seq := n - 1 } else s) = s := by
    split
    · rw [hn, Nat.add_sub_cancel]
      rfl
    · rfl
  have hnew : ¬(n ≤ s.twin.seq ∨ (s.twin.hold.any fun e => e.1 == n) = true) := by rw [hh, hn]; simp
  have hruns : (s.updTwin fun t => { t with hold := t.hold ++ [(n, m)] }).dictRuns = true := hd
  unfold streamRx
  dsimp only
  rw [if_neg (by simp), if_neg (by simp [ht, ha, hu]), hstart, if_neg hnew, if_pos hruns]
  simp [updTwin, drainHold, hh, ← hn, turned]

/-! ### A write or an item (R91, R437) -/

/-- STATION_ADDR is accepted from the stream as from a master, whether or not it brings a new value, and goes no further. -/
theorem acceptObj_station (s : State) (p : Nat) {v : Word} (hv : v.toNat < 2 ^ 48) :
    s.acceptObj .hinge (.portMac p) (rwObj 0x0B "STATION_ADDR" (.octets 6)) (0x1000 + p) v none =
      (rOK, s.enqueue .hinge (.obj (0x1000 + p) 0x0B v)) := by
  have hfit : (ObjType.octets 6).fits v.toNat = true := decide_eq_true hv
  have hlate : landsAtOnce (0x1000 + p) 0x0B = false := by simp [landsAtOnce]
  have hk : 0x1000 + p ≠ 0x0600 := by omega
  unfold acceptObj
  simp [rwObj, hfit, hlate, hk, forwardObj, storedAs, objCond]

theorem acceptOp_station {p : Nat} {v : Word} (hp : p < 1024) (hv : v.toNat < 2 ^ 48) :
    s.acceptOp (.obj (0x1000 + p) 0x0B v none) = s.enqueue .hinge (.obj (0x1000 + p) 0x0B v) := by
  have ho : objInfo (0x1000 + p) 0x0B = some (rwObj 0x0B "STATION_ADDR" (.octets 6)) := objInfo_of (classify_mac hp)
  unfold acceptOp
  dsimp only
  rw [ho, classify_mac hp]
  dsimp only
  rw [acceptObj_station s p hv, if_pos rfl]

/-- It lands as the plain write of a port's register that it is. -/
theorem landOne_station (s : State) {p : Nat} (hp : p < 1024) (v k : Word) :
    s.landOne [] ⟨.hinge, .obj (0x1000 + p) 0x0B v, k⟩ = s.setPortReg (0x1000 + p) 0x0B v := by
  have hland : s.landObj .hinge [] (0x1000 + p) 0x0B v none = (rOK, s.setPortReg (0x1000 + p) 0x0B v) := by
    unfold landObj
    rw [objInfo_of (classify_mac hp), classify_mac hp]
    rfl
  unfold landOne
  dsimp only
  rw [hland, if_pos rfl]

theorem notePast_twin (s : State) (row : Bool) (key : Nat) (old new : Word) : (s.notePast row key old new).twin = s.twin := by
  unfold notePast
  split
  · rfl
  · rfl

theorem setPortReg_twin (s : State) (idx sub : Nat) (v : Word) : (s.setPortReg idx sub v).twin = s.twin := by
  rw [setPortReg, setReg_twin, notePast_twin]

theorem setPortReg_reg (s : State) (idx sub : Nat) (v : Word) : (s.setPortReg idx sub v).reg idx sub = v := reg_setReg ..

theorem applyOp_station {p : Nat} {v : Word} (hp : p < 1024) (hv : v.toNat < 2 ^ 48) (hl : s.dict.landing = []) :
    (s.applyOp (.obj (0x1000 + p) 0x0B v none)).twin = s.twin ∧ (s.applyOp (.obj (0x1000 + p) 0x0B v none)).reg (0x1000 + p) 0x0B = v := by
  have hq : (s.enqueue .hinge (.obj (0x1000 + p) 0x0B v)).dict.landing = [⟨.hinge, .obj (0x1000 + p) 0x0B v, s.time.ticks⟩] := by
    simp [enqueue, hl]
  rw [applyOp, acceptOp_station hp hv, landWrites_one hq (by omega), landOne_station _ hp]
  exact ⟨setPortReg_twin .., setPortReg_reg ..⟩

/-! ### A latch mark (R350) -/

/-- A complex that is not ACTIVE latches or refuses the swap without a word to its twin. -/
theorem latchSwap_twin {p : Nat} {w : Swap} (hr : s.twin.role ≠ .active) (hw : (s.shut p).pend = some w) (hl : w.latched = none) :
    (s.latchSwap p).twin = s.twin := by
  have href : (s.swapRefused p).twin = s.twin := shutCause_twin ..
  rw [latchSwap_eq hw hl ((streamSend_shadow _ hr).trans (said_self s)), ← said_self]
  split
  · split
    · have hreq : ((s.swapRefused p).requestSwap p (s.swapRefused p).devTime (s.shut p).given).twin = s.twin :=
        Eq.trans (by unfold requestSwap; rfl) href
      rw [tellSwap_shadow, hreq]
      rwa [hreq]
    · exact href
  · rfl

/-- A mark in time latches the list, a late one drops the swap with its cause. -/
theorem takeMark_takes {p tc : Nat} {w : Swap} (hr : s.twin.role ≠ .active) (hw : (s.shut p).pend = some w) (hl : w.latched = none) :
    (s.takeMark p tc).twin = s.twin ∧
    (s.devTime + 2 ^ 19 ≤ tc → s.takeMark p tc = s.latchSwap p) ∧
    (tc < s.devTime + 2 ^ 19 → ((s.takeMark p tc).shut p).pend = none ∧ ((s.takeMark p tc).shut p).cause.bit 1 = true) := by
  have hmark : s.takeMark p tc =
      if s.devTime + 2 ^ 19 ≤ tc then s.latchSwap p else (s.setShut p { s.shut p with pend := none }).shutCause p 1 := by
    simp [takeMark, hw, hl]
  rw [hmark]
  by_cases ht : s.devTime + 2 ^ 19 ≤ tc
  · rw [if_pos ht]
    exact ⟨latchSwap_twin hr hw hl, fun _ => rfl, fun h => absurd ht (Nat.not_le.mpr h)⟩
  · rw [if_neg ht, shutCause_twin, shutCause_shut, shut_setShut]
    exact ⟨rfl, fun h => absurd h ht, fun _ => ⟨rfl, bit_setBit_self _ 1 (by decide)⟩⟩

/-! ### A digest mark (R440, R441) -/

/-- The configuration digest is a value of the registers, the rows, the receiving clusters and the key slots. -/
theorem configDigest_congr (hregs : t.regs = s.regs) (hrows : t.rows = s.rows) (hrx : t.clusterRx = s.clusterRx) (hkeys : t.keys = s.keys) :
    t.configDigest = s.configDigest := by
  cases s
  cases t
  subst hregs hrows hrx hkeys
  rfl

/-- With nothing on its way the stream's digest is that of the configuration. -/
theorem streamDigest_landed (hl : s.dict.landing = []) : s.streamDigest = s.configDigest := by
  unfold streamDigest
  rw [hl]
  exact configDigest_congr rfl rfl rfl rfl

theorem raiseOnce_twin_plain {e d : Nat} (he : isEccSource e = false) : (s.raiseOnce e d).twin = s.twin := by
  unfold raiseOnce noteEcc
  simp only [he, Bool.false_eq_true, if_false]
  split
  · rfl
  · exact raise_twin ..

/-- Following the peer moves at most the role and the swing's pins. -/
theorem settleStep_twin (s : State) : s.settleStep.twin = s.twin ∨ ∃ r, s.settleStep.twin = s.twin.withRole r := by
  unfold settleStep
  split
  next h =>
    split
    · exact .inr ⟨_, setRole_twin s _ (by simp [h])⟩
    · exact .inl rfl
  next h =>
    split
    · exact .inl rfl
    · exact .inr ⟨_, setRole_twin s _ (by simp [h])⟩
  next => exact .inl rfl

theorem takeDigest_compares (d : Word) (final : Bool) (hl : s.dict.landing = []) :
    (s.takeDigest d final).twin.seq = s.twin.seq ∧ (s.takeDigest d final).twin.peerDigest = d ∧
    (s.takeDigest d final).twin.diverged = (s.configDigest != d) ∧ (s.takeDigest d final).twin.marked = (s.configDigest == d) := by
  unfold takeDigest
  extract_lets same ends again u v w
  have hsame : same = (s.configDigest == d) := by rw [← streamDigest_landed hl]
  clear_value same ends again
  have hv : v.twin = u.twin := by
    unfold v
    split
    · exact raiseOnce_twin_plain (by decide)
    · rfl
  have hw : w.twin = u.twin := by
    unfold w
    split
    · exact (raiseOnce_twin_plain (by decide)).trans hv
    · exact hv
  have hu : u.twin.seq = s.twin.seq ∧ u.twin.peerDigest = d ∧ u.twin.diverged = !same ∧ u.twin.marked = same := ⟨rfl, rfl, rfl, rfl⟩
  rw [show (s.configDigest != d) = !same by rw [hsame, bne], ← hsame]
  rw [← hw] at hu
  rcases settleStep_twin w with h | ⟨r, h⟩ <;> rw [h] <;> exact hu

/-! ### A resync (R442) -/

/-- An item leaves the state of the resync alone. -/
theorem streamSend_item_resync (s : State) (op : MirrorOp) : (s.streamSend (.item op)).twin.resync = s.twin.resync := by
  obtain ⟨x, hx⟩ := streamSend_said_unwritten s (m := .item op) nofun
  rw [hx]
  rfl

theorem foldl_resync {α : Type} {f : State → α → State} (hf : ∀ s a, (f s a).twin.resync = s.twin.resync) (l : List α) (s : State) :
    (l.foldl f s).twin.resync = s.twin.resync := by
  induction l generalizing s with
  | nil => rfl
  | cons a l ih => rw [List.foldl_cons, ih, hf]

theorem keyItem_twin (s : State) (c r : Nat) : (s.keyItem c r).2.twin = s.twin := by
  unfold keyItem
  split
  · rfl
  · dsimp only
    unfold hingeWrap
    split <;> rfl

theorem streamSend_key_resync (s : State) (c r : Nat) :
    ((s.keyItem c r).2.streamSend (.item (s.keyItem c r).1)).twin.resync = s.twin.resync := by
  rw [streamSend_item_resync, keyItem_twin]

theorem syncIndex_resync (s : State) (idx : Nat) : (s.syncIndex idx).twin.resync = s.twin.resync := by
  have hitems (l : List MirrorOp) : (l.foldl (fun s op => s.streamSend (.item op)) s).twin.resync = s.twin.resync :=
    foldl_resync streamSend_item_resync l s
  unfold syncIndex
  split
  next c t _ =>
    split
    · apply foldl_resync
      intro s r
      exact streamSend_key_resync s c r
    · exact hitems _
  · exact hitems _
  · rfl

theorem startResync_sends (h : s.twin.role = .active) : s.startResync.twin.resync = .sending := by
  unfold startResync
  split
  next hs => exact hs.resolve_left (not_not_intro h)
  next =>
    refine (foldl_resync (fun s g => ?_) ..).trans rfl
    split
    · exact foldl_resync syncIndex_resync _ s
    · rfl

theorem endResync_idles (h : s.twin.role = .active) (hs : s.twin.resync = .sending) :
    s.endResync.twin.resync = .idle ∧ s.endResync.twin.lost = false := by
  unfold endResync
  rw [if_neg (by simp [h, hs])]
  exact ⟨rfl, rfl⟩

end

/-- Settles O44. Of the receiving side: each message comes in its turn (`streamRx_inTurn`) and is applied in the step that takes it (log 64),
without a word to the twin; a resync only adds items to the stream, which leave its own state alone. -/
theorem mirrorStream : Obligations.MirrorStream := by
  refine ⟨?ackSent, ?acked, ?write, ?latchMark, ?digestMark, ?resync, ?complete⟩
  case ackSent =>
    intro dt s hrun ha hu hnew hpaths
    have hrun' : (s.elapse dt).hingeRuns = true := by simpa using hrun
    change Answers (execMirrorAckTx dt s) _
    unfold execMirrorAckTx
    extract_lets u t now_
    have hpaths' : u.sendPaths.isEmpty = false := List.isEmpty_eq_false_iff.mpr hpaths
    refine answers_neg (by simp [u, t, ha, hu, hnew, hrun', hpaths']) (answers_next ⟨?_, ?_⟩)
    · obtain ⟨x, hx⟩ := hingeSend_said (u.updTwin fun t => { t with ackSent := t.seq, ackAt := now_ }) (.mirrorAck t.seq)
      rw [hx]
      rfl
    · exact hingeSend_out rfl hrun'
  case acked =>
    intro dt path n s ht hr hsent hold
    have ht' : (s.elapse dt).hingeTakes path = true := hingeTakes_elapse ht
    change Answers (execMirrorAckRx dt path true n s) _
    unfold execMirrorAckRx
    dsimp only
    refine answers_neg (by simp) (answers_neg (by simp [ht', hr]) (answers_next ⟨?_, fun e => ?_⟩))
    · change max s.twin.acked (min n s.twin.seq) = n
      omega
    · simp [updTwin]
  case write =>
    intro dt path p v n s ht hr hd hl hh hn hp hv
    have h := inTurn_elapse dt ht hr hd hh hn
    constructor
    · obtain ⟨htwin, hreg⟩ := applyOp_station (s := (s.elapse dt).turned n) hp hv hl
      change AnswersSettled (execMirrorRx dt path true n _ s) _
      rw [execMirrorRx, streamRx_inTurn h]
      exact answersSettled ⟨congrArg TwinUnit.seq htwin, hreg, congrArg TwinUnit.hold htwin⟩
    · obtain ⟨htwin, hreg⟩ := applyOp_station (s := ((s.elapse dt).turned n).updTwin fun t => { t with resync := .receiving }) hp hv hl
      change AnswersSettled (execResyncItemRx dt path true n _ s) _
      rw [execResyncItemRx, streamRx_inTurn h]
      exact answersSettled ⟨congrArg TwinUnit.seq htwin, hreg, congrArg TwinUnit.resync htwin⟩
  case latchMark =>
    intro dt path p tc n w s ht hr hd hh hn hw hl
    have h := inTurn_elapse dt ht hr hd hh hn
    have hw' : (((s.elapse dt).turned n).shut p).pend = some w := hw
    obtain ⟨htwin, hintime, hlate⟩ := takeMark_takes (s := (s.elapse dt).turned n) (tc := tc) h.role.1 hw' hl
    change AnswersSettled (execLatchMarkRx dt path true n p tc s) _
    rw [execLatchMarkRx, streamRx_inTurn h]
    refine answersSettled ⟨congrArg TwinUnit.seq htwin, fun htc hrows => ⟨((s.elapse dt).turned n).latchedList p w, ?_, rfl⟩, hlate⟩
    exact (congrArg (fun t : State => (t.shut p).pend) (hintime htc)).trans (latchSwap_latches hw' hl hrows)
  case digestMark =>
    intro dt path n d final s ht hr hd hl hh hn
    have h := inTurn_elapse dt ht hr hd hh hn
    have hdig : ((s.elapse dt).turned n).configDigest = s.configDigest := configDigest_congr rfl rfl rfl rfl
    change AnswersSettled (execDigestMarkRx dt path true n d final s) _
    rw [execDigestMarkRx, streamRx_inTurn h, ← hdig]
    exact answersSettled (takeDigest_compares (s := (s.elapse dt).turned n) d final hl)
  case resync =>
    intro dt via s hready hr
    refine answers_write (ix := .twin) (o := woObj 0x14 "RESYNC" .strobe) dt via hready (by decide) rfl (by decide) rfl ?_ fun x _ => ?_
    · exact takes_strobe "RESYNC" (fun _ _ h => Ix.noConfusion h) (by decide) (by decide) rfl fun _ => rfl
    · rw [objEffect_plain _ _ _ (by decide)]
      exact startResync_sends (s := (s.elapse dt).said x) hr
  case complete =>
    intro dt s hr hs
    exact answers_next (endResync_idles (s := s.elapse dt) hr hs)

end Sys2Proof.Machine
end
